-- ==== Sys2Proof/Word.lean ====
section
/-! DEFINITION. Word types and the index types of the block (partitions, cores, engines, ports, mailboxes). -/

namespace Sys2Proof

/-- One byte. -/
abbrev Byte := BitVec 8
/-- One 32-bit register or memory word. -/
abbrev W32 := BitVec 32
/-- One 64-bit value (timestamps, external time, seeds). -/
abbrev W64 := BitVec 64
/-- A 16-bit value (ring counts, initiator IDs). -/
abbrev W16 := BitVec 16

/-- A partition number, 0 to 63 (R429). -/
abbrev PartId := Fin 64
/-- A physical core number, 0 to 63 (R4, R26). -/
abbrev CoreId := Fin 64
/-- An engine of a core, 0 to 7 (R27). -/
abbrev EngId := Fin 8
/-- A task context of a core, 0 to 1,023 (R168). -/
abbrev CtxId := Fin 1024
/-- A fabric port, 0 to 5 (R336). -/
abbrev FabPort := Fin 6
/-- A fabric device ID, 10 bits (R352). -/
abbrev DevId := Fin 1024
/-- A mailbox to Rennet: 0 to 63 the host partitions (R423), 64 the array controller, 65 the management port (R655). -/
abbrev MbxId := Fin 66

/-- A sparse table: pairs of index and value, an unlisted index holding a default that its reader names. -/
abbrev Tbl (α : Type) := List (Nat × α)

end Sys2Proof
end

