-- ==== Sys2Proof/Syntax.lean ====
section
/-! DEFINITION. The commands of the block: one constructor of `Instr` per row of spec/opcode_table.json, with the data the row's event carries. -/

namespace Sys2Proof

/-- One write-data beat of the host target port (R626): data, byte mask, end flag and parity. -/
structure WriteBeat where
  data : BitVec 128
  mask : W16
  last : Bool
  par  : BitVec 5
  deriving DecidableEq, Repr

/-- One read-response beat of a memory port (R626): data, tag ([7:0] ID, [9:8] RC, [10] END) and parity. -/
structure ReadBeat where
  data : BitVec 1024
  tag  : BitVec 11
  par  : BitVec 33
  deriving DecidableEq, Repr

/-- A response on a memory port (R635): the beats of a read, or a write's tag with its parity bit. -/
inductive MemRsp where
  | read (beats : List ReadBeat)
  | write (tag : BitVec 10) (par : Bool)
  deriving DecidableEq, Repr

/-- The Tved ports of R637. -/
inductive TvedPort where
  | host
  | memory (c : CoreId)
  | interrupt
  deriving DecidableEq, Repr

/-- What checks of the tile found (R98, R152): a residue mismatch, a score-buffer parity error, a correctable or an uncorrectable T0 error, or nothing. -/
inductive TileFault where
  | none | residue | scoreParity | eccCorr | eccUncorr
  deriving DecidableEq, Repr

/-- Where an ECC error lies (R562, R566). -/
inductive EccPlace where
  | t0 (c : CoreId) (e : EngId)
  | t1 (p : PartId) (block : Nat)
  | t2 (p : PartId) (block : Nat)
  | streamRing (s : Fin 24)
  | ctlSram | flcSram | sproutSram
  | checkStore (c : CoreId) (e : EngId)
  deriving DecidableEq, Repr

/-- A signal message on the on-chip network (R164, R187): target context and counter, the graph it belongs to, and its tag. -/
structure SignalMsg where
  ctx     : CtxId
  counter : Fin 8
  graph   : W32
  runNo   : Nat
  ptag    : PartId
  init    : W16
  deriving DecidableEq, Repr

/-- The initiator of a register access: its ID and the partition tag that its transfer carries (R429, R437, R679). -/
structure Requester where
  init : W16
  tag  : BitVec 6
  deriving DecidableEq, Repr

/-- What a probe round found for one engine (R583): it differed from the reference, and whether its repeat matched. -/
structure ProbeDiff where
  engine       : Nat
  repeatPassed : Bool
  majority     : Bool
  deriving DecidableEq, Repr

/-- Where an OTP operation came from: a ring command of a partition, or a mailbox message (R510, R519). -/
inductive OtpSource where
  | ring (p : PartId)
  | mailbox (m : MbxId)
  | startup
  deriving DecidableEq, Repr

/-- The transports of SPDM (R536). -/
inductive SpdmSource where
  | ring (p : PartId)
  | mailbox (p : PartId)
  | management
  | fabric (dev : DevId) (ptag : PartId)
  deriving DecidableEq, Repr

/-- What a requester offers in NEGOTIATE_ALGORITHMS (R537): each flag says whether the algorithm of R537 is among those offered. -/
structure SpdmAlgs where
  ecdsaP384 : Bool
  sha384    : Bool
  secp384r1 : Bool
  aes256Gcm : Bool
  spdmKeySchedule : Bool
  dmtfMeas  : Bool
  deriving DecidableEq, Repr, Inhabited

/-- The claims of an evidence token that R543 reads, with the token's own bytes. -/
structure EvToken where
  raw     : List Byte
  nonce   : List Byte
  secboot : Bool
  dbgstat : Nat
  lifeCycle : BitVec 4
  integ   : Option (List Byte)
  serial  : BitVec 128
  deriving DecidableEq, Repr, Inhabited

/-- SET_OFFER of R542, step 2. -/
structure SetOffer where
  token    : EvToken
  kemKey   : List Byte
  ecPub    : List Byte
  nonce    : List Byte
  epoch    : W32
  deriving DecidableEq, Repr, Inhabited

/-- SET_KEY of R542, step 3. -/
structure SetKeyMsg where
  token   : EvToken
  epoch   : W32
  ecPub   : List Byte
  kemCt   : List Byte
  gcmNonce : List Byte
  wrapped : List Byte
  tag     : List Byte
  deriving DecidableEq, Repr, Inhabited

/-- A formation message (R542, R544). -/
inductive SetMsg where
  | hello (setId nonce : List Byte)
  | offer (o : SetOffer)
  | key (k : SetKeyMsg)
  | confirm (mac : List Byte)
  | done (setId : List Byte) (epoch : W32)
  | abort (setId : List Byte) (epoch : W32)
  deriving DecidableEq, Repr, Inhabited

/-- A request of R537 as the responder reads it; `other` is any request outside that set. -/
inductive SpdmReq where
  | getVersion
  | getCapabilities (version : Byte) (flags : W32)
  | negotiateAlgorithms (offer : SpdmAlgs)
  | getDigests
  | getCertificate (slot offset len : Nat)
  | challenge (slot : Nat) (nonce : List Byte)
  | getMeasurements (index : Nat) (signed : Bool) (nonce : List Byte)
  | keyExchange (slot : Nat) (exchange : List Byte)
  | finish (session : Nat) (verify : List Byte)
  | heartbeat (session : Nat)
  | keyUpdate (session : Nat)
  | endSession (session : Nat)
  | chunkGet (handle seq : Nat)
  | other
  deriving DecidableEq, Repr, Inhabited

/-- The ERROR codes with which the responder answers. -/
inductive SpdmErr where
  | invalidRequest | busy | unsupportedRequest | versionMismatch | invalidSession | decryptError | unspecified
  | largeResponse (handle : Nat)
  deriving DecidableEq, Repr

/-- The capabilities of R537 besides MEAS_CAP. -/
inductive SpdmCap where
  | cert | chal | measFresh | encrypt | mac | keyEx | hbeat | keyUpd | chunk
  deriving DecidableEq, Repr

/-- A measurement block (R538): its index, DMTF value type, whether the value is raw, and the value. -/
structure MeasBlock where
  index : Nat
  type  : Byte
  raw   : Bool
  value : List Byte
  deriving DecidableEq, Repr

/-- A response as R537 to R540 give it. -/
inductive SpdmRsp where
  | none
  | error (code : SpdmErr)
  | version (supported : List Byte)
  | capabilities (caps : List SpdmCap) (meas ctExponent : Nat)
  | algorithms (selected : SpdmAlgs)
  | digests (slots : List (Nat × List Byte))
  | certificate (slot : Nat) (data : List Byte) (remaining : Nat)
  | challengeAuth (slot : Nat) (chainDigest : List Byte) (sig : List Byte)
  | measurements (count : Nat) (blocks : List MeasBlock) (sig : Option (List Byte))
  | keyExchange (session : Nat) (random exchange sig : List Byte)
  | ack
  | chunk (handle seq : Nat) (data : List Byte) (last : Bool)
  deriving DecidableEq, Repr, Inhabited

/-- A time-sync exchange message (R215, R216): the offset to the parent it measures, in quarter ns (positive when this device is behind). -/
structure SyncMsg where
  src    : DevId
  sent   : W64
  recv   : W64
  reply  : W64
  now    : W64
  deriving DecidableEq, Repr

/-- One beat on a stream ingest port (R644). -/
structure StreamBeat where
  data : BitVec 256
  strm : Fin 8
  sof  : Bool
  eof  : Bool
  nb   : BitVec 5
  par  : BitVec 9
  deriving DecidableEq, Repr

/-- The outcome of the checks a fetched sector passes (R256, R270, R552, R558). -/
inductive FetchCheck where
  | ok | liveTagFail | treeTagFail (level2 : Bool) | sealedTagFail | errorResponse | flashUncorr
  deriving DecidableEq, Repr

/-- How an LDPC codeword was read (R291): by hard decoding, after read retries at 1 to 7 shifted levels, by soft decoding, with the bit errors found; or by no stage. -/
inductive Codeword where
  | hard (bitErrors : Nat) | retry (levels : Fin 7) (bitErrors : Nat) | soft (bitErrors : Nat) | uncorrectable
  deriving DecidableEq, Repr

/-- A flash page unit read: its four codewords (R289, R291). -/
structure FlashRead where
  c0 : Codeword
  c1 : Codeword
  c2 : Codeword
  c3 : Codeword
  deriving DecidableEq, Repr

/-- What the link partner and the bring-up gave (R339, R340): neighbour, its port, the rate and lane codes reached, and the capabilities of both ends. -/
structure LinkPeer where
  neigh     : DevId
  neighPort : FabPort
  rate      : BitVec 2
  lanes     : BitVec 2
  capRate   : BitVec 2
  capLanes  : BitVec 2
  deriving DecidableEq, Repr

/-- A 128-byte flit (R341): link header, frame bytes and CRC. -/
structure Flit where
  header : W64
  bytes  : List Byte
  crc    : W64
  deriving DecidableEq, Repr

/-- A BEACON or CLAIM frame (R353, R354): origin's ID, claim state, serial number, sequence number, core count, beat source and ID_FIXED. -/
structure BeaconMsg where
  dev     : DevId
  seq     : W32
  state   : BitVec 2
  serial  : BitVec 128
  cores   : Nat
  beatSrc : BitVec 2
  oldDev  : DevId
  deriving DecidableEq, Repr

/-- One link of an LSA (R356). -/
structure LsaLink where
  port      : FabPort
  neigh     : DevId
  neighPort : FabPort
  lanes     : BitVec 2
  rate      : BitVec 2
  sleep     : Bool
  deriving DecidableEq, Repr

/-- An LSA frame (R356). -/
structure LsaMsg where
  dev      : DevId
  seq      : W32
  sleeping : Bool
  links    : List LsaLink
  deriving DecidableEq, Repr

/-- A DIGEST frame (R579): job slot, interval index, the step's A, the value and COMPLETE. -/
structure DigestMsg where
  job      : Fin 16
  interval : W32
  a        : W64
  value    : W64
  complete : Bool
  deriving DecidableEq, Repr

/-- Activity counts of one core over a window (R605, R611). -/
structure CoreActivity where
  cadence   : Bool
  tileUnits : Nat
  convUnits : Nat
  cycles    : Nat
  matrixBusy : Nat
  vectorLanes : Nat
  sramAccesses : Nat
  moverBytes : Nat
  portReadBeats : Nat
  portBeats : Nat
  parts     : List PartId
  deriving DecidableEq, Repr

/-- A reading of the regulator (R609, R610): output voltage in mV, output power in mW, and whether STATUS_WORD shows a VOUT or IOUT fault. -/
structure RegReading where
  mv    : Nat
  mw    : Nat
  fault : Bool
  deriving DecidableEq, Repr

/-- The thermal sensors (R618): one per core, one per fixed-island domain. -/
inductive Sensor where
  | core (c : CoreId)
  | island (n : Fin 7)
  deriving DecidableEq, Repr

/-- The PLLs (R662): PLL_TS, PLL_AON, PLL_IO, and the two of each pair. -/
inductive Pll where
  | ts | aon | io
  | net (second : Bool)
  | core (c : CoreId) (second : Bool)
  deriving DecidableEq, Repr

/-- The switchable power domains (R39, R672). -/
inductive Domain where
  | rnt | spr | str | ctl | net | flc
  | core (c : CoreId)
  deriving DecidableEq, Repr

/-- What the surroundings hold when Rennet starts (R460): the voted straps, whether the xSPI port answers, what the PUF read regenerates and the outcome of the entropy start-up test. -/
structure StartInputs where
  strapPmb  : BitVec 7
  strapMg   : BitVec 7
  norAnswers : Bool
  pufMatches : Bool
  entropyOk : Bool
  supplyOk  : Bool
  marginal  : List Nat
  dramKept  : Bool
  rindTorn  : Bool := false          -- the supply failed between the two phases of a Rind entry (R591)
  deriving DecidableEq, Repr

/-- The operands of a big-number command, as BN_CMD, BN_DST, BN_SRC0 to SRC2 and BN_MOD hold them (R502). -/
structure BnArgs where
  size   : BitVec 2
  gen    : Bool
  q      : Bool
  dst    : BitVec 11
  src0   : BitVec 11
  src1   : BitVec 11
  src2   : BitVec 11
  modu   : BitVec 11
  stream : Bool
  deriving DecidableEq, Repr

/-- Where parity failed (R562, R564): a transfer at its sink, for the first or the second time; an entry of a translation cache, of a core's tile mover or (64) of the host port's path; an entry of a sealing engine's counter cache. -/
inductive ParityAt where
  | transfer (second : Bool) | translation (holder part block : Nat) | counters (port block : Nat)
  deriving DecidableEq, Repr

/-- The commands and events of the block: every row of spec/opcode_table.json. -/
inductive Instr where
  /-- REGISTER_WRITE (R18). A write to a register field that has no row of its own; it takes effect by its access code, with W1C collisions judged bit by bit. The offset is one of the register window (R678), or 0x2001_0000 onward of Rennet's own address space (R502). -/
  | registerWrite (by_ : Requester) (off : W32) (data hwSet : W32)
  /-- LATCHED_READ_LO (R242). A read of the LO half of a 64-bit counter latches its HI half. -/
  | latchedReadLo (by_ : Requester) (off : BitVec 26)
  /-- HOST_REQUEST (R639). A Tved request arrives on the host target port; its address is decoded, its INIT is checked and its PTAG stamped, and it is served, refused or answered FAULT. -/
  | hostRequest (word : BitVec 96) (par : BitVec 3) (beats : List WriteBeat) (now : W64)
  /-- MEM_RESPONSE (R635). A read or write response arrives on a memory port; PARITY is reissued once and FAULT takes the outcomes of R270. -/
  | memResponse (port : CoreId) (rsp : MemRsp)
  /-- INTERRUPT_RESPONSE (R635). A response to an interrupt message arrives; on FAULT, INT_ERR is set and the message is sent once more. -/
  | interruptResponse (tag : BitVec 10) (par : Bool)
  /-- PART_DOORBELL (R384). A write of the partition doorbell carries a ring and a new tail; it is ignored with RING_ERR when illegal. -/
  | partDoorbell (p : PartId) (ring : Fin 4) (tail : W16)
  /-- PACKET_ACCEPT (R386). The array controller copies a packet from a submission ring into its SRAM, advances the head, checks it in order and starts or refuses it. -/
  | packetAccept (p : PartId)
  /-- PART_CQ_HEAD (R389). The host driver writes the completion head, freeing slots so that held completions are written. -/
  | partCqHead (p : PartId) (head : W16)
  /-- PART_HEARTBEAT (R402). A write of the heartbeat register refreshes the session heartbeat. -/
  | partHeartbeat (p : PartId) (value : W32) (now : W64)
  /-- HEARTBEAT_TIMEOUT (R402). The heartbeat is not refreshed within PART_HB_LIMIT; the session becomes DETACHED with the effects of R403. -/
  | heartbeatTimeout (p : PartId) (now : W64)
  /-- PART_REMAP (R443). A write of a remap entry; clearing MASK sends a pending vector at once. -/
  | partRemap (p : PartId) (vector : Fin 256) (entry : W32)
  /-- ATTACH (R401). Session attach: version negotiation, token check, resume or forced takeover of the session. -/
  | attach (p : PartId)
  /-- DETACH (R405). Session detach, acting as if fenced; the session becomes NONE. -/
  | detach (p : PartId)
  /-- ECHO (R408). Echo command; DETAIL returns PLEN. -/
  | echo (p : PartId)
  /-- CREATE (R433). Creates a partition with its cores, quotas, class, weight and rights, and sets its gate entries. -/
  | create (p : PartId)
  /-- RESIZE (R435). Changes the fields of an existing partition, evicting blocks where quotas fall. -/
  | resize (p : PartId)
  /-- DESTROY (R436). Ends the session, resets, unloads, releases and unmaps everything the partition holds, then makes it ABSENT. -/
  | destroy (p : PartId)
  /-- PARTITION_RESET_CMD (R449). The partition reset command runs the partition reset procedure. -/
  | partitionResetCmd (p : PartId)
  /-- MAP (R258). Maps a range with a T3 home in ZERO or a T4 home in HOME. -/
  | mapRange (p : PartId)
  /-- UNMAP (R258). Drops copies without write-back, frees T3 homes and sets the blocks UNMAPPED. -/
  | unmapRange (p : PartId)
  /-- ZERO (R258). Sets T3-homed blocks to ZERO, dropping copies and clearing POISONED. -/
  | zeroRange (p : PartId)
  /-- HINT (R258). Writes a block hint over a range. -/
  | hintRange (p : PartId)
  /-- PREFETCH (R260). Queues fetches of a named range at rank 5. -/
  | prefetchRange (p : PartId)
  /-- PIN (R264). Fetches a range and sets PIN, within 75 % of the T1 and T2 quota. -/
  | pinRange (p : PartId)
  /-- UNPIN (R258). Clears PIN over a range. -/
  | unpinRange (p : PartId)
  /-- EVICT (R258). Evicts the resident copies of a range. -/
  | evictRange (p : PartId)
  /-- FLUSH (R266). Writes back every sector dirty at acceptance and completes when home holds them. -/
  | flushRange (p : PartId)
  /-- ARM (R277). Fetches a loaded graph's cadence set and completes when every block is resident. -/
  | arm (p : PartId)
  /-- ARM_TIMEOUT (R277). An arm's time limit expires before its set is resident; it completes with TIMEOUT. -/
  | armTimeout (p : PartId) (graph : W32) (now : W64)
  /-- APERTURE (R258). Sets MEM_P_APBASE for the partition's host aperture. -/
  | aperture (p : PartId)
  /-- LOAD (R165). Checks a graph image and writes its tasks into contexts, returning a handle. -/
  | loadGraph (p : PartId)
  /-- UNLOAD (R169). Returns a graph's contexts to FREE. -/
  | unloadGraph (p : PartId)
  /-- RUN (R170). Requests one run of a loaded graph, cadence-bound or not. -/
  | runGraph (p : PartId)
  /-- START (R218). Starts a standing cadence-bound graph from E0. -/
  | startGraph (p : PartId)
  /-- STOP (R411). Stops a standing graph's releases and replies when its live run has retired. -/
  | stopGraph (p : PartId)
  /-- LOAD_BEAT (R210). Sets the whole beats of external time while cadence is disabled. -/
  | loadBeat (p : PartId)
  /-- CADENCE_SET (R689). Enables or disables cadence and sets its source and expert fields. -/
  | cadenceSet (p : PartId)
  /-- STREAM_SET_UP (R231). Gives a stream to a partition, placing its ring, view and tap. -/
  | streamSetUp (p : PartId)
  /-- STREAM_RELEASE (R241). Releases a stream, stopping its writes and unmapping its views. -/
  | streamRelease (p : PartId)
  /-- STREAM_BIND (R413). Binds a stream to a graph with a MAX_AGE. -/
  | streamBind (p : PartId)
  /-- WATCH_LOAD (R312). Checks and copies a watch program and its data into Sprout SRAM. -/
  | watchLoad (p : PartId)
  /-- WATCH_START (R334). Sets WATCH_EN. -/
  | watchStart (p : PartId)
  /-- WATCH_STOP (R334). Clears WATCH_EN and the test histories. -/
  | watchStop (p : PartId)
  /-- PRE_WARM_SET (R329). Replaces one rung's pre-warm set. -/
  | preWarmSet (p : PartId)
  /-- RUNG (R324). Requests promotion or demotion to a named rung. -/
  | rung (p : PartId)
  /-- POWER_STATE (R315). Requests entry to I, T, W, S or O. -/
  | powerState (p : PartId)
  /-- WAKE_SET (R334). Writes the wake enables, always-on timer and wake hold. -/
  | wakeSet (p : PartId)
  /-- FABRIC_STATUS (R377). Returns fabric identity, root, device count and a database entry. -/
  | fabricStatus (p : PartId)
  /-- PEER_BIND (R366). Binds the partition to a partition on a remote device. -/
  | peerBind (p : PartId)
  /-- PEER_UNBIND (R366). Removes a peer binding. -/
  | peerUnbind (p : PartId)
  /-- BARRIER_GROUP_SET (R370). Sets a barrier group's identifier and members. -/
  | barrierGroupSet (p : PartId)
  /-- BARRIER_GROUP_CLEAR (R377). Clears a barrier group, ending its pending barrier tasks with ABORTED. -/
  | barrierGroupClear (p : PartId)
  /-- REPLICA_JOB_SET (R375). Sets a replica job's members, graphs and compare interval. -/
  | replicaJobSet (p : PartId)
  /-- REPLICA_JOB_CLEAR (R377). Clears a replica job. -/
  | replicaJobClear (p : PartId)
  /-- PORT_WRITE (R377). Port control operation that writes a fabric port's EN, RATE_MAX and LANES_MAX. -/
  | portWrite (p : PartId)
  /-- PORT_RETRAIN (R339). Port control operation that starts a retrain of a fabric port. -/
  | portRetrain (p : PartId)
  /-- CLEAR_FIXED_ID_CONFLICT (R354). Port control operation that clears a fixed-ID conflict. -/
  | clearFixedIdConflict (p : PartId)
  /-- FAB_PORT_RETRAIN_WRITE (R379). Writing 1 to FAB_PORT_CTRL.RETRAIN starts link bring-up on the port. -/
  | fabPortRetrainWrite (by_ : Requester) (f : FabPort)
  /-- PHASE_PREFERENCE (R606). Sets a partition's preferred operating point for one phase. -/
  | phasePreference (p : PartId)
  /-- POWER_CAP (R613). Sets the instance power cap. -/
  | powerCap (p : PartId)
  /-- THERMAL (R618). Sets the throttle temperature. -/
  | thermal (p : PartId)
  /-- PROBE (R582). Runs probe rounds on the powered, unfenced engines of named cores. -/
  | probe (p : PartId)
  /-- PROBE_COMPLETE (R583). Probe rounds end; results are voted, engines fenced and the reply written. -/
  | probeComplete (p : PartId) (runs : List ProbeDiff)
  /-- FENCE (R578). The fence command fences a named engine or core. -/
  | fence (p : PartId)
  /-- UN_FENCE (R578). Probes a fenced unit and returns it to IDLE if the probe passes. -/
  | unFence (p : PartId) (runs : List ProbeDiff)
  /-- SPDM (R536). The ring command that carries one SPDM request message to Rennet. -/
  | spdm (p : PartId)
  /-- EVIDENCE (R535). Writes an evidence token, and optionally the certificate chains, to OUT. -/
  | evidence (p : PartId)
  /-- SET_FORM (R542). Starts formation of a bound set with a list of members. -/
  | setForm (p : PartId)
  /-- SET_FORM_TIMEOUT (R544). A member has not completed its formation step within 10 s; formation fails with TIMEOUT. -/
  | setFormTimeout (now : W64)
  /-- LICENCE_LOAD (R546). Checks and unwraps a model licence into a licence slot and the sealing key store. -/
  | licenceLoad (p : PartId)
  /-- LICENCE_DROP (R550). Zeroes a licence slot's key entry. -/
  | licenceDrop (p : PartId)
  /-- LOG_SET (R425). Sets a partition or global log ring. -/
  | logSet (p : PartId)
  /-- TRACE_SET (R427). Enables trace points and sets the trace ring. -/
  | traceSet (p : PartId)
  /-- UPDATE (R479). Sends a new firmware image to Rennet through the array controller's mailbox. -/
  | update (p : PartId)
  /-- NONCE_COMMAND (R519). Draws a 32-byte nonce and writes it to OUT. -/
  | nonceCommand (p : PartId)
  /-- TRANSITION (R520). Carries a signed life-cycle transition request to Rennet. -/
  | transition (p : PartId) (supplyOk : Bool)
  /-- DEBUG_CERTIFICATE (R524). Carries a signed debug certificate that opens debug rights. -/
  | debugCertificate (p : PartId) (supplyOk : Bool)
  /-- OTP_PROGRAM (R511). Programs words of a fixed OTP region. -/
  | otpProgram (p : PartId) (supplyOk : Bool)
  /-- FINALISE (R512). Writes a fixed region's digest and lock word. -/
  | finalise (p : PartId) (supplyOk : Bool)
  /-- OTP_SUPPLY_DROP (R510). The supply monitor leaves its window during an OTP operation; the operation ends with ABORTED. -/
  | otpSupplyDrop (src : OtpSource) (bits : Nat)
  /-- REGION_SET (R422). Sets or removes a flash region. -/
  | regionSet (p : PartId)
  /-- REGION_ERASE (R422). Erases a flash region. -/
  | regionErase (p : PartId)
  /-- FLASH_WRITE (R290). Writes a package into a flash region, completing when durable. -/
  | flashWrite (p : PartId)
  /-- MBX_DOORBELL_SEND (R424). SEND queues the outbound mailbox words to Rennet, stamped with the sender's ID. -/
  | mbxDoorbellSend (m : MbxId)
  /-- MBX_DOORBELL_WITHDRAW (R424). WITHDRAW removes an unacknowledged outbound message. -/
  | mbxDoorbellWithdraw (m : MbxId)
  /-- MBX_DOORBELL_ACK (R424). ACK drains the inbound message. -/
  | mbxDoorbellAck (m : MbxId)
  /-- MBX_TIMEOUT_EXPIRE (R424). No ACK arrives within MBX_TIMEOUT; TIMEOUT is set and the message stays queued. -/
  | mbxTimeoutExpire (m : MbxId) (now : W64)
  /-- IDENTITY (R478). Mailbox message returning serial number, life cycle, boot state and boot counter. -/
  | identity (m : MbxId)
  /-- BOOT_STATUS (R478). Mailbox message returning Rennet's status registers. -/
  | bootStatus (m : MbxId)
  /-- IMAGE_BEGIN (R479). Opens an image transfer for its sender. -/
  | imageBegin (m : MbxId)
  /-- IMAGE_DATA (R479). Carries 24 image bytes; the manifest is checked and NOR erased and programmed as bytes arrive. -/
  | imageData (m : MbxId)
  /-- IMAGE_END (R479). Ends the transfer; the manifest is written and read back. -/
  | imageEnd (m : MbxId)
  /-- IMAGE_ABORT (R479). Ends the transfer with ABORTED. -/
  | imageAbort (m : MbxId)
  /-- IMAGE_RUN (R480). After recovery, causes an instance reset. -/
  | imageRun (m : MbxId)
  /-- IMAGE_TRANSFER_TIMEOUT (R479). One second passes without a transfer message; the transfer ends with TIMEOUT. -/
  | imageTransferTimeout (now : W64)
  /-- BLOB_LOAD (R486). Unwraps a key blob from NOR into a Cave slot. -/
  | blobLoad (m : MbxId)
  /-- BLOB_STORE (R486). Wraps a Cave slot into a blob in NOR with a fresh nonce. -/
  | blobStore (m : MbxId)
  /-- RIND_INFO (R597). Mailbox message returning the Rind's sequence and segment figures. -/
  | rindInfo (m : MbxId)
  /-- RIND_READ (R597). Mailbox message returning part of one Rind entry. -/
  | rindRead (m : MbxId)
  /-- SPDM_BEGIN (R536). Mailbox message opening an SPDM request transfer. -/
  | spdmBegin (m : MbxId)
  /-- SPDM_DATA (R536). Mailbox message carrying SPDM request bytes. -/
  | spdmData (m : MbxId)
  /-- SPDM_END (R536). Mailbox message ending an SPDM request and returning the response length. -/
  | spdmEnd (m : MbxId)
  /-- SPDM_READ (R536). Mailbox message returning SPDM response bytes. -/
  | spdmRead (m : MbxId)
  /-- NONCE (R519). Mailbox message drawing a nonce or returning one half of it. -/
  | nonce (m : MbxId)
  /-- NONCE_EXPIRE (R519). The held nonce expires 60 s after it was drawn. -/
  | nonceExpire (now : W64)
  /-- REQ_BEGIN (R519). Mailbox message opening a signed request transfer. -/
  | reqBegin (m : MbxId)
  /-- REQ_DATA (R519). Mailbox message carrying signed request bytes. -/
  | reqData (m : MbxId)
  /-- REQ_END (R519). Mailbox message ending a signed request, which Rennet then checks and acts on. -/
  | reqEnd (m : MbxId) (supplyOk : Bool)
  /-- ENROL (R511). Writes PUF helper data and its digest in Maker, then finalises the region. -/
  | enrol (m : MbxId) (supplyOk : Bool) (reads : List (List Byte))
  /-- GET_VERSION (R537). SPDM request for the supported versions. -/
  | getVersion (src : SpdmSource)
  /-- GET_CAPABILITIES (R537). SPDM request for the responder's capabilities. -/
  | getCapabilities (src : SpdmSource) (version : Byte) (flags : W32)
  /-- NEGOTIATE_ALGORITHMS (R537). SPDM request negotiating algorithms. -/
  | negotiateAlgorithms (src : SpdmSource) (offer : SpdmAlgs)
  /-- GET_DIGESTS (R537). SPDM request for certificate chain digests. -/
  | getDigests (src : SpdmSource)
  /-- GET_CERTIFICATE (R537). SPDM request for a certificate chain. -/
  | getCertificate (src : SpdmSource) (slot : Nat) (offset len : Nat)
  /-- CHALLENGE (R537). SPDM challenge signed with the alias key. -/
  | spdmChallenge (src : SpdmSource) (slot : Nat) (nonce : List Byte)
  /-- GET_MEASUREMENTS (R538). SPDM request for the measurement blocks. -/
  | getMeasurements (src : SpdmSource) (index : Nat) (signed : Bool) (nonce : List Byte)
  /-- KEY_EXCHANGE (R539). SPDM key exchange opening a session, at most two at a time. -/
  | keyExchange (src : SpdmSource) (slot : Nat) (exchange : List Byte)
  /-- FINISH (R537). SPDM finish of a key exchange. -/
  | spdmFinish (src : SpdmSource) (session : Nat) (verify : List Byte)
  /-- SPDM_HEARTBEAT (R537). SPDM heartbeat of a session. -/
  | spdmHeartbeat (src : SpdmSource) (session : Nat)
  /-- KEY_UPDATE (R537). SPDM key update of a session. -/
  | keyUpdate (src : SpdmSource) (session : Nat)
  /-- END_SESSION (R539). SPDM end of a session; its Cave slots are zeroed. -/
  | endSession (src : SpdmSource) (session : Nat)
  /-- CHUNK_GET (R537). SPDM request for a chunk of a large response. -/
  | chunkGet (src : SpdmSource) (handle seq : Nat)
  /-- SET_HELLO (R542). Formation message from the coordinator with SET_ID and a nonce. -/
  | setHello (src : DevId) (setId : List Byte) (nonce : List Byte)
  /-- SET_OFFER (R542). Formation message from a member with evidence and keys. -/
  | setOffer (src : DevId) (offer : SetOffer)
  /-- SET_KEY (R542). Formation message from the coordinator with evidence and the wrapped set key. -/
  | setKey (src : DevId) (key : SetKeyMsg)
  /-- SET_CONFIRM (R542). Formation message from a member confirming the transcript. -/
  | setConfirm (src : DevId) (mac : List Byte)
  /-- SET_DONE (R542). Formation message ending formation; the member stores its blob and completes SET_FORM. -/
  | setDone (src : DevId) (setId : List Byte) (epoch : W32)
  /-- SET_ABORT (R544). Formation message ending a failed formation; exchange keys are discarded. -/
  | setAbort (src : DevId) (setId : List Byte) (epoch : W32)
  /-- TASK_DISPATCH (R178). The core sequencer offers up to two READY tasks per cycle to executors in the order of R178. -/
  | taskDispatch (c : CoreId)
  /-- TASK_RELEASE_TIME (R220). External time reaches a task's release time; the task may become READY. -/
  | taskReleaseTime (c : CoreId) (x : CtxId) (now : W64)
  /-- OPERANDS_READY (R183). Every operand byte of a tile is in T0, so the tile may start; a duplicate in the idle slot is abandoned. -/
  | operandsReady (c : CoreId) (e : EngId)
  /-- MATMUL (R115). An engine starts a MATMUL task and runs its output blocks and K tiles. -/
  | matmul (c : CoreId) (e : EngId)
  /-- CONV (R125). An engine starts a convolution task run as a MATMUL over expanded windows. -/
  | conv (c : CoreId) (e : EngId)
  /-- CONV_DW (R127). An engine starts a depthwise convolution in the vector unit. -/
  | convDw (c : CoreId) (e : EngId)
  /-- ATTN (R132). An engine starts fused attention over query and key tiles. -/
  | attn (c : CoreId) (e : EngId)
  /-- ATTN_MERGE (R143). An engine starts a merge of partial attention outputs. -/
  | attnMerge (c : CoreId) (e : EngId)
  /-- NORM_RMS (R140). An engine starts RMS normalisation. -/
  | normRms (c : CoreId) (e : EngId)
  /-- NORM_LAYER (R140). An engine starts layer normalisation. -/
  | normLayer (c : CoreId) (e : EngId)
  /-- ROPE (R140). An engine starts rotary position embedding. -/
  | rope (c : CoreId) (e : EngId)
  /-- GATE (R144). An engine starts expert routing, writing selections, lists and counts. -/
  | gateExperts (c : CoreId) (e : EngId)
  /-- COMBINE (R147). An engine starts summing each token's expert slots. -/
  | combine (c : CoreId) (e : EngId)
  /-- QUANT (R138). An engine starts quantisation. -/
  | quant (c : CoreId) (e : EngId)
  /-- DEQUANT (R85). An engine starts dequantisation. -/
  | dequant (c : CoreId) (e : EngId)
  /-- ELEM (R139). An engine starts an elementwise function over its input. -/
  | elem (c : CoreId) (e : EngId)
  /-- REDUCE (R138). An engine starts a row reduction. -/
  | reduce (c : CoreId) (e : EngId)
  /-- TOPK (R142). An engine starts a top-k selection per row. -/
  | topk (c : CoreId) (e : EngId)
  /-- MOVE (R685). The tile mover starts a copy, zero fill, two-dimensional copy or remote move. -/
  | moveTask (c : CoreId)
  /-- DECOMPRESS (R185). The tile mover starts decompressing an Eraely object to DST. -/
  | decompress (c : CoreId)
  /-- PROMOTE (R166). A promote task reads its score and requests promotion when it reaches THRESHOLD. -/
  | promoteTask (c : CoreId) (x : CtxId)
  /-- WAIT_FOR_CADENCE (R228). A wait-for-cadence task starts waiting for its offset or the next beat. -/
  | waitForCadence (c : CoreId) (x : CtxId)
  /-- WAIT_EXPIRE (R228). A wait-for-cadence task's time arrives and it completes. -/
  | waitExpire (c : CoreId) (x : CtxId) (now : W64)
  /-- SIGNAL (R187). A signal task sends one message to each target over the on-chip network. -/
  | signalTask (c : CoreId) (x : CtxId)
  /-- FABRIC_BARRIER (R371). A barrier task starts, counts its generation and sends ARRIVE to the coordinator. -/
  | fabricBarrier (c : CoreId) (x : CtxId)
  /-- TILE_COMPLETE (R117). A tile finishes on an engine; its residue is compared, notes are ORed, its epilogue runs and sampling may capture it. -/
  | tileComplete (c : CoreId) (e : EngId) (fault : TileFault)
  /-- TASK_DONE (R186). Every write of a task is accepted and visible; the task is DONE and its successors' counters are decremented. -/
  | taskDone (c : CoreId) (x : CtxId)
  /-- SIGNAL_ARRIVE (R187). A signal message arrives at a core and decrements a counter, or is dropped. -/
  | signalArrive (c : CoreId) (msg : SignalMsg)
  /-- CORE_DONE_ARRIVE (R189). A core-done message reaches the home core, which writes the completion once it holds all of them. -/
  | coreDoneArrive (c : CoreId) (src : CoreId) (graph : W32)
  /-- CTX_PARITY (R196). A parity error in a context, counter or tile queue causes a partition or core reset. -/
  | ctxParity (c : CoreId) (owner : Option PartId)
  /-- CORE_RESET (R195). A core reset clears the core's contexts, counters and queues and ends its runs. -/
  | coreReset (c : CoreId)
  /-- ENGINE_FENCE (R153). A fence reaches an engine, which stops, returns its tasks, zeroes its state and becomes FENCED. -/
  | engineFence (c : CoreId) (e : EngId)
  /-- RESIDUE_REPEAT_DONE (R567). A residue repeat completes and settles the fault as transient or permanent. -/
  | residueRepeatDone (c : CoreId) (e : EngId) (pass : Bool)
  /-- DUPLICATE_DONE (R570). A sampled tile's duplicate completes on its checker and is compared bit for bit. -/
  | duplicateDone (c : CoreId) (e : EngId) (result : List Byte)
  /-- FORCE_WAIT_EXPIRE (R571). The sampled engine completes FORCE_WAIT units without its duplicate; the duplicate takes a forced slot. -/
  | forceWaitExpire (c : CoreId) (e : EngId)
  /-- SETTLE_TILE_DONE (R572). A REP or THIRD tile completes and the mismatch is settled. -/
  | settleTileDone (c : CoreId) (e : EngId) (result : List Byte)
  /-- PARITY_FAIL (R564). A transfer fails parity at its sink and is reissued once, or treated as uncorrectable. -/
  | parityFail (unit : W16) (ptag : BitVec 6) (at_ : ParityAt)
  /-- ECC_CORRECTED (R565). A correctable ECC error is corrected and written back. -/
  | eccCorrected (unit : W16) (place : EccPlace) (now : W64)
  /-- ECC_UNCORRECTABLE (R566). An uncorrectable ECC error is contained by partition reset, instance reset or stopping the watch program. -/
  | eccUncorrectable (place : EccPlace) (addr : W64)
  /-- REPLICA_VOTE (R580). At 16 beats after a step, each member votes on the digests it holds and may expel members. -/
  | replicaVote (job : Fin 16) (interval : W32)
  /-- RIND_ENTRY_WRITE (R591). Rennet writes a queued Rind entry in two phases, closing groups and compacting as needed. -/
  | rindEntryWrite
  /-- RIND_DROPPED_TICK (R595). In each second with dropped entries, a DROPPED entry is written. -/
  | rindDroppedTick
  /-- AGE_RISE (R447). A READY task passes its class's age bound and rises one class. -/
  | ageRise (c : CoreId) (x : CtxId) (now : W64)
  /-- CADENCE_PULSE (R203). A filtered edge on the cadence pulse input is a candidate beat. -/
  | cadencePulse (rising : Bool) (stamp : W64)
  /-- ENCODER_STROBE (R205). An encoder strobe samples the count and may issue a beat. -/
  | encoderStrobe (count : W32) (stamp : W64)
  /-- CADENCE_LOSS (R208). No real beat arrives within LOSS_BEATS periods; cadence freewheels or holds. -/
  | cadenceLoss (now : W64)
  /-- SYNTHESISED_BEAT (R208). In freewheel, a beat is synthesised every CAD_BEAT_PERIOD. -/
  | synthesisedBeat (now : W64)
  /-- STANDING_RELEASE (R218). External time reaches a standing graph's next release; it is checked for overrun and freshness, then released. -/
  | standingRelease (graph : W32) (now : W64)
  /-- RUN_RELEASE (R219). External time reaches a single cadence-bound run's reference time and the run is released. -/
  | runRelease (graph : W32) (now : W64)
  /-- DEADLINE (R222). A task's deadline instant arrives and its SKIP, LATE or FALLBACK policy applies. -/
  | taskDeadline (c : CoreId) (x : CtxId) (now : W64)
  /-- SYNC_EXCHANGE (R215). At each sync interval a device exchanges stamped sync messages with its parent. -/
  | syncExchange (ok : Bool) (now : W64)
  /-- SYNC (R216). A SYNC frame arrives and the timestamp counter is stepped or slewed. -/
  | fabSync (port : FabPort) (msg : SyncMsg)
  /-- BEAT (R206). A BEAT frame arrives in fabric mode and is taken as the local beat stamp. -/
  | fabBeat (port : FabPort) (src : DevId) (stamp beats : W64)
  /-- STREAM_BEAT (R233). A beat taken on a stream ingest port is written into its stream's ring and tap. -/
  | streamBeat (port : Fin 4) (beat : StreamBeat) (now : W64)
  /-- FETCH_SECTOR_LANDED (R256). A fetched sector lands in its new copy after any tag check; the block becomes CLEAN when all have landed. -/
  | fetchSectorLanded (p : PartId) (block : Nat) (sector : Fin 16) (check : FetchCheck)
  /-- WRITEBACK_DONE (R265). Home accepts a written-back sector and its DIRTY bit clears. -/
  | writebackDone (p : PartId) (block : Nat) (sector : Fin 16)
  /-- EVICTION_START (R263). Free slots fall below the low watermark and victims are evicted to the high watermark. -/
  | evictionStart (p : PartId) (tier2 : Bool)
  /-- DRAIN_COMPLETE (R268). The last drain of the domains switching off completes and the power sequence continues. -/
  | drainComplete
  /-- FLASH_PAGE_LANDED (R279). A flash page unit lands, decoded through the stages of R291, with read counting and refresh triggers. -/
  | flashPageLanded (region : Fin 64) (unit : Nat) (read : FlashRead)
  /-- REFRESH_COMPLETE (R293). A refresh's journal record is durable; the map switches and the old block is erased. -/
  | refreshComplete (block : Nat)
  /-- FLASH_PROGRAM_DONE (R295). A NAND program ends; a failure retires the block. -/
  | flashProgramDone (block : Nat) (ok : Bool)
  /-- FLASH_ERASE_DONE (R295). A NAND erase ends; a failure retires the block. -/
  | flashEraseDone (block : Nat) (ok : Bool)
  /-- PATROL_TICK (R294). Patrol issues its next paced read. -/
  | patrolTick (channel : Fin 16) (now : W64)
  /-- CHECKPOINT_DUE (R296). After 1,024 records or 10 minutes the Press writes a checkpoint. -/
  | checkpointDue (now : W64)
  /-- WATCH_WINDOW (R305). A watch window opens; SPR and STR power on and the program runs from packet 0. -/
  | watchWindow (now : W64)
  /-- WATCH_ON_EXPIRE (R305). The window's on-time ends and the tapped ports stop accepting data. -/
  | watchOnExpire (now : W64)
  /-- WINDOW (R307). Watch packet that copies the newest samples of a tap into SRAM. -/
  | watchPktWindow
  /-- ENERGY (R307). Watch packet that computes a shifted sum of squares. -/
  | watchEnergy
  /-- BAND (R307). Watch packet that filters and scores a band's energy. -/
  | watchBand
  /-- FEAT (R307). Watch packet that computes log features per subframe and filter. -/
  | watchFeat
  /-- DENSE (R307). Watch packet that runs a dense INT8 layer. -/
  | watchDense
  /-- SCORE (R307). Watch packet that scales a value into the score. -/
  | watchScore
  /-- TEST (R309). Watch packet that compares the score with a threshold and may fire its actions. -/
  | watchTest
  /-- END (R307). Watch packet that ends the program for this window. -/
  | watchEnd
  /-- WAKE_HOLD_EXPIRE (R314). SPR_WAKE_HOLD ms pass since the last assertion and the wake output drops. -/
  | wakeHoldExpire (now : W64)
  /-- WAKE_CLR (R314). Writing SPR_CTRL.WAKE_CLR deasserts the wake output. -/
  | wakeClr (by_ : Requester)
  /-- AON_TIMER_EXPIRE (R318). The always-on timer reaches zero and acts as a wake source. -/
  | aonTimerExpire (now : W64)
  /-- AUTO_I_ENTRY (R315). The instance has been idle for 20 µs with AUTO_I set and enters I. -/
  | autoIEntry (now : W64)
  /-- AUTO_T_ENTRY (R315). The instance has been in I for SPR_IDLE_T ms with AUTO_T set and enters T. -/
  | autoTEntry (now : W64)
  /-- PRE_RELEASE_RESTORE (R317). The always-on island starts a restore so that A is reached with margin before a standing release. -/
  | preReleaseRestore (now : W64)
  /-- WAKE (R320). A wake source is latched and the restore from I, T, W or S begins. -/
  | wake (sources : BitVec 7) (first : Fin 7) (rung : Fin 4) (now : W64)
  /-- STATE_REACHED (R321). A restore reaches its fixed delay and the state is declared, or is declared late when its step completes. -/
  | stateReached (complete : Bool) (now : W64)
  /-- RUNG_UP (R325). A rising rung reaches its fixed delay and becomes UP, reloading contexts. -/
  | rungUp (complete : Bool) (now : W64)
  /-- DEMOTE_IDLE (R326). A rung's cores stay idle for SPR_DEMOTE_IDLE ms and the rung starts to fall. -/
  | demoteIdle (rung : Fin 4) (now : W64)
  /-- STANDALONE_DEMOTE (R332). No session attaches within 1 s of start-up with a standing L0 program, and the ladder demotes to W. -/
  | standaloneDemote (now : W64)
  /-- PHY_READY (R339). PHY ready is asserted and link bring-up begins. -/
  | phyReady (f : FabPort) (now : W64)
  /-- LINK_STEP_TIMEOUT (R339). A bring-up step exceeds 100 µs and bring-up restarts after 10 ms. -/
  | linkStepTimeout (f : FabPort) (now : W64)
  /-- LINK_RESTART_TIMER (R339). The 10 ms wait after a failed bring-up ends and bring-up restarts. -/
  | linkRestartTimer (f : FabPort) (now : W64)
  /-- LINK_TRAINED (R339). 1,024 test flits are received without error; the link is UP and a beacon is sent. -/
  | linkTrained (f : FabPort) (peer : LinkPeer) (now : W64)
  /-- PHY_READY_DROP (R344). The PHY deasserts ready and the link goes DOWN. -/
  | phyReadyDrop (f : FabPort) (now : W64)
  /-- LINK_SILENCE (R344). No flit arrives for 2 µs on an UP link, which goes DOWN. -/
  | linkSilence (f : FabPort) (now : W64)
  /-- FLIT_RECEIVE (R343). A flit arrives; its CRC and sequence are checked, acknowledgements and credits are taken, and replay or retrain may follow. -/
  | flitReceive (f : FabPort) (flit : Flit) (now : W64)
  /-- LP_ENTER (R362). An LP_ENTER flit arrives and the link enters electrical idle. -/
  | lpEnter (f : FabPort) (now : W64)
  /-- SLEEP_NOTICE (R363). A SLEEP_NOTICE flit arrives and the neighbour marks the link SLEEP. -/
  | sleepNotice (f : FabPort) (now : W64)
  /-- WAKE_PATTERN (R364). A lane detector accepts three bursts within 100 µs as a wake. -/
  | wakePattern (f : FabPort) (lane : Fin 4) (bursts : Nat) (now : W64)
  /-- BEACON (R353). A BEACON frame arrives and its origin is recorded; ID conflicts are settled. -/
  | fabBeacon (f : FabPort) (b : BeaconMsg) (now : W64)
  /-- BEACON_TIMER (R353). Every 100 ms a device broadcasts a beacon. -/
  | beaconTimer (now : W64)
  /-- ORIGIN_EXPIRE (R356). An origin is forgotten after 350 ms without a beacon or LSA. -/
  | originExpire (dev : DevId) (now : W64)
  /-- CLAIM (R354). A CLAIM frame arrives and conflicts are settled. -/
  | fabClaim (f : FabPort) (b : BeaconMsg) (now : W64)
  /-- CLAIM_TIMER (R354). A tentative claim lasts 4 ms without conflict and becomes CLAIMED. -/
  | claimTimer (now : W64)
  /-- LSA (R356). An LSA frame arrives and updates the link-state database. -/
  | fabLsa (f : FabPort) (l : LsaMsg) (now : W64)
  /-- LSA_TIMER (R356). Every 100 ms a device broadcasts its LSA. -/
  | lsaTimer (now : W64)
  /-- ROUTE_INSTALL (R360). The route engine installs a new table after a database change, freezing if the root moves. -/
  | routeInstall (now : W64)
  /-- FREEZE_END (R360). The 100 µs freeze after a root change ends. -/
  | freezeEnd (now : W64)
  /-- REPORT (R586). A REPORT frame reaches the collector, which queues and logs it. -/
  | fabReport (f : FabPort) (src : DevId) (report : List Byte)
  /-- FENCE_FRAME (R576). A FENCE frame arrives and is logged in the global log. -/
  | fenceFrame (f : FabPort) (src : DevId) (unit : W16) (core : Bool) (seq : W32)
  /-- RIND_SUM (R593). A RIND_SUM frame reaches the collector. -/
  | rindSum (f : FabPort) (src : DevId) (group bootCtr : W32) (payload : List Byte)
  /-- DIGEST (R579). A DIGEST frame from a replica member arrives and is held for the vote. -/
  | fabDigest (f : FabPort) (src : DevId) (d : DigestMsg)
  /-- WRITE (R367). A remote WRITE frame arrives, is checked against the gate table and written. -/
  | fabWrite (f : FabPort) (src : DevId) (ptag : PartId) (addr : BitVec 48) (txn : W16) (data : List Byte)
  /-- WRITE_ACK (R368). A WRITE_ACK arrives and frees the acknowledged frames. -/
  | writeAck (f : FabPort) (src : DevId) (txn frames : W16) (refused : Bool)
  /-- ACK_TIMEOUT (R368). A remote write frame is not acknowledged in time and is resent or the move ends with TIMEOUT. -/
  | ackTimeout (txn : W16) (now : W64)
  /-- ARRIVE (R371). An ARRIVE frame reaches the coordinator, which sends RELEASE when all have arrived. -/
  | fabArrive (f : FabPort) (src : DevId) (barrier : W16) (gen : W32) (now : W64)
  /-- RELEASE (R371). A RELEASE frame arrives and the member's barrier task reaches DONE. -/
  | fabRelease (f : FabPort) (src : DevId) (barrier : W16) (gen : W32) (slowest : DevId) (spread : W32) (now : W64)
  /-- BARRIER_TIMEOUT (R373). A barrier task's RELEASE does not arrive within its TIMEOUT. -/
  | barrierTimeout (c : CoreId) (x : CtxId) (now : W64)
  /-- SECURE (R536). A SECURE frame carrying an SPDM or formation message arrives. -/
  | fabSecure (f : FabPort) (src : DevId) (ptag : PartId) (arg : W64) (payload : List Byte) (last : Bool)
  /-- PHASE_CLASSIFY (R605). Every 100 µs each core's phase is classified and its preferred point set. -/
  | phaseClassify (c : CoreId) (act : CoreActivity)
  /-- CAP_LOOP (R613). Every 100 µs the cap loop lowers or gives back operating points. -/
  | capLoop (now : W64)
  /-- POWER_ESTIMATE (R611). Every 1 µs activity counts are converted into the power estimate, and current stretching applies. -/
  | powerEstimate (act : List CoreActivity) (now : W64)
  /-- CALIBRATION (R612). Every 10 ms the regulator is read and GAIN updated. -/
  | calibration (reading : Option RegReading)
  /-- REGULATOR_POLL (R610). A regulator poll reads VOUT and status and may acknowledge a voltage request. -/
  | regulatorPoll (reading : Option RegReading) (now : W64)
  /-- REGULATOR_ACK_TIMEOUT (R610). No poll acknowledges within ACK_WAIT and the regulator fall-back applies. -/
  | regulatorAckTimeout (now : W64)
  /-- PMBUS_STUCK (R658). The regulator bus is held low over 25 ms and the transaction is abandoned. -/
  | pmbusStuck (now : W64)
  /-- DROOP (R615). A core's supply crosses the droop threshold and its clock period doubles. -/
  | droop (c : CoreId) (now : W64)
  /-- DROOP_RECOVER (R615). After at least 64 cycles the supply recovers and the clock returns. -/
  | droopRecover (c : CoreId) (now : W64)
  /-- RAMP_WINDOW (R616). Each 64-cycle window grants held engine starts within the ramp limits. -/
  | rampWindow
  /-- THERMAL_SAMPLE (R618). Every 10 µs each thermal sensor is read for throttling. -/
  | thermalSample (sensor : Sensor) (temp : W16) (now : W64)
  /-- THROTTLE_STEP (R618). A throttled core steps down each 1 ms or back up each 10 ms. -/
  | throttleStep (c : CoreId) (now : W64)
  /-- THERMAL_TRIP (R619). A sensor crosses 125 °C; the trip is latched and array clocks stop. -/
  | thermalTrip (sensor : Sensor) (now : W64)
  /-- TRIP_RESTART (R619). 10 ms after every sensor cools, clocks restart with cores at OP0. -/
  | tripRestart (now : W64)
  /-- PLL_UNLOCK (R665). A PLL loses lock and the block falls back, fences a core or resets. -/
  | pllUnlock (pll : Pll)
  /-- SPARE_RELOCKED (R663). A pair's spare PLL relocks to its next target. -/
  | spareRelocked (pll : Pll)
  /-- POWER_DOMAIN_ACK (R673). A domain's supply acknowledgement rises or falls and the switch sequence continues. -/
  | powerDomainAck (d : Domain) (level : Bool) (now : W64)
  /-- POWER_ON_RESET (R668). por_n low resets everything; Rennet starts and domains are powered. -/
  | powerOnReset (inputs : StartInputs)
  /-- INSTANCE_RESET (R669). An instance reset holds every domain's logic in reset and Rennet starts up. -/
  | instanceReset (cause : BitVec 4)
  /-- CRP_RESET (R668). A write of 0x0000_A5A5 by an admin partition starts an instance reset. -/
  | crpReset (by_ : Requester) (value : W32)
  /-- RENNET_STARTUP (R460). Rennet senses OTP, regenerates the UDS, checks and loads the image, derives keys and locks the Cave. -/
  | rennetStartup (inputs : StartInputs)
  /-- HANDOVER (R461). At 38,500 µs the other islands and cores are released from reset. -/
  | handover (now : W64)
  /-- HOST_READY (R460). At 40,000 µs the configured partitions are created and ring 0 is read. -/
  | hostReady (now : W64)
  /-- WATCHDOG_EXPIRE (R458). Rennet's watchdog expires and causes an instance reset. -/
  | watchdogExpire (flow : Bool)
  /-- RENNET_PARITY (R455). A parity error in Rennet SRAM halts the core and causes an instance reset. -/
  | rennetParity
  /-- ENTROPY_TEST_FAIL (R468). The continuous health tests fail three times; ENTROPY_FAIL is set and the DRBG stops. -/
  | entropyTestFail
  /-- DRBG_RESEED (R467). The DRBG reseeds after 65,536 requests or 1 s. -/
  | drbgReseed
  /-- BRINING_TICK (R483). Every RNT_BRINE µs the Cave re-masks every slot. -/
  | briningTick
  /-- BN_OWNER_WRITE (R490). A change of BN_CTRL.OWNER aborts any command and wipes the operand memory. -/
  | bnOwnerWrite (owner : BitVec 3)
  /-- BN_WIPE_DONE (R490). The operand memory wipe completes and WIPED is set. -/
  | bnWipeDone
  /-- BN_ABORT (R498). ABORT stops the datapath and zeroes the destination. -/
  | bnAbort
  /-- BN_COMMAND_DONE (R492). A big-number command's two runs end and are compared; the result is written or it ends with FAULT. -/
  | bnCommandDone (differ : Bool)
  /-- MODADD (R493). Big-number modular addition. -/
  | modadd (a : BnArgs)
  /-- MODSUB (R493). Big-number modular subtraction. -/
  | modsub (a : BnArgs)
  /-- MODMUL (R493). Big-number modular multiplication. -/
  | modmul (a : BnArgs)
  /-- MODRED (R493). Big-number reduction of a 576-bit value. -/
  | modred (a : BnArgs)
  /-- MODEXP (R493). Big-number modular exponentiation. -/
  | modexp (a : BnArgs)
  /-- MODINV (R493). Big-number modular inversion. -/
  | modinv (a : BnArgs)
  /-- CMPLT (R493). Big-number comparison setting FLAG. -/
  | cmplt (a : BnArgs)
  /-- KEYLOAD (R493). Loads a permitted Cave slot into operand memory, marked. -/
  | keyload (a : BnArgs)
  /-- RANDLOAD (R493). Loads DRBG output into operand memory, marked. -/
  | randload (a : BnArgs)
  /-- KEYSTORE (R493). Stores operand words into a permitted Cave slot and zeroes them. -/
  | keystore (a : BnArgs)
  /-- ECMUL (R493). P-384 scalar multiplication. -/
  | ecmul (a : BnArgs)
  /-- ECADD (R493). P-384 point addition. -/
  | ecadd (a : BnArgs)
  /-- SIGN_S (R493). Computes and releases the ECDSA s value. -/
  | signS (a : BnArgs)
  /-- NTT (R493). Forward number-theoretic transform. -/
  | ntt (a : BnArgs)
  /-- INTT (R493). Inverse number-theoretic transform. -/
  | intt (a : BnArgs)
  /-- PMUL (R493). Coefficient-wise polynomial multiplication. -/
  | pmul (a : BnArgs)
  /-- PMAC (R493). Coefficient-wise polynomial multiply-accumulate. -/
  | pmac (a : BnArgs)
  /-- PADD (R493). Coefficient-wise polynomial addition. -/
  | padd (a : BnArgs)
  /-- PSUB (R493). Coefficient-wise polynomial subtraction. -/
  | psub (a : BnArgs)
  /-- BASEMUL (R493). Multiplication of ML-KEM NTT forms. -/
  | basemul (a : BnArgs)
  /-- REL_HIGH (R493). Releases Power2Round or HighBits of FIPS 204. -/
  | relHigh (a : BnArgs)
  /-- REL_Z (R493). Releases z when within its norm bound. -/
  | relZ (a : BnArgs)
  /-- REL_HINT (R493). Releases MakeHint with its checks. -/
  | relHint (a : BnArgs)
  /-- REL_COMP (R493). Releases compressed ML-KEM ciphertexts and keys. -/
  | relComp (a : BnArgs)
  /-- ENEC (R654). I3C common command enabling target events. -/
  | enec (events : Byte)
  /-- DISEC (R654). I3C common command disabling target events. -/
  | disec (events : Byte)
  /-- RSTDAA (R654). I3C common command resetting the dynamic address. -/
  | rstdaa
  /-- ENTDAA (R654). I3C common command assigning a dynamic address. -/
  | entdaa (addr : BitVec 7)
  /-- SETDASA (R654). I3C common command setting the dynamic address from the static one. -/
  | setdasa (staticAddr addr : BitVec 7)
  /-- SETMWL (R654). I3C common command setting the maximum write length. -/
  | setmwl (len : W16)
  /-- SETMRL (R654). I3C common command setting the maximum read length. -/
  | setmrl (len : W16)
  /-- GETMWL (R654). I3C common command returning the maximum write length. -/
  | getmwl
  /-- GETMRL (R654). I3C common command returning the maximum read length. -/
  | getmrl
  /-- GETPID (R654). I3C common command returning the provisional ID. -/
  | getpid
  /-- GETBCR (R654). I3C common command returning the bus characteristics register. -/
  | getbcr
  /-- GETDCR (R654). I3C common command returning the device characteristics register. -/
  | getdcr
  /-- GETSTATUS (R654). I3C common command returning status. -/
  | getstatus
  /-- MGMT_MBX_SEND (R655). Management command that sends eight words to Rennet with sender 0xFFFF. -/
  | mgmtMbxSend (words : List W32) (now : W64)
  /-- MGMT_MBX_READ (R655). Management command returning mailbox status and inbound words. -/
  | mgmtMbxRead
  /-- MGMT_MBX_ACK (R655). Management command draining the inbound message. -/
  | mgmtMbxAck
  /-- MGMT_MBX_WITHDRAW (R655). Management command withdrawing the outbound message. -/
  | mgmtMbxWithdraw
  /-- REPORT_READ (R655). Management command returning and removing the oldest unread report. -/
  | reportRead
  /-- REPORT_COUNT (R655). Management command returning the number of queued reports. -/
  | reportCount
  /-- MGMT_STATUS (R655). Management command returning identity, boot, reliability and Sprout status from the always-on island. -/
  | mgmtStatus
  /-- MGMT_POWER (R655). Management command requesting state S or O. -/
  | mgmtPower (value : Byte)
  /-- TAP_RESET (R659). t_trst_n low resets the debug TAP. -/
  | tapReset
  /-- TAP_BYPASS (R659). TAP instruction BYPASS. -/
  | tapBypass (bits : List Bool)
  /-- TAP_IDCODE (R659). TAP instruction returning the IDCODE value. -/
  | tapIdcode
  /-- TAP_DEBUG_ACCESS (R659). Debug access instruction, acting only under an open right of R523. -/
  | tapDebugAccess (ir : BitVec 8) (write : Bool) (addr : W64) (data : W32)
  /-- PARTITION_RESET_READY (R449). A partition reset reaches its step 9: STATE becomes READY, held interrupts are sent, ring reading resumes and pinned blocks are fetched again. -/
  | partitionResetReady (p : PartId) (now : W64)
  /-- PLL_RELOCK (R665). A PLL that lost lock locks again; the timestamp returns from reference-period steps to 1 ns steps. -/
  | pllRelock (pll : Pll)
  /-- CREDIT_RETURN (R630). A Tved credit signal is high in a cycle and returns one credit, letting a held request, beat or interrupt message go, or setting PROTO when the count would pass 255. -/
  | creditReturn (port : TvedPort) (channel : Fin 4)
  /-- RATE_ACK (R647). The PHY asserts ff_rate_ack after a change of ff_rate, letting link bring-up re-align its lanes at the new rate. -/
  | rateAck (f : FabPort) (now : W64)
  deriving DecidableEq, Repr

end Sys2Proof
end

