-- ==== Sys2Proof/Config.lean ====
section
/-! DEFINITION. The free values: what the manual leaves open or takes from another standard. Every constant is opaque, so that no proof can see a value. -/

namespace Sys2Proof

/-- An unstated value of `w` bits, named by the number of the draw and a tag of the place that draws it (notes/assumptions/10). -/
opaque Config.free (w : Nat) (no tag : Nat) : BitVec w

/-- The result bits of EXP, SILU, GELU, SIGMOID, RSQRT and RECIP (codes of R139): they are fixed by the evaluation of the Welel simulator, which the manual does not print (notes/assumptions/12). -/
opaque Config.elemFn (func : Nat) (x : BitVec 32) : BitVec 32

/-! Functions of the standards that the manual names: their definitions lie outside it (notes/assumptions/12). -/

/-- SHA-384 (48 bytes). -/
opaque Config.sha384 (m : List Byte) : List Byte
/-- SHA3-256 (32 bytes). -/
opaque Config.sha3 (m : List Byte) : List Byte
/-- SHAKE256 with `n` bytes of output. -/
opaque Config.shake256 (m : List Byte) (n : Nat) : List Byte
/-- HMAC with SHA-384 (48 bytes). -/
opaque Config.hmac (key m : List Byte) : List Byte
/-- A derived key of `n` bytes: the key, the label and the context of the derivation. -/
opaque Config.kdf (key label context : List Byte) (n : Nat) : List Byte
/-- The AES-256 block cipher: the 16-byte block of a key and a block. -/
opaque Config.aes (key block : List Byte) : List Byte
/-- AES-256-CMAC (16 bytes). -/
opaque Config.cmac (key m : List Byte) : List Byte
/-- SP 800-108 in counter mode with AES-256-CMAC: `n` bytes from a key, a label and a context (R553). -/
opaque Config.cmacKdf (key label context : List Byte) (n : Nat) : List Byte
/-- The 4-byte entry of the Press map for a unit's channel, chip enable, LUN, erase block and page: the manual gives its size alone (R246, notes/assumptions/68). -/
opaque Config.pressEntry (channel ce lun block page : Nat) : BitVec 32
/-- The 4-byte entry of the Press map for a unit that holds nothing. -/
opaque Config.pressEmpty : BitVec 32
/-- AES-256-GCM encryption: ciphertext followed by the 16-byte tag. -/
opaque Config.gcmSeal (key nonce aad plain : List Byte) : List Byte
/-- AES-256-GCM decryption of a ciphertext with its tag; none where the tag fails. -/
opaque Config.gcmOpen (key nonce aad sealed_ : List Byte) : Option (List Byte)
/-- The plaintext of a sealed tile: AES-256-GCM in counter mode under a key, an IV and associated data, its tag checked elsewhere (R551, R552). -/
opaque Config.gcmPlain (key iv aad cipher : List Byte) : List Byte
/-- Signature verification: scheme, public key, message and signature. -/
opaque Config.verify (scheme : Nat) (key m sig : List Byte) : Bool
/-- A signature: scheme, private key, message and the number of the draw that randomises it. -/
opaque Config.sign (scheme : Nat) (key m : List Byte) (no : Nat) : List Byte
/-- The public key of a private key under a scheme. -/
opaque Config.publicKey (scheme : Nat) (key : List Byte) : List Byte
/-- A Diffie-Hellman secret of P-384: own private key and the peer's public key. -/
opaque Config.ecdh (priv peer : List Byte) : List Byte
/-- ML-KEM encapsulation to a public key with a draw's number: ciphertext and shared secret. -/
opaque Config.kemEncaps (peer : List Byte) (no : Nat) : List Byte × List Byte
/-- ML-KEM decapsulation. -/
opaque Config.kemDecaps (priv ct : List Byte) : List Byte
/-- `n` bytes of DRBG output, named by the number of the request (R467). -/
opaque Config.drbg (no n : Nat) : List Byte
/-- The Gwynund key digest held in Rennet's mask ROM (R518). -/
opaque Config.romKeyDigest : List Byte
/-- The bytes of Rennet's 256 KiB mask ROM (R29): fixed in the part, not printed in the manual. -/
opaque Config.maskRom (offset : Nat) : BitVec 8
/-- The ROM identifier (R482). -/
opaque Config.romId : List Byte
/-- The token that ROM feeds into the flow accumulator at the end of a step (R457). -/
opaque Config.flowToken (step : Nat) : List Byte
/-- Where a debug access lands, whose layout the manual does not give: the partition in the low 6 bits, and above them the device address. Chain 0 is the debug SRAM apertures by offset (R678), and chain 1 the TAP's partition memory instruction by its address (R523, R659). -/
opaque Config.debugPlace (chain addr : Nat) : Nat
/-- The unit-unique response of the PUF (R464). -/
opaque Config.puf (helper : List Byte) : List Byte
/-- The estimator's coefficients (R611): the power in mW that a count of a kind of activity in 1 µs stands for, at a rail voltage in mV. Kinds: 0 matrix cycles, 1 vector-lane cycles, 2 SRAM accesses, 3 mover bytes, 4 port beats. -/
opaque Config.activePower (kind count mv : Nat) : Nat
/-- The leakage power in mW of a core at a rail voltage in mV and a junction temperature (R601, R611). -/
opaque Config.leakage (mv : Nat) (tj : BitVec 16) : Nat

/-- A CBOR data item (R534, R538). -/
inductive Cbor where
  | int (v : Int)
  | bytes (b : List Byte)
  | text (b : List Byte)
  | bool (b : Bool)
  | null
  | array (l : List Cbor)
  | map (l : List (Cbor × Cbor))
  | tag (n : Nat) (c : Cbor)

/-- The encoding of a CBOR item. -/
opaque Config.cbor (c : Cbor) : List Byte
/-- The bytes that COSE signs: algorithm and payload. -/
opaque Config.coseSigned (alg : Int) (payload : List Byte) : List Byte
/-- Whether an evidence token with its chains verifies to the Gwynund roots: both signatures and both chains (R543). -/
opaque Config.evidenceOk (raw : List Byte) : Bool

/-- What the Alias certificate of R531 holds beside its fixed extensions. -/
structure CertFields where
  serial  : List Byte
  subject : List Byte
  publicKey : List Byte
  keyId   : List Byte
  layer   : Nat
  fwid    : List Byte
  svn     : Byte
  vendorInfo : Byte
  ueid    : List Byte

/-- The SubjectPublicKeyInfo of a public key under a scheme. -/
opaque Config.spki (scheme : Nat) (key : List Byte) : List Byte
/-- The part of a certificate that is signed. -/
opaque Config.certBody (f : CertFields) : List Byte
/-- The DER form of a certificate: its signed part and its signature. -/
opaque Config.certDer (body sig : List Byte) : List Byte
/-- The certificates of a chain that the certificate area of NOR stores: root, manufacturing CA and DeviceID (R532). -/
opaque Config.storedCerts (area : List Byte) (slot : Nat) : List (List Byte)

/-- An SPDM request read from a message, with the keys of the sessions that may protect it. -/
opaque Config.spdmDecode (keys : List (List Byte)) (m : List Byte) : SpdmReq
/-- The message of an SPDM response, protected with a session's keys where it is part of one. -/
opaque Config.spdmEncode (keys : List (List Byte)) (r : SpdmRsp) : List Byte
/-- The certificate chain format of SPDM over a chain's certificates. -/
opaque Config.spdmChain (certs : List (List Byte)) : List Byte
/-- The bytes an SPDM signature covers: the number that names the exchange's transcript, and the response's data. -/
opaque Config.spdmTranscript (no : Nat) (data : List Byte) : List Byte
/-- The encoding of measurement blocks. -/
opaque Config.spdmBlocks (l : List MeasBlock) : List Byte
/-- The keys of a session under the SPDM key schedule: its secret and the number of key updates. -/
opaque Config.spdmKeys (secret : List Byte) (gen : Nat) : List Byte
/-- The verify data that FINISH must carry under a session's secret. -/
opaque Config.spdmFinish (secret : List Byte) (session : Nat) : List Byte
/-- The largest response that one SPDM message carries; a longer one is read in chunks. -/
opaque Config.spdmLimit : Nat

/-- The bytes of a formation message. -/
opaque Config.setEncode (m : SetMsg) : List Byte
/-- A formation message read from the bytes of a SECURE message with a code. -/
opaque Config.setDecode (code : Nat) (m : List Byte) : Option SetMsg
/-- Whether an ML-KEM encapsulation key or ciphertext passes the checks of FIPS 203. -/
opaque Config.kemOk (b : List Byte) : Bool

end Sys2Proof
end

