-- ==== Sys2Proof/Machine/State.lean ====
section
/-! DEFINITION. The state of the block: every register, memory, queue, counter, mode and pin the manual names, as plain data.
Each field stands with its reset value; the comment beside it gives the file and rule of spec/ that names it. -/

namespace Sys2Proof.Machine

/-- Why the block stops with a fault. No event that the manual describes leaves the block without a next state; the one reason is an event of a unit the configuration lacks. -/
inductive Fault where
  /-- Raised by every event that names a core at or above the configuration's count: R4 gives the block no such core, so the event cannot occur. Safe: it stops. -/
  | noSuchUnit
  deriving DecidableEq, Repr

/-- Why a command has no meaning. -/
inductive Refusal where
  /-- Raised by the dispatch for a row whose meaning is not written yet. Safe: it stops. -/
  | notModelled (mnemonic : String)
  /-- Raised by TAP_DEBUG_ACCESS with an open right: the manual gives no effect of the debug access instructions beyond their admission (R659). Safe: it stops. -/
  | debugUnitUnspecified
  deriving DecidableEq, Repr

/-- A list of memory cells in canonical form: addresses strictly rising, no entry equal to the default byte. -/
abbrev Mem := List Host.Cell

/-- A W1C event register with its RECUR counter (R18, R21, R22). -/
structure EventReg where
  flags : W32 := 0      -- 00 R18: W1C flags
  recur : BitVec 8 := 0 -- 00 R21: collisions, saturating
  deriving DecidableEq, Repr

/-! ### Chip: what the licensee's die and the unit fix -/

/-- What is fixed outside the block's logic: configuration, straps, identities set at synthesis, the outcome of signature checks, and the stored images. -/
structure Chip where
  ncores   : Nat := 16        -- 00 R4: cores of the configuration
  strapPmb : BitVec 7 := 0    -- 17 R656: voted strap_pmb_addr (input)
  strapMg  : BitVec 7 := 0    -- 17 R656: voted strap_mg_addr (input)
  mipiId   : BitVec 15 := 0   -- 17 R654: integrator's MIPI manufacturer ID, set at synthesis
  jedecId  : BitVec 11 := 0   -- 17 R659: integrator's JEDEC code, set at synthesis
  ulinear16 : Bool := true    -- 16 R609: the regulator's VOUT_MODE reads ULINEAR16
  deriving DecidableEq, Repr

/-! ### Replies to come -/

/-- What a command that is answered later keeps of its packet (R388, R397). -/
structure Pend where
  part   : Nat
  tag    : W32
  opcode : W16
  ring   : BitVec 2
  notify : Bool
  packet : Nat                      -- 09 R388: acceptance number
  deriving DecidableEq, Repr

/-! ### Graph execution -/

/-- Task kinds (R161). -/
inductive Kind where
  | matrix | vector | attention | move | decompress | promote | waitCadence | signal | barrier
  deriving DecidableEq, Repr

/-- Context states (R168). -/
inductive CtxState where
  | free | loaded | waiting | ready | queued | running | held | done
  deriving DecidableEq, Repr

/-- Outcomes of a DONE task (R168). -/
inductive TaskOutcome where
  | none | completed | skipped | late | failed
  deriving DecidableEq, Repr

/-- Deadline policies (R160). -/
inductive Policy where
  | skip | late | fallback
  deriving DecidableEq, Repr

/-- Service classes, highest first (R444). -/
inductive SClass where
  | cadence | interactive | bulk | background
  deriving DecidableEq, Repr

/-- Engine states (R156). -/
inductive EngState where
  | off | idle | busy | hold | fencing | fenced
  deriving DecidableEq, Repr

/-- A successor entry (R164), task index translated to a context number at load (R167). -/
structure Succ where
  ctx     : Nat
  counter : Nat
  deriving DecidableEq, Repr

/-- An operand entry (R162). -/
structure Operand where
  addr   : Nat
  slot   : Nat
  output : Bool
  weight : Bool
  eraely : Bool
  hint   : Nat
  len    : Nat
  stride : Nat
  deriving DecidableEq, Repr

/-- A task descriptor (R160) as a context holds it. -/
structure Task where
  kind     : Kind := .matrix
  hasRelease : Bool := false
  hasDeadline : Bool := false
  engine   : Nat := 15
  policy   : Policy := .skip
  index    : Nat := 0
  core     : Nat := 0
  waits    : List Nat := []
  seed     : W64 := 0
  release  : W32 := 0
  deadline : W32 := 0
  succs    : List Succ := []
  targets  : List (Nat × Succ) := [] -- 04 R167: targets of a signal task, translated at load: core, context and counter
  param    : List Byte := []
  operands : List Operand := []
  deriving DecidableEq, Repr

/-- A task context (R168): the task, its counters and its state. -/
structure Ctx where
  state   : CtxState := .free       -- 04 R168
  part    : Nat := 0                -- 04 R196: owning partition
  graph   : W32 := 0                -- 04 R167: graph handle
  task    : Task := {}              -- 04 R160
  counters : List Nat := []         -- 04 R172: live counter values
  released : Bool := true           -- 05 R220: release time reached
  outcome : TaskOutcome := .none    -- 04 R168
  readyTs : W64 := 0                -- 04 R178: when the task became READY
  cls     : SClass := .interactive  -- 10 R444
  clsSince : W64 := 0               -- 10 R447: when the present class began
  engine  : Option Nat := none      -- 04 R180: engine whose queue holds it
  redisp  : Bool := false           -- 04 R193: returned by a fenced engine
  notes   : Byte := 0               -- 02 R92
  digest  : W64 := 0                -- 03 R150: weight digest
  failure : Option Nat := none      -- 04 R176: status the task failed with
  startTs : W64 := 0                -- 05 R228: when it started
  startExt : W64 := 0               -- 05 R228: external time at its start
  txn     : Option Nat := none      -- 08 R367: transaction of a remote move
  fetched : Bool := false           -- 04 R183: its fetches have started since it entered its queue
  missed  : Bool := false           -- 05 R225: its missed deadline has been noted
  deriving DecidableEq, Repr

/-- An accumulator value: exact integer, or FP32 bits (R63, R67). -/
inductive Acc where
  | int (v : Int)
  | fp (v : W32)
  deriving DecidableEq, Repr

/-- The running task of an engine. -/
structure Running where
  ctx    : Nat                      -- 03 R156: context
  tile   : Nat := 0                 -- 03 R115: tile being run
  ready  : Bool := false            -- 03 R103: its operands are in T0
  acc    : List Acc := []           -- 03 R118: accumulators of the output block
  rowM   : List W32 := []           -- 03 R137: best values of a chunked REDUCE or TOPK row, or ELEM's unfinished byte
  rowL   : List W32 := []           -- 03 R137: indices of those values
  rowO   : List W32 := []           -- 03 R137: lanes of a chunked sum
  notes  : Byte := 0                -- 02 R92
  crc    : W64 := 0                 -- 03 R150: digest register of the weight checksums
  hasW   : Bool := false            -- 03 R150: the task has a weight operand
  objs   : List (Nat × List Byte) := [] -- 04 R185: Eraely objects that a tensor transfer decompressed into T1, by field
  short  : Bool := false            -- 04 R183: an operand byte of the tile was missing
  asked  : Bool := false            -- 06 R257: reads in place of the tile asked for on the memory port
  deriving DecidableEq, Repr

/-- A held tile awaiting its residue repeat (R98, R152): its computed outcome. -/
structure Held where
  run    : Running
  output : List (Nat × Nat × List Byte)
  units  : Nat
  last   : Bool
  t0w    : List (Nat × Nat × List Byte) := [] -- 03 R107: what the tile leaves in T0: field, buffer use, bytes
  deriving DecidableEq, Repr

/-- Where a sample stands (R569 to R572). -/
inductive SampleStage where
  | empty | captured | forced | rep | third | recheck
  deriving DecidableEq, Repr

/-- A check slot of the check store (R569). -/
structure CheckSlot where
  stage   : SampleStage := .empty   -- 15 R569
  part    : Nat := 0                -- 15 R598: partition of the sampled tile
  graph   : W32 := 0                -- 15 R573
  runNo   : Nat := 0                -- 15 R573
  k       : Nat := 0                -- 15 R568: sample number
  at_     : Nat := 0                -- 15 R571: tile units when sampled
  checker : Nat := 0                -- 15 R570: initiator index of the checker
  t0      : List (Nat × Byte) := [] -- 15 R569: T0 as the tile mover filled it for the tile
  before  : List Byte := []         -- 15 R569: the accumulators as they entered the tile
  orig    : List Byte := []         -- 15 R572: ORIG
  dup     : List Byte := []         -- 15 R572: DUP
  rep     : List Byte := []         -- 15 R572: REP
  deriving DecidableEq, Repr

/-- One engine (R26, R155 to R158). -/
structure Engine where
  state  : EngState := .idle        -- 03 R156 STATE
  queue  : List Nat := []           -- 03 R100: tile queue, oldest first
  ptag   : BitVec 6 := 0            -- 03 R156 PTAG
  ctx    : BitVec 10 := 0           -- 03 R156 CTX
  events : EventReg := {}           -- 03 R157 CORE_ENG_EVENTS
  tiles  : W64 := 0                 -- 03 R158 CORE_ENG_TILES
  waits  : W32 := 0                 -- 03 R158 CORE_ENG_WAITS
  digest : W64 := 0                 -- 03 R158 CORE_ENG_DIGEST
  run    : Option Running := none   -- 03 R101: the running task
  held   : Option Held := none      -- 03 R98: the held tile
  t0     : Mem := []                -- 03 R107: engine-local SRAM
  t0Part : Option Nat := none       -- 03 R111: partition of the previous task
  slice  : Nat := 0                 -- 10 R446: tile units since the last switch
  sampleK : Nat := 0                -- 15 R568: samples since the counter was reset
  slot   : CheckSlot := {}          -- 15 R569
  sampleDue : Bool := false         -- 15 R569: a tile that did not fit leaves the sample to the next
  since  : List (W32 × Nat) := []   -- 15 R573: graphs and runs with a tile here since the last passed sample
  permTs : Option W64 := none       -- 15 R575: when it was found permanent
  rampHeld : Bool := false          -- 16 R616: start held by the ramp limiter
  waited : Bool := false            -- 03 R110: the task at the head of the queue has waited for T0 regions
  deriving DecidableEq, Repr

/-- One core: sequencer, contexts, engines and tile mover (R26, R197 to R201). -/
structure Core where
  fenced  : Bool := false           -- 04 R197 STATE (FENCED)
  qlimit  : BitVec 6 := 4           -- 04 R198 QLIMIT
  events  : EventReg := {}          -- 04 R199 CORE_SEQ_EVENTS
  sigSent : W32 := 0                -- 04 R200 CORE_SEQ_SIG_SENT
  sigRecv : W32 := 0                -- 04 R200 CORE_SEQ_SIG_RECV
  redisp  : W32 := 0                -- 04 R200 CORE_SEQ_REDISPATCHED
  doneCnt : W32 := 0                -- 04 R200 CORE_SEQ_DONE
  ctxs    : Tbl Ctx := []           -- 04 R168: 1,024 task contexts
  engines : Tbl Engine := []        -- 01 R26: 8 engines
  tmQueue : List Nat := []          -- 04 R181: tile mover's queue of 64
  tmRun   : Option Nat := none      -- 04 R181: move or decompress task running
  tmWait  : Bool := false           -- 04 R183: that task still waits for its source
  tmAsked : Bool := false           -- 06 R257: its reads in place are asked for
  bytesIn : Nat := 0                -- 04 R200 CORE_TM_BYTES_IN, held in bytes
  bytesOut : Nat := 0               -- 04 R200 CORE_TM_BYTES_OUT, held in bytes
  decompErr : W32 := 0              -- 04 R200 CORE_TM_DECOMP_ERR
  vtime   : Tbl Nat := []           -- 10 R445: virtual time per partition at dispatch
  on      : Bool := false           -- 18 R676 CRP_CORE_ON: the domain is on
  ret     : Bool := false           -- 18 R676 CRP_CORE_RET: the domain is in retention
  iso     : Bool := true            -- 18 R672 pd_COREc_iso
  req     : Bool := false           -- 18 R672 pd_COREc_on
  reqTs   : W64 := 0                -- 18 R674: when pd_COREc_on rose
  inReset : Bool := true            -- 18 R668: held in core reset
  pllLock : Bool := false           -- 18 R662: first PLL of the pair locked
  pllLock2 : Bool := false          -- 18 R662: second PLL of the pair locked
  spareOp : BitVec 3 := 4           -- 18 R663: point the spare is locked for
  op      : BitVec 3 := 5           -- 16 R623 PWR_CORE.OP
  pref    : BitVec 3 := 5           -- 16 R623 PWR_CORE.PREF
  phase   : BitVec 2 := 3           -- 16 R623 PWR_CORE.PHASE
  stretch : Bool := false           -- 16 R623 PWR_CORE.STRETCH
  tj      : W16 := 0                -- 16 R623 PWR_CORE.TJ
  capOp   : BitVec 3 := 7           -- 16 R607: point allowed by the cap loop
  thermOp : BitVec 3 := 7           -- 16 R607: point allowed by thermal throttling
  paceOp  : BitVec 3 := 7           -- 16 R607: point allowed by fabric pace
  droop   : Bool := false           -- 16 R615: period doubled
  skip    : Bool := false           -- 16 R614: skips one cycle in four
  bias    : BitVec 2 := 0           -- 16 R601: fall-back body bias applied
  assist  : BitVec 2 := 0           -- 16 R601: fall-back memory assist applied ([0] write, [1] read)
  busyEng : Nat := 0                -- 16 R616: busy engines granted
  climbOp : BitVec 3 := 7           -- 16 R619: point allowed while a core climbs after a trip
  deriving DecidableEq, Repr

/-- A live run of a graph (R170). -/
structure Run where
  runNo   : Nat := 0                -- 04 R188: distinguishes one run from the next
  cadence : Bool := false           -- 04 R171
  a       : W64 := 0                -- 05 R218: reference time
  released : Bool := true           -- 05 R219: external time has reached A
  tag     : W32 := 0                -- 09 R397
  opcode  : W16 := 0                -- 09 R397
  ring    : BitVec 2 := 0           -- 09 R397
  notify  : Bool := false           -- 09 R391
  standing : Bool := false          -- 09 R397
  index   : Nat := 0                -- 09 R397: release index
  fallback : Bool := false          -- 05 R226: runs as a fallback
  coresDone : List Nat := []        -- 04 R189: cores whose core-done message is held
  failure : Option (Nat × Nat × Nat) := none -- 04 R176: status, task and core of the earliest failure
  ending  : Option Nat := none      -- 15 R573: status of an ending that no task of the run caused
  missed  : Option (Nat × Nat) := none       -- 05 R225: earliest-missed task and its core
  fbFired : Bool := false           -- 05 R224: the fallback has been released
  notes   : Byte := 0               -- 02 R93
  stopped : Bool := false           -- 04 R176: no further task becomes READY
  packet  : Option Nat := none      -- 09 R388: acceptance number of the packet that started it
  signals : List (Nat × Nat × Nat) := [] -- 04 R187: signal messages in flight: core, context, counter
  waiting : Bool := false           -- 04 R169: every task is DONE, its completion held on chip (R390)
  deriving DecidableEq, Repr

/-- A loaded graph (R159, R165, R167). -/
structure Graph where
  part    : Nat := 0                -- 04 R167
  image   : Nat := 0                -- 07 R328: address of the image
  imageCrc : W64 := 0               -- 07 R328
  digest  : List Byte := []         -- 14 R549: SHA-384 over its task and successor arrays
  standing : Bool := false          -- 04 R159 FLAGS
  ntask   : Nat := 0                -- 04 R159
  period  : Nat := 0                -- 04 R159
  fallback : W32 := 0xFFFFFFFF      -- 04 R159
  phase   : W32 := 0                -- 04 R159
  coreMap : List Nat := []          -- 04 R167
  ctxOf   : List (Nat × Nat) := []  -- 04 R167: core and context of task i
  run     : Option Run := none      -- 04 R170
  started : Bool := false           -- 05 R218
  e0      : Option W64 := none      -- 05 R218
  nextK   : Nat := 0                -- 05 R218
  tag     : W32 := 0                -- 09 R397: TAG of the start packet
  notify  : Bool := false           -- 09 R391
  ring    : BitVec 2 := 0           -- 09 R397
  stopping : Option Pend := none    -- 09 R411: stop awaiting the live run
  armed   : Bool := false           -- 06 R276: holds its cadence set
  set     : List Nat := []          -- 06 R276: blocks of the cadence set it holds
  arming  : List (Pend × W64) := [] -- 06 R277: arms in progress and their time limits
  runs    : Nat := 0                -- 04 R188: runs started
  intervalDigest : List W64 := []   -- 08 R376: digests of the interval
  intervalOk : Bool := true         -- 15 R579: COMPLETE so far
  leaving : Bool := false           -- 04 R195: unloaded as its stopped run retires
  deriving DecidableEq, Repr

/-! ### Cadence and streams -/

/-- The cadence block (R242) and the clocks it keeps. -/
structure Cad where
  en      : Bool := false           -- 05 R242 CAD_CTRL.EN
  src     : BitVec 2 := 0           -- 05 R242 SRC
  edge    : Bool := false           -- 05 R242 EDGE
  avg     : BitVec 3 := 2           -- 05 R242 AVG
  lossAct : Bool := false           -- 05 R242 LOSS_ACT
  lossBeats : BitVec 4 := 4         -- 05 R242 LOSS_BEATS
  encDir  : Bool := false           -- 05 R242 ENC_DIR
  lost    : Bool := false           -- 05 R242 LOST
  freewheel : Bool := false         -- 05 R242 FREEWHEEL
  synced  : Bool := false           -- 05 R242 SYNCED
  events  : EventReg := {}          -- 05 R242 CAD_EVENTS
  period  : W32 := 0                -- 05 R242 CAD_BEAT_PERIOD
  beats   : BitVec 48 := 0          -- 05 R210: whole beats
  beatTs  : W64 := 0                -- 05 R242 CAD_BEAT_TS
  extLatch : W32 := 0               -- 05 R242 latched CAD_EXT_HI
  tsLatch : W32 := 0                -- 05 R242 latched CAD_TS_HI
  beatLatch : W32 := 0              -- 05 R242 latched CAD_BEAT_TS_HI
  encDiv  : W16 := 1                -- 05 R242 CAD_ENC_DIV
  srcDev  : BitVec 10 := 0          -- 05 R242 CAD_SRC_DEV
  interval : BitVec 3 := 3          -- 05 R242 INTERVAL
  syncEn  : Bool := true            -- 05 R242 SYNC_EN
  offset  : W32 := 0                -- 05 R242 CAD_SYNC_OFFSET
  phyLat  : Tbl W32 := []           -- 05 R242 CAD_PHY_LAT
  pSkip   : Tbl W32 := []           -- 05 R242 CAD_P_SKIP
  pLate   : Tbl W32 := []           -- 05 R242 CAD_P_LATE
  pFallback : Tbl W32 := []         -- 05 R242 CAD_P_FALLBACK
  pOverrun : Tbl W32 := []          -- 05 R242 CAD_P_OVERRUN
  pStale  : Tbl W32 := []           -- 05 R242 CAD_P_STALE
  realBeats : Nat := 0              -- 05 R207: real beats since enable or relock
  periods : List Nat := []          -- 05 R207: last 2^AVG beat periods, newest first
  realTs  : W64 := 0                -- 05 R208: stamp of the last real beat
  hold    : Bool := false           -- 05 R208: LOSS_ACT 1 in force
  encLast : Option W32 := none      -- 05 R205: count at the last strobe
  encAcc  : Int := 0                -- 05 R205: accumulation
  syncFails : Nat := 0              -- 05 R216: failed exchanges in a row
  slew    : Int := 0                -- 05 R216: offset still to be slewed, in 0.25 ns
  syncTs  : W64 := 0                -- 05 R215: stamp of the last exchange
  slewTs  : W64 := 0                -- 05 R216: stamp of the last ns added or withheld
  loaded  : Bool := false           -- 05 R210: whole beats loaded since cadence was disabled
  frac    : W16 := 0                -- 05 R210, R211: fraction held while disabled
  extFloor : Nat := 0               -- 05 R211: external time already reached, below which it never falls
  deriving DecidableEq, Repr

/-- A slot of a stream ring: its header fields (R232) and its payload. -/
structure Slot where
  ts      : W64 := 0
  ext     : W64 := 0
  seq     : W32 := 0
  len     : Nat := 0
  complete : Bool := false
  trunc   : Bool := false
  gap     : Bool := false
  linkErr : Bool := false
  dur     : W32 := 0
  used    : Bool := false
  data    : Mem := []
  deriving DecidableEq, Repr

/-- A sensor stream (R231, R243). -/
structure Stream where
  owned   : Bool := false           -- 05 R243 OWNED
  tap     : Bool := false           -- 05 R243 TAP
  pinned  : Option Nat := none      -- 05 R243 PINNED: the pinned slot
  owner   : BitVec 6 := 0           -- 05 R243 OWNER
  newest  : Option Nat := none      -- 05 R243 NEWEST
  events  : EventReg := {}          -- 05 R243 STR_S_EVENTS
  frames  : W32 := 0                -- 05 R243 STR_S_FRAMES
  dropped : W32 := 0                -- 05 R243 STR_S_DROPPED
  seq     : W32 := 0                -- 05 R243 STR_S_SEQ
  cut     : Bool := false           -- 05 R231 MODE
  cutBytes : Nat := 0               -- 05 R231 CUT_BYTES
  slotBytes : Nat := 0              -- 05 R231 SLOT_BYTES
  nslots  : Nat := 0                -- 05 R231 SLOTS
  viewAddr : Nat := 0               -- 05 R231 VIEW_ADDR
  bind    : W32 := 0xFFFFFFFF       -- 05 R231 BIND
  maxAge  : Nat := 0                -- 05 R231 MAX_AGE
  tapBytes : Nat := 0               -- 05 R231 TAP
  slots   : Tbl Slot := []          -- 05 R231: the ring
  next    : Nat := 0                -- 05 R233: next slot in ring order
  lastTs  : W64 := 0                -- 05 R232: stamp of the last beat of the frame in progress
  cur     : Option Nat := none      -- 05 R233: slot of the frame in progress
  inFrame : Bool := false           -- 05 R233: a frame is in progress
  dropFrame : Bool := false         -- 05 R233: the frame in progress is not written
  fill    : Nat := 0                -- 05 R233: payload bytes of the frame in progress
  nextSeq : W32 := 0                -- 05 R232: SEQ of the next frame
  lastSeq : Option W32 := none      -- 05 R233: SEQ of the last frame written
  tapLine : Nat := 0                -- 07 R302: first line of the tap ring
  tapCount : W64 := 0               -- 07 R304: the tap's total byte count
  tapTs   : W64 := 0                -- 07 R304: timestamp of the last write
  tapExt  : W64 := 0                -- 07 R304: external time of the last write
  suspended : Bool := false         -- 05 R238: ring empty, next frame carries GAP
  pinRun  : Option Nat := none      -- 05 R234: graph whose live run pins a slot
  deriving DecidableEq, Repr

/-! ### Memory tiers and the Press -/

/-- Block states (R254). -/
inductive BlockState where
  | unmapped | zero | home | fetching | clean | dirty | writeback | view | poisoned
  deriving DecidableEq, Repr

/-- Where the resident copy lies (R250 TIER, RES). -/
inductive Resident where
  | none
  | t1 (core slot : Nat)
  | t2 (slot : Nat)
  | cache (slot : Nat)
  deriving DecidableEq, Repr

/-- Where the home lies (R250 HOME, HOME_ADDR). -/
inductive Home where
  | t3 (offset : Nat)
  | t4 (region block : Nat)
  | view (stream : Nat)
  | tap (stream : Nat)
  deriving DecidableEq, Repr

/-- A block entry (R250). -/
structure Block where
  state   : BlockState := .unmapped -- 06 R250 STATE
  res     : Resident := .none       -- 06 R250 TIER and RES
  home    : Home := .t3 0           -- 06 R250 HOME and HOME_ADDR
  hint    : Nat := 0                -- 06 R250 HINT
  pin     : Bool := false           -- 06 R250 PIN
  cadset  : Nat := 0                -- 06 R276: held sets that name it (CADSET is this count above 0)
  isSealed : Bool := false          -- 06 R250 CLASS
  dirty   : BitVec 16 := 0          -- 06 R250 DIRTY
  landed  : BitVec 16 := 0          -- 06 R256: sectors landed of a fetch
  inWb    : BitVec 16 := 0          -- 06 R256: sectors whose write-back is under way
  lic     : Nat := 255              -- 06 R250 LIC
  users   : Nat := 0                -- 06 R257: use count of tasks
  lastUse : W64 := 0                -- 06 R263: last use
  written : Bool := false           -- 06 R269: the home has been written
  tagBlk  : Bool := false           -- 14 R547: a tag block of a sealed package
  head    : Nat := 0                -- 14 R547: logical block of its package's head in the region
  rewr    : BitVec 16 := 0          -- 06 R256: sectors written again while their write-back is under way
  entryHint : Nat := 0              -- 06 R259: hint of the last operand entry that used the copy; 0 none
  leaving : Bool := false           -- 06 R263: evicted once its write-back ends
  deriving DecidableEq, Repr

/-- What a request of the placement engine's queue asks for (R260). -/
inductive PlaceKind where
  | fetch | flush | evict
  deriving DecidableEq, Repr

/-- A request of the placement engine's queue (R260). -/
structure PlaceReq where
  part  : Nat
  block : Nat
  rank  : Nat                       -- 01 R35: rank
  cls   : SClass                    -- 06 R260: class within rank 5
  dest  : Option Nat := none        -- 06 R259: core of the T1 it installs in; T2 otherwise
  kind  : PlaceKind := .fetch
  ahead : Bool := false             -- 04 R183: for an engine that fetches ahead
  first : Nat := 0                  -- 06 R256: sector that the requester needs first
  deadline : Nat := 0               -- 06 R278: external time of the task's deadline, for reads of the Press
  order : List Nat := []            -- 04 R183: place of its task in the order of R178
  victim : Option Nat := none       -- 06 R261: block of the partition whose write-back frees the slot
  deriving DecidableEq, Repr

/-- What the end of a resize brings into force (R435): the partition, its class, weight and rights. -/
structure ResizeEnd where
  part   : Nat
  cls    : BitVec 2
  weight : BitVec 10
  rights : W32
  deriving DecidableEq, Repr

/-- A flush, a pin or a resize in progress (R264, R266, R435). -/
structure MemWait where
  pend   : Pend
  sectors : List (Nat × BitVec 16)
  of_    : Option ResizeEnd := none -- 10 R435: the resize whose evicted blocks leave their slots
  older  : List (Nat × BitVec 16) := [] -- 06 R256, R266: of those, sectors written again since: a write-back of older data under way ends the wait
  deriving DecidableEq, Repr

/-- A request of the block on a memory port (R626, R642): held until a credit lets it go, then outstanding under its ID. -/
structure MemReq where
  port   : Nat
  id     : Option Nat
  write  : Bool
  part   : Nat
  block  : Nat
  sector : Nat
  addr   : Nat
  again  : Bool
  init   : W16 := 0x2000            -- 17 R627 INIT: initiator that asks
  tag    : BitVec 6 := 0            -- 17 R627 PTAG: partition, or 0x3F for the block's own tables (R429)
  rank   : Nat := 5                 -- 01 R35: rank of the work it serves
  cls    : SClass := .interactive   -- 17 R627 CLASS
  beats  : Nat := 32                -- 17 R627 BEATS
  copy   : Bool := false            -- 06 R262: traffic of a transfer whose data the model moves at once
  deadline : Nat := 2 ^ 64          -- 10 R445: external time of the deadline that cadence-class requests are served by
  host   : Option Nat := none       -- 17 R641: host access whose answer waits for it
  deriving DecidableEq, Repr

/-- The memory tiers block (R299), the sealing group (R561) and the stored bytes. -/
structure MemTiers where
  t3BaseLo : W32 := 0               -- 06 R299 MEM_T3_BASE_LO
  t3BaseHi : W16 := 0               -- 06 R299 MEM_T3_BASE_HI
  t3Size  : W32 := 0                -- 06 R299 MEM_T3_SIZE
  lock    : Bool := false           -- 06 R299 MEM_LOCK
  vPort   : Tbl (Tbl Nat) := []     -- 10 R445: virtual times at each memory port
  vPlace  : Tbl Nat := []           -- 10 R445: virtual times at the placement queue, rank 5
  t3Ready : Bool := false           -- 06 R299 T3_READY
  t4Ready : Bool := false           -- 06 R299 T4_READY
  events  : EventReg := {}          -- 06 R299 MEM_EVENTS
  low     : BitVec 6 := 4           -- 06 R299 LOW
  high    : BitVec 6 := 8           -- 06 R299 HIGH
  btcMiss : W32 := 0                -- 06 R299 MEM_BTC_MISS
  t3Avail : W32 := 0                -- 06 R299 MEM_T3_AVAIL
  pFetch  : Tbl W32 := []           -- 06 R299 MEM_P_FETCH
  pWb     : Tbl W32 := []           -- 06 R299 MEM_P_WB
  pEvict  : Tbl W32 := []           -- 06 R299 MEM_P_EVICT
  pCadMiss : Tbl W32 := []          -- 06 R299 MEM_P_CADMISS
  apBase  : Tbl (BitVec 18) := []   -- 06 R299 MEM_P_APBASE
  maps    : Tbl (Tbl Block) := []   -- 06 R248: block tables, per partition
  mapRoom : Nat := 0                -- 06 R684: block tables that the block map region holds, as sized at start-up
  dir2    : Tbl Nat := []           -- 06 R249: directory 2 of an entry of directory 1, by partition × 4,096 + index
  btab    : Tbl Nat := []           -- 06 R249: block table of an entry of directory 2, by partition × 2^22 + index
  queue   : List PlaceReq := []     -- 06 R260: placement queue
  waits   : List MemWait := []      -- 06 R266: flush, pin and resize replies awaiting the placement engine
  t3      : Mem := []               -- 06 R244: carve-out contents (default 0)
  t4      : Mem := []               -- 06 R244: logical contents of the flash regions (default 0)
  sram    : Mem := []               -- 06 R244: contents of T1 slots, T2 slots and T3-cache copies (default 0)
  btc     : List (Nat × Nat × Nat) := [] -- 06 R252: translation caches: holder, partition, block; most recent first
  zeroOnFree : Bool := false        -- 14 R561 SEAL_CTRL.ZERO_ON_FREE
  liveKey : Bool := false           -- 14 R561 LIVE_KEY
  rawKey  : Bool := false           -- 14 R561 RAW_KEY
  roots   : Tbl W64 := []           -- 14 R556: counter roots
  sealEvents : EventReg := {}       -- 14 R561 SEAL_EVENTS
  liveFails : W32 := 0              -- 14 R561 SEAL_LIVE_FAILS
  sealedFails : W32 := 0            -- 14 R561 SEAL_SEALED_FAILS
  reenc   : W32 := 0                -- 14 R561 SEAL_REENC
  ccMiss  : W32 := 0                -- 14 R561 SEAL_CC_MISS
  gen     : Tbl W32 := []           -- 14 R561 SEAL_GEN
  minor0  : Tbl Nat := []           -- 14 R555: MINOR of each line, by line number
  major0  : Tbl Nat := []           -- 14 R555: MAJOR of level 0
  minor1  : Tbl Nat := []           -- 14 R555: MINOR of level 1
  major1  : Tbl Nat := []           -- 14 R555: MAJOR of level 1
  minor2  : Tbl Nat := []           -- 14 R555: MINOR of level 2
  major2  : Tbl Nat := []           -- 14 R555: MAJOR of level 2
  kLive   : List Byte := []         -- 14 R553: the live-class memory key
  ccache  : List (Nat × Nat) := []  -- 14 R556: counter blocks cached by the sealing engines: port and block, most recent first
  outReq  : List MemReq := []        -- 17 R642: memory-port requests held or outstanding, oldest first
  deriving DecidableEq, Repr

/-- A flash region (R288). -/
structure Region where
  blocks  : Nat := 0                -- 09 R422 BLOCKS; 0 is no region
  mask    : W64 := 0                -- 10 R438 partition mask
  deriving DecidableEq, Repr

/-- Where a flash page unit lies (R288): channel, chip enable, LUN, erase block and page. -/
structure FlashPlace where
  channel : Nat
  ce      : Nat
  lun     : Nat
  block   : Nat
  page    : Nat
  deriving DecidableEq, Repr

/-- A read of a flash page unit that the Press has queued or issued (R278, R294). -/
structure PageRead where
  part   : Nat
  block  : Nat
  region : Nat
  unit   : Nat
  rank   : Nat
  cls    : SClass := .background
  deadline : Nat := 0
  issued : Bool := false
  eblock : Option Nat := none      -- 06 R292: erase block that the issued read reads
  patrol : Bool := false
  host   : Option Nat := none      -- 17 R641: host access whose answer waits for it
  deriving DecidableEq, Repr

/-- The record in a page's spare area: the unit's logical number, write sequence and CRC (R289). -/
structure PageRec where
  region : Nat
  unit   : Nat
  seq    : Nat
  crc    : W32
  deriving DecidableEq, Repr

/-- A NAND erase block as the Press keeps it (R292, R295). -/
structure EBlock where
  reads   : Nat := 0                -- 06 R292: read counter
  erases  : Nat := 0                -- 06 R295: erase count
  retired : Bool := false           -- 06 R295
  free    : Bool := true            -- 06 R295
  open_   : Bool := false           -- 06 R297: being filled by a non-durable change
  erasing : Bool := false           -- 06 R297: erase under way
  units   : List (Nat × Nat) := []  -- 06 R289: valid units it holds (region and unit)
  pages   : List PageRec := []      -- 06 R289: spare records of the pages programmed since its erase, in page order
  deriving DecidableEq, Repr

/-- A flash write awaiting durability (R290, R296). -/
structure FlashWait where
  pend   : Pend
  region : Nat
  first  : Nat                      -- first logical block
  blocks : Nat
  left   : List Nat                 -- units not programmed yet, in order
  placed : List (Nat × FlashPlace)  -- units programmed, with their pages
  data   : List Byte                -- the bytes copied at acceptance
  no     : Nat := 0                 -- number of the write
  deriving DecidableEq, Repr

/-- Why the valid units of an erase block move: a refresh (R293), wear levelling or a retirement (R295). -/
inductive MoveKind where
  | refresh | wear | retire
  deriving DecidableEq, Repr

/-- A move under way of the valid units of one erase block to another (R293, R295). -/
structure FlashMove where
  src    : Nat
  dst    : Nat
  kind   : MoveKind
  left   : List (Nat × Nat)         -- units not copied yet (region and unit)
  placed : List ((Nat × Nat) × FlashPlace) -- units copied, with their new pages
  deriving DecidableEq, Repr

/-- What a LUN does: a page program, of a write by its number or of a move by its source block, or a block erase (R278, R287). -/
inductive FlashWork where
  | write (no region unit : Nat)
  | copy (src region unit : Nat)
  | erase
  deriving DecidableEq, Repr

/-- A program or an erase under way on a LUN (R278). -/
structure FlashOp where
  block : Nat
  page  : Nat := 0
  work  : FlashWork
  deriving DecidableEq, Repr

/-- A change of the Press map that the journal records (R296): units by their map keys. -/
inductive MapChange where
  | write (units : List (Nat × FlashPlace))
  | clear (units : List Nat)
  | move (src dst : Nat) (units : List (Nat × FlashPlace))
  | retire (block : Nat)
  | erase (block : Nat)
  | region (region blocks : Nat)
  deriving DecidableEq, Repr

/-- A record of the journal (R296). -/
structure JournalRec where
  seq    : Nat
  change : MapChange
  crc    : W32
  deriving DecidableEq, Repr

/-- A checkpoint (R296, R300): the map, the read counters with what else the Press keeps of the erase blocks, and the life counters. -/
structure Checkpoint where
  seq    : Nat                       -- sequence number of the last record it holds
  map    : Tbl FlashPlace
  blocks : Tbl EBlock
  counts : W64 × W32 × W32 × W32
  crc    : W32
  deriving DecidableEq, Repr

/-- The ONFI commands that the Press uses (R287). -/
inductive OnfiCmd where
  | reset | readId | readParameterPage | setFeatures | getFeatures | readStatusEnhanced | zqCalibrationLong
  | pageRead | cacheRead | multiPlaneRead | pageProgram | multiPlaneProgram | blockErase | suspend | resume
  deriving DecidableEq, Repr

/-- The signals of a NAND channel between ONFI cycles, with their reset values (R648); `rbN` is the device's. -/
structure NandPins where
  ceN   : BitVec 4 := 0xF            -- 17 R648 nn_ce_n
  cle   : Bool := false              -- 17 R648 nn_cle
  ale   : Bool := false              -- 17 R648 nn_ale
  weN   : Bool := true               -- 17 R648 nn_we_n
  wpN   : Bool := false              -- 17 R648 nn_wp_n
  re    : BitVec 2 := 3              -- 17 R648 nn_re
  dqsO  : BitVec 2 := 0              -- 17 R648 nn_dqs_o
  dqsOe : Bool := false              -- 17 R648 nn_dqs_oe
  dqO   : BitVec 16 := 0             -- 17 R648 nn_dq_o
  dqOe  : Bool := false              -- 17 R648 nn_dq_oe
  rbN   : BitVec 4 := 0xF            -- 17 R648 nn_rb_n: ready, per chip enable
  deriving DecidableEq, Repr

/-- The flash block (R300) and the Press. -/
structure Press where
  channels : BitVec 5 := 0          -- 06 R300 CHANNELS
  rate    : BitVec 2 := 0           -- 06 R300 RATE
  ce      : BitVec 3 := 1           -- 06 R300 CE
  lun2    : Bool := false           -- 06 R300 LUN2
  ready   : Bool := false           -- 06 R300 READY
  recovering : Bool := false        -- 06 R300 RECOVERING
  unclean : Bool := false           -- 06 R300 UNCLEAN
  readOnly : Bool := false          -- 06 R300 READ_ONLY
  lowSpare : Bool := false          -- 06 R300 LOW_SPARE
  events  : EventReg := {}          -- 06 R300 FLASH_EVENTS
  rdLimit : W32 := 0xC350           -- 06 R300 FLASH_RD_LIMIT
  rdLossAdd : W32 := 0x1388         -- 06 R300 FLASH_RD_LOSS_ADD
  days    : BitVec 8 := 7           -- 06 R300 DAYS
  wearSpread : W16 := 0xC8          -- 06 R300 FLASH_WEAR_SPREAD
  refreshBits : BitVec 12 := 0x3C   -- 06 R300 FLASH_REFRESH_BITS
  reads   : W64 := 0                -- 06 R300 FLASH_READS
  readsLatch : W32 := 0             -- 06 R300 latched FLASH_READS_HI
  refreshes : W32 := 0              -- 06 R300 FLASH_REFRESHES
  retries : W32 := 0                -- 06 R300 FLASH_RETRIES
  uncorr  : W32 := 0                -- 06 R300 FLASH_UNCORR
  regions : Tbl Region := []        -- 06 R288
  eblocks : Tbl EBlock := []        -- 06 R292
  nblocks : Nat := 1024             -- 06 R287: erase blocks of the device
  map     : Tbl FlashPlace := []    -- 06 R288: place of each logical unit, by region × 2^28 + unit
  readQ   : List PageRead := []     -- 06 R278: page reads queued and issued
  vtime   : Tbl Nat := []           -- 10 R445: virtual times at the Press, rank 5
  ops     : List FlashOp := []      -- 06 R278: programs and erases under way, one at most for each LUN
  suspended : List Nat := []        -- 06 R278: LUNs whose program or erase is suspended
  canSuspend : Bool := false        -- 06 R278: the device declares program and erase suspend
  refreshQ : List Nat := []         -- 06 R292: blocks awaiting refresh
  retireQ : List Nat := []          -- 06 R295: retired blocks whose valid data is still to be rewritten
  moves   : List FlashMove := []    -- 06 R293, R295: moves under way
  journal : List JournalRec := []   -- 06 R296: records since the checkpoint before the last
  journalSeq : Nat := 0             -- 06 R296: sequence number of the last record
  writeSeq : Nat := 0               -- 06 R289: write sequence of the last page programmed
  writeNo : Nat := 0                -- 06 R290: number of the next write
  ckpts   : List Checkpoint := []   -- 06 R296, R297: the last two checkpoints, newest first
  lastCkpt : W64 := 0               -- 06 R296: stamp of the last checkpoint
  patrolAt : Tbl Nat := []          -- 06 R294: next unit patrolled, per channel
  patrolTs : Tbl Nat := []          -- 06 R294: stamp of the last patrol read, per channel
  factoryBad : List Nat := []       -- 06 R295: blocks that carry the factory bad-block marker
  mapKept : Bool := false           -- 06 R298: the carve-out kept the map
  cellLat : BitVec 4 := 0           -- 17 R649: latency of the I/O cells, 8 ONFI cycles at most
  readLat : BitVec 4 := 0           -- 17 R649: latency measured at bring-up
  lastCmd : Tbl OnfiCmd := []       -- 06 R287: last ONFI command sent, per channel
  nand    : Tbl NandPins := []      -- 17 R648: signals of the NAND channels
  busy    : List FlashWait := []    -- 06 R290: write and erase commands in progress
  dirtyStop : Bool := false         -- 06 R297: the last stop was unclean
  deriving DecidableEq, Repr

/-! ### Sprout, the ladder and power states -/

/-- Power states (R315). -/
inductive PState where
  | a | i | t | w | s | o
  deriving DecidableEq, Repr

/-- Rung states (R323). -/
inductive Rung where
  | down | rising | up | falling
  deriving DecidableEq, Repr

/-- An entry of a pre-warm set (R329, R414). -/
structure PreWarm where
  part   : Nat
  block  : Nat
  blocks : Nat
  dest   : Option Nat
  deriving DecidableEq, Repr

/-- The Sprout block (R335), the ladder and the power sequence. -/
structure Sprout where
  watchEn : Bool := false           -- 07 R335 WATCH_EN
  autoI   : Bool := true            -- 07 R335 AUTO_I
  autoT   : Bool := false           -- 07 R335 AUTO_T
  autoDemote : Bool := true         -- 07 R335 AUTO_DEMOTE
  maxRung : BitVec 2 := 3           -- 07 R335 MAX_RUNG
  pstate  : PState := .a            -- 07 R335 PSTATE
  target  : BitVec 2 := 3           -- 07 R335 TARGET
  l1      : Rung := .up             -- 07 R335 RUNG (reset 0b11: every rung UP)
  l2      : Rung := .up             -- 07 R335 RUNG
  l3      : Rung := .up             -- 07 R335 RUNG
  source  : BitVec 2 := 0           -- 07 R335 SOURCE
  pc      : BitVec 6 := 0           -- 07 R335 PC
  wakeOut : Bool := false           -- 07 R335 WAKE_OUT
  events  : EventReg := {}          -- 07 R335 SPR_EVENTS
  wakeEn  : BitVec 7 := 0x6F        -- 07 R335 SPR_WAKE_EN
  wakeCause : BitVec 7 := 0         -- 07 R335 SPR_WAKE_CAUSE
  first   : BitVec 3 := 0           -- 07 R335 FIRST
  period  : W32 := 0x186A0          -- 07 R335 SPR_WATCH_PERIOD
  onTime  : W32 := 0x2710           -- 07 R335 SPR_WATCH_ON
  demoteIdle : W16 := 0x2710        -- 07 R335 SPR_DEMOTE_IDLE
  idleT   : W16 := 0x32             -- 07 R335 SPR_IDLE_T
  group   : BitVec 4 := 2           -- 07 R335 GROUP
  wakeHold : W16 := 0x64            -- 07 R335 SPR_WAKE_HOLD
  aonTimer : W32 := 0               -- 07 R335 SPR_AON_TIMER, as last written
  aonTs   : W64 := 0                -- 07 R335: when it was written
  hitTs   : W64 := 0                -- 07 R335 SPR_HIT_TS
  hitTsLatch : W32 := 0             -- 07 R335 latched SPR_HIT_TS_HI
  hitExt  : W64 := 0                -- 07 R335 SPR_HIT_EXT
  hitExtLatch : W32 := 0            -- 07 R335 latched SPR_HIT_EXT_HI
  hitScore : W32 := 0               -- 07 R335 SPR_HIT_SCORE
  hitPacket : BitVec 6 := 0         -- 07 R335 SPR_HIT_INFO packet
  hitStream : BitVec 5 := 0         -- 07 R335 SPR_HIT_INFO stream
  hitRung : BitVec 2 := 0           -- 07 R335 SPR_HIT_INFO rung
  hitTapCnt : W32 := 0              -- 07 R335 SPR_HIT_TAPCNT
  windows : W32 := 0                -- 07 R335 SPR_WINDOWS
  hits    : W32 := 0                -- 07 R335 SPR_HITS
  promotions : W32 := 0             -- 07 R335 SPR_PROMOTIONS
  demotions : W32 := 0              -- 07 R335 SPR_DEMOTIONS
  sram    : Mem := []               -- 07 R302: Sprout SRAM (default 0)
  owner   : Option Nat := none      -- 07 R313: owning partition
  dataLine : Nat := 32              -- 07 R302: first data line
  dataEnd : Nat := 32               -- 07 R302: line past the loaded data
  tapLow  : Nat := 4096             -- 07 R302: lowest line taken by tap rings
  npkt    : Nat := 0                -- 07 R302: packets of the program
  inWindow : Bool := false          -- 07 R305: a window is open
  running : Bool := false           -- 07 R305: the program runs
  onOpen  : Bool := false           -- 07 R305: tapped ports accept data
  windowDue : Bool := false         -- 07 R305: the next window waits for this one
  windowTs : W64 := 0               -- 07 R305: when the last window fell due, or the watch was started
  openTs  : W64 := 0                -- 07 R305: when the open window opened
  score   : W32 := 0                -- 07 R311: current score
  lastStream : Nat := 0             -- 07 R310: stream of the most recent WINDOW
  history : Tbl (List Bool) := []   -- 07 R309: results of a TEST packet's last windows, newest first
  wakeOutTs : W64 := 0              -- 07 R314: last assertion
  iSince  : W64 := 0                -- 07 R315: when I was entered
  idleSince : W64 := 0              -- 07 R315: when the instance last became idle
  rungIdle : Tbl W64 := []          -- 07 R326: idle timers of the rungs
  riseAt  : W64 := 0                -- 07 R325: reference of the rise in progress
  preWarm : Tbl (List PreWarm) := [] -- 07 R329: pre-warm sets by rung
  preQueue : List PreWarm := []     -- 07 R329: pre-warm entries waiting for their storage, oldest first
  restoring : Option PState := none -- 07 R320: state a restore started from
  wakeTs  : W64 := 0                -- 07 R320: the wake latched
  draining : Option PState := none  -- 07 R316: state being entered
  falling : Option Nat := none      -- 07 R326: rung whose switch-off runs
  isoDone : Bool := false           -- 07 R322: isolation asserted
  askPower : Option PState := none  -- 17 R655: state the management port asked for while no array controller ran
  heldBeats : List (Nat × StreamBeat) := [] -- 05 R240: the beat that each port holds back until state A
  heldHost : List (BitVec 96 × BitVec 3 × List WriteBeat) := [] -- 07 R319: host accesses held
  startedAt : W64 := 0              -- 07 R332: start-up
  everAttached : Bool := false      -- 07 R332: a session has attached since start-up
  deriving DecidableEq, Repr

/-! ### Fabric -/

/-- Fabric port states (R379). -/
inductive LinkState where
  | off | detect | training | up | lp | sleep | down
  deriving DecidableEq, Repr

/-- A frame queued for a port (R350, R359). -/
structure Frame where
  type  : Byte
  vc    : BitVec 2
  dst   : Nat
  src   : Nat
  hops  : Nat
  bcast : Bool
  ptag  : Nat
  last  : Bool
  refused : Bool
  arg   : W64
  payload : List Byte
  deriving DecidableEq, Repr

/-- A fabric port (R379) and its link. -/
structure Port where
  en      : Bool := true            -- 08 R379 EN
  rateMax : BitVec 2 := 2           -- 08 R379 RATE_MAX
  lanesMax : BitVec 2 := 2          -- 08 R379 LANES_MAX
  state   : LinkState := .off       -- 08 R379 STATE
  lanes   : BitVec 2 := 0           -- 08 R379 LANES
  rate    : BitVec 2 := 0           -- 08 R379 RATE
  uplink  : Bool := false           -- 08 R379 UPLINK
  neigh   : BitVec 10 := 0          -- 08 R379 NEIGH_ID
  neighPort : BitVec 3 := 0         -- 08 R379 NEIGH_PORT
  crc     : W32 := 0                -- 08 R379 FAB_PORT_CRC
  replay  : W32 := 0                -- 08 R379 FAB_PORT_REPLAY
  retrains : W32 := 0               -- 08 R379 FAB_PORT_RETRAINS
  txFlits : W32 := 0                -- 08 R379 FAB_PORT_TXFLITS
  rxFlits : W32 := 0                -- 08 R379 FAB_PORT_RXFLITS
  phyReady : Bool := false          -- 17 R646 ff_ready
  step    : Nat := 0                -- 08 R339: bring-up step
  restartAt : Option W64 := none    -- 08 R339: 10 ms restart
  rateReq : BitVec 2 := 0           -- 17 R646 ff_rate
  rateAck : Bool := false           -- 17 R646 ff_rate_ack
  tryRate : BitVec 2 := 2           -- 08 R340: rate being tried
  tryLanes : BitVec 2 := 2          -- 08 R340: lanes being tried
  txSeq   : BitVec 12 := 0          -- 08 R342: next SEQ to be sent
  rxSeq   : BitVec 12 := 0          -- 08 R342: next SEQ expected
  ackIn   : BitVec 12 := 0xFFF      -- 08 R342: last SEQ acknowledged to us
  nak     : Bool := false           -- 08 R342: NAK to be sent
  replayBuf : List Flit := []       -- 08 R343: unacknowledged flits, oldest first
  replays : List Nat := []          -- 08 R344: replays of the oldest flit and stamps
  oneReplay : Nat := 0              -- 08 R344: replays of one flit
  retrainTs : List W64 := []        -- 08 R344: stamps of retrains
  credits : Tbl Nat := []           -- 08 R347: credits held per channel, in 32-byte units
  rxBuf   : Tbl (List Byte) := []   -- 08 R346: receive buffer per channel
  queue   : List Frame := []        -- 08 R347: frames waiting to leave
  stepAt  : W64 := 0                -- 08 R339: stamp at which the bring-up step began
  live    : Bool := false           -- 08 R344: the link has been UP and has not gone DOWN since
  owed    : Tbl Nat := []           -- 08 R347: credits to be returned per channel, in 32-byte units
  lastIdle : Option W64 := none     -- 08 R343: header of the last IDLE flit sent
  ownAt   : Nat := 0                -- 08 R348: timestamp from which the next management frame of this device's own making may leave
  wakeHold : Bool := false          -- 08 R365: frames held for a SLEEP link
  capsRate : BitVec 2 := 2          -- 08 R339: exchanged capabilities
  lastRx  : W64 := 0                -- 08 R344: last flit received
  deriving DecidableEq, Repr

/-- What a device holds of another device (R353, R356). -/
structure Origin where
  serial  : BitVec 128 := 0
  state   : BitVec 2 := 0
  cores   : Nat := 0
  beatSrc : BitVec 2 := 0
  beaconSeq : Option W32 := none
  beaconTs : W64 := 0
  lsaSeq  : Option W32 := none
  lsaTs   : W64 := 0
  sleeping : Bool := false
  links   : List LsaLink := []
  deriving DecidableEq, Repr

/-- A routing entry (R380). -/
structure Route where
  port  : BitVec 3 := 7             -- 08 R380 PORT
  alt   : BitVec 3 := 7             -- 08 R380 ALT
  hops  : BitVec 5 := 0             -- 08 R380 HOPS
  valid : Bool := false             -- 08 R380 VALID
  sleep : Bool := false             -- 08 R380 SLEEP
  deriving DecidableEq, Repr

/-- A barrier group slot (R370, R380). -/
structure Barrier where
  id     : W16 := 0                 -- 08 R380 FAB_BAR_ID
  valid  : Bool := false            -- 08 R380 VALID
  coord  : BitVec 10 := 0           -- 08 R380 COORD
  gen    : W32 := 0                 -- 08 R380 FAB_BAR_GEN
  wait   : W32 := 0                 -- 08 R380 FAB_BAR_WAIT
  slowest : BitVec 10 := 0          -- 08 R380 SLOWEST
  spread : W16 := 0                 -- 08 R380 SPREAD
  owner  : Nat := 0                 -- 08 R370: partition that set it
  members : List (Nat × Nat) := []  -- 08 R370: devices and partitions
  arrived : List (W32 × Nat × W64) := [] -- 08 R371: arrivals held: generation, member, stamp
  pend   : Option (Nat × Nat × W32 × W64) := none -- 08 R372: own pending task: core, context, generation, ARRIVE stamp
  hist   : List (Nat × Nat) := []   -- 16 R617: waits and spans of the last 16 barriers
  lastRel : W64 := 0                -- 16 R617: stamp of the last release
  deriving DecidableEq, Repr

/-- A remote move in flight (R367, R368). -/
structure Txn where
  core   : Nat
  ctx    : Nat
  dev    : Nat
  frames : List (Nat × List Byte)   -- 08 R368: unacknowledged frames: address and bytes
  resends : Nat := 0
  refused : Bool := false
  sentTs : W64 := 0
  deriving DecidableEq, Repr

/-- A replica job (R375). -/
structure Job where
  valid   : Bool := false
  owner   : Nat := 0
  members : List (Nat × Nat × W32) := [] -- device, partition, handle
  interval : Nat := 64
  held    : List (W32 × Nat × W64 × W64 × Bool) := [] -- 15 R580: interval, member, A, value, COMPLETE
  deriving DecidableEq, Repr

/-- The fabric block (R378 to R380). -/
structure Fab where
  en      : Bool := false           -- 08 R378 EN
  idFixed : Bool := false           -- 08 R378 ID_FIXED
  fixedId : BitVec 10 := 0          -- 08 R378 FIXED_ID
  paceEn  : Bool := false           -- 08 R378 PACE_EN
  lock    : Bool := false           -- 08 R378 LOCK
  id      : BitVec 10 := 0          -- 08 R378 ID
  idState : BitVec 2 := 0           -- 08 R378 ID_STATE
  conflict : Bool := false          -- 08 R354: fixed ID kept out of use
  freeze  : Bool := false           -- 08 R378 FREEZE
  freezeAt : W64 := 0               -- 08 R360: start of the freeze
  rootId  : BitVec 10 := 0          -- 08 R378 ROOT_ID
  isRoot  : Bool := false           -- 08 R378 ROOT
  depth   : BitVec 5 := 0           -- 08 R378 DEPTH
  events  : EventReg := {}          -- 08 R378 FAB_EVENTS
  ackTimeout : W16 := 0x32          -- 08 R378 FAB_ACK_TIMEOUT
  resendMax : BitVec 4 := 3         -- 08 R378 RESEND_MAX
  reportDev : BitVec 10 := 0        -- 08 R378 FAB_REPORT_DEV
  useRoot : Bool := true            -- 08 R378 USE_ROOT
  ports   : Tbl Port := []          -- 08 R379
  routes  : Tbl Route := []         -- 08 R380
  db      : Tbl Origin := []        -- 08 R356
  bars    : Tbl Barrier := []       -- 08 R380: 64 slots
  jobs    : Tbl Job := []           -- 08 R375: 16 slots
  binds   : List (Nat × Nat × Nat) := [] -- 08 R366: partition, device, partition there
  txns    : Tbl Txn := []           -- 08 R367
  nextTxn : Nat := 0                -- 08 R367
  beaconAt : W64 := 0               -- 08 R353: stamp of the last beacon sent
  lsaAt   : W64 := 0                -- 08 R356: stamp of the last LSA sent
  claimAt : W64 := 0                -- 08 R354: start of the TENTATIVE period
  beaconSeq : W32 := 0              -- 08 R350: own beacon sequence number
  lsaSeq  : W32 := 0                -- 08 R356: own LSA sequence number
  sleeping : Bool := false          -- 08 R363: own LSA says SLEEPING
  heldFrames : List Frame := []     -- 08 R360: bulk and control frames held by a freeze
  dbChanged : Bool := false         -- 08 R360: the database changed since the last table
  secure  : Tbl (List Byte) := []   -- 14 R536: SECURE messages being assembled, by device
  seenBcast : List (Nat × Byte × W32) := [] -- 08 R351: broadcasts already seen
  deriving DecidableEq, Repr

/-! ### Partitions, sessions and mailboxes -/

/-- Session states (R398). -/
inductive Session where
  | none | attached | detached
  deriving DecidableEq, Repr

/-- Partition states (R453). -/
inductive PartState where
  | absent | ready | resetting
  deriving DecidableEq, Repr

/-- What a list in device memory reads as: its bytes, or a part of it unmapped or poisoned (R254, R407). -/
inductive ListCopy where
  | unmapped
  | poisoned
  | bytes (l : List Byte)
  deriving DecidableEq, Repr

/-- A packet in hand (R386, R387): its 512 bytes, ring and acceptance number. -/
structure Packet where
  bytes  : List Byte
  list   : Option ListCopy := none  -- 09 R407: its list named by address, copied at acceptance
  ring   : BitVec 2
  number : Nat
  ext    : W64 := 0                 -- 05 R218: external time at acceptance
  beat   : Option W64 := none       -- 05 R218: whole-beat value of the first beat after acceptance
  deriving DecidableEq, Repr

/-- A completion entry (R397) before its PHASE is known. -/
structure Completion where
  tag    : W32 := 0
  status : W16 := 0
  opcode : W16 := 0
  detail : W32 := 0
  obj    : W32 := 0xFFFFFFFF
  ts     : W64 := 0
  state  : Byte := 0
  ring   : BitVec 2 := 0
  run    : Bool := false
  standing : Bool := false
  release : BitVec 24 := 0
  notify : Bool := false
  deriving DecidableEq, Repr

/-- One submission ring (R392). -/
structure Ring where
  baseLo : W32 := 0                 -- 09 R392 PART_SQ_BASE_LO
  baseHi : W16 := 0                 -- 09 R392 PART_SQ_BASE_HI
  size   : BitVec 4 := 0            -- 09 R392 PART_SQ_CFG.SIZE
  head   : W16 := 0                 -- 09 R392 PART_SQ_HEAD
  tail   : W16 := 0                 -- 09 R383: tail of the last doorbell
  deriving DecidableEq, Repr

/-- A partition: page (R392), configuration view (R453), holdings (R428) and session (R400). -/
structure Part where
  session : Session := .none        -- 09 R392 PART_SESSION.STATE
  minor   : BitVec 8 := 0           -- 09 R392 MINOR
  events  : EventReg := {}          -- 09 R392 PART_EVENTS
  heartbeat : W32 := 0              -- 09 R392 PART_HEARTBEAT
  hbLimit : W16 := 0xFA             -- 09 R392 PART_HB_LIMIT
  hbTs    : W64 := 0                -- 09 R402: last refresh
  rings   : Tbl Ring := []          -- 09 R382: 4 submission rings
  cqBaseLo : W32 := 0               -- 09 R392 PART_CQ_BASE_LO
  cqBaseHi : W16 := 0               -- 09 R392 PART_CQ_BASE_HI
  cqSize  : BitVec 4 := 0           -- 09 R392 PART_CQ_CFG.SIZE
  cqTail  : W16 := 0                -- 09 R392 PART_CQ_TAIL
  cqHead  : W16 := 0                -- 09 R392 PART_CQ_HEAD
  cqLost  : W32 := 0                -- 09 R392 PART_CQ_LOST
  sqDropped : W32 := 0              -- 09 R392 PART_SQ_DROPPED
  logWr   : W32 := 0                -- 09 R392 PART_LOG_WR
  glogWr  : W32 := 0                -- 09 R392 PART_GLOG_WR
  token   : W64 := 0                -- 09 R404: session token
  cqVector : BitVec 8 := 0          -- 09 R408 CQ_VECTOR
  logVector : BitVec 8 := 0         -- 09 R408 LOG_VECTOR
  held    : List Completion := []   -- 09 R390: queue of held completions
  inHand  : List Packet := []       -- 09 R387: packets in hand, in acceptance order
  accepted : Nat := 0               -- 09 R388: packets accepted
  openPkts : List (Nat × Bool) := [] -- 09 R388: packets not yet completed, and their FENCE flags
  nextRing : BitVec 2 := 0          -- 09 R387: ring whose turn it is
  attachWait : Option Packet := none -- 09 R404: forced attach awaiting live runs
  cls     : BitVec 2 := 0           -- 10 R453 CLASS
  weight  : BitVec 10 := 0          -- 10 R453 WEIGHT
  tileMode : Bool := false          -- 10 R453 TILE_MODE
  state   : PartState := .absent    -- 10 R453 STATE
  rights  : W32 := 0                -- 10 R453 PART_RIGHTS
  cores   : W64 := 0                -- 10 R453 PART_CORES
  qT1     : W32 := 0                -- 10 R453 PART_Q_T1
  qT2     : W32 := 0                -- 10 R453 PART_Q_T2
  qT3     : W32 := 0                -- 10 R453 PART_Q_T3
  qT4c    : W32 := 0                -- 10 R453 PART_Q_T4C
  qCtx    : BitVec 11 := 0          -- 10 R453 PART_Q_CTX
  resets  : W16 := 0                -- 10 R453 PART_RESETS.COUNT
  resetCause : BitVec 3 := 0        -- 10 R453 CAUSE
  ageRises : W32 := 0               -- 10 R453 PART_AGE_RISES
  gateRefused : W32 := 0            -- 10 R453 PART_GATE_REFUSED
  intAddr : W64 := 0                -- 10 R453 PART_INT_ADDR
  intLatch : W32 := 0               -- 10 R453 latched PART_INT_ADDR_HI
  ageBulk : W16 := 5                -- 10 R453 BULK
  ageBack : W16 := 0x32             -- 10 R453 BACKGROUND
  slice   : BitVec 8 := 0x40        -- 10 R453 PART_SLICE
  pend    : BitVec 256 := 0         -- 10 R453 PART_INT_PEND
  remap   : Tbl W32 := []           -- 10 R453 PART_REMAP (default: masked)
  extents : List (Nat × Nat) := []  -- 10 R428: carve-out extents of T3 homes, base and blocks
  cacheExt : List (Nat × Nat) := [] -- 10 R428: carve-out extents of the T4 cache
  resetTag : List Pend := []        -- 10 R449, R451: replies of the reset commands
  prefs   : W32 := 0x5455           -- 16 R623 PWR_PREF
  logAddr : Nat := 0                -- 09 R420: log ring
  logSize : Nat := 0                -- 09 R420: log2 of entries; 0 none
  trcEnable : List Byte := []       -- 09 R420 ENABLE
  trcAddr : Nat := 0                -- 09 R420: trace ring
  trcSize : Nat := 0                -- 09 R420
  trcWr   : Nat := 0                -- 09 R427: trace entries written
  btVirt  : Nat := 0                -- 10 R445: virtual time at packet intake
  deriving DecidableEq, Repr

/-- A mailbox to Rennet (R423, R424). -/
structure Mbx where
  out     : List W32 := List.replicate 8 0 -- 09 R423 MBX_OUT
  inn     : List W32 := List.replicate 8 0 -- 09 R423 MBX_IN
  outFull : Bool := false           -- 09 R423 OUT_FULL
  inValid : Bool := false           -- 09 R423 IN_VALID
  timeout : Bool := false           -- 09 R423 TIMEOUT
  inSender : W16 := 0               -- 09 R423 IN_SENDER
  events  : EventReg := {}          -- 09 R423 MBX_EVENTS
  vector  : BitVec 8 := 0           -- 09 R423 VECTOR
  irqEn   : Bool := false           -- 09 R423 IRQ_EN
  limit   : BitVec 20 := 0x1F40     -- 09 R423 MBX_TIMEOUT
  sentAt  : W64 := 0                -- 09 R424: when SEND took place
  outSender : W16 := 0              -- 09 R424: initiator ID stamped by SEND
  reply   : Option (List W32) := none -- 11 R478: reply waiting for the inbound slot
  served  : Bool := false           -- 11 R478: the queued message has been served
  deriving DecidableEq, Repr

/-! ### Rennet, the Cave, the big-number engine -/

/-- Boot states (R487). -/
inductive BootState where
  | booting | verified | degraded | noImage | recovery
  deriving DecidableEq, Repr

/-- An image transfer (R479). -/
structure Transfer where
  holder  : Nat                     -- 11 R479: mailbox that holds it
  len     : Nat
  offset  : Nat := 0
  staged  : List Byte := []
  ok      : Bool := false           -- manifest passed
  isEnded : Bool := false
  lastTs  : W64 := 0
  deriving DecidableEq, Repr

/-- A request transfer: signed request (R519) or SPDM request (R536). -/
structure ReqXfer where
  holder : Nat
  kind   : Nat
  len    : Nat
  bytes  : List Byte := []
  deriving DecidableEq, Repr

/-- Rennet: its status group (R487), its working values and its stores. -/
structure Rennet where
  boot    : BootState := .booting   -- 11 R487 STATE
  updatePending : Bool := false     -- 11 R487 UPDATE_PENDING
  svnPending : Bool := false        -- 11 R487 SVN_PENDING
  caveLocked : Bool := false        -- 11 R487 CAVE_LOCKED
  caveOff : Bool := false           -- 11 R476: the Cave is disabled until the next start-up
  entropyFail : Bool := false       -- 11 R487 ENTROPY_FAIL
  cause   : BitVec 6 := 0           -- 11 R487 CAUSE
  noimg   : BitVec 3 := 0           -- 11 R487 NOIMG
  svnImage : BitVec 8 := 0          -- 11 R487 RNT_SVN.IMAGE
  svnOtp  : BitVec 8 := 0           -- 11 R487 RNT_SVN.OTP
  keySlot : BitVec 2 := 0           -- 11 R487 KEY_SLOT
  consec  : BitVec 2 := 0           -- 11 R487 RNT_WDOG.CONSEC
  total   : W16 := 0                -- 11 R487 RNT_WDOG.TOTAL
  handover : W32 := 0               -- 11 R487 RNT_HANDOVER
  brine   : W16 := 0x3E8            -- 11 R487 RNT_BRINE
  version : W64 := 0                -- 11 R487 RNT_VERSION
  versionLatch : W32 := 0           -- 11 R487 latched RNT_VERSION_HI
  events  : EventReg := {}          -- 11 R487 RNT_EVENTS
  halted  : Bool := false           -- 11 R455: core halted
  stopped : Bool := false           -- 11 R460: stopped at step 3
  refTs   : W64 := 0                -- 11 R460: reference of the start-up
  step    : Nat := 0                -- 11 R460: last step reached
  flow    : List Byte := []         -- 11 R457: flow accumulator
  patches : Tbl (List Byte) := []   -- 11 R456: dispatch slots patched
  cave    : Tbl (List Byte) := []   -- 11 R483: the value of each slot
  masks   : Tbl (List Byte) := []   -- 11 R483: the mask of each slot
  drbgN   : Nat := 0                -- 11 R467: requests generated (names the next output)
  drbgSince : Nat := 0              -- 11 R467: requests since the last reseed
  drbgOn  : Bool := false           -- 11 R467: the DRBG runs
  reseedAt : W64 := 0               -- 11 R467: the last reseed
  wdogAt  : W64 := 0                -- 11 R458: the last refresh of the watchdog
  brineAt : W64 := 0                -- 11 R483: the last rewriting of the Cave's shares
  healthFails : Nat := 0            -- 11 R468: failures in a row
  manifest : List Byte := []        -- 11 R473: the manifest in Rennet SRAM
  config  : List Byte := []         -- 11 R473: the configuration section
  ctlImage : List Byte := []        -- 11 R473: array controller section loaded
  flcImage : List Byte := []        -- 11 R473: Press section loaded
  sram    : Mem := []               -- 01 R29: Rennet's 256 KiB SRAM (default 0): the staging buffer in its top 64 KiB and the patch code
  ctlSram : Mem := []               -- 01 R29: the array controller's 2 MiB SRAM as Rennet loads it (default 0)
  flcSram : Mem := []               -- 11 R473: the flash controller's 128 KiB instruction SRAM (default 0)
  xfer    : Option Transfer := none -- 11 R479
  req     : Option ReqXfer := none  -- 13 R519
  nonce   : Option (List Byte × W64) := none -- 13 R519: held nonce and when it was drawn
  aliasCerts : List (List Byte) := [] -- 14 R532: the two alias certificates, once made
  tapRennet : Bool := false         -- 13 R526
  mRom    : List Byte := []         -- 11 R482: M_ROM
  nor     : Mem := []               -- 17 R651: NOR contents (default 0xFF)
  bnFaults : Nat := 0               -- 12 R496: consecutive FAULT endings
  wake    : Bool := false           -- 11 R463: this start-up is a return from S
  debugLimit : W32 := 0             -- 13 R528 ID_DEBUG_LIMIT
  debugRights : BitVec 5 := 0       -- 13 R528 ID_DEBUG
  deriving DecidableEq, Repr

/-- A big-number command running on the datapath (R492): what it will write. -/
structure BnRun where
  op      : Byte
  dst     : Nat
  words   : List W32
  marks   : Bool
  result  : BitVec 3
  flag    : Bool
  cycles  : Nat
  cave    : Option (Nat × List Byte) := none -- KEYSTORE's slot and value
  zeroSrc : Option (Nat × Nat) := none       -- KEYSTORE's words to zero
  deriving DecidableEq, Repr

/-- The big-number engine (R502). -/
structure Bn where
  owner   : BitVec 3 := 0           -- 12 R502 OWNER
  op      : BitVec 8 := 0           -- 12 R502 OP
  size    : BitVec 2 := 0           -- 12 R502 SIZE
  gen     : Bool := false           -- 12 R502 GEN
  q       : Bool := false           -- 12 R502 Q
  dst     : BitVec 11 := 0          -- 12 R502 BN_DST
  src0    : BitVec 11 := 0          -- 12 R502 BN_SRC0
  src1    : BitVec 11 := 0          -- 12 R502 BN_SRC1
  src2    : BitVec 11 := 0          -- 12 R502 BN_SRC2
  stream  : Bool := false           -- 12 R502 STREAM
  modu    : BitVec 11 := 0          -- 12 R502 BN_MOD
  wiping  : Bool := true            -- 12 R502 WIPING
  result  : BitVec 3 := 0           -- 12 R502 RESULT
  flag    : Bool := false           -- 12 R502 FLAG
  events  : EventReg := {}          -- 12 R502 BN_EVENTS
  faults  : W32 := 0                -- 12 R502 BN_FAULTS
  cycles  : W32 := 0                -- 12 R502 BN_CYCLES
  mem     : Tbl W32 := []           -- 12 R488: operand memory
  marks   : Tbl Bool := []          -- 12 R489: SECRET marks
  run     : Option BnRun := none    -- 12 R492: BUSY while some
  deriving DecidableEq, Repr

/-- OTP and the identity registers (R503, R528). -/
structure Otp where
  cells   : Mem := []               -- 13 R503: the macro's bytes (default 0)
  weak    : List Nat := []          -- 13 R507: words that read differently at the tightened reference
  shadow  : Mem := []               -- 13 R507: shadow registers
  serial  : BitVec 128 := 0         -- 13 R528 ID_SERIAL
  lc      : BitVec 3 := 0           -- 13 R528 ID_LC.STATE
  degraded : Bool := false          -- 13 R528 DEGRADED
  pendingLc : Bool := false         -- 13 R528 PENDING
  full    : BitVec 4 := 0           -- 13 R528 FULL
  part    : BitVec 4 := 0           -- 13 R528 PART
  bootCtr : W32 := 0                -- 13 R528 ID_BOOT_CTR
  marginal : BitVec 12 := 0         -- 13 R528 MARGINAL
  supplyOk : Bool := false          -- 13 R528 SUPPLY_OK
  busy    : Bool := false           -- 13 R528 BUSY
  locked  : BitVec 9 := 0           -- 13 R528 LOCKED_LO, LOCKED_HI
  revoked : BitVec 4 := 0           -- 13 R528 REVOKED
  events  : EventReg := {}          -- 13 R528 ID_EVENTS
  deriving DecidableEq, Repr

/-! ### Attestation and models -/

/-- An SPDM session (R539). Session j of the table has its secrets in Cave slots 10 + 3j to 12 + 3j. -/
structure SpdmSession where
  source : Nat                      -- 14 R539: partition it describes; 64 for none
  dev    : Option Nat               -- 14 R536: device it reaches over the fabric
  route  : Nat                      -- 14 R536: transport: 0 ring, 1 mailbox, 2 management, 3 fabric
  id     : Nat                      -- 14 R539
  estab  : Bool := false            -- 14 R537: FINISH has been taken
  keyGen : Nat := 0                 -- 14 R537: key updates
  beatTs : W64 := 0                 -- 14 R537: last heartbeat
  deriving DecidableEq, Repr

/-- A response that a mailbox reads in pieces (R536). -/
structure RspXfer where
  holder : Nat
  bytes  : List Byte
  offset : Nat := 0
  deriving DecidableEq, Repr

/-- A bound set held (R541); set i has its key in Cave slot 16 + i. -/
structure BoundSet where
  setId  : List Byte
  epoch  : W32
  members : List (BitVec 128)
  deriving DecidableEq, Repr

/-- What a coordinator, or a member of its coordinator, holds of another during formation (R542). -/
structure FormPeer where
  dev    : Nat
  serial : BitVec 128
  nonce  : List Byte := []          -- 14 R542: the nonce it sent
  kemKey : List Byte := []          -- 14 R542: the ML-KEM key it offered
  ecPub  : List Byte := []          -- 14 R542: the ephemeral key it offered
  epoch  : W32 := 0                 -- 14 R542: the epoch it offered
  script : List Byte := []          -- 14 R542: transcript with it
  offered : Bool := false           -- 14 R542: step 2 done
  confirmed : Bool := false         -- 14 R542: step 4 done
  deriving DecidableEq, Repr

/-- A formation under way (R542). -/
structure Formation where
  pend   : Pend
  setId  : List Byte
  peers  : List FormPeer            -- 14 R542: the other members, ascending serial
  coord  : Option Nat               -- 14 R542: the coordinator's device; none when it is this one
  nonce  : List Byte                -- 14 R542: own nonce
  eph    : List Byte := []          -- 14 R542: own ephemeral key
  epoch  : W32 := 0                 -- 14 R542: the epoch offered, then the one being set
  sk     : List Byte := []          -- 14 R542: SK, once made or received
  startTs : W64
  deriving DecidableEq, Repr

/-- A loaded model licence (R545, R546). -/
structure Licence where
  valid  : Bool := false            -- 14 R561 SEAL_LIC.VALID
  part   : Nat := 0                 -- 14 R561 SEAL_LIC.PART
  flags  : W16 := 0
  modelId : List Byte := []
  version : W32 := 0
  mapAddr : Nat := 0
  ngraph : Nat := 0
  graphs : List (List Byte) := []
  key    : Option (List Byte) := none -- 14 R553: entry of the sealing key store
  deriving DecidableEq, Repr

/-- SPDM, bound sets and licences (chapter 14). -/
structure Attest where
  sessions : Tbl SpdmSession := []  -- 14 R539: at most two, numbered 0 and 1
  nSess   : Nat := 0                -- 14 R539: sessions opened, names the next
  rsp     : SpdmRsp := .none        -- 14 R537: last response
  mailRsp : Option RspXfer := none  -- 14 R536: response that a mailbox reads
  req     : Option ReqXfer := none  -- 14 R536: request transfer
  large   : List Byte := []         -- 14 R537: large response being read by CHUNK_GET
  largeNo : Nat := 0                -- 14 R537: its handle
  sets    : Tbl BoundSet := []      -- 14 R541: at most 8
  forming : Option Formation := none -- 14 R542
  hello   : Option (Nat × List Byte × List Byte) := none -- 14 R542: a SET_HELLO that came before SET_FORM: device, SET_ID, nonce
  lics    : Tbl Licence := []       -- 14 R546: 255 slots
  deriving DecidableEq, Repr

/-! ### Reliability and the Rind -/

/-- A report (R584). -/
structure ReportRec where
  code     : W16
  severity : Nat
  ptag     : Nat
  seq      : W32
  device   : Nat
  unit     : W16
  opcode   : W16
  task     : W16
  tile     : W32
  handle   : W32
  ts       : W64
  ext      : W64
  tj       : W16
  vcore    : W16
  detail   : W32
  data     : W64
  rindSeq  : W32
  repeats  : W16
  deriving DecidableEq, Repr

/-- An item of the management report queue: one of this device's reports, or a REPORT frame's payload (R586). -/
inductive QueuedReport where
  | own (r : ReportRec)
  | foreign (bytes : List Byte)
  deriving DecidableEq, Repr

/-- A Rind entry (R589), its 32-byte body included. -/
structure RindEntry where
  seq    : W32
  code   : W16
  pinned : Bool
  carried : Bool
  degraded : Bool
  ts     : W64
  body   : List Byte
  origSeq : W32
  link   : List Byte
  commit : Byte := 0                -- 15 R589 COMMIT: 0xFF half-written, 0x00 committed, 0x5A dead
  deriving DecidableEq, Repr

/-- A Rind segment (R588, R592). -/
structure Segment where
  opened : Bool := false
  segSeq : W32 := 0
  firstSeq : W32 := 0
  doomed : Bool := false            -- 15 R592 DOOMED: its summary is committed and it is to be erased
  entries : List RindEntry := []    -- oldest first
  deriving DecidableEq, Repr

/-- A group record (R593). -/
structure GroupRec where
  group   : W32
  bootCtr : W32
  isSigned : Bool
  chain   : List Byte
  firstSeq : W32
  aliasKeys : List Byte := []       -- 15 R593 ALIAS
  ecSig   : List Byte := []         -- 15 R593 EC_SIG
  mlSig   : List Byte := []         -- 15 R593 MLDSA_SIG
  deriving DecidableEq, Repr

/-- A probe under way (R582). -/
structure Probe where
  pend   : Option Pend := none      -- the command's reply; none for a probe of the block's own (R572, R581)
  engines : List Nat
  rounds : Nat
  seed   : W64 := 0                 -- 15 R582: S, which Rennet's DRBG drew
  deriving DecidableEq, Repr

/-- The reliability block (R599), the Rind status group (R600) and the Rind. -/
structure Rel where
  sampleEn : Bool := true           -- 15 R599 SAMPLE_EN
  autoFence : Bool := true          -- 15 R599 AUTO_FENCE
  interval : BitVec 8 := 8          -- 15 R599 INTERVAL
  forceWait : BitVec 8 := 0x10      -- 15 R599 FORCE_WAIT
  alert   : Bool := false           -- 15 R599 ALERT
  events  : EventReg := {}          -- 15 R599 REL_EVENTS
  corrLimit : W16 := 0x40           -- 15 R599 REL_CORR_LIMIT
  resTrans : W32 := 0               -- 15 R599 REL_RESIDUE_TRANS
  resPerm : W32 := 0                -- 15 R599 REL_RESIDUE_PERM
  samples : W32 := 0                -- 15 R599 REL_SAMPLES
  skips   : W32 := 0                -- 15 R599 REL_SAMPLE_SKIP
  forced  : W32 := 0                -- 15 R599 REL_FORCED
  sTrans  : W32 := 0                -- 15 R599 REL_SAMPLE_TRANS
  sPerm   : W32 := 0                -- 15 R599 REL_SAMPLE_PERM
  eccCorr : W32 := 0                -- 15 R599 REL_ECC_CORR
  eccUncorr : W32 := 0              -- 15 R599 REL_ECC_UNCORR
  parity  : W32 := 0                -- 15 R599 REL_PARITY
  expelled : W32 := 0               -- 15 R599 REL_EXPELLED
  reportSeq : W32 := 0              -- 15 R599 REL_REPORT_SEQ
  reportsLost : W32 := 0            -- 15 R599 REL_REPORTS_LOST
  window  : Tbl ReportRec := []     -- 15 R599 REL_REPORT
  mgmtQ   : List QueuedReport := [] -- 15 R586: management port's report queue
  nReports : Nat := 0               -- 15 R584: reports sent, names the next SEQ
  lastSent : List (W16 × W16 × W64 × Nat) := [] -- 15 R587: code, unit, stamp, repeats folded
  burst   : List (W16 × W64) := []  -- 15 R565: macros and stamps of corrections
  probe   : Option Probe := none    -- 15 R599 PROBE_BUSY
  rindReady : Bool := false         -- 15 R600 READY
  rindFull : Bool := false          -- 15 R600 FULL
  compacting : Bool := false        -- 15 R600 COMPACTING
  unsigned_ : Bool := false         -- 15 R600 UNSIGNED
  headSeq : W32 := 0                -- 15 R600 RIND_HEAD_SEQ
  oldestSeq : W32 := 0              -- 15 R600 RIND_OLDEST_SEQ
  group   : W32 := 0                -- 15 R600 RIND_GROUP
  rindDropped : W32 := 0            -- 15 R600 RIND_DROPPED
  segs    : Tbl Segment := []       -- 15 R588: 128 segments
  groups  : List GroupRec := []     -- 15 R593: group records, newest first
  nextSeq : W32 := 0                -- 15 R589: SEQ of the next slot
  nextSeg : W32 := 0                -- 15 R592: SEG_SEQ of the next segment
  curSeg  : Option Nat := none      -- 15 R591: open segment
  rindQ   : List RindEntry := []    -- 15 R588: Rennet's queue of 256
  aonHeld : List RindEntry := []    -- 15 R596: events held in the always-on island
  tokens  : Nat := 256              -- 15 R595: burst allowance of ordinary entries
  tokenTs : W64 := 0                -- 15 R595: when the allowance was last refilled
  droppedSec : Nat := 0             -- 15 R595: entries dropped in this second
  folded  : Nat := 0                -- 15 R590: reports folded since the last DROPPED entry
  glogOwner : Option Nat := none    -- 09 R420: partition that set the global log
  glogAddr : Nat := 0               -- 09 R420
  glogSize : Nat := 0               -- 09 R420
  deriving DecidableEq, Repr

/-! ### Power, ports, clocks -/

/-- The power and thermal block (R623) and its loops. -/
structure Pwr where
  cap     : W32 := 0                -- 16 R623 PWR_CAP
  throttle : BitVec 7 := 0x5F       -- 16 R623 THROTTLE
  droopMv : BitVec 7 := 0x32        -- 16 R623 PWR_DROOP.MV
  coreStep : BitVec 4 := 2          -- 16 R623 CORE_STEP
  instStep : BitVec 8 := 0x10       -- 16 R623 INST_STEP
  iccMax  : W16 := 0                -- 16 R623 PWR_ICC_MAX
  spread  : BitVec 4 := 0           -- 16 R623 PWR_SPREAD
  slew    : BitVec 12 := 0x555      -- 16 R623 PWR_SLEW
  regAddr : BitVec 7 := 0           -- 16 R623 PWR_REG.ADDR (straps)
  ackWait : W16 := 0x7D0            -- 16 R623 ACK_WAIT
  railOp  : BitVec 3 := 5           -- 16 R623 RAIL_OP
  pending : Option (BitVec 3 × W64) := none -- 16 R623 PENDING: point requested and when
  fallback : Bool := false          -- 16 R623 FALLBACK
  trip    : Bool := false           -- 16 R623 TRIP
  railMv  : W16 := 0x2EE            -- 16 R623 RAIL_MV
  events  : EventReg := {}          -- 16 R623 PWR_EVENTS
  est     : W32 := 0                -- 16 R623 PWR_EST
  meas    : W32 := 0                -- 16 R623 PWR_MEAS
  gain    : W16 := 0x1000           -- 16 R623 PWR_GAIN
  trips   : W32 := 0                -- 16 R623 PWR_TRIPS
  rampWait : W32 := 0               -- 16 R623 PWR_RAMP_WAIT
  thrDur  : Tbl W64 := []           -- 16 R623 PWR_THR_DUR
  durLatch : Tbl W32 := []          -- 16 R623 latched PWR_THR_DUR_HI
  thrLast : Tbl W64 := []           -- 16 R623 PWR_THR_LAST
  lastLatch : Tbl W32 := []         -- 16 R623 latched PWR_THR_LAST_HI
  thrOn   : Tbl Bool := []          -- 16 R621: reason holds now
  thrTs   : W64 := 0                -- 16 R621: durations counted up to
  underCap : Nat := 0               -- 16 R613: loops below 95 % in a row
  overAt  : Option W64 := none      -- 16 R614: since when the current is above its limit
  capAt   : W64 := 0                -- 16 R613: the last cap loop
  calAt   : W64 := 0                -- 16 R612: the last calibration
  failCal : Nat := 0                -- 16 R612: failed calibrations in a row
  act     : List CoreActivity := [] -- 16 R611: activity counted in the last µs
  islTemp : Tbl W16 := []           -- 16 R618: island sensors
  coreTemp : Tbl W16 := []          -- 16 R618: core sensors
  tripTs  : List W64 := []          -- 16 R619: stamps of trips
  coolTs  : Option W64 := none      -- 16 R619: when every sensor was below THROTTLE − 10 °C
  tripHold : Bool := false          -- 16 R619: clocks stay stopped until instance reset
  rawSum  : Nat := 0                -- 16 R612: sum of raw estimates since the last calibration
  rawN    : Nat := 0                -- 16 R612: number of them
  instBusy : Nat := 0               -- 16 R616: busy engines of the instance granted
  lastStep : Tbl W64 := []          -- 16 R618: last throttle step of a core
  deriving DecidableEq, Repr

/-- A response on its way to the host (R626, R634): its beats leave one credit at a time. -/
structure HostRsp where
  id    : BitVec 8
  write : Bool
  rc    : BitVec 2
  beats : List (BitVec 128)
  sent  : Nat := 0                  -- 17 R630: beats that have left
  no    : Option Nat := none        -- 17 R641: number of an access that its tier has not served yet
  part  : Nat := 0                  -- 17 R640: partition of a read that waits
  dev   : Nat := 0                  -- 17 R639: device address of a read that waits
  count : Nat := 0                  -- 17 R627: its beats
  deriving DecidableEq, Repr

/-- The port group (R660), Tved credits (R630) and the management port. -/
structure Ports where
  events  : EventReg := {}          -- 17 R660 PORT_EVENTS
  hostPar : W32 := 0                -- 17 R660 PORT_HOST_PAR
  hostRefused : W32 := 0            -- 17 R660 PORT_HOST_REFUSED
  memRetry : W32 := 0               -- 17 R660 PORT_MEM_RETRY
  memErr  : W32 := 0                -- 17 R660 PORT_MEM_ERR
  memErrAddr : BitVec 48 := 0       -- 17 R660 PORT_MEM_ERR_ADDR
  errLatch : W16 := 0               -- 17 R660 latched PORT_MEM_ERR_ADDR_HI
  mgDaddr : BitVec 7 := 0           -- 17 R660 MG_DADDR
  mgI3c   : Bool := false           -- 17 R660 MG_I3C
  badId   : W32 := 0                -- 17 R660 PORT_BAD_ID
  wakeO   : Bool := false           -- 17 R657 wake_o
  tripO   : Bool := false           -- 17 R657 trip_o
  faultO  : Bool := false           -- 17 R657 fault_o
  offReady : Bool := false          -- 18 R672 pd_off_ready
  hostQ   : List HostRsp := []      -- 17 R630: host responses awaiting credits, oldest first
  hostRsp : List HostRsp := []      -- 17 R634: host responses that have left, newest first
  hostNo  : Nat := 0                -- 17 R641: aperture accesses that waited for their tier, names the next
  owed    : Tbl Nat := []           -- 17 R631: credits taken by what arrived and not returned yet, by port and channel
  lateIds : List (Nat × Bool × Nat) := [] -- 17 R638: memory requests that were outstanding at the last instance reset: port, write, ID
  lateTs  : W64 := 0                -- 17 R638: when that reset came
  rspHeld : List (Nat × MemRsp) := [] -- 17 R638: memory responses that came while the port logic was stopped
  parFails : List (W16 × BitVec 8 × Bool × BitVec 48 × W64) := [] -- 17 R641: requests answered PARITY
  intQ    : List (Nat × W32 × Bool) := [] -- 17 R643: interrupt messages awaiting credit, oldest first, and whether each was sent before
  intOut  : Option (Nat × W32 × Bool) := none -- 17 R635: message outstanding, and whether it was resent
  intSent : List (Nat × W64 × W32) := [] -- 10 R442: messages that left, newest first: partition, address, data
  credits : Tbl Nat := []           -- 17 R630: credits held, by port and channel
  mbxIbi  : Bool := false           -- 17 R654: in-band interrupt 0x02 raised
  rptIbi  : Bool := false           -- 17 R654: in-band interrupt 0x01 raised
  ibiEn   : Bool := true            -- 17 R654: target events enabled
  mwl     : W16 := 0                -- 17 R654: maximum write length
  mrl     : W16 := 0                -- 17 R654: maximum read length
  answer  : List Byte := []         -- 17 R655: answer to the last command
  nacked  : Bool := false           -- 17 R655: the last command was not acknowledged
  tapIr   : BitVec 8 := 0x01        -- 17 R659: TAP instruction register
  tapOut  : List Bool := []         -- 17 R659: bits shifted out
  deriving DecidableEq, Repr

/-- A power domain other than a core (R672, R676). -/
structure Dom where
  on   : Bool := false              -- 18 R676 CRP_PD_ON
  req  : Bool := false              -- 18 R672 pd_d_on
  iso  : Bool := true               -- 18 R672 pd_d_iso
  ret  : Bool := false              -- 18 R672 pd_d_ret
  reqTs : W64 := 0                  -- 18 R674: when pd_d_on rose
  deriving DecidableEq, Repr

/-- The clock, reset and power block (R676). -/
structure Crp where
  cause   : BitVec 4 := 0           -- 18 R676 LAST
  count   : W16 := 0                -- 18 R676 COUNT
  pllTs   : Bool := false           -- 18 R676 CRP_PLL[0]
  pllAon  : Bool := false           -- 18 R676 CRP_PLL[1]
  pllIo   : Bool := false           -- 18 R676 CRP_PLL[2]
  pllNet0 : Bool := false           -- 18 R676 CRP_PLL[3]
  pllNet1 : Bool := false           -- 18 R676 CRP_PLL[4]
  events  : EventReg := {}          -- 18 R676 CRP_EVENTS
  pdLast  : W16 := 0                -- 18 R676 CRP_PD_LAST
  rnt     : Dom := {}               -- 18 R672
  spr     : Dom := {}               -- 18 R672
  str     : Dom := {}               -- 18 R672
  ctl     : Dom := {}               -- 18 R672
  net     : Dom := {}               -- 18 R672
  flc     : Dom := {}               -- 18 R672
  deriving DecidableEq, Repr

/-- The state of the block. -/
structure State where
  chip    : Chip := {}
  ts      : W64 := 0                -- 05 R213: the timestamp counter
  pending : List Instr := []        -- the commands waiting, first in first out
  freeNo  : Nat := 0                -- the model's own: number of free values drawn
  cores   : Tbl Core := []          -- 01 R26
  graphs  : Tbl Graph := []         -- 04 R167: by handle
  nGraphs : Nat := 0                -- 04 R167: handles issued
  cad     : Cad := {}               -- 05 R242
  streams : Tbl Stream := []        -- 05 R229: 24 streams
  mem     : MemTiers := {}          -- 06 R299
  press   : Press := {}             -- 06 R300
  spr     : Sprout := {}            -- 07 R335
  fab     : Fab := {}               -- 08 R378
  parts   : Tbl Part := []          -- 10 R429: 64 partitions
  mbxs    : Tbl Mbx := []           -- 09 R423: mailboxes
  rennet  : Rennet := {}            -- 11 R454
  bn      : Bn := {}                -- 12 R502
  otp     : Otp := {}               -- 13 R503
  att     : Attest := {}            -- 14 R529
  rel     : Rel := {}               -- 15 R599
  pwr     : Pwr := {}               -- 16 R623
  ports   : Ports := {}             -- 17 R660
  crp     : Crp := {}               -- 18 R676
  deriving DecidableEq, Repr

/-- The block right after power-on reset, before Rennet starts (R668, R670): every register at the reset value of its table. -/
def State.reset : State := {}

end Sys2Proof.Machine
end

