-- ==== Sys2Proof/Machine/Ops.lean ====
section
/-! DEFINITION. The shared operations: sparse tables, byte memory in canonical form, little-endian words, event registers, saturating counters, and the accessors of the parts of the state. -/

namespace Sys2Proof.Machine

/-! ### Tables -/

/-- The entry of a sparse table at an index, or the default. -/
def tget {α : Type} (d : α) : Tbl α → Nat → α
  | [], _ => d
  | (k, v) :: r, i => if k = i then v else tget d r i

/-- The entry of a sparse table, when it lists one. -/
def tfind {α : Type} : Tbl α → Nat → Option α
  | [], _ => none
  | (k, v) :: r, i => if k = i then some v else tfind r i

/-- A sparse table with one entry replaced or inserted in index order. -/
def tset {α : Type} : Tbl α → Nat → α → Tbl α
  | [], i, v => [(i, v)]
  | (k, w) :: r, i, v =>
    if k = i then (i, v) :: r else if i < k then (i, v) :: (k, w) :: r else (k, w) :: tset r i v

/-- A sparse table with every entry at an index removed. -/
def tdel {α : Type} (t : Tbl α) (i : Nat) : Tbl α := t.filter (fun e => e.1 != i)

/-- A sparse table with one entry changed by a function of its present value. -/
def tmod {α : Type} (d : α) (t : Tbl α) (i : Nat) (f : α → α) : Tbl α := tset t i (f (tget d t i))

/-- A function applied to every listed entry. -/
def tmap {α : Type} (f : α → α) (t : Tbl α) : Tbl α := t.map (fun e => (e.1, f e.2))

/-- The first `n` naturals for which a test holds, in increasing order, searched below `fuel`. -/
def firstFree (used : List Nat) (fuel : Nat) : Option Nat := (List.range (min fuel (used.length + 1))).find? (fun i => !used.contains i)

/-- A value inserted before the first element that it precedes. -/
def insBy {α : Type} (lt : α → α → Bool) (a : α) : List α → List α
  | [] => [a]
  | b :: r => if lt a b then a :: b :: r else b :: insBy lt a r

/-- A list in the order of `lt`, equal elements in their former order. -/
def sortBy {α : Type} (lt : α → α → Bool) (l : List α) : List α := l.reverse.foldl (fun acc a => insBy (fun x y => !lt y x) a acc) []

/-- Lexicographic order of keys. -/
def keyLt : List Nat → List Nat → Bool
  | _, [] => false
  | [], _ :: _ => true
  | a :: as, b :: bs => a < b || (a == b && keyLt as bs)

/-! ### Byte memory -/

/-- One byte of a memory, or the default byte of an address it does not list. -/
def mget (d : Byte) : Mem → Nat → Byte
  | [], _ => d
  | (k, v) :: r, a => if k = a then v else mget d r a

/-- A byte placed in a memory in address order. -/
def mput : Mem → Nat → Byte → Mem
  | [], a, b => [(a, b)]
  | (k, v) :: r, a, b =>
    if k = a then (a, b) :: r else if a < k then (a, b) :: (k, v) :: r else (k, v) :: mput r a b

/-- A memory with one address no longer listed. -/
def mdel : Mem → Nat → Mem
  | [], _ => []
  | (k, v) :: r, a => if k = a then r else (k, v) :: mdel r a

/-- One byte written: writing the default byte removes the entry, so that equal memories are equal lists. -/
def mset (d : Byte) (m : Mem) (a : Nat) (b : Byte) : Mem := if b = d then mdel m a else mput m a b

/-- Consecutive bytes written from an address. -/
def mwrite (d : Byte) : Mem → Nat → List Byte → Mem
  | m, _, [] => m
  | m, a, b :: bs => mwrite d (mset d m a b) (a + 1) bs

/-- Consecutive bytes read from an address. -/
def mread (d : Byte) (m : Mem) (a n : Nat) : List Byte := (List.range n).map (fun i => mget d m (a + i))

/-- A memory whose addresses in a range read as the default. -/
def mclear (m : Mem) (lo hi : Nat) : Mem := m.filter (fun c => decide (c.1 < lo ∨ hi ≤ c.1))

/-- The cells of a range of one memory copied over a range of another with the same default byte. -/
def mcopy (src : Mem) (a : Nat) (dst : Mem) (b n : Nat) : Mem :=
  (src.filter (fun c => decide (a ≤ c.1 ∧ c.1 < a + n))).foldl (fun m c => mput m (c.1 - a + b) c.2) (mclear dst b (b + n))

/-- The cells of consecutive bytes from an address, the default byte listed nowhere. -/
def mcells : Nat → List Byte → Mem
  | _, [] => []
  | a, b :: bs => if b = 0 then mcells (a + 1) bs else (a, b) :: mcells (a + 1) bs

/-- A run of bytes put in place of what a memory with default byte 0 held there. -/
def mplace (m : Mem) (a : Nat) (bs : List Byte) : Mem :=
  m.filter (fun c => decide (c.1 < a)) ++ mcells a bs ++ m.filter (fun c => decide (a + bs.length ≤ c.1))

/-- Consecutive bytes of a memory with default byte 0, in one pass over its cells from the first at or above the address. -/
def mrun : Nat → Mem → Nat → List Byte
  | 0, _, _ => []
  | n + 1, [], a => 0 :: mrun n [] (a + 1)
  | n + 1, (k, v) :: r, a => if k = a then v :: mrun n r (a + 1) else 0 :: mrun n ((k, v) :: r) (a + 1)

/-- Addresses strictly rising from a bound, no entry equal to the default. -/
def Mem.wfFrom (d : Byte) : Nat → Mem → Bool
  | _, [] => true
  | n, (k, v) :: r => decide (n ≤ k) && decide (v ≠ d) && Mem.wfFrom d (k + 1) r

/-- The canonical form of a memory with default byte `d`. -/
def Mem.wf (d : Byte) (m : Mem) : Bool := Mem.wfFrom d 0 m

/-! ### Bytes and words -/

/-- The little-endian value of bytes. -/
def leNat : List Byte → Nat
  | [] => 0
  | b :: bs => b.toNat + 256 * leNat bs

/-- The `n` little-endian bytes of a value. -/
def leBytes : Nat → Nat → List Byte
  | 0, _ => []
  | n + 1, v => BitVec.ofNat 8 v :: leBytes n (v / 256)

/-- The big-endian value of bytes. -/
def beNat (l : List Byte) : Nat := leNat l.reverse

/-- The `n` big-endian bytes of a value. -/
def beBytes (n v : Nat) : List Byte := (leBytes n v).reverse

/-- A list cut or filled with zeros to a length. -/
def padTo (n : Nat) (l : List Byte) : List Byte := (l ++ List.replicate (n - l.length) 0).take n

/-- The bytes of a packet or object at an offset. -/
def slice (l : List Byte) (off n : Nat) : List Byte := padTo n (l.drop off)

/-- The little-endian field of `n` bytes at an offset. -/
def field (l : List Byte) (off n : Nat) : Nat := leNat (slice l off n)

/-- Bit `i` of a number. -/
def nbit (v i : Nat) : Bool := v.testBit i

/-- Bits `hi` down to `lo` of a number. -/
def nbits (v hi lo : Nat) : Nat := (v >>> lo) % 2 ^ (hi + 1 - lo)

/-- A Bool as 0 or 1. -/
def b2n (b : Bool) : Nat := if b then 1 else 0

/-- Smallest quotient not below the exact one. -/
def ceilDiv (a b : Nat) : Nat := (a + b - 1) / b

/-! ### Counters and event registers -/

/-- A saturating count raised by `k`. -/
def satAdd {w : Nat} (v : BitVec w) (k : Nat) : BitVec w := BitVec.ofNat w (min (v.toNat + k) (2 ^ w - 1))

/-- A saturating count raised by 1. -/
def satInc {w : Nat} (v : BitVec w) : BitVec w := satAdd v 1

/-- The hardware sets a flag of an event register (R21): no collision, since no write clears it in this cycle. -/
def raiseEv (e : EventReg) (bit : Nat) : EventReg := { e with flags := e.flags ||| BitVec.ofNat 32 (2 ^ bit) }

/-- A write of a W1C register in the cycle in which the hardware sets the bits of `hw` (R18, R21): a bit written and set at once stays set, and RECUR rises by one for the cycle. -/
def w1cWrite (e : EventReg) (mask data hw : W32) : EventReg :=
  { flags := (e.flags &&& ~~~(data &&& mask)) ||| (hw &&& mask)
    recur := if data &&& hw &&& mask = 0 then e.recur else satInc e.recur }

/-- The register's value: its flags, with RECUR in [31:24]. -/
def evWord (e : EventReg) : W32 := (e.flags &&& 0x00FFFFFF) ||| BitVec.ofNat 32 (e.recur.toNat * 2 ^ 24)

/-! ### Parts of the state -/

/-- Core `c`. -/
def State.core (s : State) (c : Nat) : Core := tget {} s.cores c
/-- Core `c` changed. -/
def State.modCore (s : State) (c : Nat) (f : Core → Core) : State := { s with cores := tmod {} s.cores c f }
/-- Engine `e` of core `c`. -/
def State.engine (s : State) (c e : Nat) : Engine := tget {} (s.core c).engines e
/-- Engine `e` of core `c` changed. -/
def State.modEngine (s : State) (c e : Nat) (f : Engine → Engine) : State :=
  s.modCore c (fun k => { k with engines := tmod {} k.engines e f })
/-- Context `x` of core `c`. -/
def State.ctx (s : State) (c x : Nat) : Ctx := tget {} (s.core c).ctxs x
/-- Context `x` of core `c` changed. -/
def State.modCtx (s : State) (c x : Nat) (f : Ctx → Ctx) : State :=
  s.modCore c (fun k => { k with ctxs := tmod {} k.ctxs x f })
/-- Partition `p`. -/
def State.part (s : State) (p : Nat) : Part := tget {} s.parts p
/-- Partition `p` changed. -/
def State.modPart (s : State) (p : Nat) (f : Part → Part) : State := { s with parts := tmod {} s.parts p f }
/-- Mailbox `m`. -/
def State.mbx (s : State) (m : Nat) : Mbx := tget {} s.mbxs m
/-- Mailbox `m` changed. -/
def State.modMbx (s : State) (m : Nat) (f : Mbx → Mbx) : State := { s with mbxs := tmod {} s.mbxs m f }
/-- The loaded graph with a handle. -/
def State.graph (s : State) (h : Nat) : Option Graph := tfind s.graphs h
/-- A loaded graph changed; a handle that names none changes nothing. -/
def State.modGraph (s : State) (h : Nat) (f : Graph → Graph) : State :=
  { s with graphs := s.graphs.map (fun e => if e.1 = h then (e.1, f e.2) else e) }
/-- The live run of a graph changed. -/
def State.modRun (s : State) (h : Nat) (f : Run → Run) : State := s.modGraph h (fun g => { g with run := g.run.map f })
/-- Stream `n`. -/
def State.stream (s : State) (n : Nat) : Stream := tget {} s.streams n
/-- Stream `n` changed. -/
def State.modStream (s : State) (n : Nat) (f : Stream → Stream) : State := { s with streams := tmod {} s.streams n f }
/-- Fabric port `f`. -/
def State.port (s : State) (n : Nat) : Port := tget {} s.fab.ports n
/-- Fabric port `f` changed. -/
def State.modPort (s : State) (n : Nat) (f : Port → Port) : State := { s with fab.ports := tmod {} s.fab.ports n f }
/-- Licence slot `l`. -/
def State.lic (s : State) (l : Nat) : Licence := tget {} s.att.lics l
/-- The number of cores of the configuration (R4). -/
def State.ncores (s : State) : Nat := s.chip.ncores

/-- Time does not run backwards: an event that carries a later stamp brings the timestamp counter to it (R213). -/
def State.advance (s : State) (now : W64) : State := if s.ts.toNat < now.toNat then { s with ts := now } else s

/-- The timestamp's step in ns: 1 while PLL_TS is locked in A, I and T, one reference period of 20 in W and S and while PLL_TS is out of lock, none in O, where the reference clock may stop (R213, R661, R665). -/
def tsStep (s : State) : Nat :=
  match s.spr.pstate with
  | .o => 0
  | .w | .s => 20
  | .a | .i | .t => if s.crp.pllTs then 1 else 20

/-- One idle cycle: the timestamp counter advances by its step (R213); while an offset above 2 ns, kept in units of 0.25 ns, is slewed, 1 ns is added or withheld in each 1,000 ns (R216). -/
def idleTick (s : State) : State :=
  let n := tsStep s
  if n ≠ 0 ∧ 8 < s.cad.slew.natAbs ∧ s.cad.slewTs.toNat + 1000 ≤ s.ts.toNat then
    let up := decide (0 < s.cad.slew)
    { s with ts := s.ts + BitVec.ofNat 64 (if up then n + 1 else n - 1)
             cad.slewTs := s.ts
             cad.slew := if up then s.cad.slew - 4 else s.cad.slew + 4 }
  else { s with ts := s.ts + BitVec.ofNat 64 n }

/-- A free value is drawn: the number that names it, and the state in which the next draw has another. -/
def State.draw (s : State) : State := { s with freeNo := s.freeNo + 1 }

/-- Work on some cores ends now: the instance's idle time and the idle timers of their rungs count from here (R42, R315, R326). -/
def idleStamp (s : State) (cores : List Nat) : State :=
  { s with spr.idleSince := s.ts
           spr.rungIdle := cores.foldl (fun t c => tset t (if c = 0 then 1 else if c < 4 then 2 else 3) s.ts) s.spr.rungIdle }

/-! ### Initiator IDs (R679) -/

/-- The initiator ID of a class and an index. -/
def initId (cls idx : Nat) : W16 := BitVec.ofNat 16 (cls * 4096 + idx)
/-- The engine initiator index of engine `e` of core `c` (R27). -/
def engIndex (c e : Nat) : Nat := 8 * c + e
/-- The initiator ID of an engine. -/
def engInit (c e : Nat) : W16 := initId 4 (engIndex c e)
/-- A host partition's own access: its index and tag are its number (R640). -/
def byHost (p : Nat) : Requester := { init := initId 0 p, tag := BitVec.ofNat 6 p }
/-- An island's own access: tag 0x3F (R429). -/
def byIsland (cls : Nat) : Requester := { init := initId cls 0, tag := 0x3F }
/-- The class of an initiator ID. -/
def initClass (i : W16) : Nat := i.toNat / 4096
/-- The index of an initiator ID. -/
def initIndex (i : W16) : Nat := i.toNat % 4096
/-- Whether the tag 0x3F of a class is an island acting for itself (R429). -/
def islandClass (cls : Nat) : Bool := cls == 1 || cls == 2 || cls == 6 || cls == 9

/-! ### Rights (R430) -/

/-- Whether partition `p` holds right `r`. -/
def hasRight (s : State) (p r : Nat) : Bool := (s.part p).rights.getLsbD r

/-- The cores a partition holds, in increasing number. -/
def coresOf (s : State) (p : Nat) : List Nat := (List.range s.ncores).filter (fun c => (s.part p).cores.getLsbD c)

/-- The partitions that hold a core. -/
def holders (s : State) (c : Nat) : List Nat := (List.range 64).filter (fun p => (s.part p).cores.getLsbD c)

/-- Whether more than one partition holds the core. -/
def sharedCore (s : State) (c : Nat) : Bool := decide (1 < (holders s c).length)

/-! ### External time (R210, R211) -/

/-- The fraction of external time: `min(floor(t × 65,536 ÷ P), 0xFFFF)`, 0 while P is 0, and 0xFFFF while cadence holds (R207, R208, R211). -/
def extFraction (s : State) : Nat :=
  if s.cad.hold then 0xFFFF
  else if s.cad.period = 0 then 0
  else min ((s.ts.toNat - s.cad.beatTs.toNat) * 65536 / s.cad.period.toNat) 0xFFFF

/-- External time: whole beats in [63:16], the fraction below; a disabled cadence holds its value, and it never decreases (R210, R211). -/
def extTime (s : State) : Nat :=
  max s.cad.extFloor (s.cad.beats.toNat * 65536 + (if s.cad.en then extFraction s else s.cad.frac.toNat))
/-- The present external time kept as a floor before a change that could lower what the count and the fraction give. -/
def holdExt (s : State) : State := { s with cad.extFloor := extTime s }

/-! ### How a meaning ends -/

/-- The command's effect; the queue of waiting commands is as it was, and so is the number of cores, which the configuration fixes (R4). -/
def ends (s f : State) : Host.Outcome State Fault Refusal := .next { f with pending := s.pending, chip.ncores := s.chip.ncores }

/-- `n` generate requests served; after 65,536 the DRBG reseeds before it goes on (R467). -/
def drbgCount (s : State) (n : Nat) : State :=
  let due := decide (65536 < s.rennet.drbgSince + n)
  { s with rennet.drbgN := s.rennet.drbgN + n, rennet.drbgSince := if due then n else s.rennet.drbgSince + n
           rennet.reseedAt := if due then s.ts else s.rennet.reseedAt }

/-- Whether frames that arrive are not taken: in an identity conflict, and while a trip stops the clock of NET (R354, R619). -/
def fabDeaf (s : State) : Bool := s.fab.conflict || s.pwr.trip

/-- The effect of an event that carries the stamp at which it happens. -/
def endsAt (s : State) (now : W64) (f : State → State) : Host.Outcome State Fault Refusal := ends s (f (s.advance now))

/-- The effect of an event of core `c`; the configuration has no core at or above its count (R4). -/
def endsCore (s : State) (c : Nat) (f : State) : Host.Outcome State Fault Refusal :=
  if c < s.ncores then ends s f else .fault .noSuchUnit

/-- The effect of an event of the clocked logic of core `c`: a critical trip stops its clock (R619). -/
def endsClocked (s : State) (c : Nat) (f : State) : Host.Outcome State Fault Refusal := endsCore s c (if s.pwr.trip then s else f)

end Sys2Proof.Machine
end

