-- ==== Sys2Proof/Machine/Eraely.lean ====
section
/-! DEFINITION. Eraely block compression (R281 to R285). -/

namespace Sys2Proof.Machine

/-- One byte folded into the reflected CRC-32 of IEEE 802.3 (R284). -/
def crc32Byte (crc : W32) (b : Byte) : W32 :=
  (List.range 8).foldl (fun (c : W32) _ => if c.getLsbD 0 then (c >>> 1) ^^^ 0xEDB88320 else c >>> 1) (crc ^^^ b.setWidth 32)
/-- CRC-32 of bytes (R284): polynomial 0x04C1_1DB7 reflected, initial value and final exclusive or all ones. -/
def crc32 (l : List Byte) : W32 := l.foldl crc32Byte 0xFFFFFFFF ^^^ 0xFFFFFFFF

/-- ZRUN tokens decoded (R283), with fuel; `none` when literal bytes run past the payload. -/
def zrun : Nat → List Byte → Option (List Byte)
  | 0, _ => some []
  | _, [] => some []
  | n + 1, t :: r =>
    if t.toNat < 0x80 then
      let k := t.toNat + 1
      if r.length < k then none else (zrun n (r.drop k)).map (r.take k ++ ·)
    else (zrun n r).map (List.replicate (t.toNat - 0x7F) 0 ++ ·)

/-- NIBDICT decoded (R283): a 16-byte dictionary and one 4-bit index per output byte, low nibble first. -/
def nibdict (out : Nat) (l : List Byte) : List Byte :=
  (List.range out).map (fun i =>
    let b := ((l.drop 16).getD (i / 2) 0).toNat
    l.getD (if i % 2 = 0 then b % 16 else b / 16) 0)

/-- A block decompressed, or `none` when it fails its check (R282, R283, R285). -/
def eraelyBlock (l : List Byte) : Option (List Byte) :=
  let mode := field l 0 1
  let out := field l 2 2
  let inl := field l 4 2
  let pay := (l.drop 16).take inl
  if l.length < 16 + inl ∨ field l 1 1 ≠ 0 ∨ field l 6 6 ≠ 0 ∨ out = 0 ∨ 4096 < out then none
  else
    let r : Option (List Byte) :=
      if mode = 0 then (if inl = out then some pay else none)
      else if mode = 1 then zrun (inl + 1) pay
      else if mode = 2 then (if inl = 16 + ceilDiv out 2 then some (nibdict out pay) else none)
      else none
    match r with
    | some d => if d.length = out ∧ (crc32 d).toNat = field l 12 4 then some d else none
    | none => none

/-- The blocks of an object from their offsets: the failures counted and the outputs joined. -/
def eraelyBlocks (l : List Byte) : List Nat → Nat × List Byte
  | [] => (0, [])
  | o :: r =>
    let q := eraelyBlocks l r
    match eraelyBlock (l.drop o) with
    | some d => (q.1, d ++ q.2)
    | none => (q.1 + 1, q.2)

/-- Whether every output but the last is 4,096 bytes long (R281). -/
def fullButLast (l : List Byte) : List Nat → Bool
  | [] => true
  | [_] => true
  | o :: r => field (l.drop o) 2 2 == 4096 && fullButLast l r

/-- Offsets increasing, multiples of 16, inside the object (R281). -/
def indexOk (len : Nat) : Nat → List Nat → Bool
  | _, [] => true
  | lo, o :: r => decide (lo ≤ o ∧ o < len) && o % 16 == 0 && indexOk len (o + 1) r

/-- The block offsets of an Eraely object whose header and index pass their checks (R281, R285). -/
def eraelyIndex (l : List Byte) : Option (List Nat) :=
  let nblk := field l 4 4
  let idx := (l.drop 16).take (4 * nblk)
  if l.length < 16 + 4 * nblk ∨ field l 0 2 ≠ 0xEA1E ∨ field l 2 1 = 0 ∨ 4 < field l 2 1 ∨ field l 3 1 ≠ 0 ∨ nblk = 0
      ∨ (crc32 idx).toNat ≠ field l 12 4 then none
  else
    let offs := (List.range nblk).map (fun i => field idx (4 * i) 4)
    if indexOk l.length (16 + 4 * nblk) offs then some offs else none

/-- An Eraely object decompressed whole (R281, R285): the output, or the number of blocks that failed their check. -/
def eraelyObject (l : List Byte) : Except Nat (List Byte) :=
  match eraelyIndex l with
  | none => .error 0
  | some offs =>
    let r := eraelyBlocks l offs
    if r.1 ≠ 0 then .error r.1
    else if r.2.length ≠ field l 8 4 ∨ !fullButLast l offs then .error 0
    else .ok r.2

/-- Decompressed bytes `off` to `off + n − 1` of an Eraely object from the blocks that cover them alone (R286): block i holds bytes 4,096 i onward (R281). -/
def eraelyPart (l : List Byte) (off n : Nat) : Except Nat (List Byte) :=
  match eraelyIndex l with
  | none => .error 0
  | some offs =>
    let b0 := off / 4096
    let part := (offs.drop b0).take (ceilDiv (off + n) 4096 - b0)
    let r := eraelyBlocks l part
    if r.1 ≠ 0 then .error r.1
    else if !(part.zipIdx.all (fun e => field (l.drop e.1) 2 2 == min 4096 (field l 8 4 - (b0 + e.2) * 4096))) then .error 0
    else .ok (slice r.2 (off - b0 * 4096) n)

end Sys2Proof.Machine
end

