-- ==== Sys2Proof/Machine/Flags.lean ====
section
/-! DEFINITION. The arithmetic notes of R92 and values that carry them. -/

namespace Sys2Proof.Machine

/-- [0] SAT: a result or accumulator saturated. -/
def noteSat : Byte := 0x01
/-- [1] NAN_OUT: a NaN was written. -/
def noteNanOut : Byte := 0x02
/-- [2] INF_OUT: an infinity was written. -/
def noteInfOut : Byte := 0x04
/-- [3] NAN_QUANT: a NaN or infinity became zero, or forced a NaN block scale. -/
def noteNanQuant : Byte := 0x08
/-- [4] META_BAD: illegal 2:4 metadata was decoded as zeros. -/
def noteMetaBad : Byte := 0x10
/-- [5] T2_BAD: the reserved T2 code was decoded as zero. -/
def noteT2Bad : Byte := 0x20
/-- [6] SCALE_SIGN: an FP8-E4M3 scale with its sign bit set was used as its magnitude. -/
def noteScaleSign : Byte := 0x40

/-- A value with the notes its computation raised. -/
abbrev Noted (α : Type) := α × Byte

/-- A value that raises no note. -/
def plain {α : Type} (a : α) : Noted α := (a, 0)
/-- A computation continued, its notes ORed with those before it (R92, R94). -/
def Noted.and {α β : Type} (x : Noted α) (f : α → Noted β) : Noted β := ((f x.1).1, x.2 ||| (f x.1).2)
/-- A list of noted values as one noted list. -/
def noteAll {α : Type} (l : List (Noted α)) : Noted (List α) := (l.map (·.1), l.foldl (fun n x => n ||| x.2) 0)

end Sys2Proof.Machine
end

