-- ==== Sys2Proof/Machine/Formats.lean ====
section
/-! DEFINITION. Number formats and arithmetic (chapter 02): decoding, FP32 arithmetic with rounding to nearest even, stochastic rounding, saturation, block scales, 2:4 sparsity. -/

namespace Sys2Proof.Machine

/-! ### Values -/

/-- A floating-point value: NaN, a signed infinity, or (−1)^neg × m × 2^e. -/
inductive FVal where
  | nan
  | inf (neg : Bool)
  | fin (neg : Bool) (m : Nat) (e : Int)
  deriving DecidableEq, Repr

/-- The layout of a floating-point format (R50): exponent bits, mantissa bits, bias, whether its top exponent holds infinity and NaN, and whether only the all-ones code is NaN. -/
structure FFmt where
  eb : Nat
  mb : Nat
  bias : Nat
  ieee : Bool
  oneNan : Bool
  deriving DecidableEq, Repr

/-- The floating-point formats by code (R44, R50). -/
def ffmt : Nat → Option FFmt
  | 0x5 => some ⟨2, 1, 1, false, false⟩
  | 0x6 => some ⟨2, 3, 1, false, false⟩
  | 0x7 => some ⟨3, 2, 3, false, false⟩
  | 0x8 => some ⟨4, 3, 7, false, true⟩
  | 0x9 => some ⟨5, 2, 15, true, false⟩
  | 0xA => some ⟨5, 10, 15, true, false⟩
  | 0xB => some ⟨8, 7, 127, true, false⟩
  | 0xC => some ⟨8, 23, 127, true, false⟩
  | _ => none

/-- Bits per element of a format code (R44). -/
def fmtBits : Nat → Nat
  | 0x0 => 2 | 0x1 => 4 | 0x2 => 8 | 0x3 => 16 | 0x4 => 32 | 0x5 => 4 | 0x6 => 6 | 0x7 => 6
  | 0x8 => 8 | 0x9 => 8 | 0xA => 16 | 0xB => 16 | 0xC => 32 | 0xD => 8 | _ => 0

/-- Whether a code is an integer element format. -/
def isIntFmt (f : Nat) : Bool := decide (f ≤ 0x4)
/-- Whether a code is a floating-point element format. -/
def isFloatFmt (f : Nat) : Bool := decide (5 ≤ f ∧ f ≤ 0xC)

/-- The two's complement value of the low `w` bits (R48). -/
def sint (w v : Nat) : Int := if v % 2 ^ w < 2 ^ (w - 1) then (v % 2 ^ w : Nat) else (v % 2 ^ w : Nat) - (2 ^ w : Nat)

/-- The value of an integer as a float value, exactly. -/
def ofInt (i : Int) : FVal := .fin (decide (i < 0)) i.natAbs 0

/-- A floating-point code decoded (R50, R51). -/
def fdecode (k : FFmt) (v : Nat) : FVal :=
  let m := v % 2 ^ k.mb
  let e := (v / 2 ^ k.mb) % 2 ^ k.eb
  let neg := v.testBit (k.eb + k.mb)
  if k.ieee && e == 2 ^ k.eb - 1 then (if m = 0 then .inf neg else .nan)
  else if k.oneNan && e == 2 ^ k.eb - 1 && m == 2 ^ k.mb - 1 then .nan
  else if e = 0 then .fin neg m (1 - (k.bias : Int) - k.mb)
  else .fin neg (2 ^ k.mb + m) ((e : Int) - k.bias - k.mb)

/-- An element decoded by its format code (R48 to R51).
DESIGN CHOICE (notes/assumptions/70): the reserved T2 code 0b10, which R49 gives the matrix unit as zero with T2_BAD, reads so in the vector unit too. -/
def decodeElem (f v : Nat) : Noted FVal :=
  match f with
  | 0x0 => if v % 4 = 2 then (.fin false 0 0, noteT2Bad) else plain (ofInt (sint 2 v))
  | 0x1 => plain (ofInt (sint 4 v))
  | 0x2 => plain (ofInt (sint 8 v))
  | 0x3 => plain (ofInt (sint 16 v))
  | 0x4 => plain (ofInt (sint 32 v))
  | _ => match ffmt f with | some k => plain (fdecode k v) | none => plain .nan

/-- A block scale decoded (R53, R80): code 1 is E8M0, code 2 FP8-E4M3 taken as its magnitude; no scale is 1. -/
def decodeScale (code v : Nat) : Noted FVal :=
  match code with
  | 1 => if v % 256 = 255 then plain .nan else plain (.fin false 1 ((v % 256 : Nat) - 127))
  | 2 =>
    match fdecode ⟨4, 3, 7, false, true⟩ v with
    | .fin true m e => (.fin false m e, noteScaleSign)
    | x => plain x
  | _ => plain (.fin false 1 0)

/-! ### Exact products and sums -/

/-- The exact product (R70). -/
def fmulX : FVal → FVal → FVal
  | .nan, _ => .nan
  | _, .nan => .nan
  | .inf a, .inf b => .inf (a != b)
  | .inf a, .fin b m _ => if m = 0 then .nan else .inf (a != b)
  | .fin a m _, .inf b => if m = 0 then .nan else .inf (a != b)
  | .fin a m e, .fin b n f => .fin (a != b) (m * n) (e + f)

/-- The signed integer of a finite value at a common exponent. -/
def alignTo (e0 : Int) (neg : Bool) (m : Nat) (e : Int) : Int :=
  let v : Int := (m * 2 ^ (e - e0).toNat : Nat)
  if neg then -v else v

/-- The exact sum; an exact zero is +0 unless both terms are −0 (R70). -/
def faddX : FVal → FVal → FVal
  | .nan, _ => .nan
  | _, .nan => .nan
  | .inf a, .inf b => if a = b then .inf a else .nan
  | .inf a, .fin _ _ _ => .inf a
  | .fin _ _ _, .inf b => .inf b
  | .fin a m e, .fin b n f =>
    if m = 0 ∧ n = 0 then .fin (a && b) 0 0
    else
      let e0 := min e f
      let v := alignTo e0 a m e + alignTo e0 b n f
      .fin (decide (v < 0)) v.natAbs e0

/-- The sum of exact terms in order. -/
def fsumX : List FVal → FVal
  | [] => .fin false 0 0
  | t :: r => r.foldl faddX t

/-! ### Rounding to a format -/

/-- A magnitude m × 2^e rounded to nearest even at a precision and a least exponent: the integer and exponent of the result. -/
def roundMag (prec : Nat) (emin : Int) (m : Nat) (e : Int) : Nat × Int :=
  if m = 0 then (0, emin)
  else
    let q := max (e + (Nat.log2 m + 1 : Nat) - prec) emin
    if q ≤ e then (m * 2 ^ (e - q).toNat, q)
    else
      let sh := (q - e).toNat
      let fl := m >>> sh
      let rem := m % 2 ^ sh
      let half := 2 ^ (sh - 1)
      (if rem > half ∨ (rem = half ∧ fl % 2 = 1) then fl + 1 else fl, q)

/-- The code of sign, magnitude a × 2^q in a format whose range holds it; the fields follow R50 and R51. -/
def packMag (k : FFmt) (neg : Bool) (a : Nat) (q : Int) : Nat :=
  let sign := b2n neg * 2 ^ (k.eb + k.mb)
  if a = 0 then sign
  else
    -- normalise: a carry out of the precision moves to the next exponent
    let a2 := if a = 2 ^ (k.mb + 1) then 2 ^ k.mb else a
    let q2 := if a = 2 ^ (k.mb + 1) then q + 1 else q
    let e := q2 + k.mb + k.bias
    if a2 < 2 ^ k.mb then sign + a2
    else sign + (e.toNat * 2 ^ k.mb + (a2 - 2 ^ k.mb))

/-- The least exponent of a format's step. -/
def eminOf (k : FFmt) : Int := 1 - (k.bias : Int) - k.mb

/-- The largest finite code of a format (R54). -/
def maxFinite (k : FFmt) : Nat :=
  if k.ieee then (2 ^ k.eb - 2) * 2 ^ k.mb + (2 ^ k.mb - 1)
  else if k.oneNan then (2 ^ k.eb - 1) * 2 ^ k.mb + (2 ^ k.mb - 2)
  else 2 ^ (k.eb + k.mb) - 1

/-- FP32's layout. -/
def fp32 : FFmt := ⟨8, 23, 127, true, false⟩

/-- The canonical NaN of FP32 (R54). -/
def nan32 : W32 := 0x7FC00000
/-- The value of an FP32 word. -/
def f32val (w : W32) : FVal := fdecode fp32 w.toNat
/-- A value rounded once to FP32, ties to even; overflow gives infinity, NaN its canonical code (R70, R71). -/
def f32round : FVal → W32
  | .nan => nan32
  | .inf n => if n then 0xFF800000 else 0x7F800000
  | .fin n m e =>
    let r := roundMag 24 (eminOf fp32) m e
    let c := packMag fp32 false r.1 r.2
    if maxFinite fp32 < c then (if n then 0xFF800000 else 0x7F800000) else BitVec.ofNat 32 (c + b2n n * 2 ^ 31)

/-- Whether an FP32 word is NaN. -/
def isNan32 (w : W32) : Bool := decide (f32val w = .nan)
/-- Whether an FP32 word is an infinity. -/
def isInf32 (w : W32) : Bool := match f32val w with | .inf _ => true | _ => false

/-- FP32 addition (R139 ADD). -/
def f32add (a b : W32) : W32 := f32round (faddX (f32val a) (f32val b))
/-- FP32 negation. -/
def f32neg (a : W32) : W32 := if isNan32 a then nan32 else a ^^^ 0x80000000
/-- FP32 subtraction. -/
def f32sub (a b : W32) : W32 := f32add a (f32neg b)
/-- FP32 multiplication. -/
def f32mul (a b : W32) : W32 := f32round (fmulX (f32val a) (f32val b))
/-- Fused multiply-add, one rounding. -/
def f32fma (a b c : W32) : W32 := f32round (faddX (fmulX (f32val a) (f32val b)) (f32val c))
/-- Magnitude. -/
def f32abs (a : W32) : W32 := if isNan32 a then nan32 else a &&& 0x7FFFFFFF

/-- The quotient of two finite values with a sticky bit below 66 significant bits. -/
def divSticky (m n : Nat) (e f : Int) : Nat × Int :=
  let k := 66 + Nat.log2 n
  let q := (m * 2 ^ k) / n
  (2 * q + (if (m * 2 ^ k) % n = 0 then 0 else 1), e - f - k - 1)

/-- The quotient for rounding: exact but for a sticky bit (IEEE 754 special values). -/
def fdivX : FVal → FVal → FVal
  | .nan, _ => .nan
  | _, .nan => .nan
  | .inf _, .inf _ => .nan
  | .inf a, .fin b _ _ => .inf (a != b)
  | .fin a _ _, .inf b => .fin (a != b) 0 0
  | .fin a m e, .fin b n f =>
    if n = 0 then (if m = 0 then .nan else .inf (a != b))
    else let q := divSticky m n e f
         .fin (a != b) q.1 q.2
/-- FP32 division, correctly rounded. -/
def f32div (a b : W32) : W32 := f32round (fdivX (f32val a) (f32val b))

/-- Order of values: `some true` when a < b, `none` when either is NaN; zeros are equal. -/
def fltVal (a b : FVal) : Option Bool :=
  match a, b with
  | .nan, _ => none
  | _, .nan => none
  | .inf x, .inf y => some (x && !y)
  | .inf x, .fin _ _ _ => some x
  | .fin _ _ _, .inf y => some (!y)
  | .fin x m e, .fin y n f =>
    let e0 := min e f
    some (decide (alignTo e0 x m e < alignTo e0 y n f))

/-- a < b for FP32 words, false with a NaN. -/
def f32lt (a b : W32) : Bool := (fltVal (f32val a) (f32val b)).getD false

/-- IEEE 754-2019 maximum: NaN propagates, −0 < +0. -/
def f32max (a b : W32) : W32 :=
  if isNan32 a || isNan32 b then nan32
  else if f32lt a b then b else if f32lt b a then a
  else if a.msb then b else a
/-- IEEE 754-2019 minimum. -/
def f32min (a b : W32) : W32 :=
  if isNan32 a || isNan32 b then nan32
  else if f32lt a b then a else if f32lt b a then b
  else if a.msb then a else b

/-- An integer as FP32, rounded to nearest even. -/
def f32ofInt (i : Int) : W32 := f32round (ofInt i)

/-! ### Stochastic rounding (R72 to R75) -/

/-- The mix function of R74, modulo 2^64. -/
def mix (x : W64) : W64 :=
  let a := x ^^^ (x >>> 33)
  let b := a * 0xFF51AFD7ED558CCD
  let c := b ^^^ (b >>> 33)
  let d := c * 0xC4CEB9FE1A85EC53
  d ^^^ (d >>> 33)

/-- The 16 random bits of element i of tile t under seed S (R74). -/
def randBits (seed : W64) (t i : Nat) : Nat :=
  (mix (seed ^^^ BitVec.ofNat 64 (t * 2 ^ 32) ^^^ BitVec.ofNat 64 i)).toNat % 65536

/-- How a value is rounded on output: to nearest even, or stochastically with its random bits. -/
inductive Rnd where
  | near
  | stoch (r : Nat)
  deriving DecidableEq, Repr

/-- A magnitude rounded at a precision and a least exponent under a rounding (R71, R73). -/
def roundWith (k : Rnd) (prec : Nat) (emin : Int) (m : Nat) (e : Int) : Nat × Int :=
  match k with
  | .near => roundMag prec emin m e
  | .stoch r =>
    if m = 0 then (0, emin)
    else
      let q := max (e + (Nat.log2 m + 1 : Nat) - prec) emin
      if q ≤ e then (m * 2 ^ (e - q).toNat, q)
      else
        let sh := (q - e).toNat
        let d := ((m % 2 ^ sh) * 65536) / 2 ^ sh
        (if 65536 ≤ d + r then (m >>> sh) + 1 else m >>> sh, q)

/-! ### Narrowing (R76 to R78) -/

/-- The extremes of an integer format. -/
def intMax (w : Nat) : Int := (2 ^ (w - 1) : Nat) - 1
def intMin (w : Nat) : Int := -((2 ^ (w - 1) : Nat) : Int)

/-- A value narrowed to a floating-point format (R76, R77): finite values above the largest finite one saturate with SAT, or overflow to infinity with INF_OUT where the format has one and SAT is clear.
DESIGN CHOICE (notes/assumptions/70): a NaN or an infinity raises its note in a widening conversion too (R77, R92), although R91 says that a widening conversion raises none. -/
def narrowF (f : Nat) (k : FFmt) (rnd : Rnd) (sat : Bool) (v : FVal) : Noted Nat :=
  let sgn (n : Bool) := b2n n * 2 ^ (k.eb + k.mb)
  let top (n : Bool) : Noted Nat := (sgn n + maxFinite k, noteSat)
  match v with
  | .nan =>
    if f = 0xC then (nan32.toNat, noteNanOut)
    else if k.ieee then (if f = 0x9 then 0x7F else if f = 0xA then 0x7E00 else 0x7FC0, noteNanOut)
    else if k.oneNan then (0x7F, noteNanOut)
    else (0, noteNanQuant)
  | .inf n =>
    if f = 0xC then (sgn n + (2 ^ k.eb - 1) * 2 ^ k.mb, noteInfOut)
    else if k.ieee && !sat then (sgn n + (2 ^ k.eb - 1) * 2 ^ k.mb, noteInfOut) else top n
  | .fin n m e =>
    let r := roundWith rnd (k.mb + 1) (eminOf k) m e
    let c := packMag k false r.1 r.2
    if maxFinite k < c then
      (if k.ieee && !(sat && f != 0xC) then (sgn n + (2 ^ k.eb - 1) * 2 ^ k.mb, noteInfOut) else top n)
    else plain (sgn n + c)

/-- A value narrowed to an integer format of `w` bits (R76, R77). -/
def narrowI (w : Nat) (rnd : Rnd) (v : FVal) : Noted Nat :=
  let enc (i : Int) : Nat := (i % (2 ^ w : Nat)).toNat
  match v with
  | .nan => (0, noteNanQuant)
  | .inf n => (enc (if n then intMin w else intMax w), noteSat)
  | .fin n m e =>
    -- integer steps: the least exponent is 0 and the precision never limits
    let r := roundWith rnd (Nat.log2 m + 1 + w + 64) 0 m e
    let a : Int := (r.1 * 2 ^ r.2.toNat : Nat)
    let i := if n then -a else a
    if intMax w < i then (enc (intMax w), noteSat)
    else if i < intMin w then (enc (intMin w), noteSat)
    else plain (enc i)

/-- The output control byte (R46): SR and SAT. -/
structure OutCtl where
  sr : Bool
  sat : Bool
  deriving DecidableEq, Repr

/-- A value written in a format (R72, R76, R77). SR has no effect on FP32 and INT32. -/
def narrow (f : Nat) (oc : OutCtl) (r : Nat) (v : FVal) : Noted Nat :=
  let rnd : Rnd := if oc.sr && f != 0xC && f != 0x4 then .stoch r else .near
  match f with
  | 0x1 => narrowI 4 rnd v
  | 0x2 => narrowI 8 rnd v
  | 0x3 => narrowI 16 rnd v
  | 0x4 => narrowI 32 rnd v
  | _ => match ffmt f with | some k => narrowF f k rnd oc.sat v | none => (0, 0)

/-! ### Block-scaled output (R79, R81 to R83) -/

/-- e_max of an element format (R81). -/
def eMax : Nat → Int
  | 0x5 => 2 | 0x6 => 2 | 0x7 => 4 | 0x8 => 8 | 0x9 => 15 | 0x2 => 6 | 0x1 => 2 | _ => 0
/-- The largest element of a format (R81). -/
def elemMax : Nat → FVal
  | 0x5 => .fin false 6 0 | 0x6 => .fin false 15 (-1) | 0x7 => .fin false 28 0 | 0x8 => .fin false 448 0
  | 0x9 => .fin false 57344 0 | 0x2 => .fin false 127 0 | 0x1 => .fin false 7 0 | _ => .fin false 1 0

/-- The largest magnitude of a block. -/
def maxMag (l : List FVal) : FVal :=
  l.foldl (fun a v => match v with
    | .fin _ m e => if (fltVal a (.fin false m e)).getD false then .fin false m e else a
    | _ => a) (.fin false 0 0)

/-- A magnitude rounded to FP8-E4M3 towards +infinity: above 448 gives 0x7E, below 2^−9 gives 0x01 (R83). -/
def roundUpE4M3 (m : Nat) (e : Int) : Nat :=
  if m = 0 then 0
  else
    let q := max (e + (Nat.log2 m + 1 : Nat) - 4) (-9)
    let a : Nat := if q ≤ e then m * 2 ^ (e - q).toNat
      else let sh := (q - e).toNat
           if m % 2 ^ sh = 0 then m >>> sh else (m >>> sh) + 1
    let c := packMag ⟨4, 3, 7, false, true⟩ false a q
    if 0x7E < c then 0x7E else c

/-- The scale byte of a block (R79, R81, R83), its decoded value, and whether the block is written as zeros with a NaN scale. -/
def blockScale (f code : Nat) (l : List FVal) : Nat × FVal × Bool :=
  if l.any (fun v => match v with | .fin _ _ _ => false | _ => true) then
    (if code = 1 then 0xFF else 0x7F, .nan, true)
  else
    match maxMag l with
    | .fin _ 0 _ => (0, .fin false 0 0, false)
    | .fin _ m e =>
      if code = 1 then
        let x := max (-127) (min 127 (e + (Nat.log2 m : Nat) - eMax f))
        ((x + 127).toNat, .fin false 1 x, false)
      else
        let q := f32val (f32round (fdivX (.fin false m e) (elemMax f)))
        let c := match q with | .fin _ n g => max 1 (roundUpE4M3 n g) | _ => 0x7E
        (c, fdecode ⟨4, 3, 7, false, true⟩ c, false)
    | _ => (0, .fin false 0 0, false)

/-- A block written in a block-scaled format (R79 to R83): the element codes and the scale byte; the random bits come by element. -/
def narrowBlock (f code : Nat) (oc : OutCtl) (rs : List Nat) (l : List W32) : Noted (List Nat × Nat) :=
  let vs := l.map f32val
  let sc := blockScale f code vs
  if sc.2.2 then ((vs.map (fun _ => 0), sc.1), noteNanQuant)
  else
    match sc.2.1 with
    | .fin _ 0 _ => plain (vs.map (fun _ => 0), sc.1)
    | s =>
      let es := (vs.zip rs).map (fun p =>
        -- R82: exact for a power of two; R83: in FP32, ties to even
        let q := if code = 1 then fdivX p.1 s else f32val (f32round (fdivX p.1 s))
        narrow f oc p.2 q)
      let n := noteAll es
      ((n.1, sc.1), n.2)

/-! ### 2:4 sparsity (R86 to R88) -/

/-- The kept positions of a metadata code; none for an illegal one (R87, R88). -/
def metaPos (c : Nat) : Option (Nat × Nat) :=
  let a := c % 4
  let b := c / 4 % 4
  if a < b then some (a, b) else none

/-! ### Packing (R55, R56) -/

/-- Element `i` of packed bytes in a format of `w` bits. -/
def getElem (w : Nat) (bytes : List Byte) (i : Nat) : Nat :=
  (leNat ((bytes.drop (i * w / 8)).take (w / 8 + 2)) >>> (i * w % 8)) % 2 ^ w

/-- Packed bytes of element codes of `w` bits, spare bits zero. -/
def packElems (w : Nat) (l : List Nat) : List Byte :=
  leBytes (ceilDiv (l.length * w) 8) ((l.zipIdx.map (fun p => (p.1 % 2 ^ w) * 2 ^ (p.2 * w))).foldl (· + ·) 0)

/-- Bytes of a packed row of `n` elements. -/
def rowLen (w n : Nat) : Nat := ceilDiv (n * w) 8

/-! ### Dequantisation (R85, R90) -/

/-- DEQUANT of an element (R85): one rounding to the output format, beyond FP32's range infinity or the largest finite value under SAT.
DESIGN CHOICE (notes/assumptions/70): a product between half of the smallest subnormal and the smallest subnormal is rounded to nearest like any other, and so becomes the smallest subnormal; only one that rounds to zero becomes a signed zero. -/
def dequantVal (oc : OutCtl) (f : Nat) (v : FVal) : Noted FVal :=
  match v with
  | .fin n _ _ =>
    if isInf32 (f32round v) then
      (if oc.sat then (if f = 0xC then f32val (if n then 0xFF7FFFFF else 0x7F7FFFFF) else v, noteSat) else (.inf n, 0))
    else plain v
  | x => plain x

/-- A value decoded and scaled to FP32 (R85). -/
def dequant32 (oc : OutCtl) (v : FVal) : Noted W32 :=
  let d := dequantVal oc 0xC v
  (f32round d.1, d.2)

/-! ### Operand pairs (R59, R60) -/

/-- Width class of a float of 8 bits or fewer for R60. -/
def floatWidth (f : Nat) : Nat := if f = 5 then 4 else if f = 6 ∨ f = 7 then 6 else if f = 8 ∨ f = 9 then 8 else 16

/-- The rate of a legal weight and activation pair in MACs per engine per cycle, or none (R59, R61, R62). -/
def pairRate (w a : Nat) (sparse : Bool) : Option Nat :=
  let dbl (r : Nat) := if sparse then 2 * r else r
  if a = 2 then
    if w = 0 then (if sparse then none else some 16384)
    else if w = 1 ∨ w = 2 then some (dbl 4096) else none
  else if a = 1 then (if w = 1 then some (dbl 8192) else none)
  else if a = 3 then (if (w = 1 ∨ w = 2) ∨ (w = 3 ∧ !sparse) then some 1024 else none)
  else if a = 5 ∨ a = 6 ∨ a = 7 then
    (if (w = 5 ∨ w = 6 ∨ w = 7) ∧ floatWidth w ≤ floatWidth a then some (dbl 8192) else none)
  else if a = 8 ∨ a = 9 then (if 5 ≤ w ∧ w ≤ 9 then some (dbl 4096) else none)
  else if a = 0xA then (if (5 ≤ w ∧ w ≤ 9) ∨ (w = 0xA ∧ !sparse) then some 1024 else none)
  else if a = 0xB then (if (5 ≤ w ∧ w ≤ 9) ∨ (w = 0xB ∧ !sparse) then some 1024 else none)
  else none

/-- Whether a pair accumulates in integers. -/
def intPair (a : Nat) : Bool := isIntFmt a
/-- The block size of a SCALE code: 32, 16, or 0. -/
def scaleSize (c : Nat) : Nat := if c = 1 then 32 else if c = 2 then 16 else 0
/-- The group length of R66. -/
def groupLen (sa sw : Nat) : Nat := if sa = 2 ∨ sw = 2 then 16 else 32

/-! ### Accumulation (R63 to R70) -/

/-- An integer accumulator of `w` bits raised by a product: it saturates at its extreme with SAT (R63). -/
def accInt (w : Nat) (a : Noted Int) (p : Int) : Noted Int :=
  let v := a.1 + p
  if intMax w < v then (intMax w, a.2 ||| noteSat)
  else if v < intMin w then (intMin w, a.2 ||| noteSat)
  else (v, a.2)

/-- The integer of a decoded integer element. -/
def valInt : FVal → Int
  | .fin n m e => if n then -((m * 2 ^ e.toNat : Nat) : Int) else (m * 2 ^ e.toNat : Nat)
  | _ => 0

/-- A list cut into runs of `n`, with fuel. -/
def chunks {α : Type} (n : Nat) : Nat → List α → List (List α)
  | 0, _ => []
  | k + 1, l => if l.length = 0 then [] else l.take n :: chunks n k (l.drop n)

/-- One output element accumulated over a tile's elements of K: pairs of activation and weight values with the group scales of each element (R63, R66 to R69). -/
def accumulate (fa sa sw : Nat) (start : Acc) (xs : List (FVal × FVal × FVal × FVal)) : Noted Acc :=
  if intPair fa && sa == 0 && sw == 0 then
    let w := if fa = 3 then 48 else 40
    let s0 : Int := match start with | .int i => i | .fp v => valInt (f32val v)
    let r := xs.foldl (fun a x => accInt w a (valInt x.1 * valInt x.2.1)) (s0, 0)
    (.int r.1, r.2)
  else
    let s0 : W32 := match start with | .fp v => v | .int i => f32ofInt i
    if fa = 0xA ∨ fa = 0xB then
      -- R68: one product at a time, the weight's scale inside the product
      let r := xs.foldl (fun a x => f32add a (f32round (fmulX (fmulX x.1 x.2.1) x.2.2.2))) s0
      plain (.fp r)
    else
      let gs := chunks (groupLen sa sw) (xs.length + 1) xs
      let r := gs.foldl (fun a g =>
        let sum := if intPair fa then ofInt (g.foldl (fun a x => a + valInt x.1 * valInt x.2.1) 0) else fsumX (g.map (fun x => fmulX x.1 x.2.1))
        let sc := match g with | x :: _ => fmulX x.2.2.1 x.2.2.2 | [] => .fin false 1 0
        f32add a (f32round (fmulX sum sc))) s0
      plain (.fp r)

end Sys2Proof.Machine
end

