-- ==== Sys2Proof/Machine/Blocks.lean ====
section
/-! DEFINITION. Device memory: block entries, resident copies, homes, reads and writes by block state (R248 to R271), slots, eviction and the placement queue. -/

namespace Sys2Proof.Machine

/-- Bytes of a block. -/
def blockBytes : Nat := 65536
/-- Bytes of a sector (R248). -/
def sectorBytes : Nat := 4096

/-- The block table of a partition. -/
def State.map (s : State) (p : Nat) : Tbl Block := tget [] s.mem.maps p
/-- A block entry; an address no entry lists is UNMAPPED. -/
def State.block (s : State) (p b : Nat) : Block := tget {} (s.map p) b

/-- The carve-out's first byte in the integrator's memory. -/
def carveBase (s : State) : Nat := s.mem.t3BaseHi.toNat * 2 ^ 32 + s.mem.t3BaseLo.toNat

/-! ### Block tables in the carve-out (R246, R248 to R252)

The block map region lies at the carve-out's start, its three parts in the order of R684: the directories 1 of the 64 partitions, the directories 2, the block tables (DESIGN CHOICE, notes/assumptions/68). A directory 2 or a block table is the one of the lowest number not in use. -/

/-- The code of a block state (R254). -/
def blockCode : BlockState → Nat
  | .unmapped => 0 | .zero => 1 | .home => 2 | .fetching => 3 | .clean => 4
  | .dirty => 5 | .writeback => 6 | .view => 7 | .poisoned => 8

/-- The carve-out offset of a partition's directory 1, which is the root that the placement engine holds on chip (R248). -/
def dir1Off (p : Nat) : Nat := p * 32768
/-- The carve-out offset of directory 2 number `d`. -/
def dir2Off (d : Nat) : Nat := 2097152 + d * 8192
/-- The carve-out offset of block table number `n`. -/
def btabOff (s : State) (n : Nat) : Nat := 2097152 + 8192 * (64 + ceilDiv s.mem.mapRoom 1024) + n * 16384

/-- A directory entry (R249): VALID and the next table's carve-out address, or zero. -/
def dirEntry (s : State) (off : Option Nat) : W64 :=
  match off with
  | some a => BitVec.ofNat 64 (1 + (carveBase s + a) % 2 ^ 48)
  | none => 0
/-- Entry `i` of a partition's directory 1. -/
def dir1Entry (s : State) (p i : Nat) : W64 := dirEntry s ((tfind s.mem.dir2 (p * 4096 + i)).map dir2Off)
/-- The entry of directory 2 that covers block table `i` of a partition. -/
def dir2Entry (s : State) (p i : Nat) : W64 := dirEntry s ((tfind s.mem.btab (p * 2 ^ 22 + i)).map (btabOff s))

/-- A block entry as the block table holds it (R250). -/
def blockEntry (b : Block) : BitVec 128 :=
  let tier : Nat := match b.res with | .none => 0 | .t1 _ _ => 1 | .t2 _ => 2 | .cache _ => 3
  let res : Nat := match b.res with | .none => 0 | .t1 c sl => c * 128 + sl | .t2 sl => sl | .cache sl => sl
  let home : Nat := match b.home with | .t3 _ => 0 | .t4 _ _ => 1 | .view _ => 2 | .tap _ => 2
  let addr : Nat := match b.home with | .t3 h => h | .t4 r k => r * 2 ^ 26 + k | .view n => n | .tap n => n
  BitVec.ofNat 128 (blockCode b.state + tier * 2 ^ 4 + home * 2 ^ 6 + b.hint % 16 * 2 ^ 8 + b2n b.pin * 2 ^ 12 + b2n (decide (0 < b.cadset)) * 2 ^ 13
    + b2n b.isSealed * 2 ^ 14 + b.dirty.toNat * 2 ^ 16 + res % 2 ^ 24 * 2 ^ 32 + addr % 2 ^ 32 * 2 ^ 64 + b.lic % 256 * 2 ^ 96)
/-- The 128 bits of a block's entry: zero where no block table covers it. -/
def tableEntry (s : State) (p b : Nat) : BitVec 128 := if (tfind s.mem.btab (p * 2 ^ 22 + b / 1024)).isSome then blockEntry (s.block p b) else 0

/-! ### The carve-out's regions (R246, R684)

From the carve-out's start: the block maps, the Press map and read counters, the tags and counters, and the remainder at its end (DESIGN CHOICE, notes/assumptions/68). The sizes are those of start-up. -/

/-- The first byte of the carve-out's remainder, which follows the regions of R246 (R684). -/
def poolBase (s : State) : Nat := (s.mem.t3Size.toNat * 1024 - s.mem.t3Avail.toNat) * blockBytes
/-- The bytes of the block map region. -/
def mapsLen (s : State) : Nat := btabOff s s.mem.mapRoom
/-- The data capacity of the NAND at start-up. -/
def flashBytes (s : State) : Nat := s.mem.mapRoom * 67108864 - s.mem.t3Size.toNat * 67108864
/-- The bytes of the Press map and read counters region. -/
def pressLen (s : State) : Nat := flashBytes s / 4096 + 8 * (flashBytes s / 16777216)
/-- The first byte of the tags and counters. -/
def tagBase (s : State) : Nat := (mapsLen s + pressLen s + 63) / 64 * 64

/-- The bytes that a counter block of a level covers (R555). -/
def levelSpan (level : Nat) : Nat := 4096 * 64 ^ level
/-- The counter blocks of a level over the block maps. -/
def metaBlocks (s : State) (level : Nat) : Nat := ceilDiv (mapsLen s) (levelSpan level)
/-- The counter blocks of a level over the block maps and the remainder. -/
def levelBlocks (s : State) (level : Nat) : Nat :=
  metaBlocks s level + ceilDiv (s.mem.t3Size.toNat * 67108864 - poolBase s / levelSpan level * levelSpan level) (levelSpan level)
/-- The place of a counter block among those stored of its level: what no line lies under is passed over. -/
def counterIdx (s : State) (level n : Nat) : Nat :=
  if n < metaBlocks s level then n else n - poolBase s / levelSpan level + metaBlocks s level
/-- The counter block at a place of its level. -/
def idxCounter (s : State) (level i : Nat) : Nat :=
  if i < metaBlocks s level then i else i - metaBlocks s level + poolBase s / levelSpan level
/-- The first byte of a level's counter blocks: the tags of the lines come before them. -/
def levelBase (s : State) (level : Nat) : Nat :=
  tagBase s + 512 * levelBlocks s 0 + ((List.range level).map (fun l => 64 * levelBlocks s l)).sum
/-- The carve-out offset of a counter block. -/
def counterOff (s : State) (level n : Nat) : Nat := levelBase s level + 64 * counterIdx s level n

/-! ### Counters of the live class (R555 to R557) -/

/-- A counter that would pass 127: its block's MAJOR rises, every MINOR of the block is 0 and what it covers is encrypted again (R557). -/
def majorRise (minors majors : Tbl Nat) (i : Nat) : Tbl Nat × Tbl Nat × Bool :=
  if tget 0 minors i = 127 then (minors.filter (fun e => e.1 / 64 != i / 64), tmod 0 majors (i / 64) (· + 1), true)
  else (tmod 0 minors i (· + 1), majors, false)

/-- A re-encryption counted, with REENC. -/
def noteReenc (s : State) (again : Bool) : State :=
  if again then { s with mem.reenc := satInc s.mem.reenc, mem.sealEvents := raiseEv s.mem.sealEvents 4 } else s

/-- The write-back of a line raises its MINOR (R557). -/
def sealLine (s : State) (line : Nat) : State :=
  let r := majorRise s.mem.minor0 s.mem.major0 line
  noteReenc { s with mem.minor0 := r.1, mem.major0 := r.2.1 } r.2.2

/-- The write-back of a level-0 counter block raises its parents, up to the root (R555 to R557). -/
def sealTree (s : State) (blk0 : Nat) : State :=
  let r1 := majorRise s.mem.minor1 s.mem.major1 blk0
  let s1 := noteReenc { s with mem.minor1 := r1.1, mem.major1 := r1.2.1 } r1.2.2
  let r2 := majorRise s1.mem.minor2 s1.mem.major2 (blk0 / 64)
  noteReenc { s1 with mem.minor2 := r2.1, mem.major2 := r2.2.1, mem.roots := tmod 0 s1.mem.roots (blk0 / 4096) (· + 1) } r2.2.2

/-- A write of a line of the block's own tables (R251, R557): its counters rise. -/
def sealMeta (s : State) (off : Nat) : State := sealTree (sealLine s (off / 64)) (off / 4096)

/-! ### Memory ports (R262) -/

/-- Cores that are powered. -/
def poweredCores (s : State) : List Nat := (List.range s.ncores).filter (fun c => (s.core c).on)

/-- The memory port of a transfer (R262). -/
def portOf (s : State) (blk : Block) (r : Resident) : Nat :=
  match r with
  | .t1 c _ => c
  | _ =>
    let ps := poweredCores s
    match blk.home with
    | .t3 h => ps.getD (h % max ps.length 1) 0
    | .t4 rg k => ps.getD ((rg * 67108864 + k) % max ps.length 1) 0
    | _ => 0

/-! ### Requests on the memory ports (R35, R630, R642) -/

/-- The rank of a class, highest first (R444). -/
def classRank : SClass → Nat
  | .cadence => 0 | .interactive => 1 | .bulk => 2 | .background => 3

/-- Credits held on a port and channel (R630). Ports 0 host, 1 + c memory port c, 65 interrupt; channels 0 request, 1 write data, 2 read response, 3 write response. -/
def creditKey (port ch : Nat) : Nat := port * 4 + ch
/-- The count of credits. -/
def State.credits (s : State) (port ch : Nat) : Nat := tget 0 s.ports.credits (creditKey port ch)

/-- The cost of a grant added to a partition's virtual time: floor(c × 1,000 ÷ WEIGHT) (R445). -/
def chargeV (s : State) (v : Tbl Nat) (p cost : Nat) : Tbl Nat := tmod 0 v p (· + cost * 1000 / max 1 (s.part p).weight.toNat)
/-- A partition that has been idle at an arbiter resumes with the lowest virtual time of the partitions active there (R445). -/
def resumeV (v : Tbl Nat) (act : List Nat) (p : Nat) : Tbl Nat :=
  match act with
  | [] => v
  | q :: rest => if act.contains p then v else tset v p (rest.foldl (fun m r => min m (tget 0 v r)) (tget 0 v q))

/-- The virtual times at a memory port. -/
def portV (s : State) (port : Nat) : Tbl Nat := tget [] s.mem.vPort port
/-- The order in which held requests leave a port (R35, R445): by rank and class; cadence-class requests by deadline, the others by their partitions' virtual times and numbers; the oldest first among equals. -/
def memKey (s : State) (r : MemReq) : List Nat :=
  [r.rank, classRank r.cls] ++ (if r.cls = .cadence then [r.deadline] else [tget 0 (portV s r.port) r.part, r.part])

/-- Whether a held request of a port may leave (R630, R642): one request credit, for a write a data credit for each of its beats; at most 128 reads and 64 writes outstanding. -/
def memMayGo (s : State) (port : Nat) (r : MemReq) : Bool :=
  r.port == port && r.id.isNone && decide (0 < s.credits (1 + port) 0) &&
  (!r.write || decide (r.beats ≤ s.credits (1 + port) 1)) &&
  decide ((s.mem.outReq.filter (fun q => q.port == port && q.write == r.write && q.id.isSome)).length < (if r.write then 64 else 128))

/-- The first element of a list that passes a test replaced. -/
def replaceFirst {α : Type} (test : α → Bool) (f : α → α) : List α → List α
  | [] => []
  | a :: r => if test a then f a :: r else a :: replaceFirst test f r

/-- The held request of a port that leaves next. -/
def nextMem (s : State) (port : Nat) : Option MemReq :=
  (sortBy (fun a b => keyLt (memKey s a) (memKey s b)) (s.mem.outReq.filter (memMayGo s port))).head?

/-- Held requests of a memory port leave while credits last, at most `n`. -/
def pumpMemAux (port : Nat) : Nat → State → State
  | 0, s => s
  | n + 1, s =>
    match nextMem s port, firstFree ((s.mem.outReq.filter (fun r => r.port == port)).filterMap (·.id)) 256 with
    | some r, some i =>
      let cr := tmod 0 s.ports.credits (creditKey (1 + port) 0) (fun k => k - 1)
      let cr2 := if r.write then tmod 0 cr (creditKey (1 + port) 1) (fun k => k - r.beats) else cr
      pumpMemAux port n { s with ports.credits := cr2
                                 mem.vPort := tset s.mem.vPort port (chargeV s (portV s port) r.part r.beats)
                                 mem.outReq := replaceFirst (fun q => decide (q = r)) (fun q => { q with id := some i }) s.mem.outReq }
    | _, _ => s

/-- Held requests of a memory port leave while credits last. -/
def pumpMem (s : State) (port : Nat) : State :=
  if s.pwr.trip then s else pumpMemAux port (s.mem.outReq.filter (fun r => r.port == port && r.id.isNone)).length s

/-- Sectors first to 15 and then 0 to first − 1 (R256). -/
def sectorOrder (first : Nat) : List Nat := (List.range 16).map (fun i => (first + i) % 16)

/-- Requests join those held for a memory port (R445): a partition that had none there resumes its virtual time. -/
def holdMem (s : State) (port p : Nat) (rs : List MemReq) : State :=
  let act := (s.mem.outReq.filter (fun r => r.port == port && r.id.isNone)).map (·.part)
  pumpMem { s with mem.vPort := tset s.mem.vPort port (resumeV (portV s port) act p), mem.outReq := s.mem.outReq ++ rs } port

/-- A counter block's name in a sealing engine's cache: its level and number. -/
def ccKey (level n : Nat) : Nat := level * 2 ^ 40 + n

/-- The counter blocks that verifying a line under level-0 block `n` reads (R556): its own and those of the levels above it, up to the first that the engine holds. -/
def ccReads (s : State) (port n : Nat) : List (Nat × Nat) :=
  let held (l : Nat) : Bool := s.mem.ccache.contains (port, ccKey l (n / 64 ^ l))
  ([0, 1, 2].takeWhile (fun l => !held l)).map (fun l => (l, n / 64 ^ l))

/-- A counter block of a sealing engine's cache is used: a miss is counted and reads what the engine lacks, over its port with tag 0x3F; 512 blocks are kept per engine (R246, R556). -/
def ccTouch (s : State) (port p n : Nat) : State :=
  let miss := ccReads s port n
  let new := ((0, n) :: miss.drop 1).map (fun e => (port, ccKey e.1 e.2))
  let own := s.mem.ccache.filter (fun x => x.1 == port && !new.contains x)
  let others := s.mem.ccache.filter (fun x => x.1 != port)
  let reads := miss.map (fun e => ({ port := port, id := none, write := false, part := p, block := 0, sector := 0, addr := carveBase s + counterOff s e.1 e.2
                                     again := false, tag := 0x3F, beats := 1, copy := true } : MemReq))
  let s1 := { s with mem.ccache := new ++ own.take (512 - new.length) ++ others
                     mem.ccMiss := if miss = [] then s.mem.ccMiss else satInc s.mem.ccMiss }
  if miss = [] then s1 else holdMem s1 port p reads

/-- Bytes of the carve-out written over a memory port for a partition: the lines, then the counter blocks over them. -/
def sealWrite (s : State) (port p addr len : Nat) : State :=
  let lines := (List.range ((addr + len - 1) / 64 + 1 - addr / 64)).map (fun i => addr / 64 + i)
  let s1 := lines.foldl sealLine s
  ((lines.map (· / 64)).dedup).foldl (fun t b => ccTouch (sealTree t b) port p b) s1

/-- A block entry written. A change of STATE, TIER or RES first invalidates every cached copy of the entry (R252). A changed entry is a write of its line of the block table, under the live class (R251, R557). -/
def State.setBlock (s : State) (p b : Nat) (v : Block) : State :=
  let o := s.block p b
  let s1 := { s with
    mem.maps := tset s.mem.maps p (tset (s.map p) b v)
    mem.btc := if o.state = v.state ∧ o.res = v.res then s.mem.btc
               else s.mem.btc.filter (fun e => !(e.2.1 == p && e.2.2 == b)) }
  match tfind s.mem.btab (p * 2 ^ 22 + b / 1024) with
  | some n => if blockEntry o = blockEntry v then s1 else sealMeta s1 (btabOff s n + b % 1024 * 16)
  | none => s1
/-- A block entry changed. -/
def State.modBlock (s : State) (p b : Nat) (f : Block → Block) : State := s.setBlock p b (f (s.block p b))

/-- A memory event of MEM_EVENTS raised: 0 UNMAPPED_ACC, 1 TAG_FAIL, 2 UNCORR, 3 POISON_READ, 4 EVICT_STALL, 5 WRITE_REFUSED (R299). -/
def memEvent (s : State) (bit : Nat) : State := { s with mem.events := raiseEv s.mem.events bit }

/-! ### Where bytes lie -/

/-- The carve-out block of a home offset, through the partition's extents (R428). -/
def extBlock : List (Nat × Nat) → Nat → Nat
  | [], off => off
  | (base, n) :: r, off => if off < n then base + off else extBlock r (off - n)

/-- The first byte of a resident copy in the on-chip and cache storage. -/
def resKey : Resident → Option Nat
  | .none => none
  | .t1 c sl => some ((c * 128 + sl) * blockBytes)
  | .t2 sl => some ((8192 + sl) * blockBytes)
  | .cache sl => some ((16384 + sl) * blockBytes)

/-- The first byte of a T3 home in the carve-out's remainder. -/
def t3Key (s : State) (p off : Nat) : Nat := extBlock (s.part p).extents off * blockBytes
/-- The first byte of a T4 home: region and logical block. -/
def t4Key (region blk : Nat) : Nat := (region * 67108864 + blk) * blockBytes

/-- A byte of a slot's header: the 32 bytes of R232. -/
def slotHeader (sl : Slot) : List Byte :=
  leBytes 8 sl.ts.toNat ++ leBytes 8 sl.ext.toNat ++ leBytes 4 sl.seq.toNat ++ leBytes 4 sl.len
    ++ leBytes 2 (b2n sl.complete + 2 * b2n sl.trunc + 4 * b2n sl.gap + 8 * b2n sl.linkErr)
    ++ [0, 0] ++ leBytes 4 sl.dur.toNat

/-- A byte of a stream's view (R234): the pinned slot's payload, then its header; zero where no slot is pinned. -/
def viewByte (s : State) (n off : Nat) : Byte :=
  let st := s.stream n
  match st.pinned with
  | none => 0
  | some k =>
    let sl := tget {} st.slots k
    if off < st.slotBytes then mget 0 sl.data off
    else if off < st.slotBytes + 32 then (slotHeader sl).getD (off - st.slotBytes) 0
    else 0

/-- A byte of a tap view (R304): the ring's bytes, then from 0x2_0000 the tap header's total count, last stamp and external time; zero elsewhere. -/
def tapByte (s : State) (n off : Nat) : Byte :=
  let st := s.stream n
  if off < st.tapBytes then mget 0 s.spr.sram (st.tapLine * 64 + off)
  else if 0x20000 ≤ off ∧ off < 0x20018 then (leBytes 8 st.tapCount.toNat ++ leBytes 8 st.tapTs.toNat ++ leBytes 8 st.tapExt.toNat).getD (off - 0x20000) 0
  else 0

/-- The plaintext of the 512-byte tile of a sealed block that holds an offset, as a sealing engine gives it on the way to T1, T2 or T0 (R551, R552). -/
def sealedTile (s : State) (blk : Block) (r k off : Nat) : List Byte :=
  let l := s.lic blk.lic
  let idx := ((k - blk.head) * blockBytes + off - blockBytes) / 512
  let cipher := mread 0 s.mem.t4 (t4Key r k + off / 512 * 512) 512
  Config.gcmPlain (l.key.getD []) (beBytes 4 l.version.toNat ++ beBytes 8 idx) (l.modelId ++ beBytes 8 idx) cipher

/-- A byte of a T4 home on its way to a task or a copy: decrypted where the block is a sealed payload. -/
def t4Byte (s : State) (blk : Block) (r k off : Nat) : Byte :=
  if blk.isSealed && !blk.tagBlk then (sealedTile s blk r k off).getD (off % 512) 0 else mget 0 s.mem.t4 (t4Key r k + off)

/-- Bytes of a T4 home written into a copy: ciphertext into the T3 cache, plaintext anywhere else (R548). -/
def copyT4 (s : State) (blk : Block) (r k off n dst : Nat) : Mem :=
  let toCache : Bool := match blk.res with | .cache _ => true | _ => false
  if blk.isSealed && !blk.tagBlk && !toCache then
    let tiles := (List.range (n / 512)).flatMap (fun i => padTo 512 (sealedTile s blk r k (off + 512 * i)))
    mwrite 0 s.mem.sram dst tiles
  else mcopy s.mem.t4 (t4Key r k + off) s.mem.sram dst n

/-- A byte of a block's home. -/
def homeByte (s : State) (p b : Nat) (blk : Block) (off : Nat) : Byte :=
  match blk.home with
  | .t3 h => if blk.written then mget 0 s.mem.t3 (t3Key s p h + off) else 0
  | .t4 r k => t4Byte s blk r k off
  | .view n => viewByte s n (b * blockBytes + off - (s.stream n).viewAddr)
  | .tap n => tapByte s n (b * blockBytes + off - (s.stream n).viewAddr - 0x410000)

/-- A byte of a block as any access sees it: from the resident copy if there is one, from the home otherwise (R253, R254); a sector that has not landed is the home's. -/
def blockByte (s : State) (p b off : Nat) : Byte :=
  let blk := s.block p b
  match blk.state with
  | .unmapped | .zero | .poisoned => 0
  | .home | .view => homeByte s p b blk off
  | .fetching =>
    if blk.landed.getLsbD (off / sectorBytes) then
      match resKey blk.res with
      | some k => mget 0 s.mem.sram (k + off)
      | none => homeByte s p b blk off
    else homeByte s p b blk off
  | .clean | .dirty | .writeback =>
    match blk.res, resKey blk.res with
    | .cache _, some k => if blk.isSealed && !blk.tagBlk then homeByte s p b blk off else mget 0 s.mem.sram (k + off)
    | _, some k => mget 0 s.mem.sram (k + off)
    | _, none => homeByte s p b blk off

/-- One byte of a partition's device range. -/
def devByte (s : State) (p addr : Nat) : Byte := blockByte s p (addr / blockBytes) (addr % blockBytes)
/-- Bytes of a partition's device range, through addresses taken modulo 2^48. -/
def devRead (s : State) (p addr n : Nat) : List Byte := (List.range n).map (fun i => devByte s p ((addr + i) % 2 ^ 48))

/-- The blocks that a byte range touches. -/
def blocksOf (addr len : Nat) : List Nat :=
  if len = 0 then [] else (List.range ((addr + len - 1) / blockBytes + 1 - addr / blockBytes)).map (fun i => addr / blockBytes + i)

/-- Whether a byte range lies partly in blocks of a state. -/
def anyBlock (s : State) (p addr len : Nat) (st : BlockState) : Bool :=
  (blocksOf addr len).any (fun b => decide ((s.block p b).state = st))

/-! ### Users (R257) -/

/-- Whether a block holds any part of a configured ring of an attached or detached session (R382). -/
def ringBlock (s : State) (p b : Nat) : Bool :=
  let pt := s.part p
  let hit (base len : Nat) : Bool := decide (base / blockBytes ≤ b ∧ b ≤ (base + len - 1) / blockBytes)
  pt.session != .none &&
  ((List.range 4).any (fun r =>
      let g := tget {} pt.rings r
      g.size != 0 && hit (g.baseHi.toNat * 2 ^ 32 + g.baseLo.toNat) (512 * 2 ^ g.size.toNat))
   || (pt.cqSize != 0 && hit (pt.cqBaseHi.toNat * 2 ^ 32 + pt.cqBaseLo.toNat) (32 * 2 ^ pt.cqSize.toNat)))

/-- Whether a block has users (R257). -/
def hasUsers (s : State) (p b : Nat) : Bool :=
  let blk := s.block p b
  decide (0 < blk.users) || blk.pin || decide (blk.state = .view) || ringBlock s p b

/-! ### Slots -/

/-- The slots of a core's T1 in use. -/
def usedT1 (s : State) (c : Nat) : List Nat :=
  s.mem.maps.flatMap (fun m => m.2.filterMap (fun e => match e.2.res with | .t1 k sl => if k = c then some sl else none | _ => none))
/-- The slots of T2 in use. -/
def usedT2 (s : State) : List Nat :=
  s.mem.maps.flatMap (fun m => m.2.filterMap (fun e => match e.2.res with | .t2 sl => some sl | _ => none))
/-- The slots of the T3 cache in use. -/
def usedCache (s : State) : List Nat :=
  s.mem.maps.flatMap (fun m => m.2.filterMap (fun e => match e.2.res with | .cache sl => some sl | _ => none))
/-- The blocks a partition holds in T1 of a core. -/
def partT1 (s : State) (p c : Nat) : List Nat :=
  (s.map p).filterMap (fun e => match e.2.res with | .t1 k _ => if k = c then some e.1 else none | _ => none)
/-- The blocks a partition holds in T1. -/
def resT1 (s : State) (p : Nat) : List Nat :=
  (s.map p).filterMap (fun e => match e.2.res with | .t1 _ _ => some e.1 | _ => none)
/-- The blocks a partition holds in T2. -/
def resT2 (s : State) (p : Nat) : List Nat :=
  (s.map p).filterMap (fun e => match e.2.res with | .t2 _ => some e.1 | _ => none)
/-- The blocks a partition holds in the T3 cache. -/
def resCache (s : State) (p : Nat) : List Nat :=
  (s.map p).filterMap (fun e => match e.2.res with | .cache _ => some e.1 | _ => none)

/-- Blocks of T2 that a partition's stream rings take: SLOTS × SLOT_BYTES of payload and 32 B of header each (R231). -/
def ringBlocks (s : State) (p : Nat) : Nat :=
  (List.range 24).foldl (fun n k =>
    let st := s.stream k
    if st.owned && st.owner.toNat == p then n + ceilDiv (st.nslots * (st.slotBytes + 32)) blockBytes else n) 0

/-- A free slot in T1 of a powered core within the partition's equal share (R428). -/
def freeT1 (s : State) (p c : Nat) : Option Nat :=
  let n := (coresOf s p).length
  if (s.core c).on ∧ (coresOf s p).contains c ∧ (partT1 s p c).length < (s.part p).qT1.toNat / n then firstFree (usedT1 s c) 128 else none
/-- A free slot in T2 within the partition's quota. -/
def freeT2 (s : State) (p : Nat) : Option Nat :=
  if s.crp.net.on ∧ (resT2 s p).length + ringBlocks s p < (s.part p).qT2.toNat then firstFree (usedT2 s) (32 * s.ncores) else none
/-- The carve-out blocks of a list of extents. -/
def extTotal (l : List (Nat × Nat)) : Nat := l.foldl (fun n e => n + e.2) 0
/-- A free slot of the partition's T4 cache extents, within its allowance (R428): a slot is the number of its carve-out block. -/
def freeCache (s : State) (p : Nat) : Option Nat :=
  let used := usedCache s
  let ext := (s.part p).cacheExt
  if (resCache s p).length < (s.part p).qT4c.toNat then
    ((List.range (min (extTotal ext) (used.length + 1))).map (extBlock ext)).find? (fun sl => !used.contains sl)
  else none

/-- Requests for sectors from a carve-out address put on a memory port, in the order given, for the tile mover of the port's core (R262, R437, R627). -/
def askPort (s : State) (port : Nat) (write copy : Bool) (p b addr rank : Nat) (cls : SClass) (secs : List Nat) (deadline : Nat := 2 ^ 64) : State :=
  let mk (j : Nat) : MemReq :=
    { port := port, id := none, write := write, part := p, block := b, sector := j, addr := addr + j * sectorBytes, again := false
      init := initId 5 port, tag := BitVec.ofNat 6 p, rank := rank, cls := cls, copy := copy, deadline := deadline }
  holdMem s port p (secs.map mk)

/-- The carve-out address of a block's T3 home. -/
def homeAddr (s : State) (p h : Nat) : Nat := carveBase s + poolBase s + t3Key s p h
/-- The carve-out address of a T3-cache slot. -/
def cacheAddr (s : State) (sl : Nat) : Nat := carveBase s + poolBase s + sl * blockBytes

/-- The requests of the sectors of a block between its T3 home and a copy. -/
def askMem (s : State) (p b : Nat) (r : Resident) (write : Bool) (mask : BitVec 16) (first rank : Nat) (cls : SClass) (deadline : Nat := 2 ^ 64) : State :=
  let blk := s.block p b
  match blk.home with
  | .t3 h => askPort s (portOf s blk r) write false p b (homeAddr s p h) rank cls ((sectorOrder first).filter (fun j => mask.getLsbD j)) deadline
  | _ => s

/-- The requests of a transfer whose data the model moves at once: into or out of the T3 cache, or of an installation that a write makes. -/
def askCopy (s : State) (p b : Nat) (addr : Nat) (write : Bool) (mask : BitVec 16) (rank : Nat) (cls : SClass) : State :=
  let blk := s.block p b
  askPort s (portOf s blk blk.res) write true p b addr rank cls ((List.range 16).filter (fun j => mask.getLsbD j))

/-- The requests of a write that goes through to a home: those of its 128-byte beats in each sector that it touches (R641, R642). -/
def askBytes (s : State) (p b addr off len rank : Nat) (cls : SClass) : State :=
  let port := portOf s (s.block p b) .none
  let mk (j : Nat) : MemReq :=
    let lo := max off (j * sectorBytes) / 128
    let hi := ceilDiv (min (off + len) ((j + 1) * sectorBytes)) 128
    { port := port, id := none, write := true, part := p, block := b, sector := j, addr := addr + 128 * lo, again := false
      init := initId 5 port, tag := BitVec.ofNat 6 p, rank := rank, cls := cls, beats := hi - lo, copy := true }
  let secs := (List.range 16).filter (fun j => decide (j * sectorBytes < off + len ∧ off < (j + 1) * sectorBytes))
  holdMem s port p (secs.map mk)

/-! ### Reads of the Press (R278, R288) -/

/-- The key of a flash page unit: region and unit number. -/
def unitKey (r u : Nat) : Nat := r * 2 ^ 28 + u
/-- The channel of a page unit's place (R288). -/
def placeChannel (s : State) (f : FlashPlace) : Nat := f.channel % max s.press.channels.toNat 1
/-- The LUN of a page unit's place: its channel, chip enable and LUN. -/
def placeLun (f : FlashPlace) : Nat := f.channel * 8 + f.ce * 2 + f.lun
/-- The place of a page of an erase block: the blocks are numbered over the channels first, then over the chip enables, then over the LUNs (notes/assumptions/41). -/
def eplace (s : State) (b page : Nat) : FlashPlace :=
  let c := max s.press.channels.toNat 1
  let e := max s.press.ce.toNat 1
  { channel := b % c, ce := b / c % e, lun := b / (c * e) % (if s.press.lun2 then 2 else 1), block := b, page := page }
/-- The LUN of an erase block. -/
def lunOf (s : State) (b : Nat) : Nat := placeLun (eplace s b 0)
/-- The LUNs with a program or an erase under way. -/
def lunsBusy (s : State) : List Nat := s.press.ops.map (fun o => lunOf s o.block)
/-- An ONFI command sent on a channel (R287). -/
def onfi (s : State) (channel : Nat) (c : OnfiCmd) : State := { s with press.lastCmd := tset s.press.lastCmd channel c }
/-- The LUN that holds a page unit, where the map names it. -/
def unitLun (s : State) (r u : Nat) : Option Nat := (tfind s.press.map (unitKey r u)).map placeLun

/-- The order in which the Press takes reads (R35, R278, R445): by rank; within rank 3 the earliest deadline first; within rank 5 by class, then by their partitions' virtual times and numbers. -/
def pressKey (s : State) (r : PageRead) : List Nat :=
  if r.rank = 3 then [3, r.deadline] else [r.rank, classRank r.cls] ++ (if r.rank = 5 then [tget 0 s.press.vtime r.part, r.part] else [])

/-- A read issued to its LUN when that has none under way and no program or erase that goes on: one that may be suspended gives way to rank 3, and a suspended one leaves the LUN to reads (R278). -/
def mayIssue (s : State) (r : PageRead) : Bool :=
  match unitLun s r.region r.unit with
  | none => true
  | some l =>
    !(s.press.readQ.any (fun q => q.issued && unitLun s q.region q.unit == some l)) &&
    (!((lunsBusy s).contains l) || s.press.suspended.contains l || (decide (r.rank ≤ 3) && s.press.canSuspend))

/-- The Press issues what it may, one read after another in their order. -/
def pumpPressAux : Nat → State → State
  | 0, s => s
  | n + 1, s =>
    match (sortBy (fun a b => keyLt (pressKey s a) (pressKey s b)) (s.press.readQ.filter (fun r => !r.issued && mayIssue s r))).head? with
    | none => s
    | some r =>
      let at_ := tfind s.press.map (unitKey r.region r.unit)
      let s1 : State := match at_ with
        | some f =>
          let l := placeLun f
          let held := if (lunsBusy s).contains l ∧ !s.press.suspended.contains l
                      then onfi { s with press.suspended := l :: s.press.suspended } f.channel .suspend else s
          onfi held f.channel .pageRead
        | none => s
      pumpPressAux n { s1 with
        press.vtime := if r.rank = 5 then chargeV s1 s1.press.vtime r.part 1 else s1.press.vtime
        press.readQ := replaceFirst (fun q => decide (q = r)) (fun q => { q with issued := true, eblock := at_.map (·.block) }) s1.press.readQ }

/-- The Press issues what it may once it is READY. -/
def pumpPress (s : State) : State :=
  if s.press.ready then pumpPressAux (s.press.readQ.filter (fun r => !r.issued)).length s else s

/-- Reads of page units of a T4 block asked of the Press: one for each unit of 16 KiB that holds a sector of the mask. -/
def askPress (s : State) (p b r k : Nat) (mask : BitVec 16) (first rank deadline : Nat) (cls : SClass) : State :=
  let us := ((sectorOrder first).filter (fun j => mask.getLsbD j)).map (· / 4)
  let mk (i : Nat) : PageRead := { part := p, block := b, region := r, unit := 4 * k + i, rank := rank, cls := cls, deadline := deadline }
  let act := (s.press.readQ.filter (fun q => !q.issued && q.rank == 5)).map (·.part)
  pumpPress { s with press.vtime := if rank = 5 then resumeV s.press.vtime act p else s.press.vtime, press.readQ := s.press.readQ ++ us.dedup.map mk }

/-- The class of a partition (R433: 1 interactive, 2 bulk, 3 background). -/
def classOf (s : State) (p : Nat) : SClass :=
  if (s.part p).cls = 3 then .background else if (s.part p).cls = 2 then .bulk else .interactive

/-- Whether a partition moves whole tensors: up to four cores always, eight as it chose, above never (R34). -/
def tensorMode (s : State) (p : Nat) : Bool := decide (s.ncores ≤ 4) || (s.ncores == 8 && !(s.part p).tileMode)

/-! ### Homes and copies -/

/-- The home takes the sectors of the copy named by a mask; the home is then written (R265). -/
def writeHome (s : State) (p b : Nat) (mask : BitVec 16) : State :=
  let blk := s.block p b
  match blk.home, resKey blk.res with
  | .t3 h, some k =>
    let secs := (List.range 16).filter (fun j => mask.getLsbD j)
    let t3 := secs.foldl (fun m j =>
      mcopy s.mem.sram (k + j * sectorBytes) m (t3Key s p h + j * sectorBytes) sectorBytes) s.mem.t3
    let sealed_ := secs.foldl (fun u j => sealWrite u (portOf s blk blk.res) p (poolBase s + t3Key s p h + j * sectorBytes) sectorBytes) s
    ({ sealed_ with
      mem.t3 := t3
      mem.pWb := tmod 0 s.mem.pWb p (fun v => satAdd v secs.length) }).modBlock p b
      (fun k => { k with dirty := k.dirty &&& ~~~mask, written := k.written || (mask != 0 && k.dirty &&& ~~~mask == 0) })
  | _, _ => s

/-- The copy's storage cleared: a slot holds nothing of its former owner (R452). -/
def clearCopy (s : State) (r : Resident) : State :=
  match resKey r with
  | some k => { s with mem.sram := mclear s.mem.sram k (k + blockBytes) }
  | none => s

/-- The copy dropped without write-back; the block returns to its home, or to ZERO when the home was never written (R269). -/
def dropCopy (s : State) (p b : Nat) : State :=
  let blk := s.block p b
  if blk.res = .none then s
  else
    let st : BlockState := match blk.home with
      | .t3 _ => if blk.written then .home else .zero
      | _ => .home
    (clearCopy s blk.res).setBlock p b { blk with state := st, res := .none, dirty := 0, landed := 0, inWb := 0, entryHint := 0, leaving := false }

/-- A copy moved to another slot, its bytes with it. -/
def moveCopy (s : State) (p b : Nat) (dst : Resident) : State :=
  let blk := s.block p b
  match resKey blk.res, resKey dst with
  | some a, some k =>
    let s1 := { s with mem.sram := mclear (mcopy s.mem.sram a s.mem.sram k blockBytes) a (a + blockBytes) }
    s1.setBlock p b { blk with res := dst }
  | _, _ => s

/-- The hint that a copy follows: that of the last operand entry that used it, else the block's own (R259). -/
def copyHint (blk : Block) : Nat := if blk.entryHint = 0 then blk.hint else blk.entryHint
/-- The eviction class of R263: 0 first. -/
def evictClass (blk : Block) : Nat :=
  if 0 < blk.cadset then 4
  else if copyHint blk = 3 then 3
  else if copyHint blk = 6 ∨ copyHint blk = 7 then 0
  else if blk.state = .dirty then 2 else 1

/-- The victims of a tier in the order of R263. -/
def victims (s : State) (p : Nat) (inTier : Resident → Bool) : List Nat :=
  let c := (s.map p).filter (fun e => inTier e.2.res && !hasUsers s p e.1 &&
    e.2.state != .fetching && e.2.state != .writeback && e.2.state != .view)
  (sortBy (fun a b => keyLt [evictClass a.2, a.2.lastUse.toNat, a.1] [evictClass b.2, b.2.lastUse.toNat, b.1]) c).map (·.1)

/-- A copy installed with the home's bytes, all sectors landed. -/
def installNow (s : State) (p b : Nat) (r : Resident) : State :=
  let blk := s.block p b
  match resKey r with
  | none => s
  | some k =>
    let s1 := { s with mem.sram := mclear s.mem.sram k (k + blockBytes) }
    let s2 : State := match blk.home with
      | .t3 h => if blk.written then { s1 with mem.sram := mcopy s.mem.t3 (t3Key s p h) s1.mem.sram k blockBytes } else s1
      | .t4 rg kb => { s1 with mem.sram := copyT4 s1 { blk with res := r } rg kb 0 blockBytes k }
      | _ => s1
    s2.setBlock p b { blk with state := .clean, res := r, dirty := 0, landed := 0xFFFF, lastUse := s.ts }

/-- The T3 cache takes a block of a T4 home, over the memory port of R262: its oldest cached block gives way when the allowance is full (R263). -/
def toCache (s : State) (p b : Nat) : State :=
  let s1 := match freeCache s p with
    | some _ => s
    | none =>
      match (sortBy (fun a b => keyLt [(s.block p a).lastUse.toNat, a] [(s.block p b).lastUse.toNat, b])
              ((resCache s p).filter (fun v => !hasUsers s p v))).head? with
      | some v => if (s.part p).qT4c = 0 then s else dropCopy s p v
      | none => s
  match freeCache s1 p with
  | some sl =>
    let s2 := if (s1.block p b).isSealed then installNow (dropCopy s1 p b) p b (.cache sl) else moveCopy s1 p b (.cache sl)
    askCopy s2 p b (cacheAddr s2 sl) true 0xFFFF 6 .background
  | none => dropCopy s1 p b

/-- Whether the T2 share of a partition stays above its low watermark with one block more. -/
def t2Above (s : State) (p : Nat) : Bool :=
  let q := (s.part p).qT2.toNat
  decide (s.mem.low.toNat * q ≤ 64 * (q - ((resT2 s p).length + ringBlocks s p + 1))) && (freeT2 s p).isSome

/-- Whether a block that leaves its slot goes from T1 to T2 (R263). -/
def goesT2 (s : State) (p : Nat) (blk : Block) : Bool :=
  match blk.res with
  | .t1 _ _ => (evictClass blk == 3 || evictClass blk == 4) && t2Above s p
  | _ => false

/-- A SCRATCH block evicted: its dirty sectors are discarded and it becomes ZERO (R259). -/
def scrapCopy (s : State) (p b : Nat) : State :=
  let blk := s.block p b
  (clearCopy s blk.res).setBlock p b
    { blk with state := .zero, res := .none, dirty := 0, written := false, landed := 0, entryHint := 0, leaving := false }

/-- The part of an eviction that a write-back need not end (R263): KEEP and CADSET blocks of T1 go to T2, SCRATCH drops its dirty sectors, a T4 block goes to the T3 cache, and any other copy is dropped. -/
def leaveNow (s : State) (p b : Nat) : State :=
  let blk := s.block p b
  if goesT2 s p blk then
    match freeT2 s p with
    | some sl => (moveCopy s p b (.t2 sl)).modBlock p b (fun v => { v with leaving := false })
    | none => s
  else match blk.home with
    | .t3 _ => if copyHint blk = 7 then scrapCopy s p b else dropCopy s p b
    | .t4 _ _ => match blk.res with
      | .cache _ => dropCopy s p b
      | _ => toCache s p b
    | _ => s

/-- Whether an eviction must write dirty sectors back first. -/
def mustWriteBack (s : State) (p b : Nat) : Bool :=
  let blk := s.block p b
  !goesT2 s p blk && copyHint blk != 7 && blk.dirty != 0 && (match blk.home with | .t3 _ => true | _ => false)

/-- A block leaves its slot for an access that needs the slot in the same step: what is dirty goes home with it, its write-back's requests at the rank given (R261, R263). -/
def evictNow (s : State) (p b rank : Nat) (cls : SClass) : State :=
  let blk := s.block p b
  if blk.res = .none then s
  else
    let s0 := { s with mem.pEvict := tmod 0 s.mem.pEvict p satInc }
    if mustWriteBack s p b then
      let s1 := match blk.home with | .t3 h => askCopy s0 p b (homeAddr s0 p h) true blk.dirty rank cls | _ => s0
      leaveNow (writeHome s1 p b blk.dirty) p b
    else leaveNow s0 p b

/-- A block starts to leave its slot (R261, R263): where sectors are dirty their write-back is queued at the rank of what waits for it, and the copy goes once it has ended. -/
def startEvict (s : State) (p b rank : Nat) (cls : SClass) : State :=
  let blk := s.block p b
  if blk.res = .none then s
  else if mustWriteBack s p b then
    let s1 := s.setBlock p b { blk with state := .writeback, inWb := blk.dirty, rewr := 0, leaving := true }
    askMem { s1 with mem.queue := s1.mem.queue ++ [{ part := p, block := b, rank := rank, cls := cls, kind := .evict }] } p b blk.res true blk.dirty 0 rank cls
  else leaveNow { s with mem.pEvict := tmod 0 s.mem.pEvict p satInc } p b

/-- The copies of a core's T1. -/
def inT1 (c : Nat) (r : Resident) : Bool := match r with | .t1 k _ => k == c | _ => false
/-- The copies of T2. -/
def inT2 (r : Resident) : Bool := match r with | .t2 _ => true | _ => false

/-- A slot in T1 of a core, freed from a victim when none is free. -/
def makeT1 (s : State) (p c : Nat) : Option (Nat × State) :=
  match freeT1 s p c with
  | some sl => some (sl, s)
  | none =>
    match (victims s p (inT1 c)).head? with
    | some v => let s1 := evictNow s p v 5 .interactive
                (freeT1 s1 p c).map (fun sl => (sl, s1))
    | none => none
/-- A slot in T2, freed from a victim when none is free. -/
def makeT2 (s : State) (p : Nat) : Option (Nat × State) :=
  match freeT2 s p with
  | some sl => some (sl, s)
  | none =>
    match (victims s p inT2).head? with
    | some v => let s1 := evictNow s p v 5 .interactive
                (freeT2 s1 p).map (fun sl => (sl, s1))
    | none => none

/-- A slot that a write needs, in T1 of a core or else in T2; none sets EVICT_STALL and the access goes through (R264). -/
def makeSlot (s : State) (p : Nat) (dest : Option Nat) : Resident × State :=
  let t2 : Resident × State := match makeT2 s p with
    | some (sl, s1) => (.t2 sl, s1)
    | none => (.none, memEvent s 4)
  match dest with
  | some c => match makeT1 s p c with
    | some (sl, s1) => (.t1 c sl, s1)
    | none => t2
  | none => t2

/-- What a search for a slot gives a fetch: a slot, a block of the partition whose write-back must end first, or nothing. -/
inductive SlotFound where
  | slot (r : Resident)
  | wait (victim : Nat)
  | none
  deriving DecidableEq, Repr

/-- A slot of one tier for a fetch: a free one, one that a victim leaves at once, or one awaited from a victim whose write-back takes the fetch's rank (R261, R263). -/
def findIn (s : State) (p : Nat) (free : State → Option Resident) (tier : Resident → Bool) (claimed : List Nat) (rank : Nat) (cls : SClass) : SlotFound × State :=
  match free s with
  | some r => (.slot r, s)
  | none =>
    let leavers := ((s.map p).filter (fun e => tier e.2.res && e.2.leaving && !claimed.contains e.1)).map (·.1)
    match leavers with
    | v :: _ => (.wait v, s)
    | [] =>
      match (victims s p tier).head? with
      | none => (.none, s)
      | some v =>
        let s1 := startEvict s p v rank cls
        match free s1 with
        | some r => (.slot r, s1)
        | none => if (s1.block p v).leaving then (.wait v, s1) else (.none, s1)

/-- A slot for a fetch: in its core's T1, else in T2 (R264). -/
def findSlot (s : State) (p : Nat) (dest : Option Nat) (claimed : List Nat) (rank : Nat) (cls : SClass) : SlotFound × State :=
  let t2 (s : State) := findIn s p (fun t => (freeT2 t p).map .t2) inT2 claimed rank cls
  match dest with
  | some c =>
    match findIn s p (fun t => (freeT1 t p c).map (.t1 c)) (inT1 c) claimed rank cls with
    | (.none, s1) => t2 s1
    | r => r
  | none => t2 s

/-- Where a hint installs: `some (some c)` T1 of core `c`, `some none` T2, `none` no install (R259). The entry's own hint counts unless it is DEFAULT. -/
def hintDest (entry blk : Nat) (core : Option Nat) : Option (Option Nat) :=
  let h := if entry = 0 then blk else entry
  if h = 4 then none else if h = 2 then some none else
  match core with
  | some c => some (some c)
  | none => some none

/-! ### Writing (R254 to R256, R265, R271) -/

/-- How a device write ended. -/
inductive WriteRes where
  | ok | unmapped | refused | poisoned
  deriving DecidableEq, Repr

/-- The sectors of a block that a byte range touches. -/
def touched (off n : Nat) : BitVec 16 :=
  (List.range 16).foldl (fun m j => if decide (j * sectorBytes < off + n ∧ off < (j + 1) * sectorBytes) then m ||| BitVec.ofNat 16 (2 ^ j) else m) 0
/-- The sectors of a block that a byte range covers whole. -/
def covered (off n : Nat) : BitVec 16 :=
  (List.range 16).foldl (fun m j => if decide (off ≤ j * sectorBytes ∧ (j + 1) * sectorBytes ≤ off + n) then m ||| BitVec.ofNat 16 (2 ^ j) else m) 0

/-- The bytes of a write placed in the copy, its sectors set DIRTY; every sector of the copy of a T3 home never written is newer than home (R250, R254). -/
def putCopy (s : State) (p b off : Nat) (bs : List Byte) (st : BlockState) : State :=
  let blk := s.block p b
  let fresh : Bool := match blk.home with | .t3 _ => !blk.written | _ => false
  match resKey blk.res with
  | some k =>
    ({ s with mem.sram := mwrite 0 s.mem.sram (k + off) bs }).setBlock p b
      { blk with state := st, dirty := if fresh && blk.dirty == 0 then 0xFFFF else blk.dirty ||| touched off bs.length, lastUse := s.ts }
  | none => s

/-- The bytes of a write placed in a T3 home. -/
def putHome (s : State) (p b off : Nat) (bs : List Byte) : State :=
  let blk := s.block p b
  match blk.home with
  | .t3 h =>
    let base := t3Key s p h
    let t3 := if blk.written then s.mem.t3 else mclear s.mem.t3 base (base + blockBytes)
    let s0 := askBytes s p b (homeAddr s p h) off bs.length 5 (classOf s p)
    let s1 := sealWrite s0 (portOf s blk .none) p (poolBase s + base + off) bs.length
    ({ s1 with mem.t3 := mwrite 0 t3 (base + off) bs }).setBlock p b { blk with state := .home, written := true, lastUse := s.ts }
  | _ => s

/-- A sector's bytes brought from the home into the copy (R256). -/
def landSector (s : State) (p b j : Nat) : State :=
  let blk := s.block p b
  if blk.landed.getLsbD j then s
  else match resKey blk.res with
  | none => s
  | some k =>
    let dst := k + j * sectorBytes
    let s1 : State := match blk.home with
      | .t3 h => if blk.written then { s with mem.sram := mcopy s.mem.t3 (t3Key s p h + j * sectorBytes) s.mem.sram dst sectorBytes } else s
      | .t4 rg kb => { s with mem.sram := copyT4 s blk rg kb (j * sectorBytes) sectorBytes dst }
      | _ => s
    s1.setBlock p b { blk with landed := blk.landed ||| BitVec.ofNat 16 (2 ^ j) }

/-- A write that meets a fetch (R256): a sector it covers whole keeps the written data, and one it covers in part is brought first. -/
def writeFetching (s : State) (p b off : Nat) (bs : List Byte) : State :=
  let part := touched off bs.length &&& ~~~(covered off bs.length)
  let s1 := (List.range 16).foldl (fun t j => if part.getLsbD j then landSector t p b j else t) s
  let s2 := s1.modBlock p b (fun k => { k with landed := k.landed ||| covered off bs.length })
  putCopy s2 p b off bs .fetching

/-- A write under a hint that allocates, to a block in HOME (R254, R256): a copy is allocated, the sectors that the write covers whole are not fetched, those it covers in part come first, and the rest follow as a fetch of the rank given. -/
def writeAlloc (s : State) (p b off : Nat) (bs : List Byte) (r : Resident) (cls : SClass) : State :=
  let blk := s.block p b
  if covered off bs.length = 0xFFFF then putCopy (installNow s p b r) p b off bs .dirty
  else
    let s1 := (clearCopy s r).setBlock p b { blk with state := .fetching, res := r, landed := 0, dirty := 0 }
    let s2 := { s1 with mem.queue := s1.mem.queue ++ [{ part := p, block := b, rank := 5, cls := cls, dest := (match r with | .t1 c _ => some c | _ => none), first := off / sectorBytes }] }
    let s3 := askMem s2 p b r false (~~~(covered off bs.length)) (off / sectorBytes) 5 cls
    writeFetching s3 p b off bs

/-- Sectors written again while their write-back is under way: a flush that was waiting for them waits for the older data alone (R256, R266). -/
def noteOlder (s : State) (p b : Nat) (mask : BitVec 16) : State :=
  { s with mem.waits := s.mem.waits.map (fun w =>
      if w.pend.part = p ∧ w.pend.opcode = 0x0309 then
        { w with older := w.older ++ (w.sectors.filter (fun e => e.1 == b && e.2 &&& mask != 0)).map (fun e => (b, e.2 &&& mask)) }
      else w) }

/-- A write within one block. `dest` is where a new copy goes (none: through to the home); `host` marks a host write. -/
def writeBlock (s : State) (p b off : Nat) (bs : List Byte) (dest : Option (Option Nat)) (host : Bool) : WriteRes × State :=
  let blk := s.block p b
  match blk.state with
  | .unmapped => (.unmapped, if host then s else memEvent s 0)
  | .view => (.ok, s)
  | .zero =>
    -- R259: ONCE on a ZERO block acts as NORMAL; a host write allocates in T2
    let d := if host then none else dest.getD none
    match makeSlot s p d with
    | (.none, s1) => (.ok, putHome s1 p b off bs)
    | (r, s1) => (.ok, putCopy (installNow s1 p b r) p b off bs .dirty)
  | .home =>
    match blk.home with
    | .t3 _ =>
      match dest with
      | none => (.ok, putHome s p b off bs)
      | some d => match makeSlot s p d with
        | (.none, s1) => (.ok, putHome s1 p b off bs)
        | (r, s1) => (.ok, writeAlloc s1 p b off bs r (classOf s p))
    | _ => (.refused, memEvent s 5)
  | .fetching =>
    match blk.home with
    | .t3 _ => (.ok, writeFetching s p b off bs)
    | _ => (.refused, memEvent s 5)
  | .clean | .dirty =>
    match blk.home with
    | .t3 _ => (.ok, putCopy s p b off bs .dirty)
    | _ => (.refused, memEvent s 5)
  | .writeback =>
    -- R256: a sector whose write-back is under way goes home with its older data
    let again := touched off bs.length &&& blk.inWb &&& ~~~blk.rewr
    let s1 := noteOlder ((writeHome s p b again).modBlock p b (fun k => { k with rewr := k.rewr ||| again, leaving := false })) p b again
    (.ok, putCopy s1 p b off bs .writeback)
  | .poisoned =>
    if host then (.poisoned, memEvent s 5)
    else if covered off bs.length = 0xFFFF then
      match blk.home with
      | .t3 _ => match makeSlot s p (dest.getD none) with
        | (.none, s1) => (.ok, putHome s1 p b off bs)
        | (r, s1) => (.ok, putCopy (installNow (s1.setBlock p b { blk with state := .zero, written := false }) p b r) p b off bs .dirty)
      | _ => (.refused, memEvent s 5)
    else (.poisoned, s)

/-- A write of consecutive bytes, block by block; the first block that does not take it ends it. -/
def devWriteAux (p : Nat) (dest : Option (Option Nat)) (host : Bool) : List Nat → Nat → List Byte → State → WriteRes × State
  | [], _, _, s => (.ok, s)
  | b :: rest, addr, bs, s =>
    let n := min bs.length ((b + 1) * blockBytes - addr)
    match writeBlock s p b (addr - b * blockBytes) (bs.take n) dest host with
    | (.ok, s1) => devWriteAux p dest host rest (addr + n) (bs.drop n) s1
    | r => r

/-- A write by a task or by the block on a partition's behalf. -/
def devWrite (s : State) (p addr : Nat) (bs : List Byte) (dest : Option (Option Nat)) : WriteRes × State :=
  devWriteAux p dest false (blocksOf addr bs.length) addr bs s

/-- A write by the block for a partition that takes no notice of the outcome: rings, logs and answers. -/
def devPut (s : State) (p addr : Nat) (bs : List Byte) : State := (devWrite s p addr bs none).2

/-! ### The placement queue (R260) -/

/-- The placement queue holds 256 requests (R260). -/
def queueFull (s : State) : Bool := decide (256 ≤ s.mem.queue.length)

/-- The order in which the placement engine serves its queue (R35, R183, R260, R445): by rank and class; within rank 5 by the partitions' virtual times and numbers; then in the order of R178. -/
def reqKey (s : State) (r : PlaceReq) : List Nat :=
  [r.rank, classRank r.cls] ++ (if r.rank = 5 then [tget 0 s.mem.vPlace r.part, r.part] else []) ++ [b2n r.ahead] ++ r.order

/-- A block served at rank 5 is charged to its partition (R445). -/
def chargePlace (s : State) (r : PlaceReq) : State :=
  if r.rank = 5 then { s with mem.vPlace := chargeV s s.mem.vPlace r.part 1 } else s

/-- A request joins the placement queue; a partition that had none of rank 5 there resumes its virtual time (R445). -/
def holdPlace (s : State) (r : PlaceReq) : State :=
  let act := (s.mem.queue.filter (fun q => q.rank == 5)).map (·.part)
  { s with mem.vPlace := if r.rank = 5 then resumeV s.mem.vPlace act r.part else s.mem.vPlace, mem.queue := s.mem.queue ++ [r] }

/-- Work that a fetch waits for takes its rank (R261): the requests of a block's write-back, queued and on the ports. -/
def raiseRank (s : State) (p b rank : Nat) (cls : SClass) : State :=
  let up (r : Nat) (c : SClass) : Bool := keyLt [rank, classRank cls] [r, classRank c]
  { s with
    mem.queue := s.mem.queue.map (fun q => if q.part = p ∧ q.block = b ∧ up q.rank q.cls then { q with rank := rank, cls := cls } else q)
    mem.outReq := s.mem.outReq.map (fun q => if q.part = p ∧ q.block = b ∧ !q.copy ∧ up q.rank q.cls then { q with rank := rank, cls := cls } else q)
    press.readQ := s.press.readQ.map (fun q => if q.part = p ∧ q.block = b ∧ up q.rank q.cls then { q with rank := rank, cls := cls } else q) }

/-- A fetch begins: the block is FETCHING in its slot, and its sectors are asked for from the home, the one needed first before the others (R256, R262). -/
def beginFetch (s : State) (r : PlaceReq) (res : Resident) : State :=
  let blk := s.block r.part r.block
  let s1 := (clearCopy (chargePlace s r) res).setBlock r.part r.block { blk with state := .fetching, res := res, landed := 0, dirty := 0 }
  match blk.home with
  | .t3 _ => askMem s1 r.part r.block res false 0xFFFF r.first r.rank r.cls r.deadline
  | .t4 rg k => askPress s1 r.part r.block rg k 0xFFFF r.first r.rank r.deadline r.cls
  | _ => s1

/-- A request taken off the queue. -/
def dropPlace (s : State) (p b : Nat) (kind : PlaceKind) : State :=
  { s with mem.queue := s.mem.queue.filter (fun q => !(q.part == p && q.block == b && q.kind == kind)) }

/-- The blocks whose write-back some request of a partition's waits for. -/
def claimedBy (s : State) (p : Nat) : List Nat := (s.mem.queue.filter (fun q => q.part == p)).filterMap (·.victim)

/-- A fetch served as far as it can be: it begins once it has a slot; it waits for a victim's write-back or its own block's at its rank; without any slot the access reads through and EVICT_STALL is set (R261, R264, R267). -/
def serveFetch (s : State) (r : PlaceReq) : State :=
  let p := r.part
  match (s.block p r.block).state with
  | .home =>
    let waits : Bool := match r.victim with | some v => (s.block p v).leaving | none => false
    if waits then s
    else match findSlot s p r.dest (claimedBy s p) r.rank r.cls with
      | (.slot res, s1) => beginFetch s1 r res
      | (.wait v, s1) =>
        raiseRank { s1 with mem.queue := s1.mem.queue.map (fun q => if q.part = p ∧ q.block = r.block ∧ q.kind = .fetch then { q with victim := some v } else q) }
          p v r.rank r.cls
      | (.none, s1) => dropPlace (memEvent s1 4) p r.block .fetch
  | .writeback => raiseRank s p r.block r.rank r.cls
  | .fetching => s
  | _ => dropPlace s p r.block .fetch

/-- A write-back served: it begins once the block is DIRTY (R265, R266). -/
def serveFlush (s : State) (r : PlaceReq) : State :=
  let blk := s.block r.part r.block
  match blk.home, blk.state with
  | .t3 _, .dirty =>
    askMem ((chargePlace s r).setBlock r.part r.block { blk with state := .writeback, inWb := blk.dirty, rewr := 0 }) r.part r.block blk.res true blk.dirty 0 r.rank r.cls
  | .t3 _, .fetching => s
  | _, .writeback => s
  | _, _ => dropPlace s r.part r.block .flush

/-- The placement engine serves its queue in the order of R35 and R445, each request once; `tried` are those it has come to. -/
def pumpPlaceAux : Nat → List (Nat × Nat × PlaceKind) → State → State
  | 0, _, s => s
  | n + 1, tried, s =>
    let left := s.mem.queue.filter (fun r => !tried.contains (r.part, r.block, r.kind))
    match (sortBy (fun a b => keyLt (reqKey s a) (reqKey s b)) left).head? with
    | none => s
    | some r =>
      let s1 := match r.kind with
        | .fetch => serveFetch s r
        | .flush => serveFlush s r
        | .evict => s
      pumpPlaceAux n ((r.part, r.block, r.kind) :: tried) s1

/-- The placement engine serves its queue. -/
def pumpPlace (s : State) : State := pumpPlaceAux s.mem.queue.length [] s

/-- A fetch asked for (R256, R260): one for a block already waiting is merged with it, the request first in the order of R35 choosing the destination. A full queue takes no more, and the block is asked for again when it is needed. -/
def requestFetch (s : State) (r : PlaceReq) : State :=
  let same (q : PlaceReq) : Bool := q.part == r.part && q.block == r.block && q.kind == .fetch
  let blk := s.block r.part r.block
  match blk.state, blk.leaving with
  | .home, _ | .writeback, true =>
    match s.mem.queue.find? same with
    | some q =>
      if keyLt (reqKey s r) (reqKey s q) then pumpPlace { s with mem.queue := s.mem.queue.map (fun x => if same x then { r with victim := x.victim } else x) } else s
    | none => if queueFull s then s else pumpPlace (holdPlace s r)
  | .fetching, _ => raiseRank s r.part r.block r.rank r.cls
  | _, _ => s

/-- A fetch of a block for a destination: T1 of a core, or T2. -/
def startFetch (s : State) (p b rank : Nat) (cls : SClass) (dest : Option Nat) : State :=
  requestFetch s { part := p, block := b, rank := rank, cls := cls, dest := dest }

/-- A block brought to a destination: fetched from its home, or moved nearer from the T3 cache or from T2 once it has no users (R257). -/
def bringBlock (s : State) (q : PlaceReq) : State :=
  let p := q.part
  let b := q.block
  let blk := s.block p b
  match blk.state, blk.res with
  | .home, _ | .writeback, _ | .fetching, _ => requestFetch s q
  | .clean, .cache sl =>
    if hasUsers s p b then s
    else match makeSlot s p q.dest with
      | (.none, s1) => s1
      | (r, s1) =>
        let s2 := askCopy s1 p b (cacheAddr s1 sl) false 0xFFFF q.rank q.cls
        installNow (dropCopy s2 p b) p b r
  | .clean, .t2 _ | .dirty, .t2 _ =>
    match q.dest with
    | none => s
    | some c =>
      if hasUsers s p b then s
      else match makeT1 s p c with
        | some (sl, s1) => if (s1.block p b).res = blk.res then moveCopy s1 p b (.t1 c sl) else s1
        | none => s
  | _, _ => s

/-- Whether a block has a settled copy, on the chip or in the T3 cache. -/
def onChipOrCache (blk : Block) : Bool := (blk.state == .clean || blk.state == .dirty) && blk.res != .none

/-- The write-back of a block's dirty sectors asked for (R265, R266): it begins at once where the block is DIRTY, and after its fetch where it is FETCHING. -/
def startWriteback (s : State) (p b : Nat) (rank : Nat) (cls : SClass) : State :=
  let blk := s.block p b
  match blk.home, blk.state with
  | .t3 _, .dirty | .t3 _, .fetching =>
    let r : PlaceReq := { part := p, block := b, rank := rank, cls := cls, kind := .flush }
    serveFlush (holdPlace s r) r
  | _, _ => s

/-! ### Block tables given and walked (R248 to R252) -/

/-- Firmware gives a block the directory 2 and the block table that its entry needs (R248, R251). -/
def ensureTable (s : State) (p b : Nat) : State :=
  let i2 := p * 4096 + b / 2 ^ 20
  let i3 := p * 2 ^ 22 + b / 1024
  let free (t : Tbl Nat) : Nat := (firstFree (t.map (·.2)) (t.length + 1)).getD 0
  let s1 := if (tfind s.mem.dir2 i2).isSome then s
    else sealMeta { s with mem.dir2 := tset s.mem.dir2 i2 (free s.mem.dir2) } (dir1Off p + b / 2 ^ 20 * 8)
  if (tfind s1.mem.btab i3).isSome then s1
  else sealMeta { s1 with mem.btab := tset s1.mem.btab i3 (free s1.mem.btab) } (dir2Off (tget 0 s1.mem.dir2 i2) + b / 1024 % 1024 * 8)

/-- Firmware frees the block tables and directories 2 of a partition that cover no mapped block (notes/assumptions/68). -/
def pruneTables (s : State) (p : Nat) : State :=
  let live := ((s.map p).filter (fun e => e.2.state != .unmapped)).map (fun e => e.1 / 1024)
  let bt := s.mem.btab.filter (fun e => e.1 / 2 ^ 22 != p || live.contains (e.1 % 2 ^ 22))
  { s with mem.btab := bt, mem.dir2 := s.mem.dir2.filter (fun e => e.1 / 4096 != p || bt.any (fun k => k.1 / 1024 == e.1)) }

/-- The reads of a table walk (R252): directory 1, directory 2 and the block table, as far as the entries are VALID, with the array controller's initiator ID and tag 0x3F (R429). -/
def walkReads (s : State) (port p b : Nat) : List MemReq :=
  let mk (off : Nat) : MemReq :=
    { port := port, id := none, write := false, part := p, block := b, sector := 0, addr := carveBase s + off, again := false
      tag := 0x3F, beats := 1, copy := true }
  mk (dir1Off p + b / 2 ^ 20 * 8) ::
    (match tfind s.mem.dir2 (p * 4096 + b / 2 ^ 20) with
     | none => []
     | some d => mk (dir2Off d + b / 1024 % 1024 * 8) ::
       (match tfind s.mem.btab (p * 2 ^ 22 + b / 1024) with
        | none => []
        | some n => [mk (btabOff s n + b % 1024 * 16)]))

/-- A translation by a holder's cache (core number, or 64 for the host port): a miss is counted, its walk reads the tables, and the entry is cached, 512 per holder (R252). -/
def btcTouch (s : State) (holder p b : Nat) : State :=
  let e := (holder, p, b)
  if s.mem.btc.contains e then { s with mem.btc := e :: s.mem.btc.filter (fun x => x != e) }
  else
    let own := s.mem.btc.filter (fun x => x.1 == holder)
    let kept := if own.length < 512 then s.mem.btc else s.mem.btc.filter (fun x => x.1 != holder) ++ own.take 511
    let port := if holder < 64 then holder else (poweredCores s).headD 0
    pumpMem { s with mem.btc := e :: kept, mem.btcMiss := satInc s.mem.btcMiss, mem.outReq := s.mem.outReq ++ walkReads s port p b } port

/-- A copy of a sector goes home: the write-back's step for one sector. -/
def homeSector (s : State) (p b j : Nat) : State := writeHome s p b (BitVec.ofNat 16 (2 ^ j))

end Sys2Proof.Machine
end

