-- ==== Sys2Proof/Machine/Service.lean ====
section
/-! DEFINITION. What many commands do: fabric frames put on their way, interrupt messages, logs, completions, reports and the Rind's queue. -/

namespace Sys2Proof.Machine

/-! ### Fabric frames (R350, R346, R347) -/

/-- The virtual channel of a frame type (R346, R350): 3 time-sync, 0 management, 1 control, 2 bulk. -/
def frameVc (type : Nat) : BitVec 2 :=
  if type = 0x40 ∨ type = 0x41 then 3
  else if type = 0x10 then 2
  else if type = 0x11 ∨ type = 0x20 ∨ type = 0x21 ∨ type = 0x30 then 1
  else 0

/-- The 16-byte header and the payload of a frame, filled up to whole 32-byte units (R350). -/
def frameBytes (f : Frame) : List Byte :=
  let units := ceilDiv f.payload.length 32
  [f.type] ++ leBytes 1 (b2n f.last + 2 * b2n f.refused) ++ leBytes 2 f.dst
    ++ leBytes 2 (f.src + f.hops * 1024 + b2n f.bcast * 32768) ++ leBytes 1 f.ptag ++ leBytes 1 units
    ++ leBytes 8 f.arg.toNat ++ padTo (units * 32) f.payload

/-- A frame of this device. -/
def mkFrame (s : State) (type dst : Nat) (bcast : Bool) (ptag : Nat) (arg : W64) (payload : List Byte) : Frame :=
  { type := BitVec.ofNat 8 type, vc := frameVc type, dst := dst, src := s.fab.id.toNat, hops := 0, bcast := bcast
    ptag := ptag, last := true, refused := false, arg := arg, payload := payload }

/-- The cut of a frame's bytes into runs of at most 112 for the flits that carry it (R341). -/
def cutFlits : Nat → List Byte → List (List Byte)
  | 0, _ => []
  | n + 1, l => if l.length = 0 then [] else l.take 112 :: cutFlits n (l.drop 112)

/-- The link header of R342. -/
def linkHeader (kind vc : Nat) (nak : Bool) (seq ack crvc credits fill : Nat) : W64 :=
  BitVec.ofNat 64 (kind + vc * 2 ^ 2 + b2n nak * 2 ^ 4 + seq * 2 ^ 8 + ack * 2 ^ 20 + crvc * 2 ^ 32 + credits * 2 ^ 34 + fill * 2 ^ 48)

/-- CRC-64 with the parameters of R148: polynomial 0x42F0_E1EB_A9EA_3693, not reflected, initial and final value all ones. -/
def crc64Byte (crc : W64) (b : Byte) : W64 :=
  (List.range 8).foldl (fun (c : W64) _ => if c.msb then (c <<< 1) ^^^ 0x42F0E1EBA9EA3693 else c <<< 1)
    (crc ^^^ (b.setWidth 64 <<< 56))
/-- The CRC register folded over bytes. -/
def crc64Fold (crc : W64) (l : List Byte) : W64 := l.foldl crc64Byte crc
/-- The CRC of R148 over bytes. -/
def crc64 (l : List Byte) : W64 := crc64Fold 0xFFFFFFFFFFFFFFFF l ^^^ 0xFFFFFFFFFFFFFFFF

/-- The channels of a port in the order of R346. -/
def vcOrder : List Nat := [3, 0, 1, 2]

/-- The time of one flit on the wire in ns, by the port's rate and lanes (R337). -/
def flitNs (pt : Port) : Nat := 32 * 2 ^ (2 - pt.lanes.toNat) / 2 ^ pt.rate.toNat

/-- Whether a frame is a management frame of device `me`'s own making (R348). -/
def ownMgmt (me : Nat) (f : Frame) : Bool := f.vc == 0 && f.src == me

/-- The next frame a port may send at a time: the first channel in priority order with a frame and the credits for it; a management frame of this device's own making waits until its share of the flits, 1 in 16, allows it (R348). -/
def nextFrame (me now : Nat) (pt : Port) : Option Frame :=
  (vcOrder.filterMap (fun v =>
    match pt.queue.find? (fun f => f.vc.toNat == v && !(ownMgmt me f && decide (now < pt.ownAt))) with
    | some f => if ceilDiv (frameBytes f).length 32 ≤ tget 0 pt.credits v then some f else none
    | none => none)).head?

/-- The channel whose credits the next flit returns, and how many, at most 1,023 (R342, R347). -/
def owedCredits (pt : Port) (dflt : Nat) : Nat × Nat :=
  match vcOrder.find? (fun v => decide (0 < tget 0 pt.owed v)) with
  | some v => (v, min 1023 (tget 0 pt.owed v))
  | none => (dflt, 0)
/-- Credits returned are owed no more. -/
def payCredits (pt : Port) (v n : Nat) : Port := if n = 0 then pt else { pt with owed := tmod 0 pt.owed v (fun m => m - n) }

/-- IDLE flits go when no DATA flit is ready: they carry ACK, NAK and the credits still owed (R343, R347). -/
def idleFlits : Nat → Port → Port
  | 0, pt => pt
  | n + 1, pt =>
    let c := owedCredits pt 0
    let sent := { payCredits pt c.1 c.2 with lastIdle := some (linkHeader 1 0 pt.nak pt.txSeq.toNat ((pt.rxSeq - 1).toNat) c.1 c.2 0) }
    if c.2 ≠ 0 then idleFlits n sent else if pt.nak then sent else pt

/-- A frame leaves a port as flits kept in the replay buffer (R343), against its channel's credits (R347); each carries ACK, NAK and credits owed. -/
def sendFlits (me now : Nat) (pt : Port) (f : Frame) : Port :=
  let v := f.vc.toNat
  let parts := cutFlits 4 (frameBytes f)
  let step (q : Port) (part : List Byte) : Port :=
    let c := owedCredits q v
    let h := linkHeader 0 v q.nak q.txSeq.toNat ((q.rxSeq - 1).toNat) c.1 c.2 part.length
    let body := padTo 112 part
    let fl : Flit := { header := h, bytes := body, crc := crc64 (leBytes 8 h.toNat ++ body) }
    { payCredits q c.1 c.2 with replayBuf := q.replayBuf ++ [fl], txSeq := q.txSeq + 1, txFlits := satInc q.txFlits }
  parts.foldl step { pt with queue := pt.queue.erase f
                             ownAt := if ownMgmt me f then now + 16 * flitNs pt * parts.length else pt.ownAt
                             credits := tmod 0 pt.credits v (fun n => n - ceilDiv (frameBytes f).length 32) }

/-- An UP port sends its frames while credits and its replay buffer of 512 flits allow (R343, R347). -/
def pumpPortAux (me now : Nat) : Nat → Port → Port
  | 0, pt => pt
  | n + 1, pt =>
    if pt.state = .up ∧ pt.replayBuf.length + 4 ≤ 512 then
      match nextFrame me now pt with
      | some f => pumpPortAux me now n (sendFlits me now pt f)
      | none => pt
    else pt
/-- An UP port sends what it can; in a critical trip the network's clock stops (R619). -/
def pumpPort (s : State) (f : Nat) : State := if s.pwr.trip then s else s.modPort f (fun pt => let q := pumpPortAux s.fab.id.toNat s.ts.toNat pt.queue.length pt
                                                                                if q.state = .up then idleFlits 12 q else q)

/-- A frame queued at a port: an LP link is to be restored, a SLEEP link gets the wake pattern (R362, R365). -/
def queueAt (s : State) (f : Nat) (fr : Frame) : State :=
  pumpPort (s.modPort f (fun pt => { pt with
    queue := pt.queue ++ [fr], wakeHold := pt.wakeHold || pt.state == .sleep
    state := if pt.state = .lp then .up else pt.state })) f

/-- Whether a link takes frames: UP, or in LP, which a frame queued for transmission ends (R362). -/
def linkIn (s : State) (f : Nat) : Bool := (s.port f).state == .up || (s.port f).state == .lp

/-- A frame put on its way: broadcasts to every port whose link is UP or, restored by the frame, in LP (R362), but the one they came by, others by the routing table; bulk and control frames of this device wait out a freeze (R351, R358, R360). -/
def sendFrame (s : State) (fr : Frame) (from_ : Option Nat) : State :=
  if !s.fab.en || s.fab.conflict then s
  else if fr.bcast then
    ((List.range 6).filter (fun f => linkIn s f && some f != from_)).foldl (fun t f => queueAt t f fr) s
  else if s.fab.freeze && from_.isNone && (fr.vc == 1 || fr.vc == 2) then
    { s with fab.heldFrames := s.fab.heldFrames ++ [fr] }
  else
    let r : Route := tget {} s.fab.routes fr.dst
    if r.valid && decide (r.port.toNat < 6) then queueAt s r.port.toNat fr else s

/-! ### Interrupt messages (R442, R443, R643) -/

/-- A message leaves the interrupt port when none awaits its response and a request and a data credit are held (R630, R632, R643). -/
def pumpInt (s : State) : State :=
  match s.ports.intOut, s.ports.intQ with
  | none, (p, d, again) :: rest =>
    if 0 < s.credits 65 0 ∧ 0 < s.credits 65 1 ∧ !s.pwr.trip then
      { s with
        ports.intQ := rest
        ports.intOut := some (p, d, again)
        ports.intSent := (p, (s.part p).intAddr, d) :: s.ports.intSent
        ports.credits := tmod 0 (tmod 0 s.ports.credits (creditKey 65 0) (fun n => n - 1)) (creditKey 65 1) (fun n => n - 1) }
    else s
  | _, _ => s

/-- The message of a vector: TARGET in [15:0], the partition stamped in [21:16] (R442). -/
def intData (s : State) (p v : Nat) : W32 :=
  BitVec.ofNat 32 ((tget 0x10000 (s.part p).remap v).toNat % 65536 + p * 65536)

/-- Whether a vector is masked; every entry is masked until the partition writes it (R434, R453). -/
def vecMasked (s : State) (p v : Nat) : Bool := (tget (0x10000 : W32) (s.part p).remap v).getLsbD 16

/-- An interrupt message is queued for the port, behind those raised before it. -/
def sendVector (s : State) (p v : Nat) : State :=
  pumpInt { s with ports.intQ := s.ports.intQ ++ [(p, intData s p v, false)] }

/-- A vector is raised (R442, R443): discarded while the session is DETACHED, pending while masked or while the partition is RESETTING, else a message. -/
def raiseVector (s : State) (p v : Nat) : State :=
  let pt := s.part p
  if pt.session = .detached then s
  else if vecMasked s p v || pt.state == .resetting then
    s.modPart p (fun q => { q with pend := q.pend ||| BitVec.ofNat 256 (2 ^ v) })
  else sendVector s p v

/-- Pending vectors are sent when unmasked, as a reset ends or a session resumes; none is while the session is DETACHED (R403, R404, R443). -/
def sendHeldVectors (s : State) (p : Nat) : State :=
  if (s.part p).session = .detached then s
  else (List.range 256).foldl (fun t v =>
    if (t.part p).pend.getLsbD v && !vecMasked t p v then
      sendVector (t.modPart p (fun q => { q with pend := q.pend &&& ~~~(BitVec.ofNat 256 (2 ^ v)) })) p v
    else t) s

/-! ### Logs (R425, R426) -/

/-- The event code, level and arguments of a log entry that no report gives: the manual fixes none of them (notes/assumptions/11). -/
def freeLogBody (s : State) (kind : Nat) : Nat × Nat × List Byte :=
  ((Config.free 16 s.freeNo (kind * 8)).toNat, (Config.free 2 s.freeNo (kind * 8 + 1)).toNat,
   leBytes 16 (Config.free 128 s.freeNo (kind * 8 + 2)).toNat)

/-- The 32 bytes of a log entry (R425). -/
def logEntry (ts : Nat) (code level tag seq : Nat) (args : List Byte) : List Byte :=
  leBytes 8 ts ++ leBytes 2 code ++ leBytes 1 level ++ leBytes 1 tag ++ leBytes 4 seq ++ padTo 16 args

/-- An entry in a partition's log ring, when it has set one; LOG_WRAP is set when the oldest entry is overwritten, and LOG_VECTOR raised (R425). -/
def partLog (s : State) (p code level tag : Nat) (args : List Byte) : State :=
  let pt := s.part p
  if pt.logSize = 0 then s
  else
    let n := pt.logWr.toNat
    let size := 2 ^ pt.logSize
    let s1 := devPut s p (pt.logAddr + (n % size) * 32) (logEntry s.ts.toNat code level tag n args)
    let s2 := s1.modPart p (fun q => { q with logWr := q.logWr + 1 })
    if size ≤ n then raiseVector (s2.modPart p (fun q => { q with events := raiseEv q.events 4 })) p pt.logVector.toNat else s2

/-- An entry in the global log ring, when a partition has set one: LOG_WRAP of that partition as in its own log (R425). -/
def globalLog (s : State) (code level tag : Nat) (args : List Byte) : State :=
  match s.rel.glogOwner with
  | none => s
  | some p =>
    let n := (s.part p).glogWr.toNat
    let s1 := devPut s p (s.rel.glogAddr + (n % 2 ^ s.rel.glogSize) * 32) (logEntry s.ts.toNat code level tag n args)
    let s2 := s1.modPart p (fun q => { q with glogWr := q.glogWr + 1 })
    if 2 ^ s.rel.glogSize ≤ n then raiseVector (s2.modPart p (fun q => { q with events := raiseEv q.events 4 })) p (s.part p).logVector.toNat else s2

/-- A global log entry of an instance event whose code the manual does not fix. -/
def globalNote (s : State) (kind : Nat) : State :=
  match s.rel.glogOwner with
  | none => s
  | some _ => let b := freeLogBody s kind
              (globalLog s b.1 b.2.1 0x3F b.2.2).draw

/-- A partition log entry whose code the manual does not fix: a command, a refusal, a reset or a session change. -/
def partNote (s : State) (p kind : Nat) : State :=
  if (s.part p).logSize = 0 then s
  else let b := freeLogBody s kind
       (partLog s p b.1 b.2.1 p b.2.2).draw

/-! ### Completions (R389 to R391, R397, R403) -/

/-- Status codes of R399. -/
def stDone : W16 := 0x0000
def stDoneNote : W16 := 0x0001
def stState : W16 := 0x0100
def stRights : W16 := 0x0101
def stFormat : W16 := 0x0102
def stVersion : W16 := 0x0103
def stRange : W16 := 0x0104
def stInput : W16 := 0x0105
def stPoint : W16 := 0x0106
def stTimeout : W16 := 0x0200
def stIntegrity : W16 := 0x0201
def stUnitFenced : W16 := 0x0202
def stAborted : W16 := 0x0203
def stMissed : W16 := 0x0204
def stBusy : W16 := 0x0300
def stDetached : W16 := 0x0301

/-- The 32 bytes of a completion entry (R397) at a free-running count, with the PHASE of R389. -/
def completionBytes (c : Completion) (ts : W64) (count size : Nat) : List Byte :=
  leBytes 4 c.tag.toNat ++ leBytes 2 c.status.toNat ++ leBytes 2 c.opcode.toNat ++ leBytes 4 c.detail.toNat
    ++ leBytes 4 c.obj.toNat ++ leBytes 8 ts.toNat ++ [c.state]
    ++ leBytes 1 (c.ring.toNat + 4 * b2n c.run + 8 * b2n c.standing) ++ [0, 0]
    ++ leBytes 3 c.release.toNat ++ leBytes 1 (1 - (count / size) % 2)

/-- Whether the completion ring has a free entry. -/
def cqRoom (pt : Part) : Bool := pt.cqSize != 0 && decide ((pt.cqTail - pt.cqHead).toNat < 2 ^ pt.cqSize.toNat)

/-- An entry written at the completion ring's tail, its timestamp taken now (R192), then the interrupt of NOTIFY (R391). -/
def writeEntry (s : State) (p : Nat) (c : Completion) : State :=
  let pt := s.part p
  let size := 2 ^ pt.cqSize.toNat
  let n := pt.cqTail.toNat
  let base := pt.cqBaseHi.toNat * 2 ^ 32 + pt.cqBaseLo.toNat
  let s1 := devPut s p (base + (n % size) * 32) (completionBytes c s.ts n size)
  let s2 := s1.modPart p (fun q => { q with cqTail := q.cqTail + 1 })
  if c.notify then raiseVector s2 p pt.cqVector.toNat else s2

/-- A completion (R389, R390, R403): written while the ring has room; held while ATTACHED, up to 64; else counted lost. -/
def complete (s : State) (p : Nat) (c : Completion) : State :=
  let pt := s.part p
  let s0 := partNote s p 0
  if pt.session = .attached then
    if pt.held = [] ∧ cqRoom pt then writeEntry s0 p c
    else if pt.held.length < 64 then
      s0.modPart p (fun q => { q with held := q.held ++ [c], events := raiseEv q.events 1 })
    else s0.modPart p (fun q => { q with cqLost := satInc q.cqLost, events := raiseEv q.events 2 })
  else if pt.held = [] ∧ cqRoom pt then writeEntry s0 p c
  else s0.modPart p (fun q => { q with cqLost := satInc q.cqLost })

/-- Held completions are written in order while the ring has room (R390). -/
def drainHeld : Nat → State → Nat → State
  | 0, s, _ => s
  | n + 1, s, p =>
    match (s.part p).held with
    | c :: rest =>
      if cqRoom (s.part p) then drainHeld n (writeEntry (s.modPart p (fun q => { q with held := rest })) p c) p else s
    | [] => s

/-! ### The Rind's queue (R588, R590, R595) -/

/-- Whether entries of a code are always PINNED (R590): DEGRADED_BOOT's entry is the boot entry of a degraded boot. -/
def codePinned (code : Nat) : Bool :=
  let cls := code / 256
  cls == 2 || cls == 3 || cls == 5 || code == 0x0401 || code == 0x0802 || code == 0x0102

/-- The allowance of ordinary entries refilled: 8 a second, at most 256 (R595). -/
def refill (s : State) : State :=
  let gain := (s.ts.toNat - s.rel.tokenTs.toNat) * 8 / 1000000000
  if gain = 0 then s
  else { s with rel.tokens := min 256 (s.rel.tokens + gain)
                rel.tokenTs := BitVec.ofNat 64 (s.rel.tokenTs.toNat + gain * 125000000) }

/-- An entry for the Rind: a pinned entry displaces the newest ordinary one of a full queue; an ordinary entry beyond the rate or the queue is dropped and counted (R588, R595). Its SEQ is given when it is written. -/
def rindQueue (s : State) (code : Nat) (pinned : Bool) (body : List Byte) : State :=
  let e : RindEntry := { seq := 0, code := BitVec.ofNat 16 code, pinned := pinned, carried := false
                         degraded := s.otp.degraded, ts := s.ts, body := padTo 32 body, origSeq := 0, link := [] }
  if pinned then
    if s.rel.rindQ.length < 256 then { s with rel.rindQ := s.rel.rindQ ++ [e] }
    else match s.rel.rindQ.reverse.find? (fun x => !x.pinned) with
      | some v => { s with rel.rindQ := (s.rel.rindQ.reverse.erase v).reverse ++ [e], rel.rindDropped := satInc s.rel.rindDropped, rel.droppedSec := s.rel.droppedSec + 1 }
      | none => { s with rel.rindDropped := satInc s.rel.rindDropped, rel.droppedSec := s.rel.droppedSec + 1 }
  else
    let t := refill s
    if 0 < t.rel.tokens ∧ t.rel.rindQ.length < 256 then
      { t with rel.rindQ := t.rel.rindQ ++ [e], rel.tokens := t.rel.tokens - 1 }
    else { t with rel.rindDropped := satInc t.rel.rindDropped, rel.droppedSec := t.rel.droppedSec + 1 }

/-! ### Reports (R584 to R587) -/

/-- The severity of a report code (R585): 0 note, 1 warning, 2 error, 3 critical. -/
def severityOf (code : Nat) : Nat :=
  if code = 0x0401 ∨ code = 0x0802 then 3
  else if code = 0x0201 ∨ code = 0x0502 ∨ code = 0x0601 ∨ code = 0x0801 then 0
  else if code = 0x0103 ∨ code = 0x0302 ∨ code = 0x0602 ∨ code = 0x0604 ∨ code = 0x060C ∨ code = 0x060D ∨ code = 0x060E then 1
  else 2

/-- The tag byte of a report or log entry: 0x3F for the instance, which the model numbers 64 to tell it from partition 63 (R429). -/
def tagByte (p : Nat) : Nat := if p < 64 then p else 0x3F

/-- The 64 bytes of a report (R584). -/
def reportBytes (r : ReportRec) : List Byte :=
  leBytes 2 r.code.toNat ++ leBytes 1 r.severity ++ leBytes 1 (tagByte r.ptag) ++ leBytes 4 r.seq.toNat
    ++ leBytes 2 r.device ++ leBytes 2 r.unit.toNat ++ leBytes 2 r.opcode.toNat ++ leBytes 2 r.task.toNat
    ++ leBytes 4 r.tile.toNat ++ leBytes 4 r.handle.toNat ++ leBytes 8 r.ts.toNat ++ leBytes 8 r.ext.toNat
    ++ leBytes 2 r.tj.toNat ++ leBytes 2 r.vcore.toNat ++ leBytes 4 r.detail.toNat ++ leBytes 8 r.data.toNat
    ++ leBytes 4 r.rindSeq.toNat ++ leBytes 2 r.repeats.toNat ++ [0, 0]

/-- The body of a report's Rind entry (R590, classes 0x04 to 0x08). -/
def reportBody (r : ReportRec) : List Byte :=
  leBytes 2 r.unit.toNat ++ leBytes 1 (tagByte r.ptag) ++ leBytes 1 r.severity ++ leBytes 2 r.task.toNat
    ++ leBytes 2 r.opcode.toNat ++ leBytes 4 r.tile.toNat ++ leBytes 2 r.tj.toNat ++ leBytes 2 r.vcore.toNat
    ++ leBytes 8 r.ext.toNat ++ leBytes 8 r.data.toNat

/-- The core that an initiator ID names, for its temperature. -/
def unitCore (u : W16) : Option Nat :=
  match initClass u with
  | 3 | 5 => some (initIndex u)
  | 4 => some (initIndex u / 8)
  | _ => none

/-- A report of a code, a unit and a partition tag, its other fields at their values for none; what DETAIL and DATA hold for a code the manual mostly does not say, and both are free (notes/assumptions/11). -/
def mkReport (s : State) (code : Nat) (unit : W16) (ptag : Nat) : ReportRec :=
  { code := BitVec.ofNat 16 code, severity := severityOf code, ptag := ptag, seq := 0, device := s.fab.id.toNat
    unit := unit, opcode := 0, task := 0xFFFF, tile := 0xFFFFFFFF, handle := 0xFFFFFFFF, ts := s.ts
    ext := BitVec.ofNat 64 (extTime s)
    tj := match unitCore unit with | some c => (s.core c).tj | none => tget 0 s.pwr.islTemp 0
    vcore := s.pwr.railMv, detail := Config.free 32 s.freeNo 21, data := Config.free 64 s.freeNo 22, rindSeq := 0xFFFFFFFF, repeats := 0 }

/-- The device that collects reports: FAB_REPORT_DEV, or the routing root (R378). -/
def collector (s : State) : Nat := if s.fab.useRoot then s.fab.rootId.toNat else s.fab.reportDev.toNat

/-- Whether the management queue holds an unread report of severity error or critical (R586). -/
def alertOf (q : List QueuedReport) : Bool :=
  q.any (fun r => match r with
    | .own r => decide (2 ≤ r.severity)
    | .foreign b => decide (2 ≤ (b.getD 2 0).toNat))

/-- A report placed in the management queue of 32: a full queue discards its oldest and counts it; each new report raises the in-band interrupt (R586, R654). -/
def queueReport (s : State) (r : QueuedReport) : State :=
  let full := decide (32 ≤ s.rel.mgmtQ.length)
  let q := (if full then s.rel.mgmtQ.drop 1 else s.rel.mgmtQ) ++ [r]
  { s with
    rel.mgmtQ := q
    rel.alert := alertOf q
    rel.reportsLost := if full then satInc s.rel.reportsLost else s.rel.reportsLost
    rel.events := if full then raiseEv s.rel.events 8 else s.rel.events
    ports.rptIbi := s.ports.rptIbi || (s.ports.ibiEn && s.ports.mgI3c) }

/-- The log arguments of a report: SEQ, UNIT, TASK and DETAIL (R586). -/
def reportArgs (r : ReportRec) : List Byte :=
  leBytes 4 r.seq.toNat ++ leBytes 4 r.unit.toNat ++ leBytes 4 r.task.toNat ++ leBytes 4 r.detail.toNat

/-- A report is issued to the four places of R586, with its Rind entry when it has one; a repeat of the same CODE and UNIT within 10 ms is folded (R587). -/
def issueReportBody (s : State) (r0 : ReportRec) (body : List Byte) : State :=
  let code := r0.code.toNat
  let pin := codePinned code
  let prev := s.rel.lastSent.find? (fun e => e.1 == r0.code && e.2.1 == r0.unit)
  let recent : Bool := match prev with
    | some e => decide (s.ts.toNat < e.2.2.1.toNat + 10000000)
    | none => false
  if recent && !pin then
    { s with rel.lastSent := s.rel.lastSent.map (fun e => if e.1 = r0.code ∧ e.2.1 = r0.unit then (e.1, e.2.1, e.2.2.1, e.2.2.2 + 1) else e)
             rel.folded := s.rel.folded + 1 }
  else
    let seq := s.rel.nReports + 1
    let toRind := pin || decide (1 ≤ r0.severity)
    let reps := match prev with | some e => e.2.2.2 | none => 0
    let s1 := if toRind then rindQueue s code pin body else s
    let r := { r0 with seq := BitVec.ofNat 32 seq, repeats := BitVec.ofNat 16 reps
                       rindSeq := if s1.rel.rindQ.length = s.rel.rindQ.length then 0xFFFFFFFF
                                  else BitVec.ofNat 32 (s.rel.nextSeq.toNat + s.rel.rindQ.length) }
    let s2 := { s1 with
      rel.nReports := seq
      rel.reportSeq := r.seq
      rel.window := tset s1.rel.window (seq % 16) r
      rel.lastSent := (r.code, r.unit, s.ts, 0) :: s1.rel.lastSent.filter (fun e => !(e.1 == r.code && e.2.1 == r.unit)) }
    let s3 := queueReport s2 (.own r)
    let s4 := if collector s3 = s3.fab.id.toNat then s3
              else sendFrame s3 (mkFrame s3 0x05 (collector s3) false 0x3F (r.seq.setWidth 64) (reportBytes r)) none
    let s5 := globalLog s4 code r.severity (tagByte r.ptag) (reportArgs r)
    if r.ptag < 64 ∧ (s5.part r.ptag).state ≠ .absent then partLog s5 r.ptag code r.severity r.ptag (reportArgs r) else s5

/-- A report is issued (R586), its Rind entry with the body of the report classes. -/
def sendReport (s : State) (r : ReportRec) : State := (issueReportBody s r (reportBody r)).draw

/-- A report of the classes BOOT, LIFE_CYCLE or FUSE, whose Rind entry has a body of its own (R585, R590). -/
def sendReportBody (s : State) (r : ReportRec) (body : List Byte) : State := (issueReportBody s r body).draw

/-- A report with nothing beyond its code, unit and partition. -/
def report (s : State) (code : Nat) (unit : W16) (ptag : Nat) : State := sendReport s (mkReport s code unit ptag)

/-- A flag of REL_EVENTS raised: 0 RESIDUE, 1 SAMPLE_MISMATCH, 2 FENCE, 3 ECC_CORR, 4 ECC_UNCORR, 5 PARITY, 6 REPLICA, 7 PROBE_FAIL, 8 REPORT_LOST (R599). -/
def relEvent (s : State) (bit : Nat) : State := { s with rel.events := raiseEv s.rel.events bit }
/-- A flag of FAB_EVENTS raised (R378). -/
def fabEvent (s : State) (bit : Nat) : State := { s with fab.events := raiseEv s.fab.events bit }
/-- A flag of PORT_EVENTS raised (R660). -/
def portEvent (s : State) (bit : Nat) : State := { s with ports.events := raiseEv s.ports.events bit }
/-- A flag of CAD_EVENTS raised (R242). -/
def cadEvent (s : State) (bit : Nat) : State := { s with cad.events := raiseEv s.cad.events bit }
/-- A flag of PART_EVENTS raised (R392). -/
def partEvent (s : State) (p bit : Nat) : State := s.modPart p (fun q => { q with events := raiseEv q.events bit })

end Sys2Proof.Machine
end

