-- ==== Sys2Proof/Machine/Operands.lean ====
section
/-! DEFINITION. Packets and their fields (R393, R395, R399), the start and the end of a packet (R387, R388, R396), and operand forms shared by the commands. -/

namespace Sys2Proof.Machine

/-! ### Packet fields (R393) -/

/-- OPCODE. -/
def pktOp (k : Packet) : Nat := field k.bytes 0 2
/-- FLAGS. -/
def pktFlags (k : Packet) : Nat := field k.bytes 2 2
/-- EXPERT. -/
def pktExpert (k : Packet) : Bool := nbit (pktFlags k) 0
/-- FENCE. -/
def pktFence (k : Packet) : Bool := nbit (pktFlags k) 1
/-- NOTIFY. -/
def pktNotify (k : Packet) : Bool := nbit (pktFlags k) 2
/-- CADENCE. -/
def pktCadence (k : Packet) : Bool := nbit (pktFlags k) 3
/-- TAG. -/
def pktTag (k : Packet) : W32 := BitVec.ofNat 32 (field k.bytes 4 4)
/-- PLEN. -/
def pktLen (k : Packet) : Nat := field k.bytes 8 2
/-- OBJ. -/
def pktObj (k : Packet) : W32 := BitVec.ofNat 32 (field k.bytes 12 4)
/-- A parameter field of `n` bytes at a parameter offset. -/
def par (k : Packet) (off n : Nat) : Nat := field k.bytes (64 + off) n
/-- Parameter bytes. -/
def parBytes (k : Packet) (off n : Nat) : List Byte := slice k.bytes (64 + off) n
/-- No handle. -/
def noObj : W32 := 0xFFFFFFFF

/-- The opcodes of R680. -/
def knownOps : List Nat :=
  [0x0101, 0x0102, 0x0103, 0x0201, 0x0202, 0x0203, 0x0204,
   0x0301, 0x0302, 0x0303, 0x0304, 0x0305, 0x0306, 0x0307, 0x0308, 0x0309, 0x030A, 0x030B,
   0x0401, 0x0402, 0x0403, 0x0404, 0x0405, 0x0501, 0x0502, 0x0601, 0x0602, 0x0603] ++
  [0x0701, 0x0702, 0x0703, 0x0704, 0x0705, 0x0706, 0x0707,
   0x0801, 0x0802, 0x0803, 0x0804, 0x0805, 0x0806, 0x0807, 0x0808, 0x0901, 0x0902, 0x0903,
   0x0A01, 0x0A02, 0x0A03, 0x0B01, 0x0B02, 0x0C01, 0x0C02, 0x0C03] ++
  [0x0D01, 0x0D02, 0x0D03, 0x0E01, 0x0E02, 0x0E03, 0x0E04, 0x0E05, 0x0F01, 0x0F02, 0x0F03]

/-! ### Detail words (R399) -/

/-- DETAIL naming a byte of the packet: [14:13] 0b10. -/
def detPkt (off : Nat) : W32 := BitVec.ofNat 32 (off % 8192 + 2 * 8192)
/-- DETAIL naming a parameter byte. -/
def detPar (off : Nat) : W32 := detPkt (64 + off)
/-- DETAIL naming a byte of the graph descriptor: [14:13] 0b01. -/
def detGraph (off : Nat) : W32 := BitVec.ofNat 32 (off % 8192 + 8192)
/-- DETAIL naming a byte of a task descriptor: [14:13] 0b00, the task's index in [30:15]. -/
def detTask (task off : Nat) : W32 := BitVec.ofNat 32 (off % 8192 + (task % 65536) * 32768)
/-- DETAIL naming a byte of another object the command names: [14:13] 0b11. -/
def detObj (off : Nat) : W32 := BitVec.ofNat 32 (off % 8192 + 3 * 8192)

/-! ### The start and the end of a packet -/

/-- Whether a packet may start: it is the oldest in hand, no packet before it that is not yet completed carries FENCE, and with FENCE set (or as a detach, R405) none before it is open at all (R388). -/
def mayStart (s : State) (p : Nat) (k : Packet) : Bool :=
  let before := (s.part p).openPkts.filter (fun o => decide (o.1 < k.number))
  before.all (fun o => !o.2) && (!(pktFence k || pktOp k == 0x0102) || before.isEmpty)

/-- The packet that starts when its command's turn comes: the first in hand, when it carries the opcode and may start; the array controller's clock stops in a critical trip (R619), and outside state A it is gated or in retention (R40). -/
def startable (s : State) (p op : Nat) : Option Packet :=
  match (s.part p).inHand with
  | k :: _ => if pktOp k = op ∧ mayStart s p k ∧ !s.pwr.trip ∧ s.spr.pstate = .a then some k else none
  | [] => none

/-- The packet leaves those in hand as it starts executing (R387). -/
def takeHand (s : State) (p : Nat) : State := s.modPart p (fun q => { q with inHand := q.inHand.drop 1 })

/-- A packet is completed for the order of R388. -/
def closePkt (s : State) (p n : Nat) : State :=
  s.modPart p (fun q => { q with openPkts := q.openPkts.filter (fun o => o.1 != n) })

/-- The reply to a packet: its completion entry, and the end of the packet (R388, R397). -/
def reply (s : State) (p : Nat) (k : Packet) (status : W16) (detail obj : W32) (state : Byte) : State :=
  complete (closePkt s p k.number) p
    { tag := pktTag k, status := status, opcode := BitVec.ofNat 16 (pktOp k), detail := detail, obj := obj, state := state
      ring := k.ring, notify := pktNotify k }

/-- What a packet's later reply needs. -/
def pendOf (p : Nat) (k : Packet) : Pend :=
  { part := p, tag := pktTag k, opcode := BitVec.ofNat 16 (pktOp k), ring := k.ring, notify := pktNotify k, packet := k.number }

/-- The reply to a packet that was kept waiting. -/
def replyLater (s : State) (d : Pend) (status : W16) (detail obj : W32) (state : Byte) : State :=
  complete (closePkt s d.part d.packet) d.part
    { tag := d.tag, status := status, opcode := d.opcode, detail := detail, obj := obj, state := state, ring := d.ring, notify := d.notify }

/-- The reply DONE with no object. -/
def replyDone (s : State) (p : Nat) (k : Packet) : State := reply s p k stDone 0 noObj 0
/-- FORMAT_REFUSED naming a parameter byte. -/
def refuseFmt (s : State) (p : Nat) (k : Packet) (off : Nat) : State := reply s p k stFormat (detPar off) noObj 0
/-- RANGE_REFUSED naming a parameter byte. -/
def refuseRange (s : State) (p : Nat) (k : Packet) (off : Nat) : State := reply s p k stRange (detPar off) noObj 0
/-- STATE_REFUSED with an object's state. -/
def refuseState (s : State) (p : Nat) (k : Packet) (obj : W32) (state : Byte) : State := reply s p k stState 0 obj state
/-- BUSY_RETRY with its resource (R399). -/
def refuseBusy (s : State) (p : Nat) (k : Packet) (what : Nat) : State := reply s p k stBusy (BitVec.ofNat 32 what) noObj 0

/-- The first parameter byte that breaks R395: PLEN below the form's length, a reserved byte inside the form, or a byte beyond it that is not zero. The value is a packet offset. -/
def formCheck (k : Packet) (basic expert : Nat) (gaps : List (Nat × Nat)) : Option Nat :=
  let len := if pktExpert k then max basic expert else basic
  if pktLen k < len then some 8
  else
    let inGap (i : Nat) : Bool := decide (len ≤ i) || gaps.any (fun g => decide (g.1 ≤ i ∧ i < g.1 + g.2))
    ((List.range (pktLen k)).find? (fun i => inGap i && par k i 1 != 0)).map (64 + ·)

/-- What the session makes of a packet (R396 step 2, R400, R403): any command but attach needs an attached session. -/
def sessionRefuse (s : State) (p : Nat) (k : Packet) : Option (W16 × Byte) :=
  if pktOp k = 0x0101 then none
  else match (s.part p).session with
    | .none => some (stState, 0x10)
    | .attached => none
    | .detached => some (stDetached, 0x12)

/-- A ring command's packet starts: where none with the opcode may start, nothing happens; the session is looked at first. -/
def ringTake (s : State) (p op : Nat) (body : State → Packet → State) : State :=
  match startable s p op with
  | none => s
  | some k =>
    match sessionRefuse s p k with
    | some r => reply (takeHand s p) p k r.1 0 noObj r.2
    | none => body (takeHand s p) k

/-- A packet's form checked before its body runs. -/
def formed (s : State) (p : Nat) (k : Packet) (basic expert : Nat) (gaps : List (Nat × Nat)) (body : State → Packet → State) : State :=
  match formCheck k basic expert gaps with
  | some off => reply s p k stFormat (detPkt off) noObj 0
  | none => body s k

/-- A ring command: the packet that starts with the opcode is taken, its form checked, and its body run. -/
def ringCmd (s : State) (p op basic expert : Nat) (gaps : List (Nat × Nat)) (body : State → Packet → State) : State :=
  ringTake s p op (fun s k => formed s p k basic expert gaps body)

/-- A device address field of 8 bytes: [47:0], the upper bits reserved (R407). -/
def addrOk (k : Packet) (off : Nat) : Bool := par k (off + 6) 2 == 0
/-- The address of an 8-byte address field. -/
def parAddr (k : Packet) (off : Nat) : Nat := par k off 6

/-- RIGHTS_REFUSED with the number of the missing right (R399, R430). -/
def refuseRight (s : State) (p : Nat) (k : Packet) (r : Nat) : State := reply s p k stRights (BitVec.ofNat 32 r) noObj 0

/-- A ring command that needs a right: the right is checked before the parameters (R396). -/
def ringCmdR (s : State) (p op right basic expert : Nat) (gaps : List (Nat × Nat)) (body : State → Packet → State) : State :=
  ringTake s p op (fun s k =>
    if hasRight s p right then formed s p k basic expert gaps body else refuseRight s p k right)

/-- The first of some tests that holds names the parameter offset at fault. -/
def firstBad (l : List (Bool × Nat)) : Option Nat := (l.find? (·.1)).map (·.2)

/-- Format tests, then range tests, in the order of their offsets; the body runs when none holds (R396). -/
def checked (s : State) (p : Nat) (k : Packet) (fmt rng : List (Bool × Nat)) (body : State) : State :=
  match firstBad fmt with
  | some off => refuseFmt s p k off
  | none => match firstBad rng with
    | some off => refuseRange s p k off
    | none => body

/-- Bytes of device memory that a command names by address: a part unmapped gives RANGE_REFUSED at the field, a poisoned one INTEGRITY_FAILED (R254). -/
def withData (s : State) (p : Nat) (k : Packet) (off len : Nat) (body : List Byte → State) : State :=
  let a := parAddr k off
  if anyBlock s p a len .unmapped then refuseRange s p k off
  else if anyBlock s p a len .poisoned then reply s p k stIntegrity 0 noObj 0
  else body (devRead s p a len)

/-- What a list reads as now (R254). -/
def readList (s : State) (p addr len : Nat) : ListCopy :=
  if anyBlock s p addr len .unmapped then .unmapped
  else if anyBlock s p addr len .poisoned then .poisoned
  else .bytes (devRead s p addr len)

/-- The length of the list that a packet names at parameter byte 8: of PRE_WARM_SET, BARRIER_GROUP_SET, REPLICA_JOB_SET and SET_FORM. -/
def listLen (k : Packet) : Option Nat :=
  match pktOp k with
  | 0x0704 => some (16 * par k 1 1)
  | 0x0804 => some (2 * par k 2 2)
  | 0x0806 => some (8 * par k 1 1)
  | 0x0C01 => some (2 * par k 0 1)
  | _ => none

/-- A packet with its list copied, as acceptance copies it (R407). -/
def copyList (s : State) (p : Nat) (k : Packet) : Packet := { k with list := (listLen k).map (readList s p (parAddr k 8)) }

/-- The list of a packet: the copy of its acceptance, or what the memory holds where acceptance made none. -/
def listOf (s : State) (p : Nat) (k : Packet) (len : Nat) : ListCopy := k.list.getD (readList s p (parAddr k 8) len)

/-- A command's list named at parameter byte 8 (R407): refused as withData refuses what it names. -/
def withList (s : State) (p : Nat) (k : Packet) (len : Nat) (body : List Byte → State) : State :=
  match listOf s p k len with
  | .unmapped => refuseRange s p k 8
  | .poisoned => reply s p k stIntegrity 0 noObj 0
  | .bytes l => body l

/-- Free bytes of a layout that the manual does not fix (notes/assumptions/10). -/
def freeBytes (s : State) (tag n : Nat) : List Byte := leBytes n (Config.free (8 * n) s.freeNo tag).toNat


/-- The states of R398. -/
def sessionState (s : State) (p : Nat) : Byte :=
  match (s.part p).session with | .none => 0x10 | .attached => 0x11 | .detached => 0x12
/-- The state of a partition object. -/
def partState (s : State) (p : Nat) : Byte :=
  match (s.part p).state with | .absent => 0x20 | .ready => 0x21 | .resetting => 0x22
/-- The state of a graph object. -/
def graphState (s : State) (h : Nat) : Byte :=
  match s.graph h with
  | none => 0x30
  | some g => match g.run.isSome, g.started with
    | false, false => 0x31 | true, false => 0x32 | false, true => 0x33 | true, true => 0x34
/-- The state of cadence (R398): DISABLED, WAITING, LOCKED or LOST. -/
def cadState (s : State) : Byte :=
  if !s.cad.en then 0x80 else if s.cad.lost then 0x83 else if s.cad.period = 0 then 0x81 else 0x82
/-- The state of a memory block object. -/
def memState (b : BlockState) : Byte := BitVec.ofNat 8 (0x40 + blockCode b)

end Sys2Proof.Machine
end

