-- ==== Sys2Proof/Machine/Graphs.lean ====
section
/-! DEFINITION. Runs of graphs: release, counters, readiness, failure, completion, retirement and the endings of runs (R167 to R195, R218 to R227, R275, R276). -/

namespace Sys2Proof.Machine

/-! ### Tasks and their blocks -/

/-- The blocks an operand entry names. -/
def entryBlocks (o : Operand) : List Nat := blocksOf o.addr o.len
/-- The blocks that the operand entries of a task name, each once. -/
def taskBlocks (t : Task) : List Nat := (t.operands.flatMap entryBlocks).dedup

/-- Whether a kind runs on an engine. -/
def engineKind : Kind → Bool
  | .matrix | .vector | .attention => true
  | _ => false
/-- Whether a kind runs on the tile mover. -/
def moverKind : Kind → Bool
  | .move | .decompress => true
  | _ => false

/-- A task takes its use count as it enters a queue (R257); the copies follow the hints of its entries (R259). -/
def takeUse (s : State) (c x : Nat) : State :=
  let k := s.ctx c x
  let s1 := (taskBlocks k.task).foldl (fun t b => t.modBlock k.part b (fun v => { v with users := v.users + 1, lastUse := s.ts })) s
  k.task.operands.foldl (fun t o => (entryBlocks o).foldl (fun t b => t.modBlock k.part b (fun v => { v with entryHint := o.hint })) t) s1
/-- It gives the count up at DONE or at withdrawal. -/
def giveUse (s : State) (c x : Nat) : State :=
  let k := s.ctx c x
  (taskBlocks k.task).foldl (fun t b => t.modBlock k.part b (fun v => { v with users := v.users - 1 })) s

/-- The live run of a graph. -/
def runOf (s : State) (h : Nat) : Option Run := (s.graph h).bind (·.run)
/-- Whether the run of a context's graph is cadence-bound. -/
def ctxCadence (s : State) (k : Ctx) : Bool := match runOf s k.graph.toNat with | some r => r.cadence | none => false

/-- The rank of a fetch for a task (R35, R260). -/
def fetchRank (s : State) (k : Ctx) : Nat := if ctxCadence s k then 3 else 5

/-- The deadline instant of a task: A + DEADLINE (R221). -/
def deadlineOf (s : State) (k : Ctx) : Option Nat :=
  match runOf s k.graph.toNat with
  | some r => if r.cadence && k.task.hasDeadline then some (r.a.toNat + k.task.deadline.toNat) else none
  | none => none

/-- A time after every deadline. -/
def noDeadline : Nat := 2 ^ 64

/-- The order in which READY tasks are offered (R178): class; within cadence the earliest deadline, elsewhere the partition's virtual time; ready time; context number. -/
def offerKey (s : State) (c x : Nat) : List Nat :=
  let k := s.ctx c x
  if k.cls = .cadence then
    match deadlineOf s k with
    | some d => [0, 0, d, k.readyTs.toNat, x]
    | none => [0, 1, 0, k.readyTs.toNat, x]
  else [classRank k.cls, tget 0 (s.core c).vtime k.part, k.part, k.readyTs.toNat, x]

/-- Fetches of the blocks of some entries of a task that are not yet where its hints install them (R257, R259, R260), each at a rank; `ahead` is a fetch for an engine that does not wait for it (R183). A tensor transfer makes ONCE objects resident too (R184). -/
def fetchEntries (s : State) (c x rank : Nat) (ahead : Bool) (pick : Operand → Bool) : State :=
  let k := s.ctx c x
  let tensor := engineKind k.task.kind && tensorMode s k.part
  (k.task.operands.filter (fun o => !o.output && pick o)).foldl (fun t o =>
    (entryBlocks o).foldl (fun t b =>
      let d := match hintDest o.hint (t.block k.part b).hint (some c) with
        | none => if tensor then some (some c) else none
        | d => d
      match d with
      | some d => bringBlock t { part := k.part, block := b, rank := rank, cls := k.cls, dest := d, ahead := ahead
                                 deadline := (deadlineOf s k).getD noDeadline, order := offerKey s c x }
      | none => t) t) s

/-- Whether an entry's hint, or the block's own where it is DEFAULT, is a code (R259). -/
def entryHint (s : State) (p : Nat) (o : Operand) (code : Nat) : Bool :=
  if o.hint = 0 then (entryBlocks o).any (fun b => (s.block p b).hint == code) else o.hint == code

/-! ### Readiness (R172 to R174, R444 to R447) -/

/-- The contexts of a core in a state that makes their partition active at dispatch. -/
def activeParts (s : State) (c : Nat) : List Nat :=
  ((s.core c).ctxs.filter (fun e => e.2.state == .ready || e.2.state == .queued || e.2.state == .running)).map (fun e => e.2.part)

/-- A partition that has been idle at a core's dispatch resumes with the lowest virtual time of the partitions active there (R445). -/
def resumeVtime (s : State) (c p : Nat) : State :=
  let act := activeParts s c
  if act.contains p then s
  else match act with
    | [] => s
    | q :: rest =>
      let v := rest.foldl (fun m r => min m (tget 0 (s.core c).vtime r)) (tget 0 (s.core c).vtime q)
      s.modCore c (fun k => { k with vtime := tset k.vtime p v })

/-- A task becomes READY: its ready time and its class are taken, and AHEAD objects are fetched (R174, R259, R444). -/
def makeReady (s : State) (c x : Nat) : State :=
  let k := s.ctx c x
  let cls := if ctxCadence s k then SClass.cadence else classOf s k.part
  let s1 := resumeVtime s c k.part
  let s2 := s1.modCtx c x (fun q => { q with state := .ready, readyTs := s.ts, cls := cls, clsSince := s.ts })
  fetchEntries s2 c x 5 true (fun o => entryHint s k.part o 5)

/-- Whether a WAITING context has every counter at zero and its release time reached, in a run that has not stopped. -/
def canReady (s : State) (c x : Nat) : Bool :=
  let k := s.ctx c x
  k.state == .waiting && k.released && k.counters.all (· == 0) &&
  (match runOf s k.graph.toNat with | some r => !r.stopped | none => false)

/-- A WAITING task becomes READY when nothing holds it back. -/
def checkReady (s : State) (c x : Nat) : State := if canReady s c x then makeReady s c x else s

/-- One decrement of a counter (R173). -/
def decrement (s : State) (c x k : Nat) : State :=
  checkReady (s.modCtx c x (fun q => { q with counters := q.counters.set k (q.counters.getD k 0 - 1) })) c x

/-! ### Cadence sets (R276, R277) -/

/-- The tasks of a graph in order of graph-local core, then task index: physical core and context of each. -/
def orderedTasks (s : State) (g : Graph) : List (Nat × Nat) :=
  sortBy (fun a b => keyLt [(s.ctx a.1 a.2).task.core, (s.ctx a.1 a.2).task.index] [(s.ctx b.1 b.2).task.core, (s.ctx b.1 b.2).task.index]) g.ctxOf

/-- The blocks of the input entries of a graph's tasks, each with where its first entry installs it (R277). -/
def inputBlocks (s : State) (g : Graph) : List (Nat × Option Nat) :=
  let all := (orderedTasks s g).flatMap (fun cx =>
    let t := (s.ctx cx.1 cx.2).task
    (t.operands.filter (fun o => !o.output)).flatMap (fun o => (entryBlocks o).map (fun b =>
      let hint := if o.hint = 0 then (s.block g.part b).hint else o.hint
      (b, if hint = 2 then none else some cx.1))))
  all.foldl (fun acc e => if acc.any (fun a => a.1 == e.1) then acc else acc ++ [e]) []

/-- The cadence set of a graph: the input blocks of its tasks and of its fallback's (R276). -/
def cadenceSet (s : State) (g : Graph) : List (Nat × Option Nat) :=
  let own := inputBlocks s g
  let fb := match s.graph g.fallback.toNat with | some f => inputBlocks s f | none => []
  fb.foldl (fun acc e => if acc.any (fun a => a.1 == e.1) then acc else acc ++ [e]) own

/-- A graph comes to hold its cadence set: each block's count rises (R276). -/
def holdSet (s : State) (h : Nat) : State :=
  match s.graph h with
  | some g =>
    if g.armed then s
    else
      let set := (cadenceSet s g).map (·.1)
      set.foldl (fun t b => t.modBlock g.part b (fun v => { v with cadset := v.cadset + 1 }))
        (s.modGraph h (fun g => { g with armed := true, set := set }))
  | none => s
/-- A graph gives up the cadence set it holds as it is unloaded: the blocks whose counts it raised. -/
def dropSet (s : State) (h : Nat) : State :=
  match s.graph h with
  | some g =>
    g.set.foldl (fun t b => t.modBlock g.part b (fun v => { v with cadset := v.cadset - 1 }))
      (s.modGraph h (fun g => { g with armed := false, set := [] }))
  | none => s

/-! ### Releasing a run -/

/-- The slot of a stream's newest COMPLETE frame pinned for a run (R234). -/
def pinStreams (s : State) (h : Nat) : State :=
  (List.range 24).foldl (fun t n =>
    let st := t.stream n
    if st.owned && st.bind.toNat == h then t.modStream n (fun q => { q with pinned := q.newest, pinRun := some h }) else t) s
/-- The pins of a run released. -/
def unpinStreams (s : State) (h : Nat) : State :=
  (List.range 24).foldl (fun t n =>
    if (t.stream n).pinRun = some h then t.modStream n (fun q => { q with pinned := none, pinRun := none }) else t) s

/-- The earliest deadline of a run's tasks that name a block as an input. -/
def blockDeadline (s : State) (g : Graph) (b : Nat) : Nat :=
  (g.ctxOf.filterMap (fun cx =>
    let k := s.ctx cx.1 cx.2
    if (k.task.operands.filter (fun o => !o.output)).any (fun o => (entryBlocks o).contains b) then deadlineOf s k else none)).foldl min noDeadline


/-- A run of a loaded graph is released (R172): every counter takes its initial count; roots become READY; a cadence-bound run holds its cadence set and fetches its missing blocks at rank 3 (R275, R276). -/
def releaseRun (s : State) (h : Nat) (r : Run) : State :=
  match s.graph h with
  | none => s
  | some g =>
    let s1 := s.modGraph h (fun q => { q with run := some { r with runNo := q.runs, released := true }, runs := q.runs + 1 })
    let s2 := g.ctxOf.foldl (fun t cx => t.modCtx cx.1 cx.2 (fun k =>
      { k with state := .waiting, counters := k.task.waits, released := !(r.cadence && k.task.hasRelease)
               outcome := .none, failure := none, notes := 0, digest := 0, redisp := false, engine := none, txn := none
               fetched := false, missed := false })) s1
    let s3 := pinStreams s2 h
    let s4 := if r.cadence then
        let t := holdSet s3 h
        (inputBlocks t g).foldl (fun t e =>
          bringBlock t { part := g.part, block := e.1, rank := 3, cls := .cadence, dest := e.2, ahead := true, deadline := blockDeadline t g e.1 }) t
      else s3
    g.ctxOf.foldl (fun t cx => checkReady t cx.1 cx.2) s4

/-! ### Completion of runs (R176, R177, R189, R225, R376, R579) -/

/-- The detail word of R177. -/
def runDetail (notes : Byte) (task : Option (Nat × Nat)) : W32 :=
  match task with
  | some (t, c) => BitVec.ofNat 32 (notes.toNat + (t % 65536) * 256 + (c % 64) * 2 ^ 24 + 2 ^ 30)
  | none => BitVec.ofNat 32 notes.toNat

/-- The status and detail of a run that retires (R176, R225): the earliest failure, of a task or of the run as a whole, of which a run keeps one; else a missed deadline, else notes, else DONE. -/
def runStatus (r : Run) : W16 × W32 :=
  match r.failure with
  | some (st, t, c) => (BitVec.ofNat 16 st, runDetail r.notes (some (t, c)))
  | none =>
    match r.ending with
    | some st => (BitVec.ofNat 16 st, runDetail r.notes none)
    | none =>
    match r.missed with
    | some tc => (stMissed, runDetail r.notes (some tc))
    | none => if r.notes = 0 then (stDone, 0) else (stDoneNote, runDetail r.notes none)

/-- The completion entry of a run (R397). -/
def runCompletion (s : State) (h : Nat) (g : Graph) (r : Run) (st : W16 × W32) : Completion :=
  { tag := r.tag, status := st.1, opcode := r.opcode, detail := st.2, obj := BitVec.ofNat 32 h
    state := graphState (s.modGraph h (fun q => { q with run := none })) h
    ring := r.ring, run := true, standing := r.standing
    release := if r.standing then BitVec.ofNat 24 r.index else 0, notify := r.notify && g.part < 64 }

/-- The job slot whose members name a graph of this device. -/
def jobOf (s : State) (p h : Nat) : Option (Nat × Job) :=
  s.fab.jobs.find? (fun e => e.2.valid && e.2.members.contains (s.fab.id.toNat, p, BitVec.ofNat 32 h))

/-- A DIGEST frame's 32-byte payload (R579). -/
def digestPayload (a value : W64) (ok : Bool) : List Byte :=
  leBytes 8 a.toNat ++ leBytes 8 value.toNat ++ leBytes 1 (b2n ok) ++ List.replicate 15 0

/-- After a step whose release index is a multiple of the interval, each member sends a DIGEST frame to every other member and holds its own value (R376). -/
def sendDigests (s : State) (p h : Nat) (r : Run) : State :=
  match s.graph h, jobOf s p h with
  | some g, some (slot, j) =>
    if r.index % j.interval = 0 then
      let value := crc64 (g.intervalDigest.flatMap (fun d => leBytes 8 d.toNat))
      let iv := r.index / j.interval
      let me := j.members.findIdx (fun m => m == (s.fab.id.toNat, p, BitVec.ofNat 32 h))
      let arg : W64 := BitVec.ofNat 64 (slot + iv * 2 ^ 32)
      let s1 := j.members.foldl (fun t m =>
        if m.1 = s.fab.id.toNat then t
        else sendFrame t (mkFrame t 0x08 m.1 false m.2.1 arg (digestPayload r.a value g.intervalOk)) none) s
      let s2 := { s1 with fab.jobs := tmod {} s1.fab.jobs slot (fun q => { q with held := (BitVec.ofNat 32 iv, me, r.a, value, g.intervalOk) :: q.held }) }
      s2.modGraph h (fun q => { q with intervalDigest := [], intervalOk := true })
    else s
  | _, _ => s

/-- Whether every task of a run's graph is DONE. -/
def allDone (s : State) (g : Graph) : Bool := g.ctxOf.all (fun cx => (s.ctx cx.1 cx.2).state == .done)
/-- Whether no task of a run's graph is queued, running or held, or was returned from a queue by a fence (R176, R193). -/
def quiet (s : State) (g : Graph) : Bool :=
  g.ctxOf.all (fun cx => let k := s.ctx cx.1 cx.2
                         k.state != .queued && k.state != .running && k.state != .held && !(k.state == .ready && k.redisp))
/-- The home core of a graph: the core that holds task 0 (R31). -/
def homeCore (g : Graph) : Nat := (g.ctxOf.headD (0, 0)).1
/-- The cores a graph's tasks lie on. -/
def graphCores (g : Graph) : List Nat := (g.ctxOf.map (·.1)).dedup

/-- Every live run of a partition has retired. -/
def noLiveRuns (s : State) (p : Nat) : Bool := s.graphs.all (fun e => e.2.part != p || e.2.run.isNone)

/-- The session attaches (R401, R402, R404): version served, vectors, token, heartbeat refreshed; on a resumption interrupts resume; the reply's DETAIL holds the versions, RESUMED and the lost count, which a resumption clears. -/
def attachNow (s : State) (p : Nat) (k : Packet) (resumed : Bool) : State :=
  let lost := (s.part p).cqLost.toNat
  let minor := min (par k 1 1) 0
  let s1 := s.modPart p (fun q => { q with
    session := .attached, minor := BitVec.ofNat 8 minor, token := BitVec.ofNat 64 (par k 8 8)
    cqVector := BitVec.ofNat 8 (par k 2 1), logVector := BitVec.ofNat 8 (par k 3 1), hbTs := s.ts
    cqLost := if resumed then 0 else q.cqLost, attachWait := none })
  let s2 := { s1 with spr.everAttached := true }
  reply (if resumed ∧ (s.part p).state = .ready then sendHeldVectors s2 p else s2) p k stDone (BitVec.ofNat 32 (minor + 2 * 256 + b2n resumed * 65536 + min lost 32767 * 131072)) noObj 0x11

/-- What a retirement may let happen: a forced attach that waited for live runs goes on (R404). -/
def afterRetire (s : State) (p : Nat) : State :=
  match (s.part p).attachWait with
  | some k => if noLiveRuns s p then attachNow s p k false else s
  | none => s

/-- The reply of a stop command that waited for the live run (R411). -/
def stopReply (s : State) (p h : Nat) : State :=
  match s.graph h with
  | some g =>
    match g.stopping with
    | some d =>
      let s1 := s.modGraph h (fun q => { q with stopping := none })
      replyLater s1 d stDone 0 (BitVec.ofNat 32 h) (graphState s1 h)
    | none => s
  | none => s

/-- The weight digests of a run's tasks in order of graph-local core and task index (R376). -/
def runDigests (s : State) (g : Graph) : List W64 := (orderedTasks s g).map (fun cx => (s.ctx cx.1 cx.2).digest)
/-- Whether every task reached DONE with outcome completed or late (R579). -/
def runWhole (s : State) (g : Graph) : Bool :=
  g.ctxOf.all (fun cx => let k := s.ctx cx.1 cx.2
                         k.state == .done && (k.outcome == .completed || k.outcome == .late))

/-- A graph is unloaded: its contexts return to FREE and its handle names nothing (R169). -/
def unloadNow (s : State) (h : Nat) : State :=
  match s.graph h with
  | none => s
  | some g =>
    let s1 := dropSet s h
    let s2 := g.ctxOf.foldl (fun t cx => { t with cores := tmod {} t.cores cx.1 (fun k => { k with ctxs := tdel k.ctxs cx.2 }) }) s1
    g.arming.foldl (fun t a => replyLater t a.1 stAborted 0 (BitVec.ofNat 32 h) (graphState t h)) { s2 with graphs := tdel s2.graphs h }

/-- The end of a run whose completion has been written: its contexts return to LOADED, its pins go (R169). -/
def retireEnd (s : State) (h : Nat) : State :=
  match s.graph h with
  | none => s
  | some g =>
    match g.run with
    | none => s
    | some r =>
      let p := g.part
      let s3 := match r.packet with | some n => closePkt s p n | none => s
      let s4 := g.ctxOf.foldl (fun t cx => t.modCtx cx.1 cx.2 (fun k => if k.state = .free then k else { k with state := .loaded })) s3
      let s5 := (unpinStreams s4 h).modGraph h (fun q => { q with run := none })
      let s6 := if r.standing then sendDigests s5 p h r else s5
      let s7 := idleStamp (stopReply s6 p h) (graphCores g)
      afterRetire (if g.leaving then unloadNow s7 h else s7) p

/-- A run whose tasks are over writes its completion, and retires when that has been written: at once, or, where the completion is held on chip, once the host frees its slot (R169, R390). One that is counted lost holds nothing back. -/
def retire (s : State) (h : Nat) (st : Option (W16 × W32)) : State :=
  match s.graph h with
  | none => s
  | some g =>
    match g.run with
    | none => s
    | some r =>
      if r.waiting then s
      else
        let p := g.part
        let s1 := if r.standing then
            s.modGraph h (fun q => { q with intervalDigest := q.intervalDigest ++ runDigests s g, intervalOk := q.intervalOk && runWhole s g })
          else s
        let s2 := complete s1 p (runCompletion s1 h g r (st.getD (runStatus r)))
        if (s1.part p).held.length < (s2.part p).held.length then s2.modRun h (fun r => { r with waiting := true }) else retireEnd s2 h

/-- Held completions are written while the ring has room, and the runs whose completions were among them retire (R169, R390). -/
def writeHeld (s : State) (p : Nat) : State :=
  let s1 := drainHeld 64 s p
  let owed (h : Nat) : Bool := (s1.part p).held.any (fun c => c.run && c.obj.toNat == h)
  (s1.graphs.filter (fun e => e.2.part == p && (match e.2.run with | some r => r.waiting | none => false) && !owed e.1)).foldl (fun t e => retireEnd t e.1) s1

/-- The home core writes the completion once it holds core-done messages from every core of the run (R189); a stopped run retires when nothing of it runs (R176). -/
def tryRetire (s : State) (h : Nat) : State :=
  match s.graph h with
  | none => s
  | some g =>
    match g.run with
    | none => s
    | some r =>
      if r.stopped then (if quiet s g then retire s h none else s)
      else if (graphCores g).all (fun c => r.coresDone.contains c) then retire s h none
      else s

/-- A core whose tasks of a run are all DONE sends its core-done message; the home core's own needs no journey (R189). -/
def coreDoneCheck (s : State) (c h : Nat) : State :=
  match s.graph h with
  | none => s
  | some g =>
    let mine := g.ctxOf.filter (fun cx => cx.1 == c)
    if mine.all (fun cx => (s.ctx cx.1 cx.2).state == .done) && c == homeCore g then
      s.modRun h (fun r => { r with coresDone := if r.coresDone.contains c then r.coresDone else c :: r.coresDone })
    else s

/-! ### Tasks that end -/

/-- A task leaves the queue it stands in, without reordering the rest (R223). -/
def leaveQueues (s : State) (c x : Nat) : State :=
  s.modCore c (fun k => { k with tmQueue := k.tmQueue.erase x
                                 engines := k.engines.map (fun e => (e.1, { e.2 with queue := e.2.queue.erase x })) })

/-- A counter of CAD_P for a partition: raised by one, saturating. -/
def bump32 (t : Tbl W32) (p : Nat) : Tbl W32 := tmod 0 t p satInc

/-- Whether any input block of a task is not resident (R280). -/
def inputsMissing (s : State) (k : Ctx) : Bool :=
  (k.task.operands.filter (fun o => !o.output)).any (fun o => (entryBlocks o).any (fun b =>
    let st := (s.block k.part b).state
    st == .home || st == .fetching || st == .unmapped))

/-- A missed deadline noted once on the run, the earliest first, with the count of R280. -/
def noteMissed (s : State) (c x : Nat) : State :=
  let k := s.ctx c x
  if k.missed then s
  else
    let s0 := s.modCtx c x (fun q => { q with missed := true })
    let s1 := s0.modRun k.graph.toNat (fun r => { r with missed := if r.missed.isSome then r.missed else some (k.task.index, k.task.core) })
    if inputsMissing s k then { s1 with mem.pCadMiss := bump32 s1.mem.pCadMiss k.part } else s1

/-- Dirty sectors of FLUSH_AFTER outputs start for home when their task is DONE with outcome completed or late (R259). -/
def flushAfter (s : State) (c x : Nat) : State :=
  let k := s.ctx c x
  (k.task.operands.filter (fun o => o.output && entryHint s k.part o 8)).foldl (fun t o =>
    (entryBlocks o).foldl (fun t b => startWriteback t k.part b 5 k.cls) t) s

/-- The notes of a task so far: its own, and those of its tiles on an engine (R92, R94). -/
def taskNotes (s : State) (c x : Nat) : Byte :=
  (s.core c).engines.foldl (fun n e => match e.2.run with | some r => if r.ctx = x then n ||| r.notes else n | none => n) (s.ctx c x).notes

/-- The notes of a task kept on its run: no event of the run clears them (R94). -/
def keepNotes (s : State) (c x : Nat) : State :=
  let n := taskNotes s c x
  s.modRun (s.ctx c x).graph.toNat (fun r => { r with notes := r.notes ||| n })

/-- The counters that a task's successor entries name fall (R173). -/
def decrementAll (s : State) (c : Nat) (l : List Succ) : State := l.foldl (fun t e => decrement t c e.ctx e.counter) s

/-- A task reaches DONE (R173, R175, R186): it gives up its uses, its successors' counters fall, and the run may retire. -/
def finishTask (s : State) (c x : Nat) (outcome : TaskOutcome) : State :=
  let k := s.ctx c x
  let h := k.graph.toNat
  let held := k.state == .queued || k.state == .running || k.state == .held
  let s1 := if held && (engineKind k.task.kind || moverKind k.task.kind) then giveUse s c x else s
  let s2 := s1.modCtx c x (fun q => { q with state := .done, outcome := outcome })
  let s3 := s2.modCore c (fun q => { q with doneCnt := satInc q.doneCnt })
  let s4 := keepNotes s3 c x
  let s5 := if outcome = .completed ∨ outcome = .late then flushAfter s4 c x else s4
  let s6 := decrementAll s5 c k.task.succs
  tryRetire (coreDoneCheck (idleStamp s6 [c]) c h) h

/-- A task that ran reaches DONE: late when its stamp lies after its deadline (R221, R222), with the late count of R225; skipped where its deadline found the fallback busy (R226). -/
def taskDone (s : State) (c x : Nat) : State :=
  let k := s.ctx c x
  let tardy := match deadlineOf s k with | some d => decide (d < extTime s) | none => false
  if k.outcome = .skipped then finishTask { s with cad.pSkip := bump32 s.cad.pSkip k.part } c x .skipped
  else if tardy || k.outcome == .late then
    let s1 := noteMissed s c x
    finishTask { s1 with cad.pLate := bump32 s1.cad.pLate k.part } c x .late
  else finishTask s c x .completed

/-- A task fails (R176): it is DONE with outcome failed, its run stops, the earliest failure is kept, and its successors' counters fall as at every DONE (R173). -/
def failTask (s : State) (c x : Nat) (status : W16) : State :=
  let k := s.ctx c x
  let h := k.graph.toNat
  let s1 := leaveQueues s c x
  let held := k.state == .queued || k.state == .running || k.state == .held
  let s2 := if held && (engineKind k.task.kind || moverKind k.task.kind) then giveUse s1 c x else s1
  let s3 := s2.modCtx c x (fun q => { q with state := .done, outcome := .failed, failure := some status.toNat })
  let s4 := s3.modCore c (fun q => { q with doneCnt := satInc q.doneCnt })
  let s5 := (keepNotes s4 c x).modRun h (fun r =>
    { r with stopped := true
             failure := if r.failure.isSome || r.ending.isSome then r.failure else some (status.toNat, k.task.index, k.task.core) })
  tryRetire (decrementAll s5 c k.task.succs) h

/-- An engine lets go of a task it runs, with all that it holds for it. -/
def freeEngine (s : State) (c x : Nat) : State :=
  s.modCore c (fun k => { k with
    tmRun := if k.tmRun = some x then none else k.tmRun
    tmWait := k.tmWait && k.tmRun != some x
    engines := k.engines.map (fun e =>
      if (match e.2.run with | some r => r.ctx == x | none => false) || (match e.2.held with | some r => r.run.ctx == x | none => false) then
        (e.1, { e.2 with run := none, held := none, state := if e.2.state = .busy ∨ e.2.state = .hold then .idle else e.2.state, rampHeld := false })
      else e) })

/-- What the fabric still owes the contexts of a graph is forgotten: remote moves in flight and barriers waiting for their release. -/
def dropFabric (s : State) (g : Graph) : State :=
  { s with
    fab.txns := s.fab.txns.filter (fun e => !g.ctxOf.contains (e.2.core, e.2.ctx))
    fab.bars := tmap (fun b => match b.pend with
      | some (c, x, _, _) => if g.ctxOf.contains (c, x) then { b with pend := none } else b
      | none => b) s.fab.bars }

/-- A run that failed by a settlement, ends with a status while it lives: no further task becomes READY, tasks under way complete (R176, R573). -/
def failRun (s : State) (h : Nat) (status : W16) : State :=
  match runOf s h with
  | none => s
  | some _ =>
    tryRetire (s.modRun h (fun r => { r with stopped := true, ending := if r.failure.isSome || r.ending.isSome then r.ending else some status.toNat })) h

/-- A run ended at once with a status: its tasks are taken off their executors and its completion is written (R194, R195, R449). -/
def endRun (s : State) (h : Nat) (status : W16) (to_ : CtxState) : State :=
  match s.graph h with
  | none => s
  | some g =>
    match g.run with
    | none => s
    | some r =>
      let s0 := g.ctxOf.foldl (fun t cx => if (t.ctx cx.1 cx.2).state = .loaded ∨ (t.ctx cx.1 cx.2).state = .free then t else keepNotes t cx.1 cx.2) s
      let s1 := g.ctxOf.foldl (fun t cx =>
        let k := t.ctx cx.1 cx.2
        let held := k.state == .queued || k.state == .running || k.state == .held
        let t1 := if held && (engineKind k.task.kind || moverKind k.task.kind) then giveUse t cx.1 cx.2 else t
        freeEngine (leaveQueues t1 cx.1 cx.2) cx.1 cx.2) (dropFabric s0 g)
      let notes := match runOf s0 h with | some q => q.notes | none => r.notes
      let s2 := retireEnd (retire s1 h (some (status, runDetail notes none))) h
      g.ctxOf.foldl (fun t cx => t.modCtx cx.1 cx.2 (fun k => { k with state := to_ })) s2

/-! ### Cadence-bound releases (R218, R226, R227, R236) -/

/-- The fallback graph of a graph is released with A at the instant that triggered it; a live fallback sets FB_BUSY (R226). -/
def fallbackRelease (s : State) (h : Nat) (a : Nat) : State :=
  match s.graph h with
  | none => s
  | some g =>
    match s.graph g.fallback.toNat with
    | none => s
    | some f =>
      if f.part ≠ g.part then s
      else if f.run.isSome then cadEvent s 4
      else
        let old := g.run.getD {}
        releaseRun s g.fallback.toNat
          { cadence := true, a := BitVec.ofNat 64 a, fallback := true
            tag := if g.run.isSome then old.tag else g.tag
            opcode := if g.run.isSome then old.opcode else 0x0404
            ring := if g.run.isSome then old.ring else g.ring
            notify := if g.run.isSome then old.notify else g.notify }

/-- The age check of R236: stale when the newest COMPLETE frame of a bound stream with MAX_AGE is older than that, or there is none. -/
def staleStream (s : State) (h a : Nat) : Bool :=
  (List.range 24).any (fun n =>
    let st := s.stream n
    st.owned && st.bind.toNat == h && st.maxAge != 0 &&
    (match st.newest with
     | none => true
     | some k => decide ((tget {} st.slots k).ext.toNat + st.maxAge * 65536 < a)))

/-- Whether the fallback of a graph may be released: a loaded graph of its partition with no live run (R226). -/
def fallbackFree (s : State) (g : Graph) : Bool :=
  match s.graph g.fallback.toNat with
  | some f => f.part == g.part && f.run.isNone
  | none => false
/-- Whether the fallback of a graph has a live run. -/
def fallbackBusy (s : State) (g : Graph) : Bool :=
  match s.graph g.fallback.toNat with
  | some f => f.part == g.part && f.run.isSome
  | none => false

/-- A stale release of a single run (R236): its fallback runs in its place and answers its packet; with none to release, the run ends with ABORTED (DESIGN CHOICE, notes/assumptions/69: the manual gives a dropped single run no status). -/
def staleRun (s : State) (h : Nat) (g : Graph) (r : Run) : State :=
  let s1 := cadEvent { s with cad.pStale := bump32 s.cad.pStale g.part } 6
  let s2 := s1.modGraph h (fun q => { q with run := some r })
  if fallbackFree s2 g then
    ((fallbackRelease s2 h r.a.toNat).modRun g.fallback.toNat (fun q => { q with packet := r.packet })).modGraph h (fun q => { q with run := none })
  else retire (if fallbackBusy s2 g then cadEvent s2 4 else s2) h (some (stAborted, 0))

/-- A single run at its release time (R219): a cadence-bound one is checked for freshness (R236), then released. -/
def releaseSingle (s : State) (h : Nat) (g : Graph) (r : Run) : State :=
  if r.cadence && staleStream s h r.a.toNat then staleRun s h g r else releaseRun s h r

/-- A release of a standing graph at its instant: dropped with OVERRUN while the former run lives or the partition resets, not run when stale, else released (R227, R236, R449). -/
def standingRelease (s : State) (h : Nat) : State :=
  match s.graph h with
  | none => s
  | some g =>
    match g.e0 with
    | none => s
    | some e0 =>
      let a := e0.toNat + g.phase.toNat + g.nextK * g.period * 65536
      let s1 := s.modGraph h (fun q => { q with nextK := q.nextK + 1 })
      if g.run.isSome || (s.part g.part).state == .resetting then
        (cadEvent { s1 with cad.pOverrun := bump32 s1.cad.pOverrun g.part } 3).modGraph h (fun q => { q with intervalOk := false })
      else if staleStream s h a then
        let s2 := cadEvent { s1 with cad.pStale := bump32 s1.cad.pStale g.part } 6
        (fallbackRelease s2 h a).modGraph h (fun q => { q with intervalOk := false })
      else
        releaseRun s1 h { cadence := true, a := BitVec.ofNat 64 a, tag := g.tag, opcode := 0x0404, ring := g.ring, notify := g.notify
                          standing := true, index := g.nextK }

/-- Every standing graph of a partition stopped: no further release (R404, R411). -/
def stopStanding (s : State) (p : Nat) : State :=
  let cores := (s.graphs.filter (fun e => e.2.part == p && e.2.started)).flatMap (fun e => graphCores e.2)
  idleStamp { s with graphs := s.graphs.map (fun e => if e.2.part = p then (e.1, { e.2 with started := false, e0 := none }) else e) } cores

end Sys2Proof.Machine
end

