-- ==== Sys2Proof/Machine/Params.lean ====
section
/-! DEFINITION. Parameter blocks of engine tasks (R112 to R147): fields, shapes, tiles and their cycles, T0 regions, and reads of operand objects (R683). -/

namespace Sys2Proof.Machine

/-! ### Fields -/

/-- A parameter-block field. -/
def pbf (t : Task) (off n : Nat) : Nat := field t.param off n
/-- The operation code (R112). -/
def opOf (t : Task) : Nat := pbf t 0 1
/-- FMT of an operand format byte (R45). -/
def fmtOf (b : Nat) : Nat := b % 16
/-- SCALE of an operand format byte. -/
def scaleOf (b : Nat) : Nat := b / 16 % 4
/-- SPARSE of an operand format byte. -/
def sparseOf (b : Nat) : Bool := nbit b 6
/-- An output control byte (R46). -/
def outCtlOf (b : Nat) : OutCtl := ⟨nbit b 0, nbit b 1⟩
/-- The operand entry that serves a T0 field (R162). -/
def entryOf (t : Task) (slot : Nat) : Option Operand := t.operands.find? (fun o => o.slot == slot)
/-- The address of a row of an object: STRIDE, or the packed length where it is 0 (R683). -/
def rowAddr (o : Operand) (len r : Nat) : Nat := o.addr + r * (if o.stride = 0 then len else o.stride)

/-! ### Elementwise functions (R139) -/

/-- The value of a function of R139 on one input: NaN gives NaN, the special values of the table hold, and the remaining bits are those of the reference evaluation (notes/assumptions/12). -/
def f32fn (func : Nat) (x : W32) : W32 :=
  let pinf : W32 := 0x7F800000
  let ninf : W32 := 0xFF800000
  if isNan32 x then nan32
  else match func with
  | 0x10 => if x = ninf then 0 else if f32lt 0x42B17212 x then pinf else Config.elemFn 0x10 x
  | 0x11 => if x = pinf then pinf else if x = ninf then 0x80000000 else Config.elemFn 0x11 x
  | 0x12 => if x = pinf then pinf else if x = ninf then 0x80000000 else Config.elemFn 0x12 x
  | 0x13 => if x = pinf then 0x3F800000 else if x = ninf then 0 else Config.elemFn 0x13 x
  | 0x14 => if x = 0 then pinf else if x = 0x80000000 then ninf else if x.msb then nan32
            else if x = pinf then 0 else Config.elemFn 0x14 x
  | 0x15 => if x = 0 then pinf else if x = 0x80000000 then ninf else if x = pinf then 0 else if x = ninf then 0x80000000
            else Config.elemFn 0x15 x
  | 0x16 => if x.msb then 0 else x
  | 0x07 => f32abs x
  | 0x08 => f32neg x
  | _ => x

/-- The EPI function of R114. -/
def epiFn (e : Nat) (x : W32) : W32 :=
  match e with
  | 1 => f32fn 0x16 x
  | 2 => f32fn 0x11 x
  | 3 => f32fn 0x12 x
  | 4 => f32fn 0x13 x
  | _ => x

/-- One level of the pairwise tree: lane 2i with lane 2i + 1. -/
def pairSum : List W32 → List W32
  | a :: b :: r => f32add a b :: pairSum r
  | l => l

/-- The 128 lanes of R141 after a run of elements that starts at lane 0: each lane adds its elements in order. -/
def laneAdd (lanes l : List W32) : List W32 :=
  lanes.zipIdx.map (fun a =>
    (List.range (ceilDiv (l.length - a.2) 128)).foldl (fun v i => f32add v (l.getD (a.2 + 128 * i) 0)) a.1)
/-- The lanes before any element: +0 each. -/
def lanes0 : List W32 := List.replicate 128 0
/-- The 7-level tree over the lanes. -/
def laneTree (lanes : List W32) : W32 := ((List.range 7).foldl (fun ls _ => pairSum ls) lanes).headD 0
/-- The row sum of R141: 128 lanes, each from +0 over its elements in order, then the 7-level tree. -/
def laneSum (l : List W32) : W32 := laneTree (laneAdd lanes0 l)

/-! ### Shapes of matrix tasks (R114, R115, R124, R125) -/

/-- The shape and formats of a MATMUL, CONV or CONV_DW. -/
structure MatShape where
  m : Nat
  n : Nat
  k : Nat
  fa : Nat
  sa : Nat
  fw : Nat
  sw : Nat
  sparse : Bool
  fo : Nat
  so : Nat
  oc : OutCtl
  epi : Nat
  flags : Nat
  deriving DecidableEq, Repr

/-- The window of a convolution (R124, R125). -/
structure ConvDims where
  h : Nat
  w : Nat
  cin : Nat
  kh : Nat
  kw : Nat
  sv : Nat
  sh : Nat
  dv : Nat
  dh : Nat
  top : Nat
  bottom : Nat
  left : Nat
  right : Nat
  deriving DecidableEq, Repr

/-- The convolution fields of a task. -/
def convDims (t : Task) : ConvDims :=
  let st := pbf t 36 1
  let di := pbf t 37 1
  let pd := pbf t 38 2
  { h := pbf t 8 2, w := pbf t 10 2, cin := pbf t 16 2, kh := pbf t 18 1, kw := pbf t 19 1
    sv := st % 16, sh := st / 16, dv := di % 16, dh := di / 16
    top := pd % 16, bottom := pd / 16 % 16, left := pd / 256 % 16, right := pd / 4096 }

/-- One output dimension of R125; 0 where the window does not fit. -/
def convOut (size before after dil kern stride : Nat) : Nat :=
  if size + before + after < dil * (kern - 1) + 1 then 0 else (size + before + after - dil * (kern - 1) - 1) / stride + 1
/-- OH. -/
def convOH (d : ConvDims) : Nat := convOut d.h d.top d.bottom d.dv d.kh d.sv
/-- OW. -/
def convOW (d : ConvDims) : Nat := convOut d.w d.left d.right d.dh d.kw d.sh

/-- The shape of a matrix-layout task. K of CONV is rounded up to a multiple of 32; CONV_DW has KH × KW weights per channel. -/
def matShape (t : Task) : MatShape :=
  let a := pbf t 1 1
  let w := pbf t 2 1
  let o := pbf t 3 1
  let d := convDims t
  let op := opOf t
  { m := if op = 1 then pbf t 8 4 else convOH d * convOW d
    n := pbf t 12 4
    k := if op = 1 then pbf t 16 4 else if op = 2 then ceilDiv (d.kh * d.kw * d.cin) 32 * 32 else d.kh * d.kw
    fa := fmtOf a, sa := scaleOf a, fw := fmtOf w, sw := scaleOf w, sparse := sparseOf w
    fo := fmtOf o, so := scaleOf o, oc := outCtlOf (pbf t 4 1), epi := pbf t 5 1 % 16, flags := pbf t 6 2 }

/-- The pair's rate (R59). -/
def matRate (sh : MatShape) : Nat := (pairRate sh.fw sh.fa sh.sparse).getD 1024
/-- k_tile (R116). -/
def kTile (sh : MatShape) : Nat := if (pairRate sh.fw sh.fa sh.sparse).isSome then matRate sh / 16 else 64
/-- Blocks of M, blocks of N and K tiles (R115). -/
def mBlocks (sh : MatShape) : Nat := ceilDiv sh.m 64
def nBlocks (sh : MatShape) : Nat := ceilDiv sh.n 64
def kTiles (sh : MatShape) : Nat := ceilDiv sh.k (kTile sh)
/-- The size of part `i` of a dimension cut into parts of `size`. -/
def partLen (total size i : Nat) : Nat := min size (total - i * size)
/-- Whether an integer pair carries no block scale, so that its accumulator is an integer. -/
def intAcc (sh : MatShape) : Bool := intPair sh.fa && sh.sa == 0 && sh.sw == 0

/-! ### Tiles and cycles of attention (R128 to R134) -/

/-- The unmasked key blocks and the finishing of a query block without any, in running order (R131). -/
def attnSteps (t : Task) : List (Nat × Option Nat) :=
  let mask := pbf t 6 1
  let lq := pbf t 12 4
  let lk := pbf t 16 4
  let q0 := pbf t 20 4
  let k0 := pbf t 24 4
  let win := pbf t 28 4
  (List.range (ceilDiv lq 64)).flatMap (fun qb =>
    let q1 := q0 + 64 * qb
    let q2 := q0 + min (64 * qb + 63) (lq - 1)
    let ks := (List.range (ceilDiv lk 64)).filter (fun kb =>
      let k1 := k0 + 64 * kb
      let k2 := k0 + min (64 * kb + 63) (lk - 1)
      mask == 0 || (decide (k1 ≤ q2) && (mask == 1 || decide (q1 < k2 + win))))
    if ks = [] then [(qb, none)] else ks.map (fun kb => (qb, some kb)))

/-- P's format (R129). -/
def pFormat (fv : Nat) : Nat := if fv = 8 ∨ fv = 9 then 8 else fv
/-- The lower of the two pair rates (R134). -/
def attnRate (t : Task) : Nat :=
  let fv := fmtOf (pbf t 3 1)
  min ((pairRate (fmtOf (pbf t 2 1)) (fmtOf (pbf t 1 1)) false).getD 1024) ((pairRate fv (pFormat fv) false).getD 1024)

/-! ### Tiles and cycles of vector tasks (R127, R137, R138, R687) -/

/-- Input elements of one row of a vector task for R137. -/
def vecRowElems (t : Task) : Nat :=
  let h := pbf t 12 4
  match opOf t with
  | 0x11 => pbf t 16 4 * h
  | 0x31 => pbf t 16 4 * h
  | 0x03 => (convDims t).cin
  | _ => h
/-- Rows of a vector task. -/
def vecRows (t : Task) : Nat := if opOf t = 3 then (matShape t).m else pbf t 8 4
/-- Whether REDUCE or TOPK streams its rows in chunks. -/
def vecChunked (t : Task) : Bool := (opOf t == 0x51 || opOf t == 0x52) && decide (16384 < pbf t 12 4)
/-- Rows per tile. -/
def vecRpt (t : Task) : Nat := max 1 (16384 / max 1 (vecRowElems t))
/-- Tiles of a vector task (R137). -/
def vecTiles (t : Task) : Nat :=
  let h := pbf t 12 4
  if opOf t = 0x50 then ceilDiv (vecRows t * h) 16384
  else if vecChunked t then vecRows t * ceilDiv h 16384
  else ceilDiv (vecRows t) (vecRpt t)
/-- Input elements of tile `j`. -/
def vecElems (t : Task) (j : Nat) : Nat :=
  let h := pbf t 12 4
  if opOf t = 0x50 then partLen (vecRows t * h) 16384 j
  else if vecChunked t then partLen h 16384 (j % ceilDiv h 16384)
  else partLen (vecRows t) (vecRpt t) j * vecRowElems t
/-- The cycles of a vector task (R127, R138). -/
def vecCycles (t : Task) : Nat :=
  let r := vecRows t
  let h := pbf t 12 4
  let k := pbf t 16 4
  let c := ceilDiv h 128
  match opOf t with
  | 0x03 => let d := convDims t
            r * ceilDiv d.cin 128 * d.kh * d.kw
  | 0x50 => ceilDiv (r * h) 128 + 12
  | 0x51 => r * (c + 8)
  | 0x52 => r * (c * (1 + ceilDiv k 16) + 2 * k)
  | 0x20 => r * (2 * c + 12)
  | 0x21 => r * (3 * c + 20)
  | 0x22 => r * 2 * c + 16
  | 0x40 => (if scaleOf (pbf t 3 1) = 0 then 1 else 2) * ceilDiv (r * h) 128 + 16
  | 0x41 => ceilDiv (r * h) 128 + 16
  | 0x11 => r * (k * c + 2 * k + 8)
  | 0x30 => 3 * ceilDiv (r * h) 128 + r * k + h
  | _ => r * (k * c + 4)
/-- All input elements of a vector task. -/
def vecTotal (t : Task) : Nat := vecRows t * vecRowElems t
/-- The cycles of tile `j` of a vector task: its share, the last tile with the remainder (R687). -/
def vecTileCycles (t : Task) (j : Nat) : Nat :=
  let share (i : Nat) := vecCycles t * vecElems t i / max 1 (vecTotal t)
  if j + 1 = vecTiles t then vecCycles t - ((List.range j).map share).foldl (· + ·) 0 else share j

/-- The tiles of an engine task. -/
def taskTiles (t : Task) : Nat :=
  match t.kind with
  | .matrix => let sh := matShape t
               nBlocks sh * mBlocks sh * kTiles sh
  | .attention => (attnSteps t).length
  | _ => vecTiles t

/-- The cycles of tile `i` (R117, R134, R687); 0 for the finishing of a query block that has no tile. -/
def tileCycles (t : Task) (i : Nat) : Nat :=
  match t.kind with
  | .matrix =>
    let sh := matShape t
    max 16 (ceilDiv (partLen sh.k (kTile sh) (i % kTiles sh) * 4096) (matRate sh))
  | .attention =>
    match (attnSteps t).getD i (0, none) with
    | (_, none) => 0
    | _ => let d := pbf t 8 2
           max (ceilDiv (8192 * d) (attnRate t)) (160 + d / 2)
  | _ => vecTileCycles t i

/-- The tile units of tile `i` (R105). -/
def tileUnits (t : Task) (i : Nat) : Nat :=
  match t.kind, (attnSteps t).getD i (0, none) with
  | .attention, (_, none) => 0
  | _, _ => max 1 (ceilDiv (tileCycles t i) 256)

/-! ### T0 regions (R109, R121, R135, R137) -/

/-- A T0 region a task uses: its field's offset, bytes per buffer, buffers, whether it is an output, and whether it takes an operand entry (R163). -/
structure Region0 where
  slot : Nat
  bytes : Nat
  bufs : Nat
  output : Bool
  entry : Bool
  deriving DecidableEq, Repr

/-- A region kept when its condition holds. -/
def regIf (c : Bool) (r : Region0) : List Region0 := if c then [r] else []

/-- Whether the T0_W entry of a task has WEIGHT set. -/
def weightObj (t : Task) : Bool := match entryOf t 22 with | some o => o.weight | none => false

/-- The regions of a matrix-layout task (R121, R124); of the entries that R163 asks for, only those of T0_A under GATHER_A or a convolution and of T0_META and T0_SW beside a WEIGHT object are left out. CONV_DW, whose tiles are those of R137, keeps one kernel position of its rows in T0_A and all its weights in T0_W (DESIGN CHOICE, notes/assumptions/27). -/
def matRegions (t : Task) : List Region0 :=
  let sh := matShape t
  let op := opOf t
  let m := min 64 sh.m
  let n := min 64 sh.n
  let k := if op = 3 then sh.k else min (kTile sh) sh.k
  let ba := fmtBits sh.fa
  let bw := fmtBits sh.fw
  let bo := fmtBits sh.fo
  let fl (i : Nat) : Bool := nbit sh.flags i
  let ak := if op = 3 then min sh.m (vecRpt t) * (convDims t).cin else m * k
  let mo := if op = 3 then min sh.m (vecRpt t) * sh.n else m * n
  let wn := if op = 3 then sh.n else n
  [ { slot := 20, bytes := ceilDiv (ak * ba) 8, bufs := 2, output := false, entry := op == 1 && !fl 1 }
  , { slot := 22, bytes := ceilDiv (k * wn * bw) (if sh.sparse then 16 else 8), bufs := 2, output := false, entry := true } ]
  ++ regIf sh.sparse { slot := 24, bytes := ceilDiv (k * wn) 8, bufs := 2, output := false, entry := !weightObj t }
  ++ regIf (sh.sa != 0) { slot := 26, bytes := ak / max 1 (scaleSize sh.sa), bufs := 2, output := false, entry := true }
  ++ regIf (sh.sw != 0) { slot := 28, bytes := k * wn / max 1 (scaleSize sh.sw), bufs := 2, output := false, entry := !weightObj t }
  ++ [ { slot := 30, bytes := ceilDiv (mo * bo) 8 + (if sh.so = 0 then 0 else mo / scaleSize sh.so), bufs := 2, output := true, entry := true } ]
  ++ regIf (fl 3) { slot := 32, bytes := sh.n * 4, bufs := 1, output := false, entry := true }
  ++ regIf (fl 4) { slot := 34, bytes := sh.n * 4, bufs := 1, output := false, entry := true }
  ++ regIf (op == 1 && fl 0) { slot := 36, bytes := m * n * 4, bufs := 2, output := false, entry := true }
  ++ regIf (op == 1 && (fl 1 || fl 2)) { slot := 38, bytes := sh.m * 4, bufs := 1, output := false, entry := true }
  ++ regIf (op == 1 && fl 2) { slot := 40, bytes := pbf t 60 4 * pbf t 42 1 * 8, bufs := 1, output := false, entry := true }

/-- The regions of an attention task (R135).
DESIGN CHOICE (notes/assumptions/70): the scales of Q, K and the output have two buffers like their elements. -/
def attnRegions (t : Task) : List Region0 :=
  let d := pbf t 8 2
  let q := pbf t 1 1
  let k := pbf t 2 1
  let v := pbf t 3 1
  let o := pbf t 4 1
  [ { slot := 36, bytes := 64 * d * fmtBits (fmtOf q) / 8, bufs := 2, output := false, entry := true }
  , { slot := 38, bytes := 64 * d * fmtBits (fmtOf k) / 8, bufs := 2, output := false, entry := true }
  , { slot := 40, bytes := 64 * d * fmtBits (fmtOf v) / 8, bufs := 2, output := false, entry := true }
  , { slot := 42, bytes := 64 * d * fmtBits (fmtOf o) / 8 + (if scaleOf o = 0 then 0 else 64 * d / scaleSize (scaleOf o)), bufs := 2, output := true, entry := true }
  , { slot := 50, bytes := 64 * d * 4 + 512, bufs := 1, output := false, entry := false } ]
  ++ regIf (nbit (pbf t 7 1) 0) { slot := 44, bytes := 512, bufs := 2, output := true, entry := true }
  ++ regIf (scaleOf q != 0) { slot := 46, bytes := 64 * d / max 1 (scaleSize (scaleOf q)), bufs := 2, output := false, entry := true }
  ++ regIf (scaleOf k != 0) { slot := 48, bytes := 64 * d / max 1 (scaleSize (scaleOf k)), bufs := 2, output := false, entry := true }

/-- Whether an ELEM function takes b. -/
def elemTakesB (f : Nat) : Bool := decide (1 ≤ f ∧ f ≤ 6)

/-- The regions of a vector task (R136 to R147, R686). -/
def vecRegions (t : Task) : List Region0 :=
  let op := opOf t
  let h := pbf t 12 4
  let rows := min (vecRpt t) (vecRows t)
  let k := pbf t 16 4
  let el := if op = 0x50 then min 16384 (vecRows t * h) else if vecChunked t then 16384 else rows * h
  let f0 := pbf t 1 1
  let b1 := fmtBits (fmtOf (pbf t 2 1))
  let fo := pbf t 3 1
  let fl := pbf t 6 2
  let packed (n w : Nat) := ceilDiv (n * w) 8
  let inp (slot bytes bufs : Nat) : Region0 := { slot := slot, bytes := bytes, bufs := bufs, output := false, entry := true }
  let out (slot bytes bufs : Nat) : Region0 := { slot := slot, bytes := bytes, bufs := bufs, output := true, entry := true }
  let in0 := [inp 32 (if op = 0x31 then rows * k * 8 else if op = 0x11 then rows * k * h * 4 else packed el (fmtBits (fmtOf f0))) 2]
    ++ regIf (scaleOf f0 != 0) (inp 44 (el / max 1 (scaleSize (scaleOf f0))) 2)
  let std := [out 38 (packed el (fmtBits (fmtOf fo))) 2]
    ++ regIf (scaleOf fo != 0) (out 46 (el / max 1 (scaleSize (scaleOf fo))) 2)
  match op with
  | 0x50 =>
    let func := pbf t 5 1
    in0 ++ regIf (elemTakesB func && !nbit fl 0) (if nbit fl 1 then inp 34 (packed h b1) 1 else inp 34 (packed el b1) 2)
      ++ regIf (func == 4) (inp 36 (packed el b1) 2) ++ std
  | 0x51 => in0 ++ [out 38 (rows * 4) 2]
  | 0x52 => in0 ++ [out 38 (rows * k * 4) 2, out 40 (rows * k * 4) 2]
  | 0x20 => in0 ++ [inp 34 (packed h b1) 1] ++ std
  | 0x21 => in0 ++ [inp 34 (packed h b1) 1, inp 36 (packed h b1) 1] ++ std
  | 0x22 => in0 ++ [inp 34 (pbf t 24 4 * (h / 2) * 8) 1] ++ regIf (nbit fl 0) (inp 36 (rows * 4) 2) ++ std
  | 0x11 => in0 ++ [inp 34 (k * rows * 8) 2] ++ std
  | 0x30 => in0 ++ [out 38 (rows * k * 8) 2, out 40 (h * pbf t 20 4 * 4) 1, out 42 ((h + 1) * 4) 1]
  | 0x31 => in0 ++ [inp 34 (rows * k * h * 4) 2] ++ std
  | _ => in0 ++ std

/-- The T0 regions that an engine task uses. -/
def taskRegions (t : Task) : List Region0 :=
  match t.kind with
  | .attention => attnRegions t
  | .matrix => matRegions t
  | .vector => if opOf t = 3 then matRegions t else vecRegions t
  | _ => []

/-- The lines of a region from its field's first line: buffer 1 follows buffer 0 directly, and the region as a whole is rounded up to lines (R121). -/
def regionLines (t : Task) (r : Region0) : Nat × Nat :=
  (pbf t r.slot 2 % 8192, ceilDiv (r.bytes * r.bufs) 64)
/-- Whether two runs of lines overlap. -/
def linesMeet (a b : Nat × Nat) : Bool := decide (a.1 < b.1 + b.2 ∧ b.1 < a.1 + a.2)
/-- Whether two tasks' regions overlap (R110). -/
def regionsMeet (t u : Task) : Bool :=
  (taskRegions t).any (fun a => (taskRegions u).any (fun b => linesMeet (regionLines t a) (regionLines u b)))

/-! ### T0 (R107, R108, R121) -/

/-- The region that a T0 field of a task names. -/
def regionOf (t : Task) (slot : Nat) : Option Region0 := (taskRegions t).find? (fun r => r.slot == slot)
/-- The T0 address of the buffer that part `i` of a region's uses takes: the buffers are taken in turn. -/
def t0Addr (t : Task) (slot i : Nat) : Nat :=
  match regionOf t slot with
  | some r => pbf t slot 2 % 8192 * 64 + i % r.bufs * r.bytes
  | none => 0
/-- Bytes of a region's buffer from an offset in it. -/
def t0Get (m : Mem) (t : Task) (slot i off n : Nat) : List Byte :=
  let a := t0Addr t slot i + off
  mrun n (m.dropWhile (fun c => decide (c.1 < a))) a
/-- Bytes put at the start of a region's buffer, as many as the buffer holds; a field the task does not use takes none. -/
def t0Put (m : Mem) (t : Task) (slot i : Nat) (bs : List Byte) : Mem :=
  match regionOf t slot with
  | some r => mplace m (t0Addr t slot i) (bs.take r.bytes)
  | none => m

/-- Rows of `k` packed elements of `w` bits as a T0 buffer holds them, one row directly after another (R121): where a row ends inside a byte, the next begins there. -/
def packRows (w k : Nat) (rows : List (List Byte)) : List Byte :=
  if k * w % 8 = 0 then rows.flatMap id
  else packElems w (rows.flatMap (fun r => (List.range k).map (getElem w r)))

/-- Row `r` of a T0 buffer of rows of `k` elements with their scales: element codes of format `f` in `bs`, `k` over the block size scale bytes a row in `ss`. -/
def t0Row (f sc k : Nat) (bs ss : List Byte) (r : Nat) : List (Noted FVal × Noted FVal) :=
  let g := scaleSize sc
  (List.range k).map (fun j =>
    (decodeElem f (getElem (fmtBits f) bs (r * k + j)),
     if g = 0 then plain (.fin false 1 0) else decodeScale sc (ss.getD (r * (k / g) + j / g) 0).toNat))

/-- An FP32 value written as such, with its notes (R76, R77). -/
def f32note (v : W32) : Noted Nat := narrow 0xC ⟨false, false⟩ 0 (f32val v)

/-- FP32 words of bytes. -/
def wordsF32 (bs : List Byte) (n : Nat) : List W32 := (List.range n).map (fun i => BitVec.ofNat 32 (field bs (4 * i) 4))
/-- Bytes of FP32 words. -/
def bytesF32 (l : List W32) : List Byte := l.flatMap (fun v => leBytes 4 v.toNat)

/-! ### Reading operand objects -/

/-- Bytes of an operand object at an offset, of the decompressed object where the entry is Eraely (R185, R286). `objs` holds the objects that a tensor transfer has decompressed into T1, by their field; a tile transfer decompresses the blocks that cover the bytes. The error is the number of blocks that failed their check. -/
def objRead (s : State) (p : Nat) (objs : List (Nat × List Byte)) (o : Operand) (off n : Nat) : Except Nat (List Byte) :=
  if o.eraely then
    match objs.find? (fun e => e.1 == o.slot) with
    | some e => .ok (slice e.2 off n)
    | none => eraelyPart (devRead s p o.addr o.len) off n
  else .ok (devRead s p (o.addr + off) n)

/-- A run of bytes that the tile mover delivers for a T0 field: from an address of the partition's device range, or a fill byte where nothing is read. -/
structure TRun where
  slot : Nat
  addr : Option Nat
  len  : Nat
  fill : Byte := 0
  deriving DecidableEq, Repr

/-- The runs of rows `r0` to `r0 + n − 1` of the object that a field's entry names: `part` bytes from byte `skip` of each row of `len` bytes. -/
def rowRuns (t : Task) (slot len r0 n skip part : Nat) : List TRun :=
  match entryOf t slot with
  | some o => (List.range n).map (fun r => ⟨slot, some (rowAddr o len (r0 + r) + skip), part, 0⟩)
  | none => []
/-- A run's bytes. -/
def runBytes (s : State) (p : Nat) (r : TRun) : List Byte :=
  match r.addr with
  | some a => devRead s p a r.len
  | none => List.replicate r.len r.fill
/-- The bytes of the runs of one field, run by run. -/
def slotRows (s : State) (p : Nat) (runs : List TRun) (slot : Nat) : List (List Byte) :=
  (runs.filter (fun r => r.slot == slot)).map (runBytes s p)
/-- The rows of `k` elements of `w` bits that runs deliver for a field, put into its buffer `i`; a field without runs is left as it is. -/
def stageRows (s : State) (p : Nat) (t : Task) (runs : List TRun) (slot i w k : Nat) (m : Mem) : Mem :=
  match slotRows s p runs slot with
  | [] => m
  | rows => t0Put m t slot i (packRows w k rows)

/-! ### Writing rows -/

/-- What a tile writes: the hint's entry (255 for a scatter), an address and bytes. -/
abbrev TileWrites := List (Nat × Nat × List Byte)

/-- A row of values written in a format: packed elements and, where block-scaled, the scale bytes (R72 to R83). `rnd j` gives the random bits of element j. -/
def outRow (f sc : Nat) (oc : OutCtl) (rnd : Nat → Nat) (vals : List FVal) : Noted (List Byte × List Byte) :=
  let g := scaleSize sc
  if g = 0 then
    let es := noteAll (vals.zipIdx.map (fun p => narrow f oc (rnd p.2) p.1))
    ((packElems (fmtBits f) es.1, []), es.2)
  else
    let blocks := noteAll ((chunks g (vals.length + 1) vals.zipIdx).map (fun blk =>
      narrowBlock f sc oc (blk.map (fun p => rnd p.2)) (blk.map (fun p => f32round p.1))))
    ((packElems (fmtBits f) (blocks.1.flatMap (·.1)), blocks.1.map (fun b => BitVec.ofNat 8 b.2)), blocks.2)

/-- A write of a task's bytes, block by block, each block placed as the entry's hint or its own directs; ONCE on a ZERO block acts as NORMAL (R252, R259). -/
def taskWriteAux (c p hint : Nat) : List Nat → Nat → List Byte → State → WriteRes × State
  | [], _, _, s => (.ok, s)
  | b :: rest, addr, bs, s =>
    let n := min bs.length ((b + 1) * blockBytes - addr)
    let blk := s.block p b
    let d := match hintDest hint blk.hint (some c) with
      | none => if blk.state = .zero then some (some c) else none
      | d => d
    match writeBlock (btcTouch s c p b) p b (addr - b * blockBytes) (bs.take n) d false with
    | (.ok, s1) => taskWriteAux c p hint rest (addr + n) (bs.drop n) s1
    | r => r
/-- A write of a task's bytes. -/
def taskWrite (s : State) (c p hint addr : Nat) (bs : List Byte) : WriteRes × State :=
  taskWriteAux c p hint (blocksOf addr bs.length) addr bs s

/-- The writes of a tile in order; the first that is not taken ends the task (R254, R271): ABORTED for an unmapped or refused address, INTEGRITY_FAILED for a poisoned block. -/
def writeAll (c p : Nat) : TileWrites → State → Option W16 × State
  | [], s => (none, s)
  | (hint, addr, bs) :: r, s =>
    match taskWrite s c p hint addr bs with
    | (.ok, s1) => writeAll c p r s1
    | (.poisoned, s1) => (some stIntegrity, s1)
    | (_, s1) => (some stAborted, s1)

/-- What a tile gives: the accumulators it carries on, the running state of a chunked row (R137), what it leaves in T0, what drains to device memory, its notes, and the status of a task that it ends. -/
structure TileOut where
  acc : List Acc := []
  rowM : List W32 := []
  rowL : List W32 := []
  rowO : List W32 := []
  t0w : List (Nat × Nat × List Byte) := []
  writes : TileWrites := []
  notes : Byte := 0
  fail : Option W16 := none
  deriving DecidableEq, Repr

end Sys2Proof.Machine
end

