-- ==== Sys2Proof/Machine/Matrix.lean ====
section
/-! DEFINITION. Tiles of MATMUL, CONV and CONV_DW: operands, accumulation, epilogue and output (R114 to R127, R272). -/

namespace Sys2Proof.Machine

/-! ### Weight tiles (R149, R272) -/

/-- Values, metadata and scales of a weight tile as T0 receives them. -/
structure WTile where
  vals : List Byte
  md : List Byte
  sc : List Byte
  deriving DecidableEq, Repr

/-- Stored values of a row of `k` elements of K: half of them where the weight is 2:4 sparse (R86). -/
def wVals (sh : MatShape) (k : Nat) : Nat := if sh.sparse then k / 2 else k
/-- Packed bytes of one row of a weight tile of `k` elements in an object: values, metadata and scales, each row on a byte of its own. -/
def wRowLens (sh : MatShape) (k : Nat) : Nat × Nat × Nat :=
  (rowLen (fmtBits sh.fw) (wVals sh k), if sh.sparse then rowLen 4 (k / 4) else 0,
   if sh.sw = 0 then 0 else k / scaleSize sh.sw)

/-- A length rounded up to a multiple. -/
def alignUp (a n : Nat) : Nat := ceilDiv n a * a

/-- The bytes of a weight tile in the engine-ready layout: each part on 64 bytes, the whole on 512 (R272). -/
def wTileBytes (sh : MatShape) (n k : Nat) : Nat :=
  let l := wRowLens sh k
  alignUp 512 (alignUp 64 (n * l.1) + alignUp 64 (n * l.2.1) + n * l.2.2)

/-- Columns of N in one weight tile and its elements of K; CONV_DW keeps 64 channels and its whole window together. -/
def wN (sh : MatShape) (nb : Nat) : Nat := partLen sh.n 64 nb
/-- Elements of K of a weight tile. -/
def wK (sh : MatShape) (kt : Nat) : Nat := partLen sh.k (kTile sh) kt

/-- The offset of weight tile (nb, kt) in its object: N block after N block, and within one, K tile after K tile. -/
def wTileOff (sh : MatShape) (nb kt : Nat) : Nat :=
  let full := ((List.range (kTiles sh)).map (fun j => wTileBytes sh 64 (wK sh j))).foldl (· + ·) 0
  nb * full + ((List.range kt).map (fun j => wTileBytes sh (wN sh nb) (wK sh j))).foldl (· + ·) 0

/-- The rows of `len` bytes of a run of bytes. -/
def rowsOfLen (bs : List Byte) (n len : Nat) : List (List Byte) := (List.range n).map (fun r => slice bs (r * len) len)

/-- The T0 parts of a weight tile from the rows of its object. -/
def wTileOf (sh : MatShape) (k : Nat) (vals md : List (List Byte)) (sc : List Byte) : WTile :=
  ⟨packRows (fmtBits sh.fw) (wVals sh k) vals, if sh.sparse then packRows 4 (k / 4) md else [], if sh.sw = 0 then [] else sc⟩

/-- Weight tile (nb, kt) from its engine-ready object: the padding is not delivered (R149, R272). -/
def weightTile (s : State) (p : Nat) (objs : List (Nat × List Byte)) (o : Operand) (sh : MatShape) (nb kt : Nat) : Except Nat WTile :=
  let n := wN sh nb
  let k := wK sh kt
  let l := wRowLens sh k
  (objRead s p objs o (wTileOff sh nb kt) (wTileBytes sh n k)).map (fun bs =>
    let a := alignUp 64 (n * l.1)
    let b := alignUp 64 (n * l.2.1)
    wTileOf sh k (rowsOfLen bs n l.1) (rowsOfLen (bs.drop a) n l.2.1) (slice bs (a + b) (n * l.2.2)))

/-- The weight tiles, N block and K tile, that tile `i` of a task receives from an engine-ready object: one for each tile of a MATMUL or CONV, all of them with the first tile of a CONV_DW. -/
def tileParts (t : Task) (i : Nat) : List (Nat × Nat) :=
  let sh := matShape t
  if !weightObj t then []
  else if opOf t = 3 then
    if i = 0 then (List.range (nBlocks sh)).flatMap (fun nb => (List.range (kTiles sh)).map (fun kt => (nb, kt))) else []
  else [(i / kTiles sh / mBlocks sh, i % kTiles sh)]

/-- The weight tiles that tile `i` receives; the error is the number of Eraely blocks that failed. -/
def tileWeights (s : State) (p : Nat) (objs : List (Nat × List Byte)) (t : Task) (i : Nat) : Except Nat (List WTile) :=
  match entryOf t 22 with
  | none => .ok []
  | some o =>
    let rs := (tileParts t i).map (fun x => weightTile s p objs o (matShape t) x.1 x.2)
    let bad := rs.filterMap (fun r => match r with | .error n => some n | .ok _ => none)
    if bad = [] then .ok (rs.filterMap (fun r => match r with | .ok w => some w | .error _ => none))
    else .error (bad.foldl (· + ·) 0)

/-- The bytes that the checksum of a weight tile covers (R149). -/
def wTileSum (w : WTile) : W64 := crc64 (w.vals ++ w.md ++ w.sc)

/-- Row `r` of a T0 buffer of weights of `k` elements of K: its dense elements with their scales (R86 to R88). -/
def wRow (sh : MatShape) (k : Nat) (w : WTile) (r : Nat) : List (Noted FVal × Noted FVal) :=
  let bits := fmtBits sh.fw
  let g := scaleSize sh.sw
  let nv := wVals sh k
  let val (j : Nat) : Noted FVal := decodeElem sh.fw (getElem bits w.vals (r * nv + j))
  (List.range k).map (fun j =>
    let v : Noted FVal :=
      if sh.sparse then
        match metaPos (getElem 4 w.md (r * (k / 4) + j / 4)) with
        | none => (.fin false 0 0, noteMetaBad)
        | some (a, b) =>
          if j % 4 = a then val (2 * (j / 4))
          else if j % 4 = b then val (2 * (j / 4) + 1)
          else plain (.fin false 0 0)
      else val j
    (v, if g = 0 then plain (.fin false 1 0) else decodeScale sh.sw (w.sc.getD (r * (k / g) + j / g) 0).toNat))

/-! ### What the tile mover delivers for a tile (R122, R125, R126, R183) -/

/-- A routing-list entry (R145) of the list in T0_LIST: token, slot and VALID. -/
def listEntry (m : Mem) (t : Task) (r : Nat) : Nat × Nat × Bool :=
  let v := leNat (t0Get m t 38 0 (4 * r) 4)
  (v % 65536, v / 65536 % 8, nbit v 31)

/-- The gather source or scatter destination (R114). -/
def rowBase (t : Task) : Nat := pbf t 44 6

/-- The scale byte of 1.0 (R126). -/
def oneScale (code : Nat) : Byte := if code = 2 then 0x38 else 0x7F

/-- The tables of a matrix task: bias, channel factors, routing list and GATE entries. -/
def matTables (t : Task) : List TRun :=
  let sh := matShape t
  rowRuns t 32 0 0 1 0 (4 * sh.n) ++ rowRuns t 34 0 0 1 0 (4 * sh.n) ++ rowRuns t 38 0 0 1 0 (4 * sh.m)
    ++ rowRuns t 40 (8 * pbf t 42 1) 0 (pbf t 60 4) 0 (8 * pbf t 42 1)

/-- The runs of the A rows of tile `i` of a MATMUL: rows of its object, or gathered rows, each followed by its scales (R122). -/
def aRuns (m : Mem) (t : Task) (i : Nat) : List TRun :=
  let sh := matShape t
  let kt := i % kTiles sh
  let mb := i / kTiles sh % mBlocks sh
  let n := partLen sh.m 64 mb
  let w := fmtBits sh.fa
  let k := wK sh kt
  let skip := kt * kTile sh * w / 8
  let len := rowLen w sh.k
  let g := scaleSize sh.sa
  if nbit sh.flags 1 then
    (List.range n).flatMap (fun r =>
      let e := listEntry m t (mb * 64 + r)
      let base := rowBase t + e.1 * pbf t 52 4
      let at_ (a : Nat) : Option Nat := if e.2.2 then some a else none
      ⟨20, at_ (base + skip), rowLen w k, 0⟩
        :: (if g = 0 then [] else [⟨26, at_ (base + len + kt * kTile sh / g), k / g, oneScale sh.sa⟩]))
  else
    rowRuns t 20 len (mb * 64) n skip (rowLen w k)
      ++ (if g = 0 then [] else rowRuns t 26 (sh.k / g) (mb * 64) n (kt * kTile sh / g) (k / g))

/-- The pixel of a convolution's input map under element `i` of an expanded window row, and the element's channel; none for padding (R125). -/
def convPixel (d : ConvDims) (row i : Nat) : Option (Nat × Nat) :=
  let oy := row / convOW d
  let ox := row % convOW d
  let ci := i % d.cin
  let kx := i / d.cin % d.kw
  let ky := i / d.cin / d.kw
  let y := oy * d.sv + ky * d.dv
  let x := ox * d.sh + kx * d.dh
  if ky < d.kh ∧ d.top ≤ y ∧ y < d.top + d.h ∧ d.left ≤ x ∧ x < d.left + d.w then
    some ((y - d.top) * d.w + (x - d.left), ci)
  else none

/-- The bytes of the input map and of its scales that elements k0 to k0 + kn − 1 of an expanded row come from, pixel by pixel. -/
def convRuns (t : Task) (sh : MatShape) (row k0 kn : Nat) : List TRun :=
  let d := convDims t
  let w := fmtBits sh.fa
  let g := scaleSize sh.sa
  (List.range ((k0 + kn - 1) / d.cin + 1 - k0 / d.cin)).flatMap (fun j =>
    match convPixel d row ((k0 / d.cin + j) * d.cin) with
    | some (pix, _) =>
      ⟨20, some (rowBase t + pix * rowLen w d.cin), rowLen w d.cin, 0⟩ :: (if g = 0 then [] else rowRuns t 26 (d.cin / g) pix 1 0 (d.cin / g))
    | none => [])

/-- Element `i` of an expanded row: its code and its scale byte; zero with scale 1.0 for padding (R126). -/
def convElem (s : State) (p : Nat) (t : Task) (sh : MatShape) (row i : Nat) : Nat × Byte :=
  let d := convDims t
  let w := fmtBits sh.fa
  let g := scaleSize sh.sa
  match convPixel d row i with
  | some (pix, ci) =>
    let bs := devRead s p (rowBase t + pix * rowLen w d.cin + ci * w / 8) (w / 8 + 2)
    ((leNat bs >>> (ci * w % 8)) % 2 ^ w,
     if g = 0 then 0 else match entryOf t 26 with
       | some o => devByte s p (rowAddr o (d.cin / g) pix + ci / g)
       | none => oneScale sh.sa)
  | none => (0, oneScale sh.sa)

/-- The bytes that the tile mover reads for tile `i` of a MATMUL, CONV or CONV_DW, beside an engine-ready weight object; `m` is T0 with the tables in it. -/
def matRuns (m : Mem) (t : Task) (i : Nat) : List TRun :=
  let sh := matShape t
  let kt := i % kTiles sh
  let b := i / kTiles sh
  let nb := b / mBlocks sh
  let mb := b % mBlocks sh
  let n := partLen sh.m 64 mb
  let k := wK sh kt
  let full := wRowLens sh sh.k
  let before := wRowLens sh (kt * kTile sh)
  let part := wRowLens sh k
  let wpart (slot len skip n0 nn l : Nat) : List TRun := if l = 0 then [] else rowRuns t slot len n0 nn skip l
  if opOf t = 3 then
    (if i = 0 ∧ !weightObj t then
      wpart 22 full.1 0 0 sh.n full.1 ++ wpart 24 full.2.1 0 0 sh.n full.2.1 ++ wpart 28 full.2.2 0 0 sh.n full.2.2
     else [])
    ++ (List.range (partLen sh.m (vecRpt t) i)).flatMap (fun r => convRuns t sh (i * vecRpt t + r) 0 (sh.k * (convDims t).cin))
  else
    (if opOf t = 1 then aRuns m t i
     else (List.range n).flatMap (fun r => convRuns t sh (mb * 64 + r) (kt * kTile sh) k))
    ++ (if weightObj t then []
        else wpart 22 full.1 before.1 (nb * 64) (wN sh nb) part.1 ++ wpart 24 full.2.1 before.2.1 (nb * 64) (wN sh nb) part.2.1
          ++ wpart 28 full.2.2 before.2.2 (nb * 64) (wN sh nb) part.2.2)
    ++ (if kt = 0 ∧ nbit sh.flags 0 then rowRuns t 36 (4 * sh.n) (mb * 64) n (nb * 256) (4 * wN sh nb) else [])

/-- The weight tiles of a CONV_DW joined into rows of one channel each. -/
def dwJoin (sh : MatShape) (ws : List WTile) : WTile :=
  let parts := (List.range (nBlocks sh)).flatMap (fun nb => (List.range (kTiles sh)).map (fun kt => (nb, kt)))
  let at_ (nb kt : Nat) : WTile := ((parts.zip ws).find? (fun x => x.1 == (nb, kt))).elim ⟨[], [], []⟩ (·.2)
  let codes (w : Nat) (len : Nat → Nat) (get : WTile → List Byte) : List Nat :=
    (List.range sh.n).flatMap (fun ch => (List.range (kTiles sh)).flatMap (fun kt =>
      (List.range (len (wK sh kt))).map (fun j => getElem w (get (at_ (ch / 64) kt)) (ch % 64 * len (wK sh kt) + j))))
  ⟨packElems (fmtBits sh.fw) (codes (fmtBits sh.fw) (wVals sh) (·.vals)),
   if sh.sparse then packElems 4 (codes 4 (· / 4) (·.md)) else [],
   if sh.sw = 0 then [] else packElems 8 (codes 8 (· / scaleSize sh.sw) (·.sc))⟩

/-- T0 once the operands of tile `i` of a matrix-layout task are in it (R183): the tables with the first tile, then A, the weights and the starting accumulators, buffer by turns (R121). -/
def matStage (s : State) (p : Nat) (t : Task) (i : Nat) (ws : List WTile) (m : Mem) : Mem :=
  let sh := matShape t
  let kt := i % kTiles sh
  let b := i / kTiles sh
  let k := wK sh kt
  let runs := matRuns m t i
  let putW (m : Mem) (j : Nat) (w : WTile) : Mem := t0Put (t0Put (t0Put m t 22 j w.vals) t 24 j w.md) t 28 j w.sc
  let rowsW (k : Nat) : WTile := wTileOf sh k (slotRows s p runs 22) (slotRows s p runs 24) ((slotRows s p runs 28).flatMap id)
  if opOf t = 3 then
    if i = 0 then putW m 0 (if weightObj t then dwJoin sh ws else rowsW sh.k) else m
  else
    let w := match ws with | w :: _ => w | [] => rowsW k
    let m1 := putW m i w
    let m2 :=
      if opOf t = 1 then
        t0Put (stageRows s p t runs 20 i (fmtBits sh.fa) k m1) t 26 i ((slotRows s p runs 26).flatMap id)
      else
        let rows := (List.range (partLen sh.m 64 (b % mBlocks sh))).map (fun r =>
          (List.range k).map (fun j => convElem s p t sh (b % mBlocks sh * 64 + r) (kt * kTile sh + j)))
        let g := scaleSize sh.sa
        t0Put (t0Put m1 t 20 i (packElems (fmtBits sh.fa) (rows.flatMap (fun r => r.map (·.1))))) t 26 i
          (if g = 0 then [] else rows.flatMap (fun r => (List.range (k / g)).map (fun j => (r.getD (j * g) (0, 0)).2)))
    stageRows s p t runs 36 b 8 (4 * wN sh (b / mBlocks sh)) m2

/-! ### MATMUL and CONV tiles -/

/-- The starting accumulators of an output block, from T0_ACC under ACC_IN (R120). -/
def accStart (m : Mem) (t : Task) (sh : MatShape) (b : Nat) : List Acc :=
  let n := partLen sh.m 64 (b % mBlocks sh) * partLen sh.n 64 (b / mBlocks sh)
  if opOf t = 1 ∧ nbit sh.flags 0 then
    (wordsF32 (t0Get m t 36 b 0 (4 * n)) n).map (fun v => if intAcc sh then Acc.int (sint 32 v.toNat) else Acc.fp v)
  else List.replicate n (if intAcc sh then Acc.int 0 else Acc.fp 0)

/-- The notes that decoding a run raises. -/
def runNotes (l : List (Noted FVal × Noted FVal)) : Byte := l.foldl (fun n x => n ||| x.1.2 ||| x.2.2) 0

/-- The accumulators of an output block after one K tile (R63 to R69). -/
def accTile (sh : MatShape) (n : Nat) (acc : List Acc) (as ws : List (List (Noted FVal × Noted FVal))) : Noted (List Acc) :=
  noteAll (as.zipIdx.flatMap (fun a => ws.zipIdx.map (fun w =>
    accumulate sh.fa sh.sa sh.sw (acc.getD (a.2 * n + w.2) (.fp 0))
      ((a.1.zip w.1).map (fun x => (x.1.1.1, x.2.1.1, x.1.2.1, x.2.2.1))))))

/-- One value of the epilogue (R118, R123) before its conversion: bias, function, channel factor, scatter weight. -/
def epilogue (sh : MatShape) (bias scale gw : Option W32) (a : Acc) : W32 :=
  let v0 := match a with | .int i => f32ofInt i | .fp v => v
  let v1 := match bias with | some b => f32add v0 b | none => v0
  let v2 := epiFn sh.epi v1
  let v3 := match scale with | some c => f32mul v2 c | none => v2
  match gw with | some g => f32mul v3 g | none => v3

/-- The FP32 values of an AUX region, from column `c0`. -/
def auxRow (m : Mem) (t : Task) (slot c0 n : Nat) : List W32 := wordsF32 (t0Get m t slot 0 (4 * c0) (4 * n)) n

/-- An output row: whether it is written and where (R122, R123, R683), and its converted elements and scales. -/
structure OutRow where
  dest : Option Nat
  els  : List Byte
  scs  : List Byte
  deriving DecidableEq, Repr

/-- The writes of output rows of `n` elements from column `c0` of rows of `total` elements: elements, then scales after the row's elements. -/
def rowWrites (hint f sc total c0 : Nat) (rows : List OutRow) : TileWrites :=
  rows.flatMap (fun r => match r.dest with
    | none => []
    | some base =>
      (hint, base + c0 * fmtBits f / 8, r.els)
        :: (if sc = 0 then [] else [(hint, base + rowLen (fmtBits f) total + c0 / scaleSize sc, r.scs)]))
/-- Output rows as T0_OUT holds them: the elements of every row, then the scales. -/
def rowsT0 (f n : Nat) (rows : List OutRow) : List Byte := packRows (fmtBits f) n (rows.map (·.els)) ++ rows.flatMap (·.scs)

/-- The rows of an output block (R118, R123). -/
def blockRows (m : Mem) (t : Task) (sh : MatShape) (b : Nat) (acc : List Acc) : Noted (List OutRow) :=
  let nb := b / mBlocks sh
  let mb := b % mBlocks sh
  let n := partLen sh.n 64 nb
  let bias := auxRow m t 32 (nb * 64) n
  let chs := auxRow m t 34 (nb * 64) n
  let scatter : Bool := decide (opOf t = 1) && nbit sh.flags 2
  let gather : Bool := decide (opOf t = 1) && nbit sh.flags 1
  noteAll ((List.range (partLen sh.m 64 mb)).map (fun r =>
    let e := if scatter || gather then listEntry m t (mb * 64 + r) else (0, 0, true)
    let gw : Option W32 := if scatter then
        some (BitVec.ofNat 32 (leNat (t0Get m t 40 0 ((e.1 * pbf t 42 1 + e.2.1) * 8 + 4) 4)))
      else none
    let vals : List FVal := ((List.range n).map (fun c => acc.getD (r * n + c) (.fp 0))).zipIdx.map (fun x =>
      if sh.fo = 4 then (match x.1 with | .int i => ofInt i | .fp v => f32val v)
      else f32val (epilogue sh (if nbit sh.flags 3 then bias[x.2]? else none) (if nbit sh.flags 4 then chs[x.2]? else none) gw x.1))
    let o := outRow sh.fo sh.so sh.oc (fun c => randBits t.seed b (r * n + c)) vals
    let base := if scatter then rowBase t + e.1 * pbf t 52 4 + e.2.1 * pbf t 56 4
                else match entryOf t 30 with
                  | some q => rowAddr q (rowLen (fmtBits sh.fo) sh.n + (if sh.so = 0 then 0 else sh.n / scaleSize sh.so)) (mb * 64 + r)
                  | none => 0
    if e.2.2 then (⟨some base, o.1.1, o.1.2⟩, o.2) else plain ⟨none, o.1.1.map (fun _ => 0), o.1.2.map (fun _ => 0)⟩))

/-- The hint of the entry that serves an output field. -/
def hintOf (t : Task) (slot : Nat) : Nat := match entryOf t slot with | some q => q.hint | none => 0

/-- Tile `i` of a MATMUL or CONV, from its operands in T0 and the accumulators carried to it (R115, R117, R118). -/
def matTile (m : Mem) (t : Task) (i : Nat) (carried : List Acc) : TileOut :=
  let sh := matShape t
  let b := i / kTiles sh
  let kt := i % kTiles sh
  let nb := b / mBlocks sh
  let rows := partLen sh.m 64 (b % mBlocks sh)
  let n := wN sh nb
  let k := wK sh kt
  let gs (g : Nat) := if g = 0 then 0 else k / g
  let abs := t0Get m t 20 i 0 (rowLen (fmtBits sh.fa) (rows * k))
  let asc := t0Get m t 26 i 0 (rows * gs (scaleSize sh.sa))
  let w : WTile := ⟨t0Get m t 22 i 0 (rowLen (fmtBits sh.fw) (n * wVals sh k)), t0Get m t 24 i 0 (rowLen 4 (n * (k / 4))),
                    t0Get m t 28 i 0 (n * gs (scaleSize sh.sw))⟩
  let acc0 := if kt = 0 then accStart m t sh b else carried
  let as := (List.range rows).map (fun r => t0Row sh.fa sh.sa k abs asc r)
  let ws := (List.range n).map (fun r => wRow sh k w r)
  let a := accTile sh n acc0 as ws
  let notes := as.foldl (fun n l => n ||| runNotes l) (ws.foldl (fun n l => n ||| runNotes l) a.2)
  if kt + 1 = kTiles sh then
    let o := blockRows m t sh b a.1
    { t0w := [(30, b, rowsT0 sh.fo n o.1)], writes := rowWrites (hintOf t 30) sh.fo sh.so sh.n (nb * 64) o.1, notes := notes ||| o.2 }
  else { acc := a.1, notes := notes }

/-! ### CONV_DW (R127) -/

/-- The weights of channel `ch`, each decoded to FP32. -/
def dwWeights (sh : MatShape) (w : WTile) (ch : Nat) : Noted (List W32) :=
  let row := wRow sh sh.k w ch
  let v := noteAll (row.map (fun x => dequant32 sh.oc (fmulX x.1.1 x.2.1)))
  (v.1, v.2 ||| runNotes row)

/-- Tile `i` of a CONV_DW: whole output positions, one FP32 fused multiply-add after another. The weights, bias and factors are in T0; T0_A takes the rows of one kernel position after another while the tile runs (notes/assumptions/27), so the window elements come as the tile mover expands them. -/
def dwTile (s : State) (p : Nat) (m : Mem) (t : Task) (i : Nat) : TileOut :=
  let sh := matShape t
  let d := convDims t
  let rows := partLen sh.m (vecRpt t) i
  let g := scaleSize sh.sw
  let w : WTile := ⟨t0Get m t 22 0 0 (rowLen (fmtBits sh.fw) (sh.n * wVals sh sh.k)), t0Get m t 24 0 0 (rowLen 4 (sh.n * (sh.k / 4))),
                    t0Get m t 28 0 0 (sh.n * (if g = 0 then 0 else sh.k / g))⟩
  let ws := (List.range sh.n).map (dwWeights sh w)
  let bias := auxRow m t 32 0 sh.n
  let chs := auxRow m t 34 0 sh.n
  let elem (row j : Nat) : Noted FVal × Noted FVal :=
    let e := convElem s p t sh row j
    (decodeElem sh.fa e.1, if sh.sa = 0 then plain (.fin false 1 0) else decodeScale sh.sa e.2.toNat)
  let outs := noteAll ((List.range rows).map (fun r =>
    let row := i * vecRpt t + r
    let win := (List.range (sh.k * d.cin)).map (elem row)
    let xin := noteAll (win.map (fun x => dequant32 sh.oc (fmulX x.1.1 x.2.1)))
    let vals := (List.range sh.n).map (fun ch =>
      let start : W32 := if nbit sh.flags 3 then bias.getD ch 0 else 0
      let v := (List.range sh.k).foldl (fun a j =>
        f32fma (xin.1.getD (j * d.cin + ch) 0) ((ws.getD ch ([], 0)).1.getD j 0) a) start
      let e := epiFn sh.epi v
      f32val (if nbit sh.flags 4 then f32mul e (chs.getD ch 0) else e))
    let o := outRow sh.fo sh.so sh.oc (fun c => randBits t.seed i (r * sh.n + c)) vals
    let base := match entryOf t 30 with
      | some q => rowAddr q (rowLen (fmtBits sh.fo) sh.n + (if sh.so = 0 then 0 else sh.n / scaleSize sh.so)) row
      | none => 0
    ((⟨some base, o.1.1, o.1.2⟩ : OutRow), o.2 ||| xin.2 ||| runNotes win)))
  let last := (List.range (rows * d.cin)).map (fun j => (convElem s p t sh (i * vecRpt t + j / d.cin) ((sh.k - 1) * d.cin + j % d.cin)).1)
  { t0w := [(20, (i + 1) * sh.k - 1, packElems (fmtBits sh.fa) last), (30, i, rowsT0 sh.fo sh.n outs.1)]
    writes := rowWrites (hintOf t 30) sh.fo sh.so sh.n 0 outs.1
    notes := ws.foldl (fun n w => n ||| w.2) outs.2 }

end Sys2Proof.Machine
end

