-- ==== Sys2Proof/Machine/Checks.lean ====
section
/-! DEFINITION. Checks of a task's parameter block and operand entries at load (R47, R109, R113, R119, R124, R129, R138, R163, R166, R259, R683, R686, R688). Each check gives the offset in the task descriptor of the first field that breaks it. -/

namespace Sys2Proof.Machine

/-- A check: when it fails, the offset it names. -/
def bad (c : Bool) (off : Nat) : List Nat := if c then [off] else []
/-- A parameter-block check: PARAM starts at offset 48 of the descriptor (R160). -/
def badP (c : Bool) (off : Nat) : List Nat := bad c (48 + off)
/-- A value outside its limits. -/
def outside (v lo hi : Nat) : Bool := decide (v < lo ∨ hi < v)

/-- An operand format byte that R45, R47 or R90 refuses: a reserved code, E8M0 as an element, a reserved SCALE, a set bit 7, or a scale on a format that carries none. -/
def badFmtByte (b : Nat) : Bool :=
  decide (0xD ≤ fmtOf b) || scaleOf b == 3 || nbit b 7 || (scaleOf b != 0 && decide (8 < fmtBits (fmtOf b)))
/-- A FMT_OUT byte that is refused: as above, with T2 (R84, R90) and its reserved bits [7:6]. -/
def badOutByte (b : Nat) : Bool := badFmtByte b || nbit b 6 || fmtOf b == 0
/-- Whether an FP32 word is finite. -/
def finite32 (v : Nat) : Bool := match f32val (BitVec.ofNat 32 v) with | .fin _ _ _ => true | _ => false

/-- A reserved bit set in a T0 field that the task uses (R108). -/
def badT0Bits (t : Task) : List Nat :=
  (taskRegions t).flatMap (fun r => let v := pbf t r.slot 2
                                    badP (v != 0xFFFF && decide (8192 ≤ v)) r.slot)

/-- T0 regions (R109): absent though needed, past line 8,191, overlapping, or a footprint above 524,288 bytes. -/
def badT0 (t : Task) : List Nat :=
  let rs := taskRegions t
  rs.flatMap (fun r => badP (pbf t r.slot 2 == 0xFFFF) r.slot)
  ++ rs.flatMap (fun r => let l := regionLines t r
                          badP (decide (8192 < l.1 + l.2)) r.slot)
  ++ rs.zipIdx.flatMap (fun a => badP ((rs.take a.2).any (fun b => linesMeet (regionLines t a.1) (regionLines t b))) a.1.slot)
  ++ badP (decide (524288 < (rs.map (fun r => (regionLines t r).2 * 64)).foldl (· + ·) 0)) 0

/-- Format checks of MATMUL, CONV and CONV_DW (R47, R113, R114, R119, R124).
DESIGN CHOICE (notes/assumptions/70): the operands of CONV_DW, which runs in the vector unit, need be no pair of R59, so its formats are any two of R45 and T2 may be its activation; its reduction length K is KH × KW, and the weight's scale and sparsity are held to it, while FMT_A's scale is held to C_IN. -/
def matFormat (t : Task) : List Nat :=
  let sh := matShape t
  let op := opOf t
  let fl (i : Nat) : Bool := nbit sh.flags i
  let pair := (pairRate sh.fw sh.fa sh.sparse).isNone
  badP (badFmtByte (pbf t 1 1)) 1 ++ badP (badFmtByte (pbf t 2 1)) 2
  ++ badP (sparseOf (pbf t 1 1)) 1
  ++ badP (sh.sparse && (sh.fw == 0 || decide (8 < fmtBits sh.fw))) 2
  ++ badP (op != 3 && pair) 1
  ++ badP (badOutByte (pbf t 3 1)) 3
  ++ badP (decide (4 ≤ pbf t 4 1)) 4
  ++ badP (decide (4 < pbf t 5 1)) 5
  ++ badP (decide (32 ≤ sh.flags)) 6
  ++ badP (op != 1 && (fl 0 || fl 1 || fl 2)) 6
  ++ badP (op == 1 && fl 1 && fl 2) 6
  ++ badP (sh.fo == 4 && !(intAcc sh && (op != 3 || intPair sh.fw) && sh.epi == 0 && !fl 3 && !fl 4 && !fl 2)) 3
  ++ badP (op == 1 && fl 2 && sh.fo != 0xC) 3
  ++ badP (sh.so != 0 && sh.n % max 1 (scaleSize sh.so) != 0) 3
  ++ badP (op == 1 && ((sh.sa == 1 || sh.sw == 1) && sh.k % 32 != 0 || (sh.sa == 2 || sh.sw == 2) && sh.k % 16 != 0 || sh.sparse && sh.k % 4 != 0)) 16
  ++ badP (op == 3 && (sh.sw != 0 && sh.k % max 1 (scaleSize sh.sw) != 0 || sh.sparse && sh.k % 4 != 0)) 18
  ++ badP (pbf t 43 1 != 0) 43
  ++ badP (pbf t 50 2 != 0) 50

/-- Range checks of the same.
DESIGN CHOICE (notes/assumptions/70): GK is held to 1 to 8 only with SCATTER_OUT, which alone uses it; a CONV whose OH × OW or rounded K passes MATMUL's 65,536 is accepted; and a window that does not fit the padded input, which leaves OH or OW not positive, is refused with RANGE_REFUSED at offset 8 or 10. -/
def matRange (t : Task) : List Nat :=
  let sh := matShape t
  let op := opOf t
  let d := convDims t
  if op = 1 then
    badP (outside sh.m 1 65536) 8 ++ badP (outside sh.n 1 65536) 12 ++ badP (outside sh.k 1 65536) 16
    ++ badP (nbit sh.flags 2 && outside (pbf t 42 1) 1 8) 42
  else
    badP (outside d.h 1 8192) 8 ++ badP (outside d.w 1 8192) 10 ++ badP (outside sh.n 1 65536) 12
    ++ badP (op == 3 && sh.n != d.cin) 12
    ++ badP (outside d.cin 1 8192 || (sh.sa != 0 && d.cin % max 1 (scaleSize sh.sa) != 0)) 16
    ++ badP (outside d.kh 1 11) 18 ++ badP (outside d.kw 1 11) 19
    ++ badP (outside d.sv 1 4 || outside d.sh 1 4) 36 ++ badP (outside d.dv 1 4 || outside d.dh 1 4) 37
    ++ badP (decide (10 < d.top ∨ 10 < d.bottom ∨ 10 < d.left ∨ 10 < d.right)) 38
    ++ badP (d.sv != 0 && convOH d == 0) 8 ++ badP (d.sh != 0 && convOW d == 0) 10

/-- Format checks of ATTN (R113, R128, R129). -/
def attnFormat (t : Task) : List Nat :=
  let q := pbf t 1 1
  let k := pbf t 2 1
  let v := pbf t 3 1
  let o := pbf t 4 1
  let ok (b : Nat) : Bool := decide (8 ≤ fmtOf b ∧ fmtOf b ≤ 0xB) && !badFmtByte b && !sparseOf b
  badP (!ok q) 1 ++ badP (!ok k) 2 ++ badP (!ok v || scaleOf v != 0) 3
  ++ badP ((pairRate (fmtOf k) (fmtOf q) false).isNone) 1
  ++ badP (badOutByte o || fmtOf o == 4) 4
  ++ badP (decide (4 ≤ pbf t 5 1)) 5 ++ badP (decide (2 < pbf t 6 1)) 6 ++ badP (decide (1 < pbf t 7 1)) 7
  ++ badP (pbf t 10 2 != 0) 10 ++ badP (pbf t 52 12 != 0) 52

/-- Range checks of ATTN (R128).
DESIGN CHOICE (notes/assumptions/70): WIN is held to at least 1 only where MASK is 2, the one mask that uses it. -/
def attnRange (t : Task) : List Nat :=
  let d := pbf t 8 2
  badP (!(d == 64 || d == 128 || d == 256)) 8 ++ badP (outside (pbf t 12 4) 1 65536) 12
  ++ badP (outside (pbf t 16 4) 1 1048576) 16 ++ badP (pbf t 6 1 == 2 && pbf t 28 4 == 0) 28
  ++ badP (!finite32 (pbf t 32 4)) 32

/-- The vector operation codes of R112 in the vector layout. -/
def vecCodes : List Nat := [0x11, 0x20, 0x21, 0x22, 0x30, 0x31, 0x40, 0x41, 0x50, 0x51, 0x52]
/-- The function codes of ELEM (R139). -/
def elemCodes : List Nat := [0, 1, 2, 3, 4, 5, 6, 7, 8, 0x10, 0x11, 0x12, 0x13, 0x14, 0x15, 0x16]

/-- Format checks of a vector operation (R113, R136, R138). -/
def vecFormat (t : Task) : List Nat :=
  let op := opOf t
  let func := pbf t 5 1
  let fl := pbf t 6 2
  let funcOk : Bool := match op with
    | 0x50 => elemCodes.contains func
    | 0x51 => decide (func ≤ 4)
    | 0x22 => decide (func ≤ 1)
    | 0x30 => decide (func ≤ 1)
    | _ => func == 0
  let flOk : Bool := match op with
    | 0x50 => fl == 0 || ((fl == 1 || fl == 2) && elemTakesB func)
    | 0x22 => decide (fl ≤ 1)
    | _ => fl == 0
  badP (badFmtByte (pbf t 1 1) || sparseOf (pbf t 1 1)) 1
  ++ badP (badFmtByte (pbf t 2 1) || sparseOf (pbf t 2 1) || scaleOf (pbf t 2 1) != 0) 2
  ++ badP (badOutByte (pbf t 3 1)) 3 ++ badP (decide (4 ≤ pbf t 4 1)) 4
  ++ badP (!funcOk) 5 ++ badP (!flOk) 6 ++ badP (pbf t 48 16 != 0) 48

/-- Range checks of a vector operation (R138, R686). -/
def vecRange (t : Task) : List Nat :=
  let op := opOf t
  let r := pbf t 8 4
  let h := pbf t 12 4
  let k := pbf t 16 4
  let si := scaleOf (pbf t 1 1)
  let so := scaleOf (pbf t 3 1)
  let hMax : Nat := match op with
    | 0x20 => 16384 | 0x21 => 16384 | 0x31 => 16384 | 0x30 => 256 | 0x22 => 512 | 0x51 => 1048576 | 0x52 => 1048576 | _ => 2 ^ 32
  let kBad : Bool := match op with
    | 0x52 => outside k 1 64 || decide (h < k)
    | 0x30 => outside k 1 8 || decide (h < k)
    | 0x31 => outside k 1 8
    | 0x11 => outside k 2 16
    | 0x20 => !(finite32 k && f32lt 0 (BitVec.ofNat 32 k))
    | 0x21 => !(finite32 k && f32lt 0 (BitVec.ofNat 32 k))
    | _ => false
  badP (r == 0 || (op == 0x30 && decide (4096 < r)) || (op == 0x50 && decide (2 ^ 31 < r * h))) 8
  ++ badP (outside h 1 hMax || (op == 0x22 && h % 2 != 0) || (op == 0x11 && !(h == 64 || h == 128 || h == 256))
      || (si != 0 && h % max 1 (scaleSize si) != 0)
      || (so != 0 && h % max 1 (scaleSize so) != 0)) 12
  ++ badP kBad 16 ++ badP (op == 0x30 && outside (pbf t 20 4) 1 4096) 20

/-- Format checks of the tile-mover and sequencer kinds (R166). -/
def moverFormat (t : Task) : List Nat :=
  let z (off n : Nat) : List Nat := badP (pbf t off n != 0) off
  match t.kind with
  | .move =>
    let m := pbf t 0 1
    badP (decide (8 ≤ m) || m % 4 == 3) 0 ++ z 1 3 ++ z 26 2 ++ z 34 2 ++ badP (decide (1024 ≤ pbf t 36 2)) 36 ++ z 38 26
  | .decompress => z 0 8 ++ z 14 2 ++ z 22 2 ++ z 32 32
  | .promote => z 1 3 ++ z 14 2 ++ z 16 48
  | .waitCadence => badP (decide (1 < pbf t 0 1)) 0 ++ z 1 3 ++ z 8 56
  | .signal => z 1 3 ++ (List.range (min 15 (pbf t 0 1))).flatMap (fun j => badP (decide (2 ^ 25 ≤ pbf t (4 + 4 * j) 4)) (4 + 4 * j))
  | .barrier => z 8 56
  | _ => []

/-- Range checks of the same (R166, R685). -/
def moverRange (t : Task) : List Nat :=
  match t.kind with
  | .move =>
    let rb := pbf t 8 4
    badP (outside (pbf t 4 4) 1 65536) 4 ++ badP (outside rb 1 (2 ^ 24) || decide (2 ^ 32 < pbf t 4 4 * rb)) 8
    ++ badP (pbf t 0 1 % 4 == 2 && pbf t 16 4 != 0 && decide (pbf t 16 4 < rb)) 16
  | .promote => badP (outside (pbf t 0 1) 1 3) 0 ++ badP (!finite32 (pbf t 4 4)) 4
  | .signal => badP (outside (pbf t 0 1) 1 15) 0
  | .barrier => badP (outside (pbf t 2 2) 2 1024) 2 ++ badP (outside (pbf t 4 4) 1 10000000) 4
  | _ => []

/-- Whether the operation code matches the task kind (R112, R113). -/
def opMatches (t : Task) : Bool :=
  match t.kind with
  | .matrix => opOf t == 1 || opOf t == 2
  | .attention => opOf t == 0x10
  | .vector => opOf t == 3 || vecCodes.contains (opOf t)
  | _ => true

/-- Format checks of a parameter block. -/
def paramFormat (t : Task) : List Nat :=
  if !opMatches t then [48]
  else match t.kind with
    | .matrix => matFormat t ++ badT0Bits t
    | .attention => attnFormat t ++ badT0Bits t
    | .vector => (if opOf t = 3 then matFormat t else vecFormat t) ++ badT0Bits t
    | _ => moverFormat t
/-- Range checks of a parameter block. -/
def paramRange (t : Task) : List Nat :=
  if !opMatches t then []
  else match t.kind with
    | .matrix => matRange t ++ badT0 t
    | .attention => attnRange t ++ badT0 t
    | .vector => (if opOf t = 3 then matRange t else vecRange t) ++ badT0 t
    | _ => moverRange t

/-! ### Operand entries -/

/-- The packed length of a row of the object that a field names (R683); 0 for one that has no rows of its own. -/
def packedLen (t : Task) (slot : Nat) : Nat :=
  let sh := matShape t
  let d := convDims t
  let dd := pbf t 8 2
  let h := pbf t 12 4
  let k := pbf t 16 4
  let el (f n : Nat) := rowLen (fmtBits f) n
  let sc (c n : Nat) := if c = 0 then 0 else n / scaleSize c
  match t.kind with
  | .attention =>
    (match slot with
     | 36 => el (fmtOf (pbf t 1 1)) dd
     | 38 => el (fmtOf (pbf t 2 1)) dd
     | 40 => el (fmtOf (pbf t 3 1)) dd
     | 42 => el (fmtOf (pbf t 4 1)) dd + sc (scaleOf (pbf t 4 1)) dd
     | 44 => 8
     | 46 => sc (scaleOf (pbf t 1 1)) dd
     | 48 => sc (scaleOf (pbf t 2 1)) dd
     | _ => 0)
  | .matrix | .vector =>
    if t.kind = .matrix ∨ opOf t = 3 then
      (match slot with
       | 20 => el sh.fa sh.k
       | 22 => (wRowLens sh sh.k).1
       | 24 => (wRowLens sh sh.k).2.1
       | 26 => sc sh.sa (if opOf t = 1 then sh.k else d.cin)
       | 28 => (wRowLens sh sh.k).2.2
       | 30 => el sh.fo sh.n + sc sh.so sh.n
       | 32 => 4 * sh.n
       | 34 => 4 * sh.n
       | 36 => 4 * sh.n
       | 38 => 4 * sh.m
       | 40 => 8 * pbf t 42 1
       | _ => 0)
    else
      (match slot, opOf t with
       | 32, 0x31 => 8 * k
       | 32, 0x11 => 4 * h
       | 32, _ => el (fmtOf (pbf t 1 1)) h
       | 34, 0x31 => 4 * h
       | 34, 0x11 => 8
       | 34, 0x22 => h / 2 * 8
       | 36, 0x22 => 4
       | 34, _ => el (fmtOf (pbf t 2 1)) h
       | 36, _ => el (fmtOf (pbf t 2 1)) h
       | 38, 0x51 => 4
       | 38, 0x52 => 4 * k
       | 38, 0x30 => 8 * k
       | 38, _ => el (fmtOf (pbf t 3 1)) h
       | 40, 0x52 => 4 * k
       | 40, 0x30 => 4 * pbf t 20 4
       | 42, 0x30 => 4 * (h + 1)
       | 44, _ => sc (scaleOf (pbf t 1 1)) h
       | 46, _ => sc (scaleOf (pbf t 3 1)) h
       | _, _ => 0)
  | _ => 0

/-- Whether every block of an object has its home in T3 or T4 (R163). -/
def homesBelow (s : State) (p : Nat) (o : Operand) : Bool :=
  (entryBlocks o).all (fun b => match (s.block p b).home, (s.block p b).state with
    | .t3 _, .unmapped => false
    | .t3 _, _ => true
    | .t4 _ _, _ => true
    | _, _ => false)

/-- The operand entries that a task needs (R163). -/
def neededEntries (t : Task) : Nat := ((taskRegions t).filter (·.entry)).length

/-- Format checks of the operand entries (R163, R259, R688), with the raw 112 bytes of the descriptor. Each entry's SLOT lies at 118 + 16 j, MODE at 119 + 16 j, STRIDE at 124 + 16 j. -/
def entryFormat (s : State) (p : Nat) (t : Task) (raw : List Byte) : List Nat :=
  let rs := taskRegions t
  let slotOf (j : Nat) := field raw (16 * j + 6) 1
  let modeOf (j : Nat) := field raw (16 * j + 7) 1
  let used := (List.range 7).filter (fun j => slotOf j != 255)
  (if 7 < neededEntries t then [] else rs.flatMap (fun r => badP (r.entry && (entryOf t r.slot).isNone) r.slot))
  ++ used.flatMap (fun j => bad (!(rs.any (fun r => r.slot == slotOf j && r.entry)) || (used.filter (fun i => decide (i < j))).any (fun i => slotOf i == slotOf j)) (118 + 16 * j))
  ++ used.flatMap (fun j =>
      let m := modeOf j
      let isOut := rs.any (fun r => r.slot == slotOf j && r.output)
      let weight := nbit m 1
      let ent : Operand := { addr := field raw (16 * j) 6, slot := slotOf j, output := nbit m 0, weight := weight, eraely := m / 4 % 4 == 1
                             hint := m / 16, len := field raw (16 * j + 8) 4, stride := field raw (16 * j + 12) 4 }
      bad (nbit m 0 != isOut || (weight && !(slotOf j == 22 && (t.kind == .matrix || (t.kind == .vector && opOf t == 3))))
           || decide (1 < m / 4 % 4) || decide (8 < m / 16)
           || (m / 4 % 4 == 1 && !(weight && !nbit m 0 && homesBelow s p ent))) (119 + 16 * j)
      ++ bad (weight && ent.stride != 0) (124 + 16 * j))

/-- Range checks of the operand entries (R163, R683, R273): a task that needs more than seven is refused at the first byte of its entries (DESIGN CHOICE, notes/assumptions/26: the manual names no byte). -/
def entryRange (s : State) (p : Nat) (t : Task) (raw : List Byte) : List Nat :=
  let tensor := tensorMode s p
  bad (decide (7 < neededEntries t)) 112 ++ (List.range 7).flatMap (fun j =>
    let slot := field raw (16 * j + 6) 1
    let stride := field raw (16 * j + 12) 4
    let len := field raw (16 * j + 8) 4
    if slot = 255 then []
    else bad (!nbit (field raw (16 * j + 7) 1) 1 && stride != 0 && decide (stride < packedLen t slot)) (124 + 16 * j)
      ++ bad (tensor && !nbit (field raw (16 * j + 7) 1) 0 &&
              decide (((s.part p).qT1.toNat + (s.part p).qT2.toNat) * blockBytes < len)) (120 + 16 * j))

end Sys2Proof.Machine
end

