-- ==== Sys2Proof/Machine/Load.lean ====
section
/-! DEFINITION. Graph images: reading, checking and placing them (R159 to R167, R226, R273), with the load and unload commands. -/

namespace Sys2Proof.Machine

/-! ### Reading an image -/

/-- The graph descriptor's fields (R159). -/
structure GraphDesc where
  raw : List Byte
  ntask : Nat
  ncore : Nat
  period : Nat
  taskAddr : Nat
  extAddr : Nat
  next : Nat
  fallback : Nat
  phase : Nat
  standing : Bool
  deriving DecidableEq, Repr

/-- The graph descriptor at an address. -/
def readDesc (s : State) (p addr : Nat) : GraphDesc :=
  let b := devRead s p addr 64
  { raw := b, ntask := field b 4 4, ncore := field b 8 1, period := field b 12 4, taskAddr := field b 16 6
    extAddr := field b 24 6, next := field b 32 4, fallback := field b 36 4, phase := field b 40 4, standing := nbit (field b 2 2) 0 }

/-- The task kind of a code (R161). -/
def kindOf : Nat → Option Kind
  | 1 => some .matrix | 2 => some .vector | 3 => some .attention | 4 => some .move | 5 => some .decompress
  | 6 => some .promote | 7 => some .waitCadence | 8 => some .signal | 9 => some .barrier | _ => none

/-- An operand entry (R162). -/
def readOperand (b : List Byte) : Operand :=
  let m := field b 7 1
  { addr := field b 0 6, slot := field b 6 1, output := nbit m 0, weight := nbit m 1, eraely := m / 4 % 4 == 1, hint := m / 16
    len := field b 8 4, stride := field b 12 4 }

/-- A task with what its checks need: raw bytes and its successor entries as words with the offset that names each. -/
structure RawTask where
  task : Task
  kind? : Option Kind
  raw : List Byte
  succs : List (Nat × Nat)
  nsucc : Nat
  deriving DecidableEq, Repr

/-- Task `i` of an image (R160, R164). -/
def readTask (s : State) (p : Nat) (d : GraphDesc) (i : Nat) : RawTask :=
  let b := devRead s p (d.taskAddr + 256 * i) 256
  let ns := field b 40 2
  let ext := field b 44 4
  let near := (List.range (min 8 ns)).map (fun j => (224 + 4 * j, field b (224 + 4 * j) 4))
  let far := (List.range (min 256 ns - 8)).map (fun j => (44, leNat (devRead s p (d.extAddr + 4 * (ext + j)) 4)))
  let ops := ((List.range 7).map (fun j => readOperand (slice b (112 + 16 * j) 16))).filter (fun o => o.slot != 255)
  let nw := field b 7 1 % 16
  { task :=
      { kind := (kindOf (field b 0 1)).getD .barrier
        hasRelease := nbit (field b 1 1) 0, hasDeadline := nbit (field b 1 1) 1, engine := field b 2 1 % 16
        policy := if field b 3 1 % 4 = 1 then .late else if field b 3 1 % 4 = 2 then .fallback else .skip
        index := i, core := field b 6 1, waits := (List.range (min 8 nw)).map (fun j => field b (8 + 2 * j) 2)
        seed := BitVec.ofNat 64 (field b 24 8), release := BitVec.ofNat 32 (field b 32 4), deadline := BitVec.ofNat 32 (field b 36 4)
        succs := [], param := slice b 48 64, operands := ops }
    kind? := kindOf (field b 0 1), raw := b, succs := near ++ (if 8 < ns then far else []), nsucc := ns }

/-! ### Checks -/

/-- How a check refuses: a status and the detail word. -/
abbrev Refuse := W16 × W32

/-- Format checks of the graph descriptor. -/
def descFormat (d : GraphDesc) : List Nat :=
  let b := d.raw
  bad (field b 0 2 != 2) 0 ++ bad (decide (1 < field b 2 2)) 2 ++ bad (field b 9 3 != 0) 9
  ++ bad (!d.standing && d.period != 0) 12 ++ bad (field b 22 2 != 0) 22 ++ bad (field b 30 2 != 0) 30 ++ bad (field b 44 20 != 0) 44

/-- Range checks of the graph descriptor, its arrays mapped, and its fallback (R226). -/
def descRange (s : State) (p : Nat) (d : GraphDesc) : List Nat :=
  bad (outside d.ntask 1 65536) 4 ++ bad (outside d.ncore 1 64) 8 ++ bad (d.standing && outside d.period 1 65535) 12
  ++ bad (d.taskAddr % 256 != 0 || anyBlock s p d.taskAddr (256 * min d.ntask 65536) .unmapped) 16
  ++ bad (d.extAddr % 4 != 0 || anyBlock s p d.extAddr (4 * min d.next 262144) .unmapped) 24
  ++ bad (decide (262144 < d.next)) 32
  ++ bad (d.fallback != 0xFFFFFFFF && !(match s.graph d.fallback with | some g => g.part == p && !g.standing | none => false)) 36

/-- Format checks of a task (R160 to R165). -/
def taskFormat (s : State) (p : Nat) (d : GraphDesc) (i : Nat) (r : RawTask) : List Nat :=
  let b := r.raw
  let nw := field b 7 1
  bad r.kind?.isNone 0 ++ bad (decide (4 ≤ field b 1 1)) 1
  ++ bad (decide (16 ≤ field b 2 1) || (decide (7 < r.task.engine) && r.task.engine != 15)) 2
  ++ bad (decide (2 < field b 3 1) || (field b 3 1 == 2 && d.fallback == 0xFFFFFFFF)) 3
  ++ bad (field b 4 2 != i) 4 ++ bad (i == 0 && r.task.core != 0) 6 ++ bad (decide (16 ≤ nw)) 7
  ++ (List.range 8).flatMap (fun j => bad (decide (nw % 16 ≤ j) && field b (8 + 2 * j) 2 != 0) (8 + 2 * j))
  ++ bad (field b 42 2 != 0) 42
  ++ (if r.kind?.isSome then paramFormat r.task ++ entryFormat s p r.task (slice b 112 112) else [])
  ++ r.succs.flatMap (fun e => bad (decide (2 ^ 19 ≤ e.2)) e.1)

/-- Range checks of a task that need no other task (R160, R221). -/
def taskRange (s : State) (p : Nat) (d : GraphDesc) (r : RawTask) : List Nat :=
  let b := r.raw
  let nw := field b 7 1 % 16
  bad (decide (d.ncore ≤ r.task.core)) 6 ++ bad (decide (8 < nw)) 7
  ++ (List.range (min 8 nw)).flatMap (fun j => bad (field b (8 + 2 * j) 2 == 0) (8 + 2 * j))
  ++ bad (r.task.hasRelease && r.task.hasDeadline && decide (r.task.deadline.toNat ≤ r.task.release.toNat)) 36
  ++ bad (decide (256 < r.nsucc)) 40 ++ bad (decide (8 < r.nsucc) && decide (d.next < field b 44 4 + (r.nsucc - 8))) 44
  ++ paramRange r.task ++ entryRange s p r.task (slice b 112 112)

/-- The targets of a signal task: the offset that names each, task, counter and core (R166). -/
def signalTargets (t : Task) : List (Nat × Nat × Nat × Nat) :=
  if t.kind = .signal then
    (List.range (min 15 (pbf t 0 1))).map (fun j =>
      let w := pbf t (4 + 4 * j) 4
      (52 + 4 * j, w % 65536, w / 65536 % 8, w / 2 ^ 19 % 64))
  else []

/-- Range checks between tasks (R164, R165): successors on the same core with a counter in use, signal targets as they name them. -/
def edgeRange (ts : List RawTask) (r : RawTask) : List Nat :=
  let ok (ti ci co : Nat) : Bool := match ts[ti]? with
    | some q => q.task.core == co && decide (ci < q.task.waits.length)
    | none => false
  r.succs.flatMap (fun e => bad (!ok (e.2 % 65536) (e.2 / 65536 % 8) r.task.core) e.1)
  ++ (signalTargets r.task).flatMap (fun e => bad (!ok e.2.1 e.2.2.1 e.2.2.2) e.1)

/-- Every edge of an image, as target task and counter. -/
def allEdges (ts : List RawTask) : List (Nat × Nat) :=
  ts.flatMap (fun r => r.succs.map (fun e => (e.2 % 65536, e.2 / 65536 % 8)) ++ (signalTargets r.task).map (fun e => (e.2.1, e.2.2.1)))

/-- The first counter whose count differs from the entries that name it (R165). -/
def badCount (ts : List RawTask) : Option (Nat × Nat) :=
  let es := allEdges ts
  (ts.zipIdx.flatMap (fun r => r.1.task.waits.zipIdx.filterMap (fun w =>
    if w.1 = (es.filter (fun e => e.1 == r.2 && e.2 == w.2)).length then none else some (r.2, 8 + 2 * w.2)))).head?

/-- The tasks left when every task without a remaining predecessor has been taken away, over and over: none when the edges form no cycle. -/
def peel (edges : List (Nat × Nat)) : Nat → List Nat → List Nat
  | 0, l => l
  | n + 1, l =>
    let l2 := l.filter (fun i => edges.any (fun e => e.2 == i && l.contains e.1))
    if l2.length = l.length then l else peel edges n l2
/-- The edges of an image, from task to task. -/
def taskEdges (ts : List RawTask) : List (Nat × Nat) :=
  ts.zipIdx.flatMap (fun r => r.1.succs.map (fun e => (r.2, e.2 % 65536)) ++ (signalTargets r.1.task).map (fun e => (r.2, e.2.1)))
/-- The first task that the elimination leaves. -/
def cycleTask (ts : List RawTask) : Option Nat := (peel (taskEdges ts) ts.length (List.range ts.length)).head?

/-- Whether a byte range touches a sealed block. -/
def touchesSealed (s : State) (p addr len : Nat) : Bool := (blocksOf addr len).any (fun b => (s.block p b).isSealed)

/-- The bytes from a move's address to the end of its last row, by the stride at an offset: strides count in two-dimensional copy alone (R685). -/
def moveSpan (t : Task) (strideAt : Nat) : Nat :=
  let rows := pbf t 4 4
  let rb := pbf t 8 4
  let st := pbf t strideAt 4
  if pbf t 0 1 % 4 = 2 ∧ st ≠ 0 then (rows - 1) * st + rb else rows * rb

/-- The byte ranges that a task's image names, each with the offset that names it and whether it may name a sealed block (R548): entries, the row base of a gather, a scatter or a convolution, and a mover's addresses. -/
def namedRanges (r : RawTask) : List (Nat × Nat × Nat × Bool) :=
  let b := r.raw
  let t := r.task
  let ents := (List.range 7).filterMap (fun j =>
    if field b (118 + 16 * j) 1 = 255 then none
    else some (112 + 16 * j, field b (112 + 16 * j) 6, field b (120 + 16 * j) 4, engineKind t.kind && nbit (field b (119 + 16 * j) 1) 1 && !nbit (field b (119 + 16 * j) 1) 0))
  let base : List (Nat × Nat × Nat × Bool) :=
    if t.kind = .matrix ∧ (opOf t = 2 ∨ nbit (pbf t 6 2) 1 ∨ nbit (pbf t 6 2) 2) then [(48 + 44, rowBase t, 1, false)]
    else if t.kind = .vector ∧ opOf t = 3 then [(48 + 44, rowBase t, 1, false)] else []
  let mv : List (Nat × Nat × Nat × Bool) := match t.kind with
    | .move => (if pbf t 0 1 % 4 = 1 then [] else [(48 + 20, pbf t 20 6, moveSpan t 12, false)])
        ++ (if nbit (pbf t 0 1) 2 then [] else [(48 + 28, pbf t 28 6, moveSpan t 16, false)])
    | .decompress => [(48 + 8, pbf t 8 6, pbf t 24 4, false), (48 + 16, pbf t 16 6, pbf t 28 4, false)]
    | .promote => [(48 + 8, pbf t 8 6, 4, false)]
    | _ => []
  ents ++ base ++ mv

/-- The licences under GRAPH_BOUND whose package a range touches and whose list lacks the graph (R549). -/
def boundElsewhere (s : State) (p : Nat) (digest : List Byte) (addr len : Nat) : Bool :=
  (blocksOf addr len).any (fun b =>
    let blk := s.block p b
    let l := s.lic blk.lic
    blk.isSealed && nbit l.flags.toNat 2 && !((l.graphs.take l.ngraph).contains digest))

/-- What a task names without the grant, binding or licence for it (R255, R366, R548, R549): the first offending offset of each. -/
def taskRights (s : State) (p : Nat) (digest : List Byte) (r : RawTask) : List Nat :=
  let b := r.raw
  let t := r.task
  let out := (List.range 7).flatMap (fun j =>
    let m := field b (119 + 16 * j) 1
    bad (field b (118 + 16 * j) 1 != 255 && nbit m 0 &&
      (blocksOf (field b (112 + 16 * j) 6) (field b (120 + 16 * j) 4)).any (fun k =>
        let blk := s.block p k
        blk.state != .unmapped && (match blk.home with | .t3 _ => false | _ => true))) (112 + 16 * j))
  let remote := bad (t.kind == .move && nbit (pbf t 0 1) 2 && !s.fab.binds.any (fun q => q.1 == p && q.2.1 == pbf t 36 2 % 1024)) (48 + 36)
  let named := (namedRanges r).flatMap (fun e =>
    bad ((!e.2.2.2 && touchesSealed s p e.2.1 e.2.2.1) || boundElsewhere s p digest e.2.1 e.2.2.1) e.1)
  out ++ remote ++ named

/-- Barrier tasks that name no group, or another number of members than it has (R370). -/
def barrierRange (s : State) (t : Task) : List Nat :=
  if t.kind = .barrier then
    match s.fab.bars.find? (fun b => b.2.valid && b.2.id.toNat == pbf t 0 2) with
    | none => [48]
    | some b => bad (b.2.members.length != pbf t 2 2) 50
  else []

/-- The first task that breaks a check, with the offset. -/
def firstTask (ts : List RawTask) (f : Nat → RawTask → List Nat) : Option (Nat × Nat) :=
  (ts.zipIdx.flatMap (fun r => (f r.2 r.1).map (fun o => (r.2, o)))).head?

/-- Contexts of a partition in use on a core. -/
def usedCtx (s : State) (p c : Nat) : Nat := ((s.core c).ctxs.filter (fun e => e.2.state != .free && e.2.part == p)).length
/-- Free contexts of a core, lowest first. -/
def freeCtxs (s : State) (c : Nat) : List Nat :=
  (List.range 1024).filter (fun x => (s.ctx c x).state == .free)

/-- The physical cores of an image's graph-local cores: the partition's in increasing number, or the map of the expert form (R167). -/
def coreMapOf (s : State) (p n : Nat) (map? : Option (List Nat)) : List Nat :=
  match map? with
  | some m => m.take n
  | none => (coresOf s p).take n

/-- The checks of an image in their order (R165, R396): the image mapped, the descriptor, its arrays, then formats, then ranges, then the contexts. The tasks when it passes. -/
def checkImage (s : State) (p image : Nat) (map? : Option (List Nat)) : Except Refuse (GraphDesc × List RawTask × List Nat) :=
  if anyBlock s p image 64 .unmapped then .error (stRange, detPar 0)
  else if anyBlock s p image 64 .poisoned then .error (stIntegrity, 0)
  else
    let d := readDesc s p image
    match descFormat d with
    | o :: _ => .error (stFormat, detGraph o)
    | [] =>
    -- an array that cannot be read leaves no task to check
    let dr := descRange s p d
    if dr.any (fun o => o == 4 || o == 16 || o == 24 || o == 32) then .error (stRange, detGraph (dr.headD 0))
    else if anyBlock s p d.taskAddr (256 * d.ntask) .poisoned || anyBlock s p d.extAddr (4 * d.next) .poisoned then .error (stIntegrity, 0)
    else
    let ts := (List.range d.ntask).map (readTask s p d)
    let digest := Config.sha384 (devRead s p d.taskAddr (256 * d.ntask) ++ devRead s p d.extAddr (4 * d.next))
    match firstTask ts (fun _ r => taskRights s p digest r) with
    | some e => .error (stRights, detTask e.1 e.2 ||| 0x80000000)
    | none =>
    match firstTask ts (taskFormat s p d) with
    | some e => .error (stFormat, detTask e.1 e.2)
    | none =>
    match badCount ts with
    | some e => .error (stFormat, detTask e.1 e.2)
    | none =>
    match cycleTask ts with
    | some i => .error (stFormat, detTask i 224)
    | none =>
    match dr with
    | o :: _ => .error (stRange, detGraph o)
    | [] =>
    let held := coresOf s p
    let map := coreMapOf s p d.ncore map?
    let badMap := map.zipIdx.find? (fun e => !held.contains e.1 || (map.take e.2).contains e.1)
    match badMap with
    | some e => .error (stRange, detPar (8 + e.2))
    | none =>
    if held.length < d.ncore then .error (stRange, detGraph 8)
    else
    match firstTask ts (fun _ r => taskRange s p d r ++ barrierRange s r.task ++ edgeRange ts r) with
    | some e => .error (stRange, detTask e.1 e.2)
    | none =>
    let need (i : Nat) : Nat := (ts.filter (fun r => r.task.core == i)).length
    if (List.range d.ncore).any (fun i => decide ((s.part p).qCtx.toNat < need i)) then .error (stRange, detGraph 4)
    else if (List.range d.ncore).any (fun i =>
        let c := map.getD i 0
        decide ((s.part p).qCtx.toNat < usedCtx s p c + need i ∨ (freeCtxs s c).length < need i)) then .error (stBusy, 0x01)
    else .ok (d, ts, map)

/-! ### Placing -/

/-- A context for each task in turn: the lowest free one of its core. -/
def pickCtxs (s : State) (map : List Nat) (ts : List RawTask) : List (Nat × Nat) :=
  ts.foldl (fun acc r =>
    let c := map.getD r.task.core 0
    let used := (acc.filter (fun e => e.1 == c)).map (·.2)
    acc ++ [(c, ((freeCtxs s c).find? (fun x => !used.contains x)).getD 0)]) []

/-- An accepted image placed under a handle: task indices of successors and of signal targets become context numbers (R167). -/
def placeGraph (s : State) (p image h : Nat) (d : GraphDesc) (ts : List RawTask) (map : List Nat) (old : Graph) : State :=
  let ctxs := pickCtxs s map ts
  let s1 := (ts.zip ctxs).foldl (fun t e =>
    let succs := e.1.succs.map (fun q => ({ ctx := (ctxs.getD (q.2 % 65536) (0, 0)).2, counter := q.2 / 65536 % 8 } : Succ))
    let targets := (signalTargets e.1.task).map (fun q =>
      let cx := ctxs.getD q.2.1 (0, 0)
      (cx.1, ({ ctx := cx.2, counter := q.2.2.1 } : Succ)))
    t.modCtx e.2.1 e.2.2 (fun _ => { state := .loaded, part := p, graph := BitVec.ofNat 32 h, task := { e.1.task with succs := succs, targets := targets }, counters := e.1.task.waits })) s
  let img := devRead s p image 64 ++ devRead s p d.taskAddr (256 * d.ntask) ++ devRead s p d.extAddr (4 * d.next)
  let g : Graph :=
      { old with part := p, image := image, imageCrc := crc64 img, standing := d.standing, ntask := d.ntask, period := d.period
                 digest := Config.sha384 (devRead s p d.taskAddr (256 * d.ntask) ++ devRead s p d.extAddr (4 * d.next))
                 fallback := BitVec.ofNat 32 d.fallback, phase := BitVec.ofNat 32 d.phase, coreMap := map, ctxOf := ctxs }
  { s1 with graphs := tset s1.graphs h g }

/-- LOAD (R165, R167): the image is checked and placed, and the reply's OBJ is its handle. -/
def loadBody (p : Nat) (s : State) (k : Packet) : State :=
  if !addrOk k 0 then refuseFmt s p k 0
  else
    let map? := if pktExpert k then some ((parBytes k 8 64).map (·.toNat)) else none
    match checkImage s p (parAddr k 0) map? with
    | .error r => reply s p k r.1 r.2 noObj 0
    | .ok (d, ts, map) =>
      let h := s.nGraphs % (2 ^ 32 - 1)
      let s1 := { placeGraph s p (parAddr k 0) h d ts map ({} : Graph) with nGraphs := s.nGraphs + 1 }
      reply s1 p k stDone 0 (BitVec.ofNat 32 h) (graphState s1 h)

/-- LOAD. -/
def execLoadGraph (p : PartId) (s : State) : Host.Outcome State Fault Refusal :=
  ends s (ringCmd s p 0x0401 8 72 [] (loadBody p))

/-- The graph that OBJ names, of the sending partition; the handle of none gives STATE_REFUSED with STATE 0x30 (R411). -/
def withGraph (s : State) (p : Nat) (k : Packet) (f : Nat → Graph → State) : State :=
  let h := (pktObj k).toNat
  match s.graph h with
  | some g => if g.part = p then f h g else refuseState s p k (pktObj k) 0x30
  | none => refuseState s p k (pktObj k) 0x30

/-- UNLOAD (R169, R411): refused while a run lives or the graph is started. -/
def execUnloadGraph (p : PartId) (s : State) : Host.Outcome State Fault Refusal :=
  ends s (ringCmd s p 0x0402 0 0 [] (fun s k => withGraph s p k (fun h g =>
    if g.run.isSome || g.started then refuseState s p k (pktObj k) (graphState s h)
    else
      let s1 := unloadNow s h
      reply s1 p k stDone 0 (pktObj k) (graphState s1 h))))

end Sys2Proof.Machine
end

