-- ==== Sys2Proof/Machine/Contain.lean ====
section
/-! DEFINITION. Containment: partition reset (R448 to R452), core reset (R195), fences of engines and cores (R153, R193, R194, R575, R576), and the errors that lead to them (R196, R448, R564 to R566). -/

namespace Sys2Proof.Machine

/-! ### Partition reset -/

/-- A check slot emptied. -/
def noSlot : CheckSlot := {}

/-- The partition of an engine's running or held task. -/
def engPart (k : Core) (e : Engine) : Option Nat :=
  match e.run, e.held with
  | some r, _ => some (tget {} k.ctxs r.ctx).part
  | none, some h => some (tget {} k.ctxs h.run.ctx).part
  | none, none => none

/-- A function applied to every engine of every core. -/
def mapEngines (s : State) (f : Core → Engine → Engine) : State :=
  { s with cores := tmap (fun k => { k with engines := tmap (f k) k.engines }) s.cores }

/-- An engine that lets its tile go and zeroes its SRAM. -/
def abandonTile (e : Engine) : Engine :=
  { e with run := none, held := none, t0 := [], t0Part := none, rampHeld := false
           state := if e.state = .busy ∨ e.state = .hold then .idle else e.state }

/-- Steps 2 and 3 of R449: engines running the partition's tiles abandon them and zero their SRAM. -/
def abandonEngines (s : State) (p : Nat) : State :=
  let s1 := s.cores.foldl (fun t k => k.2.engines.foldl (fun t e =>
    match e.2.run with | some r => if engPart k.2 e.2 = some p then keepNotes t k.1 r.ctx else t | none => t) t) s
  mapEngines s1 (fun k e => if engPart k e = some p then abandonTile e else e)

/-- Samples of the partition discarded unsettled, each counted (R598). -/
def discardSamples (s : State) (p : Nat) : State :=
  let n := (s.cores.map (fun c => (c.2.engines.filter (fun e => e.2.slot.stage != .empty && e.2.slot.part == p)).length)).foldl (· + ·) 0
  mapEngines { s with rel.skips := satAdd s.rel.skips n } (fun _ e => if e.slot.stage ≠ .empty ∧ e.slot.part = p then { e with slot := noSlot } else e)

/-- The partition's packets in hand end with ABORTED (R406). -/
def abortHand (s : State) (p : Nat) : State :=
  (s.part p).inHand.foldl (fun t k => reply t p k stAborted 0 noObj 0) (s.modPart p (fun q => { q with inHand := [] }))

/-- Commands of the partition that wait on its own blocks end with ABORTED: flushes and pins, and arms in progress. -/
def abortWaits (s : State) (p : Nat) : State :=
  let s1 := (s.mem.waits.filter (fun w => w.pend.part == p)).foldl (fun t w => replyLater t w.pend stAborted 0 noObj 0)
    { s with mem.waits := s.mem.waits.filter (fun w => w.pend.part != p) }
  (s1.graphs.filter (fun e => e.2.part == p)).foldl (fun t e =>
    e.2.arming.foldl (fun u a => replyLater u a.1 stAborted 0 (BitVec.ofNat 32 e.1) (graphState u e.1))
      (t.modGraph e.1 (fun g => { g with arming := [] }))) s1

/-- The handles of a partition's graphs. -/
def graphsOf (s : State) (p : Nat) : List Nat := (s.graphs.filter (fun e => e.2.part == p)).map (·.1)

/-- Every copy of the partition dropped without write-back, its translations forgotten (R269, R449 step 6). -/
def dropCopies (s : State) (p : Nat) : State :=
  let t := (s.map p).foldl (fun t e => if e.2.res = .none then t else dropCopy t p e.1) s
  { t with mem.btc := t.mem.btc.filter (fun e => e.2.1 != p) }

/-- The partition's streams emptied, their pins and counters cleared (R241). -/
def emptyStreams (s : State) (p : Nat) : State :=
  (List.range 24).foldl (fun t n =>
    let st := t.stream n
    if st.owned && st.owner.toNat == p then
      t.modStream n (fun q => { q with slots := [], pinned := none, newest := none, cur := none, next := 0, frames := 0, dropped := 0
                                       events.recur := 0, pinRun := none
                                       dropFrame := q.inFrame, fill := 0 })
    else t) s

/-- The partition's mailbox messages withdrawn and discarded, without EMPTY (R423). -/
def clearMbx (s : State) (m : Nat) : State :=
  s.modMbx m (fun x => { x with outFull := false, inValid := false, reply := none, served := false })

/-- The partition's own counters cleared (R242, R299). -/
def clearCounters (s : State) (p : Nat) : State :=
  { s with
    cad.pSkip := tset s.cad.pSkip p 0, cad.pLate := tset s.cad.pLate p 0, cad.pFallback := tset s.cad.pFallback p 0
    cad.pOverrun := tset s.cad.pOverrun p 0, cad.pStale := tset s.cad.pStale p 0
    mem.pFetch := tset s.mem.pFetch p 0, mem.pWb := tset s.mem.pWb p 0, mem.pEvict := tset s.mem.pEvict p 0
    mem.pCadMiss := tset s.mem.pCadMiss p 0 }

/-- The CRC of an image as memory now holds it. -/
def imageCrcNow (s : State) (p image : Nat) : W64 :=
  let d := readDesc s p image
  crc64 (devRead s p image 64 ++ devRead s p d.taskAddr (256 * min d.ntask 65536) ++ devRead s p d.extAddr (4 * min d.next 262144))

/-- A graph written again from its image; one whose CRC differs is unloaded, with a completion of INTEGRITY_FAILED (R328). -/
def rereadGraph (s : State) (h : Nat) : State :=
  match s.graph h with
  | none => s
  | some g =>
    if imageCrcNow s g.part g.image = g.imageCrc then s
    else complete (unloadNow s h) g.part { tag := g.tag, status := stIntegrity, opcode := 0x0401, obj := BitVec.ofNat 32 h, state := 0x30, ring := g.ring, notify := g.notify }

/-- The SPDM sessions whose source is a partition end, their Cave slots zeroed (R539). -/
def endSpdm (s : State) (p : Nat) : State :=
  let gone := s.att.sessions.filter (fun e => e.2.source == p)
  { s with
    att.sessions := s.att.sessions.filter (fun e => e.2.source != p)
    rennet.cave := gone.foldl (fun c e => (List.range 3).foldl (fun c i => tset c (10 + 3 * (e.1 % 2) + i) (List.replicate 64 0)) c) s.rennet.cave }

/-- The SPDM sessions over the fabric with some devices end, their Cave slots zeroed (R539). -/
def endFabSpdm (s : State) (which : Nat → Bool) : State :=
  let dies (x : SpdmSession) : Bool := match x.dev with | some d => which d | none => false
  let gone := s.att.sessions.filter (fun e => dies e.2)
  { s with
    att.sessions := s.att.sessions.filter (fun e => !dies e.2)
    rennet.cave := gone.foldl (fun c e => (List.range 3).foldl (fun c i => tset c (10 + 3 * (e.1 % 2) + i) (List.replicate 64 0)) c) s.rennet.cave }

/-- A SECURE message sent as frames of at most 256 bytes, LAST on the final one (R350, R536). -/
def sendSecure (s : State) (dst ptag code exchange : Nat) (m : List Byte) : State :=
  let n := max 1 (ceilDiv m.length 256)
  let arg : W64 := BitVec.ofNat 64 (code + (m.length % 2 ^ 24) * 2 ^ 8 + (exchange % 2 ^ 32) * 2 ^ 32)
  (List.range n).foldl (fun t i =>
    sendFrame t { mkFrame t 0x30 dst false ptag arg ((m.drop (256 * i)).take 256) with last := decide (i + 1 = n) } none) s

/-- A formation message to a device (R542). -/
def sendSet (s : State) (dst : Nat) (m : SetMsg) : State :=
  let code := match m with | .hello _ _ => 0x10 | .offer _ => 0x11 | .key _ => 0x12 | .confirm _ => 0x13 | .done _ _ => 0x14 | .abort _ _ => 0x1F
  sendSecure s dst 0x3F code 0 (Config.setEncode m)

/-- A formation fails (R544): a coordinator tells every member, the exchange keys are discarded, and SET_FORM completes. -/
def failForm (s : State) (status : W16) (detail : Nat) : State :=
  match s.att.forming with
  | none => s
  | some f =>
    let s1 := if f.coord.isNone then f.peers.foldl (fun t m => sendSet t m.dev (.abort f.setId f.epoch)) s else s
    let s2 := { s1 with att.forming := none }
    replyLater s2 f.pend status (BitVec.ofNat 32 detail) noObj 0xC0

/-- What a partition reset does in its steps 2 to 8 (R449). -/
def resetBody (s : State) (p : Nat) : State :=
  let s1 := abandonEngines s p
  let s2 := (graphsOf s1 p).foldl (fun t h => endRun t h stAborted .loaded) s1
  let s3 := { s2 with
    mem.queue := s2.mem.queue.filter (fun r => r.part != p)
    mem.outReq := s2.mem.outReq.filter (fun r => r.part != p || r.id.isSome)
    press.readQ := s2.press.readQ.filter (fun r => r.part != p || r.issued)
    spr.preQueue := s2.spr.preQueue.filter (fun e => e.part != p)
    fab.txns := s2.fab.txns.filter (fun e => (s2.ctx e.2.core e.2.ctx).part != p)
    fab.bars := tmap (fun b => match b.pend with
      | some (c, x, _, _) => if (s2.ctx c x).part = p then { b with pend := none } else b
      | none => b) s2.fab.bars }
  let s4 := discardSamples (dropCopies s3 p) p
  let s5 := clearCounters (clearMbx (emptyStreams (abortWaits s4 p) p) p) p
  endSpdm ((graphsOf s5 p).foldl rereadGraph s5) p

/-- A partition reset (R448, R449): causes are 1 uncorrectable, 2 context parity, 3 block table, 4 command. A second trigger merges with the reset under way and is counted (R451). -/
def partitionReset (s : State) (p cause : Nat) : State :=
  match (s.part p).state with
  | .absent => s
  | .resetting => s.modPart p (fun q => { q with resets := satInc q.resets, resetCause := BitVec.ofNat 3 cause })
  | .ready =>
    let s1 := s.modPart p (fun q => { q with state := .resetting, resets := satInc q.resets, resetCause := BitVec.ofNat 3 cause })
    globalNote (partNote (resetBody (abortHand s1 p) p) p 1) 1

/-- Step 9 of a partition reset (R449): READY; held interrupts leave, pinned blocks are fetched at rank 5, and the reset command is answered. -/
def resetReady (s : State) (p : Nat) : State :=
  if (s.part p).state = .resetting ∧ !s.pwr.trip then
    let s1 := sendHeldVectors (s.modPart p (fun q => { q with state := .ready })) p
    let s2 := (s1.map p).foldl (fun t e => if e.2.pin && (t.block p e.1).state = .home then startFetch t p e.1 5 (classOf t p) (if e.2.hint = 2 then none else (coresOf t p).head?) else t) s1
    (s2.part p).resetTag.foldl (fun t d => replyLater t d stDone 0 (BitVec.ofNat 32 p) (partState t p))
      (s2.modPart p (fun q => { q with resetTag := [] }))
  else s

/-- PARTITION_RESET_READY (R449 step 9). -/
def execPartitionResetReady (p : PartId) (now : W64) (s : State) : Host.Outcome State Fault Refusal :=
  endsAt s now (fun s => resetReady s p)

/-! ### Core reset (R195, R670) -/

/-- The graphs with a task on a core. -/
def graphsOn (s : State) (c : Nat) : List Nat := (s.graphs.filter (fun e => e.2.ctxOf.any (fun x => x.1 == c))).map (·.1)

/-- A graph that loses a core: its run ends with ABORTED while its tasks elsewhere complete, and it is unloaded (R195). -/
def loseCore (s : State) (c h : Nat) : State :=
  match s.graph h with
  | none => s
  | some g =>
    let mine := g.ctxOf.filter (fun x => x.1 == c)
    let s0 := mine.foldl (fun t x =>
      let k := t.ctx x.1 x.2
      if (k.state == .queued || k.state == .running || k.state == .held) && (engineKind k.task.kind || moverKind k.task.kind) then giveUse (keepNotes t x.1 x.2) x.1 x.2 else t) s
    let s1 := (dropFabric (dropSet s0 h) { g with ctxOf := mine }).modGraph h (fun q => { q with ctxOf := q.ctxOf.filter (fun x => x.1 != c), leaving := true })
    let s2 := s1.modRun h (fun r => { r with signals := r.signals.filter (fun m => m.1 != c) })
    if g.run.isSome then failRun s2 h stAborted.toNat else unloadNow s2 h

/-- An engine after a core reset: its reset values, but for a fence (R154, R155). -/
def resetEngine (e : Engine) : Engine :=
  match e.state with
  | .fenced | .fencing => { state := .fenced, permTs := e.permTs }
  | _ => {}

/-- A core's sequencer, contexts, queues and engines at their reset values; its domain, clocks and point as they were. -/
def resetCore (k : Core) : Core :=
  { k with qlimit := 4, events := {}, sigSent := 0, sigRecv := 0, redisp := 0, doneCnt := 0, ctxs := [], engines := tmap resetEngine k.engines
           tmQueue := [], tmRun := none, tmWait := false, tmAsked := false, bytesIn := 0, bytesOut := 0, decompErr := 0, vtime := [] }

/-- A core reset of core `c` (R195); one of a core whose domain is off is ignored (R671). -/
def coreReset (s : State) (c : Nat) : State :=
  if !(s.core c).on then s
  else ((graphsOn s c).foldl (fun t h => loseCore t c h) s).modCore c resetCore

/-- CORE_RESET (R195). -/
def execCoreReset (c : CoreId) (s : State) : Host.Outcome State Fault Refusal := endsCore s c (coreReset s c)

/-- A sequencer event raised: 0 CTX_PARITY, 1 SIG_DROP, 2 REDISPATCH, 3 QFULL_CAD (R199). -/
def seqEvent (s : State) (c bit : Nat) : State := s.modCore c (fun k => { k with events := raiseEv k.events bit })

/-- CTX_PARITY (R196): a partition reset of the owner, or a core reset where the state belongs to none. -/
def execCtxParity (c : CoreId) (owner : Option PartId) (s : State) : Host.Outcome State Fault Refusal :=
  endsCore s c (match owner with
    | some p => partitionReset (seqEvent s c 0) p 2
    | none => coreReset (seqEvent s c 0) c)

/-! ### Fences (R153, R193, R194, R575, R576) -/

/-- The tasks of an engine in queue order, the running or held one first. -/
def engineTasks (e : Engine) : List Nat :=
  (match e.run, e.held with | some r, _ => [r.ctx] | none, some h => [h.run.ctx] | none, none => []) ++ e.queue

/-- A task returned by a fence: READY again with its ready time, free to go to any engine, its work so far forgotten but for its notes (R94, R154, R193). -/
def returnTask (s : State) (c x : Nat) : State :=
  (giveUse (keepNotes s c x) c x).modCtx c x (fun k => { k with state := .ready, engine := none, redisp := true, fetched := false, notes := 0, digest := 0 })

/-- The powered, unfenced engines of the instance in increasing initiator index (R570). -/
def rotation (s : State) : List Nat :=
  (List.range (8 * s.ncores)).filter (fun i =>
    let st := (s.engine (i / 8) (i % 8)).state
    (s.core (i / 8)).on && !(s.core (i / 8)).fenced && st != .fenced && st != .fencing && st != .off)

/-- The duplicates that a fenced checker held move to the next rotation position; without another engine their samples are abandoned and counted (R570, R598). -/
def moveChecks (s : State) (idx : Nat) : State :=
  let live := rotation s
  s.cores.foldl (fun t k => k.2.engines.foldl (fun t e =>
    let own := 8 * k.1 + e.1
    let waits := e.2.slot.stage == .captured || e.2.slot.stage == .forced
    if !waits || e.2.slot.checker != idx then t
    else
      let l := live.filter (· != own)
      match (l.find? (fun i => decide (idx < i))).or l.head? with
      | some i => t.modEngine k.1 e.1 (fun g => { g with slot := { g.slot with checker := i } })
      | none => { t.modEngine k.1 e.1 (fun g => { g with slot := noSlot }) with rel.skips := satInc t.rel.skips }) t) s

/-- The steps of R153 on one engine; the duplicates it was to check move on (R598). -/
def stopEngine (s : State) (c e : Nat) : State :=
  let g := s.engine c e
  let s1 := (engineTasks g).foldl (fun t x => returnTask t c x) s
  moveChecks (s1.modEngine c e (fun g => { g with state := .fenced, events := raiseEv g.events 4, queue := [], run := none, held := none, t0 := [], t0Part := none, slice := 0, rampHeld := false })) (8 * c + e)

/-- The devices that share a replica job or a barrier group with this one. -/
def fencePeers (s : State) : List Nat :=
  let me := s.fab.id.toNat
  let ds := (s.fab.jobs.filter (fun e => e.2.valid)).flatMap (fun e => e.2.members.map (·.1))
    ++ (s.fab.bars.filter (fun e => e.2.valid)).flatMap (fun e => e.2.members.map (·.1))
  (ds.filter (· != me)).dedup

/-- The number of engines of a unit's report: the cause's code is not fixed by the manual (notes/assumptions/11). -/
def causeData (s : State) : W64 := Config.free 64 s.freeNo 20

/-- Step 3 of R576: the FENCE report with its pinned Rind entry, and a FENCE frame to every peer. -/
def announceFence (s : State) (unit : W16) (isCore : Bool) : State :=
  let s1 := sendReport (relEvent s 2) { mkReport s 0x0501 unit 64 with data := causeData s }
  let arg : W64 := BitVec.ofNat 64 (unit.toNat + b2n isCore * 65536 + s1.rel.reportSeq.toNat * 2 ^ 32)
  (fencePeers s1).foldl (fun t d => sendFrame t (mkFrame t 0x06 d false 0x3F arg []) none) s1

/-- The GRAPH_UNFIT report (R194). -/
def unfitReport (s : State) (h p : Nat) : State :=
  sendReport s { mkReport s 0x0503 (initId 2 0) p with handle := BitVec.ofNat 32 h }

/-- A standing graph written onto the cores its partition has left; one that no longer fits stays unloaded and is reported (R194). -/
def reloadElsewhere (s : State) (h : Nat) (g : Graph) : State :=
  let cores := (coresOf s g.part).filter (fun c => !(s.core c).fenced)
  match checkImage s g.part g.image (some cores) with
  | .ok (d, ts, map) =>
    if cores.length < d.ncore then unfitReport s h g.part
    else placeGraph s g.part g.image h d ts map { g with run := none, armed := false, arming := [], leaving := false }
  | .error _ => unfitReport s h g.part

/-- Steps 4 and 5 of R576: the runs of a fenced core end with UNIT_FENCED, their contexts are freed on every core, and started standing graphs are loaded again. -/
def leaveCore (s : State) (h : Nat) : State :=
  match s.graph h with
  | none => s
  | some g =>
    if g.run.isSome then
      let s1 := endRun s h stUnitFenced .loaded
      let s2 := unloadNow s1 h
      if g.started then reloadElsewhere s2 h { g with stopping := none } else s2
    else if g.started then reloadElsewhere (unloadNow s h) h g
    else s

/-- A core becomes fenced, with the effects of R194. -/
def coreFenced (s : State) (c : Nat) : State :=
  let s1 := s.modCore c (fun k => { k with fenced := true })
  (graphsOn s1 c).foldl (fun t h => leaveCore t h) s1

/-- A fence of a core: all its engines at once (R153), then the core's effects. -/
def fenceCore (s : State) (c : Nat) : State :=
  let s1 := (List.range 8).foldl (fun t e => if (t.engine c e).state = .fenced then t else stopEngine t c e) s
  coreFenced (announceFence s1 (initId 3 c) true) c

/-- A fence of an engine; the eighth of a core fences the core (R194, R575). -/
def fenceEngine (s : State) (c e : Nat) : State :=
  if (s.engine c e).state = .fenced then s
  else
    let s1 := announceFence (stopEngine s c e) (engInit c e) false
    if (List.range 8).all (fun i => (s1.engine c i).state == .fenced) && !(s1.core c).fenced then coreFenced (announceFence s1 (initId 3 c) true) c else s1

/-- Whether another engine of the core was found permanent within the last 10 ms (R575). -/
def otherPermanent (s : State) (c e : Nat) : Bool :=
  (List.range 8).any (fun i => i != e && (match (s.engine c i).permTs with | some t => decide (s.ts.toNat ≤ t.toNat + 10000000) | none => false))

/-- A permanent finding (R575): a fence, of the whole core where a second engine is found within 10 ms; or, while AUTO_FENCE is clear, a FENCE_WITHHELD report only. -/
def permanent (s : State) (c e : Nat) : State :=
  let s1 := s.modEngine c e (fun g => { g with permTs := some s.ts })
  if !s.rel.autoFence then sendReport s1 { mkReport s1 0x0504 (engInit c e) 64 with data := causeData s1 }
  else if otherPermanent s c e then fenceCore s1 c
  else fenceEngine s1 c e

/-- ENGINE_FENCE (R153). -/
def execEngineFence (c : CoreId) (e : EngId) (s : State) : Host.Outcome State Fault Refusal := endsCore s c (fenceEngine s c e)

/-! ### Parity and ECC (R564 to R566) -/

/-- PARITY_FAIL (R564): counted; a second failure of one transfer is an uncorrectable error of its partition, or is told to the island that acts for itself. -/
def parityFail (s : State) (unit : W16) (ptag : BitVec 6) (second : Bool) : State :=
  let s1 := relEvent { s with rel.parity := satInc s.rel.parity } 5
  let island := ptag == 0x3F && islandClass (initClass unit)
  if second then
    let s2 := report s1 0x0605 unit (if island then 64 else ptag.toNat)
    if island then s2 else partitionReset s2 ptag.toNat 1
  else s1

/-- A parity error in a cache of translations or counters (R562): counted, and the entry dropped, so that its next use walks again. -/
def cacheParity (s : State) (at_ : ParityAt) : State :=
  let s1 := relEvent { s with rel.parity := satInc s.rel.parity } 5
  match at_ with
  | .transfer _ => s
  | .translation h p b => { s1 with mem.btc := s1.mem.btc.filter (fun x => x != (h, p, b)) }
  | .counters port b => { s1 with mem.ccache := s1.mem.ccache.filter (fun x => x != (port, b)) }

/-- PARITY_FAIL. -/
def execParityFail (unit : W16) (ptag : BitVec 6) (at_ : ParityAt) (s : State) : Host.Outcome State Fault Refusal :=
  ends s (match at_ with
    | .transfer second => parityFail s unit ptag second
    | .translation _ _ _ | .counters _ _ => cacheParity s at_)

/-- ECC_CORRECTED (R565): counted, with an ECC_BURST report when one macro passes REL_CORR_LIMIT within 1 s. -/
def eccCorrected (s : State) (unit : W16) (place : EccPlace) : State :=
  let s1 := relEvent { s with rel.eccCorr := satInc s.rel.eccCorr } 3
  let s2 := match place with
    | .t0 c e => s1.modEngine c e (fun g => { g with events := raiseEv g.events 1 })
    | _ => s1
  let recent := (unit, s.ts) :: (s2.rel.burst.filter (fun b => decide (s.ts.toNat < b.2.toNat + 1000000000)))
  let n := (recent.filter (fun b => b.1 == unit)).length
  let s3 := { s2 with rel.burst := recent }
  if s.rel.corrLimit.toNat < n then report { s3 with rel.burst := recent.filter (fun b => b.1 != unit) } 0x0604 unit 64 else s3

/-- ECC_CORRECTED. -/
def execEccCorrected (unit : W16) (place : EccPlace) (now : W64) (s : State) : Host.Outcome State Fault Refusal :=
  endsAt s now (fun s => eccCorrected s unit place)

end Sys2Proof.Machine
end

