-- ==== Sys2Proof/Machine/Sched.lean ====
section
/-! DEFINITION. The core sequencer: dispatch (R178 to R181, R446, R447), release times, deadlines, waits, signals and the ends of tasks (R172 to R190, R218 to R228). -/

namespace Sys2Proof.Machine

/-! ### Dispatch -/

/-- Whether a READY task of a context may run: its run goes on, or a fence returned it from a queue, whose tasks complete after a stop (R176, R193). -/
def runGoes (s : State) (k : Ctx) : Bool := match runOf s k.graph.toNat with | some r => !r.stopped || k.redisp | none => false

/-- The READY tasks of a core in the order of R178. -/
def offered (s : State) (c : Nat) : List Nat :=
  let rs := ((s.core c).ctxs.filter (fun e => e.2.state == .ready && runGoes s e.2)).map (·.1)
  sortBy (fun a b => keyLt (offerKey s c a) (offerKey s c b)) rs

/-- Whether a core takes work: powered, out of reset and clocked, which outside state A it is not (R40, R619). -/
def coreRuns (s : State) (c : Nat) : Bool := (s.core c).on && !(s.core c).inReset && !s.pwr.trip && s.spr.pstate == .a

/-- Whether a tile queue admits a task (R179). -/
def admits (s : State) (c e : Nat) (cls : SClass) : Bool :=
  let q := (s.engine c e).queue
  let other := q.filter (fun x => (s.ctx c x).cls != .cadence)
  decide (q.length < 32) && (cls == .cadence || decide (other.length < (s.core c).qlimit.toNat))

/-- Whether the slice of a shared core's engine leaves it free for another partition's task (R446). -/
def sliceLets (s : State) (c e : Nat) (k : Ctx) : Bool :=
  match (s.engine c e).t0Part with
  | none => true
  | some p =>
    let ready := ((s.core c).ctxs.filter (fun r => r.2.state == .ready && runGoes s r.2)).map (·.2)
    p == k.part || !sharedCore s c || !(ready.any (fun r => r.part == p && r.cls == k.cls))
      || decide ((s.part p).slice.toNat ≤ (s.engine c e).slice) || ready.any (fun r => decide (classRank r.cls < classRank k.cls))

/-- The engine for a task (R180): its own, or the powered, unfenced engine with the fewest entries. -/
def pickEngine (s : State) (c x : Nat) : Option Nat :=
  let k := s.ctx c x
  let all := if k.task.engine < 8 ∧ !k.redisp then [k.task.engine] else List.range 8
  let ok := all.filter (fun e =>
    let st := (s.engine c e).state
    st != .fenced && st != .fencing && st != .off && admits s c e k.cls && sliceLets s c e k)
  if (s.core c).fenced || !coreRuns s c then none
  else ok.foldl (fun b e => match b with
    | none => some e
    | some a => if (s.engine c e).queue.length < (s.engine c a).queue.length then some e else some a) none

/-- Whether a queue of an engine that a task may go to admits it (R179, R180). -/
def someAdmits (s : State) (c x : Nat) : Bool :=
  let k := s.ctx c x
  let all := if k.task.engine < 8 ∧ !k.redisp then [k.task.engine] else List.range 8
  all.any (fun e =>
    let st := (s.engine c e).state
    st != .fenced && st != .fencing && st != .off && admits s c e k.cls)

/-- Whether the T0 regions of a queued engine task are free of the tasks of its engine ahead of it (R110, R183); a mover task has none. -/
def t0Free (s : State) (c x : Nat) : Bool :=
  let k := s.ctx c x
  match k.engine with
  | none => true
  | some e => ((engineTasks (s.engine c e)).takeWhile (· != x)).all (fun y => !regionsMeet (s.ctx c y).task k.task)

/-- The tile mover starts to fetch a queued task's operands once its T0 regions are free (R183); each task's fetches start once. -/
def fetchQueued (s : State) (c x : Nat) : State :=
  let k := s.ctx c x
  if k.state = .queued ∧ !k.fetched ∧ t0Free s c x then
    fetchEntries (s.modCtx c x (fun q => { q with fetched := true })) c x (fetchRank s k) true (fun _ => true)
  else s

/-- The queued tasks of a core whose T0 regions an ended task has freed start their fetches, in the order of R178 (R183). -/
def fetchFreed (s : State) (c : Nat) : State :=
  let l := (s.core c).engines.flatMap (fun e => e.2.queue)
  (sortBy (fun a b => keyLt (offerKey s c a) (offerKey s c b)) l).foldl (fun t x => fetchQueued t c x) s

/-- Copies of a task's input blocks that have no users move to where its entries install them before it takes its uses (R257). -/
def moveNearer (s : State) (c x : Nat) : State :=
  fetchEntries s c x (fetchRank s (s.ctx c x)) true (fun o => (entryBlocks o).all (fun b => onChipOrCache (s.block (s.ctx c x).part b)))

/-! ### Bytes that a task waits for (R183, R184, R254, R257, R275, R298) -/

/-- The blocks of some byte ranges, each range with the hint of the entry that names it: each block once, with a hint and the sectors touched. -/
def blockNeeds (l : List (Nat × Nat × Nat)) : List (Nat × Nat × BitVec 16) :=
  (l.flatMap (fun a => (blocksOf a.2.1 a.2.2).map (fun b =>
    let lo := max a.2.1 (b * blockBytes) - b * blockBytes
    let hi := min (a.2.1 + a.2.2) ((b + 1) * blockBytes) - b * blockBytes
    (b, a.1, touched lo (hi - lo))))).foldl (fun acc n =>
      match acc.find? (fun m => m.1 == n.1) with
      | some _ => acc.map (fun m => if m.1 = n.1 then (m.1, m.2.1, m.2.2 ||| n.2.2) else m)
      | none => acc ++ [n]) []

/-- The lowest sector of a mask. -/
def firstSector (mask : BitVec 16) : Nat := ((List.range 16).find? (fun j => mask.getLsbD j)).getD 0

/-- The fetch that a needed block in HOME asks for, where its hint installs it (R254, R256, R259, R260). -/
def needFetch (s : State) (c x : Nat) (tensor : Bool) (n : Nat × Nat × BitVec 16) : State :=
  let k := s.ctx c x
  let blk := s.block k.part n.1
  let d := match hintDest n.2.1 blk.hint (some c) with
    | none => if tensor then some (some c) else none
    | d => d
  match d with
  | some d =>
    if blk.state = .home ∨ blk.state = .fetching ∨ blk.leaving then
      requestFetch s { part := k.part, block := n.1, rank := fetchRank s k, cls := k.cls, dest := d, first := firstSector n.2.2
                       deadline := (deadlineOf s k).getD noDeadline, order := offerKey s c x }
    else s
  | none => s

/-- How a task meets a block it needs: its bytes are here, on their way, or read where they lie. -/
inductive Meets where
  | here | coming | inPlace
  deriving DecidableEq, Repr

/-- How the sectors of a block are met once its fetch has been asked for: a block that no slot could take is read in place (R254, R257, R264). -/
def meets (s : State) (p b : Nat) (mask : BitVec 16) : Meets :=
  let blk := s.block p b
  match blk.state with
  | .fetching => if mask &&& ~~~blk.landed = 0 then .here else .coming
  | .home => if queueFull s || s.mem.queue.any (fun q => q.part == p && q.block == b && q.kind == .fetch) then .coming else .inPlace
  | .clean | .dirty | .writeback => match blk.res with | .cache _ => .inPlace | _ => .here
  | _ => .here

/-- A read in place asked for: on the core's memory port from a T3 home or the T3 cache, of the Press from a T4 home (R257, R262). -/
def askInPlace (s : State) (c x : Nat) (n : Nat × Nat × BitVec 16) : State :=
  let k := s.ctx c x
  let p := k.part
  let blk := s.block p n.1
  let secs := (List.range 16).filter (fun j => n.2.2.getLsbD j)
  let rank := fetchRank s k
  match blk.state, blk.res, blk.home with
  | .home, _, .t3 h => if blk.written then askPort s c false true p n.1 (homeAddr s p h) rank k.cls secs ((deadlineOf s k).getD noDeadline) else s
  | .home, _, .t4 r kb => askPress s p n.1 r kb n.2.2 (firstSector n.2.2) rank ((deadlineOf s k).getD noDeadline) k.cls
  | _, .cache sl, _ => askPort s c false true p n.1 (cacheAddr s sl) rank k.cls secs ((deadlineOf s k).getD noDeadline)
  | _, _, _ => s

/-- Whether a read of a block in place has not been answered. -/
def readOwed (s : State) (p b : Nat) : Bool :=
  s.mem.outReq.any (fun r => r.part == p && r.block == b && r.copy && !r.write && r.beats == 32 && r.host.isNone)
  || s.press.readQ.any (fun r => r.part == p && r.block == b && !r.patrol && r.host.isNone)

/-- A task asks for the blocks it needs: whether every byte is here or has been read, whether its reads in place have now been asked for, and the state after. -/
def awaitBytes (s : State) (c x : Nat) (tensor asked : Bool) (needs : List (Nat × Nat × BitVec 16)) : Bool × Bool × State :=
  let p := (s.ctx c x).part
  let s1 := needs.foldl (fun t n => needFetch t c x tensor n) s
  if needs.any (fun n => meets s1 p n.1 n.2.2 == .coming) then (false, asked, s1)
  else
    let place := needs.filter (fun n => meets s1 p n.1 n.2.2 == .inPlace)
    if place = [] then (true, asked, s1)
    else if asked then (!place.any (fun n => readOwed s1 p n.1), asked, s1)
    else
      let s2 := place.foldl (fun t n => askInPlace t c x n) s1
      (!place.any (fun n => readOwed s2 p n.1), true, s2)

/-- The blocks that a task uses now: translated by its core's cache, their last use the present (R252, R263). -/
def touchBlocks (s : State) (c p : Nat) (bs : List Nat) : State :=
  bs.foldl (fun t b => btcTouch (t.modBlock p b (fun v => { v with lastUse := s.ts })) c p b) s

/-! ### Queues -/

/-- A task given back by a fence is dispatched again: counted, with REDISPATCH (R193). -/
def countRedisp (s : State) (c x : Nat) : State :=
  if (s.ctx c x).redisp then (seqEvent s c 2).modCore c (fun k => { k with redisp := satInc k.redisp }) else s

/-- A task enters a queue: it takes its uses, and the fetches of its blocks start where its T0 regions are free (R183, R257). -/
def enterQueue (s : State) (c x : Nat) (e : Option Nat) : State :=
  let s1 := takeUse (moveNearer (countRedisp s c x) c x) c x
  let s2 := s1.modCtx c x (fun k => { k with state := .queued, engine := e, redisp := false, fetched := false })
  let s3 := match e with
    | some e => s2.modEngine c e (fun g => { g with queue := g.queue ++ [x] })
    | none => s2.modCore c (fun k => { k with tmQueue := k.tmQueue ++ [x] })
  fetchQueued s3 c x

/-- A task starts running, its start stamped. -/
def beginTask (s : State) (c x : Nat) : State :=
  s.modCtx c x (fun k => { k with state := .running, startTs := s.ts, startExt := BitVec.ofNat 64 (extTime s) })

/-- A task offered: whether an executor took it, and the state after (R180, R181). -/
def offer (s : State) (c x : Nat) : Bool × State :=
  let k := s.ctx c x
  if engineKind k.task.kind then
    match pickEngine s c x with
    | some e => (true, enterQueue s c x (some e))
    | none => (false, if k.cls = .cadence ∧ !someAdmits s c x then seqEvent s c 3 else s)
  else if moverKind k.task.kind then
    if (s.core c).tmQueue.length < 64 then (true, enterQueue s c x none) else (false, s)
  else (true, beginTask (countRedisp s c x) c x)

/-- The offers of one cycle: at most `n` tasks are placed (R178). -/
def offerAll (c : Nat) : Nat → List Nat → State → State
  | 0, _, s => s
  | _, [], s => s
  | n + 1, x :: r, s =>
    match offer s c x with
    | (true, s1) => offerAll c n r s1
    | (false, s1) => offerAll c (n + 1) r s1

/-- TASK_DISPATCH (R178): at most two tasks in a cycle. -/
def execTaskDispatch (c : CoreId) (s : State) : Host.Outcome State Fault Refusal :=
  endsCore s c (if coreRuns s c then offerAll c 2 (offered s c) s else s)

/-! ### Times -/

/-- TASK_RELEASE_TIME (R172, R220): external time has reached A + RELEASE. -/
def execTaskReleaseTime (c : CoreId) (x : CtxId) (now : W64) (s : State) : Host.Outcome State Fault Refusal :=
  let s := s.advance now
  let k := s.ctx c x
  endsCore s c (match runOf s k.graph.toNat with
    | some r =>
      if k.state = .waiting ∧ !k.released ∧ r.cadence ∧ r.a.toNat + k.task.release.toNat ≤ extTime s then
        checkReady (s.modCtx c x (fun q => { q with released := true })) c x
      else s
    | none => s)

/-- RUN_RELEASE (R219): a single cadence-bound run whose time has come. -/
def execRunRelease (graph : W32) (now : W64) (s : State) : Host.Outcome State Fault Refusal :=
  endsAt s now (fun s => match s.graph graph.toNat, runOf s graph.toNat with
    | some g, some r => if !r.released ∧ r.a.toNat ≤ extTime s then releaseSingle s graph.toNat g r else s
    | _, _ => s)

/-- STANDING_RELEASE (R218, R227, R236): the next release of a started graph when external time has reached it. -/
def execStandingRelease (graph : W32) (now : W64) (s : State) : Host.Outcome State Fault Refusal :=
  endsAt s now (fun s => match s.graph graph.toNat with
    | some g => match g.e0 with
      | some e0 =>
        if g.started ∧ e0.toNat + g.phase.toNat + g.nextK * g.period * 65536 ≤ extTime s then standingRelease s graph.toNat else s
      | none => s
    | none => s)

/-- A task withdrawn before it started: it leaves its queue and is DONE with outcome skipped, counted, its successors' counters falling (R175, R223, R225). -/
def withdraw (s : State) (c x : Nat) : State :=
  let k := s.ctx c x
  let s1 := leaveQueues s c x
  let s2 := if k.state = .queued then giveUse s1 c x else s1
  let s3 := { s2 with cad.pSkip := bump32 s2.cad.pSkip k.part }
  let s4 := (s3.modCtx c x (fun q => { q with state := .done, outcome := .skipped })).modCore c (fun q => { q with doneCnt := satInc q.doneCnt })
  decrementAll s4 c k.task.succs

/-- The run of a missed FALLBACK task stops: its unstarted tasks are withdrawn and the fallback graph is released once, with A at the deadline instant (R222, R224, R226). -/
def fallbackStop (s : State) (h a : Nat) : State :=
  match s.graph h, runOf s h with
  | some g, some r =>
    let free := !r.fbFired && fallbackFree s g
    let s1 := s.modRun h (fun q => { q with stopped := true, fbFired := q.fbFired || free })
    let s2 := (orderedTasks s g).foldl (fun t cx =>
      let st := (t.ctx cx.1 cx.2).state
      if st = .waiting ∨ st = .ready ∨ st = .queued then withdraw t cx.1 cx.2 else t) s1
    let s3 := if r.fbFired then s2
              else fallbackRelease (if free then { s2 with cad.pFallback := bump32 s2.cad.pFallback g.part } else s2) h a
    tryRetire s3 h
  | _, _ => s

/-- The policy that applies (R226): FALLBACK acts as SKIP in a run that is itself a fallback. -/
def policyOf (r : Run) (t : Task) : Policy := if r.fallback ∧ t.policy = .fallback then .skip else t.policy

/-- A deadline reached by a task that is not DONE (R222). -/
def deadlineHit (s : State) (c x : Nat) : State :=
  let k := s.ctx c x
  let h := k.graph.toNat
  match runOf s h, deadlineOf s k with
  | some r, some d =>
    let unstarted := k.state == .waiting || k.state == .ready || k.state == .queued
    let begun := k.state == .running || k.state == .held
    if extTime s < d ∨ !(unstarted || begun) then s
    else
      match policyOf r k.task, unstarted with
      | .skip, true =>
        let s1 := noteMissed s c x
        let s2 := leaveQueues { s1 with cad.pSkip := bump32 s1.cad.pSkip k.part } c x
        finishTask s2 c x .skipped
      | .fallback, _ =>
        if k.missed then s
        else
          let busy := !r.fbFired && (match s.graph h with | some g => fallbackBusy s g | none => false)
          let s1 := if begun && busy then s.modCtx c x (fun q => { q with outcome := .skipped }) else s
          fallbackStop (noteMissed s1 c x) h d
      | _, _ => if k.outcome = .late then s else (noteMissed s c x).modCtx c x (fun q => { q with outcome := .late })
  | _, _ => s

/-- The tasks of a task's run whose deadlines fall at the same instant and whose policies apply before its own, in order of graph-local core and task index (R224). -/
def deadlineBefore (s : State) (c x : Nat) : List (Nat × Nat) :=
  let k := s.ctx c x
  match s.graph k.graph.toNat, deadlineOf s k with
  | some g, some d => ((orderedTasks s g).takeWhile (· != (c, x))).filter (fun cx => deadlineOf s (s.ctx cx.1 cx.2) == some d)
  | _, _ => []

/-- DEADLINE (R222, R224). -/
def execTaskDeadline (c : CoreId) (x : CtxId) (now : W64) (s : State) : Host.Outcome State Fault Refusal :=
  let s1 := s.advance now
  endsCore s c (deadlineHit ((deadlineBefore s1 c x).foldl (fun t cx => deadlineHit t cx.1 cx.2) s1) c x)

/-- Whether a sequencer task may start or has started. -/
def seqStarts (k : Ctx) (kind : Kind) : Bool := k.task.kind == kind && (k.state == .ready || k.state == .running)

/-- Whether a wait is over (R228): A + OFFSET reached, or a whole beat strictly after the start. -/
def waitOver (s : State) (k : Ctx) (r : Run) : Bool :=
  !r.cadence ||
  (if pbf k.task 0 1 = 0 then decide (r.a.toNat + pbf k.task 4 4 ≤ extTime s)
   else decide (k.startExt.toNat / 65536 < extTime s / 65536))

/-- WAIT_FOR_CADENCE (R171, R228): the task starts, and is done at once where nothing is left to wait for. -/
def execWaitForCadence (c : CoreId) (x : CtxId) (s : State) : Host.Outcome State Fault Refusal :=
  let k := s.ctx c x
  endsClocked s c (match runOf s k.graph.toNat with
    | some r =>
      if seqStarts k .waitCadence then
        let s1 := if k.state = .ready then beginTask s c x else s
        if waitOver s1 (s1.ctx c x) r then taskDone s1 c x else s1
      else s
    | none => s)

/-- WAIT_EXPIRE (R228). -/
def execWaitExpire (c : CoreId) (x : CtxId) (now : W64) (s : State) : Host.Outcome State Fault Refusal :=
  let s1 := s.advance now
  let k := s1.ctx c x
  endsClocked s c (match runOf s1 k.graph.toNat with
    | some r => if k.task.kind = .waitCadence ∧ k.state = .running ∧ waitOver s1 k r then taskDone s1 c x else s1
    | none => s1)

/-- AGE_RISE (R447): a READY task past its class's bound rises one class, no higher than interactive. -/
def execAgeRise (c : CoreId) (x : CtxId) (now : W64) (s : State) : Host.Outcome State Fault Refusal :=
  let s1 := s.advance now
  let k := s1.ctx c x
  let pt := s1.part k.part
  let up : Option (SClass × Nat) := match k.cls with
    | .bulk => some (.interactive, pt.ageBulk.toNat)
    | .background => some (.bulk, pt.ageBack.toNat)
    | _ => none
  endsClocked s c (match up with
    | some (cls, ms) =>
      if k.state = .ready ∧ k.clsSince.toNat + ms * 1000000 < s1.ts.toNat then
        (s1.modCtx c x (fun q => { q with cls := cls, clsSince := s1.ts })).modPart k.part (fun q => { q with ageRises := satInc q.ageRises })
      else s1
    | none => s1)

/-! ### Signals and the ends of tasks -/

/-- SIGNAL (R187): one message to each target, on its way to the target's core, and DONE when the last has left. -/
def execSignalTask (c : CoreId) (x : CtxId) (s : State) : Host.Outcome State Fault Refusal :=
  let k := s.ctx c x
  endsClocked s c (if seqStarts k .signal then
      let s1 := (beginTask s c x).modCore c (fun q => { q with sigSent := satAdd q.sigSent k.task.targets.length })
      let s2 := s1.modRun k.graph.toNat (fun r => { r with signals := r.signals ++ k.task.targets.map (fun g => (g.1, g.2.ctx, g.2.counter)) })
      taskDone s2 c x
    else s)

/-- Whether a message's initiator is a sequencer, an engine or a tile mover of a core that the tag's partition holds (R437, R438). -/
def coreInitOk (s : State) (p : Nat) (i : W16) : Bool :=
  match unitCore i with
  | some c => (coresOf s p).contains c
  | none => false

/-- A refusal of a gate table counted in the partition (R440). -/
def gateCount (s : State) (p : Nat) : State := s.modPart p (fun q => { q with gateRefused := satInc q.gateRefused })

/-- SIGNAL_ARRIVE (R187, R188, R190, R437): the decrement of a message in flight, or a drop where its run no longer lives; one that the target's gate table refuses is dropped and counted. -/
def execSignalArrive (c : CoreId) (msg : SignalMsg) (s : State) : Host.Outcome State Fault Refusal :=
  let s1 := s.modCore c (fun q => { q with sigRecv := satInc q.sigRecv })
  let k := s1.ctx c msg.ctx
  let me : Nat × Nat × Nat := (c.val, msg.ctx.val, msg.counter.val)
  endsClocked s c (match runOf s1 msg.graph.toNat with
    | some r =>
      if k.graph = msg.graph ∧ k.state ≠ .free ∧ r.runNo = msg.runNo ∧ r.signals.contains me ∧ (s.part k.part).state ≠ .resetting then
        let s2 := s1.modRun msg.graph.toNat (fun r => { r with signals := r.signals.erase me })
        if k.part = msg.ptag.val ∧ coreInitOk s k.part msg.init then decrement s2 c msg.ctx msg.counter
        else gateCount (seqEvent s2 c 1) msg.ptag.val
      else seqEvent s1 c 1
    | none => seqEvent s1 c 1)

/-- CORE_DONE_ARRIVE (R189): the home core holds the message, and writes the completion once it holds all. -/
def execCoreDoneArrive (c src : CoreId) (graph : W32) (s : State) : Host.Outcome State Fault Refusal :=
  endsClocked s c (match s.graph graph.toNat with
    | some g =>
      let mine := g.ctxOf.filter (fun e => e.1 == src.val)
      if c.val = homeCore g ∧ mine ≠ [] ∧ mine.all (fun e => (s.ctx e.1 e.2).state == .done) then
        tryRetire (s.modRun graph.toNat (fun r =>
          { r with coresDone := if r.coresDone.contains src.val then r.coresDone else src.val :: r.coresDone })) graph.toNat
      else s
    | none => s)

/-- Whether a task's work is over and only its writes' visibility is awaited: no engine runs it, and no remote write is unacknowledged. -/
def workOver (s : State) (c x : Nat) : Bool :=
  (s.core c).engines.all (fun e =>
    (match e.2.run with | some r => r.ctx != x | none => true) && (match e.2.held with | some h => h.run.ctx != x | none => true)) &&
  (s.ctx c x).txn.isNone && !((s.core c).tmWait && (s.core c).tmRun == some x)

/-- The cost of a task at the dispatch arbiter of a shared core: its tile units over the partition's weight (R445). -/
def chargeDispatch (s : State) (c x : Nat) : State :=
  let k := s.ctx c x
  if engineKind k.task.kind ∧ k.cls ≠ .cadence then
    let units := ((List.range (taskTiles k.task)).map (tileUnits k.task)).foldl (· + ·) 0
    let w := max 1 (s.part k.part).weight.toNat
    s.modCore c (fun q => { q with vtime := tmod 0 q.vtime k.part (fun v => v + units * 1000 / w) })
  else s

/-- TASK_DONE (R186): the writes of an engine or mover task are visible; it is DONE. -/
def execTaskDone (c : CoreId) (x : CtxId) (s : State) : Host.Outcome State Fault Refusal :=
  let k := s.ctx c x
  endsClocked s c (if k.state = .running ∧ (engineKind k.task.kind ∨ moverKind k.task.kind) ∧ workOver s c x then
      let s1 := s.modCore c (fun q => { q with tmRun := if q.tmRun = some x.val then none else q.tmRun })
      fetchFreed (taskDone (if sharedCore s c then chargeDispatch s1 c x else s1) c x) c
    else s)

end Sys2Proof.Machine
end

