-- ==== Sys2Proof/Machine/Attention.lean ====
section
/-! DEFINITION. Tiles of fused attention (R129 to R133). -/

namespace Sys2Proof.Machine

/-- −infinity. -/
def ninf32 : W32 := 0xFF800000

/-- The bytes that step `i` of an attention task reads: Q and its scales at a query block's first step, K, V and K's scales at each key tile (R131, R183). -/
def attnRuns (t : Task) (i : Nat) : List TRun :=
  let steps := attnSteps t
  let here := steps.getD i (0, none)
  let qb := here.1
  let d := pbf t 8 2
  let first := decide (i = 0) || (steps.getD (i - 1) (0, none)).1 != qb
  let rows (slot sslot b r0 n : Nat) : List TRun :=
    let len := rowLen (fmtBits (fmtOf b)) d
    let g := scaleSize (scaleOf b)
    rowRuns t slot len r0 n 0 len ++ (if g = 0 then [] else rowRuns t sslot (d / g) r0 n 0 (d / g))
  (match first, here.2 with
   | true, some _ => rows 36 46 (pbf t 1 1) (64 * qb) (partLen (pbf t 12 4) 64 qb)
   | _, _ => [])
  ++ (match here.2 with
      | some kb =>
        let n := partLen (pbf t 16 4) 64 kb
        rows 38 48 (pbf t 2 1) (64 * kb) n ++ rows 40 255 (fmtOf (pbf t 3 1)) (64 * kb) n
      | none => [])

/-- T0 once the operands of step `i` are in it: the query buffers by query block, the key and value buffers by step. -/
def attnStage (s : State) (p : Nat) (t : Task) (i : Nat) (m : Mem) : Mem :=
  let runs := attnRuns t i
  let qb := ((attnSteps t).getD i (0, none)).1
  let d := pbf t 8 2
  let put (slot j b : Nat) (m : Mem) : Mem := stageRows s p t runs slot j (fmtBits (fmtOf b)) d m
  let puts (slot j : Nat) (m : Mem) : Mem := stageRows s p t runs slot j 8 1 m
  puts 48 i (puts 46 qb (put 40 i (pbf t 3 1) (put 38 i (pbf t 2 1) (put 36 qb (pbf t 1 1) m))))

/-- The FP32 result of an accumulator. -/
def accF32 : Acc → W32
  | .fp v => v
  | .int i => f32ofInt i

/-- A dot product in the matrix unit from +0. -/
def matDot (fa sa sw : Nat) (xs ws : List (Noted FVal × Noted FVal)) : W32 :=
  accF32 (accumulate fa sa sw (.fp 0) ((xs.zip ws).map (fun x => (x.1.1.1, x.2.1.1, x.1.2.1, x.2.2.1)))).1

/-- Whether key position `kp` is masked for query position `qp` (R130). -/
def keyMasked (mask win qp kp : Nat) : Bool :=
  (mask != 0 && decide (qp < kp)) || (mask == 2 && decide (kp + win ≤ qp))

/-- One row's step over a key tile (R132): m, l and o before, the row's scores, and the V rows. -/
def attnStep (fp d : Nat) (m l : W32) (o : List W32) (scores : List W32) (vs : List (List (Noted FVal × Noted FVal))) : W32 × W32 × List W32 :=
  let mNew := scores.foldl f32max m
  if mNew = ninf32 then (m, l, o)
  else
    let a := f32fn 0x10 (f32sub m mNew)
    let codes := scores.map (fun x => (narrow fp ⟨false, true⟩ 0 (f32val (f32fn 0x10 (f32sub x mNew)))).1)
    let ps := codes.map (fun c => (decodeElem fp c).1)
    let l2 := f32add (f32mul l a) (laneSum (ps.map f32round))
    let o2 := (List.range d).map (fun c =>
      let xs := ps.map (fun v => (plain v, plain (FVal.fin false 1 0)))
      let ws := vs.map (fun row => row.getD c (plain (.fin false 0 0), plain (.fin false 1 0)))
      f32add (f32mul (o.getD c 0) a) (matDot fp 0 0 xs ws))
    (mNew, l2, o2)

/-- The finished row (R132, R133): o × recip(l); +0 throughout when l is 0, NaN throughout when m is NaN. -/
def attnFinish (d : Nat) (m l : W32) (o : List W32) : List W32 :=
  if isNan32 m then List.replicate d nan32
  else if l = 0 ∨ l = 0x80000000 then List.replicate d 0
  else o.map (fun x => f32mul x (f32fn 0x15 l))

/-- The rows of a finished query block, and its statistics: m and l of each row, FP32 values written as such with their notes (R92, R133). -/
def attnRows (t : Task) (qb rows d : Nat) (ms ls os : List W32) : Noted (List OutRow × List (List Byte)) :=
  let fo := fmtOf (pbf t 4 1)
  let so := scaleOf (pbf t 4 1)
  let oc := outCtlOf (pbf t 5 1)
  let outs := (List.range rows).map (fun r =>
    let vals := attnFinish d (ms.getD r ninf32) (ls.getD r 0) ((os.drop (r * d)).take d)
    let o := outRow fo so oc (fun c => randBits t.seed qb (r * d + c)) (vals.map f32val)
    let base := match entryOf t 42 with
      | some q => rowAddr q (rowLen (fmtBits fo) d + (if so = 0 then 0 else d / scaleSize so)) (64 * qb + r)
      | none => 0
    let stat := noteAll ([ms.getD r ninf32, ls.getD r 0].map f32note)
    let masked : Bool := ms.getD r ninf32 == ninf32
    (((⟨some base, o.1.1, o.1.2⟩ : OutRow), stat.1.flatMap (leBytes 4)),
     o.2 ||| (if nbit (pbf t 7 1) 0 && !masked then stat.2 else 0)))
  let n := noteAll outs
  ((n.1.map (·.1), n.1.map (·.2)), n.2)

/-- Step `i` of an attention task, from its operands and the running state in T0: a key tile, the last of a query block with its finishing, or the finishing alone of a block without a tile. T0_WORK holds the running outputs of 64 rows, then their maxima and sums (R135). -/
def attnTile (m : Mem) (t : Task) (i : Nat) : TileOut :=
  let steps := attnSteps t
  let here := steps.getD i (0, none)
  let qb := here.1
  let d := pbf t 8 2
  let rows := partLen (pbf t 12 4) 64 qb
  let first := decide (i = 0) || (steps.getD (i - 1) (0, none)).1 != qb
  let last := decide (i + 1 = steps.length) || (steps.getD (i + 1) (0, none)).1 != qb
  let work (off n : Nat) : List W32 := wordsF32 (t0Get m t 50 0 off (4 * n)) n
  let os0 := if first then List.replicate (rows * d) 0 else work 0 (rows * d)
  let ms0 := if first then List.replicate rows ninf32 else work (64 * d * 4) rows
  let ls0 := if first then List.replicate rows 0 else work (64 * d * 4 + 256) rows
  let fq := pbf t 1 1
  let fk := pbf t 2 1
  let fv := fmtOf (pbf t 3 1)
  let scale : W32 := BitVec.ofNat 32 (pbf t 32 4)
  let get (slot sslot j b n : Nat) : List (List (Noted FVal × Noted FVal)) :=
    let bs := t0Get m t slot j 0 (rowLen (fmtBits (fmtOf b)) (n * d))
    let g := scaleSize (scaleOf b)
    let ss := if g = 0 then [] else t0Get m t sslot j 0 (n * (d / g))
    (List.range n).map (t0Row (fmtOf b) (scaleOf b) d bs ss)
  let res : List (W32 × W32 × List W32) × Byte :=
    match here.2 with
    | none => ((List.range rows).map (fun r => (ms0.getD r ninf32, ls0.getD r 0, (os0.drop (r * d)).take d)), 0)
    | some kb =>
      let nk := partLen (pbf t 16 4) 64 kb
      let ks := get 38 48 i fk nk
      let vs := get 40 255 i fv nk
      let qs := get 36 46 qb fq rows
      let notes := (ks ++ vs ++ qs).foldl (fun n l => l.foldl (fun n x => n ||| x.1.2 ||| x.2.2) n) 0
      (qs.zipIdx.map (fun q =>
        let qp := pbf t 20 4 + 64 * qb + q.2
        let scores := ks.zipIdx.map (fun k =>
          if keyMasked (pbf t 6 1) (pbf t 28 4) qp (pbf t 24 4 + 64 * kb + k.2) then ninf32
          else f32mul scale (matDot (fmtOf fq) (scaleOf fq) (scaleOf fk) q.1 k.1))
        attnStep (pFormat fv) d (ms0.getD q.2 ninf32) (ls0.getD q.2 0) ((os0.drop (q.2 * d)).take d) scores vs), notes)
  let ms := res.1.map (·.1)
  let ls := res.1.map (·.2.1)
  let os := res.1.flatMap (·.2.2)
  let state : List (Nat × Nat × List Byte) :=
    [(50, 0, padTo (64 * d * 4) (bytesF32 os) ++ padTo 256 (bytesF32 ms) ++ padTo 256 (bytesF32 ls))]
  if last then
    let w := attnRows t qb rows d ms ls os
    let fo := fmtOf (pbf t 4 1)
    let stats := nbit (pbf t 7 1) 0
    let statWrites : TileWrites := match stats, entryOf t 44 with
      | true, some q => w.1.2.zipIdx.map (fun e => (q.hint, rowAddr q 8 (64 * qb + e.2), e.1))
      | _, _ => []
    { t0w := state ++ [(42, qb, rowsT0 fo d w.1.1)] ++ (if stats then [(44, qb, w.1.2.flatMap id)] else [])
      writes := rowWrites (hintOf t 42) fo (scaleOf (pbf t 4 1)) d 0 w.1.1 ++ statWrites, notes := res.2 ||| w.2 }
  else { t0w := state, notes := res.2 }

end Sys2Proof.Machine
end

