-- ==== Sys2Proof/Machine/Vector.lean ====
section
/-! DEFINITION. Tiles of the vector operations (R137 to R147, R686). -/

namespace Sys2Proof.Machine

/-! ### What the tile mover delivers for a tile (R137, R147, R183, R686) -/

/-- First row and rows of tile `i`: of a chunked row the row itself, of ELEM the rows its flat elements touch (R137). -/
def tileRows (t : Task) (i : Nat) : Nat × Nat :=
  let h := pbf t 12 4
  if opOf t = 0x50 then
    let e0 := i * 16384
    let e1 := e0 + vecElems t i
    (e0 / max 1 h, (e1 - 1) / max 1 h + 1 - e0 / max 1 h)
  else if vecChunked t then (i / ceilDiv h 16384, 1)
  else (i * vecRpt t, partLen (vecRows t) (vecRpt t) i)

/-- The columns of row `r` that tile `i` holds: the first, and how many. -/
def tileCols (t : Task) (i r : Nat) : Nat × Nat :=
  let h := pbf t 12 4
  if opOf t = 0x50 then
    let e0 := i * 16384
    let c0 := e0 - r * h
    (c0, min h (e0 + vecElems t i - r * h) - c0)
  else if vecChunked t then (i % ceilDiv h 16384 * 16384, vecElems t i)
  else (0, h)

/-- The bytes of elements c0 to c0 + cn − 1 of rows of packed elements, each from the byte that its first element starts in. -/
def elemRuns (t : Task) (slot w len : Nat) (cols : List (Nat × Nat × Nat)) : List TRun :=
  cols.flatMap (fun x =>
    let a := x.2.1 * w / 8
    rowRuns t slot len x.1 1 a (ceilDiv ((x.2.1 + x.2.2) * w) 8 - a))

/-- Rows and columns of tile `i`. -/
def tileSpan (t : Task) (i : Nat) : List (Nat × Nat × Nat) :=
  (List.range (tileRows t i).2).map (fun j => let r := (tileRows t i).1 + j; (r, tileCols t i r))

/-- The fixed tables of a vector task (R137): gamma and beta, the rotary table, and ELEM's broadcast row. -/
def vecTables (t : Task) : List TRun :=
  let h := pbf t 12 4
  let len := rowLen (fmtBits (fmtOf (pbf t 2 1))) h
  match opOf t with
  | 0x50 => if elemTakesB (pbf t 5 1) && !nbit (pbf t 6 2) 0 && nbit (pbf t 6 2) 1 then rowRuns t 34 len 0 1 0 len else []
  | 0x20 => rowRuns t 34 len 0 1 0 len
  | 0x21 => rowRuns t 34 len 0 1 0 len ++ rowRuns t 36 len 0 1 0 len
  | 0x22 => rowRuns t 34 (h / 2 * 8) 0 (pbf t 24 4) 0 (h / 2 * 8)
  | _ => []

/-- Whether a slot of a token has an expert, by its entry in T0_IN0 (R147). -/
def combineTaken (m : Mem) (t : Task) (i r sl : Nat) : Bool :=
  leNat (t0Get m t 32 i ((r * pbf t 16 4 + sl) * 8) 2) != 0xFFFF

/-- The bytes that tile `i` of a vector task reads, its tables apart. -/
def vecRuns (t : Task) (i : Nat) : List TRun :=
  let h := pbf t 12 4
  let k := pbf t 16 4
  let r0 := (tileRows t i).1
  let n := (tileRows t i).2
  let b0 := pbf t 1 1
  let w0 := fmtBits (fmtOf b0)
  let g := scaleSize (scaleOf b0)
  let w1 := fmtBits (fmtOf (pbf t 2 1))
  let in0 := elemRuns t 32 w0 (rowLen w0 h) (tileSpan t i)
    ++ (if g = 0 then [] else elemRuns t 44 8 (h / g) ((tileSpan t i).map (fun x => (x.1, x.2.1 / g, ceilDiv x.2.2 g))))
  let same (slot : Nat) := elemRuns t slot w1 (rowLen w1 h) (tileSpan t i)
  match opOf t with
  | 0x50 =>
    let func := pbf t 5 1
    let fl := pbf t 6 2
    in0 ++ (if elemTakesB func && !nbit fl 0 && !nbit fl 1 then same 34 else []) ++ (if func = 4 then same 36 else [])
  | 0x22 => in0 ++ (if nbit (pbf t 6 2) 0 then rowRuns t 36 4 r0 n 0 4 else [])
  | 0x11 => (List.range k).flatMap (fun j =>
      rowRuns t 34 8 (j * vecRows t + r0) n 0 8 ++ rowRuns t 32 (4 * h) (j * vecRows t + r0) n 0 (4 * h))
  | 0x31 => rowRuns t 32 (8 * k) r0 n 0 (8 * k)
  | _ => in0

/-- The slot rows that a COMBINE tile reads: those whose entry in T0_IN0 has an expert, the others left zero (R147). -/
def combineRuns (m : Mem) (t : Task) (i : Nat) : List TRun :=
  let h := pbf t 12 4
  let k := pbf t 16 4
  (List.range ((tileRows t i).2 * k)).flatMap (fun j =>
    if combineTaken m t i (j / k) (j % k) then rowRuns t 34 (4 * h) ((tileRows t i).1 * k + j) 1 0 (4 * h)
    else [⟨34, none, 4 * h, 0⟩])

/-- Element codes of runs that start inside a byte, packed one after another. -/
def packSpan (w : Nat) (cols : List (Nat × Nat × Nat)) (rows : List (List Byte)) : List Byte :=
  packElems w ((cols.zip rows).flatMap (fun x =>
    let sh := x.1.2.1 * w % 8
    let v := leNat x.2 >>> sh
    (List.range x.1.2.2).map (fun j => (v >>> (j * w)) % 2 ^ w)))

/-- T0 once the operands of tile `i` of a vector task are in it, the buffers of each region in turn. -/
def vecStage (s : State) (p : Nat) (t : Task) (i : Nat) (m : Mem) : Mem :=
  let runs := vecRuns t i
  let span := tileSpan t i
  let w1 := fmtBits (fmtOf (pbf t 2 1))
  let flat (slot : Nat) (m : Mem) : Mem :=
    match slotRows s p runs slot with | [] => m | rows => t0Put m t slot i (rows.flatMap id)
  let put (slot w : Nat) (m : Mem) : Mem :=
    match slotRows s p runs slot with | [] => m | rows => t0Put m t slot i (packSpan w span rows)
  match opOf t with
  | 0x11 => flat 34 (flat 32 m)
  | 0x31 =>
    let m1 := flat 32 m
    t0Put m1 t 34 i ((combineRuns m1 t i).flatMap (runBytes s p))
  | 0x22 => flat 36 (flat 44 (put 32 (fmtBits (fmtOf (pbf t 1 1))) m))
  | _ => put 36 w1 (put 34 w1 (flat 44 (put 32 (fmtBits (fmtOf (pbf t 1 1))) m)))

/-! ### Operands in T0 -/

/-- A run of `n` elements of input 0 in T0 from the `e0`-th of its buffer: values in FP32 (R90), block-scaled ones by R85. -/
def vecElems0 (m : Mem) (t : Task) (i e0 n : Nat) : List (Noted FVal × Noted FVal) :=
  let b := pbf t 1 1
  let f := fmtOf b
  let w := fmtBits f
  let g := scaleSize (scaleOf b)
  let bs := t0Get m t 32 i (e0 * w / 8) (rowLen w n + 1)
  let ss := if g = 0 then [] else t0Get m t 44 i (e0 / g) (ceilDiv n g)
  let v := leNat bs >>> (e0 * w % 8)
  (List.range n).map (fun j =>
    (decodeElem f ((v >>> (j * w)) % 2 ^ w), if g = 0 then plain (.fin false 1 0) else decodeScale (scaleOf b) (ss.getD (j / g) 0).toNat))
/-- The FP32 values of a run of input 0 with the notes of their decoding. -/
def vecIn0 (m : Mem) (t : Task) (i e0 n : Nat) : Noted (List W32) :=
  let l := vecElems0 m t i e0 n
  let v := noteAll (l.map (fun x => dequant32 (outCtlOf (pbf t 4 1)) (fmulX x.1.1 x.2.1)))
  (v.1, v.2 ||| runNotes l)
/-- A run of input 1 or 2, which carry no scale. -/
def vecInN (m : Mem) (t : Task) (slot i e0 n : Nat) : Noted (List W32) :=
  let f := fmtOf (pbf t 2 1)
  let w := fmtBits f
  let v := leNat (t0Get m t slot i (e0 * w / 8) (rowLen w n + 1)) >>> (e0 * w % 8)
  let l := (List.range n).map (fun j => decodeElem f ((v >>> (j * w)) % 2 ^ w))
  let r := noteAll (l.map (fun x => dequant32 (outCtlOf (pbf t 4 1)) x.1))
  (r.1, l.foldl (fun n x => n ||| x.2) r.2)

/-- An FP32 parameter. -/
def vecParam (t : Task) (i : Nat) : W32 := BitVec.ofNat 32 (pbf t (16 + 4 * i) 4)

/-! ### Row operations -/

/-- ELEM on one element (R139). -/
def elemFn (func : Nat) (a b c : W32) : W32 :=
  match func with
  | 0x01 => f32add a b
  | 0x02 => f32add a (f32neg b)
  | 0x03 => f32mul a b
  | 0x04 => f32fma a b c
  | 0x05 => f32max a b
  | 0x06 => f32min a b
  | _ => f32fn func a

/-- NORM_RMS of a row (R140). -/
def normRmsRow (h : Nat) (eps : W32) (x g : List W32) : List W32 :=
  let m := f32div (laneSum (x.map (fun v => f32mul v v))) (f32ofInt h)
  let r := f32fn 0x14 (f32add m eps)
  (x.zip g).map (fun e => f32mul (f32mul e.1 r) e.2)

/-- NORM_LAYER of a row (R140). -/
def normLayerRow (h : Nat) (eps : W32) (x g b : List W32) : List W32 :=
  let mu := f32div (laneSum x) (f32ofInt h)
  let d := x.map (fun v => f32sub v mu)
  let var := f32div (laneSum (d.map (fun v => f32mul v v))) (f32ofInt h)
  let r := f32fn 0x14 (f32add var eps)
  ((d.zip g).zip b).map (fun e => f32add (f32mul (f32mul e.1.1 r) e.1.2) e.2)

/-- A row of tile `i`, the `j`-th of the tile, rotated by its table entries (R140); none where its position lies outside the table. -/
def ropeRow (m : Mem) (t : Task) (i j : Nat) (x : List W32) : Option (List W32) :=
  let h := pbf t 12 4
  let tp := pbf t 20 4
  let pos := if nbit (pbf t 6 2) 0 then leNat (t0Get m t 36 i (4 * j) 4) else pbf t 16 4 + (tileRows t i).1 + j
  if pos < tp ∨ tp + pbf t 24 4 ≤ pos then none
  else
    let tab := wordsF32 (t0Get m t 34 0 ((pos - tp) * (h / 2) * 8) (4 * h)) h
    let lo := pbf t 5 1 == 0
    let pick (j : Nat) (second : Bool) : Nat := if lo then 2 * j + b2n second else j + b2n second * (h / 2)
    let y (j : Nat) (second : Bool) : W32 :=
      let c := tab.getD (2 * j) 0
      let sn := tab.getD (2 * j + 1) 0
      let x0 := x.getD (pick j false) 0
      let x1 := x.getD (pick j true) 0
      if second then f32fma x0 sn (f32mul x1 c) else f32fma x0 c (f32neg (f32mul x1 sn))
    some ((List.range h).map (fun i =>
      if lo then y (i / 2) (i % 2 == 1) else if i < h / 2 then y i false else y (i - h / 2) true))

/-- The state that REDUCE carries along a row (R137, R141, R142): the lanes of a sum, or the best value so far and its index. -/
structure RedState where
  lanes : List W32 := lanes0
  best  : Option (W32 × Nat) := none
  deriving DecidableEq, Repr

/-- A chunk of a row taken in, its first element at index `at_`. -/
def reduceStep (func at_ : Nat) (st : RedState) (x : List W32) : RedState :=
  let fold (f : W32 → W32 → W32) : Option (W32 × Nat) :=
    x.foldl (fun a v => match a with | none => some (v, 0) | some b => some (f b.1 v, 0)) st.best
  let arg (better : W32 → W32 → Bool) : Option (W32 × Nat) :=
    x.zipIdx.foldl (fun a e => match a with
      | none => some (e.1, at_ + e.2)
      | some b => if !isNan32 b.1 && (isNan32 e.1 || better e.1 b.1) then some (e.1, at_ + e.2) else some b) st.best
  match func with
  | 0 => { st with lanes := laneAdd st.lanes x }
  | 1 => { st with best := fold f32max }
  | 2 => { st with best := fold f32min }
  | 3 => { st with best := arg (fun a b => f32lt b a) }
  | _ => { st with best := arg f32lt }

/-- The 32-bit result of a row. -/
def reduceEnd (func : Nat) (st : RedState) : Noted Nat :=
  match func, st.best with
  | 0, _ => f32note (laneTree st.lanes)
  | 1, some b => f32note b.1
  | 2, some b => f32note b.1
  | _, some b => plain b.2
  | _, none => plain 0

/-- A row reduced (R141, R142): the 32-bit result. -/
def reduceRow (func : Nat) (x : List W32) : Noted Nat := reduceEnd func (reduceStep func 0 {} x)

/-- The order of TOPK and GATE: higher first, NaN below −infinity, equal values by the lower index (R142, R144). -/
def rankBefore (a b : W32 × Nat) : Bool :=
  if isNan32 a.1 then isNan32 b.1 && decide (a.2 < b.2)
  else isNan32 b.1 || f32lt b.1 a.1 || (!f32lt a.1 b.1 && decide (a.2 < b.2))
/-- A row's values with their indices in that order. -/
def ranked (x : List W32) : List (W32 × Nat) := sortBy rankBefore x.zipIdx
/-- The `k` best of those kept from earlier chunks and of a chunk whose first element has index `at_`. -/
def topStep (k at_ : Nat) (kept : List (W32 × Nat)) (x : List W32) : List (W32 × Nat) :=
  (sortBy rankBefore (kept ++ x.zipIdx.map (fun e => (e.1, at_ + e.2)))).take k

/-- ATTN_MERGE of a row (R143): the statistics and the output rows of its partials. -/
def mergeRow (h : Nat) (ps : List ((W32 × W32) × List W32)) : List W32 :=
  if ps.all (fun q => f32val q.1.2 == f32val 0 || q.1.2 == 0x80000000) then List.replicate h 0
  else
    let m := (ps.filter (fun q => f32lt 0 q.1.2)).foldl (fun a q => if f32lt a q.1.1 then q.1.1 else a) 0xFF800000
    let ws := ps.map (fun q => f32mul q.1.2 (f32fn 0x10 (f32sub q.1.1 m)))
    let rc := f32fn 0x15 (ws.foldl f32add 0)
    (List.range h).map (fun c =>
      f32mul ((ps.zip ws).foldl (fun a q => f32add a (f32mul q.2 (q.1.2.getD c 0))) 0) rc)

/-- The weights of a softmax over a set of logits, in its order (R144). -/
def softmaxSet (x : List W32) : List W32 :=
  match x.filter (fun v => !isNan32 v) with
  | [] => x.map (fun _ => 0)
  | v :: r =>
    let m := r.foldl (fun a b => if f32lt a b then b else a) v
    let es := x.map (fun v => if isNan32 v then 0 else f32fn 0x10 (f32sub v m))
    let sum := laneSum es
    es.map (fun e => f32div e sum)

/-- A token's selections: expert and weight by slot (R144). -/
def gateRow (func k : Nat) (x : List W32) : List (Nat × W32) :=
  let sel := (ranked x).take k
  if func = 0 then
    let w := softmaxSet x
    sel.map (fun e => (e.2, w.getD e.2 0))
  else (sel.zip (softmaxSet (sel.map (·.1)))).map (fun e => (e.1.2, e.2))

/-- One token's slots placed into its experts' lists, or dropped (R146): the lists' entries, the slots dropped, and OUT0's entries by token. -/
def gatePlace (cap tok : Nat) (st : List (List Nat) × Nat × List (List (Nat × W32))) (row : List (Nat × W32)) :
    List (List Nat) × Nat × List (List (Nat × W32)) :=
  let r := row.zipIdx.foldl (fun (a : List (List Nat) × Nat × List (Nat × W32)) e =>
    let ex := e.1.1
    let entry := tok % 65536 + e.2 % 8 * 65536 + 2 ^ 31
    if (a.1.getD ex []).length < cap then (a.1.set ex (a.1.getD ex [] ++ [entry]), a.2.1, a.2.2 ++ [e.1])
    else (a.1, a.2.1 + 1, a.2.2 ++ [(0xFFFF, 0)])) (st.1, st.2.1, [])
  (r.1, r.2.1, st.2.2 ++ [r.2.2])

/-- The lists and the dropped slots that T0_OUT1 and T0_OUT2 hold after the tiles before (R137, R145). -/
def gateSoFar (m : Mem) (t : Task) : List (List Nat) × Nat :=
  let h := pbf t 12 4
  let cap := pbf t 20 4
  let word (slot off : Nat) : Nat := leNat (t0Get m t slot 0 off 4)
  ((List.range h).map (fun ex => (List.range (word 42 (4 * ex))).map (fun j => word 40 ((ex * cap + j) * 4))), word 42 (4 * h))

/-- Tile `i` of a GATE: OUT0 for its tokens, its slots gathered into OUT1 and OUT2, which drain with the last tile (R137, R145). -/
def gateTile (m : Mem) (t : Task) (i : Nat) : TileOut :=
  let rpt := vecRpt t
  let h := pbf t 12 4
  let rows := partLen (vecRows t) rpt i
  let k := pbf t 16 4
  let cap := pbf t 20 4
  let so := if i = 0 then (List.replicate h [], 0) else gateSoFar m t
  let g : Noted (List (List Nat) × Nat × List (List (Nat × W32))) :=
    (List.range rows).foldl (fun a r =>
      let x := vecIn0 m t i (r * h) h
      let nan : Byte := if x.1.any isNan32 then noteNanQuant else 0
      (gatePlace cap (i * rpt + r) a.1 (gateRow (pbf t 5 1) k x.1), a.2 ||| x.2 ||| nan)) ((so.1, so.2, []), 0)
  let entry (e : Nat × W32) : List Byte := leBytes 2 e.1 ++ [0, 0] ++ leBytes 4 e.2.toNat
  let out0 := g.1.2.2.map (fun r => r.flatMap entry)
  let lists := g.1.1.map (fun l => padTo (4 * cap) (l.flatMap (leBytes 4)))
  let counts := g.1.1.flatMap (fun l => leBytes 4 l.length) ++ leBytes 4 g.1.2.1
  let notes := g.1.2.2.foldl (fun n r => r.foldl (fun n e => n ||| (f32note e.2).2) n) g.2
  let w0 : TileWrites := match entryOf t 38 with
    | some q => out0.zipIdx.map (fun e => (q.hint, rowAddr q (8 * k) (i * rpt + e.2), e.1))
    | none => []
  let w1 : TileWrites := match entryOf t 40 with
    | some q => lists.zipIdx.map (fun l => (q.hint, rowAddr q (4 * cap) l.2, l.1))
    | none => []
  let w2 : TileWrites := match entryOf t 42 with
    | some q => [(q.hint, q.addr, counts)]
    | none => []
  { t0w := [(38, i, out0.flatMap id), (40, 0, lists.flatMap id), (42, 0, counts)]
    writes := w0 ++ (if i + 1 = vecTiles t then w1 ++ w2 else []), notes := notes }

/-- COMBINE of the `r`-th token of tile `i` (R147). -/
def combineRow (m : Mem) (t : Task) (i r : Nat) : List W32 :=
  let h := pbf t 12 4
  let k := pbf t 16 4
  (List.range k).foldl (fun acc sl =>
    if combineTaken m t i r sl then
      let row := wordsF32 (t0Get m t 34 i ((r * k + sl) * 4 * h) (4 * h)) h
      acc.zipIdx.map (fun a => f32add a.1 (row.getD a.2 0))
    else acc) (List.replicate h 0)

/-! ### Tiles -/

/-- The values of the `j`-th row of tile `i` of an operation that writes whole rows of H elements, or none where a rotary position lies outside the table.
DESIGN CHOICE (notes/assumptions/70): DEQUANT rounds once, to its output format (R85), from every input format, with no FP32 step of R90 between. -/
def vecRowVals (m : Mem) (t : Task) (i j : Nat) : Option (Noted (List FVal)) :=
  let h := pbf t 12 4
  let up (x : Noted (List W32)) : Option (Noted (List FVal)) := some (x.1.map f32val, x.2)
  match opOf t with
  | 0x20 =>
    let x := vecIn0 m t i (j * h) h
    let g := vecInN m t 34 0 0 h
    up (normRmsRow h (vecParam t 0) x.1 g.1, x.2 ||| g.2)
  | 0x21 =>
    let x := vecIn0 m t i (j * h) h
    let g := vecInN m t 34 0 0 h
    let b := vecInN m t 36 0 0 h
    up (normLayerRow h (vecParam t 0) x.1 g.1 b.1, x.2 ||| g.2 ||| b.2)
  | 0x22 =>
    let x := vecIn0 m t i (j * h) h
    (ropeRow m t i j x.1).map (fun y => (y.map f32val, x.2))
  | 0x40 =>
    let x := vecIn0 m t i (j * h) h
    up (x.1.map (fun v => f32mul v (vecParam t 0)), x.2)
  | 0x41 =>
    let l := vecElems0 m t i (j * h) h
    let v := noteAll (l.map (fun x => dequantVal (outCtlOf (pbf t 4 1)) (fmtOf (pbf t 3 1)) (fmulX x.1.1 x.2.1)))
    some (v.1, v.2 ||| runNotes l)
  | 0x11 =>
    let rows := (tileRows t i).2
    let ps := (List.range (pbf t 16 4)).map (fun q =>
      let st := wordsF32 (t0Get m t 34 i ((q * rows + j) * 8) 8) 2
      ((st.getD 0 0, st.getD 1 0), wordsF32 (t0Get m t 32 i ((q * rows + j) * 4 * h) (4 * h)) h))
    up (plain (mergeRow h ps))
  | 0x31 => up (plain (combineRow m t i j))
  | _ => none

/-- A row converted for output 0, its elements and scales (R118 step 5). -/
def vecRow0 (t : Task) (oc : OutCtl) (rnd : Nat → Nat) (vals : List FVal) : Noted (List Byte × List Byte) :=
  outRow (fmtOf (pbf t 3 1)) (scaleOf (pbf t 3 1)) oc rnd vals

/-- The writes of rows of output 0 and of its scales, which lie in their own object. -/
def vecWrites (t : Task) (rows : List (Nat × List Byte × List Byte)) : TileWrites :=
  let h := pbf t 12 4
  let b := pbf t 3 1
  rows.flatMap (fun r =>
    (match entryOf t 38 with | some q => [(q.hint, rowAddr q (rowLen (fmtBits (fmtOf b)) h) r.1, r.2.1)] | none => [])
    ++ (match scaleOf b, entryOf t 46 with
        | 0, _ => []
        | c, some q => [(q.hint, rowAddr q (h / scaleSize c) r.1, r.2.2)]
        | _, none => []))

/-- Rows of 32-bit words written to an output. -/
def wordsOut (t : Task) (slot r : Nat) (ws : List Nat) : TileWrites :=
  match entryOf t slot with
  | some q => [(q.hint, rowAddr q (4 * ws.length) r, ws.flatMap (leBytes 4))]
  | none => []

/-- Tile `i` of an ELEM: its own 16,384 elements of the flat row (R137, R139). `carry` holds the low bits of a byte whose first elements the tile before computed; a byte that the tile does not finish is carried on. -/
def elemTile (m : Mem) (t : Task) (i : Nat) (carry : Nat) : TileOut :=
  let h := pbf t 12 4
  let func := pbf t 5 1
  let fl := pbf t 6 2
  let n := vecElems t i
  let e0 := i * 16384
  let fo := fmtOf (pbf t 3 1)
  let so := scaleOf (pbf t 3 1)
  let w := fmtBits fo
  let g := scaleSize so
  let oc := outCtlOf (pbf t 4 1)
  let a := vecIn0 m t i 0 n
  let b : Noted (List W32) :=
    if !elemTakesB func then plain []
    else if nbit fl 0 then plain (List.replicate n (vecParam t 0))
    else if nbit fl 1 then
      let row := vecInN m t 34 0 0 h
      ((List.range n).map (fun j => row.1.getD ((e0 + j) % h) 0), row.2)
    else vecInN m t 34 i 0 n
  let c : Noted (List W32) := if func = 4 then vecInN m t 36 i 0 n else plain []
  let vals := a.1.zipIdx.map (fun x => f32val (elemFn func x.1 (b.1.getD x.2 0) (c.1.getD x.2 0)))
  let rnd (j : Nat) : Nat := randBits t.seed i j
  let codes : Noted (List Nat × List Byte) :=
    if g = 0 then let r := noteAll (vals.zipIdx.map (fun v => narrow fo oc (rnd v.2) v.1)); ((r.1, []), r.2)
    else
      let r := noteAll ((chunks g (vals.length + 1) vals.zipIdx).map (fun blk =>
        narrowBlock fo so oc (blk.map (fun q => rnd q.2)) (blk.map (fun q => f32round q.1))))
      ((r.1.flatMap (·.1), r.1.map (fun q => BitVec.ofNat 8 q.2)), r.2)
  let packed (l : List Nat) : Nat := (l.zipIdx.map (fun q => q.1 % 2 ^ w * 2 ^ (q.2 * w))).foldl (· + ·) 0
  let segs := (tileSpan t i).map (fun x =>
    let skip := x.2.1 * w % 8
    let here := packed ((codes.1.1.drop (x.1 * h + x.2.1 - e0)).take x.2.2)
    let v := here * 2 ^ skip + (if skip = 0 then 0 else carry)
    let bits := skip + x.2.2 * w
    let whole : Bool := decide (x.2.1 + x.2.2 = h)
    (x, v, if whole then ceilDiv bits 8 else bits / 8))
  let rest : List W32 := match segs.getLast? with
    | some (_, v, nb) => [BitVec.ofNat 32 (v >>> (8 * nb))]
    | none => []
  let w0 : TileWrites := match entryOf t 38 with
    | some q => segs.filterMap (fun y => if y.2.2 = 0 then none
        else some (q.hint, rowAddr q (rowLen w h) y.1.1 + y.1.2.1 * w / 8, leBytes y.2.2 y.2.1))
    | none => []
  let w1 : TileWrites := match g, entryOf t 46 with
    | 0, _ => []
    | _, some q => (tileSpan t i).map (fun x =>
        (q.hint, rowAddr q (h / g) x.1 + x.2.1 / g, (codes.1.2.drop ((x.1 * h + x.2.1 - e0) / g)).take (ceilDiv x.2.2 g)))
    | _, none => []
  { rowM := rest, t0w := [(38, i, packElems w codes.1.1), (46, i, codes.1.2)], writes := w0 ++ w1, notes := a.2 ||| b.2 ||| c.2 ||| codes.2 }

/-- The running state of a chunked REDUCE or TOPK row as the engine carries it: lanes, or values with their indices. -/
def carryState (run : Running) : RedState :=
  { lanes := if run.rowO = [] then lanes0 else run.rowO
    best := match run.rowM, run.rowL with | v :: _, x :: _ => some (v, x.toNat) | _, _ => none }

/-- Tile `i` of a REDUCE: the rows of the tile, or a chunk of one with the state carried to it. -/
def reduceTile (m : Mem) (t : Task) (i : Nat) (run : Running) : TileOut :=
  let h := pbf t 12 4
  let func := pbf t 5 1
  let cs := ceilDiv h 16384
  if vecChunked t then
    let x := vecIn0 m t i 0 (vecElems t i)
    let st := reduceStep func (i % cs * 16384) (if i % cs = 0 then {} else carryState run) x.1
    if i % cs + 1 = cs then
      let v := reduceEnd func st
      { t0w := [(38, i, leBytes 4 v.1)], writes := wordsOut t 38 (i / cs) [v.1], notes := x.2 ||| v.2 }
    else
      { rowO := st.lanes, rowM := (st.best.map (·.1)).toList, rowL := (st.best.map (fun b => BitVec.ofNat 32 b.2)).toList, notes := x.2 }
  else
    let outs := noteAll ((List.range (tileRows t i).2).map (fun j =>
      let x := vecIn0 m t i (j * h) h
      let v := reduceRow func x.1
      (v.1, x.2 ||| v.2)))
    { t0w := [(38, i, outs.1.flatMap (leBytes 4))]
      writes := outs.1.zipIdx.flatMap (fun v => wordsOut t 38 ((tileRows t i).1 + v.2) [v.1]), notes := outs.2 }

/-- Tile `i` of a TOPK. -/
def topkTile (m : Mem) (t : Task) (i : Nat) (run : Running) : TileOut :=
  let h := pbf t 12 4
  let k := pbf t 16 4
  let cs := ceilDiv h 16384
  let out (rows : List (Nat × List (W32 × Nat))) (notes : Byte) : TileOut :=
    let vs := noteAll (rows.map (fun r => noteAll (r.2.map (fun e => f32note e.1))))
    { t0w := [(38, i, vs.1.flatMap (fun l => l.flatMap (leBytes 4))), (40, i, rows.flatMap (fun r => r.2.flatMap (fun e => leBytes 4 e.2)))]
      writes := (rows.zip vs.1).flatMap (fun r => wordsOut t 38 r.1.1 r.2 ++ wordsOut t 40 r.1.1 (r.1.2.map (·.2)))
      notes := notes ||| vs.2 }
  if vecChunked t then
    let x := vecIn0 m t i 0 (vecElems t i)
    let kept := if i % cs = 0 then [] else run.rowM.zip (run.rowL.map (·.toNat))
    let top := topStep k (i % cs * 16384) kept x.1
    if i % cs + 1 = cs then out [(i / cs, top)] x.2
    else { rowM := top.map (·.1), rowL := top.map (fun e => BitVec.ofNat 32 e.2), notes := x.2 }
  else
    let rows := noteAll ((List.range (tileRows t i).2).map (fun j =>
      let x := vecIn0 m t i (j * h) h
      (((tileRows t i).1 + j, topStep k 0 [] x.1), x.2)))
    out rows.1 rows.2

/-- Tile `i` of a vector task, from its operands in T0. -/
def vecTile (s : State) (p : Nat) (m : Mem) (t : Task) (i : Nat) (run : Running) : TileOut :=
  match opOf t with
  | 0x03 => dwTile s p m t i
  | 0x30 => gateTile m t i
  | 0x50 => elemTile m t i (run.rowM.headD 0).toNat
  | 0x51 => reduceTile m t i run
  | 0x52 => topkTile m t i run
  | op =>
    let h := pbf t 12 4
    let oc := if op = 0x41 then { outCtlOf (pbf t 4 1) with sr := false } else outCtlOf (pbf t 4 1)
    let r0 := (tileRows t i).1
    let vals := (List.range (tileRows t i).2).map (fun j => (j, vecRowVals m t i j))
    let good := vals.takeWhile (fun x => x.2.isSome)
    let outs := noteAll (good.map (fun x =>
      let v := x.2.getD ([], 0)
      let w := vecRow0 t oc (fun c => randBits t.seed i (x.1 * h + c)) v.1
      ((r0 + x.1, w.1.1, w.1.2), v.2 ||| w.2)))
    { t0w := [(38, i, packRows (fmtBits (fmtOf (pbf t 3 1))) h (outs.1.map (·.2.1))), (46, i, outs.1.flatMap (·.2.2))]
      writes := if good.length < vals.length then [] else vecWrites t outs.1
      notes := outs.2
      fail := if good.length < vals.length then some stAborted else none }

/-! ### Engine tasks -/

/-- The runs of bytes that tile `i` of an engine task reads, and with the first tile its tables; `m` is T0. -/
def tileRuns (m : Mem) (t : Task) (i : Nat) : List TRun :=
  (if i = 0 then (if t.kind = .matrix ∨ opOf t = 3 then matTables t else if t.kind = .vector then vecTables t else []) else [])
  ++ (match t.kind with
      | .matrix => matRuns m t i
      | .attention => attnRuns t i
      | _ => if opOf t = 3 then matRuns m t i
             else if opOf t = 0x31 then vecRuns t i ++ combineRuns m t i else vecRuns t i)

/-- T0 with a task's tables in it. -/
def stageTables (s : State) (p : Nat) (t : Task) (m : Mem) : Mem :=
  let runs := if t.kind = .matrix ∨ opOf t = 3 then matTables t else if t.kind = .vector then vecTables t else []
  ((runs.map (·.slot)).dedup).foldl (fun m sl => t0Put m t sl 0 ((slotRows s p runs sl).flatMap id)) m

/-- T0 once the operands of tile `i` are in it (R183). -/
def stageTile (s : State) (p : Nat) (t : Task) (i : Nat) (ws : List WTile) (m : Mem) : Mem :=
  match t.kind with
  | .matrix => matStage s p t i ws m
  | .attention => attnStage s p t i m
  | _ => if opOf t = 3 then matStage s p t i ws m else vecStage s p t i m

/-- A tile of an engine task from T0, with what it carries from the tile before. -/
def engineTile (s : State) (p : Nat) (m : Mem) (t : Task) (run : Running) : TileOut :=
  match t.kind with
  | .matrix => matTile m t run.tile run.acc
  | .attention => attnTile m t run.tile
  | _ => vecTile s p m t run.tile run

/-- What a tile leaves in T0. -/
def leaveT0 (t : Task) (w : List (Nat × Nat × List Byte)) (m : Mem) : Mem := w.foldl (fun m e => t0Put m t e.1 e.2.1 e.2.2) m

end Sys2Proof.Machine
end

