-- ==== Sys2Proof/Machine/Tiles.lean ====
section
/-! DEFINITION. Engines at work: starts, operands, tiles, residue repeats and sampled duplication (R98 to R111, R148 to R154, R567 to R575, R616). -/

namespace Sys2Proof.Machine

/-! ### Starts -/

/-- Engines of a core that are busy: running a task or holding a tile. -/
def busyOf (s : State) (c : Nat) : Nat :=
  ((s.core c).engines.filter (fun e => e.2.state == .busy || e.2.state == .hold)).length
/-- Busy engines of the instance. -/
def busyAll (s : State) : Nat := ((List.range s.ncores).map (busyOf s)).foldl (· + ·) 0

/-- Whether the activation ramp lets one more engine of a core start in this window (R616). -/
def rampLets (s : State) (c : Nat) : Bool :=
  decide (busyOf s c + 1 ≤ (s.core c).busyEng + s.pwr.coreStep.toNat) &&
  decide (busyAll s + 1 ≤ s.pwr.instBusy + s.pwr.instStep.toNat)

/-- The task at the head of an engine's queue, when the engine can take it: idle, in a running core, and with no earlier task of the engine whose regions overlap still running (R100, R110). -/
def startHead (s : State) (c e : Nat) : Option Nat :=
  let g := s.engine c e
  match g.queue with
  | x :: _ =>
    let k := s.ctx c x
    let blocked := (s.core c).ctxs.any (fun r =>
      r.1 != x && r.2.engine == some e && r.2.state == .running && regionsMeet r.2.task k.task)
    if g.state = .idle ∧ coreRuns s c ∧ k.state = .queued ∧ !blocked then some x else none
  | [] => none

/-- An engine starts the task at the head of its queue: T0, the score buffer and the accumulators are zeroed when the partition changes (R111), and its digest register is cleared to the CRC's initial value (R148). -/
def beginEngine (s : State) (c e x : Nat) : State :=
  let k := s.ctx c x
  let s1 := s.modEngine c e (fun g =>
    let swap := g.t0Part != some k.part
    { g with
      queue := g.queue.drop 1, state := .busy, ptag := BitVec.ofNat 6 k.part, ctx := BitVec.ofNat 10 x
      run := some { ctx := x, hasW := weightObj k.task, crc := 0xFFFFFFFFFFFFFFFF }
      t0 := if swap then [] else g.t0, t0Part := some k.part, slice := if swap then 0 else g.slice, rampHeld := false })
  beginTask s1 c x

/-- An engine start, held where the ramp limiter refuses it (R616). -/
def startEngine (s : State) (c e op : Nat) : State :=
  match startHead s c e with
  | some x =>
    if opOf (s.ctx c x).task = op ∧ engineKind (s.ctx c x).task.kind then
      if rampLets s c then beginEngine s c e x else s.modEngine c e (fun g => { g with rampHeld := true })
    else s
  | none => s

/-- MATMUL (R115). -/
def execMatmul (c : CoreId) (e : EngId) (s : State) : Host.Outcome State Fault Refusal := endsClocked s c (startEngine s c e 0x01)
/-- CONV (R125). -/
def execConv (c : CoreId) (e : EngId) (s : State) : Host.Outcome State Fault Refusal := endsClocked s c (startEngine s c e 0x02)
/-- CONV_DW (R127). -/
def execConvDw (c : CoreId) (e : EngId) (s : State) : Host.Outcome State Fault Refusal := endsClocked s c (startEngine s c e 0x03)
/-- ATTN (R132). -/
def execAttn (c : CoreId) (e : EngId) (s : State) : Host.Outcome State Fault Refusal := endsClocked s c (startEngine s c e 0x10)
/-- ATTN_MERGE (R143). -/
def execAttnMerge (c : CoreId) (e : EngId) (s : State) : Host.Outcome State Fault Refusal := endsClocked s c (startEngine s c e 0x11)
/-- NORM_RMS (R140). -/
def execNormRms (c : CoreId) (e : EngId) (s : State) : Host.Outcome State Fault Refusal := endsClocked s c (startEngine s c e 0x20)
/-- NORM_LAYER (R140). -/
def execNormLayer (c : CoreId) (e : EngId) (s : State) : Host.Outcome State Fault Refusal := endsClocked s c (startEngine s c e 0x21)
/-- ROPE (R140). -/
def execRope (c : CoreId) (e : EngId) (s : State) : Host.Outcome State Fault Refusal := endsClocked s c (startEngine s c e 0x22)
/-- GATE (R144). -/
def execGateExperts (c : CoreId) (e : EngId) (s : State) : Host.Outcome State Fault Refusal := endsClocked s c (startEngine s c e 0x30)
/-- COMBINE (R147). -/
def execCombine (c : CoreId) (e : EngId) (s : State) : Host.Outcome State Fault Refusal := endsClocked s c (startEngine s c e 0x31)
/-- QUANT (R138). -/
def execQuant (c : CoreId) (e : EngId) (s : State) : Host.Outcome State Fault Refusal := endsClocked s c (startEngine s c e 0x40)
/-- DEQUANT (R85). -/
def execDequant (c : CoreId) (e : EngId) (s : State) : Host.Outcome State Fault Refusal := endsClocked s c (startEngine s c e 0x41)
/-- ELEM (R139). -/
def execElem (c : CoreId) (e : EngId) (s : State) : Host.Outcome State Fault Refusal := endsClocked s c (startEngine s c e 0x50)
/-- REDUCE (R138). -/
def execReduce (c : CoreId) (e : EngId) (s : State) : Host.Outcome State Fault Refusal := endsClocked s c (startEngine s c e 0x51)
/-- TOPK (R142). -/
def execTopk (c : CoreId) (e : EngId) (s : State) : Host.Outcome State Fault Refusal := endsClocked s c (startEngine s c e 0x52)

/-- The engines whose starts are held, cadence-class tasks first, then in the order their tasks became READY. -/
def heldStarts (s : State) : List (Nat × Nat) :=
  let all := (List.range s.ncores).flatMap (fun c => ((s.core c).engines.filter (fun e => e.2.rampHeld)).map (fun e => (c, e.1)))
  let key (ce : Nat × Nat) : List Nat :=
    let k := s.ctx ce.1 ((s.engine ce.1 ce.2).queue.headD 0)
    [classRank k.cls, k.readyTs.toNat, engIndex ce.1 ce.2]
  sortBy (fun a b => keyLt (key a) (key b)) all

/-- RAMP_WINDOW (R616): a new window counts from the engines busy now, and held starts are granted within it; the held cycles counted are not fixed beyond the window (notes/assumptions/10). -/
def rampWindow (s : State) : State :=
  let held := heldStarts s
  let s1 := { s with pwr.instBusy := busyAll s, cores := s.cores.map (fun k => (k.1, { k.2 with busyEng := busyOf s k.1 })) }
  let s2 := if held = [] then s1
            else { s1 with pwr.rampWait := satAdd s1.pwr.rampWait (Config.free 7 s1.freeNo 31).toNat }.draw
  held.foldl (fun t ce => match startHead t ce.1 ce.2 with
    | some x => if rampLets t ce.1 then beginEngine t ce.1 ce.2 x else t
    | none => t) s2

/-- RAMP_WINDOW. -/
def execRampWindow (s : State) : Host.Outcome State Fault Refusal := ends s (rampWindow s)

/-! ### Operands -/

/-- Whether a weight entry names a sealed block whose licence has lost its key (R560). -/
def keyLost (s : State) (p : Nat) (t : Task) : Bool :=
  (t.operands.filter (fun o => !o.output)).any (fun o => (entryBlocks o).any (fun b =>
    (s.block p b).isSealed && (s.lic (s.block p b).lic).key.isNone))

/-- SEALED_MISUSE set (R548, R561). -/
def sealMisuse (s : State) : State := { s with mem.sealEvents := raiseEv s.mem.sealEvents 3 }

/-- A running task that ends with a status before its tiles are done: its notes stay with its run, and the tasks that waited for its T0 regions start their fetches (R94, R183). -/
def abortTask (s : State) (c x : Nat) (status : W16) : State := fetchFreed (failTask (freeEngine (keepNotes s c x) c x) c x status) c

/-- The addresses that runs read, each range with the hint of the entry it belongs to. -/
def runRanges (t : Task) (runs : List TRun) : List (Nat × Nat × Nat) :=
  runs.filterMap (fun r => r.addr.map (fun a => (hintOf t r.slot, a, r.len)))

/-- The bytes of its engine-ready weight object that tile `i` needs: its own tiles, or the whole object where it is compressed (R272, R286). -/
def weightRanges (t : Task) (i : Nat) : List (Nat × Nat × Nat) :=
  match entryOf t 22 with
  | some o =>
    if !o.weight ∨ tileParts t i = [] then []
    else if o.eraely then [(o.hint, o.addr, o.len)]
    else
      let sh := matShape t
      (tileParts t i).map (fun x => (o.hint, o.addr + wTileOff sh x.1 x.2, wTileBytes sh (wN sh x.1) (wK sh x.2)))
  | none => []

/-- What the first tile of a tensor transfer waits for: every input object whole (R184). -/
def objectRanges (s : State) (p : Nat) (t : Task) (i : Nat) : List (Nat × Nat × Nat) :=
  if tensorMode s p ∧ i = 0 then (t.operands.filter (fun o => !o.output)).map (fun o => (o.hint, o.addr, o.len)) else []

/-- T0 with the tables of a task in it when its first tile is being filled. -/
def tableT0 (s : State) (p : Nat) (t : Task) (i : Nat) (m : Mem) : Mem := if i = 0 then stageTables s p t m else m

/-- The runs that tile `i` of a task reads; the rows that COMBINE reads follow from the index list that the tile itself brings (R147). -/
def operandRuns (s : State) (p : Nat) (t : Task) (i : Nat) (m : Mem) : List TRun :=
  tileRuns (if opOf t = 0x31 then stageTile s p t i [] m else m) t i

/-- The byte ranges that tile `i` needs. -/
def operandRanges (s : State) (p : Nat) (t : Task) (i : Nat) (m : Mem) : List (Nat × Nat × Nat) :=
  runRanges t (operandRuns s p t i m) ++ weightRanges t i ++ objectRanges s p t i

/-- The Eraely objects that a tensor transfer decompresses into T1 with its first tile, by field; the error is the number of blocks that failed (R185). -/
def tensorObjects (s : State) (p : Nat) (t : Task) (r : Running) : Except Nat (List (Nat × List Byte)) :=
  if tensorMode s p ∧ r.tile = 0 then
    (t.operands.filter (fun o => o.eraely && !o.output)).foldl (fun acc o =>
      match acc, eraelyObject (devRead s p o.addr o.len) with
      | .ok l, .ok d => .ok (l ++ [(o.slot, d)])
      | .error a, .error b => .error (a + b)
      | .error a, .ok _ => .error a
      | .ok _, .error b => .error b) (.ok [])
  else .ok r.objs

/-- The weight tiles of a running task's tile, with the objects they are cut from. -/
def operandWeights (s : State) (p : Nat) (t : Task) (r : Running) : Except Nat (List (Nat × List Byte) × List WTile) :=
  match tensorObjects s p t r with
  | .error n => .error n
  | .ok objs => (tileWeights s p objs t r.tile).map (fun ws => (objs, ws))

/-- Bytes that the tile mover delivers into T0 for a tile (R200). -/
def deliveredBytes (runs : List TRun) (ws : List WTile) : Nat :=
  (runs.map (·.len)).foldl (· + ·) 0 + (ws.map (fun w => w.vals.length + w.md.length + w.sc.length)).foldl (· + ·) 0

/-- The blocks that an engine's tile uses: what it reads, by their numbers. -/
def needBlocks (needs : List (Nat × Nat × BitVec 16)) : List Nat := needs.map (·.1)

/-- The operands of a tile enter T0: its weight tiles are folded into the digest (R150), the wait of a tile that was short is counted, and so is the time a convolution's windows may take (R126, R158, R183). -/
def fillT0 (s : State) (c e : Nat) (r : Running) (m : Mem) (objs : List (Nat × List Byte)) (ws : List WTile) (needs : List (Nat × Nat × BitVec 16)) : State :=
  let k := s.ctx c r.ctx
  let t := k.task
  let p := k.part
  let crc := ws.foldl (fun a w => crc64Fold a (leBytes 8 (wTileSum w).toNat)) r.crc
  let waited := r.short || (t.kind == .matrix && opOf t == 2) || opOf t == 3
  let s1 := touchBlocks s c p (needBlocks needs)
  let s2 := s1.modEngine c e (fun g => { g with
    run := some { r with ready := true, crc := crc, objs := objs }
    t0 := stageTile s p t r.tile ws m
    waits := if waited then satAdd g.waits (Config.free 32 s.freeNo 30).toNat else g.waits })
  let s3 := if waited then s2.draw else s2
  s3.modCore c (fun q => { q with bytesIn := q.bytesIn + deliveredBytes (operandRuns s p t r.tile m) ws })

/-- OPERANDS_READY (R183): the operands of the running task's next tile are in T0, once every byte of it is resident or has been read where it lies. An unmapped operand ends the task with ABORTED, a poisoned one with INTEGRITY_FAILED (R254). -/
def operandsReady (s : State) (c e : Nat) : State :=
  match (s.engine c e).run with
  | none => s
  | some r =>
    let k := s.ctx c r.ctx
    let p := k.part
    let t := k.task
    let m := tableT0 s p t r.tile (s.engine c e).t0
    let rngs := operandRanges s p t r.tile m
    if r.ready then s
    else if rngs.any (fun a => anyBlock s p a.2.1 a.2.2 .unmapped) then abortTask (memEvent s 0) c r.ctx stAborted
    else if rngs.any (fun a => anyBlock s p a.2.1 a.2.2 .poisoned) then abortTask s c r.ctx stIntegrity
    else if (runRanges t (operandRuns s p t r.tile m)).any (fun a => touchesSealed s p a.2.1 a.2.2) then abortTask (sealMisuse s) c r.ctx stAborted
    else if keyLost s p t then abortTask s c r.ctx stIntegrity
    else
      match awaitBytes s c r.ctx (tensorMode s p) r.asked (blockNeeds rngs) with
      | (false, asked, s1) => s1.modEngine c e (fun g => { g with run := some { r with short := true, asked := asked } })
      | (true, _, s1) =>
        match operandWeights s1 p t r with
        | .error n => abortTask (s1.modCore c (fun q => { q with decompErr := satAdd q.decompErr n })) c r.ctx stIntegrity
        | .ok (objs, ws) => fillT0 s1 c e r (tableT0 s1 p t r.tile (s.engine c e).t0) objs ws (blockNeeds rngs)

/-- OPERANDS_READY. -/
def execOperandsReady (c : CoreId) (e : EngId) (s : State) : Host.Outcome State Fault Refusal := endsClocked s c (operandsReady s c e)

/-! ### Sampled duplication (R568 to R573) -/

/-- The engine at a rotation position counted from the sampled engine's: (i + 1 + (k mod (n − 1))) mod n. -/
def checkerOf (s : State) (idx k : Nat) : Nat :=
  let l := rotation s
  let n := l.length
  l.getD ((l.idxOf idx + 1 + k % (n - 1)) % n) 0

/-- An accumulator at full internal width. -/
def accBytes : Acc → List Byte
  | .int v => leBytes 8 (v % 2 ^ 64).toNat
  | .fp v => leBytes 8 v.toNat

/-- The result that a duplicate must match: the tile's output and its accumulators (R569, R572). -/
def resultBytes (o : TileOut) : List Byte :=
  o.writes.flatMap (fun w => w.2.2) ++ o.t0w.flatMap (fun w => w.2.2) ++ o.acc.flatMap accBytes
    ++ (o.rowM ++ o.rowL ++ o.rowO).flatMap (fun v => leBytes 4 v.toNat)

/-- Tile units between samples (R568, R599). -/
def sampleEvery (s : State) : Nat := 256 * max 1 s.rel.interval.toNat
/-- Tile units before a check is forced (R571, R599). -/
def forceAfter (s : State) : Nat := 64 * s.rel.forceWait.toNat

/-- A completed tile may be sampled (R568, R569): its count reached a multiple of the interval, or a sample is owed; the copy fits; fewer than two engines take none. `t0` and `t1` are the counts before and after, `sram` is T0 as the tile mover filled it. -/
def trySample (s : State) (c e x t0 t1 : Nat) (before : List Acc) (o : TileOut) (inBytes : Nat) (sram : Mem) : State :=
  let g := s.engine c e
  let due := decide (t0 / sampleEvery s < t1 / sampleEvery s) || g.sampleDue
  if !s.rel.sampleEn || !due || decide ((rotation s).length < 2) || g.slot.stage != .empty then s
  else
    let k := s.ctx c x
    let size := inBytes + (before.length + o.acc.length) * 8 + o.writes.foldl (fun a w => a + w.2.2.length) 0
    if k.task.kind = .vector ∧ 262144 < size then
      { s.modEngine c e (fun g => { g with sampleDue := true }) with rel.skips := satInc s.rel.skips }
    else
      let slot : CheckSlot :=
        { stage := .captured, part := k.part, graph := k.graph
          runNo := (match runOf s k.graph.toNat with | some r => r.runNo | none => 0)
          k := g.sampleK, at_ := t1, checker := checkerOf s (engIndex c e) g.sampleK
          t0 := sram, before := before.flatMap accBytes, orig := resultBytes o }
      { s.modEngine c e (fun g => { g with slot := slot, sampleK := g.sampleK + 1, sampleDue := false })
        with rel.samples := satInc s.rel.samples }

/-! ### Completion of tiles -/

/-- Whether the residue check covers a task's tiles: products of integer and floating-point pairs of 8 bits or fewer, and INT16 products (R95). -/
def residueCovers (t : Task) : Bool :=
  let pair (a b : Nat) : Bool := intPair a || decide (fmtBits a ≤ 8 ∧ fmtBits b ≤ 8)
  match t.kind with
  | .matrix => pair (matShape t).fa (matShape t).fw
  | .attention => pair (fmtOf (pbf t 1 1)) (fmtOf (pbf t 2 1)) || pair (pFormat (fmtOf (pbf t 3 1))) (fmtOf (pbf t 3 1))
  | _ => false

/-- The notes of a tile kept on its task (R92). -/
def noteTile (s : State) (c x : Nat) (n : Byte) : State := s.modCtx c x (fun k => { k with notes := k.notes ||| n })

/-- The run of a context, noted on its engine since the last passed sample (R573). -/
def noteSince (s : State) (c e : Nat) (k : Ctx) : State :=
  match runOf s k.graph.toNat with
  | some r => s.modEngine c e (fun g => { g with since := if g.since.contains (k.graph, r.runNo) then g.since else (k.graph, r.runNo) :: g.since })
  | none => s

/-- A tile whose result may leave the engine: what it leaves in T0, its writes, notes and counts; the last tile hands the digest over and frees the engine (R99, R117, R151). -/
def finishTile (s : State) (c e : Nat) (r : Running) (o : TileOut) (units : Nat) (last : Bool) (sample : Bool) : State :=
  let k := s.ctx c r.ctx
  let inBytes := (operandRuns s k.part k.task r.tile (s.engine c e).t0).foldl (fun n u => n + u.len) 0
  match writeAll c k.part o.writes (s.modEngine c e (fun g => { g with t0 := leaveT0 k.task o.t0w g.t0 })) with
  | (some st, s1) => abortTask (noteTile s1 c r.ctx o.notes) c r.ctx st
  | (none, s1) =>
    let t0 := (s1.engine c e).tiles.toNat
    let digest := r.crc ^^^ 0xFFFFFFFFFFFFFFFF
    let next : Option Running := if last then none
      else some { r with tile := r.tile + 1, ready := false, short := false, asked := false, acc := o.acc, rowM := o.rowM, rowL := o.rowL, rowO := o.rowO, notes := r.notes ||| o.notes }
    let s2 := s1.modEngine c e (fun g => { g with
      tiles := g.tiles + BitVec.ofNat 64 units, slice := g.slice + units, run := next, held := none
      state := if last then .idle else .busy
      digest := if last && r.hasW then digest else g.digest })
    let s3 := s2.modCore c (fun q => { q with bytesOut := q.bytesOut + o.writes.foldl (fun a w => a + w.2.2.length) 0 })
    let s4 := noteSince s3 c e k
    let s5 := if sample && decide (0 < units) then trySample s4 c e r.ctx t0 (t0 + units) r.acc o inBytes (s.engine c e).t0 else s4
    if last then s5.modCtx c r.ctx (fun q => { q with notes := r.notes ||| o.notes, digest := if r.hasW then digest else 0 }) else s5

/-- The tile is held for its residue repeat: nothing of it leaves the engine (R98, R152). -/
def holdTile (s : State) (c e : Nat) (r : Running) (o : TileOut) (units : Nat) (last : Bool) (bit : Nat) : State :=
  let held : Held := { run := { r with acc := o.acc, rowM := o.rowM, rowL := o.rowL, rowO := o.rowO, notes := o.notes }
                       output := o.writes, t0w := o.t0w, units := units, last := last }
  (relEvent (s.modEngine c e (fun g => { g with state := .hold, held := some held, events := raiseEv g.events bit })) 0).modCtx c r.ctx (fun k => { k with state := .held })

/-- An uncorrectable T0 error: counted, reported, and the partition reset (R152, R566). -/
def t0Uncorr (s : State) (c e p : Nat) : State :=
  let s1 := relEvent (s.modEngine c e (fun g => { g with events := raiseEv g.events 2 })) 4
  partitionReset (report { s1 with rel.eccUncorr := satInc s1.rel.eccUncorr } 0x0603 (engInit c e) p) p 1

/-- TILE_COMPLETE (R117, R152): the running tile completes with what its checks found. -/
def tileComplete (s : State) (c e : Nat) (fault : TileFault) : State :=
  let g := s.engine c e
  match g.run, g.held with
  | some r, none =>
    if !r.ready then s
    else
      let k := s.ctx c r.ctx
      let o := engineTile s k.part g.t0 k.task r
      let units := tileUnits k.task r.tile
      let last := decide (taskTiles k.task ≤ r.tile + 1)
      match (if fault = .residue ∧ !residueCovers k.task then .none else fault) with
      | .residue => holdTile s c e r o units last 0
      | .scoreParity => holdTile s c e r o units last 3
      | .eccUncorr => t0Uncorr s c e k.part
      | f =>
        let s1 := if f = .eccCorr then eccCorrected s (engInit c e) (.t0 ⟨c % 64, Nat.mod_lt _ (by decide)⟩ ⟨e % 8, Nat.mod_lt _ (by decide)⟩) else s
        match o.fail with
        | some st => abortTask (noteTile s1 c r.ctx o.notes) c r.ctx st
        | none => finishTile s1 c e r o units last true
  | _, _ => s

/-- TILE_COMPLETE. -/
def execTileComplete (c : CoreId) (e : EngId) (fault : TileFault) (s : State) : Host.Outcome State Fault Refusal :=
  endsClocked s c (tileComplete s c e fault)

/-- RESIDUE_REPEAT_DONE (R567, R598): a passing repeat makes the fault transient, its result is used, and a sample of the tile is taken from it; a failing one is permanent, and without AUTO_FENCE the task ends with INTEGRITY_FAILED (R575). -/
def residueRepeat (s : State) (c e : Nat) (pass : Bool) : State :=
  let g := s.engine c e
  match g.run, g.held with
  | some r, some h =>
    if pass then
      let o : TileOut := { acc := h.run.acc, rowM := h.run.rowM, rowL := h.run.rowL, rowO := h.run.rowO, t0w := h.t0w, writes := h.output, notes := h.run.notes }
      let k := s.ctx c r.ctx
      let s1 := sendReport { s with rel.resTrans := satInc s.rel.resTrans }
        { mkReport s 0x0601 (engInit c e) k.part with task := BitVec.ofNat 16 k.task.index, tile := BitVec.ofNat 32 r.tile, handle := k.graph }
      let s2 := s1.modCtx c r.ctx (fun k => { k with state := .running })
      finishTile s2 c e r o h.units h.last true
    else
      let s1 := { s with rel.resPerm := satInc s.rel.resPerm }
      if s.rel.autoFence then permanent s1 c e
      else permanent (abortTask s1 c r.ctx stIntegrity) c e
  | _, _ => s

/-- RESIDUE_REPEAT_DONE. -/
def execResidueRepeatDone (c : CoreId) (e : EngId) (pass : Bool) (s : State) : Host.Outcome State Fault Refusal :=
  endsClocked s c (residueRepeat s c e pass)

/-! ### Settling a sample -/

/-- A check slot zeroed once its sample is settled. -/
def clearSlot (s : State) (c e : Nat) : State := s.modEngine c e (fun g => { g with slot := noSlot })

/-- DUPLICATE_DONE (R570, R572): equal results pass the sample; different ones are settled by REP. -/
def duplicateDone (s : State) (c e : Nat) (result : List Byte) : State :=
  let sl := (s.engine c e).slot
  if sl.stage = .captured ∨ sl.stage = .forced then
    if result = sl.orig then (clearSlot s c e).modEngine c e (fun g => { g with since := [] })
    else (relEvent s 1).modEngine c e (fun g => { g with slot := { sl with stage := .rep, dup := result } })
  else s

/-- DUPLICATE_DONE. -/
def execDuplicateDone (c : CoreId) (e : EngId) (result : List Byte) (s : State) : Host.Outcome State Fault Refusal :=
  endsClocked s c (duplicateDone s c e result)

/-- Whether an engine has a cadence-class task running or queued. -/
def hasCadence (s : State) (c e : Nat) : Bool := (engineTasks (s.engine c e)).any (fun x => (s.ctx c x).cls == .cadence)

/-- FORCE_WAIT_EXPIRE (R571): the duplicate takes the next slot of the first engine, from the checker's position onward, without cadence-class work. -/
def forceWait (s : State) (c e : Nat) : State :=
  let g := s.engine c e
  if g.slot.stage = .captured ∧ g.slot.at_ + forceAfter s ≤ g.tiles.toNat then
    let l := rotation s
    let at_ := l.idxOf g.slot.checker
    let order := (l.drop at_ ++ l.take at_).filter (fun i => i != engIndex c e)
    match order.find? (fun i => !hasCadence s (i / 8) (i % 8)) with
    | some i => { s.modEngine c e (fun g => { g with slot := { g.slot with stage := .forced, checker := i } }) with rel.forced := satInc s.rel.forced }
    | none => s
  else s

/-- FORCE_WAIT_EXPIRE. -/
def execForceWaitExpire (c : CoreId) (e : EngId) (s : State) : Host.Outcome State Fault Refusal := endsClocked s c (forceWait s c e)

/-- A run named by graph and number fails with INTEGRITY_FAILED while it is live (R573). -/
def failNamed (s : State) (h : W32) (n : Nat) : State :=
  match runOf s h.toNat with
  | some r => if r.runNo = n then failRun s h.toNat stIntegrity.toNat else s
  | none => s

/-- A transient fault of the sampled engine (R572, R573). -/
def sampleTransient (s : State) (c e : Nat) : State :=
  let sl := (s.engine c e).slot
  let s1 := sendReport { s with rel.sTrans := satInc s.rel.sTrans } { mkReport s 0x0602 (engInit c e) sl.part with handle := sl.graph }
  failNamed (clearSlot s1 c e) sl.graph sl.runNo

/-- A permanent fault of the sampled engine: every live run with a tile there since its last passed sample fails (R572, R573). -/
def samplePermanent (s : State) (c e : Nat) : State :=
  let g := s.engine c e
  let s1 := clearSlot { s with rel.sPerm := satInc s.rel.sPerm } c e
  permanent (g.since.foldl (fun t r => failNamed t r.1 r.2) s1) c e

/-- The block's own probe of some cores (R572, R581): 64 rounds; one probe runs at a time. -/
def ownProbe (s : State) (cores : List Nat) : State :=
  let es := (rotation s).filter (fun i => cores.contains (i / 8))
  if s.rel.probe.isSome || es.isEmpty then s
  else { s with rel.probe := some { engines := es, rounds := 64 } }

/-- SETTLE_TILE_DONE (R572): REP on the sampled engine, THIRD in a forced slot, or DUP run again on the checker. -/
def settleTile (s : State) (c e : Nat) (result : List Byte) : State :=
  let sl := (s.engine c e).slot
  match sl.stage with
  | .rep =>
    if result = sl.dup then sampleTransient s c e
    else if (rotation s).length < 3 ∨ result ≠ sl.orig then samplePermanent s c e
    else { s.modEngine c e (fun g => { g with slot := { sl with stage := .third, rep := result } }) with rel.forced := satInc s.rel.forced }
  | .third =>
    if result = sl.dup then samplePermanent s c e
    else if result = sl.orig then s.modEngine c e (fun g => { g with slot := { sl with stage := .recheck } })
    else ownProbe (clearSlot s c e) [c, sl.checker / 8, checkerOf s (engIndex c e) (sl.k + 1) / 8]
  | .recheck =>
    let k := sl.checker
    if result = sl.orig then clearSlot (report s 0x0602 (engInit (k / 8) (k % 8)) sl.part) c e
    else permanent (clearSlot { s with rel.sPerm := satInc s.rel.sPerm } c e) (k / 8) (k % 8)
  | _ => s

/-- SETTLE_TILE_DONE. -/
def execSettleTileDone (c : CoreId) (e : EngId) (result : List Byte) (s : State) : Host.Outcome State Fault Refusal :=
  endsClocked s c (settleTile s c e result)

end Sys2Proof.Machine
end

