-- ==== Sys2Proof/Machine/Points.lean ====
section
/-! DEFINITION. Operating points: what a core wants, what it holds, and the voltage requests of the rail (R601, R603, R606 to R608, R610). -/

namespace Sys2Proof.Machine

/-- The preferred point of an aim (R606): phases 0 vision, 1 prefill, 2 decode, 3 control; aims 0 economy, 1 balanced, 2 maximum. -/
def aimPoint (phase aim : Nat) : Nat :=
  match phase, aim with
  | 0, 0 => 3 | 0, 1 => 5 | 0, _ => 6
  | 1, 0 => 4 | 1, 1 => 5 | 1, _ => 7
  | 2, 0 => 3 | 2, 1 => 4 | 2, _ => 5
  | _, 0 => 5 | _, 1 => 5 | _, _ => 6

/-- The rail voltage of a point in mV (R601). -/
def pointMv (op : Nat) : Nat := [550, 600, 650, 680, 720, 750, 800, 850].getD op 850
/-- The core clock of a point in MHz (R601). -/
def pointMhz (op : Nat) : Nat := [600, 800, 1000, 1200, 1300, 1400, 1500, 1600].getD op 1600
/-- The fall-back body bias of a point (R601). -/
def fallBias (op : Nat) : BitVec 2 := if op < 3 then 0 else if op < 6 then 1 else 2
/-- The fall-back memory assist of a point: [0] write, [1] read (R601). -/
def fallAssist (op : Nat) : BitVec 2 := if op < 2 then 3 else if op < 4 then 1 else 0

/-- The point a core wants: the lowest of its preference and its limits (R607), and of its climb after a trip (R619). -/
def wantPoint (k : Core) : Nat := min (min (min k.pref.toNat k.capOp.toNat) (min k.thermOp.toNat k.paceOp.toNat)) k.climbOp.toNat

/-- The point a core may hold: under fall-back not above the last acknowledged voltage (R607, R610), and not above its spare's while one PLL of its pair is out of lock (R665). -/
def mayHold (s : State) (k : Core) : Nat :=
  let w := if s.pwr.fallback then min (wantPoint k) s.pwr.railOp.toNat else wantPoint k
  if k.pllLock && k.pllLock2 then w else min w k.spareOp.toNat

/-- A voltage request for the highest point that a powered core wants; a later request waits for the one outstanding (R603, R608). In fall-back the request is sent again at calibrations only (R610), and a regulator of another format is never asked (R609). -/
def askRail (s : State) : State :=
  let wants := (poweredCores s).map (fun c => wantPoint (s.core c))
  let target : BitVec 3 := BitVec.ofNat 3 (wants.foldl max 0)
  if wants = [] ∨ !s.chip.ulinear16 then s
  else match s.pwr.pending with
    | some _ => s
    | none => if target = s.pwr.railOp ∨ s.pwr.fallback then s else { s with pwr.pending := some (target, s.ts) }

/-- The highest clock the rail allows: the acknowledged voltage, or that of a lower request outstanding (R608). -/
def railTop (s : State) : Nat :=
  match s.pwr.pending with | some (q, _) => min q.toNat s.pwr.railOp.toNat | none => s.pwr.railOp.toNat

/-- Whether a throttle reason holds a powered core below its preferred point or stretches its clock (R621): 0 thermal, 1 power cap, 2 current limit, 3 droop, 4 fabric pace, 5 regulator no-ack. -/
def thrHolds (s : State) (r : Nat) : Bool :=
  (poweredCores s).any (fun c =>
    let k := s.core c
    match r with
    | 0 => decide (k.thermOp.toNat < k.pref.toNat)
    | 1 => decide (k.capOp.toNat < k.pref.toNat)
    | 2 => k.skip
    | 3 => k.droop
    | 4 => decide (k.paceOp.toNat < k.pref.toNat)
    | _ => s.pwr.fallback && decide (s.pwr.railOp.toNat < k.pref.toNat))

/-- The throttle reasons brought up to date (R621): whole µs counted for those that held until now, and a beginning stamped for those that hold newly. -/
def thrUpdate (s : State) : State :=
  let us := (s.ts.toNat - s.pwr.thrTs.toNat) / 1000
  let held (r : Nat) : Bool := tget false s.pwr.thrOn r
  { s with
    pwr.thrDur := (List.range 6).foldl (fun t r => if held r ∧ us ≠ 0 then tset t r (tget 0 t r + BitVec.ofNat 64 us) else t) s.pwr.thrDur
    pwr.thrTs := s.pwr.thrTs + BitVec.ofNat 64 (us * 1000)
    pwr.thrLast := (List.range 6).foldl (fun t r => if thrHolds s r && !held r then tset t r s.ts else t) s.pwr.thrLast
    pwr.thrOn := (List.range 6).map (fun r => (r, thrHolds s r)) }

/-- Every powered core moves to the point it may hold: down at once, up only within the voltage acknowledged (R608); then the rail is asked, and the throttle reasons are brought up to date. -/
def refreshPoints (s : State) : State :=
  let turn (k : Core) : Core :=
    let w := mayHold s k
    if !k.on then k
    else if w ≤ k.op.toNat then { k with op := BitVec.ofNat 3 w }
    else { k with op := BitVec.ofNat 3 (max k.op.toNat (min w (railTop s))) }
  thrUpdate (askRail { s with cores := tmap turn s.cores })

/-- Whether a core runs cadence-bound work: a cadence-class task is ready, queued, running or held there. -/
def coreCadence (s : State) (c : Nat) : Bool :=
  (s.core c).ctxs.any (fun e => (e.2.state == .ready || e.2.state == .queued || e.2.state == .running || e.2.state == .held) && e.2.cls == .cadence)

end Sys2Proof.Machine
end

