-- ==== Sys2Proof/Machine/Wakes.lean ====
section
/-! DEFINITION. The wake ladder's requests and rises, pre-warm, wake sources and the start of a restore (R42, R318, R320, R322 to R331, R672 to R674). -/

namespace Sys2Proof.Machine

/-- A flag of SPR_EVENTS raised: 0 HIT, 1 PROMOTE, 2 CLIPPED, 3 PROMO_DENIED, 4 RUNG_LATE, 5 WIN_OVERRUN, 6 PROG_ERR, 7 FALL_CANCEL (R335). -/
def sprEvent (s : State) (bit : Nat) : State := { s with spr.events := raiseEv s.spr.events bit }

/-! ### Domains (R672) -/

/-- A domain that is not a core. -/
def State.dom (s : State) : Domain → Dom
  | .rnt => s.crp.rnt | .spr => s.crp.spr | .str => s.crp.str | .ctl => s.crp.ctl | .net => s.crp.net | .flc => s.crp.flc
  | .core c => let k := s.core c
               { on := k.on, req := k.req, iso := k.iso, ret := k.ret, reqTs := k.reqTs }

/-- A domain's switch state written. -/
def State.setDom (s : State) (d : Domain) (v : Dom) : State :=
  match d with
  | .rnt => { s with crp.rnt := v } | .spr => { s with crp.spr := v } | .str => { s with crp.str := v }
  | .ctl => { s with crp.ctl := v } | .net => { s with crp.net := v } | .flc => { s with crp.flc := v }
  | .core c => s.modCore c (fun k => { k with on := v.on, req := v.req, iso := v.iso, ret := v.ret, reqTs := v.reqTs })

/-- A core's domain by number. -/
def coreDom (c : Nat) : Domain := .core ⟨c % 64, Nat.mod_lt _ (by decide)⟩

/-- A domain is asked on: isolation asserted, pd_d_on risen at a stamp (R673). -/
def askOn (s : State) (d : Domain) (at_ : W64) : State :=
  let v := s.dom d
  if v.req then s else s.setDom d { v with req := true, iso := true, reqTs := at_ }

/-- A domain is switched off (R673): its clock stopped and isolated, in retention where the state keeps it, pd_d_on fallen. -/
def askOff (s : State) (ret : Bool) (d : Domain) : State :=
  let v := s.dom d
  if v.req then s.setDom d { v with req := false, iso := true, ret := ret } else s

/-! ### Rungs (R42, R323) -/

/-- The number of cores that rung `n` names. -/
def rungSize (s : State) (n : Nat) : Nat :=
  if n = 0 then 0 else if n = 1 then 1 else if n = 2 then min 4 s.ncores else s.ncores
/-- The cores a rung powers beyond the rung below. -/
def extraCores (s : State) (n : Nat) : List Nat := (List.range (rungSize s n)).filter (fun c => decide (rungSize s (n - 1) ≤ c))
/-- The lowest rung that names a core. -/
def rungOf (s : State) (c : Nat) : Nat := ([1, 2, 3].find? (fun n => decide (c < rungSize s n))).getD 3

/-- The state of rung `n`. -/
def rungState (s : State) (n : Nat) : Rung := if n = 1 then s.spr.l1 else if n = 2 then s.spr.l2 else s.spr.l3
/-- A rung's state written. -/
def setRung (s : State) (n : Nat) (r : Rung) : State :=
  if n = 1 then { s with spr.l1 := r } else if n = 2 then { s with spr.l2 := r } else { s with spr.l3 := r }
/-- The highest rung that is UP. -/
def topRung (s : State) : Nat := if s.spr.l3 = .up then 3 else if s.spr.l2 = .up then 2 else if s.spr.l1 = .up then 1 else 0
/-- The highest rung that is UP or RISING. -/
def topRising (s : State) : Nat :=
  let ok (r : Rung) : Bool := r == .up || r == .rising
  if ok s.spr.l3 then 3 else if ok s.spr.l2 then 2 else if ok s.spr.l1 then 1 else 0
/-- Whether a rung is RISING. -/
def isRising (s : State) : Bool := s.spr.l1 == .rising || s.spr.l2 == .rising || s.spr.l3 == .rising
/-- Whether a rung is FALLING. -/
def isFalling (s : State) : Bool := s.spr.l1 == .falling || s.spr.l2 == .falling || s.spr.l3 == .falling

/-! ### Pre-warm (R329) -/

/-- The entries whose storage is usable are fetched in order: T2 with NET up, T1 with its core's SRAM usable. Those of a partition that is not READY are dropped (R331). -/
def preGo (s : State) : State :=
  let usable (e : PreWarm) : Bool := match e.dest with
    | none => s.crp.net.on
    | some c => (s.core c).on
  let go := s.spr.preQueue.filter (fun e => usable e && (s.part e.part).state == .ready)
  let s1 := { s with spr.preQueue := s.spr.preQueue.filter (fun e => !usable e && (s.part e.part).state == .ready) }
  go.foldl (fun t e => (List.range e.blocks).foldl (fun t i =>
    bringBlock t { part := e.part, block := e.block + i, rank := 4, cls := classOf t e.part, dest := e.dest }) t) s1

/-- The pre-warm sets of the rungs from `lo` to `hi` queued at rank 4, rung by rung and entry by entry. -/
def queuePre (s : State) (lo hi : Nat) : State :=
  let sets := ([1, 2, 3].filter (fun n => decide (lo ≤ n ∧ n ≤ hi))).flatMap (fun n => tget [] s.spr.preWarm n)
  preGo { s with spr.preQueue := s.spr.preQueue ++ sets }

/-! ### Rises (R325) -/

/-- Rung `n` rises: it is UP at once when its cores are powered (R42), else its cores are asked on in groups of SPR_RAMP.GROUP, 600 µs each. -/
def startRise (s : State) (n : Nat) : State :=
  let new := (extraCores s n).filter (fun c => !(s.core c).on)
  if new = [] then setRung s n .up
  else
    let g := max 1 s.spr.group.toNat
    let s1 := { setRung s n .rising with spr.riseAt := s.ts }
    new.zipIdx.foldl (fun t e => askOn t (coreDom e.1) (s.ts + BitVec.ofNat 64 (e.2 / g * 600000))) s1

/-- Whether the ladder may begin a rise: in A, with no restore, rise, fall or entry under way. -/
def mayClimb (s : State) : Bool :=
  s.spr.pstate == .a && s.spr.restoring.isNone && s.spr.draining.isNone && s.spr.falling.isNone && !isRising s && !isFalling s

/-- The rungs below the target rise one after another. -/
def climb (s : State) : State :=
  [2, 3].foldl (fun t n => if mayClimb t && topRung t + 1 == n && decide (n ≤ t.spr.target.toNat) then startRise t n else t) s

/-- A fall or an entry whose isolation is not yet asserted is abandoned: the rungs are UP again (R322, R327). -/
def cancelFall (s : State) : State :=
  let back (r : Rung) : Rung := if r = .falling then .up else r
  let lo := s.spr.falling.getD 1
  let s1 := { s with spr.l1 := back s.spr.l1, spr.l2 := back s.spr.l2, spr.l3 := back s.spr.l3, spr.falling := none, spr.draining := none }
  let s2 := { s1 with spr.target := BitVec.ofNat 2 (max s1.spr.target.toNat (topRung s1)) }
  queuePre s2 lo (topRung s2)

/-- The idle timers of the rungs start again (R324, R326). -/
def restartIdle (s : State) : State := { s with spr.rungIdle := [(1, s.ts), (2, s.ts), (3, s.ts)] }

/-- A promotion request for a rung, from a partition or from the block itself (R324, R327, R331). -/
def promote (s : State) (rung : Nat) (from_ : Option Nat) : State :=
  let top := max 1 s.spr.maxRung.toNat
  let denied := match from_ with | some p => !hasRight s p 2 | none => false
  if rung = 0 then s
  else if denied then sprEvent s 3
  else
    let r := min rung top
    let s1 := if top < rung then sprEvent s 2 else s
    let hit := match s1.spr.falling with | some f => decide (f ≤ r) && !s1.spr.isoDone | none => false
    let s2 := if hit then sprEvent (cancelFall s1) 7 else s1
    if r ≤ topRising s2 then restartIdle (if hit then sprEvent s2 1 else s2)
    else
      let s3 := sprEvent s2 1
      let s4 := if s3.spr.target.toNat < r then
          { queuePre s3 (max (topRung s3 + 1) (s3.spr.target.toNat + 1)) r with spr.target := BitVec.ofNat 2 r, spr.promotions := satInc s3.spr.promotions }
        else s3
      climb s4

/-! ### Wakes (R318, R320, R322) -/

/-- The sources that wake from a state: bit 0 fabric, 1 host, 2 stream, 3 Sprout, 4 cadence, 5 timer, 6 management (R318, R335). -/
def wakesFrom : PState → BitVec 7
  | .i => 0x7F
  | .t | .w => 0x7B
  | .s => 0x77
  | .a | .o => 0

/-- A restore begins from a state (R320): the domains it needs are asked on at their fixed times; from W and S the target is at least L1 and its pre-warm is queued. -/
def beginRestore (s : State) (from_ : PState) : State :=
  let s0 := { s with spr.restoring := some from_, spr.wakeTs := s.ts }
  let plus (n : Nat) : W64 := s.ts + BitVec.ofNat 64 n
  match from_ with
  | .t =>
    let s1 := [Domain.ctl, .flc, .spr, .str].foldl (fun t d => askOn t d s.ts) s0
    let held := (List.range s.ncores).filter (fun c => (s.core c).ret)
    held.zipIdx.foldl (fun t e => askOn t (coreDom e.1) (plus (40000 + e.2 / 16 * 100000))) (askOn s1 .net (plus 40000))
  | .w =>
    let s1 := [Domain.ctl, .flc, .spr, .str].foldl (fun t d => askOn t d s.ts) s0
    let s2 := askOn (askOn s1 .net (plus 40000)) (coreDom 0) (plus 440000)
    let tgt := max 1 s.spr.target.toNat
    queuePre { setRung s2 1 .rising with spr.target := BitVec.ofNat 2 tgt } 1 tgt
  | .s =>
    let tgt := max 1 s.spr.target.toNat
    { setRung (askOn s0 .rnt s.ts) 1 .rising with spr.target := BitVec.ofNat 2 tgt, rennet.wake := true, rennet.refTs := s.ts, rennet.boot := .booting, rennet.step := 0 }
  | _ => s0

/-- Whether Rennet runs without an image, or recovers from that (R333, R480); a recovery begun in a degraded boot keeps its image and its array controller. -/
def bare (s : State) : Bool := s.rennet.boot == .noImage || (s.rennet.boot == .recovery && s.rennet.manifest == [])

/-- In W without an image no array controller runs, and a wake goes to Rennet alone (R333). -/
def noArray (s : State) : Bool := s.spr.pstate == .w && bare s

/-- Wake sources latched (R318, R320, R322): enabled sources that wake from the state set their cause bits; the earliest of a wake is FIRST; the restore begins, a drain under way is abandoned, or after isolation the switch-off finishes first. -/
def latchWake (s : State) (sources : BitVec 7) (first : Nat) : State :=
  let entering := s.spr.draining
  let ok := match entering with
    | some to_ => sources &&& s.spr.wakeEn &&& wakesFrom to_
    | none => sources &&& s.spr.wakeEn &&& wakesFrom s.spr.pstate
  if ok = 0 then s
  else
    let fresh := s.spr.restoring.isNone
    let f := if ok.getLsbD first then first else ((List.range 7).find? (fun i => ok.getLsbD i)).getD 0
    let s1 := { s with spr.wakeCause := s.spr.wakeCause ||| ok, spr.first := if fresh then BitVec.ofNat 3 f else s.spr.first }
    match entering with
    | some to_ =>
      if s.spr.isoDone then { s1 with spr.restoring := some to_ }
      else
        let s2 := cancelFall s1
        if s2.spr.pstate = .a then climb s2 else beginRestore s2 s2.spr.pstate
    | none => if fresh && !noArray s then beginRestore s1 s.spr.pstate else s1

/-- Activity of a link in electrical idle, or a frame queued for one, is a fabric wake (R318, R362). -/
def linkWake (s : State) (lp : Bool) : State := if lp then latchWake s 1 0 else s

/-- WAKE (R318, R320): the sources of one moment, the earliest among them, and the rung that a Sprout test names. -/
def execWake (sources : BitVec 7) (first : Fin 7) (rung : Fin 4) (now : W64) (s : State) : Host.Outcome State Fault Refusal :=
  endsAt s now (fun s =>
    let s1 := latchWake s sources first
    if (sources &&& s.spr.wakeEn &&& wakesFrom s.spr.pstate).getLsbD 3 then promote s1 rung s1.spr.owner else s1)

end Sys2Proof.Machine
end

