-- ==== Sys2Proof/Machine/Routes.lean ====
section
/-! DEFINITION. The device fabric's links, identity, link states and routes (R336 to R365), with the frames of management. -/

namespace Sys2Proof.Machine

/-! ### Credits and links -/

/-- The receive buffer of a channel in 32-byte units: 1, 4, 8 and 64 KiB (R346). -/
def bufUnits (v : Nat) : Nat := if v = 3 then 32 else if v = 0 then 128 else if v = 1 then 256 else 2048
/-- Full credits of every channel. -/
def fullCredits : Tbl Nat := [(0, 128), (1, 256), (2, 2048), (3, 32)]

/-- The highest common code of two capabilities. -/
def minCode (a b : BitVec 2) : BitVec 2 := if a.toNat ≤ b.toNat then a else b

/-- Bring-up of a port begins (R339): training at 8 Gb/s, then a change to the rate being tried. -/
def beginUp (s : State) (f : Nat) (rate lanes : BitVec 2) : State :=
  s.modPort f (fun p => { p with
    state := .training, step := if rate = 0 then 6 else 4, stepAt := s.ts, tryRate := rate, tryLanes := lanes
    rateReq := rate, rateAck := false, restartAt := none })

/-- Bring-up from the highest common rate and the widest lanes. -/
def bringUp (s : State) (f : Nat) : State :=
  let p := s.port f
  if p.en && p.phyReady then beginUp s f (minCode p.rateMax p.capsRate) p.lanesMax
  else s.modPort f (fun q => { q with state := if q.en then .detect else .off })

/-- This device's links as its LSA lists them: UP and LP links, and SLEEP ones marked so (R356). -/
def ownLinks (s : State) : List LsaLink :=
  (List.finRange 6).filterMap (fun (f : FabPort) =>
    let p := s.port f.val
    if p.state = .up ∨ p.state = .lp ∨ p.state = .sleep then
      some { port := f, neigh := ⟨p.neigh.toNat, p.neigh.isLt⟩, neighPort := ⟨p.neighPort.toNat % 6, Nat.mod_lt _ (by decide)⟩
             lanes := p.lanes, rate := p.rate, sleep := p.state == .sleep }
    else none)

/-- A broadcast of this device with a payload whose layout the manual does not fix. -/
def broadcast (s : State) (type : Nat) (arg : W64) (tag : Nat) : State :=
  (sendFrame s (mkFrame s type 0x3FF true 0x3F arg (freeBytes s tag 32)) none).draw

/-- A beacon is sent (R353). -/
def sendBeacon (s : State) : State :=
  if s.fab.idState = 0 then s
  else broadcast { s with fab.beaconSeq := s.fab.beaconSeq + 1, fab.beaconAt := s.ts } 0x01 ((s.fab.beaconSeq + 1).setWidth 64) 40
/-- The own LSA is sent (R356). -/
def sendLsa (s : State) : State :=
  if s.fab.idState = 0 then s
  else broadcast { s with fab.lsaSeq := s.fab.lsaSeq + 1, fab.lsaAt := s.ts, fab.dbChanged := true } 0x02 ((s.fab.lsaSeq + 1).setWidth 64) 41
/-- A claim is sent (R354). -/
def sendClaim (s : State) : State :=
  broadcast s 0x03 (BitVec.ofNat 64 (s.fab.id.toNat + s.fab.idState.toNat * 1024)) 42

/-- The frames waiting at a port go to their alternates, which the switched entries now name, in order; those without one are discarded (R359). -/
def rehome (s : State) (f : Nat) : State :=
  let frames := (s.port f).queue
  let s1 := s.modPort f (fun p => { p with queue := [] })
  frames.foldl (fun t fr =>
    let r : Route := tget {} s.fab.routes fr.dst
    if fr.bcast then t
    else if r.valid ∧ r.port.toNat < 6 ∧ r.port.toNat ≠ f ∧ linkIn s r.port.toNat then queueAt t r.port.toNat fr else t) s1

/-- Every entry that uses a port switches to its alternate (R359). -/
def switchRoutes (s : State) (f : Nat) : State :=
  let hit := s.fab.routes.any (fun e => e.2.valid && e.2.port.toNat == f)
  let turn (r : Route) : Route :=
    if r.valid ∧ r.port.toNat = f then
      (if r.alt.toNat < 6 then { r with port := r.alt, alt := 7 } else { r with port := 7, alt := 7, valid := false })
    else r
  let s1 := { s with fab.routes := tmap turn s.fab.routes }
  if hit then fabEvent s1 5 else s1

/-- A link goes DOWN, or OFF where the port is disabled (R344, R359): its replay buffer is discarded, its frames move, and a report and an LSA go out. -/
def linkDown (s : State) (f : Nat) (to_ : LinkState) : State :=
  let was := (s.port f).live
  let s1 := s.modPort f (fun p => { p with
    state := to_, replayBuf := [], txSeq := 0, rxSeq := 0, ackIn := 0xFFF, nak := false, oneReplay := 0, replays := []
    rxBuf := [], owed := [], live := false, lanes := 0, rate := 0, step := 0 })
  if was then
    let s2 := report (fabEvent s1 0) 0x060D (initId 2 0) 64
    sendLsa (rehome (switchRoutes s2 f) f)
  else s1

/-- A retrain of a port under R339: counted; the third within 1 s takes the link DOWN (R344). -/
def retrain (s : State) (f : Nat) : State :=
  let recent := s.ts :: ((s.port f).retrainTs.filter (fun t => decide (s.ts.toNat < t.toNat + 1000000000)))
  let s1 := s.modPort f (fun p => { p with retrains := satInc p.retrains, retrainTs := recent, oneReplay := 0, replays := [] })
  if 3 ≤ recent.length then
    (linkDown s1 f .down).modPort f (fun p => { p with restartAt := some (s.ts + 10000000), retrainTs := [] })
  else
    let s2 := bringUp s1 f
    if (s.port f).state = .up ∨ (s.port f).state = .lp then sendLsa s2 else s2

/-- PHY_READY (R339): bring-up begins on an enabled port. -/
def execPhyReady (f : FabPort) (now : W64) (s : State) : Host.Outcome State Fault Refusal :=
  endsAt s now (fun s => bringUp (s.modPort f (fun p => { p with phyReady := true })) f)

/-- RATE_ACK (R647): the PHY runs at the rate asked for; the lanes are aligned again. -/
def execRateAck (f : FabPort) (now : W64) (s : State) : Host.Outcome State Fault Refusal :=
  endsAt s now (fun s => s.modPort f (fun p => { p with
    rateAck := true, step := if p.state = .training ∧ p.step = 4 then 6 else p.step
    stepAt := if p.state = .training ∧ p.step = 4 then s.ts else p.stepAt }))

/-- The next attempt after a failed test (R340): a lower rate, then fewer lanes from the highest rate; none when lane 0 at 8 Gb/s has failed. -/
def nextTry (p : Port) : Option (BitVec 2 × BitVec 2) :=
  if p.tryRate ≠ 0 then some (p.tryRate - 1, p.tryLanes)
  else if p.tryLanes ≠ 0 then some (minCode p.rateMax p.capsRate, p.tryLanes - 1)
  else none

/-- LINK_STEP_TIMEOUT (R339, R340): a failed test of step 6 is tried lower; any other step that has lasted 100 µs, and the last try, waits 10 ms for a restart. -/
def execLinkStepTimeout (f : FabPort) (now : W64) (s : State) : Host.Outcome State Fault Refusal :=
  endsAt s now (fun s =>
    let p := s.port f
    let wait (t : State) := t.modPort f (fun q => { q with restartAt := some (t.ts + 10000000) })
    if p.state ≠ .training then s
    else if p.step = 6 then
      match nextTry p with
      | some (r, l) => beginUp s f r l
      | none => wait (linkDown s f .down)
    else if p.stepAt.toNat + 100000 ≤ s.ts.toNat then wait s else s)

/-- LINK_RESTART_TIMER (R339): bring-up restarts while the PHY is ready. -/
def execLinkRestartTimer (f : FabPort) (now : W64) (s : State) : Host.Outcome State Fault Refusal :=
  endsAt s now (fun s => match (s.port f).restartAt with
    | some t => if t.toNat ≤ s.ts.toNat ∧ (s.port f).phyReady then bringUp s f else s
    | none => s)

/-- LINK_TRAINED (R339, R340): the link is UP at the rate and width reached, with full credits; a beacon and an LSA go out, and held frames leave. -/
def execLinkTrained (f : FabPort) (peer : LinkPeer) (now : W64) (s : State) : Host.Outcome State Fault Refusal :=
  endsAt s now (fun s =>
    let p := s.port f
    if p.state ≠ .training ∨ p.step ≠ 6 then s
    else
      let s1 := s.modPort f (fun q => { q with
        state := .up, lanes := peer.lanes, rate := peer.rate, neigh := BitVec.ofNat 10 peer.neigh.val
        neighPort := BitVec.ofNat 3 peer.neighPort.val, capsRate := peer.capRate, credits := fullCredits, lastRx := s.ts
        wakeHold := false, step := 7, live := true })
      let low := decide (peer.rate.toNat < (minCode p.rateMax peer.capRate).toNat ∨ peer.lanes.toNat < (minCode p.lanesMax peer.capLanes).toNat)
      let s2 := fabEvent s1 1
      pumpPort (sendLsa (sendBeacon (if low then fabEvent s2 2 else s2))) f)

/-- PHY_READY_DROP (R344). -/
def execPhyReadyDrop (f : FabPort) (now : W64) (s : State) : Host.Outcome State Fault Refusal :=
  endsAt s now (fun s =>
    let s1 := s.modPort f (fun p => { p with phyReady := false, restartAt := none })
    match (s.port f).state with
    | .up | .lp | .training => linkDown s1 f .down
    | _ => s1)

/-- LINK_SILENCE (R344): 2 µs without a flit on an UP link. -/
def execLinkSilence (f : FabPort) (now : W64) (s : State) : Host.Outcome State Fault Refusal :=
  endsAt s now (fun s =>
    if (s.port f).state = .up ∧ (s.port f).lastRx.toNat + 2000 ≤ s.ts.toNat then linkDown s f .down else s)

/-- LP_ENTER (R362): electrical idle with the trained settings kept. -/
def execLpEnter (f : FabPort) (now : W64) (s : State) : Host.Outcome State Fault Refusal :=
  endsAt s now (fun s => if (s.port f).state = .up then s.modPort f (fun p => { p with state := .lp }) else s)

/-- SLEEP_NOTICE (R363): the link is marked SLEEP and the LSA says so. -/
def execSleepNotice (f : FabPort) (now : W64) (s : State) : Host.Outcome State Fault Refusal :=
  endsAt s now (fun s =>
    if (s.port f).state = .up ∨ (s.port f).state = .lp then
      sendLsa (s.modPort f (fun p => { p with state := .sleep, replayBuf := [], txSeq := 0, rxSeq := 0, ackIn := 0xFFF }))
    else s)

/-- WAKE_PATTERN (R364): three bursts within 100 µs on a lane wake the link; fewer are ignored. In A a link in SLEEP comes up again, and an LSA goes out (R356); elsewhere it is a fabric wake (R318). -/
def execWakePattern (f : FabPort) (_lane : Fin 4) (bursts : Nat) (now : W64) (s : State) : Host.Outcome State Fault Refusal :=
  endsAt s now (fun s =>
    if bursts < 3 then s
    else if s.spr.pstate = .a ∧ (s.port f).state = .sleep then sendLsa (bringUp s f)
    else latchWake s 1 0)

/-! ### Flits (R341 to R344) -/

/-- A flit acknowledged: it and those before it leave the replay buffer. -/
def ackFlits (p : Port) (ack : BitVec 12) : Port :=
  match p.replayBuf.findIdx? (fun fl => nbits fl.header.toNat 19 8 == ack.toNat) with
  | some i => { p with replayBuf := p.replayBuf.drop (i + 1), ackIn := ack, oneReplay := 0 }
  | none => p

/-- A replay of every unacknowledged flit; 8 of one flit or 64 within 1 ms retrain the link (R343, R344). -/
def replayAll (s : State) (f : Nat) : State :=
  let p := s.port f
  if p.replayBuf = [] then s
  else
    let recent := s.ts.toNat :: p.replays.filter (fun t => decide (s.ts.toNat < t + 1000000))
    let s1 := s.modPort f (fun q => { q with replay := satInc q.replay, txFlits := satAdd q.txFlits q.replayBuf.length
                                             oneReplay := q.oneReplay + 1, replays := recent })
    if 8 ≤ p.oneReplay + 1 ∨ 64 ≤ recent.length then retrain s1 f else s1

/-- The whole frames at the head of a receive buffer, and what is left. -/
def takeFrames : Nat → List Byte → List (List Byte) × List Byte
  | 0, l => ([], l)
  | n + 1, l =>
    let len := 16 + 32 * field l 7 1
    if l.length < 16 ∨ l.length < len then ([], l)
    else let r := takeFrames n (l.drop len)
         (l.take len :: r.1, r.2)

/-- The frame types of R350. -/
def knownFrame (t : Nat) : Bool := [1, 2, 3, 5, 6, 7, 8, 0x10, 0x11, 0x20, 0x21, 0x30, 0x40, 0x41].contains t

/-- A received frame (R350, R351): reserved types count as CRC discards; own frames and broadcasts already seen are discarded; a frame for another device goes on, unless it has taken 16 hops. What a frame for this device says is the event of its own row. -/
def passFrame (s : State) (f : Nat) (b : List Byte) : State :=
  let type := field b 0 1
  let w4 := field b 4 2
  let src := w4 % 1024
  let hops := w4 / 1024 % 32
  let bc := nbit w4 15
  let dst := field b 2 2 % 1024
  let seq : W32 := BitVec.ofNat 32 (field b 8 4)
  let key := (src, BitVec.ofNat 8 type, seq)
  let fr : Frame := { type := BitVec.ofNat 8 type, vc := frameVc type, dst := dst, src := src, hops := hops + 1, bcast := bc, ptag := field b 6 1
                      last := nbit (field b 1 1) 0, refused := nbit (field b 1 1) 1, arg := BitVec.ofNat 64 (field b 8 8), payload := b.drop 16 }
  if !knownFrame type then s.modPort f (fun p => { p with crc := satInc p.crc })
  else if src = s.fab.id.toNat then s
  else if bc && s.fab.seenBcast.contains key then s
  else
    let s1 := if bc then { s with fab.seenBcast := (key :: s.fab.seenBcast).take 4096 } else s
    if !bc && dst = s.fab.id.toNat then s1
    else if 16 ≤ hops + 1 then fabEvent s1 6
    else sendFrame s1 fr (some f)

/-- FLIT_RECEIVE (R342, R343): CRC, acknowledgements, credits, sequence; frames completed by its bytes go on their way. -/
def flitReceive (s : State) (f : Nat) (fl : Flit) : State :=
  let p0 := s.port f
  if (p0.state ≠ .up ∧ p0.state ≠ .lp) ∨ s.pwr.trip then s
  else
    let s0 := s.modPort f (fun p => { p with lastRx := s.ts, state := .up })
    if crc64 (leBytes 8 fl.header.toNat ++ fl.bytes) ≠ fl.crc then
      pumpPort (s0.modPort f (fun p => { p with crc := satInc p.crc, nak := true })) f
    else
      let h := fl.header.toNat
      let crvc := nbits h 33 32
      let s1 := s0.modPort f (fun p =>
        let q := ackFlits p (BitVec.ofNat 12 (nbits h 31 20))
        { q with credits := tmod 0 q.credits crvc (fun n => min (bufUnits crvc) (n + nbits h 43 34)) })
      let s2 := if nbit h 4 then replayAll s1 f else s1
      let s3 :=
        if nbits h 1 0 ≠ 0 then s2
        else if nbits h 19 8 ≠ p0.rxSeq.toNat then s2.modPort f (fun p => { p with nak := true })
        else
          let v := nbits h 3 2
          let bytes := tget [] p0.rxBuf v ++ fl.bytes.take (min 112 (nbits h 54 48))
          let fs := takeFrames 8 bytes
          let freed := (fs.1.map (fun b => ceilDiv b.length 32)).foldl (· + ·) 0
          let t := s2.modPort f (fun p => { p with owed := if freed = 0 then p.owed else tmod 0 p.owed v (· + freed), rxSeq := p.rxSeq + 1, nak := false, rxFlits := satInc p.rxFlits, rxBuf := tset p.rxBuf v fs.2 })
          fs.1.foldl (fun t b => passFrame t f b) t
      pumpPort s3 f

/-- FLIT_RECEIVE. -/
def execFlitReceive (f : FabPort) (flit : Flit) (now : W64) (s : State) : Host.Outcome State Fault Refusal :=
  endsAt s now (fun s => linkWake (flitReceive s f flit) ((s.port f).state == .lp))

/-! ### Identity (R352 to R355) -/

/-- The ID a device proposes: FIXED_ID, or the first 10 bits of SHAKE256 of its serial number (R352). -/
def proposedId (s : State) : BitVec 10 :=
  if s.fab.idFixed then s.fab.fixedId
  else BitVec.ofNat 10 (leNat ((Config.shake256 (leBytes 16 s.otp.serial.toNat) 2).take 2))

/-- A device proposes an ID and is TENTATIVE from now (R354). -/
def propose (s : State) (id : BitVec 10) : State :=
  sendClaim { s with fab.id := id, fab.idState := 1, fab.claimAt := s.ts }

/-- Firmware enables the fabric: enabled ports look for their PHY and an ID is proposed (R339, R352). -/
def enableFabric (s : State) : State :=
  let s1 := { s with fab.en := true }
  let s2 := (List.range 6).foldl (fun t f => bringUp t f) s1
  propose s2 (proposedId s2)

/-- The next ID upward that no held beacon names (R354). -/
def nextId (s : State) : BitVec 10 :=
  let used := (s.fab.db.filter (fun e => e.2.beaconSeq.isSome)).map (·.1)
  let start := s.fab.id.toNat
  BitVec.ofNat 10 (((List.range 1024).map (fun i => (start + 1 + i) % 1024)).find? (fun d => !used.contains d) |>.getD ((start + 1) % 1024))

/-- Every remote move in flight ends with a status. -/
def endTxns (s : State) (status : W16) (pick : Nat → Txn → Bool) : State :=
  (s.fab.txns.filter (fun e => pick e.1 e.2)).foldl (fun t e =>
    failTask (freeEngine { t with fab.txns := tdel t.fab.txns e.1 } e.2.core e.2.ctx) e.2.core e.2.ctx status) s

/-- Pending barrier tasks of some groups end with a status. -/
def endBarriers (s : State) (status : W16) (pick : Barrier → Bool) : State :=
  s.fab.bars.foldl (fun t e =>
    match e.2.pend with
    | some (c, x, _, _) =>
      if pick e.2 then failTask { t with fab.bars := tmod {} t.fab.bars e.1 (fun b => { b with pend := none }) } c x status else t
    | none => t) s

/-- A device renumbers (R355): its remote moves end with ABORTED and its barrier tasks with TIMEOUT; bindings, groups and jobs are withdrawn. -/
def withdrawAll (s : State) : State :=
  let s1 := endBarriers (endTxns s stAborted (fun _ _ => true)) stTimeout (fun _ => true)
  endFabSpdm { s1 with fab.binds := [], fab.bars := [], fab.jobs := [] } (fun _ => true)

/-- A device whose claim shows another ID than the one held for its serial number has renumbered: SPDM sessions with it end, and a formation that it is a member of fails (R539, R544). -/
def peerRenumber (s : State) (b : BeaconMsg) : State :=
  let old := (s.fab.db.filter (fun e => e.2.serial == b.serial && e.1 != b.dev.val)).map (·.1)
  let s1 := endFabSpdm s (fun d => old.contains d)
  match s1.att.forming with
  | some f => if f.peers.any (fun m => m.serial == b.serial && m.dev != b.dev.val) then failForm s1 stAborted b.dev else s1
  | none => s1

/-- A claim heard for the ID this device holds is settled (R354, R355): CLAIMED prevails over TENTATIVE, then the lower serial number. -/
def settleClaim (s : State) (b : BeaconMsg) : State :=
  let mine := s.fab.idState
  if s.fab.idState = 0 ∨ b.dev.val ≠ s.fab.id.toNat ∨ b.serial = s.otp.serial ∨ b.state = 0 then s
  else
    let loses := decide (mine.toNat < b.state.toNat) || (mine == b.state && decide (b.serial.toNat < s.otp.serial.toNat))
    if !loses then s
    else
      let s1 := fabEvent s 3
      if s.fab.idFixed ∧ s.fab.id = s.fab.fixedId then { s1 with fab.conflict := true, fab.idState := 0 }
      else
        let s2 := if mine = 2 then withdrawAll (report (fabEvent s1 4) 0x060E (initId 2 0) 64) else s1
        let s3 := if mine = 2 then failForm s2 stAborted (nextId s2).toNat else s2
        propose s3 (nextId s3)

/-- The origin's record as a beacon gives it. -/
def noteBeacon (s : State) (b : BeaconMsg) : State :=
  { s with fab.db := tmod {} s.fab.db b.dev.val (fun o =>
      { o with serial := b.serial, state := b.state, cores := b.cores, beatSrc := b.beatSrc, beaconSeq := some b.seq, beaconTs := s.ts }) }

/-- BEACON (R353, R354). -/
def execFabBeacon (_f : FabPort) (b : BeaconMsg) (now : W64) (s : State) : Host.Outcome State Fault Refusal :=
  endsAt s now (fun s =>
    let o : Origin := tget {} s.fab.db b.dev.val
    if s.pwr.trip ∨ b.serial = s.otp.serial ∨ (o.beaconSeq = some b.seq ∧ o.serial = b.serial) then s
    else
      let s1 := settleClaim (noteBeacon (peerRenumber s b) b) b
      if o.state = b.state ∧ o.beaconSeq.isSome then s1 else { s1 with fab.dbChanged := true })

/-- Whether a link is in electrical idle. -/
def anyLp (s : State) : Bool := (List.range 6).any (fun f => (s.port f).state == .lp)

/-- BEACON_TIMER (R353): 100 ms after the last beacon; a frame queued for an idle link wakes (R362). -/
def execBeaconTimer (now : W64) (s : State) : Host.Outcome State Fault Refusal :=
  endsAt s now (fun s => if s.fab.en && !s.fab.conflict && decide (s.fab.beaconAt.toNat + 100000000 ≤ s.ts.toNat) then linkWake (sendBeacon s) (anyLp s) else s)

/-- CLAIM (R354). -/
def execFabClaim (_f : FabPort) (b : BeaconMsg) (now : W64) (s : State) : Host.Outcome State Fault Refusal :=
  endsAt s now (fun s => if s.pwr.trip then s else settleClaim (peerRenumber s b) b)

/-- CLAIM_TIMER (R354): 4 ms without a conflict make the claim CLAIMED. -/
def execClaimTimer (now : W64) (s : State) : Host.Outcome State Fault Refusal :=
  endsAt s now (fun s =>
    if s.fab.idState = 1 ∧ s.fab.claimAt.toNat + 4000000 ≤ s.ts.toNat then sendLsa (sendClaim { s with fab.idState := 2 }) else s)

/-- Whether a neighbour of an origin reports its link to it as SLEEP (R356). -/
def reportedAsleep (s : State) (d : Nat) : Bool :=
  s.fab.db.any (fun e => e.1 != d && e.2.links.any (fun l => l.neigh.val == d && l.sleep))
    || (ownLinks s).any (fun l => l.neigh.val == d && l.sleep)

/-- ORIGIN_EXPIRE (R353, R356): 350 ms without a beacon forget the origin's claim, and without an LSA its links, unless it sleeps. -/
def execOriginExpire (dev : DevId) (now : W64) (s : State) : Host.Outcome State Fault Refusal :=
  endsAt s now (fun s => match tfind s.fab.db dev.val with
    | none => s
    | some o =>
      let old (t : W64) : Bool := decide (t.toNat + 350000000 ≤ s.ts.toNat)
      let noB := o.beaconSeq.isNone || (old o.beaconTs && !o.sleeping)
      let noL := o.lsaSeq.isNone || (old o.lsaTs && !reportedAsleep s dev.val)
      if noB && noL then { s with fab.db := tdel s.fab.db dev.val, fab.dbChanged := true }
      else
        let o1 := if noB then { o with beaconSeq := none } else o
        let o2 := if noL then { o1 with lsaSeq := none, links := [] } else o1
        if o2 = o then s else { s with fab.db := tset s.fab.db dev.val o2, fab.dbChanged := true })

/-- LSA (R356): a newer LSA of an origin replaces the one held. -/
def execFabLsa (_f : FabPort) (l : LsaMsg) (now : W64) (s : State) : Host.Outcome State Fault Refusal :=
  endsAt s now (fun s =>
    let o : Origin := tget {} s.fab.db l.dev.val
    let newer := match o.lsaSeq with
      | none => true
      | some q => decide (q ≠ l.seq) && decide ((l.seq - q).toNat < 2 ^ 31)
    if s.pwr.trip ∨ l.dev.val = s.fab.id.toNat ∨ !newer then s
    else
      let same := o.lsaSeq.isSome && o.sleeping == l.sleeping && decide (o.links = l.links)
      { s with fab.db := tset s.fab.db l.dev.val { o with lsaSeq := some l.seq, lsaTs := s.ts, sleeping := l.sleeping, links := l.links }
               fab.dbChanged := s.fab.dbChanged || !same })

/-- LSA_TIMER (R356): 100 ms after the last LSA. -/
def execLsaTimer (now : W64) (s : State) : Host.Outcome State Fault Refusal :=
  endsAt s now (fun s => if s.fab.en && !s.fab.conflict && decide (s.fab.lsaAt.toNat + 100000000 ≤ s.ts.toNat) then
    let ch := s.fab.dbChanged
    linkWake { sendLsa s with fab.dbChanged := ch } (anyLp s) else s)

/-! ### Routes (R357 to R360) -/

/-- A device as the route engine sees it. -/
structure Node where
  dev : Nat
  claimed : Bool
  sleeping : Bool
  links : List (Nat × Nat × Bool)   -- port, neighbour, SLEEP
  deriving DecidableEq, Repr

/-- The link-state database with this device's own links. -/
def nodes (s : State) : List Node :=
  { dev := s.fab.id.toNat, claimed := s.fab.idState == 2, sleeping := s.fab.sleeping
    links := (ownLinks s).map (fun l => (l.port.val, l.neigh.val, l.sleep)) } ::
  (s.fab.db.filter (fun e => e.1 != s.fab.id.toNat && e.2.lsaSeq.isSome)).map (fun (e : Nat × Origin) =>
    { dev := e.1, claimed := e.2.state.toNat == 2, sleeping := e.2.sleeping
      links := e.2.links.map (fun l => (l.port.val, l.neigh.val, l.sleep)) })

/-- The neighbours of an ACTIVE device over UP links to ACTIVE devices. -/
def nextTo (ns : List Node) (d : Nat) : List Nat :=
  match ns.find? (fun n => n.dev == d) with
  | some n =>
    if n.sleeping then []
    else (n.links.filter (fun l => !l.2.2 && ns.any (fun m => m.dev == l.2.1 && !m.sleeping))).map (·.2.1)
  | none => []

/-- Levels of a breadth-first search over `step`, each device with its distance. -/
def levels (step : Nat → List Nat) : Nat → Nat → List (Nat × Nat) → List Nat → List (Nat × Nat)
  | 0, _, acc, _ => acc
  | fuel + 1, k, acc, front =>
    let new := ((front.flatMap step).filter (fun d => !acc.any (fun a => a.1 == d))).dedup
    if new = [] then acc else levels step fuel (k + 1) (acc ++ new.map (fun d => (d, k + 1))) new

/-- The routing root: the lowest claimed ID among ACTIVE devices (R357). -/
def rootOf (ns : List Node) : Option Nat := ((ns.filter (fun n => n.claimed && !n.sleeping)).map (·.dev)).min?

/-- Depths from the root. -/
def depthsOf (ns : List Node) (root : Nat) : List (Nat × Nat) := levels (nextTo ns) 1024 0 [(root, 0)] [root]
/-- A distance in a table, large where there is none. -/
def distIn (t : List (Nat × Nat)) (d : Nat) : Nat := ((t.find? (fun e => e.1 == d)).map (·.2)).getD 4096

/-- Whether the hop from `a` to `b` points up: to the lower depth, or the lower ID at equal depth (R357). -/
def hopUp (dep : List (Nat × Nat)) (a b : Nat) : Bool :=
  decide (distIn dep b < distIn dep a) || (distIn dep a == distIn dep b && decide (b < a))

/-- Distances to a destination over down hops only. -/
def downDist (ns : List Node) (dep : List (Nat × Nat)) (d : Nat) : List (Nat × Nat) :=
  let preds (y : Nat) : List Nat := (ns.filter (fun n => (nextTo ns n.dev).contains y && !hopUp dep n.dev y)).map (·.dev)
  levels preds 17 0 [(d, 0)] [d]

/-- One improvement of legal distances by an up hop. -/
def relaxUp (ns : List Node) (dep t : List (Nat × Nat)) : List (Nat × Nat) :=
  ns.map (fun n => (n.dev, (((nextTo ns n.dev).filter (hopUp dep n.dev)).map (fun y => 1 + distIn t y)).foldl min (distIn t n.dev)))

/-- Legal distances to a destination: up hops, then down hops (R357). -/
def legalDist (ns : List Node) (dep : List (Nat × Nat)) (d : Nat) : List (Nat × Nat) :=
  (List.range 17).foldl (fun t _ => relaxUp ns dep t) (downDist ns dep d)

/-- The port whose cost is least, the lowest-numbered among equals. -/
def bestPort (l : List (Nat × Nat)) : Option (Nat × Nat) :=
  l.foldl (fun b e => match b with | none => some e | some a => if e.2 < a.2 ∨ (e.2 = a.2 ∧ e.1 < a.1) then some e else some a) none

/-- The entry for an ACTIVE destination: the shortest legal path by the lowest port, and an alternate no farther than this device (R358, R359). -/
def routeFor (ns : List Node) (dep : List (Nat × Nat)) (me d : Nat) : Route :=
  let dn := downDist ns dep d
  let lg := legalDist ns dep d
  let mine := ((ns.find? (fun n => n.dev == me)).map (·.links)).getD []
  let open_ := mine.filter (fun l => !l.2.2 && (nextTo ns me).contains l.2.1)
  let costs := open_.map (fun l => (l.1, 1 + (if hopUp dep me l.2.1 then distIn lg l.2.1 else distIn dn l.2.1)))
  match bestPort costs with
  | some (f, h) =>
    if 16 < h then {}
    else
      let alts := (open_.filter (fun l => l.1 != f && decide (distIn lg l.2.1 ≤ h))).map (fun l => (l.1, distIn lg l.2.1))
      { port := BitVec.ofNat 3 f, alt := match bestPort alts with | some (a, _) => BitVec.ofNat 3 a | none => 7
        hops := BitVec.ofNat 5 h, valid := true }
  | none => {}

/-- The whole table: this device, every ACTIVE device, and every SLEEPING device over its last link (R358). -/
def routeTable (s : State) : Tbl Route × Bool :=
  let ns := nodes s
  let me := s.fab.id.toNat
  match rootOf ns with
  | none => ([(me, { port := 6, alt := 6, valid := true })], false)
  | some root =>
    let dep := depthsOf ns root
    let act := (ns.filter (fun n => !n.sleeping && n.dev != me)).map (·.dev)
    let t1 := act.foldl (fun t d => let r := routeFor ns dep me d
                                    if r.valid then tset t d r else t) ([] : Tbl Route)
    let far := act.any (fun d => (distIn dep d < 4096 : Bool) && (tfind t1 d).isNone)
    let t2 := tset t1 me { port := 6, alt := 6, valid := true }
    let asleep := ((ns.filter (·.sleeping)).map (·.dev)
      ++ ns.flatMap (fun n => (n.links.filter (·.2.2)).map (·.2.1))).dedup.filter (fun d => d != me && !act.contains d)
    let t3 := asleep.foldl (fun t d =>
      match (ns.find? (fun n => n.dev == me)).bind (fun n => n.links.find? (fun l => l.2.1 == d && l.2.2)) with
      | some l => tset t d { port := BitVec.ofNat 3 l.1, alt := 7, hops := 1, valid := true, sleep := true }
      | none =>
        let near := (ns.filter (fun n => !n.sleeping && n.links.any (fun l => l.2.1 == d && l.2.2))).map (·.dev)
        match bestPort (near.filterMap (fun n => (tfind t1 n).map (fun r => (n, r.hops.toNat)))) with
        | some (n, h) => let r : Route := tget {} t1 n
                         if h + 1 ≤ 16 then tset t d { r with hops := BitVec.ofNat 5 (h + 1), sleep := true } else t
        | none => t) t2
    (t3, far)

/-- The coordinator of a group: the lowest member ID that the table reaches (R371). -/
def coordOf (s : State) (b : Barrier) : BitVec 10 :=
  let ok := (b.members.map (·.1)).filter (fun d => (tget ({} : Route) s.fab.routes d).valid)
  BitVec.ofNat 10 ((ok.min?).getD b.coord.toNat)

/-- An ARRIVE of this device. -/
def sendArrive (s : State) (slot : Nat) (gen : W32) : State :=
  let b : Barrier := tget {} s.fab.bars slot
  sendFrame s (mkFrame s 0x20 b.coord.toNat false 0x3F (BitVec.ofNat 64 (b.id.toNat + gen.toNat * 2 ^ 32)) []) none

/-- The frames of a remote move still unacknowledged. -/
def sendTxn (s : State) (n : Nat) : State :=
  match tfind s.fab.txns n with
  | none => s
  | some x =>
    let p := (s.ctx x.core x.ctx).part
    let there := ((s.fab.binds.find? (fun b => b.1 == p && b.2.1 == x.dev)).map (·.2.2)).getD 0
    x.frames.foldl (fun t fr =>
      sendFrame t (mkFrame t 0x10 x.dev false there (BitVec.ofNat 64 (fr.1 + n * 2 ^ 48)) fr.2) none) s

/-- A pending ARRIVE sent again to a new coordinator (R372). -/
def reArrive (s : State) (slot : Nat) : State :=
  let b : Barrier := tget {} s.fab.bars slot
  let c := coordOf s b
  if c = b.coord then s
  else
    let s1 := { s with fab.bars := tset s.fab.bars slot { b with coord := c } }
    match b.pend with
    | some (_, _, g, t) =>
      if c = s.fab.id then
        { s1 with fab.bars := tmod {} s1.fab.bars slot (fun q => { q with arrived := if q.arrived.any (fun a => a.1 == g && a.2.1 == c.toNat) then q.arrived else (g, c.toNat, t) :: q.arrived }) }
      else sendArrive s1 slot g
    | none => s1

/-- ROUTE_INSTALL (R360): after a database change the new table is in force; a moved root freezes new bulk and control frames; remote frames whose entry changed go again (R368), and pending arrivals reach a new coordinator (R372). -/
def routeInstall (s : State) : State :=
  if !s.fab.dbChanged then s
  else
    let old := s.fab.routes
    let ns := nodes s
    let root := rootOf ns
    let t := routeTable s
    let me := s.fab.id.toNat
    let dep := match root with | some r => depthsOf ns r | none => []
    let moved := match root with | some r => s.fab.rootId != BitVec.ofNat 10 r | none => false
    let s1 := { s with
      fab.routes := t.1, fab.dbChanged := false
      fab.rootId := match root with | some r => BitVec.ofNat 10 r | none => s.fab.rootId
      fab.isRoot := root == some me
      fab.depth := BitVec.ofNat 5 (min 16 (if distIn dep me = 4096 then 0 else distIn dep me))
      fab.freeze := s.fab.freeze || moved
      fab.freezeAt := if moved then s.ts else s.fab.freezeAt
      fab.ports := s.fab.ports.map (fun p => (p.1, { p.2 with uplink := p.2.state == .up && hopUp dep me p.2.neigh.toNat })) }
    let s2 := if t.2 then fabEvent s1 6 else s1
    let s3 := (s2.fab.txns.filter (fun e => decide (tget ({} : Route) old e.2.dev ≠ tget {} s2.fab.routes e.2.dev))).foldl (fun q e => sendTxn q e.1) s2
    (s3.fab.bars.map (·.1)).foldl reArrive s3

/-- ROUTE_INSTALL. -/
def execRouteInstall (now : W64) (s : State) : Host.Outcome State Fault Refusal := endsAt s now routeInstall

/-- FREEZE_END (R360): 100 µs after the installation the held frames leave. -/
def execFreezeEnd (now : W64) (s : State) : Host.Outcome State Fault Refusal :=
  endsAt s now (fun s =>
    if s.fab.freeze ∧ s.fab.freezeAt.toNat + 100000 ≤ s.ts.toNat then
      s.fab.heldFrames.foldl (fun t fr => sendFrame t fr none) { s with fab.freeze := false, fab.heldFrames := [] }
    else s)

/-! ### Management frames at their destination -/

/-- REPORT (R586): the collector queues and logs it. -/
def execFabReport (_f : FabPort) (_src : DevId) (rep : List Byte) (s : State) : Host.Outcome State Fault Refusal :=
  ends s (if fabDeaf s then s else globalLog (queueReport s (.foreign (padTo 64 rep))) (field rep 0 2) (field rep 2 1) (field rep 3 1)
    (slice rep 4 4 ++ leBytes 4 (field rep 10 2) ++ leBytes 4 (field rep 14 2) ++ slice rep 44 4))

/-- FENCE_FRAME (R576): logged in the global log. -/
def execFenceFrame (_f : FabPort) (_src : DevId) (_unit : W16) (_core : Bool) (_seq : W32) (s : State) : Host.Outcome State Fault Refusal :=
  ends s (if fabDeaf s then s else globalNote s 2)

end Sys2Proof.Machine
end

