-- ==== Sys2Proof/Machine/Remote.lean ====
section
/-! DEFINITION. The tile mover's own tasks, remote writes, barriers, replica jobs and the fabric commands (R166, R181 to R186, R366 to R377, R579, R617, R685). -/

namespace Sys2Proof.Machine

/-! ### Move and decompress -/

/-- Bytes from a row to the next. -/
def moveStride (mode stride bytes : Nat) : Nat := if mode = 2 ∧ stride ≠ 0 then stride else bytes

/-- The byte ranges of a move's rows on one side. -/
def moveRows (t : Task) (base stride : Nat) : List (Nat × Nat) :=
  let n := pbf t 8 4
  (List.range (pbf t 4 4)).map (fun r => ((base + r * moveStride (pbf t 0 1 % 4) stride n) % 2 ^ 48, n))

/-- Source and destination rows of a move (R685). -/
def moveSrc (t : Task) : List (Nat × Nat) := moveRows t (pbf t 20 6) (pbf t 12 4)
/-- Destination rows. -/
def moveDst (t : Task) : List (Nat × Nat) := moveRows t (pbf t 28 6) (pbf t 16 4)

/-- A row of a move's source. Where the source overlaps the destination on this device the manual gives the move no order, and such a byte is free (notes/assumptions/10). -/
def moveRow (s : State) (p : Nat) (t : Task) (a n : Nat) : List Byte :=
  if pbf t 0 1 % 4 = 1 then List.replicate n 0
  else if nbit (pbf t 0 1) 2 then devRead s p a n
  else
    let dst := moveDst t
    (devRead s p a n).zipIdx.map (fun e =>
      if dst.any (fun d => decide (d.1 ≤ a + e.2 ∧ a + e.2 < d.1 + d.2)) then Config.free 8 s.freeNo (a + e.2) else e.1)

/-- Rows written on this device; the first write not taken ends the task (R254, R255, R271). -/
def writeRows (c p : Nat) : List ((Nat × Nat) × List Byte) → State → Option W16 × State
  | [], s => (none, s)
  | (a, bs) :: r, s =>
    match taskWrite s c p 0 a.1 bs with
    | (.ok, s1) => writeRows c p r s1
    | (.poisoned, s1) => (some stIntegrity, s1)
    | (_, s1) => (some stAborted, s1)

/-- The WRITE frames of a row: up to 256 bytes each, cut at 256-byte boundaries of the destination so that every frame is aligned to 32 bytes but a first one that is not (R367). -/
def cutRow : Nat → Nat → List Byte → List (Nat × List Byte)
  | 0, _, _ => []
  | fuel + 1, a, bs =>
    if bs = [] then []
    else
      let n := 256 - a % 32
      (a, bs.take n) :: cutRow fuel (a + min n bs.length) (bs.drop n)

/-- A remote move begins (R367, R368): its frames are kept until acknowledged and put on their way under a transaction number. -/
def beginRemote (s : State) (c x : Nat) (rows : List ((Nat × Nat) × List Byte)) : State :=
  let k := s.ctx c x
  let n := s.fab.nextTxn % 65536
  let frames := rows.flatMap (fun r => cutRow (r.2.length + 1) r.1.1 r.2)
  let s1 := s.modCtx c x (fun q => { q with txn := some n })
  let s2 := { s1 with
    fab.nextTxn := s.fab.nextTxn + 1
    fab.txns := tset s1.fab.txns n { core := c, ctx := x, dev := pbf k.task 36 2, frames := frames, sentTs := s.ts } }
  sendTxn s2 n

/-- The head of the tile mover's queue, when its kind matches and the mover is free. -/
def moverHead (s : State) (c : Nat) (kind : Kind) : Option Nat :=
  match (s.core c).tmQueue, (s.core c).tmRun with
  | x :: _, none => if (s.ctx c x).task.kind = kind ∧ coreRuns s c then some x else none
  | _, _ => none

/-- The task that the mover runs and whose source it still waits for, when its kind matches. -/
def moverWaits (s : State) (c : Nat) (kind : Kind) : Option Nat :=
  match (s.core c).tmRun with
  | some x => if (s.core c).tmWait ∧ (s.ctx c x).task.kind = kind ∧ coreRuns s c then some x else none
  | none => none

/-- The tile mover takes its head task. -/
def moverTake (s : State) (c x : Nat) : State :=
  beginTask (s.modCore c (fun k => { k with tmQueue := k.tmQueue.drop 1, tmRun := some x, tmWait := true, tmAsked := false })) c x

/-- A mover task waits for its source and goes on once every byte is resident or has been read where it lies (R183, R254, R257). -/
def withSource (s : State) (c x : Nat) (src : List (Nat × Nat)) (body : State → State) : State :=
  let p := (s.ctx c x).part
  let needs := blockNeeds (src.map (fun a => (0, a.1, a.2)))
  if src.any (fun a => anyBlock s p a.1 a.2 .unmapped) then abortTask (memEvent s 0) c x stAborted
  else if src.any (fun a => anyBlock s p a.1 a.2 .poisoned) then abortTask s c x stIntegrity
  else if src.any (fun a => touchesSealed s p a.1 a.2) then abortTask (sealMisuse s) c x stAborted
  else match awaitBytes s c x false (s.core c).tmAsked needs with
    | (false, asked, s1) => s1.modCore c (fun k => { k with tmAsked := asked })
    | (true, _, s1) => body ((touchBlocks s1 c p (needBlocks needs)).modCore c (fun k => { k with tmWait := false }))

/-- A task of the tile mover begins, or goes on waiting for its source. -/
def moverRun (s : State) (c : Nat) (kind : Kind) (run : State → Nat → Nat → State) : State :=
  match moverWaits s c kind with
  | some x => run s c x
  | none => match moverHead s c kind with
    | some x => run (moverTake s c x) c x
    | none => s

/-- A move runs (R166, R685): once its source is there its bytes are read and written, or sent to another device; it is DONE under R186. -/
def moveRun (s : State) (c x : Nat) : State :=
  let k := s.ctx c x
  let p := k.part
  let t := k.task
  withSource s c x (if pbf t 0 1 % 4 = 1 then [] else moveSrc t) (fun s =>
    let rows := (moveDst t).zip ((moveSrc t).map (fun a => moveRow s p t a.1 a.2))
    let s1 := s.draw
    if nbit (pbf t 0 1) 2 then beginRemote s1 c x rows
    else match writeRows c p rows s1 with
      | (some st, s2) => abortTask s2 c x st
      | (none, s2) => s2)

/-- MOVE (R685). -/
def execMoveTask (c : CoreId) (s : State) : Host.Outcome State Fault Refusal :=
  endsClocked s c (moverRun s c .move moveRun)

/-- A decompress task runs (R185): its object is checked and written to DST; a failed check or another length ends it with INTEGRITY_FAILED. -/
def decompressRun (s : State) (c x : Nat) : State :=
  let k := s.ctx c x
  let p := k.part
  let t := k.task
  let src := pbf t 8 6
  let len := pbf t 24 4
  withSource s c x [(src, len)] (fun s =>
    match eraelyObject (devRead s p src len) with
    | .error n => abortTask (s.modCore c (fun q => { q with decompErr := satAdd q.decompErr n })) c x stIntegrity
    | .ok d =>
      if d.length ≠ pbf t 28 4 then abortTask s c x stIntegrity
      else match taskWrite s c p 0 (pbf t 16 6) d with
        | (.ok, s1) => s1
        | (.poisoned, s1) => abortTask s1 c x stIntegrity
        | (_, s1) => abortTask s1 c x stAborted)

/-- DECOMPRESS (R185). -/
def execDecompress (c : CoreId) (s : State) : Host.Outcome State Fault Refusal :=
  endsClocked s c (moverRun s c .decompress decompressRun)

/-! ### Remote writes at the receiver and the sender (R366 to R368)

A device that keeps its fixed ID out of use takes no part in the fabric until the conflict is cleared, and acts on no frame (R354). -/

/-- WRITE (R366, R367): a frame from a bound device to a READY partition is written and acknowledged; any other is refused, and one without a binding is counted as a gate refusal (R440). -/
def fabWrite (s : State) (src p addr txn : Nat) (data : List Byte) : State :=
  let bound := s.fab.binds.any (fun b => b.1 == p && b.2.1 == src)
  let ack (t : State) (refused : Bool) : State :=
    sendFrame t { mkFrame t 0x11 src false p (BitVec.ofNat 64 (txn + 65536)) [] with refused := refused } none
  if !bound then ack (fabEvent (gateCount s p) 7) true
  else if (s.part p).state != .ready then ack (fabEvent s 7) true
  else match devWrite s p addr data none with
    | (.ok, s1) => if anyBlock s p addr data.length .view then ack (fabEvent s 7) true else ack s1 false
    | (_, s1) => ack (fabEvent s1 7) true

/-- WRITE. -/
def execFabWrite (_f : FabPort) (src : DevId) (ptag : PartId) (addr : BitVec 48) (txn : W16) (data : List Byte) (s : State) : Host.Outcome State Fault Refusal :=
  ends s (if fabDeaf s then s else fabWrite s src ptag addr.toNat txn.toNat data)

/-- WRITE_ACK (R367, R368): the oldest frames counted are freed; a refusal ends the move with ABORTED; with the last, its writes are visible there. -/
def writeAck (s : State) (src txn frames : Nat) (refused : Bool) : State :=
  match tfind s.fab.txns txn with
  | none => s
  | some x =>
    if x.dev ≠ src then s
    else if refused then endTxns s stAborted (fun n _ => n == txn)
    else
      let left := x.frames.drop frames
      if left = [] then { s with fab.txns := tdel s.fab.txns txn }.modCtx x.core x.ctx (fun k => { k with txn := none })
      else { s with fab.txns := tset s.fab.txns txn { x with frames := left } }

/-- WRITE_ACK. -/
def execWriteAck (_f : FabPort) (src : DevId) (txn frames : W16) (refused : Bool) (s : State) : Host.Outcome State Fault Refusal :=
  ends s (if fabDeaf s then s else writeAck s src txn.toNat frames.toNat refused)

/-- ACK_TIMEOUT (R368): unacknowledged frames go again, at most RESEND_MAX times; then the move ends with TIMEOUT. -/
def execAckTimeout (txn : W16) (now : W64) (s : State) : Host.Outcome State Fault Refusal :=
  endsAt s now (fun s => match tfind s.fab.txns txn.toNat with
    | none => s
    | some x =>
      if s.ts.toNat < x.sentTs.toNat + s.fab.ackTimeout.toNat * 1000 then s
      else if x.resends < s.fab.resendMax.toNat then
        sendTxn { s with fab.txns := tset s.fab.txns txn.toNat { x with resends := x.resends + 1, sentTs := s.ts } } txn.toNat
      else endTxns (fabEvent s 8) stTimeout (fun n _ => n == txn.toNat))

/-! ### Barriers (R370 to R374, R617) -/

/-- The slot of a barrier identifier. -/
def barSlot (s : State) (id : Nat) : Option (Nat × Barrier) := s.fab.bars.find? (fun b => b.2.valid && b.2.id.toNat == id)

/-- The pace limit at a release (R617): a wait above 25 % of the time between the last barriers lowers cores without cadence-bound work by one point, one below 10 % gives a point back. -/
def paceStep (s : State) (b : Barrier) : State :=
  let wait : Nat := (b.hist.map (·.1)).foldl (· + ·) 0
  let span : Nat := (b.hist.map (·.2)).foldl (· + ·) 0
  let turn (c : Nat) (k : Core) : Core :=
    if coreCadence s c then k
    else if decide (span < 4 * wait) then
      { k with paceOp := BitVec.ofNat 3 (max (aimPoint k.phase.toNat 0) ((min k.paceOp.toNat k.op.toNat) - 1)) }
    else if decide (10 * wait < span) then { k with paceOp := BitVec.ofNat 3 (min 7 (k.paceOp.toNat + 1)) }
    else k
  if !s.fab.paceEn || span == 0 then s
  else refreshPoints { s with cores := s.cores.map (fun e => (e.1, turn e.1 e.2)) }

/-- A RELEASE reaches this device (R371, R374): the pending task of its generation is DONE, and the wait, the slowest member and the spread are recorded. -/
def takeRelease (s : State) (slot : Nat) (gen : W32) (slowest spread : Nat) : State :=
  let b : Barrier := tget {} s.fab.bars slot
  match b.pend with
  | some (c, x, g, t) =>
    if g = gen then
      let waited := (s.ts.toNat - t.toNat) / 1000
      let span := if b.lastRel = 0 then 0 else (s.ts.toNat - b.lastRel.toNat) / 1000
      let b1 := { b with
        pend := none, wait := satAdd b.wait waited, slowest := BitVec.ofNat 10 slowest, spread := BitVec.ofNat 16 (min spread 65535)
        hist := ((waited, span) :: b.hist).take 16, lastRel := s.ts }
      taskDone (paceStep { s with fab.bars := tset s.fab.bars slot b1 } b1) c x
    else s
  | none => s

/-- The coordinator holds an ARRIVE (R371, R372): one copy, of its current generation or the next; with every member's, RELEASE goes to every member, naming the last by stamp and then by device (R23, R374). -/
def noteArrive (s : State) (slot : Nat) (gen : W32) (dev : Nat) : State :=
  let b : Barrier := tget {} s.fab.bars slot
  let devs := (b.members.map (·.1)).dedup
  if (gen ≠ b.gen ∧ gen ≠ b.gen + 1) ∨ !devs.contains dev then s
  else
    let arr := if b.arrived.any (fun a => a.1 == gen && a.2.1 == dev) then b.arrived else b.arrived ++ [(gen, dev, s.ts)]
    let mine := sortBy (fun a b => keyLt [a.2.2.toNat, a.2.1] [b.2.2.toNat, b.2.1]) (arr.filter (fun a => a.1 == gen))
    let s1 := { s with fab.bars := tset s.fab.bars slot { b with arrived := arr } }
    if devs.all (fun d => mine.any (fun a => a.2.1 == d)) then
      let first := (mine.head?.map (fun a => a.2.2.toNat)).getD 0
      let last := mine.getLast?.getD (gen, dev, s.ts)
      let spread := (last.2.2.toNat - first) / 1000
      let s2 := { s1 with fab.bars := tset s1.fab.bars slot { b with arrived := arr.filter (fun a => a.1 != gen) } }
      let pay := freeBytes s2 43 32
      let s3 := (devs.filter (fun d => d != s.fab.id.toNat)).foldl (fun t d =>
        sendFrame t (mkFrame t 0x21 d false 0x3F (BitVec.ofNat 64 (b.id.toNat + gen.toNat * 2 ^ 32)) pay) none) s2.draw
      if devs.contains s.fab.id.toNat then takeRelease s3 slot gen last.2.1 spread else s3
    else s1

/-- Whether a barrier task may send its ARRIVE: it is READY, or was started by the dispatch, and none of its own is out (R181, R371). -/
def barrierStarts (s : State) (c x : Nat) : Bool :=
  seqStarts (s.ctx c x) .barrier && !(s.fab.bars.any (fun b => match b.2.pend with | some (cc, xx, _, _) => cc == c && xx == x | none => false))

/-- FABRIC_BARRIER (R371): the task starts, the own generation rises, and ARRIVE goes to the coordinator. -/
def execFabricBarrier (c : CoreId) (x : CtxId) (s : State) : Host.Outcome State Fault Refusal :=
  let k := s.ctx c x
  endsClocked s c (match barSlot s (pbf k.task 0 2) with
    | some (slot, b) =>
      if barrierStarts s c x then
        let g := b.gen + 1
        let s1 := if k.state = .ready then beginTask s c x else s
        let s2 := { s1 with fab.bars := tset s1.fab.bars slot { b with gen := g, pend := some (c, x, g, s.ts) } }
        if b.coord = s.fab.id then noteArrive s2 slot g s.fab.id.toNat else sendArrive s2 slot g
      else s
    | none => if barrierStarts s c x then failTask (if k.state = .ready then beginTask s c x else s) c x stAborted else s)

/-- ARRIVE (R371). -/
def execFabArrive (_f : FabPort) (src : DevId) (barrier : W16) (gen : W32) (now : W64) (s : State) : Host.Outcome State Fault Refusal :=
  endsAt s now (fun s => match barSlot s barrier.toNat with
    | some (slot, _) => if fabDeaf s then s else noteArrive s slot gen src.val
    | none => s)

/-- RELEASE (R371, R374). -/
def execFabRelease (_f : FabPort) (_src : DevId) (barrier : W16) (gen : W32) (slowest : DevId) (spread : W32) (now : W64) (s : State) : Host.Outcome State Fault Refusal :=
  endsAt s now (fun s => match barSlot s barrier.toNat with
    | some (slot, _) => if fabDeaf s then s else takeRelease s slot gen slowest.val spread.toNat
    | none => s)

/-- BARRIER_TIMEOUT (R373). -/
def execBarrierTimeout (c : CoreId) (x : CtxId) (now : W64) (s : State) : Host.Outcome State Fault Refusal :=
  let s1 := s.advance now
  let k := s1.ctx c x
  endsCore s c (match s1.fab.bars.find? (fun b => match b.2.pend with | some (cc, xx, _, _) => cc == c.val && xx == x.val | none => false) with
    | some (slot, b) => match b.pend with
      | some (_, _, _, t) =>
        if k.state = .running ∧ t.toNat + pbf k.task 4 4 * 1000 ≤ s1.ts.toNat then
          failTask (fabEvent { s1 with fab.bars := tset s1.fab.bars slot { b with pend := none } } 9) c x stTimeout
        else s1
      | none => s1
    | none => s1)

/-! ### Replica digests (R376, R579) -/

/-- DIGEST: a member's value held for the vote. -/
def execFabDigest (_f : FabPort) (src : DevId) (d : DigestMsg) (s : State) : Host.Outcome State Fault Refusal :=
  let j : Job := tget {} s.fab.jobs d.job.val
  ends s (if !j.valid || fabDeaf s then s
    else match j.members.findIdx? (fun m => m.1 == src.val) with
      | none => s
      | some i =>
        if j.held.any (fun h => h.1 == d.interval && h.2.1 == i) then s
        else { s with fab.jobs := tset s.fab.jobs d.job.val { j with held := (d.interval, i, d.a, d.value, d.complete) :: j.held } })

/-! ### Commands of the fabric group (R377, R415) -/

/-- The fabric right (R430). -/
def rFabric : Nat := 3

/-- The state of the fabric identity (R398). -/
def fabState (s : State) : Byte :=
  if s.fab.conflict then 0x93 else if s.fab.idState = 2 then 0x92 else if s.fab.idState = 1 then 0x91 else 0x90

/-- DONE with the fabric identity's state. -/
def fabDone (s : State) (p : Nat) (k : Packet) : State := reply s p k stDone 0 noObj (fabState s)

/-- FABRIC_STATUS (R377): a 64-byte answer at OUT, whose layout the manual does not give (notes/assumptions/10). -/
def execFabricStatus (p : PartId) (s : State) : Host.Outcome State Fault Refusal :=
  ends s (ringCmd s p 0x0801 16 16 [(2, 6)] (fun s k =>
    checked s p k [(!addrOk k 8, 8)] [(decide (1024 ≤ par k 0 2), 0), (anyBlock s p (parAddr k 8) 64 .unmapped, 8)]
      (fabDone (devPut s p (parAddr k 8) (freeBytes s 44 64)).draw p k)))

/-- PEER_BIND (R366). -/
def execPeerBind (p : PartId) (s : State) : Host.Outcome State Fault Refusal :=
  ends s (ringCmdR s p 0x0802 rFabric 3 3 [] (fun s k =>
    let mine := s.fab.binds.filter (fun b => b.1 == p.val)
    checked s p k [] [(decide (1024 ≤ par k 0 2) || decide (64 ≤ mine.length) || mine.any (fun b => b.2.1 == par k 0 2), 0), (decide (64 ≤ par k 2 1), 2)]
      (fabDone { s with fab.binds := s.fab.binds ++ [(p.val, par k 0 2, par k 2 1)] } p k)))

/-- PEER_UNBIND (R366). -/
def execPeerUnbind (p : PartId) (s : State) : Host.Outcome State Fault Refusal :=
  ends s (ringCmdR s p 0x0803 rFabric 2 2 [] (fun s k =>
    checked s p k [] [(decide (1024 ≤ par k 0 2), 0)]
      (fabDone { s with fab.binds := s.fab.binds.filter (fun b => !(b.1 == p.val && b.2.1 == par k 0 2)) } p k)))

/-- The lowest slot below a bound that a table does not use. -/
def freeSlot {α : Type} (t : Tbl α) (used : α → Bool) (n : Nat) : Option Nat :=
  (List.range n).find? (fun i => match tfind t i with | some a => !used a | none => true)

/-- BARRIER_GROUP_SET (R370): a group set again is withdrawn first, its pending task ending with ABORTED (R377). -/
def execBarrierGroupSet (p : PartId) (s : State) : Host.Outcome State Fault Refusal :=
  ends s (ringCmdR s p 0x0804 rFabric 16 16 [(4, 4)] (fun s k =>
    let n := par k 2 2
    let slot? := match barSlot s (par k 0 2) with | some (i, _) => some i | none => freeSlot s.fab.bars (·.valid) 64
    checked s p k [(!addrOk k 8, 8)] [(slot?.isNone, 0), (decide (n < 2 ∨ 1024 < n), 2)]
      (withList s p k (2 * n) (fun l =>
        let ms := (List.range n).map (fun i => (field l (2 * i) 2 % 1024, field l (2 * i) 2 / 1024))
        let b : Barrier := { id := BitVec.ofNat 16 (par k 0 2), valid := true, owner := p.val, members := ms }
        match slot? with
        | some i =>
          let s1 := if (barSlot s (par k 0 2)).isNone then s else endBarriers s stAborted (fun b => b.valid && b.id.toNat == par k 0 2)
          fabDone { s1 with fab.bars := tset s1.fab.bars i { b with coord := coordOf s b } } p k
        | none => s))))

/-- BARRIER_GROUP_CLEAR (R377): pending tasks of the group end with ABORTED. -/
def execBarrierGroupClear (p : PartId) (s : State) : Host.Outcome State Fault Refusal :=
  ends s (ringCmdR s p 0x0805 rFabric 2 2 [] (fun s k =>
    let id := par k 0 2
    let s1 := endBarriers s stAborted (fun b => b.valid && b.id.toNat == id)
    fabDone { s1 with fab.bars := s1.fab.bars.filter (fun b => !(b.2.valid && b.2.id.toNat == id)) } p k))

/-- REPLICA_JOB_SET (R375): a member whose beat source is known to differ gives STATE_REFUSED with the cadence's state. -/
def execReplicaJobSet (p : PartId) (s : State) : Host.Outcome State Fault Refusal :=
  ends s (ringCmdR s p 0x0806 rFabric 16 16 [(4, 4)] (fun s k =>
    let n := par k 1 1
    checked s p k [(!addrOk k 8, 8)] [(decide (16 ≤ par k 0 1), 0), (decide (n < 2 ∨ 8 < n), 1), (par k 2 2 == 0, 2)]
      (withList s p k (8 * n) (fun l =>
        let ms := (List.range n).map (fun i => (field l (8 * i) 2, field l (8 * i + 2) 1, (BitVec.ofNat 32 (field l (8 * i + 4) 4) : W32)))
        match (List.range n).find? (fun i => field l (8 * i + 3) 1 != 0) with
        | some i => reply s p k stFormat (detObj (8 * i + 3)) noObj 0
        | none =>
        match (List.range n).find? (fun i => decide (1024 ≤ field l (8 * i) 2 ∨ 64 ≤ field l (8 * i + 2) 1)) with
        | some i => reply s p k stRange (detObj (8 * i)) noObj 0
        | none =>
          if ms.any (fun m => match tfind s.fab.db m.1 with | some o => o.beaconSeq.isSome && o.beatSrc != s.cad.src | none => false) then
            refuseState s p k noObj (cadState s)
          else fabDone { s with fab.jobs := tset s.fab.jobs (par k 0 1) { valid := true, owner := p.val, members := ms, interval := par k 2 2 } } p k))))

/-- REPLICA_JOB_CLEAR (R375). -/
def execReplicaJobClear (p : PartId) (s : State) : Host.Outcome State Fault Refusal :=
  ends s (ringCmdR s p 0x0807 rFabric 1 1 [] (fun s k =>
    checked s p k [] [(decide (16 ≤ par k 0 1), 0)] (fabDone { s with fab.jobs := tdel s.fab.jobs (par k 0 1) } p k)))

/-- A port control packet of one operation; reserved values give FORMAT_REFUSED (R377). -/
def portControl (s : State) (p : Nat) (mine : Nat → Bool) (body : State → Packet → State) : State :=
  match startable s p 0x0808 with
  | some k =>
    if mine (par k 1 1) then
      ringCmdR s p 0x0808 rFabric 5 5 [] (fun s k =>
        checked s p k [(decide (2 < par k 1 1), 1), (decide (1 < par k 2 1), 2), (decide (2 < par k 3 1), 3), (decide (2 < par k 4 1), 4)]
          [(decide (6 ≤ par k 0 1), 0)] (fabDone (body s k) p k))
    else s
  | none => s

/-- A port's enable and limits written; a disabled port's link goes down, an enabled one looks for its PHY (R339, R379). -/
def writePort (s : State) (f : Nat) (en : Bool) (rate lanes : BitVec 2) : State :=
  let was := (s.port f).en
  let s1 := s.modPort f (fun q => { q with en := en, rateMax := rate, lanesMax := lanes })
  if was && !en then linkDown s1 f .off
  else if !was && en then bringUp s1 f
  else s1

/-- PORT_WRITE (R377): operation 0, and the refusal of reserved operations. -/
def execPortWrite (p : PartId) (s : State) : Host.Outcome State Fault Refusal :=
  ends s (portControl s p (fun op => op != 1 && op != 2) (fun s k =>
    writePort s (par k 0 1) (par k 2 1 == 1) (BitVec.ofNat 2 (par k 3 1)) (BitVec.ofNat 2 (par k 4 1))))

/-- PORT_RETRAIN (R339). -/
def execPortRetrain (p : PartId) (s : State) : Host.Outcome State Fault Refusal :=
  ends s (portControl s p (fun op => op == 1) (fun s k => retrain s (par k 0 1)))

/-- CLEAR_FIXED_ID_CONFLICT (R354): the fixed ID is proposed again. -/
def execClearFixedIdConflict (p : PartId) (s : State) : Host.Outcome State Fault Refusal :=
  ends s (portControl s p (fun op => op == 2) (fun s _ =>
    if s.fab.conflict then propose { s with fab.conflict := false } s.fab.fixedId else s))

end Sys2Proof.Machine
end

