-- ==== Sys2Proof/Machine/Cadence.lean ====
section
/-! DEFINITION. Cadence: beats, their period, loss and relock, time synchronisation and the cadence commands (R202 to R217, R242, R412, R689). -/

namespace Sys2Proof.Machine

/-! ### Beats -/

/-- The mean of the last 2^AVG real beat periods held, the old value while none is held (R207, R209). -/
def meanPeriod (c : Cad) : W32 :=
  let l := c.periods.take (2 ^ c.avg.toNat)
  let sum : Nat := l.foldl (· + ·) 0
  if l = [] then c.period else BitVec.ofNat 32 (min (sum / l.length) 0xFFFFFFFF)

/-- A standing graph that waits for its first beat takes that beat as E0; a packet in hand notes the first beat after its acceptance (R218). -/
def takeE0 (s : State) : State :=
  let e : W64 := BitVec.ofNat 64 (s.cad.beats.toNat * 65536)
  { s with
    graphs := s.graphs.map (fun g => if g.2.started ∧ g.2.e0.isNone then (g.1, { g.2 with e0 := some e }) else g)
    parts := tmap (fun q => { q with inHand := q.inHand.map (fun k => if k.beat.isNone then { k with beat := some e } else k) }) s.parts }

/-- A device that is not itself in fabric mode sends each beat stamp on the time-sync channel (R206). -/
def relayBeat (s : State) : State :=
  if s.fab.en && s.fab.idState == 2 && s.cad.src != 2 then
    sendFrame s (mkFrame s 0x41 0x3FF true 0x3F s.cad.beatTs (leBytes 32 s.cad.beats.toNat)) none
  else s

/-- One more whole beat, stamped (R210). -/
def issueBeat (s : State) (stamp : W64) : State :=
  relayBeat (takeE0 { s with cad.beats := s.cad.beats + 1, cad.beatTs := stamp })

/-- A real beat accepted (R207, R209): while LOST it relocks and starts the mean anew, and it is a wake source (R318). -/
def realBeat (s : State) (stamp : W64) : State :=
  let c := s.cad
  if c.lost then
    let s1 := cadEvent { s with cad.lost := false, cad.freewheel := false, cad.hold := false, cad.periods := [], cad.realBeats := 1, cad.realTs := stamp } 2
    latchWake (issueBeat s1 stamp) 0x10 4
  else
    let ps := if c.realBeats = 0 then [] else ((stamp.toNat - c.realTs.toNat) :: c.periods).take 16
    let c1 := { c with periods := ps, realBeats := c.realBeats + 1, realTs := stamp }
    issueBeat { s with cad := { c1 with period := meanPeriod c1 } } stamp

/-- Whether a candidate comes less than 50,000 ns after the previous beat (R204). -/
def tooEarly (s : State) (stamp : W64) : Bool :=
  s.cad.realBeats != 0 && decide (stamp.toNat < s.cad.beatTs.toNat + 50000)

/-- A candidate beat: rejected with EARLY when too early, else accepted. -/
def candidate (s : State) (stamp : W64) : State := if tooEarly s stamp then cadEvent s 0 else realBeat s stamp

/-- CADENCE_PULSE (R203): a filtered edge of the chosen polarity at its stamp; the beat carries the stamp minus the filter's 3 ns. -/
def execCadencePulse (rising : Bool) (stamp : W64) (s : State) : Host.Outcome State Fault Refusal :=
  endsAt s stamp (fun s => if s.cad.en ∧ s.cad.src = 0 ∧ rising ≠ s.cad.edge then candidate s (stamp - 3) else s)

/-- ENCODER_STROBE (R205). -/
def encoderStrobe (s : State) (count : W32) (stamp : W64) : State :=
  if !s.cad.en || s.cad.src != 1 then s
  else match s.cad.encLast with
  | none => { s with cad.encLast := some count }
  | some last =>
    let d : Int := (count - last).toInt
    let div : Int := if s.cad.encDiv = 0 then 65536 else (s.cad.encDiv.toNat : Int)
    let acc := s.cad.encAcc + (if s.cad.encDir then -d else d)
    let s1 := { s with cad.encLast := some count, cad.encAcc := acc }
    if acc < div then s1
    else if tooEarly s1 stamp then cadEvent s1 0
    else realBeat { s1 with cad.encAcc := acc - div } stamp

/-- ENCODER_STROBE. -/
def execEncoderStrobe (count : W32) (stamp : W64) (s : State) : Host.Outcome State Fault Refusal :=
  endsAt s stamp (fun s => encoderStrobe s count stamp)

/-- BEAT (R206): in fabric mode the source's stamp and its whole-beat count become this device's. -/
def execFabBeat (_port : FabPort) (src : DevId) (stamp beats : W64) (s : State) : Host.Outcome State Fault Refusal :=
  ends s (if s.cad.en ∧ s.cad.src = 2 ∧ s.cad.srcDev.toNat = src.val ∧ !fabDeaf s then
      realBeat { holdExt s with cad.beats := BitVec.ofNat 48 (beats.toNat + 2 ^ 48 - 1) } stamp
    else s)

/-- CADENCE_LOSS (R208): freewheel makes up the missed beats, which receivers of its beats are told of (R206), and hold stops external time. -/
def execCadenceLoss (now : W64) (s : State) : Host.Outcome State Fault Refusal :=
  endsAt s now (fun s =>
    let c := s.cad
    if c.en ∧ !c.lost ∧ c.period ≠ 0 ∧ c.realTs.toNat + c.lossBeats.toNat * c.period.toNat ≤ s.ts.toNat then
      let s1 := cadEvent { s with cad.lost := true } 1
      if c.lossAct then { s1 with cad.hold := true }
      else relayBeat (takeE0 { s1 with cad.freewheel := true, cad.beats := c.beats + BitVec.ofNat 48 (c.lossBeats.toNat - 1), cad.beatTs := s.ts })
    else s)

/-- SYNTHESISED_BEAT (R208): one period after the last beat while freewheeling. -/
def execSynthesisedBeat (now : W64) (s : State) : Host.Outcome State Fault Refusal :=
  endsAt s now (fun s =>
    if s.cad.en ∧ s.cad.freewheel ∧ s.cad.beatTs.toNat + s.cad.period.toNat ≤ s.ts.toNat then
      issueBeat s (s.cad.beatTs + s.cad.period.setWidth 64)
    else s)

/-! ### Control (R202, R210, R242, R412, R689) -/

/-- Cadence enabled: external time starts at 0, or at the whole beats loaded; nothing of an earlier source is kept (R207, R210). -/
def cadEnable (c : Cad) : Cad :=
  { c with en := true, beats := if c.loaded then c.beats else 0, loaded := false, frac := 0, period := 0, periods := [], realBeats := 0
           encAcc := 0, encLast := none, lost := false, freewheel := false, hold := false, extFloor := 0 }

/-- Cadence disabled: external time keeps its value. -/
def cadDisable (s : State) : Cad :=
  { s.cad with en := false, frac := BitVec.ofNat 16 (extFraction s), loaded := false, lost := false, freewheel := false, hold := false }

/-- A value taken by CAD_CTRL, each field that the register ignores kept (R242). -/
def writeCadCtrl (s : State) (v : W32) : State :=
  let n := v.toNat
  let c := (holdExt s).cad
  let c1 := { c with
    src := if nbits n 2 1 = 3 then c.src else BitVec.ofNat 2 (nbits n 2 1)
    edge := nbit n 3
    avg := if 4 < nbits n 6 4 then c.avg else BitVec.ofNat 3 (nbits n 6 4)
    lossAct := nbit n 7
    lossBeats := if nbits n 11 8 < 2 then c.lossBeats else BitVec.ofNat 4 (nbits n 11 8)
    encDir := nbit n 12 }
  let c2 := { c1 with period := meanPeriod c1 }
  if nbit n 0 && !c.en then { s with cad := cadEnable c2 }
  else if !nbit n 0 && c.en then { s with cad := cadDisable { s with cad := c2 } }
  else { s with cad := c2 }

/-- The value CAD_CTRL reads. -/
def cadCtrl (c : Cad) : W32 :=
  BitVec.ofNat 32 (b2n c.en + c.src.toNat * 2 + b2n c.edge * 8 + c.avg.toNat * 16 + b2n c.lossAct * 128 + c.lossBeats.toNat * 256 + b2n c.encDir * 4096)

/-- The cadence right (R430). -/
def rCadence : Nat := 1

/-- LOAD_BEAT (R210, R412): refused while cadence is enabled. -/
def execLoadBeat (p : PartId) (s : State) : Host.Outcome State Fault Refusal :=
  ends s (ringCmdR s p 0x0501 rCadence 6 6 [] (fun s k =>
    if s.cad.en then refuseState s p k noObj (cadState s)
    else
      let s1 := { s with cad.beats := BitVec.ofNat 48 (par k 0 6), cad.loaded := true, cad.frac := 0, cad.extFloor := 0 }
      reply s1 p k stDone 0 noObj (cadState s1)))

/-- CADENCE_SET (R412, R689): nothing is written unless every field passes. -/
def execCadenceSet (p : PartId) (s : State) : Host.Outcome State Fault Refusal :=
  ends s (ringCmdR s p 0x0502 rCadence 2 12 [(2, 2)] (fun s k =>
    let x := pktExpert k
    let v := if x then par k 4 4 else (cadCtrl s.cad).toNat
    checked s p k
      [(decide (1 < par k 0 1), 0), (decide (2 < par k 1 1), 1), (x && decide (2 ^ 13 ≤ v), 4), (x && decide (1024 ≤ par k 10 2), 10)]
      [(x && decide (4 < nbits v 6 4 ∨ nbits v 11 8 < 2), 4)]
      (let s1 := if x then { s with cad.encDiv := BitVec.ofNat 16 (par k 8 2), cad.srcDev := BitVec.ofNat 10 (par k 10 2) } else s
       let s2 := writeCadCtrl s1 (BitVec.ofNat 32 (v / 8 * 8 + par k 0 1 + par k 1 1 * 2))
       reply s2 p k stDone 0 noObj (cadState s2))))

/-! ### Time synchronisation (R215, R216, R361) -/

/-- The time root: the lowest device ID among this device and those it knows. Its own SYNC_EN counts; that of another device no frame tells, and each counts as taking part (R215; DEDUCED, notes/assumptions/40). -/
def timeRoot (s : State) : Option Nat :=
  let ids := (s.fab.db.map (·.1)).filter (fun d => (tget ({} : Route) s.fab.routes d).valid) ++ (if s.cad.syncEn then [s.fab.id.toNat] else [])
  ids.foldl (fun m d => match m with | none => some d | some a => some (min a d)) none

/-- The port towards the parent: the first hop on the installed table towards the time root (R361). -/
def syncPort (s : State) : Option Nat :=
  match timeRoot s with
  | none => none
  | some d =>
    let r : Route := tget {} s.fab.routes d
    if d = s.fab.id.toNat ∨ !r.valid ∨ 6 ≤ r.port.toNat then none else some r.port.toNat

/-- The parent: the device at that port. -/
def syncParent (s : State) : Option Nat := (syncPort s).map (fun f => (s.port f).neigh.toNat)

/-- The offset to the parent in 0.25 ns that the four stamps of an exchange give (R215): half the difference of the two ways, with the path symmetric beyond the PHY latencies of the port, which the device's own stamps do not hold; the parent's stamps are corrected by the parent. -/
def syncOffset (s : State) (f : Nat) (m : SyncMsg) : Int :=
  let lat : W32 := tget 0 s.cad.phyLat f
  let out : Int := (m.recv.toNat : Int) - m.sent.toNat
  let back : Int := (m.now.toNat : Int) - m.reply.toNat
  2 * (out - back) - ((lat.toNat % 65536 : Nat) - (lat.toNat / 65536 : Nat) : Int) / 2

/-- SYNC_EXCHANGE (R215, R216): once its interval is over the device sends its parent a stamped message; the fourth failure in a row clears SYNCED and sets SYNC_LOST. -/
def execSyncExchange (ok : Bool) (now : W64) (s : State) : Host.Outcome State Fault Refusal :=
  endsAt s now (fun s =>
    if !s.cad.syncEn || !s.fab.en || decide (s.ts.toNat < s.cad.syncTs.toNat + 125000 * 2 ^ s.cad.interval.toNat) then s
    else
      let s0 := { s with cad.syncTs := s.ts }
      let s1 := match syncParent s with
        | some d => (sendFrame s0 (mkFrame s 0x40 d false 0x3F (Config.free 64 s.freeNo 45) []) none).draw
        | none => s0
      if ok then { s1 with cad.syncFails := 0 }
      else
        let s2 := { s1 with cad.syncFails := s.cad.syncFails + 1 }
        if 4 ≤ s.cad.syncFails + 1 then cadEvent { s2 with cad.synced := false } 5 else s2)

/-- The parent's answer taken (R216): behind by more than 1 µs the counter steps forward; every other offset is slewed; SYNCED follows the offset's 5 ns. -/
def takeSync (s : State) (q : Int) : State :=
  let s1 := { s with cad.offset := BitVec.ofInt 32 q, cad.synced := decide (q.natAbs ≤ 20), cad.syncFails := 0 }
  if 4000 < q then { s1 with ts := s.ts + BitVec.ofNat 64 (q.toNat / 4), cad.slew := q % 4 }
  else { s1 with cad.slew := q }

/-- SYNC (R215, R216): the answer of the parent, and of no other device. -/
def execFabSync (_port : FabPort) (msg : SyncMsg) (s : State) : Host.Outcome State Fault Refusal :=
  ends s (match syncPort s with
    | some f => if s.cad.syncEn ∧ !s.pwr.trip ∧ msg.src.val = (s.port f).neigh.toNat then takeSync s (syncOffset s f msg) else s
    | none => s)

end Sys2Proof.Machine
end

