-- ==== Sys2Proof/Machine/Streams.lean ====
section
/-! DEFINITION. Sensor streams: beats, frames, rings, taps, views and the stream commands (R230 to R241, R302, R304, R413, R644, R645). -/

namespace Sys2Proof.Machine

/-! ### Parity (R629) -/

/-- Whether a 32-bit group holds an odd number of ones. -/
def oddOnes (v : Nat) : Bool := (List.range 32).foldl (fun a i => xor a (nbit v i)) false
/-- The parity field of a vector: bit k covers bits [32k + 31:32k]. -/
def parityOf (groups v : Nat) : Nat := (List.range groups).foldl (fun a k => a + b2n (oddOnes (v >>> (32 * k))) * 2 ^ k) 0

/-! ### Frames (R232, R233) -/

/-- A stream event raised: 0 TRUNC, 1 DROP, 2 LINK_ERR (R243). -/
def strEvent (s : State) (n bit : Nat) : State := s.modStream n (fun q => { q with events := raiseEv q.events bit })

/-- A frame not written to the ring, counted. -/
def dropFrame (s : State) (n : Nat) : State := (strEvent s n 1).modStream n (fun q => { q with dropped := satInc q.dropped })

/-- The frame in progress takes LINK_ERR. -/
def linkErr (s : State) (n : Nat) : State :=
  match (s.stream n).cur with
  | some k => (strEvent s n 2).modStream n (fun q => { q with slots := tmod {} q.slots k (fun sl => { sl with linkErr := true }) })
  | none => s

/-- The slot that takes the next frame: the next in ring order that is not pinned. -/
def nextSlot (st : Stream) : Nat :=
  let n := max 1 st.nslots
  if st.pinned = some (st.next % n) then (st.next + 1) % n else st.next % n

/-- A frame starts: its header is written with COMPLETE clear; a gap in SEQ or a suspension sets GAP. -/
def startFrame (s : State) (n : Nat) : State :=
  s.modStream n (fun q =>
    let k := nextSlot q
    let old : Slot := tget {} q.slots k
    let gap := q.suspended || (match q.lastSeq with | some l => decide (1 < (q.nextSeq - l).toNat) | none => false)
    let sl : Slot := { ts := s.ts, ext := BitVec.ofNat 64 (extTime s), seq := q.nextSeq, len := 0, complete := false, trunc := false
                       gap := gap, linkErr := false, dur := 0, used := true, data := old.data }
    { q with cur := some k, inFrame := true, dropFrame := false, fill := 0, seq := q.nextSeq, nextSeq := q.nextSeq + 1
             lastSeq := some q.nextSeq, suspended := false, next := k + 1
             newest := if q.newest = some k then q.pinned else q.newest
             slots := tset q.slots k sl })

/-- Payload bytes of the frame in progress; those beyond the slot are discarded with TRUNC. -/
def putFrame (s : State) (n : Nat) (bs : List Byte) : State :=
  let st := s.stream n
  match st.cur with
  | none => s.modStream n (fun q => { q with fill := q.fill + bs.length })
  | some k =>
    let keep := bs.take (st.slotBytes - st.fill)
    let cut := decide (keep.length < bs.length)
    let s1 := if cut then strEvent s n 0 else s
    s1.modStream n (fun q => { q with
      fill := q.fill + bs.length, lastTs := s.ts
      slots := tmod {} q.slots k (fun sl =>
        { sl with data := mwrite 0 sl.data st.fill keep, len := sl.len + keep.length, trunc := sl.trunc || cut }) })

/-- The frame in progress ends: its header is rewritten with COMPLETE set, and it is the newest. -/
def endFrame (s : State) (n : Nat) : State :=
  match (s.stream n).cur with
  | none => s.modStream n (fun q => { q with inFrame := false, dropFrame := false })
  | some k =>
    s.modStream n (fun q => { q with
      cur := none, inFrame := false, newest := some k, frames := satInc q.frames
      slots := tmod {} q.slots k (fun sl => { sl with complete := true, dur := BitVec.ofNat 32 (min (q.lastTs.toNat - sl.ts.toNat) 0xFFFFFFFF) }) })

/-- The bytes of a beat reach the tap of their stream (R237). -/
def putTap (s : State) (n : Nat) (bs : List Byte) : State :=
  let st := s.stream n
  if !st.tap then s
  else
    let sram := bs.zipIdx.foldl (fun m (e : Byte × Nat) => mset 0 m (st.tapLine * 64 + (st.tapCount.toNat + e.2) % max 1 st.tapBytes) e.1) s.spr.sram
    { s with spr.sram := sram }.modStream n (fun q => { q with
      tapCount := q.tapCount + BitVec.ofNat 64 bs.length, tapTs := s.ts, tapExt := BitVec.ofNat 64 (extTime s) })

/-- A beat of an owned stream taken in state A. -/
def takeBeat (s : State) (n : Nat) (b : StreamBeat) (dataBad : Bool) : State :=
  let st := s.stream n
  let len := if !st.cut && b.eof && b.nb != 0 then b.nb.toNat else 32
  let bs := leBytes len b.data.toNat
  let s1 := putTap s n bs
  let s2 : State :=
    if st.cut then (if st.inFrame then s1 else startFrame s1 n)
    else if b.sof then startFrame (if st.inFrame then endFrame (linkErr s1 n) n else s1) n
    else s1
  if !(s2.stream n).inFrame then s2
  else
    let s3 := putFrame (if dataBad then linkErr s2 n else s2) n bs
    let done := if st.cut then decide (st.cutBytes ≤ (s3.stream n).fill) else b.eof
    if done then endFrame s3 n else s3

/-- The frame in progress is lost where the ring cannot take the rest of it: its slot keeps COMPLETE clear, and it counts as dropped. -/
def cutFrame (s : State) (n : Nat) : State :=
  if (s.stream n).inFrame && !(s.stream n).dropFrame then (dropFrame s n).modStream n (fun q => { q with cur := none, dropFrame := true }) else s

/-- A beat of an owned stream that cannot reach the ring in T2: it feeds the tap, if there is one, and its frame is counted as dropped (R238, R305). -/
def tapBeat (s0 : State) (n : Nat) (b : StreamBeat) : State :=
  let s := cutFrame s0 n
  let st := s.stream n
  let len := if !st.cut && b.eof && b.nb != 0 then b.nb.toNat else 32
  let s1 := putTap s n (leBytes len b.data.toNat)
  let starts := if st.cut then !st.inFrame else b.sof
  let s2 := if starts then (dropFrame s1 n).modStream n (fun q => { q with cur := none, inFrame := true, dropFrame := true, fill := 0, seq := q.nextSeq, nextSeq := q.nextSeq + 1 })
            else s1
  let s3 := s2.modStream n (fun q => { q with fill := q.fill + len })
  let done := if st.cut then decide (st.cutBytes ≤ (s3.stream n).fill) else b.eof
  if done then s3.modStream n (fun q => { q with cur := none, inFrame := false, dropFrame := false }) else s3

/-- A beat that the port takes (R230, R233, R238, R645): one that names no stream is discarded with PROTO, one whose control parity fails with LINK_ERR on its stream's frame; what does not reach the ring feeds the tap alone, that of ROM's watch program, which no partition owns, too (R333). -/
def portBeat (s : State) (port : Nat) (b : StreamBeat) (ring : Bool) : State :=
  let n := 6 * port + b.strm.val
  let ctl := b.strm.val + b2n b.sof * 8 + b2n b.eof * 16 + b.nb.toNat * 32
  let ctlBad := b.par.getLsbD 8 != oddOnes ctl
  let dataBad := decide (parityOf 8 b.data.toNat ≠ b.par.toNat % 256)
  if 6 ≤ b.strm.val then portEvent (if ctlBad then portEvent s 7 else s) 6
  else if ctlBad then linkErr (portEvent s 7) n
  else if !(s.stream n).owned then
    let s1 := if b.sof then dropFrame s n else s
    if ring then s1 else putTap s1 n (leBytes 32 b.data.toNat)
  else if ring then takeBeat s n b dataBad
  else tapBeat s n b

/-- A beat on a stream port, by power state (R238, R240, R619): in A it is taken, but not while a trip stops the port's logic, when the source holds it; in I one of an owned stream wakes the instance, and the port holds it and takes no more until state A; in T and W a tapped stream's is taken in the on-time of a watch window; in S any beat is a wake source. With the STREAM wake disabled, I takes it as T's windows do (notes/assumptions/34). -/
def streamBeat (s : State) (port : Nat) (b : StreamBeat) : State :=
  let owned := decide (b.strm.val < 6) && (s.stream (6 * port + b.strm.val)).owned
  match s.spr.pstate with
  | .a => if s.pwr.trip then s else portBeat s port b true
  | .i =>
    if s.spr.heldBeats.any (fun e => e.1 == port) then s
    else if owned && s.spr.wakeEn.getLsbD 2 then latchWake { s with spr.heldBeats := s.spr.heldBeats ++ [(port, b)] } 4 2
    else portBeat s port b false
  | .t | .w => if s.spr.onOpen && decide (b.strm.val < 6) && (s.stream (6 * port + b.strm.val)).tap then portBeat s port b false else s
  | .s => latchWake s 4 2
  | .o => s

/-- State A takes the beats that the ports held in I (R240). -/
def takeHeldBeats (s : State) : State :=
  s.spr.heldBeats.foldl (fun t e => portBeat t e.1 e.2 true) { s with spr.heldBeats := [] }

/-- The rings restart empty and the next frame carries GAP; a frame in progress is not written (R41, R238). -/
def suspendStreams (s : State) : State :=
  { s with streams := tmap (fun q => { q with slots := [], pinned := none, newest := none, cur := none, next := 0, dropFrame := q.inFrame, suspended := true }) s.streams }

/-- STR holds no state between windows: a frame in progress is forgotten (R40). -/
def forgetFrames (s : State) : State :=
  { s with streams := tmap (fun q => { q with cur := none, inFrame := false, dropFrame := false, fill := 0 }) s.streams }

/-- STREAM_BEAT (R233). -/
def execStreamBeat (port : Fin 4) (beat : StreamBeat) (now : W64) (s : State) : Host.Outcome State Fault Refusal :=
  endsAt s now (fun s => streamBeat s port beat)

/-! ### Commands (R231, R235, R241, R304, R413) -/

/-- Entries of a partition's map removed, their translations forgotten. -/
def unmapBlocks (s : State) (p : Nat) (bs : List Nat) : State :=
  { s with mem.maps := tset s.mem.maps p ((s.map p).filter (fun e => !bs.contains e.1))
           mem.btc := s.mem.btc.filter (fun e => !(e.2.1 == p && bs.contains e.2.2)) }

/-- Copies of a partition evicted from T2 until it holds no more than its quota beside its rings. -/
def trimT2 (s : State) (p : Nat) : State :=
  (List.range (resT2 s p).length).foldl (fun t _ =>
    if (t.part p).qT2.toNat < (resT2 t p).length + ringBlocks t p then
      match (victims t p (fun r => match r with | .t2 _ => true | _ => false)).head? with
      | some v => evictNow t p v 6 .background
      | none => t
    else t) s

/-- The blocks of a stream's view (R235). -/
def viewBlocks (viewAddr slotBytes : Nat) : List Nat := (List.range (ceilDiv (slotBytes + 32) blockBytes)).map (fun i => viewAddr / blockBytes + i)
/-- The blocks of its tap view: the ring's 128 KiB and the header (R304). -/
def tapBlocks (viewAddr : Nat) : List Nat := (List.range 3).map (fun i => (viewAddr + 0x410000) / blockBytes + i)

/-- The reply of a stream command, which names the stream. -/
def strReply (s : State) (p : Nat) (k : Packet) (st : W16) (det : W32) (state : Byte) : State :=
  let n := 6 * par k 0 1 + par k 1 1
  reply s p k st det (if par k 0 1 < 4 ∧ par k 1 1 < 6 then BitVec.ofNat 32 n else noObj) state

/-- A stream command: the gate grant of the port, then its form, then its own tests. -/
def strCmd (s : State) (p op basic : Nat) (gaps : List (Nat × Nat)) (fmt rng : Packet → List (Bool × Nat)) (body : State → Packet → Nat → State) : State :=
  ringTake s p op (fun s k =>
    if par k 0 1 < 4 ∧ !hasRight s p (16 + par k 0 1) then strReply s p k stRights (BitVec.ofNat 32 (16 + par k 0 1)) 0
    else formed s p k basic basic gaps (fun s k =>
      match firstBad (fmt k) with
      | some o => strReply s p k stFormat (detPar o) 0
      | none => match firstBad ([(decide (4 ≤ par k 0 1), 0), (decide (6 ≤ par k 1 1), 1)] ++ rng k) with
        | some o => strReply s p k stRange (detPar o) 0
        | none => body s k (6 * par k 0 1 + par k 1 1)))

/-- The lowest line that tap rings take. -/
def lowestTap (s : State) : Nat :=
  (List.range 24).foldl (fun m n => if (s.stream n).tap then min m (s.stream n).tapLine else m) 4096

/-- A view block mapped for a stream, its table given where there is none. -/
def mapView (s : State) (p : Nat) (h : Home) (b : Nat) : State := (ensureTable s p b).setBlock p b { state := .view, home := h }

/-- STREAM_SET_UP (R231, R235, R302, R304). -/
def execStreamSetUp (p : PartId) (s : State) : Host.Outcome State Fault Refusal :=
  ends s (strCmd s p 0x0601 32 [(3, 1), (13, 3)]
    (fun k => [(decide (1 < par k 2 1), 2), (!addrOk k 16, 16)])
    (fun k =>
      let sb := par k 8 4
      let taps := decide (0 < par k 30 2)
      [(par k 2 1 == 1 && decide (par k 4 4 < 64 ∨ sb < par k 4 4 ∨ par k 4 4 % 64 ≠ 0), 4)
       , (decide (sb < 4096 ∨ 4194304 < sb ∨ sb % 4096 ≠ 0), 8)
       , (decide (par k 12 1 < 2 ∨ 64 < par k 12 1), 12)
       , (decide (parAddr k 16 % blockBytes ≠ 0 ∨ 2 ^ 48 < parAddr k 16 + ceilDiv (sb + 32) blockBytes * blockBytes), 16)
       , (taps && decide (2 ^ 48 < parAddr k 16 + 0x440000), 16)
       , (decide (128 < par k 30 2), 30)])
    (fun s k n =>
      let st := s.stream n
      let va := parAddr k 16
      let sb := par k 8 4
      let tapB := par k 30 2 * 1024
      let low := lowestTap s
      let need := ceilDiv (par k 12 1 * (sb + 32)) blockBytes
      let all := viewBlocks va sb ++ (if tapB = 0 then [] else tapBlocks va)
      if (s.part p).qT2.toNat < ringBlocks s p + need then strReply s p k stRange (detPar 8) 0
      else if tapB ≠ 0 ∧ low < s.spr.dataEnd + tapB / 64 then strReply s p k stRange (detPar 30) 0
      else if st.owned then strReply s p k stState 0 (if st.owner.toNat = p.val then 0x51 else 0x52)
      else match all.find? (fun b => (s.block p b).state != .unmapped) with
      | some b => strReply s p k stState 0 (memState (s.block p b).state)
      | none =>
        let line := low - tapB / 64
        let s1 := s.modStream n (fun q => { (({} : Stream)) with
          owned := true, owner := BitVec.ofNat 6 p.val, cut := par k 2 1 == 1, cutBytes := par k 4 4, slotBytes := sb, nslots := par k 12 1
          viewAddr := va, bind := BitVec.ofNat 32 (par k 24 4), maxAge := par k 28 2
          tap := tapB != 0, tapBytes := tapB, tapLine := line
          events := q.events, frames := q.frames, dropped := q.dropped, seq := q.seq })
        let s2 := if tapB = 0 then s1
                  else { s1 with spr.sram := mclear s1.spr.sram (line * 64) (line * 64 + tapB), spr.tapLow := line }
        let s3 := (viewBlocks va sb).foldl (fun t b => mapView t p (.view n) b) s2
        let s4 := if tapB = 0 then s3 else (tapBlocks va).foldl (fun t b => mapView t p (.tap n) b) s3
        strReply (trimT2 s4 p) p k stDone 0 0x51))

/-- STREAM_RELEASE (R235, R241). -/
def execStreamRelease (p : PartId) (s : State) : Host.Outcome State Fault Refusal :=
  ends s (strCmd s p 0x0602 2 [] (fun _ => []) (fun _ => []) (fun s k n =>
    let st := s.stream n
    if !st.owned then strReply s p k stState 0 0x50
    else if st.owner.toNat ≠ p.val then strReply s p k stState 0 0x52
    else
      let s1 := pruneTables (unmapBlocks s p (viewBlocks st.viewAddr st.slotBytes ++ (if st.tap then tapBlocks st.viewAddr else []))) p
      let s2 := s1.modStream n (fun q => { (({} : Stream)) with events := q.events, frames := q.frames, dropped := q.dropped, seq := q.seq })
      strReply { s2 with spr.tapLow := lowestTap s2 } p k stDone 0 0x50))

/-- STREAM_BIND (R231, R413). -/
def execStreamBind (p : PartId) (s : State) : Host.Outcome State Fault Refusal :=
  ends s (strCmd s p 0x0603 10 [(2, 2)] (fun _ => []) (fun _ => []) (fun s k n =>
    let st := s.stream n
    if !st.owned then strReply s p k stState 0 0x50
    else if st.owner.toNat ≠ p.val then strReply s p k stState 0 0x52
    else strReply (s.modStream n (fun q => { q with bind := BitVec.ofNat 32 (par k 4 4), maxAge := par k 8 2 })) p k stDone 0 0x51))

end Sys2Proof.Machine
end

