-- ==== Sys2Proof/Machine/Resets.lean ====
section
/-! DEFINITION. Instance reset and power-on reset: what each clears and keeps (R668 to R671, R638). -/

namespace Sys2Proof.Machine

/-! ### Responses of the host port (R634, R638) -/

/-- The response codes of R634. -/
def rcGood : BitVec 2 := 0
def rcRefused : BitVec 2 := 1
def rcFault : BitVec 2 := 2
def rcParity : BitVec 2 := 3

/-- The beats of bytes. -/
def toBeats (n : Nat) (l : List Byte) : List (BitVec 128) := (List.range n).map (fun i => BitVec.ofNat 128 (field l (16 * i) 16))

/-- Whether an aperture access has been served by its tier (R254, R641): none of its requests is open, and a read's sector has landed. -/
def rspServed (s : State) (r : HostRsp) : Bool :=
  match r.no with
  | none => true
  | some n =>
    let blk := s.block r.part (r.dev / blockBytes)
    let awaits := !r.write && blk.state == .fetching && !blk.landed.getLsbD (r.dev % blockBytes / sectorBytes)
    !(s.mem.outReq.any (fun q => q.host == some n) || s.press.readQ.any (fun q => q.host == some n) || awaits)

/-- The response of a served access: a read takes its bytes, or zero with FAULT where they could not be delivered (R270, R634). -/
def servedRsp (s : State) (r : HostRsp) : HostRsp :=
  if r.no.isNone || !rspServed s r then r
  else
    let bad := r.rc != rcGood || (!r.write && (s.block r.part (r.dev / blockBytes)).state == .poisoned)
    { r with no := none, rc := if bad then rcFault else rcGood
             beats := if r.write then [] else if bad then List.replicate r.count 0 else toBeats r.count (devRead s r.part r.dev (16 * r.count)) }

/-- Responses of one channel leave in order, a beat for each credit, up to one whose tier has not served it (R630, R632): those that stay, those that left, and the credits that remain. -/
def pumpHostAux (write : Bool) : Nat → List HostRsp → List HostRsp × List HostRsp × Nat
  | n, [] => ([], [], n)
  | n, r :: rest =>
    if r.write = write then
      if r.no.isSome then (r :: rest, [], n) else
      let need := (if write then 1 else r.beats.length) - r.sent
      if need ≤ n then
        let q := pumpHostAux write (n - need) rest
        (q.1, { r with sent := r.sent + need } :: q.2.1, q.2.2)
      else ({ r with sent := r.sent + n } :: rest, [], 0)
    else
      let q := pumpHostAux write n rest
      (r :: q.1, q.2.1, q.2.2)

/-- Host responses leave while credits last: read beats on channel 2, write responses on channel 3. -/
def pumpHost (s : State) : State :=
  let a := pumpHostAux false (s.credits 0 2) (s.ports.hostQ.map (servedRsp s))
  let b := pumpHostAux true (s.credits 0 3) a.1
  if s.pwr.trip then s else { s with
    ports.hostQ := b.1
    ports.hostRsp := (a.2.1 ++ b.2.1).reverse ++ s.ports.hostRsp
    ports.credits := tset (tset s.ports.credits (creditKey 0 2) a.2.2) (creditKey 0 3) b.2.2 }

/-- A response on the host port: ID, write or read, response code and data beats. -/
def hostAnswer (s : State) (id : BitVec 8) (write : Bool) (rc : BitVec 2) (beats : List (BitVec 128)) : State :=
  pumpHost { s with ports.hostQ := s.ports.hostQ ++ [{ id := id, write := write, rc := rc, beats := beats }] }

/-- The number of beats of a request word (R627). -/
def reqBeats (w : BitVec 96) : Nat := if nbits w.toNat 6 2 = 0 then 32 else nbits w.toNat 6 2

/-- A held request answered as an instance reset finds it (R638): FAULT, a read with zero data. -/
def faultHeld (s : State) (h : BitVec 96 × BitVec 3 × List WriteBeat) : State :=
  let wr := nbit h.1.toNat 0
  hostAnswer s (BitVec.ofNat 8 (nbits h.1.toNat 15 8)) wr rcFault (if wr then [] else List.replicate (reqBeats h.1) 0)

/-- An access that its tier had not served when an instance reset came (R638): FAULT, a read with zero data. -/
def faultWaiting (r : HostRsp) : HostRsp :=
  if r.no.isSome then { r with no := none, rc := rcFault, beats := if r.write then [] else List.replicate r.count 0 } else r

/-! ### Instance reset (R669, R670) -/

/-- A core after an instance reset: all of its logic at reset values and held in reset; its supply and clocks as they were. -/
def coreHeld (k : Core) : Core :=
  { on := k.on, ret := k.ret, iso := k.iso, req := k.req, reqTs := k.reqTs, pllLock := k.pllLock, pllLock2 := k.pllLock2 }

/-- A core after S: as after an instance reset, but for the fences that only an instance reset or an un-fence lifts (R154, R316). -/
def coreSlept (k : Core) : Core := { coreHeld k with fenced := k.fenced, engines := tmap resetEngine k.engines }

/-- The flash block at its reset values; what NAND holds (the blocks, the journal, the checkpoints, the regions) and what the device is are kept, its stop is unclean unless it had stopped in order, no partition is granted a region, and the map stays where the carve-out keeps it. -/
def pressHeld (p : Press) (kept : Bool) : Press :=
  { eblocks := p.eblocks, nblocks := p.nblocks, map := if kept then p.map else [], regions := tmap (fun r => { r with mask := 0 }) p.regions
    journal := p.journal, journalSeq := p.journalSeq, writeSeq := p.writeSeq, lastCkpt := p.lastCkpt, ckpts := p.ckpts
    canSuspend := p.canSuspend, factoryBad := p.factoryBad, cellLat := p.cellLat
    mapKept := kept && p.mapKept, dirtyStop := p.dirtyStop }

/-- The memory tiers at their reset values; the bytes of the carve-out and of flash are kept. -/
def memHeld (m : MemTiers) : MemTiers := { t3 := m.t3, t4 := m.t4 }

/-- The reliability block at its reset values; the Rind, what the always-on island holds for it, and the management port's queue are kept. -/
def relHeld (r : Rel) : Rel :=
  { segs := r.segs, groups := r.groups, nextSeq := r.nextSeq, nextSeg := r.nextSeg, curSeg := r.curSeg, aonHeld := r.aonHeld
    mgmtQ := r.mgmtQ, alert := r.alert }

/-- The power block at its reset values, its ROS count kept; a trip goes on, and may end by step 4 of R619 (R671). -/
def pwrHeld (p : Pwr) : Pwr :=
  { trips := p.trips, trip := p.trip, tripTs := p.tripTs, coolTs := p.coolTs, coreTemp := p.coreTemp, islTemp := p.islTemp, regAddr := p.regAddr }

/-- The port group at its reset values; accesses not yet served are answered, responses and messages that have left stay on record, and the levels of R657 but the trip output fall. -/
def portsHeld (p : Ports) : Ports :=
  { tripO := p.tripO, hostQ := p.hostQ.map faultWaiting, hostRsp := p.hostRsp, intSent := p.intSent, tapIr := p.tapIr, tapOut := p.tapOut }

/-- The clock block after an instance reset: lock and supply as they are, the cause recorded, INST_RESET set. -/
def crpHeld (c : Crp) (cause : BitVec 4) : Crp :=
  { c with cause := cause, count := satInc c.count, events := { flags := 4 }, pdLast := 0 }

/-- The fabric at its reset values; links that were in use are DOWN, and the PHYs stay as they are. -/
def fabHeld (f : Fab) : Fab :=
  let turn (p : Port) : Port := { phyReady := p.phyReady, state := if p.state = .off then .off else .down }
  { ports := tmap turn f.ports }

/-- An instance reset (R669, R670): host requests held are answered, every domain's logic takes its reset values, and Rennet starts up from now. -/
def instanceReset (s : State) (cause : BitVec 4) : State :=
  let s0 := s.spr.heldHost.foldl faultHeld s
  { chip := s.chip, ts := s.ts, pending := s.pending, freeNo := s.freeNo
    cores := tmap coreHeld s.cores
    cad := { tsLatch := s.cad.tsLatch }
    mem := memHeld s.mem
    press := pressHeld s.press true
    spr := { startedAt := s.ts }
    fab := fabHeld s.fab
    rennet := { consec := s.rennet.consec, total := s.rennet.total, nor := s.rennet.nor, refTs := s.ts }
    otp := { cells := s.otp.cells, weak := s.otp.weak }
    rel := relHeld s.rel
    pwr := pwrHeld s.pwr
    ports := { portsHeld s0.ports with lateIds := s.mem.outReq.filterMap (fun r => r.id.map (fun i => (r.port, r.write, i))), lateTs := s.ts }
    crp := crpHeld s.crp cause }

/-! ### Power-on reset (R668, R670) -/

/-- The segments after the supply failed between the two phases of an entry (R591): the queue's first entry stands in its slot with COMMIT still 0xFF, and the slot is used. -/
def tornSegs (s : State) (torn : Bool) : Tbl Segment × W32 :=
  match s.rel.curSeg, s.rel.rindQ with
  | some i, e :: _ =>
    if torn && s.rel.rindReady && decide ((tget ({} : Segment) s.rel.segs i).entries.length < 768) then
      (tmod {} s.rel.segs i (fun g => { g with entries := g.entries ++ [{ e with seq := s.rel.nextSeq, ts := s.ts, commit := 0xFF }] }), s.rel.nextSeq + 1)
    else (s.rel.segs, s.rel.nextSeq)
  | _, _ => (s.rel.segs, s.rel.nextSeq)

/-- A power-on reset: everything at its reset values, the timestamp and the sticky fields included; what NOR, OTP, NAND and a kept DRAM hold stays. -/
def powerOnReset (s : State) (i : StartInputs) : State :=
  { chip := { s.chip with strapPmb := i.strapPmb, strapMg := i.strapMg }, pending := s.pending, freeNo := s.freeNo
    mem := { t3 := if i.dramKept then s.mem.t3 else [], t4 := s.mem.t4 }
    press := pressHeld s.press i.dramKept
    rennet := { nor := s.rennet.nor }
    otp := { cells := s.otp.cells, weak := s.otp.weak }
    rel := { segs := (tornSegs s i.rindTorn).1, groups := s.rel.groups, nextSeq := (tornSegs s i.rindTorn).2, nextSeg := s.rel.nextSeg, curSeg := s.rel.curSeg }
    pwr := { regAddr := i.strapPmb }
    ports := { hostRsp := s.ports.hostRsp, intSent := s.ports.intSent } }

/-- POWER_ON_RESET (R668): every domain is held in reset and its supply is yet to be asked for. -/
def execPowerOnReset (inputs : StartInputs) (s : State) : Host.Outcome State Fault Refusal := ends s (powerOnReset s inputs)

/-- INSTANCE_RESET (R669) of a cause. -/
def execInstanceReset (cause : BitVec 4) (s : State) : Host.Outcome State Fault Refusal := ends s (instanceReset s cause)

end Sys2Proof.Machine
end

