-- ==== Sys2Proof/Machine/Bignum.lean ====
section
/-! DEFINITION. The big-number engine: its arithmetic, its commands, its refusals and its endings (R488 to R501). -/

namespace Sys2Proof.Machine

/-! ### Exact arithmetic -/

/-- `b` to the power `e` modulo `m`, over the `n` low bits of the exponent. -/
def powMod (m b e n : Nat) : Nat :=
  (List.range n).reverse.foldl (fun acc i => let sq := acc * acc % m
                                             if nbit e i then sq * b % m else sq) (1 % m)

/-- The field prime of P-384. -/
def p384 : Nat := 2 ^ 384 - 2 ^ 128 - 2 ^ 96 + 2 ^ 32 - 1
/-- The group order of P-384. -/
def n384 : Nat := 0xFFFFFFFFFFFFFFFFFFFFFFFFFFFFFFFFFFFFFFFFFFFFFFFFC7634D81F4372DDF581A0DB248B0A77AECEC196ACCC52973
/-- The coefficient b of P-384. -/
def b384 : Nat := 0xB3312FA7E23EE7E4988E056BE3F82D19181D9C6EFE8141120314088F5013875AC656398D8A2ED19D2A85C8EDD3EC2AEF
/-- The base point of P-384. -/
def g384 : Nat × Nat :=
  (0xAA87CA22BE8B05378EB1C71EF320AD746E1D3B628BA79B9859F741E082542A385502F25DBF55296C3A545E3872760AB7,
   0x3617DE4A96262C6F5D9E98BF9292DC29F8F41DBD289A147CE9DA3113B5F0B8C00A60B1CE1D7E819D7A431D7C90EA0E5F)

/-- Whether a pair of coordinates satisfies y² = x³ − 3x + b (R501). -/
def onCurve (q : Nat × Nat) : Bool := (q.2 * q.2) % p384 == (q.1 * q.1 * q.1 + (p384 - 3) * q.1 + b384) % p384

/-- The sum of two points of P-384; none is the point at infinity. -/
def ecAddPt : Option (Nat × Nat) → Option (Nat × Nat) → Option (Nat × Nat)
  | none, q => q
  | q, none => q
  | some a, some b =>
    if a.1 = b.1 ∧ (a.2 + b.2) % p384 = 0 then none
    else
      let num := if a = b then 3 * a.1 * a.1 + (p384 - 3) else b.2 + p384 - a.2
      let den := if a = b then 2 * a.2 else b.1 + p384 - a.1
      let l := num * powMod p384 (den % p384) (p384 - 2) 384 % p384
      let x := (l * l + 2 * p384 - a.1 - b.1) % p384
      some (x, (l * (a.1 + p384 - x) + (p384 - a.2)) % p384)

/-- A multiple of a point of P-384. -/
def ecMulPt (k : Nat) (q : Nat × Nat) : Option (Nat × Nat) :=
  (List.range 384).reverse.foldl (fun acc i => let d := ecAddPt acc acc
                                               if nbit k i then ecAddPt d (some q) else d) none

/-! ### Lattice arithmetic (FIPS 203, FIPS 204) -/

/-- The modulus of a lattice command: `kem` chooses ML-KEM. -/
def latQ (kem : Bool) : Nat := if kem then 3329 else 8380417
/-- The root of unity of the transform. -/
def latRoot (kem : Bool) : Nat := if kem then 17 else 1753
/-- The number of layers of the transform. -/
def latDepth (kem : Bool) : Nat := if kem then 7 else 8
/-- The lowest `n` bits reversed. -/
def bitRev (n v : Nat) : Nat := (List.range n).foldl (fun a i => 2 * a + b2n (nbit v i)) 0
/-- The twiddle factor at an index of the transform's tree. -/
def zeta (kem : Bool) (m : Nat) : Nat := powMod (latQ kem) (latRoot kem) (bitRev (latDepth kem) m) 9

/-- Forward layers from node `m` of the transform's tree. -/
def nttLayers (kem : Bool) : Nat → Nat → List Nat → List Nat
  | 0, _, l => l
  | d + 1, m, l =>
    let q := latQ kem
    let h := l.length / 2
    let ps := (l.take h).zip (l.drop h)
    let z := zeta kem m
    nttLayers kem d (2 * m) (ps.map (fun e => (e.1 + z * e.2) % q)) ++ nttLayers kem d (2 * m + 1) (ps.map (fun e => (e.1 + q * q - z * e.2) % q))

/-- Inverse layers from node `m`, unscaled. -/
def inttLayers (kem : Bool) : Nat → Nat → List Nat → List Nat
  | 0, _, l => l
  | d + 1, m, l =>
    let q := latQ kem
    let h := l.length / 2
    let a := inttLayers kem d (2 * m) (l.take h)
    let b := inttLayers kem d (2 * m + 1) (l.drop h)
    let zi := powMod q (zeta kem m) (q - 2) 23
    let ps := a.zip b
    ps.map (fun e => (e.1 + e.2) % q) ++ ps.map (fun e => zi * (e.1 + q - e.2) % q)

/-- The inverse transform, scaled. -/
def inttPoly (kem : Bool) (l : List Nat) : List Nat :=
  let q := latQ kem
  let f := powMod q (2 ^ latDepth kem) (q - 2) 23
  (inttLayers kem (latDepth kem) 1 l).map (fun c => c * f % q)

/-- The product of two ML-KEM transforms (FIPS 203). -/
def basemulPoly (a b : List Nat) : List Nat :=
  (List.range 128).flatMap (fun i =>
    let g := powMod 3329 17 (2 * bitRev 7 i + 1) 9
    let a0 := a.getD (2 * i) 0
    let a1 := a.getD (2 * i + 1) 0
    let b0 := b.getD (2 * i) 0
    let b1 := b.getD (2 * i + 1) 0
    [(a0 * b0 + a1 * b1 % 3329 * g) % 3329, (a0 * b1 + a1 * b0) % 3329])

/-- The high part of Power2Round with d = 13 (FIPS 204). -/
def power2High (c : Nat) : Nat := (c + 4095) / 8192
/-- HighBits with γ2 = (q − 1) ÷ 32 (FIPS 204, ML-DSA-87). -/
def highBits (c : Nat) : Nat :=
  let a := 523776
  let h := (c + a / 2 - 1) / a
  if h = 16 then 0 else h

/-! ### Operands (R488, R489, R494, R495) -/

/-- Words of a slot size; the lattice size counts by modulus. -/
def bnWords (size : Nat) (kem : Bool) : Nat := if size = 0 then 8 else if size = 1 then 12 else if size = 2 then 18 else if kem then 128 else 256
/-- Whether an operand lies in the memory at the alignment of its size. -/
def bnFits (first words align : Nat) : Bool := first % align == 0 && decide (first + words ≤ 2048)
/-- The words of an operand. -/
def bnRead (b : Bn) (first n : Nat) : List W32 := (List.range n).map (fun i => tget 0 b.mem (first + i))
/-- The value of an operand, little-endian by word. -/
def bnVal (b : Bn) (first n : Nat) : Nat := (bnRead b first n).foldr (fun w a => w.toNat + 2 ^ 32 * a) 0
/-- The words of a value. -/
def bnOf (n v : Nat) : List W32 := (List.range n).map (fun i => BitVec.ofNat 32 (v / 2 ^ (32 * i)))
/-- Whether any word of an operand is marked. -/
def bnMarked (b : Bn) (first n : Nat) : Bool := (List.range n).any (fun i => tget false b.marks (first + i))
/-- The coefficients of a polynomial. -/
def bnPoly (b : Bn) (first : Nat) (kem : Bool) : List Nat :=
  if kem then (bnRead b first 128).flatMap (fun w => [w.toNat % 65536, w.toNat / 65536])
  else (bnRead b first 256).map (·.toNat)
/-- The words of a polynomial. -/
def polyWords (l : List Nat) (kem : Bool) : List W32 :=
  if kem then (List.range 128).map (fun i => BitVec.ofNat 32 (l.getD (2 * i) 0 + 65536 * l.getD (2 * i + 1) 0))
  else (List.range 256).map (fun i => BitVec.ofNat 32 (l.getD i 0))

/-- Words written to operand memory with a mark. -/
def bnPut (b : Bn) (first : Nat) (ws : List W32) (mark : Bool) : Bn :=
  ws.zipIdx.foldl (fun b e => { b with mem := tset b.mem (first + e.2) e.1, marks := tset b.marks (first + e.2) mark }) b

/-- The cycles of a command (R493): operation, size, and ML-KEM or ML-DSA; none where it is not legal. -/
def bnCycles (op size : Nat) (kem : Bool) : Option Nat :=
  let three (a b c : Nat) : Option Nat := if size = 0 then some a else if size = 1 then some b else if size = 2 then some c else none
  let lat (a b : Option Nat) : Option Nat := if size = 3 then (if kem then b else a) else none
  match op with
  | 0x01 | 0x02 => three 20 24 30
  | 0x03 => three 52 92 182
  | 0x04 => if size = 0 then some 56 else if size = 1 then some 74 else none
  | 0x05 | 0x06 => if size = 0 then some 24612 else if size = 1 then some 67620 else none
  | 0x07 => three 16 20 26
  | 0x08 | 0x09 | 0x0A => three 36 36 36
  | 0x10 => if size = 1 then some 1100164 else none
  | 0x11 => if size = 1 then some 69092 else none
  | 0x12 => if size = 1 then some 200 else none
  | 0x20 => lat (some 164) (some 148)
  | 0x21 => lat (some 180) (some 164)
  | 0x22 | 0x23 | 0x24 | 0x25 => lat (some 36) (some 36)
  | 0x26 => lat none (some 60)
  | 0x28 | 0x29 | 0x2A => lat (some 36) none
  | 0x2B => lat none (some 36)
  | _ => none

/-- Cave slots that KEYLOAD may read under an owner (R491). -/
def mayLoad (owner slot : Nat) : Bool :=
  (owner == 2 && (slot == 2 || slot == 3)) || (owner == 3 && (slot == 5 || slot == 6)) || (owner == 4 && decide (10 ≤ slot ∧ slot ≤ 15)) || (owner == 5 && slot == 7)
/-- Cave slots that KEYSTORE may write under an owner. -/
def mayStore (owner slot : Nat) : Bool :=
  (owner == 4 && decide (10 ≤ slot ∧ slot ≤ 15)) || (owner == 5 && decide (16 ≤ slot ∧ slot ≤ 63))

/-- What the Cave's own policy admits (R476, R484, R485, R521): a Cave that is not disabled; after the lock, the DeviceID seeds only until the alias certificates are made; and each class of key only in the life-cycle states that use it. -/
def caveAdmits (s : State) (slot : Nat) : Bool :=
  let lc := s.otp.lc.toNat
  let certs := !s.rennet.caveLocked || s.rennet.aliasCerts.isEmpty
  !s.rennet.caveOff && (if slot = 2 ∨ slot = 3 then certs && decide (lc ≤ 3)
    else if slot = 7 ∨ slot = 8 then decide (1 ≤ lc ∧ lc ≤ 3)
    else if 16 ≤ slot then decide (lc = 1 ∨ lc = 2)
    else decide (lc ≤ 3))

/-! ### Starting a command -/

/-- The command registers as a write of them leaves them (R502). -/
def bnLatch (b : Bn) (op : Nat) (a : BnArgs) : Bn :=
  { b with op := BitVec.ofNat 8 op, size := a.size, gen := a.gen, q := a.q, dst := a.dst, src0 := a.src0, src1 := a.src1, src2 := a.src2
           stream := a.stream, modu := a.modu }

/-- What a command will write, whether it is refused for its inputs, and its flag. -/
structure BnOut where
  words   : List W32
  marks   : Bool
  refused : Bool := false
  flag    : Bool := false
  deriving DecidableEq, Repr

/-- The modular commands 0x01 to 0x07. A checked operand is refused at 0 and 1 too. -/
def bnModular (b : Bn) (op n : Nat) : BnOut :=
  let m := bnVal b b.modu.toNat n
  let x := bnVal b b.src0.toNat n
  let y := bnVal b b.src1.toNat n
  let marks := bnMarked b b.src0.toNat (if op = 4 then 18 else n) || (decide (op ≠ 4 ∧ op ≠ 6 ∧ op ≠ 7) && bnMarked b b.src1.toNat n)
  let refused := (decide (op ≠ 4 ∧ op ≠ 7) && decide (m ≤ x)) || (decide (op = 1 ∨ op = 2 ∨ op = 3 ∨ op = 5) && decide (m ≤ y))
    || (decide (op = 5 ∨ op = 6) && decide (x < 2))
  let v := match op with
    | 1 => (x + y) % m
    | 2 => (x + m - y) % m
    | 3 => x * y % m
    | 4 => bnVal b b.src0.toNat 18 % m
    | 5 => powMod m x y (32 * n)
    | _ => powMod m x (m - 2) (32 * n)
  if op = 7 then { words := [], marks := false, flag := decide (x < m) }
  else { words := if refused then List.replicate n 0 else bnOf n v, marks := marks, refused := refused }

/-- Whether a point operand's coordinates lie below the field prime. -/
def bnPoint (b : Bn) (first : Nat) : Nat × Nat := (bnVal b first 12, bnVal b (first + 12) 12)
/-- The words of a point. The coordinates of the point at infinity, and of a sum of pairs that are no points of the curve, are not stated: they are free. -/
def pointWords (s : State) (good : Bool) (q : Option (Nat × Nat)) : List W32 :=
  match good, q with
  | true, some q => bnOf 12 q.1 ++ bnOf 12 q.2
  | _, _ => bnOf 24 (Config.free 768 s.freeNo 60).toNat

/-- ECMUL, ECADD and SIGN_S. -/
def bnCurve (s : State) (b : Bn) (op : Nat) : BnOut :=
  let k := bnVal b b.src0.toNat 12
  match op with
  | 0x10 =>
    let q := if b.gen then g384 else bnPoint b b.src1.toNat
    let refused := decide (k < 2 ∨ n384 ≤ k) || decide (p384 ≤ q.1 ∨ p384 ≤ q.2)
    { words := if refused then List.replicate 24 0 else pointWords s (onCurve q) (ecMulPt k q)
      marks := !b.gen && (bnMarked b b.src0.toNat 12 || bnMarked b b.src1.toNat 24), refused := refused }
  | 0x11 =>
    let q := bnPoint b b.src0.toNat
    let r := bnPoint b b.src1.toNat
    let refused := decide (p384 ≤ q.1 ∨ p384 ≤ q.2 ∨ p384 ≤ r.1 ∨ p384 ≤ r.2)
    { words := if refused then List.replicate 24 0 else pointWords s (onCurve q && onCurve r) (ecAddPt (some q) (some r))
      marks := bnMarked b b.src0.toNat 24 || bnMarked b b.src1.toNat 24, refused := refused }
  | _ =>
    let n := bnVal b b.modu.toNat 12
    let d := bnVal b (b.modu.toNat + 12) 12
    let r := bnVal b b.src1.toNat 12
    let ki := bnVal b b.src2.toNat 12
    let refused := decide (n ≤ k ∨ n ≤ r ∨ n ≤ ki ∨ n ≤ d ∨ r < 2 ∨ ki < 2)
    let v := ki * ((k + r * d) % n) % n
    { words := if refused then List.replicate 12 0 else bnOf 12 v, marks := false, refused := refused, flag := !refused && v == 0 }

/-- A polynomial from the SHA engine's sampler: coefficients below q that nothing else fixes. -/
def sampled (s : State) (kem : Bool) : List Nat :=
  (List.range 256).map (fun i => (Config.free 23 s.freeNo (1000 + i)).toNat % latQ kem)

/-- The lattice commands 0x20 to 0x2B. What the manual leaves to the reader of FIPS 203 and 204 without naming the operands (which of the two roundings REL_HIGH makes, the inputs of REL_HINT, the width of REL_COMP) is free. -/
def bnLattice (s : State) (b : Bn) (op : Nat) : BnOut :=
  let kem := b.q
  let q := latQ kem
  let n := bnWords 3 kem
  let two := decide (0x22 ≤ op ∧ op ≤ 0x26)
  let x := bnPoly b b.src0.toNat kem
  let y := if b.stream then sampled s kem else bnPoly b b.src1.toNat kem
  let z := bnPoly b b.dst.toNat kem
  let bad (l : List Nat) : Bool := l.any (fun c => decide (q ≤ c))
  let refused := bad x || (two && bad y) || (op == 0x23 && bad z)
  let freed := decide (0x28 ≤ op)
  let seed := two && b.stream && (Config.free 1 s.freeNo 61) == 1
  let marks := !freed && (bnMarked b b.src0.toNat n || (two && !b.stream && bnMarked b b.src1.toNat n) || seed || (op == 0x23 && bnMarked b b.dst.toNat n))
  let ps := x.zip y
  let big := x.any (fun c => decide (524288 - 120 ≤ min c (q - c)))
  let words : List W32 := match op with
    | 0x20 => polyWords (nttLayers kem (latDepth kem) 1 x) kem
    | 0x21 => polyWords (inttPoly kem x) kem
    | 0x22 => polyWords (ps.map (fun e => e.1 * e.2 % q)) kem
    | 0x23 => polyWords ((z.zip ps).map (fun e => (e.1 + e.2.1 * e.2.2) % q)) kem
    | 0x24 => polyWords (ps.map (fun e => (e.1 + e.2) % q)) kem
    | 0x25 => polyWords (ps.map (fun e => (e.1 + q - e.2) % q)) kem
    | 0x26 => polyWords (basemulPoly x y) kem
    | 0x28 => polyWords (if (Config.free 1 s.freeNo 62) = 1 then x.map power2High else x.map highBits) kem
    | 0x29 => if big then List.replicate n 0 else polyWords x kem
    | 0x2A => (List.range n).map (fun i => (Config.free 1 s.freeNo (2000 + i)).setWidth 32)
    | _ => bnOf n (Config.free (32 * 128) s.freeNo 63).toNat
  { words := if refused then List.replicate n 0 else words, marks := marks, refused := refused
    flag := !refused && ((op == 0x29 && big) || (op == 0x2A && (Config.free 1 s.freeNo 64) == 1)) }

/-- A call refused at once (R495): a size that is not legal, an operand out of place, an unfit modulus, a slot not permitted, a stopped DRBG. -/
def bnCallBad (s : State) (b : Bn) (op : Nat) : Bool :=
  let size := b.size.toNat
  let n := bnWords size b.q
  let align := if size = 3 then 128 else 2
  let fits (f : BitVec 11) (w : Nat) : Bool := bnFits f.toNat w align
  let m := bnVal b b.modu.toNat n
  let modOk (odd : Bool) : Bool := fits b.modu n && nbit m (32 * n - 1) && (!odd || m % 2 == 1)
  if (bnCycles op size b.q).isNone then true
  else match op with
    | 0x01 | 0x02 => !(fits b.dst n && fits b.src0 n && fits b.src1 n && modOk false)
    | 0x03 | 0x05 => !(fits b.dst n && fits b.src0 n && fits b.src1 n && modOk true)
    | 0x04 => !(fits b.dst n && fits b.src0 18 && modOk false)
    | 0x06 => !(fits b.dst n && fits b.src0 n && modOk true)
    | 0x07 => !(fits b.src0 n && fits b.modu n)
    | 0x08 => !(fits b.dst n) || !mayLoad b.owner.toNat b.src0.toNat || !caveAdmits s b.src0.toNat
    | 0x09 => !(fits b.dst n) || !s.rennet.drbgOn
    | 0x0A => !(fits b.src0 n) || !mayStore b.owner.toNat b.dst.toNat || !caveAdmits s b.dst.toNat
    | 0x10 => !(fits b.dst 24 && fits b.src0 12 && (b.gen || fits b.src1 24))
    | 0x11 => !(fits b.dst 24 && fits b.src0 24 && fits b.src1 24)
    | 0x12 => !(fits b.dst 12 && fits b.src0 12 && fits b.src1 12 && fits b.src2 12 && fits b.modu 24) || !modOk true
    | 0x22 | 0x23 | 0x24 | 0x25 | 0x26 => !(fits b.dst n && fits b.src0 n && (b.stream || fits b.src1 n))
    | _ => !(fits b.dst n && fits b.src0 n)

/-- The output of a command whose call is accepted. -/
def bnOutput (s : State) (b : Bn) (op : Nat) : BnOut :=
  let n := bnWords b.size.toNat b.q
  match op with
  | 0x08 =>
    let v := tget [] s.rennet.cave b.src0.toNat
    { words := bnOf n (leNat (padTo 64 v)), marks := true }
  | 0x09 => { words := bnOf n (leNat (padTo (4 * n) (Config.drbg s.rennet.drbgN (4 * n)))), marks := true }
  | 0x0A => { words := [], marks := false }
  | 0x10 | 0x11 | 0x12 => bnCurve s b op
  | _ => if op < 8 then bnModular b op n else bnLattice s b op

/-- GO with a command (R492, R495, R497): ignored while BUSY or WIPING; refused at once, or running until its two runs are compared. -/
def startBn (op : Nat) (a : BnArgs) (s : State) : State :=
  if s.bn.run.isSome || s.bn.wiping then s
  else
    let b := bnLatch s.bn op a
    if bnCallBad s b op then
      { s with bn := { b with result := 4, flag := false, cycles := 0, events := raiseEv b.events 1 } }
    else
      let n := bnWords b.size.toNat b.q
      let o := bnOutput s b op
      let run : BnRun :=
        { op := BitVec.ofNat 8 op, dst := b.dst.toNat, words := o.words, marks := o.marks, result := if o.refused then 1 else 0, flag := o.flag
          cycles := (bnCycles op b.size.toNat b.q).getD 0
          cave := if op = 0x0A then some (b.dst.toNat, padTo 64 (leBytes (4 * n) (bnVal b b.src0.toNat n))) else none
          zeroSrc := if op = 0x0A then some (b.src0.toNat, n) else none }
      let s1 := if op = 0x09 then drbgCount s 1 else s
      { s1 with bn := { b with run := some run } }.draw

/-! ### Endings (R490, R492, R496 to R499) -/

/-- Zeros in the destination of a command. -/
def bnZeroDst (s : State) (r : BnRun) : State :=
  let s1 := { s with bn := bnPut s.bn r.dst (List.replicate r.words.length 0) false }
  match r.cave with
  | some (slot, _) => { s1 with rennet.cave := tset s1.rennet.cave slot (List.replicate 64 0) }
  | none => s1

/-- The two runs of a command end and are compared (R492, R496). A second FAULT in a row ends the operation that needed it, with a report. -/
def bnDone (s : State) (differ : Bool) : State :=
  match s.bn.run with
  | none => s
  | some r =>
    if differ then
      let s1 := bnZeroDst s r
      let s2 := { s1 with
        bn.run := none, bn.result := 2, bn.flag := false, bn.faults := satInc s1.bn.faults, bn.events := raiseEv s1.bn.events 2
        bn.cycles := BitVec.ofNat 32 r.cycles, rennet.bnFaults := s1.rennet.bnFaults + 1 }
      if s.rennet.bnFaults % 2 = 1 then report s2 0x0609 (initId 1 0) 64 else s2
    else
      let b1 := bnPut s.bn r.dst r.words r.marks
      let b2 := match r.zeroSrc with | some (f, n) => bnPut b1 f (List.replicate n 0) false | none => b1
      let s1 := { s with bn := { b2 with
        run := none, result := r.result, flag := r.flag, cycles := BitVec.ofNat 32 r.cycles
        events := raiseEv b2.events (if r.result = 0 then 0 else 1) } }
      let s2 := match r.cave with | some (slot, v) => { s1 with rennet.cave := tset s1.rennet.cave slot v } | none => s1
      { s2 with rennet.bnFaults := 0 }

/-- An abort (R498). -/
def bnAbort (s : State) : State :=
  match s.bn.run with
  | none => s
  | some r =>
    let s1 := bnZeroDst s r
    { s1 with bn.run := none, bn.result := 3, bn.flag := false, bn.events := raiseEv s1.bn.events 3 }

/-- A write of BN_CTRL.OWNER (R490): another owner aborts and wipes. -/
def bnOwner (s : State) (o : BitVec 3) : State :=
  if o = s.bn.owner then s
  else
    let s1 := bnAbort s
    { s1 with bn.owner := o, bn.mem := [], bn.marks := [], bn.wiping := true }

/-- BN_OWNER_WRITE (R490). -/
def execBnOwnerWrite (owner : BitVec 3) (s : State) : Host.Outcome State Fault Refusal := ends s (bnOwner s owner)
/-- BN_WIPE_DONE (R490). -/
def execBnWipeDone (s : State) : Host.Outcome State Fault Refusal :=
  ends s (if s.bn.wiping then { s with bn.wiping := false, bn.mem := [], bn.marks := [], bn.events := raiseEv s.bn.events 4 } else s)
/-- BN_ABORT (R498). -/
def execBnAbort (s : State) : Host.Outcome State Fault Refusal := ends s (bnAbort s)
/-- BN_COMMAND_DONE (R492, R496). -/
def execBnCommandDone (differ : Bool) (s : State) : Host.Outcome State Fault Refusal := ends s (bnDone s differ)

/-! ### The commands (R493) -/

/-- MODADD. -/
def execModadd (a : BnArgs) (s : State) : Host.Outcome State Fault Refusal := ends s (startBn 0x01 a s)
/-- MODSUB. -/
def execModsub (a : BnArgs) (s : State) : Host.Outcome State Fault Refusal := ends s (startBn 0x02 a s)
/-- MODMUL. -/
def execModmul (a : BnArgs) (s : State) : Host.Outcome State Fault Refusal := ends s (startBn 0x03 a s)
/-- MODRED. -/
def execModred (a : BnArgs) (s : State) : Host.Outcome State Fault Refusal := ends s (startBn 0x04 a s)
/-- MODEXP. -/
def execModexp (a : BnArgs) (s : State) : Host.Outcome State Fault Refusal := ends s (startBn 0x05 a s)
/-- MODINV. -/
def execModinv (a : BnArgs) (s : State) : Host.Outcome State Fault Refusal := ends s (startBn 0x06 a s)
/-- CMPLT. -/
def execCmplt (a : BnArgs) (s : State) : Host.Outcome State Fault Refusal := ends s (startBn 0x07 a s)
/-- KEYLOAD. -/
def execKeyload (a : BnArgs) (s : State) : Host.Outcome State Fault Refusal := ends s (startBn 0x08 a s)
/-- RANDLOAD. -/
def execRandload (a : BnArgs) (s : State) : Host.Outcome State Fault Refusal := ends s (startBn 0x09 a s)
/-- KEYSTORE. -/
def execKeystore (a : BnArgs) (s : State) : Host.Outcome State Fault Refusal := ends s (startBn 0x0A a s)
/-- ECMUL. -/
def execEcmul (a : BnArgs) (s : State) : Host.Outcome State Fault Refusal := ends s (startBn 0x10 a s)
/-- ECADD. -/
def execEcadd (a : BnArgs) (s : State) : Host.Outcome State Fault Refusal := ends s (startBn 0x11 a s)
/-- SIGN_S. -/
def execSignS (a : BnArgs) (s : State) : Host.Outcome State Fault Refusal := ends s (startBn 0x12 a s)
/-- NTT. -/
def execNtt (a : BnArgs) (s : State) : Host.Outcome State Fault Refusal := ends s (startBn 0x20 a s)
/-- INTT. -/
def execIntt (a : BnArgs) (s : State) : Host.Outcome State Fault Refusal := ends s (startBn 0x21 a s)
/-- PMUL. -/
def execPmul (a : BnArgs) (s : State) : Host.Outcome State Fault Refusal := ends s (startBn 0x22 a s)
/-- PMAC. -/
def execPmac (a : BnArgs) (s : State) : Host.Outcome State Fault Refusal := ends s (startBn 0x23 a s)
/-- PADD. -/
def execPadd (a : BnArgs) (s : State) : Host.Outcome State Fault Refusal := ends s (startBn 0x24 a s)
/-- PSUB. -/
def execPsub (a : BnArgs) (s : State) : Host.Outcome State Fault Refusal := ends s (startBn 0x25 a s)
/-- BASEMUL. -/
def execBasemul (a : BnArgs) (s : State) : Host.Outcome State Fault Refusal := ends s (startBn 0x26 a s)
/-- REL_HIGH. -/
def execRelHigh (a : BnArgs) (s : State) : Host.Outcome State Fault Refusal := ends s (startBn 0x28 a s)
/-- REL_Z. -/
def execRelZ (a : BnArgs) (s : State) : Host.Outcome State Fault Refusal := ends s (startBn 0x29 a s)
/-- REL_HINT. -/
def execRelHint (a : BnArgs) (s : State) : Host.Outcome State Fault Refusal := ends s (startBn 0x2A a s)
/-- REL_COMP. -/
def execRelComp (a : BnArgs) (s : State) : Host.Outcome State Fault Refusal := ends s (startBn 0x2B a s)

end Sys2Proof.Machine
end

