-- ==== Sys2Proof/Machine/Registers.lean ====
section
/-! DEFINITION. The register window: what each register reads, what a write of it does, and who may reach it (R18 to R22, R438, R678 and the register tables). -/

namespace Sys2Proof.Machine

/-! ### Mailboxes (R423, R424) -/

/-- An event of a mailbox: 0 EMPTY, 1 TIMEOUT, 2 ARRIVED; with IRQ_EN it raises the vector. The management port announces an arrival by an in-band interrupt (R654). -/
def mbxEvent (s : State) (m bit : Nat) : State :=
  let s1 := s.modMbx m (fun x => { x with events := raiseEv x.events bit })
  if m < 64 then
    if (s.mbx m).irqEn then raiseVector s1 m (s.mbx m).vector.toNat else s1
  else if m = 65 ∧ bit = 2 ∧ s.ports.ibiEn ∧ s.ports.mgI3c then { s1 with ports.mbxIbi := true }
  else s1

/-- WITHDRAW: an outbound message not yet acknowledged goes, and no EMPTY is raised. -/
def mbxWithdraw (s : State) (m : Nat) : State :=
  s.modMbx m (fun x => { x with outFull := false, timeout := false, served := false, reply := none })

/-- Rennet's reply enters the inbound slot when it is free, and the message is acknowledged. -/
def mbxDeliver (s : State) (m : Nat) : State :=
  match (s.mbx m).reply with
  | some ws =>
    if (s.mbx m).inValid then s
    else
      let s1 := s.modMbx m (fun x => { x with inn := ws, inValid := true, inSender := initId 1 0, reply := none, outFull := false, timeout := false, served := false })
      mbxEvent (mbxEvent s1 m 0) m 2
  | none => s

/-- The codes of the messages that Rennet knows (R478, R519, R536, R597). -/
def mailCodes : List Nat :=
  [0x0001, 0x0002, 0x0010, 0x0011, 0x0012, 0x0013, 0x0014, 0x0020, 0x0021, 0x0030, 0x0031, 0x0100, 0x0101, 0x0102, 0x0103, 0x0201, 0x0210, 0x0211, 0x0212, 0x0230]

/-- The code of a queued message: bits [15:0] of its first word (R478). -/
def mailCode (s : State) (m : Nat) : Nat := ((s.mbx m).out.headD 0).toNat % 65536

/-- Whether Rennet serves messages: powered, running, and past step 13 of its start-up (R423, R464). -/
def rennetServes (s : State) : Bool := s.crp.rnt.on && !s.rennet.halted && !s.rennet.stopped && decide (13 ≤ s.rennet.step)

/-- A reply made ready (R478): word 0 echoes CODE and SEQ, word 1 holds the status, and results follow. -/
def mailReply (s : State) (m : Nat) (status : W16) (results : List W32) : State :=
  let w0 := (s.mbx m).out.headD 0 &&& 0x00FFFFFF
  let ws := (w0 :: status.setWidth 32 :: results ++ List.replicate 6 0).take 8
  mbxDeliver (s.modMbx m (fun x => { x with reply := some ws, served := true })) m

/-- A message of an unknown code is refused with FORMAT_REFUSED once Rennet serves it (R478). -/
def refuseUnknown (s : State) (m : Nat) : State :=
  if (s.mbx m).outFull && !(s.mbx m).served && rennetServes s && !mailCodes.contains (mailCode s m) then mailReply s m stFormat [] else s

/-- SEND: the outbound words are queued for Rennet with the writer's ID. -/
def mbxSend (s : State) (m : Nat) (init : W16) : State :=
  if (s.mbx m).outFull then s
  else refuseUnknown (s.modMbx m (fun x => { x with outFull := true, outSender := init, sentAt := s.ts, timeout := false, served := false, reply := none })) m

/-- A message served: when the mailbox holds one with the code that Rennet has not served, its words after the first are handed to the body, which answers with a state, a status and results; a reset that the body causes leaves nothing to answer. -/
def mailServe (s : State) (m code : Nat) (body : State → List W32 → State × W16 × List W32) : State :=
  if (s.mbx m).outFull && !(s.mbx m).served && rennetServes s && mailCode s m == code then
    let r := body { s with rennet.wdogAt := s.ts } ((s.mbx m).out.drop 1)
    if (r.1.mbx m).outFull then mailReply r.1 m r.2.1 r.2.2 else r.1
  else s

/-- ACK: the inbound message is drained. -/
def mbxAck (s : State) (m : Nat) : State :=
  if (s.mbx m).inValid then mbxDeliver (s.modMbx m (fun x => { x with inValid := false })) m else s

/-- The initiator that owns a mailbox: host partition `m`, the array controller, or the management port (R655, R679). -/
def mbxOwner (m : Nat) : W16 := if m < 64 then initId 0 m else if m = 64 then initId 2 0 else 0xFFFF

/-- MBX_DOORBELL_SEND (R424). -/
def execMbxDoorbellSend (m : MbxId) (s : State) : Host.Outcome State Fault Refusal := ends s (mbxSend s m.val (mbxOwner m.val))
/-- MBX_DOORBELL_WITHDRAW (R424). -/
def execMbxDoorbellWithdraw (m : MbxId) (s : State) : Host.Outcome State Fault Refusal :=
  ends s (if (s.mbx m.val).outFull then mbxWithdraw s m.val else s)
/-- MBX_DOORBELL_ACK (R424). -/
def execMbxDoorbellAck (m : MbxId) (s : State) : Host.Outcome State Fault Refusal := ends s (mbxAck s m.val)
/-- MBX_TIMEOUT_EXPIRE (R424): the message stays queued. -/
def execMbxTimeoutExpire (m : MbxId) (now : W64) (s : State) : Host.Outcome State Fault Refusal :=
  endsAt s now (fun s =>
    let x := s.mbx m.val
    if x.outFull ∧ !x.timeout ∧ x.sentAt.toNat + x.limit.toNat * 1000 ≤ s.ts.toNat then
      mbxEvent (s.modMbx m.val (fun x => { x with timeout := true })) m.val 1
    else s)

/-! ### Rings of the partition page (R383 to R385, R389, R392) -/

/-- Whether a partition has packets that the array controller has not read. -/
def hasPackets (s : State) (p : Nat) : Bool := (s.part p).rings.any (fun e => e.2.size != 0 && e.2.head != e.2.tail)
/-- A partition that had no packets waiting resumes at packet intake with the lowest virtual time of those that have (R445). -/
def resumeIntake (s : State) (p : Nat) : State :=
  match (s.parts.map (·.1)).filter (hasPackets s) with
  | [] => s
  | q :: rest =>
    if hasPackets s p then s
    else s.modPart p (fun k => { k with btVirt := rest.foldl (fun m r => min m (s.part r).btVirt) (s.part q).btVirt })

/-- The doorbell (R385, R400): ignored with RING_ERR when the tail is not legal; rings 1 to 3 only while ATTACHED. -/
def doorbell (s : State) (p ring : Nat) (tail : W16) : State :=
  let pt := s.part p
  let g : Ring := tget {} pt.rings ring
  if pt.session ≠ .attached ∧ ring ≠ 0 then s
  else if g.size = 0 ∨ pt.cqSize = 0 ∨ 2 ^ g.size.toNat < (tail - g.head).toNat ∨ (tail - g.head).toNat < (g.tail - g.head).toNat then partEvent s p 0
  else (resumeIntake s p).modPart p (fun q => { q with rings := tset q.rings ring { g with tail := tail } })

/-- A write of the completion head (R389): one that would pass the tail is ignored with RING_ERR; held completions follow (R390). -/
def cqHead (s : State) (p : Nat) (h : W16) : State :=
  let pt := s.part p
  if (pt.cqTail - pt.cqHead).toNat < (h - pt.cqHead).toNat then partEvent s p 0
  else writeHeld (s.modPart p (fun q => { q with cqHead := h })) p

/-- A write of the heartbeat refreshes it (R402). -/
def heartbeat (s : State) (p : Nat) (v : W32) : State := s.modPart p (fun q => { q with heartbeat := v, hbTs := s.ts })

/-- A remap entry written; clearing MASK sends a pending vector at once, unless the partition is RESETTING or its session DETACHED (R443). -/
def remapWrite (s : State) (p v : Nat) (e : W32) : State :=
  let s1 := s.modPart p (fun q => { q with remap := tset q.remap v (e &&& 0x1FFFF) })
  let pt := s.part p
  if !e.getLsbD 16 && pt.pend.getLsbD v && pt.state != .resetting && pt.session != .detached then
    sendVector (s1.modPart p (fun q => { q with pend := q.pend &&& ~~~(BitVec.ofNat 256 (2 ^ v)) })) p v
  else s1

/-- PART_DOORBELL (R384). -/
def execPartDoorbell (p : PartId) (ring : Fin 4) (tail : W16) (s : State) : Host.Outcome State Fault Refusal := ends s (doorbell s p ring tail)
/-- PART_CQ_HEAD (R389). -/
def execPartCqHead (p : PartId) (head : W16) (s : State) : Host.Outcome State Fault Refusal := ends s (cqHead s p head)
/-- PART_HEARTBEAT (R402). -/
def execPartHeartbeat (p : PartId) (value : W32) (now : W64) (s : State) : Host.Outcome State Fault Refusal :=
  endsAt s now (fun s => heartbeat s p value)
/-- PART_REMAP (R443). -/
def execPartRemap (p : PartId) (vector : Fin 256) (entry : W32) (s : State) : Host.Outcome State Fault Refusal := ends s (remapWrite s p vector entry)

/-! ### The window (R678) -/

/-- The groups of the register window: each with its index where the group repeats, and the offset within it. -/
inductive RegGroup where
  | ids | ports | crp | pwr | cad | rel | rind | fab | mem | seal | flash | spr
  | mbx (p : Nat) | rnt | stream (n : Nat) | core (c : Nat) | page (p : Nat) | bn | dbg | none
  deriving DecidableEq, Repr

/-- The group of an offset; offsets of no row and core blocks that the configuration lacks are unassigned (R20, R678). -/
def regGroup (s : State) (o : Nat) : RegGroup × Nat :=
  let blk := o / 0x10000
  let off := o % 0x10000
  if 0x2001 * 0x10000 ≤ o ∧ o < 0x2002 * 0x10000 then (.bn, off)
  else if blk = 0 then (if off < 0x100 then (.ids, off) else if off < 0x200 then (.ports, off) else (.none, off))
  else if blk = 1 then (.crp, off)
  else if blk = 2 then (.pwr, off)
  else if blk = 3 then (.cad, off)
  else if blk = 4 then (if 0x100 ≤ off ∧ off < 0x200 then (.rind, off) else (.rel, off))
  else if blk = 5 then (.fab, off)
  else if blk = 6 then (if 0x2000 ≤ off then (.seal, off) else (.mem, off))
  else if blk = 7 then (.flash, off)
  else if blk = 8 then (.spr, off)
  else if blk = 9 then (if off < 0x2000 then (.mbx (off / 0x80), off % 0x80) else (.rnt, off))
  else if blk = 10 then (if off < 0x300 then (.stream (off / 0x20), off % 0x20) else (.none, off))
  else if 16 ≤ blk ∧ blk < 16 + s.ncores then (.core (blk - 16), off)
  else if 0x80 ≤ blk ∧ blk < 0xC0 then (.page (blk - 0x80), off)
  else if 0x100 ≤ blk ∧ blk < 0x400 then (.dbg, o - 0x1000000)
  else (.none, off)

/-- Whether partition `p` may read a group (R438). -/
def hostReads (s : State) (p : Nat) : RegGroup → Bool
  | .mbx q | .page q => q == p
  | .stream n => (s.stream n).owned && (s.stream n).owner.toNat == p
  | .core c => (coresOf s p).contains c
  | .bn | .dbg => false
  | _ => true

/-- Whether partition `p` may write an offset of a group (R438). -/
def hostWrites (s : State) (p : Nat) (g : RegGroup) (off : Nat) : Bool :=
  match g with
  | .mbx q | .page q => q == p
  | .ids => off == 0x24 && hasRight s p 0
  | .ports => off == 0x100 && hasRight s p 0
  | .crp => off == 0 && hasRight s p 0
  | .rnt => off == 0x2020 && hasRight s p 0
  | .cad => hasRight s p 1
  | .pwr => hasRight s p 4
  | .fab => hasRight s p 3
  | .core c => off == 4 && (coresOf s p).contains c && !sharedCore s c
  | .none => true
  | _ => false

/-! ### What registers read -/

/-- Word `i` of a wide value. -/
def wordOf (v i : Nat) : W32 := BitVec.ofNat 32 (v / 2 ^ (32 * i))
/-- Bits of a predicate over 32 numbers from a base. -/
def bitsOf (base : Nat) (f : Nat → Bool) : W32 := BitVec.ofNat 32 ((List.range 32).foldl (fun a i => a + b2n (f (base + i)) * 2 ^ i) 0)

/-- Spare erase blocks: those that hold nothing and are not retired (R295). -/
def spareBlocks (s : State) : List Nat :=
  (List.range s.press.nblocks).filter (fun i => let b : EBlock := tget {} s.press.eblocks i
                                               b.free && !b.retired)

/-- The identity registers (R528). -/
def readIds (s : State) (o : Nat) : W32 :=
  let t := s.otp
  if o < 0x10 then wordOf t.serial.toNat (o / 4)
  else match o with
  | 0x10 => BitVec.ofNat 32 (t.lc.toNat + b2n t.degraded * 8 + b2n t.pendingLc * 16 + t.full.toNat * 256 + t.part.toNat * 4096)
  | 0x14 => t.bootCtr
  | 0x18 => BitVec.ofNat 32 (t.marginal.toNat + b2n t.supplyOk * 2 ^ 12 + b2n t.busy * 2 ^ 13 + (t.locked.toNat % 64) * 2 ^ 16 + (t.locked.toNat / 64) * 2 ^ 22 + t.revoked.toNat * 2 ^ 25)
  | 0x1C => s.rennet.debugRights.setWidth 32
  | 0x20 => s.rennet.debugLimit
  | 0x24 => evWord t.events
  | _ => 0

/-- The port group (R660). -/
def readPorts (s : State) (o : Nat) : W32 :=
  let t := s.ports
  match o with
  | 0x100 => evWord t.events
  | 0x104 => t.hostPar
  | 0x108 => t.hostRefused
  | 0x10C => t.memRetry
  | 0x110 => t.memErr
  | 0x114 => t.memErrAddr.setWidth 32
  | 0x118 => t.errLatch.setWidth 32
  | 0x11C => BitVec.ofNat 32 (s.chip.strapPmb.toNat + s.chip.strapMg.toNat * 2 ^ 8 + t.mgDaddr.toNat * 2 ^ 16 + b2n t.mgI3c * 2 ^ 23)
  | 0x120 => t.badId
  | _ => 0

/-- The clock, reset and power block (R676). -/
def readCrp (s : State) (o : Nat) : W32 :=
  let c := s.crp
  let corePlls := (poweredCores s).all (fun i => (s.core i).pllLock && (s.core i).pllLock2)
  match o with
  | 0x04 => BitVec.ofNat 32 (c.cause.toNat + c.count.toNat * 2 ^ 16)
  | 0x08 => BitVec.ofNat 32 (b2n c.pllTs + b2n c.pllAon * 2 + b2n c.pllIo * 4 + b2n c.pllNet0 * 8 + b2n c.pllNet1 * 16 + b2n (corePlls && poweredCores s != []) * 32)
  | 0x0C => evWord c.events
  | 0x10 => BitVec.ofNat 32 (b2n c.rnt.on + b2n c.spr.on * 2 + b2n c.str.on * 4 + b2n c.ctl.on * 8 + b2n c.net.on * 16 + b2n c.flc.on * 32)
  | 0x14 => bitsOf 0 (fun i => (s.core i).on)
  | 0x18 => bitsOf 32 (fun i => (s.core i).on)
  | 0x1C => bitsOf 0 (fun i => (s.core i).ret)
  | 0x20 => bitsOf 32 (fun i => (s.core i).ret)
  | 0x24 => c.pdLast.setWidth 32
  | _ => 0

/-- The power and thermal block (R623). -/
def readPwr (s : State) (o : Nat) : W32 :=
  let w := s.pwr
  if 0x100 ≤ o ∧ o < 0x100 + 4 * s.ncores then
    let k := s.core ((o - 0x100) / 4)
    BitVec.ofNat 32 (k.op.toNat + k.pref.toNat * 8 + k.phase.toNat * 64 + b2n k.stretch * 256 + k.tj.toNat * 2 ^ 16)
  else if 0x200 ≤ o ∧ o < 0x260 then
    let r := (o - 0x200) / 16
    if o % 16 = 0 then (tget (0 : W64) w.thrDur r).setWidth 32
    else if o % 16 = 4 then tget 0 w.durLatch r
    else if o % 16 = 8 then (tget (0 : W64) w.thrLast r).setWidth 32
    else tget 0 w.lastLatch r
  else if 0x300 ≤ o ∧ o < 0x400 then (s.part ((o - 0x300) / 4)).prefs &&& 0x7777
  else match o with
  | 0x00 => w.cap
  | 0x04 => w.throttle.setWidth 32
  | 0x08 => w.droopMv.setWidth 32
  | 0x0C => BitVec.ofNat 32 (w.coreStep.toNat + w.instStep.toNat * 16)
  | 0x10 => w.iccMax.setWidth 32
  | 0x14 => w.spread.setWidth 32
  | 0x18 => w.slew.setWidth 32
  | 0x1C => BitVec.ofNat 32 (w.regAddr.toNat + w.ackWait.toNat * 256)
  | 0x20 => BitVec.ofNat 32 (w.railOp.toNat + b2n w.pending.isSome * 8 + b2n w.fallback * 16 + b2n w.trip * 32 + w.railMv.toNat * 2 ^ 16)
  | 0x24 => evWord w.events
  | 0x28 => w.est
  | 0x2C => w.meas
  | 0x30 => w.gain.setWidth 32
  | 0x34 => w.trips
  | 0x80 => w.rampWait
  | _ => 0

/-- The cadence block (R242). -/
def readCad (s : State) (o : Nat) : W32 :=
  let c := s.cad
  if 0x40 ≤ o ∧ o < 0x58 then tget 0 c.phyLat ((o - 0x40) / 4)
  else if 0x100 ≤ o ∧ o < 0x900 then
    let p := (o - 0x100) / 0x20
    match o % 0x20 with
    | 0x00 => tget 0 c.pSkip p
    | 0x04 => tget 0 c.pLate p
    | 0x08 => tget 0 c.pFallback p
    | 0x0C => tget 0 c.pOverrun p
    | 0x10 => tget 0 c.pStale p
    | _ => 0
  else match o with
  | 0x00 => cadCtrl c
  | 0x04 => BitVec.ofNat 32 (b2n (decide (c.period ≠ 0) && !c.lost) + b2n c.lost * 2 + b2n c.freewheel * 4 + b2n c.synced * 8)
  | 0x08 => evWord c.events
  | 0x0C => c.period
  | 0x10 => wordOf (extTime s) 0
  | 0x14 => c.extLatch
  | 0x18 => s.ts.setWidth 32
  | 0x1C => c.tsLatch
  | 0x20 => c.beatTs.setWidth 32
  | 0x24 => c.beatLatch
  | 0x28 => c.encDiv.setWidth 32
  | 0x2C => c.srcDev.setWidth 32
  | 0x30 => BitVec.ofNat 32 (c.interval.toNat + b2n c.syncEn * 256)
  | 0x34 => c.offset
  | _ => 0

/-- Whether an engine is fenced. -/
def isFenced (s : State) (i : Nat) : Bool := (s.engine (i / 8) (i % 8)).state == .fenced

/-- REL_STATUS (R599). -/
def relStatus (s : State) : W32 :=
  BitVec.ofNat 32 (((List.range (8 * s.ncores)).filter (isFenced s)).length
    + ((List.range s.ncores).filter (fun c => (s.core c).fenced)).length * 2 ^ 10 + b2n s.rel.probe.isSome * 2 ^ 17 + b2n s.rel.alert * 2 ^ 18)

/-- The reliability block (R599). -/
def readRel (s : State) (o : Nat) : W32 :=
  let r := s.rel
  if 0x80 ≤ o ∧ o < 0xC0 then bitsOf ((o - 0x80) * 8) (isFenced s)
  else if 0x1000 ≤ o ∧ o < 0x1400 then
    match tfind r.window ((o - 0x1000) / 64) with
    | some rep => BitVec.ofNat 32 (field (reportBytes rep) (o % 64) 4)
    | none => 0
  else match o with
  | 0x00 => BitVec.ofNat 32 (b2n r.sampleEn + b2n r.autoFence * 2 + r.interval.toNat * 256 + r.forceWait.toNat * 2 ^ 16)
  | 0x04 => relStatus s
  | 0x08 => evWord r.events
  | 0x0C => r.corrLimit.setWidth 32
  | 0x10 => r.resTrans
  | 0x14 => r.resPerm
  | 0x18 => r.samples
  | 0x1C => r.skips
  | 0x20 => r.forced
  | 0x24 => r.sTrans
  | 0x28 => r.sPerm
  | 0x2C => r.eccCorr
  | 0x30 => r.eccUncorr
  | 0x34 => r.parity
  | 0x38 => r.expelled
  | 0x3C => r.reportSeq
  | 0x40 => r.reportsLost
  | 0xC0 => bitsOf 0 (fun c => (s.core c).fenced)
  | 0xC4 => bitsOf 32 (fun c => (s.core c).fenced)
  | _ => 0

/-- The number of Rind segments OPENED. -/
def openSegs (s : State) : Nat := (s.rel.segs.filter (fun e => e.2.opened)).length

/-- The Rind status group (R600). -/
def readRind (s : State) (o : Nat) : W32 :=
  let r := s.rel
  match o with
  | 0x100 => BitVec.ofNat 32 (b2n r.rindReady + b2n r.rindFull * 2 + b2n r.compacting * 4 + b2n r.unsigned_ * 8 + openSegs s * 256)
  | 0x104 => r.headSeq
  | 0x108 => r.oldestSeq
  | 0x10C => r.group
  | 0x110 => r.rindDropped
  | _ => 0

/-- The code of a port state (R379). -/
def linkCode : LinkState → Nat
  | .off => 0 | .detect => 1 | .training => 2 | .up => 3 | .lp => 4 | .sleep => 5 | .down => 6

/-- The fabric block (R378 to R380). -/
def readFab (s : State) (o : Nat) : W32 :=
  let f := s.fab
  if 0x100 ≤ o ∧ o < 0x1C0 then
    let p := s.port ((o - 0x100) / 0x20)
    match o % 0x20 with
    | 0x00 => BitVec.ofNat 32 (b2n p.en + p.rateMax.toNat * 2 + p.lanesMax.toNat * 8)
    | 0x04 => BitVec.ofNat 32 (linkCode p.state + p.lanes.toNat * 8 + p.rate.toNat * 32 + b2n p.uplink * 128 + p.neigh.toNat * 256 + p.neighPort.toNat * 2 ^ 18)
    | 0x08 => p.crc
    | 0x0C => p.replay
    | 0x10 => p.retrains
    | 0x14 => p.txFlits
    | 0x18 => p.rxFlits
    | _ => 0
  else if 0x1000 ≤ o ∧ o < 0x2000 then
    let r : Route := tget {} f.routes ((o - 0x1000) / 4)
    BitVec.ofNat 32 (r.port.toNat + r.alt.toNat * 8 + r.hops.toNat * 64 + b2n r.valid * 2 ^ 11 + b2n r.sleep * 2 ^ 12)
  else if 0x2000 ≤ o ∧ o < 0x2400 then
    let b : Barrier := tget {} f.bars ((o - 0x2000) / 16)
    match o % 16 with
    | 0x0 => BitVec.ofNat 32 (b.id.toNat + b2n b.valid * 2 ^ 16 + b.coord.toNat * 2 ^ 17)
    | 0x4 => b.gen
    | 0x8 => b.wait
    | _ => BitVec.ofNat 32 (b.slowest.toNat + b.spread.toNat * 2 ^ 16)
  else match o with
  | 0x00 => BitVec.ofNat 32 (b2n f.en + b2n f.idFixed * 2 + f.fixedId.toNat * 4 + b2n f.paceEn * 2 ^ 12 + b2n f.lock * 2 ^ 13)
  | 0x04 => BitVec.ofNat 32 (f.id.toNat + f.idState.toNat * 2 ^ 10 + b2n f.isRoot * 2 ^ 12 + b2n f.freeze * 2 ^ 13)
  | 0x08 => BitVec.ofNat 32 (f.rootId.toNat + f.depth.toNat * 2 ^ 10 + (if f.en then (nodes s).length else 0) * 2 ^ 16)
  | 0x0C => evWord f.events
  | 0x10 => BitVec.ofNat 32 (f.ackTimeout.toNat + f.resendMax.toNat * 2 ^ 16)
  | 0x14 => BitVec.ofNat 32 (f.reportDev.toNat + b2n f.useRoot * 2 ^ 10)
  | _ => 0

/-- The memory tiers block (R299). -/
def readMem (s : State) (o : Nat) : W32 :=
  let m := s.mem
  if 0x100 ≤ o ∧ o < 0x1100 then
    let p := (o - 0x100) / 0x40
    match o % 0x40 with
    | 0x04 => tget 0 m.pFetch p
    | 0x08 => tget 0 m.pWb p
    | 0x0C => tget 0 m.pEvict p
    | 0x10 => tget 0 m.pCadMiss p
    | 0x14 => BitVec.ofNat 32 ((resT1 s p).length % 65536 + (resT2 s p).length * 65536)
    | 0x18 => BitVec.ofNat 32 ((s.map p).filter (fun e => e.2.pin)).length
    | 0x1C => (tget (0 : BitVec 18) m.apBase p).setWidth 32
    | _ => 0
  else match o with
  | 0x00 => m.t3BaseLo
  | 0x04 => m.t3BaseHi.setWidth 32
  | 0x08 => m.t3Size
  | 0x0C => BitVec.ofNat 32 (b2n m.lock)
  | 0x10 => BitVec.ofNat 32 (b2n m.t3Ready + b2n m.t4Ready * 2 + min m.queue.length 256 * 4)
  | 0x14 => evWord m.events
  | 0x18 => BitVec.ofNat 32 (m.low.toNat + m.high.toNat * 256)
  | 0x1C => m.btcMiss
  | 0x20 => m.t3Avail
  | _ => 0

/-- The sealing group (R561). -/
def readSeal (s : State) (o : Nat) : W32 :=
  let m := s.mem
  if 0x2100 ≤ o ∧ o < 0x2204 then tget 0 m.gen ((o - 0x2100) / 4)
  else if 0x2400 ≤ o ∧ o < 0x27FC then
    let l := s.lic ((o - 0x2400) / 4)
    BitVec.ofNat 32 (b2n l.valid + l.part * 2)
  else match o with
  | 0x2000 => BitVec.ofNat 32 (b2n m.zeroOnFree)
  | 0x2004 => BitVec.ofNat 32 (b2n m.liveKey + b2n m.rawKey * 2 + m.roots.length * 4)
  | 0x2008 => evWord m.sealEvents
  | 0x200C => m.liveFails
  | 0x2010 => m.sealedFails
  | 0x2014 => m.reenc
  | 0x2018 => m.ccMiss
  | _ => 0

/-- The flash block (R300). -/
def readFlash (s : State) (o : Nat) : W32 :=
  let p := s.press
  let erases := (List.range p.nblocks).map (fun i => (tget ({} : EBlock) p.eblocks i).erases)
  match o with
  | 0x00 => BitVec.ofNat 32 (p.channels.toNat + p.rate.toNat * 32 + p.ce.toNat * 128 + b2n p.lun2 * 1024)
  | 0x04 => BitVec.ofNat 32 (b2n p.ready + b2n p.recovering * 2 + b2n p.unclean * 4 + b2n p.readOnly * 8 + b2n p.lowSpare * 16)
  | 0x08 => evWord p.events
  | 0x0C => p.rdLimit
  | 0x10 => p.rdLossAdd
  | 0x14 => p.days.setWidth 32
  | 0x18 => p.wearSpread.setWidth 32
  | 0x1C => p.refreshBits.setWidth 32
  | 0x20 => p.reads.setWidth 32
  | 0x24 => p.readsLatch
  | 0x28 => p.refreshes
  | 0x2C => p.retries
  | 0x30 => p.uncorr
  | 0x34 => if p.ready then BitVec.ofNat 32 (spareBlocks s).length else 0
  | 0x38 => if p.ready then BitVec.ofNat 32 (min 65535 (erases.foldl min (erases.headD 0)) + min 65535 (erases.foldl max 0) * 2 ^ 16) else 0
  | _ => 0

/-- The code of a power state in SPR_STATUS; W, S and O read 3 (R335). -/
def pstateCode : PState → Nat
  | .a => 0 | .i => 1 | .t => 2 | .w | .s | .o => 3

/-- What is left of the always-on timer, in ms (R335). -/
def aonLeft (s : State) : Nat := s.spr.aonTimer.toNat - (s.ts.toNat - s.spr.aonTs.toNat) / 1000000

/-- SPR_STATUS (R335). -/
def sprStatus (s : State) : W32 :=
  BitVec.ofNat 32 (pstateCode s.spr.pstate + topRung s * 8 + s.spr.target.toNat * 32 + b2n (isRising s) * 128 + b2n (isFalling s) * 256
    + s.spr.source.toNat * 512 + s.spr.pc.toNat * 2 ^ 11 + b2n s.spr.wakeOut * 2 ^ 17)

/-- The Sprout block (R335). -/
def readSpr (s : State) (o : Nat) : W32 :=
  let r := s.spr
  match o with
  | 0x00 => BitVec.ofNat 32 (b2n r.watchEn + b2n r.autoI * 2 + b2n r.autoT * 4 + b2n r.autoDemote * 8 + r.maxRung.toNat * 16)
  | 0x04 => sprStatus s
  | 0x08 => evWord r.events
  | 0x0C => r.wakeEn.setWidth 32
  | 0x10 => BitVec.ofNat 32 (r.wakeCause.toNat + r.first.toNat * 256)
  | 0x14 => r.period
  | 0x18 => r.onTime
  | 0x1C => r.demoteIdle.setWidth 32
  | 0x20 => r.idleT.setWidth 32
  | 0x24 => r.group.setWidth 32
  | 0x28 => r.wakeHold.setWidth 32
  | 0x2C => BitVec.ofNat 32 (aonLeft s)
  | 0x30 => r.hitTs.setWidth 32
  | 0x34 => r.hitTsLatch
  | 0x38 => r.hitExt.setWidth 32
  | 0x3C => r.hitExtLatch
  | 0x40 => r.hitScore
  | 0x44 => BitVec.ofNat 32 (r.hitPacket.toNat + r.hitStream.toNat * 256 + r.hitRung.toNat * 2 ^ 16)
  | 0x48 => r.hitTapCnt
  | 0x50 => r.windows
  | 0x54 => r.hits
  | 0x58 => r.promotions
  | 0x5C => r.demotions
  | _ => 0

/-- A mailbox (R423). -/
def readMbx (s : State) (m o : Nat) : W32 :=
  let x := s.mbx m
  if o < 0x20 then x.out.getD (o / 4) 0
  else if o < 0x40 then x.inn.getD ((o - 0x20) / 4) 0
  else match o with
  | 0x44 => BitVec.ofNat 32 (b2n x.outFull + b2n x.inValid * 2 + b2n x.timeout * 4 + x.inSender.toNat * 2 ^ 16)
  | 0x48 => evWord x.events
  | 0x4C => BitVec.ofNat 32 (x.vector.toNat + b2n x.irqEn * 256)
  | 0x50 => x.limit.setWidth 32
  | _ => 0

/-- The code of a boot state (R487). -/
def bootCode : BootState → Nat
  | .booting => 0 | .verified => 1 | .degraded => 2 | .noImage => 3 | .recovery => 4

/-- RNT_BOOT_STATUS (R487). -/
def bootStatus (s : State) : W32 :=
  let r := s.rennet
  BitVec.ofNat 32 (bootCode r.boot + b2n r.updatePending * 8 + b2n r.svnPending * 16 + b2n r.caveLocked * 32 + b2n r.entropyFail * 64
    + r.cause.toNat * 256 + r.noimg.toNat * 2 ^ 16)

/-- Rennet's status group (R487). -/
def readRnt (s : State) (o : Nat) : W32 :=
  let r := s.rennet
  match o with
  | 0x2000 => bootStatus s
  | 0x2004 => BitVec.ofNat 32 (r.svnImage.toNat + r.svnOtp.toNat * 256 + r.keySlot.toNat * 2 ^ 16)
  | 0x2008 => BitVec.ofNat 32 (r.consec.toNat + r.total.toNat * 2 ^ 16)
  | 0x200C => r.handover
  | 0x2010 => r.brine.setWidth 32
  | 0x2014 => r.version.setWidth 32
  | 0x2018 => r.versionLatch
  | 0x2020 => evWord r.events
  | _ => 0

/-- A stream's group (R243). -/
def readStream (s : State) (n o : Nat) : W32 :=
  let t := s.stream n
  match o with
  | 0x00 => BitVec.ofNat 32 (b2n t.owned + b2n t.tap * 2 + b2n t.pinned.isSome * 4 + t.owner.toNat * 256 + (t.newest.getD 0) * 2 ^ 16)
  | 0x04 => evWord t.events
  | 0x08 => t.frames
  | 0x0C => t.dropped
  | 0x10 => t.seq
  | _ => 0

/-- The code of an engine state (R156). -/
def engCode : EngState → Nat
  | .off => 0 | .idle => 1 | .busy => 2 | .hold => 3 | .fencing => 4 | .fenced => 5

/-- An engine's group (R156 to R158); in a core that is off, the reset values with STATE OFF (R155). -/
def readEngine (on : Bool) (e0 : Engine) (o : Nat) : W32 :=
  let e : Engine := if on then e0 else { state := .off }
  match o with
  | 0x00 => BitVec.ofNat 32 (engCode e.state + e.queue.length * 256 + e.ptag.toNat * 2 ^ 16 + e.ctx.toNat * 2 ^ 22)
  | 0x04 => evWord e.events
  | 0x08 => e.tiles.setWidth 32
  | 0x0C => wordOf e.tiles.toNat 1
  | 0x10 => e.waits
  | 0x18 => e.digest.setWidth 32
  | 0x1C => wordOf e.digest.toNat 1
  | _ => 0

/-- TILE_MODE of a core (R201). -/
def tileMode (s : State) (c : Nat) : Bool :=
  if 16 ≤ s.ncores then true
  else if s.ncores = 8 then (match (holders s c).head? with | some p => (s.part p).tileMode | none => false)
  else false

/-- Whether the tile mover works: on a task of its own, on the operands of a running tile, or on the fetches of a queued task (R183, R201). -/
def moverBusy (k : Core) : Bool :=
  k.tmRun.isSome || k.tmQueue != [] ||
  k.engines.any (fun e => (match e.2.run with | some r => !r.ready | none => false) || e.2.queue.any (fun x => (tget ({} : Ctx) k.ctxs x).fetched))

/-- A core block: sequencer, engines and tile mover (R156 to R158, R197 to R201). -/
def readCore (s : State) (c o : Nat) : W32 :=
  let k0 := s.core c
  let k : Core := if k0.on then k0 else {}
  if 0x400 ≤ o ∧ o < 0x500 then readEngine k0.on (tget {} k0.engines ((o - 0x400) / 0x20)) (o % 0x20)
  else match o with
  | 0x00 => BitVec.ofNat 32 ((if !k0.on then 0 else if k0.fenced then 2 else 1)
      + ((k.ctxs.filter (fun e => e.2.state != .free)).length) * 16 + ((k.ctxs.filter (fun e => e.2.state == .ready)).length) * 2 ^ 16)
  | 0x04 => k.qlimit.setWidth 32
  | 0x08 => evWord k.events
  | 0x0C => k.sigSent
  | 0x10 => k.sigRecv
  | 0x14 => k.redisp
  | 0x18 => k.doneCnt
  | 0x500 => BitVec.ofNat 32 (b2n (moverBusy k) + b2n (tileMode s c) * 2 + k.tmQueue.length * 4)
  | 0x504 => BitVec.ofNat 32 (min (k.bytesIn / 1024) 0xFFFFFFFF)
  | 0x508 => BitVec.ofNat 32 (min (k.bytesOut / 1024) 0xFFFFFFFF)
  | 0x50C => k.decompErr
  | _ => 0

/-- A partition page with its configuration view and remap table (R392, R453). -/
def readPage (s : State) (p o : Nat) : W32 :=
  let t := s.part p
  if 0x20 ≤ o ∧ o < 0x60 then
    let g : Ring := tget {} t.rings ((o - 0x20) / 16)
    match o % 16 with
    | 0x0 => g.baseLo
    | 0x4 => g.baseHi.setWidth 32
    | 0x8 => g.size.setWidth 32
    | _ => g.head.setWidth 32
  else if 0x140 ≤ o ∧ o < 0x160 then wordOf t.pend.toNat ((o - 0x140) / 4)
  else if 0x400 ≤ o ∧ o < 0x800 then tget 0x10000 t.remap ((o - 0x400) / 4)
  else match o with
  | 0x04 => BitVec.ofNat 32 ((match t.session with | .none => 0 | .attached => 1 | .detached => 2) + t.minor.toNat * 256 + 2 * 2 ^ 16)
  | 0x08 => evWord t.events
  | 0x0C => t.heartbeat
  | 0x10 => t.hbLimit.setWidth 32
  | 0x60 => t.cqBaseLo
  | 0x64 => t.cqBaseHi.setWidth 32
  | 0x68 => t.cqSize.setWidth 32
  | 0x6C => t.cqTail.setWidth 32
  | 0x70 => t.cqHead.setWidth 32
  | 0x74 => t.cqLost
  | 0x78 => t.sqDropped
  | 0x80 => t.logWr
  | 0x84 => t.glogWr
  | 0x100 => BitVec.ofNat 32 (t.cls.toNat + t.weight.toNat * 4 + b2n t.tileMode * 2 ^ 12 + b2n ((coresOf s p).any (sharedCore s)) * 2 ^ 13
      + (match t.state with | .absent => 0 | .ready => 1 | .resetting => 2) * 2 ^ 14)
  | 0x104 => t.rights
  | 0x108 => t.cores.setWidth 32
  | 0x10C => wordOf t.cores.toNat 1
  | 0x110 => t.qT1
  | 0x114 => t.qT2
  | 0x118 => t.qT3
  | 0x11C => t.qT4c
  | 0x120 => t.qCtx.setWidth 32
  | 0x124 => BitVec.ofNat 32 (t.resets.toNat + t.resetCause.toNat * 2 ^ 16)
  | 0x128 => t.ageRises
  | 0x12C => t.gateRefused
  | 0x130 => t.intAddr.setWidth 32
  | 0x134 => t.intLatch
  | 0x138 => BitVec.ofNat 32 (t.ageBulk.toNat + t.ageBack.toNat * 2 ^ 16)
  | 0x13C => t.slice.setWidth 32
  | _ => 0

/-- The big-number engine's registers and operand memory as Rennet's core reads them (R489, R497, R502). -/
def readBn (s : State) (o : Nat) : W32 :=
  let b := s.bn
  let idle := b.run.isNone && !b.wiping
  if 0x8000 ≤ o ∧ o < 0xA000 then
    let i := (o - 0x8000) / 4
    if idle && !tget false b.marks i then tget 0 b.mem i else 0
  else match o with
  | 0x00 => BitVec.ofNat 32 (b.owner.toNat * 16)
  | 0x04 => BitVec.ofNat 32 (b.op.toNat + b.size.toNat * 256 + b2n b.gen * 1024 + b2n b.q * 2048)
  | 0x08 => b.dst.setWidth 32
  | 0x0C => b.src0.setWidth 32
  | 0x10 => BitVec.ofNat 32 (b.src1.toNat + b2n b.stream * 2 ^ 31)
  | 0x14 => b.src2.setWidth 32
  | 0x18 => b.modu.setWidth 32
  | 0x1C => BitVec.ofNat 32 (b2n b.run.isSome + b2n b.wiping * 2 + b.result.toNat * 4 + b2n b.flag * 32)
  | 0x20 => evWord b.events
  | 0x24 => b.faults
  | 0x28 => b.cycles
  | _ => 0

/-- A word that debug reads of a partition's memory (R525): zero of a partition that holds a loaded model licence, and of a sealed block; otherwise what the device address reads. -/
def debugWord (s : State) (place : Nat) : W32 :=
  let p := place % 64
  let a := place / 64 % 2 ^ 48 / 4 * 4
  if s.att.lics.any (fun l => l.2.valid && l.2.part == p) || (s.block p (a / blockBytes)).isSealed then 0
  else BitVec.ofNat 32 (leNat (devRead s p a 4))

/-- A word of the debug SRAM apertures (R525, R678): of a block's copy in T1 or T2; T0 and the score buffer, which hold no device address, read zero. -/
def apertureWord (s : State) (off : Nat) : W32 :=
  let place := Config.debugPlace 0 off
  match (s.block (place % 64) (place / 64 % 2 ^ 48 / blockBytes)).res with
  | .t1 _ _ | .t2 _ => debugWord s place
  | _ => 0

/-- The value of a register; an unassigned offset reads zero (R20). -/
def regRead (s : State) (off : Nat) : W32 :=
  let g := regGroup s off
  match g.1 with
  | .ids => readIds s g.2 | .ports => readPorts s g.2 | .crp => readCrp s g.2 | .pwr => readPwr s g.2 | .cad => readCad s g.2
  | .rel => readRel s g.2 | .rind => readRind s g.2 | .fab => readFab s g.2 | .mem => readMem s g.2 | .seal => readSeal s g.2
  | .flash => readFlash s g.2 | .spr => readSpr s g.2 | .mbx m => readMbx s m g.2 | .rnt => readRnt s g.2 | .stream n => readStream s n g.2
  | .core c => readCore s c g.2 | .page p => readPage s p g.2 | .bn => readBn s g.2 | .dbg => apertureWord s g.2 | .none => 0

/-- A read's effect: the LO half of the counters that say so latches the HI half. -/
def regLatch (s : State) (off : Nat) : State :=
  let g := regGroup s off
  match g.1, g.2 with
  | .ports, 0x114 => { s with ports.errLatch := BitVec.ofNat 16 (s.ports.memErrAddr.toNat / 2 ^ 32) }
  | .cad, 0x10 => { s with cad.extLatch := wordOf (extTime s) 1 }
  | .cad, 0x18 => { s with cad.tsLatch := wordOf s.ts.toNat 1 }
  | .cad, 0x20 => { s with cad.beatLatch := wordOf s.cad.beatTs.toNat 1 }
  | .flash, 0x20 => { s with press.readsLatch := wordOf s.press.reads.toNat 1 }
  | .spr, 0x30 => { s with spr.hitTsLatch := wordOf s.spr.hitTs.toNat 1 }
  | .spr, 0x38 => { s with spr.hitExtLatch := wordOf s.spr.hitExt.toNat 1 }
  | .rnt, 0x2014 => { s with rennet.versionLatch := wordOf s.rennet.version.toNat 1 }
  | .page p, 0x130 => s.modPart p (fun q => { q with intLatch := wordOf q.intAddr.toNat 1 })
  | .pwr, o =>
    if 0x200 ≤ o ∧ o < 0x260 then
      let r := (o - 0x200) / 16
      if o % 16 = 0 then { s with pwr.durLatch := tset s.pwr.durLatch r (wordOf (tget (0 : W64) s.pwr.thrDur r).toNat 1) }
      else if o % 16 = 8 then { s with pwr.lastLatch := tset s.pwr.lastLatch r (wordOf (tget (0 : W64) s.pwr.thrLast r).toNat 1) }
      else s
    else s
  | _, _ => s

/-! ### What writes do -/

/-- A value taken only when a test holds; else the field keeps its value. -/
def keepIf {α : Type} (ok : Bool) (new old : α) : α := if ok then new else old

/-- The power and thermal block (R623). -/
def writePwr (s : State) (o v : Nat) (d hw : W32) : State :=
  let w := s.pwr
  match o with
  | 0x00 => { s with pwr.cap := d }
  | 0x04 => { s with pwr.throttle := keepIf (decide (85 ≤ nbits v 6 0 ∧ nbits v 6 0 ≤ 115)) (d.setWidth 7) w.throttle }
  | 0x08 => { s with pwr.droopMv := keepIf (decide (20 ≤ nbits v 6 0 ∧ nbits v 6 0 ≤ 100)) (d.setWidth 7) w.droopMv }
  | 0x0C => { s with pwr.coreStep := keepIf (decide (1 ≤ nbits v 3 0 ∧ nbits v 3 0 ≤ 8)) (d.setWidth 4) w.coreStep
                     pwr.instStep := keepIf (decide (1 ≤ nbits v 11 4 ∧ nbits v 11 4 ≤ 128)) (BitVec.ofNat 8 (nbits v 11 4)) w.instStep }
  | 0x10 => { s with pwr.iccMax := d.setWidth 16 }
  | 0x14 => { s with pwr.spread := keepIf (decide (nbits v 3 0 ≤ 8)) (d.setWidth 4) w.spread }
  | 0x18 => { s with pwr.slew := d.setWidth 12 }
  | 0x1C => { s with pwr.ackWait := keepIf (decide (100 ≤ nbits v 23 8 ∧ nbits v 23 8 ≤ 20000)) (BitVec.ofNat 16 (nbits v 23 8)) w.ackWait }
  | 0x24 => { s with pwr.events := w1cWrite w.events 0x7F d hw }
  | _ => s

/-- The cadence block (R242). -/
def writeCad (s : State) (o v : Nat) (d hw : W32) : State :=
  if 0x40 ≤ o ∧ o < 0x58 then { s with cad.phyLat := tset s.cad.phyLat ((o - 0x40) / 4) d }
  else match o with
  | 0x00 => writeCadCtrl s d
  | 0x08 => { s with cad.events := w1cWrite s.cad.events 0x7F d hw }
  | 0x28 => { s with cad.encDiv := d.setWidth 16 }
  | 0x2C => { s with cad.srcDev := d.setWidth 10 }
  | 0x30 => { s with cad.interval := d.setWidth 3, cad.syncEn := nbit v 8 }
  | _ => s

/-- The reliability block (R599). -/
def writeRel (s : State) (o v : Nat) (d hw : W32) : State :=
  let r := s.rel
  match o with
  | 0x00 => { s with rel.sampleEn := nbit v 0, rel.autoFence := nbit v 1
                     rel.interval := keepIf (decide (1 ≤ nbits v 15 8 ∧ nbits v 15 8 ≤ 8)) (BitVec.ofNat 8 (nbits v 15 8)) r.interval
                     rel.forceWait := keepIf (decide (1 ≤ nbits v 23 16 ∧ nbits v 23 16 ≤ 16)) (BitVec.ofNat 8 (nbits v 23 16)) r.forceWait }
  | 0x08 => { s with rel.events := w1cWrite r.events 0x1FF d hw }
  | 0x0C => { s with rel.corrLimit := d.setWidth 16 }
  | _ => s

/-- A write of FAB_PORT_CTRL (R379). -/
def writePortCtrl (s : State) (f v : Nat) : State :=
  let p := s.port f
  let s1 := writePort s f (nbit v 0) (keepIf (decide (nbits v 2 1 ≠ 3)) (BitVec.ofNat 2 (nbits v 2 1)) p.rateMax)
    (keepIf (decide (nbits v 4 3 ≠ 3)) (BitVec.ofNat 2 (nbits v 4 3)) p.lanesMax)
  if nbit v 5 then retrain s1 f else s1

/-- The fabric block (R378, R379). -/
def writeFab (s : State) (o v : Nat) (d hw : W32) : State :=
  let f := s.fab
  if 0x100 ≤ o ∧ o < 0x1C0 then (if o % 0x20 = 0 then writePortCtrl s ((o - 0x100) / 0x20) v else s)
  else match o with
  | 0x00 =>
    let s1 := { s with fab.idFixed := keepIf (!f.lock) (nbit v 1) f.idFixed, fab.fixedId := keepIf (!f.lock) (BitVec.ofNat 10 (nbits v 11 2)) f.fixedId
                       fab.paceEn := nbit v 12, fab.lock := f.lock || nbit v 13 }
    if nbit v 0 && !f.en then enableFabric s1 else { s1 with fab.en := nbit v 0 }
  | 0x0C => { s with fab.events := w1cWrite f.events 0x3FF d hw }
  | 0x10 => { s with fab.ackTimeout := keepIf (decide (nbits v 15 0 ≠ 0)) (d.setWidth 16) f.ackTimeout, fab.resendMax := BitVec.ofNat 4 (nbits v 19 16) }
  | 0x14 => { s with fab.reportDev := d.setWidth 10, fab.useRoot := nbit v 10 }
  | _ => s

/-- The memory tiers block (R299). -/
def writeMem (s : State) (o v : Nat) (d hw : W32) : State :=
  let m := s.mem
  match o with
  | 0x00 => { s with mem.t3BaseLo := keepIf (!m.lock && nbits v 25 0 == 0) d m.t3BaseLo }
  | 0x04 => { s with mem.t3BaseHi := keepIf (!m.lock) (d.setWidth 16) m.t3BaseHi }
  | 0x08 => { s with mem.t3Size := keepIf (!m.lock && decide (8 ≤ v)) d m.t3Size }
  | 0x0C => { s with mem.lock := m.lock || nbit v 0, mem.t3Ready := m.t3Ready || nbit v 0 }
  | 0x14 => { s with mem.events := w1cWrite m.events 0x3F d hw }
  | 0x18 => if nbits v 13 8 ≤ nbits v 5 0 then s else { s with mem.low := d.setWidth 6, mem.high := BitVec.ofNat 6 (nbits v 13 8) }
  | _ => s

/-- The sealing group (R561). -/
def writeSeal (s : State) (o v : Nat) (d hw : W32) : State :=
  match o with
  | 0x2000 => { s with mem.zeroOnFree := keepIf (!s.mem.lock) (nbit v 0) s.mem.zeroOnFree }
  | 0x2008 => { s with mem.sealEvents := w1cWrite s.mem.sealEvents 0x1F d hw }
  | _ => s

/-- The flash block (R300). -/
def writeFlash (s : State) (o v : Nat) (d hw : W32) : State :=
  let p := s.press
  match o with
  | 0x00 =>
    if s.mem.lock then s
    else { s with press.channels := keepIf ([4, 8, 12, 16].contains (nbits v 4 0)) (d.setWidth 5) p.channels
                  press.rate := keepIf (decide (nbits v 6 5 ≠ 3)) (BitVec.ofNat 2 (nbits v 6 5)) p.rate
                  press.ce := keepIf (decide (1 ≤ nbits v 9 7 ∧ nbits v 9 7 ≤ 4)) (BitVec.ofNat 3 (nbits v 9 7)) p.ce
                  press.lun2 := nbit v 10 }
  | 0x08 => { s with press.events := w1cWrite p.events 0x3F d hw }
  | 0x0C => { s with press.rdLimit := keepIf (decide (1000 ≤ v ∧ v ≤ 1000000)) d p.rdLimit }
  | 0x10 => { s with press.rdLossAdd := d }
  | 0x14 => { s with press.days := keepIf (decide (1 ≤ nbits v 7 0 ∧ nbits v 7 0 ≤ 90)) (d.setWidth 8) p.days }
  | 0x18 => { s with press.wearSpread := d.setWidth 16 }
  | 0x1C => { s with press.refreshBits := d.setWidth 12 }
  | _ => s

/-- The wake output deasserted (R314). -/
def wakeOff (s : State) : State := { s with spr.wakeOut := false, ports.wakeO := false }

/-- WATCH_EN written (R305, R334): a stop clears the test histories. -/
def setWatch (s : State) (en : Bool) : State :=
  if en then (if s.spr.watchEn then s else { s with spr.watchEn := true, spr.windowTs := s.ts })
  else { s with spr.watchEn := false, spr.history := [], spr.inWindow := false, spr.running := false, spr.onOpen := false, spr.windowDue := false }

/-- The Sprout block (R335). -/
def writeSpr (s : State) (o v : Nat) (d hw : W32) : State :=
  let r := s.spr
  match o with
  | 0x00 =>
    let s1 := { s with spr.autoI := nbit v 1, spr.autoT := nbit v 2, spr.autoDemote := nbit v 3
                       spr.maxRung := if nbits v 5 4 = 0 then 1 else BitVec.ofNat 2 (nbits v 5 4) }
    let s2 := if nbit v 0 = r.watchEn then s1 else setWatch s1 (nbit v 0)
    if nbit v 6 then wakeOff s2 else s2
  | 0x08 => { s with spr.events := w1cWrite r.events 0xFF d hw }
  | 0x0C => { s with spr.wakeEn := d.setWidth 7 }
  | 0x10 => { s with spr.wakeCause := (r.wakeCause &&& ~~~(d.setWidth 7)) ||| hw.setWidth 7 }
  | 0x14 => { s with spr.period := keepIf (decide (1000 ≤ v ∧ v ≤ 10000000)) d r.period }
  | 0x18 => { s with spr.onTime := keepIf (decide (v < r.period.toNat)) d r.onTime }
  | 0x1C => { s with spr.demoteIdle := d.setWidth 16 }
  | 0x20 => { s with spr.idleT := d.setWidth 16 }
  | 0x24 => { s with spr.group := keepIf (decide (1 ≤ nbits v 3 0 ∧ nbits v 3 0 ≤ 8)) (d.setWidth 4) r.group }
  | 0x28 => { s with spr.wakeHold := d.setWidth 16 }
  | 0x2C => { s with spr.aonTimer := d, spr.aonTs := s.ts }
  | _ => s

/-- A mailbox (R423, R424). -/
def writeMbx (s : State) (m o v : Nat) (d hw : W32) (init : W16) : State :=
  if o < 0x20 then (if (s.mbx m).outFull then s else s.modMbx m (fun x => { x with out := x.out.set (o / 4) d }))
  else match o with
  | 0x40 =>
    let s1 := if nbit v 0 then mbxSend s m init else s
    let s2 := if nbit v 1 && (s1.mbx m).outFull then mbxWithdraw s1 m else s1
    if nbit v 2 then mbxAck s2 m else s2
  | 0x48 => s.modMbx m (fun x => { x with events := w1cWrite x.events 7 d hw })
  | 0x4C => s.modMbx m (fun x => { x with vector := d.setWidth 8, irqEn := nbit v 8 })
  | 0x50 => s.modMbx m (fun x => { x with limit := keepIf (decide (1 ≤ nbits v 19 0 ∧ nbits v 19 0 ≤ 1000000)) (d.setWidth 20) x.limit })
  | _ => s

/-- A core block (R157, R198, R199); a core that is off takes no write. -/
def writeCore (s : State) (c o v : Nat) (d hw : W32) : State :=
  if !(s.core c).on then s
  else if 0x400 ≤ o ∧ o < 0x500 ∧ o % 0x20 = 4 then s.modEngine c ((o - 0x400) / 0x20) (fun e => { e with events := w1cWrite e.events 0x1F d hw })
  else match o with
  | 0x04 => s.modCore c (fun k => { k with qlimit := keepIf (decide (1 ≤ nbits v 5 0 ∧ nbits v 5 0 ≤ 32)) (d.setWidth 6) k.qlimit })
  | 0x08 => s.modCore c (fun k => { k with events := w1cWrite k.events 0xF d hw })
  | _ => s

/-- A partition page (R392, R453): ring bases and sizes ignore writes while ATTACHED. -/
def writePage (s : State) (p o v : Nat) (d hw : W32) : State :=
  let t := s.part p
  let free := decide (t.session ≠ .attached)
  if 0x20 ≤ o ∧ o < 0x60 then
    let r := (o - 0x20) / 16
    let turn (g : Ring) : Ring := match o % 16 with
      | 0x0 => { g with baseLo := keepIf (free && nbits v 11 0 == 0) d g.baseLo }
      | 0x4 => { g with baseHi := keepIf free (d.setWidth 16) g.baseHi }
      | 0x8 => { g with size := keepIf (free && (nbits v 3 0 == 0 || decide (4 ≤ nbits v 3 0 ∧ nbits v 3 0 ≤ 12))) (d.setWidth 4) g.size }
      | _ => g
    s.modPart p (fun q => { q with rings := tmod {} q.rings r turn })
  else if 0x400 ≤ o ∧ o < 0x800 then remapWrite s p ((o - 0x400) / 4) d
  else match o with
  | 0x00 => doorbell s p (nbits v 1 0) (BitVec.ofNat 16 (nbits v 31 16))
  | 0x08 => s.modPart p (fun q => { q with events := w1cWrite q.events 0x1F d hw })
  | 0x0C => heartbeat s p d
  | 0x10 => s.modPart p (fun q => { q with hbLimit := keepIf (decide (nbits v 15 0 = 0 ∨ 10 ≤ nbits v 15 0)) (d.setWidth 16) q.hbLimit })
  | 0x60 => s.modPart p (fun q => { q with cqBaseLo := keepIf (free && nbits v 11 0 == 0) d q.cqBaseLo })
  | 0x64 => s.modPart p (fun q => { q with cqBaseHi := keepIf free (d.setWidth 16) q.cqBaseHi })
  | 0x68 => s.modPart p (fun q => { q with cqSize := keepIf (free && (nbits v 3 0 == 0 || decide (4 ≤ nbits v 3 0 ∧ nbits v 3 0 ≤ 14))) (d.setWidth 4) q.cqSize })
  | 0x70 => cqHead s p (d.setWidth 16)
  | _ => s

/-- The big-number engine (R490, R497, R498, R502): the command registers, GO and the operand memory ignore writes while BUSY or WIPING. -/
def writeBn (s : State) (o v : Nat) (d hw : W32) : State :=
  let b := s.bn
  let idle := b.run.isNone && !b.wiping
  if 0x8000 ≤ o ∧ o < 0xA000 then
    if idle then { s with bn := bnPut b ((o - 0x8000) / 4) [d] false } else s
  else match o with
  | 0x00 =>
    let s1 := if nbit v 1 then bnAbort s else s
    let s2 := bnOwner s1 (BitVec.ofNat 3 (nbits v 6 4))
    if nbit v 0 then startBn b.op.toNat { size := b.size, gen := b.gen, q := b.q, dst := b.dst, src0 := b.src0, src1 := b.src1, src2 := b.src2, modu := b.modu, stream := b.stream } s2
    else s2
  | 0x20 => { s with bn.events := w1cWrite b.events 0x1F d hw }
  | _ =>
    if !idle then s
    else match o with
    | 0x04 => { s with bn.op := d.setWidth 8, bn.size := BitVec.ofNat 2 (nbits v 9 8), bn.gen := nbit v 10, bn.q := nbit v 11 }
    | 0x08 => { s with bn.dst := d.setWidth 11 }
    | 0x0C => { s with bn.src0 := d.setWidth 11 }
    | 0x10 => { s with bn.src1 := d.setWidth 11, bn.stream := nbit v 31 }
    | 0x14 => { s with bn.src2 := d.setWidth 11 }
    | 0x18 => { s with bn.modu := d.setWidth 11 }
    | _ => s

/-- A write of CRP_RESET (R668, R676): 0x0000_A5A5 starts an instance reset with cause 0x8; any other value does nothing. -/
def crpResetWrite (s : State) (d : W32) : State := if d = 0xA5A5 then instanceReset s 8 else s

/-- A register write that its gate grants. The bits of `hw` are those the hardware sets in the same cycle (R21). -/
def regWrite (s : State) (init : W16) (off : Nat) (d hw : W32) : State :=
  let g := regGroup s off
  let o := g.2
  let v := d.toNat
  match g.1 with
  | .ids => if o = 0x24 then { s with otp.events := w1cWrite s.otp.events 0x3F d hw } else s
  | .ports => if o = 0x100 then { s with ports.events := w1cWrite s.ports.events 0xFF d hw } else s
  | .crp => if o = 0 then crpResetWrite s d else if o = 0xC then { s with crp.events := w1cWrite s.crp.events 7 d hw } else s
  | .pwr => writePwr s o v d hw
  | .cad => writeCad s o v d hw
  | .rel => writeRel s o v d hw
  | .fab => writeFab s o v d hw
  | .mem => writeMem s o v d hw
  | .seal => writeSeal s o v d hw
  | .flash => writeFlash s o v d hw
  | .spr => writeSpr s o v d hw
  | .mbx m => writeMbx s m o v d hw init
  | .rnt => if o = 0x2020 then { s with rennet.events := w1cWrite s.rennet.events 0x1F d hw } else s
  | .stream n => if o = 4 then s.modStream n (fun t => { t with events := w1cWrite t.events 7 d hw }) else s
  | .core c => writeCore s c o v d hw
  | .page p => writePage s p o v d hw
  | .bn => writeBn s o v d hw
  | .rind | .dbg | .none => s

/-- Whether the island row of a target's gate table grants an island class the access: a page or a mailbox to the array controller and Rennet alone, every other block to each fixed island; the big-number engine to Rennet (R33, R438, R502). -/
def islandGrants (g : RegGroup) (cls : Nat) : Bool :=
  match g with
  | .bn => cls == 1
  | .dbg => false
  | .page _ | .mbx _ => cls == 1 || cls == 2
  | _ => islandClass cls

/-- Whether an initiator may write an offset (R437, R438, R502, R679): a host whose index is its tag under its partition's row, an island class with tag 0x3F under the island row, and debug under the right of register peek, or for the apertures of partition memory read, which is no right to write (R523, R525). -/
def mayWrite (s : State) (r : Requester) (off : Nat) : Bool :=
  let g := regGroup s off
  let cls := initClass r.init
  if cls = 0 then decide (initIndex r.init = r.tag.toNat) && hostWrites s r.tag.toNat g.1 g.2
  else if islandClass cls then r.tag == 0x3F && islandGrants g.1 cls
  else cls == 10 && g.1 != .bn && g.1 != .dbg && s.rennet.debugRights.getLsbD 3

/-- Whether an initiator may read an offset, by the same rows. -/
def mayRead (s : State) (r : Requester) (off : Nat) : Bool :=
  let g := (regGroup s off).1
  let cls := initClass r.init
  if cls = 0 then decide (initIndex r.init = r.tag.toNat) && hostReads s r.tag.toNat g
  else if islandClass cls then r.tag == 0x3F && islandGrants g cls
  else cls == 10 && g != .bn && s.rennet.debugRights.getLsbD (if g = .dbg then 4 else 3)

/-- A refused register access of a host partition is counted (R440, R660). -/
def refuseHost (s : State) (p : Nat) : State :=
  { s.modPart p (fun q => { q with gateRefused := satInc q.gateRefused }) with ports.hostRefused := satInc s.ports.hostRefused }

/-- A register access that its gate refuses: counted for the partition of its tag, and at the port where a host sent it; pages and mailboxes of another partition set HOST_ID (R440, R640). -/
def refuseBy (s : State) (r : Requester) (off : Nat) : State :=
  if initClass r.init = 0 then
    let s1 := refuseHost s r.tag.toNat
    match (regGroup s off).1 with
    | .mbx _ | .page _ => portEvent s1 1
    | _ => s1
  else s.modPart r.tag.toNat (fun q => { q with gateRefused := satInc q.gateRefused })

/-- A register write of any initiator: done where its gate grants it, refused otherwise. -/
def writeBy (s : State) (r : Requester) (off : Nat) (d hw : W32) : State :=
  if mayWrite s r off then regWrite s r.init off d hw else refuseBy s r off

/-- REGISTER_WRITE (R18). -/
def execRegisterWrite (by_ : Requester) (off : W32) (data hwSet : W32) (s : State) : Host.Outcome State Fault Refusal :=
  ends s (writeBy s by_ (off.toNat / 4 * 4) data hwSet)

/-- LATCHED_READ_LO (R242). -/
def execLatchedReadLo (by_ : Requester) (off : BitVec 26) (s : State) : Host.Outcome State Fault Refusal :=
  let o := off.toNat / 4 * 4
  ends s (if mayRead s by_ o then regLatch s o else refuseBy s by_ o)

/-- FAB_PORT_RETRAIN_WRITE (R379). -/
def execFabPortRetrainWrite (by_ : Requester) (f : FabPort) (s : State) : Host.Outcome State Fault Refusal :=
  let off := 0x50100 + f.val * 0x20
  let p := s.port f
  ends s (writeBy s by_ off (BitVec.ofNat 32 (b2n p.en + p.rateMax.toNat * 2 + p.lanesMax.toNat * 8 + 32)) 0)

/-- CRP_RESET (R668). -/
def execCrpReset (by_ : Requester) (value : W32) (s : State) : Host.Outcome State Fault Refusal := ends s (writeBy s by_ 0x10000 value 0)

/-- WAKE_CLR (R314): a write of SPR_CTRL with WAKE_CLR set and its other fields as they are. -/
def execWakeClr (by_ : Requester) (s : State) : Host.Outcome State Fault Refusal := ends s (writeBy s by_ 0x80000 (regRead s 0x80000 ||| 64) 0)

end Sys2Proof.Machine
end

