-- ==== Sys2Proof/Machine/HostPort.lean ====
section
/-! DEFINITION. The Tved ports: requests of the host, responses to the block's own requests, and credits (R626 to R643); ECC errors that cannot be corrected (R566). -/

namespace Sys2Proof.Machine

/-! ### The request word (R627) -/

/-- Whether a request is a write: bit 0 of OP. -/
def reqWrite (w : BitVec 96) : Bool := nbit w.toNat 0
/-- ID. -/
def reqId (w : BitVec 96) : BitVec 8 := BitVec.ofNat 8 (nbits w.toNat 15 8)
/-- ADDR. -/
def reqAddr (w : BitVec 96) : Nat := nbits w.toNat 63 16
/-- INIT. -/
def reqInit (w : BitVec 96) : W16 := BitVec.ofNat 16 (nbits w.toNat 79 64)

/-- A request's answer; a refused read returns zero data in every beat (R634). -/
def answer (s : State) (w : BitVec 96) (rc : BitVec 2) : State :=
  hostAnswer s (reqId w) (reqWrite w) rc (if reqWrite w then [] else List.replicate (reqBeats w) 0)

/-- REFUSED, counted at the port and for the partition (R440, R660); HOST_ID where the identity is at fault (R640). -/
def answerRefused (s : State) (w : BitVec 96) (hostId : Bool) : State :=
  let s1 := refuseHost s (initIndex (reqInit w) % 64)
  answer (if hostId then portEvent s1 1 else s1) w rcRefused

/-- PARITY (R638, R641): counted; a reissue within 1 µs that fails again is the second failure of R564. -/
def answerParity (s : State) (w : BitVec 96) : State :=
  let key (f : W16 × BitVec 8 × Bool × BitVec 48 × W64) : Bool :=
    f.1 == reqInit w && f.2.1 == reqId w && f.2.2.1 == reqWrite w && f.2.2.2.1.toNat == reqAddr w
  let again := s.ports.parFails.any (fun f => key f && decide (s.ts.toNat < f.2.2.2.2.toNat + 1000))
  let others := s.ports.parFails.filter (fun f => !key f && decide (s.ts.toNat < f.2.2.2.2.toNat + 1000))
  let s1 := answer { portEvent s 0 with ports.hostPar := satInc s.ports.hostPar
                                        ports.parFails := if again then others else (reqInit w, reqId w, reqWrite w, BitVec.ofNat 48 (reqAddr w), s.ts) :: others } w rcParity
  parityFail s1 (reqInit w) (BitVec.ofNat 6 (initIndex (reqInit w))) again

/-- Whether a write-data beat's parity holds: four groups of data, then the group of end and mask (R629). -/
def beatParity (b : WriteBeat) : Bool :=
  parityOf 4 b.data.toNat + 16 * parityOf 1 (b.mask.toNat + 65536 * b2n b.last) == b.par.toNat

/-- Whether a write's beats are the number its word gives, with the end on the last alone (R628). -/
def beatsOk (w : BitVec 96) (beats : List WriteBeat) : Bool :=
  beats.length == reqBeats w && beats.zipIdx.all (fun e => e.1.last == (e.2 + 1 == beats.length))

/-! ### The register window (R639, R640) -/

/-- The four words of a beat of the window, each read in turn with its latch (R242). -/
def readBeat (s : State) (off : Nat) : State × BitVec 128 :=
  let r := (List.range 4).foldl (fun (a : State × Nat) i =>
    let o := off + 4 * i
    let t := regLatch a.1 o
    (t, a.2 + (regRead a.1 o).toNat * 2 ^ (32 * i))) (s, 0)
  (r.1, BitVec.ofNat 128 r.2)

/-- Whether a beat's mask covers whole aligned words. -/
def maskWords (m : W16) : Bool := (List.range 4).all (fun i => nbits m.toNat (4 * i + 3) (4 * i) == 0 || nbits m.toNat (4 * i + 3) (4 * i) == 15)

/-- Whether a window offset lies in a partition page or a mailbox of another partition (R640). -/
def foreignPage (s : State) (p off : Nat) : Bool :=
  match (regGroup s off).1 with
  | .mbx q | .page q => q != p
  | _ => false

/-- A read of the window. -/
def windowRead (s : State) (w : BitVec 96) (p : Nat) : State :=
  let off := reqAddr w
  if foreignPage s p off then answerRefused s w true
  else if !hostReads s p (regGroup s off).1 then answerRefused s w false
  else
    let r := readBeat s off
    hostAnswer r.1 (reqId w) false rcGood [r.2]

/-- A write of the window: nothing is written where one of its words is refused. -/
def windowWrite (s : State) (w : BitVec 96) (p : Nat) (b : WriteBeat) : State :=
  let off := reqAddr w
  let words := (List.range 4).filter (fun i => b.mask.getLsbD (4 * i))
  if foreignPage s p off then answerRefused s w true
  else if words.any (fun i => !mayWrite s (byHost p) (off + 4 * i)) then answerRefused s w false
  else
    let s1 := words.foldl (fun t i => writeBy t (byHost p) (off + 4 * i) (BitVec.ofNat 32 (nbits b.data.toNat (32 * i + 31) (32 * i))) 0) s
    answer s1 w rcGood

/-! ### The aperture (R254, R255, R258, R271, R548, R639) -/

/-- The bytes of a write that its masks name, as runs of consecutive addresses. -/
def maskRuns : Nat → List (Option Byte) → List (Nat × List Byte)
  | _, [] => []
  | a, none :: r => maskRuns (a + 1) r
  | a, some b :: r =>
    match maskRuns (a + 1) r with
    | (k, bs) :: more => if k = a + 1 then (a, b :: bs) :: more else (a, [b]) :: (k, bs) :: more
    | [] => [(a, [b])]

/-- The bytes of a write's beats in address order, those outside the masks absent. -/
def beatBytes (beats : List WriteBeat) : List (Option Byte) :=
  beats.flatMap (fun b => (List.range 16).map (fun i => if b.mask.getLsbD i then some (BitVec.ofNat 8 (nbits b.data.toNat (8 * i + 7) (8 * i))) else none))

/-- An access of the aperture whose answer waits for its tier (R641). -/
def hostDefer (s : State) (w : BitVec 96) (p dev : Nat) : State :=
  { s with ports.hostQ := s.ports.hostQ ++ [{ id := reqId w, write := reqWrite w, rc := rcGood, beats := [], no := some s.ports.hostNo, part := p, dev := dev, count := reqBeats w }]
           ports.hostNo := s.ports.hostNo + 1 }

/-- The read of the carve-out that serves an aperture read: one request of 128-byte beats, from a carve-out address of the block (R262, R642). -/
def askHostRead (s : State) (p dev n base : Nat) : State :=
  let b := dev / blockBytes
  let off := dev % blockBytes
  let port := portOf s (s.block p b) .none
  pumpMem { s with mem.outReq := s.mem.outReq ++ [{ port := port, id := none, write := false, part := p, block := b, sector := off / sectorBytes
                                                    addr := base + off / 128 * 128, again := false, init := initId 0 p, tag := BitVec.ofNat 6 p
                                                    cls := classOf s p, beats := ceilDiv (off % 128 + 16 * n) 128, copy := true, host := some s.ports.hostNo }] } port

/-- A read of the aperture that a tier must serve: the carve-out for a home or a cached copy there, the Press for a T4 home, and a fetch under way for its sector (R253, R254, R262). -/
def deferRead (s : State) (w : BitVec 96) (p dev : Nat) : State :=
  let b := dev / blockBytes
  let blk := s.block p b
  let s1 : State := match blk.state, blk.res, blk.home with
    | .home, _, .t3 h => askHostRead s p dev (reqBeats w) (homeAddr s p h)
    | .home, _, .t4 r k =>
      let t := askPress s p b r k (BitVec.ofNat 16 (2 ^ (dev % blockBytes / sectorBytes))) (dev % blockBytes / sectorBytes) 5 noDeadline (classOf s p)
      { t with press.readQ := t.press.readQ.take s.press.readQ.length ++ (t.press.readQ.drop s.press.readQ.length).map (fun q => { q with host := some s.ports.hostNo }) }
    | .fetching, _, _ => s
    | _, .cache sl, _ => askHostRead s p dev (reqBeats w) (cacheAddr s sl)
    | _, _, _ => s
  pumpHost (hostDefer s1 w p dev)

/-- Whether a read of the aperture waits for a tier: its bytes lie neither in T1 or T2 nor in a view. -/
def readWaits (blk : Block) : Bool :=
  match blk.state, blk.res with
  | .home, _ | .fetching, _ => true
  | .clean, .cache _ | .dirty, .cache _ | .writeback, .cache _ => true
  | _, _ => false

/-- A read of the aperture: UNMAPPED reads zero, a POISONED block FAULT with POISON_READ, a sealed one REFUSED with SEALED_MISUSE; any other block what its copy or home holds (R254, R270, R548). -/
def apertureRead (s : State) (w : BitVec 96) (p dev : Nat) : State :=
  let n := reqBeats w
  let blk := s.block p (dev / blockBytes)
  let s1 := btcTouch s 64 p (dev / blockBytes)
  if blk.state = .poisoned then answer (memEvent s1 3) w rcFault
  else if blk.isSealed then answerRefused { s1 with mem.sealEvents := raiseEv s1.mem.sealEvents 3 } w false
  else if readWaits blk then deferRead s1 w p dev
  else hostAnswer s1 (reqId w) false rcGood (toBeats n (devRead s1 p dev (16 * n)))

/-- A write of the aperture that has gone to a home is answered once the memory system has taken it (R633, R641): the requests it made carry its number. -/
def answerWrite (s t : State) (w : BitVec 96) (p dev : Nat) : State :=
  let old := s.mem.outReq.length
  let mine (r : MemReq) : Bool := r.part == p && r.block == dev / blockBytes && r.write && r.copy
  let new := t.mem.outReq.drop old
  if new.any mine then
    pumpHost (hostDefer { t with mem.outReq := t.mem.outReq.take old ++ new.map (fun r => if mine r then { r with host := some t.ports.hostNo, init := initId 0 p } else r) } w p dev)
  else answer t w rcGood

/-- A write of the aperture, through to where the data lies (R259): ignored in an UNMAPPED block or a view, REFUSED at a T4 home, FAULT in a POISONED block. -/
def apertureWrite (s : State) (w : BitVec 96) (p dev : Nat) (beats : List WriteBeat) : State :=
  let s1 := btcTouch s 64 p (dev / blockBytes)
  let r := (maskRuns dev (beatBytes beats)).foldl (fun (a : WriteRes × State) run =>
    if a.1 = .ok then devWriteAux p none true (blocksOf run.1 run.2.length) run.1 run.2 a.2 else a) (.ok, s1)
  match r.1 with
  | .ok | .unmapped => answerWrite s1 r.2 w p dev
  | .refused => answerRefused r.2 w false
  | .poisoned => answer r.2 w rcFault

/-! ### A request served -/

/-- The base of partition 0's aperture. -/
def apertureBase : Nat := 0x1000000000

/-- A host request served (R638 to R640): parity, beats, identity, then the address. -/
def serveHost (s : State) (w : BitVec 96) (par : BitVec 3) (beats : List WriteBeat) : State :=
  let s := { s with spr.idleSince := s.ts, spr.rungIdle := tset s.spr.rungIdle 1 s.ts }
  let a := reqAddr w
  let p := initIndex (reqInit w)
  let off := a - apertureBase
  if decide (parityOf 3 w.toNat ≠ par.toNat) || (reqWrite w && beats.any (fun b => !beatParity b)) then answerParity s w
  else if nbit w.toNat 1 || (reqWrite w && !beatsOk w beats) then answer s w rcFault
  else if initClass (reqInit w) ≠ 0 ∨ 64 ≤ p then answerRefused s w true
  else if a < 0x4000000 then
    if reqBeats w ≠ 1 ∨ a % 16 ≠ 0 then answer s w rcFault
    else if reqWrite w then
      match beats with
      | [b] => if maskWords b.mask then windowWrite s w p b else answer s w rcFault
      | _ => answer s w rcFault
    else windowRead s w p
  else if apertureBase ≤ a ∧ off < 64 * 2 ^ 30 ∧ a % 16 = 0 ∧ a % 4096 + 16 * reqBeats w ≤ 4096 then
    if off / 2 ^ 30 ≠ p then answerRefused s w true
    else
      let dev := (tget (0 : BitVec 18) s.mem.apBase p).toNat * 2 ^ 30 + off % 2 ^ 30
      if reqWrite w then apertureWrite s w p dev beats else apertureRead s w p dev
  else answer s w rcFault

/-- Whether the block may serve host accesses: in A, not isolated for an entry, not stopped by a trip, and after hand-over (R319, R464, R638). -/
def hostOpen (s : State) : Bool := s.spr.pstate == .a && !s.spr.isoDone && !s.pwr.trip && decide (14 ≤ s.rennet.step)

/-- Whether Rennet's own blocks are all that is reached: without an image its mailboxes serve recovery (R333, R480). -/
def recoveryOnly (s : State) (w : BitVec 96) : Bool :=
  bare s && decide (0x90000 ≤ reqAddr w ∧ reqAddr w < 0xA0000)

/-- The credits that the block returns after reset on a channel it receives: those of the host's requests and write data, and of the responses of the memory and interrupt ports (R637). -/
def rxCredits (port ch : Nat) : Nat :=
  match port, ch with
  | 0, 0 => 32 | 0, 1 => 64
  | 65, 3 => 16
  | _, 2 => if port = 0 ∨ port = 65 then 0 else 128
  | _, 3 => if port = 0 then 0 else 64
  | _, _ => 0

/-- Credits of a received channel taken by `n` items and not returned yet (R630, R631). -/
def takeCredits (s : State) (port ch n : Nat) : State := { s with ports.owed := tmod 0 s.ports.owed (creditKey port ch) (· + n) }
/-- Credits of a received channel returned. -/
def giveCredits (s : State) (port ch n : Nat) : State := { s with ports.owed := tmod 0 s.ports.owed (creditKey port ch) (fun k => k - n) }
/-- Whether the sender of a received channel still holds credits for `n` items. -/
def hasCredits (s : State) (port ch n : Nat) : Bool := decide (tget 0 s.ports.owed (creditKey port ch) + n ≤ rxCredits port ch)

/-- The credits of a host request and its write data, taken as it arrives. -/
def takeHost (s : State) (beats : List WriteBeat) : State := takeCredits (takeCredits s 0 0 1) 0 1 beats.length
/-- The credits of a host request and its write data, returned once the block has taken it (R631). -/
def giveHost (s : State) (beats : List WriteBeat) : State := giveCredits (giveCredits s 0 0 1) 0 1 beats.length

/-- HOST_REQUEST (R638, R639): served, or held with its credits withheld while the block cannot serve it (R319, R464); an access in I, T, W or S is a wake source (R318). -/
def hostRequest (s : State) (w : BitVec 96) (par : BitVec 3) (beats : List WriteBeat) : State :=
  if s.spr.pstate = .o ∨ !hasCredits s 0 0 1 ∨ !hasCredits s 0 1 beats.length then s
  else
    let s1 := takeHost (latchWake s 2 1) beats
    if hostOpen s1 || recoveryOnly s1 w then serveHost (giveHost s1 beats) w par beats
    else { s1 with spr.heldHost := s1.spr.heldHost ++ [(w, par, beats)] }

/-- HOST_REQUEST. -/
def execHostRequest (word : BitVec 96) (par : BitVec 3) (beats : List WriteBeat) (now : W64) (s : State) : Host.Outcome State Fault Refusal :=
  endsAt s now (fun s => hostRequest s word par beats)

/-- Held accesses complete in the order of arrival once the block serves again (R319). -/
def serveHeld (s : State) : State :=
  if hostOpen s then s.spr.heldHost.foldl (fun t h => serveHost (giveHost t h.2.2) h.1 h.2.1 h.2.2) { s with spr.heldHost := [] } else s

/-! ### Memory ports (R270, R635, R638, R642) -/

/-- The outcome of R270 for an error response on a live-class block: UNCORR, a partition reset of the owner, and the block POISONED. -/
def liveError (s : State) (p b : Nat) : State :=
  let s1 := partitionReset (memEvent s 2) p 1
  s1.modBlock p b (fun k => { k with state := .poisoned, res := .none, dirty := 0, landed := 0, inWb := 0 })

/-- The host access that waited for a request is answered FAULT (R270). -/
def faultHost (s : State) (no : Option Nat) : State :=
  if no.isNone then s else { s with ports.hostQ := s.ports.hostQ.map (fun r => if r.no = no then { r with rc := rcFault } else r) }

/-- An error response at a memory port: a FAULT is counted and its address kept (R635, R660); one in a block table resets its partition (R270). -/
def memFault (s : State) (r : MemReq) (fault : Bool) : State :=
  let s1 : State := if fault then
      { portEvent s 3 with ports.memErr := satInc s.ports.memErr, ports.memErrAddr := BitVec.ofNat 48 r.addr }
    else s
  if r.tag = 0x3F ∧ initClass r.init = 2 then partitionReset s1 r.part 3
  else if (s.block r.part r.block).state = .unmapped then s1 else liveError (faultHost s1 r.host) r.part r.block

/-- The request leaves the port's list, and held ones may go. -/
def dropReq (s : State) (r : MemReq) : State := pumpHost (pumpMem { s with mem.outReq := s.mem.outReq.erase r } r.port)

/-- A response that failed parity, or the answer PARITY: the request is issued once more, and fails for good the second time (R564, R635). -/
def memParity (s : State) (r : MemReq) : State :=
  let s1 := parityFail (portEvent s 2) r.init r.tag r.again
  if r.again then dropReq s1 r
  else
    let turn (q : MemReq) : MemReq := if q = r then { q with id := none, again := true } else q
    pumpMem { s1 with ports.memRetry := satInc s1.ports.memRetry, mem.outReq := s1.mem.outReq.map turn } r.port

/-- A response whose ID matches nothing outstanding (R638). -/
def badId (s : State) : State := { portEvent s 5 with ports.badId := satInc s.ports.badId }

/-- Whether a read beat's parity holds: 32 groups of data, then the group of the tag (R626). -/
def readBeatParity (b : ReadBeat) : Bool := parityOf 32 b.data.toNat + 2 ^ 32 * parityOf 1 b.tag.toNat == b.par.toNat

/-- The response to an outstanding request: its code, whether its form holds, and whether its parity does. -/
def memAnswer (s : State) (r : MemReq) (rc : Nat) (form parity : Bool) : State :=
  if !parity || rc == 3 then memParity s r
  else if !form then memFault (dropReq (portEvent s 6) r) r true
  else if rc = 0 then dropReq s r
  else memFault (dropReq s r) r (rc == 2)

/-- A response that matches nothing outstanding (R638): one to a request from before the last instance reset is discarded; any other is a bad ID. -/
def strayResponse (s : State) (port : Nat) (write : Bool) (id : Nat) : State :=
  if s.ports.lateIds.contains (port, write, id) then { s with ports.lateIds := s.ports.lateIds.erase (port, write, id) } else badId s

/-- A response taken (R635): of a read, the request's beats with one tag and END on the last; of a write, its tag. -/
def takeResponse (s : State) (port : Nat) (rsp : MemRsp) : State :=
  let find (write : Bool) (id : Nat) : Option MemReq := s.mem.outReq.find? (fun r => r.port == port && r.write == write && r.id == some id)
  match rsp with
  | .write tag par =>
    match find true (tag.toNat % 256) with
    | none => strayResponse s port true (tag.toNat % 256)
    | some r => memAnswer s r (tag.toNat / 256) true (oddOnes tag.toNat == par)
  | .read beats =>
    match beats with
    | [] => s
    | b :: _ =>
      match find false (b.tag.toNat % 256) with
      | none => strayResponse s port false (b.tag.toNat % 256)
      | some r =>
        let form := beats.length == r.beats && beats.zipIdx.all (fun e => e.1.tag.toNat % 1024 == b.tag.toNat % 1024 && e.1.tag.getLsbD 10 == (e.2 + 1 == r.beats))
        memAnswer s r (b.tag.toNat / 256 % 4) form (beats.all readBeatParity)

/-- The channel of a memory response, and the credits it uses: one for each beat. -/
def rspCredits : MemRsp → Nat × Nat
  | .write _ _ => (3, 1)
  | .read beats => (2, beats.length)

/-- MEM_RESPONSE (R631, R635, R638): the credits of a response are returned as it is taken, whatever any other channel does. While a trip stops the port logic it waits, its credits with it; after an instance reset credits come back for 10 µs. -/
def memResponse (s : State) (port : Nat) (rsp : MemRsp) : State :=
  let c := rspCredits rsp
  let s1 := takeCredits s (1 + port) c.1 c.2
  if s.pwr.trip then { s1 with ports.rspHeld := s1.ports.rspHeld ++ [(port, rsp)] }
  else
    let s2 := takeResponse s1 port rsp
    let late := decide (s2.ports.lateIds.length < s1.ports.lateIds.length) && decide (s.ports.lateTs.toNat + 10000 ≤ s.ts.toNat)
    if late then s2 else giveCredits s2 (1 + port) c.1 c.2

/-- The responses that waited for the port logic are taken in the order they came (R638). -/
def takeHeldResponses (s : State) : State :=
  s.ports.rspHeld.foldl (fun t r => giveCredits (takeResponse t r.1 r.2) (1 + r.1) (rspCredits r.2).1 (rspCredits r.2).2) { s with ports.rspHeld := [] }

/-- MEM_RESPONSE. -/
def execMemResponse (port : CoreId) (rsp : MemRsp) (s : State) : Host.Outcome State Fault Refusal := endsCore s port (memResponse s port rsp)

/-! ### The interrupt port (R635, R643) -/

/-- INTERRUPT_RESPONSE (R635): a message answered FAULT sets INT_ERR and goes once more, then is dropped; a parity failure is reissued once under R564. -/
def interruptResponse (s : State) (tag : BitVec 10) (par : Bool) : State :=
  match s.ports.intOut with
  | none => badId s
  | some (p, d, again) =>
    if tag.toNat % 256 ≠ 0 then badId s
    else
      let s1 := { s with ports.intOut := none }
      let resend (t : State) : State := pumpInt (if again then t else { t with ports.intQ := (p, d, true) :: t.ports.intQ })
      if oddOnes tag.toNat ≠ par ∨ tag.toNat / 256 = 3 then resend (parityFail s1 (initId 2 0) (BitVec.ofNat 6 p) again)
      else if tag.toNat / 256 = 2 then resend (portEvent s1 4)
      else pumpInt s1

/-- INTERRUPT_RESPONSE. -/
def execInterruptResponse (tag : BitVec 10) (par : Bool) (s : State) : Host.Outcome State Fault Refusal := ends s (interruptResponse s tag par)

/-! ### Credits (R630, R637, R638) -/

/-- The number of a Tved port, and the channels whose credits the integrator returns: as initiator requests and write data, as target the responses. -/
def portNo : TvedPort → Nat
  | .host => 0
  | .memory c => 1 + c.val
  | .interrupt => 65

/-- CREDIT_RETURN (R630, R638): a count of 255 stays, and PROTO is set; otherwise what waited on the channel may go. -/
def creditReturn (s : State) (port : TvedPort) (ch : Nat) : State :=
  let n := portNo port
  let mine : Bool := match port with | .host => decide (2 ≤ ch) | _ => decide (ch < 2)
  if !mine then s
  else if 255 ≤ s.credits n ch then portEvent s 6
  else
    let s1 := { s with ports.credits := tset s.ports.credits (creditKey n ch) (s.credits n ch + 1) }
    match port with
    | .host => pumpHost s1
    | .memory c => pumpMem s1 c.val
    | .interrupt => pumpInt s1

/-- CREDIT_RETURN. -/
def execCreditReturn (port : TvedPort) (channel : Fin 4) (s : State) : Host.Outcome State Fault Refusal := ends s (creditReturn s port channel)

/-! ### Uncorrectable ECC errors (R566) -/

/-- The initiator ID that the report of an uncorrectable error names, and its partition. -/
def eccUnit (s : State) : EccPlace → W16 × Nat
  | .t0 c e => (engInit c e, match (s.engine c e).t0Part with | some p => p | none => 64)
  | .t1 p _ | .t2 p _ => (initId 2 0, p.val)
  | .streamRing n => (initId 8 (n.val / 6), if (s.stream n).owned then (s.stream n).owner.toNat else 64)
  | .ctlSram => (initId 2 0, 64)
  | .flcSram => (initId 6 0, 64)
  | .sproutSram => (initId 9 0, 64)
  | .checkStore c e => (engInit c e, 64)

/-- The watch program stops, and PROG_ERR is set (R566). -/
def stopProgram (s : State) : State := sprEvent (setWatch s false) 6

/-- An uncorrectable error (R566): counted and reported, then contained where it lies; the instance reset that follows one of CTL or FLC SRAM is the event's own. -/
def eccUncorrectable (s : State) (place : EccPlace) (addr : W64) : State :=
  let u := eccUnit s place
  let s0 := relEvent { s with rel.eccUncorr := satInc s.rel.eccUncorr } 4
  let s1 := sendReport s0 { mkReport s0 0x0603 u.1 u.2 with data := addr }
  let owner (t : State) : State := if u.2 < 64 then partitionReset t u.2 1 else t
  match place with
  | .t0 c e => owner (s1.modEngine c e (fun g => { g with events := raiseEv g.events 2 }))
  | .t1 _ _ | .t2 _ _ => owner (memEvent s1 2)
  | .streamRing _ => owner s1
  | .ctlSram | .flcSram => s1
  | .sproutSram => stopProgram s1
  | .checkStore c e => { s1.modEngine c e (fun g => { g with slot := noSlot }) with rel.skips := satInc s1.rel.skips }

end Sys2Proof.Machine
end

