-- ==== Sys2Proof/Machine/Memory.lean ====
section
/-! DEFINITION. The memory and tiers commands (R258 to R269, R277, R381, R410, R547 to R549, R690) and the placement engine's events (R256, R263, R265, R270, R558). -/

namespace Sys2Proof.Machine

/-! ### Ranges (R410, R690) -/

/-- LEN of a range. -/
def rangeLen (k : Packet) : Nat := par k 8 8
/-- Format tests of a range. -/
def rangeFmt (k : Packet) : List (Bool × Nat) := [(!addrOk k 0, 0)]
/-- Range tests of a range: whole blocks, at least one, within 2^48. -/
def rangeRng (k : Packet) : List (Bool × Nat) :=
  [(parAddr k 0 % blockBytes != 0, 0), (rangeLen k % blockBytes != 0 || rangeLen k == 0 || decide (2 ^ 48 < parAddr k 0 + rangeLen k), 8)]

/-- The mapped blocks of a range, in increasing address (R690). -/
def mappedIn (s : State) (p addr len : Nat) : List Nat :=
  ((s.map p).filter (fun e => decide (addr / blockBytes ≤ e.1 ∧ e.1 < (addr + len) / blockBytes) && e.2.state != .unmapped)).map (·.1)

/-- A command over the mapped blocks of a range, its format and range tests made. -/
def rangeCmd (s : State) (p op basic expert : Nat) (fmt rng : Packet → List (Bool × Nat)) (body : State → Packet → List Nat → State) : State :=
  ringCmd s p op basic expert [] (fun s k =>
    checked s p k (rangeFmt k ++ fmt k) (rangeRng k ++ rng k) (body s k (mappedIn s p (parAddr k 0) (rangeLen k))))

/-- STATE_REFUSED with the state of a block (R398). -/
def refuseBlock (s : State) (p : Nat) (k : Packet) (b : Nat) : State := refuseState s p k noObj (memState (s.block p b).state)

/-- A command that no block with users may meet (R258). -/
def unlessUsers (s : State) (p : Nat) (k : Packet) (bs : List Nat) (body : State) : State :=
  match bs.find? (hasUsers s p) with
  | some b => refuseBlock s p k b
  | none => body

/-! ### Replies that wait for the placement engine -/

/-- What is left of a waiting command: a pin waits for its fetches, queued or under way, a flush for the sectors that were dirty when it was accepted, a resize for the slots that its evicted blocks still hold. -/
def waitLeft (s : State) (w : MemWait) : List (Nat × BitVec 16) :=
  w.sectors.filter (fun e =>
    let blk := s.block (match w.of_ with | some r => r.part | none => w.pend.part) e.1
    if w.of_.isSome then blk.leaving
    else if w.pend.opcode = 0x0309 then e.2 != 0 && blk.res != .none
    else blk.state == .fetching || s.mem.queue.any (fun q => q.part == w.pend.part && q.block == e.1 && q.kind == .fetch))

/-- Waiting commands that have nothing left to wait for are answered. -/
def settleWaits (s : State) : State :=
  let s1 := { s with mem.waits := s.mem.waits.filter (fun w => waitLeft s w != []) }
  (s.mem.waits.filter (fun w => waitLeft s w == [])).foldl (fun t w =>
    match w.of_ with
    | some r => (replyLater t w.pend stDone 0 (BitVec.ofNat 32 r.part) 0x21).modPart r.part (fun q => { q with cls := r.cls, weight := r.weight, rights := r.rights })
    | none => replyLater t w.pend stDone 0 noObj 0) s1

/-- Whether a block of a cadence set is resident: on the chip, or without anything to fetch. -/
def setResident (blk : Block) : Bool :=
  match blk.state with
  | .unmapped | .zero | .view | .poisoned => true
  | .home | .fetching => false
  | .clean | .dirty | .writeback => match blk.res with | .t1 _ _ | .t2 _ => true | _ => false

/-- The blocks of a graph's cadence set that are not resident. -/
def setMissing (s : State) (g : Graph) : Nat := ((cadenceSet s g).filter (fun e => !setResident (s.block g.part e.1))).length

/-- Arms whose set is resident are answered (R277). -/
def settleArms (s : State) : State :=
  s.graphs.foldl (fun t e =>
    if e.2.arming = [] ∨ setMissing t e.2 ≠ 0 then t
    else e.2.arming.foldl (fun u a => replyLater u a.1 stDone 0 (BitVec.ofNat 32 e.1) (graphState u e.1))
      (t.modGraph e.1 (fun g => { g with arming := [] }))) s

/-- The placement engine goes on, and every reply that its progress lets go is written. -/
def settle (s : State) : State := pumpHost (settleArms (settleWaits (pumpPlace s)))

/-! ### MAP (R258, R381, R547, R549) -/

/-- The offsets of a partition's home area in use. -/
def homesUsed (s : State) (p : Nat) : List Nat :=
  (s.map p).filterMap (fun e => match e.2.state, e.2.home with | .unmapped, _ => none | _, .t3 h => some h | _, _ => none)

/-- The lowest free offsets of a home area for `n` blocks. -/
def freeHomes (s : State) (p n : Nat) : List Nat :=
  let used := homesUsed s p
  ((List.range (used.length + n)).filter (fun h => !used.contains h)).take n

/-- A block entry mapped, in a table that firmware gives it where it has none (R248): the count of held sets that name it stays (R276). -/
def mapBlock (s : State) (p b : Nat) (v : Block) : State := (ensureTable s p b).setBlock p b { v with cadset := (s.block p b).cadset }

/-- Blocks with T3 homes mapped in state ZERO. -/
def mapT3 (s : State) (p b0 n hint : Nat) : State :=
  ((freeHomes s p n).zipIdx).foldl (fun t e => mapBlock t p (b0 + e.2) { state := .zero, home := .t3 e.1, hint := hint }) s

/-- Block tables in use with a range added: each covers 1,024 blocks (R248). -/
def tablesWith (s : State) (p b0 n : Nat) : Nat :=
  let new := (List.range ((b0 + n - 1) / 1024 + 1 - b0 / 1024)).map (fun i => p * 2 ^ 22 + b0 / 1024 + i)
  (s.mem.btab.map (·.1) ++ new).dedup.length

/-- The fields of a package head: MODEL_ID, MODEL_VERSION, PAYLOAD_LEN and TAG_OFFSET, where the block is one (R547). -/
def packageHead (s : State) (r first : Nat) : Option (List Byte × W32 × Nat × Nat) :=
  let b := mread 0 s.mem.t4 (t4Key r first) 48
  if field b 0 4 = 0x53545047 ∧ field b 4 2 = 1 then some (slice b 8 16, BitVec.ofNat 32 (field b 24 4), field b 32 8, field b 40 8) else none

/-- The partition's licence of a model (R547). -/
def licenceOf (s : State) (p : Nat) (model : List Byte) (version : W32) : Option Nat :=
  (List.range 255).find? (fun i => let l := s.lic i; l.valid && l.part == p && l.modelId == model && l.version == version)

/-- The class of block `i` of a package: a payload block, a tag block, or plain. -/
def packageBlock (payload tagOff i : Nat) : Bool × Bool :=
  let inPayload := decide (1 ≤ i ∧ i < 1 + ceilDiv payload blockBytes)
  let inTags := decide (tagOff / blockBytes ≤ i ∧ i < tagOff / blockBytes + ceilDiv (payload / 64) blockBytes)
  (inPayload || inTags, inTags)

/-- Blocks with T4 homes mapped in state HOME; those of a sealed package take its class and licence. -/
def mapT4 (s : State) (p b0 n hint r first : Nat) (pkg : Option (Nat × Nat × Nat)) : State :=
  (List.range n).foldl (fun t i =>
    let plain : Block := { state := .home, home := .t4 r (first + i), hint := hint }
    let v : Block := match pkg with
      | some (lic, payload, tagOff) =>
        let c := packageBlock payload tagOff i
        if c.1 then { plain with isSealed := true, tagBlk := c.2, lic := lic, head := first } else plain
      | none => plain
    mapBlock t p (b0 + i) v) s

/-- The address ranges that a loaded task names: its entries, its row base and a mover's addresses. -/
def loadedRanges (t : Task) : List (Nat × Nat) :=
  t.operands.map (fun o => (o.addr, o.len)) ++
  (match t.kind with
   | .matrix | .vector => if rowBase t = 0 then [] else [(rowBase t, 1)]
   | .move => [(pbf t 20 6, moveSpan t 12), (pbf t 28 6, moveSpan t 16)]
   | .decompress => [(pbf t 8 6, pbf t 24 4), (pbf t 16 6, pbf t 28 4)]
   | .promote => [(pbf t 8 6, 4)]
   | _ => [])

/-- Whether a loaded graph of the partition that a licence does not list names an address of a range (R549). -/
def unlistedGraph (s : State) (p : Nat) (l : Licence) (addr len : Nat) : Bool :=
  s.graphs.any (fun e => e.2.part == p && !((l.graphs.take l.ngraph).contains e.2.digest) &&
    e.2.ctxOf.any (fun cx => (loadedRanges (s.ctx cx.1 cx.2).task).any (fun r => decide (0 < r.2 ∧ r.1 < addr + len ∧ addr < r.1 + r.2))))

/-- MAP with a T4 home: the region granted and its blocks there, no overlap, and the licence of a sealed package (R258, R547, R549). -/
def mapFlash (s : State) (p : Nat) (k : Packet) (addr n hint r first : Nat) (overlap : Option Nat) : State :=
  let reg : Region := tget {} s.press.regions r
  let b0 := addr / blockBytes
  if 64 ≤ r ∨ reg.blocks = 0 ∨ !reg.mask.getLsbD p then refuseRange s p k 18
  else if reg.blocks < first + n then refuseRange s p k 20
  else match packageHead s r first with
  | none => match overlap with
    | some b => refuseBlock s p k b
    | none => replyDone (mapT4 s p b0 n hint r first none) p k
  | some (model, version, payload, tagOff) =>
    let lic := licenceOf s p model version
    let l := match lic with | some i => s.lic i | none => {}
    let isBound := lic.isSome && nbit l.flags.toNat 2
    if isBound && unlistedGraph s p l addr (n * blockBytes) then reply s p k stRights (detPar 0 ||| 0x80000000) noObj 0
    else if isBound && l.mapAddr != addr then refuseRange s p k 0
    else match overlap with
    | some b => refuseBlock s p k b
    | none =>
      match lic with
      | none => refuseState s p k noObj 0xC0
      | some i =>
        if nbit l.flags.toNat 0 && s.rennet.boot != .verified then refuseState s p k noObj 0xA1
        else replyDone (mapT4 s p b0 n hint r first (some (i, payload, tagOff))) p k

/-- MAP. -/
def mapBody (p : Nat) (s : State) (k : Packet) : State :=
  let home := par k 16 1
  let hint := par k 17 1
  checked s p k (rangeFmt k ++ [(decide (1 < home), 16), (decide (8 < hint), 17)]) (rangeRng k) (
    let addr := parAddr k 0
    let n := rangeLen k / blockBytes
    let b0 := addr / blockBytes
    let overlap := (mappedIn s p addr (rangeLen k)).head?
    if home = 0 ∧ (s.part p).qT3.toNat < (homesUsed s p).length + n then refuseRange s p k 8
    else if s.mem.mapRoom < tablesWith s p b0 n then refuseRange s p k 8
    else if home = 1 then mapFlash s p k addr n hint (par k 18 1) (par k 20 4) overlap
    else match overlap with
      | some b => refuseBlock s p k b
      | none => replyDone (mapT3 s p b0 n hint) p k)

/-- MAP (R258). -/
def execMapRange (p : PartId) (s : State) : Host.Outcome State Fault Refusal :=
  ends s (ringCmd s p 0x0301 24 24 [(19, 1)] (mapBody p))

/-! ### UNMAP, ZERO, HINT (R258, R690) -/

/-- Requests of a block that have not left are withdrawn. -/
def forgetBlock (s : State) (p b : Nat) : State :=
  { s with mem.queue := s.mem.queue.filter (fun r => !(r.part == p && r.block == b))
           mem.outReq := s.mem.outReq.filter (fun r => !(r.part == p && r.block == b) || r.id.isSome || r.tag == 0x3F)
           press.readQ := s.press.readQ.filter (fun r => !(r.part == p && r.block == b) || r.issued || r.patrol) }

/-- A block unmapped: its copy dropped without write-back, its home free. -/
def unmapBlock (s : State) (p b : Nat) : State :=
  let blk := s.block p b
  (forgetBlock (clearCopy s blk.res) p b).setBlock p b { cadset := blk.cadset }

/-- UNMAP (R258). -/
def execUnmapRange (p : PartId) (s : State) : Host.Outcome State Fault Refusal :=
  ends s (rangeCmd s p 0x0302 16 16 (fun _ => []) (fun _ => []) (fun s k bs =>
    unlessUsers s p k bs (replyDone (settle (pruneTables (bs.foldl (fun t b => unmapBlock t p b) s) p)) p k)))

/-- A T3-homed block set to ZERO. -/
def zeroBlock (s : State) (p b : Nat) : State :=
  let blk := s.block p b
  (forgetBlock (clearCopy s blk.res) p b).setBlock p b
    { blk with state := .zero, res := .none, dirty := 0, landed := 0, inWb := 0, rewr := 0, written := false, entryHint := 0, leaving := false }

/-- Whether a block's home is T3. -/
def t3Homed (s : State) (p b : Nat) : Bool := match (s.block p b).home with | .t3 _ => true | _ => false

/-- ZERO (R235, R258, R690): a view block in the range refuses it; other mapped blocks whose home is not T3 are passed over. -/
def execZeroRange (p : PartId) (s : State) : Host.Outcome State Fault Refusal :=
  ends s (rangeCmd s p 0x0303 16 16 (fun _ => []) (fun _ => []) (fun s k bs =>
    let t3 := bs.filter (t3Homed s p)
    unlessUsers s p k (bs.filter (fun b => t3Homed s p b || (s.block p b).state == .view)) (replyDone (settle (t3.foldl (fun t b => zeroBlock t p b) s)) p k)))

/-- HINT (R258). -/
def execHintRange (p : PartId) (s : State) : Host.Outcome State Fault Refusal :=
  ends s (rangeCmd s p 0x0304 17 17 (fun k => [(decide (8 < par k 16 1), 16)]) (fun _ => []) (fun s k bs =>
    replyDone (bs.foldl (fun t b => t.modBlock p b (fun v => { v with hint := par k 16 1 })) s) p k))

/-! ### PREFETCH, PIN, UNPIN, EVICT, FLUSH (R257, R260, R263 to R266) -/

/-- Where a prefetch or a pin installs: by the block's hint, ONCE as NORMAL, in T1 of the partition's lowest core; or as DEST and CORE say. -/
def prefetchDest (s : State) (p : Nat) (k : Packet) (b : Nat) : Option Nat :=
  if pktExpert k then (if par k 16 1 = 0 then some (par k 17 1) else none)
  else if (s.block p b).hint = 2 then none else (coresOf s p).head?

/-- Format and range tests of DEST and CORE. -/
def destFmt (k : Packet) : List (Bool × Nat) := [(pktExpert k && decide (1 < par k 16 1), 16)]
/-- CORE is a core of the partition. -/
def destRng (s : State) (p : Nat) (k : Packet) : List (Bool × Nat) :=
  [(pktExpert k && par k 16 1 == 0 && !(coresOf s p).contains (par k 17 1), 17)]

/-- PREFETCH (R260). -/
def execPrefetchRange (p : PartId) (s : State) : Host.Outcome State Fault Refusal :=
  ends s (rangeCmd s p 0x0305 16 18 destFmt (destRng s p) (fun s k bs =>
    if queueFull s && bs != [] then refuseBusy s p k 2
    else replyDone (bs.foldl (fun t b => bringBlock t { part := p, block := b, rank := 5, cls := classOf t p, dest := prefetchDest t p k b }) s) p k))

/-- PIN (R264, R690): within 75 % of the T1 and T2 quota; answered when its fetches have ended, at once where nothing is mapped. -/
def execPinRange (p : PartId) (s : State) : Host.Outcome State Fault Refusal :=
  ends s (rangeCmd s p 0x0306 16 18 destFmt (destRng s p) (fun s k bs =>
    let pinned := ((s.map p).filter (fun e => e.2.pin)).length
    let new := (bs.filter (fun b => !(s.block p b).pin)).length
    if bs = [] then replyDone s p k
    else if 3 * ((s.part p).qT1.toNat + (s.part p).qT2.toNat) < 4 * (pinned + new) then refuseRange s p k 8
    else if queueFull s && bs != [] then refuseBusy s p k 2
    else
      let s1 := bs.foldl (fun t b => (bringBlock t { part := p, block := b, rank := 5, cls := classOf t p, dest := prefetchDest t p k b }).modBlock p b (fun v => { v with pin := true })) s
      settleWaits { s1 with mem.waits := s1.mem.waits ++ [{ pend := pendOf p k, sectors := bs.map (fun b => (b, 0xFFFF)) }] }))

/-- UNPIN (R258). -/
def execUnpinRange (p : PartId) (s : State) : Host.Outcome State Fault Refusal :=
  ends s (rangeCmd s p 0x0307 16 16 (fun _ => []) (fun _ => []) (fun s k bs =>
    replyDone (bs.foldl (fun t b => t.modBlock p b (fun v => { v with pin := false })) s) p k))

/-- Whether a block has a settled copy on the chip. -/
def onChip (blk : Block) : Bool :=
  (blk.state == .clean || blk.state == .dirty) && (match blk.res with | .t1 _ _ | .t2 _ => true | _ => false)

/-- EVICT (R257, R263): the copies of the range in T1 and T2 that have no users leave their slots, dirty ones once they are home. -/
def execEvictRange (p : PartId) (s : State) : Host.Outcome State Fault Refusal :=
  ends s (rangeCmd s p 0x0308 16 16 (fun _ => []) (fun _ => []) (fun s k bs =>
    replyDone (settle (bs.foldl (fun t b => if onChip (t.block p b) && !hasUsers t p b then startEvict t p b 5 (classOf t p) else t) s)) p k))

/-- FLUSH (R266): every sector dirty now goes home; answered when home holds them. -/
def execFlushRange (p : PartId) (s : State) : Host.Outcome State Fault Refusal :=
  ends s (rangeCmd s p 0x0309 16 16 (fun _ => []) (fun _ => []) (fun s k bs =>
    let ds := bs.filter (fun b => (s.block p b).dirty != 0)
    if queueFull s && ds != [] then refuseBusy s p k 2
    else
      let w : MemWait := { pend := pendOf p k, sectors := ds.map (fun b => (b, (s.block p b).dirty)) }
      settleWaits { ds.foldl (fun t b => startWriteback t p b 5 (classOf t p)) s with mem.waits := s.mem.waits ++ [w] }))

/-! ### ARM and APERTURE (R258, R276, R277) -/

/-- ARM (R277). -/
def armBody (p : Nat) (s : State) (k : Packet) : State :=
  let limit := if pktExpert k then par k 0 4 else 100
  checked s p k [] [(decide (limit < 1 ∨ 60000 < limit), 0)] (withGraph s p k (fun h g =>
    let set := cadenceSet s g
    let pinned := ((s.map p).filter (fun e => e.2.pin)).length
    if (s.part p).qT1.toNat + (s.part p).qT2.toNat < set.length + pinned then reply s p k stRange (detPkt 12) (pktObj k) (graphState s h)
    else if queueFull s then refuseBusy s p k 2
    else
      let s1 := set.foldl (fun t e => bringBlock t { part := p, block := e.1, rank := 5, cls := .interactive, dest := e.2 }) (holdSet s h)
      settleArms (s1.modGraph h (fun g => { g with arming := g.arming ++ [(pendOf p k, s.ts + BitVec.ofNat 64 (limit * 1000000))] }))))

/-- ARM. -/
def execArm (p : PartId) (s : State) : Host.Outcome State Fault Refusal := ends s (ringCmd s p 0x030A 0 4 [] (armBody p))

/-- ARM_TIMEOUT (R277): DETAIL is the number of blocks not yet resident. -/
def execArmTimeout (p : PartId) (graph : W32) (now : W64) (s : State) : Host.Outcome State Fault Refusal :=
  endsAt s now (fun s =>
    match s.graph graph.toNat with
    | none => s
    | some g =>
      if g.part ≠ p.val then s
      else
        let due := g.arming.filter (fun a => decide (a.2.toNat ≤ s.ts.toNat))
        let left := BitVec.ofNat 32 (setMissing s g)
        due.foldl (fun t a => replyLater t a.1 stTimeout left graph (graphState t graph.toNat))
          (s.modGraph graph.toNat (fun g => { g with arming := g.arming.filter (fun a => decide (s.ts.toNat < a.2.toNat)) })))

/-- APERTURE (R258). -/
def execAperture (p : PartId) (s : State) : Host.Outcome State Fault Refusal :=
  ends s (ringCmd s p 0x030B 4 4 [] (fun s k =>
    checked s p k [] [(decide (2 ^ 18 ≤ par k 0 4), 0)]
      (replyDone { s with mem.apBase := tset s.mem.apBase p (BitVec.ofNat 18 (par k 0 4)) } p k)))

/-! ### Sectors that land and sectors that go home (R256, R265, R270, R552, R558) -/

/-- A sector's request has been served. -/
def requestServed (s : State) (p b j : Nat) (write : Bool) : State :=
  { s with mem.outReq := s.mem.outReq.filter (fun r => !(r.part == p && r.block == b && r.sector == j && r.write == write)) }

/-- A block POISONED: its copy and its requests go. -/
def poisonBlock (s : State) (p b : Nat) : State :=
  let blk := s.block p b
  (forgetBlock (clearCopy s blk.res) p b).setBlock p b { blk with state := .poisoned, res := .none, dirty := 0, landed := 0, inWb := 0, rewr := 0, entryHint := 0, leaving := false }

/-- A sealing event: 0 LIVE_TAG_FAIL, 1 TREE_TAG_FAIL, 2 SEALED_TAG_FAIL, 3 SEALED_MISUSE, 4 REENC (R561). -/
def sealEvent (s : State) (bit : Nat) : State := { s with mem.sealEvents := raiseEv s.mem.sealEvents bit }

/-- The mapped blocks whose homes lie under one counter block of level 1 (4 blocks of 64 KiB) or level 2 (256), with their partitions (R555). -/
def underCounter (s : State) (key span : Nat) : List (Nat × Nat) :=
  s.mem.maps.flatMap (fun m => m.2.filterMap (fun e =>
    match e.2.state, e.2.home with
    | .unmapped, _ => none
    | _, .t3 h => if (poolBase s + t3Key s m.1 h) / span = key / span then some (m.1, e.1) else none
    | _, _ => none))

/-- A failure of a level-1 or level-2 counter block: every block under it is poisoned, and every partition that owns one is reset (R558). -/
def treeFail (s : State) (p b : Nat) (level2 : Bool) : State :=
  match (s.block p b).home with
  | .t3 h =>
    let hit := underCounter s (poolBase s + t3Key s p h) (if level2 then 16777216 else 262144)
    let s1 := ((hit.map (·.1)).dedup).foldl (fun t q => partitionReset t q 1) (memEvent s 2)
    hit.foldl (fun t e => poisonBlock t e.1 e.2) s1
  | _ => s

/-- The last sector of a fetch has landed: the block is CLEAN, or DIRTY where a write came first. -/
def fetchEnds (s : State) (p b : Nat) : State :=
  let blk := s.block p b
  let s0 := dropPlace { s with mem.outReq := s.mem.outReq.filter (fun r => !(r.part == p && r.block == b && !r.write && !r.copy) || r.id.isSome) } p b .fetch
  let s1 := s0.setBlock p b { blk with state := if blk.dirty = 0 then .clean else .dirty, lastUse := s.ts }
  settle { s1 with mem.pFetch := tmod 0 s1.mem.pFetch p satInc, spr.idleSince := s.ts }

/-- A sector that passed its checks lands (R256). -/
def sectorLands (s : State) (p b j : Nat) : State :=
  let blk := s.block p b
  let s1 : State := match blk.home with
    | .t3 h => ccTouch s (portOf s blk blk.res) p ((poolBase s + t3Key s p h + j * sectorBytes) / sectorBytes)
    | _ => s
  let s2 := requestServed (landSector s1 p b j) p b j false
  if (s2.block p b).landed = 0xFFFF then fetchEnds s2 p b else pumpHost s2

/-- Whether a sector of a T4 home cannot land yet: the Press is not READY, or the flash page unit that holds it has not landed (R279, R298). -/
def pageAwaited (s : State) (p b j : Nat) : Bool :=
  match (s.block p b).home with
  | .t4 r k => !s.press.ready || s.press.readQ.any (fun q => q.part == p && q.block == b && q.region == r && q.unit == 4 * k + j / 4 && !q.patrol && q.host.isNone)
  | _ => false

/-- The TAG_FAIL report of a sector that failed its check, from the tile mover of its memory port's core (R585). -/
def tagReport (s : State) (p b : Nat) : State := report s 0x060A (initId 5 (portOf s (s.block p b) (s.block p b).res)) p

/-- FETCH_SECTOR_LANDED (R256, R270, R279, R298, R552, R558): a sector of a T4 home waits for READY and for its flash page unit. -/
def fetchSectorLanded (s : State) (p b j : Nat) (check : FetchCheck) : State :=
  if (s.block p b).state ≠ .fetching ∨ pageAwaited s p b j then s
  else match check with
  | .ok => sectorLands s p b j
  | .liveTagFail => settle (liveError (tagReport (sealEvent { s with mem.liveFails := satInc s.mem.liveFails } 0) p b) p b)
  | .treeTagFail l2 => settle (treeFail (tagReport (sealEvent { s with mem.liveFails := satInc s.mem.liveFails } 1) p b) p b l2)
  | .sealedTagFail => settle (poisonBlock (memEvent (tagReport (sealEvent { s with mem.sealedFails := satInc s.mem.sealedFails } 2) p b) 1) p b)
  | .errorResponse => settle (liveError s p b)
  | .flashUncorr => settle (poisonBlock (report { s with press.events := raiseEv s.press.events 2 } 0x060B (initId 6 0) p) p b)

/-- FETCH_SECTOR_LANDED. -/
def execFetchSectorLanded (p : PartId) (block : Nat) (sector : Fin 16) (check : FetchCheck) (s : State) : Host.Outcome State Fault Refusal :=
  ends s (fetchSectorLanded s p block sector check)

/-- A waiting flush has one sector less to wait for. -/
def flushTook (s : State) (p b j : Nat) : State :=
  let turn (w : MemWait) : MemWait :=
    if w.pend.part = p ∧ w.pend.opcode = 0x0309 then
      { w with sectors := w.sectors.map (fun e => if e.1 = b then (e.1, e.2 &&& ~~~(BitVec.ofNat 16 (2 ^ j))) else e) }
    else w
  { s with mem.waits := s.mem.waits.map turn }

/-- The older data of a sector written again has reached home: the flushes accepted before that write have one sector less to wait for (R256, R266). -/
def flushOlder (s : State) (p b j : Nat) : State :=
  let bit : BitVec 16 := BitVec.ofNat 16 (2 ^ j)
  let turn (w : MemWait) : MemWait :=
    if w.pend.part = p ∧ w.pend.opcode = 0x0309 ∧ w.older.any (fun o => o.1 == b && o.2 &&& bit != 0) then
      { w with sectors := w.sectors.map (fun e => if e.1 = b then (e.1, e.2 &&& ~~~bit) else e) }
    else w
  { s with mem.waits := s.mem.waits.map turn }

/-- Whether a place is in a domain whose drain for a switch-off is under way (R268): T1 and T2 on entry to W, S or O, the T1 of the falling cores otherwise. -/
def drainPlace (s : State) (r : Resident) : Bool :=
  !s.spr.isoDone && (match r, s.spr.draining, s.spr.falling with
    | .t1 _ _, some _, _ | .t2 _, some _, _ => true
    | .t1 c _, none, some n => decide (rungSize s (n - 1) ≤ c)
    | _, _, _ => false)

/-- Whether a place is in the T1 of a core that the partition does not hold, as after a resize that gave the core up (R435, R441). -/
def givenUp (s : State) (p : Nat) (r : Resident) : Bool := match r with | .t1 c _ => !(coresOf s p).contains c | _ => false

/-- A block whose write-back has ended leaves its slot where it was to leave, unless it has gained users (R257, R263); a copy drained for a switch-off, or in a core given up, goes whatever uses it (R268, R441). -/
def leaveAfter (s : State) (p b : Nat) : State :=
  let blk := s.block p b
  let s1 := s.modBlock p b (fun v => { v with leaving := false })
  if (drainPlace s blk.res || givenUp s p blk.res) && blk.dirty == 0 then dropCopy s1 p b
  else if !blk.leaving || blk.dirty != 0 || hasUsers s p b then s1
  else leaveNow { s1 with mem.pEvict := tmod 0 s1.mem.pEvict p satInc } p b

/-- A write-back ends: the block is CLEAN, or DIRTY where it was written again, and what waited for it goes on; a flush that waits for newer data starts another (R256, R263, R266, R267). -/
def endWriteback (s : State) (p b : Nat) : State :=
  let blk := s.block p b
  let s1 := dropPlace (dropPlace (s.setBlock p b { blk with state := if blk.dirty = 0 then .clean else .dirty, rewr := 0 }) p b .flush) p b .evict
  let owed := s1.mem.waits.any (fun w => w.pend.part == p && w.pend.opcode == 0x0309 && w.sectors.any (fun e => e.1 == b && e.2 != 0))
  if owed then settle (startWriteback s1 p b 5 (classOf s1 p))
  else
    let s2 := leaveAfter s1 p b
    settle { s2 with spr.idleSince := s.ts }

/-- WRITEBACK_DONE (R256, R265): home accepts a sector; its DIRTY bit clears unless the sector was written again meanwhile. -/
def writebackDone (s : State) (p b j : Nat) : State :=
  let blk := s.block p b
  if blk.state ≠ .writeback ∨ !blk.inWb.getLsbD j then s
  else
    let bit : BitVec 16 := BitVec.ofNat 16 (2 ^ j)
    let s1 := if blk.rewr.getLsbD j then flushOlder s p b j else flushTook (homeSector s p b j) p b j
    let s2 := (requestServed s1 p b j true).modBlock p b (fun v => { v with inWb := v.inWb &&& ~~~bit })
    if (s2.block p b).inWb = 0 then endWriteback s2 p b else s2

/-- WRITEBACK_DONE. -/
def execWritebackDone (p : PartId) (block : Nat) (sector : Fin 16) (s : State) : Host.Outcome State Fault Refusal :=
  ends s (writebackDone s p block sector)

/-! ### Watermarks (R263) -/

/-- The copies of a tier that a partition holds and that are not on their way out. -/
def staying (s : State) (p : Nat) (tier : Resident → Bool) : Nat :=
  ((s.map p).filter (fun e => tier e.2.res && !e.2.leaving)).length

/-- Victims start to leave, at rank 6, until the slots that are free or becoming free reach the high watermark. -/
def evictUntil (p : Nat) (tier : Resident → Bool) (share extra : Nat) : Nat → State → State
  | 0, s => s
  | n + 1, s =>
    if s.mem.high.toNat * share ≤ 64 * (share - (staying s p tier + extra)) then s
    else match (victims s p tier).head? with
      | some v => evictUntil p tier share extra n (startEvict s p v 6 (classOf s p))
      | none => s

/-- A share below its low watermark is brought to its high watermark; `extra` are the blocks that stream rings take. -/
def keepWatermark (s : State) (p : Nat) (tier : Resident → Bool) (share extra : Nat) : State :=
  let n := staying s p tier
  if s.mem.low.toNat * share ≤ 64 * (share - (n + extra)) then s else pumpPlace (evictUntil p tier share extra n s)

/-- EVICTION_START (R263), on the share of T2 or on the shares of T1, core by core. -/
def evictionStart (s : State) (p : Nat) (tier2 : Bool) : State :=
  if tier2 then keepWatermark s p inT2 (s.part p).qT2.toNat (ringBlocks s p)
  else (coresOf s p).foldl (fun t c => keepWatermark t p (inT1 c) ((s.part p).qT1.toNat / (coresOf s p).length) 0) s

/-- EVICTION_START. -/
def execEvictionStart (p : PartId) (tier2 : Bool) (s : State) : Host.Outcome State Fault Refusal := ends s (evictionStart s p tier2)

end Sys2Proof.Machine
end

