-- ==== Sys2Proof/Machine/Flash.lean ====
section
/-! DEFINITION. The Press and the flash commands (R287 to R300, R422, R439): writes that complete when durable, refresh, wear levelling, patrol, checkpoints and recovery. -/

namespace Sys2Proof.Machine

/-! ### Erase blocks and units (R288, R289, R295) -/

/-- Page units of an erase block: 16 MiB of 16 KiB pages, as R293's example has it (notes/assumptions/41). -/
def unitsPerBlock : Nat := 1024

/-- An erase block. -/
def State.eblock (s : State) (b : Nat) : EBlock := tget {} s.press.eblocks b
/-- An erase block changed. -/
def State.modEblock (s : State) (b : Nat) (f : EBlock → EBlock) : State := { s with press.eblocks := tmod {} s.press.eblocks b f }
/-- A flag of FLASH_EVENTS raised: 0 REFRESH, 1 PATROL_FIND, 2 UNCORR, 3 PROG_FAIL, 4 ERASE_FAIL, 5 LOW_SPARE (R300). -/
def flashEvent (s : State) (bit : Nat) : State := { s with press.events := raiseEv s.press.events bit }

/-- The LUNs of the device (R287). -/
def lunCount (s : State) : Nat := s.press.channels.toNat * s.press.ce.toNat * (if s.press.lun2 then 2 else 1)
/-- The channel of an erase block. -/
def channelOf (s : State) (b : Nat) : Nat := (eplace s b 0).channel

/-- LOW_SPARE below 2 % of all blocks or below 16 per LUN, whichever is larger; READ_ONLY without a spare block (R295). -/
def checkSpare (s : State) : State :=
  let n := (spareBlocks s).length
  let low := decide (100 * n < 2 * s.press.nblocks ∨ n < 16 * lunCount s)
  let s1 := if low && !s.press.lowSpare then flashEvent s 5 else s
  { s1 with press.lowSpare := low, press.readOnly := s.press.readOnly || decide (n = 0) }

/-- The one of two that an order puts first. -/
def firstBy (lt : Nat → Nat → Bool) (best : Option Nat) (b : Nat) : Option Nat :=
  match best with
  | none => some b
  | some a => if lt b a then some b else some a
/-- The block of a list with the lowest erase count, the lowest number first (R295). -/
def leastWorn (s : State) (bs : List Nat) : Option Nat := bs.foldl (firstBy (fun a b => keyLt [(s.eblock a).erases, a] [(s.eblock b).erases, b])) none
/-- The block of a list with the highest erase count. -/
def mostWorn (s : State) (bs : List Nat) : Option Nat := bs.foldl (firstBy (fun a b => keyLt [(s.eblock b).erases, a] [(s.eblock a).erases, b])) none

/-- The free blocks of a channel: a move stays on its channel, so that the four units of a logical block stay on four (R288, notes/assumptions/41). -/
def freeOn (s : State) (channel : Nat) : List Nat := (spareBlocks s).filter (fun b => channelOf s b == channel)

/-- The bytes of a spare record that its CRC covers (notes/assumptions/41). -/
def pageRecCrc (region unit seq : Nat) : W32 := crc32 (leBytes 4 region ++ leBytes 4 unit ++ leBytes 8 seq)

/-- The numbers of a page's place, for a CRC over it. -/
def placeBytes (f : FlashPlace) : List Byte := [f.channel, f.ce, f.lun, f.block, f.page].flatMap (leBytes 4)
/-- The bytes of a map entry. -/
def mapEntryBytes (e : Nat × FlashPlace) : List Byte := leBytes 8 e.1 ++ placeBytes e.2
/-- The bytes of a change. -/
def changeBytes : MapChange → List Byte
  | .write us => 0 :: us.flatMap mapEntryBytes
  | .clear ks => 1 :: ks.flatMap (leBytes 8)
  | .move a b us => 2 :: (leBytes 4 a ++ leBytes 4 b ++ us.flatMap mapEntryBytes)
  | .retire b => 3 :: leBytes 4 b
  | .erase b => 4 :: leBytes 4 b
  | .region r n => 5 :: (leBytes 4 r ++ leBytes 4 n)
/-- The CRC of a journal record. -/
def recordCrc (seq : Nat) (c : MapChange) : W32 := crc32 (leBytes 8 seq ++ changeBytes c)
/-- Whether a journal record passes its CRC. -/
def JournalRec.good (r : JournalRec) : Bool := r.crc == recordCrc r.seq r.change

/-- A record in the journal, durable: every change of the map has one and takes effect with it (R296). -/
def journalRec (s : State) (c : MapChange) : State :=
  let n := s.press.journalSeq + 1
  { s with press.journal := s.press.journal ++ [{ seq := n, change := c, crc := recordCrc n c }], press.journalSeq := n }

/-- An erase block's erase is due once nothing valid is left in it (R293). -/
def startErase (s : State) (b : Nat) : State :=
  if (s.eblock b).retired then s.modEblock b (fun e => { e with units := [] })
  else s.modEblock b (fun e => { e with units := [], open_ := false, free := false, erasing := true })

/-- A block closed once no write is filling it any more; one that holds nothing valid then is erased. -/
def closeBlock (s : State) (b : Nat) : State :=
  if s.press.busy.any (fun w => w.placed.any (fun x => x.2.block == b)) || s.press.ops.any (fun o => o.block == b) then s
  else
    let s1 := s.modEblock b (fun e => { e with open_ := false })
    if (s1.eblock b).units = [] ∧ !(s1.eblock b).free then startErase s1 b else s1

/-- A unit no longer valid where it lay: a block left without valid units is erased. -/
def dropUnit (s : State) (r u : Nat) : State :=
  match tfind s.press.map (unitKey r u) with
  | none => s
  | some f =>
    let s1 := ({ s with press.map := tdel s.press.map (unitKey r u) }).modEblock f.block (fun e => { e with units := e.units.filter (fun x => x != (r, u)) })
    if (s1.eblock f.block).units = [] ∧ !(s1.eblock f.block).open_ ∧ !(s1.eblock f.block).free then startErase s1 f.block else s1

/-- A unit mapped to the page that holds it. -/
def mapUnit (s : State) (r u : Nat) (f : FlashPlace) : State :=
  let s1 := dropUnit s r u
  let held := (s1.eblock f.block).units.contains (r, u)
  ({ s1 with press.map := tset s1.press.map (unitKey r u) f }).modEblock f.block (fun e =>
    { e with free := false, units := if held then e.units else e.units ++ [(r, u)] })

/-- A refresh queued once (R292). -/
def queueRefresh (s : State) (b : Nat) : State :=
  if s.press.refreshQ.contains b then s else { s with press.refreshQ := s.press.refreshQ ++ [b] }

/-! ### Programs, erases and moves under way (R278, R290, R293, R295) -/

/-- Whether the Press may issue a program or an erase on a LUN: nothing else is under way on it, no read has been issued to it, and no read of rank 3 to 5 is queued for it (R278). -/
def lunTakes (s : State) (l : Nat) : Bool :=
  !((lunsBusy s).contains l) && !(s.press.readQ.any (fun r => unitLun s r.region r.unit == some l && (r.issued || decide (r.rank < 6))))

/-- A program or an erase issued to its LUN. -/
def issueOp (s : State) (o : FlashOp) : State :=
  let c : OnfiCmd := match o.work with | .erase => .blockErase | _ => .pageProgram
  onfi { s with press.ops := s.press.ops ++ [o] } (channelOf s o.block) c

/-- The page that an erase block programs next. -/
def nextPage (s : State) (b : Nat) : Nat := (s.eblock b).pages.length
/-- A page programmed: the block holds the unit's spare record, with the next write sequence (R289). -/
def programPage (s : State) (b region unit : Nat) : State :=
  let n := s.press.writeSeq + 1
  ({ s with press.writeSeq := n }).modEblock b (fun e =>
    { e with free := false, open_ := true, pages := e.pages ++ [({ region := region, unit := unit, seq := n, crc := pageRecCrc region unit n } : PageRec)] })

/-- The erases due that may begin: after every read issued to the block has ended (R293). -/
def issueErases (s : State) : State :=
  (s.press.eblocks.map (·.1)).foldl (fun t b =>
    if (t.eblock b).erasing && !(t.press.ops.any (fun o => o.block == b)) && lunTakes t (lunOf t b) && !(t.press.readQ.any (fun r => r.issued && r.eblock == some b))
    then issueOp t { block := b, work := .erase } else t) s

/-- The channels that the other units of a logical block take in a write: programmed or being programmed. -/
def channelsTaken (s : State) (w : FlashWait) (u : Nat) : List Nat :=
  (w.placed.filter (fun x => x.1 / 4 == u / 4)).map (fun x => x.2.channel) ++
  s.press.ops.filterMap (fun o => match o.work with
    | .write no _ v => if no = w.no ∧ v / 4 = u / 4 then some (channelOf s o.block) else none
    | _ => none)

/-- Whether a block has erased pages that a write may program: it is neither retired nor to be erased, and no move takes its data or fills it (notes/assumptions/41). -/
def hasRoom (s : State) (b : Nat) : Bool :=
  let e := s.eblock b
  !e.retired && !e.erasing && decide (e.pages.length < unitsPerBlock) && !(s.press.moves.any (fun m => m.src == b || m.dst == b)) && !s.press.retireQ.contains b

/-- The block that takes the program of a unit of a write: of those with erased pages, on a channel that no other unit of its logical block takes (R288), the one with the lowest erase count (R295). -/
def programBlock (s : State) (w : FlashWait) (u : Nat) : Option Nat :=
  let taken := channelsTaken s w u
  leastWorn s ((List.range s.press.nblocks).filter (fun b => hasRoom s b && !taken.contains (channelOf s b)))

/-- The next unit of the waiting writes that is not being programmed, writes in the order of their acceptance. -/
def nextWrite (s : State) : Option (FlashWait × Nat) :=
  (s.press.busy.flatMap (fun w => (w.left.filter (fun u => !(s.press.ops.any (fun o => o.work == .write w.no w.region u)))).map (fun u => (w, u)))).head?

/-- The programs of the waiting writes issued one after another, as far as their LUNs take them. -/
def issueWrites : Nat → State → State
  | 0, s => s
  | n + 1, s =>
    match nextWrite s with
    | none => s
    | some (w, u) =>
      match programBlock s w u with
      | none => s
      | some b =>
        if !lunTakes s (lunOf s b) then s
        else issueWrites n (issueOp (s.modEblock b (fun e => { e with free := false, open_ := true })) { block := b, page := nextPage s b, work := .write w.no w.region u })

/-- Whether a block's data may move: it holds valid units, no write is filling it, and no move has it. -/
def mayMove (s : State) (b : Nat) : Bool :=
  let e := s.eblock b
  e.units != [] && (!e.open_ || e.retired) && !(s.press.moves.any (fun m => m.src == b || m.dst == b))

/-- A move begins: its destination is being filled. -/
def beginMove (s : State) (src dst : Nat) (kind : MoveKind) : State :=
  { s.modEblock dst (fun e => { e with free := false, open_ := true }) with
    press.moves := s.press.moves ++ [{ src := src, dst := dst, kind := kind, left := (s.eblock src).units, placed := [] }] }

/-- Wear levelling (R295): past the spread, the data of the least-worn block that holds any goes to the most-worn free block of its channel. -/
def levelWear (s : State) : State :=
  let live := (List.range s.press.nblocks).filter (fun b => !(s.eblock b).retired)
  let hi := live.foldl (fun m b => max m (s.eblock b).erases) 0
  match leastWorn s (((s.press.eblocks.map (·.1)).filter (fun b => mayMove s b && !(s.eblock b).retired))) with
  | none => s
  | some a => match mostWorn s (freeOn s (channelOf s a)) with
    | some d => if (s.eblock a).erases + s.press.wearSpread.toNat < hi then beginMove s a d .wear else s
    | none => s

/-- The moves that wait begin while none is under way: of retired blocks, then refreshes, to the least-worn free block (R293, R295), then wear levelling. -/
def beginMoves (s : State) : State :=
  if s.press.moves != [] then s
  else
    let start (b : Nat) : Option Nat := if mayMove s b then leastWorn s (freeOn s (channelOf s b)) else none
    match s.press.retireQ.findSome? (fun b => (start b).map (fun d => (b, d))) with
    | some (b, d) => beginMove s b d .retire
    | none => match s.press.refreshQ.findSome? (fun b => (start b).map (fun d => (b, d))) with
      | some (b, d) => beginMove s b d .refresh
      | none => levelWear s

/-- The next page of a move is read from the old block, which counts as a page read (R292), and its program issued. -/
def issueCopy (s : State) (m : FlashMove) : State :=
  match m.left with
  | [] => s
  | x :: _ =>
    if s.press.ops.any (fun o => o.block == m.dst) || !lunTakes s (lunOf s m.dst) then s
    else
      let s1 := onfi ({ s with press.reads := s.press.reads + 1 }.modEblock m.src (fun e => { e with reads := e.reads + 1 })) (channelOf s m.src) .pageRead
      issueOp s1 { block := m.dst, page := nextPage s m.dst, work := .copy m.src x.1 x.2 }

/-- A suspended program or erase goes on when no read of rank 3 or better stands before it on its LUN (R278). -/
def resumeOps (s : State) : State :=
  s.press.suspended.foldl (fun t l =>
    if t.press.readQ.any (fun r => unitLun t r.region r.unit == some l && (r.issued || decide (r.rank ≤ 3))) then t
    else onfi { t with press.suspended := t.press.suspended.filter (· != l) } (l / 8) .resume) s

/-- The signals of a NAND channel between ONFI cycles (R648, R649): the reset values beyond CHANNELS and while the flash controller is off or in reset; else write protect released, and a chip enable low while a read, a program or an erase is under way on it. -/
def drivePins (s : State) (n : Nat) : NandPins :=
  if s.press.channels.toNat ≤ n || !s.press.ready || !s.crp.flc.on then {}
  else
    let busy (c : Nat) : Bool :=
      s.press.ops.any (fun o => let f := eplace s o.block 0; f.channel == n && f.ce == c) ||
      s.press.readQ.any (fun r => r.issued && (match r.eblock with | some b => let f := eplace s b 0; f.channel == n && f.ce == c | none => false))
    let low : BitVec 4 := (List.range 4).foldl (fun m c => if busy c then m ||| BitVec.ofNat 4 (2 ^ c) else m) 0
    { wpN := true, ceN := ~~~low, rbN := ~~~low }

/-- The signals of every channel follow what the Press does. -/
def showPins (s : State) : State := { s with press.nand := (List.range 16).map (fun n => (n, drivePins s n)) }

/-- The Press goes on: reads first, then what suspended work may resume, and the programs, erases and moves of rank 6. -/
def pumpFlash (s : State) : State :=
  if !s.press.ready then s
  else
    let s1 := issueErases (resumeOps (pumpPress s))
    let s2 := beginMoves (issueWrites (lunCount s1 + 1) s1)
    showPins (s2.press.moves.foldl issueCopy s2)

/-! ### Copies of flash blocks -/

/-- The mapped blocks of a flash region in a range of its blocks, with their partitions. -/
def mappedFlash (s : State) (r first n : Nat) : List (Nat × Nat) :=
  s.mem.maps.flatMap (fun m => m.2.filterMap (fun e =>
    match e.2.state, e.2.home with
    | .unmapped, _ => none
    | _, .t4 q k => if q = r ∧ first ≤ k ∧ k < first + n then some (m.1, e.1) else none
    | _, _ => none))

/-- The landed sectors of a fetch taken from the home again. -/
def reland (s : State) (p b : Nat) : State :=
  let l := (s.block p b).landed
  (List.range 16).foldl (fun t j => if l.getLsbD j then landSector t p b j else t) (s.modBlock p b (fun v => { v with landed := 0 }))

/-- A block whose home a flash command rewrote: POISONED ends (R271), and a copy stays equal to its home (R254). -/
def rewriteHome (s : State) (p b : Nat) : State :=
  let blk := s.block p b
  match blk.state with
  | .poisoned => s.setBlock p b { blk with state := .home }
  | .clean => installNow s p b blk.res
  | .fetching => reland s p b
  | _ => s

/-! ### The flash commands (R290, R422, R439) -/

/-- Logical blocks that the unretired erase blocks can hold. -/
def flashRoom (s : State) : Nat :=
  if s.press.channels = 0 then 0 else (s.press.nblocks - (s.press.eblocks.filter (fun e => e.2.retired)).length) * unitsPerBlock / 4

/-- A region's blocks from `first` on hold nothing. -/
def clearRegion (s : State) (r first n : Nat) : State :=
  let gone := s.press.map.filter (fun e => decide (e.1 / 2 ^ 28 = r ∧ 4 * first ≤ e.1 % 2 ^ 28 ∧ e.1 % 2 ^ 28 < 4 * (first + n)))
  let s1 := gone.foldl (fun t e => dropUnit t r (e.1 % 2 ^ 28)) s
  journalRec { s1 with mem.t4 := mclear s1.mem.t4 (t4Key r first) (t4Key r (first + n)) } (.clear (gone.map (·.1)))

/-- REGION_SET (R422, R439): the region is the sending partition's alone; 0 blocks removes it. -/
def execRegionSet (p : PartId) (s : State) : Host.Outcome State Fault Refusal :=
  ends s (ringCmdR s p 0x0F01 11 8 8 [(1, 3)] (fun s k =>
    let r := par k 0 1
    let n := par k 4 4
    let old : Region := tget {} s.press.regions r
    let others := ((s.press.regions.filter (fun e => e.1 != r)).map (fun e => e.2.blocks)).foldl (· + ·) 0
    checked s p k [] [(decide (63 < r), 0), (decide (2 ^ 26 < n ∨ flashRoom s < others + n), 4)] (
      let s1 := if n < old.blocks then clearRegion s r n (old.blocks - n) else s
      let regs := if n = 0 then tdel s1.press.regions r else tset s1.press.regions r { blocks := n, mask := BitVec.ofNat 64 (2 ^ p.val) }
      replyDone (pumpFlash (journalRec { s1 with press.regions := regs } (.region r n))) p k)))

/-- Whether a region number names no region. -/
def noRegion (s : State) (r : Nat) : Bool := (tget ({} : Region) s.press.regions r).blocks == 0

/-- REGION_ERASE (R422). -/
def execRegionErase (p : PartId) (s : State) : Host.Outcome State Fault Refusal :=
  ends s (ringCmdR s p 0x0F02 11 1 1 [] (fun s k =>
    let r := par k 0 1
    let n := (tget ({} : Region) s.press.regions r).blocks
    checked s p k [] [(noRegion s r, 0)] (
      replyDone (pumpFlash ((mappedFlash s r 0 n).foldl (fun t e => if (t.block e.1 e.2).state = .poisoned then t else rewriteHome t e.1 e.2) (clearRegion s r 0 n))) p k)))

/-- FLASH_WRITE (R290, R295, R422): the bytes are copied at acceptance, and the reply waits until they are durable. -/
def execFlashWrite (p : PartId) (s : State) : Host.Outcome State Fault Refusal :=
  ends s (ringCmdR s p 0x0F03 11 20 20 [(1, 3)] (fun s k =>
    let r := par k 0 1
    let first := par k 4 4
    let len := par k 16 4
    let n := len / blockBytes
    let blocks := (tget ({} : Region) s.press.regions r).blocks
    checked s p k [(!addrOk k 8, 8)]
      [(noRegion s r || s.press.readOnly, 0), (decide (blocks < first + n), 4), (decide (2 ^ 48 < parAddr k 8 + len), 8), (len % blockBytes != 0 || len == 0, 16)]
      (withData s p k 8 len (fun bs =>
        let w : FlashWait := { pend := pendOf p k, region := r, first := first, blocks := n
                               left := (List.range (4 * n)).map (fun i => 4 * first + i), placed := [], data := bs, no := s.press.writeNo }
        pumpFlash { s with press.busy := s.press.busy ++ [w], press.writeNo := s.press.writeNo + 1 }))))

/-- A write's record is durable (R290, R296): the map switches, the home holds the bytes, and the command is answered. -/
def finishWrite (s : State) (w : FlashWait) : State :=
  let s1 := { s with mem.t4 := mwrite 0 (mclear s.mem.t4 (t4Key w.region w.first) (t4Key w.region (w.first + w.blocks))) (t4Key w.region w.first) w.data }
  let s2 := w.placed.foldl (fun t x => mapUnit t w.region x.1 x.2) s1
  let used := (w.placed.map (fun x => x.2.block)).dedup
  let s3 := used.foldl closeBlock s2
  let s4 := (mappedFlash s3 w.region w.first w.blocks).foldl (fun t e => rewriteHome t e.1 e.2) s3
  replyLater (checkSpare (journalRec s4 (.write (w.placed.map (fun x => (unitKey w.region x.1, x.2)))))) w.pend stDone 0 noObj 0

/-- Writes whose units are all programmed end in the order of their acceptance. -/
def finishWrites : Nat → State → State
  | 0, s => s
  | n + 1, s =>
    match s.press.busy with
    | w :: rest => if w.left = [] then finishWrites n (finishWrite { s with press.busy := rest } w) else s
    | [] => s

/-- The units of a failed block that belong to writes in progress are programmed again elsewhere. -/
def unplace (b : Nat) (w : FlashWait) : FlashWait :=
  { w with left := (w.placed.filter (fun x => x.2.block == b)).map (·.1) ++ w.left, placed := w.placed.filter (fun x => x.2.block != b) }

/-- A block retired (R295): it takes no more data, what it holds is rewritten elsewhere, and a move that was filling it starts again. -/
def retireBlock (s : State) (b : Nat) : State :=
  let s1 := s.modEblock b (fun e => { e with retired := true, free := false, open_ := false, erasing := false })
  let s2 := { s1 with press.busy := s1.press.busy.map (unplace b), press.moves := s1.press.moves.filter (fun m => m.dst != b)
                      press.ops := s1.press.ops.filter (fun o => o.block != b) }
  let s3 := if (s2.eblock b).units = [] ∨ s2.press.retireQ.contains b then s2 else { s2 with press.retireQ := s2.press.retireQ ++ [b] }
  checkSpare (journalRec s3 (.retire b))

/-- The program or erase under way on a block, while nothing suspends it. -/
def opOn (s : State) (b : Nat) : Option FlashOp :=
  if s.press.suspended.contains (lunOf s b) then none else s.press.ops.find? (fun o => o.block == b)
/-- A program or erase no longer under way. -/
def endOp (s : State) (o : FlashOp) : State := { s with press.ops := s.press.ops.filter (fun x => decide (x ≠ o)) }

/-- FLASH_PROGRAM_DONE (R290, R293, R295): the page under way on the block holds its unit, of a write or of a move; a failure retires the block. -/
def flashProgramDone (s : State) (b : Nat) (ok : Bool) : State :=
  match opOn s b with
  | none => s
  | some o =>
    let place := eplace s b o.page
    match o.work with
    | .erase => s
    | .write no region u =>
      if !ok then pumpFlash (retireBlock (flashEvent s 3) b)
      else
        let take (w : FlashWait) : FlashWait := if w.no = no then { w with left := w.left.filter (· != u), placed := w.placed ++ [(u, place)] } else w
        let s1 := programPage (endOp s o) b region u
        pumpFlash (finishWrites s1.press.busy.length { s1 with press.busy := s1.press.busy.map take })
    | .copy src region u =>
      if !ok then pumpFlash (retireBlock (flashEvent s 3) b)
      else
        let take (m : FlashMove) : FlashMove := if m.src = src then { m with left := m.left.filter (· != (region, u)), placed := m.placed ++ [((region, u), place)] } else m
        let s1 := programPage (endOp s o) b region u
        pumpFlash { s1 with press.moves := s1.press.moves.map take }

/-- FLASH_PROGRAM_DONE. -/
def execFlashProgramDone (block : Nat) (ok : Bool) (s : State) : Host.Outcome State Fault Refusal := ends s (flashProgramDone s block ok)

/-- FLASH_ERASE_DONE (R293, R295): the erase count rises and the read counter restarts; a failure retires the block. -/
def flashEraseDone (s : State) (b : Nat) (ok : Bool) : State :=
  match opOn s b with
  | none => s
  | some o =>
    if o.work ≠ .erase then s
    else if !ok then pumpFlash (retireBlock (flashEvent s 4) b)
    else pumpFlash (checkSpare (journalRec ((endOp s o).modEblock b (fun e =>
      { e with erasing := false, free := true, open_ := false, erases := e.erases + 1, reads := 0, pages := [], units := [] })) (.erase b)))

/-- FLASH_ERASE_DONE. -/
def execFlashEraseDone (block : Nat) (ok : Bool) (s : State) : Host.Outcome State Fault Refusal := ends s (flashEraseDone s block ok)

/-- The units of a move that still lie in its old block. -/
def stillThere (s : State) (m : FlashMove) : List ((Nat × Nat) × FlashPlace) :=
  m.placed.filter (fun x => match tfind s.press.map (unitKey x.1.1 x.1.2) with | some f => f.block == m.src | none => false)

/-- The map switches to a move's new pages, and the old block is to be erased (R293). -/
def switchMove (s : State) (m : FlashMove) : State :=
  let us := stillThere s m
  let s1 := us.foldl (fun t x => mapUnit t x.1.1 x.1.2 x.2) (s.modEblock m.src (fun e => { e with open_ := true }))
  let s2 := s1.modEblock m.dst (fun e => { e with open_ := false })
  let s3 := startErase (s2.modEblock m.src (fun e => { e with open_ := false })) m.src
  let s4 := if (s3.eblock m.dst).units = [] then startErase s3 m.dst else s3
  journalRec s4 (.move m.src m.dst (us.map (fun x => (unitKey x.1.1 x.1.2, x.2))))

/-- REFRESH_COMPLETE (R293, R295): the record of the move of a block's units is durable; the map switches and the old block is erased. A refresh is counted. -/
def refreshComplete (s : State) (b : Nat) : State :=
  match s.press.moves.find? (fun m => m.src == b) with
  | none => s
  | some m =>
    if m.left ≠ [] then s
    else
      let s1 := switchMove { s with press.moves := s.press.moves.filter (fun x => x.src != b), press.refreshQ := s.press.refreshQ.filter (· != b)
                                    press.retireQ := s.press.retireQ.filter (· != b) } m
      pumpFlash (checkSpare (if m.kind = .refresh then flashEvent { s1 with press.refreshes := satInc s1.press.refreshes } 0 else s1))

/-- REFRESH_COMPLETE. -/
def execRefreshComplete (block : Nat) (s : State) : Host.Outcome State Fault Refusal := ends s (refreshComplete s block)

/-! ### Reads (R291, R292, R294) -/

/-- Uses of stages 2 and 3 by a codeword (R291). -/
def stageUses : Codeword → Nat
  | .hard _ => 0
  | .retry _ _ => 1
  | .soft _ | .uncorrectable => 2
/-- The bit errors found in a codeword. -/
def codeErrors : Codeword → Nat
  | .hard n | .retry _ n | .soft n => n
  | .uncorrectable => 0
/-- The codewords of a page. -/
def codewords (r : FlashRead) : List Codeword := [r.c0, r.c1, r.c2, r.c3]
/-- Uncorrectable codewords of a page. -/
def badCodewords (r : FlashRead) : Nat := (codewords r).count .uncorrectable

/-- Whether a read calls for a refresh of its block: stage 2 or 3 was needed, or a codeword had more than FLASH_REFRESH_BITS bit errors (R292). -/
def wantsRefresh (s : State) (r : FlashRead) : Bool :=
  (codewords r).any (fun c => stageUses c != 0 || decide (s.press.refreshBits.toNat < codeErrors c))

/-- A page read counted: in FLASH_READS, in its erase block's counter, in FLASH_RETRIES for every use of stage 2 or 3 and in FLASH_UNCORR for every uncorrectable codeword (R291, R292, R300). -/
def countRead (s : State) (eb : Option Nat) (r : FlashRead) : State :=
  let s1 := { s with
    press.reads := s.press.reads + 1
    press.retries := satAdd s.press.retries (((codewords r).map stageUses).sum)
    press.uncorr := satAdd s.press.uncorr (badCodewords r) }
  match eb with
  | none => s1
  | some b =>
    let s2 := s1.modEblock b (fun e => { e with reads := e.reads + 1 })
    if wantsRefresh s r || decide (s.press.rdLimit.toNat ≤ (s2.eblock b).reads) then queueRefresh s2 b else s2

/-- The blocks that a read's uncorrectable codeword poisons (R270): the block it was made for, and for a patrol read every block in HOME whose home it is. -/
def pagePoisons (s : State) (q : PageRead) : List (Nat × Nat) :=
  if q.patrol then (mappedFlash s q.region (q.unit / 4) 1).filter (fun e => (s.block e.1 e.2).state == .home)
  else [(q.part, q.block)]

/-- FLASH_PAGE_LANDED (R270, R278, R279, R291, R292, R294): the page unit of a read issued has been read and decoded. -/
def flashPageLanded (s : State) (region unit : Nat) (r : FlashRead) : State :=
  if !s.press.ready then s
  else match s.press.readQ.find? (fun q => q.issued && q.region == region && q.unit == unit) with
  | none => s
  | some q =>
    let s1 := countRead { s with press.readQ := s.press.readQ.erase q } q.eblock r
    let s2 := if q.patrol && wantsRefresh s r then flashEvent s1 1 else s1
    let s3 := if badCodewords r = 0 then s2
              else (pagePoisons s2 q).foldl (fun t e => match (t.block e.1 e.2).state with | .home | .fetching => poisonBlock t e.1 e.2 | _ => t)
                (report (flashEvent s2 2) 0x060B (initId 6 0) (if q.patrol then 64 else q.part))
    settle (pumpFlash s3)

/-- FLASH_PAGE_LANDED. -/
def execFlashPageLanded (region : Fin 64) (unit : Nat) (read : FlashRead) (s : State) : Host.Outcome State Fault Refusal :=
  ends s (flashPageLanded s region unit read)

/-- The LUNs with a read of rank 3 to 5 queued. -/
def busyLuns (s : State) : List Nat := (s.press.readQ.filter (fun r => decide (r.rank < 6))).filterMap (fun r => unitLun s r.region r.unit)

/-- The valid pages of a channel, in map order. -/
def validPages (s : State) (ch : Nat) : List (Nat × FlashPlace) := s.press.map.filter (fun e => e.2.channel == ch)

/-- The time between two patrol reads of a channel, so that its valid pages are read evenly over the period (R294). -/
def patrolStep (s : State) (ch : Nat) : Nat := s.press.days.toNat * 86400000000000 / max (validPages s ch).length 1

/-- PATROL_TICK (R294): once its time has come and no patrol read of the channel is outstanding, the channel's next valid page is read, in map order, on a LUN with no read of rank 3 to 5 queued; in state A alone, where the flash controller runs (R315). -/
def patrolTick (s : State) (ch : Nat) : State :=
  if !s.press.ready || s.spr.pstate != .a || s.press.readQ.any (fun q => q.patrol && (match q.eblock with | some b => channelOf s b == ch | none => false))
     || decide (s.ts.toNat < tget 0 s.press.patrolTs ch + patrolStep s ch) then s
  else
    let busy := busyLuns s
    let mine := ((validPages s ch).filter (fun e => !busy.contains (placeLun e.2))).map (·.1)
    let at_ := tget 0 s.press.patrolAt ch
    match (mine.find? (fun k => decide (at_ ≤ k))).or mine.head? with
    | some k =>
      let q : PageRead := { part := 0x3F, block := 0, region := k / 2 ^ 28, unit := k % 2 ^ 28, rank := 6, patrol := true
                            eblock := (tfind s.press.map k).map (·.block) }
      pumpFlash { s with press.patrolAt := tset s.press.patrolAt ch (k + 1), press.patrolTs := tset s.press.patrolTs ch s.ts.toNat
                         press.readQ := s.press.readQ ++ [q] }
    | none => s

/-- PATROL_TICK. -/
def execPatrolTick (channel : Fin 16) (now : W64) (s : State) : Host.Outcome State Fault Refusal := endsAt s now (fun s => patrolTick s channel)

/-! ### Checkpoints and recovery (R296 to R298, R300) -/

/-- The bytes that a checkpoint's CRC covers. -/
def checkpointBytes (c : Checkpoint) : List Byte :=
  leBytes 8 c.seq ++ c.map.flatMap mapEntryBytes ++ c.blocks.flatMap (fun e => leBytes 4 e.1 ++ leBytes 4 e.2.reads ++ leBytes 4 e.2.erases ++ [if e.2.retired then 1 else 0])
  ++ leBytes 8 c.counts.1.toNat ++ leBytes 4 c.counts.2.1.toNat ++ leBytes 4 c.counts.2.2.1.toNat ++ leBytes 4 c.counts.2.2.2.toNat
/-- Whether a checkpoint's CRC verifies. -/
def Checkpoint.good (c : Checkpoint) : Bool := c.crc == crc32 (checkpointBytes c)

/-- A checkpoint of the map, the read counters and the life counters; the journal keeps the records since the one before. -/
def checkpoint (s : State) : State :=
  let c : Checkpoint := { seq := s.press.journalSeq, map := s.press.map, blocks := s.press.eblocks
                          counts := (s.press.reads, s.press.refreshes, s.press.retries, s.press.uncorr), crc := 0 }
  let old : Nat := match s.press.ckpts with | [] => 0 | k :: _ => k.seq
  { s with
    press.journal := s.press.journal.filter (fun r => decide (old < r.seq))
    press.lastCkpt := s.ts
    press.ckpts := { c with crc := crc32 (checkpointBytes c) } :: s.press.ckpts.take 1 }

/-- The journal records since the last checkpoint. -/
def sinceCkpt (s : State) : Nat :=
  s.press.journalSeq - (match s.press.ckpts with | [] => 0 | k :: _ => k.seq)

/-- CHECKPOINT_DUE (R296): after 1,024 records, or 10 minutes. -/
def execCheckpointDue (now : W64) (s : State) : Host.Outcome State Fault Refusal :=
  endsAt s now (fun s =>
    if s.press.ready ∧ (1024 ≤ sinceCkpt s ∨ s.press.lastCkpt.toNat + 600000000000 ≤ s.ts.toNat) then checkpoint s else s)

/-- One journal record replayed over a map and the erase blocks. -/
def replayChange (m : Tbl FlashPlace × Tbl EBlock) : MapChange → Tbl FlashPlace × Tbl EBlock
  | .write us => (us.foldl (fun t e => tset t e.1 e.2) m.1, m.2)
  | .clear ks => (m.1.filter (fun e => !ks.contains e.1), m.2)
  | .move src _ us => (us.foldl (fun t e => match tfind t e.1 with | some f => if f.block = src then tset t e.1 e.2 else t | none => t) m.1, m.2)
  | .retire b => (m.1, tmod {} m.2 b (fun e => { e with retired := true }))
  | .erase b => (m.1, tmod {} m.2 b (fun e => { e with erases := e.erases + 1, reads := 0 }))
  | .region _ _ => m

/-- The last checkpoint whose CRC verifies (R297). -/
def lastGood (s : State) : Option Checkpoint := s.press.ckpts.find? Checkpoint.good

/-- The map and the erase blocks as the last good checkpoint and the journal give them: the records after it are replayed in sequence order until one fails its CRC (R297, R298). -/
def rebuild (s : State) : Tbl FlashPlace × Tbl EBlock :=
  let c := lastGood s
  let seq : Nat := match c with | some k => k.seq | none => 0
  let recs := (sortBy (fun a b => decide (a.seq < b.seq)) (s.press.journal.filter (fun r => decide (seq < r.seq)))).takeWhile JournalRec.good
  (recs.map (·.change)).foldl replayChange (match c with | some k => (k.map, k.blocks) | none => ([], []))

/-- The Press map in the carve-out and its record of the erase blocks, rebuilt (R297, R298); what the blocks hold on the NAND is theirs. -/
def loadMap (s : State) : State :=
  let r := rebuild s
  let bs := (s.press.eblocks.map (·.1) ++ r.2.map (·.1)).dedup
  { s with press.map := r.1
           press.eblocks := bs.foldl (fun t b => let e := tget {} r.2 b
             tmod {} t b (fun k => { k with reads := e.reads, erases := e.erases, retired := k.retired || e.retired })) s.press.eblocks }

/-- What an erase block holds by the map; one that a non-durable change was filling, or whose erase was interrupted, is erased, after its valid data has been rewritten elsewhere where it holds any (R297). -/
def recoverBlock (s : State) (b : Nat) : State :=
  let valid := (s.press.map.filter (fun e => e.2.block == b)).map (fun e => (e.1 / 2 ^ 28, e.1 % 2 ^ 28))
  let s1 := s.modEblock b (fun e => { e with units := valid })
  let s2 := if valid = [] ∧ ((s1.eblock b).open_ ∨ (s1.eblock b).erasing) then startErase s1 b
            else s1.modEblock b (fun e => { e with open_ := false })
  if valid ≠ [] ∧ ((s2.eblock b).retired ∨ (s.eblock b).open_) then { s2 with press.retireQ := s2.press.retireQ ++ [b] } else s2

/-- After an unclean stop every erase block's counter is the checkpoint's with FLASH_RD_LOSS_ADD, and a block at the limit is refreshed (R297). -/
def recoverReads (s : State) : State :=
  let old : Tbl EBlock := match lastGood s with | some k => k.blocks | none => []
  let count (b : Nat) : Nat := (tget ({} : EBlock) old b).reads + s.press.rdLossAdd.toNat
  let all := List.range s.press.nblocks
  { s with press.eblocks := all.map (fun b => (b, { s.eblock b with reads := count b }))
           press.refreshQ := s.press.refreshQ ++ all.filter (fun b => decide (s.press.rdLimit.toNat ≤ count b)) }

/-- The first format: the blocks that carry the factory bad-block marker are retired (R295). -/
def firstFormat (s : State) : State := if s.press.ckpts = [] then s.press.factoryBad.foldl retireBlock s else s

/-- Bring-up of the channels in use: the device's parameter page is read, with which the latency of the I/O cells is measured (R287, R649). -/
def bringUpNand (s : State) : State :=
  { (List.range s.press.channels.toNat).foldl (fun t n => onfi t n .readParameterPage) s with
    press.readLat := if 8 < s.press.cellLat.toNat then 8 else s.press.cellLat }

/-- The Press sets READY (R297, R298, R300): the map is rebuilt unless the carve-out kept it, its counters come from the checkpoint, and an unclean stop is recovered from first. -/
def pressReady (s : State) : State :=
  let c := match lastGood s with | some k => k.counts | none => (0, 0, 0, 0)
  let s0 := bringUpNand { s with press.reads := c.1, press.refreshes := c.2.1, press.retries := c.2.2.1, press.uncorr := c.2.2.2
                                 press.busy := [], press.ops := [], press.moves := [], press.suspended := [], press.retireQ := [] }
  let s1 := if s.press.mapKept && !s.press.dirtyStop then s0 else loadMap s0
  let s2 := (s1.press.eblocks.map (·.1)).foldl recoverBlock s1
  let s3 := firstFormat (if s.press.dirtyStop then recoverReads s2 else s2)
  let s4 := checkSpare { s3 with press.ready := true, press.recovering := false, press.unclean := s.press.dirtyStop, press.dirtyStop := true, press.mapKept := true, mem.t4Ready := true }
  pumpFlash (if s4.press.ckpts = [] then checkpoint s4 else s4)

/-- The flash controller stops in order: its checkpoint is written first. -/
def pressStop (s : State) : State :=
  let s1 := if s.press.ready then checkpoint s else s
  showPins { s1 with press.ready := false, press.dirtyStop := false, mem.t4Ready := false }

end Sys2Proof.Machine
end

