-- ==== Sys2Proof/Machine/Rings.lean ====
section
/-! DEFINITION. Packets and sessions (R382 to R406, R408), graph runs by command (R170, R218, R219, R411), logs and trace (R420, R425, R427). -/

namespace Sys2Proof.Machine

/-! ### Accepting a packet (R386, R387, R390, R396) -/

/-- The first thing wrong with a packet's header (R393, R395, R396 step 1): the packet offset. -/
def headerBad (k : Packet) : Option Nat :=
  if 16 ≤ pktFlags k then some 2
  else if field k.bytes 10 2 ≠ 0 then some 10
  else match (List.range 48).find? (fun i => field k.bytes (16 + i) 1 != 0) with
  | some i => some (16 + i)
  | none =>
    if 448 < pktLen k then some 8
    else if !knownOps.contains (pktOp k) then some 0
    else if pktCadence k && pktOp k != 0x0403 && pktOp k != 0x0404 then some 2
    else none

/-- The right that a packet's command needs, where it needs one (R430, R680). -/
def rightNeeded (p : Nat) (k : Packet) : Option Nat :=
  let op := pktOp k
  match op / 256 with
  | 0x02 => if op = 0x0204 ∧ par k 0 1 = p then none else some 0
  | 0x05 => some 1
  | 0x06 => if par k 0 1 < 4 then some (16 + par k 0 1) else none
  | 0x07 => some 2
  | 0x08 => if op = 0x0801 then none else some 3
  | 0x09 => some 4
  | 0x0A => some 5
  | 0x0C => some 6
  | 0x0D => if op = 0x0D01 then (if par k 9 1 = 1 then some 7 else none) else if op = 0x0D02 then some 8 else some 9
  | 0x0E => if op = 0x0E01 then none else some 10
  | 0x0F => some 11
  | _ => none

/-- A packet's checks of R396 steps 1 to 4: its refusal, or nothing. -/
def firstChecks (s : State) (p : Nat) (k : Packet) : Option (W16 × W32 × Byte) :=
  match headerBad k with
  | some off => some (stFormat, detPkt off, 0)
  | none => match sessionRefuse s p k with
    | some r => some (r.1, 0, r.2)
    | none => match rightNeeded p k with
      | some r => if hasRight s p r then none else some (stRights, BitVec.ofNat 32 r, 0)
      | none => none

/-- The ring that is read next: in turn from the last one, ring 0 alone while the session is not ATTACHED (R387, R400). -/
def nextRingOf (pt : Part) : Option Nat :=
  let order := (List.range 4).map (fun i => (pt.nextRing.toNat + i) % 4)
  order.find? (fun r =>
    let g : Ring := tget {} pt.rings r
    g.size != 0 && g.head != g.tail && (r == 0 || pt.session == .attached))

/-- Whether the array controller reads the partition's rings: READY, host-ready reached, in state A, no completion held, fewer than 8 packets in hand, and no critical trip (R387, R390, R449, R460, R619). -/
def readsRings (s : State) (p : Nat) : Bool :=
  let pt := s.part p
  pt.state == .ready && decide (15 ≤ s.rennet.step) && s.spr.pstate == .a && pt.held == [] && decide (pt.inHand.length < 8) && !s.pwr.trip

/-- The partition that packet intake serves next: of those whose rings are read and hold packets, by class, then the lowest virtual time, the lowest number first (R444, R445). -/
def intakeFirst (s : State) : Option Nat :=
  let ps := (s.parts.map (·.1)).filter (fun p => readsRings s p && (nextRingOf (s.part p)).isSome)
  (sortBy (fun a b => keyLt [classRank (classOf s a), (s.part a).btVirt, a] [classRank (classOf s b), (s.part b).btVirt, b]) ps).head?

/-- PACKET_ACCEPT (R386, R387, R396, R445): when intake comes to the partition, the packet and the list that it names (R407) are copied, the head advances, and the packet is in hand; one with a bad header, or one that may start and fails a check of its session or its rights, is answered at once. -/
def packetAccept (s : State) (p : Nat) : State :=
  match intakeFirst s == some p, nextRingOf (s.part p) with
  | true, some r =>
    let pt := s.part p
    let g : Ring := tget {} pt.rings r
    let base := g.baseHi.toNat * 2 ^ 32 + g.baseLo.toNat
    let k : Packet := copyList s p { bytes := devRead s p (base + (g.head.toNat % 2 ^ g.size.toNat) * 512) 512, ring := BitVec.ofNat 2 r, number := pt.accepted
                                     ext := BitVec.ofNat 64 (extTime s) }
    let first := pt.inHand == []
    let s1 := s.modPart p (fun q => { q with
      rings := tset q.rings r { g with head := g.head + 1 }, nextRing := BitVec.ofNat 2 (r + 1), accepted := q.accepted + 1
      openPkts := q.openPkts ++ [(k.number, pktFence k)], btVirt := q.btVirt + 1000 / max 1 q.weight.toNat })
    let refusal := if first && mayStart s1 p k then firstChecks s1 p k else (headerBad k).map (fun off => (stFormat, detPkt off, 0))
    match refusal with
    | some f => reply s1 p k f.1 f.2.1 noObj f.2.2
    | none => s1.modPart p (fun q => { q with inHand := q.inHand ++ [k] })
  | _, _ => s

/-- PACKET_ACCEPT. -/
def execPacketAccept (p : PartId) (s : State) : Host.Outcome State Fault Refusal := ends s (packetAccept s p)

/-! ### Sessions (R382, R400 to R405, R408) -/

/-- Every block of every configured ring is mapped, T3-homed and live-class (R382). -/
def ringsGood (s : State) (p : Nat) : Bool :=
  let pt := s.part p
  let good (b : Nat) : Bool := let blk := s.block p b
    blk.state != .unmapped && !blk.isSealed && t3Homed s p b
  (List.range 4).all (fun r =>
    let g : Ring := tget {} pt.rings r
    g.size == 0 || (blocksOf (g.baseHi.toNat * 2 ^ 32 + g.baseLo.toNat) (512 * 2 ^ g.size.toNat)).all good)
  && (pt.cqSize == 0 || (blocksOf (pt.cqBaseHi.toNat * 2 ^ 32 + pt.cqBaseLo.toNat) (32 * 2 ^ pt.cqSize.toNat)).all good)

/-- A forced attach (R404): every standing graph stops, and the attach waits for live runs to retire. -/
def forceAttach (s : State) (p : Nat) (k : Packet) : State :=
  let s1 := stopStanding s p
  if noLiveRuns s1 p then attachNow s1 p k false else s1.modPart p (fun q => { q with attachWait := some k })

/-- ATTACH (R401, R404). -/
def attachBody (p : Nat) (s : State) (k : Packet) : State :=
  let force := pktExpert k && nbit (par k 16 1) 0
  let token := BitVec.ofNat 64 (par k 8 8)
  let pt := s.part p
  if pktExpert k && decide (2 ≤ par k 16 1) then refuseFmt s p k 16
  else if par k 0 1 ≠ 2 then reply s p k stVersion 0x0200 noObj (sessionState s p)
  else if token = 0 then refuseRange s p k 8
  else if !ringsGood s p then reply s p k stRange 0 noObj 0
  else match pt.session with
  | .attached => refuseState s p k noObj 0x11
  | .none => attachNow s p k false
  | .detached =>
    if token = pt.token ∧ pt.attachWait = none then attachNow s p k true
    else if force ∧ pt.attachWait = none then forceAttach s p k
    else refuseState s p k noObj 0x12

/-- ATTACH. -/
def execAttach (p : PartId) (s : State) : Host.Outcome State Fault Refusal :=
  ends s (ringCmd s p 0x0101 16 17 [(4, 4)] (attachBody p))

/-- The started standing graphs of a partition, by handle. -/
def startedGraphs (s : State) (p : Nat) : List Nat := (s.graphs.filter (fun e => e.2.part == p && e.2.started)).map (·.1)

/-- The session becomes NONE and the heartbeat stops (R405). -/
def endSession (s : State) (p : Nat) : State :=
  partNote (s.modPart p (fun q => { q with session := .none, minor := 0, attachWait := none })) p 4

/-- DETACH (R405): refused while a standing graph is started, which OBJ and STATE name. -/
def execDetach (p : PartId) (s : State) : Host.Outcome State Fault Refusal :=
  ends s (ringCmd s p 0x0102 0 0 [] (fun s k =>
    match startedGraphs s p with
    | h :: _ => refuseState s p k (BitVec.ofNat 32 h) (graphState s h)
    | [] => endSession (reply s p k stDone 0 noObj 0x10) p))

/-- ECHO (R408): any bytes; DETAIL returns PLEN. -/
def execEcho (p : PartId) (s : State) : Host.Outcome State Fault Refusal :=
  ends s (ringTake s p 0x0103 (fun s k => reply s p k stDone (BitVec.ofNat 32 (pktLen k)) noObj 0))

/-- Entry to DETACHED (R402, R403): packets in hand end with DETACHED, and unread packets are discarded and counted. -/
def detachLost (s : State) (p : Nat) : State :=
  let pt := s.part p
  let s1 := partEvent (s.modPart p (fun q => { q with session := .detached, inHand := [] })) p 3
  let s2 := pt.inHand.foldl (fun t k => reply t p k stDetached 0 noObj 0x12) s1
  let unread := ((List.range 4).map (fun r => let g : Ring := tget {} pt.rings r
                                             (g.tail - g.head).toNat)).foldl (· + ·) 0
  let s3 := s2.modPart p (fun q => { q with rings := tmap (fun g => { g with head := g.tail }) q.rings, sqDropped := satAdd q.sqDropped unread })
  globalNote (partNote s3 p 4) 4

/-- HEARTBEAT_TIMEOUT (R402). -/
def execHeartbeatTimeout (p : PartId) (now : W64) (s : State) : Host.Outcome State Fault Refusal :=
  endsAt s now (fun s =>
    let pt := s.part p
    if pt.session = .attached ∧ pt.hbLimit ≠ 0 ∧ pt.hbTs.toNat + pt.hbLimit.toNat * 1000000 ≤ s.ts.toNat then detachLost s p else s)

/-! ### RUN, START, STOP (R170, R218, R219, R324, R411) -/

/-- Whether a core is up to run tasks: powered and out of reset. -/
def coreUp (s : State) (c : Nat) : Bool := (s.core c).on && !(s.core c).inReset

/-- The cores of a graph that are not up. -/
def downCores (s : State) (g : Graph) : List Nat := (graphCores g).filter (fun c => !coreUp s c)

/-- The tests that RUN and START share (R219, R324): a cadence-bound request needs beats; a core that is off needs the ladder right to be raised. -/
def runnable (s : State) (p : Nat) (k : Packet) (h : Nat) (g : Graph) (cadence : Bool) (body : State → State) : State :=
  let down := downCores s g
  let need := down.foldl (fun m c => max m (rungOf s c)) 0
  if g.run.isSome || g.started then refuseState s p k (pktObj k) (graphState s h)
  else if cadence && (!s.cad.en || (s.cad.period == 0 && s.cad.realBeats == 0)) then refuseState s p k (pktObj k) (cadState s)
  else if down ≠ [] ∧ !hasRight s p 2 then refuseState (promote s need (some p)) p k (pktObj k) (BitVec.ofNat 8 (0x60 + pstateCode s.spr.pstate))
  else body (if down = [] then s else promote s need (some p))

/-- The run of a run command: its reference time, a RELEASE of 0 naming external time at the packet's acceptance, and whether external time has reached it (R218). -/
def newRun (s : State) (k : Packet) : Run :=
  let a := if par k 0 8 = 0 then k.ext.toNat else par k 0 8
  { cadence := pktCadence k, a := BitVec.ofNat 64 a, released := !pktCadence k || decide (a ≤ extTime s), tag := pktTag k
    opcode := BitVec.ofNat 16 (pktOp k), ring := k.ring, notify := pktNotify k, packet := some k.number }

/-- RUN (R170, R218, R411): no reply of its own; the run's completion is it. -/
def runBody (p : Nat) (s : State) (k : Packet) : State :=
  withGraph s p k (fun h g => runnable s p k h g (pktCadence k) (fun s =>
    let r := newRun s k
    if r.released then releaseSingle s h g r
    else s.modGraph h (fun q => { q with run := some r })))

/-- RUN. -/
def execRunGraph (p : PartId) (s : State) : Host.Outcome State Fault Refusal := ends s (ringCmd s p 0x0403 8 8 [] (runBody p))

/-- START (R218, R411): E0 is the first whole beat after the packet's acceptance, which may be yet to come, and releases follow at PERIOD. -/
def startBody (p : Nat) (s : State) (k : Packet) : State :=
  if !pktCadence k then reply s p k stFormat (detPkt 2) (pktObj k) 0
  else withGraph s p k (fun h g =>
    if !g.standing then reply s p k stRange (detPkt 12) (pktObj k) (graphState s h)
    else runnable s p k h g true (fun s =>
      let s1 := s.modGraph h (fun q => { q with
        started := true, e0 := k.beat, nextK := 0
        tag := pktTag k, ring := k.ring, notify := pktNotify k })
      reply s1 p k stDone 0 (pktObj k) (graphState s1 h)))

/-- START. -/
def execStartGraph (p : PartId) (s : State) : Host.Outcome State Fault Refusal := ends s (ringCmd s p 0x0404 0 0 [] (startBody p))

/-- STOP (R411): no further release; answered when the live run has retired. -/
def stopBody (p : Nat) (s : State) (k : Packet) : State :=
  withGraph s p k (fun h g =>
    if !g.started then refuseState s p k (pktObj k) (graphState s h)
    else
      let s1 := idleStamp (s.modGraph h (fun q => { q with started := false, e0 := none })) (graphCores g)
      if g.run.isSome then s1.modGraph h (fun q => { q with stopping := some (pendOf p k) })
      else reply s1 p k stDone 0 (pktObj k) (graphState s1 h))

/-- STOP. -/
def execStopGraph (p : PartId) (s : State) : Host.Outcome State Fault Refusal := ends s (ringCmd s p 0x0405 0 0 [] (stopBody p))

/-! ### Logs and trace (R420, R425, R427) -/

/-- A log ring's bytes mapped and writable: a mapped range of T3-homed blocks. -/
def ringMapped (s : State) (p addr len : Nat) : Bool := (blocksOf addr len).all (fun b => (s.block p b).state != .unmapped)

/-- Format and range tests of a ring's address and size at two offsets. -/
def ringRng (s : State) (p : Nat) (k : Packet) (a z : Nat) : List (Bool × Nat) :=
  let size := par k z 1
  [(decide (size < 6 ∨ 16 < size), z), (decide (2 ^ 48 < parAddr k a + 32 * 2 ^ min size 16) || !ringMapped s p (parAddr k a) (32 * 2 ^ min size 16), a)]

/-- LOG_SET (R420, R425). -/
def execLogSet (p : PartId) (s : State) : Host.Outcome State Fault Refusal :=
  ends s (ringTake s p 0x0D01 (fun s k =>
    if par k 9 1 = 1 ∧ !hasRight s p 7 then refuseRight s p k 7
    else formed s p k 10 10 [] (fun s k =>
      checked s p k [(!addrOk k 0, 0), (decide (1 < par k 9 1), 9)] (ringRng s p k 0 8) (
        if par k 9 1 = 0 then
          replyDone (s.modPart p (fun q => { q with logAddr := parAddr k 0, logSize := par k 8 1, logWr := 0 })) p k
        else
          replyDone ({ s with rel.glogOwner := some p.val, rel.glogAddr := parAddr k 0, rel.glogSize := par k 8 1 }.modPart p (fun q => { q with glogWr := 0 })) p k))))

/-- TRACE_SET (R420, R427). -/
def execTraceSet (p : PartId) (s : State) : Host.Outcome State Fault Refusal :=
  ends s (ringCmdR s p 0x0D02 8 41 41 [] (fun s k =>
    checked s p k [(!addrOk k 32, 32)] (ringRng s p k 32 40) (
      replyDone (s.modPart p (fun q => { q with trcEnable := parBytes k 0 32, trcAddr := parAddr k 32, trcSize := par k 40 1, trcWr := 0 })) p k)))

end Sys2Proof.Machine
end

