-- ==== Sys2Proof/Machine/Parts.lean ====
section
/-! DEFINITION. Partitions: create, resize, destroy and reset by command (R409, R428 to R436, R441, R559), and the configuration's records that they take (R439, R475). -/

namespace Sys2Proof.Machine

/-! ### The configuration section (R475) -/

/-- The records of a configuration section: type and value; a record that runs past the end ends them. -/
def configRecs : Nat → List Byte → List (Nat × List Byte)
  | 0, _ => []
  | n + 1, l =>
    let len := field l 2 2
    if l.length < 4 ∨ l.length < 4 + len then []
    else (field l 0 2, slice l 4 len) :: configRecs n (l.drop (4 + (len + 3) / 4 * 4))

/-- Whether a record runs past the section's end. -/
def configOverrun : Nat → List Byte → Bool
  | 0, _ => false
  | n + 1, l =>
    let len := field l 2 2
    if l.length = 0 then false
    else if l.length < 4 ∨ l.length < 4 + len then true
    else configOverrun n (l.drop (4 + (len + 3) / 4 * 4))

/-- The records of the configuration in force. -/
def records (s : State) : List (Nat × List Byte) := configRecs s.rennet.config.length s.rennet.config

/-- The last record of a type. -/
def lastRec (s : State) (type : Nat) : Option (List Byte) := ((records s).reverse.find? (fun r => r.1 == type)).map (·.2)

/-! ### Extents (R428, R433, R684) -/

/-- The runs of a pool of blocks that no extent of a list takes, lowest first. -/
def freeRunsAux (fuel : Nat) (used : List (Nat × Nat)) (at_ hi : Nat) : List (Nat × Nat) :=
  match fuel with
  | 0 => []
  | n + 1 =>
    if hi ≤ at_ then []
    else match (sortBy (fun a b => decide (a.1 < b.1)) (used.filter (fun e => decide (at_ < e.1 + e.2)))).head? with
      | none => [(at_, hi - at_)]
      | some e =>
        if e.1 ≤ at_ then freeRunsAux n used (e.1 + e.2) hi
        else (at_, min e.1 hi - at_) :: freeRunsAux n used (e.1 + e.2) hi

/-- The free runs of the carve-out remainder, beside some extents. -/
def freeRuns (s : State) (held : List (Nat × Nat)) : List (Nat × Nat) :=
  let used := held ++ s.parts.flatMap (fun e => e.2.extents ++ e.2.cacheExt)
  freeRunsAux (used.length + 1) (used.filter (fun e => e.2 != 0)) 0 s.mem.t3Avail.toNat

/-- The blocks of the remainder that may hold T3 homes: those in the first 128 GiB of the carve-out (R556, R684). -/
def homeLimit (s : State) : Nat := (137438953472 - poolBase s) / blockBytes

/-- Runs cut off at a block. -/
def clipRuns (hi : Nat) (l : List (Nat × Nat)) : List (Nat × Nat) :=
  (l.map (fun e => (e.1, min (e.1 + e.2) hi - e.1))).filter (fun e => e.2 != 0)

/-- Blocks taken from runs in the order given. -/
def takeFrom : List (Nat × Nat) → Nat → Option (List (Nat × Nat))
  | _, 0 => some []
  | [], _ + 1 => none
  | (b, m) :: rest, n + 1 =>
    if n + 1 ≤ m then some [(b, n + 1)] else (takeFrom rest (n + 1 - m)).map (fun l => (b, m) :: l)

/-- Extents for `n` blocks: the lowest run that holds them all, else the largest runs first. -/
def takeRuns (runs : List (Nat × Nat)) (n : Nat) : Option (List (Nat × Nat)) :=
  if n = 0 then some []
  else match runs.find? (fun e => decide (n ≤ e.2)) with
    | some e => some [(e.1, n)]
    | none => takeFrom (sortBy (fun a b => decide (b.2 < a.2)) runs) n

/-- The runs above the limit of T3 homes before those below it, for cache extents. -/
def cacheFirst (hi : Nat) (l : List (Nat × Nat)) : List (Nat × Nat) :=
  (l.filterMap (fun e => if hi < e.1 + e.2 then some (max e.1 hi, e.1 + e.2 - max e.1 hi) else none)) ++ clipRuns hi l

/-- Extents for more T3 homes and for a T4 cache, at most 8 with those kept (R428, R433). -/
def placeExtents (s : State) (kept : List (Nat × Nat)) (t3 cache : Nat) : Option (List (Nat × Nat) × List (Nat × Nat)) :=
  match takeRuns (clipRuns (homeLimit s) (freeRuns s kept)) t3 with
  | none => none
  | some a => match takeRuns (cacheFirst (homeLimit s) (freeRuns s (kept ++ a))) cache with
    | none => none
    | some b => if kept.length + a.length + b.length ≤ 8 then some (a, b) else none

/-! ### The fields of create and resize (R409, R433) -/

/-- The parameters of create and resize. -/
structure PartForm where
  num    : Nat
  cls    : Nat
  weight : Nat
  ncore  : Nat
  tile   : Nat
  ctx    : Nat
  t1     : Nat
  t2     : Nat
  t3     : Nat
  cache  : Nat
  rights : Nat
  mask   : Option Nat               -- CORE_MASK of the expert form
  deriving DecidableEq, Repr

/-- The fields at an offset of a parameter area, in the basic or the expert form. -/
def readForm (l : List Byte) (expert : Bool) : PartForm :=
  { num := field l 0 1, cls := field l 1 1, weight := field l 2 2, ncore := field l 4 1, tile := field l 5 1, ctx := field l 6 2
    t1 := field l 8 4, t2 := field l 12 4, t3 := field l 16 4, cache := field l 20 4, rights := field l 24 4
    mask := if expert then some (field l 32 8) else none }

/-- The rights word's defined bits. -/
def rightsMask : Nat := 0x000F0FFF

/-- The lowest right named that the sender lacks (R431). -/
def lackingRight (s : State) (p rights : Nat) : Option Nat :=
  (List.range 32).find? (fun i => nbit rightsMask i && nbit rights i && !hasRight s p i)

/-- Format tests: NCORE with a CORE_MASK, reserved rights. -/
def partFormat (f : PartForm) : List (Bool × Nat) :=
  [(f.mask.isSome && f.ncore != 0, 4), (decide (f.rights &&& rightsMask ≠ f.rights), 24)]

/-- The cores that no partition holds. -/
def unheld (s : State) : List Nat := (List.range s.ncores).filter (fun c => holders s c == [])

/-- The cores that the fields give a partition: the mask's, or the lowest unheld ones beside those it keeps (R433). -/
def formCores (s : State) (f : PartForm) (held : List Nat) : Option (List Nat) :=
  match f.mask with
  | some m => some ((List.range 64).filter (fun c => nbit m c))
  | none =>
    if f.ncore ≤ held.length then some (held.take f.ncore)
    else if held.length + (unheld s).length < f.ncore then none
    else some (held ++ (unheld s).take (f.ncore - held.length))

/-- Whether a core may be held by one more partition than those beside `p`. -/
def coreBad (s : State) (p c : Nat) : Bool := decide (s.ncores ≤ c ∨ 8 ≤ ((holders s c).filter (· != p)).length)

/-- The sum over the other partitions of a core of what they have there. -/
def otherSum (s : State) (p c : Nat) (f : Part → Nat) : Nat :=
  (((holders s c).filter (· != p)).map (fun q => f (s.part q))).foldl (· + ·) 0

/-- The T1 share of a partition on each of its cores. -/
def t1Share (pt : Part) : Nat := pt.qT1.toNat / max 1 ((List.range 64).filter (fun c => pt.cores.getLsbD c)).length

/-- Range tests of the fields over the cores they give, in order of offset (R433). -/
def partRange (s : State) (f : PartForm) (held : List Nat) : List (Bool × Nat) :=
  let cores := formCores s f held
  let cs := cores.getD []
  let n := cs.length
  let modeBad := if s.ncores = 8 then cs.any (fun c => (holders s c).any (fun q => q != f.num && (s.part q).tileMode != (f.tile == 1))) else f.tile != 0
  [(decide (63 < f.num), 0), (decide (f.cls < 1 ∨ 3 < f.cls), 1), (decide (f.weight < 1 ∨ 1000 < f.weight), 2), (cores.isNone, 4)
   , (decide (1 < f.tile) || modeBad, 5)
   , ((if n = 0 then f.ctx != 0 else decide (f.ctx < 1 ∨ 1024 < f.ctx)) || cs.any (fun c => decide (1024 < otherSum s f.num c (fun q => q.qCtx.toNat) + f.ctx)), 6)
   , ((if n = 0 then f.t1 != 0 else f.t1 % n != 0) || cs.any (fun c => decide (128 < otherSum s f.num c t1Share + f.t1 / max n 1)), 8)
   , (decide (32 * s.ncores < ((s.parts.filter (fun e => e.1 != f.num)).map (fun e => e.2.qT2.toNat)).foldl (· + ·) 0 + f.t2), 12)
   , (decide (f.t3 < 64), 16)
   , (f.mask.isSome && cs.any (coreBad s f.num), 32)]

/-! ### Making a partition (R381, R432, R434, R437, R439) -/

/-- The configuration's grants of flash regions to a partition (R439). -/
def grantRegions (s : State) (p : Nat) : State :=
  ((records s).filter (fun r => r.1 == 5)).foldl (fun t r =>
    let n := field r.2 0 1
    let mask := field r.2 (r.2.length - 8) 8
    if nbit mask p then { t with press.regions := tmod {} t.press.regions n (fun q => { q with mask := q.mask ||| BitVec.ofNat 64 (2 ^ p) }) } else t) s

/-- A core mask. -/
def coreMask (cs : List Nat) : W64 := BitVec.ofNat 64 (cs.foldl (fun m c => m ||| 2 ^ c) 0)

/-- A partition made READY with its holdings: its page, mailbox, aperture base and counters at their reset values, what the configuration sets for it, its grants, and its first 4 MiB mapped (R381, R434). -/
def makePart (s : State) (f : PartForm) (cs : List Nat) (t3 cache : List (Nat × Nat)) : State :=
  let limits := lastRec s 7
  let within (off n hi dflt : Nat) : Nat :=
    match limits with | some v => (if 1 ≤ field v off n ∧ field v off n ≤ hi then field v off n else dflt) | none => dflt
  let fresh : Part :=
    { cls := BitVec.ofNat 2 f.cls, weight := BitVec.ofNat 10 f.weight, tileMode := f.tile == 1, state := .ready, rights := BitVec.ofNat 32 f.rights
      cores := coreMask cs, qT1 := BitVec.ofNat 32 f.t1, qT2 := BitVec.ofNat 32 f.t2, qT3 := BitVec.ofNat 32 f.t3, qT4c := BitVec.ofNat 32 f.cache
      qCtx := BitVec.ofNat 11 f.ctx, extents := t3, cacheExt := cache
      intAddr := match lastRec s 6 with | some v => BitVec.ofNat 64 (field v 0 8) | none => 0
      ageBulk := BitVec.ofNat 16 (within 0 2 1000 5), ageBack := BitVec.ofNat 16 (within 2 2 1000 50), slice := BitVec.ofNat 8 (within 4 1 255 64) }
  let s1 := ({ s with mem.apBase := tdel s.mem.apBase f.num }.modPart f.num (fun _ => fresh)).modMbx f.num (fun _ => {})
  grantRegions (mapT3 (clearCounters s1 f.num) f.num 0 64 0) f.num

/-- The reply of a partition command: OBJ is the partition's number. -/
def partReply (s : State) (p : Nat) (k : Packet) (st : W16) (det : W32) (n : Nat) (state : Byte) : State :=
  reply s p k st det (if n < 64 then BitVec.ofNat 32 n else noObj) state

/-- A partition command's tests of rights, formats and ranges, and the cores it gives. -/
def partChecked (s : State) (p : Nat) (k : Packet) (f : PartForm) (held : List Nat) (more : List (Bool × Nat)) (body : List Nat → State) : State :=
  match lackingRight s p f.rights with
  | some r => partReply s p k stRights (BitVec.ofNat 32 r) f.num 0
  | none => match firstBad (partFormat f) with
    | some o => partReply s p k stFormat (detPar o) f.num 0
    | none => match firstBad (sortBy (fun a b => decide (a.2 < b.2)) (partRange s f held ++ more)) with
      | some o => partReply s p k stRange (detPar o) f.num 0
      | none => body ((formCores s f held).getD [])

/-- CREATE (R433, R434). -/
def createBody (p : Nat) (s : State) (k : Packet) : State :=
  let f := readForm (k.bytes.drop 64) (pktExpert k)
  let ext := placeExtents s [] f.t3 f.cache
  partChecked s p k f [] [(ext.isNone, 16)] (fun cs =>
    if (s.part f.num).state ≠ .absent then partReply s p k stState 0 f.num (partState s f.num)
    else match ext with
      | none => s
      | some e => partReply (makePart s f cs e.1 e.2) p k stDone 0 f.num 0x21)

/-- CREATE. -/
def execCreate (p : PartId) (s : State) : Host.Outcome State Fault Refusal :=
  ends s (ringCmdR s p 0x0201 0 28 40 [(28, 4)] (createBody p))

/-! ### Resize (R433, R435, R441) -/

/-- The copies in cores that a partition gives up start to leave them, at rank 5 (R435, R441). -/
def leaveCores (s : State) (p : Nat) (gone : List Nat) : State :=
  gone.foldl (fun t c => (partT1 t p c).foldl (fun u b => startEvict u p b 5 (classOf s p)) t) s

/-- The copies beyond a share start to leave it, in the order of R263 at rank 5 (R435); `extra` are the blocks that stream rings take. -/
def trimTo (p : Nat) (inTier : Resident → Bool) (share extra : Nat) : Nat → State → State
  | 0, s => s
  | n + 1, s =>
    if staying s p inTier + extra ≤ share then s
    else match (victims s p inTier).head? with
      | some v => trimTo p inTier share extra n (startEvict s p v 5 (classOf s p))
      | none => s

/-- Every share of a partition brought within its quota. -/
def trimShares (s : State) (p : Nat) : State :=
  let trim (t : State) (tier : Resident → Bool) (share extra : Nat) : State := trimTo p tier share extra (staying t p tier) t
  let s1 := (coresOf s p).foldl (fun t c => trim t (inT1 c) ((s.part p).qT1.toNat / (coresOf s p).length) 0) s
  let s2 := trim s1 inT2 (s.part p).qT2.toNat (ringBlocks s p)
  trim s2 (fun r => match r with | .cache _ => true | _ => false) (s.part p).qT4c.toNat 0

/-- The blocks of a partition that are on their way out of their slots. -/
def leavers (s : State) (p : Nat) : List Nat := ((s.map p).filter (fun e => e.2.leaving)).map (·.1)

/-- The reply of a resize waits until the slot of every evicted block is released; its class, weight and rights hold from the reply on (R435). -/
def resizeReply (s : State) (p : Nat) (k : Packet) (f : PartForm) : State :=
  let e : ResizeEnd := { part := f.num, cls := BitVec.ofNat 2 f.cls, weight := BitVec.ofNat 10 f.weight, rights := BitVec.ofNat 32 f.rights }
  settle { s with mem.waits := s.mem.waits ++ [{ pend := pendOf p k, sectors := (leavers s f.num).map (fun b => (b, 0xFFFF)), of_ := some e }] }

/-- A home moved to another offset of its partition's home area, its bytes with it over a memory port. -/
def moveHome (s : State) (p b h2 : Nat) : State :=
  let blk := s.block p b
  match blk.home with
  | .t3 h =>
    let s1 := if blk.written then
        askCopy (askCopy { s with mem.t3 := mcopy s.mem.t3 (t3Key s p h) s.mem.t3 (t3Key s p h2) blockBytes } p b (homeAddr s p h) false 0xFFFF 5 (classOf s p))
          p b (homeAddr s p h2) true 0xFFFF 5 (classOf s p)
      else s
    s1.modBlock p b (fun v => { v with home := .t3 h2 })
  | _ => s

/-- Homes above a lower quota move to free offsets below it (R441). -/
def packHomes (s : State) (p quota : Nat) : State :=
  let high := (s.map p).filterMap (fun e => match e.2.state, e.2.home with
    | .unmapped, _ => none
    | _, .t3 h => if quota ≤ h then some e.1 else none
    | _, _ => none)
  high.foldl (fun t b => match freeHomes t p 1 with
    | h :: _ => moveHome t p b h
    | [] => t) s

/-- Extents cut to a number of blocks. -/
def cutExtents : List (Nat × Nat) → Nat → List (Nat × Nat)
  | [], _ => []
  | (b, m) :: r, n => if n = 0 then [] else if n ≤ m then [(b, n)] else (b, m) :: cutExtents r (n - m)

/-- The extents after a resize: those kept, cut or grown, and those of the cache placed anew. -/
def resizedExtents (s : State) (f : PartForm) : Option (List (Nat × Nat) × List (Nat × Nat)) :=
  let pt := s.part f.num
  let kept := cutExtents pt.extents f.t3
  let s1 := s.modPart f.num (fun q => { q with extents := [], cacheExt := [] })
  (placeExtents s1 kept (f.t3 - pt.qT3.toNat) f.cache).map (fun e => (kept ++ e.1, e.2))

/-- Whether a loaded graph of the partition has a task on one of some cores. -/
def graphUses (s : State) (p : Nat) (cs : List Nat) : Bool :=
  s.graphs.any (fun e => e.2.part == p && e.2.ctxOf.any (fun x => cs.contains x.1))

/-- RESIZE (R433, R435). -/
def resizeBody (p : Nat) (s : State) (k : Packet) : State :=
  let f := readForm (k.bytes.drop 64) (pktExpert k)
  let pt := s.part f.num
  let held := coresOf s f.num
  let ext := resizedExtents s f
  let inUse := (held.map (fun c => usedCtx s f.num c)).foldl max 0
  partChecked s p k f held [(decide (f.ctx < inUse), 6), (decide (f.t3 < (homesUsed s f.num).length) || ext.isNone, 16)] (fun cs =>
    let gone := held.filter (fun c => !cs.contains c)
    if pt.state ≠ .ready ∨ pt.tileMode ≠ (f.tile == 1) ∨ graphUses s f.num gone then partReply s p k stState 0 f.num (partState s f.num)
    else match ext with
      | none => s
      | some e =>
        let s1 := packHomes (leaveCores s f.num gone) f.num f.t3
        let s2 := s1.modPart f.num (fun q => { q with
          cores := coreMask cs
          qT1 := BitVec.ofNat 32 f.t1, qT2 := BitVec.ofNat 32 f.t2, qT3 := BitVec.ofNat 32 f.t3, qT4c := BitVec.ofNat 32 f.cache
          qCtx := BitVec.ofNat 11 f.ctx, extents := e.1, cacheExt := e.2 })
        resizeReply (trimShares s2 f.num) p k f)

/-- RESIZE. -/
def execResize (p : PartId) (s : State) : Host.Outcome State Fault Refusal :=
  ends s (ringCmdR s p 0x0202 0 28 40 [(28, 4)] (resizeBody p))

/-! ### Destroy (R436, R559) -/

/-- Streams of a partition released: FREE, without ring, tap or view. -/
def freeStreams (s : State) (n : Nat) : State :=
  { s with streams := s.streams.map (fun e => if e.2.owned ∧ e.2.owner.toNat = n then (e.1, { inFrame := e.2.inFrame, dropFrame := e.2.inFrame }) else e) }

/-- The watch program's ownership given up: the program and its data leave the SRAM lines it loaded. -/
def freeWatch (s : State) (n : Nat) : State :=
  if s.spr.owner = some n then
    { s with spr.source := 0, spr.owner := none, spr.npkt := 0, spr.watchEn := false, spr.running := false, spr.inWindow := false, spr.onOpen := false, spr.history := [] }
  else s

/-- The licences of a partition dropped, their keys zeroed. -/
def freeLicences (s : State) (n : Nat) : State :=
  { s with att.lics := tmap (fun l => if l.valid ∧ l.part = n then {} else l) s.att.lics }

/-- The counters over a byte range of the carve-out set to zero (R559). -/
def zeroCounters (s : State) (lo len : Nat) : State :=
  let keep (unit : Nat) (t : Tbl Nat) : Tbl Nat := t.filter (fun e => decide ((e.1 + 1) * unit ≤ lo ∨ lo + len ≤ e.1 * unit))
  { s with mem.minor0 := keep 64 s.mem.minor0, mem.major0 := keep 4096 s.mem.major0 }

/-- The freed extents scrubbed by key change, and by zeros under ZERO_ON_FREE (R559). -/
def scrub (s : State) (n : Nat) : State :=
  let s1 := { s with mem.gen := tmod 0 s.mem.gen n (· + 1) }
  (s.part n).extents.foldl (fun t e =>
    let u := zeroCounters t (poolBase t + e.1 * blockBytes) (e.2 * blockBytes)
    if u.mem.zeroOnFree then { u with mem.t3 := mclear u.mem.t3 (e.1 * blockBytes) ((e.1 + e.2) * blockBytes) } else u) s1

/-- What a destroyed partition held is released (R436 steps 4 to 6). -/
def releaseAll (s : State) (n : Nat) : State :=
  let s0 := freeStreams s n
  let s1 := freeLicences (freeWatch { s0 with spr.tapLow := lowestTap s0 } n) n
  let s2 := scrub { s1 with
    fab.binds := s1.fab.binds.filter (fun b => b.1 != n)
    fab.bars := s1.fab.bars.filter (fun b => !(b.2.valid && b.2.owner == n))
    fab.jobs := s1.fab.jobs.filter (fun j => !(j.2.valid && j.2.owner == n))
    spr.preWarm := tmap (fun l => l.filter (fun e => e.part != n)) s1.spr.preWarm
    spr.preQueue := s1.spr.preQueue.filter (fun e => e.part != n)
    press.regions := tmap (fun r => { r with mask := r.mask &&& ~~~(BitVec.ofNat 64 (2 ^ n)) }) s1.press.regions
    rel.glogOwner := if s1.rel.glogOwner = some n then none else s1.rel.glogOwner
    cores := tmap (fun c => { c with vtime := tdel c.vtime n }) s1.cores
    mem.maps := tdel s1.mem.maps n } n
  pruneTables { s2 with parts := tdel s2.parts n, mbxs := tdel s2.mbxs n } n

/-- A partition destroyed (R436). -/
def destroyPart (s : State) (n : Nat) : State :=
  let s1 := partitionReset (endSession s n) n 4
  let s2 := (graphsOf s1 n).foldl (fun t h => unloadNow t h) s1
  releaseAll s2 n

/-- Whether a partition is the only READY one that holds the admin right. -/
def lastAdmin (s : State) (n : Nat) : Bool :=
  hasRight s n 0 && (List.range 64).all (fun q => q == n || (s.part q).state != .ready || !hasRight s q 0)

/-- DESTROY (R436, R451); one that destroys its sender answers first. -/
def execDestroy (p : PartId) (s : State) : Host.Outcome State Fault Refusal :=
  ends s (ringCmdR s p 0x0203 0 1 1 [] (fun s k =>
    let n := par k 0 1
    if 63 < n then partReply s p k stRange (detPar 0) n 0
    else if (s.part n).state ≠ .ready ∨ startedGraphs s n ≠ [] ∨ lastAdmin s n then partReply s p k stState 0 n (partState s n)
    else if n = p.val then destroyPart (partReply s p k stDone 0 n 0x20) n
    else partReply (destroyPart s n) p k stDone 0 n 0x20))

/-! ### Reset by command (R409, R449, R451) -/

/-- PARTITION_RESET_CMD (R449): a partition may reset itself without the admin right; the reply waits for READY. -/
def execPartitionResetCmd (p : PartId) (s : State) : Host.Outcome State Fault Refusal :=
  ends s (ringTake s p 0x0204 (fun s k =>
    let n := par k 0 1
    if n ≠ p.val ∧ !hasRight s p 0 then refuseRight s p k 0
    else formed s p k 1 1 [] (fun s k =>
      if 63 < n then partReply s p k stRange (detPar 0) n 0
      else if (s.part n).state = .absent then partReply s p k stState 0 n 0x20
      else partitionReset (s.modPart n (fun q => { q with resetTag := q.resetTag ++ [pendOf p k] })) n 4)))

end Sys2Proof.Machine
end

