-- ==== Sys2Proof/Machine/Rind.lean ====
section
/-! DEFINITION. The Rind: entries, segments, group records, compaction and the messages that read it (R588 to R597, R600). -/

namespace Sys2Proof.Machine

/-- The 64 bytes of an entry (R589). -/
def entryBytes (e : RindEntry) : List Byte :=
  leBytes 4 e.seq.toNat ++ leBytes 2 e.code.toNat ++ leBytes 1 (b2n e.pinned + 2 * b2n e.carried + 4 * b2n e.degraded) ++ [e.commit]
    ++ leBytes 8 e.ts.toNat ++ padTo 32 e.body ++ leBytes 4 e.origSeq.toNat ++ padTo 12 e.link

/-- Every committed entry held, oldest segment first. -/
def rindEntries (s : State) : List RindEntry :=
  ((sortBy (fun a b => decide (a.segSeq.toNat < b.segSeq.toNat)) ((s.rel.segs.filter (fun e => e.2.opened)).map (·.2))).flatMap (·.entries)).filter (fun e => e.commit == 0)

/-- Whether Rennet signs with the alias keys (R476, R521, R526). -/
def aliasUsable (s : State) : Bool := s.rennet.boot == .verified && !s.rennet.caveOff && decide (s.otp.lc.toNat ≤ 3)

/-! ### Segments and groups (R592, R593) -/

/-- A segment is opened in the next place in writing order. -/
def openSegment (s : State) : Option (State × Nat) :=
  let base := match s.rel.curSeg with | some i => i + 1 | none => 0
  match ((List.range 128).map (fun i => (base + i) % 128)).find? (fun i => !(tget ({} : Segment) s.rel.segs i).opened) with
  | none => none
  | some i =>
    let g : Segment := { opened := true, segSeq := s.rel.nextSeg, firstSeq := s.rel.nextSeq }
    some ({ s with rel.segs := tset s.rel.segs i g, rel.nextSeg := s.rel.nextSeg + 1, rel.curSeg := some i }, i)

/-- The segment that takes the next entry. -/
def roomSegment (s : State) : Option (State × Nat) :=
  match s.rel.curSeg with
  | some i => if (tget ({} : Segment) s.rel.segs i).entries.length < 768 then some (s, i) else openSegment s
  | none => openSegment s

/-- Bytes 0 to 111 of a group record, which its signatures cover (R593). -/
def groupHead (g : GroupRec) : List Byte :=
  leBytes 4 0x53545244 ++ leBytes 4 g.group.toNat ++ leBytes 4 g.bootCtr.toNat ++ [BitVec.ofNat 8 (b2n g.isSigned), 0] ++ leBytes 2 256 ++ padTo 48 g.chain ++ padTo 48 g.aliasKeys

/-- The group record of a group whose last slot was used (R593): the chain over its 256 slots, signed where the alias keys are usable, and a RIND_SUM frame to the collector. -/
def closeGroup (s : State) (i : Nat) : State :=
  let es := (tget ({} : Segment) s.rel.segs i).entries
  if es.length % 256 ≠ 0 ∨ es = [] then s
  else
    let last := es.drop (es.length - 256)
    let prev := match s.rel.groups with
      | g :: _ => g.chain
      | [] => freeBytes s 71 48
    let no : W32 := match s.rel.groups with | g :: _ => g.group + 1 | [] => 0
    let chain := Config.sha384 (prev ++ last.flatMap entryBytes)
    let first : W32 := match last with | e :: _ => e.seq | [] => 0
    let ok := aliasUsable s
    let keys := if ok then padTo 48 (Config.sha384 (Config.publicKey 0 (tget [] s.rennet.cave 5) ++ Config.publicKey 1 (tget [] s.rennet.cave 6))) else List.replicate 48 0
    let g0 : GroupRec := { group := no, bootCtr := s.otp.bootCtr, isSigned := ok, chain := chain, firstSeq := first, aliasKeys := keys }
    let sign (scheme slot n : Nat) : List Byte := if ok then padTo n (Config.sign scheme (tget [] s.rennet.cave slot) (groupHead g0) s.freeNo) else List.replicate n 0xFF
    let g := { g0 with ecSig := sign 0 5 96, mlSig := sign 1 6 4627 }
    let s1 := ({ s with rel.groups := g :: s.rel.groups, rel.group := no, rel.unsigned_ := !g.isSigned }).draw
    let payload := padTo 48 chain ++ leBytes 4 first.toNat ++ leBytes 2 256 ++ [BitVec.ofNat 8 (b2n g.isSigned)] ++ List.replicate 9 0
    if collector s1 = s1.fab.id.toNat then s1
    else sendFrame s1 (mkFrame s1 0x07 (collector s1) false 0x3F (BitVec.ofNat 64 (no.toNat + g.bootCtr.toNat * 2 ^ 32)) payload) none

/-- An entry written (R214, R589, R591): it takes the next slot and SEQ, the time of its first phase unless it carries another entry, and links to the last committed entry. -/
def appendEntry (s : State) (e : RindEntry) : Option State :=
  match roomSegment s with
  | none => none
  | some (s1, i) =>
    let link := match (rindEntries s1).getLast? with
      | some l => (Config.sha3 (entryBytes l)).take 12
      | none => freeBytes s1 70 12
    let w := { e with seq := s1.rel.nextSeq, link := link, ts := if e.carried then e.ts else s1.ts }
    let s2 := ({ s1 with
      rel.segs := tmod {} s1.rel.segs i (fun g => { g with entries := g.entries ++ [w] })
      rel.nextSeq := s1.rel.nextSeq + 1 }).draw
    some (closeGroup s2 i)

/-! ### Compaction (R594) -/

/-- The oldest closed segment that holds fewer than 384 pinned entries. -/
def compactable (s : State) : Option Nat :=
  ((sortBy (fun a b => decide (a.2.segSeq.toNat < b.2.segSeq.toNat)) (s.rel.segs.filter (fun e =>
    e.2.opened && !e.2.doomed && s.rel.curSeg != some e.1 && decide ((e.2.entries.filter (·.pinned)).length < 384)))).map (·.1)).head?

/-- An entry of an ordinary kind with a class and a body; the low byte of its CODE is not fixed by the manual (notes/assumptions/11). -/
def plainEntry (s : State) (cls : Nat) (pinned : Bool) (body : List Byte) : RindEntry :=
  { seq := 0, code := BitVec.ofNat 16 (cls * 256 + (Config.free 8 s.freeNo 72).toNat), pinned := pinned, carried := false
    degraded := s.otp.degraded, ts := s.ts, body := padTo 32 body, origSeq := 0, link := [] }

/-- The body of a SUMMARY entry (R590). -/
def summaryBody (s : State) (g : Segment) : List Byte :=
  let es := g.entries
  let first := match es.head? with | some e => e.seq.toNat | none => 0
  let last := match es.getLast? with | some e => e.seq.toNat | none => 0
  let count (c : Nat) : Nat := min 255 (es.filter (fun e => e.code.toNat / 256 == c)).length
  let chain := match s.rel.groups.find? (fun r => decide (first ≤ r.firstSeq.toNat ∧ r.firstSeq.toNat ≤ last)) with
    | some r => r.chain.take 8
    | none => []
  leBytes 4 first ++ leBytes 4 last ++ leBytes 2 es.length ++ leBytes 2 (es.filter (·.pinned)).length
    ++ (List.range 10).map (fun i => BitVec.ofNat 8 (count (i + 1))) ++ [0, 0] ++ padTo 8 chain

/-- The oldest segment that qualifies is compacted (R594): its pinned entries carried, a SUMMARY written, and the segment DOOMED; it is erased with the next write. -/
def compactOne (s : State) : State :=
  match compactable s with
  | none => { s with rel.compacting := false }
  | some i =>
    let g : Segment := tget {} s.rel.segs i
    let carry (e : RindEntry) : RindEntry := { e with carried := true, origSeq := if e.carried then e.origSeq else e.seq }
    let s1 := (g.entries.filter (·.pinned)).foldl (fun t e => (appendEntry t (carry e)).getD t) s
    let s2 := ((appendEntry s1 (plainEntry s1 9 false (summaryBody s1 g))).getD s1).draw
    { s2 with rel.segs := tmod {} s2.rel.segs i (fun q => { q with doomed := true }), rel.compacting := false }

/-- The DOOMED segments are erased, with their group records (R592, R594). -/
def eraseDoomed (s : State) : State :=
  let dead := s.rel.segs.filter (fun e => e.2.doomed)
  let inSeg (r : GroupRec) : Bool := dead.any (fun d => d.2.entries.any (fun e => e.seq == r.firstSeq))
  if dead = [] then s
  else { s with rel.segs := s.rel.segs.filter (fun e => !e.2.doomed), rel.groups := s.rel.groups.filter (fun r => !inSeg r) }

/-- Start-up's reading of the segments (R591, R592): a half-written slot is made dead, and what is DOOMED is erased. -/
def rindScan (s : State) : State :=
  eraseDoomed { s with rel.segs := tmap (fun g => { g with entries := g.entries.map (fun e => if e.commit = 0xFF then { e with commit := 0x5A } else e) }) s.rel.segs }

/-! ### The queue written (R591, R595, R600) -/

/-- The Rind's status as Rennet rewrites it with every write (R595, R600). -/
def rindStatus (s : State) : State :=
  let n := openSegs s
  let es := rindEntries s
  { s with
    rel.rindFull := decide (125 ≤ n) && (compactable s).isNone
    rel.compacting := decide (116 ≤ n) && (compactable s).isSome
    rel.headSeq := match es.getLast? with | some e => e.seq | none => 0
    rel.oldestSeq := match es.head? with | some e => e.seq | none => 0 }

/-- An entry that cannot be kept is counted (R595). -/
def dropEntry (s : State) : State := { s with rel.rindDropped := satInc s.rel.rindDropped, rel.droppedSec := s.rel.droppedSec + 1 }

/-- One entry of the queue is written, after the compaction that is due: while FULL, ordinary entries are dropped (R595). -/
def rindWrite (s : State) : State :=
  let s0 := if s.rel.compacting then compactOne (eraseDoomed s) else eraseDoomed s
  match s0.rel.rindQ with
  | [] => rindStatus s0
  | e :: rest =>
    let s1 := { s0 with rel.rindQ := rest }
    rindStatus (if s1.rel.rindFull && !e.pinned then dropEntry s1 else (appendEntry s1 e).getD (dropEntry s1))

/-- Every queued entry is written, as before an instance reset that Rennet causes and on entry to S or O (R596). -/
def rindFlush (s : State) : State := if s.rel.rindReady then s.rel.rindQ.foldl (fun t _ => rindWrite t) s else s

/-- RIND_ENTRY_WRITE (R591): Rennet writes the queue's first entry. -/
def execRindEntryWrite (s : State) : Host.Outcome State Fault Refusal :=
  ends s (if s.rel.rindReady && (s.rel.rindQ != [] || s.rel.compacting) then rindWrite s else s)

/-- RIND_DROPPED_TICK (R595): a DROPPED entry for a second in which entries were dropped. -/
def rindDroppedTick (s : State) : State :=
  if s.rel.rindReady && s.rel.droppedSec != 0 then
    let e := plainEntry s 10 false (leBytes 4 s.rel.droppedSec ++ leBytes 4 s.rel.folded)
    let s1 := (appendEntry s e).getD (dropEntry s)
    (rindStatus { s1 with rel.droppedSec := 0, rel.folded := 0 }).draw
  else s

/-- RIND_DROPPED_TICK. -/
def execRindDroppedTick (s : State) : Host.Outcome State Fault Refusal := ends s (rindDroppedTick s)

/-- An instance reset that Rennet causes: its queued entries are written first, and the events that cannot be are held in the always-on island, at most 4 (R596). -/
def rennetReset (s : State) (cause : BitVec 4) : State :=
  let s1 := rindFlush s
  instanceReset { s1 with rel.aonHeld := (s1.rel.aonHeld ++ s1.rel.rindQ).take 4 } cause

/-! ### Reading it (R597) -/

/-- Whether a mailbox may read the Rind: the management port, or a partition that holds the log right (right 7). -/
def mayReadRind (s : State) (m : Nat) : Bool := m == 65 || (decide (m < 64) && hasRight s m 7)

/-- RIND_INFO (R597). -/
def execRindInfo (m : MbxId) (s : State) : Host.Outcome State Fault Refusal :=
  ends s (mailServe s m 0x0030 (fun s _ =>
    if !mayReadRind s m then (s, stRights, [])
    else (s, stDone, [s.rel.oldestSeq, s.rel.headSeq, BitVec.ofNat 32 (openSegs s), s.rel.group, s.rel.rindDropped])))

/-- The words of bytes, filled with zeros to whole words. -/
def wordsOf (l : List Byte) : List W32 := (List.range ((l.length + 3) / 4)).map (fun i => BitVec.ofNat 32 (field l (4 * i) 4))

/-- RIND_READ (R597): part 0 or 1 is 24 bytes of the entry, part 2 its last 16. -/
def execRindRead (m : MbxId) (s : State) : Host.Outcome State Fault Refusal :=
  ends s (mailServe s m 0x0031 (fun s a =>
    if !mayReadRind s m then (s, stRights, [])
    else
      let part := (a.getD 1 0).toNat
      match (rindEntries s).find? (fun e => e.seq == a.getD 0 0) with
      | none => (s, stRange, [])
      | some e =>
        if 2 < part then (s, stRange, [])
        else (s, stDone, wordsOf (slice (entryBytes e) (24 * part) (if part = 2 then 16 else 24)))))

/-- RIND_SUM (R593): another device's group record reaches the collector; the manual has the collector keep nothing of it, so the state stays as it is (notes/assumptions/42). -/
def execRindSum (_f : FabPort) (_src : DevId) (_group _bootCtr : W32) (_payload : List Byte) (s : State) : Host.Outcome State Fault Refusal :=
  ends s s

end Sys2Proof.Machine
end

