-- ==== Sys2Proof/Machine/Fuses.lean ====
section
/-! DEFINITION. One-time memory: its map, sensing, programming and FINALISE (R503 to R513), life-cycle states, signed requests and debug rights (R514 to R527). -/

namespace Sys2Proof.Machine

/-! ### The map (R503 to R505) -/

/-- The byte offset of fixed region `n`. -/
def regionOff (n : Nat) : Nat :=
  if n = 0 then 0 else if n = 1 then 0x80 else if n = 2 then 0x280 else if n = 3 then 0x12C0 else if n ≤ 7 then 0x3330 + (n - 4) * 0x50 else 0x3470
/-- Its size. -/
def regionSize (n : Nat) : Nat :=
  if n = 0 then 128 else if n = 1 then 512 else if n = 2 then 4160 else if n = 3 then 8304 else 80
/-- Its declared length as a memory has it: that of PATCH follows N (R505). -/
def regionLen (m : Mem) (n : Nat) : Nat :=
  if n = 0 then 96 else if n = 1 then 480 else if n = 2 then 4128
  else if n = 3 then 4 + 516 * min 16 ((mget 0 m 0x12C0).toNat % 32) else 48

/-- Whether fixed region `n` is locked: at least 16 of the 32 bits of its lock word read as 1 (R504). -/
def fuseLocked (m : Mem) (n : Nat) : Bool :=
  let v := leNat (mread 0 m (0x35E0 + 4 * n) 4)
  decide (16 ≤ ((List.range 32).filter (nbit v)).length)

/-- The digest of a fixed region (R504). -/
def regionDigest (m : Mem) (n : Nat) : List Byte :=
  Config.sha3 (BitVec.ofNat 8 n :: mread 0 m (regionOff n) (regionLen m n))
/-- Whether the digest stored in a region verifies. -/
def digestOk (m : Mem) (n : Nat) : Bool := mread 0 m (regionOff n + regionLen m n) 32 == regionDigest m n

/-- The WRITTEN bit of a word of a fixed region (R503, R506). -/
def fuseWritten (m : Mem) (w : Nat) : Bool := (mget 0 m (0x3620 + w / 8)).getLsbD (w % 8)

/-- The number of 1 bits of bytes. -/
def ones (l : List Byte) : Nat := (l.map (fun b => ((List.range 8).filter (fun i => b.getLsbD i)).length)).foldl (· + ·) 0

/-! ### Counters (R509, R513, R514) -/

/-- Segment `j` of the life-cycle field. -/
def lcSegment (m : Mem) (j : Nat) : Nat := leNat (mread 0 m (0x34C0 + 2 * j) 2)
/-- The life-cycle code of a memory (R514): 0 Maker, 1 Integrator, 2 Fielded, 3 Returned, 4 Scrapped, 5 Locked. -/
def lcCode (m : Mem) : Nat :=
  let full (j : Nat) : Bool := lcSegment m j == 0xFFFF
  let clear (j : Nat) : Bool := lcSegment m j == 0
  match (List.range 5).find? (fun k => (List.range 4).all (fun j => if j < k then full j else clear j)) with
  | some k => k
  | none => 5
/-- The security version counter. -/
def svnCount (m : Mem) : Nat := ones (mread 0 m 0x34C8 16)
/-- The boot epoch. -/
def epochCount (m : Mem) : Nat := ones (mread 0 m 0x34D8 256)
/-- Whether image-key slot `k` is revoked. -/
def slotRevoked (m : Mem) (k : Nat) : Bool := leNat (mread 0 m (0x35D8 + 2 * k) 2) != 0

/-! ### The identity registers (R507, R508, R528) -/

/-- A flag of ID_EVENTS raised: 0 MARGINAL, 1 OTP_SUPPLY, 2 PROG_FAIL, 3 LC_TRANSITION, 4 DEBUG_OPEN, 5 CTR_STALL (R528). -/
def idEvent (s : State) (bit : Nat) : State := { s with otp.events := raiseEv s.otp.events bit }

/-- The lock and revocation fields rewritten from the shadows. -/
def idLocks (s : State) : State :=
  { s with
    otp.locked := BitVec.ofNat 9 (((List.range 9).map (fun n => b2n (fuseLocked s.otp.shadow n) * 2 ^ n)).foldl (· + ·) 0)
    otp.revoked := BitVec.ofNat 4 (((List.range 4).map (fun k => b2n (slotRevoked s.otp.shadow k) * 2 ^ k)).foldl (· + ·) 0) }

/-- A byte range sensed again into the shadows. -/
def resense (s : State) (lo n : Nat) : State := { s with otp.shadow := mcopy s.otp.cells lo s.otp.shadow lo n }

/-- All words sensed at both references, and the RO fields rewritten (R507, R528). -/
def senseOtp (s : State) (marginal : List Nat) (supply : Bool) : State :=
  let m := s.otp.cells
  let seg (f : Nat → Bool) : Nat := ((List.range 4).map (fun j => b2n (f (lcSegment m j)) * 2 ^ j)).foldl (· + ·) 0
  let weak := (marginal.filter (fun w => decide (w < 4096))).dedup
  idLocks { s with
    otp.shadow := m
    otp.weak := weak
    otp.serial := BitVec.ofNat 128 (leNat (mread 0 m 0 16))
    otp.lc := BitVec.ofNat 3 (lcCode m)
    otp.full := BitVec.ofNat 4 (seg (fun v => v == 0xFFFF))
    otp.part := BitVec.ofNat 4 (seg (fun v => v != 0 && v != 0xFFFF))
    otp.marginal := BitVec.ofNat 12 (min 4095 weak.length)
    otp.supplyOk := supply }

/-! ### Programming (R506, R510) -/

/-- The bits of a value at an address that a memory does not hold yet, lowest first: byte address and bit. -/
def missingBits (m : Mem) (addr : Nat) (value : List Byte) : List (Nat × Nat) :=
  value.zipIdx.flatMap (fun e =>
    (List.range 8).filterMap (fun i =>
      if e.1.getLsbD i && !(mget 0 m (addr + e.2)).getLsbD i then some (addr + e.2, i) else none))

/-- Bits programmed to 1. -/
def setBits (m : Mem) (bits : List (Nat × Nat)) : Mem :=
  bits.foldl (fun m b => mset 0 m b.1 (mget 0 m b.1 ||| BitVec.ofNat 8 (2 ^ b.2))) m

/-- WRITTEN set for words of the fixed regions. -/
def setWritten (m : Mem) (ws : List Nat) : Mem :=
  setBits m ((ws.filter (fun w => decide (w < 3376))).map (fun w => (0x3620 + w / 8, w % 8)))

/-- Records in groups of four. -/
def fours {α : Type} : Nat → List α → List (List α)
  | 0, _ => []
  | n + 1, l => if l.isEmpty then [] else l.take 4 :: fours n (l.drop 4)

/-- The pinned FUSE entries of burnt words (R510, R590): four words an entry; the low byte of CODE is not fixed by the manual. -/
def fuseEntries (s : State) (op : Nat) (words : List Nat) : State :=
  (fours words.length words).foldl (fun t ws =>
    let recs := ws.flatMap (fun w => leBytes 2 w ++ mread 0 t.otp.cells (4 * w) 4)
    let code := 0x0300 + (Config.free 8 t.freeNo 73).toNat
    let u := (rindQueue t code true ([BitVec.ofNat 8 op, BitVec.ofNat 8 ws.length, 0, 0] ++ padTo 24 recs)).draw
    if 128 ≤ u.rel.rindQ.length then rindFlush u else u) s

/-- Bits burnt in order until all are done or the supply leaves its window after `limit` of them; each word finished gets WRITTEN, and each burnt word is a fuse event. The second part says whether all were burnt. -/
def burn (s : State) (op : Nat) (bits : List (Nat × Nat)) (words : List Nat) (limit : Option Nat) : State × Bool :=
  let done := match limit with | some n => bits.take n | none => bits
  let left := bits.drop done.length
  let finished := words.takeWhile (fun w => left.all (fun b => b.1 / 4 != w))
  let m := setWritten (setBits s.otp.cells done) finished
  let s1 := fuseEntries { s with otp.cells := m } op ((done.map (fun b => b.1 / 4)).dedup)
  if left = [] then (s1, true) else (idEvent { s1 with otp.supplyOk := false } 1, false)

/-- An operation begins: refused where the supply monitor is outside its window, with OTP_SUPPLY (R510). -/
def withSupply (s : State) (ok : Bool) (refused : State → State) (body : State → State) : State :=
  let s1 := { s with otp.supplyOk := ok }
  if ok then body s1 else refused (idEvent s1 1)

/-- The STATE byte of the life cycle (R398). -/
def lcState (s : State) : Byte := BitVec.ofNat 8 (0xB0 + s.otp.lc.toNat)

/-- The life-cycle codes in which a region may be written (R503). -/
def regionStates (n : Nat) : List Nat := if n ≤ 3 then [0] else if n ≤ 7 then [0, 1] else [1]

/-- The words of a byte range. -/
def wordsIn (addr len : Nat) : List Nat := (List.range (len / 4)).map (fun i => addr / 4 + i)

/-- OTP program (R506, R511): the checks in order, then the burn; `limit` is set where the supply leaves its window during it. -/
def otpProgramBody (supply : Bool) (limit : Option Nat) (p : Nat) (s : State) (k : Packet) : State :=
  let n := par k 0 1
  let off := par k 4 4
  let len := par k 16 4
  let m := s.otp.cells
  let addr := regionOff n + off
  let legal := if n = 3 ∧ !fuseWritten m (0x12C0 / 4) then decide (off = 0 ∧ len = 4) else decide (off + len ≤ regionLen m n)
  let refuse (t : State) : State := reply t p k stState 0 noObj (lcState t)
  match firstBad [(decide (n = 2 ∨ 8 < n), 0), (off % 4 != 0, 4), (!addrOk k 8, 8), (len % 4 != 0 || len == 0, 16)] with
  | some o => refuseFmt s p k o
  | none =>
    if !legal then refuseRange s p k 4
    else if !(regionStates n).contains s.otp.lc.toNat || fuseLocked m n then refuse s
    else withData s p k 8 len (fun bs =>
      if (wordsIn addr len).any (fuseWritten m) then refuseRange s p k 4
      else if bs.zipIdx.any (fun e => (mget 0 m (addr + e.2) &&& ~~~e.1) != 0) then reply s p k stIntegrity 0 noObj 0
      else withSupply s supply refuse (fun t =>
        let r := burn t 1 (missingBits t.otp.cells addr bs) (wordsIn addr len) limit
        reply r.1 p k (if r.2 then stDone else stAborted) 0 noObj 0))

/-- OTP_PROGRAM. -/
def execOtpProgram (p : PartId) (supplyOk : Bool) (s : State) : Host.Outcome State Fault Refusal :=
  ends s (ringCmdR s p 0x0E04 10 20 20 [(1, 3)] (otpProgramBody supplyOk none p))

/-- The digest and the lock word of a region burnt, and the region sensed again (R512). -/
def finaliseBurn (s : State) (op n : Nat) (limit : Option Nat) : State × Bool :=
  let at_ := regionOff n + regionLen s.otp.cells n
  let bits := missingBits s.otp.cells at_ (regionDigest s.otp.cells n) ++ missingBits s.otp.cells (0x35E0 + 4 * n) (List.replicate 4 0xFF)
  let r := burn s op bits (wordsIn at_ 32) limit
  if r.2 then (idLocks (resense (resense r.1 (regionOff n) (regionSize n)) (0x35E0 + 4 * n) 4), true) else r

/-- FINALISE (R512). -/
def finaliseBody (supply : Bool) (limit : Option Nat) (p : Nat) (s : State) (k : Packet) : State :=
  let n := par k 0 1
  let m := s.otp.cells
  let ws := wordsIn (regionOff n) (regionLen m n)
  let refuse (t : State) : State := reply t p k stState 0 noObj (lcState t)
  if 8 < n then refuseRange s p k 0
  else if fuseLocked m n then refuse s
  else match ws.find? (fun w => !fuseWritten m w) with
  | some w => reply s p k stRange (BitVec.ofNat 32 (4 * w - regionOff n)) noObj 0
  | none =>
    if s.otp.weak.any (fun w => decide (regionOff n ≤ 4 * w ∧ 4 * w < regionOff n + regionSize n)) then reply s p k stIntegrity 0 noObj 0
    else withSupply s supply refuse (fun t =>
      let r := finaliseBurn t 2 n limit
      reply r.1 p k (if r.2 then stDone else stAborted) 0 noObj 0)

/-- FINALISE. -/
def execFinalise (p : PartId) (supplyOk : Bool) (s : State) : Host.Outcome State Fault Refusal :=
  ends s (ringCmdR s p 0x0E05 10 1 1 [] (finaliseBody supplyOk none p))

/-! ### Random bits and nonces (R467, R468, R519) -/

/-- DRBG output of `n` bytes: none under ENTROPY_FAIL. -/
def drbgDraw (s : State) (n : Nat) : Option (State × List Byte) :=
  if s.rennet.entropyFail || !s.rennet.drbgOn then none
  else some (drbgCount s 1, padTo n (Config.drbg s.rennet.drbgN n))

/-- How long a nonce is held, in ns (R519). -/
def nonceLife : Nat := 60000000000

/-- A new nonce replaces the one held. -/
def drawNonce (s : State) : Option (State × List Byte) :=
  (drbgDraw s 32).map (fun r => ({ r.1 with rennet.nonce := some (r.2, r.1.ts) }, r.2))

/-- NONCE_COMMAND (R519): the nonce is written to OUT; refused with ABORTED under ENTROPY_FAIL. -/
def execNonceCommand (p : PartId) (s : State) : Host.Outcome State Fault Refusal :=
  ends s (ringCmd s p 0x0E01 8 8 [] (fun s k =>
    checked s p k [(!addrOk k 0, 0)] [(anyBlock s p (parAddr k 0) 32 .unmapped, 0)] (
      match drawNonce s with
      | none => reply s p k stAborted 0 noObj 0
      | some (t, bs) => replyDone (devPut t p (parAddr k 0) bs) p k)))

/-- NONCE (R519): half 0 draws the nonce and returns its first 24 bytes, half 1 returns the other 8 of the one held. -/
def execNonce (m : MbxId) (s : State) : Host.Outcome State Fault Refusal :=
  ends s (mailServe s m 0x0201 (fun s a =>
    match (a.getD 0 0).toNat with
    | 0 => match drawNonce s with
      | none => (s, stAborted, [])
      | some (t, bs) => (t, stDone, wordsOf (bs.take 24))
    | 1 => if s.rennet.entropyFail then (s, stAborted, [])
           else match s.rennet.nonce with
           | some (bs, _) => (s, stDone, wordsOf (slice bs 24 8))
           | none => (s, stState, [])
    | _ => (s, stRange, [])))

/-- NONCE_EXPIRE (R519): 60 s after it was drawn. -/
def execNonceExpire (now : W64) (s : State) : Host.Outcome State Fault Refusal :=
  endsAt s now (fun s => match s.rennet.nonce with
    | some (_, t) => if t.toNat + nonceLife ≤ s.ts.toNat then { s with rennet.nonce := none } else s
    | none => s)

/-! ### Signed requests (R517 to R527) -/

/-- How a request ends: the state, the status, a DETAIL and a STATE. -/
abbrev ReqEnd := State × W16 × W32 × Byte

/-- The digest of a pair of public keys (R518). -/
def pairDigest (ec ml : List Byte) : List Byte := Config.sha384 (ec ++ ml)

/-- The point of an uncompressed public key, big-endian. -/
def pointOf (ec : List Byte) : Nat × Nat := (beNat (slice ec 1 48), beNat (slice ec 49 48))
/-- The point validation of R501. -/
def pointValid (ec : List Byte) : Bool :=
  let q := pointOf ec
  ec.headD 0 == 4 && decide (q.1 < p384 ∧ q.2 < p384) && onCurve q

/-- The signature schemes of `Config.verify`. -/
def schemeEc : Nat := 0
def schemeMl : Nat := 1

/-- The first reserved or fixed byte of a request that breaks its layout (R517). -/
def requestFormat (b : List Byte) : Option Nat :=
  let kind := field b 4 2
  let zero (off n : Nat) : Bool := (slice b off n).any (· != 0)
  firstBad [(field b 0 4 != 0x53544C43, 0), (decide (kind < 1 ∨ 3 < kind), 4), (kind == 3 && zero 7 1, 7), (kind == 3 && zero 24 32, 24)
    , (kind != 3 && zero 56 4, 56), ((kind != 3 && zero 60 4) || decide (32 ≤ field b 60 4), 60), (zero 64 64, 64), (zero 225 31, 225), (zero 7571 109, 7571)]

/-- Whether a transition from the present state is one of R520, by its signer: 1 Gwynund, 2 the integrator. -/
def transitionOk (s : State) (arg signer : Nat) : Bool :=
  let m := s.otp.shadow
  let lc := s.otp.lc.toNat
  let keyed := (List.range 4).any (fun k => fuseLocked m (4 + k) && !slotRevoked m k)
  match lc, arg with
  | 0, 1 => signer == 1 && fuseLocked m 0 && fuseLocked m 1 && fuseLocked m 2
  | 1, 2 => signer == 2 && fuseLocked m 8 && keyed
  | 1, 3 | 2, 3 => signer == 1 || signer == 2
  | 0, 4 | 3, 4 => signer == 1
  | 1, 4 | 2, 4 => signer == 1 || signer == 2
  | 5, 3 => signer == 1 && lcSegment m 3 == 0
  | 5, 4 => signer == 1
  | _, _ => false

/-- Who signs revocations and debug certificates in each state (R520, R524). -/
def signerOk (s : State) (signer : Nat) : Bool :=
  match s.otp.lc.toNat with
  | 0 | 3 => signer == 1
  | 1 | 2 => signer == 2
  | _ => false

/-- Whether SIGNER and ARG are permitted now; the STATE of the refusal. -/
def requestState (s : State) (b : List Byte) : Option Byte :=
  let kind := field b 4 2
  let signer := field b 6 1
  let arg := field b 7 1
  let bad : Option Byte := some (lcState s)
  if kind = 1 then
    if s.otp.degraded ∧ arg ≠ 3 ∧ arg ≠ 4 then some 0xA1 else if transitionOk s arg signer then none else bad
  else if kind = 2 then
    if s.otp.degraded then some 0xA1
    else if signerOk s signer && decide (arg ≤ 3) && !(s.rennet.boot == .verified && arg == s.rennet.keySlot.toNat) then none else bad
  else if signerOk s signer then none else bad

/-- Whether the request's keys are those of its signer (R518). -/
def requestKey (s : State) (b : List Byte) : Bool :=
  let d := pairDigest (slice b 128 97) (slice b 256 2592)
  let want := if field b 6 1 = 1 then some Config.romKeyDigest
    else if fuseLocked s.otp.shadow 8 then some (mread 0 s.otp.shadow (regionOff 8) 48) else none
  want == some d && pointValid (slice b 128 97)

/-- Whether both signatures verify. -/
def requestSigned (b : List Byte) : Bool :=
  let m := slice b 0 2848
  Config.verify schemeEc (slice b 128 97) m (slice b 2848 96) && Config.verify schemeMl (slice b 256 2592) m (slice b 2944 4627)

/-- The LIFE_CYCLE entry and report of a transition (R520, R585, R590). -/
def transitionReport (s : State) (target : Nat) (b : List Byte) : State :=
  let body := [BitVec.ofNat 8 s.otp.lc.toNat, BitVec.ofNat 8 target, BitVec.ofNat 8 (field b 6 1), 0] ++ leBytes 4 s.otp.bootCtr.toNat
    ++ (padTo 48 (Config.sha384 b)).take 24
  sendReportBody (idEvent s 3) (mkReport s 0x0201 (initId 1 0) 64) body

/-- The scrapping burn of the key regions (R522 step 2). -/
def scrapBits (m : Mem) : List (Nat × Nat) :=
  [1, 2, 4, 5, 6, 7, 8].flatMap (fun n => missingBits m (regionOff n) (List.replicate (regionSize n) 0xFF))

/-- A transition programmed (R516, R520, R522): every clear bit below the target's segments, lowest first; scrapping burns the key regions too and resets the instance. -/
def transition (s : State) (b : List Byte) (limit : Option Nat) : ReqEnd :=
  let target := field b 7 1
  let field_ := missingBits s.otp.cells 0x34C0 (List.replicate (2 * target) 0xFF)
  if target = 4 then
    let bits := field_ ++ scrapBits s.otp.cells
    let r := burn s 8 bits [] limit
    if r.2 then (rennetReset (transitionReport r.1 4 b) 6, stDone, 0, 0) else (r.1, stAborted, 0, 0)
  else
    let r := burn s 6 field_ [] limit
    if r.2 then (transitionReport { r.1 with otp.pendingLc := true } target b, stDone, 0, 0) else (r.1, stAborted, 0, 0)

/-- A key slot revoked (R520, R527): at once. -/
def revoke (s : State) (slot : Nat) (limit : Option Nat) : ReqEnd :=
  let at_ := 0x35D8 + 2 * slot
  let r := burn s 7 (missingBits s.otp.cells at_ [0xFF, 0xFF]) [] limit
  (idLocks (resense r.1 at_ 2), if r.2 then stDone else stAborted, 0, 0)

/-- The key entries of REFUSE_DEBUG licences zeroed as a debug right opens (R560). -/
def dropDebugKeys (s : State) : State :=
  { s with att.lics := tmap (fun l => if l.valid && nbit l.flags.toNat 1 then { l with key := none } else l) s.att.lics }

/-- A debug certificate accepted (R524 to R526): its rights open until the next start-up; the right to Rennet's TAP empties and disables the Cave first. -/
def openDebug (s : State) (b : List Byte) : ReqEnd :=
  let rights := field b 60 4
  let limit := field b 56 4
  if limit < s.otp.bootCtr.toNat then (s, stRange, detObj 56, 0)
  else
    let s0 := if rights = 0 then s else dropDebugKeys s
    let s1 := { idEvent s0 4 with rennet.debugRights := s.rennet.debugRights ||| BitVec.ofNat 5 rights, rennet.debugLimit := BitVec.ofNat 32 limit }
    let s2 := if nbit rights 1 then
        { s1 with rennet.cave := s1.rennet.cave.filter (fun e => decide (e.1 < 2)), rennet.masks := s1.rennet.masks.filter (fun e => decide (e.1 < 2))
                  rennet.caveOff := true, rennet.tapRennet := true, rennet.aliasCerts := [], att.sessions := [], att.sets := [] }
      else s1
    (report s2 0x0801 (initId 1 0) 64, stDone, 0, 0)

/-- A request checked in the order of R519 and acted on; the held nonce is consumed at the check that reads it. -/
def signedRequest (s : State) (b : List Byte) (len : Nat) (supply : Bool) (limit : Option Nat) : ReqEnd :=
  let kind := field b 4 2
  if len ≠ 7680 ∨ b.length ≠ 7680 then (s, stFormat, detObj 0, 0)
  else match requestFormat b with
  | some o => (s, stFormat, detObj o, 0)
  | none =>
    if field b 8 16 ≠ s.otp.serial.toNat then (s, stRights, BitVec.ofNat 32 (2 ^ 31 + (detObj 8).toNat), 0)
    else
      let s1 := if kind = 3 then s else { s with rennet.nonce := none }
      let fresh := kind == 3 || (match s.rennet.nonce with
        | some (n, t) => n == slice b 24 32 && decide (s.ts.toNat < t.toNat + nonceLife)
        | none => false)
      if !fresh then (s1, stState, 0, lcState s1)
      else match requestState s1 b with
      | some st => (s1, stState, 0, st)
      | none =>
        if !requestKey s1 b then (s1, stRights, BitVec.ofNat 32 (2 ^ 31 + (detObj 128).toNat), 0)
        else if !requestSigned b then (s1, stIntegrity, 0, 0)
        else if kind = 3 then openDebug s1 b
        else
          let s2 := { s1 with otp.supplyOk := supply }
          if !supply then (idEvent s2 1, stState, 0, lcState s2)
          else if kind = 1 then transition s2 b limit
          else revoke s2 (field b 7 1) limit

/-- A ring command that carries a signed request (R421, R519). -/
def requestBody (supply : Bool) (limit : Option Nat) (p : Nat) (s : State) (k : Packet) : State :=
  let len := par k 8 4
  checked s p k [(!addrOk k 0, 0)] [(decide (2 ^ 48 < parAddr k 0 + len), 0)] (
    if len ≠ 7680 then refuseFmt s p k 8
    else withData s p k 0 len (fun b =>
      let r := signedRequest s b len supply limit
      if (r.1.part p).state = .absent then r.1 else reply r.1 p k r.2.1 r.2.2.1 noObj r.2.2.2))

/-- TRANSITION (R519, R520). -/
def execTransition (p : PartId) (supplyOk : Bool) (s : State) : Host.Outcome State Fault Refusal :=
  ends s (ringCmdR s p 0x0E02 10 12 12 [] (requestBody supplyOk none p))
/-- DEBUG_CERTIFICATE (R519, R524). -/
def execDebugCertificate (p : PartId) (supplyOk : Bool) (s : State) : Host.Outcome State Fault Refusal :=
  ends s (ringCmdR s p 0x0E03 10 12 12 [] (requestBody supplyOk none p))

/-! ### Requests by mailbox (R479, R519) -/

/-- A request transfer begun by its sender: another sender's transfer under way gives BUSY_RETRY, detail 0x04. -/
def beginReq (s : State) (m kind len : Nat) : State × W16 × List W32 :=
  match s.rennet.req with
  | some x => if x.holder ≠ m then (s, stBusy, [4]) else ({ s with rennet.req := some { holder := m, kind := kind, len := len } }, stDone, [])
  | none => ({ s with rennet.req := some { holder := m, kind := kind, len := len } }, stDone, [])

/-- REQ_BEGIN (R519): word 1 KIND, word 2 length. -/
def execReqBegin (m : MbxId) (s : State) : Host.Outcome State Fault Refusal :=
  ends s (mailServe s m 0x0210 (fun s a => if m.val = 64 then (s, stRights, []) else beginReq s m (a.getD 0 0).toNat (a.getD 1 0).toNat))

/-- The bytes of the words from the third of a message on. -/
def mailData (a : List W32) : List Byte := (List.range 6).flatMap (fun i => leBytes 4 (a.getD (1 + i) 0).toNat)

/-- REQ_DATA (R519): offsets rise by 24 from 0; any other is refused with RANGE_REFUSED. -/
def execReqData (m : MbxId) (s : State) : Host.Outcome State Fault Refusal :=
  ends s (mailServe s m 0x0211 (fun s a =>
    match s.rennet.req with
    | none => (s, stState, [])
    | some x =>
      if x.holder ≠ m then (s, stState, [])
      else if (a.getD 0 0).toNat ≠ x.bytes.length ∨ x.len ≤ x.bytes.length then (s, stRange, [])
      else ({ s with rennet.req := some { x with bytes := x.bytes ++ (mailData a).take (x.len - x.bytes.length) } }, stDone, [])))

/-- REQ_END (R519): the request is checked and acted on; a refusal's DETAIL and STATE follow its status. -/
def reqEndBody (supply : Bool) (limit : Option Nat) (m : Nat) (s : State) : State × W16 × List W32 :=
  match s.rennet.req with
  | none => (s, stState, [])
  | some x =>
    if x.holder ≠ m then (s, stState, [])
    else
      let r := signedRequest { s with rennet.req := none } x.bytes x.len supply limit
      (r.1, r.2.1, [r.2.2.1, r.2.2.2.setWidth 32])

/-- REQ_END. -/
def execReqEnd (m : MbxId) (supplyOk : Bool) (s : State) : Host.Outcome State Fault Refusal :=
  ends s (mailServe s m 0x0212 (fun s _ => reqEndBody supplyOk none m s))

/-! ### Enrolment (R511) -/

/-- The majority of each bit over the reads of the PUF SRAM. -/
def majority (reads : List (List Byte)) : List Byte :=
  (List.range 4096).map (fun i => BitVec.ofNat 8 (((List.range 8).map (fun j =>
    b2n (decide (reads.length < 2 * (reads.filter (fun r => (r.getD i 0).getLsbD j)).length)) * 2 ^ j)).foldl (· + ·) 0))

/-- ENROL (R511): accepted in Maker while PUF_HELPER holds no WRITTEN word; the helper data's layout under the code of R465 is not fixed by the manual, and its bytes are free. -/
def enrolBody (supply : Bool) (reads : List (List Byte)) (limit : Option Nat) (s : State) : State × W16 × List W32 :=
  let m := s.otp.cells
  if s.otp.lc ≠ 0 ∨ (wordsIn 0x280 4160).any (fuseWritten m) ∨ fuseLocked m 2 then (s, stState, [0, (lcState s).setWidth 32])
  else if !supply then (idEvent { s with otp.supplyOk := false } 1, stState, [0, (lcState s).setWidth 32])
  else match drbgDraw { s with otp.supplyOk := true } 32 with
  | none => (s, stAborted, [])
  | some (s1, _) =>
    let helper := leBytes 4096 ((Config.free (8 * 4096) s1.freeNo 74).toNat ^^^ leNat (majority reads))
    let value := helper ++ padTo 32 (Config.sha3 (Config.puf helper))
    let bits := missingBits m 0x280 value
    let r := burn s1.draw 3 bits (wordsIn 0x280 4128) limit
    if !r.2 then (r.1, stAborted, [])
    else
      let f := finaliseBurn r.1 3 2 (limit.map (fun n => n - bits.length))
      (f.1, if f.2 then stDone else stAborted, [])

/-- ENROL. -/
def execEnrol (m : MbxId) (supplyOk : Bool) (reads : List (List Byte)) (s : State) : Host.Outcome State Fault Refusal :=
  ends s (mailServe s m 0x0230 (fun s _ => enrolBody supplyOk reads none s))

/-! ### The supply leaves its window (R510) -/

/-- OTP_SUPPLY_DROP (R510): the operation that its source is about to run ends with ABORTED after a number of bits. The operations of a start-up are part of it. -/
def otpSupplyDrop (s : State) (src : OtpSource) (bits : Nat) : State :=
  match src with
  | .ring p =>
    match (s.part p).inHand with
    | k :: _ =>
      match pktOp k with
      | 0x0E02 | 0x0E03 => ringCmdR s p (pktOp k) 10 12 12 [] (requestBody true (some bits) p)
      | 0x0E04 => ringCmdR s p 0x0E04 10 20 20 [(1, 3)] (otpProgramBody true (some bits) p)
      | 0x0E05 => ringCmdR s p 0x0E05 10 1 1 [] (finaliseBody true (some bits) p)
      | _ => s
    | [] => s
  | .mailbox m =>
    if mailCode s m = 0x0212 then mailServe s m 0x0212 (fun s _ => reqEndBody true (some bits) m s)
    else mailServe s m 0x0230 (fun s _ => enrolBody true [] (some bits) s)
  | .startup => s

/-- OTP_SUPPLY_DROP. -/
def execOtpSupplyDrop (src : OtpSource) (bits : Nat) (s : State) : Host.Outcome State Fault Refusal := ends s (otpSupplyDrop s src bits)

end Sys2Proof.Machine
end

