-- ==== Sys2Proof/Machine/Watch.lean ====
section
/-! DEFINITION. Watch programs (R301 to R314, R332 to R334): their check and load, windows, and the eight watch packets. -/

namespace Sys2Proof.Machine

/-! ### A program's check (R302, R306, R307, R312) -/

/-- The fields that each operation names, as offset and size; every other byte is reserved. -/
def watchFields : Nat → List (Nat × Nat)
  | 1 => [(0, 1), (4, 3), (8, 6)]
  | 2 => [(0, 1), (4, 2), (8, 5)]
  | 3 => [(0, 1), (4, 10)]
  | 4 => [(0, 1), (4, 13)]
  | 5 => [(0, 1), (4, 16)]
  | 6 => [(0, 1), (4, 3), (8, 3)]
  | 7 => [(0, 1), (4, 9)]
  | 8 => [(0, 1)]
  | _ => []

/-- The first reserved code, field or bit of a packet. -/
def watchFormat (b : List Byte) : Option Nat :=
  let op := field b 0 1
  if op < 1 ∨ 8 < op then some 0
  else
    let used (i : Nat) : Bool := (watchFields op).any (fun f => decide (f.1 ≤ i ∧ i < f.1 + f.2))
    match (List.range 32).find? (fun i => !used i && field b i 1 != 0) with
    | some i => some i
    | none => firstBad [(op == 1 && nbits (field b 5 1) 3 1 != 0, 5), (op == 5 && decide (4 ≤ field b 19 1), 19), (op == 7 && decide (32 ≤ field b 10 1), 10)]

/-- The first value of a packet outside R307, or the first line range that reaches program lines or, from `low` on, tap lines. -/
def watchRange (low : Nat) (b : List Byte) : Option Nat :=
  let f (o n : Nat) : Nat := field b o n
  let out (v lo hi : Nat) : Bool := decide (v < lo ∨ hi < v)
  let bad (line bytes : Nat) : Bool := decide (line < 32 ∨ low < line + (bytes + 63) / 64)
  match f 0 1 with
  | 1 => firstBad [(decide (23 < f 4 1), 4), (out (f 5 1 / 16) 1 8, 5), (decide (f 5 1 / 16 ≤ f 6 1), 6), (out (f 8 4) 16 32768, 8), (bad (f 12 2) (2 * f 8 4), 12)]
  | 2 => firstBad [(bad (f 4 2) (2 * f 8 4), 4), (decide (31 < f 12 1), 12)]
  | 3 => firstBad [(bad (f 4 2) (2 * f 8 4), 4), (bad (f 6 2) (f 13 1), 6), (decide (31 < f 12 1), 12), (out (f 13 1) 1 64, 13)]
  | 4 => firstBad [(bad (f 4 2) (2 * f 8 2 * f 10 2), 4), (bad (f 6 2) (f 12 1 * f 13 1), 6), (out (f 8 2) 16 1024, 8), (out (f 10 2) 1 128, 10)
      , (out (f 12 1) 1 32, 12), (out (f 13 1) 1 64, 13), (bad (f 14 2) (f 10 2 * f 12 1), 14), (decide (47 < f 16 1), 16)]
  | 5 => firstBad [(bad (f 4 2) (f 12 2), 4), (bad (f 6 2) (f 12 2 * f 14 2), 6), (bad (f 8 2) (4 * f 14 2), 8)
      , (bad (f 10 2) (if nbit (f 19 1) 1 then 4 * f 14 2 else f 14 2), 10), (out (f 12 2) 1 4096, 12), (out (f 14 2) 1 1024, 14), (decide (47 < f 18 1), 18)]
  | 6 => firstBad [(bad (f 4 2) 64, 4), (decide (15 < f 6 1), 6), (decide (47 < f 10 1), 10)]
  | 7 => firstBad [(out (f 8 1) 1 8, 8), (out (f 9 1) (f 8 1) 8, 9), (out (f 11 1) 1 3, 11)]
  | _ => none

/-- The number of packets of a program: those up to its END, at most 64. -/
def watchCount (bs : List Byte) : Option Nat :=
  ((List.range 64).find? (fun i => decide (32 * (i + 1) ≤ bs.length) && field bs (32 * i) 1 == 8)).map (· + 1)

/-- The first packet that a test refuses, as an offset in the program. -/
def firstPacket (bs : List Byte) (n : Nat) (test : List Byte → Option Nat) : Option Nat :=
  ((List.range n).filterMap (fun i => (test (slice bs (32 * i) 32)).map (32 * i + ·))).head?

/-- What is wrong with a program and its data (R312): the status and the detail. -/
def watchBad (s : State) (bs : List Byte) (line : Nat) (expert : Bool) : Option (W16 × W32) :=
  match watchCount bs with
  | none => some (stRange, detPar 8)
  | some n =>
    match firstPacket bs n watchFormat with
    | some o => some (stFormat, detObj o)
    | none =>
      if line < 32 ∨ s.spr.tapLow < line + (bs.length - 32 * n + 63) / 64 then some (stRange, detPar (if expert then 12 else 8))
      else (firstPacket bs n (watchRange s.spr.tapLow)).map (fun o => (stRange, detObj o))

/-- A checked program copied to line 0 and its data, which follow its END, to the first data line; histories clear (R311). -/
def putWatch (s : State) (bs : List Byte) (line source : Nat) (owner : Option Nat) : State :=
  let n := (watchCount bs).getD 0
  let data := bs.drop (32 * n)
  { s with
    spr.sram := mwrite 0 (mwrite 0 s.spr.sram 0 (bs.take (32 * n))) (64 * line) data
    spr.source := BitVec.ofNat 2 source, spr.owner := owner, spr.npkt := n, spr.dataLine := line, spr.dataEnd := line + (data.length + 63) / 64
    spr.history := [], spr.inWindow := false, spr.running := false, spr.onOpen := false, spr.windowDue := false, spr.pc := 0 }

/-- The STATE of the watch program for a partition (R398). -/
def watchState (s : State) (p : Nat) : Byte :=
  if s.spr.npkt = 0 then 0x70
  else match s.spr.owner with
    | some q => if q = p then (if s.spr.watchEn then 0x72 else 0x71) else 0x73
    | none => if s.spr.watchEn then 0x72 else 0x71

/-- The data lines zeroed, up to the tap rings (R452). -/
def zeroLines (s : State) : State :=
  { s with spr.sram := mclear s.spr.sram (64 * 32) (64 * s.spr.tapLow) }

/-- WATCH_LOAD (R312, R313, R334): a load by another partition than the previous owner zeroes the data lines first (R452). -/
def execWatchLoad (p : PartId) (s : State) : Host.Outcome State Fault Refusal :=
  ends s (ringCmdR s p 0x0701 2 12 14 [] (fun s k =>
    let len := par k 8 4
    let line := if pktExpert k then par k 12 2 else 32
    let other := match s.spr.owner with | some q => q != p.val | none => false
    if other then refuseState s p k noObj 0x73
    else checked s p k [(!addrOk k 0, 0)] [(decide (2 ^ 48 < parAddr k 0 + len), 0), (decide (262144 < len), 8)]
      (withData s p k 0 len (fun bs =>
        match watchBad s bs line (pktExpert k) with
        | some r => reply s p k r.1 r.2 noObj (watchState s p)
        | none =>
          let t := putWatch (if s.spr.owner = some p.val then s else zeroLines s) bs line 1 (some p.val)
          reply t p k stDone 0 noObj (watchState t p)))))

/-- WATCH_START and WATCH_STOP are the owner's (R334). -/
def watchOwner (p : Nat) (en : Bool) (s : State) (k : Packet) : State :=
  if s.spr.owner ≠ some p then refuseState s p k noObj (watchState s p)
  else
    let t := setWatch s en
    reply t p k stDone 0 noObj (watchState t p)

/-- WATCH_START (R334). -/
def execWatchStart (p : PartId) (s : State) : Host.Outcome State Fault Refusal := ends s (ringCmdR s p 0x0702 2 0 0 [] (watchOwner p true))
/-- WATCH_STOP (R334). -/
def execWatchStop (p : PartId) (s : State) : Host.Outcome State Fault Refusal := ends s (ringCmdR s p 0x0703 2 0 0 [] (watchOwner p false))

/-! ### Windows (R305) -/

/-- Whether Sprout and the ports are powered only for windows. -/
def windowPowered (s : State) : Bool := s.spr.pstate == .t || s.spr.pstate == .w

/-- A window opens: in T and W, SPR and STR are powered and the tapped ports accept data before the program runs; in A and I it runs at once. -/
def openWindow (s : State) : State :=
  let s1 := { s with spr.windows := satInc s.spr.windows, spr.inWindow := true, spr.windowDue := false, spr.openTs := s.ts, spr.score := 0, spr.pc := 0
                     spr.onOpen := windowPowered s, spr.running := !windowPowered s }
  if windowPowered s then askOn (askOn s1 .spr s.ts) .str s.ts else s1

/-- SPR_WATCH_PERIOD in ns. -/
def watchPeriod (s : State) : Nat := max 1 (s.spr.period.toNat * 1000)

/-- WATCH_WINDOW (R305): a window opens once in each SPR_WATCH_PERIOD, counted from the start of the watch; one that is due while another is open waits for it, and WIN_OVERRUN is set. -/
def execWatchWindow (now : W64) (s : State) : Host.Outcome State Fault Refusal :=
  endsAt s now (fun s =>
    let gone := s.ts.toNat - s.spr.windowTs.toNat
    if !s.spr.watchEn ∨ s.spr.npkt = 0 ∨ s.spr.pstate = .s ∨ s.spr.pstate = .o ∨ gone < watchPeriod s then s
    else
      let s1 := { s with spr.windowTs := s.spr.windowTs + BitVec.ofNat 64 (gone / watchPeriod s * watchPeriod s) }
      if s1.spr.inWindow then sprEvent { s1 with spr.windowDue := true } 5
      else openWindow s1)

/-- WATCH_ON_EXPIRE (R305): SPR_WATCH_ON after a window opened in T or W, the ports stop accepting data and the program runs to its end. -/
def execWatchOnExpire (now : W64) (s : State) : Host.Outcome State Fault Refusal :=
  endsAt s now (fun s =>
    if s.spr.inWindow && s.spr.onOpen && decide (s.spr.openTs.toNat + s.spr.onTime.toNat * 1000 ≤ s.ts.toNat) then
      { s with spr.onOpen := false, spr.running := true } else s)

/-- A window ends: in T and W, SPR and STR power off, Sprout's SRAM kept, unless a restore needs them; a window that is due opens. -/
def closeWindow (s : State) : State :=
  let s1 := { s with spr.inWindow := false, spr.running := false }
  let s2 := if windowPowered s && s.spr.restoring.isNone then askOff (askOff (forgetFrames s1) true .spr) false .str else s1
  if s2.spr.windowDue then openWindow s2 else s2

/-! ### Packets (R307 to R311) -/

/-- The packet at the program counter. -/
def watchPacket (s : State) : List Byte := mread 0 s.spr.sram (32 * s.spr.pc.toNat) 32

/-- A packet's row runs when the program runs and the packet at its counter has the operation; the next packet follows. -/
def watchRun (op : Nat) (body : State → List Byte → State) (s : State) : Host.Outcome State Fault Refusal :=
  let b := watchPacket s
  if s.spr.inWindow && s.spr.running && field b 0 1 == op then
    let t := body s b
    ends s (if !t.spr.running then closeWindow t
      else if s.spr.npkt ≤ s.spr.pc.toNat + 1 then closeWindow t
      else { t with spr.pc := s.spr.pc + 1 })
  else ends s s

/-- A signed 16-bit sample of Sprout SRAM. -/
def sample16 (s : State) (line i : Nat) : Int := (BitVec.ofNat 16 (leNat (mread 0 s.spr.sram (64 * line + 2 * i) 2))).toInt
/-- A signed byte of Sprout SRAM. -/
def sample8 (s : State) (line i : Nat) : Int := (mget 0 s.spr.sram (64 * line + i)).toInt

/-- A value cut to 0 to 2^32 − 1. -/
def clip32 (v : Int) : W32 := BitVec.ofInt 32 (max 0 (min v 4294967295))
/-- An arithmetic right shift. -/
def asr (v : Int) (n : Nat) : Int := v / 2 ^ n
/-- The sum of a function over the naturals from `a` to below `b`. -/
def sumFrom (a b : Nat) (f : Nat → Int) : Int := ((List.range (b - a)).map (fun i => f (a + i))).foldl (· + ·) 0

/-- The stored sample at ring position `pos` of a stream's tap. -/
def tapSample (s : State) (n pos : Nat) (wide : Bool) : Int :=
  let size := max 1 (s.stream n).tapBytes
  if wide then (BitVec.ofNat 16 ((tapByte s n (pos % size)).toNat + 256 * (tapByte s n ((pos + 1) % size)).toNat)).toInt
  else (tapByte s n (pos % size)).toInt

/-- The program ends for this window. -/
def endProgram (s : State) : State := { s with spr.running := false }
/-- The program ends for this window with PROG_ERR (R311). -/
def watchFail (s : State) : State := endProgram (sprEvent s 6)

/-- WINDOW (R307, R311): the newest LEN samples of a channel as INT16; samples before the tap's first byte read as zero. -/
def watchWindowBody (s : State) (b : List Byte) : State :=
  let n := field b 4 1
  let wide := !nbit (field b 5 1) 0
  let w := if wide then 2 else 1
  let g := (field b 5 1 / 16) * w
  let len := field b 8 4
  let st := s.stream n
  let tail := st.tapCount.toNat % max 1 g
  if !st.tap ∨ st.tapBytes < len * g + tail then watchFail { s with spr.lastStream := n }
  else
    let stop := st.tapCount.toNat - tail
    let value (i : Nat) : Int :=
      if stop < (len - i) * g then 0 else tapSample s n (stop - (len - i) * g + field b 6 1 * w) wide
    let bytes := (List.range len).flatMap (fun i => leBytes 2 (BitVec.ofInt 16 (value i)).toNat)
    { s with spr.sram := mwrite 0 s.spr.sram (64 * field b 12 2) bytes, spr.lastStream := n }

/-- WINDOW. -/
def execWatchPktWindow (s : State) : Host.Outcome State Fault Refusal := watchRun 1 watchWindowBody s

/-- ENERGY (R307). -/
def watchEnergyBody (s : State) (b : List Byte) : State :=
  let x := sample16 s (field b 4 2)
  { s with spr.score := clip32 (asr (sumFrom 0 (field b 8 4) (fun i => x i * x i)) (field b 12 1)) }

/-- ENERGY. -/
def execWatchEnergy (s : State) : Host.Outcome State Fault Refusal := watchRun 2 watchEnergyBody s

/-- One filter output: the taps against the samples up to `i`, shifted by 7; a sample before the buffer is given by `before`. -/
def filterOut (s : State) (src taps tap0 ntap : Nat) (before : Nat → Int) (i : Nat) : Int :=
  asr (sumFrom 0 ntap (fun j => sample8 s taps (tap0 + j) * (if j ≤ i then sample16 s src (i - j) else before (j - i)))) 7

/-- BAND (R307): the sum is exact until its shift, as R307 says of every sum, although R301 gives energies 48 bits (DEDUCED, notes/assumptions/50). -/
def watchBandBody (s : State) (b : List Byte) : State :=
  let ntap := field b 13 1
  let y := filterOut s (field b 4 2) (field b 6 2) 0 ntap (fun _ => 0)
  { s with spr.score := clip32 (asr (sumFrom (ntap - 1) (field b 8 4) (fun i => y i * y i)) (field b 12 1)) }

/-- BAND. -/
def execWatchBand (s : State) : Host.Outcome State Fault Refusal := watchRun 3 watchBandBody s

/-- LOG8 (R308). -/
def log8 (x : Nat) : Nat :=
  if x = 0 then 0
  else
    let e := Nat.log2 x
    min (8 * e + (if 3 ≤ e then x / 2 ^ (e - 3) % 8 else x * 2 ^ (3 - e) % 8)) 127

/-- FEAT (R307): features subframe by subframe and filter by filter; the samples before the buffer that the first outputs reach are not stated, and are free (notes/assumptions/10). -/
def watchFeatBody (s : State) (b : List Byte) : State :=
  let sub := field b 8 2
  let nb := field b 12 1
  let ntap := field b 13 1
  let before (j : Nat) : Int := (Config.free 16 s.freeNo (5000 + j)).toInt
  let feat (t f : Nat) : Nat :=
    let y := filterOut s (field b 4 2) (field b 6 2) (f * ntap) ntap before
    log8 (asr (sumFrom (t * sub) ((t + 1) * sub) (fun i => y i * y i)) (field b 16 1)).toNat
  let bytes := (List.range (field b 10 2)).flatMap (fun t => (List.range nb).map (fun f => BitVec.ofNat 8 (feat t f)))
  ({ s with spr.sram := mwrite 0 s.spr.sram (64 * field b 14 2) bytes }).draw

/-- FEAT. -/
def execWatchFeat (s : State) : Host.Outcome State Fault Refusal := watchRun 4 watchFeatBody s

/-- A product scaled and rounded: `(v × mul + 2^(sh−1)) >> sh`, the rounding term omitted when the shift is 0. -/
def scaleRound (v : Int) (mul sh : Nat) : Int := asr (v * mul + (if sh = 0 then 0 else 2 ^ (sh - 1))) sh

/-- A value clamped between two bounds. -/
def clampInt (lo hi v : Int) : Int := max lo (min v hi)

/-- A 32-bit signed value of Sprout SRAM. -/
def sample32 (s : State) (line i : Nat) : Int := (BitVec.ofNat 32 (leNat (mread 0 s.spr.sram (64 * line + 4 * i) 4))).toInt

/-- DENSE (R307). -/
def watchDenseBody (s : State) (b : List Byte) : State :=
  let kin := field b 12 2
  let flags := field b 19 1
  let acc (o : Nat) : Int :=
    clampInt (-2147483648) 2147483647 (sumFrom 0 kin (fun k => sample8 s (field b 6 2) (o * kin + k) * sample8 s (field b 4 2) k) + sample32 s (field b 8 2) o)
  let narrow (v : Int) : Int :=
    let c := clampInt (-128) 127 (scaleRound v (field b 16 2) (field b 18 1))
    if nbit flags 0 then max 0 c else c
  let bytes := (List.range (field b 14 2)).flatMap (fun o =>
    if nbit flags 1 then leBytes 4 (BitVec.ofInt 32 (acc o)).toNat else leBytes 1 (BitVec.ofInt 8 (narrow (acc o))).toNat)
  { s with spr.sram := mwrite 0 s.spr.sram (64 * field b 10 2) bytes }

/-- DENSE. -/
def execWatchDense (s : State) : Host.Outcome State Fault Refusal := watchRun 5 watchDenseBody s

/-- SCORE (R307). -/
def watchScoreBody (s : State) (b : List Byte) : State :=
  { s with spr.score := BitVec.ofInt 32 (clampInt 0 65536 (scaleRound (sample32 s (field b 4 2) (field b 6 1)) (field b 8 2) (field b 10 1))) }

/-- SCORE. -/
def execWatchScore (s : State) : Host.Outcome State Fault Refusal := watchRun 6 watchScoreBody s

/-! ### TEST (R309, R310, R314) -/

/-- The wake output asserted (R314). -/
def wakeOn (s : State) : State := { s with spr.wakeOut := true, spr.wakeOutTs := s.ts, ports.wakeO := true }

/-- A fired test recorded (R310). -/
def recordHit (s : State) (rung : Nat) : State :=
  sprEvent { s with
    spr.hitTs := s.ts, spr.hitExt := BitVec.ofNat 64 (extTime s), spr.hitScore := s.spr.score, spr.hitPacket := s.spr.pc
    spr.hitStream := BitVec.ofNat 5 s.spr.lastStream, spr.hitRung := BitVec.ofNat 2 rung
    spr.hitTapCnt := BitVec.ofNat 32 (s.stream s.spr.lastStream).tapCount.toNat, spr.hits := satInc s.spr.hits } 0

/-- The PROMOTE action: from I, T and W it is a wake (R318), then a promotion request of the owner's (R309, R324). -/
def hitPromote (s : State) (rung : Nat) : State :=
  let allowed := match s.spr.owner with | some p => hasRight s p 2 | none => true
  promote (if allowed then latchWake s 8 3 else s) rung s.spr.owner

/-- The actions of a fired test in the order of R309. -/
def hitActions (s : State) (b : List Byte) : State :=
  let act := field b 10 1
  let s1 := if nbit act 0 then hitPromote s (field b 11 1) else s
  let s2 := if nbit act 1 then wakeOn s1 else s1
  let s3 := if nbit act 2 then (match s2.spr.owner with | some p => raiseVector s2 p (field b 12 1) | none => s2) else s2
  if nbit act 3 then endProgram s3 else s3

/-- TEST (R309): the window is a hit when the score is at least THRESHOLD; HITS hits among the last OF windows fire the test. -/
def watchTestBody (s : State) (b : List Byte) : State :=
  let pc := s.spr.pc.toNat
  let hit := decide (field b 4 4 ≤ s.spr.score.toNat)
  let h := (hit :: tget [] s.spr.history pc).take (field b 9 1)
  let fires := decide (field b 8 1 ≤ (h.filter id).length)
  let s1 := { s with spr.history := tset s.spr.history pc (if fires then [] else h) }
  if fires then hitActions (recordHit s1 (field b 11 1)) b
  else if nbit (field b 10 1) 4 then endProgram s1 else s1

/-- TEST. -/
def execWatchTest (s : State) : Host.Outcome State Fault Refusal := watchRun 7 watchTestBody s

/-- END (R307). -/
def execWatchEnd (s : State) : Host.Outcome State Fault Refusal := watchRun 8 (fun s _ => endProgram s) s

/-- WAKE_HOLD_EXPIRE (R314): a hold of 0 keeps the output asserted. -/
def execWakeHoldExpire (now : W64) (s : State) : Host.Outcome State Fault Refusal :=
  endsAt s now (fun s =>
    if s.spr.wakeOut ∧ s.spr.wakeHold ≠ 0 ∧ s.spr.wakeOutTs.toNat + s.spr.wakeHold.toNat * 1000000 ≤ s.ts.toNat then wakeOff s else s)

/-! ### Built-in and standing programs (R332, R333) -/

/-- A watch packet of fields given as offset, size and value. -/
def watchPkt (fields : List (Nat × Nat × Nat)) : List Byte :=
  fields.foldl (fun b f => b.take f.1 ++ leBytes f.2.1 f.2.2 ++ b.drop (f.1 + f.2.1)) (List.replicate 32 0)

/-- The built-in program of R333. -/
def romProgram : List Byte :=
  watchPkt [(0, 1, 1), (5, 1, 0x10), (8, 4, 1024), (12, 2, 32)] ++ watchPkt [(0, 1, 2), (4, 2, 32), (8, 4, 1024), (12, 1, 10)]
    ++ watchPkt [(0, 1, 7), (4, 4, 1048576), (8, 1, 2), (9, 1, 3), (10, 1, 2), (11, 1, 1)] ++ watchPkt [(0, 1, 8)]

/-- The ROM's program runs (R333): stream 0 in cut mode with a tap of 16 KiB, windows of 10 ms every 100 ms, SOURCE = ROM. -/
def startRom (s : State) : State :=
  let s1 := s.modStream 0 (fun st => { st with tap := true, cut := true, tapBytes := 16384, tapLine := 3840, tapCount := 0 })
  let s2 := putWatch { s1 with spr.tapLow := 3840, spr.period := 0x186A0, spr.onTime := 0x2710, spr.wakeHold := 100 } romProgram 32 3 none
  setWatch s2 true

/-- The configuration's standing L0 program loaded and started (R332). -/
def startStanding (s : State) (bs : List Byte) : State :=
  if (watchBad s bs 32 false).isSome then s else setWatch (putWatch s bs 32 2 none) true

end Sys2Proof.Machine
end

