-- ==== Sys2Proof/Machine/Boot.lean ====
section
/-! DEFINITION. Rennet's start-up (R454 to R477, R684), the image and its transfer (R469 to R481), derived keys and the Cave (R482 to R486), and Rennet's own mailbox messages (R478). -/

namespace Sys2Proof.Machine

/-! ### The image (R469 to R472) -/

/-- The manifest's bytes. -/
def manifestLen : Nat := 8192
/-- The offset of section entry `i`. -/
def sectOff (i : Nat) : Nat := 32 + 64 * i
/-- Type, offset, length, load address and digest of section `i`. -/
def sectType (m : List Byte) (i : Nat) : Nat := field m (sectOff i) 1
def sectStart (m : List Byte) (i : Nat) : Nat := field m (sectOff i + 4) 4
def sectLen (m : List Byte) (i : Nat) : Nat := field m (sectOff i + 8) 4
def sectLoad (m : List Byte) (i : Nat) : Nat := field m (sectOff i + 12) 4
def sectDigest (m : List Byte) (i : Nat) : List Byte := slice m (sectOff i + 16) 48
/-- The number of sections. -/
def sectCount (m : List Byte) : Nat := field m 14 1
/-- The largest length of a section by type. -/
def sectMax (t : Nat) : Nat := if t = 1 then 1835008 else if t = 2 then 131072 else 65536

/-- Whether a section entry keeps R470. -/
def sectOk (m : List Byte) (i : Nat) : Bool :=
  let t := sectType m i
  decide (1 ≤ t ∧ t ≤ 3) && field m (sectOff i + 1) 3 == 0 && sectStart m i % 4096 == 0 && decide (manifestLen ≤ sectStart m i ∧ sectLen m i ≤ sectMax t)
    && sectLoad m i % 4096 == 0 && (t != 3 || sectLoad m i == 0)
    && (List.range i).all (fun j => sectType m j != t && decide (sectStart m j + sectLen m j ≤ sectStart m i))

/-- Whether NOR holds a readable image (R471), by its manifest. -/
def readable (m : List Byte) : Bool :=
  let zero (off n : Nat) : Bool := (slice m off n).all (· == 0)
  let n := sectCount m
  field m 0 4 == 0x53545331 && field m 4 2 == 1 && (crc32 (slice m 0 8188)).toNat == field m 8188 4
    && decide (field m 6 2 < 2) && zero 15 1 && zero 24 8 && zero 321 31 && zero 7667 521
    && decide (1 ≤ n ∧ n ≤ 3) && zero (sectOff n) (64 * (3 - n)) && (List.range n).all (sectOk m) && (List.range n).any (fun i => sectType m i == 1)
    && decide (field m 8 4 ≤ 2039808) && (List.range n).all (fun i => decide (sectStart m i + sectLen m i ≤ field m 8 4))

/-- The cause bits of R487 that a manifest's check sets (R472): 0 SIG_FAIL, 1 KEY_SLOT, 2 SVN_LOW. -/
def manifestCause (s : State) (m : List Byte) : Nat :=
  let k := field m 12 1
  let ec := slice m 224 97
  let ml := slice m 352 2592
  let msg := slice m 0 2944
  let sh := s.otp.shadow
  let keyed := decide (k ≤ 3) && fuseLocked sh (4 + k) && !slotRevoked sh k && mread 0 sh (regionOff (4 + k)) 48 == pairDigest ec ml
  let signed_ := Config.verify schemeEc ec msg (slice m 2944 96) && Config.verify schemeMl ml msg (slice m 3040 4627)
  b2n (!signed_) + 2 * b2n (!keyed) + 4 * b2n (decide (field m 13 1 < svnCount sh))

/-- The bytes of section `i` in an image. -/
def sectBytes (m image : List Byte) (i : Nat) : List Byte := slice image (sectStart m i) (sectLen m i)
/-- Whether every section's digest matches. -/
def sectsOk (m image : List Byte) : Bool := (List.range (sectCount m)).all (fun i => padTo 48 (Config.sha384 (sectBytes m image i)) == sectDigest m i)
/-- The section of a type. -/
def sectOfType (m image : List Byte) (t : Nat) : List Byte :=
  match (List.range (sectCount m)).find? (fun i => sectType m i == t) with
  | some i => sectBytes m image i
  | none => []

/-! ### NOR (R650, R651) -/

/-- Bytes of NOR: an erased byte reads 0xFF. -/
def norRead (s : State) (a n : Nat) : List Byte := mread 0xFF s.rennet.nor a n
/-- Sectors of NOR erased. -/
def norErase (s : State) (a n : Nat) : State := { s with rennet.nor := mclear s.rennet.nor a (a + n) }
/-- Bytes of NOR programmed: bits only fall. -/
def norProgram (s : State) (a : Nat) (bs : List Byte) : State :=
  { s with rennet.nor := mwrite 0xFF s.rennet.nor a (bs.zipIdx.map (fun e => e.1 &&& mget 0xFF s.rennet.nor (a + e.2))) }

/-! ### Start-up, step by step (R460) -/

/-- A flag of RNT_EVENTS raised: 0 DEGRADED_BOOT, 1 ENTROPY, 2 PARITY, 3 WDOG, 4 HANDOVER_LATE (R487). -/
def rntEvent (s : State) (bit : Nat) : State := { s with rennet.events := raiseEv s.rennet.events bit }

/-- A step ends: its token is folded into the flow accumulator (R457). -/
def endStep (s : State) (n : Nat) : State :=
  { s with rennet.step := n, rennet.flow := Config.sha3 (s.rennet.flow ++ Config.flowToken n), rennet.wdogAt := s.ts }

/-- The accumulator's value after the tokens of a list of steps. -/
def flowOf (steps : List Nat) : List Byte := steps.foldl (fun f n => Config.sha3 (f ++ Config.flowToken n)) []

/-- The two hard-wired values of the release gate (R457): the verified path runs every step from 2 to 13, and the degraded path skips step 10 (R460). -/
def flowVerified : List Byte := flowOf [2, 3, 4, 5, 6, 7, 8, 9, 10, 11, 12, 13]
/-- The value of the degraded path. -/
def flowDegraded : List Byte := flowOf [2, 3, 4, 5, 6, 7, 8, 9, 11, 12, 13]

/-- Whether the release gate of the always-on island opens (R457). -/
def flowGate (s : State) : Bool :=
  match s.rennet.boot with
  | .verified => s.rennet.flow == flowVerified
  | .degraded => s.rennet.flow == flowDegraded
  | _ => true

/-- Whether the start-up is one from S (R463). -/
def fromS (s : State) : Bool := s.rennet.wake

/-- Steps 1 and 2: straps, the regulator's VOUT_MODE (R609), RNT's clock and supply; after power-on the sequencer asks for every other domain, cores in groups of 600 µs (R462). -/
def bootPower (s : State) (i : StartInputs) : State :=
  let on : Dom := { on := true, req := true, iso := false, ret := false, reqTs := s.rennet.refTs }
  let s1 : State := { s with
    chip := { s.chip with strapPmb := i.strapPmb, strapMg := i.strapMg }
    pwr.regAddr := i.strapPmb, crp.rnt := on, crp.pllAon := true, crp.pllTs := s.crp.pllTs || !fromS s, crp.pllIo := s.crp.pllIo || !fromS s
    pwr.events := if s.chip.ulinear16 then s.pwr.events else raiseEv s.pwr.events 6
    rennet.stopped := false, rennet.halted := false, rennet.flow := [], rennet.healthFails := 0 }
  let at_ (n : Nat) : W64 := s.rennet.refTs + BitVec.ofNat 64 n
  if fromS s then s1
  else
    let s2 := [Domain.net, .ctl, .flc, .spr, .str].foldl (fun t d => askOn t d (at_ 50000)) s1
    let g := max 1 s.spr.group.toNat
    (List.range s.ncores).foldl (fun t c => askOn t (coreDom c) (at_ (50000 + c / g * 600000))) s2

/-- The patch entries of a locked PATCH region, by function (R456, R505). -/
def patchesOf (m : Mem) : Tbl (List Byte) :=
  if !fuseLocked m 3 then []
  else (List.range (min 16 ((mget 0 m 0x12C0).toNat % 32))).foldl (fun t i =>
    let a := 0x12C0 + 4 + 516 * i
    let h := leNat (mread 0 m a 4)
    tset t (h % 64) (mread 0 m (a + 4) (h / 2 ^ 16 % 1024))) []

/-- Step 3: sensing, digests, patches; an interrupted scrapping goes on (R507, R508, R522). None where a digest fails. -/
def bootSense (s : State) (i : StartInputs) : Option State :=
  let s1 := senseOtp s i.marginal i.supplyOk
  let m := s1.otp.shadow
  let checked := if s1.otp.lc = 4 then [0] else List.range 9
  if checked.any (fun n => fuseLocked m n && !digestOk m n) then none
  else
    let s2 := { s1 with rennet.patches := patchesOf m }
    let s3 := if s2.otp.lc = 4 ∧ i.supplyOk then (burn s2 8 (scrapBits s2.otp.cells) [] none).1 else s2
    let weak := s3.otp.weak
    if weak = [] then some s3
    else
      let body := [BitVec.ofNat 8 9, BitVec.ofNat 8 (min 255 weak.length), 0, 0] ++ (weak.take 8).flatMap (fun w => leBytes 2 w)
      some (sendReportBody (idEvent s3 0) (mkReport s3 0x0302 (initId 1 0) 64) body)

/-- Step 4: the entropy tests, the DRBG, and the live-class memory key (R466 to R468). -/
def bootEntropy (s : State) (ok : Bool) : State :=
  if ok then
    let no := s.rennet.drbgN
    { s with rennet.drbgOn := true, rennet.entropyFail := false, rennet.drbgN := no + 1, rennet.drbgSince := 1, rennet.reseedAt := s.ts
             mem.kLive := padTo 32 (Config.drbg no 32), mem.liveKey := true, mem.rawKey := false }
  else
    let raw := leBytes 128 (Config.free 1024 s.freeNo 75).toNat
    let s1 := { rntEvent s.draw 1 with rennet.drbgOn := false, rennet.entropyFail := true
                                       mem.kLive := padTo 32 (Config.sha3 raw), mem.liveKey := true, mem.rawKey := true }
    report s1 0x0802 (initId 1 0) 64

/-- The programmed bytes at the start of the boot-count sector (R513). -/
def bootBytes (s : State) : Nat := ((norRead s 0x200000 1024).takeWhile (· != 0xFF)).length

/-- Step 6: the boot counter advances (R513); without NOR its low part is not stated. -/
def bootCount (s : State) (nor supply : Bool) : State :=
  let e := epochCount s.otp.shadow
  if !nor then ({ s with otp.bootCtr := BitVec.ofNat 32 (e * 1024 + (Config.free 10 s.freeNo 76).toNat) }).draw
  else
    let l := bootBytes s
    if l < 1024 then { norProgram s (0x200000 + l) [0] with otp.bootCtr := BitVec.ofNat 32 (e * 1024 + l + 1) }
    else if e < 2048 ∧ supply then
      let s1 := (burn s 5 [(0x34D8 + e / 8, e % 8)] [] none).1
      let s2 := norProgram (norErase (resense s1 0x34D8 256) 0x200000 65536) 0x200000 [0]
      { s2 with otp.bootCtr := BitVec.ofNat 32 ((e + 1) * 1024 + 1) }
    else { idEvent s 5 with otp.bootCtr := BitVec.ofNat 32 (e * 1024 + 1024) }

/-- Whether the unique device secret was regenerated (R465, R504). -/
def pufOk (s : State) (i : StartInputs) : Bool := fuseLocked s.otp.shadow 2 && i.pufMatches
/-- Whether it may be used as well (R521). -/
def udsOk (s : State) (i : StartInputs) : Bool := pufOk s i && decide (s.otp.lc.toNat ≤ 3)

/-- A label's bytes. -/
def ascii (l : List Nat) : List Byte := l.map (BitVec.ofNat 8)
/-- The labels of R482. -/
def lblCdiRom : List Byte := ascii [0x53, 0x54, 0x41, 0x53, 0x2D, 0x43, 0x44, 0x49, 0x2D, 0x52, 0x4F, 0x4D]
def lblDevEc : List Byte := ascii [0x53, 0x54, 0x41, 0x53, 0x2D, 0x44, 0x45, 0x56, 0x49, 0x44, 0x2D, 0x45, 0x43]
def lblDevMl : List Byte := ascii [0x53, 0x54, 0x41, 0x53, 0x2D, 0x44, 0x45, 0x56, 0x49, 0x44, 0x2D, 0x4D, 0x4C, 0x44, 0x53, 0x41]
def lblCdiAtt : List Byte := ascii [0x53, 0x54, 0x41, 0x53, 0x2D, 0x43, 0x44, 0x49, 0x2D, 0x41, 0x54, 0x54]
def lblAliasEc : List Byte := ascii [0x53, 0x54, 0x41, 0x53, 0x2D, 0x41, 0x4C, 0x49, 0x41, 0x53, 0x2D, 0x45, 0x43]
def lblAliasMl : List Byte := ascii [0x53, 0x54, 0x41, 0x53, 0x2D, 0x41, 0x4C, 0x49, 0x41, 0x53, 0x2D, 0x4D, 0x4C, 0x44, 0x53, 0x41]
def lblCdiSeal : List Byte := ascii [0x53, 0x54, 0x41, 0x53, 0x2D, 0x43, 0x44, 0x49, 0x2D, 0x53, 0x45, 0x41, 0x4C]
def lblBlob : List Byte := ascii [0x53, 0x54, 0x41, 0x53, 0x2D, 0x42, 0x4C, 0x4F, 0x42]

/-- A value in a Cave slot of 64 bytes (R483). -/
def caveSet (s : State) (slot : Nat) (v : List Byte) : State := { s with rennet.cave := tset s.rennet.cave slot (padTo 64 v) }
/-- A Cave slot. -/
def caveGet (s : State) (slot : Nat) : List Byte := tget [] s.rennet.cave slot
/-- Every slot zeroed, and the Cave disabled until the next start-up (R476). -/
def caveClear (s : State) : State := { s with rennet.cave := [], rennet.masks := [], rennet.caveOff := true }

/-- Steps 5 and 6: the UDS, CDI_ROM and the DeviceID keys (R465, R482). -/
def deriveDevice (s : State) (i : StartInputs) : State :=
  if !udsOk s i then s
  else
    let uds := padTo 32 (Config.puf (mread 0 s.otp.shadow 0x280 4096))
    let patch := mread 0 s.otp.shadow (regionOff 3 + regionLen s.otp.shadow 3) 32
    let mRom := padTo 48 (Config.sha384 (Config.romId ++ patch))
    let cdi := Config.kdf uds lblCdiRom mRom 48
    let s1 := caveSet (caveSet { s with rennet.mRom := mRom } 0 uds) 1 cdi
    caveSet (caveSet s1 2 (Config.kdf cdi lblDevEc [] 56)) 3 (Config.kdf cdi lblDevMl [] 32)

/-- Step 10: the attestation and sealing keys (R482, R521). -/
def deriveFirmware (s : State) : State :=
  let cdi := (caveGet s 1).take 48
  let m := s.rennet.manifest
  let lc := BitVec.ofNat 8 s.otp.lc.toNat
  let mFw := Config.sha384 (slice m 0 2944 ++ [lc, 1])
  let att := Config.kdf cdi lblCdiAtt mFw 48
  let s1 := caveSet (caveSet (caveSet s 4 att) 5 (Config.kdf att lblAliasEc [] 56)) 6 (Config.kdf att lblAliasMl [] 32)
  if s.otp.lc = 0 then s1
  else
    let slot := mread 0 s.otp.shadow (regionOff (4 + s.rennet.keySlot.toNat)) 48
    let sealKey := Config.kdf cdi lblCdiSeal (slot ++ [lc]) 48
    caveSet (caveSet s1 7 sealKey) 8 (Config.kdf sealKey lblBlob [] 32)

/-- The body of a boot entry (R590). -/
def bootBody (s : State) : List Byte :=
  let digest := if s.rennet.manifest = [] then [] else (padTo 48 (Config.sha384 (slice s.rennet.manifest 0 2944))).take 16
  leBytes 4 s.otp.bootCtr.toNat ++ [BitVec.ofNat 8 (bootCode s.rennet.boot), s.rennet.cause.setWidth 8, s.rennet.noimg.setWidth 8, s.otp.lc.setWidth 8
    , s.rennet.svnImage, s.rennet.svnOtp] ++ leBytes 2 s.otp.marginal.toNat ++ leBytes 4 s.rennet.handover.toNat ++ padTo 16 digest

/-- Step 11: the head of the Rind is found, events held in the always-on island are taken over, and the boot entry is written (R591, R596). -/
def bootRind (s : State) (nor : Bool) : State :=
  let s0 := if nor then rindScan s else s
  let (no, plain) := match s0.rel.groups with | g :: _ => (g.group, !g.isSigned) | [] => (0, false)
  let s1 := rindStatus { s0 with rel.rindReady := nor, rel.rindQ := s0.rel.aonHeld ++ s0.rel.rindQ, rel.aonHeld := [], rel.group := no, rel.unsigned_ := plain }
  let s2 := if s1.rennet.boot = .degraded then sendReportBody (rntEvent s1 0) (mkReport s1 0x0102 (initId 1 0) 64) (bootBody s1)
    else (rindQueue s1 (0x0100 + (Config.free 8 s1.freeNo 77).toNat) false (bootBody s1)).draw
  rindFlush s2

/-- Step 12: the security version commit, at most 8 bits (R474). -/
def bootCommit (s : State) (supply : Bool) : State :=
  let want := s.rennet.svnImage.toNat
  let have_ := svnCount s.otp.shadow
  if s.rennet.boot ≠ .verified ∨ !nbit (field s.rennet.manifest 6 2) 0 ∨ want ≤ have_ then s
  else
    let clear := missingBits s.otp.shadow 0x34C8 (List.replicate 16 0xFF)
    let bits := if supply then clear.take (min 8 (want - have_)) else []
    let s1 := if supply then resense (burn s 4 bits [] none).1 0x34C8 16 else idEvent s 1
    { s1 with rennet.svnOtp := BitVec.ofNat 8 (have_ + bits.length), rennet.svnPending := decide (have_ + bits.length < want) }

/-- Step 13: the roots zeroed and the Cave locked; Rennet serves mailboxes from now (R464, R484, R485). -/
def bootLock (s : State) : State :=
  let s1 := { s with rennet.cave := s.rennet.cave.filter (fun e => e.1 != 0 && e.1 != 1 && e.1 != 4), rennet.caveLocked := true }
  (List.range 66).foldl (fun t m => refuseUnknown t m) (endStep s1 13)

/-- The first byte of the staging buffer, the top 64 KiB of Rennet's SRAM. -/
def stagingBase : Nat := 0x30000
/-- LOAD of the section of a type. -/
def loadOf (m : List Byte) (t : Nat) : Nat := (((List.range (sectCount m)).find? (fun i => sectType m i == t)).map (sectLoad m)).getD 0

/-- The image taken in (steps 7 to 9): its manifest copied, its sections loaded, and the causes of its check (R472, R473). -/
def loadImage (s : State) (m image : List Byte) : State :=
  let cause := manifestCause s m + 8 * b2n (!sectsOk m image)
  let config := sectOfType m image 3
  let tooLong := configOverrun config.length config
  let s1 := { s with
    rennet.manifest := m, rennet.ctlImage := sectOfType m image 1, rennet.flcImage := sectOfType m image 2, rennet.config := config
    rennet.sram := mwrite 0 s.rennet.sram stagingBase config
    rennet.ctlSram := mwrite 0 s.rennet.ctlSram (loadOf m 1) (sectOfType m image 1)
    rennet.flcSram := mwrite 0 s.rennet.flcSram (loadOf m 2) (sectOfType m image 2)
    rennet.svnImage := BitVec.ofNat 8 (field m 13 1), rennet.keySlot := BitVec.ofNat 2 (field m 12 1), rennet.version := BitVec.ofNat 64 (field m 16 8)
    rennet.cause := s.rennet.cause ||| BitVec.ofNat 6 (cause + 32 * b2n tooLong) }
  match lastRec s1 9 with
  | some v => if 250 ≤ field v 0 2 ∧ field v 0 2 ≤ 10000 then { s1 with rennet.brine := BitVec.ofNat 16 (field v 0 2) } else s1
  | none => s1

/-! ### Without an image (R333) -/

/-- ROM holds the array controller, the flash controller and every core in reset and off, and runs Sprout in W on its own program. -/
def noImage (s : State) : State :=
  let s1 := ([Domain.ctl, .flc, .net, .str].map (fun d => (false, d)) ++ [(true, Domain.spr)]).foldl (fun t d => askOff t d.1 d.2) s
  let s2 := (List.range s.ncores).foldl (fun t c => askOff t false (coreDom c)) s1
  startRom { s2 with spr.pstate := .w, spr.l1 := .down, spr.l2 := .down, spr.l3 := .down, spr.target := 0, spr.restoring := none
                     spr.draining := none, spr.isoDone := false, rennet.step := 14, rennet.wake := false }

/-! ### RENNET_STARTUP -/

/-- The boot path of steps 7 to 10: the no-image case with its cause, or the image checked and the keys derived or refused. -/
def bootPath (s0 : State) (i : StartInputs) : State :=
  let m := norRead s0 0 manifestLen
  let s := if s0.otp.lc = 4 ∨ pufOk s0 i then s0 else { s0 with rennet.cause := s0.rennet.cause ||| 16 }
  let none_ (t : State) (why : Nat) : State := caveClear { t with rennet.boot := .noImage, rennet.noimg := BitVec.ofNat 3 why }
  if s.otp.lc = 4 then caveClear { s with rennet.boot := .noImage }
  else if s.rennet.consec = 3 then none_ s 3
  else if !i.norAnswers then none_ s 1
  else if !readable m then none_ s 2
  else
    let s1 := loadImage s m (norRead s 0 (field m 8 4))
    if s1.rennet.cause &&& 0x1F = 0 ∧ s1.otp.lc ≠ 5 then deriveFirmware { s1 with rennet.boot := .verified }
    else { caveClear { s1 with rennet.boot := .degraded } with otp.degraded := true }

/-- A run of steps ends. -/
def endSteps (s : State) (ns : List Nat) : State := ns.foldl endStep s

/-- An expiry, halt or flow failure counted, then the instance reset; its flag shows after it (R455, R457, R459). -/
def rennetFail (s : State) (cause : BitVec 4) (bit : Nat) : State :=
  let s1 := { s with rennet.consec := if s.rennet.consec = 3 then 3 else s.rennet.consec + 1, rennet.total := satInc s.rennet.total }
  rntEvent (rennetReset s1 cause) bit

/-- The release gate's check at step 13: another value than its two asserts the fault output and causes an instance reset, which releases it (R457, R657). -/
def checkFlow (s : State) : State :=
  if flowGate s then s else rennetFail { s with ports.faultO := true } 3 3

/-- Steps 1 to 13 (R460). A unit whose digests fail stops with the fault output asserted; a scrapped one keeps every other domain in reset (R508, R522). -/
def rennetStartup (s : State) (i : StartInputs) : State :=
  if s.rennet.step ≠ 0 ∨ s.rennet.stopped then s
  else
    let s1 := endStep (bootPower s i) 2
    match bootSense s1 i with
    | none => { s1 with rennet.stopped := true, ports.faultO := true, otp.shadow := [], otp.lc := 0 }
    | some s2 =>
      let s3 := bootEntropy (endStep s2 3) i.entropyOk
      let s4 := bootCount { endSteps s3 [4, 5] with rennet.svnOtp := BitVec.ofNat 8 (svnCount s3.otp.shadow) } i.norAnswers i.supplyOk
      let s5 := bootPath (endStep (deriveDevice s4 i) 6) i
      let s6 := endSteps s5 (if s5.rennet.boot = .verified then [7, 8, 9, 10] else [7, 8, 9])
      let s7 := bootLock (endStep (bootCommit (endStep (bootRind s6 i.norAnswers) 11) i.supplyOk) 12)
      if s7.otp.lc = 4 then s7
      else if s7.rennet.boot = .noImage then noImage s7 else checkFlow s7

/-- RENNET_STARTUP. -/
def execRennetStartup (inputs : StartInputs) (s : State) : Host.Outcome State Fault Refusal := ends s (rennetStartup s inputs)

/-! ### The configuration applied (R245, R475, R684) -/

/-- The sizes of R684: the remainder of the carve-out in blocks. -/
def remainderBlocks (s : State) : Nat :=
  let carve := s.mem.t3Size.toNat * 67108864
  let e := if s.press.channels = 0 then 0 else s.press.nblocks - (s.press.eblocks.filter (fun b => b.2.retired)).length
  let f := e * 16777216
  let maps := (carve + f) / 4096 + 2097152 + 8192 * (64 + ceilDiv (carve + f) 68719476736)
  let press := f / 4096 + 8 * e
  (carve - (maps + press + (carve - press) / 8)) / blockBytes

/-- The block tables that the block map region holds (R684): one for each 64 MiB of the carve-out and of flash. -/
def mapTables (s : State) : Nat :=
  let e := if s.press.channels = 0 then 0 else s.press.nblocks - (s.press.eblocks.filter (fun b => b.2.retired)).length
  (s.mem.t3Size.toNat * 67108864 + e * 16777216) / 67108864

/-- A register word of a record written by the array controller. -/
def applyWord (s : State) (base : Nat) (v : List Byte) (w : Nat × Nat) : State :=
  if 4 * w.1 + 4 ≤ v.length then regWrite s (initId 2 0) (base + w.2) (BitVec.ofNat 32 (field v (4 * w.1) 4)) 0 else s

/-- Registers written from the last record of a type: word number in the record and offset in the block. -/
def applyRec (s : State) (type base : Nat) (words : List (Nat × Nat)) : State :=
  match lastRec s type with
  | some v => words.foldl (fun t w => applyWord t base v w) s
  | none => s

/-- Records of unknown types are logged in the global log (R475). -/
def logUnknown (s : State) : State :=
  ((records s).filter (fun r => decide (r.1 < 1 ∨ 10 < r.1))).foldl (fun t _ => globalNote t 6) s

/-- What firmware writes from the configuration as it comes up: the carve-out and its sizes, locked; the flash geometry, cadence and the fabric (R245, R475, R684). -/
def applyConfig (s : State) : State :=
  let s1 := applyRec s 10 0x70000 [(0, 0)]
  let s2 := applyRec s1 1 0x60000 [(0, 0), (1, 4), (2, 8)]
  let s3 := regWrite { s2 with mem.t3Avail := BitVec.ofNat 32 (remainderBlocks s2), mem.mapRoom := mapTables s2 } (initId 2 0) 0x6000C 1 0
  let s4 := applyRec s3 3 0x30000 ((1, 0x28) :: (2, 0x2C) :: (List.range 6).map (fun i => (3 + i, 0x40 + 4 * i)) ++ [(0, 0)])
  logUnknown (applyRec s4 4 0x50000 [(1, 0x14), (0, 0)])

/-- The partitions of the configuration, in increasing number; one whose fields R433 refuses is not created (R432). -/
def configForms (s : State) : List PartForm :=
  sortBy (fun a b => decide (a.num < b.num)) (((records s).filter (fun r => r.1 == 2)).map (fun r => readForm r.2 true))

/-- A partition of the configuration created. -/
def createForm (s : State) (f : PartForm) : State :=
  match placeExtents s [] f.t3 f.cache, formCores s f [] with
  | some e, some cs =>
    if (firstBad (partFormat f)).isSome || (firstBad (partRange s f [])).isSome || (s.part f.num).state != .absent then s
    else makePart s f cs e.1 e.2
  | _, _ => s

/-- The default partition 0 (R432). -/
def defaultForm (s : State) : PartForm :=
  { num := 0, cls := 1, weight := 100, ncore := s.ncores, tile := 0, ctx := 1024, t1 := 128 * s.ncores, t2 := 32 * s.ncores
    t3 := min s.mem.t3Avail.toNat (homeLimit s), cache := 0, rights := 0x000F0FFF, mask := none }

/-- The partitions created after a start-up (R432). -/
def makeConfigured (s : State) : State :=
  match configForms s with
  | [] =>
    let f := defaultForm s
    match placeExtents s [] f.t3 0 with
    | some e => makePart s f (List.range s.ncores) e.1 e.2
    | none => makePart s f (List.range s.ncores) [] []
  | fs => fs.foldl createForm s

/-- The standing L0 program of the configuration, if any (R332). -/
def applyStanding (s : State) : State := match lastRec s 8 with | some v => startStanding s v | none => s

/-! ### Blobs and bound sets in the key-blob area (R486, R541, R651) -/

/-- The blob of a slot's value (R486): header, nonce, and the sealed value with its tag. -/
def makeBlob (s : State) (type minSvn cls : Nat) (nonce value : List Byte) : List Byte :=
  let head := leBytes 2 type ++ [BitVec.ofNat 8 minSvn, BitVec.ofNat 8 cls] ++ padTo 12 nonce
  head ++ padTo 80 (Config.gcmSeal ((caveGet s 8).take 32) (padTo 12 nonce) head (padTo 64 value))

/-- The slot value of a blob, where its tag holds. -/
def openBlob (s : State) (b : List Byte) : Option (List Byte) :=
  Config.gcmOpen ((caveGet s 8).take 32) (slice b 4 12) (slice b 0 16) (slice b 16 80)

/-- Bytes written in the key-blob area (R651). -/
def blobPut (s : State) (off : Nat) (bs : List Byte) : State :=
  { s with rennet.nor := mwrite 0xFF s.rennet.nor (0x220000 + off) bs }

/-- Where set `i` lies in the key-blob area: its blob of 96 bytes, then its record, in 2,048 bytes each (notes/assumptions/43). -/
def setPlace (i : Nat) : Nat := 2048 * i
/-- The record beside a set's blob: SET_ID, SET_EPOCH, the number of members and their serial numbers. -/
def setRecord (b : BoundSet) : List Byte :=
  padTo 32 b.setId ++ leBytes 4 b.epoch.toNat ++ leBytes 4 b.members.length ++ b.members.flatMap (fun m => leBytes 16 m.toNat)

/-- Whether set keys and model keys may be used: a verified boot with its Cave, in Integrator or Fielded (R521, R526). -/
def setKeysOk (s : State) : Bool := aliasUsable s && (s.otp.lc == 1 || s.otp.lc == 2)

/-- A set's blob unwrapped into its Cave slot; one that does not open is not held (R486, R541). -/
def loadSet (s : State) (i : Nat) : State :=
  let a := 0x220000 + setPlace i
  let b := norRead s a 136
  if field b 0 2 ≠ 1 ∨ s.rennet.svnImage.toNat < field b 2 1 then s
  else match openBlob s (slice b 0 96) with
  | none => s
  | some v =>
    let ms := (List.range (min 64 (field b 132 4))).map (fun j => BitVec.ofNat 128 (leNat (norRead s (a + 136 + 16 * j) 16)))
    caveSet { s with att.sets := tset s.att.sets i { setId := slice b 96 32, epoch := BitVec.ofNat 32 (field b 128 4), members := ms } } (16 + i) v

/-- Firmware loads every set blob at each start-up (R541). -/
def loadSets (s : State) : State := if setKeysOk s then (List.range 8).foldl loadSet s else s

/-! ### Hand-over and host-ready (R461 to R463) -/

/-- A core out of reset: held ones of a domain that is on are released. -/
def releaseCore (s : State) (c : Nat) : State := if (s.core c).on then s.modCore c (fun k => { k with inReset := false }) else s

/-- HANDOVER (R457, R459, R461): never before 38,500 µs from the reference; the array side is released, or on a return from S its domains are asked for (R463). -/
def handover (s : State) : State :=
  let t := s.ts.toNat - s.rennet.refTs.toNat
  if s.rennet.step ≠ 13 ∨ (s.rennet.boot ≠ .verified ∧ s.rennet.boot ≠ .degraded) ∨ t < 38500000 then s
  else
    let s1 := { endStep s 14 with rennet.consec := 0, rennet.handover := BitVec.ofNat 32 (t / 1000) }
    let s2 := if 38500000 < t then sendReportBody (rntEvent s1 4) (mkReport s1 0x0103 (initId 1 0) 64) (bootBody s1) else s1
    if fromS s then
      let s3 := [Domain.ctl, .flc, .spr, .str].foldl (fun t d => askOn t d s2.ts) s2
      askOn (askOn s3 .net (s2.ts + 40000)) (coreDom 0) (s2.ts + 440000)
    else
      let s3 := (List.range s.ncores).foldl releaseCore s2
      applyConfig { s3 with press.recovering := decide (s3.press.channels ≠ 0) || s3.press.dirtyStop }

/-- HANDOVER. -/
def execHandover (now : W64) (s : State) : Host.Outcome State Fault Refusal := endsAt s now handover

/-- HOST_READY (R432, R460): at 40,000 µs the partitions are created, rings are read, and what was held is served. -/
def hostReady (s : State) : State :=
  if s.rennet.step ≠ 14 ∨ fromS s ∨ (s.rennet.boot ≠ .verified ∧ s.rennet.boot ≠ .degraded)
      ∨ s.ts.toNat < s.rennet.refTs.toNat + 40000000 ∨ !s.crp.ctl.on ∨ !s.crp.net.on then s
  else
    let s1 := { s with rennet.step := 15, spr.pstate := .a, spr.startedAt := s.ts, spr.idleSince := s.ts, spr.everAttached := false }
    serveHeld (applyStanding (restartIdle (pressReady (makeConfigured (loadSets s1)))))

/-- HOST_READY. -/
def execHostReady (now : W64) (s : State) : Host.Outcome State Fault Refusal := endsAt s now hostReady

/-! ### Expiries, halts and health (R455, R457 to R459, R467, R468, R483) -/

/-- The watchdog's period in ns (R458). -/
def wdogPeriod : Nat := 100000000

/-- The watchdog's expiry, 100 ms after ROM last refreshed it, or a token that ROM got wrong, which shows at the release gate (R457 to R459). -/
def watchdogExpire (s : State) (flow : Bool) : State :=
  if !s.crp.rnt.on ∨ s.rennet.stopped then s
  else if flow then rennetFail { s with ports.faultO := true } 3 3
  else if s.ts.toNat < s.rennet.wdogAt.toNat + wdogPeriod then s
  else rennetFail s 1 3

/-- WATCHDOG_EXPIRE. -/
def execWatchdogExpire (flow : Bool) (s : State) : Host.Outcome State Fault Refusal := ends s (watchdogExpire s flow)

/-- RENNET_PARITY (R455): the core halts, and an instance reset follows. -/
def execRennetParity (s : State) : Host.Outcome State Fault Refusal :=
  ends s (if !s.crp.rnt.on then s else rennetFail { s with rennet.halted := true } 2 2)

/-- ENTROPY_TEST_FAIL (R468): ENTROPY_FAIL is set and the DRBG stops. -/
def execEntropyTestFail (s : State) : Host.Outcome State Fault Refusal :=
  ends s (if !s.crp.rnt.on ∨ s.rennet.entropyFail then s
    else report { rntEvent s 1 with rennet.entropyFail := true, rennet.drbgOn := false, rennet.healthFails := 3 } 0x0802 (initId 1 0) 64)

/-- The DRBG reseeds after 65,536 requests, and at least every 1 s (R467). -/
def drbgReseed (s : State) : State :=
  if s.rennet.drbgOn ∧ (65536 ≤ s.rennet.drbgSince ∨ s.rennet.reseedAt.toNat + 1000000000 ≤ s.ts.toNat)
  then { s with rennet.drbgSince := 0, rennet.reseedAt := s.ts } else s

/-- DRBG_RESEED. -/
def execDrbgReseed (s : State) : Host.Outcome State Fault Refusal := ends s (drbgReseed s)

/-- BRINING_TICK (R483): RNT_BRINE µs after the last one, a fresh mask for every slot; the slots' values stay. It stops under ENTROPY_FAIL and in S and O. -/
def briningTick (s : State) : State :=
  if !s.crp.rnt.on ∨ !s.rennet.drbgOn ∨ s.spr.pstate = .s ∨ s.spr.pstate = .o ∨ s.ts.toNat < s.rennet.brineAt.toNat + s.rennet.brine.toNat * 1000 then s
  else
    let masks := (List.range 64).map (fun i => (i, padTo 64 (Config.drbg (s.rennet.drbgN + i) 64)))
    { drbgCount s 64 with rennet.masks := masks, rennet.brineAt := s.ts }

/-- BRINING_TICK. -/
def execBriningTick (s : State) : Host.Outcome State Fault Refusal := ends s (briningTick s)

/-- ECC_UNCORRECTABLE (R566, R596): contained where it lies; of CTL or FLC SRAM an instance reset follows; after one of Sprout SRAM firmware loads an image's program again. -/
def execEccUncorrectable (place : EccPlace) (addr : W64) (s : State) : Host.Outcome State Fault Refusal :=
  ends s (
    let s1 := eccUncorrectable s place addr
    match place with
    | .ctlSram | .flcSram => rennetReset s1 4
    | .sproutSram => if s.spr.source = 2 then applyStanding s1 else s1
    | _ => s1)

/-! ### Mailbox messages of identity and boot (R478) -/

/-- IDENTITY: serial number, life cycle and boot state, boot counter. -/
def execIdentity (m : MbxId) (s : State) : Host.Outcome State Fault Refusal :=
  ends s (mailServe s m 0x0001 (fun s _ =>
    (s, stDone, (List.range 4).map (wordOf s.otp.serial.toNat) ++ [BitVec.ofNat 32 (s.otp.lc.toNat + 16 * bootCode s.rennet.boot), s.otp.bootCtr])))

/-- BOOT_STATUS: five of Rennet's status registers. -/
def execBootStatus (m : MbxId) (s : State) : Host.Outcome State Fault Refusal :=
  ends s (mailServe s m 0x0002 (fun s _ => (s, stDone, (List.range 5).map (fun i => readRnt s (0x2000 + 4 * i)))))

/-! ### Image transfer (R479 to R481) -/

/-- How a message or command about an image ends: state, status, and whether it ended the transfer. -/
abbrev ImageEnd := State × W16

/-- A transfer ended without success: the manifest sectors stay as they are, and a recovery shows TRANSFER_ENDED. -/
def endTransfer (s : State) : State :=
  let s1 := { s with rennet.xfer := none }
  if s.rennet.boot = .recovery then { s1 with rennet.noimg := 4 } else s1

/-- The check of a manifest that has arrived (R471, R472 but for the sections): none where it passes. -/
def manifestRefuse (s : State) (m : List Byte) : Option W16 :=
  if !readable m then some stIntegrity
  else
    let c := manifestCause s m
    if c % 4 ≠ 0 then some stIntegrity else if 4 ≤ c then some stRange else none

/-- A transfer opened (R479, R480): recovery by a host, update by the array controller. -/
def beginImage (s : State) (m len : Nat) : ImageEnd :=
  let other := match s.rennet.xfer with | some x => !x.isEnded && x.holder != m | none => false
  let ended := match s.rennet.xfer with | some x => x.isEnded | none => true
  let mayRecover := s.otp.lc != 4 && (s.rennet.boot == .degraded || s.rennet.boot == .noImage || (s.rennet.boot == .recovery && ended))
  let may := if m = 64 then s.rennet.boot == .verified else mayRecover
  if other then (s, stBusy)
  else if !may then (s, stState)
  else if len < manifestLen ∨ 2039808 < len then (s, stRange)
  else
    let x : Transfer := { holder := m, len := len, lastTs := s.ts }
    ({ s with rennet.xfer := some x, rennet.boot := if m = 64 then s.rennet.boot else .recovery }, stDone)

/-- Image bytes of a transfer (R479): the manifest is checked once its last byte is in, then NOR is erased, and section bytes are programmed as they arrive. -/
def putImage (s : State) (x : Transfer) (bs : List Byte) : ImageEnd :=
  let staged := x.staged ++ bs.take (x.len - x.staged.length)
  let y := { x with staged := staged, offset := staged.length, lastTs := s.ts }
  if staged.length < manifestLen then ({ s with rennet.xfer := some y }, stDone)
  else
    let first := !x.ok
    match if first then manifestRefuse s (staged.take manifestLen) else none with
    | some st => (endTransfer s, st)
    | none =>
      let s1 := if first then norErase s 0 (ceilDiv x.len 65536 * 65536) else s
      let from_ := max manifestLen x.staged.length
      let s2 := norProgram s1 from_ (staged.drop from_)
      ({ s2 with rennet.xfer := some { y with ok := true } }, stDone)

/-- A transfer ends (R479): the sections compared, the manifest written and read back. -/
def finishImage (s : State) (x : Transfer) : ImageEnd :=
  let m := x.staged.take manifestLen
  if !x.ok ∨ x.staged.length < x.len ∨ !sectsOk m x.staged then (endTransfer s, stIntegrity)
  else
    let s1 := norProgram s 0 m
    if x.holder = 64 then ({ s1 with rennet.xfer := none, rennet.updatePending := true }, stDone)
    else ({ s1 with rennet.xfer := some { x with isEnded := true }, rennet.consec := 0 }, stDone)

/-- A message of the holder of an open transfer; from anyone else it is refused. -/
def asHolder (s : State) (m : Nat) (body : Transfer → State × W16 × List W32) : State × W16 × List W32 :=
  match s.rennet.xfer with
  | some x => if x.holder = m ∧ !x.isEnded then body x else (s, stState, [])
  | none => (s, stState, [])

/-- IMAGE_BEGIN (R479, R480); BUSY_RETRY carries detail 0x04. -/
def execImageBegin (m : MbxId) (s : State) : Host.Outcome State Fault Refusal :=
  ends s (mailServe s m 0x0010 (fun s a =>
    let r := beginImage s m (a.getD 0 0).toNat
    (r.1, r.2, if r.2 = stBusy then [4] else [])))

/-- IMAGE_DATA (R479): any other offset than the expected one is refused, and the transfer waits. -/
def execImageData (m : MbxId) (s : State) : Host.Outcome State Fault Refusal :=
  ends s (mailServe s m 0x0011 (fun s a => asHolder s m (fun x =>
    if (a.getD 0 0).toNat ≠ x.staged.length ∨ x.len ≤ x.staged.length then ({ s with rennet.xfer := some { x with lastTs := s.ts } }, stRange, [])
    else
      let r := putImage s x (mailData a)
      (r.1, r.2, []))))

/-- IMAGE_END (R479): word 2 holds the bytes written. -/
def execImageEnd (m : MbxId) (s : State) : Host.Outcome State Fault Refusal :=
  ends s (mailServe s m 0x0012 (fun s _ => asHolder s m (fun x =>
    let r := finishImage s x
    (r.1, r.2, if r.2 = stDone then [BitVec.ofNat 32 x.len] else []))))

/-- IMAGE_ABORT (R479). -/
def execImageAbort (m : MbxId) (s : State) : Host.Outcome State Fault Refusal :=
  ends s (mailServe s m 0x0013 (fun s _ => asHolder s m (fun _ => (endTransfer s, stAborted, []))))

/-- IMAGE_RUN (R480): after a completed recovery, an instance reset. -/
def execImageRun (m : MbxId) (s : State) : Host.Outcome State Fault Refusal :=
  ends s (mailServe s m 0x0014 (fun s _ =>
    match s.rennet.xfer with
    | some x => if x.holder = m.val ∧ x.isEnded ∧ s.rennet.boot = .recovery then (rennetReset s 5, stDone, []) else (s, stState, [])
    | none => (s, stState, [])))

/-- IMAGE_TRANSFER_TIMEOUT (R479): 1 s without a message. -/
def execImageTransferTimeout (now : W64) (s : State) : Host.Outcome State Fault Refusal :=
  endsAt s now (fun s => match s.rennet.xfer with
    | some x => if !x.isEnded ∧ x.lastTs.toNat + 1000000000 ≤ s.ts.toNat then endTransfer s else s
    | none => s)

/-- An update's bytes taken through a whole transfer (R479). -/
def updateImage (s : State) (bs : List Byte) : ImageEnd :=
  let b := beginImage s 64 bs.length
  if b.2 ≠ stDone then b
  else match b.1.rennet.xfer with
  | none => b
  | some x =>
    let d := putImage b.1 x bs
    if d.2 ≠ stDone then d
    else match d.1.rennet.xfer with
    | some y => finishImage d.1 y
    | none => d

/-- UPDATE (R420, R477, R479): the image goes to Rennet by the array controller's mailbox. -/
def execUpdate (p : PartId) (s : State) : Host.Outcome State Fault Refusal :=
  ends s (ringCmdR s p 0x0D03 9 12 12 [] (fun s k =>
    let len := par k 8 4
    let busy := match s.rennet.xfer with | some x => !x.isEnded | none => false
    if busy then refuseBusy s p k 4
    else if s.rennet.boot ≠ .verified then refuseState s p k noObj 0xA1
    else checked s p k [(!addrOk k 0, 0)] [(decide (2 ^ 48 < parAddr k 0 + len), 0), (decide (len < manifestLen ∨ 2039808 < len), 8)]
      (withData s p k 0 len (fun bs =>
        let r := updateImage s bs
        reply r.1 p k r.2 (if r.2 = stRange then detObj 13 else 0) noObj (if r.2 = stDone then 0xA2 else 0)))))

/-! ### Blobs (R484, R486) -/

/-- The blob key is usable in Integrator, Fielded and Returned of a verified boot (R476, R521). -/
def blobKeyOk (s : State) : Bool := !s.rennet.caveOff && decide (1 ≤ s.otp.lc.toNat ∧ s.otp.lc.toNat ≤ 3)
/-- The STATE words of a refused use: DETAIL 0 and the firmware's or the life cycle's state. -/
def keyStateWords (s : State) : List W32 := [0, if s.rennet.caveOff then 0xA1 else (lcState s).setWidth 32]

/-- BLOB_LOAD (R486): the array controller's alone. -/
def execBlobLoad (m : MbxId) (s : State) : Host.Outcome State Fault Refusal :=
  ends s (mailServe s m 0x0020 (fun s a =>
    let off := (a.getD 0 0).toNat
    let slot := (a.getD 1 0).toNat % 64
    if m.val ≠ 64 then (s, stRights, [])
    else if !blobKeyOk s then (s, stState, keyStateWords s)
    else if 262144 < off + 96 ∨ slot < 16 then (s, stRange, [])
    else
      let b := norRead s (0x220000 + off) 96
      match openBlob s b with
      | none => (s, stIntegrity, [])
      | some v => if s.rennet.svnImage.toNat < field b 2 1 then (s, stRange, []) else (caveSet s slot v, stDone, [])))

/-- BLOB_STORE (R486): a new nonce every time; the message does not say the blob's TYPE, MIN_SVN and class, and they are free (notes/assumptions/10). -/
def execBlobStore (m : MbxId) (s : State) : Host.Outcome State Fault Refusal :=
  ends s (mailServe s m 0x0021 (fun s a =>
    let slot := (a.getD 0 0).toNat
    let off := (a.getD 1 0).toNat
    if m.val ≠ 64 then (s, stRights, [])
    else if !blobKeyOk s then (s, stState, keyStateWords s)
    else if 262144 < off + 96 ∨ slot < 16 ∨ 63 < slot then (s, stRange, [])
    else match drbgDraw s 12 with
    | none => (s, stAborted, [])
    | some (t, nonce) =>
      let h := (Config.free 32 t.freeNo 78).toNat
      let b := makeBlob t (h % 65536) (h / 65536 % 256) (h / 16777216) nonce (caveGet t slot)
      ((blobPut t off b).draw, stDone, [96])))

end Sys2Proof.Machine
end

