-- ==== Sys2Proof/Machine/Ladder.lean ====
section
/-! DEFINITION. Entry to power states, falls and rises of rungs, restores, and the commands of the ladder group (R39 to R42, R268, R315 to R334, R362, R363, R414, R672 to R675). -/

namespace Sys2Proof.Machine

/-! ### What holds the instance back (R315, R317, R326) -/

/-- Whether a context is READY, QUEUED, RUNNING or HELD. -/
def ctxBusy (k : Ctx) : Bool := k.state == .ready || k.state == .queued || k.state == .running || k.state == .held
/-- Whether any task is READY, QUEUED or RUNNING (R315). -/
def anyBusy (s : State) : Bool := s.cores.any (fun c => c.2.ctxs.any (fun x => ctxBusy x.2 && x.2.state != .held))
/-- Whether a standing graph is started. -/
def anyStanding (s : State) : Bool := s.graphs.any (fun g => g.2.started)

/-- Whether none of some cores holds a live context or a started standing graph (R326). -/
def coresIdle (s : State) (cs : List Nat) : Bool :=
  cs.all (fun c => (s.core c).ctxs.all (fun x => !(ctxBusy x.2 || x.2.state == .waiting))
    && s.graphs.all (fun g => !(g.2.started && g.2.ctxOf.any (fun x => x.1 == c))))

/-- The time in ns until the next standing release, where one is to come (R218, R317). -/
def nextRelease (s : State) : Option Nat :=
  let due := s.graphs.filterMap (fun g => match g.2.started, g.2.e0 with
    | true, some e0 => some ((e0.toNat + g.2.phase.toNat + g.2.nextK * g.2.period * 65536 - extTime s) * s.cad.period.toNat / 65536)
    | _, _ => none)
  due.foldl (fun m d => some (match m with | some v => min v d | none => d)) none

/-- The restore delays of I and T in ns (R320). -/
def restoreDelay : PState → Nat
  | .i => 1000 | .t => 600000 | .w => 1500000 | .s => 40000000 | _ => 0

/-- Whether the next release leaves room for a state: its restore delay, 2 µs and one eighth of a beat period (R317). -/
def fits (s : State) (st : PState) : Bool :=
  match nextRelease s with
  | none => true
  | some d => decide (restoreDelay st + 2000 + s.cad.period.toNat / 8 ≤ d)

/-- Whether a power sequence is under way. -/
def inSequence (s : State) : Bool := s.spr.restoring.isSome || s.spr.draining.isSome || s.spr.falling.isSome || isRising s || isFalling s

/-! ### I and T (R315, R362, R363) -/

/-- Entry to I: each UP link sends LP_ENTER and goes to electrical idle. -/
def enterI (s : State) : State :=
  let idle (p : Port) : Port := if p.state = .up then { p with state := .lp, txFlits := satInc p.txFlits } else p
  { s with fab.ports := tmap idle s.fab.ports, spr.pstate := .i, spr.iSince := s.ts }

/-- The links sleep (R363): SLEEP_NOTICE on each, the LSA that says SLEEPING, then every link in use is taken down. -/
def sleepLinks (s : State) : State :=
  let notice (p : Port) : Port := if p.state = .up ∨ p.state = .lp then { p with state := .up, txFlits := satInc p.txFlits } else p
  let off (p : Port) : Port := if p.state = .up then { p with state := .sleep, replayBuf := [], txSeq := 0, rxSeq := 0, ackIn := 0xFFF } else p
  let s1 := sendLsa { s with fab.ports := tmap notice s.fab.ports, fab.sleeping := true }
  { s1 with fab.ports := tmap off s1.fab.ports }

/-- The domains off for Sprout's windows only: kept on while a window is open (R40). -/
def windowDoms (s : State) : List (Bool × Domain) := if s.spr.inWindow then [] else [(true, .spr), (false, .str)]

/-- The cores whose domain is on. -/
def coresOn (s : State) : List Nat := (List.range s.ncores).filter (fun c => (s.core c).on)

/-- Entry to T: the links sleep; CTL, NET, FLC and the cores that are on go into retention. -/
def enterT (s : State) : State :=
  let s1 := sleepLinks s
  let l := windowDoms s ++ [(true, Domain.ctl), (true, .flc), (true, .net)] ++ (coresOn s).map (fun c => (true, coreDom c))
  { l.foldl (fun t d => askOff t d.1 d.2) s1 with spr.pstate := .t }

/-- AUTO_I_ENTRY (R315, R317). -/
def autoI (s : State) : State :=
  if s.spr.pstate = .a ∧ s.spr.autoI ∧ !anyBusy s ∧ s.mem.queue = [] ∧ s.spr.idleSince.toNat + 20000 ≤ s.ts.toNat ∧ fits s .i ∧ !inSequence s
      ∧ 15 ≤ s.rennet.step ∧ !s.pwr.trip then enterI s else s

/-- AUTO_I_ENTRY. -/
def execAutoIEntry (now : W64) (s : State) : Host.Outcome State Fault Refusal := endsAt s now autoI

/-- AUTO_T_ENTRY (R315, R317). -/
def autoT (s : State) : State :=
  if s.spr.pstate = .i ∧ s.spr.autoT ∧ s.spr.iSince.toNat + s.spr.idleT.toNat * 1000000 ≤ s.ts.toNat ∧ fits s .t ∧ !anyBusy s ∧ !inSequence s then enterT s else s

/-- AUTO_T_ENTRY. -/
def execAutoTEntry (now : W64) (s : State) : Host.Outcome State Fault Refusal := endsAt s now autoT

/-! ### W, S and O, and falls of rungs (R268, R316, R326, R329) -/

/-- The pinned blocks in T1 of falling cores join the pre-warm sets of their rungs (R329). -/
def autoPre (s : State) (cs : List Nat) : State :=
  let found := s.mem.maps.flatMap (fun m => m.2.filterMap (fun b => match b.2.res with
    | .t1 c _ => if b.2.pin && cs.contains c then some (rungOf s c, ({ part := m.1, block := b.1, blocks := 1, dest := some c } : PreWarm)) else none
    | _ => none))
  found.foldl (fun t e => if (tget [] t.spr.preWarm e.1).contains e.2 then t
    else { t with spr.preWarm := tset t.spr.preWarm e.1 (tget [] t.spr.preWarm e.1 ++ [e.2]) }) s

/-- A copy in a domain that switches off begins to drain (R268): dirty sectors go home by a write-back; a KEEP or CADSET block of T4 moves to the T3 cache where that has room; any other copy is dropped, and the copy of a write-back goes when that has ended. -/
def drainCopy (s : State) (p b : Nat) : State :=
  let blk := s.block p b
  let gone : State := dropCopy (forgetBlock s p b) p b
  match blk.home with
  | .t4 _ _ => if (copyHint blk = 3 ∨ 0 < blk.cadset) ∧ blk.state = .clean ∧ (freeCache s p).isSome then toCache s p b else gone
  | .t3 _ =>
    match blk.state with
    | .dirty => askMem (s.setBlock p b { blk with state := .writeback, inWb := blk.dirty, rewr := 0, leaving := true }) p b blk.res true blk.dirty 0 6 .background
    | .writeback => s
    | .fetching =>
      if blk.dirty = 0 then gone
      else if s.mem.queue.any (fun q => q.part == p && q.block == b && q.kind == .flush) then s else startWriteback s p b 6 .background
    | _ => gone
  | _ => gone

/-- The copies in the places of a choice. -/
def copiesIn (s : State) (pick : Resident → Bool) : List (Nat × Nat) :=
  s.mem.maps.flatMap (fun m => (m.2.filter (fun b => pick b.2.res)).map (fun b => (m.1, b.1)))

/-- Whether a request fetches into the places of a choice. -/
def fetchesInto (pick : Resident → Bool) (q : PlaceReq) : Bool :=
  q.kind == .fetch && pick (match q.dest with | some c => .t1 c 0 | none => .t2 0)

/-- The drain of a choice of places (R268): fetches into them that have not begun are withdrawn, and every copy begins to leave. -/
def drainGo (s : State) (pick : Resident → Bool) : State :=
  let s1 := { s with mem.queue := s.mem.queue.filter (fun q => !fetchesInto pick q) }
  settleWaits ((copiesIn s1 pick).foldl (fun t e => drainCopy t e.1 e.2) s1)

/-- A place in a core's T1. -/
def inCores (cs : List Nat) : Resident → Bool
  | .t1 c _ => cs.contains c
  | _ => false
/-- A place in T1 or T2. -/
def inArray : Resident → Bool
  | .t1 _ _ | .t2 _ => true
  | _ => false

/-- The rungs above `n` that are UP or RISING begin to fall, the target is `n`, and the T1 copies of their cores begin to drain. -/
def beginFall (s : State) (n : Nat) : State :=
  let turn (m : Nat) (r : Rung) : Rung := if n < m ∧ r ≠ .down then .falling else r
  let cs := (List.range s.ncores).filter (fun c => decide (rungSize s n ≤ c))
  drainGo (autoPre { s with
    spr.l1 := turn 1 s.spr.l1, spr.l2 := turn 2 s.spr.l2, spr.l3 := turn 3 s.spr.l3
    spr.target := BitVec.ofNat 2 n, spr.falling := some (n + 1), spr.isoDone := false } cs) (inCores cs)

/-- The live runs of the instance end with ABORTED. -/
def endRuns (s : State) : State := (s.graphs.map (·.1)).foldl (fun t h => endRun t h stAborted .loaded) s

/-- Entry to W, S or O begins (R315 to R317): for S and O standing graphs stop and sessions end; live runs end with ABORTED; the drain starts. -/
def enterDeep (s : State) (to_ : PState) : State :=
  let s1 := if to_ = .w then s else (List.range 64).foldl (fun t p => if (t.part p).state = .absent then t else stopStanding t p) s
  let s2 := endRuns s1
  let s3 := if to_ = .w then s2 else (List.range 64).foldl (fun t p => if (t.part p).session = .none then t else endSession t p) s2
  drainGo { beginFall s3 0 with spr.draining := some to_ } inArray

/-- A core that switches off: held in reset with its reset values, but for the record of its graphs (R328). -/
def coreFalls (s : State) (c : Nat) : State := s.modCore c (fun k => { resetCore k with ctxs := k.ctxs, inReset := true })

/-- Every switchable domain. -/
def allDoms (s : State) : List Domain := [.rnt, .spr, .str, .ctl, .net, .flc] ++ (List.range s.ncores).map coreDom

/-- A domain's retention given up. -/
def noRet (s : State) (d : Domain) : State := s.setDom d { s.dom d with ret := false }

/-- PLL locks of domains that are off are lost (R662). -/
def pllsOff (s : State) : State :=
  let c := s.crp
  let k (v : Core) : Core := if v.on then v else { v with pllLock := false, pllLock2 := false }
  { s with
    crp := { c with pllIo := c.pllIo && (c.ctl.on || c.flc.on), pllNet0 := c.pllNet0 && c.net.on, pllNet1 := c.pllNet1 && c.net.on
                    pllAon := c.pllAon && (c.rnt.on || c.spr.on) }
    cores := tmap k s.cores }

/-- What S and O lose (R41, R316): all but the always-on island's blocks, the stored bytes and the Rind; partitions, sessions and graphs are as after an instance reset. -/
def sleepClear (s : State) : State :=
  let turn (p : Port) : Port := { phyReady := p.phyReady, state := if p.state = .off then .off else p.state }
  { chip := s.chip, ts := s.ts, pending := s.pending, freeNo := s.freeNo
    cores := tmap coreSlept s.cores
    cad := s.cad
    mem := memHeld s.mem
    press := pressHeld s.press true
    spr := { s.spr with source := 0, sram := [], owner := none, dataLine := 32, dataEnd := 32, tapLow := 4096, npkt := 0, inWindow := false
                        running := false, onOpen := false, windowDue := false, score := 0, lastStream := 0, history := [], preWarm := [], preQueue := [], heldBeats := [] }
    fab := { ports := tmap turn s.fab.ports }
    rennet := { consec := s.rennet.consec, total := s.rennet.total, nor := s.rennet.nor }
    otp := { cells := s.otp.cells, weak := s.otp.weak }
    rel := { s.rel with glogOwner := none, probe := none }
    pwr := s.pwr
    ports := s.ports
    crp := s.crp }

/-- The falling rungs are DOWN, each fall counted (R326). -/
def rungsDown (s : State) : State :=
  let down (r : Rung) : Rung := if r = .falling then .down else r
  { s with spr.l1 := down s.spr.l1, spr.l2 := down s.spr.l2, spr.l3 := down s.spr.l3, spr.falling := none, spr.isoDone := false
           spr.demotions := satAdd s.spr.demotions (b2n (s.spr.l1 == .falling) + b2n (s.spr.l2 == .falling) + b2n (s.spr.l3 == .falling)) }

/-- A switch-off whose last supply has fallen ends (R322, R326): the rungs are DOWN and the state is entered; a wake that came after isolation starts its restore, and a target raised meanwhile its rise. -/
def switchOffEnds (s : State) : State :=
  if s.spr.isoDone ∧ (allDoms s).all (fun d => (s.dom d).req || !(s.dom d).on) then
    let s1 := pllsOff (rungsDown s)
    match s.spr.draining with
    | none => climb s1
    | some to_ =>
      let s2 := { s1 with spr.pstate := to_, spr.draining := none, crp.pllTs := false, ports.offReady := to_ == .o }
      let s3 := if to_ = .w then s2 else sleepClear s2
      if s.spr.restoring.isSome then beginRestore { s3 with spr.restoring := none } to_ else s3
  else s

/-- DRAIN_COMPLETE (R268, R316, R326, R673): once no copy is left in the domains that switch off, isolation is asserted and they switch off; a copy still there drains further, and the sequence waits. -/
def drainComplete (s0 : State) : State :=
  let pick : Resident → Bool := match s0.spr.draining, s0.spr.falling with
    | some _, _ => inArray
    | none, some n => inCores ((List.range s0.ncores).filter (fun c => decide (rungSize s0 (n - 1) ≤ c)))
    | none, none => fun _ => false
  let s := if s0.spr.isoDone then s0 else drainGo s0 pick
  if s.spr.isoDone || copiesIn s pick != [] then s
  else match s.spr.draining, s.spr.falling with
  | some to_, _ =>
    let s1 := suspendStreams s
    let s2 := sleepLinks (if to_ = .w then s1 else rindFlush (pressStop s1))
    let s3 := { (List.range s.ncores).foldl coreFalls s2 with spr.isoDone := true }
    let keep := decide (to_ = .w)
    let doms := (if keep then windowDoms s else [(false, .rnt), (false, .spr), (false, .str)]) ++ [(keep, Domain.ctl), (keep, .flc), (false, .net)]
      ++ (List.range s.ncores).map (fun c => (false, coreDom c))
    switchOffEnds (doms.foldl (fun t d => askOff (if d.1 then t else noRet t d.2) d.1 d.2) s3)
  | none, some n =>
    let cs := (List.range s.ncores).filter (fun c => decide (rungSize s (n - 1) ≤ c))
    let s1 := { cs.foldl coreFalls s with spr.isoDone := true }
    switchOffEnds (cs.foldl (fun t c => askOff (noRet t (coreDom c)) false (coreDom c)) s1)
  | none, none => s

/-- DRAIN_COMPLETE. -/
def execDrainComplete (s : State) : Host.Outcome State Fault Refusal := ends s (drainComplete s)

/-- DEMOTE_IDLE (R326, R331): the highest rung falls when its cores have been idle long enough; the fall of L1 is entry to W. -/
def demoteIdle (s : State) (n : Nat) : State :=
  let since := (tget (0 : W64) s.spr.rungIdle n).toNat
  let awake := s.spr.pstate == .a || s.spr.pstate == .i || s.spr.pstate == .t
  if n = 0 ∨ !awake ∨ topRung s ≠ n ∨ !s.spr.autoDemote ∨ s.spr.demoteIdle = 0 ∨ s.spr.restoring.isSome ∨ s.spr.draining.isSome ∨ s.spr.falling.isSome then s
  else if isRising s ∨ topRung s < s.spr.target.toNat then restartIdle s
  else if since + s.spr.demoteIdle.toNat * 1000000 ≤ s.ts.toNat ∧ coresIdle s (extraCores s n) then
    (if n = 1 then (if anyStanding s then s else enterDeep s .w) else beginFall s (n - 1))
  else s

/-- DEMOTE_IDLE. -/
def execDemoteIdle (rung : Fin 4) (now : W64) (s : State) : Host.Outcome State Fault Refusal := endsAt s now (fun s => demoteIdle s rung)

/-- STANDALONE_DEMOTE (R332): a standing program of the image, and no session within 1 s of start-up. -/
def execStandaloneDemote (now : W64) (s : State) : Host.Outcome State Fault Refusal :=
  endsAt s now (fun s =>
    if s.spr.source = 2 ∧ !s.spr.everAttached ∧ 15 ≤ s.rennet.step ∧ s.spr.startedAt.toNat + 1000000000 ≤ s.ts.toNat ∧ !inSequence s ∧ s.spr.pstate = .a
    then enterDeep s .w else s)

/-! ### Supply acknowledgements (R673, R674) -/

/-- The bound on an acknowledgement in µs: from off, or leaving retention (R674). -/
def ackBound (ret : Bool) : Domain → Nat
  | .rnt => 40 | .spr | .str => 15 | .ctl | .flc => 30
  | .net => if ret then 90 else 390
  | .core _ => if ret then 90 else 590

/-- The PLLs of a domain lock as its clock starts (R662, R673). -/
def pllsOn (s : State) : Domain → State
  | .ctl | .flc => { s with crp.pllIo := true, crp.pllTs := true }
  | .net => { s with crp.pllNet0 := true, crp.pllNet1 := true }
  | .rnt | .spr => { s with crp.pllAon := true }
  | .str => s
  | .core c => s.modCore c (fun k => { k with pllLock := true, pllLock2 := true })

/-- A core whose rung is UP in A leaves reset as its supply comes; the others wait for hand-over, the restore or the rise. -/
def coreJoins (s : State) : Domain → State
  | .core c => if 14 ≤ s.rennet.step ∧ s.spr.pstate = .a ∧ rungState s (rungOf s c) = .up then releaseCore s c else s
  | _ => s

/-- POWER_DOMAIN_ACK: the supply has risen, its wait recorded and PD_LATE set beyond its bound; or it has fallen (R673, R674). -/
def powerDomainAck (s : State) (d : Domain) (level : Bool) : State :=
  let v := s.dom d
  if level then
    if !v.req ∨ (v.on ∧ !v.iso) then s
    else
      let us := (s.ts.toNat - v.reqTs.toNat) / 1000
      let late := decide (ackBound v.ret d * 1000 < s.ts.toNat - v.reqTs.toNat)
      let s1 := s.setDom d { v with on := true, iso := false, ret := false }
      let s2 := { s1 with crp.pdLast := BitVec.ofNat 16 (max s1.crp.pdLast.toNat (min us 65535))
                          crp.events := if late then raiseEv s1.crp.events 1 else s1.crp.events }
      preGo (coreJoins (pllsOn s2 d) d)
  else if v.on ∧ v.iso then switchOffEnds (pllsOff (s.setDom d { v with on := false }))
  else s

/-- POWER_DOMAIN_ACK. -/
def execPowerDomainAck (d : Domain) (level : Bool) (now : W64) (s : State) : Host.Outcome State Fault Refusal :=
  match d with
  | .core c => endsCore s c (powerDomainAck (s.advance now) d level)
  | _ => ends s (powerDomainAck (s.advance now) d level)

/-! ### Restores and rises (R317, R320, R321, R325, R328) -/

/-- A state or rung reached later than its fixed delay (R321): RUNG_LATE and its report, from Sprout. -/
def lateReport (s : State) (fixed : Nat) : State := if fixed < s.ts.toNat then report (sprEvent s 4) 0x060C (initId 9 0) 64 else s

/-- Every domain asked for is on and out of isolation. -/
def poweredUp (s : State) : Bool := (allDoms s).all (fun d => !(s.dom d).req || ((s.dom d).on && !(s.dom d).iso))

/-- Cores leave reset, and their graphs are written again from their images (R328). -/
def coresRise (s : State) (cs : List Nat) : State :=
  let s1 := cs.foldl releaseCore s
  ((cs.flatMap (fun c => graphsOn s1 c)).dedup).foldl rereadGraph s1

/-- The links restored: those in electrical idle at once, those in SLEEP by bring-up (R362, R363). -/
def linksUp (s : State) : State :=
  (List.range 6).foldl (fun t f => match (t.port f).state with
    | .lp => t.modPort f (fun p => { p with state := .up })
    | .sleep => bringUp t f
    | _ => t) { s with fab.sleeping := false }

/-- What a restore brings back, by the state it came from. -/
def restored (s : State) (src : PState) : State :=
  match src with
  | .w => coresRise { s with spr.l1 := .up } [0]
  | .s =>
    let s1 := { applyConfig { s with spr.l1 := .up } with rennet.step := 15, rennet.wake := false, spr.startedAt := s.ts, spr.everAttached := false }
    coresRise (applyStanding (pressReady (makeConfigured (loadSets s1)))) [0]
  | _ => s

/-- STATE_REACHED (R320, R321): state A is declared at its fixed delay or, later, when the last step completes; held host accesses complete. From T and W every core starts at OP0 (R607). -/
def stateReached (s : State) (complete_ : Bool) : State :=
  match s.spr.restoring with
  | none => s
  | some src =>
    let fixed := s.spr.wakeTs.toNat + restoreDelay src
    if !complete_ ∨ s.spr.isoDone ∨ !poweredUp s ∨ s.ts.toNat < fixed ∨ (src = .s ∧ s.rennet.step ≠ 14) then s
    else
      let s1 := { lateReport s fixed with spr.pstate := .a, spr.restoring := none, spr.idleSince := s.ts
                                          cores := if src = .t ∨ src = .w then tmap (fun k => { k with op := 0 }) s.cores else s.cores }
      let s1' := match src with
        | .i => takeHeldBeats s1
        | .t | .w | .s => suspendStreams s1
        | _ => s1
      let s2 := serveHeld (restartIdle (linksUp (restored s1' src)))
      match s2.spr.askPower with
      | some st => enterDeep { s2 with spr.askPower := none } st
      | none => climb s2

/-- STATE_REACHED. -/
def execStateReached (complete : Bool) (now : W64) (s : State) : Host.Outcome State Fault Refusal := endsAt s now (fun s => stateReached s complete)

/-- A rising core starts at the rail's point, or at its preferred point if that is lower (R325, R607). -/
def startPoint (s : State) (c : Nat) : State := s.modCore c (fun k => { k with op := if k.pref.toNat < s.pwr.railOp.toNat then k.pref else s.pwr.railOp })

/-- RUNG_UP (R325, R331): the rising rung is UP at its fixed delay, or when its cores are; a critical trip stops the rise. -/
def rungUp (s : State) (complete_ : Bool) : State :=
  let n := if s.spr.l2 = .rising then 2 else 3
  let cs := extraCores s n
  let fixed := s.spr.riseAt.toNat + (if n = 2 then 4000000 else 25000000)
  if s.spr.pstate ≠ .a ∨ s.spr.restoring.isSome ∨ rungState s n ≠ .rising ∨ s.pwr.trip ∨ !complete_ ∨ s.ts.toNat < fixed
      ∨ !cs.all (fun c => (s.core c).on && !(s.core c).iso) then s
  else climb (restartIdle (refreshPoints (cs.foldl startPoint (coresRise (setRung (lateReport s fixed) n .up) cs))))

/-- RUNG_UP. -/
def execRungUp (complete : Bool) (now : W64) (s : State) : Host.Outcome State Fault Refusal := endsAt s now (fun s => rungUp s complete)

/-- PRE_RELEASE_RESTORE (R317). -/
def execPreReleaseRestore (now : W64) (s : State) : Host.Outcome State Fault Refusal :=
  endsAt s now (fun s =>
    if (s.spr.pstate = .i ∨ s.spr.pstate = .t) ∧ s.spr.restoring.isNone ∧ s.spr.draining.isNone ∧ !fits s s.spr.pstate then beginRestore s s.spr.pstate else s)

/-- AON_TIMER_EXPIRE (R318, R335): the timer is off again. -/
def execAonTimerExpire (now : W64) (s : State) : Host.Outcome State Fault Refusal :=
  endsAt s now (fun s =>
    if s.spr.aonTimer ≠ 0 ∧ s.spr.aonTs.toNat + s.spr.aonTimer.toNat * 1000000 ≤ s.ts.toNat then latchWake { s with spr.aonTimer := 0 } 0x20 5 else s)

/-! ### Commands (R166, R324, R329, R334, R414) -/

/-- PROMOTE (R166, R324): the score is read, and a promotion requested when it reaches the threshold; a NaN never promotes. -/
def promoteBody (s : State) (c x : Nat) : State :=
  let k := s.ctx c x
  let a := pbf k.task 8 6
  if !seqStarts k .promote then s
  else if anyBlock s k.part a 4 .unmapped then failTask (memEvent s 0) c x stAborted
  else if anyBlock s k.part a 4 .poisoned then failTask s c x stIntegrity
  else
    let score : W32 := BitVec.ofNat 32 (leNat (devRead s k.part a 4))
    let limit : W32 := BitVec.ofNat 32 (pbf k.task 4 4)
    let s1 := if k.state = .ready then beginTask s c x else s
    let s2 := if !isNan32 score && !f32lt score limit then promote s1 (pbf k.task 0 1) (some k.part) else s1
    taskDone s2 c x

/-- PROMOTE. -/
def execPromoteTask (c : CoreId) (x : CtxId) (s : State) : Host.Outcome State Fault Refusal := endsClocked s c (promoteBody s c x)

/-- The state byte of the power state (R398). -/
def powerByte (s : State) : Byte := BitVec.ofNat 8 (0x60 + pstateCode s.spr.pstate)

/-- RUNG (R324, R326, R331, R414). -/
def rungBody (p : Nat) (s : State) (k : Packet) : State :=
  let r := par k 0 1
  if 3 < r then refuseRange s p k 0
  else if topRung s ≤ r then replyDone (promote s r (some p)) p k
  else if isRising s then replyDone s p k
  else if inSequence s ∨ !coresIdle s ((List.range s.ncores).filter (fun c => decide (rungSize s r ≤ c))) ∨ (r = 0 ∧ anyStanding s) then
    refuseState s p k noObj (powerByte s)
  else
    let s1 := replyDone s p k
    if r = 0 then enterDeep s1 .w else beginFall s1 r

/-- RUNG. -/
def execRung (p : PartId) (s : State) : Host.Outcome State Fault Refusal := ends s (ringCmdR s p 0x0705 2 1 1 [] (rungBody p))

/-- Entry to W, S or O asked in state A: it begins, ending a rise, a fall or an entry under way; once an entry has been isolated its switch-off finishes first (R322), and the state asked for is entered on the return to A. -/
def askDeep (s : State) (to_ : PState) : State :=
  if s.spr.draining.isSome ∧ s.spr.isoDone then { s with spr.askPower := some to_ } else enterDeep { s with spr.askPower := none } to_

/-- POWER_STATE (R315, R334, R414): answered before the entry begins; S and O are never refused, W only for a standing graph, I and T while R315 or R317 postpones them or a power sequence is under way. -/
def powerBody (p : Nat) (s : State) (k : Packet) : State :=
  let v := par k 0 1
  let shallow (st : PState) : Bool := !anyBusy s && s.mem.queue == [] && fits s st && !inSequence s
  let ok := match v with | 1 => shallow .i | 2 => shallow .t | 3 => !anyStanding s | _ => true
  if v = 0 ∨ 5 < v then refuseRange s p k 0
  else if !ok then refuseState s p k noObj (powerByte s)
  else
    let s1 := replyDone s p k
    match v with
    | 1 => enterI s1
    | 2 => enterT s1
    | 3 => askDeep s1 .w
    | 4 => askDeep s1 .s
    | _ => askDeep s1 .o

/-- POWER_STATE. -/
def execPowerState (p : PartId) (s : State) : Host.Outcome State Fault Refusal := ends s (ringCmdR s p 0x0706 2 1 1 [] (powerBody p))

/-- An entry of a pre-warm list. -/
def preEntry (p : Nat) (l : List Byte) (i : Nat) : PreWarm :=
  let d := field l (16 * i + 6) 1
  { part := p, block := field l (16 * i) 6 / blockBytes, blocks := field l (16 * i + 8) 4, dest := if d = 0xFF then none else some d }

/-- The first byte of a pre-warm list that is reserved and not zero. -/
def preFormat (l : List Byte) (n : Nat) : Option Nat :=
  (List.range n).findSome? (fun i => if field l (16 * i + 7) 1 ≠ 0 then some (16 * i + 7) else if field l (16 * i + 12) 4 ≠ 0 then some (16 * i + 12) else none)

/-- The first entry of a pre-warm list outside the partition or its rung: whole mapped blocks, and T1 of a core that the rung names and the partition holds. -/
def preRange (s : State) (p rung : Nat) (l : List Byte) (n : Nat) : Option Nat :=
  (List.range n).findSome? (fun i =>
    let e := preEntry p l i
    let core := match e.dest with | some c => decide (c < rungSize s rung) && (s.part p).cores.getLsbD c | none => true
    if field l (16 * i) 6 % blockBytes ≠ 0 ∨ e.blocks = 0 ∨ 2 ^ 32 < e.block + e.blocks
        ∨ ((s.map p).filter (fun b => decide (e.block ≤ b.1 ∧ b.1 < e.block + e.blocks) && b.2.state != .unmapped)).length < e.blocks then some (16 * i)
    else if !core then some (16 * i + 6) else none)

/-- PRE_WARM_SET (R329, R334, R414): the sender's entries of the rung are replaced, within 64 in all. -/
def preWarmBody (p : Nat) (s : State) (k : Packet) : State :=
  let r := par k 0 1
  let n := par k 1 1
  let others := (tget [] s.spr.preWarm r).filter (fun e => e.part != p)
  checked s p k [(!addrOk k 8, 8)] [(decide (r < 1 ∨ 3 < r), 0), (decide (64 < n ∨ 64 < others.length + n), 1)]
    (withList s p k (16 * n) (fun l =>
      match preFormat l n, preRange s p r l n with
      | some off, _ => reply s p k stFormat (detObj off) noObj 0
      | none, some off => reply s p k stRange (detObj off) noObj 0
      | none, none => replyDone { s with spr.preWarm := tset s.spr.preWarm r (others ++ (List.range n).map (preEntry p l)) } p k))

/-- PRE_WARM_SET. -/
def execPreWarmSet (p : PartId) (s : State) : Host.Outcome State Fault Refusal := ends s (ringCmdR s p 0x0704 2 16 16 [(2, 6)] (preWarmBody p))

/-- WAKE_SET (R334, R414): the enables, the always-on timer and the wake hold. -/
def wakeSetBody (p : Nat) (s : State) (k : Packet) : State :=
  checked s p k [(decide (128 ≤ par k 0 1), 0)] []
    (replyDone { s with spr.wakeEn := BitVec.ofNat 7 (par k 0 1), spr.aonTimer := BitVec.ofNat 32 (par k 4 4), spr.aonTs := s.ts
                        spr.wakeHold := BitVec.ofNat 16 (par k 8 2) } p k)

/-- WAKE_SET. -/
def execWakeSet (p : PartId) (s : State) : Host.Outcome State Fault Refusal := ends s (ringCmdR s p 0x0707 2 10 10 [(1, 3)] (wakeSetBody p))

end Sys2Proof.Machine
end

