-- ==== Sys2Proof/Machine/Power.lean ====
section
/-! DEFINITION. Phases and preferences, the regulator, estimate and calibration, the cap, current, droop and thermal limits, the critical trip, and loss of PLL lock (R601 to R622, R662 to R665). -/

namespace Sys2Proof.Machine

/-- A flag of PWR_EVENTS raised: 0 TRIP, 1 THROTTLE, 2 DROOP, 3 NO_ACK, 4 CAP_HIT, 5 CURRENT, 6 PMBUS_ERR (R623). -/
def pwrEvent (s : State) (bit : Nat) : State := { s with pwr.events := raiseEv s.pwr.events bit }

/-- Some cores changed. -/
def mapCores (s : State) (cs : List Nat) (f : Core → Core) : State := cs.foldl (fun t c => t.modCore c f) s

/-! ### Preferences (R605 to R607, R416) -/

/-- A partition's preferred point for a phase (R623). -/
def prefOf (s : State) (p phase : Nat) : Nat := nbits (s.part p).prefs.toNat (4 * phase + 2) (4 * phase)

/-- PHASE_PREFERENCE (R416, R606): the expert OP names the point directly; without it the AIM maps to one. -/
def phasePreferenceBody (p : Nat) (s : State) (k : Packet) : State :=
  let phase := par k 0 1
  let aim := par k 1 1
  let op := if pktExpert k then par k 2 1 else aimPoint phase aim
  checked s p k [(decide (3 < phase), 0), (decide (2 < aim), 1)] [(decide (7 < op), 2)]
    (replyDone (s.modPart p (fun q => { q with
      prefs := (q.prefs &&& ~~~BitVec.ofNat 32 (7 * 2 ^ (4 * phase))) ||| BitVec.ofNat 32 (op * 2 ^ (4 * phase)) })) p k)

/-- PHASE_PREFERENCE. -/
def execPhasePreference (p : PartId) (s : State) : Host.Outcome State Fault Refusal := ends s (ringCmdR s p 0x0901 4 2 3 [] (phasePreferenceBody p))

/-- The phase of a core over the last 100 µs (R605): the first row that holds. -/
def phaseOf (act : CoreActivity) : Nat :=
  if act.cadence then 3
  else if act.tileUnits ≠ 0 ∧ act.tileUnits ≤ 4 * act.convUnits then 0
  else if act.matrixBusy * 100 < 30 * act.cycles ∧ act.cycles ≤ 2 * act.portReadBeats then 2
  else 1

/-- PHASE_CLASSIFY (R605, R607): the phase, and the highest preference among the partitions that had tasks there; a core with none keeps its point. -/
def phaseClassify (s : State) (c : Nat) (act : CoreActivity) : State :=
  if !(s.core c).on then s
  else
    let phase := phaseOf act
    let want := (act.parts.map (fun p => prefOf s p.val phase)).foldl max 0
    refreshPoints (s.modCore c (fun k => { k with phase := BitVec.ofNat 2 phase, pref := if act.parts = [] then k.pref else BitVec.ofNat 3 want }))

/-- PHASE_CLASSIFY. -/
def execPhaseClassify (c : CoreId) (act : CoreActivity) (s : State) : Host.Outcome State Fault Refusal := endsClocked s c (phaseClassify s c act)

/-! ### The regulator (R608 to R610) -/

/-- The fall-back body bias and memory assist of every core. -/
def setBias (s : State) (bias assist : BitVec 2) : State := { s with cores := tmap (fun k => { k with bias := bias, assist := assist }) s.cores }

/-- REGULATOR_POLL (R610): a reading within 12.5 mV of the target without a fault acknowledges the request and ends the fall-back; a failed poll acknowledges nothing. -/
def regulatorPoll (s : State) (reading : Option RegReading) : State :=
  match reading with
  | none => thrUpdate s
  | some r =>
    let s1 := { s with pwr.railMv := BitVec.ofNat 16 r.mv }
    match s.pwr.pending with
    | some (q, _) =>
      if !r.fault ∧ 2 * (r.mv - pointMv q.toNat) ≤ 25 ∧ 2 * (pointMv q.toNat - r.mv) ≤ 25 then
        refreshPoints (setBias { s1 with pwr.railOp := q, pwr.pending := none, pwr.fallback := false } 0 0)
      else thrUpdate s1
    | none => thrUpdate s1

/-- REGULATOR_POLL. -/
def execRegulatorPoll (reading : Option RegReading) (now : W64) (s : State) : Host.Outcome State Fault Refusal :=
  endsAt s now (fun s => regulatorPoll s reading)

/-- REGULATOR_ACK_TIMEOUT (R610): no poll has acknowledged within ACK_WAIT, and the fall-back applies with the settings of the requested point. -/
def ackTimesOut (s : State) : State :=
  match s.pwr.pending with
  | some (q, t) =>
    if t.toNat + s.pwr.ackWait.toNat * 1000 ≤ s.ts.toNat then
      refreshPoints (setBias (pwrEvent { s with pwr.fallback := true, pwr.pending := none } 3) (fallBias q.toNat) (fallAssist q.toNat))
    else s
  | none => s

/-- REGULATOR_ACK_TIMEOUT. -/
def execRegulatorAckTimeout (now : W64) (s : State) : Host.Outcome State Fault Refusal := endsAt s now ackTimesOut

/-- PMBUS_STUCK (R658): the transaction is abandoned and counts as a failed poll, which acknowledges nothing. -/
def execPmbusStuck (now : W64) (s : State) : Host.Outcome State Fault Refusal := endsAt s now (fun s => regulatorPoll s none)

/-- In fall-back the request is sent again (R610): for the highest point that a powered core wants. -/
def resendRail (s : State) : State :=
  let wants := (poweredCores s).map (fun c => wantPoint (s.core c))
  if s.pwr.fallback ∧ s.pwr.pending.isNone ∧ wants ≠ [] ∧ s.chip.ulinear16 then
    { s with pwr.pending := some (BitVec.ofNat 3 (wants.foldl max 0), s.ts) }
  else s

/-- GAIN after a calibration (R612): one eighth of the way to measured ÷ raw, between 0.5 and 2.0, in 1/4,096. -/
def newGain (gain : W16) (mw raw : Nat) : W16 :=
  if raw = 0 then gain
  else
    let g : Int := gain.toNat + (((mw * 4096 / raw : Nat) : Int) - gain.toNat) / 8
    BitVec.ofNat 16 (min 0x2000 (max 0x800 g.toNat))

/-- Every 10 ms, in ns (R612). -/
def calPeriod : Nat := 10000000

/-- CALIBRATION (R612), 10 ms after the last: GAIN moves towards the measured power over the mean raw estimate; after three failures in a row PMBUS_ERR is set and GAIN held. -/
def calibrate (s : State) (reading : Option RegReading) : State :=
  if s.ts.toNat < s.pwr.calAt.toNat + calPeriod then s else
  let mean := if s.pwr.rawN = 0 then 0 else s.pwr.rawSum / s.pwr.rawN
  let s1 := { s with pwr.rawSum := 0, pwr.rawN := 0, pwr.calAt := s.ts }
  resendRail (match reading with
    | some r => { s1 with pwr.meas := BitVec.ofNat 32 r.mw, pwr.railMv := BitVec.ofNat 16 r.mv, pwr.failCal := 0, pwr.gain := newGain s.pwr.gain r.mw mean }
    | none =>
      let n := s.pwr.failCal + 1
      if 3 ≤ n then pwrEvent { s1 with pwr.failCal := n } 6 else { s1 with pwr.failCal := n })

/-- CALIBRATION. -/
def execCalibration (reading : Option RegReading) (s : State) : Host.Outcome State Fault Refusal := ends s (calibrate s reading)

/-! ### The estimate and the current limit (R611, R614) -/

/-- The raw power of the powered cores at a rail voltage in mW, with the islands' 1.0 W. -/
def rawPower (s : State) (mv : Nat) : Nat :=
  ((poweredCores s).map (fun c =>
    let a : CoreActivity := s.pwr.act.getD c { cadence := false, tileUnits := 0, convUnits := 0, cycles := 0, matrixBusy := 0, vectorLanes := 0, sramAccesses := 0, moverBytes := 0, portReadBeats := 0, portBeats := 0, parts := [] }
    Config.activePower 0 a.matrixBusy mv + Config.activePower 1 a.vectorLanes mv + Config.activePower 2 a.sramAccesses mv
      + Config.activePower 3 a.moverBytes mv + Config.activePower 4 a.portBeats mv + Config.leakage mv (s.core c).tj)).foldl (· + ·) 1000

/-- The instance estimate: the cores' share multiplied by GAIN, and the islands (R611). -/
def estimate (s : State) (mv : Nat) : Nat := (rawPower s mv - 1000) * s.pwr.gain.toNat / 4096 + 1000

/-- STRETCH follows its two causes (R614, R615). -/
def setSkip (s : State) (cs : List Nat) (on : Bool) : State := mapCores s cs (fun k => { k with skip := on, stretch := on || k.droop })

/-- The current limit (R614): cores without cadence-bound work skip, after 10 µs every core, until the current falls below 95 %. -/
def limitCurrent (s : State) (est mv : Nat) : State :=
  let limit := s.pwr.iccMax.toNat * mv
  if limit = 0 then setSkip { s with pwr.overAt := none } (poweredCores s) false
  else if limit < est * 10 then
    let since := s.pwr.overAt.getD s.ts
    let cs := if since.toNat + 10000 ≤ s.ts.toNat then poweredCores s else (poweredCores s).filter (fun c => !coreCadence s c)
    setSkip (pwrEvent { s with pwr.overAt := some since } 5) cs true
  else if est * 1000 < limit * 95 then setSkip { s with pwr.overAt := none } (poweredCores s) false
  else s

/-- POWER_ESTIMATE (R611, R614). -/
def powerEstimate (s : State) (act : List CoreActivity) : State :=
  let s1 := { s with pwr.act := act }
  let mv := pointMv s.pwr.railOp.toNat
  let raw := rawPower s1 mv
  let est := estimate s1 mv
  thrUpdate (limitCurrent { s1 with pwr.est := BitVec.ofNat 32 (min est (2 ^ 32 - 1)), pwr.rawSum := s.pwr.rawSum + raw, pwr.rawN := s.pwr.rawN + 1 } est mv)

/-- POWER_ESTIMATE. -/
def execPowerEstimate (act : List CoreActivity) (now : W64) (s : State) : Host.Outcome State Fault Refusal := endsAt s now (fun s => powerEstimate s act)

/-! ### The cap loop (R613) -/

/-- One lowering: the cores without cadence-bound work at the highest point such a core holds; cadence-bound ones only when no other core stands above OP0. -/
def capLower (s : State) : State :=
  let free := (poweredCores s).filter (fun c => !coreCadence s c)
  let top := (free.map (fun c => (s.core c).op.toNat)).foldl max 0
  let cs := if top = 0 then (poweredCores s).filter (fun c => coreCadence s c) else free.filter (fun c => (s.core c).op.toNat == top)
  mapCores s cs (fun k => { k with capOp := k.op - (if k.op = 0 then 0 else 1) })

/-- One step given back: cadence-bound cores first, then the lowest cores. -/
def capRaise (s : State) : State :=
  let held := (poweredCores s).filter (fun c => decide ((s.core c).capOp.toNat < (s.core c).pref.toNat))
  let cad := held.filter (fun c => coreCadence s c)
  let pool := if cad = [] then held else cad
  let low := (pool.map (fun c => (s.core c).capOp.toNat)).foldl min 7
  mapCores s (pool.filter (fun c => (s.core c).capOp.toNat == low)) (fun k => { k with capOp := k.capOp + 1 })

/-- Every 100 µs, in ns (R613). -/
def capPeriod : Nat := 100000

/-- CAP_LOOP (R613, R619 step 5, R663), 100 µs after the last: cores climb one point after a trip; the cap lowers points, counting a lower voltage request as reached, or gives them back; without a cap its limit is off. -/
def capLoop (s : State) : State :=
  if s.pwr.trip ∨ s.ts.toNat < s.pwr.capAt.toNat + capPeriod then s
  else
    let s1 := { s with pwr.capAt := s.ts, cores := tmap (fun k => { k with climbOp := if k.climbOp = 7 then 7 else k.climbOp + 1 }) s.cores }
    let cap := s.pwr.cap.toNat
    let est := estimate s1 (pointMv (railTop s1))
    refreshPoints (
      if cap = 0 then { s1 with cores := tmap (fun k => { k with capOp := 7 }) s1.cores, pwr.underCap := 0 }
      else if cap < est then capLower (pwrEvent { s1 with pwr.underCap := 0 } 4)
      else if estimate s1 (pointMv s1.pwr.railOp.toNat) * 100 < cap * 95 then
        if 2 ≤ s.pwr.underCap then capRaise { s1 with pwr.underCap := 0 } else { s1 with pwr.underCap := s.pwr.underCap + 1 }
      else { s1 with pwr.underCap := 0 })

/-- CAP_LOOP. -/
def execCapLoop (now : W64) (s : State) : Host.Outcome State Fault Refusal := endsAt s now capLoop

/-- POWER_CAP (R416, R613): 0 is none. -/
def powerCapBody (p : Nat) (s : State) (k : Packet) : State :=
  let cap := par k 0 4
  checked s p k [] [(decide (cap ≠ 0 ∧ cap < s.ncores * 5530 + 1500), 0)] (replyDone { s with pwr.cap := BitVec.ofNat 32 cap } p k)

/-- POWER_CAP. -/
def execPowerCap (p : PartId) (s : State) : Host.Outcome State Fault Refusal := ends s (ringCmdR s p 0x0902 4 4 4 [] (powerCapBody p))

/-! ### Droop (R615) -/

/-- DROOP: the core's period is doubled. -/
def execDroop (c : CoreId) (now : W64) (s : State) : Host.Outcome State Fault Refusal :=
  let s1 := s.advance now
  endsClocked s c (if (s1.core c).on then thrUpdate (pwrEvent (s1.modCore c (fun k => { k with droop := true, stretch := true })) 2) else s1)

/-- DROOP_RECOVER: the period returns; a core that skips cycles still shows STRETCH (R622). -/
def execDroopRecover (c : CoreId) (now : W64) (s : State) : Host.Outcome State Fault Refusal :=
  endsClocked s c (thrUpdate ((s.advance now).modCore c (fun k => { k with droop := false, stretch := k.skip })))

/-! ### Thermal limits (R618, R619) -/

/-- A threshold in °C in the sensors' unit. -/
def degrees (n : Nat) : Int := 8 * n
/-- The last reading of a core's sensor. -/
def coreHeat (s : State) (c : Nat) : Int := (tget (0 : W16) s.pwr.coreTemp c).toInt
/-- The last reading of an island's sensor. -/
def islandHeat (s : State) (n : Nat) : Int := (tget (0 : W16) s.pwr.islTemp n).toInt
/-- Whether an island's sensor reads THROTTLE or above. -/
def islandHot (s : State) : Bool := (List.range 7).any (fun n => decide (degrees s.pwr.throttle.toNat ≤ islandHeat s n))
/-- Whether every sensor reads below THROTTLE − 10 °C. -/
def allCool (s : State) : Bool :=
  let limit := degrees (s.pwr.throttle.toNat - 10)
  (List.range s.ncores).all (fun c => decide (coreHeat s c < limit)) && (List.range 7).all (fun n => decide (islandHeat s n < limit))

/-- A sensor's reading kept; in a trip, since when every sensor is cool. -/
def noteHeat (s : State) (x : Sensor) (temp : W16) : State :=
  let s1 := match x with
    | .core c => { s.modCore c (fun k => { k with tj := temp }) with pwr.coreTemp := tset s.pwr.coreTemp c temp }
    | .island n => { s with pwr.islTemp := tset s.pwr.islTemp n temp }
  { s1 with pwr.coolTs := if !s1.pwr.trip ∨ !allCool s1 then none else some (s1.pwr.coolTs.getD s1.ts) }

/-- THERMAL_SAMPLE (R618): a sensor of the configuration is read, in a trip too. -/
def execThermalSample (sensor : Sensor) (temp : W16) (now : W64) (s : State) : Host.Outcome State Fault Refusal :=
  match sensor with
  | .core c => endsCore s c (noteHeat (s.advance now) sensor temp)
  | .island _ => ends s (noteHeat (s.advance now) sensor temp)

/-- THROTTLE_STEP (R618): down one point each 1 ms while the core or an island is hot, up one each 10 ms once cool; a cadence-bound core has 5 °C more. -/
def throttleStep (s : State) (c : Nat) : State :=
  let k := s.core c
  let t := s.pwr.throttle.toNat
  let age := s.ts.toNat - (tget (0 : W64) s.pwr.lastStep c).toNat
  let hot := decide (degrees (if coreCadence s c then t + 5 else t) ≤ coreHeat s c) || islandHot s
  let stepped (op : BitVec 3) (u : State) : State := refreshPoints { u.modCore c (fun k => { k with thermOp := op }) with pwr.lastStep := tset u.pwr.lastStep c u.ts }
  if !k.on then s
  else if hot ∧ 1000000 ≤ age then
    let low := min k.thermOp.toNat k.op.toNat
    stepped (BitVec.ofNat 3 (low - 1)) (pwrEvent s 1)
  else if !hot ∧ coreHeat s c < degrees (t - 5) ∧ k.thermOp ≠ 7 ∧ 10000000 ≤ age then stepped (k.thermOp + 1) s
  else s

/-- THROTTLE_STEP. -/
def execThrottleStep (c : CoreId) (now : W64) (s : State) : Host.Outcome State Fault Refusal := endsClocked s c (throttleStep (s.advance now) c)

/-- THERMAL (R416, R618). -/
def thermalBody (p : Nat) (s : State) (k : Packet) : State :=
  let t := par k 0 1
  checked s p k [] [(decide (t < 85 ∨ 115 < t), 0)] (replyDone { s with pwr.throttle := BitVec.ofNat 7 t } p k)

/-- THERMAL. -/
def execThermal (p : PartId) (s : State) : Host.Outcome State Fault Refusal := ends s (ringCmdR s p 0x0903 4 1 1 [] (thermalBody p))

/-- The initiator ID that a trip's report names: the core of the sensor, or the array controller for an island. -/
def sensorUnit : Sensor → W16
  | .core c => initId 3 c
  | .island _ => initId 2 0

/-- THERMAL_TRIP (R619): latched once; the outputs rise, the report is made, and a third trip within 600 s holds the clocks. -/
def thermalTrip (s : State) (x : Sensor) : State :=
  if s.pwr.trip then s
  else
    let recent := s.ts :: s.pwr.tripTs.filter (fun t => decide (s.ts.toNat < t.toNat + 600000000000))
    let third := decide (3 ≤ recent.length)
    let s1 := pwrEvent (noteHeat s x 1000) 0
    let s2 := { s1 with
      pwr.trip := true, pwr.coolTs := none, pwr.tripTs := recent, pwr.trips := satInc s.pwr.trips, pwr.tripHold := third
      ports.tripO := true, ports.faultO := s.ports.faultO || third }
    report s2 0x0401 (sensorUnit x) 64

/-- THERMAL_TRIP. -/
def execThermalTrip (sensor : Sensor) (now : W64) (s : State) : Host.Outcome State Fault Refusal :=
  match sensor with
  | .core c => endsCore s c (thermalTrip (s.advance now) sensor)
  | .island _ => endsAt s now (fun s => thermalTrip s sensor)

/-- What waited for the clocks of the ports leaves them. -/
def portsRestart (s : State) : State :=
  let s1 := (List.range 6).foldl pumpPort s
  pumpHost (pumpInt ((List.range s.ncores).foldl pumpMem (takeHeldResponses s1)))

/-- TRIP_RESTART (R619 steps 4 and 5): 10 ms after every sensor is cool the clocks restart with every core at OP0. -/
def tripRestart (s : State) : State :=
  match s.pwr.coolTs with
  | some t =>
    if s.pwr.trip ∧ !s.pwr.tripHold ∧ t.toNat + 10000000 ≤ s.ts.toNat then
      let s1 := { s with pwr.trip := false, pwr.coolTs := none, ports.tripO := false, cores := tmap (fun k => { k with op := 0, climbOp := 0 }) s.cores }
      serveHeld (portsRestart (refreshPoints s1))
    else s
  | none => s

/-- TRIP_RESTART. -/
def execTripRestart (now : W64) (s : State) : Host.Outcome State Fault Refusal := endsAt s now tripRestart

/-! ### PLLs (R662 to R665) -/

/-- The number of a PLL's bit in CRP_PLL; every core PLL has the same (R676). -/
def pllNumber : Pll → Nat
  | .ts => 0 | .aon => 1 | .io => 2
  | .net second => if second then 4 else 3
  | .core _ _ => 5

/-- A PLL's lock changed. -/
def setLock (s : State) (x : Pll) (on : Bool) : State :=
  match x with
  | .ts => { s with crp.pllTs := on }
  | .aon => { s with crp.pllAon := on }
  | .io => { s with crp.pllIo := on }
  | .net second => if second then { s with crp.pllNet1 := on } else { s with crp.pllNet0 := on }
  | .core c second => s.modCore c (fun k => if second then { k with pllLock2 := on } else { k with pllLock := on })

/-- Whether a PLL is locked. -/
def isLocked (s : State) : Pll → Bool
  | .ts => s.crp.pllTs | .aon => s.crp.pllAon | .io => s.crp.pllIo
  | .net second => if second then s.crp.pllNet1 else s.crp.pllNet0
  | .core c second => if second then (s.core c).pllLock2 else (s.core c).pllLock

/-- The report of a lost lock: DETAIL [7:0] 0xC0 and [15:8] the PLL's number. -/
def pllReport (s : State) (x : Pll) : State :=
  let unit := match x with | .core c _ => initId 3 c | _ => initId 2 0
  sendReport { s with crp.events := raiseEv s.crp.events 0 } { mkReport s 0x0605 unit 64 with detail := BitVec.ofNat 32 (0xC0 + pllNumber x % 256 * 256) }

/-- PLL_UNLOCK (R665): by the PLL that lost lock; one that was not locked changes nothing. -/
def pllUnlock (s : State) (x : Pll) : State :=
  if !isLocked s x then s
  else
    let s1 := pllReport (setLock s x false) x
    match x with
    | .ts => { s1 with cad.synced := false }
    | .aon | .io => rennetReset s1 7
    | .net _ => if s1.crp.pllNet0 || s1.crp.pllNet1 then s1 else rennetReset s1 7
    | .core c _ =>
      let k := s1.core c
      if k.pllLock || k.pllLock2 then refreshPoints s1
      else (coreReset (fenceCore s1 c) c).modCore c (fun k => { k with inReset := true })

/-- PLL_UNLOCK. -/
def execPllUnlock (pll : Pll) (s : State) : Host.Outcome State Fault Refusal :=
  match pll with
  | .core c _ => endsCore s c (pllUnlock s pll)
  | _ => ends s (pllUnlock s pll)

/-- PLL_RELOCK (R665): lock is back; the timestamp counts by 1 ns again, and a core returns to the point it may hold. -/
def pllRelock (s : State) (x : Pll) : State :=
  if isLocked s x then s
  else match x with
  | .core c _ => if (s.core c).on then refreshPoints (setLock s x true) else s
  | .net _ => if s.crp.net.on then setLock s x true else s
  | _ => setLock s x true

/-- PLL_RELOCK. -/
def execPllRelock (pll : Pll) (s : State) : Host.Outcome State Fault Refusal :=
  match pll with
  | .core c _ => endsCore s c (pllRelock s pll)
  | _ => ends s (pllRelock s pll)

/-- The next target of a core's spare PLL (R663): the requested point while a raise awaits acknowledgement, else the next lower point. -/
def spareTarget (s : State) (k : Core) : BitVec 3 :=
  let want := BitVec.ofNat 3 (wantPoint k)
  match s.pwr.pending with
  | some _ => if k.op.toNat < want.toNat then want else k.op - (if k.op = 0 then 0 else 1)
  | none => k.op - (if k.op = 0 then 0 else 1)

/-- SPARE_RELOCKED (R663): the spare of a core's pair is locked for its next target; a pair runs on either of its PLLs. -/
def spareRelocked (s : State) (x : Pll) : State :=
  match x with
  | .core c _ => if (s.core c).on then (setLock s x true).modCore c (fun k => { k with spareOp := spareTarget s k }) else s
  | .net _ => if s.crp.net.on then setLock s x true else s
  | _ => s

/-- SPARE_RELOCKED. -/
def execSpareRelocked (pll : Pll) (s : State) : Host.Outcome State Fault Refusal :=
  match pll with
  | .core c _ => endsCore s c (spareRelocked s pll)
  | _ => ends s (spareRelocked s pll)

end Sys2Proof.Machine
end

