-- ==== Sys2Proof/Machine/Attest.lean ====
section
/-! DEFINITION. Certificates and evidence (R530 to R535), the SPDM responder and its four transports (R536 to R540). -/

namespace Sys2Proof.Machine

/-- The bytes of a text. -/
def txt (t : String) : List Byte := t.toList.map (fun c => BitVec.ofNat 8 c.toNat)
/-- The ML-KEM scheme of `Config.publicKey`. -/
def schemeKem : Nat := 2
/-- A digest of 48 bytes. -/
def sha (m : List Byte) : List Byte := padTo 48 (Config.sha384 m)
/-- The 16 bytes of the unit's serial number. -/
def serialBytes (s : State) : List Byte := leBytes 16 s.otp.serial.toNat

/-! ### Certificates (R530 to R532) -/

/-- The public key of a Cave slot under a scheme. -/
def slotKey (s : State) (slot scheme : Nat) : List Byte := Config.publicKey scheme (caveGet s slot)

/-- A signature with the key of a Cave slot, its randomness named by a draw. -/
def signWith (s : State) (slot scheme : Nat) (m : List Byte) : State × List Byte := (s.draw, Config.sign scheme (caveGet s slot) m s.freeNo)

/-- A number's digits in upper-case hexadecimal. -/
def hexText (l : List Byte) : List Byte :=
  l.flatMap (fun b => [b.toNat / 16, b.toNat % 16].map (fun d => BitVec.ofNat 8 (if d < 10 then 48 + d else 55 + d)))

/-- What the Alias certificate of a scheme holds (R531). -/
def aliasFields (s : State) (scheme : Nat) : CertFields :=
  let key := slotKey s (5 + scheme) scheme
  let serial := match (sha (Config.spki scheme key)).take 16 with | b :: r => (b &&& 0x7F) :: r | [] => []
  { serial := serial, subject := txt "Stasiley Alias " ++ hexText serial, publicKey := key, keyId := (sha key).take 20, layer := 1
    fwid := sha (slice s.rennet.manifest 0 2944), svn := s.rennet.svnImage, vendorInfo := BitVec.ofNat 8 s.otp.lc.toNat, ueid := 1 :: serialBytes s }

/-- The alias certificate of a scheme, signed with the DeviceID key. -/
def makeAlias (s : State) (scheme : Nat) : State × List Byte :=
  let body := Config.certBody (aliasFields s scheme)
  let r := signWith s (2 + scheme) scheme body
  (r.1, Config.certDer body r.2)

/-- The first request after hand-over has the alias certificates built (R532). -/
def withAlias (s : State) : State :=
  if s.rennet.aliasCerts ≠ [] ∨ !aliasUsable s ∨ s.rennet.step < 14 then s
  else
    let a := makeAlias s 0
    let b := makeAlias a.1 1
    { b.1 with rennet.aliasCerts := [a.2, b.2] }

/-- The chain of a slot: 0 ECDSA, 1 ML-DSA-87; it ends at DeviceID where no alias certificate exists. -/
def chainOf (s : State) (slot : Nat) : List (List Byte) :=
  Config.storedCerts (norRead s 0x210000 65536) slot ++ (if aliasUsable s then (s.rennet.aliasCerts.drop slot).take 1 else [])

/-- Both chains, the ECDSA chain first, each certificate with its length before it (R535). -/
def chainBytes (s : State) : List Byte := (chainOf s 0 ++ chainOf s 1).flatMap (fun c => leBytes 4 c.length ++ c)

/-! ### Measurements and claims (R534, R538) -/

/-- The digest of a section's entry, 48 zero bytes where there is none. -/
def sectionDigest (s : State) (t : Nat) : List Byte :=
  let m := s.rennet.manifest
  match (List.range (sectCount m)).find? (fun i => sectType m i == t) with
  | some i => sectDigest m i
  | none => List.replicate 48 0

/-- The digests of measurements 1 to 5. -/
def measDigest (s : State) (i : Nat) : List Byte :=
  match i with
  | 1 => padTo 48 s.rennet.mRom
  | 2 => sha (slice s.rennet.manifest 0 2944)
  | 3 => sectionDigest s 1
  | 4 => sectionDigest s 2
  | _ => sectionDigest s 3

/-- Whether a debug right is open at this start-up. -/
def debugOpen (s : State) : Bool := s.rennet.debugRights != 0
/-- The INTEG_KEY digest, while INTEG_KEY is locked. -/
def integKey (s : State) : Option (List Byte) := if fuseLocked s.otp.shadow 8 then some (mread 0 s.otp.shadow (regionOff 8) 48) else none

/-- A natural number as a claim. -/
def num (n : Nat) : Cbor := .int (n : Int)

/-- stas-part: the partition that asked; empty for a transport that describes none. -/
def partClaim (s : State) (p : Nat) : Cbor :=
  if 64 ≤ p then .map []
  else .map [(num 1, num p), (num 2, num (s.part p).rights.toNat), (num 3, .bytes (leBytes 8 (s.part p).cores.toNat)), (num 4, num (s.part p).cls.toNat)]

/-- stas-lic: the licences of the partition that asked. -/
def licClaim (s : State) (p : Nat) : Cbor :=
  .array ((s.att.lics.filter (fun e => e.2.valid && e.2.part == p)).map (fun e =>
    .array [num e.1, .bytes e.2.modelId, num e.2.version.toNat, num e.2.flags.toNat]))

/-- SK of set `i`. -/
def setKeyOf (s : State) (i : Nat) : List Byte := (caveGet s (16 + i)).take 32
/-- The licence keys of a set (R541): the ECDH scalar's and the ML-KEM key's derivations. -/
def setEcSeed (sk : List Byte) : List Byte := Config.kdf sk (txt "STAS-SET-LIC-EC") [] 56
def setKemSeed (sk : List Byte) : List Byte := Config.kdf sk (txt "STAS-SET-LIC-KEM") [] 64

/-- stas-sets: the bound sets held. -/
def setsClaim (s : State) : Cbor :=
  .array (s.att.sets.map (fun e =>
    .array [.bytes e.2.setId, num e.2.epoch.toNat, num e.2.members.length
      , .bytes (Config.publicKey schemeEc (setEcSeed (setKeyOf s e.1))), .bytes (Config.publicKey schemeKem (setKemSeed (setKeyOf s e.1)))]))

/-- stas-state; key 3 is an array of its two bit fields (notes/assumptions/44). -/
def stateClaim (s : State) : Cbor :=
  .map [(num 1, num s.otp.lc.toNat), (num 2, num (bootCode s.rennet.boot)), (num 3, .array [num s.rennet.cause.toNat, num s.rennet.noimg.toNat])
    , (num 4, .bool s.otp.degraded), (num 5, num s.rennet.svnImage.toNat), (num 6, num s.rennet.svnOtp.toNat), (num 7, num s.otp.marginal.toNat)
    , (num 8, .bool s.rennet.entropyFail), (num 9, num s.rennet.debugRights.toNat)]

/-- The decimal digits of a core count. -/
def digits (n : Nat) : List Byte := (if n < 10 then [n] else [n / 10, n % 10]).map (fun d => BitVec.ofNat 8 (48 + d))

/-- The claims of an evidence token (R534). -/
def claims (s : State) (p : Nat) (nonce : List Byte) : Cbor :=
  .map [(num 10, .bytes (padTo 32 nonce)), (num 256, .bytes (1 :: serialBytes s)), (num 259, .text (txt "Zynroth Stasiley-" ++ digits s.ncores))
    , (num 260, .array [.text (txt "2.1"), num 1]), (num 262, .bool (s.rennet.boot == .verified)), (num 263, num (if debugOpen s then 0 else 1))
    , (num 267, num s.otp.bootCtr.toNat)
    , (.int (-70001), .map ((List.range 5).map (fun i => (num (i + 1), .bytes (measDigest s (i + 1))))))
    , (.int (-70002), stateClaim s), (.int (-70003), match integKey s with | some b => .bytes b | none => .null)
    , (.int (-70004), partClaim s p), (.int (-70005), setsClaim s), (.int (-70006), licClaim s p)]

/-! ### Evidence (R533, R535) -/

/-- One signature of a token: its algorithm, its signer's kid, and the signature. -/
def coseEntry (alg : Int) (key sig : List Byte) : Cbor :=
  .array [.bytes (Config.cbor (.map [(num 1, .int alg)])), .map [(num 4, .bytes ((sha key).take 16))], .bytes sig]

/-- The evidence token: two signatures in a COSE_Sign structure, or the unprotected claims set where the alias keys may not be used (R533, R540). -/
def evidenceToken (s : State) (p : Nat) (nonce : List Byte) : State × List Byte :=
  let c := claims s p nonce
  let payload := Config.cbor c
  if aliasUsable s then
    let a := signWith s 5 schemeEc (Config.coseSigned (-35) payload)
    let b := signWith a.1 6 schemeMl (Config.coseSigned (-50) payload)
    (b.1, Config.cbor (.tag 98 (.array [.bytes [], .map [], .bytes payload
      , .array [coseEntry (-35) (slotKey s 5 schemeEc) a.2, coseEntry (-50) (slotKey s 6 schemeMl) b.2]])))
  else (s, Config.cbor (.tag 601 c))

/-- EVIDENCE (R418, R535). -/
def evidenceBody (p : Nat) (s : State) (k : Packet) : State :=
  let out := parAddr k 32
  let chains := pktExpert k && nbit (par k 44 1) 0
  checked s p k [(!addrOk k 32, 32), (pktExpert k && decide (2 ≤ par k 44 1), 44)] [] (
    let r := evidenceToken (withAlias s) p (parBytes k 0 32)
    let m := r.2 ++ (if chains then chainBytes r.1 else [])
    if par k 40 4 < m.length then refuseRange s p k 40
    else if anyBlock s p out m.length .unmapped then refuseRange s p k 32
    else reply (devPut r.1 p out m) p k stDone (BitVec.ofNat 32 m.length) noObj 0)

/-- EVIDENCE. -/
def execEvidence (p : PartId) (s : State) : Host.Outcome State Fault Refusal := ends s (ringCmd s p 0x0B02 44 45 [] (evidenceBody p))

/-! ### Who asks (R536) -/

/-- The partition that a transport describes; 64 for none. -/
def sourcePart : SpdmSource → Nat
  | .ring p => p | .mailbox p => p | .management => 64 | .fabric _ p => p
/-- The transport's number in a session. -/
def sourceRoute : SpdmSource → Nat
  | .ring _ => 0 | .mailbox _ => 1 | .management => 2 | .fabric _ _ => 3
/-- The device that a fabric transport reaches. -/
def sourceDev : SpdmSource → Option Nat
  | .fabric d _ => some d.val
  | _ => none
/-- Whether Rennet answers: over the fabric only a device bound to the partition (R366, R536). -/
def mayAsk (s : State) : SpdmSource → Bool
  | .fabric d p => s.fab.binds.any (fun b => b.1 == p.val && b.2.1 == d.val)
  | _ => true

/-- The session that a request of a transport names. -/
def sessionOf (s : State) (src : SpdmSource) (id : Nat) : Option (Nat × SpdmSession) :=
  s.att.sessions.find? (fun e => e.2.id == id && e.2.route == sourceRoute src && e.2.source == sourcePart src && e.2.dev == sourceDev src)

/-- The keys that may protect messages: those of both sessions. -/
def sessionKeys (s : State) : List (List Byte) := [caveGet s 12, caveGet s 15]

/-! ### Answers (R537 to R540) -/

/-- The raw value of measurement 7. -/
def modeValue (s : State) : List Byte :=
  [BitVec.ofNat 8 s.otp.lc.toNat, BitVec.ofNat 8 (bootCode s.rennet.boot), s.rennet.cause.setWidth 8, s.rennet.noimg.setWidth 8, s.rennet.debugRights.setWidth 8
    , BitVec.ofNat 8 (b2n s.rennet.entropyFail)] ++ leBytes 2 s.otp.marginal.toNat ++ leBytes 4 s.otp.bootCtr.toNat ++ [0, 0, 0, 0]

/-- A measurement block (R538); index 16 carries an evidence token on the request's nonce. -/
def measBlock (s : State) (p : Nat) (nonce : List Byte) (i : Nat) : State × MeasBlock :=
  match i with
  | 1 => (s, { index := 1, type := 0, raw := false, value := measDigest s 1 })
  | 2 | 3 | 4 => (s, { index := i, type := 1, raw := false, value := measDigest s i })
  | 5 => (s, { index := 5, type := 3, raw := false, value := measDigest s 5 })
  | 6 => (s, { index := 6, type := 7, raw := true, value := [s.rennet.svnImage, s.rennet.svnOtp] })
  | 7 => (s, { index := 7, type := 5, raw := true, value := modeValue s })
  | 8 => (s, { index := 8, type := 4, raw := true, value := if 64 ≤ p then [] else Config.cbor (.map [(.int (-70004), partClaim s p), (.int (-70006), licClaim s p)]) })
  | _ =>
    let r := evidenceToken s p nonce
    (r.1, { index := 16, type := 4, raw := true, value := r.2 })

/-- The indices of R538. -/
def measIndices : List Nat := [1, 2, 3, 4, 5, 6, 7, 8, 16]

/-- GET_MEASUREMENTS (R538, R540): index 0 asks for the number of blocks, 0xFF for all; a signature only where the alias keys may be used. -/
def answerMeasurements (s : State) (p index : Nat) (signed_ : Bool) (nonce : List Byte) : State × SpdmRsp :=
  let want := if index = 0 then [] else if index = 0xFF then measIndices else [index]
  if want.any (fun i => !measIndices.contains i) then (s, .error .invalidRequest)
  else
    let r := want.foldl (fun (t : State × List MeasBlock) i => let b := measBlock t.1 p nonce i; (b.1, t.2 ++ [b.2])) (s, [])
    if signed_ && aliasUsable s then
      let g := signWith r.1 5 schemeEc (Config.spdmTranscript r.1.freeNo (Config.spdmBlocks r.2 ++ nonce))
      (g.1, .measurements measIndices.length r.2 (some g.2))
    else (r.1, .measurements measIndices.length r.2 none)

/-- GET_CERTIFICATE: part of a slot's chain. -/
def answerCertificate (s : State) (slot offset len : Nat) : SpdmRsp :=
  let chain := Config.spdmChain (chainOf s slot)
  if 2 ≤ slot ∨ chain.length < offset then .error .invalidRequest
  else
    let data := (chain.drop offset).take len
    .certificate slot data (chain.length - offset - data.length)

/-- CHALLENGE (R537, R540): the alias key of slot 5 signs. -/
def answerChallenge (s : State) (slot : Nat) (nonce : List Byte) : State × SpdmRsp :=
  if !aliasUsable s then (s, .error .unsupportedRequest)
  else if slot ≠ 0 then (s, .error .invalidRequest)
  else
    let d := sha (Config.spdmChain (chainOf s 0))
    let g := signWith s 5 schemeEc (Config.spdmTranscript s.freeNo (d ++ nonce))
    (g.1, .challengeAuth 0 d g.2)

/-- KEY_EXCHANGE (R537, R539, R540): at most two sessions, their secrets in Cave slots 10 to 15. -/
def answerKeyExchange (s : State) (src : SpdmSource) (slot : Nat) (exchange : List Byte) : State × SpdmRsp :=
  if !aliasUsable s then (s, .error .unsupportedRequest)
  else if slot ≠ 0 ∨ exchange.length ≠ 96 ∨ !pointValid (4 :: exchange) then (s, .error .invalidRequest)
  else match [0, 1].find? (fun j => (tfind s.att.sessions j).isNone) with
  | none => (s, .error .busy)
  | some j => match drbgDraw s 88 with
    | none => (s, .error .unspecified)
    | some (s1, r) =>
      let eph := r.take 56
      let pub := Config.publicKey schemeEc eph
      let secret := padTo 48 (Config.ecdh eph (4 :: exchange))
      let id := s.att.nSess + 1
      let s2 := caveSet (caveSet (caveSet s1 (10 + 3 * j) eph) (11 + 3 * j) secret) (12 + 3 * j) (Config.spdmKeys secret 0)
      let s3 := { s2 with att.nSess := id, att.sessions := tset s2.att.sessions j { source := sourcePart src, dev := sourceDev src, route := sourceRoute src, id := id, beatTs := s.ts } }
      let g := signWith s3 5 schemeEc (Config.spdmTranscript s3.freeNo (r.drop 56 ++ pub))
      (g.1, .keyExchange id (r.drop 56) pub g.2)

/-- A session ends, its Cave slots zeroed (R539). -/
def closeSession (s : State) (j : Nat) : State :=
  (List.range 3).foldl (fun t i => caveSet t (10 + 3 * j + i) []) { s with att.sessions := tdel s.att.sessions j }

/-- FINISH: the session is established where the verify data holds. -/
def answerFinish (s : State) (src : SpdmSource) (id : Nat) (verify : List Byte) : State × SpdmRsp :=
  match sessionOf s src id with
  | none => (s, .error .invalidSession)
  | some (j, x) =>
    if verify = Config.spdmFinish (caveGet s (11 + 3 * j)) id then
      ({ s with att.sessions := tset s.att.sessions j { x with estab := true, beatTs := s.ts } }, .ack)
    else (s, .error .decryptError)

/-- A request inside an established session. -/
def inSession (s : State) (src : SpdmSource) (id : Nat) (body : Nat → SpdmSession → State) : State × SpdmRsp :=
  match sessionOf s src id with
  | some (j, x) => if x.estab then (body j x, .ack) else (s, .error .invalidSession)
  | none => (s, .error .invalidSession)

/-- CHUNK_GET: a piece of the large response held. -/
def answerChunk (s : State) (handle seq : Nat) : SpdmRsp :=
  let size := max 1 Config.spdmLimit
  if handle ≠ s.att.largeNo ∨ s.att.large.length ≤ seq * size then .error .invalidRequest
  else .chunk handle seq ((s.att.large.drop (seq * size)).take size) (decide (s.att.large.length ≤ (seq + 1) * size))

/-- The capabilities advertised (R537, R540). -/
def capabilities (s : State) : SpdmRsp :=
  let full := aliasUsable s
  .capabilities ([SpdmCap.cert] ++ (if full then [.chal] else []) ++ [.measFresh, .encrypt, .mac] ++ (if full then [.keyEx] else []) ++ [.hbeat, .keyUpd, .chunk])
    (if full then 2 else 1) 14

/-- The answer to a request (R537 to R540), before it is cut for the transport. -/
def spdmAnswer (s0 : State) (src : SpdmSource) (req : SpdmReq) : State × SpdmRsp :=
  let s := withAlias s0
  match req with
  | .getVersion => (s, .version [0x12, 0x13])
  | .getCapabilities v _ => (s, if v = 0x12 ∨ v = 0x13 then capabilities s else .error .versionMismatch)
  | .negotiateAlgorithms offer => (s, .algorithms offer)
  | .getDigests => (s, .digests ([0, 1].map (fun i => (i, sha (Config.spdmChain (chainOf s i))))))
  | .getCertificate slot offset len => (s, answerCertificate s slot offset len)
  | .challenge slot nonce => answerChallenge s slot nonce
  | .getMeasurements index signed_ nonce => answerMeasurements s (sourcePart src) index signed_ nonce
  | .keyExchange slot exchange => answerKeyExchange s src slot exchange
  | .finish id verify => answerFinish s src id verify
  | .heartbeat id => inSession s src id (fun j x => { s with att.sessions := tset s.att.sessions j { x with beatTs := s.ts } })
  | .keyUpdate id => inSession s src id (fun j x =>
      caveSet { s with att.sessions := tset s.att.sessions j { x with keyGen := x.keyGen + 1 } } (12 + 3 * j) (Config.spdmKeys (caveGet s (11 + 3 * j)) (x.keyGen + 1)))
  | .endSession id => inSession s src id (fun j _ => closeSession s j)
  | .chunkGet handle seq => (s, answerChunk s handle seq)
  | .other => (s, .error .unsupportedRequest)

/-- A long certificate or measurement response is held for CHUNK_GET (R537). -/
def cutLarge (r : State × SpdmRsp) : State × SpdmRsp :=
  let long := match r.2 with | .certificate _ _ _ | .measurements _ _ _ => true | _ => false
  let m := Config.spdmEncode (sessionKeys r.1) r.2
  if long && decide (Config.spdmLimit < m.length) then
    ({ r.1 with att.large := m, att.largeNo := r.1.att.largeNo + 1 }, .error (.largeResponse (r.1.att.largeNo + 1)))
  else r

/-- A request served (R536): the response is the state's last one. A request that Rennet does not answer changes nothing. -/
def spdmServe (s : State) (src : SpdmSource) (req : SpdmReq) : State :=
  if !rennetServes s || !mayAsk s src then s
  else
    let r := cutLarge (spdmAnswer s src req)
    { r.1 with att.rsp := r.2 }

/-- GET_VERSION. -/
def execGetVersion (src : SpdmSource) (s : State) : Host.Outcome State Fault Refusal := ends s (spdmServe s src .getVersion)
/-- GET_CAPABILITIES. -/
def execGetCapabilities (src : SpdmSource) (version : Byte) (flags : W32) (s : State) : Host.Outcome State Fault Refusal :=
  ends s (spdmServe s src (.getCapabilities version flags))
/-- NEGOTIATE_ALGORITHMS: every algorithm of R537 that is offered is selected. -/
def execNegotiateAlgorithms (src : SpdmSource) (offer : SpdmAlgs) (s : State) : Host.Outcome State Fault Refusal :=
  ends s (spdmServe s src (.negotiateAlgorithms offer))
/-- GET_DIGESTS. -/
def execGetDigests (src : SpdmSource) (s : State) : Host.Outcome State Fault Refusal := ends s (spdmServe s src .getDigests)
/-- GET_CERTIFICATE. -/
def execGetCertificate (src : SpdmSource) (slot offset len : Nat) (s : State) : Host.Outcome State Fault Refusal :=
  ends s (spdmServe s src (.getCertificate slot offset len))
/-- CHALLENGE. -/
def execSpdmChallenge (src : SpdmSource) (slot : Nat) (nonce : List Byte) (s : State) : Host.Outcome State Fault Refusal :=
  ends s (spdmServe s src (.challenge slot nonce))
/-- GET_MEASUREMENTS. -/
def execGetMeasurements (src : SpdmSource) (index : Nat) (signed_ : Bool) (nonce : List Byte) (s : State) : Host.Outcome State Fault Refusal :=
  ends s (spdmServe s src (.getMeasurements index signed_ nonce))
/-- KEY_EXCHANGE. -/
def execKeyExchange (src : SpdmSource) (slot : Nat) (exchange : List Byte) (s : State) : Host.Outcome State Fault Refusal :=
  ends s (spdmServe s src (.keyExchange slot exchange))
/-- FINISH. -/
def execSpdmFinish (src : SpdmSource) (session : Nat) (verify : List Byte) (s : State) : Host.Outcome State Fault Refusal :=
  ends s (spdmServe s src (.finish session verify))
/-- SPDM_HEARTBEAT. -/
def execSpdmHeartbeat (src : SpdmSource) (session : Nat) (s : State) : Host.Outcome State Fault Refusal := ends s (spdmServe s src (.heartbeat session))
/-- KEY_UPDATE. -/
def execKeyUpdate (src : SpdmSource) (session : Nat) (s : State) : Host.Outcome State Fault Refusal := ends s (spdmServe s src (.keyUpdate session))
/-- END_SESSION. -/
def execEndSession (src : SpdmSource) (session : Nat) (s : State) : Host.Outcome State Fault Refusal := ends s (spdmServe s src (.endSession session))
/-- CHUNK_GET. -/
def execChunkGet (src : SpdmSource) (handle seq : Nat) (s : State) : Host.Outcome State Fault Refusal := ends s (spdmServe s src (.chunkGet handle seq))

/-! ### Transports (R418, R536) -/

/-- A request message answered: the response message. -/
def spdmMessage (s : State) (src : SpdmSource) (m : List Byte) : State × List Byte :=
  let t := spdmServe s src (Config.spdmDecode (sessionKeys s) m)
  (t, Config.spdmEncode (sessionKeys t) t.att.rsp)

/-- SPDM (R418): one request message per packet. -/
def spdmBody (p : PartId) (s : State) (k : Packet) : State :=
  let len := par k 8 4
  let out := parAddr k 12
  checked s p k [(!addrOk k 0, 0), (!addrOk k 12, 12)] [(decide (len = 0 ∨ 4096 < len), 8)] (withData s p k 0 len (fun m =>
    let r := spdmMessage s (.ring p) m
    if par k 20 4 < r.2.length then refuseRange s p k 20
    else if anyBlock s p out r.2.length .unmapped then refuseRange s p k 12
    else reply (devPut r.1 p out r.2) p k stDone (BitVec.ofNat 32 r.2.length) noObj 0))

/-- SPDM. -/
def execSpdm (p : PartId) (s : State) : Host.Outcome State Fault Refusal := ends s (ringCmd s p 0x0B01 24 24 [] (spdmBody p))

/-- The SPDM source of a mailbox: a host partition's, or the management port's. -/
def mailSource (m : Nat) : SpdmSource := if m < 64 then .mailbox ⟨m % 64, Nat.mod_lt _ (by decide)⟩ else .management

/-- SPDM_BEGIN (R479, R536): word 1 is the length; another sender's transfer under way gives BUSY_RETRY, detail 0x04. -/
def execSpdmBegin (m : MbxId) (s : State) : Host.Outcome State Fault Refusal :=
  ends s (mailServe s m 0x0100 (fun s a =>
    let len := (a.getD 0 0).toNat
    let other := match s.att.req with | some x => x.holder != m.val | none => false
    if m.val = 64 then (s, stRights, [])
    else if other then (s, stBusy, [4])
    else if len = 0 ∨ 4096 < len then (s, stRange, [])
    else ({ s with att.req := some { holder := m, kind := 0, len := len } }, stDone, [])))

/-- SPDM_DATA (R479, R536): offsets rise by 24 from 0. -/
def execSpdmData (m : MbxId) (s : State) : Host.Outcome State Fault Refusal :=
  ends s (mailServe s m 0x0101 (fun s a =>
    match s.att.req with
    | none => (s, stState, [])
    | some x =>
      if x.holder ≠ m then (s, stState, [])
      else if (a.getD 0 0).toNat ≠ x.bytes.length ∨ x.len ≤ x.bytes.length then (s, stRange, [])
      else ({ s with att.req := some { x with bytes := x.bytes ++ (mailData a).take (x.len - x.bytes.length) } }, stDone, [])))

/-- SPDM_END (R536): the request is answered; word 2 holds the response's length. -/
def execSpdmEnd (m : MbxId) (s : State) : Host.Outcome State Fault Refusal :=
  ends s (mailServe s m 0x0102 (fun s _ =>
    match s.att.req with
    | none => (s, stState, [])
    | some x =>
      if x.holder ≠ m then (s, stState, [])
      else if x.bytes.length < x.len then (s, stRange, [])
      else
        let r := spdmMessage { s with att.req := none } (mailSource m) x.bytes
        ({ r.1 with att.mailRsp := some { holder := m, bytes := r.2 } }, stDone, [BitVec.ofNat 32 r.2.length])))

/-- SPDM_READ (R479, R536): 24 response bytes at the next offset. -/
def execSpdmRead (m : MbxId) (s : State) : Host.Outcome State Fault Refusal :=
  ends s (mailServe s m 0x0103 (fun s a =>
    match s.att.mailRsp with
    | none => (s, stState, [])
    | some x =>
      if x.holder ≠ m then (s, stState, [])
      else if (a.getD 0 0).toNat ≠ x.offset ∨ x.bytes.length ≤ x.offset then (s, stRange, [])
      else ({ s with att.mailRsp := some { x with offset := x.offset + 24 } }, stDone, wordsOf (slice x.bytes x.offset 24))))

/-- An SPDM request over the fabric: the response goes back with the same exchange number, to the partition that is bound (R366, R536). -/
def secureRequest (s : State) (dev : DevId) (p : PartId) (exchange : Nat) (m : List Byte) : State :=
  match s.fab.binds.find? (fun b => b.1 == p.val && b.2.1 == dev.val) with
  | some (_, _, q) =>
    let r := spdmMessage s (.fabric dev p) m
    sendSecure r.1 dev q 0x02 exchange r.2
  | none => s

end Sys2Proof.Machine
end

