-- ==== Sys2Proof/Machine/Bound.lean ====
section
/-! DEFINITION. Bound sets and their formation (R541 to R544), SECURE frames (R536, R542), model licences (R545, R546, R550). -/

namespace Sys2Proof.Machine

/-! ### Formation (R542 to R544) -/

/-- SET_ID of some serial numbers in ascending order (R541). -/
def setIdOf (serials : List (BitVec 128)) : List Byte := padTo 32 (Config.sha3 (txt "STAS-SET" ++ serials.flatMap (fun m => leBytes 16 m.toNat)))

/-- The set held with a SET_ID: its index. -/
def heldSet (s : State) (id : List Byte) : Option (Nat × BoundSet) := s.att.sets.find? (fun e => e.2.setId == id)
/-- The highest epoch held of a set. -/
def heldEpoch (s : State) (id : List Byte) : W32 := match heldSet s id with | some e => e.2.epoch | none => 0

/-- The set agreement seed (R482). -/
def agreeSeed (s : State) (id : List Byte) : List Byte := Config.kdf ((caveGet s 7).take 48) (txt "STAS-SET-KEM") id 64

/-- This device's evidence on a nonce, with both chains (R542). -/
def ownToken (s : State) (p : Nat) (nonce : List Byte) : State × EvToken :=
  let r := evidenceToken (withAlias s) p nonce
  (r.1, { raw := r.2 ++ chainBytes r.1, nonce := nonce, secboot := s.rennet.boot == .verified, dbgstat := if debugOpen s then 0 else 1
          lifeCycle := BitVec.ofNat 4 s.otp.lc.toNat, integ := integKey s, serial := s.otp.serial })

/-- Whether another's evidence is accepted (R543). -/
def acceptToken (s : State) (t : EvToken) (nonce : List Byte) (serial : BitVec 128) : Bool :=
  Config.evidenceOk t.raw && t.nonce == nonce && t.secboot && t.dbgstat == 1 && (s.otp.lc == 1 || s.otp.lc == 2)
    && t.lifeCycle.toNat == s.otp.lc.toNat && t.integ == integKey s && t.serial == serial

/-- SET_ID and SET_EPOCH as associated data. -/
def setAad (id : List Byte) (epoch : W32) : List Byte := id ++ leBytes 4 epoch.toNat
/-- KEK_i (R542). -/
def kekOf (z ss id : List Byte) (epoch : W32) (serial : BitVec 128) : List Byte :=
  Config.kdf (z ++ ss) (txt "STAS-SET-KEK") (sha (setAad id epoch ++ leBytes 16 serial.toNat)) 32
/-- The confirmation of a transcript (R542). -/
def confirmOf (sk script : List Byte) : List Byte := Config.hmac (Config.kdf sk (txt "STAS-SET-CONF") [] 48) (sha script)

/-- The set stored: SK in its Cave slot, its blob and record in NOR; none without random bits for the blob's nonce. The blob's MIN_SVN and class are not stated, and free. -/
def storeSet (s : State) (f : Formation) : Option (State × Nat) :=
  let i := match heldSet s f.setId with | some e => e.1 | none => (firstFree (s.att.sets.map (·.1)) 8).getD 0
  (drbgDraw s 12).map (fun r =>
    let b : BoundSet := { setId := f.setId, epoch := f.epoch
                          members := sortBy (fun a b => decide (a.toNat < b.toNat)) (s.otp.serial :: f.peers.map (·.serial)) }
    let h := (Config.free 16 r.1.freeNo 79).toNat
    let s1 := caveSet { r.1.draw with att.sets := tset s.att.sets i b } (16 + i) f.sk
    (blobPut s1 (setPlace i) (makeBlob s1 1 (h % 256) (h / 256) r.2 f.sk ++ setRecord b), i))

/-- A formation ends well: the set is stored and SET_FORM completes, OBJ the set's index and DETAIL its epoch. -/
def formDone (s : State) (f : Formation) : State :=
  match storeSet s f with
  | none => failForm s stAborted 0
  | some (t, i) => replyLater { t with att.forming := none } f.pend stDone f.epoch (BitVec.ofNat 32 i) 0xC2

/-- A member of the formation changed. -/
def modPeer (f : Formation) (dev : Nat) (g : FormPeer → FormPeer) : Formation :=
  { f with peers := f.peers.map (fun m => if m.dev = dev then g m else m) }

/-- Step 2: the member's offer on the coordinator's nonce. -/
def makeOffer (s : State) (f : Formation) (src : Nat) (nonce : List Byte) : State :=
  match drbgDraw s 88 with
  | none => failForm s stAborted 0
  | some (s1, r) =>
    let eph := r.take 56
    let tok := ownToken s1 f.pend.part nonce
    let o : SetOffer := { token := tok.2, kemKey := Config.publicKey schemeKem (agreeSeed s f.setId), ecPub := Config.publicKey schemeEc eph
                          nonce := r.drop 56, epoch := heldEpoch s f.setId }
    let g := modPeer { f with nonce := o.nonce, eph := eph, epoch := o.epoch } src (fun m =>
      { m with nonce := nonce, script := Config.setEncode (.hello f.setId nonce) ++ Config.setEncode (.offer o) })
    sendSet { tok.1 with att.forming := some g } src (.offer o)

/-- SET_HELLO at a member; one that comes before SET_FORM is kept for it. -/
def onHello (s : State) (src : Nat) (setId nonce : List Byte) : State :=
  match s.att.forming with
  | some f => if f.coord = some src ∧ f.setId = setId ∧ f.eph = [] then makeOffer s f src nonce else s
  | none => { s with att.hello := some (src, setId, nonce) }

/-- Step 3 for one member: evidence on its nonce, and SK wrapped under its KEK. -/
def sendKey (f : Formation) (s : State) (m : FormPeer) : Option State :=
  (drbgDraw s 68).map (fun r =>
    let eph := r.2.take 56
    let gn := r.2.drop 56
    let kem := Config.kemEncaps m.kemKey r.1.freeNo
    let tok := ownToken r.1.draw f.pend.part m.nonce
    let kek := kekOf (Config.ecdh eph m.ecPub) kem.2 f.setId f.epoch m.serial
    let w := padTo 48 (Config.gcmSeal kek gn (setAad f.setId f.epoch) f.sk)
    let k : SetKeyMsg := { token := tok.2, epoch := f.epoch, ecPub := Config.publicKey schemeEc eph, kemCt := kem.1, gcmNonce := gn
                           wrapped := w.take 32, tag := w.drop 32 }
    let t := { tok.1 with att.forming := tok.1.att.forming.map (fun g => modPeer g m.dev (fun x => { x with script := x.script ++ Config.setEncode (.key k) })) }
    sendSet t m.dev (.key k))

/-- Step 3 at the coordinator, once every offer is in: the epoch one above the highest, a new SK, and a key message to each. -/
def sendKeys (s : State) (f : Formation) : State :=
  match drbgDraw s 32 with
  | none => failForm s stAborted 0
  | some (s1, sk) =>
    let top := (f.peers.map (fun m => m.epoch.toNat)).foldl max (heldEpoch s f.setId).toNat
    let g := { f with epoch := BitVec.ofNat 32 (top + 1), sk := sk }
    match g.peers.foldl (fun (t : Option State) m => t.bind (fun u => sendKey g u m)) (some { s1 with att.forming := some g }) with
    | some t => t
    | none => failForm s stAborted 0

/-- SET_OFFER at the coordinator (R542, R543). -/
def onOffer (s : State) (src : Nat) (o : SetOffer) : State :=
  match s.att.forming with
  | none => s
  | some f => match f.coord, f.peers.find? (fun m => m.dev == src && !m.offered) with
    | none, some m =>
      if !acceptToken s o.token f.nonce m.serial ∨ !pointValid o.ecPub ∨ !Config.kemOk o.kemKey then failForm s stIntegrity src
      else
        let g := modPeer f src (fun m => { m with
          nonce := o.nonce, kemKey := o.kemKey, ecPub := o.ecPub, epoch := o.epoch, offered := true
          script := Config.setEncode (.hello f.setId f.nonce) ++ Config.setEncode (.offer o) })
        if g.peers.all (·.offered) then sendKeys s g else { s with att.forming := some g }
    | _, _ => s

/-- SET_KEY at a member (R542, R543): the evidence and the unwrap hold, and the confirmation goes back. -/
def onKey (s : State) (src : Nat) (k : SetKeyMsg) : State :=
  match s.att.forming with
  | none => s
  | some f => match f.peers.find? (fun m => m.dev == src) with
    | none => s
    | some m =>
      if f.coord ≠ some src ∨ f.eph = [] ∨ f.sk ≠ [] then s
      else if !acceptToken s k.token f.nonce m.serial ∨ !pointValid k.ecPub ∨ !Config.kemOk k.kemCt ∨ k.epoch.toNat ≤ f.epoch.toNat then failForm s stIntegrity src
      else
        let ss := Config.kemDecaps (agreeSeed s f.setId) k.kemCt
        let kek := kekOf (Config.ecdh f.eph k.ecPub) ss f.setId k.epoch s.otp.serial
        match Config.gcmOpen kek k.gcmNonce (setAad f.setId k.epoch) (k.wrapped ++ k.tag) with
        | none => failForm s stIntegrity src
        | some sk =>
          let mac := confirmOf (padTo 32 sk) (m.script ++ Config.setEncode (.key k))
          sendSet { s with att.forming := some { f with epoch := k.epoch, sk := padTo 32 sk } } src (.confirm mac)

/-- SET_CONFIRM at the coordinator: with the last, it stores its own set and tells every member. -/
def onConfirm (s : State) (src : Nat) (mac : List Byte) : State :=
  match s.att.forming with
  | none => s
  | some f => match f.coord, f.peers.find? (fun m => m.dev == src && m.offered && !m.confirmed) with
    | none, some m =>
      if f.sk = [] then s
      else if mac ≠ confirmOf f.sk m.script then failForm s stIntegrity src
      else
        let g := modPeer f src (fun m => { m with confirmed := true })
        if !g.peers.all (·.confirmed) then { s with att.forming := some g }
        else
          let t := formDone { s with att.forming := some g } g
          if t.att.sets = s.att.sets then t else g.peers.foldl (fun t m => sendSet t m.dev (.done g.setId g.epoch)) t
    | _, _ => s

/-- SET_DONE at a member. -/
def onSetDone (s : State) (src : Nat) (setId : List Byte) (epoch : W32) : State :=
  match s.att.forming with
  | some f => if f.coord = some src ∧ f.setId = setId ∧ f.epoch = epoch ∧ f.sk ≠ [] then formDone s f else s
  | none => s

/-- SET_ABORT at a member: its exchange keys are discarded. The message does not name the failing member, and DETAIL is free. -/
def onAbort (s : State) (src : Nat) (setId : List Byte) : State :=
  match s.att.forming with
  | some f => if f.coord = some src ∧ f.setId = setId then (failForm s stIntegrity (Config.free 10 s.freeNo 80).toNat).draw else s
  | none => match s.att.hello with
    | some (d, id, _) => if d = src ∧ id = setId then { s with att.hello := none } else s
    | none => s

/-- A formation message served, while Rennet runs. -/
def onSet (s : State) (src : Nat) (m : SetMsg) : State :=
  if !rennetServes s then s
  else match m with
  | .hello id nonce => onHello s src id nonce
  | .offer o => onOffer s src o
  | .key k => onKey s src k
  | .confirm mac => onConfirm s src mac
  | .done id epoch => onSetDone s src id epoch
  | .abort id _ => onAbort s src id

/-- SET_HELLO. -/
def execSetHello (src : DevId) (setId nonce : List Byte) (s : State) : Host.Outcome State Fault Refusal := ends s (onSet s src (.hello setId nonce))
/-- SET_OFFER. -/
def execSetOffer (src : DevId) (offer : SetOffer) (s : State) : Host.Outcome State Fault Refusal := ends s (onSet s src (.offer offer))
/-- SET_KEY. -/
def execSetKey (src : DevId) (key : SetKeyMsg) (s : State) : Host.Outcome State Fault Refusal := ends s (onSet s src (.key key))
/-- SET_CONFIRM. -/
def execSetConfirm (src : DevId) (mac : List Byte) (s : State) : Host.Outcome State Fault Refusal := ends s (onSet s src (.confirm mac))
/-- SET_DONE. -/
def execSetDone (src : DevId) (setId : List Byte) (epoch : W32) (s : State) : Host.Outcome State Fault Refusal := ends s (onSet s src (.done setId epoch))
/-- SET_ABORT. -/
def execSetAbort (src : DevId) (setId : List Byte) (epoch : W32) (s : State) : Host.Outcome State Fault Refusal := ends s (onSet s src (.abort setId epoch))

/-- The first member missing, as this device sees it (R544): at the coordinator the first without its offer or confirmation, at a member the coordinator. -/
def missingPeer (f : Formation) : Nat :=
  match f.coord with
  | some d => d
  | none =>
    let late := f.peers.filter (fun m => if f.sk = [] then !m.offered else !m.confirmed)
    match late with | m :: _ => m.dev | [] => 0

/-- SET_FORM_TIMEOUT (R544): 10 s after acceptance. -/
def execSetFormTimeout (now : W64) (s : State) : Host.Outcome State Fault Refusal :=
  endsAt s now (fun s => match s.att.forming with
    | some f => if f.startTs.toNat + 10000000000 ≤ s.ts.toNat then failForm s stTimeout (missingPeer f) else s
    | none => s)

/-- What a listed device's serial number is: its own, or its beacon's. -/
def serialOf (s : State) (dev : Nat) : Option (BitVec 128) :=
  if dev = s.fab.id.toNat ∧ s.fab.idState ≠ 0 then some s.otp.serial
  else match tfind s.fab.db dev with
    | some o => if o.beaconSeq.isSome then some o.serial else none
    | none => none

/-- A formation begins (R542): the coordinator is the member with the lowest serial number, and greets the others. -/
def beginForm (s : State) (p : Nat) (k : Packet) (ms : List (Nat × BitVec 128)) (id : List Byte) : State :=
  let me := s.fab.id.toNat
  let others : List FormPeer := (ms.filter (fun m => m.1 != me)).map (fun m => { dev := m.1, serial := m.2 })
  let first := match ms with | m :: _ => m.1 | [] => me
  let f : Formation := { pend := pendOf p k, setId := id, peers := others, coord := if first = me then none else some first, nonce := [], startTs := s.ts }
  if first = me then
    match drbgDraw s 32 with
    | none => reply s p k stAborted 0 noObj 0
    | some (t, n) => others.foldl (fun t m => sendSet t m.dev (.hello id n)) { t with att.forming := some { f with nonce := n } }
  else
    let t := { s with att.forming := some f, att.hello := none }
    match s.att.hello with
    | some (d, i, n) => if d = first ∧ i = id then makeOffer t f d n else t
    | none => t

/-- SET_FORM (R419, R542, R544). -/
def setFormBody (p : Nat) (s : State) (k : Packet) : State :=
  let n := par k 0 1
  let me := s.fab.id.toNat
  checked s p k [(!addrOk k 8, 8)] [(decide (n < 2 ∨ 64 < n), 0)] (withList s p k (2 * n) (fun l =>
    let devs := (List.range n).map (fun i => field l (2 * i) 2)
    let bad (i : Nat) : Bool := (serialOf s (devs.getD i 0)).isNone || (devs.take i).contains (devs.getD i 0)
    match (List.range n).find? bad with
    | some i => reply s p k stRange (detObj (2 * i)) noObj 0
    | none =>
      let ms := sortBy (fun (a b : Nat × BitVec 128) => decide (a.2.toNat < b.2.toNat)) (devs.map (fun d => (d, (serialOf s d).getD 0)))
      let id := setIdOf (ms.map (·.2))
      if !devs.contains me then refuseRange s p k 8
      else if s.otp.degraded ∨ debugOpen s then refuseState s p k noObj 0xA1
      else if s.otp.lc ≠ 1 ∧ s.otp.lc ≠ 2 then refuseState s p k noObj (lcState s)
      else if s.att.forming.isSome then refuseBusy s p k 4
      else if 8 ≤ s.att.sets.length ∧ (heldSet s id).isNone then refuseRange s p k 8
      else beginForm s p k ms id))

/-- SET_FORM. -/
def execSetForm (p : PartId) (s : State) : Host.Outcome State Fault Refusal := ends s (ringCmdR s p 0x0C01 6 16 16 [(1, 7)] (setFormBody p))

/-! ### SECURE frames (R536, R542) -/

/-- SECURE: a message's frames arrive in order; with the last, the message is served. -/
def fabSecure (s : State) (dev : DevId) (p : PartId) (arg : W64) (payload : List Byte) (last : Bool) : State :=
  let got := tget [] s.fab.secure dev.val ++ payload
  if !last then { s with fab.secure := tset s.fab.secure dev.val got }
  else
    let s1 := { s with fab.secure := tdel s.fab.secure dev.val }
    let code := nbits arg.toNat 7 0
    let m := got.take (nbits arg.toNat 31 8)
    if code = 0x01 then secureRequest s1 dev p (nbits arg.toNat 63 32) m
    else match Config.setDecode code m with
    | some x => onSet s1 dev x
    | none => s1

/-- SECURE. -/
def execFabSecure (_f : FabPort) (src : DevId) (ptag : PartId) (arg : W64) (payload : List Byte) (last : Bool) (s : State) : Host.Outcome State Fault Refusal :=
  ends s (if fabDeaf s then s else fabSecure s src ptag arg payload last)

/-! ### Model licences (R545, R546, R550) -/

/-- The first byte of a licence that breaks its layout. -/
def licFormat (b : List Byte) : Option Nat :=
  let zero (off n : Nat) : Bool := (slice b off n).any (· != 0)
  firstBad [(field b 0 4 != 0x53544D4C, 0), (field b 4 2 != 1, 4), (decide (8 ≤ field b 6 2), 6), (decide (8 < field b 29 1), 29), (zero 30 2, 30), (zero 68 4, 68)
    , (field b 80 6 % 65536 != 0, 80), (zero 86 2, 86), (zero 569 7, 569), (zero 2156 4, 2156)]

/-- The model key unwrapped with the set's licence keys (R545). -/
def licKey (s : State) (i : Nat) (b : List Byte) : Option (List Byte) :=
  let sk := setKeyOf s i
  let z := Config.ecdh (setEcSeed sk) (slice b 472 97)
  let ss := Config.kemDecaps (setKemSeed sk) (slice b 576 1568)
  let kek := Config.kdf (z ++ ss) (txt "STAS-LIC-KEK") (sha (b.take 2144)) 32
  (Config.gcmOpen kek (slice b 2144 12) (b.take 2144) (slice b 2160 48)).map (padTo 32)

/-- The licence as its slot holds it. -/
def licOfBytes (p : Nat) (b key : List Byte) : Licence :=
  { valid := true, part := p, flags := BitVec.ofNat 16 (field b 6 2), modelId := slice b 8 16, version := BitVec.ofNat 32 (field b 24 4), mapAddr := field b 80 6
    ngraph := field b 29 1, graphs := (List.range (field b 29 1)).map (fun i => slice b (88 + 48 * i) 48), key := some key }

/-- LICENCE_LOAD (R419, R546): the checks in their order; the key passes through the Cave into the slot's entry of the sealing key store. -/
def licenceLoadBody (p : Nat) (s : State) (k : Packet) : State :=
  if !addrOk k 0 then refuseFmt s p k 0
  else if par k 8 4 ≠ 2208 then refuseFmt s p k 8
  else withData s p k 0 2208 (fun b =>
    let st (v : Byte) : State := refuseState s p k noObj v
    let used := (s.att.lics.filter (fun e => e.2.valid)).map (·.1)
    let same (l : Licence) : Bool := l.valid && l.part == p && l.modelId == slice b 8 16 && l.version.toNat == field b 24 4
    let flags := field b 6 2
    let busy := match s.rennet.xfer with | some x => !x.isEnded | none => false
    match licFormat b with
    | some off => reply s p k stFormat (detObj off) noObj 0
    | none =>
      if !nbit (field b 72 8) p then refuseRight s p k 6
      else if s.rennet.svnImage.toNat < field b 28 1 then reply s p k stRange (detObj 28) noObj 0
      else match firstFree used 255 with
      | none => refuseRange s p k 0
      | some slot =>
        if s.otp.lc ≠ 1 ∧ s.otp.lc ≠ 2 then st (lcState s)
        else if nbit flags 0 ∧ s.rennet.boot ≠ .verified then st 0xA1
        else if nbit flags 1 ∧ debugOpen s then st 0xA3
        else match heldSet s (slice b 32 32) with
        | none => st (if (s.att.forming.map (·.setId)) = some (slice b 32 32) then 0xC1 else 0xC0)
        | some (i, g) =>
          if g.epoch.toNat ≠ field b 64 4 then st (if (s.att.forming.map (·.setId)) = some (slice b 32 32) then 0xC1 else 0xC0)
          else if s.att.lics.any (fun e => same e.2) then st 0xC3
          else if busy then refuseBusy s p k 4
          else if !pointValid (slice b 472 97) then reply s p k stPoint 0 noObj 0
          else if !Config.kemOk (slice b 576 1568) then reply s p k stInput 0 noObj 0
          else match licKey s i b with
          | none => reply s p k stIntegrity 0 noObj 0
          | some key => reply { s with att.lics := tset s.att.lics slot (licOfBytes p b key) } p k stDone 0 (BitVec.ofNat 32 slot) 0xC3)

/-- LICENCE_LOAD. -/
def execLicenceLoad (p : PartId) (s : State) : Host.Outcome State Fault Refusal := ends s (ringCmdR s p 0x0C02 6 12 12 [] (licenceLoadBody p))

/-- LICENCE_DROP (R419, R550): not while a mapped block carries the slot. -/
def licenceDropBody (p : Nat) (s : State) (k : Packet) : State :=
  let slot := (pktObj k).toNat
  let l := s.lic slot
  if !l.valid ∨ l.part ≠ p then refuseState s p k (pktObj k) 0xC0
  else if s.mem.maps.any (fun m => m.2.any (fun b => b.2.isSealed && b.2.state != .unmapped && b.2.lic == slot)) then refuseState s p k (pktObj k) 0xC3
  else reply { s with att.lics := tset s.att.lics slot {} } p k stDone 0 (pktObj k) 0xC0

/-- LICENCE_DROP. -/
def execLicenceDrop (p : PartId) (s : State) : Host.Outcome State Fault Refusal := ends s (ringCmdR s p 0x0C03 6 0 0 [] (licenceDropBody p))

end Sys2Proof.Machine
end

