-- ==== Sys2Proof/Machine/Defence.lean ====
section
/-! DEFINITION. Probes, the fence and un-fence commands, and replica votes (R575, R578, R580 to R583). -/

namespace Sys2Proof.Machine

/-! ### Probes (R582, R583) -/

/-- PROBE (R417, R582): 64 rounds on the partition's cores, or as the expert form names them. -/
def probeBody (p : Nat) (s : State) (k : Packet) : State :=
  let mask := if pktExpert k then par k 0 8 else (s.part p).cores.toNat
  let rounds := if pktExpert k then par k 8 2 else 64
  let outside := (List.range 64).any (fun c => nbit mask c && !(decide (c < s.ncores) && (s.part p).cores.getLsbD c))
  let es := (rotation s).filter (fun i => nbit mask (i / 8))
  checked s p k [] [(outside || decide (es.length < 3), 0), (rounds == 0, 8)] (
    match drbgDraw s 8 with
    | none => reply s p k stAborted 0 noObj 0
    | some (t, seed) => { t with rel.probe := some { pend := some (pendOf p k), engines := es, rounds := rounds, seed := BitVec.ofNat 64 (leNat seed) } })

/-- PROBE: one probe runs at a time; a command waits for the one under way (notes/assumptions/45). -/
def execProbe (p : PartId) (s : State) : Host.Outcome State Fault Refusal :=
  ends s (if s.rel.probe.isSome then s else ringCmdR s p 0x0A01 5 0 10 [] (probeBody p))

/-- What the rounds found (R583): without a majority PROBE_FAIL is reported and nothing fenced; a repeat that differed again is a finding. The numbers are the engines fenced and the transient differences. -/
def probeFindings (s : State) (runs : List ProbeDiff) : State × Nat × Nat :=
  let trans := (runs.filter (fun r => r.majority && r.repeatPassed)).length
  if runs.any (fun r => !r.majority) then (report (relEvent s 7) 0x0608 (initId 2 0) 64, 0, trans)
  else
    let bad := ((runs.filter (fun r => !r.repeatPassed)).map (·.engine)).dedup
    let s1 := bad.foldl (fun t i => permanent t (i / 8) (i % 8)) s
    (s1, (bad.filter (fun i => (s1.engine (i / 8) (i % 8)).state == .fenced)).length, trans)

/-- PROBE_COMPLETE (R583): the rounds of a partition's probe, or of the block's own, end. -/
def probeComplete (s : State) (p : Nat) (runs : List ProbeDiff) : State :=
  match s.rel.probe with
  | none => s
  | some pr =>
    let mine := match pr.pend with | some d => d.part == p | none => true
    if !mine then s
    else
      let r := probeFindings { s with rel.probe := none } (runs.filter (fun d => pr.engines.contains d.engine))
      match pr.pend with
      | some d => replyLater r.1 d stDone (BitVec.ofNat 32 (pr.rounds % 65536 + min r.2.1 255 * 2 ^ 16 + min r.2.2 255 * 2 ^ 24)) noObj 0
      | none => r.1

/-- PROBE_COMPLETE. -/
def execProbeComplete (p : PartId) (runs : List ProbeDiff) (s : State) : Host.Outcome State Fault Refusal := ends s (probeComplete s p runs)

/-! ### Fence and un-fence (R575, R578) -/

/-- The number of units of a KIND: engines or cores. -/
def unitCount (s : State) (kind : Nat) : Nat := if kind = 0 then 8 * s.ncores else s.ncores
/-- Whether a unit is fenced. -/
def unitFenced (s : State) (kind n : Nat) : Bool := if kind = 0 then (s.engine (n / 8) (n % 8)).state == .fenced else (s.core n).fenced
/-- The core of a unit. -/
def coreOfUnit (kind n : Nat) : Nat := if kind = 0 then n / 8 else n
/-- The engines of a unit, by initiator index. -/
def unitEngines (kind n : Nat) : List Nat := if kind = 0 then [n] else (List.range 8).map (fun e => 8 * n + e)
/-- Its initiator ID. -/
def unitInit (kind n : Nat) : W16 := if kind = 0 then initId 4 n else initId 3 n

/-- FENCE (R417, R575, R578): the command fences whatever AUTO_FENCE says. -/
def fenceBody (p : Nat) (s : State) (k : Packet) : State :=
  let kind := par k 0 1
  let n := par k 2 2
  checked s p k [(decide (1 < kind), 0)] [(decide (unitCount s kind ≤ n), 2)] (
    if unitFenced s kind n then refuseState s p k noObj 0xD1
    else reply (if kind = 0 then fenceEngine s (n / 8) (n % 8) else fenceCore s n) p k stDone 0 noObj 0xD1)

/-- FENCE. -/
def execFence (p : PartId) (s : State) : Host.Outcome State Fault Refusal := ends s (ringCmdR s p 0x0A02 5 4 4 [(1, 1)] (fenceBody p))

/-- A unit back in service: its engines IDLE; a core with an engine in service is not fenced (R194). -/
def unfence (s : State) (kind n : Nat) : State :=
  let s1 := (unitEngines kind n).foldl (fun t i => t.modEngine (i / 8) (i % 8) (fun g => { g with state := .idle, permTs := none })) s
  report (s1.modCore (coreOfUnit kind n) (fun q => { q with fenced := false })) 0x0502 (unitInit kind n) 64

/-- UN_FENCE (R417, R578): 64 rounds with the two engines that follow in rotation; the unit returns when its own repeats agree and a majority formed. -/
def unFenceBody (runs : List ProbeDiff) (p : Nat) (s : State) (k : Packet) : State :=
  let kind := par k 0 1
  let n := par k 2 2
  checked s p k [(decide (1 < kind), 0)] [(decide (unitCount s kind ≤ n), 2)] (
    if !unitFenced s kind n then refuseState s p k noObj 0xD0
    else if !(s.core (coreOfUnit kind n)).on then refuseState s p k noObj 0xD2
    else
      let failed := runs.any (fun r => !r.majority || (!r.repeatPassed && (unitEngines kind n).contains r.engine))
      if failed then reply s p k stIntegrity 0 noObj 0xD1 else reply (unfence s kind n) p k stDone 0 noObj 0xD0)

/-- UN_FENCE. -/
def execUnFence (p : PartId) (runs : List ProbeDiff) (s : State) : Host.Outcome State Fault Refusal :=
  ends s (ringCmdR s p 0x0A03 5 4 4 [(1, 1)] (unFenceBody runs p))

/-! ### Replica votes (R580, R581) -/

/-- The value that more than half of some values equal. -/
def majorityOf (vs : List W64) : Option W64 := vs.find? (fun v => decide (vs.length < 2 * (vs.filter (· == v)).length))

/-- Members withdrawn from a job: those of some positions; held values follow the members they came from. -/
def withoutMembers (j : Job) (out : List Nat) : Job :=
  let place (i : Nat) : Nat := ((List.range i).filter (fun k => !out.contains k)).length
  { j with
    members := (j.members.zipIdx.filter (fun e => !out.contains e.2)).map (·.1)
    held := (j.held.filter (fun h => !out.contains h.2.1)).map (fun h => (h.1, place h.2.1, h.2.2)) }

/-- An expulsion on this device: the members are withdrawn, and the bindings between them and the job's other members; on the expelled device the job ends, a report goes out and its graph's cores are probed. -/
def expel (s : State) (slot : Nat) (j : Job) (out : List Nat) : State :=
  let me := s.fab.id.toNat
  let gone := out.filterMap (fun i => j.members[i]?)
  let self := gone.find? (fun m => m.1 == me)
  let own := j.members.find? (fun m => m.1 == me)
  let cut : List (Nat × Nat) := match self with
    | some _ => (j.members.filter (fun m => m.1 != me)).map (fun m => (m.1, m.2.1))
    | none => gone.map (fun m => (m.1, m.2.1))
  let part := match own with | some m => m.2.1 | none => 64
  let j1 := withoutMembers j out
  let s1 := { relEvent s 6 with
    fab.jobs := tset s.fab.jobs slot { j1 with valid := j1.valid && self.isNone }
    fab.binds := s.fab.binds.filter (fun b => !(b.1 == part && cut.contains (b.2.1, b.2.2)))
    rel.expelled := satAdd s.rel.expelled gone.length }
  match self with
  | none => s1
  | some m =>
    let cores := match s.graph m.2.2.toNat with | some g => graphCores g | none => []
    ownProbe (report s1 0x0607 (initId 2 0) m.2.1) cores

/-- REPLICA_VOTE (R580): at 16 beats after the step's A, over the values held with COMPLETE set. -/
def replicaVote (s : State) (slot : Nat) (interval : W32) : State :=
  let j : Job := tget {} s.fab.jobs slot
  let ballots := j.held.filter (fun h => h.1 == interval)
  let due := ballots.any (fun h => decide (h.2.2.1.toNat + 16 * 65536 ≤ extTime s))
  if !j.valid ∨ !due then s
  else
    let votes := ballots.filter (fun h => h.2.2.2.2)
    let vs := votes.map (fun h => h.2.2.2.1)
    let j1 := { j with held := j.held.filter (fun h => h.1 != interval) }
    let s1 := { s with fab.jobs := tset s.fab.jobs slot j1 }
    let split : State := report (relEvent s1 6) 0x0606 (initId 2 0) 64
    if vs.dedup.length < 2 then s1
    else if vs.length = 2 then split
    else match majorityOf vs with
    | none => split
    | some v => expel s1 slot j1 ((votes.filter (fun h => h.2.2.2.1 != v)).map (·.2.1))

/-- REPLICA_VOTE. -/
def execReplicaVote (job : Fin 16) (interval : W32) (s : State) : Host.Outcome State Fault Refusal := ends s (replicaVote s job interval)

end Sys2Proof.Machine
end

