-- ==== Sys2Proof/Machine/Manage.lean ====
section
/-! DEFINITION. The management port (R654, R655) and the debug TAP (R523, R525, R659). -/

namespace Sys2Proof.Machine

/-! ### Common commands (R654) -/

/-- A transaction of the management port: the always-on island takes it in every state but O, and it is a wake source (R318). -/
def mgmtTaken (s : State) (body : State → State) : State :=
  if s.spr.pstate = .o then s else latchWake (body { s with ports.nacked := false }) 0x40 6

/-- A directed common command: not acknowledged until a dynamic address is assigned. -/
def directed (s : State) (body : State → State) : State :=
  mgmtTaken s (fun s => if s.ports.mgI3c then body s else { s with ports.nacked := true })

/-- The answer of a command. -/
def answered (s : State) (l : List Byte) : State := { s with ports.answer := l }

/-- A dynamic address assigned. -/
def takeAddr (s : State) (a : BitVec 7) : State := if s.ports.mgI3c then s else { s with ports.mgDaddr := a, ports.mgI3c := true }

/-- ENEC: target events are enabled, in-band interrupts by event bit 0. -/
def execEnec (events : Byte) (s : State) : Host.Outcome State Fault Refusal :=
  ends s (mgmtTaken s (fun s => if events.getLsbD 0 then { s with ports.ibiEn := true } else s))
/-- DISEC. -/
def execDisec (events : Byte) (s : State) : Host.Outcome State Fault Refusal :=
  ends s (mgmtTaken s (fun s => if events.getLsbD 0 then { s with ports.ibiEn := false } else s))
/-- RSTDAA: the port answers at strap_mg_addr again, without in-band interrupts. -/
def execRstdaa (s : State) : Host.Outcome State Fault Refusal :=
  ends s (mgmtTaken s (fun s => { s with ports.mgDaddr := 0, ports.mgI3c := false, ports.mbxIbi := false, ports.rptIbi := false }))
/-- ENTDAA: a target without a dynamic address takes one. -/
def execEntdaa (addr : BitVec 7) (s : State) : Host.Outcome State Fault Refusal := ends s (mgmtTaken s (fun s => takeAddr s addr))
/-- SETDASA: the dynamic address is set from the static one. -/
def execSetdasa (staticAddr addr : BitVec 7) (s : State) : Host.Outcome State Fault Refusal :=
  ends s (mgmtTaken s (fun s => if staticAddr = s.chip.strapMg then takeAddr s addr else { s with ports.nacked := true }))
/-- SETMWL. -/
def execSetmwl (len : W16) (s : State) : Host.Outcome State Fault Refusal := ends s (directed s (fun s => { s with ports.mwl := len }))
/-- SETMRL. -/
def execSetmrl (len : W16) (s : State) : Host.Outcome State Fault Refusal := ends s (directed s (fun s => { s with ports.mrl := len }))
/-- GETMWL. -/
def execGetmwl (s : State) : Host.Outcome State Fault Refusal := ends s (directed s (fun s => answered s (beBytes 2 s.ports.mwl.toNat)))
/-- GETMRL. -/
def execGetmrl (s : State) : Host.Outcome State Fault Refusal := ends s (directed s (fun s => answered s (beBytes 2 s.ports.mrl.toNat)))

/-- The provisional ID (R654): the manufacturer's ID in [47:33], 0 in [32], the serial number's [31:0]. -/
def provisionalId (s : State) : Nat := s.chip.mipiId.toNat * 2 ^ 33 + s.otp.serial.toNat % 2 ^ 32

/-- GETPID. -/
def execGetpid (s : State) : Host.Outcome State Fault Refusal := ends s (directed s (fun s => answered s (beBytes 6 (provisionalId s))))
/-- GETBCR: the register's value is not stated. -/
def execGetbcr (s : State) : Host.Outcome State Fault Refusal := ends s (directed s (fun s => answered s [Config.free 8 0 81]))
/-- GETDCR: the register's value is not stated. -/
def execGetdcr (s : State) : Host.Outcome State Fault Refusal := ends s (directed s (fun s => answered s [Config.free 8 0 82]))
/-- GETSTATUS: the two bytes are not stated. -/
def execGetstatus (s : State) : Host.Outcome State Fault Refusal := ends s (directed s (fun s => (answered s (freeBytes s 83 2)).draw))

/-! ### Private commands (R655) -/

/-- MGMT_MBX_SEND: eight words to Rennet, with sender 0xFFFF. -/
def execMgmtMbxSend (words : List W32) (now : W64) (s : State) : Host.Outcome State Fault Refusal :=
  endsAt s now (fun s => mgmtTaken s (fun s =>
    if (s.mbx 65).outFull then s
    else mbxSend (s.modMbx 65 (fun x => { x with out := (List.range 8).map (fun i => words.getD i 0) })) 65 0xFFFF))

/-- MGMT_MBX_READ: 33 bytes, the status byte and the inbound words. -/
def execMgmtMbxRead (s : State) : Host.Outcome State Fault Refusal :=
  ends s (mgmtTaken s (fun s =>
    let x := s.mbx 65
    answered { s with ports.mbxIbi := false }
      (BitVec.ofNat 8 (b2n x.inValid + 2 * b2n x.outFull + 4 * b2n x.timeout) :: (List.range 8).flatMap (fun i => leBytes 4 (x.inn.getD i 0).toNat))))

/-- MGMT_MBX_ACK. -/
def execMgmtMbxAck (s : State) : Host.Outcome State Fault Refusal := ends s (mgmtTaken s (fun s => mbxAck s 65))
/-- MGMT_MBX_WITHDRAW. -/
def execMgmtMbxWithdraw (s : State) : Host.Outcome State Fault Refusal := ends s (mgmtTaken s (fun s => mbxWithdraw s 65))

/-- REPORT_READ: the oldest unread report, or zeros; it leaves the queue. -/
def execReportRead (s : State) : Host.Outcome State Fault Refusal :=
  ends s (mgmtTaken s (fun s =>
    let bytes := match s.rel.mgmtQ with
      | .own r :: _ => reportBytes r
      | .foreign b :: _ => padTo 64 b
      | [] => List.replicate 64 0
    let q := s.rel.mgmtQ.drop 1
    answered { s with rel.mgmtQ := q, rel.alert := alertOf q, ports.rptIbi := s.ports.rptIbi && q != [] } bytes))

/-- REPORT_COUNT. -/
def execReportCount (s : State) : Host.Outcome State Fault Refusal :=
  ends s (mgmtTaken s (fun s => answered s [BitVec.ofNat 8 s.rel.mgmtQ.length]))

/-- MGMT_STATUS: ID_LC, RNT_BOOT_STATUS, REL_STATUS and SPR_STATUS. -/
def execMgmtStatus (s : State) : Host.Outcome State Fault Refusal :=
  ends s (mgmtTaken s (fun s =>
    answered s ([readIds s 0x10, readRnt s 0x2000, relStatus s, sprStatus s].flatMap (fun w => leBytes 4 w.toNat))))

/-- Without an array controller the always-on island enters S or O itself, once Rennet has written its queued Rind entries. -/
def islandEnters (s : State) (st : PState) : State :=
  let s1 := { rindFlush s with spr.draining := some st, spr.isoDone := true, spr.restoring := none }
  switchOffEnds ([Domain.rnt, .spr, .str].foldl (fun t d => askOff t false d) s1)

/-- MGMT_POWER: 0x04 asks for S and 0x05 for O, as the power-state command does; from another state the instance wakes to enter it; other values are not acknowledged. -/
def mgmtPower (s : State) (value : Byte) : State :=
  let st : PState := if value = 4 then .s else .o
  if value ≠ 4 ∧ value ≠ 5 then { s with ports.nacked := true }
  else if noArray s then (if s.spr.draining.isSome then s else islandEnters s st)
  else if s.spr.pstate = .a ∧ 15 ≤ s.rennet.step then askDeep s st
  else { s with spr.askPower := some st }

/-- MGMT_POWER. -/
def execMgmtPower (value : Byte) (s : State) : Host.Outcome State Fault Refusal :=
  ends s (if s.spr.pstate = .o then s
    else
      let s1 := mgmtPower { s with ports.nacked := false } value
      if s1.spr.draining.isSome ∧ s1.spr.askPower.isNone then s1 else latchWake s1 0x40 6)

/-! ### The debug TAP (R659) -/

/-- TAP_RESET: IDCODE is the instruction after a reset. -/
def execTapReset (s : State) : Host.Outcome State Fault Refusal := ends s { s with ports.tapIr := 0x01, ports.tapOut := [] }

/-- TAP_BYPASS: one bit between t_tdi and t_tdo. -/
def execTapBypass (bits : List Bool) (s : State) : Host.Outcome State Fault Refusal :=
  ends s { s with ports.tapIr := 0xFF, ports.tapOut := (false :: bits).dropLast }

/-- The IDCODE value: 0x2 in [31:28], 0x5731 in [27:12], the JEDEC code in [11:1], 1 in [0]. -/
def idcode (s : State) : Nat := 2 * 2 ^ 28 + 0x5731 * 2 ^ 12 + s.chip.jedecId.toNat * 2 + 1

/-- The bits of a value as they are shifted out, lowest first. -/
def shiftOut (n v : Nat) : List Bool := (List.range n).map (nbit v)

/-- TAP_IDCODE. -/
def execTapIdcode (s : State) : Host.Outcome State Fault Refusal := ends s { s with ports.tapIr := 0x01, ports.tapOut := shiftOut 32 (idcode s) }

/-- The right of R523 that a debug access instruction needs: the manual does not say which instruction has which (notes/assumptions/46). -/
def tapRight (ir : BitVec 8) : Nat := (Config.free 8 0 (128 + ir.toNat)).toNat % 5

/-- The debug initiator (R679). -/
def byDebug : Requester := { init := initId 10 0, tag := 0x3F }

/-- TAP_DEBUG_ACCESS (R523, R525, R659): without its right an instruction shifts zeros and acts on nothing; register peek reads and writes the register window as the debug initiator; partition memory shows a word of a device address, whose place in the instruction the manual does not fix (R525); what the chains of the other controllers and the trace port do is not given. -/
def execTapDebugAccess (ir : BitVec 8) (write : Bool) (addr : W64) (data : W32) (s : State) : Host.Outcome State Fault Refusal :=
  let s1 := { s with ports.tapIr := ir }
  let off := addr.toNat % 2 ^ 26 / 4 * 4
  if ir.toNat < 0x20 ∨ 0x2F < ir.toNat ∨ !nbit s.rennet.debugRights.toNat (tapRight ir) then ends s { s1 with ports.tapOut := List.replicate 32 false }
  else if tapRight ir = 3 then
    ends s (if write then writeBy { s1 with ports.tapOut := List.replicate 32 false } byDebug off data 0
      else { s1 with ports.tapOut := shiftOut 32 (if mayRead s byDebug off then (regRead s off).toNat else 0) })
  else if tapRight ir = 4 then
    ends s { s1 with ports.tapOut := shiftOut 32 (debugWord s (Config.debugPlace 1 addr.toNat)).toNat }
  else .refused .debugUnitUnspecified

end Sys2Proof.Machine
end

