-- ==== Sys2Proof/Machine/Dispatch.lean ====
section
/-! DEFINITION. The dispatch of commands to their meanings: one arm per row of spec/opcode_table.json. -/

namespace Sys2Proof.Machine

/-- The effect of a command on everything but the queue of waiting commands. -/
def exec (i : Instr) (s : State) : Host.Outcome State Fault Refusal :=
  match i with
  | .registerWrite by_ off data hwSet => Sys2Proof.Machine.execRegisterWrite by_ off data hwSet s
  | .latchedReadLo by_ off => Sys2Proof.Machine.execLatchedReadLo by_ off s
  | .hostRequest word par beats now => Sys2Proof.Machine.execHostRequest word par beats now s
  | .memResponse port rsp => Sys2Proof.Machine.execMemResponse port rsp s
  | .interruptResponse tag par => Sys2Proof.Machine.execInterruptResponse tag par s
  | .partDoorbell p ring tail => Sys2Proof.Machine.execPartDoorbell p ring tail s
  | .packetAccept p => Sys2Proof.Machine.execPacketAccept p s
  | .partCqHead p head => Sys2Proof.Machine.execPartCqHead p head s
  | .partHeartbeat p value now => Sys2Proof.Machine.execPartHeartbeat p value now s
  | .heartbeatTimeout p now => Sys2Proof.Machine.execHeartbeatTimeout p now s
  | .partRemap p vector entry => Sys2Proof.Machine.execPartRemap p vector entry s
  | .attach p => Sys2Proof.Machine.execAttach p s
  | .detach p => Sys2Proof.Machine.execDetach p s
  | .echo p => Sys2Proof.Machine.execEcho p s
  | .create p => Sys2Proof.Machine.execCreate p s
  | .resize p => Sys2Proof.Machine.execResize p s
  | .destroy p => Sys2Proof.Machine.execDestroy p s
  | .partitionResetCmd p => Sys2Proof.Machine.execPartitionResetCmd p s
  | .mapRange p => Sys2Proof.Machine.execMapRange p s
  | .unmapRange p => Sys2Proof.Machine.execUnmapRange p s
  | .zeroRange p => Sys2Proof.Machine.execZeroRange p s
  | .hintRange p => Sys2Proof.Machine.execHintRange p s
  | .prefetchRange p => Sys2Proof.Machine.execPrefetchRange p s
  | .pinRange p => Sys2Proof.Machine.execPinRange p s
  | .unpinRange p => Sys2Proof.Machine.execUnpinRange p s
  | .evictRange p => Sys2Proof.Machine.execEvictRange p s
  | .flushRange p => Sys2Proof.Machine.execFlushRange p s
  | .arm p => Sys2Proof.Machine.execArm p s
  | .armTimeout p graph now => Sys2Proof.Machine.execArmTimeout p graph now s
  | .aperture p => Sys2Proof.Machine.execAperture p s
  | .loadGraph p => Sys2Proof.Machine.execLoadGraph p s
  | .unloadGraph p => Sys2Proof.Machine.execUnloadGraph p s
  | .runGraph p => Sys2Proof.Machine.execRunGraph p s
  | .startGraph p => Sys2Proof.Machine.execStartGraph p s
  | .stopGraph p => Sys2Proof.Machine.execStopGraph p s
  | .loadBeat p => Sys2Proof.Machine.execLoadBeat p s
  | .cadenceSet p => Sys2Proof.Machine.execCadenceSet p s
  | .streamSetUp p => Sys2Proof.Machine.execStreamSetUp p s
  | .streamRelease p => Sys2Proof.Machine.execStreamRelease p s
  | .streamBind p => Sys2Proof.Machine.execStreamBind p s
  | .watchLoad p => Sys2Proof.Machine.execWatchLoad p s
  | .watchStart p => Sys2Proof.Machine.execWatchStart p s
  | .watchStop p => Sys2Proof.Machine.execWatchStop p s
  | .preWarmSet p => Sys2Proof.Machine.execPreWarmSet p s
  | .rung p => Sys2Proof.Machine.execRung p s
  | .powerState p => Sys2Proof.Machine.execPowerState p s
  | .wakeSet p => Sys2Proof.Machine.execWakeSet p s
  | .fabricStatus p => Sys2Proof.Machine.execFabricStatus p s
  | .peerBind p => Sys2Proof.Machine.execPeerBind p s
  | .peerUnbind p => Sys2Proof.Machine.execPeerUnbind p s
  | .barrierGroupSet p => Sys2Proof.Machine.execBarrierGroupSet p s
  | .barrierGroupClear p => Sys2Proof.Machine.execBarrierGroupClear p s
  | .replicaJobSet p => Sys2Proof.Machine.execReplicaJobSet p s
  | .replicaJobClear p => Sys2Proof.Machine.execReplicaJobClear p s
  | .portWrite p => Sys2Proof.Machine.execPortWrite p s
  | .portRetrain p => Sys2Proof.Machine.execPortRetrain p s
  | .clearFixedIdConflict p => Sys2Proof.Machine.execClearFixedIdConflict p s
  | .fabPortRetrainWrite by_ f => Sys2Proof.Machine.execFabPortRetrainWrite by_ f s
  | .phasePreference p => Sys2Proof.Machine.execPhasePreference p s
  | .powerCap p => Sys2Proof.Machine.execPowerCap p s
  | .thermal p => Sys2Proof.Machine.execThermal p s
  | .probe p => Sys2Proof.Machine.execProbe p s
  | .probeComplete p runs => Sys2Proof.Machine.execProbeComplete p runs s
  | .fence p => Sys2Proof.Machine.execFence p s
  | .unFence p runs => Sys2Proof.Machine.execUnFence p runs s
  | .spdm p => Sys2Proof.Machine.execSpdm p s
  | .evidence p => Sys2Proof.Machine.execEvidence p s
  | .setForm p => Sys2Proof.Machine.execSetForm p s
  | .setFormTimeout now => Sys2Proof.Machine.execSetFormTimeout now s
  | .licenceLoad p => Sys2Proof.Machine.execLicenceLoad p s
  | .licenceDrop p => Sys2Proof.Machine.execLicenceDrop p s
  | .logSet p => Sys2Proof.Machine.execLogSet p s
  | .traceSet p => Sys2Proof.Machine.execTraceSet p s
  | .update p => Sys2Proof.Machine.execUpdate p s
  | .nonceCommand p => Sys2Proof.Machine.execNonceCommand p s
  | .transition p supplyOk => Sys2Proof.Machine.execTransition p supplyOk s
  | .debugCertificate p supplyOk => Sys2Proof.Machine.execDebugCertificate p supplyOk s
  | .otpProgram p supplyOk => Sys2Proof.Machine.execOtpProgram p supplyOk s
  | .finalise p supplyOk => Sys2Proof.Machine.execFinalise p supplyOk s
  | .otpSupplyDrop src bits => Sys2Proof.Machine.execOtpSupplyDrop src bits s
  | .regionSet p => Sys2Proof.Machine.execRegionSet p s
  | .regionErase p => Sys2Proof.Machine.execRegionErase p s
  | .flashWrite p => Sys2Proof.Machine.execFlashWrite p s
  | .mbxDoorbellSend m => Sys2Proof.Machine.execMbxDoorbellSend m s
  | .mbxDoorbellWithdraw m => Sys2Proof.Machine.execMbxDoorbellWithdraw m s
  | .mbxDoorbellAck m => Sys2Proof.Machine.execMbxDoorbellAck m s
  | .mbxTimeoutExpire m now => Sys2Proof.Machine.execMbxTimeoutExpire m now s
  | .identity m => Sys2Proof.Machine.execIdentity m s
  | .bootStatus m => Sys2Proof.Machine.execBootStatus m s
  | .imageBegin m => Sys2Proof.Machine.execImageBegin m s
  | .imageData m => Sys2Proof.Machine.execImageData m s
  | .imageEnd m => Sys2Proof.Machine.execImageEnd m s
  | .imageAbort m => Sys2Proof.Machine.execImageAbort m s
  | .imageRun m => Sys2Proof.Machine.execImageRun m s
  | .imageTransferTimeout now => Sys2Proof.Machine.execImageTransferTimeout now s
  | .blobLoad m => Sys2Proof.Machine.execBlobLoad m s
  | .blobStore m => Sys2Proof.Machine.execBlobStore m s
  | .rindInfo m => Sys2Proof.Machine.execRindInfo m s
  | .rindRead m => Sys2Proof.Machine.execRindRead m s
  | .spdmBegin m => Sys2Proof.Machine.execSpdmBegin m s
  | .spdmData m => Sys2Proof.Machine.execSpdmData m s
  | .spdmEnd m => Sys2Proof.Machine.execSpdmEnd m s
  | .spdmRead m => Sys2Proof.Machine.execSpdmRead m s
  | .nonce m => Sys2Proof.Machine.execNonce m s
  | .nonceExpire now => Sys2Proof.Machine.execNonceExpire now s
  | .reqBegin m => Sys2Proof.Machine.execReqBegin m s
  | .reqData m => Sys2Proof.Machine.execReqData m s
  | .reqEnd m supplyOk => Sys2Proof.Machine.execReqEnd m supplyOk s
  | .enrol m supplyOk reads => Sys2Proof.Machine.execEnrol m supplyOk reads s
  | .getVersion src => Sys2Proof.Machine.execGetVersion src s
  | .getCapabilities src version flags => Sys2Proof.Machine.execGetCapabilities src version flags s
  | .negotiateAlgorithms src offer => Sys2Proof.Machine.execNegotiateAlgorithms src offer s
  | .getDigests src => Sys2Proof.Machine.execGetDigests src s
  | .getCertificate src slot offset len => Sys2Proof.Machine.execGetCertificate src slot offset len s
  | .spdmChallenge src slot nonce => Sys2Proof.Machine.execSpdmChallenge src slot nonce s
  | .getMeasurements src index signed nonce => Sys2Proof.Machine.execGetMeasurements src index signed nonce s
  | .keyExchange src slot exchange => Sys2Proof.Machine.execKeyExchange src slot exchange s
  | .spdmFinish src session verify => Sys2Proof.Machine.execSpdmFinish src session verify s
  | .spdmHeartbeat src session => Sys2Proof.Machine.execSpdmHeartbeat src session s
  | .keyUpdate src session => Sys2Proof.Machine.execKeyUpdate src session s
  | .endSession src session => Sys2Proof.Machine.execEndSession src session s
  | .chunkGet src handle seq => Sys2Proof.Machine.execChunkGet src handle seq s
  | .setHello src setId nonce => Sys2Proof.Machine.execSetHello src setId nonce s
  | .setOffer src offer => Sys2Proof.Machine.execSetOffer src offer s
  | .setKey src key => Sys2Proof.Machine.execSetKey src key s
  | .setConfirm src mac => Sys2Proof.Machine.execSetConfirm src mac s
  | .setDone src setId epoch => Sys2Proof.Machine.execSetDone src setId epoch s
  | .setAbort src setId epoch => Sys2Proof.Machine.execSetAbort src setId epoch s
  | .taskDispatch c => Sys2Proof.Machine.execTaskDispatch c s
  | .taskReleaseTime c x now => Sys2Proof.Machine.execTaskReleaseTime c x now s
  | .operandsReady c e => Sys2Proof.Machine.execOperandsReady c e s
  | .matmul c e => Sys2Proof.Machine.execMatmul c e s
  | .conv c e => Sys2Proof.Machine.execConv c e s
  | .convDw c e => Sys2Proof.Machine.execConvDw c e s
  | .attn c e => Sys2Proof.Machine.execAttn c e s
  | .attnMerge c e => Sys2Proof.Machine.execAttnMerge c e s
  | .normRms c e => Sys2Proof.Machine.execNormRms c e s
  | .normLayer c e => Sys2Proof.Machine.execNormLayer c e s
  | .rope c e => Sys2Proof.Machine.execRope c e s
  | .gateExperts c e => Sys2Proof.Machine.execGateExperts c e s
  | .combine c e => Sys2Proof.Machine.execCombine c e s
  | .quant c e => Sys2Proof.Machine.execQuant c e s
  | .dequant c e => Sys2Proof.Machine.execDequant c e s
  | .elem c e => Sys2Proof.Machine.execElem c e s
  | .reduce c e => Sys2Proof.Machine.execReduce c e s
  | .topk c e => Sys2Proof.Machine.execTopk c e s
  | .moveTask c => Sys2Proof.Machine.execMoveTask c s
  | .decompress c => Sys2Proof.Machine.execDecompress c s
  | .promoteTask c x => Sys2Proof.Machine.execPromoteTask c x s
  | .waitForCadence c x => Sys2Proof.Machine.execWaitForCadence c x s
  | .waitExpire c x now => Sys2Proof.Machine.execWaitExpire c x now s
  | .signalTask c x => Sys2Proof.Machine.execSignalTask c x s
  | .fabricBarrier c x => Sys2Proof.Machine.execFabricBarrier c x s
  | .tileComplete c e fault => Sys2Proof.Machine.execTileComplete c e fault s
  | .taskDone c x => Sys2Proof.Machine.execTaskDone c x s
  | .signalArrive c msg => Sys2Proof.Machine.execSignalArrive c msg s
  | .coreDoneArrive c src graph => Sys2Proof.Machine.execCoreDoneArrive c src graph s
  | .ctxParity c owner => Sys2Proof.Machine.execCtxParity c owner s
  | .coreReset c => Sys2Proof.Machine.execCoreReset c s
  | .engineFence c e => Sys2Proof.Machine.execEngineFence c e s
  | .residueRepeatDone c e pass => Sys2Proof.Machine.execResidueRepeatDone c e pass s
  | .duplicateDone c e result => Sys2Proof.Machine.execDuplicateDone c e result s
  | .forceWaitExpire c e => Sys2Proof.Machine.execForceWaitExpire c e s
  | .settleTileDone c e result => Sys2Proof.Machine.execSettleTileDone c e result s
  | .parityFail unit ptag at_ => Sys2Proof.Machine.execParityFail unit ptag at_ s
  | .eccCorrected unit where_ now => Sys2Proof.Machine.execEccCorrected unit where_ now s
  | .eccUncorrectable where_ addr => Sys2Proof.Machine.execEccUncorrectable where_ addr s
  | .replicaVote job interval => Sys2Proof.Machine.execReplicaVote job interval s
  | .rindEntryWrite => Sys2Proof.Machine.execRindEntryWrite s
  | .rindDroppedTick => Sys2Proof.Machine.execRindDroppedTick s
  | .ageRise c x now => Sys2Proof.Machine.execAgeRise c x now s
  | .cadencePulse rising stamp => Sys2Proof.Machine.execCadencePulse rising stamp s
  | .encoderStrobe count stamp => Sys2Proof.Machine.execEncoderStrobe count stamp s
  | .cadenceLoss now => Sys2Proof.Machine.execCadenceLoss now s
  | .synthesisedBeat now => Sys2Proof.Machine.execSynthesisedBeat now s
  | .standingRelease graph now => Sys2Proof.Machine.execStandingRelease graph now s
  | .runRelease graph now => Sys2Proof.Machine.execRunRelease graph now s
  | .taskDeadline c x now => Sys2Proof.Machine.execTaskDeadline c x now s
  | .syncExchange ok now => Sys2Proof.Machine.execSyncExchange ok now s
  | .fabSync port msg => Sys2Proof.Machine.execFabSync port msg s
  | .fabBeat port src stamp beats => Sys2Proof.Machine.execFabBeat port src stamp beats s
  | .streamBeat port beat now => Sys2Proof.Machine.execStreamBeat port beat now s
  | .fetchSectorLanded p block sector check => Sys2Proof.Machine.execFetchSectorLanded p block sector check s
  | .writebackDone p block sector => Sys2Proof.Machine.execWritebackDone p block sector s
  | .evictionStart p tier2 => Sys2Proof.Machine.execEvictionStart p tier2 s
  | .drainComplete => Sys2Proof.Machine.execDrainComplete s
  | .flashPageLanded region unit read => Sys2Proof.Machine.execFlashPageLanded region unit read s
  | .refreshComplete block => Sys2Proof.Machine.execRefreshComplete block s
  | .flashProgramDone block ok => Sys2Proof.Machine.execFlashProgramDone block ok s
  | .flashEraseDone block ok => Sys2Proof.Machine.execFlashEraseDone block ok s
  | .patrolTick channel now => Sys2Proof.Machine.execPatrolTick channel now s
  | .checkpointDue now => Sys2Proof.Machine.execCheckpointDue now s
  | .watchWindow now => Sys2Proof.Machine.execWatchWindow now s
  | .watchOnExpire now => Sys2Proof.Machine.execWatchOnExpire now s
  | .watchPktWindow => Sys2Proof.Machine.execWatchPktWindow s
  | .watchEnergy => Sys2Proof.Machine.execWatchEnergy s
  | .watchBand => Sys2Proof.Machine.execWatchBand s
  | .watchFeat => Sys2Proof.Machine.execWatchFeat s
  | .watchDense => Sys2Proof.Machine.execWatchDense s
  | .watchScore => Sys2Proof.Machine.execWatchScore s
  | .watchTest => Sys2Proof.Machine.execWatchTest s
  | .watchEnd => Sys2Proof.Machine.execWatchEnd s
  | .wakeHoldExpire now => Sys2Proof.Machine.execWakeHoldExpire now s
  | .wakeClr by_ => Sys2Proof.Machine.execWakeClr by_ s
  | .aonTimerExpire now => Sys2Proof.Machine.execAonTimerExpire now s
  | .autoIEntry now => Sys2Proof.Machine.execAutoIEntry now s
  | .autoTEntry now => Sys2Proof.Machine.execAutoTEntry now s
  | .preReleaseRestore now => Sys2Proof.Machine.execPreReleaseRestore now s
  | .wake sources first rung now => Sys2Proof.Machine.execWake sources first rung now s
  | .stateReached complete now => Sys2Proof.Machine.execStateReached complete now s
  | .rungUp complete now => Sys2Proof.Machine.execRungUp complete now s
  | .demoteIdle rung now => Sys2Proof.Machine.execDemoteIdle rung now s
  | .standaloneDemote now => Sys2Proof.Machine.execStandaloneDemote now s
  | .phyReady f now => Sys2Proof.Machine.execPhyReady f now s
  | .linkStepTimeout f now => Sys2Proof.Machine.execLinkStepTimeout f now s
  | .linkRestartTimer f now => Sys2Proof.Machine.execLinkRestartTimer f now s
  | .linkTrained f peer now => Sys2Proof.Machine.execLinkTrained f peer now s
  | .phyReadyDrop f now => Sys2Proof.Machine.execPhyReadyDrop f now s
  | .linkSilence f now => Sys2Proof.Machine.execLinkSilence f now s
  | .flitReceive f flit now => Sys2Proof.Machine.execFlitReceive f flit now s
  | .lpEnter f now => Sys2Proof.Machine.execLpEnter f now s
  | .sleepNotice f now => Sys2Proof.Machine.execSleepNotice f now s
  | .wakePattern f lane bursts now => Sys2Proof.Machine.execWakePattern f lane bursts now s
  | .fabBeacon f b now => Sys2Proof.Machine.execFabBeacon f b now s
  | .beaconTimer now => Sys2Proof.Machine.execBeaconTimer now s
  | .originExpire dev now => Sys2Proof.Machine.execOriginExpire dev now s
  | .fabClaim f b now => Sys2Proof.Machine.execFabClaim f b now s
  | .claimTimer now => Sys2Proof.Machine.execClaimTimer now s
  | .fabLsa f l now => Sys2Proof.Machine.execFabLsa f l now s
  | .lsaTimer now => Sys2Proof.Machine.execLsaTimer now s
  | .routeInstall now => Sys2Proof.Machine.execRouteInstall now s
  | .freezeEnd now => Sys2Proof.Machine.execFreezeEnd now s
  | .fabReport f src report => Sys2Proof.Machine.execFabReport f src report s
  | .fenceFrame f src unit core seq => Sys2Proof.Machine.execFenceFrame f src unit core seq s
  | .rindSum f src group bootCtr payload => Sys2Proof.Machine.execRindSum f src group bootCtr payload s
  | .fabDigest f src d => Sys2Proof.Machine.execFabDigest f src d s
  | .fabWrite f src ptag addr txn data => Sys2Proof.Machine.execFabWrite f src ptag addr txn data s
  | .writeAck f src txn frames refused => Sys2Proof.Machine.execWriteAck f src txn frames refused s
  | .ackTimeout txn now => Sys2Proof.Machine.execAckTimeout txn now s
  | .fabArrive f src barrier gen now => Sys2Proof.Machine.execFabArrive f src barrier gen now s
  | .fabRelease f src barrier gen slowest spread now => Sys2Proof.Machine.execFabRelease f src barrier gen slowest spread now s
  | .barrierTimeout c x now => Sys2Proof.Machine.execBarrierTimeout c x now s
  | .fabSecure f src ptag arg payload last => Sys2Proof.Machine.execFabSecure f src ptag arg payload last s
  | .phaseClassify c act => Sys2Proof.Machine.execPhaseClassify c act s
  | .capLoop now => Sys2Proof.Machine.execCapLoop now s
  | .powerEstimate act now => Sys2Proof.Machine.execPowerEstimate act now s
  | .calibration reading => Sys2Proof.Machine.execCalibration reading s
  | .regulatorPoll reading now => Sys2Proof.Machine.execRegulatorPoll reading now s
  | .regulatorAckTimeout now => Sys2Proof.Machine.execRegulatorAckTimeout now s
  | .pmbusStuck now => Sys2Proof.Machine.execPmbusStuck now s
  | .droop c now => Sys2Proof.Machine.execDroop c now s
  | .droopRecover c now => Sys2Proof.Machine.execDroopRecover c now s
  | .rampWindow => Sys2Proof.Machine.execRampWindow s
  | .thermalSample sensor temp now => Sys2Proof.Machine.execThermalSample sensor temp now s
  | .throttleStep c now => Sys2Proof.Machine.execThrottleStep c now s
  | .thermalTrip sensor now => Sys2Proof.Machine.execThermalTrip sensor now s
  | .tripRestart now => Sys2Proof.Machine.execTripRestart now s
  | .pllUnlock pll => Sys2Proof.Machine.execPllUnlock pll s
  | .spareRelocked pll => Sys2Proof.Machine.execSpareRelocked pll s
  | .powerDomainAck d level now => Sys2Proof.Machine.execPowerDomainAck d level now s
  | .powerOnReset inputs => Sys2Proof.Machine.execPowerOnReset inputs s
  | .instanceReset cause => Sys2Proof.Machine.execInstanceReset cause s
  | .crpReset by_ value => Sys2Proof.Machine.execCrpReset by_ value s
  | .rennetStartup inputs => Sys2Proof.Machine.execRennetStartup inputs s
  | .handover now => Sys2Proof.Machine.execHandover now s
  | .hostReady now => Sys2Proof.Machine.execHostReady now s
  | .watchdogExpire flow => Sys2Proof.Machine.execWatchdogExpire flow s
  | .rennetParity => Sys2Proof.Machine.execRennetParity s
  | .entropyTestFail => Sys2Proof.Machine.execEntropyTestFail s
  | .drbgReseed => Sys2Proof.Machine.execDrbgReseed s
  | .briningTick => Sys2Proof.Machine.execBriningTick s
  | .bnOwnerWrite owner => Sys2Proof.Machine.execBnOwnerWrite owner s
  | .bnWipeDone => Sys2Proof.Machine.execBnWipeDone s
  | .bnAbort => Sys2Proof.Machine.execBnAbort s
  | .bnCommandDone differ => Sys2Proof.Machine.execBnCommandDone differ s
  | .modadd a => Sys2Proof.Machine.execModadd a s
  | .modsub a => Sys2Proof.Machine.execModsub a s
  | .modmul a => Sys2Proof.Machine.execModmul a s
  | .modred a => Sys2Proof.Machine.execModred a s
  | .modexp a => Sys2Proof.Machine.execModexp a s
  | .modinv a => Sys2Proof.Machine.execModinv a s
  | .cmplt a => Sys2Proof.Machine.execCmplt a s
  | .keyload a => Sys2Proof.Machine.execKeyload a s
  | .randload a => Sys2Proof.Machine.execRandload a s
  | .keystore a => Sys2Proof.Machine.execKeystore a s
  | .ecmul a => Sys2Proof.Machine.execEcmul a s
  | .ecadd a => Sys2Proof.Machine.execEcadd a s
  | .signS a => Sys2Proof.Machine.execSignS a s
  | .ntt a => Sys2Proof.Machine.execNtt a s
  | .intt a => Sys2Proof.Machine.execIntt a s
  | .pmul a => Sys2Proof.Machine.execPmul a s
  | .pmac a => Sys2Proof.Machine.execPmac a s
  | .padd a => Sys2Proof.Machine.execPadd a s
  | .psub a => Sys2Proof.Machine.execPsub a s
  | .basemul a => Sys2Proof.Machine.execBasemul a s
  | .relHigh a => Sys2Proof.Machine.execRelHigh a s
  | .relZ a => Sys2Proof.Machine.execRelZ a s
  | .relHint a => Sys2Proof.Machine.execRelHint a s
  | .relComp a => Sys2Proof.Machine.execRelComp a s
  | .enec events => Sys2Proof.Machine.execEnec events s
  | .disec events => Sys2Proof.Machine.execDisec events s
  | .rstdaa => Sys2Proof.Machine.execRstdaa s
  | .entdaa addr => Sys2Proof.Machine.execEntdaa addr s
  | .setdasa staticAddr addr => Sys2Proof.Machine.execSetdasa staticAddr addr s
  | .setmwl len => Sys2Proof.Machine.execSetmwl len s
  | .setmrl len => Sys2Proof.Machine.execSetmrl len s
  | .getmwl => Sys2Proof.Machine.execGetmwl s
  | .getmrl => Sys2Proof.Machine.execGetmrl s
  | .getpid => Sys2Proof.Machine.execGetpid s
  | .getbcr => Sys2Proof.Machine.execGetbcr s
  | .getdcr => Sys2Proof.Machine.execGetdcr s
  | .getstatus => Sys2Proof.Machine.execGetstatus s
  | .mgmtMbxSend words now => Sys2Proof.Machine.execMgmtMbxSend words now s
  | .mgmtMbxRead => Sys2Proof.Machine.execMgmtMbxRead s
  | .mgmtMbxAck => Sys2Proof.Machine.execMgmtMbxAck s
  | .mgmtMbxWithdraw => Sys2Proof.Machine.execMgmtMbxWithdraw s
  | .reportRead => Sys2Proof.Machine.execReportRead s
  | .reportCount => Sys2Proof.Machine.execReportCount s
  | .mgmtStatus => Sys2Proof.Machine.execMgmtStatus s
  | .mgmtPower value => Sys2Proof.Machine.execMgmtPower value s
  | .tapReset => Sys2Proof.Machine.execTapReset s
  | .tapBypass bits => Sys2Proof.Machine.execTapBypass bits s
  | .tapIdcode => Sys2Proof.Machine.execTapIdcode s
  | .tapDebugAccess ir write addr data => Sys2Proof.Machine.execTapDebugAccess ir write addr data s
  | .partitionResetReady p now => Sys2Proof.Machine.execPartitionResetReady p now s
  | .pllRelock pll => Sys2Proof.Machine.execPllRelock pll s
  | .creditReturn port channel => Sys2Proof.Machine.execCreditReturn port channel s
  | .rateAck f now => Sys2Proof.Machine.execRateAck f now s

end Sys2Proof.Machine
end

