-- ==== Sys2Proof/WellFormed.lean ====
section
/-! DEFINITION. Which commands are well formed: the shapes that a sender must keep. A core must be one of the configuration's (R4), and a list must have the length that its rule gives it. -/

namespace Sys2Proof

/-- The place of an ECC error names a core of the configuration. -/
def wfPlace (cores : Nat) : EccPlace → Bool
  | .t0 c _ => decide (c.val < cores)
  | .checkStore c _ => decide (c.val < cores)
  | .t1 _ _ | .t2 _ _ | .streamRing _ | .ctlSram | .flcSram | .sproutSram => true

/-- The sensor is one of the configuration's (R618). -/
def wfSensor (cores : Nat) : Sensor → Bool
  | .core c => decide (c.val < cores)
  | .island _ => true

/-- The PLL is one of the configuration's (R662). -/
def wfPll (cores : Nat) : Pll → Bool
  | .core c _ => decide (c.val < cores)
  | .ts | .aon | .io | .net _ => true

/-- The power domain is one of the configuration's (R39). -/
def wfDomain (cores : Nat) : Domain → Bool
  | .core c => decide (c.val < cores)
  | .rnt | .spr | .str | .ctl | .net | .flc => true

/-- The Tved port is one of the configuration's (R637). -/
def wfPort (cores : Nat) : TvedPort → Bool
  | .memory c => decide (c.val < cores)
  | .host | .interrupt => true

/-- A well-formed command for a configuration of a number of cores. -/
def wellFormed (cores : Nat) (i : Instr) : Bool :=
  match i with
  | .registerWrite _ off _ _ => decide (off.toNat % 4 = 0)
  | .latchedReadLo _ off => decide (off.toNat % 4 = 0)
  | .hostRequest _ _ _ _ => true
  | .memResponse port _ => decide (port.val < cores)
  | .interruptResponse _ _ => true
  | .partDoorbell _ _ _ => true
  | .packetAccept _ => true
  | .partCqHead _ _ => true
  | .partHeartbeat _ _ _ => true
  | .heartbeatTimeout _ _ => true
  | .partRemap _ _ _ => true
  | .attach _ => true
  | .detach _ => true
  | .echo _ => true
  | .create _ => true
  | .resize _ => true
  | .destroy _ => true
  | .partitionResetCmd _ => true
  | .mapRange _ => true
  | .unmapRange _ => true
  | .zeroRange _ => true
  | .hintRange _ => true
  | .prefetchRange _ => true
  | .pinRange _ => true
  | .unpinRange _ => true
  | .evictRange _ => true
  | .flushRange _ => true
  | .arm _ => true
  | .armTimeout _ _ _ => true
  | .aperture _ => true
  | .loadGraph _ => true
  | .unloadGraph _ => true
  | .runGraph _ => true
  | .startGraph _ => true
  | .stopGraph _ => true
  | .loadBeat _ => true
  | .cadenceSet _ => true
  | .streamSetUp _ => true
  | .streamRelease _ => true
  | .streamBind _ => true
  | .watchLoad _ => true
  | .watchStart _ => true
  | .watchStop _ => true
  | .preWarmSet _ => true
  | .rung _ => true
  | .powerState _ => true
  | .wakeSet _ => true
  | .fabricStatus _ => true
  | .peerBind _ => true
  | .peerUnbind _ => true
  | .barrierGroupSet _ => true
  | .barrierGroupClear _ => true
  | .replicaJobSet _ => true
  | .replicaJobClear _ => true
  | .portWrite _ => true
  | .portRetrain _ => true
  | .clearFixedIdConflict _ => true
  | .fabPortRetrainWrite _ _ => true
  | .phasePreference _ => true
  | .powerCap _ => true
  | .thermal _ => true
  | .probe _ => true
  | .probeComplete _ runs => runs.all (fun r => decide (r.engine < 8 * cores))
  | .fence _ => true
  | .unFence _ runs => runs.all (fun r => decide (r.engine < 8 * cores))
  | .spdm _ => true
  | .evidence _ => true
  | .setForm _ => true
  | .setFormTimeout _ => true
  | .licenceLoad _ => true
  | .licenceDrop _ => true
  | .logSet _ => true
  | .traceSet _ => true
  | .update _ => true
  | .nonceCommand _ => true
  | .transition _ _ => true
  | .debugCertificate _ _ => true
  | .otpProgram _ _ => true
  | .finalise _ _ => true
  | .otpSupplyDrop _ _ => true
  | .regionSet _ => true
  | .regionErase _ => true
  | .flashWrite _ => true
  | .mbxDoorbellSend _ => true
  | .mbxDoorbellWithdraw _ => true
  | .mbxDoorbellAck _ => true
  | .mbxTimeoutExpire _ _ => true
  | .identity _ => true
  | .bootStatus _ => true
  | .imageBegin _ => true
  | .imageData _ => true
  | .imageEnd _ => true
  | .imageAbort _ => true
  | .imageRun _ => true
  | .imageTransferTimeout _ => true
  | .blobLoad _ => true
  | .blobStore _ => true
  | .rindInfo _ => true
  | .rindRead _ => true
  | .spdmBegin _ => true
  | .spdmData _ => true
  | .spdmEnd _ => true
  | .spdmRead _ => true
  | .nonce _ => true
  | .nonceExpire _ => true
  | .reqBegin _ => true
  | .reqData _ => true
  | .reqEnd _ _ => true
  | .enrol _ _ _ => true
  | .getVersion _ => true
  | .getCapabilities _ _ _ => true
  | .negotiateAlgorithms _ _ => true
  | .getDigests _ => true
  | .getCertificate _ slot offset len => decide (slot < 256) && decide (offset < 65536) && decide (len < 65536)
  | .spdmChallenge _ slot nonce => decide (slot < 256) && decide (nonce.length = 32)
  | .getMeasurements _ index signed nonce => decide (index < 256) && decide (nonce.length = (if signed then 32 else 0))
  | .keyExchange _ slot _ => decide (slot < 256)
  | .spdmFinish _ _ _ => true
  | .spdmHeartbeat _ _ => true
  | .keyUpdate _ _ => true
  | .endSession _ _ => true
  | .chunkGet _ handle seq => decide (handle < 256) && decide (seq < 65536)
  | .setHello _ setId nonce => decide (setId.length = 32) && decide (nonce.length = 32)
  | .setOffer _ offer => decide (offer.nonce.length = 32)
  | .setKey _ key => decide (key.gcmNonce.length = 12) && decide (key.tag.length = 16)
  | .setConfirm _ mac => decide (mac.length = 48)
  | .setDone _ setId _ => decide (setId.length = 32)
  | .setAbort _ setId _ => decide (setId.length = 32)
  | .taskDispatch c => decide (c.val < cores)
  | .taskReleaseTime c _ _ => decide (c.val < cores)
  | .operandsReady c _ => decide (c.val < cores)
  | .matmul c _ => decide (c.val < cores)
  | .conv c _ => decide (c.val < cores)
  | .convDw c _ => decide (c.val < cores)
  | .attn c _ => decide (c.val < cores)
  | .attnMerge c _ => decide (c.val < cores)
  | .normRms c _ => decide (c.val < cores)
  | .normLayer c _ => decide (c.val < cores)
  | .rope c _ => decide (c.val < cores)
  | .gateExperts c _ => decide (c.val < cores)
  | .combine c _ => decide (c.val < cores)
  | .quant c _ => decide (c.val < cores)
  | .dequant c _ => decide (c.val < cores)
  | .elem c _ => decide (c.val < cores)
  | .reduce c _ => decide (c.val < cores)
  | .topk c _ => decide (c.val < cores)
  | .moveTask c => decide (c.val < cores)
  | .decompress c => decide (c.val < cores)
  | .promoteTask c _ => decide (c.val < cores)
  | .waitForCadence c _ => decide (c.val < cores)
  | .waitExpire c _ _ => decide (c.val < cores)
  | .signalTask c _ => decide (c.val < cores)
  | .fabricBarrier c _ => decide (c.val < cores)
  | .tileComplete c _ _ => decide (c.val < cores)
  | .taskDone c _ => decide (c.val < cores)
  | .signalArrive c _ => decide (c.val < cores)
  | .coreDoneArrive c src _ => decide (c.val < cores) && decide (src.val < cores)
  | .ctxParity c _ => decide (c.val < cores)
  | .coreReset c => decide (c.val < cores)
  | .engineFence c _ => decide (c.val < cores)
  | .residueRepeatDone c _ _ => decide (c.val < cores)
  | .duplicateDone c _ _ => decide (c.val < cores)
  | .forceWaitExpire c _ => decide (c.val < cores)
  | .settleTileDone c _ _ => decide (c.val < cores)
  | .parityFail _ _ _ => true
  | .eccCorrected _ place _ => wfPlace cores place
  | .eccUncorrectable place _ => wfPlace cores place
  | .replicaVote _ _ => true
  | .rindEntryWrite => true
  | .rindDroppedTick => true
  | .ageRise c _ _ => decide (c.val < cores)
  | .cadencePulse _ _ => true
  | .encoderStrobe _ _ => true
  | .cadenceLoss _ => true
  | .synthesisedBeat _ => true
  | .standingRelease _ _ => true
  | .runRelease _ _ => true
  | .taskDeadline c _ _ => decide (c.val < cores)
  | .syncExchange _ _ => true
  | .fabSync _ _ => true
  | .fabBeat _ _ _ _ => true
  | .streamBeat _ _ _ => true
  | .fetchSectorLanded _ _ _ _ => true
  | .writebackDone _ _ _ => true
  | .evictionStart _ _ => true
  | .drainComplete => true
  | .flashPageLanded _ _ _ => true
  | .refreshComplete _ => true
  | .flashProgramDone _ _ => true
  | .flashEraseDone _ _ => true
  | .patrolTick _ _ => true
  | .checkpointDue _ => true
  | .watchWindow _ => true
  | .watchOnExpire _ => true
  | .watchPktWindow => true
  | .watchEnergy => true
  | .watchBand => true
  | .watchFeat => true
  | .watchDense => true
  | .watchScore => true
  | .watchTest => true
  | .watchEnd => true
  | .wakeHoldExpire _ => true
  | .wakeClr _ => true
  | .aonTimerExpire _ => true
  | .autoIEntry _ => true
  | .autoTEntry _ => true
  | .preReleaseRestore _ => true
  | .wake sources first _ _ => sources.getLsbD first.val
  | .stateReached _ _ => true
  | .rungUp _ _ => true
  | .demoteIdle _ _ => true
  | .standaloneDemote _ => true
  | .phyReady _ _ => true
  | .linkStepTimeout _ _ => true
  | .linkRestartTimer _ _ => true
  | .linkTrained _ peer _ => decide (peer.rate.toNat < 3) && decide (peer.lanes.toNat < 3)
  | .phyReadyDrop _ _ => true
  | .linkSilence _ _ => true
  | .flitReceive _ flit _ => decide (flit.bytes.length = 112)
  | .lpEnter _ _ => true
  | .sleepNotice _ _ => true
  | .wakePattern _ _ _ _ => true
  | .fabBeacon _ _ _ => true
  | .beaconTimer _ => true
  | .originExpire _ _ => true
  | .fabClaim _ _ _ => true
  | .claimTimer _ => true
  | .fabLsa _ l _ => decide (l.links.length ≤ 6)
  | .lsaTimer _ => true
  | .routeInstall _ => true
  | .freezeEnd _ => true
  | .fabReport _ _ report => decide (report.length = 64)
  | .fenceFrame _ _ _ _ _ => true
  | .rindSum _ _ _ _ _ => true
  | .fabDigest _ _ _ => true
  | .fabWrite _ _ _ _ _ _ => true
  | .writeAck _ _ _ _ _ => true
  | .ackTimeout _ _ => true
  | .fabArrive _ _ _ _ _ => true
  | .fabRelease _ _ _ _ _ _ _ => true
  | .barrierTimeout c _ _ => decide (c.val < cores)
  | .fabSecure _ _ _ _ _ _ => true
  | .phaseClassify c _ => decide (c.val < cores)
  | .capLoop _ => true
  | .powerEstimate act _ => decide (act.length ≤ cores)
  | .calibration _ => true
  | .regulatorPoll _ _ => true
  | .regulatorAckTimeout _ => true
  | .pmbusStuck _ => true
  | .droop c _ => decide (c.val < cores)
  | .droopRecover c _ => decide (c.val < cores)
  | .rampWindow => true
  | .thermalSample sensor _ _ => wfSensor cores sensor
  | .throttleStep c _ => decide (c.val < cores)
  | .thermalTrip sensor _ => wfSensor cores sensor
  | .tripRestart _ => true
  | .pllUnlock pll => wfPll cores pll
  | .spareRelocked pll => wfPll cores pll
  | .powerDomainAck d _ _ => wfDomain cores d
  | .powerOnReset _ => true
  | .instanceReset _ => true
  | .crpReset _ _ => true
  | .rennetStartup _ => true
  | .handover _ => true
  | .hostReady _ => true
  | .watchdogExpire _ => true
  | .rennetParity => true
  | .entropyTestFail => true
  | .drbgReseed => true
  | .briningTick => true
  | .bnOwnerWrite _ => true
  | .bnWipeDone => true
  | .bnAbort => true
  | .bnCommandDone _ => true
  | .modadd _ => true
  | .modsub _ => true
  | .modmul _ => true
  | .modred _ => true
  | .modexp _ => true
  | .modinv _ => true
  | .cmplt _ => true
  | .keyload _ => true
  | .randload _ => true
  | .keystore _ => true
  | .ecmul _ => true
  | .ecadd _ => true
  | .signS _ => true
  | .ntt _ => true
  | .intt _ => true
  | .pmul _ => true
  | .pmac _ => true
  | .padd _ => true
  | .psub _ => true
  | .basemul _ => true
  | .relHigh _ => true
  | .relZ _ => true
  | .relHint _ => true
  | .relComp _ => true
  | .enec _ => true
  | .disec _ => true
  | .rstdaa => true
  | .entdaa _ => true
  | .setdasa _ _ => true
  | .setmwl _ => true
  | .setmrl _ => true
  | .getmwl => true
  | .getmrl => true
  | .getpid => true
  | .getbcr => true
  | .getdcr => true
  | .getstatus => true
  | .mgmtMbxSend words _ => decide (words.length = 8)
  | .mgmtMbxRead => true
  | .mgmtMbxAck => true
  | .mgmtMbxWithdraw => true
  | .reportRead => true
  | .reportCount => true
  | .mgmtStatus => true
  | .mgmtPower _ => true
  | .tapReset => true
  | .tapBypass _ => true
  | .tapIdcode => true
  | .tapDebugAccess _ _ _ _ => true
  | .partitionResetReady _ _ => true
  | .pllRelock pll => wfPll cores pll
  | .creditReturn port _ => wfPort cores port
  | .rateAck _ _ => true

/-- The core counts of R4. -/
def legalCores (n : Nat) : Bool := [1, 2, 4, 8, 16, 32, 64].contains n

end Sys2Proof
end

