-- ==== Sys2Proof/Safety.lean ====
section
/-! DEFINITION. What a safe run is, and the words in which statements speak of commands: the state a command leaves, a packet that starts, a mailbox message that is served. -/

namespace Sys2Proof

/-- A state from which the next step answers a next state. -/
def CanStep (s : Machine.State) : Prop := ∃ t, Machine.step s = .next t

/-- The first `k` steps all answer a next state. -/
def SafeFor : Nat → Machine.State → Prop
  | 0, _ => True
  | k + 1, s => ∃ t, Machine.step s = .next t ∧ SafeFor k t

/-- The configuration is one of R4, and every waiting command is well formed for it. -/
abbrev QueueOk (s : Machine.State) : Prop := legalCores s.ncores = true ∧ ∀ c ∈ s.pending, wellFormed s.ncores c = true

/-- A command's effect with the queue and the core count of the state it ran in, neither of which a command changes. -/
def kept (s t : Machine.State) : Machine.State := { t with pending := s.pending, chip.ncores := s.chip.ncores }

/-- The packet `k` is the oldest in hand of partition `p`, has the opcode, may start (R388), and the session is ATTACHED (R400). -/
abbrev Starts (s : Machine.State) (p : PartId) (op : Nat) (k : Machine.Packet) : Prop :=
  Machine.startable s p.val op = some k ∧ (s.part p.val).session = .attached

/-- The range of a memory command is whole blocks, at least one, within the address space (R690). -/
abbrev WholeBlocks (k : Machine.Packet) : Prop :=
  Machine.addrOk k 0 = true ∧ Machine.parAddr k 0 % Machine.blockBytes = 0 ∧ Machine.rangeLen k % Machine.blockBytes = 0 ∧
    0 < Machine.rangeLen k ∧ Machine.parAddr k 0 + Machine.rangeLen k ≤ 2 ^ 48

/-- The mapped blocks of that range. -/
def namedBlocks (s : Machine.State) (p : PartId) (k : Machine.Packet) : List Nat :=
  Machine.mappedIn s p.val (Machine.parAddr k 0) (Machine.rangeLen k)

/-- The reply DONE without an object. -/
def done (s : Machine.State) (p : PartId) (k : Machine.Packet) : Machine.State := Machine.reply s p.val k 0 0 0xFFFFFFFF 0

/-- The message that waits in mailbox `m`, with a code, which Rennet is ready to serve (R423, R478). -/
abbrev Serves (s : Machine.State) (m : MbxId) (code : Nat) : Prop :=
  (s.mbx m.val).outFull = true ∧ (s.mbx m.val).served = false ∧ Machine.rennetServes s = true ∧ Machine.mailCode s m.val = code

/-- The state in which a message's effect begins: Rennet refreshes its watchdog at every message it serves (R458). -/
def serving (s : Machine.State) : Machine.State := { s with rennet.wdogAt := s.ts }

/-- The words of that message after the first. -/
def mailWords (s : Machine.State) (m : MbxId) : List W32 := (s.mbx m.val).out.drop 1

/-- A write of `d` to an event register in the cycle in which the hardware sets the bits of `hw`, judged bit by bit (R21): a flag written 1 clears unless the hardware sets it too, and RECUR rises by one, saturating, when some written flag is set in that cycle. -/
def W1cJudged (old new : Machine.EventReg) (mask d hw : W32) : Prop :=
  (∀ i, i < 32 → new.flags.getLsbD i = ((old.flags.getLsbD i && !(d.getLsbD i && mask.getLsbD i)) || (hw.getLsbD i && mask.getLsbD i))) ∧
  new.recur = (if ∃ i, i < 32 ∧ d.getLsbD i = true ∧ hw.getLsbD i = true ∧ mask.getLsbD i = true then BitVec.ofNat 8 (min (old.recur.toNat + 1) 255) else old.recur)

/-- Every ring command but attach, with its opcode (R400). The supply input and the probe results are operands of four and one of them. -/
def ringCommands (p : PartId) (ok : Bool) (runs : List ProbeDiff) : List (Instr × Nat) :=
  [ (Instr.detach p, 0x0102), (.echo p, 0x0103), (.create p, 0x0201), (.resize p, 0x0202), (.destroy p, 0x0203), (.partitionResetCmd p, 0x0204), (.mapRange p, 0x0301),
    (.unmapRange p, 0x0302), (.zeroRange p, 0x0303), (.hintRange p, 0x0304), (.prefetchRange p, 0x0305), (.pinRange p, 0x0306), (.unpinRange p, 0x0307),
    (.evictRange p, 0x0308), (.flushRange p, 0x0309), (.arm p, 0x030A), (.aperture p, 0x030B), (.loadGraph p, 0x0401), (.unloadGraph p, 0x0402), (.runGraph p, 0x0403),
    (.startGraph p, 0x0404), (.stopGraph p, 0x0405), (.loadBeat p, 0x0501), (.cadenceSet p, 0x0502), (.streamSetUp p, 0x0601), (.streamRelease p, 0x0602),
    (.streamBind p, 0x0603), (.watchLoad p, 0x0701), (.watchStart p, 0x0702), (.watchStop p, 0x0703), (.preWarmSet p, 0x0704), (.rung p, 0x0705), (.powerState p, 0x0706),
    (.wakeSet p, 0x0707), (.fabricStatus p, 0x0801), (.peerBind p, 0x0802), (.peerUnbind p, 0x0803), (.barrierGroupSet p, 0x0804), (.barrierGroupClear p, 0x0805),
    (.replicaJobSet p, 0x0806), (.replicaJobClear p, 0x0807), (.portWrite p, 0x0808), (.portRetrain p, 0x0808), (.clearFixedIdConflict p, 0x0808),
    (.phasePreference p, 0x0901), (.powerCap p, 0x0902), (.thermal p, 0x0903), (.probe p, 0x0A01), (.fence p, 0x0A02), (.unFence p runs, 0x0A03), (.spdm p, 0x0B01),
    (.evidence p, 0x0B02), (.setForm p, 0x0C01), (.licenceLoad p, 0x0C02), (.licenceDrop p, 0x0C03), (.logSet p, 0x0D01), (.traceSet p, 0x0D02), (.update p, 0x0D03),
    (.nonceCommand p, 0x0E01), (.transition p ok, 0x0E02), (.debugCertificate p ok, 0x0E03), (.otpProgram p ok, 0x0E04), (.finalise p ok, 0x0E05), (.regionSet p, 0x0F01),
    (.regionErase p, 0x0F02), (.flashWrite p, 0x0F03) ]

/-- The ring commands that need one right whatever their parameters, with opcode and right (R430). -/
def rightCommands (p : PartId) (ok : Bool) (runs : List ProbeDiff) : List (Instr × Nat × Nat) :=
  [ (Instr.create p, 0x0201, 0), (.resize p, 0x0202, 0), (.destroy p, 0x0203, 0), (.loadBeat p, 0x0501, 1), (.cadenceSet p, 0x0502, 1), (.watchLoad p, 0x0701, 2),
    (.watchStart p, 0x0702, 2), (.watchStop p, 0x0703, 2), (.preWarmSet p, 0x0704, 2), (.rung p, 0x0705, 2), (.powerState p, 0x0706, 2), (.wakeSet p, 0x0707, 2),
    (.peerBind p, 0x0802, 3), (.peerUnbind p, 0x0803, 3), (.barrierGroupSet p, 0x0804, 3), (.barrierGroupClear p, 0x0805, 3), (.replicaJobSet p, 0x0806, 3),
    (.replicaJobClear p, 0x0807, 3), (.portWrite p, 0x0808, 3), (.portRetrain p, 0x0808, 3), (.clearFixedIdConflict p, 0x0808, 3), (.phasePreference p, 0x0901, 4),
    (.powerCap p, 0x0902, 4), (.thermal p, 0x0903, 4), (.probe p, 0x0A01, 5), (.fence p, 0x0A02, 5), (.unFence p runs, 0x0A03, 5), (.setForm p, 0x0C01, 6),
    (.licenceLoad p, 0x0C02, 6), (.licenceDrop p, 0x0C03, 6), (.traceSet p, 0x0D02, 8), (.update p, 0x0D03, 9), (.transition p ok, 0x0E02, 10),
    (.debugCertificate p ok, 0x0E03, 10), (.otpProgram p ok, 0x0E04, 10), (.finalise p ok, 0x0E05, 10), (.regionSet p, 0x0F01, 11), (.regionErase p, 0x0F02, 11),
    (.flashWrite p, 0x0F03, 11) ]

end Sys2Proof
end

