-- ==== Sys2Proof/Certificates/Slice0/Obligations.lean ====
section
/-! DEFINITION. The statements for the provers, each citing the rules of spec/ it states. -/

open Sys2Proof Sys2Proof.Machine

/-- A step takes the command at the front of the queue and is that command's exec on the state with the queue's rest. -/
def Obligations.StepRunsFrontCommand : Prop :=
  ∀ (c : Instr) (rest : List Instr) (s : State), s.pending = c :: rest → step s = exec c { s with pending := rest }

/-- The model's choice (notes/assumptions/4): on an empty queue a step is one cycle of the timestamp counter (R213), and with no offset to slew nothing else changes: 1 ns in A, I and T with PLL_TS locked, one reference period of 20 ns in W and S and while PLL_TS is out of lock, none in O. A command changes neither the queue nor the core count: the commands run in the order in which they were sent, each of them once. -/
def Obligations.TimeAndQueue : Prop :=
  (
  ∀ s : State, s.pending = [] → s.cad.slew.natAbs ≤ 8 →
    ∃ n : Nat, step s = .next { s with ts := s.ts + BitVec.ofNat 64 n } ∧
      (s.spr.pstate = .o → n = 0) ∧ (s.spr.pstate = .w ∨ s.spr.pstate = .s → n = 20) ∧
      ((s.spr.pstate = .a ∨ s.spr.pstate = .i ∨ s.spr.pstate = .t) → n = if s.crp.pllTs then 1 else 20)
  ) ∧
  (
  ∀ (c : Instr) (rest : List Instr) (s t : State), s.pending = c :: rest → step s = .next t → t.pending = rest ∧ t.ncores = s.ncores
  )

/-- What registers read right after reset, at the reset values that the register tables of chapters 05 to 17 give: the cadence, memory, flash, Sprout, fabric, reliability, power and mailbox blocks, a partition page, and unassigned offsets (R20). -/
def Obligations.ResetRegisterValues : Prop :=
  State.reset.pending = [] ∧ State.reset.ts = 0 ∧
  (∀ e ∈ ([(0x30000, 0x420), (0x30028, 1), (0x30030, 0x103), (0x40000, 0x100803), (0x4000C, 0x40),
      (0x50010, 0x30032), (0x50014, 0x400), (0x50100, 0x15), (0x51000, 0x3F), (0x60018, 0x804), (0x70000, 0x80), (0x7000C, 0xC350), (0x70010, 0x1388),
      (0x70014, 7), (0x70018, 0xC8), (0x7001C, 0x3C), (0x8000C, 0x6F), (0x80014, 0x186A0), (0x80018, 0x2710), (0x8001C, 0x2710), (0x80020, 0x32),
      (0x80024, 2), (0x80028, 0x64), (0x90050, 0x1F40), (0x92010, 0x3E8), (0x20004, 0x5F), (0x20008, 0x32), (0x2000C, 0x102), (0x20030, 0x1000),
      (0x800010, 0xFA), (0x800400, 0x10000), (0x2001001C, 2), (0x0FFFFC, 0), (0x3000000, 0)] : List (Nat × W32)), regRead State.reset e.1 = e.2)

/-- The invariant of the block: the core count is one of R4, and every waiting command is well formed for it. Every step keeps it, whatever the command did. -/
def Obligations.StepKeepsQueueOk : Prop :=
  ∀ s t : State, QueueOk s → step s = .next t → QueueOk t

/-- The invariant holds right after reset. -/
def Obligations.ResetQueueOk : Prop :=
  QueueOk State.reset

/-- With the invariant, no step faults; the one command that may be refused is a debug access under an open right whose unit the manual does not give (R659; notes/assumptions/46). -/
def Obligations.OnlyDebugAccessStops : Prop :=
  ∀ s : State, QueueOk s →
    (∃ t, step s = .next t) ∨
    (∃ ir write addr data rest, s.pending = Instr.tapDebugAccess ir write addr data :: rest ∧ step s = .refused .debugUnitUnspecified)

/-- Events of a core that the configuration lacks (R4) are faults, and leave no next state. In a critical trip the clocks of the cores are stopped (R619): the events of their clocked logic have no effect. -/
def Obligations.MissingAndStoppedCores : Prop :=
  (
  ∀ (s : State) (c : CoreId) (e : EngId) (x : CtxId) (now : W64), s.ncores ≤ c.val →
    ∀ i ∈ [Instr.taskDispatch c, .taskReleaseTime c x now, .operandsReady c e, .matmul c e, .conv c e, .convDw c e, .attn c e, .attnMerge c e,
        .normRms c e, .normLayer c e, .rope c e, .gateExperts c e, .combine c e, .quant c e, .dequant c e, .elem c e, .reduce c e, .topk c e,
        .moveTask c, .decompress c, .promoteTask c x, .waitForCadence c x, .waitExpire c x now, .signalTask c x, .fabricBarrier c x,
        .barrierTimeout c x now, .tileComplete c e .none, .taskDone c x, .coreDoneArrive c c 0, .ctxParity c none, .coreReset c, .engineFence c e,
        .residueRepeatDone c e true, .duplicateDone c e [], .forceWaitExpire c e, .settleTileDone c e [], .ageRise c x now, .taskDeadline c x now,
        .droop c now, .droopRecover c now, .throttleStep c now],
      exec i s = .fault .noSuchUnit
  ) ∧
  (
  ∀ (s : State) (c : CoreId) (e : EngId) (x : CtxId) (now : W64), s.pwr.trip = true → c.val < s.ncores →
    ∀ i ∈ [Instr.operandsReady c e, .matmul c e, .conv c e, .convDw c e, .attn c e, .attnMerge c e,
        .normRms c e, .normLayer c e, .rope c e, .gateExperts c e, .combine c e, .quant c e, .dequant c e, .elem c e, .reduce c e, .topk c e,
        .moveTask c, .decompress c, .promoteTask c x, .waitForCadence c x, .waitExpire c x now, .signalTask c x, .fabricBarrier c x,
        .tileComplete c e .none, .taskDone c x, .coreDoneArrive c c 0, .residueRepeatDone c e true, .duplicateDone c e [],
        .forceWaitExpire c e, .settleTileDone c e [], .ageRise c x now, .droop c now, .throttleStep c now],
      exec i s = .next s
  )

/-- R21 over every event register of the block, written by an initiator that may write it: a flag that the hardware sets in the cycle of the write stays set, every other written flag clears, flags not written are as they were or set, and RECUR rises by one for the cycle when at least one flag collides. No other state changes. Commands whose next state it gives, under conditions on the state and the operands alone: registerWrite. -/
def Obligations.W1cJudgedBitByBit : Prop :=
  ∀ (s : State) (init : Requester) (d hw : W32), legalCores s.ncores = true →
    (∀ e ∈ ([(0x24, 0x3F, fun s => s.otp.events), (0x100, 0xFF, fun s => s.ports.events), (0x1000C, 7, fun s => s.crp.events), (0x20024, 0x7F, fun s => s.pwr.events), (0x30008, 0x7F, fun s => s.cad.events),
        (0x40008, 0x1FF, fun s => s.rel.events), (0x5000C, 0x3FF, fun s => s.fab.events), (0x60014, 0x3F, fun s => s.mem.events), (0x62008, 0x1F, fun s => s.mem.sealEvents), (0x70008, 0x3F, fun s => s.press.events),
        (0x80008, 0xFF, fun s => s.spr.events), (0x92020, 0x1F, fun s => s.rennet.events), (0x20010020, 0x1F, fun s => s.bn.events)] : List (Nat × W32 × (State → EventReg))), mayWrite s init e.1 = true →
      ∃ t, exec (.registerWrite init (BitVec.ofNat 32 e.1) d hw) s = .next t ∧ W1cJudged (e.2.2 s) (e.2.2 t) e.2.1 d hw ∧ t = { s with
        otp.events := t.otp.events, ports.events := t.ports.events, crp.events := t.crp.events, pwr.events := t.pwr.events, cad.events := t.cad.events, rel.events := t.rel.events, fab.events := t.fab.events
        mem.events := t.mem.events, mem.sealEvents := t.mem.sealEvents, press.events := t.press.events, spr.events := t.spr.events, rennet.events := t.rennet.events, bn.events := t.bn.events }) ∧
    (∀ m : Fin 64, mayWrite s init (0x90048 + m.val * 0x80) = true → ∃ t, exec (.registerWrite init (BitVec.ofNat 32 (0x90048 + m.val * 0x80)) d hw) s = .next t ∧
      W1cJudged (s.mbx m.val).events (t.mbx m.val).events 7 d hw ∧ t = s.modMbx m.val (fun x => { x with events := (t.mbx m.val).events })) ∧
    (∀ n : Fin 24, mayWrite s init (0xA0004 + n.val * 0x20) = true → ∃ t, exec (.registerWrite init (BitVec.ofNat 32 (0xA0004 + n.val * 0x20)) d hw) s = .next t ∧
      W1cJudged (s.stream n.val).events (t.stream n.val).events 7 d hw ∧ t = s.modStream n.val (fun x => { x with events := (t.stream n.val).events })) ∧
    (∀ (c : CoreId) (e : EngId), c.val < s.ncores → (s.core c.val).on = true →
      (mayWrite s init ((16 + c.val) * 0x10000 + 8) = true → ∃ t, exec (.registerWrite init (BitVec.ofNat 32 ((16 + c.val) * 0x10000 + 8)) d hw) s = .next t ∧
        W1cJudged (s.core c.val).events (t.core c.val).events 0xF d hw ∧ t = s.modCore c.val (fun x => { x with events := (t.core c.val).events })) ∧
      (mayWrite s init ((16 + c.val) * 0x10000 + 0x404 + e.val * 0x20) = true → ∃ t, exec (.registerWrite init (BitVec.ofNat 32 ((16 + c.val) * 0x10000 + 0x404 + e.val * 0x20)) d hw) s = .next t ∧
        W1cJudged (s.engine c.val e.val).events (t.engine c.val e.val).events 0x1F d hw ∧ t = s.modEngine c.val e.val (fun x => { x with events := (t.engine c.val e.val).events }))) ∧
    (∀ p : PartId, mayWrite s init ((0x80 + p.val) * 0x10000 + 8) = true → ∃ t, exec (.registerWrite init (BitVec.ofNat 32 ((0x80 + p.val) * 0x10000 + 8)) d hw) s = .next t ∧
      W1cJudged (s.part p.val).events (t.part p.val).events 0x1F d hw ∧ t = s.modPart p.val (fun x => { x with events := (t.part p.val).events }))

/-- LATCHED_READ_LO by Rennet on the 64-bit counters: reading the LO half latches the HI half, and nothing else changes (R242, R300, R335, R453, R487, R623, R660). Fields whose writes the tables bound take a value in range and ignore another, the field keeping its value: PWR_THROTTLE (R623), MEM_WATERMARK (R299), PART_HB_LIMIT (R392), SPR_WATCH_PERIOD (R335), and the locked MEM_T3_SIZE (R299). WAKE_CLR (R314), CRP_RESET (R668) and FAB_PORT_RETRAIN_WRITE (R379) by an initiator that may write their registers. WAKE_CLR deasserts the wake output; 0x0000_A5A5 written to CRP_RESET starts an instance reset of cause 0x8 and any other value does nothing; RETRAIN counts a retrain, and on an enabled port with a ready PHY and no retrain in the last second it starts link bring-up and changes the fabric block alone, beside the free values drawn for the LSA of a link that leaves UP. Commands whose next state it gives, under conditions on the state and the operands alone: registerWrite, latchedReadLo, fabPortRetrainWrite, wakeClr, crpReset. -/
def Obligations.RegisterFields : Prop :=
  (
  ∀ (s : State) (p : PartId), legalCores s.ncores = true →
    exec (.latchedReadLo (byIsland 1) 0x30018) s = .next { s with cad.tsLatch := BitVec.ofNat 32 (s.ts.toNat / 2 ^ 32) } ∧
    exec (.latchedReadLo (byIsland 1) 0x30020) s = .next { s with cad.beatLatch := BitVec.ofNat 32 (s.cad.beatTs.toNat / 2 ^ 32) } ∧
    exec (.latchedReadLo (byIsland 1) 0x30010) s = .next { s with cad.extLatch := BitVec.ofNat 32 (extTime s / 2 ^ 32) } ∧
    exec (.latchedReadLo (byIsland 1) 0x70020) s = .next { s with press.readsLatch := BitVec.ofNat 32 (s.press.reads.toNat / 2 ^ 32) } ∧
    exec (.latchedReadLo (byIsland 1) 0x80030) s = .next { s with spr.hitTsLatch := BitVec.ofNat 32 (s.spr.hitTs.toNat / 2 ^ 32) } ∧
    exec (.latchedReadLo (byIsland 1) 0x92014) s = .next { s with rennet.versionLatch := BitVec.ofNat 32 (s.rennet.version.toNat / 2 ^ 32) } ∧
    exec (.latchedReadLo (byIsland 1) 0x00114) s = .next { s with ports.errLatch := BitVec.ofNat 16 (s.ports.memErrAddr.toNat / 2 ^ 32) } ∧
    exec (.latchedReadLo (byIsland 1) (BitVec.ofNat 26 ((0x80 + p.val) * 0x10000 + 0x130))) s =
      .next (s.modPart p.val (fun q => { q with intLatch := BitVec.ofNat 32 (q.intAddr.toNat / 2 ^ 32) }))
  ) ∧
  (
  ∀ (s : State) (p : PartId) (d : W32), legalCores s.ncores = true →
    exec (.registerWrite (byIsland 1) 0x20004 d 0) s = .next { s with pwr.throttle := if 85 ≤ d.toNat % 128 ∧ d.toNat % 128 ≤ 115 then d.setWidth 7 else s.pwr.throttle } ∧
    exec (.registerWrite (byIsland 1) 0x60018 d 0) s = .next (if d.toNat / 256 % 64 ≤ d.toNat % 64 then s else
      { s with mem.low := d.setWidth 6, mem.high := BitVec.ofNat 6 (d.toNat / 256 % 64) }) ∧
    exec (.registerWrite (byIsland 1) 0x80014 d 0) s = .next { s with spr.period := if 1000 ≤ d.toNat ∧ d.toNat ≤ 10000000 then d else s.spr.period } ∧
    exec (.registerWrite (byIsland 1) 0x60008 d 0) s = .next { s with mem.t3Size := if s.mem.lock = false ∧ 8 ≤ d.toNat then d else s.mem.t3Size } ∧
    exec (.registerWrite (byHost p.val) (BitVec.ofNat 32 ((0x80 + p.val) * 0x10000 + 0x10)) d 0) s = .next (s.modPart p.val (fun q => { q with
      hbLimit := if d.toNat % 65536 = 0 ∨ 10 ≤ d.toNat % 65536 then d.setWidth 16 else q.hbLimit }))
  ) ∧
  (
  (∀ (s : State) (init : Requester), mayWrite s init 0x80000 = true →
    ∃ t, exec (.wakeClr init) s = .next t ∧ t.spr.wakeOut = false ∧ t.ports.wakeO = false ∧ t = { s with spr := t.spr, ports := { s.ports with wakeO := false } }) ∧
  (∀ (s : State) (init : Requester), mayWrite s init 0x10000 = true → exec (.crpReset init 0xA5A5) s = .next (kept s (instanceReset s 8))) ∧
  (∀ (s : State) (init : Requester) (v : W32), mayWrite s init 0x10000 = true → v ≠ 0xA5A5 → exec (.crpReset init v) s = .next s) ∧
  (∀ (s : State) (init : Requester) (f : FabPort), mayWrite s init (0x50100 + f.val * 0x20) = true →
    ∃ t, exec (.fabPortRetrainWrite init f) s = .next t ∧ (t.port f.val).retrains = satInc (s.port f.val).retrains ∧
      ((s.port f.val).en = true → (s.port f.val).phyReady = true → (s.port f.val).rateMax ≠ 3 → (s.port f.val).lanesMax ≠ 3 → (s.port f.val).retrainTs = [] →
        (t.port f.val).state = .training ∧ t = { s with fab := t.fab, freeNo := t.freeNo }))
  )

/-- A host partition writes no page or mailbox of another: the write is refused, counted in PART_GATE_REFUSED and PORT_HOST_REFUSED, sets HOST_ID (R438, R640), and changes nothing else. -/
def Obligations.ForeignPagesRefuseWrites : Prop :=
  ∀ (s : State) (p q : PartId) (off : Nat) (d hw : W32), legalCores s.ncores = true → p ≠ q → off < 0x10000 → off % 4 = 0 →
    exec (.registerWrite (byHost p.val) (BitVec.ofNat 32 ((0x80 + q.val) * 0x10000 + off)) d hw) s =
      .next { s.modPart p.val (fun x => { x with gateRefused := satInc x.gateRefused }) with
        ports.hostRefused := satInc s.ports.hostRefused, ports.events := raiseEv s.ports.events 1 }

/-- The mailbox doorbell (R424): SEND of a message with a listed code queues it with its sender's ID and time; WITHDRAW removes an outbound message without raising EMPTY; ACK drains an inbound message when no reply waits for the slot. Only the mailbox changes. No ACK within MBX_TIMEOUT µs of SEND: TIMEOUT is set, in the status and in MBX_EVENTS, and the message stays queued (R424). Commands whose next state it gives, under conditions on the state and the operands alone: mbxDoorbellSend, mbxDoorbellWithdraw, mbxDoorbellAck, mbxTimeoutExpire. -/
def Obligations.Mailboxes : Prop :=
  (
  ∀ (s : State) (m : MbxId),
    ((s.mbx m.val).outFull = false → mailCodes.contains (mailCode s m.val) = true →
      exec (.mbxDoorbellSend m) s = .next (s.modMbx m.val (fun x => { x with
        outFull := true, outSender := if m.val < 64 then BitVec.ofNat 16 m.val else if m.val = 64 then 0x2000 else 0xFFFF
        sentAt := s.ts, timeout := false, served := false, reply := none }))) ∧
    ((s.mbx m.val).outFull = true →
      exec (.mbxDoorbellWithdraw m) s = .next (s.modMbx m.val (fun x => { x with outFull := false, timeout := false, served := false, reply := none }))) ∧
    ((s.mbx m.val).inValid = true → (s.mbx m.val).reply = none →
      exec (.mbxDoorbellAck m) s = .next (s.modMbx m.val (fun x => { x with inValid := false })))
  ) ∧
  (
  ∀ (s : State) (m : MbxId) (now : W64), s.ts.toNat ≤ now.toNat → (s.mbx m.val).outFull = true → (s.mbx m.val).timeout = false →
    (s.mbx m.val).sentAt.toNat + (s.mbx m.val).limit.toNat * 1000 ≤ now.toNat →
    ∃ t, exec (.mbxTimeoutExpire m now) s = .next t ∧ (t.mbx m.val).timeout = true ∧ (t.mbx m.val).outFull = true ∧
      (t.mbx m.val).out = (s.mbx m.val).out ∧ (t.mbx m.val).events.flags.getLsbD 1 = true ∧
      t = { s with ts := t.ts, mbxs := t.mbxs, parts := t.parts, ports := t.ports }
  )

/-- R385: a doorbell whose tail exceeds the size, moves backwards, or meets a size field of 0 of its ring or of the completion ring is ignored and sets RING_ERR; any other becomes the ring's tail. Nothing else changes, but the virtual time at which a partition that had no packets resumes packet intake (R445). A doorbell of rings 1 to 3 without an ATTACHED session does nothing (R400). Commands whose next state it gives, under conditions on the state and the operands alone: partDoorbell. -/
def Obligations.DoorbellTakesLegalTails : Prop :=
  ∀ (s : State) (p : PartId) (r : Fin 4) (tail : W16) (g : Ring), g = tget {} (s.part p.val).rings r.val →
    ((s.part p.val).session ≠ .attached → r.val ≠ 0 → exec (.partDoorbell p r tail) s = .next s) ∧
    ((s.part p.val).session = .attached ∨ r.val = 0 → exec (.partDoorbell p r tail) s = .next (
      if g.size = 0 ∨ (s.part p.val).cqSize = 0 ∨ 2 ^ g.size.toNat < (tail - g.head).toNat ∨ (tail - g.head).toNat < (g.tail - g.head).toNat
      then s.modPart p.val (fun q => { q with events := raiseEv q.events 0 })
      else (resumeIntake s p.val).modPart p.val (fun q => { q with rings := tset q.rings r.val { g with tail := tail } })))

/-- A completion head that would pass the tail is ignored and sets RING_ERR (R389); another is taken, and with no completion held and no run of the partition waiting for its completion to be written nothing else changes. The heartbeat (R402): a write refreshes it; without one within PART_HB_LIMIT ms of the last refresh an ATTACHED session becomes DETACHED, and no packet stays in hand. A remap entry is written as TARGET and MASK; clearing MASK of a pending vector clears its pending bit and puts its message on the interrupt port, with the partition's number stamped in, unless the partition is RESETTING or its session DETACHED (R442, R443). Commands whose next state it gives, under conditions on the state and the operands alone: partCqHead, partHeartbeat, heartbeatTimeout, partRemap. -/
def Obligations.PageRegisters : Prop :=
  (
  ∀ (s : State) (p : PartId) (h : W16),
    (((s.part p.val).cqTail - (s.part p.val).cqHead).toNat < (h - (s.part p.val).cqHead).toNat →
      exec (.partCqHead p h) s = .next (s.modPart p.val (fun q => { q with events := raiseEv q.events 0 }))) ∧
    ((h - (s.part p.val).cqHead).toNat ≤ ((s.part p.val).cqTail - (s.part p.val).cqHead).toNat → (s.part p.val).held = [] →
      (∀ e ∈ s.graphs, e.2.part = p.val → ∀ r, e.2.run = some r → r.waiting = false) →
      exec (.partCqHead p h) s = .next (s.modPart p.val (fun q => { q with cqHead := h })))
  ) ∧
  (
  ∀ (s : State) (p : PartId) (now : W64), s.ts.toNat ≤ now.toNat →
    (∀ v, exec (.partHeartbeat p v now) s = .next ({ s with ts := now }.modPart p.val (fun q => { q with heartbeat := v, hbTs := now }))) ∧
    ((s.part p.val).session = .attached → (s.part p.val).hbLimit ≠ 0 → (s.part p.val).hbTs.toNat + (s.part p.val).hbLimit.toNat * 1000000 ≤ now.toNat →
      ∃ t, exec (.heartbeatTimeout p now) s = .next t ∧ (t.part p.val).session = .detached ∧ (t.part p.val).inHand = []) ∧
    (now.toNat < (s.part p.val).hbTs.toNat + (s.part p.val).hbLimit.toNat * 1000000 → exec (.heartbeatTimeout p now) s = .next { s with ts := now })
  ) ∧
  (
  ∀ (s : State) (p : PartId) (v : Fin 256) (e : W32),
    ((e.getLsbD 16 = true ∨ (s.part p.val).pend.getLsbD v.val = false ∨ (s.part p.val).state = .resetting ∨ (s.part p.val).session = .detached) →
      exec (.partRemap p v e) s = .next (s.modPart p.val (fun q => { q with remap := tset q.remap v.val (e &&& 0x1FFFF) }))) ∧
    (e.getLsbD 16 = false → (s.part p.val).pend.getLsbD v.val = true → (s.part p.val).state ≠ .resetting → (s.part p.val).session ≠ .detached →
      ∃ t, exec (.partRemap p v e) s = .next t ∧ (t.part p.val).pend.getLsbD v.val = false ∧
        (p.val, BitVec.ofNat 32 (e.toNat % 65536 + p.val * 65536), false) ∈ t.ports.intQ ++ t.ports.intOut.toList ∧
        t = { s with parts := t.parts, ports := t.ports })
  )

/-- R386, R387, R444, R445: when packet intake comes to the partition, PACKET_ACCEPT copies the 512 bytes at the head of the ring that is next in turn, the list that they name (R407) and external time at the acceptance, advances the head and leaves the packet in hand, when its header is good and, as the oldest in hand, its session and rights pass too. Only the partition's ring state and its virtual time at intake change. A packet whose header fails is taken from the ring in the same way and answered with the header's fault. While intake is with another partition, or none, nothing happens. Every case is a next state. A completion is written at the ring's tail while the ring has room; an ATTACHED session holds up to 64 more, with CQ_HELD; beyond that a completion is counted in PART_CQ_LOST, with CQ_LOST (R389, R390). Shown on ECHO, which always completes, DONE, with the length of its data, and does nothing else (R408). Commands whose next state it gives, under conditions on the state and the operands alone: packetAccept, echo. -/
def Obligations.PacketsAndCompletions : Prop :=
  (
  (∀ (s : State) (p : PartId), intakeFirst s ≠ some p.val → exec (.packetAccept p) s = .next s) ∧
  (∀ (s : State) (p : PartId) (r : Nat) (g : Ring) (k : Packet), intakeFirst s = some p.val → nextRingOf (s.part p.val) = some r →
    g = tget {} (s.part p.val).rings r →
    k = copyList s p.val { bytes := devRead s p.val (g.baseHi.toNat * 2 ^ 32 + g.baseLo.toNat + (g.head.toNat % 2 ^ g.size.toNat) * 512) 512
                           ring := BitVec.ofNat 2 r, number := (s.part p.val).accepted, ext := BitVec.ofNat 64 (extTime s) } →
    headerBad k = none → ((s.part p.val).inHand ≠ [] ∨ firstChecks s p.val k = none) →
    exec (.packetAccept p) s = .next (s.modPart p.val (fun q => { q with
      rings := tset q.rings r { g with head := g.head + 1 }, nextRing := BitVec.ofNat 2 (r + 1), accepted := q.accepted + 1
      openPkts := q.openPkts ++ [(k.number, pktFence k)], btVirt := q.btVirt + 1000 / max 1 q.weight.toNat, inHand := q.inHand ++ [k] }))) ∧
  ∀ (s : State) (p : PartId) (r off : Nat) (g : Ring) (k : Packet) (t : State), intakeFirst s = some p.val → nextRingOf (s.part p.val) = some r →
    g = tget {} (s.part p.val).rings r →
    k = copyList s p.val { bytes := devRead s p.val (g.baseHi.toNat * 2 ^ 32 + g.baseLo.toNat + (g.head.toNat % 2 ^ g.size.toNat) * 512) 512
                           ring := BitVec.ofNat 2 r, number := (s.part p.val).accepted, ext := BitVec.ofNat 64 (extTime s) } →
    headerBad k = some off →
    t = s.modPart p.val (fun q => { q with
      rings := tset q.rings r { g with head := g.head + 1 }, nextRing := BitVec.ofNat 2 (r + 1), accepted := q.accepted + 1
      openPkts := q.openPkts ++ [(k.number, pktFence k)], btVirt := q.btVirt + 1000 / max 1 q.weight.toNat }) →
    exec (.packetAccept p) s = .next (kept s (reply t p.val k stFormat (detPkt off) 0xFFFFFFFF 0))
  ) ∧
  (
  ∀ (s : State) (p : PartId) (k : Packet), Starts s p 0x0103 k →
    exec (.echo p) s = .next (kept s (reply (takeHand s p.val) p.val k 0 (BitVec.ofNat 32 (pktLen k)) 0xFFFFFFFF 0)) ∧
    ∃ t, exec (.echo p) s = .next t ∧ (t.part p.val).inHand = (s.part p.val).inHand.drop 1 ∧
      (t.part p.val).openPkts = (s.part p.val).openPkts.filter (fun o => o.1 != k.number) ∧
      ((s.part p.val).held = [] ∧ cqRoom (s.part p.val) = true →
        (t.part p.val).cqTail = (s.part p.val).cqTail + 1 ∧ (t.part p.val).held = [] ∧ (t.part p.val).cqLost = (s.part p.val).cqLost) ∧
      (¬ ((s.part p.val).held = [] ∧ cqRoom (s.part p.val) = true) →
        (t.part p.val).cqTail = (s.part p.val).cqTail ∧
        ((s.part p.val).held.length < 64 →
          (t.part p.val).held = (s.part p.val).held ++ [{ tag := pktTag k, status := 0, opcode := 0x0103, detail := BitVec.ofNat 32 (pktLen k), obj := 0xFFFFFFFF, ring := k.ring, notify := pktNotify k }] ∧ (t.part p.val).events.flags.getLsbD 1 = true ∧ (t.part p.val).cqLost = (s.part p.val).cqLost) ∧
        (64 ≤ (s.part p.val).held.length →
          (t.part p.val).held = (s.part p.val).held ∧ (t.part p.val).cqLost = satInc (s.part p.val).cqLost ∧ (t.part p.val).events.flags.getLsbD 2 = true))
  )

/-- R400: with a session NONE every ring command but attach is answered STATE_REFUSED with STATE 0x10, with a DETACHED one DETACHED with STATE 0x12, before its rights and its form are looked at, and nothing else happens. R430: a command whose right the partition lacks is answered RIGHTS_REFUSED with the number of the right, before its form is looked at, and nothing else happens. A partition reset needs right 0 for another partition, LOG_SET right 7 for the global ring, and the stream commands the right of their port. Attach with a session NONE (R401, R402, R404): the session is ATTACHED with its token and vectors, the heartbeat refreshed, and the reply gives the versions and the lost count. Detach with no started graph ends it (R405), after its own completion; streams, graphs, cores and the cadence stay as they are. Log and trace set (R420, R425, R427): a ring of 2^6 to 2^16 entries at a mapped address takes its place, its write count at 0. Commands whose next state it gives, under conditions on the state and the operands alone: attach, detach, logSet, traceSet. -/
def Obligations.SessionCommands : Prop :=
  (
  ∀ (s : State) (p : PartId) (k : Packet) (i : Instr) (op : Nat) (ok : Bool) (runs : List ProbeDiff),
    (i, op) ∈ ringCommands p ok runs →
    (i = .probe p → s.rel.probe = none) → (i = .portWrite p → par k 1 1 ≠ 1 ∧ par k 1 1 ≠ 2) → (i = .portRetrain p → par k 1 1 = 1) → (i = .clearFixedIdConflict p → par k 1 1 = 2) →
    startable s p.val op = some k →
    ((s.part p.val).session = .none → exec i s = .next (kept s (reply (takeHand s p.val) p.val k 0x0100 0 0xFFFFFFFF 0x10))) ∧
    ((s.part p.val).session = .detached → exec i s = .next (kept s (reply (takeHand s p.val) p.val k 0x0301 0 0xFFFFFFFF 0x12)))
  ) ∧
  (
  (∀ (s : State) (p : PartId) (k : Packet) (i : Instr) (op right : Nat) (ok : Bool) (runs : List ProbeDiff),
    (i, op, right) ∈ rightCommands p ok runs →
    (i = .probe p → s.rel.probe = none) → (i = .portWrite p → par k 1 1 ≠ 1 ∧ par k 1 1 ≠ 2) → (i = .portRetrain p → par k 1 1 = 1) → (i = .clearFixedIdConflict p → par k 1 1 = 2) →
    Starts s p op k → hasRight s p.val right = false →
    exec i s = .next (kept s (reply (takeHand s p.val) p.val k 0x0101 (BitVec.ofNat 32 right) 0xFFFFFFFF 0))) ∧
  ∀ (s : State) (p : PartId) (k : Packet),
    (Starts s p 0x0204 k → par k 0 1 ≠ p.val → hasRight s p.val 0 = false →
      exec (.partitionResetCmd p) s = .next (kept s (reply (takeHand s p.val) p.val k 0x0101 0 0xFFFFFFFF 0))) ∧
    (Starts s p 0x0D01 k → par k 9 1 = 1 → hasRight s p.val 7 = false →
      exec (.logSet p) s = .next (kept s (reply (takeHand s p.val) p.val k 0x0101 7 0xFFFFFFFF 0))) ∧
    (∀ i op, (i, op) ∈ [(Instr.streamSetUp p, 0x0601), (.streamRelease p, 0x0602), (.streamBind p, 0x0603)] → Starts s p op k → par k 0 1 < 4 →
      hasRight s p.val (16 + par k 0 1) = false →
      exec i s = .next (kept s (reply (takeHand s p.val) p.val k 0x0101 (BitVec.ofNat 32 (16 + par k 0 1))
        (if par k 1 1 < 6 then BitVec.ofNat 32 (6 * par k 0 1 + par k 1 1) else 0xFFFFFFFF) 0)))
  ) ∧
  (
  (∀ (s : State) (p : PartId) (k : Packet), startable s p.val 0x0101 = some k → (s.part p.val).session = .none →
    formCheck k 16 17 [(4, 4)] = none → (pktExpert k = true → par k 16 1 < 2) → par k 0 1 = 2 → BitVec.ofNat 64 (par k 8 8) ≠ 0 →
    ringsGood (takeHand s p.val) p.val = true →
    exec (.attach p) s = .next (kept s (reply { (takeHand s p.val).modPart p.val (fun q => { q with
        session := .attached, minor := 0, token := BitVec.ofNat 64 (par k 8 8), cqVector := BitVec.ofNat 8 (par k 2 1)
        logVector := BitVec.ofNat 8 (par k 3 1), hbTs := s.ts, attachWait := none }) with spr.everAttached := true }
      p.val k 0 (BitVec.ofNat 32 (0x200 + min (s.part p.val).cqLost.toNat 32767 * 131072)) 0xFFFFFFFF 0x11))) ∧
  (∀ (s : State) (p : PartId) (k : Packet), Starts s p 0x0102 k → formCheck k 0 0 [] = none → startedGraphs s p.val = [] →
    ∃ t, exec (.detach p) s = .next t ∧ t = kept s (endSession (reply (takeHand s p.val) p.val k 0 0 0xFFFFFFFF 0x10) p.val) ∧
      (t.part p.val).session = .none ∧ (t.part p.val).minor = 0 ∧ (t.part p.val).attachWait = none ∧
      t.streams = s.streams ∧ t.graphs = s.graphs ∧ t.cores = s.cores ∧ t.cad = s.cad ∧ t.spr = s.spr)
  ) ∧
  (
  ∀ (s : State) (p : PartId) (k : Packet),
    (Starts s p 0x0D01 k → formCheck k 10 10 [] = none → addrOk k 0 = true → 6 ≤ par k 8 1 → par k 8 1 ≤ 16 →
      parAddr k 0 + 32 * 2 ^ par k 8 1 ≤ 2 ^ 48 → ringMapped s p.val (parAddr k 0) (32 * 2 ^ par k 8 1) = true →
      (par k 9 1 = 0 →
        exec (.logSet p) s = .next (kept s (reply ((takeHand s p.val).modPart p.val (fun q => { q with logAddr := parAddr k 0, logSize := par k 8 1, logWr := 0 })) p.val k 0 0 0xFFFFFFFF 0))) ∧
      (par k 9 1 = 1 → hasRight s p.val 7 = true →
        exec (.logSet p) s = .next (kept s (reply ({ takeHand s p.val with rel.glogOwner := some p.val, rel.glogAddr := parAddr k 0, rel.glogSize := par k 8 1 }.modPart p.val
          (fun q => { q with glogWr := 0 })) p.val k 0 0 0xFFFFFFFF 0)))) ∧
    (Starts s p 0x0D02 k → hasRight s p.val 8 = true → formCheck k 41 41 [] = none → addrOk k 32 = true → 6 ≤ par k 40 1 → par k 40 1 ≤ 16 →
      parAddr k 32 + 32 * 2 ^ par k 40 1 ≤ 2 ^ 48 → ringMapped s p.val (parAddr k 32) (32 * 2 ^ par k 40 1) = true →
      exec (.traceSet p) s = .next (kept s (reply ((takeHand s p.val).modPart p.val (fun q => { q with
        trcEnable := parBytes k 0 32, trcAddr := parAddr k 32, trcSize := par k 40 1, trcWr := 0 })) p.val k 0 0 0xFFFFFFFF 0)))
  )

/-- Create (R433, R434), resize (R435), destroy (R436) and the partition reset command (R449) with fields that pass their tests: a new partition is READY with the fields' class, weight, rights, cores and quotas and its first 64 blocks mapped; a resized one has the new cores, quotas and extents, and its class, weight and rights with the reply, at once or when the copies beyond the new shares have left; a destroyed one is ABSENT with nothing mapped; a reset one is RESETTING with cause 4, and its reply waits for READY. Step 9 of a partition reset (R449): the partition is READY and no reset command waits for its reply; a partition that is not RESETTING stays as it is. Commands whose next state it gives, under conditions on the state and the operands alone: create, resize, destroy, partitionResetCmd, partitionResetReady. -/
def Obligations.PartitionCommandsAndResetEnd : Prop :=
  (
  (∀ (s : State) (p : PartId) (k : Packet) (f : PartForm) (cs : List Nat) (ext : List (Nat × Nat) × List (Nat × Nat)), Starts s p 0x0201 k → hasRight s p.val 0 = true →
    formCheck k 28 40 [(28, 4)] = none → f = readForm (k.bytes.drop 64) (pktExpert k) → lackingRight s p.val f.rights = none →
    firstBad (partFormat f) = none → firstBad (sortBy (fun a b => decide (a.2 < b.2)) (partRange (takeHand s p.val) f [] ++ [(false, 16)])) = none →
    formCores (takeHand s p.val) f [] = some cs → placeExtents (takeHand s p.val) [] f.t3 f.cache = some ext → (s.part f.num).state = .absent → f.num ≠ p.val →
    exec (.create p) s = .next (kept s (reply (makePart (takeHand s p.val) f cs ext.1 ext.2) p.val k 0 0 (BitVec.ofNat 32 f.num) 0x21)) ∧
    ((makePart (takeHand s p.val) f cs ext.1 ext.2).part f.num).state = .ready ∧
    ((makePart (takeHand s p.val) f cs ext.1 ext.2).part f.num).rights = BitVec.ofNat 32 f.rights ∧
    ((makePart (takeHand s p.val) f cs ext.1 ext.2).part f.num).cores = coreMask cs ∧
    ((makePart (takeHand s p.val) f cs ext.1 ext.2).part f.num).extents = ext.1 ∧
    ((makePart (takeHand s p.val) f cs ext.1 ext.2).part f.num).session = .none) ∧
  (∀ (s : State) (p : PartId) (k : Packet) (f : PartForm) (cs : List Nat) (ext : List (Nat × Nat) × List (Nat × Nat)), Starts s p 0x0202 k → hasRight s p.val 0 = true →
    formCheck k 28 40 [(28, 4)] = none → f = readForm (k.bytes.drop 64) (pktExpert k) → lackingRight s p.val f.rights = none → firstBad (partFormat f) = none →
    firstBad (sortBy (fun a b => decide (a.2 < b.2)) (partRange (takeHand s p.val) f (coresOf s f.num) ++
      [(decide (f.ctx < ((coresOf s f.num).map (fun c => usedCtx (takeHand s p.val) f.num c)).foldl max 0), 6),
       (decide (f.t3 < (homesUsed (takeHand s p.val) f.num).length), 16)])) = none →
    formCores (takeHand s p.val) f (coresOf s f.num) = some cs → resizedExtents (takeHand s p.val) f = some ext → (s.part f.num).state = .ready →
    (s.part f.num).tileMode = (f.tile == 1) → graphUses s f.num ((coresOf s f.num).filter (fun c => !cs.contains c)) = false →
    ∃ t, exec (.resize p) s = .next t ∧ (t.part f.num).cores = coreMask cs ∧
      ((t.part f.num).rights = BitVec.ofNat 32 f.rights ∨
        ∃ w ∈ t.mem.waits, w.pend = pendOf p.val k ∧ w.of_ = some { part := f.num, cls := BitVec.ofNat 2 f.cls, weight := BitVec.ofNat 10 f.weight, rights := BitVec.ofNat 32 f.rights }) ∧
      (t.part f.num).qT3 = BitVec.ofNat 32 f.t3 ∧ (t.part f.num).extents = ext.1 ∧ (t.part f.num).state = .ready ∧
      t.streams = s.streams ∧ t.cad = s.cad ∧ t.spr = s.spr ∧ t.otp = s.otp) ∧
  (∀ (s : State) (p : PartId) (k : Packet) (n : Nat), Starts s p 0x0203 k → hasRight s p.val 0 = true → formCheck k 1 1 [] = none → n = par k 0 1 → n < 64 →
    (s.part n).state = .ready → startedGraphs s n = [] → lastAdmin s n = false →
    ∃ t, exec (.destroy p) s = .next t ∧ (t.part n).state = .absent ∧ t.map n = [] ∧ t.otp = s.otp ∧ t.crp = s.crp) ∧
  (∀ (s : State) (p : PartId) (k : Packet) (n : Nat), Starts s p 0x0204 k → (n = p.val ∨ hasRight s p.val 0 = true) → formCheck k 1 1 [] = none → n = par k 0 1 → n < 64 →
    (s.part n).state = .ready →
    ∃ t, exec (.partitionResetCmd p) s = .next t ∧ (t.part n).state = .resetting ∧ (t.part n).resetCause = 4 ∧ (t.part n).resets = satInc (s.part n).resets ∧
      (t.part n).inHand = [] ∧ pendOf p.val k ∈ (t.part n).resetTag ∧ t.otp = s.otp ∧ t.crp = s.crp)
  ) ∧
  (
  ∀ (s : State) (p : PartId) (now : W64), s.ts.toNat ≤ now.toNat →
    ((s.part p.val).state = .resetting → s.pwr.trip = false → ∃ t, exec (.partitionResetReady p now) s = .next t ∧ (t.part p.val).state = .ready ∧ (t.part p.val).resetTag = []) ∧
    ((s.part p.val).state ≠ .resetting ∨ s.pwr.trip = true → exec (.partitionResetReady p now) s = .next { s with ts := now })
  )

/-- Graph commands on a graph that may take them: a checked image is placed under the next handle (R167), an idle graph is unloaded (R169), a run is released at once when it is not cadence-bound (R170), a standing graph starts from the first whole beat after its packet's acceptance (R218), and a started one stops (R411). Commands whose next state it gives, under conditions on the state and the operands alone: loadGraph, unloadGraph, runGraph, startGraph, stopGraph. -/
def Obligations.GraphCommands : Prop :=
  (∀ (s : State) (p : PartId) (k : Packet) (x : GraphDesc × List RawTask × List Nat), Starts s p 0x0401 k → formCheck k 8 72 [] = none → addrOk k 0 = true →
    checkImage (takeHand s p.val) p.val (parAddr k 0) (if pktExpert k then some ((parBytes k 8 64).map (·.toNat)) else none) = .ok x →
    ∃ t g, exec (.loadGraph p) s = .next t ∧ t.nGraphs = s.nGraphs + 1 ∧ t.graph (s.nGraphs % (2 ^ 32 - 1)) = some g ∧ g.part = p.val ∧ g.image = parAddr k 0 ∧
      g.run = none ∧ g.started = false ∧ g.ctxOf.length = x.2.1.length) ∧
  (∀ (s : State) (p : PartId) (k : Packet) (g : Graph), Starts s p 0x0402 k → formCheck k 0 0 [] = none → s.graph (pktObj k).toNat = some g → g.part = p.val →
    g.run = none → g.started = false → ∃ t, exec (.unloadGraph p) s = .next t ∧ t.graph (pktObj k).toNat = none) ∧
  (∀ (s : State) (p : PartId) (k : Packet) (g : Graph), Starts s p 0x0403 k → formCheck k 8 8 [] = none → s.graph (pktObj k).toNat = some g → g.part = p.val →
    g.run = none → g.started = false → pktCadence k = false → downCores s g = [] →
    ∃ t g' r, exec (.runGraph p) s = .next t ∧ t.graph (pktObj k).toNat = some g' ∧ g'.run = some r ∧ g'.runs = g.runs + 1 ∧ r.runNo = g.runs ∧
      r.tag = pktTag k ∧ r.cadence = false ∧ r.released = true ∧ (t.part p.val).cqTail = (s.part p.val).cqTail) ∧
  (∀ (s : State) (p : PartId) (k : Packet) (g : Graph), Starts s p 0x0404 k → formCheck k 0 0 [] = none → s.graph (pktObj k).toNat = some g → g.part = p.val →
    g.run = none → g.started = false → g.standing = true → pktCadence k = true → s.cad.en = true → s.cad.period ≠ 0 → downCores s g = [] →
    exec (.startGraph p) s = .next (kept s (reply ((takeHand s p.val).modGraph (pktObj k).toNat (fun q => { q with started := true, e0 := k.beat, nextK := 0, tag := pktTag k, ring := k.ring, notify := pktNotify k }))
      p.val k 0 0 (pktObj k) 0x33))) ∧
  (∀ (s : State) (p : PartId) (k : Packet) (g : Graph), Starts s p 0x0405 k → formCheck k 0 0 [] = none → s.graph (pktObj k).toNat = some g → g.part = p.val →
    g.started = true →
    ∃ t g', exec (.stopGraph p) s = .next t ∧ t.graph (pktObj k).toNat = some g' ∧ g'.started = false ∧ g'.e0 = none ∧
      g'.stopping = (if g.run.isSome then some (pendOf p.val k) else g.stopping))

/-- Map of T3 homes (R258): an unmapped range within the quota and the block tables becomes blocks in state ZERO with T3 homes and the hint of the packet. Unmap, zero, hint and unpin over the mapped blocks of a range (R258, R690): unmapped blocks lose their copy and their home, zeroed T3-homed blocks are in state ZERO without a copy and with nothing dirty, hinted blocks take the hint, unpinned ones lose PIN. Blocks with users stop unmap and zero with the state of the first. Commands whose next state it gives, under conditions on the state and the operands alone: mapRange, unmapRange, zeroRange, hintRange, unpinRange. -/
def Obligations.RangeCommands : Prop :=
  (
  ∀ (s : State) (p : PartId) (k : Packet), Starts s p 0x0301 k → formCheck k 24 24 [(19, 1)] = none → WholeBlocks k → par k 16 1 = 0 → par k 17 1 ≤ 8 →
    namedBlocks s p k = [] → (homesUsed s p.val).length + rangeLen k / blockBytes ≤ (s.part p.val).qT3.toNat →
    tablesWith s p.val (parAddr k 0 / blockBytes) (rangeLen k / blockBytes) ≤ s.mem.mapRoom →
    ∃ e : State, exec (.mapRange p) s = .next (kept s (done e p k)) ∧
      (∀ i, i < rangeLen k / blockBytes → (e.block p.val (parAddr k 0 / blockBytes + i)).state = .zero ∧
        (e.block p.val (parAddr k 0 / blockBytes + i)).res = .none ∧ (e.block p.val (parAddr k 0 / blockBytes + i)).hint = par k 17 1 ∧
        ∃ h, (e.block p.val (parAddr k 0 / blockBytes + i)).home = .t3 h ∧ h ∉ homesUsed s p.val) ∧
      (∀ b, (b < parAddr k 0 / blockBytes ∨ parAddr k 0 / blockBytes + rangeLen k / blockBytes ≤ b) → e.block p.val b = s.block p.val b) ∧
      (∀ q : PartId, q ≠ p → e.map q.val = s.map q.val) ∧ e.mem.sram = s.mem.sram ∧ e.mem.t3 = s.mem.t3
  ) ∧
  (
  ∀ (s : State) (p : PartId) (k : Packet), WholeBlocks k →
    (Starts s p 0x0302 k → formCheck k 16 16 [] = none → (namedBlocks s p k).find? (hasUsers s p.val) = none →
      ∃ e : State, exec (.unmapRange p) s = .next (kept s (done (settle e) p k)) ∧
        (∀ b ∈ namedBlocks s p k, (e.block p.val b).state = .unmapped ∧ (e.block p.val b).res = .none) ∧ (∀ q : PartId, q ≠ p → e.map q.val = s.map q.val)) ∧
    (Starts s p 0x0303 k → formCheck k 16 16 [] = none → ((namedBlocks s p k).filter (fun b => t3Homed s p.val b || (s.block p.val b).state == .view)).find? (hasUsers s p.val) = none →
      ∃ e : State, exec (.zeroRange p) s = .next (kept s (done (settle e) p k)) ∧
        (∀ b ∈ namedBlocks s p k, t3Homed s p.val b = true → (e.block p.val b).state = .zero ∧ (e.block p.val b).res = .none ∧ (e.block p.val b).dirty = 0) ∧
        (∀ q : PartId, q ≠ p → e.map q.val = s.map q.val)) ∧
    (Starts s p 0x0304 k → formCheck k 17 17 [] = none → par k 16 1 ≤ 8 →
      ∃ e : State, exec (.hintRange p) s = .next (kept s (done e p k)) ∧ (∀ b ∈ namedBlocks s p k, e.block p.val b = { s.block p.val b with hint := par k 16 1 }) ∧
        (∀ b, b ∉ namedBlocks s p k → e.block p.val b = s.block p.val b) ∧ e.mem.sram = s.mem.sram ∧ e.mem.t3 = s.mem.t3) ∧
    (Starts s p 0x0307 k → formCheck k 16 16 [] = none →
      ∃ e : State, exec (.unpinRange p) s = .next (kept s (done e p k)) ∧ (∀ b ∈ namedBlocks s p k, e.block p.val b = { s.block p.val b with pin := false }) ∧
        (∀ b, b ∉ namedBlocks s p k → e.block p.val b = s.block p.val b) ∧ e.mem.sram = s.mem.sram ∧ e.mem.t3 = s.mem.t3) ∧
    (∀ b, Starts s p 0x0302 k → formCheck k 16 16 [] = none → (namedBlocks s p k).find? (hasUsers s p.val) = some b →
      exec (.unmapRange p) s = .next (kept s (reply (takeHand s p.val) p.val k 0x0100 0 0xFFFFFFFF (memState (s.block p.val b).state))))
  )

/-- Prefetch, pin, evict and flush (R260, R263, R264, R266) with room in the queue: prefetch brings each block and replies; pin brings each block, sets PIN and waits for its fetches; evict sends the settled copies without users from T1 and T2, a clean one at once and a dirty one when its write-back has ended, and replies; flush starts the write-back of every dirty block and waits until home holds it. Arm (R277) of a graph whose cadence set fits: the graph holds its set, and the reply waits, up to the time limit, until every block is resident. ARM_TIMEOUT answers the arms whose limit has passed with TIMEOUT. The aperture command sets MEM_P_APBASE (R258). Commands whose next state it gives, under conditions on the state and the operands alone: prefetchRange, pinRange, evictRange, flushRange, arm, armTimeout, aperture. -/
def Obligations.PlacementAndArm : Prop :=
  (
  ∀ (s : State) (p : PartId) (k : Packet), WholeBlocks k → (pktExpert k = true → par k 16 1 = 1) →
    (Starts s p 0x0305 k → formCheck k 16 18 [] = none → queueFull s = false →
      exec (.prefetchRange p) s = .next (kept s (done ((namedBlocks s p k).foldl
        (fun t b => bringBlock t { part := p.val, block := b, rank := 5, cls := classOf t p.val, dest := prefetchDest t p.val k b }) (takeHand s p.val)) p k))) ∧
    (Starts s p 0x0306 k → formCheck k 16 18 [] = none → namedBlocks s p k = [] → exec (.pinRange p) s = .next (kept s (done (takeHand s p.val) p k))) ∧
    (Starts s p 0x0306 k → formCheck k 16 18 [] = none → queueFull s = false → namedBlocks s p k ≠ [] →
      4 * (((s.map p.val).filter (fun e => e.2.pin)).length + ((namedBlocks s p k).filter (fun b => !(s.block p.val b).pin)).length) ≤
        3 * ((s.part p.val).qT1.toNat + (s.part p.val).qT2.toNat) →
      ∃ e : State, exec (.pinRange p) s = .next (kept s (settleWaits { e with mem.waits := e.mem.waits ++ [{ pend := pendOf p.val k, sectors := (namedBlocks s p k).map (fun b => (b, 0xFFFF)) }] })) ∧
        (∀ b ∈ namedBlocks s p k, (e.block p.val b).pin = true) ∧ e.mem.waits = s.mem.waits) ∧
    (Starts s p 0x0308 k → formCheck k 16 16 [] = none → (∀ b ∈ namedBlocks s p k, onChip (s.block p.val b) = false ∨ hasUsers s p.val b = true) →
      exec (.evictRange p) s = .next (kept s (done (settle (takeHand s p.val)) p k))) ∧
    (∀ b c slot, Starts s p 0x0308 k → formCheck k 16 16 [] = none → namedBlocks s p k = [b] → hasUsers s p.val b = false →
      (s.block p.val b).state = .clean → (s.block p.val b).res = .t1 c slot → evictClass (s.block p.val b) < 3 → t3Homed s p.val b = true →
      ∃ e : State, exec (.evictRange p) s = .next (kept s (done (settle e) p k)) ∧ (e.block p.val b).res = .none ∧ tget 0 e.mem.pEvict p.val = satInc (tget 0 s.mem.pEvict p.val)) ∧
    (∀ b, Starts s p 0x0308 k → formCheck k 16 16 [] = none → namedBlocks s p k = [b] → hasUsers s p.val b = false → (s.block p.val b).state = .dirty →
      onChip (s.block p.val b) = true → mustWriteBack s p.val b = true →
      ∃ e : State, exec (.evictRange p) s = .next (kept s (done (settle e) p k)) ∧ (e.block p.val b).state = .writeback ∧ (e.block p.val b).leaving = true ∧
        (e.block p.val b).inWb = (s.block p.val b).dirty ∧ (e.block p.val b).res = (s.block p.val b).res) ∧
    (Starts s p 0x0309 k → formCheck k 16 16 [] = none → queueFull s = false →
      ∃ e : State, exec (.flushRange p) s = .next (kept s (settleWaits e)) ∧ e.mem.waits = s.mem.waits ++ [{ pend := pendOf p.val k, sectors := ((namedBlocks s p k).filter (fun b => (s.block p.val b).dirty != 0)).map (fun b => (b, (s.block p.val b).dirty)) }])
  ) ∧
  (
  (∀ (s : State) (p : PartId) (k : Packet) (g : Graph), Starts s p 0x030A k → formCheck k 0 4 [] = none → (pktExpert k = true → 1 ≤ par k 0 4 ∧ par k 0 4 ≤ 60000) →
    s.graph (pktObj k).toNat = some g → g.part = p.val → queueFull s = false →
    (cadenceSet (takeHand s p.val) g).length + ((s.map p.val).filter (fun e => e.2.pin)).length ≤ (s.part p.val).qT1.toNat + (s.part p.val).qT2.toNat →
    ∃ (e : State) (g' : Graph), exec (.arm p) s = .next (kept s (settleArms e)) ∧ e.graph (pktObj k).toNat = some g' ∧ g'.armed = true ∧
      g'.arming = g.arming ++ [(pendOf p.val k, s.ts + BitVec.ofNat 64 ((if pktExpert k then par k 0 4 else 100) * 1000000))]) ∧
  (∀ (s : State) (p : PartId) (h : W32) (now : W64) (g : Graph), s.ts.toNat ≤ now.toNat → s.graph h.toNat = some g → g.part = p.val →
    ∃ t g', exec (.armTimeout p h now) s = .next t ∧ t.graph h.toNat = some g' ∧ g'.arming = g.arming.filter (fun a => decide (now.toNat < a.2.toNat)) ∧ t.ts = now) ∧
  (∀ (s : State) (p : PartId) (k : Packet), Starts s p 0x030B k → formCheck k 4 4 [] = none → par k 0 4 < 2 ^ 18 →
    exec (.aperture p) s = .next (kept s (done { takeHand s p.val with mem.apBase := tset s.mem.apBase p.val (BitVec.ofNat 18 (par k 0 4)) } p k)))
  )

/-- A fetched sector that passes its checks lands in its copy, and the fetch ends and is counted with the sixteenth (R256); one that fails its live or sealed tag check is counted and raises its event (R552, R558), and the sealed block is POISONED (R270). A block that is not FETCHING takes nothing. Home accepts a sector under write-back (R265): its DIRTY bit clears unless the sector was written again meanwhile, and the block leaves WRITEBACK with the last one. Victims start to leave when the free slots of the T2 share fall below the low watermark (R263), a clean one at once and a dirty one through its write-back, and at or above it nothing does. Commands whose next state it gives, under conditions on the state and the operands alone: fetchSectorLanded, writebackDone, evictionStart. -/
def Obligations.FetchWritebackEviction : Prop :=
  (
  ∀ (s : State) (p : PartId) (b : Nat) (j : Fin 16),
    ((s.block p.val b).state ≠ .fetching → ∀ c, exec (.fetchSectorLanded p b j c) s = .next s) ∧
    ((s.block p.val b).state = .fetching → t3Homed s p.val b = true → (s.block p.val b).res ≠ .none →
      ∃ t, exec (.fetchSectorLanded p b j .ok) s = .next t ∧
        ((s.block p.val b).landed ||| BitVec.ofNat 16 (2 ^ j.val) ≠ 0xFFFF →
          (t.block p.val b).landed = (s.block p.val b).landed ||| BitVec.ofNat 16 (2 ^ j.val) ∧ (t.block p.val b).state = .fetching ∧ t.parts = s.parts) ∧
        ((s.block p.val b).landed ||| BitVec.ofNat 16 (2 ^ j.val) = 0xFFFF →
          (t.block p.val b).state ≠ .fetching ∧ tget 0 t.mem.pFetch p.val = satInc (tget 0 s.mem.pFetch p.val))) ∧
    ((s.block p.val b).state = .fetching → t3Homed s p.val b = true →
      (∃ t, exec (.fetchSectorLanded p b j .liveTagFail) s = .next t ∧ t.mem.liveFails = satInc s.mem.liveFails ∧ t.mem.sealEvents.flags.getLsbD 0 = true) ∧
      (∃ t, exec (.fetchSectorLanded p b j .sealedTagFail) s = .next t ∧ t.mem.sealedFails = satInc s.mem.sealedFails ∧ t.mem.sealEvents.flags.getLsbD 2 = true ∧
        (t.block p.val b).state = .poisoned))
  ) ∧
  (
  (∀ (s : State) (p : PartId) (b : Nat) (j : Fin 16), (s.block p.val b).state = .writeback → (s.block p.val b).inWb.getLsbD j.val = true →
    (s.block p.val b).rewr.getLsbD j.val = false → t3Homed s p.val b = true → (s.block p.val b).res ≠ .none →
    ∃ t, exec (.writebackDone p b j) s = .next t ∧
      ((s.block p.val b).inWb ≠ BitVec.ofNat 16 (2 ^ j.val) → (t.block p.val b).state = .writeback ∧ (t.block p.val b).dirty.getLsbD j.val = false ∧
        (t.block p.val b).inWb.getLsbD j.val = false ∧ (∀ i, i ≠ j.val → (t.block p.val b).dirty.getLsbD i = (s.block p.val b).dirty.getLsbD i)) ∧
      ((s.block p.val b).inWb = BitVec.ofNat 16 (2 ^ j.val) → s.mem.waits = [] → (∀ q ∈ s.mem.queue, q.part = p.val ∧ q.block = b) → (t.block p.val b).state ≠ .writeback)) ∧
  (∀ (s : State) (p : PartId), s.mem.low.toNat * (s.part p.val).qT2.toNat ≤ 64 * ((s.part p.val).qT2.toNat - (staying s p.val inT2 + ringBlocks s p.val)) →
    exec (.evictionStart p true) s = .next s) ∧
  (∀ (s : State) (p : PartId) (v : Nat), 64 * ((s.part p.val).qT2.toNat - (staying s p.val inT2 + ringBlocks s p.val)) < s.mem.low.toNat * (s.part p.val).qT2.toNat →
    s.mem.low.toNat ≤ s.mem.high.toNat → (victims s p.val inT2).head? = some v → (s.block p.val v).leaving = false →
    (mustWriteBack s p.val v = false →
      ∃ t, exec (.evictionStart p true) s = .next t ∧ min ((tget 0 s.mem.pEvict p.val).toNat + 1) (2 ^ 32 - 1) ≤ (tget 0 t.mem.pEvict p.val).toNat) ∧
    (mustWriteBack s p.val v = true →
      ∃ t, exec (.evictionStart p true) s = .next t ∧ (t.block p.val v).state = .writeback ∧ (t.block p.val v).leaving = true ∧ (t.block p.val v).inWb = (s.block p.val v).dirty))
  )

/-- A reply (R388 to R391, R397) changes the packet order, the completion ring and the log of its partition, the memory that holds them, interrupt messages and free values drawn; everything else is as before. -/
def Obligations.RepliesChangeOnlyRingLogAndPort : Prop :=
  ∀ (s : State) (p : Nat) (k : Packet) (st : W16) (det obj : W32) (b : Byte),
    ∃ m ps po n, reply s p k st det obj b = { s with mem := m, parts := ps, ports := po, freeNo := n } ∧
      (∀ q, q ≠ p → (reply s p k st det obj b).part q = s.part q) ∧
      ((reply s p k st det obj b).part p).session = (s.part p).session ∧ ((reply s p k st det obj b).part p).rights = (s.part p).rights ∧
      ((reply s p k st det obj b).part p).inHand = (s.part p).inHand ∧ ((reply s p k st det obj b).part p).rings = (s.part p).rings ∧
      ((reply s p k st det obj b).part p).cqHead = (s.part p).cqHead ∧ ((reply s p k st det obj b).part p).state = (s.part p).state ∧
      po.events = s.ports.events ∧ po.hostRsp = s.ports.hostRsp ∧ m.t4 = s.mem.t4

/-- R412: load beat sets the whole beats while cadence is disabled and is answered STATE_REFUSED with the cadence's state while it is enabled. Cadence set writes EN and SRC, with EXPERT the other fields too (R689); in its basic form the settings it does not name stay. Commands whose next state it gives, under conditions on the state and the operands alone: loadBeat, cadenceSet. -/
def Obligations.CadenceCommands : Prop :=
  ∀ (s : State) (p : PartId) (k : Packet), hasRight s p.val 1 = true →
    (Starts s p 0x0501 k → formCheck k 6 6 [] = none →
      (s.cad.en = false → exec (.loadBeat p) s = .next (kept s (reply { takeHand s p.val with cad.beats := BitVec.ofNat 48 (par k 0 6), cad.loaded := true, cad.frac := 0, cad.extFloor := 0 }
        p.val k 0 0 0xFFFFFFFF 0x80))) ∧
      (s.cad.en = true → exec (.loadBeat p) s = .next (kept s (reply (takeHand s p.val) p.val k 0x0100 0 0xFFFFFFFF (cadState s))))) ∧
    (Starts s p 0x0502 k → formCheck k 2 12 [(2, 2)] = none → par k 0 1 ≤ 1 → par k 1 1 ≤ 2 →
      (pktExpert k = true → par k 4 4 < 2 ^ 13 ∧ par k 10 2 < 1024 ∧ nbits (par k 4 4) 6 4 ≤ 4 ∧ 2 ≤ nbits (par k 4 4) 11 8) →
      ∃ t, exec (.cadenceSet p) s = .next t ∧ t.cad.en = decide (par k 0 1 = 1) ∧ t.cad.src = BitVec.ofNat 2 (par k 1 1) ∧
        t.cad.events = s.cad.events ∧ t.cad.syncEn = s.cad.syncEn ∧ t.cad.interval = s.cad.interval ∧ t.cad.beatTs = s.cad.beatTs ∧
        t.ts = s.ts ∧ t.streams = s.streams ∧ t.graphs = s.graphs ∧ t.cores = s.cores ∧ t.fab = s.fab ∧ t.spr = s.spr ∧
        (pktExpert k = false → t.cad.edge = s.cad.edge ∧ t.cad.avg = s.cad.avg ∧ t.cad.lossAct = s.cad.lossAct ∧ t.cad.lossBeats = s.cad.lossBeats ∧
          t.cad.encDir = s.cad.encDir ∧ t.cad.encDiv = s.cad.encDiv ∧ t.cad.srcDev = s.cad.srcDev) ∧
        (pktExpert k = true → t.cad.encDiv = BitVec.ofNat 16 (par k 8 2) ∧ t.cad.srcDev = BitVec.ofNat 10 (par k 10 2) ∧
          t.cad.edge = nbit (par k 4 4) 3 ∧ t.cad.avg = BitVec.ofNat 3 (nbits (par k 4 4) 6 4) ∧ t.cad.lossAct = nbit (par k 4 4) 7 ∧
          t.cad.lossBeats = BitVec.ofNat 4 (nbits (par k 4 4) 11 8) ∧ t.cad.encDir = nbit (par k 4 4) 12) ∧
        (s.cad.en = false → par k 0 1 = 1 → t.cad.period = 0 ∧ t.cad.realBeats = 0 ∧ t.cad.lost = false ∧ t.cad.beats = (if s.cad.loaded then s.cad.beats else 0)) ∧
        (s.cad.en = false → par k 0 1 = 0 → t.cad.beats = s.cad.beats ∧ t.cad.frac = s.cad.frac))

/-- A beat (R203 to R207): an edge of the chosen polarity, a crossing of the encoder's divider, or the fabric source's frame counts one whole beat and keeps its stamp; a candidate less than 50,000 ns after the last beat sets EARLY and counts nothing (R204). With LOST the beat ends it and restarts the mean (R209). Beside cadence a beat changes only the first beat that started graphs and packets in hand wait for (R218). Loss and synchronisation (R208, R215, R216): after LOSS_BEATS periods without a real beat cadence is LOST, LOSS_ACT 1 holds external time, LOSS_ACT 0 makes the beats up; a freewheeling beat comes one period after the last; an exchange goes once its interval is over, and the fourth failed one in a row clears SYNCED; the parent's answer gives the offset, which is stepped when more than 1 µs behind and slewed otherwise, with SYNCED within 5 ns; an answer of another device changes nothing. Commands whose next state it gives, under conditions on the state and the operands alone: cadencePulse, encoderStrobe, cadenceLoss, synthesisedBeat, syncExchange, fabSync, fabBeat. -/
def Obligations.BeatsAndSynchronisation : Prop :=
  (
  ∀ (s : State) (stamp : W64), s.cad.en = true → s.fab.en = false →
    (∀ rising : Bool, s.cad.src = 0 → rising ≠ s.cad.edge →
      (tooEarly s (stamp - 3) = true → exec (.cadencePulse rising stamp) s = .next { s.advance stamp with cad.events := raiseEv s.cad.events 0 }) ∧
      (tooEarly s (stamp - 3) = false → s.cad.lost = false → ∃ t, exec (.cadencePulse rising stamp) s = .next t ∧ t.cad.beats = s.cad.beats + 1 ∧
        t.cad.beatTs = stamp - 3 ∧ t.cad.realTs = stamp - 3 ∧ t.cad.realBeats = s.cad.realBeats + 1 ∧ t.cad.events = s.cad.events ∧ t.cad.lost = false ∧
        t = takeE0 { s with ts := t.ts, cad := t.cad }) ∧
      (tooEarly s (stamp - 3) = false → s.cad.lost = true → ∃ t, exec (.cadencePulse rising stamp) s = .next t ∧ t.cad.beats = s.cad.beats + 1 ∧
        t.cad.beatTs = stamp - 3 ∧ t.cad.realBeats = 1 ∧ t.cad.periods = [] ∧ t.cad.lost = false ∧ t.cad.freewheel = false ∧ t.cad.hold = false ∧
        t.cad.events = raiseEv s.cad.events 2 ∧ t.cad.period = s.cad.period)) ∧
    (∀ rising : Bool, s.cad.src = 0 → rising = s.cad.edge → exec (.cadencePulse rising stamp) s = .next (s.advance stamp)) ∧
    (∀ (count : W32) (last : W32), s.cad.src = 1 → s.cad.encLast = some last → s.cad.encDiv ≠ 0 → s.cad.encDir = false →
      (s.cad.encAcc + (count - last).toInt < s.cad.encDiv.toNat → ∃ t, exec (.encoderStrobe count stamp) s = .next t ∧ t.cad.beats = s.cad.beats ∧
        t.cad.encAcc = s.cad.encAcc + (count - last).toInt ∧ t.cad.encLast = some count ∧ t.cad.beatTs = s.cad.beatTs ∧ t.graphs = s.graphs) ∧
      ((s.cad.encDiv.toNat : Int) ≤ s.cad.encAcc + (count - last).toInt → tooEarly s stamp = false → ∃ t, exec (.encoderStrobe count stamp) s = .next t ∧
        t.cad.beats = s.cad.beats + 1 ∧ t.cad.beatTs = stamp ∧ t.cad.encAcc = s.cad.encAcc + (count - last).toInt - s.cad.encDiv.toNat)) ∧
    (∀ (port : FabPort) (src : DevId) (beats : W64), s.cad.src = 2 → s.cad.srcDev.toNat = src.val → s.fab.conflict = false → s.pwr.trip = false → beats.toNat < 2 ^ 48 →
      ∃ t, exec (.fabBeat port src stamp beats) s = .next t ∧ t.cad.beats = BitVec.ofNat 48 beats.toNat ∧ t.cad.beatTs = stamp ∧ t.ts = s.ts)
  ) ∧
  (
  ∀ (s : State) (now : W64), s.ts.toNat ≤ now.toNat →
    (s.cad.en = true → s.cad.lost = false → s.cad.period ≠ 0 → s.cad.realTs.toNat + s.cad.lossBeats.toNat * s.cad.period.toNat ≤ now.toNat →
      (s.cad.lossAct = true → exec (.cadenceLoss now) s = .next { s with ts := now, cad.lost := true, cad.hold := true, cad.events := raiseEv s.cad.events 1 }) ∧
      (s.cad.lossAct = false → ∃ t, exec (.cadenceLoss now) s = .next t ∧ t.cad.lost = true ∧ t.cad.freewheel = true ∧
        t.cad.beats = s.cad.beats + BitVec.ofNat 48 (s.cad.lossBeats.toNat - 1) ∧ t.cad.beatTs = now ∧ t.cad.events = raiseEv s.cad.events 1 ∧ t.ts = now)) ∧
    (s.cad.en = true → s.cad.freewheel = true → s.cad.beatTs.toNat + s.cad.period.toNat ≤ now.toNat →
      ∃ t, exec (.synthesisedBeat now) s = .next t ∧ t.cad.beats = s.cad.beats + 1 ∧ t.cad.beatTs = s.cad.beatTs + s.cad.period.setWidth 64 ∧ t.cad.lost = s.cad.lost) ∧
    (s.cad.syncEn = true → s.fab.en = true → now.toNat < s.cad.syncTs.toNat + 125000 * 2 ^ s.cad.interval.toNat → ∀ ok, exec (.syncExchange ok now) s = .next { s with ts := now }) ∧
    (s.cad.syncEn = true → s.fab.en = true → s.cad.syncTs.toNat + 125000 * 2 ^ s.cad.interval.toNat ≤ now.toNat →
      (∃ t, exec (.syncExchange true now) s = .next t ∧ t.cad.syncFails = 0 ∧ t.cad.synced = s.cad.synced ∧ t.cad.events = s.cad.events ∧ t.ts = now) ∧
      (∃ t, exec (.syncExchange false now) s = .next t ∧ t.cad.syncFails = s.cad.syncFails + 1 ∧
        (s.cad.syncFails < 3 → t.cad.synced = s.cad.synced ∧ t.cad.events = s.cad.events) ∧
        (3 ≤ s.cad.syncFails → t.cad.synced = false ∧ t.cad.events = raiseEv s.cad.events 5))) ∧
    (∀ (port : FabPort) (msg : SyncMsg) (f : Nat) (q : Int), s.cad.syncEn = true → s.pwr.trip = false → syncPort s = some f → q = syncOffset s f msg →
      (msg.src.val = (s.port f).neigh.toNat → 4000 < q → exec (.fabSync port msg) s = .next { s with
        ts := s.ts + BitVec.ofNat 64 (q.toNat / 4), cad.offset := BitVec.ofInt 32 q, cad.synced := false, cad.syncFails := 0, cad.slew := q % 4 }) ∧
      (msg.src.val = (s.port f).neigh.toNat → q ≤ 4000 → exec (.fabSync port msg) s = .next { s with
        cad.offset := BitVec.ofInt 32 q, cad.synced := decide (q.natAbs ≤ 20), cad.syncFails := 0, cad.slew := q }) ∧
      (msg.src.val ≠ (s.port f).neigh.toNat → exec (.fabSync port msg) s = .next s))
  )

/-- Stream commands (R231, R235, R413): a set-up without a tap makes the stream the sender's with its fields, a bind changes BIND and MAX_AGE alone, a release returns the stream to its reset values but for its counters; another partition's stream is refused with STATE 0x52. A beat of an owned stream in state A (R233): its first beat starts a frame, each beat puts its bytes behind the last, and the last completes the frame and makes it the newest; a stream that no partition owns counts the frame dropped; a stream number of 6 or 7 sets BAD_STRM (R645). Commands whose next state it gives, under conditions on the state and the operands alone: streamSetUp, streamRelease, streamBind, streamBeat. -/
def Obligations.Streams : Prop :=
  (
  ∀ (s : State) (p : PartId) (k : Packet) (n : Nat), par k 0 1 < 4 → par k 1 1 < 6 → n = 6 * par k 0 1 + par k 1 1 → hasRight s p.val (16 + par k 0 1) = true →
    (Starts s p 0x0601 k → formCheck k 32 32 [(3, 1), (13, 3)] = none → par k 2 1 = 0 → addrOk k 16 = true → 4096 ≤ par k 8 4 → par k 8 4 ≤ 4194304 → par k 8 4 % 4096 = 0 →
      2 ≤ par k 12 1 → par k 12 1 ≤ 64 → parAddr k 16 % blockBytes = 0 → parAddr k 16 + ceilDiv (par k 8 4 + 32) blockBytes * blockBytes ≤ 2 ^ 48 → par k 30 2 = 0 →
      ringBlocks s p.val + ceilDiv (par k 12 1 * (par k 8 4 + 32)) blockBytes ≤ (s.part p.val).qT2.toNat → (s.stream n).owned = false →
      (∀ b ∈ viewBlocks (parAddr k 16) (par k 8 4), (s.block p.val b).state = .unmapped) →
      ∃ t, exec (.streamSetUp p) s = .next t ∧ (t.stream n).owned = true ∧ (t.stream n).owner = BitVec.ofNat 6 p.val ∧ (t.stream n).cut = false ∧
        (t.stream n).slotBytes = par k 8 4 ∧ (t.stream n).nslots = par k 12 1 ∧ (t.stream n).viewAddr = parAddr k 16 ∧ (t.stream n).bind = BitVec.ofNat 32 (par k 24 4) ∧
        (t.stream n).maxAge = par k 28 2 ∧ (t.stream n).tap = false ∧ (t.stream n).slots = [] ∧ (t.stream n).pinned = none ∧
        (t.stream n).frames = (s.stream n).frames ∧ (∀ m, m ≠ n → t.stream m = s.stream m) ∧ t.cad = s.cad ∧ t.spr = s.spr) ∧
    (Starts s p 0x0602 k → formCheck k 2 2 [] = none → (s.stream n).owned = true →
      ((s.stream n).owner.toNat = p.val → ∃ t, exec (.streamRelease p) s = .next t ∧ (t.stream n).owned = false ∧ (t.stream n).slots = [] ∧ (t.stream n).bind = 0xFFFFFFFF ∧
        (t.stream n).frames = (s.stream n).frames ∧ (t.stream n).dropped = (s.stream n).dropped ∧ (∀ m, m ≠ n → t.stream m = s.stream m)) ∧
      ((s.stream n).owner.toNat ≠ p.val → exec (.streamRelease p) s = .next (kept s (reply (takeHand s p.val) p.val k 0x0100 0 (BitVec.ofNat 32 n) 0x52)))) ∧
    (Starts s p 0x0603 k → formCheck k 10 10 [(2, 2)] = none → (s.stream n).owned = true → (s.stream n).owner.toNat = p.val →
      exec (.streamBind p) s = .next (kept s (reply ((takeHand s p.val).modStream n (fun q => { q with bind := BitVec.ofNat 32 (par k 4 4), maxAge := par k 8 2 }))
        p.val k 0 0 (BitVec.ofNat 32 n) 0x51)))
  ) ∧
  (
  ∀ (s : State) (port : Fin 4) (b : StreamBeat) (now : W64) (n : Nat), n = 6 * port.val + b.strm.val → s.spr.pstate = .a → s.pwr.trip = false →
    b.par.getLsbD 8 = oddOnes (b.strm.val + b2n b.sof * 8 + b2n b.eof * 16 + b.nb.toNat * 32) → parityOf 8 b.data.toNat = b.par.toNat % 256 →
    (6 ≤ b.strm.val → exec (.streamBeat port b now) s = .next { s.advance now with ports.events := raiseEv s.ports.events 6 }) ∧
    (b.strm.val < 6 → (s.stream n).owned = false →
      (b.sof = true → ∃ t, exec (.streamBeat port b now) s = .next t ∧ (t.stream n).dropped = satInc (s.stream n).dropped ∧ (t.stream n).events = raiseEv (s.stream n).events 1 ∧
        (∀ m, m ≠ n → t.stream m = s.stream m)) ∧
      (b.sof = false → exec (.streamBeat port b now) s = .next (s.advance now))) ∧
    (b.strm.val < 6 → (s.stream n).owned = true → (s.stream n).cut = false → (s.stream n).tap = false → (s.stream n).inFrame = false → b.sof = true → b.eof = true → b.nb = 0 →
      32 ≤ (s.stream n).slotBytes → (s.stream n).lastSeq = none → (s.stream n).suspended = false →
      Mem.wf 0 (tget ({} : Slot) (s.stream n).slots (nextSlot (s.stream n))).data = true →
      ∃ (t : State) (e : Slot), exec (.streamBeat port b now) s = .next t ∧ (t.stream n).newest = some (nextSlot (s.stream n)) ∧ (t.stream n).inFrame = false ∧
        (t.stream n).frames = satInc (s.stream n).frames ∧ (t.stream n).nextSeq = (s.stream n).nextSeq + 1 ∧ e = tget {} (t.stream n).slots (nextSlot (s.stream n)) ∧
        e.complete = true ∧ e.len = 32 ∧ e.seq = (s.stream n).nextSeq ∧ e.gap = false ∧ e.trunc = false ∧ e.ts = (s.advance now).ts ∧
        (∀ i, i < 32 → mget 0 e.data i = BitVec.ofNat 8 (b.data.toNat / 256 ^ i)) ∧ (∀ m, m ≠ n → t.stream m = s.stream m) ∧ t.mem = s.mem ∧ t.parts = s.parts)
  )

/-- The watch commands (R312, R313, R334): a program that passes its checks is copied to line 0 and is the sender's; its owner starts and stops it; another partition is refused with STATE_REFUSED. Commands whose next state it gives, under conditions on the state and the operands alone: watchLoad, watchStart, watchStop. -/
def Obligations.WatchCommands : Prop :=
  ∀ (s : State) (p : PartId) (k : Packet), hasRight s p.val 2 = true →
    (∀ (bs : List Byte) (line n : Nat), Starts s p 0x0701 k → formCheck k 12 14 [] = none → addrOk k 0 = true → parAddr k 0 + par k 8 4 ≤ 2 ^ 48 → par k 8 4 ≤ 262144 →
      (s.spr.owner = none ∨ s.spr.owner = some p.val) → anyBlock s p.val (parAddr k 0) (par k 8 4) .unmapped = false → anyBlock s p.val (parAddr k 0) (par k 8 4) .poisoned = false →
      bs = devRead s p.val (parAddr k 0) (par k 8 4) → line = (if pktExpert k then par k 12 2 else 32) → watchBad s bs line (pktExpert k) = none → watchCount bs = some n →
      ∃ t, exec (.watchLoad p) s = .next t ∧ t.spr.owner = some p.val ∧ t.spr.npkt = n ∧ t.spr.source = 1 ∧ t.spr.dataLine = line ∧ t.spr.history = [] ∧
        t.spr.watchEn = s.spr.watchEn ∧ t.spr.wakeEn = s.spr.wakeEn ∧ t.cad = s.cad ∧ t.streams = s.streams ∧
        (Mem.wf 0 s.spr.sram = true → ∀ i, i < 32 * n → mget 0 t.spr.sram i = bs.getD i 0)) ∧
    (Starts s p 0x0702 k → formCheck k 0 0 [] = none → s.spr.owner = some p.val → s.spr.npkt ≠ 0 →
      exec (.watchStart p) s = .next (kept s (reply { takeHand s p.val with spr.watchEn := true, spr.windowTs := if s.spr.watchEn then s.spr.windowTs else s.ts } p.val k 0 0 0xFFFFFFFF 0x72))) ∧
    (Starts s p 0x0703 k → formCheck k 0 0 [] = none → s.spr.owner = some p.val → s.spr.npkt ≠ 0 →
      exec (.watchStop p) s = .next (kept s (reply { takeHand s p.val with spr.watchEn := false, spr.history := [], spr.inWindow := false, spr.running := false, spr.onOpen := false, spr.windowDue := false } p.val k 0 0 0xFFFFFFFF 0x71))) ∧
    (∀ q, Starts s p 0x0702 k → formCheck k 0 0 [] = none → s.spr.owner = some q → q ≠ p.val → s.spr.npkt ≠ 0 →
      exec (.watchStart p) s = .next (kept s (reply (takeHand s p.val) p.val k 0x0100 0 0xFFFFFFFF 0x73)))

/-- A watch window (R305): one period after the last, with the watch enabled and a program loaded, it opens, counts and runs, at once in A and I and after SPR_WATCH_ON in T and W; one that is due while another is open sets WIN_OVERRUN and waits. The hold of the wake output ends it (R314). The watch packets (R307 to R309, R311): while the program runs, the packet at the counter does its operation on Sprout's SRAM or the score and the counter goes to the next packet; END, a tap that does not hold LEN samples, and the stop actions of TEST end the window's program. Commands whose next state it gives, under conditions on the state and the operands alone: watchWindow, watchOnExpire, watchPktWindow, watchEnergy, watchBand, watchFeat, watchDense, watchScore, watchTest, watchEnd, wakeHoldExpire. -/
def Obligations.WatchRuns : Prop :=
  (
  ∀ (s : State) (now : W64), s.ts.toNat ≤ now.toNat →
    (s.spr.watchEn = true → s.spr.npkt ≠ 0 → s.spr.pstate ≠ .s → s.spr.pstate ≠ .o → s.spr.windowTs.toNat + watchPeriod s ≤ now.toNat →
      (s.spr.inWindow = false → ∃ t, exec (.watchWindow now) s = .next t ∧ t.spr.inWindow = true ∧ t.spr.windows = satInc s.spr.windows ∧ t.spr.pc = 0 ∧ t.spr.score = 0 ∧
        (t.spr.running = true ↔ s.spr.pstate = .a ∨ s.spr.pstate = .i) ∧ (t.spr.onOpen = true ↔ s.spr.pstate = .t ∨ s.spr.pstate = .w) ∧
        t.spr.sram = s.spr.sram ∧ t.streams = s.streams ∧ t.parts = s.parts) ∧
      (s.spr.inWindow = true → exec (.watchWindow now) s = .next { s with
        ts := now, spr.windowTs := s.spr.windowTs + BitVec.ofNat 64 ((now.toNat - s.spr.windowTs.toNat) / watchPeriod s * watchPeriod s)
        spr.windowDue := true, spr.events := raiseEv s.spr.events 5 })) ∧
    (s.spr.inWindow = true → s.spr.onOpen = true → s.spr.openTs.toNat + s.spr.onTime.toNat * 1000 ≤ now.toNat →
      exec (.watchOnExpire now) s = .next { s with ts := now, spr.onOpen := false, spr.running := true }) ∧
    (s.spr.wakeOut = true → s.spr.wakeHold ≠ 0 → s.spr.wakeOutTs.toNat + s.spr.wakeHold.toNat * 1000000 ≤ now.toNat →
      exec (.wakeHoldExpire now) s = .next { s with ts := now, spr.wakeOut := false, ports.wakeO := false }) ∧
    (s.spr.wakeHold = 0 → exec (.wakeHoldExpire now) s = .next { s with ts := now })
  ) ∧
  (
  ∀ (s : State) (b : List Byte), s.spr.inWindow = true → s.spr.running = true → s.spr.windowDue = false → s.spr.pstate = .a → b = watchPacket s →
    (s.spr.pc.toNat + 1 < s.spr.npkt →
      (field b 0 1 = 1 → (s.stream (field b 4 1)).tap = true →
        field b 8 4 * ((field b 5 1 / 16) * (if nbit (field b 5 1) 0 then 1 else 2)) + (s.stream (field b 4 1)).tapCount.toNat % max 1 ((field b 5 1 / 16) * (if nbit (field b 5 1) 0 then 1 else 2)) ≤ (s.stream (field b 4 1)).tapBytes →
        ∃ t m, exec .watchPktWindow s = .next t ∧ t = { s with spr.sram := m, spr.lastStream := field b 4 1, spr.pc := s.spr.pc + 1 } ∧
          (∀ a, a < 64 * field b 12 2 ∨ 64 * field b 12 2 + 2 * field b 8 4 ≤ a → mget 0 m a = mget 0 s.spr.sram a)) ∧
      (field b 0 1 = 2 → exec .watchEnergy s = .next { s with spr.pc := s.spr.pc + 1, spr.score := clip32 ((sumFrom 0 (field b 8 4) (fun i => sample16 s (field b 4 2) i * sample16 s (field b 4 2) i)) / 2 ^ field b 12 1) }) ∧
      (field b 0 1 = 3 → exec .watchBand s = .next { s with spr.pc := s.spr.pc + 1, spr.score := clip32 ((sumFrom (field b 13 1 - 1) (field b 8 4) (fun i =>
          let y := sumFrom 0 (field b 13 1) (fun j => sample8 s (field b 6 2) j * (if j ≤ i then sample16 s (field b 4 2) (i - j) else 0)) / 2 ^ 7
          y * y)) / 2 ^ field b 12 1) }) ∧
      (field b 0 1 = 4 → ∃ t m, exec .watchFeat s = .next t ∧ t = { s with spr.sram := m, spr.pc := s.spr.pc + 1, freeNo := s.freeNo + 1 } ∧
        (∀ a, a < 64 * field b 14 2 ∨ 64 * field b 14 2 + field b 10 2 * field b 12 1 ≤ a → mget 0 m a = mget 0 s.spr.sram a)) ∧
      (field b 0 1 = 5 → ∃ t m, exec .watchDense s = .next t ∧ t = { s with spr.sram := m, spr.pc := s.spr.pc + 1 } ∧
        (∀ a, a < 64 * field b 10 2 ∨ 64 * field b 10 2 + field b 14 2 * (if nbit (field b 19 1) 1 then 4 else 1) ≤ a → mget 0 m a = mget 0 s.spr.sram a)) ∧
      (field b 0 1 = 6 → exec .watchScore s = .next { s with spr.pc := s.spr.pc + 1, spr.score := BitVec.ofInt 32 (clampInt 0 65536 ((sample32 s (field b 4 2) (field b 6 1) * field b 8 2 + (if field b 10 1 = 0 then 0 else 2 ^ (field b 10 1 - 1))) / 2 ^ field b 10 1)) }) ∧
      (field b 0 1 = 7 → s.spr.score.toNat < field b 4 4 → nbit (field b 10 1) 4 = false →
        (((tget [] s.spr.history s.spr.pc.toNat).take (field b 9 1 - 1)).filter id).length < field b 8 1 → 0 < field b 9 1 →
        exec .watchTest s = .next { s with spr.pc := s.spr.pc + 1, spr.history := tset s.spr.history s.spr.pc.toNat (false :: (tget [] s.spr.history s.spr.pc.toNat).take (field b 9 1 - 1)) }) ∧
      (field b 0 1 = 7 → field b 4 4 ≤ s.spr.score.toNat → field b 8 1 = 1 → 1 ≤ field b 9 1 → field b 10 1 = 2 →
        ∃ t, exec .watchTest s = .next t ∧ t.spr.hits = satInc s.spr.hits ∧ t.spr.events = raiseEv s.spr.events 0 ∧ t.spr.wakeOut = true ∧ t.ports.wakeO = true ∧
          t.spr.hitTs = s.ts ∧ t.spr.hitScore = s.spr.score ∧ t.spr.hitPacket = s.spr.pc ∧ tget [] t.spr.history s.spr.pc.toNat = [] ∧ t.spr.pc = s.spr.pc + 1 ∧
          t.spr.target = s.spr.target ∧ t.spr.wakeCause = s.spr.wakeCause)) ∧
    (field b 0 1 = 1 → (s.stream (field b 4 1)).tap = false → exec .watchPktWindow s = .next { s with spr.lastStream := field b 4 1, spr.inWindow := false, spr.running := false, spr.events := raiseEv s.spr.events 6 }) ∧
    (field b 0 1 = 8 → exec .watchEnd s = .next { s with spr.inWindow := false, spr.running := false })
  )

/-- The ladder's commands (R324, R326, R329, R334, R414): a rung above the highest UP or RISING one is the new target, with PROMOTE; a lower one falls when its cores are idle; a power state that may be entered is, W, S and O during a rise, a fall or a drain too; a pre-warm list of the sender replaces its own entries; wake set writes the enables, the timer and the hold. Commands whose next state it gives, under conditions on the state and the operands alone: preWarmSet, rung, powerState, wakeSet. -/
def Obligations.LadderCommands : Prop :=
  ∀ (s : State) (p : PartId) (k : Packet), hasRight s p.val 2 = true →
    (Starts s p 0x0705 k → formCheck k 1 1 [] = none → par k 0 1 ≤ 3 →
      (topRising s < par k 0 1 → par k 0 1 ≤ s.spr.maxRung.toNat → s.spr.falling = none → s.spr.target.toNat < par k 0 1 →
        ∃ t, exec (.rung p) s = .next t ∧ t.spr.target = BitVec.ofNat 2 (par k 0 1) ∧ t.spr.events = raiseEv s.spr.events 1 ∧ t.spr.promotions = satInc s.spr.promotions ∧
          t.spr.pstate = s.spr.pstate ∧ t.cad = s.cad) ∧
      (par k 0 1 < topRung s → 0 < par k 0 1 → isRising s = false → inSequence s = false → coresIdle s ((List.range s.ncores).filter (fun c => decide (rungSize s (par k 0 1) ≤ c))) = true →
        ∃ t, exec (.rung p) s = .next t ∧ t.spr.target = BitVec.ofNat 2 (par k 0 1) ∧ t.spr.falling = some (par k 0 1 + 1) ∧ t.spr.isoDone = false ∧
          (par k 0 1 < 2 → t.spr.l2 = .falling ∨ s.spr.l2 = .down) ∧ (t.spr.l3 = .falling ∨ s.spr.l3 = .down) ∧ t.spr.l1 = s.spr.l1 ∧ t.spr.pstate = s.spr.pstate)) ∧
    (Starts s p 0x0706 k → formCheck k 1 1 [] = none →
      (par k 0 1 = 1 → inSequence s = false → anyBusy s = false → s.mem.queue = [] → fits s .i = true → ∃ t, exec (.powerState p) s = .next t ∧ t.spr.pstate = .i ∧ t.spr.iSince = s.ts ∧
        (∀ f, (s.port f).state = .up → (t.port f).state = .lp) ∧ t.cores = s.cores) ∧
      (par k 0 1 = 2 → inSequence s = false → anyBusy s = false → s.mem.queue = [] → fits s .t = true → ∃ t, exec (.powerState p) s = .next t ∧ t.spr.pstate = .t ∧ t.fab.sleeping = true ∧
        t.crp.net.req = false ∧ t.crp.ctl.req = false ∧ (s.crp.net.req = true → t.crp.net.ret = true) ∧ t.spr.l1 = s.spr.l1 ∧ t.spr.l2 = s.spr.l2 ∧ t.spr.l3 = s.spr.l3) ∧
      (3 ≤ par k 0 1 → par k 0 1 ≤ 5 → (par k 0 1 = 3 → anyStanding s = false) → (s.spr.draining.isSome && s.spr.isoDone) = false → ∃ t, exec (.powerState p) s = .next t ∧
        t.spr.draining = some (if par k 0 1 = 3 then .w else if par k 0 1 = 4 then .s else .o) ∧ t.spr.pstate = s.spr.pstate ∧ t.spr.target = 0 ∧ t.spr.l1 ≠ .up) ∧
      (par k 0 1 = 0 ∨ 5 < par k 0 1 → exec (.powerState p) s = .next (kept s (reply (takeHand s p.val) p.val k 0x0104 (detPar 0) 0xFFFFFFFF 0)))) ∧
    (∀ (n r : Nat) (l : List Byte), Starts s p 0x0704 k → formCheck k 16 16 [(2, 6)] = none → addrOk k 8 = true → r = par k 0 1 → n = par k 1 1 → 1 ≤ r → r ≤ 3 →
      ((tget [] s.spr.preWarm r).filter (fun e => e.part != p.val)).length + n ≤ 64 →
      listOf s p.val k (16 * n) = .bytes l → preFormat l n = none → preRange s p.val r l n = none →
      exec (.preWarmSet p) s = .next (kept s (done { takeHand s p.val with spr.preWarm := tset s.spr.preWarm r ((tget [] s.spr.preWarm r).filter (fun e => e.part != p.val) ++ (List.range n).map (preEntry p.val l)) } p k))) ∧
    (Starts s p 0x0707 k → formCheck k 10 10 [(1, 3)] = none → par k 0 1 < 128 →
      exec (.wakeSet p) s = .next (kept s (done { takeHand s p.val with spr.wakeEn := BitVec.ofNat 7 (par k 0 1), spr.aonTimer := BitVec.ofNat 32 (par k 4 4), spr.aonTs := s.ts, spr.wakeHold := BitVec.ofNat 16 (par k 8 2) } p k)))

/-- Entry to I and T by themselves, and the start of restores (R315, R317, R318, R320): each acts in the state and at the time its rule names. A wake by enabled sources latches them and begins the restore; the always-on timer is one of them. Rises, falls and restores end (R316, R320, R325, R326, R332): state A is declared no earlier than its fixed delay, a rising rung is UP, an idle rung falls, once no copy is left in the cores that fall a drain ends with the isolation, and a standalone unit without a session goes to W. Commands whose next state it gives, under conditions on the state and the operands alone: drainComplete, aonTimerExpire, autoIEntry, autoTEntry, preReleaseRestore, wake, stateReached, rungUp, demoteIdle, standaloneDemote. -/
def Obligations.PowerAndLadderEvents : Prop :=
  (
  ∀ (s : State) (now : W64), s.ts.toNat ≤ now.toNat → s.spr.restoring = none → s.spr.draining = none →
    (s.spr.pstate = .a → s.spr.autoI = true → anyBusy s = false → s.mem.queue = [] → s.spr.idleSince.toNat + 20000 ≤ now.toNat → s.graphs = [] → inSequence s = false → 15 ≤ s.rennet.step →
      s.pwr.trip = false → ∃ t, exec (.autoIEntry now) s = .next t ∧ t.spr.pstate = .i ∧ t.spr.iSince = now ∧ t.cores = s.cores ∧ t.mem = s.mem ∧ t.parts = s.parts) ∧
    (s.spr.pstate = .i → s.spr.autoT = true → anyBusy s = false → s.spr.iSince.toNat + s.spr.idleT.toNat * 1000000 ≤ now.toNat → s.graphs = [] → inSequence s = false →
      ∃ t, exec (.autoTEntry now) s = .next t ∧ t.spr.pstate = .t ∧ t.fab.sleeping = true ∧ t.mem.maps = s.mem.maps) ∧
    ((s.spr.pstate = .i ∨ s.spr.pstate = .t) → fits { s with ts := now } s.spr.pstate = false → ∃ t, exec (.preReleaseRestore now) s = .next t ∧ t.spr.restoring = some s.spr.pstate ∧ t.spr.wakeTs = now ∧
      t.spr.wakeCause = s.spr.wakeCause) ∧
    (∀ (sources : BitVec 7) (first : Fin 7) (rung : Fin 4) (from_ : PState), s.spr.pstate = from_ → (from_ = .i ∨ from_ = .t) → sources &&& s.spr.wakeEn &&& wakesFrom from_ ≠ 0 → sources.getLsbD 3 = false →
      ∃ t, exec (.wake sources first rung now) s = .next t ∧ t.spr.wakeCause = s.spr.wakeCause ||| (sources &&& s.spr.wakeEn &&& wakesFrom from_) ∧ t.spr.restoring = some from_ ∧ t.spr.wakeTs = now ∧
        ((sources &&& s.spr.wakeEn &&& wakesFrom from_).getLsbD first.val = true → t.spr.first = BitVec.ofNat 3 first.val)) ∧
    (s.spr.aonTimer ≠ 0 → s.spr.aonTs.toNat + s.spr.aonTimer.toNat * 1000000 ≤ now.toNat → s.spr.wakeEn.getLsbD 5 = true → s.spr.pstate = .w → s.rennet.boot = .verified →
      ∃ t, exec (.aonTimerExpire now) s = .next t ∧ t.spr.aonTimer = 0 ∧ t.spr.wakeCause = s.spr.wakeCause ||| 0x20 ∧ t.spr.first = 5 ∧ t.spr.restoring = some .w ∧ t.spr.l1 = .rising) ∧
    (s.spr.pstate = .a → s.spr.aonTimer ≠ 0 → s.spr.aonTs.toNat + s.spr.aonTimer.toNat * 1000000 ≤ now.toNat →
      exec (.aonTimerExpire now) s = .next { s with ts := now, spr.aonTimer := 0 })
  ) ∧
  (
  ∀ (s : State) (now : W64), s.ts.toNat ≤ now.toNat →
    (s.spr.restoring = some .i → s.spr.isoDone = false → poweredUp s = true → s.spr.wakeTs.toNat + 1000 = now.toNat → s.spr.askPower = none → s.spr.heldHost = [] →
      ∃ t, exec (.stateReached true now) s = .next t ∧ t.spr.pstate = .a ∧ t.spr.restoring = none ∧ t.spr.idleSince = now ∧ t.fab.sleeping = false) ∧
    (∀ src, s.spr.restoring = some src → now.toNat < s.spr.wakeTs.toNat + restoreDelay src → exec (.stateReached true now) s = .next { s with ts := now }) ∧
    (s.spr.pstate = .a → s.spr.restoring = none → s.spr.l1 = .up → s.spr.l2 = .rising → s.spr.l3 = .down → s.pwr.trip = false → s.spr.target = 2 → s.spr.riseAt.toNat + 4000000 = now.toNat → s.spr.falling = none → s.spr.draining = none →
      (extraCores s 2).all (fun c => (s.core c).on && !(s.core c).iso) = true →
      ∃ t, exec (.rungUp true now) s = .next t ∧ t.spr.l2 = .up ∧ t.spr.l1 = .up ∧ t.spr.l3 = .down ∧ t.spr.pstate = .a ∧ t.spr.rungIdle = [(1, now), (2, now), (3, now)]) ∧
    (∀ n : Fin 4, n.val = 2 ∨ n.val = 3 → (s.spr.pstate = .a ∨ s.spr.pstate = .i ∨ s.spr.pstate = .t) → topRung s = n.val → s.spr.autoDemote = true → s.spr.demoteIdle ≠ 0 → s.spr.restoring = none → s.spr.draining = none → s.spr.falling = none →
      isRising s = false → s.spr.target.toNat ≤ topRung s → (tget (0 : W64) s.spr.rungIdle n.val).toNat + s.spr.demoteIdle.toNat * 1000000 ≤ now.toNat → coresIdle s (extraCores s n.val) = true →
      ∃ t, exec (.demoteIdle n now) s = .next t ∧ t.spr.falling = some n.val ∧ t.spr.target = BitVec.ofNat 2 (n.val - 1) ∧ t.spr.isoDone = false ∧ t.spr.pstate = s.spr.pstate ∧ t.cad = s.cad) ∧
    (∀ n, s.spr.isoDone = false → s.spr.draining = none → s.spr.falling = some n → 2 ≤ n → s.ncores ≤ 64 → (∀ c, rungSize s (n - 1) ≤ c → c < s.ncores → (s.core c).on = true ∧ (s.core c).req = true) → rungSize s (n - 1) < s.ncores →
      copiesIn s (inCores ((List.range s.ncores).filter (fun c => decide (rungSize s (n - 1) ≤ c)))) = [] →
      ∃ t, exec .drainComplete s = .next t ∧ t.spr.isoDone = true ∧ t.spr.falling = some n ∧ (∀ c, rungSize s (n - 1) ≤ c → c < s.ncores → (t.core c).req = false ∧ (t.core c).inReset = true)) ∧
    (s.spr.source = 2 → s.spr.everAttached = false → 15 ≤ s.rennet.step → s.spr.startedAt.toNat + 1000000000 ≤ now.toNat → inSequence s = false → s.spr.pstate = .a →
      ∃ t, exec (.standaloneDemote now) s = .next t ∧ t.spr.draining = some .w ∧ t.spr.target = 0)
  )

/-- The fabric group (R354, R366, R370, R375, R377, R415): status writes 64 bytes at OUT and changes no fabric state; a binding is added or removed; a group or job is set with the members of its list or withdrawn; a port's enable and limits are written, its link retrained, a fixed ID proposed again. Each is answered DONE with the fabric identity's state. Commands whose next state it gives, under conditions on the state and the operands alone: fabricStatus, peerBind, peerUnbind, barrierGroupSet, barrierGroupClear, replicaJobSet, replicaJobClear, portWrite, portRetrain, clearFixedIdConflict. -/
def Obligations.FabricCommands : Prop :=
  ∀ (s : State) (p : PartId) (k : Packet),
    (Starts s p 0x0801 k → formCheck k 16 16 [(2, 6)] = none → addrOk k 8 = true → par k 0 2 < 1024 → anyBlock s p.val (parAddr k 8) 64 .unmapped = false →
      exec (.fabricStatus p) s = .next (kept s (reply (devPut (takeHand s p.val) p.val (parAddr k 8) (freeBytes s 44 64)).draw p.val k 0 0 0xFFFFFFFF (fabState s)))) ∧
    (hasRight s p.val 3 = true →
      (Starts s p 0x0802 k → formCheck k 3 3 [] = none → par k 0 2 < 1024 → par k 2 1 < 64 → (s.fab.binds.filter (fun b => b.1 == p.val)).length < 64 →
        (∀ b ∈ s.fab.binds, b.1 = p.val → b.2.1 ≠ par k 0 2) →
        exec (.peerBind p) s = .next (kept s (reply { takeHand s p.val with fab.binds := s.fab.binds ++ [(p.val, par k 0 2, par k 2 1)] } p.val k 0 0 0xFFFFFFFF (fabState s)))) ∧
      (Starts s p 0x0803 k → formCheck k 2 2 [] = none → par k 0 2 < 1024 → ∃ t, exec (.peerUnbind p) s = .next t ∧
        t.fab = { s.fab with binds := s.fab.binds.filter (fun b => !(b.1 == p.val && b.2.1 == par k 0 2)) } ∧ t.graphs = s.graphs ∧ t.cores = s.cores) ∧
      (∀ (n i : Nat) (l : List Byte), Starts s p 0x0804 k → formCheck k 16 16 [(4, 4)] = none → addrOk k 8 = true → n = par k 2 2 → 2 ≤ n → n ≤ 1024 → barSlot s (par k 0 2) = none →
        freeSlot s.fab.bars (·.valid) 64 = some i →
        listOf s p.val k (2 * n) = .bytes l →
        ∃ (t : State) (b : Barrier), exec (.barrierGroupSet p) s = .next t ∧ t.fab.bars = tset s.fab.bars i b ∧ b.valid = true ∧ b.id = BitVec.ofNat 16 (par k 0 2) ∧ b.owner = p.val ∧
          b.members = (List.range n).map (fun j => (field l (2 * j) 2 % 1024, field l (2 * j) 2 / 1024)) ∧ b.gen = 0 ∧ b.pend = none ∧ b.arrived = [] ∧ t.fab.jobs = s.fab.jobs ∧ t.fab.binds = s.fab.binds) ∧
      (Starts s p 0x0805 k → formCheck k 2 2 [] = none → ∃ t, exec (.barrierGroupClear p) s = .next t ∧ barSlot t (par k 0 2) = none) ∧
      (∀ (n : Nat) (l : List Byte), Starts s p 0x0806 k → formCheck k 16 16 [(4, 4)] = none → addrOk k 8 = true → par k 0 1 < 16 → n = par k 1 1 → 2 ≤ n → n ≤ 8 → par k 2 2 ≠ 0 →
        listOf s p.val k (8 * n) = .bytes l →
        (∀ i, i < n → field l (8 * i + 3) 1 = 0 ∧ field l (8 * i) 2 < 1024 ∧ field l (8 * i + 2) 1 < 64 ∧ tfind s.fab.db (field l (8 * i) 2) = none) →
        ∃ (t : State) (j : Job), exec (.replicaJobSet p) s = .next t ∧ t.fab.jobs = tset s.fab.jobs (par k 0 1) j ∧ j.valid = true ∧ j.owner = p.val ∧ j.interval = par k 2 2 ∧ j.held = [] ∧
          j.members = (List.range n).map (fun i => (field l (8 * i) 2, field l (8 * i + 2) 1, BitVec.ofNat 32 (field l (8 * i + 4) 4)))) ∧
      (Starts s p 0x0807 k → formCheck k 1 1 [] = none → par k 0 1 < 16 → exec (.replicaJobClear p) s = .next (kept s (reply { takeHand s p.val with fab.jobs := tdel s.fab.jobs (par k 0 1) } p.val k 0 0 0xFFFFFFFF (fabState s)))) ∧
      (Starts s p 0x0808 k → formCheck k 5 5 [] = none → par k 0 1 < 6 → par k 2 1 ≤ 1 → par k 3 1 ≤ 2 → par k 4 1 ≤ 2 →
        (par k 1 1 = 0 → par k 2 1 = 1 → (s.port (par k 0 1)).en = true →
          exec (.portWrite p) s = .next (kept s (reply ((takeHand s p.val).modPort (par k 0 1) (fun q => { q with en := true, rateMax := BitVec.ofNat 2 (par k 3 1), lanesMax := BitVec.ofNat 2 (par k 4 1) })) p.val k 0 0 0xFFFFFFFF (fabState s)))) ∧
        (par k 1 1 = 0 → par k 2 1 = 0 → (s.port (par k 0 1)).en = true → ∃ t, exec (.portWrite p) s = .next t ∧ (t.port (par k 0 1)).en = false ∧ (t.port (par k 0 1)).state = .off ∧ (t.port (par k 0 1)).replayBuf = []) ∧
        (par k 1 1 = 1 → (s.port (par k 0 1)).retrainTs = [] → (s.port (par k 0 1)).en = true → (s.port (par k 0 1)).phyReady = true →
          ∃ t, exec (.portRetrain p) s = .next t ∧ (t.port (par k 0 1)).state = .training ∧ (t.port (par k 0 1)).retrains = satInc (s.port (par k 0 1)).retrains ∧ (t.port (par k 0 1)).retrainTs = [s.ts]) ∧
        (par k 1 1 = 2 → s.fab.conflict = true → ∃ t, exec (.clearFixedIdConflict p) s = .next t ∧ t.fab.conflict = false ∧ t.fab.id = s.fab.fixedId ∧ t.fab.idState = 1 ∧ t.fab.claimAt = s.ts) ∧
        (par k 1 1 = 2 → s.fab.conflict = false → exec (.clearFixedIdConflict p) s = .next (kept s (reply (takeHand s p.val) p.val k 0 0 0xFFFFFFFF (fabState s))))))

/-- The power group (R416, R606, R613, R618): a phase preference replaces its own field of PWR_PREF, the cap and the throttle threshold are written. The reliability group (R417, R575, R578, R582, R583): a probe runs and, without findings, completes with its rounds and zeros; a fence makes its engine FENCED; an un-fence that finds nothing returns it to IDLE. Commands whose next state it gives, under conditions on the state and the operands alone: phasePreference, powerCap, thermal, probe, probeComplete, fence, unFence, replicaVote. -/
def Obligations.PowerAndReliabilityCommands : Prop :=
  ∀ (s : State) (p : PartId) (k : Packet),
    (hasRight s p.val 4 = true →
      (∀ op, Starts s p 0x0901 k → formCheck k 2 3 [] = none → par k 0 1 ≤ 3 → par k 1 1 ≤ 2 → op = (if pktExpert k then par k 2 1 else aimPoint (par k 0 1) (par k 1 1)) → op ≤ 7 →
        ∃ t, exec (.phasePreference p) s = .next t ∧ prefOf t p.val (par k 0 1) = op ∧ (∀ ph, ph ≤ 3 → ph ≠ par k 0 1 → prefOf t p.val ph = prefOf s p.val ph) ∧
          (∀ q, q ≠ p.val → t.part q = s.part q) ∧ t.pwr = s.pwr ∧ t.cores = s.cores) ∧
      (Starts s p 0x0902 k → formCheck k 4 4 [] = none → (par k 0 4 = 0 ∨ s.ncores * 5530 + 1500 ≤ par k 0 4) →
        exec (.powerCap p) s = .next (kept s (done { takeHand s p.val with pwr.cap := BitVec.ofNat 32 (par k 0 4) } p k))) ∧
      (Starts s p 0x0903 k → formCheck k 1 1 [] = none → 85 ≤ par k 0 1 → par k 0 1 ≤ 115 →
        exec (.thermal p) s = .next (kept s (done { takeHand s p.val with pwr.throttle := BitVec.ofNat 7 (par k 0 1) } p k)))) ∧
    (hasRight s p.val 5 = true →
      (∀ es, Starts s p 0x0A01 k → formCheck k 0 10 [] = none → pktExpert k = false → s.rel.probe = none → (∀ c : Fin 64, (s.part p.val).cores.getLsbD c.val = true → c.val < s.ncores) →
        es = (rotation s).filter (fun i => nbit (s.part p.val).cores.toNat (i / 8)) → 3 ≤ es.length → s.rennet.entropyFail = false → s.rennet.drbgOn = true →
        ∃ t, exec (.probe p) s = .next t ∧ t.rel.probe = some { pend := some (pendOf p.val k), engines := es, rounds := 64, seed := BitVec.ofNat 64 (leNat (padTo 8 (Config.drbg s.rennet.drbgN 8))) } ∧ (t.part p.val).cqTail = (s.part p.val).cqTail ∧
          t.rennet.drbgN = s.rennet.drbgN + 1 ∧ t.cores = s.cores) ∧
      (∀ (n c e : Nat), Starts s p 0x0A02 k → formCheck k 4 4 [(1, 1)] = none → par k 0 1 = 0 → n = par k 2 2 → n < 8 * s.ncores → c = n / 8 → e = n % 8 → (s.engine c e).state ≠ .fenced →
        (∃ i, i < 8 ∧ i ≠ e ∧ (s.engine c i).state ≠ .fenced) →
        ∃ t, exec (.fence p) s = .next t ∧ (t.engine c e).state = .fenced ∧ (t.engine c e).queue = [] ∧ (t.engine c e).run = none ∧ (t.engine c e).t0 = [] ∧ (t.core c).fenced = (s.core c).fenced ∧
          (∀ e', e' ≠ e → t.engine c e' = s.engine c e') ∧ (∀ c', c' ≠ c → t.core c' = s.core c')) ∧
      (∀ (n c e : Nat), Starts s p 0x0A03 k → formCheck k 4 4 [(1, 1)] = none → par k 0 1 = 0 → n = par k 2 2 → n < 8 * s.ncores → c = n / 8 → e = n % 8 → (s.engine c e).state = .fenced → (s.core c).on = true →
        ∃ t, exec (.unFence p []) s = .next t ∧ (t.engine c e).state = .idle ∧ (t.core c).fenced = false ∧ (∀ e', e' ≠ e → t.engine c e' = s.engine c e') ∧ (∀ c', c' ≠ c → t.core c' = s.core c'))) ∧
    (∀ (d : Pend) (pr : Probe), s.rel.probe = some pr → pr.pend = some d → d.part = p.val → pr.rounds < 65536 →
      exec (.probeComplete p []) s = .next (kept s (replyLater { s with rel.probe := none } d 0 (BitVec.ofNat 32 pr.rounds) 0xFFFFFFFF 0))) ∧
    (∀ (job : Fin 16) (interval : W32), (tget ({} : Job) s.fab.jobs job.val).valid = true →
      ((tget ({} : Job) s.fab.jobs job.val).held.filter (fun h => h.1 == interval)).any (fun h => decide (h.2.2.1.toNat + 16 * 65536 ≤ extTime s)) = true →
      ((((tget ({} : Job) s.fab.jobs job.val).held.filter (fun h => h.1 == interval)).filter (fun h => h.2.2.2.2)).map (fun h => h.2.2.2.1)).dedup.length ≤ 1 →
      ∃ t, exec (.replicaVote job interval) s = .next t ∧ t = { s with fab.jobs := tset s.fab.jobs job.val { tget ({} : Job) s.fab.jobs job.val with held := (tget ({} : Job) s.fab.jobs job.val).held.filter (fun h => h.1 != interval) } })

/-! ### Links, identity and routes -/

/-- A link (R339 to R344, R362 to R364): a ready PHY starts training of an enabled port, the trained link is UP at the rate and width reached with full credits, a failed test is tried lower, a silent or dropped link goes DOWN with an empty replay buffer, LP_ENTER and SLEEP_NOTICE put an UP link to LP and SLEEP, and a wake pattern brings a SLEEP link up again in A. R342, R343: a flit with a bad CRC is counted and NAK is to be sent; a data flit out of sequence is discarded with NAK; one in sequence is counted and its acknowledgement frees the flits up to it. Seen on an UP link whose transmitter has no frame to send, outside a critical trip. Commands whose next state it gives, under conditions on the state and the operands alone: phyReady, linkStepTimeout, linkRestartTimer, linkTrained, phyReadyDrop, linkSilence, flitReceive, lpEnter, sleepNotice, wakePattern, rateAck. -/
def Obligations.LinksAndFlits : Prop :=
  (
  ∀ (s : State) (f : FabPort) (now : W64), s.ts.toNat ≤ now.toNat →
    ((s.port f.val).en = true → ∃ t, exec (.phyReady f now) s = .next t ∧ (t.port f.val).state = .training ∧ (t.port f.val).phyReady = true ∧
      (t.port f.val).tryLanes = (s.port f.val).lanesMax ∧ (t.port f.val).tryRate = minCode (s.port f.val).rateMax (s.port f.val).capsRate ∧ (∀ g, g ≠ f.val → t.port g = s.port g)) ∧
    ((s.port f.val).en = false → ∃ t, exec (.phyReady f now) s = .next t ∧ (t.port f.val).state = .off ∧ (t.port f.val).phyReady = true) ∧
    ((s.port f.val).state = .training → (s.port f.val).step = 4 → ∃ t, exec (.rateAck f now) s = .next t ∧ (t.port f.val).step = 6 ∧ (t.port f.val).rateAck = true ∧ (t.port f.val).state = .training) ∧
    (∀ peer : LinkPeer, (s.port f.val).state = .training → (s.port f.val).step = 6 → (s.port f.val).queue = [] → s.fab.idState = 0 →
      ∃ t, exec (.linkTrained f peer now) s = .next t ∧ (t.port f.val).state = .up ∧ (t.port f.val).rate = peer.rate ∧ (t.port f.val).lanes = peer.lanes ∧ (t.port f.val).neigh.toNat = peer.neigh.val ∧
        (t.port f.val).credits = fullCredits ∧ t.fab.events.flags.getLsbD 1 = true) ∧
    ((s.port f.val).state = .training → (s.port f.val).step = 6 → (s.port f.val).tryRate ≠ 0 → ∃ t, exec (.linkStepTimeout f now) s = .next t ∧ (t.port f.val).state = .training ∧
      (t.port f.val).tryRate = (s.port f.val).tryRate - 1 ∧ (t.port f.val).tryLanes = (s.port f.val).tryLanes) ∧
    ((s.port f.val).state = .training → (s.port f.val).step = 6 → (s.port f.val).tryRate = 0 → (s.port f.val).tryLanes ≠ 0 → ∃ t, exec (.linkStepTimeout f now) s = .next t ∧
      (t.port f.val).tryRate = minCode (s.port f.val).rateMax (s.port f.val).capsRate ∧ (t.port f.val).tryLanes = (s.port f.val).tryLanes - 1) ∧
    (∀ at_ : W64, (s.port f.val).restartAt = some at_ → at_.toNat ≤ now.toNat → (s.port f.val).phyReady = true → (s.port f.val).en = true →
      ∃ t, exec (.linkRestartTimer f now) s = .next t ∧ (t.port f.val).state = .training ∧ (t.port f.val).restartAt = none) ∧
    ((s.port f.val).state = .up →
      (∃ t, exec (.phyReadyDrop f now) s = .next t ∧ (t.port f.val).state = .down ∧ (t.port f.val).phyReady = false ∧ (t.port f.val).replayBuf = []) ∧
      ((s.port f.val).lastRx.toNat + 2000 ≤ now.toNat → ∃ t, exec (.linkSilence f now) s = .next t ∧ (t.port f.val).state = .down ∧ (t.port f.val).replayBuf = [] ∧
        ((s.port f.val).live = true → t.fab.events.flags.getLsbD 0 = true))) ∧
    ((s.port f.val).state = .up →
      (∃ t, exec (.lpEnter f now) s = .next t ∧ (t.port f.val).state = .lp ∧ (t.port f.val).replayBuf = (s.port f.val).replayBuf ∧ (∀ g, g ≠ f.val → t.port g = s.port g)) ∧
      (now.toNat < (s.port f.val).lastRx.toNat + 2000 → exec (.linkSilence f now) s = .next { s with ts := now })) ∧
    ((s.port f.val).state = .up ∨ (s.port f.val).state = .lp → ∃ t, exec (.sleepNotice f now) s = .next t ∧ (t.port f.val).state = .sleep ∧ (t.port f.val).replayBuf = []) ∧
    (∀ (lane : Fin 4) (n : Nat), (n < 3 → exec (.wakePattern f lane n now) s = .next { s with ts := now }) ∧
      (3 ≤ n → s.spr.pstate = .a → (s.port f.val).state = .sleep → (s.port f.val).en = true → (s.port f.val).phyReady = true → ∃ t, exec (.wakePattern f lane n now) s = .next t ∧ (t.port f.val).state = .training))
  ) ∧
  (
  ∀ (s : State) (f : FabPort) (fl : Flit) (now : W64), s.ts.toNat ≤ now.toNat → s.pwr.trip = false → (s.port f.val).state = .up → (s.port f.val).queue = [] →
    (crc64 (leBytes 8 fl.header.toNat ++ fl.bytes) ≠ fl.crc →
      ∃ t, exec (.flitReceive f fl now) s = .next t ∧ (t.port f.val).crc = satInc (s.port f.val).crc ∧ (t.port f.val).nak = true ∧ (t.port f.val).rxSeq = (s.port f.val).rxSeq ∧
        (t.port f.val).replayBuf = (s.port f.val).replayBuf ∧ (t.port f.val).rxBuf = (s.port f.val).rxBuf ∧ (t.port f.val).lastRx = now ∧ t.parts = s.parts ∧ t.mem = s.mem) ∧
    (crc64 (leBytes 8 fl.header.toNat ++ fl.bytes) = fl.crc → nbits fl.header.toNat 1 0 = 0 → nbit fl.header.toNat 4 = false →
      (nbits fl.header.toNat 19 8 ≠ (s.port f.val).rxSeq.toNat → ∃ t, exec (.flitReceive f fl now) s = .next t ∧ (t.port f.val).nak = true ∧ (t.port f.val).rxSeq = (s.port f.val).rxSeq ∧
        (t.port f.val).crc = (s.port f.val).crc ∧ (t.port f.val).rxBuf = (s.port f.val).rxBuf) ∧
      (nbits fl.header.toNat 19 8 = (s.port f.val).rxSeq.toNat → nbits fl.header.toNat 54 48 = 0 → tget [] (s.port f.val).rxBuf (nbits fl.header.toNat 3 2) = [] →
        ∃ t, exec (.flitReceive f fl now) s = .next t ∧ (t.port f.val).nak = false ∧ (t.port f.val).rxSeq = (s.port f.val).rxSeq + 1 ∧ (t.port f.val).rxFlits = satInc (s.port f.val).rxFlits ∧
          (∀ i, (s.port f.val).replayBuf.findIdx? (fun x => nbits x.header.toNat 19 8 == nbits fl.header.toNat 31 20) = some i → (t.port f.val).replayBuf = (s.port f.val).replayBuf.drop (i + 1))))
  )

/-- Identity and routes (R353 to R360): beacons, claims and LSAs of others are kept by origin, the newer replacing the older; an unopposed claim is CLAIMED after 4 ms; the timers send 100 ms after the last; an origin that is silent for 350 ms is forgotten; a changed database is turned into a table in which this device reaches itself; a freeze ends after 100 µs. Seen without a critical trip, in which the network's clock stops (R619). Commands whose next state it gives, under conditions on the state and the operands alone: fabBeacon, beaconTimer, originExpire, fabClaim, claimTimer, fabLsa, lsaTimer, routeInstall, freezeEnd. -/
def Obligations.IdentityAndRoutes : Prop :=
  ∀ (s : State) (f : FabPort) (now : W64), s.ts.toNat ≤ now.toNat → s.pwr.trip = false →
    (∀ b : BeaconMsg, b.serial ≠ s.otp.serial → (b.state = 0 ∨ b.dev.val ≠ s.fab.id.toNat) → (tget ({} : Origin) s.fab.db b.dev.val).beaconSeq ≠ some b.seq → s.att.sessions = [] → s.att.forming = none →
      ∃ t, exec (.fabBeacon f b now) s = .next t ∧ (tget ({} : Origin) t.fab.db b.dev.val).beaconSeq = some b.seq ∧ (tget ({} : Origin) t.fab.db b.dev.val).serial = b.serial ∧
        (tget ({} : Origin) t.fab.db b.dev.val).beatSrc = b.beatSrc ∧ (tget ({} : Origin) t.fab.db b.dev.val).beaconTs = now ∧ t.fab.id = s.fab.id ∧ t.fab.idState = s.fab.idState) ∧
    (∀ b : BeaconMsg, b.dev.val = s.fab.id.toNat → b.serial ≠ s.otp.serial → s.fab.idState = 1 → b.state = 2 → s.fab.idFixed = false → s.att.sessions = [] → s.att.forming = none →
      ∃ t, exec (.fabClaim f b now) s = .next t ∧ t.fab.id = nextId s ∧ t.fab.idState = 1 ∧ t.fab.claimAt = now ∧ t.fab.events.flags.getLsbD 3 = true) ∧
    (∀ b : BeaconMsg, b.dev.val = s.fab.id.toNat → b.serial ≠ s.otp.serial → s.fab.idState = 2 → b.state = 1 → s.att.sessions = [] → s.att.forming = none → exec (.fabClaim f b now) s = .next { s with ts := now }) ∧
    (s.fab.idState = 1 → s.fab.claimAt.toNat + 4000000 ≤ now.toNat → ∃ t, exec (.claimTimer now) s = .next t ∧ t.fab.idState = 2 ∧ t.fab.id = s.fab.id ∧ t.fab.lsaSeq = s.fab.lsaSeq + 1) ∧
    (∀ o : Origin, ∀ dev : DevId, tfind s.fab.db dev.val = some o → o.sleeping = false → o.beaconTs.toNat + 350000000 ≤ now.toNat → o.lsaTs.toNat + 350000000 ≤ now.toNat → reportedAsleep s dev.val = false →
      exec (.originExpire dev now) s = .next { s with ts := now, fab.db := tdel s.fab.db dev.val, fab.dbChanged := true }) ∧
    (∀ l : LsaMsg, l.dev.val ≠ s.fab.id.toNat → (tget ({} : Origin) s.fab.db l.dev.val).lsaSeq = none →
      exec (.fabLsa f l now) s = .next { s with ts := now, fab.db := tset s.fab.db l.dev.val { tget ({} : Origin) s.fab.db l.dev.val with lsaSeq := some l.seq, lsaTs := now, sleeping := l.sleeping, links := l.links }, fab.dbChanged := true }) ∧
    (s.fab.en = true → s.fab.conflict = false → s.fab.idState ≠ 0 → s.spr.pstate = .a →
      (s.fab.beaconAt.toNat + 100000000 ≤ now.toNat → ∃ t, exec (.beaconTimer now) s = .next t ∧ t.fab.beaconSeq = s.fab.beaconSeq + 1 ∧ t.freeNo = s.freeNo + 1 ∧ t.fab.id = s.fab.id) ∧
      (s.fab.lsaAt.toNat + 100000000 ≤ now.toNat → ∃ t, exec (.lsaTimer now) s = .next t ∧ t.fab.lsaSeq = s.fab.lsaSeq + 1 ∧ t.fab.dbChanged = s.fab.dbChanged ∧ t.freeNo = s.freeNo + 1)) ∧
    (s.fab.dbChanged = true → s.fab.txns = [] → s.fab.bars = [] → ∃ t, exec (.routeInstall now) s = .next t ∧ t.fab.dbChanged = false ∧
      (tget ({} : Route) t.fab.routes s.fab.id.toNat).valid = true ∧ (tget ({} : Route) t.fab.routes s.fab.id.toNat).port = 6 ∧
      (∀ r, rootOf (nodes s) = some r → t.fab.rootId = BitVec.ofNat 10 r ∧ (s.fab.rootId ≠ BitVec.ofNat 10 r → t.fab.freeze = true ∧ t.fab.freezeAt = now))) ∧
    (s.fab.dbChanged = false → exec (.routeInstall now) s = .next { s with ts := now }) ∧
    (s.fab.freeze = true → s.fab.freezeAt.toNat + 100000 ≤ now.toNat → s.fab.heldFrames = [] → exec (.freezeEnd now) s = .next { s with ts := now, fab.freeze := false })

/-- OTP commands (R503, R506, R510 to R512, R519, R524): a program burns exactly the bits of its value; FINALISE locks the region; outside the supply window both are refused with OTP_SUPPLY and burn nothing; a supply drop ends a program with OTP_SUPPLY; a request consumes the held nonce and takes effect when every check of R519 passes; no bit ever falls. Commands whose next state it gives, under conditions on the state and the operands alone: transition, debugCertificate, otpProgram, finalise, otpSupplyDrop. -/
def Obligations.OneTimeMemoryCommands : Prop :=
  ∀ (s : State) (p : PartId) (k : Packet), hasRight s p.val 10 = true → Mem.wf 0 s.otp.cells = true → Mem.wf 0 s.otp.shadow = true →
    (∀ (n addr len : Nat) (bs : List Byte), Starts s p 0x0E04 k → formCheck k 20 20 [(1, 3)] = none → n = par k 0 1 → n ≤ 8 → n ≠ 2 → n ≠ 3 → par k 4 4 % 4 = 0 → addrOk k 8 = true → len = par k 16 4 → len % 4 = 0 → len ≠ 0 →
      par k 4 4 + len ≤ regionLen s.otp.cells n → (regionStates n).contains s.otp.lc.toNat = true → fuseLocked s.otp.cells n = false → addr = regionOff n + par k 4 4 →
      anyBlock s p.val (parAddr k 8) len .unmapped = false → anyBlock s p.val (parAddr k 8) len .poisoned = false → bs = devRead s p.val (parAddr k 8) len →
      (wordsIn addr len).any (fuseWritten s.otp.cells) = false → bs.zipIdx.any (fun e => (mget 0 s.otp.cells (addr + e.2) &&& ~~~e.1) != 0) = false →
      (∃ t, exec (.otpProgram p true) s = .next t ∧ (∀ i, i < len → mget 0 t.otp.cells (addr + i) = bs.getD i 0) ∧ (∀ w ∈ wordsIn addr len, fuseWritten t.otp.cells w = true) ∧
        (∀ a j, (mget 0 s.otp.cells a).getLsbD j = true → (mget 0 t.otp.cells a).getLsbD j = true) ∧ t.otp.shadow = s.otp.shadow ∧ t.otp.supplyOk = true) ∧
      (∃ t, exec (.otpProgram p false) s = .next t ∧ t.otp.cells = s.otp.cells ∧ t.otp.events = raiseEv s.otp.events 1 ∧ t.otp.supplyOk = false) ∧
      ((missingBits s.otp.cells addr bs) ≠ [] → ∃ t, exec (.otpSupplyDrop (.ring p) 0) s = .next t ∧ (∀ i, i < len → mget 0 t.otp.cells (addr + i) = mget 0 s.otp.cells (addr + i)) ∧ t.otp.events = raiseEv s.otp.events 1 ∧ t.otp.supplyOk = false)) ∧
    (∀ n, Starts s p 0x0E05 k → formCheck k 1 1 [] = none → n = par k 0 1 → n ≤ 8 → fuseLocked s.otp.cells n = false → (wordsIn (regionOff n) (regionLen s.otp.cells n)).all (fuseWritten s.otp.cells) = true → s.otp.weak = [] →
      (∃ t, exec (.finalise p true) s = .next t ∧ fuseLocked t.otp.cells n = true ∧ fuseLocked t.otp.shadow n = true ∧ t.otp.locked.getLsbD n = true ∧
        (∀ a j, (mget 0 s.otp.cells a).getLsbD j = true → (mget 0 t.otp.cells a).getLsbD j = true)) ∧
      (∃ t, exec (.finalise p false) s = .next t ∧ t.otp.cells = s.otp.cells ∧ t.otp.locked = s.otp.locked ∧ t.otp.events = raiseEv s.otp.events 1)) ∧
    (exec (.otpSupplyDrop .startup 0) s = .next s) ∧
    (∀ b, formCheck k 12 12 [] = none → addrOk k 0 = true → par k 8 4 = 7680 → parAddr k 0 + 7680 ≤ 2 ^ 48 → anyBlock s p.val (parAddr k 0) 7680 .unmapped = false → anyBlock s p.val (parAddr k 0) 7680 .poisoned = false →
      b = devRead s p.val (parAddr k 0) 7680 → requestFormat b = none → field b 8 16 = s.otp.serial.toNat → (s.part p.val).state = .ready →
      (Starts s p 0x0E02 k → field b 4 2 = 1 → field b 7 1 = 3 → ∃ t, exec (.transition p true) s = .next t ∧ t.rennet.nonce = none ∧
        t.otp.pendingLc = (s.otp.pendingLc || ((match s.rennet.nonce with | some (n, d) => n == slice b 24 32 && decide (s.ts.toNat < d.toNat + nonceLife) | none => false) && (requestState { s with rennet.nonce := none } b).isNone && requestKey s b && requestSigned b))) ∧
      (Starts s p 0x0E03 k → field b 4 2 = 3 → ∃ t, exec (.debugCertificate p true) s = .next t ∧ t.rennet.nonce = s.rennet.nonce ∧
        t.rennet.debugRights = (if requestState s b = none ∧ requestKey s b = true ∧ requestSigned b = true ∧ s.otp.bootCtr.toNat ≤ field b 56 4 then s.rennet.debugRights ||| BitVec.ofNat 5 (field b 60 4) else s.rennet.debugRights)))

/-- Nonces, request transfers and updates (R419, R477, R479, R511, R519): a nonce is drawn and held for 60 s; a request is sent in order by one sender, and its end closes the transfer; an update takes the whole image through a transfer, and is pending when its checks pass; enrolment locks the helper region. Commands whose next state it gives, under conditions on the state and the operands alone: update, nonceCommand, nonce, nonceExpire, reqBegin, reqData, reqEnd, enrol. -/
def Obligations.NoncesRequestsAndUpdates : Prop :=
  ∀ (s : State), s.rennet.entropyFail = false → s.rennet.drbgOn = true →
    (∀ (p : PartId) (k : Packet), Starts s p 0x0E01 k → formCheck k 8 8 [] = none → addrOk k 0 = true → anyBlock s p.val (parAddr k 0) 32 .unmapped = false →
      ∃ t, exec (.nonceCommand p) s = .next t ∧ t.rennet.nonce = some (padTo 32 (Config.drbg s.rennet.drbgN 32), s.ts) ∧ t.rennet.drbgN = s.rennet.drbgN + 1 ∧ t.otp = s.otp) ∧
    (∀ (p : PartId) (k : Packet) (bs : List Byte), Starts s p 0x0D03 k → hasRight s p.val 9 = true → formCheck k 12 12 [] = none → addrOk k 0 = true → manifestLen ≤ par k 8 4 → par k 8 4 ≤ 2039808 → parAddr k 0 + par k 8 4 ≤ 2 ^ 48 →
      s.rennet.boot = .verified → s.rennet.xfer = none → anyBlock s p.val (parAddr k 0) (par k 8 4) .unmapped = false → anyBlock s p.val (parAddr k 0) (par k 8 4) .poisoned = false → bs = devRead s p.val (parAddr k 0) (par k 8 4) →
      ∃ t, exec (.update p) s = .next t ∧ t.rennet.xfer = none ∧ t.rennet.boot = .verified ∧
        t.rennet.updatePending = (s.rennet.updatePending || ((manifestRefuse s (bs.take manifestLen)).isNone && sectsOk (bs.take manifestLen) bs))) ∧
    (∀ m : MbxId, Serves s m 0x0201 → (mailWords s m).getD 0 0 = 0 →
      exec (.nonce m) s = .next (kept s (mailReply { drbgCount (serving s) 1 with rennet.nonce := some (padTo 32 (Config.drbg s.rennet.drbgN 32), s.ts) }
        m.val 0 (wordsOf ((padTo 32 (Config.drbg s.rennet.drbgN 32)).take 24))))) ∧
    (∀ (n : List Byte) (ts now : W64), s.rennet.nonce = some (n, ts) → s.ts.toNat ≤ now.toNat →
      (ts.toNat + 60000000000 ≤ now.toNat → exec (.nonceExpire now) s = .next { s with ts := now, rennet.nonce := none }) ∧
      (now.toNat < ts.toNat + 60000000000 → exec (.nonceExpire now) s = .next { s with ts := now })) ∧
    (∀ m : MbxId, m.val ≠ 64 → Serves s m 0x0210 → (s.rennet.req = none ∨ ∃ x, s.rennet.req = some x ∧ x.holder = m.val) →
      exec (.reqBegin m) s = .next (kept s (mailReply { serving s with rennet.req := some { holder := m.val, kind := ((mailWords s m).getD 0 0).toNat, len := ((mailWords s m).getD 1 0).toNat } } m.val 0 []))) ∧
    (∀ (m : MbxId) (x : ReqXfer), s.rennet.req = some x → x.holder = m.val →
      (Serves s m 0x0211 → ((mailWords s m).getD 0 0).toNat = x.bytes.length → x.bytes.length < x.len →
        exec (.reqData m) s = .next (kept s (mailReply { serving s with rennet.req := some { x with bytes := x.bytes ++ (mailData (mailWords s m)).take (x.len - x.bytes.length) } } m.val 0 []))) ∧
      (Serves s m 0x0211 → ((mailWords s m).getD 0 0).toNat ≠ x.bytes.length → exec (.reqData m) s = .next (kept s (mailReply (serving s) m.val 0x0104 []))) ∧
      (Serves s m 0x0212 → ∃ t, exec (.reqEnd m true) s = .next t ∧ t.rennet.req = none)) ∧
    (∀ (m : MbxId) (reads : List (List Byte)), Serves s m 0x0230 → s.otp.lc = 0 → Mem.wf 0 s.otp.cells = true → Mem.wf 0 s.otp.shadow = true → (wordsIn 0x280 4160).any (fuseWritten s.otp.cells) = false → fuseLocked s.otp.cells 2 = false →
      ∃ t, exec (.enrol m true reads) s = .next t ∧ fuseLocked t.otp.cells 2 = true ∧ t.otp.locked.getLsbD 2 = true ∧ t.otp.supplyOk = true)

/-- Image transfer by mailbox (R478 to R481): a recovery is opened by a host of a degraded unit, its bytes are staged in order, a message out of order waits, an end whose sections match closes it, an abort or 1 s of silence ends it, and IMAGE_RUN resets the instance. Mailbox messages that read and store (R478, R486, R597): identity gives the serial number, the life cycle with the boot state, and the boot counter; boot status five registers of Rennet; the Rind's status and entries go to the management port; the array controller loads and stores blobs. Commands whose next state it gives, under conditions on the state and the operands alone: identity, bootStatus, imageBegin, imageData, imageEnd, imageAbort, imageRun, imageTransferTimeout, blobLoad, blobStore, rindInfo, rindRead. -/
def Obligations.MailboxTransfers : Prop :=
  (
  ∀ (s : State) (m : MbxId),
    (m.val ≠ 64 → Serves s m 0x0010 → s.rennet.boot = .degraded → s.otp.lc ≠ 4 → s.rennet.xfer = none → manifestLen ≤ ((mailWords s m).getD 0 0).toNat → ((mailWords s m).getD 0 0).toNat ≤ 2039808 →
      exec (.imageBegin m) s = .next (kept s (mailReply { serving s with rennet.xfer := some { holder := m.val, len := ((mailWords s m).getD 0 0).toNat, lastTs := s.ts }, rennet.boot := .recovery } m.val 0 []))) ∧
    (∀ x : Transfer, s.rennet.xfer = some x → x.holder = m.val → x.isEnded = false →
      (Serves s m 0x0011 → ((mailWords s m).getD 0 0).toNat = x.staged.length → x.staged.length + 24 < manifestLen → manifestLen ≤ x.len →
        ∃ t, exec (.imageData m) s = .next t ∧ t.rennet.xfer = some { x with staged := x.staged ++ mailData (mailWords s m), offset := x.staged.length + 24, lastTs := s.ts } ∧ t.rennet.nor = s.rennet.nor) ∧
      (Serves s m 0x0011 → ((mailWords s m).getD 0 0).toNat ≠ x.staged.length →
        exec (.imageData m) s = .next (kept s (mailReply { serving s with rennet.xfer := some { x with lastTs := s.ts } } m.val 0x0104 []))) ∧
      (Serves s m 0x0012 → x.ok = true → x.staged.length = x.len → sectsOk (x.staged.take manifestLen) x.staged = true → m.val ≠ 64 →
        ∃ t, exec (.imageEnd m) s = .next t ∧ t.rennet.xfer = some { x with isEnded := true } ∧ t.rennet.consec = 0 ∧ t.rennet.boot = s.rennet.boot ∧
          (∀ a, manifestLen ≤ a → mget 0xFF t.rennet.nor a = mget 0xFF s.rennet.nor a)) ∧
      (Serves s m 0x0013 → ∃ t, exec (.imageAbort m) s = .next t ∧ t.rennet.xfer = none ∧ t.rennet.nor = s.rennet.nor ∧ t.rennet.boot = s.rennet.boot ∧
        t.rennet.noimg = (if s.rennet.boot = .recovery then 4 else s.rennet.noimg)) ∧
      (∀ now : W64, s.ts.toNat ≤ now.toNat → x.lastTs.toNat + 1000000000 ≤ now.toNat → ∃ t, exec (.imageTransferTimeout now) s = .next t ∧ t.rennet.xfer = none ∧ t.rennet.nor = s.rennet.nor ∧ t.ts = now)) ∧
    (∀ x : Transfer, s.rennet.xfer = some x → x.holder = m.val → x.isEnded = true → s.rennet.boot = .recovery → Serves s m 0x0014 → exec (.imageRun m) s = .next (kept s (rennetReset (serving s) 5)))
  ) ∧
  (
  ∀ (s : State) (m : MbxId),
    (Serves s m 0x0001 → (s.mbx m.val).inValid = false → ∃ t, exec (.identity m) s = .next t ∧
      (t.mbx m.val).inn = ((s.mbx m.val).out.headD 0 &&& 0x00FFFFFF) :: 0 :: (List.range 4).map (fun i => BitVec.ofNat 32 (s.otp.serial.toNat >>> (32 * i))) ++ [BitVec.ofNat 32 (s.otp.lc.toNat + 16 * bootCode s.rennet.boot), s.otp.bootCtr] ∧
      (t.mbx m.val).inValid = true ∧ (t.mbx m.val).outFull = false ∧ (t.mbx m.val).inSender = initId 1 0 ∧ t.rennet = { s.rennet with wdogAt := s.ts } ∧ t.otp = s.otp ∧ (∀ n, n ≠ m.val → t.mbx n = s.mbx n)) ∧
    (Serves s m 0x0001 → (s.mbx m.val).inValid = true → ∃ t, exec (.identity m) s = .next t ∧ (t.mbx m.val).inn = (s.mbx m.val).inn ∧ (t.mbx m.val).outFull = true ∧ (t.mbx m.val).served = true ∧ (t.mbx m.val).reply ≠ none) ∧
    (Serves s m 0x0002 → exec (.bootStatus m) s = .next (kept s (mailReply (serving s) m.val 0 ((List.range 5).map (fun i => readRnt s (0x2000 + 4 * i)))))) ∧
    (Serves s m 0x0030 → mayReadRind s m.val = true → exec (.rindInfo m) s = .next (kept s (mailReply (serving s) m.val 0 [s.rel.oldestSeq, s.rel.headSeq, BitVec.ofNat 32 (openSegs s), s.rel.group, s.rel.rindDropped]))) ∧
    (Serves s m 0x0030 → mayReadRind s m.val = false → exec (.rindInfo m) s = .next (kept s (mailReply (serving s) m.val 0x0101 []))) ∧
    (∀ e : RindEntry, Serves s m 0x0031 → mayReadRind s m.val = true → (rindEntries s).find? (fun x => x.seq == (mailWords s m).getD 0 0) = some e → ((mailWords s m).getD 1 0).toNat ≤ 1 →
      exec (.rindRead m) s = .next (kept s (mailReply (serving s) m.val 0 (wordsOf (slice (entryBytes e) (24 * ((mailWords s m).getD 1 0).toNat) 24))))) ∧
    (∀ (off slot : Nat) (b : List Byte), m.val = 64 → blobKeyOk s = true →
      (Serves s m 0x0020 → off = ((mailWords s m).getD 0 0).toNat → slot = ((mailWords s m).getD 1 0).toNat % 64 → off + 96 ≤ 262144 → 16 ≤ slot → b = norRead s (0x220000 + off) 96 →
        ∃ t, exec (.blobLoad m) s = .next t ∧ t.rennet.cave = (match openBlob s b with | some v => if s.rennet.svnImage.toNat < field b 2 1 then s.rennet.cave else tset s.rennet.cave slot (padTo 64 v) | none => s.rennet.cave) ∧ t.rennet.nor = s.rennet.nor) ∧
      (Serves s m 0x0021 → slot = ((mailWords s m).getD 0 0).toNat → off = ((mailWords s m).getD 1 0).toNat → off + 96 ≤ 262144 → 16 ≤ slot → slot ≤ 63 → s.rennet.entropyFail = false → s.rennet.drbgOn = true →
        ∃ t, exec (.blobStore m) s = .next t ∧ t.rennet.cave = s.rennet.cave ∧ t.rennet.drbgN = s.rennet.drbgN + 1 ∧ t.freeNo = s.freeNo + 1 ∧
          (∀ a, a < 0x220000 + off ∨ 0x220000 + off + 96 ≤ a → mget 0xFF t.rennet.nor a = mget 0xFF s.rennet.nor a)))
  )

/-- Attestation commands (R418, R419, R535, R536, R542, R544, R546, R550): EVIDENCE writes a token of the state to OUT; SPDM answers one request message; SET_FORM opens a formation whose coordinator has the lowest serial number and greets the others, and 10 s end it with TIMEOUT; LICENCE_LOAD unwraps a key into the lowest free slot; a slot that is not the sender's is not dropped. Commands whose next state it gives, under conditions on the state and the operands alone: spdm, evidence, setForm, setFormTimeout, licenceLoad, licenceDrop. -/
def Obligations.AttestationCommands : Prop :=
  ∀ (s : State) (p : PartId) (k : Packet),
    (∀ (out : Nat) (r : State × List Byte), Starts s p 0x0B02 k → formCheck k 44 45 [] = none → pktExpert k = false → addrOk k 32 = true → out = parAddr k 32 → r = evidenceToken (withAlias (takeHand s p.val)) p.val (parBytes k 0 32) →
      exec (.evidence p) s = .next (kept s (if par k 40 4 < r.2.length then refuseRange (takeHand s p.val) p.val k 40 else if anyBlock (takeHand s p.val) p.val out r.2.length .unmapped then refuseRange (takeHand s p.val) p.val k 32
        else reply (devPut r.1 p.val out r.2) p.val k 0 (BitVec.ofNat 32 r.2.length) 0xFFFFFFFF 0))) ∧
    (∀ (len out : Nat) (r : State × List Byte), Starts s p 0x0B01 k → formCheck k 24 24 [] = none → addrOk k 0 = true → addrOk k 12 = true → len = par k 8 4 → 1 ≤ len → len ≤ 4096 → anyBlock s p.val (parAddr k 0) len .unmapped = false → anyBlock s p.val (parAddr k 0) len .poisoned = false →
      out = parAddr k 12 → r = spdmMessage (takeHand s p.val) (.ring p) (devRead s p.val (parAddr k 0) len) →
      exec (.spdm p) s = .next (kept s (if par k 20 4 < r.2.length then refuseRange (takeHand s p.val) p.val k 20 else if anyBlock (takeHand s p.val) p.val out r.2.length .unmapped then refuseRange (takeHand s p.val) p.val k 12
        else reply (devPut r.1 p.val out r.2) p.val k 0 (BitVec.ofNat 32 r.2.length) 0xFFFFFFFF 0))) ∧
    (∀ (n : Nat) (l : List Byte) (devs : List Nat) (ms : List (Nat × BitVec 128)), Starts s p 0x0C01 k → hasRight s p.val 6 = true → formCheck k 16 16 [(1, 7)] = none → addrOk k 8 = true → n = par k 0 1 → 2 ≤ n → n ≤ 64 →
      listOf s p.val k (2 * n) = .bytes l → devs = (List.range n).map (fun i => field l (2 * i) 2) → devs.Nodup → (∀ d ∈ devs, (serialOf s d).isSome = true) →
      devs.contains s.fab.id.toNat = true → s.otp.degraded = false → debugOpen s = false → (s.otp.lc = 1 ∨ s.otp.lc = 2) → s.att.forming = none → s.att.hello = none → s.att.sets.length < 8 → s.rennet.entropyFail = false → s.rennet.drbgOn = true →
      ms = sortBy (fun (a b : Nat × BitVec 128) => decide (a.2.toNat < b.2.toNat)) (devs.map (fun d => (d, (serialOf s d).getD 0))) →
      ∃ (t : State) (f : Formation), exec (.setForm p) s = .next t ∧ t.att.forming = some f ∧ f.setId = setIdOf (ms.map (·.2)) ∧ f.pend = pendOf p.val k ∧ f.startTs = s.ts ∧ f.peers.map (·.dev) = (ms.map (·.1)).filter (· != s.fab.id.toNat) ∧
        f.coord = (if (ms.map (·.1)).head? = some s.fab.id.toNat then none else (ms.map (·.1)).head?) ∧ (f.coord = none → t.rennet.drbgN = s.rennet.drbgN + 1) ∧ t.att.sets = s.att.sets ∧ t.otp = s.otp) ∧
    (∀ (f : Formation) (now : W64), s.att.forming = some f → s.ts.toNat ≤ now.toNat →
      (f.startTs.toNat + 10000000000 ≤ now.toNat → ∃ t, exec (.setFormTimeout now) s = .next t ∧ t.att.forming = none ∧ t.att.sets = s.att.sets ∧ t.ts = now ∧ t.rennet = s.rennet) ∧
      (now.toNat < f.startTs.toNat + 10000000000 → exec (.setFormTimeout now) s = .next { s with ts := now })) ∧
    (hasRight s p.val 6 = true →
      (∀ (b : List Byte) (slot i : Nat) (g : BoundSet), Starts s p 0x0C02 k → formCheck k 12 12 [] = none → addrOk k 0 = true → par k 8 4 = 2208 → anyBlock s p.val (parAddr k 0) 2208 .unmapped = false → anyBlock s p.val (parAddr k 0) 2208 .poisoned = false →
        b = devRead s p.val (parAddr k 0) 2208 → licFormat b = none → nbit (field b 72 8) p.val = true → field b 28 1 ≤ s.rennet.svnImage.toNat → firstFree ((s.att.lics.filter (fun e => e.2.valid)).map (·.1)) 255 = some slot →
        (s.otp.lc = 1 ∨ s.otp.lc = 2) → field b 6 2 = 0 → heldSet s (slice b 32 32) = some (i, g) → g.epoch.toNat = field b 64 4 → s.att.lics.all (fun e => !(e.2.valid && e.2.part == p.val && e.2.modelId == slice b 8 16 && e.2.version.toNat == field b 24 4)) = true →
        s.rennet.xfer = none → pointValid (slice b 472 97) = true →
        exec (.licenceLoad p) s = .next (kept s (if Config.kemOk (slice b 576 1568) = true then
            match licKey s i b with
            | none => reply (takeHand s p.val) p.val k 0x0201 0 0xFFFFFFFF 0
            | some key => reply { takeHand s p.val with att.lics := tset s.att.lics slot (licOfBytes p.val b key) } p.val k 0 0 (BitVec.ofNat 32 slot) 0xC3
          else reply (takeHand s p.val) p.val k stInput 0 0xFFFFFFFF 0))) ∧
      (Starts s p 0x0C03 k → formCheck k 0 0 [] = none → ((s.lic (pktObj k).toNat).valid = false ∨ (s.lic (pktObj k).toNat).part ≠ p.val) →
        exec (.licenceDrop p) s = .next (kept s (reply (takeHand s p.val) p.val k 0x0100 0 (pktObj k) 0xC0))))

/-- R550: while any mapped block carries the slot, dropping its licence is refused with STATE_REFUSED and STATE 0xC3; otherwise the slot is empty afterwards, its key with it. The slot is one that the sender holds. -/
def Obligations.LicenceDropSparesUsedSlots : Prop :=
  ∀ (s : State) (p : PartId) (k : Packet), Starts s p 0x0C03 k → hasRight s p.val 6 = true → formCheck k 0 0 [] = none → (s.lic (pktObj k).toNat).valid = true → (s.lic (pktObj k).toNat).part = p.val →
    ((∃ m ∈ s.mem.maps, ∃ b ∈ m.2, b.2.isSealed = true ∧ b.2.state ≠ .unmapped ∧ b.2.lic = (pktObj k).toNat) → exec (.licenceDrop p) s = .next (kept s (reply (takeHand s p.val) p.val k 0x0100 0 (pktObj k) 0xC3))) ∧
    (¬ (∃ m ∈ s.mem.maps, ∃ b ∈ m.2, b.2.isSealed = true ∧ b.2.state ≠ .unmapped ∧ b.2.lic = (pktObj k).toNat) →
      exec (.licenceDrop p) s = .next (kept s (reply { takeHand s p.val with att.lics := tset s.att.lics (pktObj k).toNat {} } p.val k 0 0 (pktObj k) 0xC0)) ∧
      (reply { takeHand s p.val with att.lics := tset s.att.lics (pktObj k).toNat {} } p.val k 0 0 (pktObj k) 0xC0).lic (pktObj k).toNat = {})

/-- Formation messages (R542 to R544): a greeting is kept, or answered with an offer; an offer, a key and a confirmation that pass their checks go on with the formation and any other ends it; with the last confirmation, or DONE, the set is stored with its epoch, members and key; ABORT discards the exchange keys. Commands whose next state it gives, under conditions on the state and the operands alone: setHello, setOffer, setKey, setConfirm, setDone, setAbort. -/
def Obligations.FormationMessages : Prop :=
  ∀ (s : State) (src : DevId), rennetServes s = true → s.rennet.entropyFail = false → s.rennet.drbgOn = true →
    (∀ (id n : List Byte), s.att.forming = none → exec (.setHello src id n) s = .next { s with att.hello := some (src.val, id, n) }) ∧
    (∀ (f : Formation) (n : List Byte), s.att.forming = some f → f.coord = some src.val → f.eph = [] →
      ∃ (t : State) (g : Formation), exec (.setHello src f.setId n) s = .next t ∧ t.att.forming = some g ∧ g.eph = (padTo 88 (Config.drbg s.rennet.drbgN 88)).take 56 ∧ g.nonce = (padTo 88 (Config.drbg s.rennet.drbgN 88)).drop 56 ∧
        g.epoch = heldEpoch s f.setId ∧ g.setId = f.setId ∧ g.coord = f.coord ∧ g.pend = f.pend ∧ t.att.sets = s.att.sets ∧ t.rennet.cave = s.rennet.cave) ∧
    (∀ (f : Formation) (m : FormPeer) (o : SetOffer) (g : Formation), s.att.forming = some f → f.coord = none → f.peers.find? (fun m => m.dev == src.val && !m.offered) = some m →
      g = modPeer f src.val (fun m => { m with nonce := o.nonce, kemKey := o.kemKey, ecPub := o.ecPub, epoch := o.epoch, offered := true, script := Config.setEncode (.hello f.setId f.nonce) ++ Config.setEncode (.offer o) }) →
      ∃ t, exec (.setOffer src o) s = .next t ∧ t.att.sets = s.att.sets ∧
        (if acceptToken s o.token f.nonce m.serial = true ∧ pointValid o.ecPub = true ∧ Config.kemOk o.kemKey = true then
          (if g.peers.all (·.offered) = true then ∃ h, t.att.forming = some h ∧ h.sk = padTo 32 (Config.drbg s.rennet.drbgN 32) ∧ h.epoch = BitVec.ofNat 32 ((g.peers.map (fun m => m.epoch.toNat)).foldl max (heldEpoch s f.setId).toNat + 1)
           else t.att.forming = some g ∧ t.fab = s.fab)
         else t.att.forming = none)) ∧
    (∀ (f : Formation) (m : FormPeer) (x : SetKeyMsg), s.att.forming = some f → f.coord = some src.val → f.eph ≠ [] → f.sk = [] → f.peers.find? (fun m => m.dev == src.val) = some m →
      ∃ t, exec (.setKey src x) s = .next t ∧ t.att.sets = s.att.sets ∧
        (if acceptToken s x.token f.nonce m.serial = true ∧ pointValid x.ecPub = true ∧ Config.kemOk x.kemCt = true ∧ f.epoch.toNat < x.epoch.toNat then
          t.att.forming = (Config.gcmOpen (kekOf (Config.ecdh f.eph x.ecPub) (Config.kemDecaps (agreeSeed s f.setId) x.kemCt) f.setId x.epoch s.otp.serial) x.gcmNonce (setAad f.setId x.epoch) (x.wrapped ++ x.tag)).map
            (fun sk => { f with epoch := x.epoch, sk := padTo 32 sk })
         else t.att.forming = none)) ∧
    (∀ (f : Formation) (m : FormPeer) (mac : List Byte), s.att.forming = some f → f.coord = none → f.peers.find? (fun m => m.dev == src.val && m.offered && !m.confirmed) = some m → f.sk ≠ [] →
      ∃ t, exec (.setConfirm src mac) s = .next t ∧
        (if mac ≠ confirmOf f.sk m.script then t.att.forming = none ∧ t.att.sets = s.att.sets
         else if (modPeer f src.val (fun m => { m with confirmed := true })).peers.all (·.confirmed) = true then
          t.att.forming = none ∧ ∃ i, t.att.sets = tset s.att.sets i { setId := f.setId, epoch := f.epoch, members := sortBy (fun a b => decide (a.toNat < b.toNat)) (s.otp.serial :: f.peers.map (·.serial)) } ∧ caveGet t (16 + i) = padTo 64 f.sk
         else t.att.forming = some (modPeer f src.val (fun m => { m with confirmed := true })) ∧ t.att.sets = s.att.sets)) ∧
    (∀ f : Formation, s.att.forming = some f → f.coord = some src.val → f.sk ≠ [] →
      (∃ (t : State) (i : Nat), exec (.setDone src f.setId f.epoch) s = .next t ∧ t.att.forming = none ∧
        t.att.sets = tset s.att.sets i { setId := f.setId, epoch := f.epoch, members := sortBy (fun a b => decide (a.toNat < b.toNat)) (s.otp.serial :: f.peers.map (·.serial)) } ∧ caveGet t (16 + i) = padTo 64 f.sk) ∧
      (∀ (id : List Byte) (e : W32), e ≠ f.epoch → exec (.setDone src id e) s = .next s)) ∧
    (∀ (f : Formation) (e : W32), s.att.forming = some f → f.coord = some src.val → ∃ t, exec (.setAbort src f.setId e) s = .next t ∧ t.att.forming = none ∧ t.att.sets = s.att.sets ∧ t.rennet = s.rennet ∧ t.otp = s.otp) ∧
    (∀ (id n : List Byte) (e : W32), s.att.forming = none → s.att.hello = some (src.val, id, n) → exec (.setAbort src id e) s = .next { s with att.hello := none })

/-- SPDM requests (R537 to R540): the versions, capabilities, algorithms, digests and chains that the state has; a challenge, a signature and a session only where the alias keys may be used; a measurement outside the list is refused; at most two sessions, whose secrets are zeroed at the end. A request that Rennet may not answer changes nothing. SPDM by mailbox (R479, R536): a request of 1 to 4,096 bytes is opened by one sender, its bytes arrive 24 at a time from offset 0, its end answers with the response's length, and the response is read 24 bytes at a time; any other offset is refused. Commands whose next state it gives, under conditions on the state and the operands alone: spdmBegin, spdmData, spdmEnd, spdmRead, getVersion, getCapabilities, negotiateAlgorithms, getDigests, getCertificate, spdmChallenge, getMeasurements, keyExchange, spdmFinish, spdmHeartbeat, keyUpdate, endSession, chunkGet. -/
def Obligations.SpdmExchange : Prop :=
  (
  ∀ (s : State) (src : SpdmSource), rennetServes s = true → mayAsk s src = true →
    (∃ t, exec (.getVersion src) s = .next t ∧ t.att.rsp = .version [0x12, 0x13] ∧ t.att.sessions = s.att.sessions ∧ t.rennet.cave = s.rennet.cave ∧ t.otp = s.otp ∧ t.parts = s.parts ∧ t.mem = s.mem ∧ t.fab = s.fab) ∧
    (∀ (v : Byte) (fl : W32), ∃ t, exec (.getCapabilities src v fl) s = .next t ∧ t.att.rsp = (if v = 0x12 ∨ v = 0x13 then capabilities s else .error .versionMismatch) ∧ t.att.sessions = s.att.sessions) ∧
    (∀ offer, ∃ t, exec (.negotiateAlgorithms src offer) s = .next t ∧ t.att.rsp = .algorithms offer ∧ t.att.sessions = s.att.sessions) ∧
    (∃ t, exec (.getDigests src) s = .next t ∧ t.att.rsp = .digests ([0, 1].map (fun i => (i, padTo 48 (Config.sha384 (Config.spdmChain (chainOf (withAlias s) i)))))) ∧ t.att.sessions = s.att.sessions) ∧
    (∀ slot off len : Nat, ∃ t, exec (.getCertificate src slot off len) s = .next t ∧ t.att.sessions = s.att.sessions ∧
      (t.att.rsp = answerCertificate (withAlias s) slot off len ∨ (slot < 2 ∧ t.att.rsp = .error (.largeResponse (s.att.largeNo + 1)) ∧ t.att.largeNo = s.att.largeNo + 1 ∧
        t.att.large = Config.spdmEncode [caveGet s 12, caveGet s 15] (answerCertificate (withAlias s) slot off len)))) ∧
    (∀ (slot : Nat) (n : List Byte), ∃ t, exec (.spdmChallenge src slot n) s = .next t ∧ t.att.sessions = s.att.sessions ∧
      (if aliasUsable s = false then t.att.rsp = .error .unsupportedRequest else if slot ≠ 0 then t.att.rsp = .error .invalidRequest
       else ∃ sig, t.att.rsp = .challengeAuth 0 (padTo 48 (Config.sha384 (Config.spdmChain (chainOf (withAlias s) 0)))) sig)) ∧
    (∀ (i : Nat) (sg : Bool) (n : List Byte), ∃ t, exec (.getMeasurements src i sg n) s = .next t ∧ t.att.sessions = s.att.sessions ∧
      (i ∉ [0, 1, 2, 3, 4, 5, 6, 7, 8, 16, 0xFF] → t.att.rsp = .error .invalidRequest) ∧
      (i = 6 → sg = false → t.att.rsp = .measurements 9 [{ index := 6, type := 7, raw := true, value := [s.rennet.svnImage, s.rennet.svnOtp] }] none ∨ t.att.rsp = .error (.largeResponse (s.att.largeNo + 1)))) ∧
    (∀ (slot : Nat) (x : List Byte), ∃ t, exec (.keyExchange src slot x) s = .next t ∧
      (if aliasUsable s = false then t.att.rsp = .error .unsupportedRequest ∧ t.att.sessions = s.att.sessions
       else if slot ≠ 0 ∨ x.length ≠ 96 ∨ pointValid (4 :: x) = false then t.att.rsp = .error .invalidRequest ∧ t.att.sessions = s.att.sessions
       else match (if tfind s.att.sessions 0 = none then some 0 else if tfind s.att.sessions 1 = none then some 1 else none) with
       | none => t.att.rsp = .error .busy ∧ t.att.sessions = s.att.sessions
       | some (j : Nat) => if s.rennet.entropyFail = true ∨ s.rennet.drbgOn = false then t.att.rsp = .error .unspecified ∧ t.att.sessions = s.att.sessions
         else t.att.nSess = s.att.nSess + 1 ∧ t.att.sessions = tset s.att.sessions j { source := sourcePart src, dev := sourceDev src, route := sourceRoute src, id := s.att.nSess + 1, beatTs := s.ts } ∧
          caveGet t (10 + 3 * j) = padTo 64 ((padTo 88 (Config.drbg s.rennet.drbgN 88)).take 56) ∧ ∃ sig, t.att.rsp = .keyExchange (s.att.nSess + 1) ((padTo 88 (Config.drbg s.rennet.drbgN 88)).drop 56) (Config.publicKey schemeEc ((padTo 88 (Config.drbg s.rennet.drbgN 88)).take 56)) sig)) ∧
    (∀ (id j : Nat) (x : SpdmSession), sessionOf s src id = some (j, x) →
      (∀ v : List Byte, ∃ t, exec (.spdmFinish src id v) s = .next t ∧ t.rennet.cave = s.rennet.cave ∧
        (if v = Config.spdmFinish (caveGet s (11 + 3 * j)) id then t.att.rsp = .ack ∧ t.att.sessions = tset s.att.sessions j { x with estab := true, beatTs := s.ts } else t.att.rsp = .error .decryptError ∧ t.att.sessions = s.att.sessions)) ∧
      (x.estab = true → ∃ t, exec (.spdmHeartbeat src id) s = .next t ∧ t.att.rsp = .ack ∧ t.att.sessions = tset s.att.sessions j { x with beatTs := s.ts }) ∧
      (x.estab = true → ∃ t, exec (.keyUpdate src id) s = .next t ∧ t.att.rsp = .ack ∧ t.att.sessions = tset s.att.sessions j { x with keyGen := x.keyGen + 1 } ∧ caveGet t (12 + 3 * j) = padTo 64 (Config.spdmKeys (caveGet s (11 + 3 * j)) (x.keyGen + 1))) ∧
      (x.estab = true → ∃ t, exec (.endSession src id) s = .next t ∧ t.att.rsp = .ack ∧ t.att.sessions = tdel s.att.sessions j ∧ (∀ i, i < 3 → caveGet t (10 + 3 * j + i) = List.replicate 64 0) ∧ (∀ i, i < 10 ∨ 16 ≤ i → j < 2 → caveGet t i = caveGet s i)) ∧
      (x.estab = false → ∃ t, exec (.endSession src id) s = .next t ∧ t.att.rsp = .error .invalidSession ∧ t.att.sessions = s.att.sessions)) ∧
    (∀ h n : Nat, ∃ t, exec (.chunkGet src h n) s = .next t ∧ t.att.rsp = answerChunk s h n ∧ t.att.sessions = s.att.sessions ∧ t.att.large = s.att.large)
  ) ∧
  (
  ∀ (s : State) (m : MbxId), m.val ≠ 64 →
    (Serves s m 0x0100 → s.att.req = none → 1 ≤ ((mailWords s m).getD 0 0).toNat → ((mailWords s m).getD 0 0).toNat ≤ 4096 →
      exec (.spdmBegin m) s = .next (kept s (mailReply { serving s with att.req := some { holder := m.val, kind := 0, len := ((mailWords s m).getD 0 0).toNat } } m.val 0 []))) ∧
    (∀ x : ReqXfer, s.att.req = some x →
      (Serves s m 0x0100 → x.holder ≠ m.val → exec (.spdmBegin m) s = .next (kept s (mailReply (serving s) m.val 0x0300 [4]))) ∧
      (x.holder = m.val →
        (Serves s m 0x0101 → ((mailWords s m).getD 0 0).toNat = x.bytes.length → x.bytes.length < x.len →
          exec (.spdmData m) s = .next (kept s (mailReply { serving s with att.req := some { x with bytes := x.bytes ++ (mailData (mailWords s m)).take (x.len - x.bytes.length) } } m.val 0 []))) ∧
        (Serves s m 0x0101 → ((mailWords s m).getD 0 0).toNat ≠ x.bytes.length → exec (.spdmData m) s = .next (kept s (mailReply (serving s) m.val 0x0104 []))) ∧
        (Serves s m 0x0102 → x.bytes.length < x.len → exec (.spdmEnd m) s = .next (kept s (mailReply (serving s) m.val 0x0104 []))) ∧
        (∀ r, Serves s m 0x0102 → x.len ≤ x.bytes.length → r = spdmMessage { serving s with att.req := none } (mailSource m.val) x.bytes →
          exec (.spdmEnd m) s = .next (kept s (mailReply { r.1 with att.mailRsp := some { holder := m.val, bytes := r.2 } } m.val 0 [BitVec.ofNat 32 r.2.length]))))) ∧
    (∀ x : RspXfer, s.att.mailRsp = some x → x.holder = m.val →
      (Serves s m 0x0103 → ((mailWords s m).getD 0 0).toNat = x.offset → x.offset < x.bytes.length →
        exec (.spdmRead m) s = .next (kept s (mailReply { serving s with att.mailRsp := some { x with offset := x.offset + 24 } } m.val 0 (wordsOf (slice x.bytes x.offset 24))))) ∧
      (Serves s m 0x0103 → ((mailWords s m).getD 0 0).toNat ≠ x.offset → exec (.spdmRead m) s = .next (kept s (mailReply (serving s) m.val 0x0104 []))))
  )

/-- Flash commands (R290, R295, R422, R439): REGION_SET gives a region to the sender, and what lies beyond a smaller size is gone; 0 blocks removes it; REGION_ERASE empties it; FLASH_WRITE copies its bytes and hands their units to the Press; each program done leaves its unit in the block, with the spare record and the next write sequence of R289; the last makes the write durable, with the region's bytes and map switched; a failed program retires the block, and nothing happens where none is under way. Reads, refresh, wear and checkpoints of the flash (R291 to R296): a page read counts, in its block's counter too, each codeword's uses of retries and soft decoding and each uncorrectable codeword count, and one that wants a refresh, or whose block reached its read limit, queues one; the record of a move switches the map to the new pages and the old block is erased; an erase counts and restarts the read counter; the patrol reads the next valid page of its channel at rank 6 when its time has come; a checkpoint holds the map and the counters and is due after 1,024 records or 10 minutes. What a read or an erase counts is seen while no move of a block copies pages of its own. Commands whose next state it gives, under conditions on the state and the operands alone: regionSet, regionErase, flashWrite, flashPageLanded, refreshComplete, flashProgramDone, flashEraseDone, patrolTick, checkpointDue. -/
def Obligations.FlashCommandsAndEvents : Prop :=
  (
  ∀ (s : State) (p : PartId) (k : Packet), hasRight s p.val 11 = true →
    (∀ r n old : Nat, Starts s p 0x0F01 k → formCheck k 8 8 [(1, 3)] = none → r = par k 0 1 → n = par k 4 4 → old = (tget ({} : Region) s.press.regions r).blocks → r < 64 → n ≤ 2 ^ 26 →
      ((s.press.regions.filter (fun e => e.1 != r)).map (fun e => e.2.blocks)).foldl (· + ·) 0 + n ≤ flashRoom s →
      ∃ t, exec (.regionSet p) s = .next t ∧ t.press.regions = (if n = 0 then tdel s.press.regions r else tset s.press.regions r { blocks := n, mask := BitVec.ofNat 64 (2 ^ p.val) }) ∧
        (∀ a, t4Key r n ≤ a → a < t4Key r old → mget 0 t.mem.t4 a = 0) ∧ (∀ a, a < t4Key r n ∨ t4Key r old ≤ a → mget 0 t.mem.t4 a = mget 0 s.mem.t4 a) ∧ t.press.busy = s.press.busy ∧ t.press.refreshQ = s.press.refreshQ) ∧
    (∀ r n : Nat, Starts s p 0x0F02 k → formCheck k 1 1 [] = none → r = par k 0 1 → n = (tget ({} : Region) s.press.regions r).blocks → n ≠ 0 →
      ∃ t, exec (.regionErase p) s = .next t ∧ t.press.regions = s.press.regions ∧ (∀ a, t4Key r 0 ≤ a → a < t4Key r n → mget 0 t.mem.t4 a = 0) ∧ (∀ a, a < t4Key r 0 ∨ t4Key r n ≤ a → mget 0 t.mem.t4 a = mget 0 s.mem.t4 a)) ∧
    (∀ r first len : Nat, Starts s p 0x0F03 k → formCheck k 20 20 [(1, 3)] = none → addrOk k 8 = true → r = par k 0 1 → first = par k 4 4 → len = par k 16 4 → (tget ({} : Region) s.press.regions r).blocks ≠ 0 → len % blockBytes = 0 → len ≠ 0 → parAddr k 8 + len ≤ 2 ^ 48 →
      anyBlock s p.val (parAddr k 8) len .unmapped = false → anyBlock s p.val (parAddr k 8) len .poisoned = false →
      (s.press.readOnly = false → first + len / blockBytes ≤ (tget ({} : Region) s.press.regions r).blocks → exec (.flashWrite p) s = .next (kept s (pumpFlash { takeHand s p.val with
        press.writeNo := s.press.writeNo + 1
        press.busy := s.press.busy ++ [{ pend := pendOf p.val k, region := r, first := first, blocks := len / blockBytes, left := (List.range (4 * (len / blockBytes))).map (fun i => 4 * first + i), placed := [], data := devRead s p.val (parAddr k 8) len, no := s.press.writeNo }] }))) ∧
      (s.press.readOnly = true → exec (.flashWrite p) s = .next (kept s (refuseRange (takeHand s p.val) p.val k 0))) ∧
      (s.press.readOnly = false → (tget ({} : Region) s.press.regions r).blocks < first + len / blockBytes → exec (.flashWrite p) s = .next (kept s (refuseRange (takeHand s p.val) p.val k 4)))) ∧
    (∀ (b : Nat) (o : FlashOp), s.press.ready = true → opOn s b = some o →
      (∀ (w : FlashWait) (rest : List FlashWait) (u : Nat) (more : List Nat), s.press.busy = w :: rest → o.work = .write w.no w.region u → more = w.left.filter (· != u) → (∀ x ∈ rest, x.no ≠ w.no ∧ x.left ≠ []) →
        (more ≠ [] → ∃ t, exec (.flashProgramDone b true) s = .next t ∧ t.press.busy = { w with left := more, placed := w.placed ++ [(u, eplace s b o.page)] } :: rest ∧
          (t.eblock b).pages = (s.eblock b).pages ++ [{ region := w.region, unit := u, seq := s.press.writeSeq + 1, crc := pageRecCrc w.region u (s.press.writeSeq + 1) }] ∧
          t.press.writeSeq = s.press.writeSeq + 1 ∧ t.mem = s.mem ∧ t.press.map = s.press.map ∧ t.parts = s.parts) ∧
        (more = [] → Mem.wf 0 s.mem.t4 = true → ∃ t, exec (.flashProgramDone b true) s = .next t ∧ t.press.busy = rest ∧ (∀ i, i < w.data.length → mget 0 t.mem.t4 (t4Key w.region w.first + i) = w.data.getD i 0) ∧
          tfind t.press.map (unitKey w.region u) = some (eplace s b o.page) ∧ t.press.regions = s.press.regions)) ∧
      (o.work ≠ .erase → ∃ t, exec (.flashProgramDone b false) s = .next t ∧ (t.eblock b).retired = true ∧ (t.eblock b).free = false ∧ t.press.map = s.press.map ∧ t.mem = s.mem ∧ t.press.events.flags.getLsbD 3 = true)) ∧
    (∀ (b : Nat) (ok : Bool), opOn s b = none → exec (.flashProgramDone b ok) s = .next s)
  ) ∧
  (
  ∀ (s : State), s.press.ready = true →
    (∀ (region : Fin 64) (unit : Nat) (x : FlashRead) (q : PageRead) (b : Nat), s.press.readQ.find? (fun q => q.issued && q.region == region.val && q.unit == unit) = some q → q.eblock = some b →
      (∀ m ∈ s.press.moves, m.left = []) → (s.press.moves = [] → ∀ e ∈ s.press.eblocks.map (·.1), mayMove s e = false) →
      ∃ t, exec (.flashPageLanded region unit x) s = .next t ∧ t.press.reads = s.press.reads + 1 ∧
      t.press.retries = satAdd s.press.retries (((codewords x).map stageUses).sum) ∧ t.press.uncorr = satAdd s.press.uncorr (badCodewords x) ∧ (t.eblock b).reads = (s.eblock b).reads + 1 ∧
      t.press.map = s.press.map ∧ t.mem.t4 = s.mem.t4 ∧ (badCodewords x ≠ 0 → t.press.events.flags.getLsbD 2 = true) ∧ (q.patrol = true → wantsRefresh s x = true → t.press.events.flags.getLsbD 1 = true) ∧
      t.press.refreshQ = (if wantsRefresh s x = true ∨ s.press.rdLimit.toNat ≤ (s.eblock b).reads + 1 then (if s.press.refreshQ.contains b then s.press.refreshQ else s.press.refreshQ ++ [b]) else s.press.refreshQ)) ∧
    (∀ (region : Fin 64) (unit : Nat) (x : FlashRead), s.press.readQ.find? (fun q => q.issued && q.region == region.val && q.unit == unit) = none → exec (.flashPageLanded region unit x) s = .next s) ∧
    (∀ (b : Nat) (m : FlashMove), s.press.moves.find? (fun m => m.src == b) = some m →
      (m.left = [] → m.src ≠ m.dst → (m.placed.map (fun x => unitKey x.1.1 x.1.2)).Nodup →
        ∃ t, exec (.refreshComplete b) s = .next t ∧ t.press.refreshQ = s.press.refreshQ.filter (· != b) ∧ t.press.refreshes = (if m.kind = .refresh then satInc s.press.refreshes else s.press.refreshes) ∧
          (∀ x ∈ m.placed, ∀ f, tfind s.press.map (unitKey x.1.1 x.1.2) = some f → f.block = b → tfind t.press.map (unitKey x.1.1 x.1.2) = some x.2) ∧ t.mem = s.mem ∧ (m.kind = .refresh → t.press.events.flags.getLsbD 0 = true) ∧
          ((s.eblock b).retired = false → (t.eblock b).erasing = true ∧ (t.eblock b).units = [])) ∧
      (m.left ≠ [] → exec (.refreshComplete b) s = .next s)) ∧
    (∀ b : Nat, s.press.moves.find? (fun m => m.src == b) = none → exec (.refreshComplete b) s = .next s) ∧
    (∀ (b : Nat) (o : FlashOp), opOn s b = some o → o.work = .erase →
      ((∀ m ∈ s.press.moves, m.src ≠ b) → ∃ t, exec (.flashEraseDone b true) s = .next t ∧ (t.eblock b).erases = (s.eblock b).erases + 1 ∧ (t.eblock b).reads = 0 ∧ (t.eblock b).pages = [] ∧ (t.eblock b).erasing = false ∧
        t.mem = s.mem ∧ t.press.map = s.press.map ∧ t.press.regions = s.press.regions) ∧
      (∃ t, exec (.flashEraseDone b false) s = .next t ∧ (t.eblock b).retired = true ∧ (t.eblock b).free = false ∧ t.press.map = s.press.map ∧ t.press.events.flags.getLsbD 4 = true)) ∧
    (∀ (b : Nat) (ok : Bool), opOn s b = none → exec (.flashEraseDone b ok) s = .next s) ∧
    (∀ (ch : Fin 16) (now : W64) (keys : List Nat), s.ts.toNat ≤ now.toNat → s.spr.pstate = .a → (∀ q ∈ s.press.readQ, q.patrol = false) → tget 0 s.press.patrolTs ch.val + patrolStep s ch.val ≤ now.toNat →
      keys = ((validPages s ch.val).filter (fun e => !(busyLuns s).contains (placeLun e.2))).map (·.1) →
      (keys = [] → exec (.patrolTick ch now) s = .next { s with ts := now }) ∧
      (∀ x, (keys.find? (fun x => decide (tget 0 s.press.patrolAt ch.val ≤ x))).or keys.head? = some x → ∃ t, exec (.patrolTick ch now) s = .next t ∧ t.press.patrolAt = tset s.press.patrolAt ch.val (x + 1) ∧
        t.press.patrolTs = tset s.press.patrolTs ch.val now.toNat ∧ (∃ r ∈ t.press.readQ, r.patrol = true ∧ r.rank = 6 ∧ unitKey r.region r.unit = x) ∧ t.mem = s.mem ∧ t.press.map = s.press.map)) ∧
    (∀ now : W64, s.ts.toNat ≤ now.toNat →
      ((1024 ≤ sinceCkpt s ∨ s.press.lastCkpt.toNat + 600000000000 ≤ now.toNat) → ∃ (t : State) (c : Checkpoint), exec (.checkpointDue now) s = .next t ∧ t.press.ckpts = c :: s.press.ckpts.take 1 ∧ c.good = true ∧ c.map = s.press.map ∧
        c.blocks = s.press.eblocks ∧ c.seq = s.press.journalSeq ∧ t.press.lastCkpt = now ∧ t.press.map = s.press.map ∧ t.mem = s.mem ∧ t.ts = now) ∧
      (sinceCkpt s < 1024 → now.toNat < s.press.lastCkpt.toNat + 600000000000 → exec (.checkpointDue now) s = .next { s with ts := now }))
  )

/-- R100, R111, R148, R183, R616: an idle engine takes the task at the head of its queue when the command names the task's operation and the ramp limiter lets it start, and runs it with T0 zeroed where the partition changes; a start that the ramp refuses is held; a command for another operation changes nothing. Commands whose next state it gives, under conditions on the state and the operands alone: matmul, conv, convDw, attn, attnMerge, normRms, normLayer, rope, gateExperts, combine, quant, dequant, elem, reduce, topk. -/
def Obligations.EnginesStartTheirHead : Prop :=
  ∀ (s : State) (c : CoreId) (e : EngId) (x : Nat) (k : Ctx), c.val < s.ncores → startHead s c.val e.val = some x → k = s.ctx c.val x → engineKind k.task.kind = true →
    ∀ q ∈ ([(.matmul c e, 0x01), (.conv c e, 0x02), (.convDw c e, 0x03), (.attn c e, 0x10), (.attnMerge c e, 0x11), (.normRms c e, 0x20), (.normLayer c e, 0x21), (.rope c e, 0x22), (.gateExperts c e, 0x30), (.combine c e, 0x31),
      (.quant c e, 0x40), (.dequant c e, 0x41), (.elem c e, 0x50), (.reduce c e, 0x51), (.topk c e, 0x52)] : List (Instr × Nat)),
      (opOf k.task = q.2 → rampLets s c.val = true → ∃ t, exec q.1 s = .next t ∧ (t.engine c.val e.val).state = .busy ∧ (t.engine c.val e.val).queue = (s.engine c.val e.val).queue.drop 1 ∧
        (t.engine c.val e.val).run = some { ctx := x, hasW := weightObj k.task, crc := 0xFFFFFFFFFFFFFFFF } ∧ (t.engine c.val e.val).ptag = BitVec.ofNat 6 k.part ∧
        (t.engine c.val e.val).t0 = (if (s.engine c.val e.val).t0Part = some k.part then (s.engine c.val e.val).t0 else []) ∧ (t.engine c.val e.val).t0Part = some k.part ∧ (t.engine c.val e.val).events = (s.engine c.val e.val).events ∧
        t.ctx c.val x = { k with state := .running, startTs := s.ts, startExt := BitVec.ofNat 64 (extTime s) } ∧ (∀ y, y ≠ x → t.ctx c.val y = s.ctx c.val y) ∧
        (∀ d, d ≠ e.val → t.engine c.val d = s.engine c.val d) ∧ (∀ d, d ≠ c.val → t.core d = s.core d) ∧ t.mem = s.mem ∧ t.parts = s.parts ∧ t.graphs = s.graphs ∧ t.rel = s.rel ∧ t.fab = s.fab ∧ t.rennet = s.rennet) ∧
      (opOf k.task = q.2 → rampLets s c.val = false → exec q.1 s = .next (s.modEngine c.val e.val (fun g => { g with rampHeld := true }))) ∧
      (opOf k.task ≠ q.2 → exec q.1 s = .next s)

/-- Tiles (R98, R99, R111, R117, R148, R151, R152, R183, R254, R275, R286, R548, R560, R567): a tile starts once every byte it needs is resident or has been read where it lies, and its operands then stand in T0; an unmapped, poisoned, misused sealed or keyless one ends its task; a completed tile is written and counted, and the last frees the engine with its notes and digest; weights that fail decompression end the task; a residue mismatch of a covered tile, or a parity mismatch, holds the tile with nothing written; an uncorrectable T0 error resets the partition; a residue repeat makes the fault transient or permanent. Commands whose next state it gives, under conditions on the state and the operands alone: operandsReady, tileComplete, residueRepeatDone. -/
def Obligations.TilesStartCompleteAndRepeat : Prop :=
  ∀ (s : State) (c : CoreId) (e : EngId) (r : Running) (k : Ctx), c.val < s.ncores → s.pwr.trip = false → (s.engine c.val e.val).run = some r → k = s.ctx c.val r.ctx →
    (∀ (m : Mem) (rngs : List (Nat × Nat × Nat)), r.ready = false → m = tableT0 s k.part k.task r.tile (s.engine c.val e.val).t0 → rngs = operandRanges s k.part k.task r.tile m →
      (rngs.any (fun a => anyBlock s k.part a.2.1 a.2.2 .unmapped) = true → exec (.operandsReady c e) s = .next (kept s (abortTask (memEvent s 0) c.val r.ctx stAborted))) ∧
      (rngs.any (fun a => anyBlock s k.part a.2.1 a.2.2 .unmapped) = false → rngs.any (fun a => anyBlock s k.part a.2.1 a.2.2 .poisoned) = true → exec (.operandsReady c e) s = .next (kept s (abortTask s c.val r.ctx stIntegrity))) ∧
      (rngs.any (fun a => anyBlock s k.part a.2.1 a.2.2 .unmapped) = false → rngs.any (fun a => anyBlock s k.part a.2.1 a.2.2 .poisoned) = false →
        ((runRanges k.task (operandRuns s k.part k.task r.tile m)).any (fun a => touchesSealed s k.part a.2.1 a.2.2) = true → exec (.operandsReady c e) s = .next (kept s (abortTask (sealMisuse s) c.val r.ctx stAborted))) ∧
        ((runRanges k.task (operandRuns s k.part k.task r.tile m)).any (fun a => touchesSealed s k.part a.2.1 a.2.2) = false → keyLost s k.part k.task = true → exec (.operandsReady c e) s = .next (kept s (abortTask s c.val r.ctx stIntegrity))) ∧
        ((runRanges k.task (operandRuns s k.part k.task r.tile m)).any (fun a => touchesSealed s k.part a.2.1 a.2.2) = false → keyLost s k.part k.task = false → ∀ (asked : Bool) (u : State),
          (awaitBytes s c.val r.ctx (tensorMode s k.part) r.asked (blockNeeds rngs) = (false, asked, u) → exec (.operandsReady c e) s = .next (kept s (u.modEngine c.val e.val (fun g => { g with run := some { r with short := true, asked := asked } })))) ∧
          (awaitBytes s c.val r.ctx (tensorMode s k.part) r.asked (blockNeeds rngs) = (true, asked, u) →
            (∀ n, operandWeights u k.part k.task r = .error n → exec (.operandsReady c e) s = .next (kept s (abortTask (u.modCore c.val (fun q => { q with decompErr := satAdd q.decompErr n })) c.val r.ctx stIntegrity))) ∧
            (∀ (objs : List (Nat × List Byte)) (ws : List WTile), operandWeights u k.part k.task r = .ok (objs, ws) → ∃ t, exec (.operandsReady c e) s = .next t ∧
              (t.engine c.val e.val).run = some { r with ready := true, objs := objs, crc := ws.foldl (fun a w => crc64Fold a (leBytes 8 (wTileSum w).toNat)) r.crc } ∧
              (t.engine c.val e.val).t0 = stageTile u k.part k.task r.tile ws (tableT0 u k.part k.task r.tile (s.engine c.val e.val).t0) ∧
              (t.engine c.val e.val).state = (s.engine c.val e.val).state ∧ (t.core c.val).bytesIn = (s.core c.val).bytesIn + deliveredBytes (operandRuns u k.part k.task r.tile (tableT0 u k.part k.task r.tile (s.engine c.val e.val).t0)) ws ∧
              t.ctx c.val r.ctx = k ∧ t.graphs = s.graphs ∧ t.parts = s.parts))))) ∧
    (r.ready = true → exec (.operandsReady c e) s = .next s) ∧
    (r.ready = true → (s.engine c.val e.val).held = none →
      (∀ q ∈ [(TileFault.residue, 0), (TileFault.scoreParity, 3)], (q.1 = .residue → residueCovers k.task = true) → ∃ t, exec (.tileComplete c e q.1) s = .next t ∧ (t.engine c.val e.val).state = .hold ∧ (t.engine c.val e.val).events = raiseEv (s.engine c.val e.val).events q.2 ∧
        (t.ctx c.val r.ctx).state = .held ∧ t.rel.events = raiseEv s.rel.events 0 ∧ t.mem = s.mem ∧ t.parts = s.parts ∧ t.graphs = s.graphs) ∧
      (residueCovers k.task = false → exec (.tileComplete c e .residue) s = exec (.tileComplete c e .none) s) ∧
      ((s.part k.part).state = .ready → ∃ t, exec (.tileComplete c e .eccUncorr) s = .next t ∧ (t.part k.part).state = .resetting ∧ t.rel.eccUncorr = satInc s.rel.eccUncorr) ∧
      (∃ t, exec (.tileComplete c e .eccCorr) s = .next t ∧ t.rel.eccCorr = satInc s.rel.eccCorr) ∧
      (∀ o : TileOut, o = engineTile s k.part (s.engine c.val e.val).t0 k.task r →
        (o.fail = none → (writeAll c.val k.part o.writes (s.modEngine c.val e.val (fun g => { g with t0 := leaveT0 k.task o.t0w g.t0 }))).1 = none →
          ∃ t, exec (.tileComplete c e .none) s = .next t ∧ (t.engine c.val e.val).tiles = (s.engine c.val e.val).tiles + BitVec.ofNat 64 (tileUnits k.task r.tile) ∧ (t.engine c.val e.val).held = none ∧
            (t.core c.val).bytesOut = (s.core c.val).bytesOut + o.writes.foldl (fun a w => a + w.2.2.length) 0 ∧
            (r.tile + 1 < taskTiles k.task → (t.engine c.val e.val).state = .busy ∧
              (t.engine c.val e.val).run = some { r with tile := r.tile + 1, ready := false, short := false, asked := false, acc := o.acc, rowM := o.rowM, rowL := o.rowL, rowO := o.rowO, notes := r.notes ||| o.notes }) ∧
            (taskTiles k.task ≤ r.tile + 1 → (t.engine c.val e.val).state = .idle ∧ (t.engine c.val e.val).run = none ∧ (t.ctx c.val r.ctx).state = k.state ∧ (t.ctx c.val r.ctx).notes = r.notes ||| o.notes ∧
              (t.ctx c.val r.ctx).digest = (if r.hasW then r.crc ^^^ 0xFFFFFFFFFFFFFFFF else 0))) ∧
        (∀ st, o.fail = some st → exec (.tileComplete c e .none) s = .next (kept s (abortTask (noteTile s c.val r.ctx o.notes) c.val r.ctx st))) ∧
        (∀ st u, o.fail = none → writeAll c.val k.part o.writes (s.modEngine c.val e.val (fun g => { g with t0 := leaveT0 k.task o.t0w g.t0 })) = (some st, u) →
          exec (.tileComplete c e .none) s = .next (kept s (abortTask (noteTile u c.val r.ctx o.notes) c.val r.ctx st))))) ∧
    (r.ready = false → ∀ f, exec (.tileComplete c e f) s = .next s) ∧
    (∀ h : Held, (s.engine c.val e.val).held = some h →
      (∃ t, exec (.residueRepeatDone c e true) s = .next t ∧ t.rel.resTrans = satInc s.rel.resTrans ∧ t.rel.resPerm = s.rel.resPerm ∧ (t.engine c.val e.val).held = none) ∧
      (∃ t, exec (.residueRepeatDone c e false) s = .next t ∧ t.rel.resPerm = satInc s.rel.resPerm ∧ t.rel.resTrans = s.rel.resTrans ∧ (s.rel.autoFence = true → (t.engine c.val e.val).state = .fenced) ∧ (s.rel.autoFence = false → (t.engine c.val e.val).run = none)))

/-- Sampled duplication (R570 to R573): equal results pass the sample and different ones are repeated; a waiting duplicate is forced when its count of tile units is reached; the repeat and the third run settle which engine is at fault. Commands whose next state it gives, under conditions on the state and the operands alone: duplicateDone, forceWaitExpire, settleTileDone. -/
def Obligations.SamplesAreSettled : Prop :=
  ∀ (s : State) (c : CoreId) (e : EngId) (sl : CheckSlot), c.val < s.ncores → s.pwr.trip = false → sl = (s.engine c.val e.val).slot →
    (∀ res : List Byte, (sl.stage = .captured ∨ sl.stage = .forced) →
      (res = sl.orig → exec (.duplicateDone c e res) s = .next ((clearSlot s c.val e.val).modEngine c.val e.val (fun g => { g with since := [] }))) ∧
      (res ≠ sl.orig → exec (.duplicateDone c e res) s = .next ({ s with rel.events := raiseEv s.rel.events 1 }.modEngine c.val e.val (fun g => { g with slot := { sl with stage := .rep, dup := res } })))) ∧
    (sl.stage = .captured → (s.engine c.val e.val).tiles.toNat < sl.at_ + 64 * s.rel.forceWait.toNat → exec (.forceWaitExpire c e) s = .next s) ∧
    (∀ i, sl.stage = .captured → sl.at_ + 64 * s.rel.forceWait.toNat ≤ (s.engine c.val e.val).tiles.toNat →
      (((rotation s).drop ((rotation s).idxOf sl.checker) ++ (rotation s).take ((rotation s).idxOf sl.checker)).filter (fun i => i != engIndex c.val e.val)).find? (fun i => !hasCadence s (i / 8) (i % 8)) = some i →
      exec (.forceWaitExpire c e) s = .next { s.modEngine c.val e.val (fun g => { g with slot := { g.slot with stage := .forced, checker := i } }) with rel.forced := satInc s.rel.forced }) ∧
    (∀ res : List Byte, sl.stage = .rep →
      (res = sl.dup → ∃ t, exec (.settleTileDone c e res) s = .next t ∧ t.rel.sTrans = satInc s.rel.sTrans ∧ t.rel.sPerm = s.rel.sPerm ∧ (t.engine c.val e.val).slot = {}) ∧
      (res ≠ sl.dup → 3 ≤ (rotation s).length → res = sl.orig → exec (.settleTileDone c e res) s = .next { s.modEngine c.val e.val (fun g => { g with slot := { sl with stage := .third, rep := res } }) with rel.forced := satInc s.rel.forced }) ∧
      (res ≠ sl.dup → res ≠ sl.orig → ∃ t, exec (.settleTileDone c e res) s = .next t ∧ t.rel.sPerm = satInc s.rel.sPerm ∧ t.rel.sTrans = s.rel.sTrans ∧ (t.engine c.val e.val).slot = {})) ∧
    (∀ res : List Byte, sl.stage = .third →
      (res = sl.dup → ∃ t, exec (.settleTileDone c e res) s = .next t ∧ t.rel.sPerm = satInc s.rel.sPerm) ∧
      (res ≠ sl.dup → res = sl.orig → exec (.settleTileDone c e res) s = .next (s.modEngine c.val e.val (fun g => { g with slot := { sl with stage := .recheck } }))) ∧
      (res ≠ sl.dup → res ≠ sl.orig → ∃ t, exec (.settleTileDone c e res) s = .next t ∧ (t.engine c.val e.val).slot = {} ∧ t.rel.sPerm = s.rel.sPerm ∧ t.rel.probe.isSome = (s.rel.probe.isSome || !((rotation s).filter (fun i => [c.val, sl.checker / 8, checkerOf s (engIndex c.val e.val) (sl.k + 1) / 8].contains (i / 8))).isEmpty))) ∧
    (∀ res : List Byte, sl.stage = .recheck →
      (res = sl.orig → ∃ t, exec (.settleTileDone c e res) s = .next t ∧ (t.engine c.val e.val).slot = {} ∧ t.rel.sPerm = s.rel.sPerm) ∧
      (res ≠ sl.orig → ∃ t, exec (.settleTileDone c e res) s = .next t ∧ t.rel.sPerm = satInc s.rel.sPerm)) ∧
    (sl.stage = .empty → ∀ res, exec (.settleTileDone c e res) s = .next s ∧ exec (.duplicateDone c e res) s = .next s)

/-! ### The core sequencer and the tile mover -/

/-- Dispatch and times (R178 to R181, R218 to R224, R228, R236, R447): a core that does not run dispatches nothing; the task offered enters the queue of the engine chosen, or the mover's, or starts; release times, deadlines (after those of the run that fall at the same instant and come first), waits and ages act when external time or the timestamp reaches them, and not before; a single run whose bound streams are stale is not run. Commands whose next state it gives, under conditions on the state and the operands alone: taskDispatch, taskReleaseTime, waitExpire, ageRise, standingRelease, runRelease, taskDeadline. -/
def Obligations.DispatchAndTimes : Prop :=
  ∀ (s : State) (c : CoreId) (x : CtxId) (k : Ctx), c.val < s.ncores → k = s.ctx c.val x.val →
    (coreRuns s c.val = false → exec (.taskDispatch c) s = .next s) ∧
    (coreRuns s c.val = true → offered s c.val = [x.val] →
      (∀ e, engineKind k.task.kind = true → pickEngine s c.val x.val = some e → ∃ t, exec (.taskDispatch c) s = .next t ∧ (t.ctx c.val x.val).state = .queued ∧ (t.ctx c.val x.val).engine = some e ∧ (t.engine c.val e).queue = (s.engine c.val e).queue ++ [x.val] ∧ (t.core c.val).tmQueue = (s.core c.val).tmQueue) ∧
      (engineKind k.task.kind = true → pickEngine s c.val x.val = none → ∃ t, exec (.taskDispatch c) s = .next t ∧ t.ctx c.val x.val = k ∧ (t.core c.val).events = (if k.cls = .cadence ∧ someAdmits s c.val x.val = false then raiseEv (s.core c.val).events 3 else (s.core c.val).events)) ∧
      (moverKind k.task.kind = true → (s.core c.val).tmQueue.length < 64 → ∃ t, exec (.taskDispatch c) s = .next t ∧ (t.ctx c.val x.val).state = .queued ∧ (t.core c.val).tmQueue = (s.core c.val).tmQueue ++ [x.val]) ∧
      (engineKind k.task.kind = false → moverKind k.task.kind = false → k.redisp = false → exec (.taskDispatch c) s = .next (beginTask s c.val x.val))) ∧
    (∀ (r : Run) (now : W64), s.ts.toNat ≤ now.toNat → runOf s k.graph.toNat = some r →
      (k.state = .waiting → k.released = false → r.cadence = true → r.stopped = false → r.a.toNat + k.task.release.toNat ≤ extTime (s.advance now) → ∃ t, exec (.taskReleaseTime c x now) s = .next t ∧ (t.ctx c.val x.val).released = true ∧
        (t.ctx c.val x.val).state = (if k.counters.all (· == 0) then .ready else .waiting) ∧ t.ts = now) ∧
      (extTime (s.advance now) < r.a.toNat + k.task.release.toNat → exec (.taskReleaseTime c x now) s = .next { s with ts := now }) ∧
      (k.task.kind = .waitCadence → k.state = .running → s.pwr.trip = false →
        (waitOver (s.advance now) k r = true → exec (.waitExpire c x now) s = .next (kept s (taskDone (s.advance now) c.val x.val))) ∧ (waitOver (s.advance now) k r = false → exec (.waitExpire c x now) s = .next { s with ts := now }))) ∧
    (∀ (d : Nat) (r : Run) (g : Graph) (now : W64), s.ts.toNat ≤ now.toNat → runOf s k.graph.toNat = some r → s.graph k.graph.toNat = some g → g.leaving = false → deadlineOf s k = some d → deadlineBefore (s.advance now) c.val x.val = [] →
      (extTime (s.advance now) < d → exec (.taskDeadline c x now) s = .next { s with ts := now }) ∧
      (d ≤ extTime (s.advance now) → k.task.policy = .skip → (k.state = .waiting ∨ k.state = .ready ∨ k.state = .queued) → ∃ t, exec (.taskDeadline c x now) s = .next t ∧ (t.ctx c.val x.val).outcome = .skipped ∧ t.cad.pSkip = bump32 s.cad.pSkip k.part) ∧
      (d ≤ extTime (s.advance now) → k.task.policy = .skip → k.state = .running → ∃ t, exec (.taskDeadline c x now) s = .next t ∧ (t.ctx c.val x.val).outcome = .late ∧ (t.ctx c.val x.val).state = .running ∧ t.cad.pSkip = s.cad.pSkip)) ∧
    (∀ now : W64, s.ts.toNat ≤ now.toNat → s.pwr.trip = false →
      (k.state = .ready → k.cls = .background → k.clsSince.toNat + (s.part k.part).ageBack.toNat * 1000000 < now.toNat → ∃ t, exec (.ageRise c x now) s = .next t ∧ t.ctx c.val x.val = { k with cls := .bulk, clsSince := now } ∧ (t.part k.part).ageRises = satInc (s.part k.part).ageRises) ∧
      (k.state = .ready → k.cls = .bulk → k.clsSince.toNat + (s.part k.part).ageBulk.toNat * 1000000 < now.toNat → ∃ t, exec (.ageRise c x now) s = .next t ∧ t.ctx c.val x.val = { k with cls := .interactive, clsSince := now }) ∧
      ((k.cls = .interactive ∨ k.cls = .cadence) → exec (.ageRise c x now) s = .next { s with ts := now })) ∧
    (∀ (h : W32) (g : Graph) (r : Run) (now : W64), s.ts.toNat ≤ now.toNat → s.graph h.toNat = some g → runOf s h.toNat = some r → r.released = false →
      (r.a.toNat ≤ extTime (s.advance now) → exec (.runRelease h now) s = .next (kept s (releaseSingle (s.advance now) h.toNat g r))) ∧ (extTime (s.advance now) < r.a.toNat → exec (.runRelease h now) s = .next { s with ts := now })) ∧
    (∀ (h : W32) (g : Graph) (e0 now : W64), s.ts.toNat ≤ now.toNat → s.graph h.toNat = some g → g.e0 = some e0 → g.started = true →
      (e0.toNat + g.phase.toNat + g.nextK * g.period * 65536 ≤ extTime (s.advance now) → exec (.standingRelease h now) s = .next (kept s (standingRelease (s.advance now) h.toNat))) ∧
      (extTime (s.advance now) < e0.toNat + g.phase.toNat + g.nextK * g.period * 65536 → exec (.standingRelease h now) s = .next { s with ts := now }))

/-- Sequencer and mover tasks (R166, R171, R181, R183, R185 to R190, R254, R371, R437, R685): a wait runs until it is over; a signal task puts one message to each target in flight, and a message in flight decrements the counter it names, or is dropped where no live run matches or the gate refuses it; a promote task asks for its rung when its score reaches the threshold; a barrier task raises its generation and sends ARRIVE; a move waits for its source, then writes its rows here, or sends them under a transaction; a decompress task writes its object; a task whose writes are visible is DONE. Commands whose next state it gives, under conditions on the state and the operands alone: moveTask, decompress, promoteTask, waitForCadence, signalTask, fabricBarrier, taskDone, signalArrive, coreDoneArrive, barrierTimeout. -/
def Obligations.SequencerAndMoverTasks : Prop :=
  ∀ (s : State) (c : CoreId) (x : CtxId) (k : Ctx), c.val < s.ncores → s.pwr.trip = false → k = s.ctx c.val x.val →
    (∀ r : Run, runOf s k.graph.toNat = some r → k.task.kind = .waitCadence → k.state = .ready →
      (waitOver (beginTask s c.val x.val) ((beginTask s c.val x.val).ctx c.val x.val) r = false → exec (.waitForCadence c x) s = .next (beginTask s c.val x.val)) ∧
      (waitOver (beginTask s c.val x.val) ((beginTask s c.val x.val).ctx c.val x.val) r = true → exec (.waitForCadence c x) s = .next (kept s (taskDone (beginTask s c.val x.val) c.val x.val)))) ∧
    (k.task.kind = .signal → k.state = .ready → exec (.signalTask c x) s = .next (kept s (taskDone (((beginTask s c.val x.val).modCore c.val (fun q => { q with sigSent := satAdd q.sigSent k.task.targets.length })).modRun k.graph.toNat
      (fun r => { r with signals := r.signals ++ k.task.targets.map (fun g => (g.1, g.2.ctx, g.2.counter)) })) c.val x.val))) ∧
    (∀ (m : SignalMsg), m.ctx = x →
      (∀ r : Run, runOf s m.graph.toNat = some r → k.graph = m.graph → k.state ≠ .free → r.runNo = m.runNo → r.signals.contains (c.val, x.val, m.counter.val) = true → (s.part k.part).state ≠ .resetting →
        (k.part = m.ptag.val → coreInitOk s k.part m.init = true → ∃ t, exec (.signalArrive c m) s = .next t ∧ (t.ctx c.val x.val).counters = k.counters.set m.counter (k.counters.getD m.counter 0 - 1) ∧ (t.core c.val).sigRecv = satInc (s.core c.val).sigRecv ∧
          (∀ q, runOf t m.graph.toNat = some q → q.signals = r.signals.erase (c.val, x.val, m.counter.val))) ∧
        ((k.part ≠ m.ptag.val ∨ coreInitOk s k.part m.init = false) → ∃ t, exec (.signalArrive c m) s = .next t ∧ t.ctx c.val x.val = k ∧ (t.core c.val).sigRecv = satInc (s.core c.val).sigRecv ∧ (t.core c.val).events = raiseEv (s.core c.val).events 1 ∧
          (t.part m.ptag.val).gateRefused = satInc (s.part m.ptag.val).gateRefused)) ∧
      (∀ r : Run, runOf s m.graph.toNat = some r → r.signals.contains (c.val, x.val, m.counter.val) = false → exec (.signalArrive c m) s = .next (seqEvent (s.modCore c.val (fun q => { q with sigRecv := satInc q.sigRecv })) c.val 1)) ∧
      (runOf s m.graph.toNat = none → exec (.signalArrive c m) s = .next (seqEvent (s.modCore c.val (fun q => { q with sigRecv := satInc q.sigRecv })) c.val 1))) ∧
    (∀ (src : CoreId) (h : W32) (g : Graph), s.graph h.toNat = some g → c.val = homeCore g → (g.ctxOf.filter (fun e => e.1 == src.val)) ≠ [] → (g.ctxOf.filter (fun e => e.1 == src.val)).all (fun e => (s.ctx e.1 e.2).state == .done) = true →
      exec (.coreDoneArrive c src h) s = .next (kept s (tryRetire (s.modRun h.toNat (fun r => { r with coresDone := if r.coresDone.contains src.val then r.coresDone else src.val :: r.coresDone })) h.toNat))) ∧
    (∀ (score : W32), k.task.kind = .promote → k.state = .ready → anyBlock s k.part (pbf k.task 8 6) 4 .unmapped = false →
      (anyBlock s k.part (pbf k.task 8 6) 4 .poisoned = true → exec (.promoteTask c x) s = .next (kept s (failTask s c.val x.val stIntegrity))) ∧
      (anyBlock s k.part (pbf k.task 8 6) 4 .poisoned = false → score = BitVec.ofNat 32 (leNat (devRead s k.part (pbf k.task 8 6) 4)) →
        ((isNan32 score = true ∨ f32lt score (BitVec.ofNat 32 (pbf k.task 4 4)) = true) → exec (.promoteTask c x) s = .next (kept s (taskDone (beginTask s c.val x.val) c.val x.val))) ∧
        (isNan32 score = false → f32lt score (BitVec.ofNat 32 (pbf k.task 4 4)) = false → exec (.promoteTask c x) s = .next (kept s (taskDone (promote (beginTask s c.val x.val) (pbf k.task 0 1) (some k.part)) c.val x.val))))) ∧
    (barrierStarts s c.val x.val = true → ∀ u : State, u = (if k.state = .ready then beginTask s c.val x.val else s) →
      (∀ (slot : Nat) (b : Barrier), barSlot s (pbf k.task 0 2) = some (slot, b) → b.coord ≠ s.fab.id → ∃ t, exec (.fabricBarrier c x) s = .next t ∧ (t.ctx c.val x.val).state = .running ∧ tget {} t.fab.bars slot = { b with gen := b.gen + 1, pend := some (c.val, x.val, b.gen + 1, s.ts) }) ∧
      (∀ (slot : Nat) (b : Barrier), barSlot s (pbf k.task 0 2) = some (slot, b) → b.coord = s.fab.id → exec (.fabricBarrier c x) s =
        .next (kept s (noteArrive { u with fab.bars := tset s.fab.bars slot { b with gen := b.gen + 1, pend := some (c.val, x.val, b.gen + 1, s.ts) } } slot (b.gen + 1) s.fab.id.toNat))) ∧
      (barSlot s (pbf k.task 0 2) = none → exec (.fabricBarrier c x) s = .next (kept s (failTask u c.val x.val stAborted)))) ∧
    (barrierStarts s c.val x.val = false → exec (.fabricBarrier c x) s = .next s) ∧
    (∀ (slot : Nat) (b : Barrier) (g : W32) (t0 now : W64), s.ts.toNat ≤ now.toNat → s.fab.bars.find? (fun b => match b.2.pend with | some (cc, xx, _, _) => cc == c.val && xx == x.val | none => false) = some (slot, b) → b.pend = some (c.val, x.val, g, t0) → k.state = .running →
      (t0.toNat + pbf k.task 4 4 * 1000 ≤ now.toNat → exec (.barrierTimeout c x now) s = .next (kept s (failTask { s with ts := now, fab.events := raiseEv s.fab.events 9, fab.bars := tset s.fab.bars slot { b with pend := none } } c.val x.val stTimeout))) ∧
      (now.toNat < t0.toNat + pbf k.task 4 4 * 1000 → exec (.barrierTimeout c x now) s = .next { s with ts := now })) ∧
    (k.state = .running → (engineKind k.task.kind = true ∨ moverKind k.task.kind = true) → workOver s c.val x.val = true → ∀ u : State, u = s.modCore c.val (fun q => { q with tmRun := if q.tmRun = some x.val then none else q.tmRun }) →
      exec (.taskDone c x) s = .next (kept s (fetchFreed (taskDone (if sharedCore s c.val then chargeDispatch u c.val x.val else u) c.val x.val) c.val))) ∧
    (k.state = .running → (engineKind k.task.kind = true ∨ moverKind k.task.kind = true) → workOver s c.val x.val = false → exec (.taskDone c x) s = .next s) ∧
    (∀ (u v w : State) (asked : Bool) (rows : List ((Nat × Nat) × List Byte)) (needs : List (Nat × Nat × BitVec 16)),
      ((moverHead s c.val .move = some x.val ∧ u = moverTake s c.val x.val) ∨ (moverWaits s c.val .move = some x.val ∧ u = s)) → pbf k.task 0 1 % 4 ≠ 1 → needs = blockNeeds ((moveSrc k.task).map (fun a => (0, a.1, a.2))) →
      (moveSrc k.task).any (fun a => anyBlock u k.part a.1 a.2 .unmapped) = false → (moveSrc k.task).any (fun a => anyBlock u k.part a.1 a.2 .poisoned) = false → (moveSrc k.task).any (fun a => touchesSealed u k.part a.1 a.2) = false →
      (awaitBytes u c.val x.val false (u.core c.val).tmAsked needs = (false, asked, v) → exec (.moveTask c) s = .next (kept s (v.modCore c.val (fun q => { q with tmAsked := asked })))) ∧
      (awaitBytes u c.val x.val false (u.core c.val).tmAsked needs = (true, asked, v) → w = (touchBlocks v c.val k.part (needBlocks needs)).modCore c.val (fun q => { q with tmWait := false }) →
        rows = (moveDst k.task).zip ((moveSrc k.task).map (fun a => moveRow w k.part k.task a.1 a.2)) →
        (nbit (pbf k.task 0 1) 2 = false → (writeRows c.val k.part rows w.draw).1 = none → exec (.moveTask c) s = .next (kept s (writeRows c.val k.part rows w.draw).2)) ∧
        (nbit (pbf k.task 0 1) 2 = true → ∃ (t : State) (y : Txn), exec (.moveTask c) s = .next t ∧ t.fab.nextTxn = s.fab.nextTxn + 1 ∧ (t.ctx c.val x.val).txn = some (s.fab.nextTxn % 65536) ∧ tfind t.fab.txns (s.fab.nextTxn % 65536) = some y ∧
          y.core = c.val ∧ y.ctx = x.val ∧ y.dev = pbf k.task 36 2 ∧ y.frames = rows.flatMap (fun r => cutRow (r.2.length + 1) r.1.1 r.2)))) ∧
    (moverHead s c.val .move = none → moverWaits s c.val .move = none → exec (.moveTask c) s = .next s) ∧
    (∀ (u v w : State) (asked : Bool) (needs : List (Nat × Nat × BitVec 16)),
      ((moverHead s c.val .decompress = some x.val ∧ u = moverTake s c.val x.val) ∨ (moverWaits s c.val .decompress = some x.val ∧ u = s)) → needs = blockNeeds [(0, pbf k.task 8 6, pbf k.task 24 4)] →
      anyBlock u k.part (pbf k.task 8 6) (pbf k.task 24 4) .unmapped = false → anyBlock u k.part (pbf k.task 8 6) (pbf k.task 24 4) .poisoned = false → touchesSealed u k.part (pbf k.task 8 6) (pbf k.task 24 4) = false →
      awaitBytes u c.val x.val false (u.core c.val).tmAsked needs = (true, asked, v) → w = (touchBlocks v c.val k.part (needBlocks needs)).modCore c.val (fun q => { q with tmWait := false }) →
      (∀ n, eraelyObject (devRead w k.part (pbf k.task 8 6) (pbf k.task 24 4)) = .error n → exec (.decompress c) s = .next (kept s (abortTask (w.modCore c.val (fun q => { q with decompErr := satAdd q.decompErr n })) c.val x.val stIntegrity))) ∧
      (∀ d : List Byte, eraelyObject (devRead w k.part (pbf k.task 8 6) (pbf k.task 24 4)) = .ok d →
        (d.length ≠ pbf k.task 28 4 → exec (.decompress c) s = .next (kept s (abortTask w c.val x.val stIntegrity))) ∧
        (d.length = pbf k.task 28 4 → (taskWrite w c.val k.part 0 (pbf k.task 16 6) d).1 = .ok → exec (.decompress c) s = .next (kept s (taskWrite w c.val k.part 0 (pbf k.task 16 6) d).2))))

/-- Task ends (R175, R176, R186, R221, R225, R226): a task that is done is counted; one past its deadline is late, and one whose deadline found the fallback busy is skipped; a failed task stops its run, and the run keeps the earliest failure. Derived from the operations that every task end uses. Core reset and engine fence (R153, R154, R195, R196): a reset core has no task, queue or count left and its fenced engines stay fenced; a core whose domain is off ignores it; a fenced engine loses its tile, queue and T0, its tasks are READY again for another engine, and no other engine changes but for a duplicate that it was to check; a context parity error resets its partition, or the core. Commands whose next state it gives, under conditions on the state and the operands alone: ctxParity, coreReset, engineFence. -/
def Obligations.TaskEndsAndCoreResets : Prop :=
  (
  ∀ (s : State) (c x : Nat) (k : Ctx) (g : Graph) (r : Run), k = s.ctx c x → s.graph k.graph.toNat = some g → g.run = some r → g.leaving = false → k.state = .running →
    (((deadlineOf s k).all (fun d => decide (extTime s ≤ d))) = true → k.outcome = .none → ((taskDone s c x).ctx c x).outcome = .completed ∧ ((taskDone s c x).core c).doneCnt = satInc (s.core c).doneCnt ∧ (taskDone s c x).cad.pLate = s.cad.pLate) ∧
    (∀ d, deadlineOf s k = some d → d < extTime s → k.outcome ≠ .skipped → ((taskDone s c x).ctx c x).outcome = .late ∧ (taskDone s c x).cad.pLate = bump32 s.cad.pLate k.part) ∧
    (k.outcome = .skipped → ((taskDone s c x).ctx c x).outcome = .skipped ∧ (taskDone s c x).cad.pSkip = bump32 s.cad.pSkip k.part ∧ (taskDone s c x).cad.pLate = s.cad.pLate) ∧
    (∀ st : W16, ((failTask s c x st).ctx c x).outcome = .failed ∧ ((failTask s c x st).ctx c x).failure = some st.toNat ∧ ((failTask s c x st).core c).doneCnt = satInc (s.core c).doneCnt ∧
      (∀ q, runOf (failTask s c x st) k.graph.toNat = some q → q.stopped = true ∧ q.failure = (if r.failure.isSome || r.ending.isSome then r.failure else some (st.toNat, k.task.index, k.task.core))))
  ) ∧
  (
  ∀ (s : State) (c : CoreId) (e : EngId), c.val < s.ncores →
    ((s.core c.val).on = true → ∃ t, exec (.coreReset c) s = .next t ∧ (t.core c.val).ctxs = [] ∧ (t.core c.val).tmQueue = [] ∧ (t.core c.val).tmRun = none ∧ (t.core c.val).qlimit = 4 ∧ (t.core c.val).doneCnt = 0 ∧ (t.core c.val).events = {} ∧
      (t.core c.val).on = true ∧ (t.core c.val).op = (s.core c.val).op ∧ (t.engine c.val e.val).queue = [] ∧ (t.engine c.val e.val).run = none ∧ ((s.engine c.val e.val).state = .fenced → (t.engine c.val e.val).state = .fenced)) ∧
    ((s.core c.val).on = false → exec (.coreReset c) s = .next s) ∧
    (∀ i, i < 8 → i ≠ e.val → (s.engine c.val i).state ≠ .fenced → (s.engine c.val e.val).state ≠ .fenced →
      ∃ t, exec (.engineFence c e) s = .next t ∧ (t.engine c.val e.val).state = .fenced ∧ (t.engine c.val e.val).queue = [] ∧ (t.engine c.val e.val).run = none ∧ (t.engine c.val e.val).held = none ∧ (t.engine c.val e.val).t0 = [] ∧
        (∀ x ∈ engineTasks (s.engine c.val e.val), (t.ctx c.val x).state = .ready ∧ (t.ctx c.val x).redisp = true ∧ (t.ctx c.val x).engine = none ∧ (t.ctx c.val x).readyTs = (s.ctx c.val x).readyTs) ∧
        (∀ d, d ≠ e.val → t.engine c.val d = { s.engine c.val d with slot := (t.engine c.val d).slot }) ∧
        ((∀ q ∈ s.cores, ∀ g ∈ q.2.engines, g.2.slot.stage = .empty ∨ g.2.slot.checker ≠ engIndex c.val e.val) → ∀ d, d ≠ e.val → t.engine c.val d = s.engine c.val d) ∧ (t.core c.val).fenced = (s.core c.val).fenced) ∧
    ((s.engine c.val e.val).state = .fenced → exec (.engineFence c e) s = .next s) ∧
    (∀ p : PartId, (s.part p.val).state = .ready → ∃ t, exec (.ctxParity c (some p)) s = .next t ∧ (t.part p.val).state = .resetting ∧ (t.part p.val).resetCause = 2 ∧ (t.part p.val).resets = satInc (s.part p.val).resets ∧ (t.core c.val).events = raiseEv (s.core c.val).events 0) ∧
    (exec (.ctxParity c none) s = .next (kept s (coreReset (s.modCore c.val (fun k => { k with events := raiseEv k.events 0 })) c.val)))
  )

/-- R562, R564 to R566: a parity failure counts, the second of a transfer resets its partition, and a cached translation or counter block that fails is dropped; a corrected error counts, and an uncorrectable one counts and is contained where it lies: a partition reset, an instance reset of cause 4, the end of the watch program, or a sample abandoned. R214, R591, R595: Rennet writes its queue's first entry into the next slot with the next SEQ and the time of its first phase, or drops and counts an ordinary one while the Rind is full; a second in which entries were dropped leaves one DROPPED entry and starts a new count. Commands whose next state it gives, under conditions on the state and the operands alone: parityFail, eccCorrected, eccUncorrectable, rindEntryWrite, rindDroppedTick. -/
def Obligations.ErrorsAndRind : Prop :=
  (
  ∀ (s : State),
    (∀ (u : W16) (pt : BitVec 6), exec (.parityFail u pt (.transfer false)) s = .next { s with rel.parity := satInc s.rel.parity, rel.events := raiseEv s.rel.events 5 }) ∧
    (∀ (u : W16) (pt : BitVec 6) (h p b : Nat), exec (.parityFail u pt (.translation h p b)) s = .next { s with rel.parity := satInc s.rel.parity, rel.events := raiseEv s.rel.events 5, mem.btc := s.mem.btc.filter (fun x => x != (h, p, b)) }) ∧
    (∀ (u : W16) (pt : BitVec 6) (port b : Nat), exec (.parityFail u pt (.counters port b)) s = .next { s with rel.parity := satInc s.rel.parity, rel.events := raiseEv s.rel.events 5, mem.ccache := s.mem.ccache.filter (fun x => x != (port, b)) }) ∧
    (∀ (u : W16) (pt : BitVec 6), pt ≠ 0x3F → (s.part pt.toNat).state = .ready → ∃ t, exec (.parityFail u pt (.transfer true)) s = .next t ∧ t.rel.parity = satInc s.rel.parity ∧ (t.part pt.toNat).state = .resetting ∧ (t.part pt.toNat).resetCause = 1) ∧
    (∀ (u : W16) (place : EccPlace) (now : W64), s.ts.toNat ≤ now.toNat → s.rel.burst = [] → s.rel.corrLimit ≠ 0 → (∀ c e, place ≠ .t0 c e) →
      exec (.eccCorrected u place now) s = .next { s with ts := now, rel.eccCorr := satInc s.rel.eccCorr, rel.events := raiseEv s.rel.events 3, rel.burst := [(u, now)] }) ∧
    (∀ (p : PartId) (b : Nat) (addr : W64), (s.part p.val).state = .ready → ∃ t, exec (.eccUncorrectable (.t2 p b) addr) s = .next t ∧ t.rel.eccUncorr = satInc s.rel.eccUncorr ∧ (t.part p.val).state = .resetting ∧ (t.part p.val).resetCause = 1) ∧
    (∀ (place : EccPlace) (addr : W64), s.rel.glogOwner = none → (place = .ctlSram ∨ place = .flcSram) → ∃ t, exec (.eccUncorrectable place addr) s = .next t ∧ t.crp.cause = 4 ∧ t.crp.count = satInc s.crp.count ∧ t.parts = [] ∧ t.graphs = [] ∧ t.otp.cells = s.otp.cells ∧ t.mem.t3 = s.mem.t3) ∧
    (∀ addr : W64, s.spr.source ≠ 2 → ∃ t, exec (.eccUncorrectable .sproutSram addr) s = .next t ∧ t.rel.eccUncorr = satInc s.rel.eccUncorr ∧ t.spr.watchEn = false ∧ t.spr.history = [] ∧ t.spr.events = raiseEv s.spr.events 6) ∧
    (∀ (c : CoreId) (e : EngId) (addr : W64), ∃ t, exec (.eccUncorrectable (.checkStore c e) addr) s = .next t ∧ t.rel.eccUncorr = satInc s.rel.eccUncorr ∧ t.rel.skips = satInc s.rel.skips ∧ (t.engine c.val e.val).slot = {} ∧ (t.engine c.val e.val).run = (s.engine c.val e.val).run)
  ) ∧
  (
  ∀ (s : State), s.rel.rindReady = true →
    (∀ (e : RindEntry) (rest : List RindEntry), s.rel.rindQ = e :: rest → s.rel.compacting = false → s.rel.segs.all (fun g => !g.2.doomed) = true →
      (s.rel.rindFull = true → e.pinned = false → ∃ t, exec .rindEntryWrite s = .next t ∧ t.rel.rindQ = rest ∧ t.rel.rindDropped = satInc s.rel.rindDropped ∧ t.rel.droppedSec = s.rel.droppedSec + 1 ∧ t.rel.segs = s.rel.segs ∧ t.rel.nextSeq = s.rel.nextSeq) ∧
      (∀ i, (s.rel.rindFull = false ∨ e.pinned = true) → s.rel.curSeg = some i → (tget ({} : Segment) s.rel.segs i).entries.length < 768 →
        ∃ (t : State) (w : RindEntry), exec .rindEntryWrite s = .next t ∧ t.rel.rindQ = rest ∧ t.rel.nextSeq = s.rel.nextSeq + 1 ∧ (tget ({} : Segment) t.rel.segs i).entries = (tget ({} : Segment) s.rel.segs i).entries ++ [w] ∧
          w.seq = s.rel.nextSeq ∧ w.code = e.code ∧ w.body = e.body ∧ w.pinned = e.pinned ∧ w.ts = (if e.carried then e.ts else s.ts) ∧ (∀ l, (rindEntries s).getLast? = some l → w.link = (Config.sha3 (entryBytes l)).take 12) ∧ t.rel.rindDropped = s.rel.rindDropped)) ∧
    (s.rel.rindQ = [] → s.rel.compacting = false → exec .rindEntryWrite s = .next s) ∧
    (s.rel.droppedSec = 0 → exec .rindDroppedTick s = .next s) ∧
    (∀ i, s.rel.droppedSec ≠ 0 → s.rel.curSeg = some i → (tget ({} : Segment) s.rel.segs i).entries.length < 768 → ∃ (t : State) (w : RindEntry), exec .rindDroppedTick s = .next t ∧ t.rel.droppedSec = 0 ∧ t.rel.folded = 0 ∧ t.rel.nextSeq = s.rel.nextSeq + 1 ∧
      (tget ({} : Segment) t.rel.segs i).entries = (tget ({} : Segment) s.rel.segs i).entries ++ [w] ∧ w.seq = s.rel.nextSeq ∧ w.pinned = false ∧ w.body = padTo 32 (leBytes 4 s.rel.droppedSec ++ leBytes 4 s.rel.folded) ∧ t.rel.rindQ = s.rel.rindQ)
  )

/-- Frames at their destination (R350, R366 to R371, R374, R376, R576, R586, R593): a report is queued and logged, a digest held once per member and interval, a bound WRITE is written and acknowledged and any other refused; acknowledgements free the oldest frames, a timeout resends at most RESEND_MAX times; an arrival is held, a release of the own generation ends the wait; SECURE pieces are put together. Commands whose next state it gives, under conditions on the state and the operands alone: fabReport, fenceFrame, rindSum, fabDigest, fabWrite, writeAck, ackTimeout, fabArrive, fabRelease, fabSecure. -/
def Obligations.FramesAtTheirDestination : Prop :=
  ∀ (s : State) (f : FabPort) (src : DevId) (now : W64), s.ts.toNat ≤ now.toNat → fabDeaf s = false →
    (∀ rep : List Byte, s.rel.mgmtQ.length < 32 → ∃ t, exec (.fabReport f src rep) s = .next t ∧ t.rel.mgmtQ = s.rel.mgmtQ ++ [.foreign (padTo 64 rep)] ∧ t.rel.reportsLost = s.rel.reportsLost) ∧
    (∀ rep : List Byte, 32 ≤ s.rel.mgmtQ.length → ∃ t, exec (.fabReport f src rep) s = .next t ∧ t.rel.mgmtQ = s.rel.mgmtQ.drop 1 ++ [.foreign (padTo 64 rep)] ∧ t.rel.reportsLost = satInc s.rel.reportsLost) ∧
    (∀ (u : W16) (isCore : Bool) (n : W32), (s.rel.glogOwner = none → exec (.fenceFrame f src u isCore n) s = .next s) ∧ (∀ p, s.rel.glogOwner = some p → ∃ t, exec (.fenceFrame f src u isCore n) s = .next t ∧ (t.part p).glogWr = (s.part p).glogWr + 1 ∧ t.cores = s.cores ∧ t.fab = s.fab)) ∧
    (∀ (g b : W32) (pl : List Byte), exec (.rindSum f src g b pl) s = .next s) ∧
    (∀ (d : DigestMsg) (j : Job), j = tget {} s.fab.jobs d.job.val →
      (∀ i, j.valid = true → j.members.findIdx? (fun m => m.1 == src.val) = some i → j.held.any (fun h => h.1 == d.interval && h.2.1 == i) = false →
        exec (.fabDigest f src d) s = .next { s with fab.jobs := tset s.fab.jobs d.job.val { j with held := (d.interval, i, d.a, d.value, d.complete) :: j.held } }) ∧
      (j.valid = false → exec (.fabDigest f src d) s = .next s)) ∧
    (∀ (p : PartId) (addr : BitVec 48) (txn : W16) (data : List Byte),
      (s.fab.binds.any (fun b => b.1 == p.val && b.2.1 == src.val) = false → ∃ t, exec (.fabWrite f src p addr txn data) s = .next t ∧ t.mem = s.mem ∧ (t.part p.val).gateRefused = satInc (s.part p.val).gateRefused ∧ (∀ q, q ≠ p.val → t.part q = s.part q) ∧ t.cores = s.cores ∧ t.fab.events.flags.getLsbD 7 = true) ∧
      (s.fab.binds.any (fun b => b.1 == p.val && b.2.1 == src.val) = true → (s.part p.val).state = .ready → (devWrite s p.val addr.toNat data none).1 = .ok → anyBlock s p.val addr.toNat data.length .view = false →
        exec (.fabWrite f src p addr txn data) s = .next (kept s (sendFrame (devWrite s p.val addr.toNat data none).2 (mkFrame (devWrite s p.val addr.toNat data none).2 0x11 src.val false p.val (BitVec.ofNat 64 (txn.toNat + 65536)) []) none)))) ∧
    (∀ (txn n : W16) (x : Txn), tfind s.fab.txns txn.toNat = some x →
      (x.dev = src.val → x.frames.drop n.toNat ≠ [] → exec (.writeAck f src txn n false) s = .next { s with fab.txns := tset s.fab.txns txn.toNat { x with frames := x.frames.drop n.toNat } }) ∧
      (x.dev = src.val → x.frames.drop n.toNat = [] → ∃ t, exec (.writeAck f src txn n false) s = .next t ∧ t.fab.txns = tdel s.fab.txns txn.toNat ∧ (t.ctx x.core x.ctx).txn = none ∧ (t.ctx x.core x.ctx).state = (s.ctx x.core x.ctx).state) ∧
      (x.dev ≠ src.val → ∀ r, exec (.writeAck f src txn n r) s = .next s) ∧
      (now.toNat < x.sentTs.toNat + s.fab.ackTimeout.toNat * 1000 → exec (.ackTimeout txn now) s = .next { s with ts := now }) ∧
      (x.sentTs.toNat + s.fab.ackTimeout.toNat * 1000 ≤ now.toNat → x.resends < s.fab.resendMax.toNat → ∃ t, exec (.ackTimeout txn now) s = .next t ∧ tfind t.fab.txns txn.toNat = some { x with resends := x.resends + 1, sentTs := now } ∧ t.cores = s.cores) ∧
      (x.sentTs.toNat + s.fab.ackTimeout.toNat * 1000 ≤ now.toNat → s.fab.resendMax.toNat ≤ x.resends →
        exec (.ackTimeout txn now) s = .next (kept s (endTxns { s with ts := now, fab.events := raiseEv s.fab.events 8 } stTimeout (fun n _ => n == txn.toNat))))) ∧
    (∀ (id : W16) (gen : W32) (slot : Nat) (b : Barrier), barSlot s id.toNat = some (slot, b) →
      (gen ≠ b.gen → gen ≠ b.gen + 1 → tget {} s.fab.bars slot = b → exec (.fabArrive f src id gen now) s = .next { s with ts := now }) ∧
      ((gen = b.gen ∨ gen = b.gen + 1) → tget {} s.fab.bars slot = b → src.val ∈ b.members.map (·.1) → b.arrived = [] → (∃ m ∈ b.members, m.1 ≠ src.val) →
        exec (.fabArrive f src id gen now) s = .next { s with ts := now, fab.bars := tset s.fab.bars slot { b with arrived := [(gen, src.val, now)] } }) ∧
      (∀ (slow : DevId) (sp : W32) (c x : Nat) (t0 : W64), tget {} s.fab.bars slot = b → b.pend = some (c, x, gen, t0) → ∃ t, exec (.fabRelease f src id gen slow sp now) s = .next t ∧ (tget {} t.fab.bars slot).pend = none ∧
        (tget {} t.fab.bars slot).wait = satAdd b.wait ((now.toNat - t0.toNat) / 1000) ∧ (tget {} t.fab.bars slot).slowest = BitVec.ofNat 10 slow.val ∧ (tget {} t.fab.bars slot).spread = BitVec.ofNat 16 (min sp.toNat 65535)) ∧
      (∀ (slow : DevId) (sp : W32), tget {} s.fab.bars slot = b → b.pend = none → exec (.fabRelease f src id gen slow sp now) s = .next { s with ts := now })) ∧
    (∀ (p : PartId) (arg : W64) (pl : List Byte),
      exec (.fabSecure f src p arg pl false) s = .next { s with fab.secure := tset s.fab.secure src.val (tget [] s.fab.secure src.val ++ pl) } ∧
      (nbits arg.toNat 7 0 = 1 → s.fab.binds.any (fun b => b.1 == p.val && b.2.1 == src.val) = false → exec (.fabSecure f src p arg pl true) s = .next { s with fab.secure := tdel s.fab.secure src.val }))

/-- The Tved ports (R319, R626 to R643): a host request whose credits the host holds is held until the block serves it, answered PARITY, FAULT or REFUSED where it breaks a rule, and a good read of a register returns its words; a response frees its request and returns its credits, or the request is reissued once; a credit returns or sets PROTO. Commands whose next state it gives, under conditions on the state and the operands alone: hostRequest, memResponse, interruptResponse, creditReturn. -/
def Obligations.TvedPorts : Prop :=
  ∀ (s : State),
    (∀ (w : BitVec 96) (par : BitVec 3) (bs : List WriteBeat) (now : W64), s.ts.toNat ≤ now.toNat →
      (s.spr.pstate = .o → exec (.hostRequest w par bs now) s = .next { s with ts := now }) ∧
      ((hasCredits s 0 0 1 = false ∨ hasCredits s 0 1 bs.length = false) → exec (.hostRequest w par bs now) s = .next { s with ts := now }) ∧
      (hasCredits s 0 0 1 = true → hasCredits s 0 1 bs.length = true → s.spr.pstate = .a → s.spr.draining = none → hostOpen s = false → recoveryOnly s w = false →
        exec (.hostRequest w par bs now) s = .next { takeHost { s with ts := now } bs with spr.heldHost := s.spr.heldHost ++ [(w, par, bs)] }) ∧
      (∀ u : State, hasCredits s 0 0 1 = true → hasCredits s 0 1 bs.length = true → s.spr.draining = none → hostOpen s = true → u = { giveHost (takeHost { s with ts := now } bs) bs with spr.idleSince := now, spr.rungIdle := tset s.spr.rungIdle 1 now } →
        (parityOf 3 w.toNat ≠ par.toNat → ∃ t, exec (.hostRequest w par bs now) s = .next t ∧ t.ports.hostPar = satInc s.ports.hostPar ∧ t.rel.parity = satInc s.rel.parity ∧ t.ports.events.flags.getLsbD 0 = true) ∧
        (parityOf 3 w.toNat = par.toNat → nbit w.toNat 0 = false →
          (nbit w.toNat 1 = true → exec (.hostRequest w par bs now) s = .next (kept s (hostAnswer u (reqId w) false rcFault (List.replicate (reqBeats w) 0)))) ∧
          (nbit w.toNat 1 = false → initClass (reqInit w) ≠ 0 → ∃ t, exec (.hostRequest w par bs now) s = .next t ∧ t.ports.hostRefused = satInc s.ports.hostRefused ∧ t.ports.events.flags.getLsbD 1 = true ∧ t.mem = s.mem) ∧
          (nbit w.toNat 1 = false → initClass (reqInit w) = 0 → initIndex (reqInit w) < 64 → reqAddr w < 0x4000000 → reqBeats w = 1 → reqAddr w % 16 = 0 → foreignPage u (initIndex (reqInit w)) (reqAddr w) = false → hostReads u (initIndex (reqInit w)) (regGroup u (reqAddr w)).1 = true →
            exec (.hostRequest w par bs now) s = .next (kept s (hostAnswer (readBeat u (reqAddr w)).1 (reqId w) false rcGood [(readBeat u (reqAddr w)).2]))) ∧
          (nbit w.toNat 1 = false → initClass (reqInit w) = 0 → initIndex (reqInit w) < 64 → 0x4000000 ≤ reqAddr w → reqAddr w < 0x1000000000 → exec (.hostRequest w par bs now) s = .next (kept s (hostAnswer u (reqId w) false rcFault (List.replicate (reqBeats w) 0))))))) ∧
    (∀ (c : CoreId) (tag : BitVec 10) (r : MemReq) (u : State), c.val < s.ncores → s.pwr.trip = false → u = takeCredits s (1 + c.val) 3 1 →
      (s.mem.outReq.find? (fun r => r.port == c.val && r.write == true && r.id == some (tag.toNat % 256)) = none → s.ports.lateIds = [] → ∃ t, exec (.memResponse c (.write tag (oddOnes tag.toNat))) s = .next t ∧
        t.ports.badId = satInc s.ports.badId ∧ t.ports.events = raiseEv s.ports.events 5 ∧ t.mem = s.mem ∧ t.rel = s.rel) ∧
      (s.mem.outReq.find? (fun r => r.port == c.val && r.write == true && r.id == some (tag.toNat % 256)) = some r →
        (tag.toNat / 256 = 0 → exec (.memResponse c (.write tag (oddOnes tag.toNat))) s = .next (kept s (giveCredits (dropReq u r) (1 + c.val) 3 1))) ∧
        (r.again = false → ∃ t, exec (.memResponse c (.write tag (!oddOnes tag.toNat))) s = .next t ∧ t.ports.memRetry = satInc s.ports.memRetry ∧ t.rel.parity = satInc s.rel.parity ∧ t.parts = s.parts) ∧
        (tag.toNat / 256 = 2 → (r.tag ≠ 0x3F ∨ initClass r.init ≠ 2) → (s.block r.part r.block).state = .unmapped → ∃ t, exec (.memResponse c (.write tag (oddOnes tag.toNat))) s = .next t ∧ t.ports.memErr = satInc s.ports.memErr ∧ t.ports.memErrAddr = BitVec.ofNat 48 r.addr ∧ t.parts = s.parts))) ∧
    (∀ (c : CoreId) (rsp : MemRsp), c.val < s.ncores → s.pwr.trip = true → ∃ t, exec (.memResponse c rsp) s = .next t ∧ t.ports.rspHeld = s.ports.rspHeld ++ [(c.val, rsp)] ∧ t.mem = s.mem ∧ t.parts = s.parts) ∧
    (∀ (p : Nat) (d : W32), s.ports.intOut = some (p, d, false) → s.ports.intQ = [] →
      exec (.interruptResponse 0 false) s = .next { s with ports.intOut := none } ∧
      (0 < s.credits 65 0 → 0 < s.credits 65 1 → s.pwr.trip = false → ∃ t, exec (.interruptResponse 0x200 true) s = .next t ∧ t.ports.intOut = some (p, d, true) ∧ t.ports.events = raiseEv s.ports.events 4 ∧ t.ports.intQ = [])) ∧
    (s.ports.intOut = none → exec (.interruptResponse 0 false) s = .next { s with ports.badId := satInc s.ports.badId, ports.events := raiseEv s.ports.events 5 }) ∧
    (255 ≤ s.credits 65 0 → exec (.creditReturn .interrupt 0) s = .next { s with ports.events := raiseEv s.ports.events 6 }) ∧
    (s.credits 65 0 < 255 → s.ports.intQ = [] → exec (.creditReturn .interrupt 0) s = .next { s with ports.credits := tset s.ports.credits (creditKey 65 0) (s.credits 65 0 + 1) }) ∧
    (∀ port, exec (.creditReturn port 3) s = .next s ∨ port = .host)

/-- Phases, the rail and the estimate (R601, R605 to R614, R658): a core's phase is the first row of R605 that holds, with the highest preference of its partitions; a reading within 12.5 mV of the request acknowledges it and ends the fall-back, and a missing one acknowledges nothing; a request unacknowledged for ACK_WAIT applies the fall-back bias and assist; a calibration, 10 ms after the last, moves GAIN, and the third failure in a row sets PMBUS_ERR; the cap loop acts each 100 µs, and without a cap no core is held by it. Droop, ramp, heat and the critical trip (R615, R616, R618, R619): a droop stretches the core's clock until it recovers; a ramp window counts from the engines busy now; a sample is kept; a hot core goes down one point, not more often than each 1 ms; a trip is latched once with its outputs, and 10 ms after every sensor is cool the clocks restart with every core at OP0. Commands whose next state it gives, under conditions on the state and the operands alone: phaseClassify, capLoop, powerEstimate, calibration, regulatorPoll, regulatorAckTimeout, pmbusStuck, droop, droopRecover, rampWindow, thermalSample, throttleStep, thermalTrip, tripRestart. -/
def Obligations.PowerAndHeat : Prop :=
  (
  ∀ (s : State) (now : W64), s.ts.toNat ≤ now.toNat →
    (∀ (c : CoreId) (a : CoreActivity), c.val < s.ncores → s.pwr.trip = false →
      ((s.core c.val).on = true → ∃ t, exec (.phaseClassify c a) s = .next t ∧
        (t.core c.val).phase = (if a.cadence then 3 else if a.tileUnits ≠ 0 ∧ a.tileUnits ≤ 4 * a.convUnits then 0 else if a.matrixBusy * 100 < 30 * a.cycles ∧ a.cycles ≤ 2 * a.portReadBeats then 2 else 1) ∧
        (t.core c.val).pref = (if a.parts = [] then (s.core c.val).pref else BitVec.ofNat 3 ((a.parts.map (fun p => prefOf s p.val (phaseOf a))).foldl max 0)) ∧ t.mem = s.mem ∧ t.parts = s.parts) ∧
      ((s.core c.val).on = false → exec (.phaseClassify c a) s = .next s)) ∧
    (∀ (q : BitVec 3) (t0 : W64), s.pwr.pending = some (q, t0) →
      (∀ r : RegReading, r.fault = false → 2 * (r.mv - pointMv q.toNat) ≤ 25 → 2 * (pointMv q.toNat - r.mv) ≤ 25 → ∃ t, exec (.regulatorPoll (some r) now) s = .next t ∧ t.pwr.railOp = q ∧ t.pwr.fallback = false ∧ t.pwr.railMv = BitVec.ofNat 16 r.mv ∧ t.pwr.events = s.pwr.events) ∧
      (∀ r : RegReading, (r.fault = true ∨ 25 < 2 * (r.mv - pointMv q.toNat)) → ∃ t, exec (.regulatorPoll (some r) now) s = .next t ∧ t.pwr.railOp = s.pwr.railOp ∧ t.pwr.pending = s.pwr.pending ∧ t.pwr.fallback = s.pwr.fallback) ∧
      (∀ cmd ∈ [Instr.regulatorPoll none now, .pmbusStuck now], ∃ t, exec cmd s = .next t ∧ t.pwr.railOp = s.pwr.railOp ∧ t.pwr.railMv = s.pwr.railMv ∧ t.pwr.pending = s.pwr.pending ∧ t.pwr.fallback = s.pwr.fallback ∧ t.cores = s.cores ∧ t.ts = now) ∧
      (t0.toNat + s.pwr.ackWait.toNat * 1000 ≤ now.toNat → ∃ t, exec (.regulatorAckTimeout now) s = .next t ∧ t.pwr.fallback = true ∧ t.pwr.pending = none ∧ t.pwr.events = raiseEv s.pwr.events 3 ∧ t.pwr.railOp = s.pwr.railOp ∧
        (∀ c, (s.core c).on = true → (t.core c).bias = (if q.toNat < 3 then 0 else if q.toNat < 6 then 1 else 2) ∧ (t.core c).assist = (if q.toNat < 2 then 3 else if q.toNat < 4 then 1 else 0))) ∧
      (now.toNat < t0.toNat + s.pwr.ackWait.toNat * 1000 → exec (.regulatorAckTimeout now) s = .next { s with ts := now })) ∧
    (∀ x, s.ts.toNat < s.pwr.calAt.toNat + 10000000 → exec (.calibration x) s = .next s) ∧
    (∀ r : RegReading, s.pwr.calAt.toNat + 10000000 ≤ s.ts.toNat → ∃ t, exec (.calibration (some r)) s = .next t ∧ t.pwr.calAt = s.ts ∧ t.pwr.meas = BitVec.ofNat 32 r.mw ∧ t.pwr.railMv = BitVec.ofNat 16 r.mv ∧ t.pwr.failCal = 0 ∧ t.pwr.rawN = 0 ∧ t.pwr.rawSum = 0 ∧
      t.pwr.gain = newGain s.pwr.gain r.mw (if s.pwr.rawN = 0 then 0 else s.pwr.rawSum / s.pwr.rawN) ∧ t.pwr.events = s.pwr.events) ∧
    (s.pwr.calAt.toNat + 10000000 ≤ s.ts.toNat → ∃ t, exec (.calibration none) s = .next t ∧ t.pwr.gain = s.pwr.gain ∧ t.pwr.meas = s.pwr.meas ∧ t.pwr.failCal = s.pwr.failCal + 1 ∧ t.pwr.events = (if 3 ≤ s.pwr.failCal + 1 then raiseEv s.pwr.events 6 else s.pwr.events)) ∧
    (∀ acts : List CoreActivity, ∃ t, exec (.powerEstimate acts now) s = .next t ∧ t.pwr.act = acts ∧ t.pwr.rawN = s.pwr.rawN + 1 ∧ t.pwr.rawSum = s.pwr.rawSum + rawPower { s with pwr.act := acts } (pointMv s.pwr.railOp.toNat) ∧ t.pwr.gain = s.pwr.gain ∧ t.ts = now ∧
      t.pwr.est = BitVec.ofNat 32 (min (estimate { s with pwr.act := acts } (pointMv s.pwr.railOp.toNat)) (2 ^ 32 - 1))) ∧
    ((s.pwr.trip = true ∨ now.toNat < s.pwr.capAt.toNat + 100000) → exec (.capLoop now) s = .next { s with ts := now }) ∧
    (s.pwr.trip = false → s.pwr.capAt.toNat + 100000 ≤ now.toNat → s.pwr.cap = 0 → ∃ t, exec (.capLoop now) s = .next t ∧ t.pwr.underCap = 0 ∧ (∀ c, (s.core c).on = true → (t.core c).capOp = 7 ∧ (t.core c).climbOp = (if (s.core c).climbOp = 7 then 7 else (s.core c).climbOp + 1)))
  ) ∧
  (
  ∀ (s : State) (now : W64), s.ts.toNat ≤ now.toNat →
    (∀ c : CoreId, c.val < s.ncores → s.pwr.trip = false →
      ((s.core c.val).on = true → ∃ t, exec (.droop c now) s = .next t ∧ (t.core c.val).droop = true ∧ (t.core c.val).stretch = true ∧ t.pwr.events = raiseEv s.pwr.events 2 ∧ (t.core c.val).op = (s.core c.val).op ∧ ∀ d, d ≠ c.val → t.core d = s.core d) ∧
      (∃ t, exec (.droopRecover c now) s = .next t ∧ (t.core c.val).droop = false ∧ (t.core c.val).stretch = (s.core c.val).skip ∧ t.pwr.events = s.pwr.events) ∧
      (∀ temp : W16, ∃ t, exec (.thermalSample (.core c) temp now) s = .next t ∧ (t.core c.val).tj = temp ∧ tget 0 t.pwr.coreTemp c.val = temp ∧ t.pwr.coolTs = none ∧ t.pwr.islTemp = s.pwr.islTemp ∧ (t.core c.val).op = (s.core c.val).op) ∧
      ((s.core c.val).on = true → ((s.pwr.throttle.toNat + 5) * 8 : Int) ≤ (tget (0 : W16) s.pwr.coreTemp c.val).toInt → (tget (0 : W64) s.pwr.lastStep c.val).toNat + 1000000 ≤ now.toNat →
        ∃ t, exec (.throttleStep c now) s = .next t ∧ (t.core c.val).thermOp = BitVec.ofNat 3 (min (s.core c.val).thermOp.toNat (s.core c.val).op.toNat - 1) ∧ t.pwr.events = raiseEv s.pwr.events 1 ∧ tget 0 t.pwr.lastStep c.val = now) ∧
      ((s.core c.val).on = false → exec (.throttleStep c now) s = .next { s with ts := now }) ∧
      (∃ t, exec (.thermalTrip (.core c) now) s = .next t ∧ t.pwr.trip = true ∧ t.pwr.trips = satInc s.pwr.trips ∧ t.ports.tripO = true ∧ t.pwr.events = raiseEv s.pwr.events 0 ∧ tget 0 t.pwr.coreTemp c.val = 1000 ∧ t.pwr.tripHold = decide (2 ≤ (s.pwr.tripTs.filter (fun x => decide (now.toNat < x.toNat + 600000000000))).length))) ∧
    (∀ n : Fin 7, s.pwr.trip = true → exec (.thermalTrip (.island n) now) s = .next { s with ts := now }) ∧
    (heldStarts s = [] → exec .rampWindow s = .next { s with pwr.instBusy := busyAll s, cores := s.cores.map (fun k => (k.1, { k.2 with busyEng := busyOf s k.1 })) }) ∧
    (∀ t0 : W64, s.pwr.coolTs = some t0 → s.pwr.trip = true → s.spr.heldHost = [] → s.ports.rspHeld = [] →
      (s.pwr.tripHold = false → t0.toNat + 10000000 ≤ now.toNat → ∃ t, exec (.tripRestart now) s = .next t ∧ t.pwr.trip = false ∧ t.ports.tripO = false ∧ t.pwr.coolTs = none ∧ ∀ c, (s.core c).on = true → (t.core c).op = 0) ∧
      ((s.pwr.tripHold = true ∨ now.toNat < t0.toNat + 10000000) → exec (.tripRestart now) s = .next { s with ts := now }))
  )

/-- PLLs and supplies (R662 to R665, R673, R674): a lost PLL_TS clears SYNCED, a lost AON or I/O PLL resets the instance with cause 7, one PLL of a pair leaves the other working, and a core that loses both is fenced and held in reset; a lock comes back; a spare locks for its next target; a supply that has risen puts its domain on, with PD_LATE beyond its bound, and one that has fallen is off. Commands whose next state it gives, under conditions on the state and the operands alone: pllUnlock, spareRelocked, powerDomainAck, pllRelock. -/
def Obligations.ClocksAndSupplies : Prop :=
  ∀ (s : State),
    (s.crp.pllTs = true → ∃ t, exec (.pllUnlock .ts) s = .next t ∧ t.crp.pllTs = false ∧ t.cad.synced = false ∧ t.crp.events = raiseEv s.crp.events 0 ∧ t.crp.pllAon = s.crp.pllAon ∧ t.crp.pllIo = s.crp.pllIo ∧ t.cores = s.cores ∧ t.crp.count = s.crp.count) ∧
    (s.crp.pllTs = false → exec (.pllUnlock .ts) s = .next s ∧ exec (.pllRelock .ts) s = .next { s with crp.pllTs := true }) ∧
    (s.crp.pllTs = true → exec (.pllRelock .ts) s = .next s) ∧
    (s.crp.pllAon = true → ∃ t, exec (.pllUnlock .aon) s = .next t ∧ t.crp.cause = 7 ∧ t.crp.count = satInc s.crp.count ∧ t.crp.events = { flags := 4 } ∧ t.rennet.step = 0) ∧
    (s.crp.pllIo = true → ∃ t, exec (.pllUnlock .io) s = .next t ∧ t.crp.cause = 7 ∧ t.crp.count = satInc s.crp.count) ∧
    (s.crp.pllNet0 = true → s.crp.pllNet1 = true → ∃ t, exec (.pllUnlock (.net false)) s = .next t ∧ t.crp.pllNet0 = false ∧ t.crp.pllNet1 = true ∧ t.crp.count = s.crp.count ∧ t.crp.cause = s.crp.cause) ∧
    (s.crp.pllNet0 = true → s.crp.pllNet1 = false → ∃ t, exec (.pllUnlock (.net false)) s = .next t ∧ t.crp.cause = 7 ∧ t.crp.count = satInc s.crp.count) ∧
    (∀ c : CoreId, c.val < s.ncores →
      ((s.core c.val).pllLock = true → (s.core c.val).pllLock2 = true → ∃ t, exec (.pllUnlock (.core c false)) s = .next t ∧ (t.core c.val).pllLock = false ∧ (t.core c.val).pllLock2 = true ∧ (t.core c.val).inReset = (s.core c.val).inReset ∧ (t.core c.val).fenced = (s.core c.val).fenced) ∧
      ((s.core c.val).pllLock = true → (s.core c.val).pllLock2 = false → ∃ t, exec (.pllUnlock (.core c false)) s = .next t ∧ (t.core c.val).inReset = true ∧ (t.core c.val).fenced = true ∧ ∀ e, e < 8 → (t.engine c.val e).state = .fenced) ∧
      ((s.core c.val).on = true → ∃ t, exec (.spareRelocked (.core c true)) s = .next t ∧ (t.core c.val).pllLock2 = true ∧ (t.core c.val).op = (s.core c.val).op ∧
        (t.core c.val).spareOp = (match s.pwr.pending with | some _ => if (s.core c.val).op.toNat < wantPoint (s.core c.val) then BitVec.ofNat 3 (wantPoint (s.core c.val)) else (s.core c.val).op - (if (s.core c.val).op = 0 then 0 else 1) | none => (s.core c.val).op - (if (s.core c.val).op = 0 then 0 else 1))) ∧
      ((s.core c.val).on = false → exec (.spareRelocked (.core c true)) s = .next s)) ∧
    (∀ (d : Domain) (now : W64), s.ts.toNat ≤ now.toNat → (∀ c, d = .core c → c.val < s.ncores) →
      ((s.dom d).req = true → (s.dom d).on = false → ∃ t, exec (.powerDomainAck d true now) s = .next t ∧ (t.dom d).on = true ∧ (t.dom d).iso = false ∧ (t.dom d).ret = false ∧ (t.dom d).req = true ∧ t.ts = now ∧
        t.crp.pdLast = BitVec.ofNat 16 (max s.crp.pdLast.toNat (min ((now.toNat - (s.dom d).reqTs.toNat) / 1000) 65535)) ∧ t.crp.events = (if ackBound (s.dom d).ret d * 1000 < now.toNat - (s.dom d).reqTs.toNat then raiseEv s.crp.events 1 else s.crp.events)) ∧
      ((s.dom d).req = false → exec (.powerDomainAck d true now) s = .next { s with ts := now }) ∧
      ((s.dom d).on = false → exec (.powerDomainAck d false now) s = .next { s with ts := now }) ∧
      ((s.dom d).on = true → (s.dom d).iso = true → s.spr.isoDone = false → ∃ t, exec (.powerDomainAck d false now) s = .next t ∧ (t.dom d).on = false ∧ (t.dom d).req = (s.dom d).req ∧ t.spr.pstate = s.spr.pstate ∧ t.mem = s.mem))

/-- Resets (R455, R458, R467 to R469, R483, R669, R670): an instance reset records its cause, counts it, empties partitions, graphs and sessions and leaves Rennet to start again, with what OTP, NOR, the carve-out and the flash hold kept; a watchdog, flow or parity failure counts and resets with cause 1, 3 or 2; a power-on reset starts everything again. Failed health tests stop the DRBG; a reseed, due after 65,536 requests or 1 s, restarts its count; brining, at its period, masks every slot anew and keeps their values. Commands whose next state it gives, under conditions on the state and the operands alone: powerOnReset, instanceReset, watchdogExpire, rennetParity, entropyTestFail, drbgReseed, briningTick. -/
def Obligations.ResetsAndHealth : Prop :=
  ∀ (s : State),
    (∀ cause : BitVec 4, ∃ t, exec (.instanceReset cause) s = .next t ∧ t.crp.cause = cause ∧ t.crp.count = satInc s.crp.count ∧ t.crp.events = { flags := 4 } ∧ t.parts = [] ∧ t.graphs = [] ∧ t.streams = [] ∧ t.mbxs = [] ∧ t.att = {} ∧ t.cad = { tsLatch := s.cad.tsLatch } ∧ t.rennet.step = 0 ∧ t.rennet.cave = [] ∧
      t.rennet.nor = s.rennet.nor ∧ t.rennet.consec = s.rennet.consec ∧ t.otp.cells = s.otp.cells ∧ t.mem.t3 = s.mem.t3 ∧ t.mem.t4 = s.mem.t4 ∧ t.mem.maps = [] ∧ t.rel.segs = s.rel.segs ∧ t.rel.mgmtQ = s.rel.mgmtQ ∧ t.pwr.trips = s.pwr.trips ∧ t.ts = s.ts ∧ t.pending = s.pending) ∧
    (∀ (flow : Bool), s.crp.rnt.on = true → s.rennet.stopped = false → (flow = true ∨ s.rennet.wdogAt.toNat + 100000000 ≤ s.ts.toNat) → ∃ t, exec (.watchdogExpire flow) s = .next t ∧ t.crp.cause = (if flow then 3 else 1) ∧ t.crp.count = satInc s.crp.count ∧ t.rennet.total = satInc s.rennet.total ∧ t.rennet.consec = (if s.rennet.consec = 3 then 3 else s.rennet.consec + 1) ∧ t.rennet.events.flags = 8) ∧
    (∀ (flow : Bool), (s.crp.rnt.on = false ∨ (flow = false ∧ s.ts.toNat < s.rennet.wdogAt.toNat + 100000000)) → exec (.watchdogExpire flow) s = .next s) ∧
    (s.crp.rnt.on = true → ∃ t, exec .rennetParity s = .next t ∧ t.crp.cause = 2 ∧ t.rennet.total = satInc s.rennet.total ∧ t.rennet.events.flags = 4 ∧ t.rennet.halted = false) ∧
    (s.crp.rnt.on = false → exec .rennetParity s = .next s) ∧
    (∀ i : StartInputs, ∃ t, exec (.powerOnReset i) s = .next t ∧ t.ts = 0 ∧ t.parts = [] ∧ t.graphs = [] ∧ t.crp = {} ∧ t.cores = [] ∧ t.rennet = { nor := s.rennet.nor } ∧ t.otp.cells = s.otp.cells ∧ t.mem.t4 = s.mem.t4 ∧ t.mem.t3 = (if i.dramKept then s.mem.t3 else []) ∧ (i.rindTorn = false → t.rel.segs = s.rel.segs) ∧ t.chip.strapMg = i.strapMg ∧ t.chip.strapPmb = i.strapPmb) ∧
    (s.crp.rnt.on = true → s.rennet.entropyFail = false → ∃ t, exec .entropyTestFail s = .next t ∧ t.rennet.entropyFail = true ∧ t.rennet.drbgOn = false ∧ t.rennet.healthFails = 3 ∧ t.rennet.events = raiseEv s.rennet.events 1) ∧
    (s.rennet.entropyFail = true → exec .entropyTestFail s = .next s) ∧
    (s.rennet.drbgOn = true → (65536 ≤ s.rennet.drbgSince ∨ s.rennet.reseedAt.toNat + 1000000000 ≤ s.ts.toNat) → exec .drbgReseed s = .next { s with rennet.drbgSince := 0, rennet.reseedAt := s.ts }) ∧
    ((s.rennet.drbgOn = false ∨ (s.rennet.drbgSince < 65536 ∧ s.ts.toNat < s.rennet.reseedAt.toNat + 1000000000)) → exec .drbgReseed s = .next s) ∧
    (s.crp.rnt.on = true → s.rennet.drbgOn = true → s.spr.pstate ≠ .s → s.spr.pstate ≠ .o → s.rennet.brineAt.toNat + s.rennet.brine.toNat * 1000 ≤ s.ts.toNat → ∃ t, exec .briningTick s = .next t ∧ t.rennet.cave = s.rennet.cave ∧ t.rennet.drbgN = s.rennet.drbgN + 64 ∧ (∀ i, i < 64 → tget [] t.rennet.masks i = padTo 64 (Config.drbg (s.rennet.drbgN + i) 64))) ∧
    ((s.rennet.drbgOn = false ∨ s.ts.toNat < s.rennet.brineAt.toNat + s.rennet.brine.toNat * 1000) → exec .briningTick s = .next s)

/-- Start-up, hand-over and host-ready (R460 to R464, R472, R476, R485): a start-up runs once, to hand-over with a verified or degraded boot and the Cave locked, or to the state without an image; hand-over never comes before 38,500 µs and clears the count of failures; at 40,000 µs the block is in A with its flash ready and, without a configuration, partition 0 created. The clause on OTP regions concerns a unit with none locked, whose digests need no check. Commands whose next state it gives, under conditions on the state and the operands alone: rennetStartup, handover, hostReady. -/
def Obligations.StartUpAndHandOver : Prop :=
  ∀ (s : State),
    (∀ i : StartInputs, (s.rennet.step ≠ 0 ∨ s.rennet.stopped = true) → exec (.rennetStartup i) s = .next s) ∧
    (∀ i : StartInputs, s.rennet.step = 0 → s.rennet.stopped = false → s.rennet.consec ≠ 3 → (List.range 9).any (fuseLocked s.otp.cells) = false → lcCode s.otp.cells ≠ 4 → ∃ t, exec (.rennetStartup i) s = .next t ∧ t.otp.lc = BitVec.ofNat 3 (lcCode s.otp.cells) ∧
      t.rennet.caveLocked = true ∧ (∀ x ∈ t.rennet.cave, x.1 ≠ 0 ∧ x.1 ≠ 1 ∧ x.1 ≠ 4) ∧
      (if i.norAnswers = true ∧ readable (norRead s 0 8192) = true then (t.rennet.boot = .verified ∨ t.rennet.boot = .degraded) ∧ t.rennet.step = 13 ∧ (t.rennet.boot = .degraded → t.rennet.caveOff = true ∧ t.rennet.cave = [])
       else t.rennet.boot = .noImage ∧ t.rennet.step = 14 ∧ t.rennet.noimg = (if i.norAnswers = true then 2 else 1) ∧ t.rennet.caveOff = true ∧ t.spr.pstate = .w)) ∧
    (∀ now : W64, s.ts.toNat ≤ now.toNat →
      ((s.rennet.step ≠ 13 ∨ now.toNat < s.rennet.refTs.toNat + 38500000) → exec (.handover now) s = .next { s with ts := now }) ∧
      (s.rennet.step = 13 → (s.rennet.boot = .verified ∨ s.rennet.boot = .degraded) → s.rennet.wake = false → s.rennet.refTs.toNat + 38500000 ≤ now.toNat → ∃ t, exec (.handover now) s = .next t ∧ t.rennet.step = 14 ∧ t.rennet.consec = 0 ∧ t.rennet.boot = s.rennet.boot ∧
        t.rennet.handover = BitVec.ofNat 32 ((now.toNat - s.rennet.refTs.toNat) / 1000) ∧ t.rennet.events = (if s.rennet.refTs.toNat + 38500000 < now.toNat then raiseEv s.rennet.events 4 else s.rennet.events)) ∧
      ((s.rennet.step ≠ 14 ∨ now.toNat < s.rennet.refTs.toNat + 40000000) → exec (.hostReady now) s = .next { s with ts := now }) ∧
      (s.rennet.step = 14 → (s.rennet.boot = .verified ∨ s.rennet.boot = .degraded) → s.rennet.wake = false → s.rennet.refTs.toNat + 40000000 ≤ now.toNat → s.crp.ctl.on = true → s.crp.net.on = true → s.spr.heldHost = [] →
        ∃ t, exec (.hostReady now) s = .next t ∧ t.rennet.step = 15 ∧ t.spr.pstate = .a ∧ t.press.ready = true ∧ t.ts = now ∧ (configForms s = [] → (t.part 0).state = .ready ∧ (t.part 0).cores = coreMask (List.range s.ncores))))

/-- R490, R492, R496, R498, R499: another owner aborts the running command, wipes every word and its mark and is then the owner; the end of a wipe sets WIPED; an abort zeroes the whole destination and nothing else and ends with ABORTED; a command whose two runs agree writes its destination with its mark, whose runs differ zeroes it, counts a FAULT and writes nothing else. Without a running command an abort or an end does nothing. R492 to R495, R497: a write of GO with a command while the engine is busy or wiping is ignored; a call that R495 names is refused at once with CALL_REFUSED and no word touched; any other latches its registers and runs, and neither the memory nor a mark changes before its end. Commands whose next state it gives, under conditions on the state and the operands alone: bnOwnerWrite, bnWipeDone, bnAbort, bnCommandDone, modadd, modsub, modmul, modred, modexp, modinv, cmplt, keyload, randload, keystore, ecmul, ecadd, signS, ntt, intt, pmul, pmac, padd, psub, basemul, relHigh, relZ, relHint, relComp. -/
def Obligations.BigNumberControlAndCalls : Prop :=
  (
  ∀ (s : State),
    (∀ o : BitVec 3, o = s.bn.owner → exec (.bnOwnerWrite o) s = .next s) ∧
    (∀ o : BitVec 3, o ≠ s.bn.owner → ∃ t, exec (.bnOwnerWrite o) s = .next t ∧ t.bn.owner = o ∧ t.bn.mem = [] ∧ t.bn.marks = [] ∧ t.bn.wiping = true ∧ t.bn.run = none ∧
      t.bn.result = (if s.bn.run.isSome then 3 else s.bn.result) ∧ t.bn.events = (if s.bn.run.isSome then raiseEv s.bn.events 3 else s.bn.events) ∧ t.otp = s.otp ∧ t.mem = s.mem) ∧
    (s.bn.wiping = true → exec .bnWipeDone s = .next { s with bn.wiping := false, bn.mem := [], bn.marks := [], bn.events := raiseEv s.bn.events 4 }) ∧
    (s.bn.wiping = false → exec .bnWipeDone s = .next s) ∧
    (s.bn.run = none → exec .bnAbort s = .next s ∧ ∀ differ, exec (.bnCommandDone differ) s = .next s) ∧
    (∀ r : BnRun, s.bn.run = some r →
      (∃ t, exec .bnAbort s = .next t ∧ t.bn.run = none ∧ t.bn.result = 3 ∧ t.bn.flag = false ∧ t.bn.events = raiseEv s.bn.events 3 ∧ t.bn.faults = s.bn.faults ∧
        (∀ w, tget 0 t.bn.mem w = (if r.dst ≤ w ∧ w < r.dst + r.words.length then 0 else tget 0 s.bn.mem w)) ∧
        (∀ k, r.cave.map (·.1) ≠ some k → tget [] t.rennet.cave k = tget [] s.rennet.cave k) ∧ t.otp = s.otp ∧ t.mem = s.mem) ∧
      (∃ t, exec (.bnCommandDone true) s = .next t ∧ t.bn.run = none ∧ t.bn.result = 2 ∧ t.bn.flag = false ∧ t.bn.faults = satInc s.bn.faults ∧ t.bn.events = raiseEv s.bn.events 2 ∧ t.bn.cycles = BitVec.ofNat 32 r.cycles ∧
        t.rennet.bnFaults = s.rennet.bnFaults + 1 ∧ (∀ w, tget 0 t.bn.mem w = (if r.dst ≤ w ∧ w < r.dst + r.words.length then 0 else tget 0 s.bn.mem w))) ∧
      (∃ t, exec (.bnCommandDone false) s = .next t ∧ t.bn.run = none ∧ t.bn.result = r.result ∧ t.bn.flag = r.flag ∧ t.bn.faults = s.bn.faults ∧ t.bn.cycles = BitVec.ofNat 32 r.cycles ∧
        t.bn.events = raiseEv s.bn.events (if r.result = 0 then 0 else 1) ∧ t.rennet.bnFaults = 0 ∧
        (r.zeroSrc = none → ∀ w, tget 0 t.bn.mem w = (if r.dst ≤ w ∧ w < r.dst + r.words.length then r.words.getD (w - r.dst) 0 else tget 0 s.bn.mem w) ∧
          tget false t.bn.marks w = (if r.dst ≤ w ∧ w < r.dst + r.words.length then r.marks else tget false s.bn.marks w)) ∧
        (∀ f n, r.zeroSrc = some (f, n) → ∀ i, i < n → tget 0 t.bn.mem (f + i) = 0 ∧ tget false t.bn.marks (f + i) = false) ∧
        (∀ k v, r.cave = some (k, v) → tget [] t.rennet.cave k = v) ∧ (r.cave = none → t.rennet.cave = s.rennet.cave) ∧ t.otp = s.otp ∧ t.mem = s.mem))
  ) ∧
  (
  ∀ (s : State) (a : BnArgs), ∀ e ∈ [(Instr.modadd a, 0x01), (.modsub a, 0x02), (.modmul a, 0x03), (.modred a, 0x04), (.modexp a, 0x05), (.modinv a, 0x06), (.cmplt a, 0x07),
      (.keyload a, 0x08), (.randload a, 0x09), (.keystore a, 0x0A), (.ecmul a, 0x10), (.ecadd a, 0x11), (.signS a, 0x12), (.ntt a, 0x20), (.intt a, 0x21), (.pmul a, 0x22), (.pmac a, 0x23),
      (.padd a, 0x24), (.psub a, 0x25), (.basemul a, 0x26), (.relHigh a, 0x28), (.relZ a, 0x29), (.relHint a, 0x2A), (.relComp a, 0x2B)],
    ((s.bn.run.isSome = true ∨ s.bn.wiping = true) → exec e.1 s = .next s) ∧
    (s.bn.run = none → s.bn.wiping = false →
      (bnCallBad s (bnLatch s.bn e.2 a) e.2 = true → exec e.1 s = .next { s with bn := { bnLatch s.bn e.2 a with result := 4, flag := false, cycles := 0, events := raiseEv s.bn.events 1 } }) ∧
      (bnCallBad s (bnLatch s.bn e.2 a) e.2 = false → ∃ (t : State) (r : BnRun), exec e.1 s = .next t ∧ t.bn = { bnLatch s.bn e.2 a with run := some r } ∧ some r.cycles = bnCycles e.2 a.size.toNat a.q ∧
        r.op.toNat = e.2 ∧ r.dst = a.dst.toNat ∧ (r.result = 0 ∨ r.result = 1) ∧ (r.result = 1 → r.flag = false ∧ ∀ w ∈ r.words, w = 0) ∧ t = { s with bn := t.bn, rennet := t.rennet, freeNo := s.freeNo + 1 } ∧
        (e.2 ≠ 9 → t.rennet = s.rennet)))
  )

/-- R497: while the engine is BUSY or WIPING, a write of GO and writes of the command registers are ignored, a core read of the operand memory returns zero, and a core write to it is ignored. -/
def Obligations.BusyBigNumberIgnoresWrites : Prop :=
  ∀ (s : State) (d hw : W32), (s.bn.run.isSome = true ∨ s.bn.wiping = true) →
    (d.getLsbD 0 = true → d.getLsbD 1 = false → nbits d.toNat 6 4 = s.bn.owner.toNat → exec (.registerWrite (byIsland 1) 0x20010000 d hw) s = .next s) ∧
    (∀ off ∈ [(0x20010004 : W32), 0x20010008, 0x2001000C, 0x20010010, 0x20010014, 0x20010018], exec (.registerWrite (byIsland 1) off d hw) s = .next s) ∧
    (∀ w, w < 2048 → regRead s (0x20018000 + 4 * w) = 0 ∧ exec (.registerWrite (byIsland 1) (BitVec.ofNat 32 (0x20018000 + 4 * w)) d hw) s = .next s)

/-- R488, R493, R494: what the modular commands compute, exactly, in their cycles: sums, differences, products, remainders, powers over all bits of the exponent, the power M − 2, and the comparison; an operand at or above the modulus, and a checked one of 0 or 1, is refused with zeros. Commands whose next state it gives, under conditions on the state and the operands alone: modadd, modsub, modmul, modred, modexp, modinv, cmplt. -/
def Obligations.ModularCommands : Prop :=
  ∀ (s : State) (a : BnArgs) (n x y m : Nat), s.bn.run = none → s.bn.wiping = false → a.size.toNat < 3 → n = [8, 12, 18].getD a.size.toNat 0 →
    x = bnVal s.bn a.src0.toNat n → y = bnVal s.bn a.src1.toNat n → m = bnVal s.bn a.modu.toNat n →
    bnFits a.dst.toNat n 2 = true → bnFits a.src0.toNat n 2 = true → bnFits a.src1.toNat n 2 = true → bnFits a.modu.toNat n 2 = true → nbit m (32 * n - 1) = true →
    (∀ e ∈ [(Instr.modadd a, (x + y) % m), (.modsub a, (x + m - y) % m)], ∃ (t : State) (r : BnRun), exec e.1 s = .next t ∧ t.bn.run = some r ∧ r.cycles = [20, 24, 30].getD a.size.toNat 0 ∧
      r.marks = (bnMarked s.bn a.src0.toNat n || bnMarked s.bn a.src1.toNat n) ∧
      (x < m → y < m → r.result = 0 ∧ r.words = bnOf n e.2) ∧ ((m ≤ x ∨ m ≤ y) → r.result = 1 ∧ r.words = List.replicate n 0)) ∧
    (m % 2 = 1 → ∃ (t : State) (r : BnRun), exec (.modmul a) s = .next t ∧ t.bn.run = some r ∧ r.cycles = [52, 92, 182].getD a.size.toNat 0 ∧
      (x < m → y < m → r.result = 0 ∧ r.words = bnOf n (x * y % m)) ∧ ((m ≤ x ∨ m ≤ y) → r.result = 1 ∧ r.words = List.replicate n 0)) ∧
    (a.size.toNat < 2 → bnFits a.src0.toNat 18 2 = true → ∃ (t : State) (r : BnRun), exec (.modred a) s = .next t ∧ t.bn.run = some r ∧ r.cycles = [56, 74].getD a.size.toNat 0 ∧ r.result = 0 ∧
      r.words = bnOf n (bnVal s.bn a.src0.toNat 18 % m)) ∧
    (a.size.toNat < 2 → m % 2 = 1 → (∃ (t : State) (r : BnRun), exec (.modexp a) s = .next t ∧ t.bn.run = some r ∧ r.cycles = [24612, 67620].getD a.size.toNat 0 ∧
      (2 ≤ x → x < m → y < m → r.result = 0 ∧ r.words = bnOf n (x ^ y % m)) ∧ ((x < 2 ∨ m ≤ x ∨ m ≤ y) → r.result = 1 ∧ r.words = List.replicate n 0)) ∧
      (∃ (t : State) (r : BnRun), exec (.modinv a) s = .next t ∧ t.bn.run = some r ∧ r.cycles = [24612, 67620].getD a.size.toNat 0 ∧
        (2 ≤ x → x < m → r.result = 0 ∧ r.words = bnOf n (x ^ (m - 2) % m)) ∧ ((x < 2 ∨ m ≤ x) → r.result = 1 ∧ r.words = List.replicate n 0))) ∧
    (∃ (t : State) (r : BnRun), exec (.cmplt a) s = .next t ∧ t.bn.run = some r ∧ r.cycles = [16, 20, 26].getD a.size.toNat 0 ∧ r.result = 0 ∧ r.words = [] ∧ r.flag = decide (x < m))

/-- R484, R489, R491, R493, R495: KEYLOAD reads a slot that its owner may read and the Cave admits, and marks it; RANDLOAD marks DRBG output, and is refused while the DRBG is stopped; KEYSTORE writes a slot that its owner may write and the Cave admits, and zeroes its words; on P-384 ECMUL, ECADD and SIGN_S refuse scalars and coordinates out of range; SIGN_S releases SRC2 × (SRC0 + SRC1 × d) mod n and flags 0. Commands whose next state it gives, under conditions on the state and the operands alone: keyload, randload, keystore, ecmul, ecadd, signS. -/
def Obligations.KeyAndCurveCommands : Prop :=
  ∀ (s : State) (a : BnArgs) (n : Nat), s.bn.run = none → s.bn.wiping = false →
    (a.size.toNat < 3 → n = [8, 12, 18].getD a.size.toNat 0 →
      (bnFits a.dst.toNat n 2 = true → caveAdmits s a.src0.toNat = true →
        (((s.bn.owner.toNat, a.src0.toNat) ∈ [(2, 2), (2, 3), (3, 5), (3, 6), (5, 7)] ∨ (s.bn.owner = 4 ∧ 10 ≤ a.src0.toNat ∧ a.src0.toNat ≤ 15)) → ∃ (t : State) (r : BnRun), exec (.keyload a) s = .next t ∧ t.bn.run = some r ∧
          r.words = bnOf n (leNat (padTo 64 (tget [] s.rennet.cave a.src0.toNat))) ∧ r.marks = true ∧ r.cycles = 36 ∧ r.result = 0) ∧
        ((s.bn.owner.toNat < 2 ∨ 5 < s.bn.owner.toNat) → ∃ t, exec (.keyload a) s = .next t ∧ t.bn.run = none ∧ t.bn.result = 4 ∧ t.bn.mem = s.bn.mem)) ∧
      (caveAdmits s a.src0.toNat = false → ∃ t, exec (.keyload a) s = .next t ∧ t.bn.run = none ∧ t.bn.result = 4 ∧ t.bn.mem = s.bn.mem) ∧
      (bnFits a.dst.toNat n 2 = true → s.rennet.drbgOn = true → ∃ (t : State) (r : BnRun), exec (.randload a) s = .next t ∧ t.bn.run = some r ∧ r.words = bnOf n (leNat (padTo (4 * n) (Config.drbg s.rennet.drbgN (4 * n)))) ∧
        r.marks = true ∧ r.cycles = 36 ∧ t.rennet.drbgN = s.rennet.drbgN + 1) ∧
      (s.rennet.drbgOn = false → ∃ t, exec (.randload a) s = .next t ∧ t.bn.run = none ∧ t.bn.result = 4 ∧ t.rennet = s.rennet) ∧
      (bnFits a.src0.toNat n 2 = true → caveAdmits s a.dst.toNat = true → ((s.bn.owner = 4 ∧ 10 ≤ a.dst.toNat ∧ a.dst.toNat ≤ 15) ∨ (s.bn.owner = 5 ∧ 16 ≤ a.dst.toNat ∧ a.dst.toNat ≤ 63)) →
        ∃ (t : State) (r : BnRun), exec (.keystore a) s = .next t ∧ t.bn.run = some r ∧ r.cave = some (a.dst.toNat, padTo 64 (leBytes (4 * n) (bnVal s.bn a.src0.toNat n))) ∧ r.zeroSrc = some (a.src0.toNat, n) ∧ r.words = [] ∧ r.cycles = 36)) ∧
    (∀ k, a.size = 1 → k = bnVal s.bn a.src0.toNat 12 → bnFits a.dst.toNat 24 2 = true → bnFits a.src0.toNat 12 2 = true →
      (a.gen = true → ∃ (t : State) (r : BnRun), exec (.ecmul a) s = .next t ∧ t.bn.run = some r ∧ r.cycles = 1100164 ∧ r.marks = false ∧ r.words.length = 24 ∧
        (2 ≤ k → k < n384 → r.result = 0 ∧ ∀ q, ecMulPt k g384 = some q → r.words = bnOf 12 q.1 ++ bnOf 12 q.2) ∧ ((k < 2 ∨ n384 ≤ k) → r.result = 1 ∧ r.words = List.replicate 24 0)) ∧
      (a.gen = false → bnFits a.src1.toNat 24 2 = true → ∃ (t : State) (r : BnRun), exec (.ecmul a) s = .next t ∧ t.bn.run = some r ∧ r.marks = (bnMarked s.bn a.src0.toNat 12 || bnMarked s.bn a.src1.toNat 24) ∧
        ((k < 2 ∨ n384 ≤ k ∨ p384 ≤ bnVal s.bn a.src1.toNat 12 ∨ p384 ≤ bnVal s.bn (a.src1.toNat + 12) 12) → r.result = 1 ∧ r.words = List.replicate 24 0))) ∧
    (a.size = 1 → bnFits a.dst.toNat 24 2 = true → bnFits a.src0.toNat 24 2 = true → bnFits a.src1.toNat 24 2 = true → ∃ (t : State) (r : BnRun), exec (.ecadd a) s = .next t ∧ t.bn.run = some r ∧ r.cycles = 69092 ∧
      ((∃ i ∈ [a.src0.toNat, a.src0.toNat + 12, a.src1.toNat, a.src1.toNat + 12], p384 ≤ bnVal s.bn i 12) → r.result = 1 ∧ r.words = List.replicate 24 0) ∧
      ((∀ i ∈ [a.src0.toNat, a.src0.toNat + 12, a.src1.toNat, a.src1.toNat + 12], bnVal s.bn i 12 < p384) → r.result = 0)) ∧
    (∀ m d k r0 k1 : Nat, a.size = 1 → m = bnVal s.bn a.modu.toNat 12 → d = bnVal s.bn (a.modu.toNat + 12) 12 → k = bnVal s.bn a.src0.toNat 12 → r0 = bnVal s.bn a.src1.toNat 12 → k1 = bnVal s.bn a.src2.toNat 12 →
      bnFits a.dst.toNat 12 2 = true → bnFits a.src0.toNat 12 2 = true → bnFits a.src1.toNat 12 2 = true → bnFits a.src2.toNat 12 2 = true → bnFits a.modu.toNat 24 2 = true → nbit m 383 = true → m % 2 = 1 →
      ∃ (t : State) (r : BnRun), exec (.signS a) s = .next t ∧ t.bn.run = some r ∧ r.cycles = 200 ∧ r.marks = false ∧
        (k < m → d < m → 2 ≤ r0 → r0 < m → 2 ≤ k1 → k1 < m → r.result = 0 ∧ r.words = bnOf 12 (k1 * (k + r0 * d) % m) ∧ r.flag = decide (k1 * (k + r0 * d) % m = 0)) ∧
        ((r0 < 2 ∨ k1 < 2) → r.result = 1 ∧ r.words = List.replicate 12 0 ∧ r.flag = false))

/-- R488, R493, R494: the lattice commands work coefficient by coefficient modulo the q that Q chooses, in their cycles; a coefficient at or above q is refused; BASEMUL and REL_COMP are of ML-KEM alone, and REL_HIGH, REL_Z and REL_HINT of ML-DSA; REL_Z releases z when its norm is below γ1 − β, else zeros with FLAG. The results of REL_HIGH, REL_HINT and REL_COMP, and an operand from the sampler, are free (notes/assumptions/10). Commands whose next state it gives, under conditions on the state and the operands alone: ntt, intt, pmul, pmac, padd, psub, basemul, relHigh, relZ, relHint, relComp. -/
def Obligations.LatticeCommands : Prop :=
  ∀ (s : State) (a : BnArgs) (n q : Nat) (x y z : List Nat), s.bn.run = none → s.bn.wiping = false → a.size = 3 → n = (if a.q then 128 else 256) → q = (if a.q then 3329 else 8380417) →
    x = bnPoly s.bn a.src0.toNat a.q → y = bnPoly s.bn a.src1.toNat a.q → z = bnPoly s.bn a.dst.toNat a.q → bnFits a.dst.toNat n 128 = true → bnFits a.src0.toNat n 128 = true →
    (∀ e ∈ [(Instr.ntt a, nttLayers a.q (latDepth a.q) 1 x, if a.q then 148 else 164), (.intt a, inttPoly a.q x, if a.q then 164 else 180)], ∃ (t : State) (r : BnRun), exec e.1 s = .next t ∧ t.bn.run = some r ∧ r.cycles = e.2.2 ∧
      ((∀ c ∈ x, c < q) → r.result = 0 ∧ r.words = polyWords e.2.1 a.q) ∧ ((∃ c ∈ x, q ≤ c) → r.result = 1 ∧ r.words = List.replicate n 0)) ∧
    ((a.stream = true ∨ bnFits a.src1.toNat n 128 = true) → ∀ e ∈ [(Instr.pmul a, List.zipWith (fun u v => u * v % q) x y, ([] : List Nat)), (.pmac a, List.zipWith (fun w uv => (w + uv) % q) z (List.zipWith (fun u v => u * v) x y), z),
        (.padd a, List.zipWith (fun u v => (u + v) % q) x y, []), (.psub a, List.zipWith (fun u v => (u + q - v) % q) x y, [])], ∃ (t : State) (r : BnRun), exec e.1 s = .next t ∧ t.bn.run = some r ∧ r.cycles = 36 ∧ r.words.length = n ∧
      (a.stream = false → ((∀ c ∈ x ++ y ++ e.2.2, c < q) → r.result = 0 ∧ r.words = polyWords e.2.1 a.q) ∧ ((∃ c ∈ x ++ y ++ e.2.2, q ≤ c) → r.result = 1 ∧ r.words = List.replicate n 0))) ∧
    ((a.stream = true ∨ bnFits a.src1.toNat n 128 = true) → a.q = true → ∃ (t : State) (r : BnRun), exec (.basemul a) s = .next t ∧ t.bn.run = some r ∧ r.cycles = 60 ∧ (a.stream = false → (∀ c ∈ x ++ y, c < q) → r.result = 0 ∧ r.words = polyWords (basemulPoly x y) true)) ∧
    (a.q = false → ∃ (t : State) (r : BnRun), exec (.relZ a) s = .next t ∧ t.bn.run = some r ∧ r.cycles = 36 ∧ r.marks = false ∧
      ((∀ c ∈ x, c < 524168 ∨ (q - 524168 < c ∧ c < q)) → r.result = 0 ∧ r.flag = false ∧ r.words = polyWords x false) ∧
      ((∀ c ∈ x, c < q) → (∃ c ∈ x, 524168 ≤ c ∧ c ≤ q - 524168) → r.result = 0 ∧ r.flag = true ∧ r.words = List.replicate n 0)) ∧
    (∀ e ∈ [(Instr.relHigh a, false), (.relHint a, false), (.relComp a, true)], a.q = e.2 → ∃ (t : State) (r : BnRun), exec e.1 s = .next t ∧ t.bn.run = some r ∧ r.cycles = 36 ∧ r.marks = false ∧
      ((∀ c ∈ x, c < q) → r.result = 0) ∧ ((∃ c ∈ x, q ≤ c) → r.result = 1 ∧ r.words = List.replicate n 0)) ∧
    (∀ e ∈ [(Instr.relHigh a, true), (.relZ a, true), (.relHint a, true), (.relComp a, false), (.basemul a, false)], a.q = e.2 → ∃ t, exec e.1 s = .next t ∧ t.bn.run = none ∧ t.bn.result = 4 ∧ t.bn.mem = s.bn.mem)

/-- R318, R654: the management port takes a common command in every state but O, and it is a management wake source. A directed command is not acknowledged without a dynamic address; a GET answers with its register. The provisional ID is as R654 lays it out; the values of BCR, DCR and GETSTATUS are free (notes/assumptions/10). In A with no entry under way a wake source does nothing. R424, R655: the management mailbox takes eight words with sender 0xFFFF when it is free, ACK drains and WITHDRAW withdraws; a report read leaves the queue; the counts and the four status registers are answered without Rennet; POWER asks for S or O, and any other value is not acknowledged. Commands whose next state it gives, under conditions on the state and the operands alone: enec, disec, rstdaa, entdaa, setdasa, setmwl, setmrl, getmwl, getmrl, getpid, getbcr, getdcr, getstatus, mgmtMbxSend, mgmtMbxRead, mgmtMbxAck, mgmtMbxWithdraw, reportRead, reportCount, mgmtStatus, mgmtPower. -/
def Obligations.ManagementPort : Prop :=
  (
  ∀ (s : State) (ev : Byte) (addr static_ : BitVec 7) (len : W16),
    (s.spr.pstate = .o → ∀ cmd ∈ [Instr.enec ev, .disec ev, .rstdaa, .entdaa addr, .setdasa static_ addr, .setmwl len, .setmrl len, .getmwl, .getmrl, .getpid, .getbcr, .getdcr, .getstatus], exec cmd s = .next s) ∧
    (s.spr.pstate = .a → s.spr.draining = none → latchWake s 0x40 6 = s) ∧
    (∀ s0 : State, s0 = { s with ports.nacked := false } → s.spr.pstate ≠ .o →
      (∀ e ∈ [(Instr.enec ev, if ev.getLsbD 0 then { s0 with ports.ibiEn := true } else s0), (.disec ev, if ev.getLsbD 0 then { s0 with ports.ibiEn := false } else s0),
          (.rstdaa, { s0 with ports.mgDaddr := 0, ports.mgI3c := false, ports.mbxIbi := false, ports.rptIbi := false }),
          (.entdaa addr, if s.ports.mgI3c then s0 else { s0 with ports.mgDaddr := addr, ports.mgI3c := true })], exec e.1 s = .next (kept s (latchWake e.2 0x40 6))) ∧
      (static_ = s.chip.strapMg → s.ports.mgI3c = false → exec (.setdasa static_ addr) s = .next (kept s (latchWake { s0 with ports.mgDaddr := addr, ports.mgI3c := true } 0x40 6))) ∧
      (static_ ≠ s.chip.strapMg → exec (.setdasa static_ addr) s = .next (kept s (latchWake { s with ports.nacked := true } 0x40 6))) ∧
      (s.ports.mgI3c = false → ∀ cmd ∈ [Instr.setmwl len, .setmrl len, .getmwl, .getmrl, .getpid, .getbcr, .getdcr, .getstatus], exec cmd s = .next (kept s (latchWake { s with ports.nacked := true } 0x40 6))) ∧
      (s.ports.mgI3c = true →
        (∀ e ∈ [(Instr.setmwl len, { s0 with ports.mwl := len }), (.setmrl len, { s0 with ports.mrl := len }), (.getmwl, { s0 with ports.answer := beBytes 2 s.ports.mwl.toNat }), (.getmrl, { s0 with ports.answer := beBytes 2 s.ports.mrl.toNat }),
            (.getpid, { s0 with ports.answer := beBytes 6 (s.chip.mipiId.toNat * 2 ^ 33 + s.otp.serial.toNat % 2 ^ 32) })], exec e.1 s = .next (kept s (latchWake e.2 0x40 6))) ∧
        (∀ e ∈ [(Instr.getbcr, 1), (.getdcr, 1), (.getstatus, 2)], ∃ t l, exec e.1 s = .next (kept s (latchWake t 0x40 6)) ∧ l.length = e.2 ∧ t = { s0 with ports.answer := l, freeNo := t.freeNo })))
  ) ∧
  (
  ∀ (s : State), s.spr.pstate ≠ .o → ∀ s0 : State, s0 = { s with ports.nacked := false } →
    (∀ (ws : List W32) (now : W64), s.ts.toNat ≤ now.toNat →
      ((s.mbx 65).outFull = false → mailCodes.contains ((ws.getD 0 0).toNat % 65536) = true → exec (.mgmtMbxSend ws now) s = .next (kept s (latchWake (State.modMbx { s0 with ts := now } 65 (fun x => { x with
        out := (List.range 8).map (fun i => ws.getD i 0), outFull := true, outSender := 0xFFFF, sentAt := now, timeout := false, served := false, reply := none })) 0x40 6))) ∧
      ((s.mbx 65).outFull = true → exec (.mgmtMbxSend ws now) s = .next (kept s (latchWake { s0 with ts := now } 0x40 6)))) ∧
    exec .mgmtMbxRead s = .next (kept s (latchWake { s0 with ports.mbxIbi := false, ports.answer := (BitVec.ofNat 8 (b2n (s.mbx 65).inValid + 2 * b2n (s.mbx 65).outFull + 4 * b2n (s.mbx 65).timeout) :: (List.range 8).flatMap (fun i => leBytes 4 ((s.mbx 65).inn.getD i 0).toNat)) } 0x40 6)) ∧
    ((s.mbx 65).inValid = true → (s.mbx 65).reply = none → exec .mgmtMbxAck s = .next (kept s (latchWake (s0.modMbx 65 (fun x => { x with inValid := false })) 0x40 6))) ∧
    exec .mgmtMbxWithdraw s = .next (kept s (latchWake (s0.modMbx 65 (fun x => { x with outFull := false, timeout := false, served := false, reply := none })) 0x40 6)) ∧
    (∀ (r : ReportRec) (q : List QueuedReport), s.rel.mgmtQ = .own r :: q → exec .reportRead s = .next (kept s (latchWake { s0 with rel.mgmtQ := q, rel.alert := alertOf q, ports.rptIbi := s.ports.rptIbi && q != [], ports.answer := reportBytes r } 0x40 6))) ∧
    (s.rel.mgmtQ = [] → ∃ t, exec .reportRead s = .next t ∧ t.ports.answer = List.replicate 64 0 ∧ t.rel.mgmtQ = []) ∧
    exec .reportCount s = .next (kept s (latchWake { s0 with ports.answer := [BitVec.ofNat 8 s.rel.mgmtQ.length] } 0x40 6)) ∧
    exec .mgmtStatus s = .next (kept s (latchWake { s0 with ports.answer := [readIds s 0x10, readRnt s 0x2000, relStatus s, sprStatus s].flatMap (fun w => leBytes 4 w.toNat) } 0x40 6)) ∧
    (∀ v : Byte, v ≠ 4 → v ≠ 5 → s.spr.draining = none → exec (.mgmtPower v) s = .next (kept s (latchWake { s with ports.nacked := true } 0x40 6))) ∧
    (∀ e ∈ [((4 : Byte), PState.s), (5, .o)],
      (s.spr.pstate = .a → 15 ≤ s.rennet.step → (s.spr.draining.isSome && s.spr.isoDone) = false → ∃ t, exec (.mgmtPower e.1) s = .next t ∧ t.spr.draining = some e.2 ∧ t.spr.pstate = .a ∧ t.ports.nacked = false) ∧
      ((s.spr.pstate = .i ∨ s.spr.pstate = .t ∨ s.spr.pstate = .s) → ∃ t, exec (.mgmtPower e.1) s = .next t ∧ t.spr.askPower = some e.2 ∧ t.ports.nacked = false))
  )

/-- R525, R659: the instructions of the debug TAP. A reset selects IDCODE; BYPASS delays by one bit; IDCODE shifts out its value, lowest bit first; a debug access instruction without its right, or one outside 0x20 to 0x2F, shifts zeros and acts on nothing. With every right open, which instruction has which right is the model's free choice (notes/assumptions/46): the register peek reads or writes the register window as the debug initiator, partition memory shows a word that no licence or seal covers, at a free place, and a unit that the manual does not describe is refused. Commands whose next state it gives, under conditions on the state and the operands alone: tapReset, tapBypass, tapIdcode, tapDebugAccess. -/
def Obligations.TapInstructions : Prop :=
  ∀ (s : State),
    exec .tapReset s = .next { s with ports.tapIr := 0x01, ports.tapOut := [] } ∧
    (∀ bits : List Bool, ∃ t, exec (.tapBypass bits) s = .next t ∧ t.ports.tapOut = (false :: bits).take bits.length ∧ t = { s with ports.tapIr := 0xFF, ports.tapOut := t.ports.tapOut }) ∧
    exec .tapIdcode s = .next { s with ports.tapIr := 0x01, ports.tapOut := (List.range 32).map (fun i => (BitVec.ofNat 32 (0x25731001 + 2 * s.chip.jedecId.toNat)).getLsbD i) } ∧
    (∀ (ir : BitVec 8) (w : Bool) (addr : W64) (d : W32), (s.rennet.debugRights = 0 ∨ ir.toNat < 0x20 ∨ 0x2F < ir.toNat) →
      exec (.tapDebugAccess ir w addr d) s = .next { s with ports.tapIr := ir, ports.tapOut := List.replicate 32 false }) ∧
    (∀ (ir : BitVec 8) (w : Bool) (addr : W64) (d : W32), nbits s.rennet.debugRights.toNat 4 0 = 31 → 0x20 ≤ ir.toNat → ir.toNat ≤ 0x2F →
      (tapRight ir = 3 → w = false → exec (.tapDebugAccess ir w addr d) s = .next { s with ports.tapIr := ir, ports.tapOut := shiftOut 32 (if mayRead s byDebug (addr.toNat % 2 ^ 26 / 4 * 4) then (regRead s (addr.toNat % 2 ^ 26 / 4 * 4)).toNat else 0) }) ∧
      (tapRight ir = 3 → w = true → exec (.tapDebugAccess ir w addr d) s = .next (kept s (writeBy { s with ports.tapIr := ir, ports.tapOut := List.replicate 32 false } byDebug (addr.toNat % 2 ^ 26 / 4 * 4) d 0))) ∧
      (tapRight ir = 4 → exec (.tapDebugAccess ir w addr d) s = .next { s with ports.tapIr := ir, ports.tapOut := shiftOut 32 (debugWord s (Config.debugPlace 1 addr.toNat)).toNat }) ∧
      (tapRight ir ≠ 3 → tapRight ir ≠ 4 → exec (.tapDebugAccess ir w addr d) s = .refused .debugUnitUnspecified))
end

