-- ==== Sys2Proof/Laws/Memory.lean ====
section
/-! SUPPORT. Byte memory: every operation keeps the canonical form, a byte reads as it was written, and a write leaves every other address. -/

namespace Sys2Proof.Machine

@[simp] theorem mget_nil (d : Byte) (a : Nat) : mget d [] a = d := rfl

/-- The canonical form from a bound holds from any lower bound. -/
theorem Mem.wfFrom_mono (d : Byte) (m : Mem) {n k : Nat} (hk : k ≤ n) (h : Mem.wfFrom d n m = true) : Mem.wfFrom d k m = true := by
  cases m with
  | nil => rfl
  | cons c r =>
    obtain ⟨a, v⟩ := c
    simp only [Mem.wfFrom, Bool.and_eq_true, decide_eq_true_eq] at h ⊢
    exact ⟨⟨by omega, h.1.2⟩, h.2⟩

/-- Below its bound a canonical memory lists nothing. -/
theorem mget_below (d : Byte) (m : Mem) {n a : Nat} (ha : a < n) (h : Mem.wfFrom d n m = true) : mget d m a = d := by
  induction m generalizing n with
  | nil => rfl
  | cons c r ih =>
    obtain ⟨k, v⟩ := c
    simp only [Mem.wfFrom, Bool.and_eq_true, decide_eq_true_eq] at h
    have hne : k ≠ a := by omega
    simp only [mget, hne, if_false]
    exact ih (n := k + 1) (by omega) h.2

theorem mput_wfFrom (d : Byte) (m : Mem) {n a : Nat} {b : Byte} (hb : b ≠ d) (hn : n ≤ a) (h : Mem.wfFrom d n m = true) :
    Mem.wfFrom d n (mput m a b) = true := by
  induction m generalizing n with
  | nil => simp [mput, Mem.wfFrom, hb, hn]
  | cons c r ih =>
    obtain ⟨k, v⟩ := c
    simp only [Mem.wfFrom, Bool.and_eq_true, decide_eq_true_eq] at h
    by_cases h1 : k = a
    · subst h1; simp [mput, Mem.wfFrom, hb, hn, h.2]
    · by_cases h2 : a < k
      · have h3 : a + 1 ≤ k := h2
        simp [mput, Mem.wfFrom, h1, h2, hb, hn, h3, h.1.2, h.2]
      · have h3 : k + 1 ≤ a := by omega
        simp [mput, Mem.wfFrom, h1, h2, h.1.1, h.1.2, ih h3 h.2]

theorem mdel_wfFrom (d : Byte) (m : Mem) {n a : Nat} (h : Mem.wfFrom d n m = true) : Mem.wfFrom d n (mdel m a) = true := by
  induction m generalizing n with
  | nil => rfl
  | cons c r ih =>
    obtain ⟨k, v⟩ := c
    simp only [Mem.wfFrom, Bool.and_eq_true, decide_eq_true_eq] at h
    by_cases h1 : k = a
    · simp only [mdel, h1, if_true]
      exact Mem.wfFrom_mono d r (by omega) h.2
    · simp [mdel, Mem.wfFrom, h1, h.1.1, h.1.2, ih h.2]

/-- Writing a byte keeps the canonical form. -/
theorem mset_wf (d : Byte) (m : Mem) (a : Nat) (b : Byte) (h : Mem.wf d m = true) : Mem.wf d (mset d m a b) = true := by
  unfold mset Mem.wf at *
  split
  · exact mdel_wfFrom d m h
  · rename_i hb
    exact mput_wfFrom d m hb (Nat.zero_le a) h

/-- Writing bytes keeps the canonical form. -/
theorem mwrite_wf (d : Byte) (bs : List Byte) (m : Mem) (a : Nat) (h : Mem.wf d m = true) : Mem.wf d (mwrite d m a bs) = true := by
  induction bs generalizing m a with
  | nil => exact h
  | cons b bs ih => exact ih _ _ (mset_wf d m a b h)

theorem mclear_wfFrom (d : Byte) (m : Mem) {n : Nat} (lo hi : Nat) (h : Mem.wfFrom d n m = true) : Mem.wfFrom d n (mclear m lo hi) = true := by
  induction m generalizing n with
  | nil => rfl
  | cons c r ih =>
    obtain ⟨k, v⟩ := c
    simp only [Mem.wfFrom, Bool.and_eq_true, decide_eq_true_eq] at h
    by_cases h1 : k < lo ∨ hi ≤ k
    · have : mclear ((k, v) :: r) lo hi = (k, v) :: mclear r lo hi := by simp [mclear, List.filter, h1]
      rw [this]
      simp [Mem.wfFrom, h.1.1, h.1.2, ih h.2]
    · have : mclear ((k, v) :: r) lo hi = mclear r lo hi := by simp [mclear, List.filter, h1]
      rw [this]
      exact Mem.wfFrom_mono d _ (by omega) (ih h.2)

/-- Clearing a range keeps the canonical form. -/
theorem mclear_wf (d : Byte) (m : Mem) (lo hi : Nat) (h : Mem.wf d m = true) : Mem.wf d (mclear m lo hi) = true := mclear_wfFrom d m lo hi h

theorem mputs_wf (d : Byte) (cells : Mem) (g : Nat → Nat) (hc : ∀ c ∈ cells, c.2 ≠ d) (m : Mem) (h : Mem.wf d m = true) :
    Mem.wf d (cells.foldl (fun m c => mput m (g c.1) c.2) m) = true := by
  induction cells generalizing m with
  | nil => exact h
  | cons c r ih =>
    exact ih (fun e he => hc e (List.mem_cons_of_mem _ he)) _ (mput_wfFrom d m (hc c List.mem_cons_self) (Nat.zero_le _) h)

theorem wfFrom_values (d : Byte) (m : Mem) {n : Nat} (h : Mem.wfFrom d n m = true) : ∀ c ∈ m, c.2 ≠ d := by
  induction m generalizing n with
  | nil => intro c hc; cases hc
  | cons e r ih =>
    obtain ⟨k, v⟩ := e
    simp only [Mem.wfFrom, Bool.and_eq_true, decide_eq_true_eq] at h
    intro c hc
    rcases List.mem_cons.mp hc with rfl | hc
    · exact h.1.2
    · exact ih h.2 c hc

/-- Copying a range keeps the canonical form. -/
theorem mcopy_wf (d : Byte) (src : Mem) (a : Nat) (dst : Mem) (b n : Nat) (hs : Mem.wf d src = true) (hd : Mem.wf d dst = true) :
    Mem.wf d (mcopy src a dst b n) = true := by
  refine mputs_wf d _ (fun k => k - a + b) (fun c hc => ?_) _ (mclear_wf d dst _ _ hd)
  exact wfFrom_values d src hs c (List.mem_of_mem_filter hc)

theorem mget_mput_same (d : Byte) (m : Mem) (a : Nat) (b : Byte) : mget d (mput m a b) a = b := by
  induction m with
  | nil => simp [mput, mget]
  | cons c r ih =>
    obtain ⟨k, v⟩ := c
    by_cases h1 : k = a
    · simp [mput, mget, h1]
    · by_cases h2 : a < k <;> simp [mput, mget, h1, h2, ih]

theorem mget_mput_other (d : Byte) (m : Mem) {a x : Nat} (b : Byte) (h : x ≠ a) : mget d (mput m a b) x = mget d m x := by
  induction m with
  | nil => simp [mput, mget, Ne.symm h]
  | cons c r ih =>
    obtain ⟨k, v⟩ := c
    by_cases h1 : k = a
    · subst h1; simp [mput, mget, Ne.symm h]
    · by_cases h2 : a < k
      · simp [mput, mget, h1, h2, Ne.symm h]
      · simp [mput, mget, h1, h2, ih]

theorem mget_mdel_same (d : Byte) (m : Mem) {n a : Nat} (h : Mem.wfFrom d n m = true) : mget d (mdel m a) a = d := by
  induction m generalizing n with
  | nil => rfl
  | cons c r ih =>
    obtain ⟨k, v⟩ := c
    simp only [Mem.wfFrom, Bool.and_eq_true, decide_eq_true_eq] at h
    by_cases h1 : k = a
    · simp only [mdel, h1, if_true]
      exact mget_below d r (n := k + 1) (by omega) h.2
    · simp [mdel, mget, h1, ih h.2]

theorem mget_mdel_other (d : Byte) (m : Mem) {a x : Nat} (h : x ≠ a) : mget d (mdel m a) x = mget d m x := by
  induction m with
  | nil => rfl
  | cons c r ih =>
    obtain ⟨k, v⟩ := c
    by_cases h1 : k = a
    · subst h1; simp [mdel, mget, Ne.symm h]
    · simp only [mdel, h1, if_false, mget, ih]

/-- A byte reads as it was written. -/
theorem mget_mset_same (d : Byte) (m : Mem) (a : Nat) (b : Byte) (h : Mem.wf d m = true) : mget d (mset d m a b) a = b := by
  unfold mset
  split
  · rename_i hb; rw [hb]; exact mget_mdel_same d m h
  · exact mget_mput_same d m a b

/-- Writing a byte leaves every other address. -/
theorem mget_mset_other (d : Byte) (m : Mem) {a x : Nat} (b : Byte) (h : x ≠ a) : mget d (mset d m a b) x = mget d m x := by
  unfold mset
  split
  · exact mget_mdel_other d m h
  · exact mget_mput_other d m b h

/-- Writing bytes leaves every address outside them. -/
theorem mget_mwrite_outside (d : Byte) (bs : List Byte) (m : Mem) (a x : Nat) (h : x < a ∨ a + bs.length ≤ x) :
    mget d (mwrite d m a bs) x = mget d m x := by
  induction bs generalizing m a with
  | nil => rfl
  | cons b bs ih =>
    simp only [List.length_cons] at h
    rw [mwrite, ih _ _ (by omega), mget_mset_other d m b (by omega)]

/-- Written bytes read as they were written. -/
theorem mget_mwrite_inside (d : Byte) (bs : List Byte) (m : Mem) (a i : Nat) (hw : Mem.wf d m = true) (h : i < bs.length) :
    mget d (mwrite d m a bs) (a + i) = bs.getD i d := by
  induction bs generalizing m a i with
  | nil => simp at h
  | cons b bs ih =>
    cases i with
    | zero =>
      rw [Nat.add_zero, mwrite, mget_mwrite_outside d bs _ _ _ (by omega), mget_mset_same d m a b hw]
      rfl
    | succ i =>
      simp only [List.length_cons] at h
      have : a + (i + 1) = a + 1 + i := by omega
      rw [mwrite, this, ih _ _ _ (mset_wf d m a b hw) (by omega)]
      rfl

/-- A cleared range reads as the default, and the rest as before. -/
theorem mget_mclear (d : Byte) (m : Mem) (lo hi x : Nat) : mget d (mclear m lo hi) x = if lo ≤ x ∧ x < hi then d else mget d m x := by
  induction m with
  | nil => simp [mclear]
  | cons c r ih =>
    obtain ⟨k, v⟩ := c
    by_cases h1 : k < lo ∨ hi ≤ k
    · have e : mclear ((k, v) :: r) lo hi = (k, v) :: mclear r lo hi := by simp [mclear, List.filter, h1]
      rw [e]
      by_cases h2 : k = x
      · subst h2
        have : ¬ (lo ≤ k ∧ k < hi) := by omega
        simp [mget, this]
      · simp [mget, h2, ih]
    · have e : mclear ((k, v) :: r) lo hi = mclear r lo hi := by simp [mclear, List.filter, h1]
      rw [e, ih]
      by_cases h2 : k = x
      · subst h2
        have : lo ≤ k ∧ k < hi := by omega
        simp [this]
      · simp [mget, h2]

/-- A canonical memory lists no address below its bound. -/
theorem wfFrom_bound (d : Byte) (m : Mem) {n : Nat} (h : Mem.wfFrom d n m = true) : ∀ c ∈ m, n ≤ c.1 := by
  induction m generalizing n with
  | nil => intro c hc; cases hc
  | cons e r ih =>
    obtain ⟨k, v⟩ := e
    simp only [Mem.wfFrom, Bool.and_eq_true, decide_eq_true_eq] at h
    intro c hc
    rcases List.mem_cons.mp hc with rfl | hc
    · exact h.1.1
    · have := ih h.2 c hc; omega

/-- A canonical memory followed by one whose addresses lie above it is canonical. -/
theorem wfFrom_append (d : Byte) (xs ys : Mem) {n m : Nat} (hn : n ≤ m) (hx : Mem.wfFrom d n xs = true) (hlt : ∀ c ∈ xs, c.1 < m)
    (hy : Mem.wfFrom d m ys = true) : Mem.wfFrom d n (xs ++ ys) = true := by
  induction xs generalizing n with
  | nil => exact Mem.wfFrom_mono d ys hn hy
  | cons c r ih =>
    obtain ⟨k, v⟩ := c
    simp only [Mem.wfFrom, Bool.and_eq_true, decide_eq_true_eq, List.cons_append] at hx ⊢
    exact ⟨hx.1, ih (by have := hlt (k, v) List.mem_cons_self; exact this) hx.2 (fun c hc => hlt c (List.mem_cons_of_mem _ hc))⟩

/-- The entries of a canonical memory that pass a test are canonical, from any bound that those entries keep. -/
theorem wfFrom_filter (d : Byte) (p : Nat × Byte → Bool) (m : Mem) {n k : Nat} (h : Mem.wfFrom d n m = true) (hk : ∀ c ∈ m, p c = true → k ≤ c.1) :
    Mem.wfFrom d k (m.filter p) = true := by
  induction m generalizing n k with
  | nil => rfl
  | cons c r ih =>
    obtain ⟨a, v⟩ := c
    simp only [Mem.wfFrom, Bool.and_eq_true, decide_eq_true_eq] at h
    by_cases hp : p (a, v) = true
    · have hr : ∀ c ∈ r, p c = true → a + 1 ≤ c.1 := fun c hc _ => wfFrom_bound d r h.2 c hc
      simp [List.filter, hp, Mem.wfFrom, hk (a, v) List.mem_cons_self hp, h.1.2, ih h.2 hr]
    · have hf : p (a, v) = false := by simpa using hp
      simp only [List.filter, hf]
      exact ih h.2 (fun c hc => hk c (List.mem_cons_of_mem _ hc))

theorem mcells_wfFrom (bs : List Byte) {n a : Nat} (hn : n ≤ a) : Mem.wfFrom 0 n (mcells a bs) = true := by
  induction bs generalizing n a with
  | nil => rfl
  | cons b r ih =>
    unfold mcells
    split
    · exact ih (by omega)
    · rename_i hb
      have := ih (Nat.le_refl (a + 1))
      simp only [Mem.wfFrom, Bool.and_eq_true, decide_eq_true_eq]
      exact ⟨⟨hn, hb⟩, this⟩

theorem mcells_below (bs : List Byte) (a : Nat) : ∀ c ∈ mcells a bs, c.1 < a + bs.length := by
  induction bs generalizing a with
  | nil => intro c hc; cases hc
  | cons b r ih =>
    intro c hc
    simp only [mcells] at hc
    split at hc
    · have := ih _ c hc; simp only [List.length_cons]; omega
    · rcases List.mem_cons.mp hc with rfl | hc
      · simp
      · have := ih _ c hc; simp only [List.length_cons]; omega

/-- Putting a run of bytes in place keeps the canonical form. -/
theorem mplace_wf (m : Mem) (a : Nat) (bs : List Byte) (h : Mem.wf 0 m = true) : Mem.wf 0 (mplace m a bs) = true := by
  unfold mplace Mem.wf
  refine wfFrom_append 0 _ _ (m := a + bs.length) (Nat.zero_le _) (wfFrom_append 0 _ _ (m := a) (Nat.zero_le _) ?_ ?_ (mcells_wfFrom bs (Nat.le_refl a))) ?_ ?_
  · exact wfFrom_filter 0 _ m h (fun _ _ _ => Nat.zero_le _)
  · intro c hc; simpa using (List.mem_filter.mp hc).2
  · intro c hc
    rcases List.mem_append.mp hc with hc | hc
    · have := (List.mem_filter.mp hc).2; simp at this; omega
    · exact mcells_below bs a c hc
  · exact wfFrom_filter 0 _ m h (fun c _ hp => by simpa using hp)

/-- The memories of the state after reset are canonical. -/
theorem reset_memories_wf : Mem.wf 0 State.reset.mem.t3 = true ∧ Mem.wf 0 State.reset.mem.t4 = true ∧ Mem.wf 0 State.reset.mem.sram = true ∧
    Mem.wf 0 State.reset.spr.sram = true ∧ Mem.wf 0 State.reset.otp.cells = true ∧ Mem.wf 0xFF State.reset.rennet.nor = true := by decide

end Sys2Proof.Machine
end

