-- ==== Sys2Proof/Machine/Pins.lean ====
section
/-! DEFINITION. What the outputs of the ports carry between items and commands (R340, R586, R626, R644, R646, R650, R652, R654, R656, R657, R659, R672), and how a flit's bytes lie on the lanes. -/

namespace Sys2Proof.Machine

/-! ### Stream ports (R644, R645) -/

/-- sp_ready: the port takes a beat in state A, in I until it holds one, and in the on-time of a watch window; never while STR is isolated or a trip stops its logic. -/
def streamReady (s : State) (port : Nat) : Bool :=
  s.crp.str.on && !s.crp.str.iso && !s.pwr.trip &&
    (match s.spr.pstate with
     | .a => true
     | .i => !s.spr.heldBeats.any (fun e => e.1 == port)
     | .t | .w => s.spr.onOpen
     | .s | .o => false)

/-! ### Fabric ports (R340, R646) -/

/-- The lanes of a width code: 1, 2 or 4 lanes, the lowest first. -/
def laneMask (lanes : BitVec 2) : BitVec 4 := if lanes = 0 then 1 else if lanes = 1 then 3 else 15

/-- ff_lane_en: the lanes in use of a link that runs or sleeps, the lanes being tried while it trains, none of a port that is off. -/
def fabLaneEn (pt : Port) : BitVec 4 :=
  match pt.state with
  | .off => 0
  | .up | .lp | .sleep => laneMask pt.lanes
  | _ => if pt.phyReady then laneMask pt.tryLanes else 0

/-- ff_txidle: every lane that carries nothing is in electrical idle. -/
def fabTxIdle (pt : Port) : BitVec 4 :=
  match pt.state with
  | .up => ~~~(laneMask pt.lanes)
  | .off | .lp | .sleep | .down => 15
  | _ => ~~~(fabLaneEn pt)

/-- ff_rate: the rate asked of the PHY; 8 Gb/s, the reset value, at a port that is not enabled (R646). -/
def fabRate (pt : Port) : BitVec 2 := if pt.en then pt.rateReq else 0

/-- The bytes of a flit in the order they are sent: header, frame bytes filled to 112, CRC (R341). -/
def flitBytes (f : Flit) : List Byte := leBytes 8 f.header.toNat ++ padTo 112 f.bytes ++ leBytes 8 f.crc.toNat

/-- The bytes that lane `l` of `n` carries: byte b travels on lane b mod n (R340). -/
def laneBytes (n l : Nat) (bytes : List Byte) : List Byte := (bytes.zipIdx.filter (fun e => e.2 % n == l)).map (·.1)

/-- The next state of the PRBS31 generator; its polynomial x^31 + x^28 + 1 is the standard one (PRESUMED, notes/assumptions/30). -/
def prbsNext (r : BitVec 31) : BitVec 31 := (r <<< 1) ||| (BitVec.ofBool (r.getLsbD 30 ^^ r.getLsbD 27)).setWidth 31

/-- The first `n` bits of a lane's additive sequence from an alignment marker on, seeded with the lane's number (R340). -/
def prbsBits : Nat → BitVec 31 → List Bool
  | 0, _ => []
  | n + 1, r => r.getLsbD 30 :: prbsBits n (prbsNext r)

/-- A lane's bits scrambled, or unscrambled, from an alignment marker on. -/
def scramble (lane : Nat) (bits : List Bool) : List Bool := (bits.zip (prbsBits bits.length (BitVec.ofNat 31 lane))).map (fun e => e.1 ^^ e.2)

/-! ### NOR, one-time memory, buses (R650, R652, R654, R656) -/

/-- The outputs of a serial or macro port between transactions. -/
structure QuietPins where
  xSck    : Bool := false           -- 17 R650 x_sck
  xCsN    : Bool := true            -- 17 R650 x_cs_n
  xResetN : Bool := false           -- 17 R650 x_reset_n
  xDqOe   : Bool := false           -- 17 R650 x_dq_oe
  oRd     : Bool := false           -- 17 R652 o_rd
  oProg   : Bool := false           -- 17 R652 o_prog
  mgSdaOe : Bool := false           -- 17 R654 mg_sda_oe
  pmSclOe : Bool := false           -- 17 R656 pm_scl_oe
  pmSdaOe : Bool := false           -- 17 R656 pm_sda_oe
  tTdoOe  : Bool := false           -- 17 R659 t_tdo_oe
  wakeO   : Bool := false           -- 17 R657 wake_o
  alertO  : Bool := false           -- 17 R657 alert_o
  tripO   : Bool := false           -- 17 R657 trip_o
  faultO  : Bool := false           -- 17 R657 fault_o
  offReady : Bool := false          -- 17 R672 pd_off_ready
  deriving DecidableEq, Repr

/-- The levels between commands: every strobe and drive at rest, the NOR device's reset released from step 2 of a start-up on and asserted while Rennet is off, and the discrete outputs, which the pads hold inactive in O (R460, R650, R657). -/
def quietPins (s : State) : QuietPins :=
  let live := decide (s.spr.pstate ≠ .o)
  { xResetN := s.crp.rnt.on && decide (2 ≤ s.rennet.step), wakeO := s.ports.wakeO && live, alertO := s.rel.alert && live, tripO := s.ports.tripO && live, faultO := s.ports.faultO && live, offReady := s.ports.offReady }

/-! ### Power domains (R672) -/

/-- pd_d_on, pd_d_iso and pd_d_ret of a core's domain. -/
def corePins (s : State) (c : Nat) : Bool × Bool × Bool := ((s.core c).req, (s.core c).iso, (s.core c).ret)
/-- pd_d_on, pd_d_iso and pd_d_ret of another domain. -/
def domPins (d : Dom) : Bool × Bool × Bool := (d.req, d.iso, d.ret)

end Sys2Proof.Machine
end

