-- ==== Sys2Proof/Laws/Pins.lean ====
section
/-! SUPPORT. After power-on reset the outputs hold the reset values of their tables (R625). -/

namespace Sys2Proof.Machine

theorem streamReady_reset (p : Nat) : streamReady State.reset p = false := rfl
theorem fabLaneEn_reset : ∀ f : Fin 6, fabLaneEn (State.reset.port f) = 0 := by decide
theorem fabTxIdle_reset : ∀ f : Fin 6, fabTxIdle (State.reset.port f) = 15 := by decide
theorem fabRate_reset : ∀ f : Fin 6, fabRate (State.reset.port f) = 0 := by decide
theorem quietPins_reset : quietPins State.reset = {} := by decide

end Sys2Proof.Machine
end

