-- ==== Sys2Proof/Laws/Tables.lean ====
section
/-! SUPPORT. What the sparse tables and the counters can do: reading after writing, and that a change of one index leaves every other as it was. -/

namespace Sys2Proof.Machine

variable {α : Type}

@[simp] theorem tget_nil (d : α) (i : Nat) : tget d [] i = d := rfl
@[simp] theorem tfind_nil (i : Nat) : tfind ([] : Tbl α) i = none := rfl

/-- An index reads the entry written last. -/
@[simp] theorem tget_tset_same (d : α) (t : Tbl α) (i : Nat) (v : α) : tget d (tset t i v) i = v := by
  induction t with
  | nil => simp [tset, tget]
  | cons e r ih =>
    obtain ⟨k, w⟩ := e
    by_cases h1 : k = i
    · simp [tset, tget, h1]
    · by_cases h2 : i < k <;> simp [tset, tget, h1, h2, ih]

/-- Writing one index leaves every other. -/
theorem tget_tset_other (d : α) (t : Tbl α) {i j : Nat} (v : α) (h : j ≠ i) : tget d (tset t i v) j = tget d t j := by
  induction t with
  | nil => simp [tset, tget, Ne.symm h]
  | cons e r ih =>
    obtain ⟨k, w⟩ := e
    by_cases h1 : k = i
    · subst h1; simp [tset, tget, Ne.symm h]
    · by_cases h2 : i < k
      · simp [tset, tget, h1, h2, Ne.symm h]
      · simp [tset, tget, h1, h2, ih]

@[simp] theorem tget_tmod_same (d : α) (t : Tbl α) (i : Nat) (f : α → α) : tget d (tmod d t i f) i = f (tget d t i) := by
  simp [tmod]

theorem tget_tmod_other (d : α) (t : Tbl α) {i j : Nat} (f : α → α) (h : j ≠ i) : tget d (tmod d t i f) j = tget d t j :=
  tget_tset_other d t _ h

/-- An index finds the entry written last. -/
@[simp] theorem tfind_tset_same (t : Tbl α) (i : Nat) (v : α) : tfind (tset t i v) i = some v := by
  induction t with
  | nil => simp [tset, tfind]
  | cons e r ih =>
    obtain ⟨k, w⟩ := e
    by_cases h1 : k = i
    · simp [tset, tfind, h1]
    · by_cases h2 : i < k <;> simp [tset, tfind, h1, h2, ih]

theorem tfind_tset_other (t : Tbl α) {i j : Nat} (v : α) (h : j ≠ i) : tfind (tset t i v) j = tfind t j := by
  induction t with
  | nil => simp [tset, tfind, Ne.symm h]
  | cons e r ih =>
    obtain ⟨k, w⟩ := e
    by_cases h1 : k = i
    · subst h1; simp [tset, tfind, Ne.symm h]
    · by_cases h2 : i < k
      · simp [tset, tfind, h1, h2, Ne.symm h]
      · simp [tset, tfind, h1, h2, ih]

/-- An index removed finds nothing, and every other finds what it found. -/
@[simp] theorem tfind_tdel_same (t : Tbl α) (i : Nat) : tfind (tdel t i) i = none := by
  induction t with
  | nil => rfl
  | cons e r ih =>
    obtain ⟨k, w⟩ := e
    by_cases h : k = i
    · simpa [tdel, h] using ih
    · have hb : (k != i) = true := by simpa using h
      simpa [tdel, List.filter, hb, tfind, h] using ih

theorem tfind_tdel_other (t : Tbl α) {i j : Nat} (h : j ≠ i) : tfind (tdel t i) j = tfind t j := by
  induction t with
  | nil => rfl
  | cons e r ih =>
    obtain ⟨k, w⟩ := e
    by_cases h1 : k = i
    · subst h1
      simpa [tdel, List.filter, tfind, Ne.symm h] using ih
    · have hb : (k != i) = true := by simpa using h1
      have : tdel ((k, w) :: r) i = (k, w) :: tdel r i := by simp [tdel, List.filter, hb]
      rw [this]
      by_cases h2 : k = j <;> simp [tfind, h2, ih]

/-- The default is what an index reads that finds nothing. -/
theorem tget_eq_tfind (d : α) (t : Tbl α) (i : Nat) : tget d t i = (tfind t i).getD d := by
  induction t with
  | nil => rfl
  | cons e r ih =>
    obtain ⟨k, w⟩ := e
    by_cases h : k = i <;> simp [tget, tfind, h, ih]

/-- A saturating count never falls and rises by at most 1. -/
theorem satInc_toNat {w : Nat} (v : BitVec w) : (satInc v).toNat = min (v.toNat + 1) (2 ^ w - 1) := by
  have h : min (v.toNat + 1) (2 ^ w - 1) < 2 ^ w := by
    have : 0 < 2 ^ w := Nat.two_pow_pos w
    omega
  simp only [satInc, satAdd, BitVec.toNat_ofNat]
  exact Nat.mod_eq_of_lt h

/-- The bytes of a value are as many as asked for. -/
@[simp] theorem leBytes_length (n v : Nat) : (leBytes n v).length = n := by
  induction n generalizing v with
  | zero => rfl
  | succ n ih => simp [leBytes, ih]

/-- Reading the little-endian bytes of a value gives its low bytes. -/
theorem leNat_leBytes (n v : Nat) : leNat (leBytes n v) = v % 256 ^ n := by
  induction n generalizing v with
  | zero => simp [leBytes, leNat, Nat.mod_one]
  | succ n ih =>
    have e : v % 256 ^ (n + 1) = v % 256 + 256 * (v / 256 % 256 ^ n) := by
      rw [Nat.pow_succ', Nat.mod_mul]
    simp only [leBytes, leNat, ih, BitVec.toNat_ofNat, e]

@[simp] theorem padTo_length (n : Nat) (l : List Byte) : (padTo n l).length = n := by
  simp [padTo]
  omega

@[simp] theorem slice_length (l : List Byte) (off n : Nat) : (slice l off n).length = n := padTo_length n _

end Sys2Proof.Machine
end

