-- ==== Sys2Proof/Laws/State.lean ====
section
/-! SUPPORT. The accessors of the state over its updates: what each update leaves as it was, field by field, and what an accessor reads after the update of the same or of another index. -/

namespace Sys2Proof.Machine

@[simp] theorem State.modCore_chip (s : State) (c : Nat) (f : Core → Core) : (s.modCore c f).chip = s.chip := rfl
@[simp] theorem State.modCore_ts (s : State) (c : Nat) (f : Core → Core) : (s.modCore c f).ts = s.ts := rfl
@[simp] theorem State.modCore_pending (s : State) (c : Nat) (f : Core → Core) : (s.modCore c f).pending = s.pending := rfl
@[simp] theorem State.modCore_freeNo (s : State) (c : Nat) (f : Core → Core) : (s.modCore c f).freeNo = s.freeNo := rfl
@[simp] theorem State.modCore_graphs (s : State) (c : Nat) (f : Core → Core) : (s.modCore c f).graphs = s.graphs := rfl
@[simp] theorem State.modCore_nGraphs (s : State) (c : Nat) (f : Core → Core) : (s.modCore c f).nGraphs = s.nGraphs := rfl
@[simp] theorem State.modCore_cad (s : State) (c : Nat) (f : Core → Core) : (s.modCore c f).cad = s.cad := rfl
@[simp] theorem State.modCore_streams (s : State) (c : Nat) (f : Core → Core) : (s.modCore c f).streams = s.streams := rfl
@[simp] theorem State.modCore_mem (s : State) (c : Nat) (f : Core → Core) : (s.modCore c f).mem = s.mem := rfl
@[simp] theorem State.modCore_press (s : State) (c : Nat) (f : Core → Core) : (s.modCore c f).press = s.press := rfl
@[simp] theorem State.modCore_spr (s : State) (c : Nat) (f : Core → Core) : (s.modCore c f).spr = s.spr := rfl
@[simp] theorem State.modCore_fab (s : State) (c : Nat) (f : Core → Core) : (s.modCore c f).fab = s.fab := rfl
@[simp] theorem State.modCore_parts (s : State) (c : Nat) (f : Core → Core) : (s.modCore c f).parts = s.parts := rfl
@[simp] theorem State.modCore_mbxs (s : State) (c : Nat) (f : Core → Core) : (s.modCore c f).mbxs = s.mbxs := rfl
@[simp] theorem State.modCore_rennet (s : State) (c : Nat) (f : Core → Core) : (s.modCore c f).rennet = s.rennet := rfl
@[simp] theorem State.modCore_bn (s : State) (c : Nat) (f : Core → Core) : (s.modCore c f).bn = s.bn := rfl
@[simp] theorem State.modCore_otp (s : State) (c : Nat) (f : Core → Core) : (s.modCore c f).otp = s.otp := rfl
@[simp] theorem State.modCore_att (s : State) (c : Nat) (f : Core → Core) : (s.modCore c f).att = s.att := rfl
@[simp] theorem State.modCore_rel (s : State) (c : Nat) (f : Core → Core) : (s.modCore c f).rel = s.rel := rfl
@[simp] theorem State.modCore_pwr (s : State) (c : Nat) (f : Core → Core) : (s.modCore c f).pwr = s.pwr := rfl
@[simp] theorem State.modCore_ports (s : State) (c : Nat) (f : Core → Core) : (s.modCore c f).ports = s.ports := rfl
@[simp] theorem State.modCore_crp (s : State) (c : Nat) (f : Core → Core) : (s.modCore c f).crp = s.crp := rfl

@[simp] theorem State.modEngine_chip (s : State) (c e : Nat) (f : Engine → Engine) : (s.modEngine c e f).chip = s.chip := rfl
@[simp] theorem State.modEngine_ts (s : State) (c e : Nat) (f : Engine → Engine) : (s.modEngine c e f).ts = s.ts := rfl
@[simp] theorem State.modEngine_pending (s : State) (c e : Nat) (f : Engine → Engine) : (s.modEngine c e f).pending = s.pending := rfl
@[simp] theorem State.modEngine_freeNo (s : State) (c e : Nat) (f : Engine → Engine) : (s.modEngine c e f).freeNo = s.freeNo := rfl
@[simp] theorem State.modEngine_graphs (s : State) (c e : Nat) (f : Engine → Engine) : (s.modEngine c e f).graphs = s.graphs := rfl
@[simp] theorem State.modEngine_nGraphs (s : State) (c e : Nat) (f : Engine → Engine) : (s.modEngine c e f).nGraphs = s.nGraphs := rfl
@[simp] theorem State.modEngine_cad (s : State) (c e : Nat) (f : Engine → Engine) : (s.modEngine c e f).cad = s.cad := rfl
@[simp] theorem State.modEngine_streams (s : State) (c e : Nat) (f : Engine → Engine) : (s.modEngine c e f).streams = s.streams := rfl
@[simp] theorem State.modEngine_mem (s : State) (c e : Nat) (f : Engine → Engine) : (s.modEngine c e f).mem = s.mem := rfl
@[simp] theorem State.modEngine_press (s : State) (c e : Nat) (f : Engine → Engine) : (s.modEngine c e f).press = s.press := rfl
@[simp] theorem State.modEngine_spr (s : State) (c e : Nat) (f : Engine → Engine) : (s.modEngine c e f).spr = s.spr := rfl
@[simp] theorem State.modEngine_fab (s : State) (c e : Nat) (f : Engine → Engine) : (s.modEngine c e f).fab = s.fab := rfl
@[simp] theorem State.modEngine_parts (s : State) (c e : Nat) (f : Engine → Engine) : (s.modEngine c e f).parts = s.parts := rfl
@[simp] theorem State.modEngine_mbxs (s : State) (c e : Nat) (f : Engine → Engine) : (s.modEngine c e f).mbxs = s.mbxs := rfl
@[simp] theorem State.modEngine_rennet (s : State) (c e : Nat) (f : Engine → Engine) : (s.modEngine c e f).rennet = s.rennet := rfl
@[simp] theorem State.modEngine_bn (s : State) (c e : Nat) (f : Engine → Engine) : (s.modEngine c e f).bn = s.bn := rfl
@[simp] theorem State.modEngine_otp (s : State) (c e : Nat) (f : Engine → Engine) : (s.modEngine c e f).otp = s.otp := rfl
@[simp] theorem State.modEngine_att (s : State) (c e : Nat) (f : Engine → Engine) : (s.modEngine c e f).att = s.att := rfl
@[simp] theorem State.modEngine_rel (s : State) (c e : Nat) (f : Engine → Engine) : (s.modEngine c e f).rel = s.rel := rfl
@[simp] theorem State.modEngine_pwr (s : State) (c e : Nat) (f : Engine → Engine) : (s.modEngine c e f).pwr = s.pwr := rfl
@[simp] theorem State.modEngine_ports (s : State) (c e : Nat) (f : Engine → Engine) : (s.modEngine c e f).ports = s.ports := rfl
@[simp] theorem State.modEngine_crp (s : State) (c e : Nat) (f : Engine → Engine) : (s.modEngine c e f).crp = s.crp := rfl

@[simp] theorem State.modCtx_chip (s : State) (c x : Nat) (f : Ctx → Ctx) : (s.modCtx c x f).chip = s.chip := rfl
@[simp] theorem State.modCtx_ts (s : State) (c x : Nat) (f : Ctx → Ctx) : (s.modCtx c x f).ts = s.ts := rfl
@[simp] theorem State.modCtx_pending (s : State) (c x : Nat) (f : Ctx → Ctx) : (s.modCtx c x f).pending = s.pending := rfl
@[simp] theorem State.modCtx_freeNo (s : State) (c x : Nat) (f : Ctx → Ctx) : (s.modCtx c x f).freeNo = s.freeNo := rfl
@[simp] theorem State.modCtx_graphs (s : State) (c x : Nat) (f : Ctx → Ctx) : (s.modCtx c x f).graphs = s.graphs := rfl
@[simp] theorem State.modCtx_nGraphs (s : State) (c x : Nat) (f : Ctx → Ctx) : (s.modCtx c x f).nGraphs = s.nGraphs := rfl
@[simp] theorem State.modCtx_cad (s : State) (c x : Nat) (f : Ctx → Ctx) : (s.modCtx c x f).cad = s.cad := rfl
@[simp] theorem State.modCtx_streams (s : State) (c x : Nat) (f : Ctx → Ctx) : (s.modCtx c x f).streams = s.streams := rfl
@[simp] theorem State.modCtx_mem (s : State) (c x : Nat) (f : Ctx → Ctx) : (s.modCtx c x f).mem = s.mem := rfl
@[simp] theorem State.modCtx_press (s : State) (c x : Nat) (f : Ctx → Ctx) : (s.modCtx c x f).press = s.press := rfl
@[simp] theorem State.modCtx_spr (s : State) (c x : Nat) (f : Ctx → Ctx) : (s.modCtx c x f).spr = s.spr := rfl
@[simp] theorem State.modCtx_fab (s : State) (c x : Nat) (f : Ctx → Ctx) : (s.modCtx c x f).fab = s.fab := rfl
@[simp] theorem State.modCtx_parts (s : State) (c x : Nat) (f : Ctx → Ctx) : (s.modCtx c x f).parts = s.parts := rfl
@[simp] theorem State.modCtx_mbxs (s : State) (c x : Nat) (f : Ctx → Ctx) : (s.modCtx c x f).mbxs = s.mbxs := rfl
@[simp] theorem State.modCtx_rennet (s : State) (c x : Nat) (f : Ctx → Ctx) : (s.modCtx c x f).rennet = s.rennet := rfl
@[simp] theorem State.modCtx_bn (s : State) (c x : Nat) (f : Ctx → Ctx) : (s.modCtx c x f).bn = s.bn := rfl
@[simp] theorem State.modCtx_otp (s : State) (c x : Nat) (f : Ctx → Ctx) : (s.modCtx c x f).otp = s.otp := rfl
@[simp] theorem State.modCtx_att (s : State) (c x : Nat) (f : Ctx → Ctx) : (s.modCtx c x f).att = s.att := rfl
@[simp] theorem State.modCtx_rel (s : State) (c x : Nat) (f : Ctx → Ctx) : (s.modCtx c x f).rel = s.rel := rfl
@[simp] theorem State.modCtx_pwr (s : State) (c x : Nat) (f : Ctx → Ctx) : (s.modCtx c x f).pwr = s.pwr := rfl
@[simp] theorem State.modCtx_ports (s : State) (c x : Nat) (f : Ctx → Ctx) : (s.modCtx c x f).ports = s.ports := rfl
@[simp] theorem State.modCtx_crp (s : State) (c x : Nat) (f : Ctx → Ctx) : (s.modCtx c x f).crp = s.crp := rfl

@[simp] theorem State.modPart_chip (s : State) (p : Nat) (f : Part → Part) : (s.modPart p f).chip = s.chip := rfl
@[simp] theorem State.modPart_ts (s : State) (p : Nat) (f : Part → Part) : (s.modPart p f).ts = s.ts := rfl
@[simp] theorem State.modPart_pending (s : State) (p : Nat) (f : Part → Part) : (s.modPart p f).pending = s.pending := rfl
@[simp] theorem State.modPart_freeNo (s : State) (p : Nat) (f : Part → Part) : (s.modPart p f).freeNo = s.freeNo := rfl
@[simp] theorem State.modPart_cores (s : State) (p : Nat) (f : Part → Part) : (s.modPart p f).cores = s.cores := rfl
@[simp] theorem State.modPart_graphs (s : State) (p : Nat) (f : Part → Part) : (s.modPart p f).graphs = s.graphs := rfl
@[simp] theorem State.modPart_nGraphs (s : State) (p : Nat) (f : Part → Part) : (s.modPart p f).nGraphs = s.nGraphs := rfl
@[simp] theorem State.modPart_cad (s : State) (p : Nat) (f : Part → Part) : (s.modPart p f).cad = s.cad := rfl
@[simp] theorem State.modPart_streams (s : State) (p : Nat) (f : Part → Part) : (s.modPart p f).streams = s.streams := rfl
@[simp] theorem State.modPart_mem (s : State) (p : Nat) (f : Part → Part) : (s.modPart p f).mem = s.mem := rfl
@[simp] theorem State.modPart_press (s : State) (p : Nat) (f : Part → Part) : (s.modPart p f).press = s.press := rfl
@[simp] theorem State.modPart_spr (s : State) (p : Nat) (f : Part → Part) : (s.modPart p f).spr = s.spr := rfl
@[simp] theorem State.modPart_fab (s : State) (p : Nat) (f : Part → Part) : (s.modPart p f).fab = s.fab := rfl
@[simp] theorem State.modPart_mbxs (s : State) (p : Nat) (f : Part → Part) : (s.modPart p f).mbxs = s.mbxs := rfl
@[simp] theorem State.modPart_rennet (s : State) (p : Nat) (f : Part → Part) : (s.modPart p f).rennet = s.rennet := rfl
@[simp] theorem State.modPart_bn (s : State) (p : Nat) (f : Part → Part) : (s.modPart p f).bn = s.bn := rfl
@[simp] theorem State.modPart_otp (s : State) (p : Nat) (f : Part → Part) : (s.modPart p f).otp = s.otp := rfl
@[simp] theorem State.modPart_att (s : State) (p : Nat) (f : Part → Part) : (s.modPart p f).att = s.att := rfl
@[simp] theorem State.modPart_rel (s : State) (p : Nat) (f : Part → Part) : (s.modPart p f).rel = s.rel := rfl
@[simp] theorem State.modPart_pwr (s : State) (p : Nat) (f : Part → Part) : (s.modPart p f).pwr = s.pwr := rfl
@[simp] theorem State.modPart_ports (s : State) (p : Nat) (f : Part → Part) : (s.modPart p f).ports = s.ports := rfl
@[simp] theorem State.modPart_crp (s : State) (p : Nat) (f : Part → Part) : (s.modPart p f).crp = s.crp := rfl

@[simp] theorem State.modMbx_chip (s : State) (m : Nat) (f : Mbx → Mbx) : (s.modMbx m f).chip = s.chip := rfl
@[simp] theorem State.modMbx_ts (s : State) (m : Nat) (f : Mbx → Mbx) : (s.modMbx m f).ts = s.ts := rfl
@[simp] theorem State.modMbx_pending (s : State) (m : Nat) (f : Mbx → Mbx) : (s.modMbx m f).pending = s.pending := rfl
@[simp] theorem State.modMbx_freeNo (s : State) (m : Nat) (f : Mbx → Mbx) : (s.modMbx m f).freeNo = s.freeNo := rfl
@[simp] theorem State.modMbx_cores (s : State) (m : Nat) (f : Mbx → Mbx) : (s.modMbx m f).cores = s.cores := rfl
@[simp] theorem State.modMbx_graphs (s : State) (m : Nat) (f : Mbx → Mbx) : (s.modMbx m f).graphs = s.graphs := rfl
@[simp] theorem State.modMbx_nGraphs (s : State) (m : Nat) (f : Mbx → Mbx) : (s.modMbx m f).nGraphs = s.nGraphs := rfl
@[simp] theorem State.modMbx_cad (s : State) (m : Nat) (f : Mbx → Mbx) : (s.modMbx m f).cad = s.cad := rfl
@[simp] theorem State.modMbx_streams (s : State) (m : Nat) (f : Mbx → Mbx) : (s.modMbx m f).streams = s.streams := rfl
@[simp] theorem State.modMbx_mem (s : State) (m : Nat) (f : Mbx → Mbx) : (s.modMbx m f).mem = s.mem := rfl
@[simp] theorem State.modMbx_press (s : State) (m : Nat) (f : Mbx → Mbx) : (s.modMbx m f).press = s.press := rfl
@[simp] theorem State.modMbx_spr (s : State) (m : Nat) (f : Mbx → Mbx) : (s.modMbx m f).spr = s.spr := rfl
@[simp] theorem State.modMbx_fab (s : State) (m : Nat) (f : Mbx → Mbx) : (s.modMbx m f).fab = s.fab := rfl
@[simp] theorem State.modMbx_parts (s : State) (m : Nat) (f : Mbx → Mbx) : (s.modMbx m f).parts = s.parts := rfl
@[simp] theorem State.modMbx_rennet (s : State) (m : Nat) (f : Mbx → Mbx) : (s.modMbx m f).rennet = s.rennet := rfl
@[simp] theorem State.modMbx_bn (s : State) (m : Nat) (f : Mbx → Mbx) : (s.modMbx m f).bn = s.bn := rfl
@[simp] theorem State.modMbx_otp (s : State) (m : Nat) (f : Mbx → Mbx) : (s.modMbx m f).otp = s.otp := rfl
@[simp] theorem State.modMbx_att (s : State) (m : Nat) (f : Mbx → Mbx) : (s.modMbx m f).att = s.att := rfl
@[simp] theorem State.modMbx_rel (s : State) (m : Nat) (f : Mbx → Mbx) : (s.modMbx m f).rel = s.rel := rfl
@[simp] theorem State.modMbx_pwr (s : State) (m : Nat) (f : Mbx → Mbx) : (s.modMbx m f).pwr = s.pwr := rfl
@[simp] theorem State.modMbx_ports (s : State) (m : Nat) (f : Mbx → Mbx) : (s.modMbx m f).ports = s.ports := rfl
@[simp] theorem State.modMbx_crp (s : State) (m : Nat) (f : Mbx → Mbx) : (s.modMbx m f).crp = s.crp := rfl

@[simp] theorem State.modGraph_chip (s : State) (h : Nat) (f : Graph → Graph) : (s.modGraph h f).chip = s.chip := rfl
@[simp] theorem State.modGraph_ts (s : State) (h : Nat) (f : Graph → Graph) : (s.modGraph h f).ts = s.ts := rfl
@[simp] theorem State.modGraph_pending (s : State) (h : Nat) (f : Graph → Graph) : (s.modGraph h f).pending = s.pending := rfl
@[simp] theorem State.modGraph_freeNo (s : State) (h : Nat) (f : Graph → Graph) : (s.modGraph h f).freeNo = s.freeNo := rfl
@[simp] theorem State.modGraph_cores (s : State) (h : Nat) (f : Graph → Graph) : (s.modGraph h f).cores = s.cores := rfl
@[simp] theorem State.modGraph_nGraphs (s : State) (h : Nat) (f : Graph → Graph) : (s.modGraph h f).nGraphs = s.nGraphs := rfl
@[simp] theorem State.modGraph_cad (s : State) (h : Nat) (f : Graph → Graph) : (s.modGraph h f).cad = s.cad := rfl
@[simp] theorem State.modGraph_streams (s : State) (h : Nat) (f : Graph → Graph) : (s.modGraph h f).streams = s.streams := rfl
@[simp] theorem State.modGraph_mem (s : State) (h : Nat) (f : Graph → Graph) : (s.modGraph h f).mem = s.mem := rfl
@[simp] theorem State.modGraph_press (s : State) (h : Nat) (f : Graph → Graph) : (s.modGraph h f).press = s.press := rfl
@[simp] theorem State.modGraph_spr (s : State) (h : Nat) (f : Graph → Graph) : (s.modGraph h f).spr = s.spr := rfl
@[simp] theorem State.modGraph_fab (s : State) (h : Nat) (f : Graph → Graph) : (s.modGraph h f).fab = s.fab := rfl
@[simp] theorem State.modGraph_parts (s : State) (h : Nat) (f : Graph → Graph) : (s.modGraph h f).parts = s.parts := rfl
@[simp] theorem State.modGraph_mbxs (s : State) (h : Nat) (f : Graph → Graph) : (s.modGraph h f).mbxs = s.mbxs := rfl
@[simp] theorem State.modGraph_rennet (s : State) (h : Nat) (f : Graph → Graph) : (s.modGraph h f).rennet = s.rennet := rfl
@[simp] theorem State.modGraph_bn (s : State) (h : Nat) (f : Graph → Graph) : (s.modGraph h f).bn = s.bn := rfl
@[simp] theorem State.modGraph_otp (s : State) (h : Nat) (f : Graph → Graph) : (s.modGraph h f).otp = s.otp := rfl
@[simp] theorem State.modGraph_att (s : State) (h : Nat) (f : Graph → Graph) : (s.modGraph h f).att = s.att := rfl
@[simp] theorem State.modGraph_rel (s : State) (h : Nat) (f : Graph → Graph) : (s.modGraph h f).rel = s.rel := rfl
@[simp] theorem State.modGraph_pwr (s : State) (h : Nat) (f : Graph → Graph) : (s.modGraph h f).pwr = s.pwr := rfl
@[simp] theorem State.modGraph_ports (s : State) (h : Nat) (f : Graph → Graph) : (s.modGraph h f).ports = s.ports := rfl
@[simp] theorem State.modGraph_crp (s : State) (h : Nat) (f : Graph → Graph) : (s.modGraph h f).crp = s.crp := rfl

@[simp] theorem State.modRun_chip (s : State) (h : Nat) (f : Run → Run) : (s.modRun h f).chip = s.chip := rfl
@[simp] theorem State.modRun_ts (s : State) (h : Nat) (f : Run → Run) : (s.modRun h f).ts = s.ts := rfl
@[simp] theorem State.modRun_pending (s : State) (h : Nat) (f : Run → Run) : (s.modRun h f).pending = s.pending := rfl
@[simp] theorem State.modRun_freeNo (s : State) (h : Nat) (f : Run → Run) : (s.modRun h f).freeNo = s.freeNo := rfl
@[simp] theorem State.modRun_cores (s : State) (h : Nat) (f : Run → Run) : (s.modRun h f).cores = s.cores := rfl
@[simp] theorem State.modRun_nGraphs (s : State) (h : Nat) (f : Run → Run) : (s.modRun h f).nGraphs = s.nGraphs := rfl
@[simp] theorem State.modRun_cad (s : State) (h : Nat) (f : Run → Run) : (s.modRun h f).cad = s.cad := rfl
@[simp] theorem State.modRun_streams (s : State) (h : Nat) (f : Run → Run) : (s.modRun h f).streams = s.streams := rfl
@[simp] theorem State.modRun_mem (s : State) (h : Nat) (f : Run → Run) : (s.modRun h f).mem = s.mem := rfl
@[simp] theorem State.modRun_press (s : State) (h : Nat) (f : Run → Run) : (s.modRun h f).press = s.press := rfl
@[simp] theorem State.modRun_spr (s : State) (h : Nat) (f : Run → Run) : (s.modRun h f).spr = s.spr := rfl
@[simp] theorem State.modRun_fab (s : State) (h : Nat) (f : Run → Run) : (s.modRun h f).fab = s.fab := rfl
@[simp] theorem State.modRun_parts (s : State) (h : Nat) (f : Run → Run) : (s.modRun h f).parts = s.parts := rfl
@[simp] theorem State.modRun_mbxs (s : State) (h : Nat) (f : Run → Run) : (s.modRun h f).mbxs = s.mbxs := rfl
@[simp] theorem State.modRun_rennet (s : State) (h : Nat) (f : Run → Run) : (s.modRun h f).rennet = s.rennet := rfl
@[simp] theorem State.modRun_bn (s : State) (h : Nat) (f : Run → Run) : (s.modRun h f).bn = s.bn := rfl
@[simp] theorem State.modRun_otp (s : State) (h : Nat) (f : Run → Run) : (s.modRun h f).otp = s.otp := rfl
@[simp] theorem State.modRun_att (s : State) (h : Nat) (f : Run → Run) : (s.modRun h f).att = s.att := rfl
@[simp] theorem State.modRun_rel (s : State) (h : Nat) (f : Run → Run) : (s.modRun h f).rel = s.rel := rfl
@[simp] theorem State.modRun_pwr (s : State) (h : Nat) (f : Run → Run) : (s.modRun h f).pwr = s.pwr := rfl
@[simp] theorem State.modRun_ports (s : State) (h : Nat) (f : Run → Run) : (s.modRun h f).ports = s.ports := rfl
@[simp] theorem State.modRun_crp (s : State) (h : Nat) (f : Run → Run) : (s.modRun h f).crp = s.crp := rfl

@[simp] theorem State.modStream_chip (s : State) (n : Nat) (f : Stream → Stream) : (s.modStream n f).chip = s.chip := rfl
@[simp] theorem State.modStream_ts (s : State) (n : Nat) (f : Stream → Stream) : (s.modStream n f).ts = s.ts := rfl
@[simp] theorem State.modStream_pending (s : State) (n : Nat) (f : Stream → Stream) : (s.modStream n f).pending = s.pending := rfl
@[simp] theorem State.modStream_freeNo (s : State) (n : Nat) (f : Stream → Stream) : (s.modStream n f).freeNo = s.freeNo := rfl
@[simp] theorem State.modStream_cores (s : State) (n : Nat) (f : Stream → Stream) : (s.modStream n f).cores = s.cores := rfl
@[simp] theorem State.modStream_graphs (s : State) (n : Nat) (f : Stream → Stream) : (s.modStream n f).graphs = s.graphs := rfl
@[simp] theorem State.modStream_nGraphs (s : State) (n : Nat) (f : Stream → Stream) : (s.modStream n f).nGraphs = s.nGraphs := rfl
@[simp] theorem State.modStream_cad (s : State) (n : Nat) (f : Stream → Stream) : (s.modStream n f).cad = s.cad := rfl
@[simp] theorem State.modStream_mem (s : State) (n : Nat) (f : Stream → Stream) : (s.modStream n f).mem = s.mem := rfl
@[simp] theorem State.modStream_press (s : State) (n : Nat) (f : Stream → Stream) : (s.modStream n f).press = s.press := rfl
@[simp] theorem State.modStream_spr (s : State) (n : Nat) (f : Stream → Stream) : (s.modStream n f).spr = s.spr := rfl
@[simp] theorem State.modStream_fab (s : State) (n : Nat) (f : Stream → Stream) : (s.modStream n f).fab = s.fab := rfl
@[simp] theorem State.modStream_parts (s : State) (n : Nat) (f : Stream → Stream) : (s.modStream n f).parts = s.parts := rfl
@[simp] theorem State.modStream_mbxs (s : State) (n : Nat) (f : Stream → Stream) : (s.modStream n f).mbxs = s.mbxs := rfl
@[simp] theorem State.modStream_rennet (s : State) (n : Nat) (f : Stream → Stream) : (s.modStream n f).rennet = s.rennet := rfl
@[simp] theorem State.modStream_bn (s : State) (n : Nat) (f : Stream → Stream) : (s.modStream n f).bn = s.bn := rfl
@[simp] theorem State.modStream_otp (s : State) (n : Nat) (f : Stream → Stream) : (s.modStream n f).otp = s.otp := rfl
@[simp] theorem State.modStream_att (s : State) (n : Nat) (f : Stream → Stream) : (s.modStream n f).att = s.att := rfl
@[simp] theorem State.modStream_rel (s : State) (n : Nat) (f : Stream → Stream) : (s.modStream n f).rel = s.rel := rfl
@[simp] theorem State.modStream_pwr (s : State) (n : Nat) (f : Stream → Stream) : (s.modStream n f).pwr = s.pwr := rfl
@[simp] theorem State.modStream_ports (s : State) (n : Nat) (f : Stream → Stream) : (s.modStream n f).ports = s.ports := rfl
@[simp] theorem State.modStream_crp (s : State) (n : Nat) (f : Stream → Stream) : (s.modStream n f).crp = s.crp := rfl

@[simp] theorem State.modPort_chip (s : State) (n : Nat) (f : Port → Port) : (s.modPort n f).chip = s.chip := rfl
@[simp] theorem State.modPort_ts (s : State) (n : Nat) (f : Port → Port) : (s.modPort n f).ts = s.ts := rfl
@[simp] theorem State.modPort_pending (s : State) (n : Nat) (f : Port → Port) : (s.modPort n f).pending = s.pending := rfl
@[simp] theorem State.modPort_freeNo (s : State) (n : Nat) (f : Port → Port) : (s.modPort n f).freeNo = s.freeNo := rfl
@[simp] theorem State.modPort_cores (s : State) (n : Nat) (f : Port → Port) : (s.modPort n f).cores = s.cores := rfl
@[simp] theorem State.modPort_graphs (s : State) (n : Nat) (f : Port → Port) : (s.modPort n f).graphs = s.graphs := rfl
@[simp] theorem State.modPort_nGraphs (s : State) (n : Nat) (f : Port → Port) : (s.modPort n f).nGraphs = s.nGraphs := rfl
@[simp] theorem State.modPort_cad (s : State) (n : Nat) (f : Port → Port) : (s.modPort n f).cad = s.cad := rfl
@[simp] theorem State.modPort_streams (s : State) (n : Nat) (f : Port → Port) : (s.modPort n f).streams = s.streams := rfl
@[simp] theorem State.modPort_mem (s : State) (n : Nat) (f : Port → Port) : (s.modPort n f).mem = s.mem := rfl
@[simp] theorem State.modPort_press (s : State) (n : Nat) (f : Port → Port) : (s.modPort n f).press = s.press := rfl
@[simp] theorem State.modPort_spr (s : State) (n : Nat) (f : Port → Port) : (s.modPort n f).spr = s.spr := rfl
@[simp] theorem State.modPort_parts (s : State) (n : Nat) (f : Port → Port) : (s.modPort n f).parts = s.parts := rfl
@[simp] theorem State.modPort_mbxs (s : State) (n : Nat) (f : Port → Port) : (s.modPort n f).mbxs = s.mbxs := rfl
@[simp] theorem State.modPort_rennet (s : State) (n : Nat) (f : Port → Port) : (s.modPort n f).rennet = s.rennet := rfl
@[simp] theorem State.modPort_bn (s : State) (n : Nat) (f : Port → Port) : (s.modPort n f).bn = s.bn := rfl
@[simp] theorem State.modPort_otp (s : State) (n : Nat) (f : Port → Port) : (s.modPort n f).otp = s.otp := rfl
@[simp] theorem State.modPort_att (s : State) (n : Nat) (f : Port → Port) : (s.modPort n f).att = s.att := rfl
@[simp] theorem State.modPort_rel (s : State) (n : Nat) (f : Port → Port) : (s.modPort n f).rel = s.rel := rfl
@[simp] theorem State.modPort_pwr (s : State) (n : Nat) (f : Port → Port) : (s.modPort n f).pwr = s.pwr := rfl
@[simp] theorem State.modPort_ports (s : State) (n : Nat) (f : Port → Port) : (s.modPort n f).ports = s.ports := rfl
@[simp] theorem State.modPort_crp (s : State) (n : Nat) (f : Port → Port) : (s.modPort n f).crp = s.crp := rfl

@[simp] theorem State.draw_chip (s : State) : (s.draw).chip = s.chip := rfl
@[simp] theorem State.draw_ts (s : State) : (s.draw).ts = s.ts := rfl
@[simp] theorem State.draw_pending (s : State) : (s.draw).pending = s.pending := rfl
@[simp] theorem State.draw_cores (s : State) : (s.draw).cores = s.cores := rfl
@[simp] theorem State.draw_graphs (s : State) : (s.draw).graphs = s.graphs := rfl
@[simp] theorem State.draw_nGraphs (s : State) : (s.draw).nGraphs = s.nGraphs := rfl
@[simp] theorem State.draw_cad (s : State) : (s.draw).cad = s.cad := rfl
@[simp] theorem State.draw_streams (s : State) : (s.draw).streams = s.streams := rfl
@[simp] theorem State.draw_mem (s : State) : (s.draw).mem = s.mem := rfl
@[simp] theorem State.draw_press (s : State) : (s.draw).press = s.press := rfl
@[simp] theorem State.draw_spr (s : State) : (s.draw).spr = s.spr := rfl
@[simp] theorem State.draw_fab (s : State) : (s.draw).fab = s.fab := rfl
@[simp] theorem State.draw_parts (s : State) : (s.draw).parts = s.parts := rfl
@[simp] theorem State.draw_mbxs (s : State) : (s.draw).mbxs = s.mbxs := rfl
@[simp] theorem State.draw_rennet (s : State) : (s.draw).rennet = s.rennet := rfl
@[simp] theorem State.draw_bn (s : State) : (s.draw).bn = s.bn := rfl
@[simp] theorem State.draw_otp (s : State) : (s.draw).otp = s.otp := rfl
@[simp] theorem State.draw_att (s : State) : (s.draw).att = s.att := rfl
@[simp] theorem State.draw_rel (s : State) : (s.draw).rel = s.rel := rfl
@[simp] theorem State.draw_pwr (s : State) : (s.draw).pwr = s.pwr := rfl
@[simp] theorem State.draw_ports (s : State) : (s.draw).ports = s.ports := rfl
@[simp] theorem State.draw_crp (s : State) : (s.draw).crp = s.crp := rfl

@[simp] theorem memEvent_chip (s : State) (bit : Nat) : (memEvent s bit).chip = s.chip := rfl
@[simp] theorem memEvent_ts (s : State) (bit : Nat) : (memEvent s bit).ts = s.ts := rfl
@[simp] theorem memEvent_pending (s : State) (bit : Nat) : (memEvent s bit).pending = s.pending := rfl
@[simp] theorem memEvent_freeNo (s : State) (bit : Nat) : (memEvent s bit).freeNo = s.freeNo := rfl
@[simp] theorem memEvent_cores (s : State) (bit : Nat) : (memEvent s bit).cores = s.cores := rfl
@[simp] theorem memEvent_graphs (s : State) (bit : Nat) : (memEvent s bit).graphs = s.graphs := rfl
@[simp] theorem memEvent_nGraphs (s : State) (bit : Nat) : (memEvent s bit).nGraphs = s.nGraphs := rfl
@[simp] theorem memEvent_cad (s : State) (bit : Nat) : (memEvent s bit).cad = s.cad := rfl
@[simp] theorem memEvent_streams (s : State) (bit : Nat) : (memEvent s bit).streams = s.streams := rfl
@[simp] theorem memEvent_press (s : State) (bit : Nat) : (memEvent s bit).press = s.press := rfl
@[simp] theorem memEvent_spr (s : State) (bit : Nat) : (memEvent s bit).spr = s.spr := rfl
@[simp] theorem memEvent_fab (s : State) (bit : Nat) : (memEvent s bit).fab = s.fab := rfl
@[simp] theorem memEvent_parts (s : State) (bit : Nat) : (memEvent s bit).parts = s.parts := rfl
@[simp] theorem memEvent_mbxs (s : State) (bit : Nat) : (memEvent s bit).mbxs = s.mbxs := rfl
@[simp] theorem memEvent_rennet (s : State) (bit : Nat) : (memEvent s bit).rennet = s.rennet := rfl
@[simp] theorem memEvent_bn (s : State) (bit : Nat) : (memEvent s bit).bn = s.bn := rfl
@[simp] theorem memEvent_otp (s : State) (bit : Nat) : (memEvent s bit).otp = s.otp := rfl
@[simp] theorem memEvent_att (s : State) (bit : Nat) : (memEvent s bit).att = s.att := rfl
@[simp] theorem memEvent_rel (s : State) (bit : Nat) : (memEvent s bit).rel = s.rel := rfl
@[simp] theorem memEvent_pwr (s : State) (bit : Nat) : (memEvent s bit).pwr = s.pwr := rfl
@[simp] theorem memEvent_ports (s : State) (bit : Nat) : (memEvent s bit).ports = s.ports := rfl
@[simp] theorem memEvent_crp (s : State) (bit : Nat) : (memEvent s bit).crp = s.crp := rfl

@[simp] theorem relEvent_chip (s : State) (bit : Nat) : (relEvent s bit).chip = s.chip := rfl
@[simp] theorem relEvent_ts (s : State) (bit : Nat) : (relEvent s bit).ts = s.ts := rfl
@[simp] theorem relEvent_pending (s : State) (bit : Nat) : (relEvent s bit).pending = s.pending := rfl
@[simp] theorem relEvent_freeNo (s : State) (bit : Nat) : (relEvent s bit).freeNo = s.freeNo := rfl
@[simp] theorem relEvent_cores (s : State) (bit : Nat) : (relEvent s bit).cores = s.cores := rfl
@[simp] theorem relEvent_graphs (s : State) (bit : Nat) : (relEvent s bit).graphs = s.graphs := rfl
@[simp] theorem relEvent_nGraphs (s : State) (bit : Nat) : (relEvent s bit).nGraphs = s.nGraphs := rfl
@[simp] theorem relEvent_cad (s : State) (bit : Nat) : (relEvent s bit).cad = s.cad := rfl
@[simp] theorem relEvent_streams (s : State) (bit : Nat) : (relEvent s bit).streams = s.streams := rfl
@[simp] theorem relEvent_mem (s : State) (bit : Nat) : (relEvent s bit).mem = s.mem := rfl
@[simp] theorem relEvent_press (s : State) (bit : Nat) : (relEvent s bit).press = s.press := rfl
@[simp] theorem relEvent_spr (s : State) (bit : Nat) : (relEvent s bit).spr = s.spr := rfl
@[simp] theorem relEvent_fab (s : State) (bit : Nat) : (relEvent s bit).fab = s.fab := rfl
@[simp] theorem relEvent_parts (s : State) (bit : Nat) : (relEvent s bit).parts = s.parts := rfl
@[simp] theorem relEvent_mbxs (s : State) (bit : Nat) : (relEvent s bit).mbxs = s.mbxs := rfl
@[simp] theorem relEvent_rennet (s : State) (bit : Nat) : (relEvent s bit).rennet = s.rennet := rfl
@[simp] theorem relEvent_bn (s : State) (bit : Nat) : (relEvent s bit).bn = s.bn := rfl
@[simp] theorem relEvent_otp (s : State) (bit : Nat) : (relEvent s bit).otp = s.otp := rfl
@[simp] theorem relEvent_att (s : State) (bit : Nat) : (relEvent s bit).att = s.att := rfl
@[simp] theorem relEvent_pwr (s : State) (bit : Nat) : (relEvent s bit).pwr = s.pwr := rfl
@[simp] theorem relEvent_ports (s : State) (bit : Nat) : (relEvent s bit).ports = s.ports := rfl
@[simp] theorem relEvent_crp (s : State) (bit : Nat) : (relEvent s bit).crp = s.crp := rfl

@[simp] theorem fabEvent_chip (s : State) (bit : Nat) : (fabEvent s bit).chip = s.chip := rfl
@[simp] theorem fabEvent_ts (s : State) (bit : Nat) : (fabEvent s bit).ts = s.ts := rfl
@[simp] theorem fabEvent_pending (s : State) (bit : Nat) : (fabEvent s bit).pending = s.pending := rfl
@[simp] theorem fabEvent_freeNo (s : State) (bit : Nat) : (fabEvent s bit).freeNo = s.freeNo := rfl
@[simp] theorem fabEvent_cores (s : State) (bit : Nat) : (fabEvent s bit).cores = s.cores := rfl
@[simp] theorem fabEvent_graphs (s : State) (bit : Nat) : (fabEvent s bit).graphs = s.graphs := rfl
@[simp] theorem fabEvent_nGraphs (s : State) (bit : Nat) : (fabEvent s bit).nGraphs = s.nGraphs := rfl
@[simp] theorem fabEvent_cad (s : State) (bit : Nat) : (fabEvent s bit).cad = s.cad := rfl
@[simp] theorem fabEvent_streams (s : State) (bit : Nat) : (fabEvent s bit).streams = s.streams := rfl
@[simp] theorem fabEvent_mem (s : State) (bit : Nat) : (fabEvent s bit).mem = s.mem := rfl
@[simp] theorem fabEvent_press (s : State) (bit : Nat) : (fabEvent s bit).press = s.press := rfl
@[simp] theorem fabEvent_spr (s : State) (bit : Nat) : (fabEvent s bit).spr = s.spr := rfl
@[simp] theorem fabEvent_parts (s : State) (bit : Nat) : (fabEvent s bit).parts = s.parts := rfl
@[simp] theorem fabEvent_mbxs (s : State) (bit : Nat) : (fabEvent s bit).mbxs = s.mbxs := rfl
@[simp] theorem fabEvent_rennet (s : State) (bit : Nat) : (fabEvent s bit).rennet = s.rennet := rfl
@[simp] theorem fabEvent_bn (s : State) (bit : Nat) : (fabEvent s bit).bn = s.bn := rfl
@[simp] theorem fabEvent_otp (s : State) (bit : Nat) : (fabEvent s bit).otp = s.otp := rfl
@[simp] theorem fabEvent_att (s : State) (bit : Nat) : (fabEvent s bit).att = s.att := rfl
@[simp] theorem fabEvent_rel (s : State) (bit : Nat) : (fabEvent s bit).rel = s.rel := rfl
@[simp] theorem fabEvent_pwr (s : State) (bit : Nat) : (fabEvent s bit).pwr = s.pwr := rfl
@[simp] theorem fabEvent_ports (s : State) (bit : Nat) : (fabEvent s bit).ports = s.ports := rfl
@[simp] theorem fabEvent_crp (s : State) (bit : Nat) : (fabEvent s bit).crp = s.crp := rfl

@[simp] theorem portEvent_chip (s : State) (bit : Nat) : (portEvent s bit).chip = s.chip := rfl
@[simp] theorem portEvent_ts (s : State) (bit : Nat) : (portEvent s bit).ts = s.ts := rfl
@[simp] theorem portEvent_pending (s : State) (bit : Nat) : (portEvent s bit).pending = s.pending := rfl
@[simp] theorem portEvent_freeNo (s : State) (bit : Nat) : (portEvent s bit).freeNo = s.freeNo := rfl
@[simp] theorem portEvent_cores (s : State) (bit : Nat) : (portEvent s bit).cores = s.cores := rfl
@[simp] theorem portEvent_graphs (s : State) (bit : Nat) : (portEvent s bit).graphs = s.graphs := rfl
@[simp] theorem portEvent_nGraphs (s : State) (bit : Nat) : (portEvent s bit).nGraphs = s.nGraphs := rfl
@[simp] theorem portEvent_cad (s : State) (bit : Nat) : (portEvent s bit).cad = s.cad := rfl
@[simp] theorem portEvent_streams (s : State) (bit : Nat) : (portEvent s bit).streams = s.streams := rfl
@[simp] theorem portEvent_mem (s : State) (bit : Nat) : (portEvent s bit).mem = s.mem := rfl
@[simp] theorem portEvent_press (s : State) (bit : Nat) : (portEvent s bit).press = s.press := rfl
@[simp] theorem portEvent_spr (s : State) (bit : Nat) : (portEvent s bit).spr = s.spr := rfl
@[simp] theorem portEvent_fab (s : State) (bit : Nat) : (portEvent s bit).fab = s.fab := rfl
@[simp] theorem portEvent_parts (s : State) (bit : Nat) : (portEvent s bit).parts = s.parts := rfl
@[simp] theorem portEvent_mbxs (s : State) (bit : Nat) : (portEvent s bit).mbxs = s.mbxs := rfl
@[simp] theorem portEvent_rennet (s : State) (bit : Nat) : (portEvent s bit).rennet = s.rennet := rfl
@[simp] theorem portEvent_bn (s : State) (bit : Nat) : (portEvent s bit).bn = s.bn := rfl
@[simp] theorem portEvent_otp (s : State) (bit : Nat) : (portEvent s bit).otp = s.otp := rfl
@[simp] theorem portEvent_att (s : State) (bit : Nat) : (portEvent s bit).att = s.att := rfl
@[simp] theorem portEvent_rel (s : State) (bit : Nat) : (portEvent s bit).rel = s.rel := rfl
@[simp] theorem portEvent_pwr (s : State) (bit : Nat) : (portEvent s bit).pwr = s.pwr := rfl
@[simp] theorem portEvent_crp (s : State) (bit : Nat) : (portEvent s bit).crp = s.crp := rfl

@[simp] theorem cadEvent_chip (s : State) (bit : Nat) : (cadEvent s bit).chip = s.chip := rfl
@[simp] theorem cadEvent_ts (s : State) (bit : Nat) : (cadEvent s bit).ts = s.ts := rfl
@[simp] theorem cadEvent_pending (s : State) (bit : Nat) : (cadEvent s bit).pending = s.pending := rfl
@[simp] theorem cadEvent_freeNo (s : State) (bit : Nat) : (cadEvent s bit).freeNo = s.freeNo := rfl
@[simp] theorem cadEvent_cores (s : State) (bit : Nat) : (cadEvent s bit).cores = s.cores := rfl
@[simp] theorem cadEvent_graphs (s : State) (bit : Nat) : (cadEvent s bit).graphs = s.graphs := rfl
@[simp] theorem cadEvent_nGraphs (s : State) (bit : Nat) : (cadEvent s bit).nGraphs = s.nGraphs := rfl
@[simp] theorem cadEvent_streams (s : State) (bit : Nat) : (cadEvent s bit).streams = s.streams := rfl
@[simp] theorem cadEvent_mem (s : State) (bit : Nat) : (cadEvent s bit).mem = s.mem := rfl
@[simp] theorem cadEvent_press (s : State) (bit : Nat) : (cadEvent s bit).press = s.press := rfl
@[simp] theorem cadEvent_spr (s : State) (bit : Nat) : (cadEvent s bit).spr = s.spr := rfl
@[simp] theorem cadEvent_fab (s : State) (bit : Nat) : (cadEvent s bit).fab = s.fab := rfl
@[simp] theorem cadEvent_parts (s : State) (bit : Nat) : (cadEvent s bit).parts = s.parts := rfl
@[simp] theorem cadEvent_mbxs (s : State) (bit : Nat) : (cadEvent s bit).mbxs = s.mbxs := rfl
@[simp] theorem cadEvent_rennet (s : State) (bit : Nat) : (cadEvent s bit).rennet = s.rennet := rfl
@[simp] theorem cadEvent_bn (s : State) (bit : Nat) : (cadEvent s bit).bn = s.bn := rfl
@[simp] theorem cadEvent_otp (s : State) (bit : Nat) : (cadEvent s bit).otp = s.otp := rfl
@[simp] theorem cadEvent_att (s : State) (bit : Nat) : (cadEvent s bit).att = s.att := rfl
@[simp] theorem cadEvent_rel (s : State) (bit : Nat) : (cadEvent s bit).rel = s.rel := rfl
@[simp] theorem cadEvent_pwr (s : State) (bit : Nat) : (cadEvent s bit).pwr = s.pwr := rfl
@[simp] theorem cadEvent_ports (s : State) (bit : Nat) : (cadEvent s bit).ports = s.ports := rfl
@[simp] theorem cadEvent_crp (s : State) (bit : Nat) : (cadEvent s bit).crp = s.crp := rfl

@[simp] theorem partEvent_chip (s : State) (p bit : Nat) : (partEvent s p bit).chip = s.chip := rfl
@[simp] theorem partEvent_ts (s : State) (p bit : Nat) : (partEvent s p bit).ts = s.ts := rfl
@[simp] theorem partEvent_pending (s : State) (p bit : Nat) : (partEvent s p bit).pending = s.pending := rfl
@[simp] theorem partEvent_freeNo (s : State) (p bit : Nat) : (partEvent s p bit).freeNo = s.freeNo := rfl
@[simp] theorem partEvent_cores (s : State) (p bit : Nat) : (partEvent s p bit).cores = s.cores := rfl
@[simp] theorem partEvent_graphs (s : State) (p bit : Nat) : (partEvent s p bit).graphs = s.graphs := rfl
@[simp] theorem partEvent_nGraphs (s : State) (p bit : Nat) : (partEvent s p bit).nGraphs = s.nGraphs := rfl
@[simp] theorem partEvent_cad (s : State) (p bit : Nat) : (partEvent s p bit).cad = s.cad := rfl
@[simp] theorem partEvent_streams (s : State) (p bit : Nat) : (partEvent s p bit).streams = s.streams := rfl
@[simp] theorem partEvent_mem (s : State) (p bit : Nat) : (partEvent s p bit).mem = s.mem := rfl
@[simp] theorem partEvent_press (s : State) (p bit : Nat) : (partEvent s p bit).press = s.press := rfl
@[simp] theorem partEvent_spr (s : State) (p bit : Nat) : (partEvent s p bit).spr = s.spr := rfl
@[simp] theorem partEvent_fab (s : State) (p bit : Nat) : (partEvent s p bit).fab = s.fab := rfl
@[simp] theorem partEvent_mbxs (s : State) (p bit : Nat) : (partEvent s p bit).mbxs = s.mbxs := rfl
@[simp] theorem partEvent_rennet (s : State) (p bit : Nat) : (partEvent s p bit).rennet = s.rennet := rfl
@[simp] theorem partEvent_bn (s : State) (p bit : Nat) : (partEvent s p bit).bn = s.bn := rfl
@[simp] theorem partEvent_otp (s : State) (p bit : Nat) : (partEvent s p bit).otp = s.otp := rfl
@[simp] theorem partEvent_att (s : State) (p bit : Nat) : (partEvent s p bit).att = s.att := rfl
@[simp] theorem partEvent_rel (s : State) (p bit : Nat) : (partEvent s p bit).rel = s.rel := rfl
@[simp] theorem partEvent_pwr (s : State) (p bit : Nat) : (partEvent s p bit).pwr = s.pwr := rfl
@[simp] theorem partEvent_ports (s : State) (p bit : Nat) : (partEvent s p bit).ports = s.ports := rfl
@[simp] theorem partEvent_crp (s : State) (p bit : Nat) : (partEvent s p bit).crp = s.crp := rfl

@[simp] theorem takeHand_chip (s : State) (p : Nat) : (takeHand s p).chip = s.chip := rfl
@[simp] theorem takeHand_ts (s : State) (p : Nat) : (takeHand s p).ts = s.ts := rfl
@[simp] theorem takeHand_pending (s : State) (p : Nat) : (takeHand s p).pending = s.pending := rfl
@[simp] theorem takeHand_freeNo (s : State) (p : Nat) : (takeHand s p).freeNo = s.freeNo := rfl
@[simp] theorem takeHand_cores (s : State) (p : Nat) : (takeHand s p).cores = s.cores := rfl
@[simp] theorem takeHand_graphs (s : State) (p : Nat) : (takeHand s p).graphs = s.graphs := rfl
@[simp] theorem takeHand_nGraphs (s : State) (p : Nat) : (takeHand s p).nGraphs = s.nGraphs := rfl
@[simp] theorem takeHand_cad (s : State) (p : Nat) : (takeHand s p).cad = s.cad := rfl
@[simp] theorem takeHand_streams (s : State) (p : Nat) : (takeHand s p).streams = s.streams := rfl
@[simp] theorem takeHand_mem (s : State) (p : Nat) : (takeHand s p).mem = s.mem := rfl
@[simp] theorem takeHand_press (s : State) (p : Nat) : (takeHand s p).press = s.press := rfl
@[simp] theorem takeHand_spr (s : State) (p : Nat) : (takeHand s p).spr = s.spr := rfl
@[simp] theorem takeHand_fab (s : State) (p : Nat) : (takeHand s p).fab = s.fab := rfl
@[simp] theorem takeHand_mbxs (s : State) (p : Nat) : (takeHand s p).mbxs = s.mbxs := rfl
@[simp] theorem takeHand_rennet (s : State) (p : Nat) : (takeHand s p).rennet = s.rennet := rfl
@[simp] theorem takeHand_bn (s : State) (p : Nat) : (takeHand s p).bn = s.bn := rfl
@[simp] theorem takeHand_otp (s : State) (p : Nat) : (takeHand s p).otp = s.otp := rfl
@[simp] theorem takeHand_att (s : State) (p : Nat) : (takeHand s p).att = s.att := rfl
@[simp] theorem takeHand_rel (s : State) (p : Nat) : (takeHand s p).rel = s.rel := rfl
@[simp] theorem takeHand_pwr (s : State) (p : Nat) : (takeHand s p).pwr = s.pwr := rfl
@[simp] theorem takeHand_ports (s : State) (p : Nat) : (takeHand s p).ports = s.ports := rfl
@[simp] theorem takeHand_crp (s : State) (p : Nat) : (takeHand s p).crp = s.crp := rfl

@[simp] theorem closePkt_chip (s : State) (p n : Nat) : (closePkt s p n).chip = s.chip := rfl
@[simp] theorem closePkt_ts (s : State) (p n : Nat) : (closePkt s p n).ts = s.ts := rfl
@[simp] theorem closePkt_pending (s : State) (p n : Nat) : (closePkt s p n).pending = s.pending := rfl
@[simp] theorem closePkt_freeNo (s : State) (p n : Nat) : (closePkt s p n).freeNo = s.freeNo := rfl
@[simp] theorem closePkt_cores (s : State) (p n : Nat) : (closePkt s p n).cores = s.cores := rfl
@[simp] theorem closePkt_graphs (s : State) (p n : Nat) : (closePkt s p n).graphs = s.graphs := rfl
@[simp] theorem closePkt_nGraphs (s : State) (p n : Nat) : (closePkt s p n).nGraphs = s.nGraphs := rfl
@[simp] theorem closePkt_cad (s : State) (p n : Nat) : (closePkt s p n).cad = s.cad := rfl
@[simp] theorem closePkt_streams (s : State) (p n : Nat) : (closePkt s p n).streams = s.streams := rfl
@[simp] theorem closePkt_mem (s : State) (p n : Nat) : (closePkt s p n).mem = s.mem := rfl
@[simp] theorem closePkt_press (s : State) (p n : Nat) : (closePkt s p n).press = s.press := rfl
@[simp] theorem closePkt_spr (s : State) (p n : Nat) : (closePkt s p n).spr = s.spr := rfl
@[simp] theorem closePkt_fab (s : State) (p n : Nat) : (closePkt s p n).fab = s.fab := rfl
@[simp] theorem closePkt_mbxs (s : State) (p n : Nat) : (closePkt s p n).mbxs = s.mbxs := rfl
@[simp] theorem closePkt_rennet (s : State) (p n : Nat) : (closePkt s p n).rennet = s.rennet := rfl
@[simp] theorem closePkt_bn (s : State) (p n : Nat) : (closePkt s p n).bn = s.bn := rfl
@[simp] theorem closePkt_otp (s : State) (p n : Nat) : (closePkt s p n).otp = s.otp := rfl
@[simp] theorem closePkt_att (s : State) (p n : Nat) : (closePkt s p n).att = s.att := rfl
@[simp] theorem closePkt_rel (s : State) (p n : Nat) : (closePkt s p n).rel = s.rel := rfl
@[simp] theorem closePkt_pwr (s : State) (p n : Nat) : (closePkt s p n).pwr = s.pwr := rfl
@[simp] theorem closePkt_ports (s : State) (p n : Nat) : (closePkt s p n).ports = s.ports := rfl
@[simp] theorem closePkt_crp (s : State) (p n : Nat) : (closePkt s p n).crp = s.crp := rfl

@[simp] theorem idleStamp_chip (s : State) (cs : List Nat) : (idleStamp s cs).chip = s.chip := rfl
@[simp] theorem idleStamp_ts (s : State) (cs : List Nat) : (idleStamp s cs).ts = s.ts := rfl
@[simp] theorem idleStamp_pending (s : State) (cs : List Nat) : (idleStamp s cs).pending = s.pending := rfl
@[simp] theorem idleStamp_freeNo (s : State) (cs : List Nat) : (idleStamp s cs).freeNo = s.freeNo := rfl
@[simp] theorem idleStamp_cores (s : State) (cs : List Nat) : (idleStamp s cs).cores = s.cores := rfl
@[simp] theorem idleStamp_graphs (s : State) (cs : List Nat) : (idleStamp s cs).graphs = s.graphs := rfl
@[simp] theorem idleStamp_nGraphs (s : State) (cs : List Nat) : (idleStamp s cs).nGraphs = s.nGraphs := rfl
@[simp] theorem idleStamp_cad (s : State) (cs : List Nat) : (idleStamp s cs).cad = s.cad := rfl
@[simp] theorem idleStamp_streams (s : State) (cs : List Nat) : (idleStamp s cs).streams = s.streams := rfl
@[simp] theorem idleStamp_mem (s : State) (cs : List Nat) : (idleStamp s cs).mem = s.mem := rfl
@[simp] theorem idleStamp_press (s : State) (cs : List Nat) : (idleStamp s cs).press = s.press := rfl
@[simp] theorem idleStamp_fab (s : State) (cs : List Nat) : (idleStamp s cs).fab = s.fab := rfl
@[simp] theorem idleStamp_parts (s : State) (cs : List Nat) : (idleStamp s cs).parts = s.parts := rfl
@[simp] theorem idleStamp_mbxs (s : State) (cs : List Nat) : (idleStamp s cs).mbxs = s.mbxs := rfl
@[simp] theorem idleStamp_rennet (s : State) (cs : List Nat) : (idleStamp s cs).rennet = s.rennet := rfl
@[simp] theorem idleStamp_bn (s : State) (cs : List Nat) : (idleStamp s cs).bn = s.bn := rfl
@[simp] theorem idleStamp_otp (s : State) (cs : List Nat) : (idleStamp s cs).otp = s.otp := rfl
@[simp] theorem idleStamp_att (s : State) (cs : List Nat) : (idleStamp s cs).att = s.att := rfl
@[simp] theorem idleStamp_rel (s : State) (cs : List Nat) : (idleStamp s cs).rel = s.rel := rfl
@[simp] theorem idleStamp_pwr (s : State) (cs : List Nat) : (idleStamp s cs).pwr = s.pwr := rfl
@[simp] theorem idleStamp_ports (s : State) (cs : List Nat) : (idleStamp s cs).ports = s.ports := rfl
@[simp] theorem idleStamp_crp (s : State) (cs : List Nat) : (idleStamp s cs).crp = s.crp := rfl

@[simp] theorem State.advance_chip (s : State) (now : W64) : (s.advance now).chip = s.chip := by unfold State.advance; split <;> rfl
@[simp] theorem State.advance_pending (s : State) (now : W64) : (s.advance now).pending = s.pending := by unfold State.advance; split <;> rfl
@[simp] theorem State.advance_freeNo (s : State) (now : W64) : (s.advance now).freeNo = s.freeNo := by unfold State.advance; split <;> rfl
@[simp] theorem State.advance_cores (s : State) (now : W64) : (s.advance now).cores = s.cores := by unfold State.advance; split <;> rfl
@[simp] theorem State.advance_graphs (s : State) (now : W64) : (s.advance now).graphs = s.graphs := by unfold State.advance; split <;> rfl
@[simp] theorem State.advance_nGraphs (s : State) (now : W64) : (s.advance now).nGraphs = s.nGraphs := by unfold State.advance; split <;> rfl
@[simp] theorem State.advance_cad (s : State) (now : W64) : (s.advance now).cad = s.cad := by unfold State.advance; split <;> rfl
@[simp] theorem State.advance_streams (s : State) (now : W64) : (s.advance now).streams = s.streams := by unfold State.advance; split <;> rfl
@[simp] theorem State.advance_mem (s : State) (now : W64) : (s.advance now).mem = s.mem := by unfold State.advance; split <;> rfl
@[simp] theorem State.advance_press (s : State) (now : W64) : (s.advance now).press = s.press := by unfold State.advance; split <;> rfl
@[simp] theorem State.advance_spr (s : State) (now : W64) : (s.advance now).spr = s.spr := by unfold State.advance; split <;> rfl
@[simp] theorem State.advance_fab (s : State) (now : W64) : (s.advance now).fab = s.fab := by unfold State.advance; split <;> rfl
@[simp] theorem State.advance_parts (s : State) (now : W64) : (s.advance now).parts = s.parts := by unfold State.advance; split <;> rfl
@[simp] theorem State.advance_mbxs (s : State) (now : W64) : (s.advance now).mbxs = s.mbxs := by unfold State.advance; split <;> rfl
@[simp] theorem State.advance_rennet (s : State) (now : W64) : (s.advance now).rennet = s.rennet := by unfold State.advance; split <;> rfl
@[simp] theorem State.advance_bn (s : State) (now : W64) : (s.advance now).bn = s.bn := by unfold State.advance; split <;> rfl
@[simp] theorem State.advance_otp (s : State) (now : W64) : (s.advance now).otp = s.otp := by unfold State.advance; split <;> rfl
@[simp] theorem State.advance_att (s : State) (now : W64) : (s.advance now).att = s.att := by unfold State.advance; split <;> rfl
@[simp] theorem State.advance_rel (s : State) (now : W64) : (s.advance now).rel = s.rel := by unfold State.advance; split <;> rfl
@[simp] theorem State.advance_pwr (s : State) (now : W64) : (s.advance now).pwr = s.pwr := by unfold State.advance; split <;> rfl
@[simp] theorem State.advance_ports (s : State) (now : W64) : (s.advance now).ports = s.ports := by unfold State.advance; split <;> rfl
@[simp] theorem State.advance_crp (s : State) (now : W64) : (s.advance now).crp = s.crp := by unfold State.advance; split <;> rfl

/-! ### Counters and block entries change the memory alone -/

/-- A re-encryption counted changes the memory alone, and no block entry. -/
theorem noteReenc_frame (s : State) (again : Bool) : ∃ m, noteReenc s again = { s with mem := m } ∧ m.maps = s.mem.maps := by
  unfold noteReenc; split <;> exact ⟨_, rfl, rfl⟩

/-- A line's counter changes the memory alone, and no block entry. -/
theorem sealLine_frame (s : State) (line : Nat) : ∃ m, sealLine s line = { s with mem := m } ∧ m.maps = s.mem.maps := by
  unfold sealLine
  obtain ⟨m, h, hm⟩ := noteReenc_frame { s with mem.minor0 := (majorRise s.mem.minor0 s.mem.major0 line).1, mem.major0 := (majorRise s.mem.minor0 s.mem.major0 line).2.1 }
    (majorRise s.mem.minor0 s.mem.major0 line).2.2
  exact ⟨m, h, hm⟩

/-- The counters above a line's change the memory alone, and no block entry. -/
theorem sealTree_frame (s : State) (n : Nat) : ∃ m, sealTree s n = { s with mem := m } ∧ m.maps = s.mem.maps := by
  unfold sealTree
  simp only
  obtain ⟨m1, h1, e1⟩ := noteReenc_frame { s with mem.minor1 := (majorRise s.mem.minor1 s.mem.major1 n).1, mem.major1 := (majorRise s.mem.minor1 s.mem.major1 n).2.1 }
    (majorRise s.mem.minor1 s.mem.major1 n).2.2
  rw [h1]
  obtain ⟨m2, h2, e2⟩ := noteReenc_frame { s with mem := { m1 with minor2 := (majorRise m1.minor2 m1.major2 (n / 64)).1
                                                                   major2 := (majorRise m1.minor2 m1.major2 (n / 64)).2.1
                                                                   roots := tmod 0 m1.roots (n / 4096) (· + 1) } } (majorRise m1.minor2 m1.major2 (n / 64)).2.2
  exact ⟨m2, h2, e2.trans e1⟩

/-- A line of the block's own tables written changes the memory alone, and no block entry. -/
theorem sealMeta_frame (s : State) (off : Nat) : ∃ m, sealMeta s off = { s with mem := m } ∧ m.maps = s.mem.maps := by
  unfold sealMeta
  obtain ⟨m1, h1, e1⟩ := sealLine_frame s (off / 64)
  rw [h1]
  obtain ⟨m2, h2, e2⟩ := sealTree_frame { s with mem := m1 } (off / 4096)
  exact ⟨m2, h2, e2.trans e1⟩

/-- A block entry written changes the memory alone, and of the block maps this entry alone. -/
theorem setBlock_frame (s : State) (p b : Nat) (v : Block) :
    ∃ m, s.setBlock p b v = { s with mem := m } ∧ m.maps = tset s.mem.maps p (tset (s.map p) b v) := by
  unfold State.setBlock
  simp only
  split
  · split
    · exact ⟨_, rfl, rfl⟩
    · obtain ⟨m, h, e⟩ := sealMeta_frame { s with mem.maps := tset s.mem.maps p (tset (s.map p) b v)
                                                  mem.btc := if (s.block p b).state = v.state ∧ (s.block p b).res = v.res then s.mem.btc
                                                             else s.mem.btc.filter (fun e => !(e.2.1 == p && e.2.2 == b)) } (btabOff s (by assumption) + b % 1024 * 16)
      exact ⟨m, h, e⟩
  · exact ⟨_, rfl, rfl⟩
@[simp] theorem State.setBlock_chip (s : State) (p b : Nat) (v : Block) : (s.setBlock p b v).chip = s.chip := by obtain ⟨m, h, _⟩ := setBlock_frame s p b v; rw [h]
@[simp] theorem State.setBlock_ts (s : State) (p b : Nat) (v : Block) : (s.setBlock p b v).ts = s.ts := by obtain ⟨m, h, _⟩ := setBlock_frame s p b v; rw [h]
@[simp] theorem State.setBlock_pending (s : State) (p b : Nat) (v : Block) : (s.setBlock p b v).pending = s.pending := by obtain ⟨m, h, _⟩ := setBlock_frame s p b v; rw [h]
@[simp] theorem State.setBlock_freeNo (s : State) (p b : Nat) (v : Block) : (s.setBlock p b v).freeNo = s.freeNo := by obtain ⟨m, h, _⟩ := setBlock_frame s p b v; rw [h]
@[simp] theorem State.setBlock_cores (s : State) (p b : Nat) (v : Block) : (s.setBlock p b v).cores = s.cores := by obtain ⟨m, h, _⟩ := setBlock_frame s p b v; rw [h]
@[simp] theorem State.setBlock_graphs (s : State) (p b : Nat) (v : Block) : (s.setBlock p b v).graphs = s.graphs := by obtain ⟨m, h, _⟩ := setBlock_frame s p b v; rw [h]
@[simp] theorem State.setBlock_nGraphs (s : State) (p b : Nat) (v : Block) : (s.setBlock p b v).nGraphs = s.nGraphs := by obtain ⟨m, h, _⟩ := setBlock_frame s p b v; rw [h]
@[simp] theorem State.setBlock_cad (s : State) (p b : Nat) (v : Block) : (s.setBlock p b v).cad = s.cad := by obtain ⟨m, h, _⟩ := setBlock_frame s p b v; rw [h]
@[simp] theorem State.setBlock_streams (s : State) (p b : Nat) (v : Block) : (s.setBlock p b v).streams = s.streams := by obtain ⟨m, h, _⟩ := setBlock_frame s p b v; rw [h]
@[simp] theorem State.setBlock_press (s : State) (p b : Nat) (v : Block) : (s.setBlock p b v).press = s.press := by obtain ⟨m, h, _⟩ := setBlock_frame s p b v; rw [h]
@[simp] theorem State.setBlock_spr (s : State) (p b : Nat) (v : Block) : (s.setBlock p b v).spr = s.spr := by obtain ⟨m, h, _⟩ := setBlock_frame s p b v; rw [h]
@[simp] theorem State.setBlock_fab (s : State) (p b : Nat) (v : Block) : (s.setBlock p b v).fab = s.fab := by obtain ⟨m, h, _⟩ := setBlock_frame s p b v; rw [h]
@[simp] theorem State.setBlock_parts (s : State) (p b : Nat) (v : Block) : (s.setBlock p b v).parts = s.parts := by obtain ⟨m, h, _⟩ := setBlock_frame s p b v; rw [h]
@[simp] theorem State.setBlock_mbxs (s : State) (p b : Nat) (v : Block) : (s.setBlock p b v).mbxs = s.mbxs := by obtain ⟨m, h, _⟩ := setBlock_frame s p b v; rw [h]
@[simp] theorem State.setBlock_rennet (s : State) (p b : Nat) (v : Block) : (s.setBlock p b v).rennet = s.rennet := by obtain ⟨m, h, _⟩ := setBlock_frame s p b v; rw [h]
@[simp] theorem State.setBlock_bn (s : State) (p b : Nat) (v : Block) : (s.setBlock p b v).bn = s.bn := by obtain ⟨m, h, _⟩ := setBlock_frame s p b v; rw [h]
@[simp] theorem State.setBlock_otp (s : State) (p b : Nat) (v : Block) : (s.setBlock p b v).otp = s.otp := by obtain ⟨m, h, _⟩ := setBlock_frame s p b v; rw [h]
@[simp] theorem State.setBlock_att (s : State) (p b : Nat) (v : Block) : (s.setBlock p b v).att = s.att := by obtain ⟨m, h, _⟩ := setBlock_frame s p b v; rw [h]
@[simp] theorem State.setBlock_rel (s : State) (p b : Nat) (v : Block) : (s.setBlock p b v).rel = s.rel := by obtain ⟨m, h, _⟩ := setBlock_frame s p b v; rw [h]
@[simp] theorem State.setBlock_pwr (s : State) (p b : Nat) (v : Block) : (s.setBlock p b v).pwr = s.pwr := by obtain ⟨m, h, _⟩ := setBlock_frame s p b v; rw [h]
@[simp] theorem State.setBlock_ports (s : State) (p b : Nat) (v : Block) : (s.setBlock p b v).ports = s.ports := by obtain ⟨m, h, _⟩ := setBlock_frame s p b v; rw [h]
@[simp] theorem State.setBlock_crp (s : State) (p b : Nat) (v : Block) : (s.setBlock p b v).crp = s.crp := by obtain ⟨m, h, _⟩ := setBlock_frame s p b v; rw [h]

@[simp] theorem State.modBlock_chip (s : State) (p b : Nat) (f : Block → Block) : (s.modBlock p b f).chip = s.chip := State.setBlock_chip s p b _
@[simp] theorem State.modBlock_ts (s : State) (p b : Nat) (f : Block → Block) : (s.modBlock p b f).ts = s.ts := State.setBlock_ts s p b _
@[simp] theorem State.modBlock_pending (s : State) (p b : Nat) (f : Block → Block) : (s.modBlock p b f).pending = s.pending := State.setBlock_pending s p b _
@[simp] theorem State.modBlock_freeNo (s : State) (p b : Nat) (f : Block → Block) : (s.modBlock p b f).freeNo = s.freeNo := State.setBlock_freeNo s p b _
@[simp] theorem State.modBlock_cores (s : State) (p b : Nat) (f : Block → Block) : (s.modBlock p b f).cores = s.cores := State.setBlock_cores s p b _
@[simp] theorem State.modBlock_graphs (s : State) (p b : Nat) (f : Block → Block) : (s.modBlock p b f).graphs = s.graphs := State.setBlock_graphs s p b _
@[simp] theorem State.modBlock_nGraphs (s : State) (p b : Nat) (f : Block → Block) : (s.modBlock p b f).nGraphs = s.nGraphs := State.setBlock_nGraphs s p b _
@[simp] theorem State.modBlock_cad (s : State) (p b : Nat) (f : Block → Block) : (s.modBlock p b f).cad = s.cad := State.setBlock_cad s p b _
@[simp] theorem State.modBlock_streams (s : State) (p b : Nat) (f : Block → Block) : (s.modBlock p b f).streams = s.streams := State.setBlock_streams s p b _
@[simp] theorem State.modBlock_press (s : State) (p b : Nat) (f : Block → Block) : (s.modBlock p b f).press = s.press := State.setBlock_press s p b _
@[simp] theorem State.modBlock_spr (s : State) (p b : Nat) (f : Block → Block) : (s.modBlock p b f).spr = s.spr := State.setBlock_spr s p b _
@[simp] theorem State.modBlock_fab (s : State) (p b : Nat) (f : Block → Block) : (s.modBlock p b f).fab = s.fab := State.setBlock_fab s p b _
@[simp] theorem State.modBlock_parts (s : State) (p b : Nat) (f : Block → Block) : (s.modBlock p b f).parts = s.parts := State.setBlock_parts s p b _
@[simp] theorem State.modBlock_mbxs (s : State) (p b : Nat) (f : Block → Block) : (s.modBlock p b f).mbxs = s.mbxs := State.setBlock_mbxs s p b _
@[simp] theorem State.modBlock_rennet (s : State) (p b : Nat) (f : Block → Block) : (s.modBlock p b f).rennet = s.rennet := State.setBlock_rennet s p b _
@[simp] theorem State.modBlock_bn (s : State) (p b : Nat) (f : Block → Block) : (s.modBlock p b f).bn = s.bn := State.setBlock_bn s p b _
@[simp] theorem State.modBlock_otp (s : State) (p b : Nat) (f : Block → Block) : (s.modBlock p b f).otp = s.otp := State.setBlock_otp s p b _
@[simp] theorem State.modBlock_att (s : State) (p b : Nat) (f : Block → Block) : (s.modBlock p b f).att = s.att := State.setBlock_att s p b _
@[simp] theorem State.modBlock_rel (s : State) (p b : Nat) (f : Block → Block) : (s.modBlock p b f).rel = s.rel := State.setBlock_rel s p b _
@[simp] theorem State.modBlock_pwr (s : State) (p b : Nat) (f : Block → Block) : (s.modBlock p b f).pwr = s.pwr := State.setBlock_pwr s p b _
@[simp] theorem State.modBlock_ports (s : State) (p b : Nat) (f : Block → Block) : (s.modBlock p b f).ports = s.ports := State.setBlock_ports s p b _
@[simp] theorem State.modBlock_crp (s : State) (p b : Nat) (f : Block → Block) : (s.modBlock p b f).crp = s.crp := State.setBlock_crp s p b _

/-- An event that carries a stamp leaves the timestamp at the later of the two. -/
theorem State.advance_ts (s : State) (now : W64) : (s.advance now).ts = if s.ts.toNat < now.toNat then now else s.ts := by
  unfold State.advance; split <;> rfl

@[simp] theorem State.draw_freeNo (s : State) : s.draw.freeNo = s.freeNo + 1 := rfl

/-! ### Accessors after an update -/

@[simp] theorem core_modCore_same (s : State) (c : Nat) (f : Core → Core) : (s.modCore c f).core c = f (s.core c) := tget_tmod_same _ _ _ _
theorem core_modCore_other (s : State) {c d : Nat} (f : Core → Core) (h : d ≠ c) : (s.modCore c f).core d = s.core d := tget_tmod_other _ _ _ h
@[simp] theorem part_modPart_same (s : State) (p : Nat) (f : Part → Part) : (s.modPart p f).part p = f (s.part p) := tget_tmod_same _ _ _ _
theorem part_modPart_other (s : State) {p q : Nat} (f : Part → Part) (h : q ≠ p) : (s.modPart p f).part q = s.part q := tget_tmod_other _ _ _ h
@[simp] theorem mbx_modMbx_same (s : State) (m : Nat) (f : Mbx → Mbx) : (s.modMbx m f).mbx m = f (s.mbx m) := tget_tmod_same _ _ _ _
theorem mbx_modMbx_other (s : State) {m n : Nat} (f : Mbx → Mbx) (h : n ≠ m) : (s.modMbx m f).mbx n = s.mbx n := tget_tmod_other _ _ _ h
@[simp] theorem stream_modStream_same (s : State) (n : Nat) (f : Stream → Stream) : (s.modStream n f).stream n = f (s.stream n) := tget_tmod_same _ _ _ _
theorem stream_modStream_other (s : State) {n m : Nat} (f : Stream → Stream) (h : m ≠ n) : (s.modStream n f).stream m = s.stream m := tget_tmod_other _ _ _ h
@[simp] theorem port_modPort_same (s : State) (n : Nat) (f : Port → Port) : (s.modPort n f).port n = f (s.port n) := tget_tmod_same _ _ _ _
theorem port_modPort_other (s : State) {n m : Nat} (f : Port → Port) (h : m ≠ n) : (s.modPort n f).port m = s.port m := tget_tmod_other _ _ _ h

@[simp] theorem engine_modEngine_same (s : State) (c e : Nat) (f : Engine → Engine) : (s.modEngine c e f).engine c e = f (s.engine c e) := by
  simp [State.engine, State.modEngine]
theorem engine_modEngine_other (s : State) {c e d g : Nat} (f : Engine → Engine) (h : d ≠ c ∨ g ≠ e) :
    (s.modEngine c e f).engine d g = s.engine d g := by
  unfold State.engine State.modEngine
  by_cases hd : d = c
  · subst hd
    have hg : g ≠ e := by simpa using h
    simp [tget_tmod_other _ _ _ hg]
  · rw [core_modCore_other _ _ hd]
@[simp] theorem ctx_modCtx_same (s : State) (c x : Nat) (f : Ctx → Ctx) : (s.modCtx c x f).ctx c x = f (s.ctx c x) := by
  simp [State.ctx, State.modCtx]
theorem ctx_modCtx_other (s : State) {c x d y : Nat} (f : Ctx → Ctx) (h : d ≠ c ∨ y ≠ x) : (s.modCtx c x f).ctx d y = s.ctx d y := by
  unfold State.ctx State.modCtx
  by_cases hd : d = c
  · subst hd
    have hy : y ≠ x := by simpa using h
    simp [tget_tmod_other _ _ _ hy]
  · rw [core_modCore_other _ _ hd]

@[simp] theorem map_setBlock_same (s : State) (p b : Nat) (v : Block) : (s.setBlock p b v).map p = tset (s.map p) b v := by
  obtain ⟨m, h, e⟩ := setBlock_frame s p b v
  simp [State.map, h, e]
theorem map_setBlock_other (s : State) {p b q : Nat} (v : Block) (hq : q ≠ p) : (s.setBlock p b v).map q = s.map q := by
  obtain ⟨m, h, e⟩ := setBlock_frame s p b v
  simp [State.map, h, e, tget_tset_other _ _ _ hq]
@[simp] theorem block_setBlock_same (s : State) (p b : Nat) (v : Block) : (s.setBlock p b v).block p b = v := by
  simp [State.block]
theorem block_setBlock_other (s : State) {p b q d : Nat} (v : Block) (h : q ≠ p ∨ d ≠ b) : (s.setBlock p b v).block q d = s.block q d := by
  unfold State.block
  by_cases hq : q = p
  · subst hq
    have hd : d ≠ b := by simpa using h
    simp [tget_tset_other _ _ _ hd]
  · rw [map_setBlock_other s v hq]
@[simp] theorem block_modBlock_same (s : State) (p b : Nat) (f : Block → Block) : (s.modBlock p b f).block p b = f (s.block p b) :=
  block_setBlock_same _ _ _ _
theorem block_modBlock_other (s : State) {p b q d : Nat} (f : Block → Block) (h : q ≠ p ∨ d ≠ b) : (s.modBlock p b f).block q d = s.block q d :=
  block_setBlock_other _ _ h

end Sys2Proof.Machine
end

