-- ==== Sys2Proof/Laws/Step.lean ====
section
/-! SUPPORT. How a step and a meaning end: the four shared endings say once what a command's outcome can be, and that the queue and the core count are as they were. -/

namespace Sys2Proof.Machine

/-- A meaning without a stamp answers the effect, with the queue and the core count of the state before. -/
theorem ends_next {s f t : State} (h : ends s f = .next t) : t = { f with pending := s.pending, chip.ncores := s.chip.ncores } := by
  unfold ends at h
  injection h with h
  exact h.symm

@[simp] theorem ends_ne_fault (s f : State) (x : Fault) : ends s f ≠ .fault x := by simp [ends]
@[simp] theorem ends_ne_refused (s f : State) (x : Refusal) : ends s f ≠ .refused x := by simp [ends]

theorem ends_pending {s f t : State} (h : ends s f = .next t) : t.pending = s.pending := by rw [ends_next h]
theorem ends_ncores {s f t : State} (h : ends s f = .next t) : t.ncores = s.ncores := by rw [ends_next h]; rfl

/-- A meaning with a stamp runs at that stamp. -/
theorem endsAt_next {s t : State} {now : W64} {f : State → State} (h : endsAt s now f = .next t) :
    t = { f (s.advance now) with pending := s.pending, chip.ncores := s.chip.ncores } := ends_next h

/-- An event of a core answers its effect where the configuration has the core, and faults where it has not. -/
theorem endsCore_cases (s : State) (c : Nat) (f : State) :
    (c < s.ncores ∧ endsCore s c f = ends s f) ∨ (s.ncores ≤ c ∧ endsCore s c f = .fault .noSuchUnit) := by
  unfold endsCore
  split
  · exact .inl ⟨‹_›, rfl⟩
  · exact .inr ⟨by omega, rfl⟩

theorem endsCore_next {s t : State} {c : Nat} {f : State} (h : endsCore s c f = .next t) :
    c < s.ncores ∧ t = { f with pending := s.pending, chip.ncores := s.chip.ncores } := by
  rcases endsCore_cases s c f with ⟨hc, e⟩ | ⟨-, e⟩ <;> rw [e] at h
  · exact ⟨hc, ends_next h⟩
  · cases h

/-- An event of a core's clocked logic has no effect in a critical trip. -/
theorem endsClocked_next {s t : State} {c : Nat} {f : State} (h : endsClocked s c f = .next t) :
    c < s.ncores ∧ t = { (if s.pwr.trip then s else f) with pending := s.pending, chip.ncores := s.chip.ncores } := endsCore_next h

/-- A step on an empty queue. -/
theorem step_empty {s : State} (h : s.pending = []) : step s = .next (idleTick s) := by simp [step, h]

/-- An idle cycle changes the timestamp and the offset that it slews. -/
theorem idleTick_frame (s : State) : idleTick s = { s with ts := (idleTick s).ts, cad.slew := (idleTick s).cad.slew, cad.slewTs := (idleTick s).cad.slewTs } := by
  unfold idleTick
  simp only []
  split <;> rfl

@[simp] theorem idleTick_pending (s : State) : (idleTick s).pending = s.pending := by rw [idleTick_frame]
@[simp] theorem idleTick_chip (s : State) : (idleTick s).chip = s.chip := by rw [idleTick_frame]

/-- No word spells a command, so the host's placement of a word leaves the state as it is. -/
@[simp] theorem withFetchWord_eq (s : State) (nbits w : Nat) : s.withFetchWord nbits w = s := rfl

end Sys2Proof.Machine
end

