-- ==== Sys2Proof/Machine/Carve.lean ====
section
/-! DEFINITION. What stands in the carve-out, as the integrator's memory holds it: the block tables, the Press map, the tags and counters, and the homes under the live class (R246 to R251, R553 to R556). State keeps the plain contents, the counters, the keys and the tables; every byte of the carve-out follows from them. -/

namespace Sys2Proof.Machine

/-! ### The plain bytes of the tables (R246, R249, R250) -/

/-- A byte of the block map region before encryption: the directories 1, the directories 2, the block tables. -/
def mapByte (s : State) (off : Nat) : Byte :=
  if off < 2097152 then (leBytes 8 (dir1Entry s (off / 32768) (off % 32768 / 8)).toNat).getD (off % 8) 0
  else if off < btabOff s 0 then
    match s.mem.dir2.find? (fun e => e.2 == (off - 2097152) / 8192) with
    | some e => (leBytes 8 (dir2Entry s (e.1 / 4096) (e.1 % 4096 * 1024 + (off - 2097152) % 8192 / 8)).toNat).getD (off % 8) 0
    | none => 0
  else
    let at_ := off - btabOff s 0
    match s.mem.btab.find? (fun e => e.2 == at_ / 16384) with
    | some e => (leBytes 16 (tableEntry s (e.1 / 2 ^ 22) (e.1 % 2 ^ 22 * 1024 + at_ % 16384 / 16)).toNat).getD (off % 16) 0
    | none => 0

/-- The unit of the flash regions at a place of the Press map: the regions follow one another. -/
def pressUnit (s : State) (i : Nat) : Option Nat :=
  ((List.range 64).foldl (fun (acc : Nat × Option Nat) r =>
    let n := 4 * (tget ({} : Region) s.press.regions r).blocks
    (acc.1 + n, if acc.2.isNone && decide (acc.1 ≤ i ∧ i < acc.1 + n) then some (r * 2 ^ 28 + (i - acc.1)) else acc.2)) (0, none)).2

/-- A byte of the Press map and read counters (R246). -/
def pressByte (s : State) (off : Nat) : Byte :=
  let mapLen := flashBytes s / 4096
  if off < mapLen then
    let v : BitVec 32 := match (pressUnit s (off / 4)).bind (tfind s.press.map) with
      | some f => Config.pressEntry f.channel f.ce f.lun f.block f.page
      | none => Config.pressEmpty
    (leBytes 4 v.toNat).getD (off % 4) 0
  else (leBytes 8 (tget ({} : EBlock) s.press.eblocks ((off - mapLen) / 8)).reads).getD (off % 8) 0

/-! ### Counters, keys and tags (R553 to R555) -/

/-- MAJOR of a counter block of a level. -/
def major (s : State) (level n : Nat) : Nat := tget 0 (match level with | 0 => s.mem.major0 | 1 => s.mem.major1 | _ => s.mem.major2) n
/-- A MINOR of a level, by the number of what it counts. -/
def minor (s : State) (level i : Nat) : Nat := tget 0 (match level with | 0 => s.mem.minor0 | 1 => s.mem.minor1 | _ => s.mem.minor2) i

/-- The 64 bytes of a counter block: MAJOR and 64 MINOR fields (R555). -/
def counterBlock (s : State) (level n : Nat) : List Byte :=
  leBytes 64 (major s level n % 2 ^ 64 + (List.range 64).foldl (fun v i => v + minor s level (64 * n + i) % 128 * 2 ^ (64 + 7 * i)) 0)

/-- CB as a number: the line's memory-port address, MAJOR, MINOR and the block's number (R554). -/
def lineCb (s : State) (off mj mn j : Nat) : Nat :=
  ((carveBase s + off) / 64 % 2 ^ 42) * 2 ^ 86 + mj % 2 ^ 64 * 2 ^ 22 + mn % 128 * 2 ^ 15 + j % 4
/-- CB as the cipher's input block: its most significant byte first (DESIGN CHOICE, notes/assumptions/68). -/
def cbBytes (cb : Nat) : List Byte := beBytes 16 cb

/-- K_enc and K_mac of a key index under the label STAS-LIVE (R553): the first and the second half of the derived output. -/
def liveKeys (s : State) (idx : Nat) : List Byte × List Byte :=
  let out := padTo 64 (Config.cmacKdf s.mem.kLive [0x53, 0x54, 0x41, 0x53, 0x2D, 0x4C, 0x49, 0x56, 0x45] (BitVec.ofNat 8 idx :: beBytes 4 (tget 0 s.mem.gen idx).toNat) 64)
  (out.take 32, out.drop 32)

/-- The partition whose extents hold a carve-out block of the remainder (R428). -/
def blockOwner (s : State) (blk : Nat) : Option Nat :=
  (List.range 64).find? (fun p => ((s.part p).extents ++ (s.part p).cacheExt).any (fun e => decide (e.1 ≤ blk ∧ blk < e.1 + e.2)))

/-- The block whose copy a T3-cache slot holds. -/
def slotBlock (s : State) (sl : Nat) : Option Block :=
  (s.mem.maps.flatMap (fun m => m.2.map (·.2))).find? (fun b => decide (b.res = .cache sl))

/-- The key index of a line of the carve-out (R553): 64 for the block's own tables, the partition's for a home or a cached copy; none for the Press map, for the tags and counters, for the stored bytes of a sealed block, and beyond the roots' first 128 GiB (R548, R556). -/
def lineKey (s : State) (off : Nat) : Option Nat :=
  if off < mapsLen s then some 64
  else if off < poolBase s ∨ 137438953472 ≤ off then none
  else
    let blk := (off - poolBase s) / blockBytes
    match slotBlock s blk with
    | some b => if b.isSealed && !b.tagBlk then none else blockOwner s blk
    | none => blockOwner s blk

/-- The 64 plain bytes of the line at an offset of the block maps or of the remainder. -/
def linePlain (s : State) (off : Nat) : List Byte :=
  if off < mapsLen s then (List.range 64).map (fun i => mapByte s (off + i))
  else
    let at_ := off - poolBase s
    match slotBlock s (at_ / blockBytes) with
    | some _ => mread 0 s.mem.sram ((16384 + at_ / blockBytes) * blockBytes + at_ % blockBytes) 64
    | none => mread 0 s.mem.t3 at_ 64

/-- Bytes combined by exclusive or. -/
def xorBytes (a b : List Byte) : List Byte := (a.zip b).map (fun e => e.1 ^^^ e.2)

/-- The key stream of a line under its present counter: AES-256(K_enc, CB) for its four blocks (R554). -/
def lineStream (s : State) (idx off : Nat) : List Byte :=
  let line := off / 64
  (List.range 4).flatMap (fun j => padTo 16 (Config.aes (liveKeys s idx).1 (cbBytes (lineCb s off (major s 0 (line / 64)) (minor s 0 line) j))))

/-- The 64 bytes that stand in memory for a line (R554): encrypted under the live class, or as they are. -/
def lineStored (s : State) (off : Nat) : List Byte :=
  match lineKey s off with
  | some idx => xorBytes (linePlain s off) (lineStream s idx off)
  | none => linePlain s off

/-- The tag of 64 bytes under a key index, an address and a counter: the first 56 bits of the CMAC over them and CB with j = 0, in an 8-byte slot (R554). -/
def tagSlot (s : State) (idx off mj mn : Nat) (stored : List Byte) : List Byte :=
  (padTo 7 ((Config.cmac (liveKeys s idx).2 (stored ++ cbBytes (lineCb s off mj mn 0))).take 7)) ++ [0]

/-- The tag that a line's bytes must have under its present counter. -/
def lineTag (s : State) (idx off : Nat) (stored : List Byte) : List Byte :=
  tagSlot s idx off (major s 0 (off / 4096)) (minor s 0 (off / 64)) stored

/-- The tag of a counter block, under key index 64 with its parent's counter in CB (R555). -/
def counterTag (s : State) (level n : Nat) : List Byte :=
  let parent : Nat × Nat := if level = 2 then ((tget 0 s.mem.roots n).toNat, 0) else (major s (level + 1) (n / 64), minor s (level + 1) n)
  tagSlot s 64 (counterOff s level n) parent.1 parent.2 (counterBlock s level n)

/-- What a sealing engine checks as it reads a line (R552, R554): the tag stored beside it. -/
def lineVerifies (s : State) (off : Nat) (stored tag : List Byte) : Bool :=
  match lineKey s off with
  | some idx => tag == lineTag s idx off stored
  | none => true

/-! ### The tags and counters in the carve-out (R246, R555) -/

/-- A byte of the tags and counters: the lines' tags, the counter blocks of the three levels, the tags of the counter blocks. -/
def sealByte (s : State) (off : Nat) : Byte :=
  let n0 := levelBlocks s 0
  let n1 := levelBlocks s 1
  let n2 := levelBlocks s 2
  let at_ := off - tagBase s
  let ctags := 512 * n0 + 64 * (n0 + n1 + n2)
  let block (level i : Nat) : Byte := (counterBlock s level (idxCounter s level i)).getD (at_ % 64) 0
  let ctag (level i : Nat) : Byte := (counterTag s level (idxCounter s level i)).getD (at_ % 8) 0
  if at_ < 512 * n0 then
    let line := 4096 * idxCounter s 0 (at_ / 512) + 64 * (at_ % 512 / 8)
    match lineKey s line with
    | some idx => (lineTag s idx line (lineStored s line)).getD (at_ % 8) 0
    | none => 0
  else if at_ < ctags then
    let i := (at_ - 512 * n0) / 64
    if i < n0 then block 0 i else if i < n0 + n1 then block 1 (i - n0) else block 2 (i - n0 - n1)
  else
    let i := (at_ - ctags) / 8
    if i < n0 then ctag 0 i else if i < n0 + n1 then ctag 1 (i - n0) else if i < n0 + n1 + n2 then ctag 2 (i - n0 - n1) else 0

/-- The byte that stands at an offset of the carve-out. -/
def carveByte (s : State) (off : Nat) : Byte :=
  if mapsLen s ≤ off ∧ off < tagBase s then pressByte s (off - mapsLen s)
  else if tagBase s ≤ off ∧ off < poolBase s then sealByte s off
  else (lineStored s (off / 64 * 64)).getD (off % 64) 0

end Sys2Proof.Machine
end

