-- ==== Sys2Proof/Tests/Slice0.lean ====
section
/-! SUPPORT. The model's own tests. First the smoke test of WellFormed: for every check a term that it refuses. Then the values of the manual's own worked examples, and single steps whose expected result was worked out by hand from the rules. Then, for every statement with hypotheses, a theorem `witness_<statement>`: for each of its clauses a concrete state and operands that meet the clause's hypotheses together. A value that a clause defines by an equation is given here by that equation's right side. Where a hypothesis speaks of a function of another standard (notes/assumptions/12), no concrete value meets it by evaluation, and the witness covers the other hypotheses. -/

open Sys2Proof Sys2Proof.Machine

namespace Sys2Proof.Tests

set_option Elab.async false

/-! ### Small states -/

/-- The next state of an outcome. -/
def nextOf (o : Host.Outcome State Fault Refusal) : State := match o with | .next t => t | _ => State.reset

/-- A command packet of an opcode, flags, tag, object and parameters (R395). -/
def wpkt (op flags tag : Nat) (obj : Nat) (params : List Byte) : Packet :=
  { bytes := padTo 512 (leBytes 2 op ++ leBytes 2 flags ++ leBytes 4 tag ++ leBytes 2 params.length ++ [0, 0] ++ leBytes 4 obj ++ List.replicate 48 0 ++ params), ring := 0, number := 0 }

/-- A ready partition with an attached session, every right and four mapped homes. -/
def wpart : Part := { session := .attached, state := .ready, rights := 0xFFFFFFFF, cores := 0xFF, cls := 1, weight := 100, cqSize := 6, cqBaseLo := 0x1000, qT1 := 64, qT2 := 64, qT3 := 64, qCtx := 64, extents := [(0, 64)], token := 7
                      rings := [(0, { size := 6 })] }
/-- A block at home in T3. -/
def wblk (n : Nat) : Block := { state := .home, home := .t3 n }
/-- The state after reset with that partition as partition 0 and a started Rennet. -/
def wbase : State := { State.reset with parts := [(0, wpart)], mem.maps := [(0, [(0, wblk 0), (1, wblk 1), (2, wblk 2), (3, wblk 3)])], mem.t3Size := 32, mem.t3Avail := 1000, rennet.step := 15, rennet.boot := .verified, crp.rnt.on := true, crp.pllTs := true }
/-- A packet in hand of partition 0. -/
def whand (s : State) (k : Packet) : State := s.modPart 0 (fun q => { q with inHand := [k], openPkts := [(0, false)] })
/-- Partition 0 about to run a command in its basic form. -/
def wcmd (op obj : Nat) (params : List Byte) : State := whand wbase (wpkt op 0 77 obj params)
/-- The same in expert form. -/
def wcmdx (op obj : Nat) (params : List Byte) : State := whand wbase (wpkt op 1 77 obj params)
/-- A value in 1, 2, 4, 6 or 8 little-endian bytes. -/
def b1 (n : Nat) : List Byte := leBytes 1 n
def b2 (n : Nat) : List Byte := leBytes 2 n
def b4 (n : Nat) : List Byte := leBytes 4 n
def b6 (n : Nat) : List Byte := leBytes 6 n
def b8 (n : Nat) : List Byte := leBytes 8 n
/-- The oldest packet in hand of partition 0. -/
def kOf (s : State) : Packet := (s.part 0).inHand.headD { bytes := [], ring := 0, number := 0 }

/-- The activity of a core at rest, and an empty token, for terms that are ill formed elsewhere. -/
def busyCore : CoreActivity := { cadence := false, tileUnits := 0, convUnits := 0, cycles := 0, matrixBusy := 0, vectorLanes := 0, sramAccesses := 0, moverBytes := 0, portReadBeats := 0, portBeats := 0, parts := [] }
def evTok : EvToken := { raw := [], nonce := [], secboot := false, dbgstat := 0, lifeCycle := 0, integ := none, serial := 0 }

/-! ### WellFormed refuses an ill-formed term for each of its checks -/

/-- Events of core 16 in the reference configuration of 16 cores (R4). -/
theorem test_wf_refuses_core_beyond_count :
    ([.taskDispatch 16, .taskReleaseTime 16 0 0, .operandsReady 16 0, .matmul 16 0, .conv 16 0, .convDw 16 0, .attn 16 0, .attnMerge 16 0, .normRms 16 0,
      .normLayer 16 0, .rope 16 0, .gateExperts 16 0, .combine 16 0, .quant 16 0, .dequant 16 0, .elem 16 0, .reduce 16 0, .topk 16 0, .moveTask 16,
      .decompress 16, .promoteTask 16 0, .waitForCadence 16 0, .waitExpire 16 0 0, .signalTask 16 0, .fabricBarrier 16 0, .tileComplete 16 0 .none,
      .taskDone 16 0, .signalArrive 16 { init := 0x1010, ctx := 0, counter := 0, graph := 0, ptag := 0, runNo := 0 }, .coreDoneArrive 16 0 0, .coreDoneArrive 0 16 0,
      .ctxParity 16 none, .coreReset 16, .engineFence 16 0, .residueRepeatDone 16 0 true, .duplicateDone 16 0 [], .forceWaitExpire 16 0,
      .settleTileDone 16 0 [], .ageRise 16 0 0, .taskDeadline 16 0 0, .barrierTimeout 16 0 0, .droop 16 0, .droopRecover 16 0, .throttleStep 16 0,
      .memResponse 16 (.write 0 true)] : List Instr).all (fun i => !wellFormed 16 i) = true := by decide

/-- Places, sensors, PLLs, domains and ports of core 16. -/
theorem test_wf_refuses_unit_of_missing_core :
    ([.eccCorrected 0 (.t0 16 0) 0, .eccUncorrectable (.checkStore 16 0) 0, .thermalSample (.core 16) 0 0, .thermalTrip (.core 16) 0,
      .pllUnlock (.core 16 false), .spareRelocked (.core 16 true), .pllRelock (.core 16 false), .powerDomainAck (.core 16) true 0,
      .creditReturn (.memory 16) 0] : List Instr).all (fun i => !wellFormed 16 i) = true := by decide

/-- Register offsets that are not a word's, lists of another length than their rule's, and codes out of range. -/
theorem test_wf_refuses_malformed_operands :
    ([.registerWrite (byHost 0) 2 0 0, .latchedReadLo (byHost 0) 1, .getCertificate (.ring 0) 256 0 0, .getCertificate (.ring 0) 0 65536 0, .getCertificate (.ring 0) 0 0 65536,
      .spdmChallenge (.ring 0) 256 (List.replicate 32 0), .spdmChallenge (.ring 0) 0 [], .getMeasurements (.ring 0) 256 false [],
      .getMeasurements (.ring 0) 1 true [], .getMeasurements (.ring 0) 1 false [0], .keyExchange (.ring 0) 256 [], .chunkGet (.ring 0) 256 0,
      .chunkGet (.ring 0) 0 65536, .setHello 1 [] (List.replicate 32 0), .setHello 1 (List.replicate 32 0) [], .setConfirm 1 [], .setDone 1 [] 0,
      .setAbort 1 [] 0, .wake 1 1 0 0, .linkTrained 0 { neigh := 0, neighPort := 0, rate := 3, lanes := 0, capRate := 0, capLanes := 0 } 0,
      .linkTrained 0 { neigh := 0, neighPort := 0, rate := 0, lanes := 3, capRate := 0, capLanes := 0 } 0, .flitReceive 0 { header := 0, bytes := [], crc := 0 } 0,
      .fabLsa 0 { dev := 0, seq := 0, sleeping := false, links := List.replicate 7 { port := 0, neigh := 0, neighPort := 0, lanes := 0, rate := 0, sleep := false } } 0,
      .fabReport 0 0 [], .mgmtMbxSend [] 0, .probeComplete 0 [{ engine := 128, repeatPassed := true, majority := true }], .unFence 0 [{ engine := 128, repeatPassed := true, majority := true }],
      .phaseClassify 16 busyCore, .powerEstimate (List.replicate 17 busyCore) 0,
      .setOffer 1 { token := evTok, kemKey := [], ecPub := [], nonce := [], epoch := 0 },
      .setKey 1 { token := evTok, epoch := 0, ecPub := [], kemCt := [], gcmNonce := [], wrapped := [], tag := List.replicate 16 0 },
      .setKey 1 { token := evTok, epoch := 0, ecPub := [], kemCt := [], gcmNonce := List.replicate 12 0, wrapped := [], tag := [] }] : List Instr).all
      (fun i => !wellFormed 16 i) = true := by decide

/-- Well-formed neighbours of those terms. -/
theorem test_wf_accepts_neighbours :
    ([.taskDispatch 15, .coreDoneArrive 15 15 0, .registerWrite (byHost 0) 4 0 0, .latchedReadLo (byHost 0) 8, .powerDomainAck (.core 15) true 0, .fabReport 0 0 (List.replicate 64 0),
      .wake 2 1 0 0, .setDone 1 (List.replicate 32 0) 0] : List Instr).all (fun i => wellFormed 16 i) = true := by decide

/-- The counts of R4 and one that is none of them. -/
theorem test_legal_core_counts : ([1, 2, 4, 8, 16, 32, 64, 3].map legalCores) = [true, true, true, true, true, true, true, false] := by decide

/-! ### The manual's worked values -/

/-- Chapter 02, a grasp-force vector to MXFP4: 3.7, −1.3, 0.2 and 0.125 with scale byte 0x7E become 0x7, 0xD, 0x1 and 0x0, with SAT. -/
theorem test_mxfp4_worked_example :
    narrowBlock 5 1 ⟨false, false⟩ [0, 0, 0, 0] [0x406CCCCD, 0xBFA66666, 0x3E4CCCCD, 0x3E000000] = (([7, 0xD, 1, 0], 0x7E), noteSat) := by decide +kernel

/-- The same vector in FP8-E4M3 blocks: the scale 0.6167 rounds up to 0.625, code 0x32, and 3.7 becomes 6.0 without saturation. -/
theorem test_fp8_scale_worked_example :
    narrowBlock 5 2 ⟨false, false⟩ [0] [0x406CCCCD] = (([7], 0x32), 0) := by decide +kernel

/-- R87: the six legal metadata codes. -/
theorem test_sparse_codes :
    ((List.range 16).filter (fun c => (metaPos c).isSome)) = [4, 8, 9, 0xC, 0xD, 0xE] ∧ metaPos 0xD = some (1, 3) := by decide

/-- Chapter 06: the ZRUN payload of the example. -/
theorem test_zrun_worked_example : zrun 5 [0x01, 0x7A, 0x3C, 0x83] = some [0x7A, 0x3C, 0, 0, 0, 0] := by decide

/-- R308: LOG8(1,000) is 79, and LOG8(0) is 0. -/
theorem test_log8_worked_example : log8 1000 = 79 ∧ log8 0 = 0 := by decide

/-- The check values of the two CRCs that R284 and R148 name, of the bytes "123456789". -/
theorem test_crc_check_values :
    crc32 [0x31, 0x32, 0x33, 0x34, 0x35, 0x36, 0x37, 0x38, 0x39] = 0xCBF43926 ∧
    crc64 [0x31, 0x32, 0x33, 0x34, 0x35, 0x36, 0x37, 0x38, 0x39] = 0x62EC59E3F1A4F00A := by decide +kernel

/-- Chapter 06: 64 GiB of carve-out and 65,536 erase blocks of 16 MiB leave 909,518 blocks. -/
theorem test_remainder_worked_example :
    remainderBlocks { State.reset with mem.t3Size := 1024, press.channels := 16, press.nblocks := 65536 } = 909518 := by decide +kernel

/-! ### Single steps -/

/-- R408: ECHO completes with DONE, one entry further on the completion ring. -/
theorem test_echo_completes : ((nextOf (exec (.echo 0) (wcmd 0x0103 0xFFFFFFFF []))).part 0).cqTail = 1 := by decide +kernel

/-- Chapter 17's worked example: a doorbell of 0x0011_0000 moves ring 0 to tail 17 and leaves RING_ERR clear. -/
theorem test_doorbell_worked_example :
    (tget {} ((nextOf (exec (.registerWrite (byHost 0) 0x800000 0x00110000 0) wbase)).part 0).rings 0).tail = 17 ∧
    ((nextOf (exec (.registerWrite (byHost 0) 0x800000 0x00110000 0) wbase)).part 0).events.flags = 0 := by decide +kernel

/-- Chapter 05's worked example: a quarter of a beat of 1,000,000 ns after beat 120,400 external time is 0x1_D650_4000. -/
theorem test_external_time_worked_example :
    extTime { wbase with cad.en := true, cad.period := 1000000, cad.periods := [1000000], cad.beats := 120400, cad.beatTs := 0, cad.realTs := 0, ts := 250000 } = 0x1D6504000 := by decide +kernel

/-- Chapter 16's worked example: the operator's cap of 230,000 mW. -/
theorem test_power_cap_worked_example : (nextOf (exec (.powerCap 0) (wcmd 0x0902 0xFFFFFFFF (b4 230000)))).pwr.cap = 230000 := by decide +kernel

/-- R4: the reference configuration has no core 16. -/
theorem test_missing_core_faults : exec (.matmul 16 0) State.reset = .fault .noSuchUnit := by rfl

/-- R20: a write of an unassigned offset does nothing, and its read is 0. -/
theorem test_unassigned_offset : regRead (nextOf (exec (.registerWrite (byIsland 1) 0x3FFFC 7 0) wbase)) 0x3FFFC = 0 := by decide +kernel

/-- R21: of two written flags, one that the hardware sets in the same cycle stays, the other clears, and RECUR counts 1. -/
theorem test_w1c_collision : w1cWrite { flags := 3, recur := 0 } 0xFF 3 1 = { flags := 1, recur := 1 } := by decide

/-- The table gives no row any bits. -/
theorem test_no_word_decodes : decodeTableWord 32 0 = none := by rfl

/-! ### Witnesses of the statements' hypotheses -/

/-- A queue of two well-formed commands, its front a command that answers a next state. -/
def wqueue : State := { wbase with pending := [.echo 0, .taskDispatch 15] }

theorem witness_StepRunsFrontCommand : ∃ (c : Instr) (rest : List Instr) (s : State), s.pending = c :: rest :=
  ⟨.echo 0, [.taskDispatch 15], wqueue, rfl⟩

theorem witness_TimeAndQueue_CommandsRunInOrder : ∃ (c : Instr) (rest : List Instr) (s t : State), s.pending = c :: rest ∧ step s = .next t :=
  ⟨.coreReset 0, [], { wbase with pending := [.coreReset 0] }, kept wbase (nextOf (exec (.coreReset 0) wbase)), rfl, rfl⟩

theorem witness_StepKeepsQueueOk : ∃ s t : State, QueueOk s ∧ step s = .next t :=
  ⟨{ wbase with pending := [.coreReset 0] }, kept wbase (nextOf (exec (.coreReset 0) wbase)), by decide, rfl⟩

theorem witness_OnlyDebugAccessStops : ∃ s : State, QueueOk s ∧ s.pending ≠ [] := ⟨wqueue, by decide, by decide⟩

namespace Basics

def w0 : State := State.reset
def wT : State := { State.reset with pwr.trip := true }
def wO : State := { State.reset with spr.pstate := .o }
def wW : State := { State.reset with spr.pstate := .w }

theorem witness_TimeAndQueue_IdleStepCountsTime :
    (∃ (s : State), s.pending = [] ∧ s.cad.slew.natAbs ≤ 8 ∧ (s.spr.pstate = PState.a ∨ s.spr.pstate = PState.i ∨ s.spr.pstate = PState.t)) ∧
    (∃ (s : State), s.pending = [] ∧ s.cad.slew.natAbs ≤ 8 ∧ s.spr.pstate = PState.o) ∧
    (∃ (s : State), s.pending = [] ∧ s.cad.slew.natAbs ≤ 8 ∧ (s.spr.pstate = PState.w ∨ s.spr.pstate = PState.s)) :=
   ⟨⟨w0, by decide +kernel⟩,
    ⟨wO, by decide +kernel⟩,
    ⟨wW, by decide +kernel⟩⟩

theorem witness_MissingAndStoppedCores_NoSuchCoreFaults :
    ∃ (s : State) (c : CoreId), s.ncores ≤ c.val :=
   ⟨w0, (16 : CoreId), by decide +kernel⟩

theorem witness_MissingAndStoppedCores_TripStopsCoreEvents :
    ∃ (s : State) (c : CoreId), s.pwr.trip = true ∧ c.val < s.ncores :=
   ⟨wT, (15 : CoreId), by decide +kernel⟩

end Basics

namespace Regs

def sMail : State := wbase.modMbx 0 (fun x => { x with out := [0x0001, 0,0,0,0,0,0,0] })
def sMailF : State := wbase.modMbx 0 (fun x => { x with out := [0x0001, 0,0,0,0,0,0,0], outFull := true, sentAt := 5 })
def sMailV : State := wbase.modMbx 0 (fun x => { x with inValid := true })
def sRing : State := wbase.modPart 0 (fun q => { q with rings := [(0, { size := 6, head := 3, tail := 5 })], cqTail := 5, cqHead := 2 })
def sHb : State := wbase.modPart 0 (fun q => { q with hbTs := 10 , heartbeat := 3})
def sPend : State := wbase.modPart 0 (fun q => { q with pend := 8, remap := [(3, 0x10000)] })
def sPort : State := { wbase with fab.ports := [(2, { phyReady := true })] }

theorem witness_RegisterFields_BoundedFieldsKeepTheirRange :
    ∃ (s : State), legalCores s.ncores = true :=
   ⟨wbase, by decide +kernel⟩

theorem witness_PageRegisters_CompletionHeadNeverPassesTail :
    (∃ (s : State) (p : PartId) (h : W16), BitVec.toNat (h - (s.part p.val).cqHead) ≤ BitVec.toNat ((s.part p.val).cqTail - (s.part p.val).cqHead) ∧ (s.part p.val).held = [] ∧ (∀ e ∈ s.graphs, e.2.part = p.val → ∀ (r : Run), e.2.run = some r → r.waiting = false)) ∧
    (∃ (s : State) (p : PartId) (h : W16), BitVec.toNat ((s.part p.val).cqTail - (s.part p.val).cqHead) < BitVec.toNat (h - (s.part p.val).cqHead)) :=
   ⟨⟨sRing, (0 : PartId), (2 : W16), by decide +kernel⟩,
    ⟨sRing, (0 : PartId), (6 : W16), by decide +kernel⟩⟩

theorem witness_DoorbellTakesLegalTails :
    (∃ (s : State) (p : PartId) (r : Fin (OfNat.ofNat 4)) (tail : W16) (g : Machine.Ring), g = tget { baseLo := 0, baseHi := 0, size := 0, head := 0, tail := 0 } (s.part p.val).rings r.val ∧ ((s.part p.val).session = Session.attached ∨ r.val = 0)) ∧
    (∃ (s : State) (p : PartId) (r : Fin (OfNat.ofNat 4)) (tail : W16) (g : Machine.Ring), g = tget { baseLo := 0, baseHi := 0, size := 0, head := 0, tail := 0 } (s.part p.val).rings r.val ∧ (s.part p.val).session ≠ Session.attached ∧ r.val ≠ 0) :=
   ⟨⟨sRing, (0 : PartId), (0 : Fin (OfNat.ofNat 4)), (5 : W16), (tget {} (sRing.part (0 : PartId).val).rings (0 : Fin (OfNat.ofNat 4)).val), by decide +kernel⟩,
    ⟨(sRing.modPart 0 (fun q => {q with session := .none})), (0 : PartId), (1 : Fin (OfNat.ofNat 4)), (5 : W16), (tget {} ((sRing.modPart 0 (fun q => {q with session := .none})).part (0 : PartId).val).rings (1 : Fin (OfNat.ofNat 4)).val), by decide +kernel⟩⟩

theorem witness_ForeignPagesRefuseWrites :
    ∃ (s : State) (p : PartId) (q : PartId) (off : ℕ), legalCores s.ncores = true ∧ p ≠ q ∧ off < 65536 ∧ off % 4 = 0 :=
   ⟨wbase, (0 : PartId), (63 : PartId), (0 : ℕ), by decide +kernel⟩

theorem witness_PageRegisters_HeartbeatKeepsSession :
    (∃ (s : State) (p : PartId) (now : W64), BitVec.toNat s.ts ≤ BitVec.toNat now ∧ (s.part p.val).session = Session.attached ∧ (s.part p.val).hbLimit ≠ 0 ∧ BitVec.toNat (s.part p.val).hbTs + BitVec.toNat (s.part p.val).hbLimit * 1000000 ≤ BitVec.toNat now) ∧
    (∃ (s : State) (p : PartId) (now : W64), BitVec.toNat s.ts ≤ BitVec.toNat now ∧ BitVec.toNat now < BitVec.toNat (s.part p.val).hbTs + BitVec.toNat (s.part p.val).hbLimit * 1000000) :=
   ⟨⟨sHb, (0 : PartId), (250000010 : W64), by decide +kernel⟩,
    ⟨sHb, (0 : PartId), (250000009 : W64), by decide +kernel⟩⟩

theorem witness_RegisterFields_LowReadsLatchHighHalves :
    ∃ (s : State), legalCores s.ncores = true :=
   ⟨wbase, by decide +kernel⟩

theorem witness_Mailboxes_MailboxDoorbells :
    (∃ (s : State) (m : MbxId), (s.mbx m.val).outFull = false ∧ mailCodes.contains (mailCode s m.val) = true) ∧
    (∃ (s : State) (m : MbxId), (s.mbx m.val).outFull = true) ∧
    (∃ (s : State) (m : MbxId), (s.mbx m.val).inValid = true ∧ (s.mbx m.val).reply = none) :=
   ⟨⟨sMail, (0 : MbxId), by decide +kernel⟩,
    ⟨sMailF, (0 : MbxId), by decide +kernel⟩,
    ⟨sMailV, (0 : MbxId), by decide +kernel⟩⟩

theorem witness_Mailboxes_MailboxTimeoutKeepsMessage :
    ∃ (s : State) (m : MbxId) (now : W64), BitVec.toNat s.ts ≤ BitVec.toNat now ∧ (s.mbx m.val).outFull = true ∧ (s.mbx m.val).timeout = false ∧ BitVec.toNat (s.mbx m.val).sentAt + (s.mbx m.val).limit.toNat * 1000 ≤ BitVec.toNat now :=
   ⟨sMailF, (0 : MbxId), (8000005 : W64), by decide +kernel⟩

theorem witness_RegisterFields_SingleRegisterCommands :
    (∃ (s : State) (init : Requester), mayWrite s init 524288 = true) ∧
    (∃ (s : State) (init : Requester) (v : W32), mayWrite s init 65536 = true ∧ v ≠ 42405) ∧
    (∃ (s : State) (init : Requester) (f : FabPort), mayWrite s init (327936 + f.val * 32) = true ∧ (s.port f.val).en = true ∧ (s.port f.val).phyReady = true ∧ (s.port f.val).rateMax ≠ 3 ∧ (s.port f.val).lanesMax ≠ 3 ∧ (s.port f.val).retrainTs = []) :=
   ⟨⟨wbase, (byIsland 1), by decide +kernel⟩,
    ⟨wbase, (byIsland 1), (1 : W32), by decide +kernel⟩,
    ⟨sPort, (byIsland 1), (2 : FabPort), by decide +kernel⟩⟩

theorem witness_PageRegisters_UnmaskingSendsPendingVector :
    (∃ (s : State) (p : PartId) (v : Fin (OfNat.ofNat 256)) (e : W32), (BitVec.getLsbD e 16 = true ∨ (s.part p.val).pend.getLsbD v.val = false ∨ (s.part p.val).state = PartState.resetting ∨ (s.part p.val).session = Session.detached)) ∧
    (∃ (s : State) (p : PartId) (v : Fin (OfNat.ofNat 256)) (e : W32), BitVec.getLsbD e 16 = false ∧ (s.part p.val).pend.getLsbD v.val = true ∧ (s.part p.val).state ≠ PartState.resetting ∧ (s.part p.val).session ≠ Session.detached) :=
   ⟨⟨sPend, (0 : PartId), (3 : Fin (OfNat.ofNat 256)), (0x10000 : W32), by decide +kernel⟩,
    ⟨sPend, (0 : PartId), (3 : Fin (OfNat.ofNat 256)), (0x45 : W32), by decide +kernel⟩⟩

end Regs

namespace Sessions

def hdr (op plen : Nat) (ps : List Byte) : List Byte := leBytes 2 op ++ leBytes 2 0 ++ leBytes 4 9 ++ leBytes 2 plen ++ [0, 0] ++ leBytes 4 0xFFFFFFFF ++ List.replicate 48 0 ++ ps
def sIntake : State :=
  devPut { (wbase.modPart 0 (fun q => { q with rings := [(0, { baseLo := 0x1000, size := 2, head := 1, tail := 2 })] })) with rennet.step := 15 } 0 (0x1000 + 512) (hdr 0x0103 0 [])
def sEcho : State := wcmd 0x0103 0 []
def sEchoHeld : State := (wcmd 0x0103 0 []).modPart 0 (fun q => { q with cqSize := 0 })
def sEchoLost : State := (wcmd 0x0103 0 []).modPart 0 (fun q => { q with cqSize := 0, held := List.replicate 64 {} })
def cp : List Byte := b1 1 ++ b1 1 ++ b2 100 ++ b1 1 ++ b1 0 ++ b2 8 ++ b4 8 ++ b4 8 ++ b4 64 ++ b4 0 ++ b4 0x0F0FFF ++ b4 0
def sCreate : State := wcmd 0x0201 0xFFFFFFFF cp
def part1 (s : State) : State := s.modPart 1 (fun _ => { wpart with session := .none, extents := [(64, 64)], cores := 0x100, qT3 := 64, tileMode := false })
def sResize : State := part1 (wcmd 0x0202 0xFFFFFFFF cp)
def sDestroy : State := part1 (wcmd 0x0203 0xFFFFFFFF (b1 1))
def sReset : State := part1 (wcmd 0x0204 0xFFFFFFFF (b1 1))
def sBad : State := devPut sIntake 0 (0x1000 + 512) (hdr 0x0103 500 [])

theorem witness_PacketsAndCompletions_CompletionsWrittenHeldOrLost :
    (∃ (s : State) (p : PartId) (k : Packet), Starts s p 259 k ∧ ((s.part p.val).held = [] ∧ cqRoom (s.part p.val) = true)) ∧
    (∃ (s : State) (p : PartId) (k : Packet), Starts s p 259 k ∧ (¬((s.part p.val).held = [] ∧ cqRoom (s.part p.val) = true)) ∧ (s.part p.val).held.length < 64) ∧
    (∃ (s : State) (p : PartId) (k : Packet), Starts s p 259 k ∧ (¬((s.part p.val).held = [] ∧ cqRoom (s.part p.val) = true)) ∧ 64 ≤ (s.part p.val).held.length) :=
   ⟨⟨sEcho, (0 : PartId), (kOf sEcho), by decide +kernel⟩,
    ⟨sEchoHeld, (0 : PartId), (kOf sEchoHeld), by decide +kernel⟩,
    ⟨sEchoLost, (0 : PartId), (kOf sEchoLost), by decide +kernel⟩⟩

theorem witness_PacketsAndCompletions_PacketAcceptanceCopiesAndAdvances_1 :
    (∃ (s : State) (p : PartId), intakeFirst s ≠ some p.val) ∧
    (∃ (s : State) (p : PartId) (r : ℕ) (g : Machine.Ring) (k : Packet), intakeFirst s = some p.val ∧ nextRingOf (s.part p.val) = some r ∧ g = tget { baseLo := 0, baseHi := 0, size := 0, head := 0, tail := 0 } (s.part p.val).rings r ∧ k = copyList s p.val { bytes := devRead s p.val (BitVec.toNat g.baseHi * 2 ^ 32 + BitVec.toNat g.baseLo + BitVec.toNat g.head % 2 ^ g.size.toNat * 512) 512, list := none, ring := BitVec.ofNat 2 r, number := (s.part p.val).accepted, ext := BitVec.ofNat 64 (extTime s), beat := none } ∧ headerBad k = none ∧ ((s.part p.val).inHand ≠ [] ∨ firstChecks s p.val k = none)) :=
   ⟨⟨sIntake, (1 : PartId), by decide +kernel⟩,
    ⟨sIntake, (0 : PartId), (0 : ℕ), (tget {} (sIntake.part (0 : PartId).val).rings (0 : ℕ)), ({ bytes := devRead sIntake (0 : PartId).val ((tget {} (sIntake.part (0 : PartId).val).rings (0 : ℕ)).baseHi.toNat * 2 ^ 32 + (tget {} (sIntake.part (0 : PartId).val).rings (0 : ℕ)).baseLo.toNat + ((tget {} (sIntake.part (0 : PartId).val).rings (0 : ℕ)).head.toNat % 2 ^ (tget {} (sIntake.part (0 : PartId).val).rings (0 : ℕ)).size.toNat) * 512) 512, ring := BitVec.ofNat 2 (0 : ℕ), number := (sIntake.part (0 : PartId).val).accepted, ext := BitVec.ofNat 64 (extTime sIntake) } : Packet), by decide +kernel⟩⟩

theorem witness_PacketsAndCompletions_PacketAcceptanceCopiesAndAdvances_2 :
    ∃ (s : State) (p : PartId) (r : ℕ) (off : ℕ) (g : Machine.Ring) (k : Packet) (t : State), intakeFirst s = some p.val ∧ nextRingOf (s.part p.val) = some r ∧ g = tget { baseLo := 0, baseHi := 0, size := 0, head := 0, tail := 0 } (s.part p.val).rings r ∧ k = copyList s p.val { bytes := devRead s p.val (BitVec.toNat g.baseHi * 2 ^ 32 + BitVec.toNat g.baseLo + BitVec.toNat g.head % 2 ^ g.size.toNat * 512) 512, list := none, ring := BitVec.ofNat 2 r, number := (s.part p.val).accepted, ext := BitVec.ofNat 64 (extTime s), beat := none } ∧ headerBad k = some off ∧ (t = s.modPart p.val fun (q : Machine.Part) => { q with rings := tset q.rings r { g with head := g.head + 1 }, accepted := q.accepted + 1, openPkts := q.openPkts ++ [(k.number, pktFence k)], nextRing := BitVec.ofNat 2 (r + 1), btVirt := q.btVirt + 1000 / max 1 q.weight.toNat }) :=
   ⟨sBad, (0 : PartId), (0 : ℕ), (8 : ℕ), (tget {} (sBad.part (0 : PartId).val).rings (0 : ℕ)), ({ bytes := devRead sBad (0 : PartId).val ((tget {} (sBad.part (0 : PartId).val).rings (0 : ℕ)).baseHi.toNat * 2 ^ 32 + (tget {} (sBad.part (0 : PartId).val).rings (0 : ℕ)).baseLo.toNat + ((tget {} (sBad.part (0 : PartId).val).rings (0 : ℕ)).head.toNat % 2 ^ (tget {} (sBad.part (0 : PartId).val).rings (0 : ℕ)).size.toNat) * 512) 512, ring := BitVec.ofNat 2 (0 : ℕ), number := (sBad.part (0 : PartId).val).accepted, ext := BitVec.ofNat 64 (extTime sBad) } : Packet), (sBad.modPart (0 : PartId).val (fun q => { q with rings := tset q.rings (0 : ℕ) { (tget {} (sBad.part (0 : PartId).val).rings (0 : ℕ)) with head := (tget {} (sBad.part (0 : PartId).val).rings (0 : ℕ)).head + 1 }, nextRing := BitVec.ofNat 2 ((0 : ℕ) + 1), accepted := q.accepted + 1, openPkts := q.openPkts ++ [(({ bytes := devRead sBad (0 : PartId).val ((tget {} (sBad.part (0 : PartId).val).rings (0 : ℕ)).baseHi.toNat * 2 ^ 32 + (tget {} (sBad.part (0 : PartId).val).rings (0 : ℕ)).baseLo.toNat + ((tget {} (sBad.part (0 : PartId).val).rings (0 : ℕ)).head.toNat % 2 ^ (tget {} (sBad.part (0 : PartId).val).rings (0 : ℕ)).size.toNat) * 512) 512, ring := BitVec.ofNat 2 (0 : ℕ), number := (sBad.part (0 : PartId).val).accepted, ext := BitVec.ofNat 64 (extTime sBad) } : Packet).number, pktFence ({ bytes := devRead sBad (0 : PartId).val ((tget {} (sBad.part (0 : PartId).val).rings (0 : ℕ)).baseHi.toNat * 2 ^ 32 + (tget {} (sBad.part (0 : PartId).val).rings (0 : ℕ)).baseLo.toNat + ((tget {} (sBad.part (0 : PartId).val).rings (0 : ℕ)).head.toNat % 2 ^ (tget {} (sBad.part (0 : PartId).val).rings (0 : ℕ)).size.toNat) * 512) 512, ring := BitVec.ofNat 2 (0 : ℕ), number := (sBad.part (0 : PartId).val).accepted, ext := BitVec.ofNat 64 (extTime sBad) } : Packet))], btVirt := q.btVirt + 1000 / max 1 q.weight.toNat })), by decide +kernel⟩

theorem witness_PartitionCommandsAndResetEnd_PartitionCommands_1 :
    (∃ (s : State) (p : PartId) (k : Packet) (f : PartForm) (cs : List ℕ) (ext : List (ℕ × ℕ) × List (ℕ × ℕ)), Starts s p 513 k ∧ hasRight s p.val 0 = true ∧ formCheck k 28 40 [(28, 4)] = none ∧ f = readForm (List.drop 64 k.bytes) (pktExpert k) ∧ lackingRight s p.val f.rights = none ∧ firstBad (partFormat f) = none ∧ (firstBad (sortBy (fun (a b : Bool × ℕ) => decide (a.2 < b.2)) (partRange (takeHand s p.val) f [] ++ [(false, 16)])) = none) ∧ formCores (takeHand s p.val) f [] = some cs ∧ placeExtents (takeHand s p.val) [] f.t3 f.cache = some ext ∧ (s.part f.num).state = PartState.absent ∧ f.num ≠ p.val) ∧
    (∃ (s : State) (p : PartId) (k : Packet) (f : PartForm) (cs : List ℕ) (ext : List (ℕ × ℕ) × List (ℕ × ℕ)), Starts s p 514 k ∧ hasRight s p.val 0 = true ∧ formCheck k 28 40 [(28, 4)] = none ∧ f = readForm (List.drop 64 k.bytes) (pktExpert k) ∧ lackingRight s p.val f.rights = none ∧ firstBad (partFormat f) = none ∧ (firstBad (sortBy (fun (a b : Bool × ℕ) => decide (a.2 < b.2)) (partRange (takeHand s p.val) f (coresOf s f.num) ++ [(decide (f.ctx < List.foldl max 0 (List.map (fun (c : ℕ) => usedCtx (takeHand s p.val) f.num c) (coresOf s f.num))), 6), (decide (f.t3 < (homesUsed (takeHand s p.val) f.num).length), 16)])) = none) ∧ formCores (takeHand s p.val) f (coresOf s f.num) = some cs ∧ resizedExtents (takeHand s p.val) f = some ext ∧ (s.part f.num).state = PartState.ready ∧ (s.part f.num).tileMode = (f.tile == 1) ∧ (graphUses s f.num (List.filter (fun (c : ℕ) => !cs.contains c) (coresOf s f.num)) = false)) :=
   ⟨⟨sCreate, (0 : PartId), (kOf sCreate), (readForm ((kOf sCreate).bytes.drop 64) (pktExpert (kOf sCreate))), ((formCores (takeHand sCreate (0 : PartId).val) (readForm ((kOf sCreate).bytes.drop 64) (pktExpert (kOf sCreate))) (coresOf sCreate (readForm ((kOf sCreate).bytes.drop 64) (pktExpert (kOf sCreate))).num)).getD []), ((placeExtents (takeHand sCreate (0 : PartId).val) [] (readForm ((kOf sCreate).bytes.drop 64) (pktExpert (kOf sCreate))).t3 (readForm ((kOf sCreate).bytes.drop 64) (pktExpert (kOf sCreate))).cache).getD ([],[])), by decide +kernel⟩,
    ⟨sResize, (0 : PartId), (kOf sResize), (readForm ((kOf sResize).bytes.drop 64) (pktExpert (kOf sResize))), ((formCores (takeHand sResize (0 : PartId).val) (readForm ((kOf sResize).bytes.drop 64) (pktExpert (kOf sResize))) (coresOf sResize (readForm ((kOf sResize).bytes.drop 64) (pktExpert (kOf sResize))).num)).getD []), ((resizedExtents (takeHand sResize (0 : PartId).val) (readForm ((kOf sResize).bytes.drop 64) (pktExpert (kOf sResize)))).getD ([],[])), by decide +kernel⟩⟩

theorem witness_PartitionCommandsAndResetEnd_PartitionCommands_2 :
    (∃ (s : State) (p : PartId) (k : Packet) (n : ℕ), Starts s p 515 k ∧ hasRight s p.val 0 = true ∧ formCheck k 1 1 [] = none ∧ n = par k 0 1 ∧ n < 64 ∧ (s.part n).state = PartState.ready ∧ startedGraphs s n = [] ∧ lastAdmin s n = false) ∧
    (∃ (s : State) (p : PartId) (k : Packet) (n : ℕ), Starts s p 516 k ∧ (n = p.val ∨ hasRight s p.val 0 = true) ∧ formCheck k 1 1 [] = none ∧ n = par k 0 1 ∧ n < 64 ∧ (s.part n).state = PartState.ready) :=
   ⟨⟨sDestroy, (0 : PartId), (kOf sDestroy), (par (kOf sDestroy) 0 1), by decide +kernel⟩,
    ⟨sReset, (0 : PartId), (kOf sReset), (par (kOf sReset) 0 1), by decide +kernel⟩⟩

theorem witness_PartitionCommandsAndResetEnd_PartitionResetEnds :
    (∃ (s : State) (p : PartId) (now : W64), BitVec.toNat s.ts ≤ BitVec.toNat now ∧ ((s.part p.val).state ≠ PartState.resetting ∨ s.pwr.trip = true)) ∧
    (∃ (s : State) (p : PartId) (now : W64), BitVec.toNat s.ts ≤ BitVec.toNat now ∧ (s.part p.val).state = PartState.resetting ∧ s.pwr.trip = false) :=
   ⟨⟨sEcho, (0 : PartId), (5 : W64), by decide +kernel⟩,
    ⟨(sEcho.modPart 0 (fun q => {q with state := .resetting})), (0 : PartId), (5 : W64), by decide +kernel⟩⟩

end Sessions

namespace Graphs

def det (s : State) : State := s.modPart 0 (fun q => { q with session := .detached })
def non (s : State) : State := s.modPart 0 (fun q => { q with session := .none })
def nor (s : State) : State := s.modPart 0 (fun q => { q with rights := 0 })
def ec (op : Nat) : State := wcmd op 0 []
def sAtt : State := (non (wcmd 0x0101 0xFFFFFFFF (b1 2 ++ b1 0 ++ b1 5 ++ b1 6 ++ b4 0 ++ b8 99))).modPart 0 (fun q => { q with rings := [(0, { baseLo := 0x1000, size := 2 })] })
def sDet : State := wcmd 0x0102 0xFFFFFFFF []
def tsk : List Byte := padTo 112 (b1 7 ++ b1 0 ++ b1 15 ++ b1 0 ++ b2 0 ++ b1 0 ++ b1 0) ++ (List.range 7).flatMap (fun _ => padTo 6 [] ++ b1 255 ++ padTo 9 []) ++ padTo 32 []
def dsc : List Byte := padTo 64 (b2 2 ++ b2 0 ++ b4 1 ++ b1 1 ++ padTo 3 [] ++ b4 0 ++ b8 0x10100 ++ b8 0x10000 ++ b4 0 ++ b4 0xFFFFFFFF)
def sLoad : State := devPut (devPut (wcmd 0x0401 0xFFFFFFFF (b8 0x10000)) 0 0x10000 dsc) 0 0x10100 tsk
def sUnl : State := { wcmd 0x0402 3 [] with graphs := [(3, { ntask := 0, image := 0x2000 })] }
def sRun : State := { wcmd 0x0403 3 (b8 0) with graphs := [(3, { ntask := 0, image := 0x2000, runs := 4 })] }
def sSta : State := { (whand wbase (wpkt 0x0404 8 77 3 [])) with graphs := [(3, { standing := true })], cad.en := true, cad.period := 1000, ts := 5000 }
def sSto : State := { wcmd 0x0405 3 [] with graphs := [(3, { standing := true, started := true, run := some {} }), (4, {})] }
def sLog : State := wcmd 0x0D01 0xFFFFFFFF (b8 0x10000 ++ b1 6 ++ b1 0)
def sLogG : State := wcmd 0x0D01 0xFFFFFFFF (b8 0x10000 ++ b1 6 ++ b1 1)
def sTrc : State := wcmd 0x0D02 0xFFFFFFFF (List.replicate 32 1 ++ b8 0x10000 ++ b1 6)
def okRes (s : State) : GraphDesc × List RawTask × List Nat := match checkImage (takeHand s 0) 0 (parAddr (kOf s) 0) none with | .ok x => x | _ => (readDesc s 0 0, [], [])

theorem witness_SessionCommands_AttachAndDetach :
    (∃ (s : State) (p : PartId) (k : Packet), startable s p.val 257 = some k ∧ (s.part p.val).session = Session.none ∧ formCheck k 16 17 [(4, 4)] = none ∧ (pktExpert k = true → par k 16 1 < 2) ∧ par k 0 1 = 2 ∧ BitVec.ofNat 64 (par k 8 8) ≠ 0 ∧ ringsGood (takeHand s p.val) p.val = true) ∧
    (∃ (s : State) (p : PartId) (k : Packet), Starts s p 258 k ∧ formCheck k 0 0 [] = none ∧ startedGraphs s p.val = []) :=
   ⟨⟨sAtt, (0 : PartId), (kOf sAtt), by decide +kernel⟩,
    ⟨sDet, (0 : PartId), (kOf sDet), by decide +kernel⟩⟩

theorem witness_SessionCommands_CommandsNeedAnAttachedSession :
    (∃ (s : State) (p : PartId) (k : Packet) (i : Instr) (op : ℕ) (ok : Bool) (runs : List ProbeDiff), (i, op) ∈ ringCommands p ok runs ∧ (i = Instr.probe p → s.rel.probe = none) ∧ (i = Instr.portWrite p → par k 1 1 ≠ 1 ∧ par k 1 1 ≠ 2) ∧ (i = Instr.portRetrain p → par k 1 1 = 1) ∧ (i = Instr.clearFixedIdConflict p → par k 1 1 = 2) ∧ startable s p.val op = some k ∧ (s.part p.val).session = Session.detached) ∧
    (∃ (s : State) (p : PartId) (k : Packet) (i : Instr) (op : ℕ) (ok : Bool) (runs : List ProbeDiff), (i, op) ∈ ringCommands p ok runs ∧ (i = Instr.probe p → s.rel.probe = none) ∧ (i = Instr.portWrite p → par k 1 1 ≠ 1 ∧ par k 1 1 ≠ 2) ∧ (i = Instr.portRetrain p → par k 1 1 = 1) ∧ (i = Instr.clearFixedIdConflict p → par k 1 1 = 2) ∧ startable s p.val op = some k ∧ (s.part p.val).session = Session.none) :=
   ⟨⟨(det (ec 0x0102)), (0 : PartId), (kOf (det (ec 0x0102))), (Instr.detach (0 : PartId)), (0x0102 : ℕ), true, ([] : List ProbeDiff), by decide +kernel⟩,
    ⟨(non (ec 0x0102)), (0 : PartId), (kOf (non (ec 0x0102))), (Instr.detach (0 : PartId)), (0x0102 : ℕ), true, ([] : List ProbeDiff), by decide +kernel⟩⟩

theorem witness_SessionCommands_CommandsNeedTheirRights :
    (∃ (s : State) (p : PartId) (k : Packet) (i : Instr) (op : ℕ) (right : ℕ) (ok : Bool) (runs : List ProbeDiff), (i, op, right) ∈ rightCommands p ok runs ∧ (i = Instr.probe p → s.rel.probe = none) ∧ (i = Instr.portWrite p → par k 1 1 ≠ 1 ∧ par k 1 1 ≠ 2) ∧ (i = Instr.portRetrain p → par k 1 1 = 1) ∧ (i = Instr.clearFixedIdConflict p → par k 1 1 = 2) ∧ Starts s p op k ∧ hasRight s p.val right = false) ∧
    (∃ (s : State) (p : PartId) (k : Packet), Starts s p 516 k ∧ par k 0 1 ≠ p.val ∧ hasRight s p.val 0 = false) ∧
    (∃ (s : State) (p : PartId) (k : Packet), Starts s p 3329 k ∧ par k 9 1 = 1 ∧ hasRight s p.val 7 = false) ∧
    (∃ (s : State) (p : PartId) (k : Packet) (i : Instr) (op : ℕ), (i, op) ∈ [(Instr.streamSetUp p, 1537), (Instr.streamRelease p, 1538), (Instr.streamBind p, 1539)] ∧ Starts s p op k ∧ par k 0 1 < 4 ∧ hasRight s p.val (16 + par k 0 1) = false) :=
   ⟨⟨(nor (ec 0x0201)), (0 : PartId), (kOf (nor (ec 0x0201))), (Instr.create (0 : PartId)), (0x0201 : ℕ), (0 : ℕ), true, ([] : List ProbeDiff), by decide +kernel⟩,
    ⟨(nor (wcmd 0x0204 0 (b1 5))), (0 : PartId), (kOf (nor (wcmd 0x0204 0 (b1 5)))), by decide +kernel⟩,
    ⟨(nor (wcmd 0x0D01 0 (b8 0 ++ b1 0 ++ b1 1))), (0 : PartId), (kOf (nor (wcmd 0x0D01 0 (b8 0 ++ b1 0 ++ b1 1)))), by decide +kernel⟩,
    ⟨(nor (wcmd 0x0601 0 (b1 3 ++ b1 1))), (0 : PartId), (kOf (nor (wcmd 0x0601 0 (b1 3 ++ b1 1)))), (Instr.streamSetUp (0 : PartId)), (0x0601 : ℕ), by decide +kernel⟩⟩

theorem witness_GraphCommands :
    (∃ (s : State) (p : PartId) (k : Packet) (x : GraphDesc × List RawTask × List ℕ), Starts s p 1025 k ∧ formCheck k 8 72 [] = none ∧ addrOk k 0 = true ∧ (checkImage (takeHand s p.val) p.val (parAddr k 0) (if pktExpert k = true then some (List.map (fun (x : Byte) => BitVec.toNat x) (parBytes k 8 64)) else none) = Except.ok x)) ∧
    (∃ (s : State) (p : PartId) (k : Packet) (g : Machine.Graph), Starts s p 1026 k ∧ formCheck k 0 0 [] = none ∧ s.graph (BitVec.toNat (pktObj k)) = some g ∧ g.part = p.val ∧ g.run = none ∧ g.started = false) ∧
    (∃ (s : State) (p : PartId) (k : Packet) (g : Machine.Graph), Starts s p 1027 k ∧ formCheck k 8 8 [] = none ∧ s.graph (BitVec.toNat (pktObj k)) = some g ∧ g.part = p.val ∧ g.run = none ∧ g.started = false ∧ pktCadence k = false ∧ downCores s g = []) ∧
    (∃ (s : State) (p : PartId) (k : Packet) (g : Machine.Graph), Starts s p 1028 k ∧ formCheck k 0 0 [] = none ∧ s.graph (BitVec.toNat (pktObj k)) = some g ∧ g.part = p.val ∧ g.run = none ∧ g.started = false ∧ g.standing = true ∧ pktCadence k = true ∧ s.cad.en = true ∧ s.cad.period ≠ 0 ∧ downCores s g = []) ∧
    (∃ (s : State) (p : PartId) (k : Packet) (g : Machine.Graph), Starts s p 1029 k ∧ formCheck k 0 0 [] = none ∧ s.graph (BitVec.toNat (pktObj k)) = some g ∧ g.part = p.val ∧ g.started = true) :=
   ⟨⟨sLoad, (0 : PartId), (kOf sLoad), (okRes sLoad), by decide +kernel⟩,
    ⟨sUnl, (0 : PartId), (kOf sUnl), ((sUnl.graph (pktObj (kOf sUnl)).toNat).getD {}), by decide +kernel⟩,
    ⟨sRun, (0 : PartId), (kOf sRun), ((sRun.graph (pktObj (kOf sRun)).toNat).getD {}), by decide +kernel⟩,
    ⟨sSta, (0 : PartId), (kOf sSta), ((sSta.graph (pktObj (kOf sSta)).toNat).getD {}), by decide +kernel⟩,
    ⟨sSto, (0 : PartId), (kOf sSto), ((sSto.graph (pktObj (kOf sSto)).toNat).getD {}), by decide +kernel⟩⟩

theorem witness_SessionCommands_LogAndTraceRings :
    (∃ (s : State) (p : PartId) (k : Packet), Starts s p 3329 k ∧ formCheck k 10 10 [] = none ∧ addrOk k 0 = true ∧ 6 ≤ par k 8 1 ∧ par k 8 1 ≤ 16 ∧ parAddr k 0 + 32 * 2 ^ par k 8 1 ≤ 2 ^ 48 ∧ ringMapped s p.val (parAddr k 0) (32 * 2 ^ par k 8 1) = true ∧ par k 9 1 = 0) ∧
    (∃ (s : State) (p : PartId) (k : Packet), Starts s p 3329 k ∧ formCheck k 10 10 [] = none ∧ addrOk k 0 = true ∧ 6 ≤ par k 8 1 ∧ par k 8 1 ≤ 16 ∧ parAddr k 0 + 32 * 2 ^ par k 8 1 ≤ 2 ^ 48 ∧ ringMapped s p.val (parAddr k 0) (32 * 2 ^ par k 8 1) = true ∧ par k 9 1 = 1 ∧ hasRight s p.val 7 = true) ∧
    (∃ (s : State) (p : PartId) (k : Packet), Starts s p 3330 k ∧ hasRight s p.val 8 = true ∧ formCheck k 41 41 [] = none ∧ addrOk k 32 = true ∧ 6 ≤ par k 40 1 ∧ par k 40 1 ≤ 16 ∧ parAddr k 32 + 32 * 2 ^ par k 40 1 ≤ 2 ^ 48 ∧ ringMapped s p.val (parAddr k 32) (32 * 2 ^ par k 40 1) = true) :=
   ⟨⟨sLog, (0 : PartId), (kOf sLog), by decide +kernel⟩,
    ⟨sLogG, (0 : PartId), (kOf sLogG), by decide +kernel⟩,
    ⟨sTrc, (0 : PartId), (kOf sTrc), by decide +kernel⟩⟩

end Graphs

namespace Mem

def rng (a n : Nat) : List Byte := b8 (a * 65536) ++ b8 (n * 65536)
def setB (s : State) (b : Nat) (f : Block → Block) : State := { s with mem.maps := tmod [] s.mem.maps 0 (fun m => tmod {} m b f) }
def sMap : State := { wcmd 0x0301 0xFFFFFFFF (rng 8 3 ++ b1 0 ++ b1 8 ++ b2 0 ++ b4 0) with mem.mapRoom := 4 }
def sUn : State := wcmd 0x0302 0xFFFFFFFF (rng 1 2)
def sUnU : State := setB sUn 1 (fun v => { v with users := 1, state := .clean, res := .t2 4 })
def sZero : State := setB (wcmd 0x0303 0xFFFFFFFF (rng 1 3)) 1 (fun v => { v with state := .dirty, res := .t2 4, dirty := 5 })
def sHint : State := wcmd 0x0304 0xFFFFFFFF (rng 0 1 ++ b1 8)
def sUnpin : State := setB (wcmd 0x0307 0xFFFFFFFF (rng 0 4)) 2 (fun v => { v with pin := true })
def sPre : State := wcmd 0x0305 0xFFFFFFFF (rng 0 4)
def sPin : State := wcmd 0x0306 0xFFFFFFFF (rng 0 4)
def sEv0 : State := wcmd 0x0308 0xFFFFFFFF (rng 0 4)
def sEv1 : State := setB (wcmd 0x0308 0xFFFFFFFF (rng 2 1)) 2 (fun v => { v with state := .clean, res := .t1 0 9 })
def sPin0 : State := wcmd 0x0306 0xFFFFFFFF (rng 14 1)
def sEv2 : State := setB (wcmd 0x0308 0xFFFFFFFF (rng 2 1)) 2 (fun v => { v with state := .dirty, dirty := 5, res := .t1 0 9 })
def sFl : State := setB (wcmd 0x0309 0xFFFFFFFF (rng 0 4)) 1 (fun v => { v with state := .dirty, res := .t2 4, dirty := 5 })
def sArm : State := { wcmd 0x030A 3 [] with graphs := [(3, { arming := [({part := 0, tag := 1, opcode := 0x030A, ring := 0, notify := false, packet := 0}, 100)] })] }
def sAp : State := wcmd 0x030B 0xFFFFFFFF (b4 0x3FFFF)
def sFe : State := setB wbase 2 (fun v => { v with state := .fetching, res := .t2 3, landed := 0x7FFF })
def sWb : State := setB wbase 2 (fun v => { v with state := .writeback, res := .t2 3, dirty := 0x8003, inWb := 0x8000 })
def sWb2 : State := setB wbase 2 (fun v => { v with state := .writeback, res := .t2 3, dirty := 0x8003, inWb := 0x8001 })
def sFullD : State := (List.range 61).foldl (fun s i => setB s (10+i) (fun _ => { state := .dirty, dirty := 3, res := .t2 i, home := .t3 (10+i) })) wbase
def sFull : State := (List.range 61).foldl (fun s i => setB s (10+i) (fun _ => { state := .clean, res := .t2 i, home := .t3 (10+i) })) wbase

theorem witness_PlacementAndArm_ArmHoldsCadenceSet :
    (∃ (s : State) (p : PartId) (k : Packet) (g : Machine.Graph) (e : State), Starts s p 778 k ∧ formCheck k 0 4 [] = none ∧ (pktExpert k = true → 1 ≤ par k 0 4 ∧ par k 0 4 ≤ 60000) ∧ s.graph (BitVec.toNat (pktObj k)) = some g ∧ g.part = p.val ∧ queueFull s = false ∧ ((cadenceSet (takeHand s p.val) g).length + (List.filter (fun (e : ℕ × Block) => e.2.pin) (s.map p.val)).length ≤ BitVec.toNat (s.part p.val).qT1 + BitVec.toNat (s.part p.val).qT2)) ∧
    (∃ (s : State) (p : PartId) (h : W32) (now : W64) (g : Machine.Graph), BitVec.toNat s.ts ≤ BitVec.toNat now ∧ s.graph (BitVec.toNat h) = some g ∧ g.part = p.val) ∧
    (∃ (s : State) (p : PartId) (k : Packet), Starts s p 779 k ∧ formCheck k 4 4 [] = none ∧ par k 0 4 < 2 ^ 18) :=
   ⟨⟨sArm, (0 : PartId), (kOf sArm), ((sArm.graph 3).getD {}), ((holdSet (takeHand sArm 0) 3).modGraph 3 (fun g0 => { g0 with arming := g0.arming ++ [(pendOf (0 : PartId) (kOf sArm), sArm.ts + BitVec.ofNat 64 (100 * 1000000))] })), by decide +kernel⟩,
    ⟨sArm, (0 : PartId), (3 : W32), (100 : W64), ((sArm.graph 3).getD {}), by decide +kernel⟩,
    ⟨sAp, (0 : PartId), (kOf sAp), by decide +kernel⟩⟩

theorem witness_FetchWritebackEviction_FetchedSectorsLand :
    (∃ (s : State) (p : PartId) (b : ℕ) (j : Fin (OfNat.ofNat 16)), (s.block p.val b).state = BlockState.fetching ∧ t3Homed s p.val b = true ∧ (s.block p.val b).res ≠ Resident.none ∧ (s.block p.val b).landed ||| BitVec.ofNat 16 (2 ^ j.val) = 65535) ∧
    (∃ (s : State) (p : PartId) (b : ℕ) (j : Fin (OfNat.ofNat 16)), (s.block p.val b).state = BlockState.fetching ∧ t3Homed s p.val b = true ∧ (s.block p.val b).res ≠ Resident.none ∧ (s.block p.val b).landed ||| BitVec.ofNat 16 (2 ^ j.val) ≠ 65535) ∧
    (∃ (s : State) (p : PartId) (b : ℕ), (s.block p.val b).state ≠ BlockState.fetching) :=
   ⟨⟨sFe, (0 : PartId), (2 : ℕ), (15 : Fin (OfNat.ofNat 16)), by decide +kernel⟩,
    ⟨sFe, (0 : PartId), (2 : ℕ), (1 : Fin (OfNat.ofNat 16)), by decide +kernel⟩,
    ⟨sFe, (0 : PartId), (0 : ℕ), by decide +kernel⟩⟩

theorem witness_RangeCommands_MapGivesZeroBlocks :
    (∃ (s : State) (p : PartId) (k : Packet) (i : ℕ), Starts s p 769 k ∧ formCheck k 24 24 [(19, 1)] = none ∧ WholeBlocks k ∧ par k 16 1 = 0 ∧ par k 17 1 ≤ 8 ∧ namedBlocks s p k = [] ∧ (homesUsed s p.val).length + rangeLen k / blockBytes ≤ BitVec.toNat (s.part p.val).qT3 ∧ tablesWith s p.val (parAddr k 0 / blockBytes) (rangeLen k / blockBytes) ≤ s.mem.mapRoom ∧ i < rangeLen k / blockBytes) ∧
    (∃ (s : State) (p : PartId) (k : Packet) (b : ℕ), Starts s p 769 k ∧ formCheck k 24 24 [(19, 1)] = none ∧ WholeBlocks k ∧ par k 16 1 = 0 ∧ par k 17 1 ≤ 8 ∧ namedBlocks s p k = [] ∧ (homesUsed s p.val).length + rangeLen k / blockBytes ≤ BitVec.toNat (s.part p.val).qT3 ∧ tablesWith s p.val (parAddr k 0 / blockBytes) (rangeLen k / blockBytes) ≤ s.mem.mapRoom ∧ (b < parAddr k 0 / blockBytes ∨ parAddr k 0 / blockBytes + rangeLen k / blockBytes ≤ b)) ∧
    (∃ (s : State) (p : PartId) (k : Packet) (q : PartId), Starts s p 769 k ∧ formCheck k 24 24 [(19, 1)] = none ∧ WholeBlocks k ∧ par k 16 1 = 0 ∧ par k 17 1 ≤ 8 ∧ namedBlocks s p k = [] ∧ (homesUsed s p.val).length + rangeLen k / blockBytes ≤ BitVec.toNat (s.part p.val).qT3 ∧ tablesWith s p.val (parAddr k 0 / blockBytes) (rangeLen k / blockBytes) ≤ s.mem.mapRoom ∧ q ≠ p) :=
   ⟨⟨sMap, (0 : PartId), (kOf sMap), (0 : ℕ), by decide +kernel⟩,
    ⟨sMap, (0 : PartId), (kOf sMap), (7 : ℕ), by decide +kernel⟩,
    ⟨sMap, (0 : PartId), (kOf sMap), (1 : PartId), by decide +kernel⟩⟩

theorem witness_PlacementAndArm_PlacementCommands_1 :
    (∃ (s : State) (p : PartId) (k : Packet), WholeBlocks k ∧ (pktExpert k = true → par k 16 1 = 1) ∧ Starts s p 773 k ∧ formCheck k 16 18 [] = none ∧ queueFull s = false) ∧
    (∃ (s : State) (p : PartId) (k : Packet) (e : State) (b : ℕ), WholeBlocks k ∧ (pktExpert k = true → par k 16 1 = 1) ∧ Starts s p 774 k ∧ formCheck k 16 18 [] = none ∧ queueFull s = false ∧ namedBlocks s p k ≠ [] ∧ (4 * ((List.filter (fun (e : ℕ × Block) => e.2.pin) (s.map p.val)).length + (List.filter (fun (b : ℕ) => !(s.block p.val b).pin) (namedBlocks s p k)).length) ≤ 3 * (BitVec.toNat (s.part p.val).qT1 + BitVec.toNat (s.part p.val).qT2)) ∧ b ∈ namedBlocks s p k) ∧
    (∃ (s : State) (p : PartId) (k : Packet), WholeBlocks k ∧ (pktExpert k = true → par k 16 1 = 1) ∧ Starts s p 774 k ∧ formCheck k 16 18 [] = none ∧ namedBlocks s p k = []) ∧
    (∃ (s : State) (p : PartId) (k : Packet), WholeBlocks k ∧ (pktExpert k = true → par k 16 1 = 1) ∧ Starts s p 776 k ∧ formCheck k 16 16 [] = none ∧ (∀ b ∈ namedBlocks s p k, onChip (s.block p.val b) = false ∨ hasUsers s p.val b = true)) ∧
    (∃ (s : State) (p : PartId) (k : Packet) (b : ℕ) (c : ℕ) (slot : ℕ), WholeBlocks k ∧ (pktExpert k = true → par k 16 1 = 1) ∧ Starts s p 776 k ∧ formCheck k 16 16 [] = none ∧ namedBlocks s p k = [b] ∧ hasUsers s p.val b = false ∧ (s.block p.val b).state = BlockState.clean ∧ (s.block p.val b).res = Resident.t1 c slot ∧ evictClass (s.block p.val b) < 3 ∧ t3Homed s p.val b = true) ∧
    (∃ (s : State) (p : PartId) (k : Packet) (b : ℕ), WholeBlocks k ∧ (pktExpert k = true → par k 16 1 = 1) ∧ Starts s p 776 k ∧ formCheck k 16 16 [] = none ∧ namedBlocks s p k = [b] ∧ hasUsers s p.val b = false ∧ (s.block p.val b).state = BlockState.dirty ∧ onChip (s.block p.val b) = true ∧ mustWriteBack s p.val b = true) :=
   ⟨⟨sPre, (0 : PartId), (kOf sPre), by decide +kernel⟩,
    ⟨sPin, (0 : PartId), (kOf sPin), ((namedBlocks sPin (0 : PartId) (kOf sPin)).foldl (fun t b => (bringBlock t { part := (0 : PartId).val, block := b, rank := 5, cls := classOf t (0 : PartId).val, dest := prefetchDest t (0 : PartId).val (kOf sPin) b }).modBlock (0 : PartId) b (fun v => { v with pin := true })) (takeHand sPin 0)), (2 : ℕ), by decide +kernel⟩,
    ⟨sPin0, (0 : PartId), (kOf sPin0), by decide +kernel⟩,
    ⟨sEv0, (0 : PartId), (kOf sEv0), by decide +kernel⟩,
    ⟨sEv1, (0 : PartId), (kOf sEv1), (2 : ℕ), (0 : ℕ), (9 : ℕ), by decide +kernel⟩,
    ⟨sEv2, (0 : PartId), (kOf sEv2), (2 : ℕ), by decide +kernel⟩⟩

theorem witness_PlacementAndArm_PlacementCommands_2 :
    ∃ (s : State) (p : PartId) (k : Packet), WholeBlocks k ∧ (pktExpert k = true → par k 16 1 = 1) ∧ Starts s p 777 k ∧ formCheck k 16 16 [] = none ∧ queueFull s = false :=
   ⟨sFl, (0 : PartId), (kOf sFl), by decide +kernel⟩

theorem witness_RangeCommands_RangeCommandsOverMappedBlocks_1 :
    (∃ (s : State) (p : PartId) (k : Packet) (b : ℕ), WholeBlocks k ∧ Starts s p 770 k ∧ formCheck k 16 16 [] = none ∧ List.find? (hasUsers s p.val) (namedBlocks s p k) = none ∧ b ∈ namedBlocks s p k) ∧
    (∃ (s : State) (p : PartId) (k : Packet) (q : PartId), WholeBlocks k ∧ Starts s p 770 k ∧ formCheck k 16 16 [] = none ∧ List.find? (hasUsers s p.val) (namedBlocks s p k) = none ∧ q ≠ p) ∧
    (∃ (s : State) (p : PartId) (k : Packet) (b : ℕ), WholeBlocks k ∧ Starts s p 770 k ∧ formCheck k 16 16 [] = none ∧ List.find? (hasUsers s p.val) (namedBlocks s p k) = some b) ∧
    (∃ (s : State) (p : PartId) (k : Packet) (b : ℕ), WholeBlocks k ∧ Starts s p 771 k ∧ formCheck k 16 16 [] = none ∧ (List.find? (hasUsers s p.val) (List.filter (fun (b : ℕ) => t3Homed s p.val b || (s.block p.val b).state == BlockState.view) (namedBlocks s p k)) = none) ∧ b ∈ namedBlocks s p k ∧ t3Homed s p.val b = true) ∧
    (∃ (s : State) (p : PartId) (k : Packet) (q : PartId), WholeBlocks k ∧ Starts s p 771 k ∧ formCheck k 16 16 [] = none ∧ (List.find? (hasUsers s p.val) (List.filter (fun (b : ℕ) => t3Homed s p.val b || (s.block p.val b).state == BlockState.view) (namedBlocks s p k)) = none) ∧ q ≠ p) ∧
    (∃ (s : State) (p : PartId) (k : Packet) (b : ℕ), WholeBlocks k ∧ Starts s p 772 k ∧ formCheck k 17 17 [] = none ∧ par k 16 1 ≤ 8 ∧ b ∈ namedBlocks s p k) :=
   ⟨⟨sUn, (0 : PartId), (kOf sUn), (1 : ℕ), by decide +kernel⟩,
    ⟨sUn, (0 : PartId), (kOf sUn), (1 : PartId), by decide +kernel⟩,
    ⟨sUnU, (0 : PartId), (kOf sUnU), (1 : ℕ), by decide +kernel⟩,
    ⟨sZero, (0 : PartId), (kOf sZero), (1 : ℕ), by decide +kernel⟩,
    ⟨sZero, (0 : PartId), (kOf sZero), (1 : PartId), by decide +kernel⟩,
    ⟨sHint, (0 : PartId), (kOf sHint), (0 : ℕ), by decide +kernel⟩⟩

theorem witness_RangeCommands_RangeCommandsOverMappedBlocks_2 :
    (∃ (s : State) (p : PartId) (k : Packet) (b : ℕ), WholeBlocks k ∧ Starts s p 772 k ∧ formCheck k 17 17 [] = none ∧ par k 16 1 ≤ 8 ∧ b ∉ namedBlocks s p k) ∧
    (∃ (s : State) (p : PartId) (k : Packet) (b : ℕ), WholeBlocks k ∧ Starts s p 775 k ∧ formCheck k 16 16 [] = none ∧ b ∈ namedBlocks s p k) ∧
    (∃ (s : State) (p : PartId) (k : Packet) (b : ℕ), WholeBlocks k ∧ Starts s p 775 k ∧ formCheck k 16 16 [] = none ∧ b ∉ namedBlocks s p k) :=
   ⟨⟨sHint, (0 : PartId), (kOf sHint), (1 : ℕ), by decide +kernel⟩,
    ⟨sUnpin, (0 : PartId), (kOf sUnpin), (0 : ℕ), by decide +kernel⟩,
    ⟨sUnpin, (0 : PartId), (kOf sUnpin), (9 : ℕ), by decide +kernel⟩⟩

theorem witness_FetchWritebackEviction_WritebackAndEviction :
    (∃ (s : State) (p : PartId) (b : ℕ) (j : Fin (OfNat.ofNat 16)), (s.block p.val b).state = BlockState.writeback ∧ (s.block p.val b).inWb.getLsbD j.val = true ∧ (s.block p.val b).rewr.getLsbD j.val = false ∧ t3Homed s p.val b = true ∧ (s.block p.val b).res ≠ Resident.none ∧ (s.block p.val b).inWb = BitVec.ofNat 16 (2 ^ j.val) ∧ s.mem.waits = [] ∧ (∀ q ∈ s.mem.queue, q.part = p.val ∧ q.block = b)) ∧
    (∃ (s : State) (p : PartId) (b : ℕ) (j : Fin (OfNat.ofNat 16)) (i : ℕ), (s.block p.val b).state = BlockState.writeback ∧ (s.block p.val b).inWb.getLsbD j.val = true ∧ (s.block p.val b).rewr.getLsbD j.val = false ∧ t3Homed s p.val b = true ∧ (s.block p.val b).res ≠ Resident.none ∧ (s.block p.val b).inWb ≠ BitVec.ofNat 16 (2 ^ j.val) ∧ i ≠ j.val) ∧
    (∃ (s : State) (p : PartId), s.mem.low.toNat * BitVec.toNat (s.part p.val).qT2 ≤ 64 * (BitVec.toNat (s.part p.val).qT2 - (staying s p.val inT2 + ringBlocks s p.val))) ∧
    (∃ (s : State) (p : PartId) (v : ℕ), 64 * (BitVec.toNat (s.part p.val).qT2 - (staying s p.val inT2 + ringBlocks s p.val)) < s.mem.low.toNat * BitVec.toNat (s.part p.val).qT2 ∧ s.mem.low.toNat ≤ s.mem.high.toNat ∧ (victims s p.val inT2).head? = some v ∧ (s.block p.val v).leaving = false ∧ mustWriteBack s p.val v = false) ∧
    (∃ (s : State) (p : PartId) (v : ℕ), 64 * (BitVec.toNat (s.part p.val).qT2 - (staying s p.val inT2 + ringBlocks s p.val)) < s.mem.low.toNat * BitVec.toNat (s.part p.val).qT2 ∧ s.mem.low.toNat ≤ s.mem.high.toNat ∧ (victims s p.val inT2).head? = some v ∧ (s.block p.val v).leaving = false ∧ mustWriteBack s p.val v = true) :=
   ⟨⟨sWb, (0 : PartId), (2 : ℕ), (15 : Fin (OfNat.ofNat 16)), by decide +kernel⟩,
    ⟨sWb2, (0 : PartId), (2 : ℕ), (15 : Fin (OfNat.ofNat 16)), (0 : ℕ), by decide +kernel⟩,
    ⟨sWb, (0 : PartId), by decide +kernel⟩,
    ⟨sFull, (0 : PartId), (((victims sFull (0 : PartId).val (fun r => match r with | .t2 _ => true | _ => false)).head?).getD 0), by decide +kernel⟩,
    ⟨sFullD, (0 : PartId), (((victims sFullD (0 : PartId).val (fun r => match r with | .t2 _ => true | _ => false)).head?).getD 0), by decide +kernel⟩⟩

end Mem

namespace Cad

def sLB : State := wcmd 0x0501 0xFFFFFFFF (b6 12345)
def sLBe : State := { wcmd 0x0501 0xFFFFFFFF (b6 12345) with cad.en := true }
def sCS : State := wcmd 0x0502 0xFFFFFFFF (b1 1 ++ b1 2)
def sCS0 : State := wcmd 0x0502 0xFFFFFFFF (b1 0 ++ b1 2)
def sCSx : State := wcmdx 0x0502 0xFFFFFFFF (b1 1 ++ b1 2 ++ b2 0 ++ b4 0x1248 ++ b2 7 ++ b2 9)
def sCad : State := { wbase with cad.en := true, cad.src := 0, cad.period := 60000, cad.realBeats := 3, cad.beatTs := 1000, cad.realTs := 1000, cad.periods := [60000], ts := 2000 }
def sLost : State := { sCad with cad.lost := true, cad.freewheel := true }
def sEnc : State := { sCad with cad.src := 1, cad.encLast := some 5, cad.encDiv := 4, cad.encAcc := 1 }
def sFab : State := { sCad with cad.src := 2, cad.srcDev := 9 }
def sSync : State := { sCad with fab.en := true, cad.syncFails := 3, cad.synced := true }
def sSync2 : State := { sCad with fab.en := true, cad.syncFails := 2, cad.synced := true }
def sPa : State := { sCad with cad.syncEn := true, fab.en := true, fab.id := 9, fab.ports := [(2, { state := .up, neigh := 3 })], fab.db := [(3, { serial := 4 })], fab.routes := [(3, { valid := true, port := 2 })] }
def sHold : State := { sCad with cad.lossAct := true }
def su : List Byte := b1 1 ++ b1 2 ++ b1 0 ++ b1 0 ++ b4 0 ++ b4 4096 ++ b1 2 ++ padTo 3 [] ++ b8 0x100000 ++ b4 5 ++ b2 30 ++ b2 0
def sSU : State := wcmd 0x0601 0xFFFFFFFF su
def st8 (o : Nat) : Stream := { owned := true, owner := BitVec.ofNat 6 o, slotBytes := 4096, nslots := 2, frames := 4, dropped := 3 }
def sRel : State := { wcmd 0x0602 0xFFFFFFFF (b1 1 ++ b1 2) with streams := [(8, st8 0), (9, st8 1)] }
def sRelO : State := { wcmd 0x0602 0xFFFFFFFF (b1 1 ++ b1 2) with streams := [(8, st8 3), (9, st8 1)] }
def sBind : State := { wcmd 0x0603 0xFFFFFFFF (b1 1 ++ b1 2 ++ b2 0 ++ b4 6 ++ b2 8) with streams := [(8, st8 0), (9, st8 1)] }
def sOwn : State := { wbase with streams := [(8, st8 0), (9, st8 1)], rennet.step := 15 }
def bt (strm : Fin 8) (sof eof : Bool) (nb : BitVec 5) (d : Nat) : StreamBeat :=
  let data : BitVec 256 := BitVec.ofNat 256 d
  { strm := strm, sof := sof, eof := eof, nb := nb, data := data, par := BitVec.ofNat 9 (b2n (oddOnes (strm.val + b2n sof * 8 + b2n eof * 16 + nb.toNat * 32)) * 256 + parityOf 8 data.toNat) }

theorem witness_BeatsAndSynchronisation_BeatsCountAndStamp_1 :
    (∃ (s : State) (stamp : W64) (rising : Bool), s.cad.en = true ∧ s.fab.en = false ∧ s.cad.src = 0 ∧ rising ≠ s.cad.edge ∧ tooEarly s (stamp - 3) = false ∧ s.cad.lost = false) ∧
    (∃ (s : State) (rising : Bool), s.cad.en = true ∧ s.fab.en = false ∧ s.cad.src = 0 ∧ rising = s.cad.edge) ∧
    (∃ (s : State) (stamp : W64) (rising : Bool), s.cad.en = true ∧ s.fab.en = false ∧ s.cad.src = 0 ∧ rising ≠ s.cad.edge ∧ tooEarly s (stamp - 3) = true) ∧
    (∃ (s : State) (stamp : W64) (rising : Bool), s.cad.en = true ∧ s.fab.en = false ∧ s.cad.src = 0 ∧ rising ≠ s.cad.edge ∧ tooEarly s (stamp - 3) = false ∧ s.cad.lost = true) ∧
    (∃ (s : State) (stamp : W64) (count : W32) (last : W32), s.cad.en = true ∧ s.fab.en = false ∧ s.cad.src = 1 ∧ s.cad.encLast = some last ∧ s.cad.encDiv ≠ 0 ∧ s.cad.encDir = false ∧ (BitVec.toNat s.cad.encDiv).cast ≤ s.cad.encAcc + BitVec.toInt (count - last) ∧ tooEarly s stamp = false) ∧
    (∃ (s : State) (count : W32) (last : W32), s.cad.en = true ∧ s.fab.en = false ∧ s.cad.src = 1 ∧ s.cad.encLast = some last ∧ s.cad.encDiv ≠ 0 ∧ s.cad.encDir = false ∧ s.cad.encAcc + BitVec.toInt (count - last) < (BitVec.toNat s.cad.encDiv).cast) :=
   ⟨⟨sCad, (70000 : W64), true, by decide +kernel⟩,
    ⟨sCad, false, by decide +kernel⟩,
    ⟨sCad, (20000 : W64), true, by decide +kernel⟩,
    ⟨sLost, (70000 : W64), true, by decide +kernel⟩,
    ⟨sEnc, (70000 : W64), (8 : W32), (5 : W32), by decide +kernel⟩,
    ⟨sEnc, (6 : W32), (5 : W32), by decide +kernel⟩⟩

theorem witness_BeatsAndSynchronisation_BeatsCountAndStamp_2 :
    ∃ (s : State) (src : DevId) (beats : W64), s.cad.en = true ∧ s.fab.en = false ∧ s.cad.src = 2 ∧ s.cad.srcDev.toNat = src.val ∧ s.fab.conflict = false ∧ s.pwr.trip = false ∧ BitVec.toNat beats < 2 ^ 48 :=
   ⟨sFab, (9 : DevId), (123 : W64), by decide +kernel⟩

theorem witness_CadenceCommands :
    (∃ (s : State) (p : PartId) (k : Packet), hasRight s p.val 1 = true ∧ Starts s p 1281 k ∧ formCheck k 6 6 [] = none ∧ s.cad.en = false) ∧
    (∃ (s : State) (p : PartId) (k : Packet), hasRight s p.val 1 = true ∧ Starts s p 1281 k ∧ formCheck k 6 6 [] = none ∧ s.cad.en = true) ∧
    (∃ (s : State) (p : PartId) (k : Packet), hasRight s p.val 1 = true ∧ Starts s p 1282 k ∧ formCheck k 2 12 [(2, 2)] = none ∧ par k 0 1 ≤ 1 ∧ par k 1 1 ≤ 2 ∧ (pktExpert k = true → par k 4 4 < 2 ^ 13 ∧ par k 10 2 < 1024 ∧ nbits (par k 4 4) 6 4 ≤ 4 ∧ 2 ≤ nbits (par k 4 4) 11 8) ∧ pktExpert k = false) ∧
    (∃ (s : State) (p : PartId) (k : Packet), hasRight s p.val 1 = true ∧ Starts s p 1282 k ∧ formCheck k 2 12 [(2, 2)] = none ∧ par k 0 1 ≤ 1 ∧ par k 1 1 ≤ 2 ∧ (pktExpert k = true → par k 4 4 < 2 ^ 13 ∧ par k 10 2 < 1024 ∧ nbits (par k 4 4) 6 4 ≤ 4 ∧ 2 ≤ nbits (par k 4 4) 11 8) ∧ s.cad.en = false ∧ par k 0 1 = 1) ∧
    (∃ (s : State) (p : PartId) (k : Packet), hasRight s p.val 1 = true ∧ Starts s p 1282 k ∧ formCheck k 2 12 [(2, 2)] = none ∧ par k 0 1 ≤ 1 ∧ par k 1 1 ≤ 2 ∧ (pktExpert k = true → par k 4 4 < 2 ^ 13 ∧ par k 10 2 < 1024 ∧ nbits (par k 4 4) 6 4 ≤ 4 ∧ 2 ≤ nbits (par k 4 4) 11 8) ∧ s.cad.en = false ∧ par k 0 1 = 0) ∧
    (∃ (s : State) (p : PartId) (k : Packet), hasRight s p.val 1 = true ∧ Starts s p 1282 k ∧ formCheck k 2 12 [(2, 2)] = none ∧ par k 0 1 ≤ 1 ∧ par k 1 1 ≤ 2 ∧ (pktExpert k = true → par k 4 4 < 2 ^ 13 ∧ par k 10 2 < 1024 ∧ nbits (par k 4 4) 6 4 ≤ 4 ∧ 2 ≤ nbits (par k 4 4) 11 8) ∧ pktExpert k = true) :=
   ⟨⟨sLB, (0 : PartId), (kOf sLB), by decide +kernel⟩,
    ⟨sLBe, (0 : PartId), (kOf sLBe), by decide +kernel⟩,
    ⟨sCS, (0 : PartId), (kOf sCS), by decide +kernel⟩,
    ⟨sCS, (0 : PartId), (kOf sCS), by decide +kernel⟩,
    ⟨sCS0, (0 : PartId), (kOf sCS0), by decide +kernel⟩,
    ⟨sCSx, (0 : PartId), (kOf sCSx), by decide +kernel⟩⟩

theorem witness_BeatsAndSynchronisation_LossAndSynchronisation_1 :
    (∃ (s : State) (now : W64), BitVec.toNat s.ts ≤ BitVec.toNat now ∧ s.cad.en = true ∧ s.cad.lost = false ∧ s.cad.period ≠ 0 ∧ BitVec.toNat s.cad.realTs + s.cad.lossBeats.toNat * BitVec.toNat s.cad.period ≤ BitVec.toNat now ∧ s.cad.lossAct = false) ∧
    (∃ (s : State) (now : W64), BitVec.toNat s.ts ≤ BitVec.toNat now ∧ s.cad.en = true ∧ s.cad.freewheel = true ∧ BitVec.toNat s.cad.beatTs + BitVec.toNat s.cad.period ≤ BitVec.toNat now) ∧
    (∃ (s : State) (now : W64), BitVec.toNat s.ts ≤ BitVec.toNat now ∧ s.cad.syncEn = true ∧ s.fab.en = true ∧ BitVec.toNat now < BitVec.toNat s.cad.syncTs + 125000 * 2 ^ s.cad.interval.toNat) ∧
    (∃ (s : State) (now : W64), BitVec.toNat s.ts ≤ BitVec.toNat now ∧ s.cad.syncEn = true ∧ s.fab.en = true ∧ BitVec.toNat s.cad.syncTs + 125000 * 2 ^ s.cad.interval.toNat ≤ BitVec.toNat now ∧ 3 ≤ s.cad.syncFails) ∧
    (∃ (s : State) (now : W64), BitVec.toNat s.ts ≤ BitVec.toNat now ∧ s.cad.syncEn = true ∧ s.fab.en = true ∧ BitVec.toNat s.cad.syncTs + 125000 * 2 ^ s.cad.interval.toNat ≤ BitVec.toNat now ∧ s.cad.syncFails < 3) ∧
    (∃ (s : State) (now : W64), BitVec.toNat s.ts ≤ BitVec.toNat now ∧ s.cad.en = true ∧ s.cad.lost = false ∧ s.cad.period ≠ 0 ∧ BitVec.toNat s.cad.realTs + s.cad.lossBeats.toNat * BitVec.toNat s.cad.period ≤ BitVec.toNat now ∧ s.cad.lossAct = true) :=
   ⟨⟨sCad, (400000 : W64), by decide +kernel⟩,
    ⟨sLost, (400000 : W64), by decide +kernel⟩,
    ⟨sSync, (400000 : W64), by decide +kernel⟩,
    ⟨sSync, (900000000 : W64), by decide +kernel⟩,
    ⟨sSync2, (900000000 : W64), by decide +kernel⟩,
    ⟨sHold, (400000 : W64), by decide +kernel⟩⟩

theorem witness_BeatsAndSynchronisation_LossAndSynchronisation_2 :
    (∃ (s : State) (now : W64) (msg : SyncMsg) (f : ℕ) (q : ℤ), BitVec.toNat s.ts ≤ BitVec.toNat now ∧ s.cad.syncEn = true ∧ s.pwr.trip = false ∧ syncPort s = some f ∧ q = syncOffset s f msg ∧ msg.src.val = (s.port f).neigh.toNat ∧ 4000 < q) ∧
    (∃ (s : State) (now : W64) (msg : SyncMsg) (f : ℕ) (q : ℤ), BitVec.toNat s.ts ≤ BitVec.toNat now ∧ s.cad.syncEn = true ∧ s.pwr.trip = false ∧ syncPort s = some f ∧ q = syncOffset s f msg ∧ msg.src.val = (s.port f).neigh.toNat ∧ q ≤ 4000) ∧
    (∃ (s : State) (now : W64) (msg : SyncMsg) (f : ℕ) (q : ℤ), BitVec.toNat s.ts ≤ BitVec.toNat now ∧ s.cad.syncEn = true ∧ s.pwr.trip = false ∧ syncPort s = some f ∧ q = syncOffset s f msg ∧ msg.src.val ≠ (s.port f).neigh.toNat) :=
   ⟨⟨sPa, (400000 : W64), ({ src := 3, sent := 1000, recv := 9000, reply := 10000, now := 11000} : SyncMsg), (2 : ℕ), (syncOffset sPa (2 : ℕ) ({ src := 3, sent := 1000, recv := 9000, reply := 10000, now := 11000} : SyncMsg)), by decide +kernel⟩,
    ⟨sPa, (400000 : W64), ({ src := 3, sent := 1000, recv := 1003, reply := 10000, now := 10003} : SyncMsg), (2 : ℕ), (syncOffset sPa (2 : ℕ) ({ src := 3, sent := 1000, recv := 1003, reply := 10000, now := 10003} : SyncMsg)), by decide +kernel⟩,
    ⟨sPa, (400000 : W64), ({src := 4, sent := 1000, recv := 1003, reply := 10000, now := 10003} : SyncMsg), (2 : ℕ), (syncOffset sPa (2 : ℕ) ({src := 4, sent := 1000, recv := 1003, reply := 10000, now := 10003} : SyncMsg)), by decide +kernel⟩⟩

theorem witness_RepliesChangeOnlyRingLogAndPort :
    ∃ (p : ℕ) (q : ℕ), q ≠ p :=
   ⟨(0 : ℕ), (1 : ℕ), by decide +kernel⟩

theorem witness_Streams_StreamBeats_1 :
    (∃ (s : State) (port : Fin (OfNat.ofNat 4)) (b : StreamBeat) (n : ℕ) (i : ℕ), n = 6 * port.val + b.strm.val ∧ s.spr.pstate = PState.a ∧ s.pwr.trip = false ∧ b.par.getLsbD 8 = oddOnes (b.strm.val + b2n b.sof * 8 + b2n b.eof * 16 + b.nb.toNat * 32) ∧ parityOf 8 b.data.toNat = b.par.toNat % 256 ∧ b.strm.val < 6 ∧ (s.stream n).owned = true ∧ (s.stream n).cut = false ∧ (s.stream n).tap = false ∧ (s.stream n).inFrame = false ∧ b.sof = true ∧ b.eof = true ∧ b.nb = 0 ∧ 32 ≤ (s.stream n).slotBytes ∧ (s.stream n).lastSeq = none ∧ (s.stream n).suspended = false ∧ Mem.wf 0 (tget { ts := 0, ext := 0, seq := 0, len := 0, complete := false, trunc := false, gap := false, linkErr := false, dur := 0, used := false, data := [] } (s.stream n).slots (nextSlot (s.stream n))).data = true ∧ i < 32) ∧
    (∃ (s : State) (port : Fin (OfNat.ofNat 4)) (b : StreamBeat) (n : ℕ) (m : ℕ), n = 6 * port.val + b.strm.val ∧ s.spr.pstate = PState.a ∧ s.pwr.trip = false ∧ b.par.getLsbD 8 = oddOnes (b.strm.val + b2n b.sof * 8 + b2n b.eof * 16 + b.nb.toNat * 32) ∧ parityOf 8 b.data.toNat = b.par.toNat % 256 ∧ b.strm.val < 6 ∧ (s.stream n).owned = true ∧ (s.stream n).cut = false ∧ (s.stream n).tap = false ∧ (s.stream n).inFrame = false ∧ b.sof = true ∧ b.eof = true ∧ b.nb = 0 ∧ 32 ≤ (s.stream n).slotBytes ∧ (s.stream n).lastSeq = none ∧ (s.stream n).suspended = false ∧ Mem.wf 0 (tget { ts := 0, ext := 0, seq := 0, len := 0, complete := false, trunc := false, gap := false, linkErr := false, dur := 0, used := false, data := [] } (s.stream n).slots (nextSlot (s.stream n))).data = true ∧ m ≠ n) ∧
    (∃ (s : State) (port : Fin (OfNat.ofNat 4)) (b : StreamBeat) (n : ℕ), n = 6 * port.val + b.strm.val ∧ s.spr.pstate = PState.a ∧ s.pwr.trip = false ∧ b.par.getLsbD 8 = oddOnes (b.strm.val + b2n b.sof * 8 + b2n b.eof * 16 + b.nb.toNat * 32) ∧ parityOf 8 b.data.toNat = b.par.toNat % 256 ∧ 6 ≤ b.strm.val) :=
   ⟨⟨sOwn, (1 : Fin (OfNat.ofNat 4)), (bt 2 true true 0 12345678901234567890), (8 : ℕ), (0 : ℕ), by decide +kernel⟩,
    ⟨sOwn, (1 : Fin (OfNat.ofNat 4)), (bt 2 true true 0 12345678901234567890), (8 : ℕ), (9 : ℕ), by decide +kernel⟩,
    ⟨sOwn, (1 : Fin (OfNat.ofNat 4)), (bt 6 true true 0 3), (12 : ℕ), by decide +kernel⟩⟩

theorem witness_Streams_StreamBeats_2 :
    (∃ (s : State) (port : Fin (OfNat.ofNat 4)) (b : StreamBeat) (n : ℕ) (m : ℕ), n = 6 * port.val + b.strm.val ∧ s.spr.pstate = PState.a ∧ s.pwr.trip = false ∧ b.par.getLsbD 8 = oddOnes (b.strm.val + b2n b.sof * 8 + b2n b.eof * 16 + b.nb.toNat * 32) ∧ parityOf 8 b.data.toNat = b.par.toNat % 256 ∧ b.strm.val < 6 ∧ (s.stream n).owned = false ∧ b.sof = true ∧ m ≠ n) ∧
    (∃ (s : State) (port : Fin (OfNat.ofNat 4)) (b : StreamBeat) (n : ℕ), n = 6 * port.val + b.strm.val ∧ s.spr.pstate = PState.a ∧ s.pwr.trip = false ∧ b.par.getLsbD 8 = oddOnes (b.strm.val + b2n b.sof * 8 + b2n b.eof * 16 + b.nb.toNat * 32) ∧ parityOf 8 b.data.toNat = b.par.toNat % 256 ∧ b.strm.val < 6 ∧ (s.stream n).owned = false ∧ b.sof = false) :=
   ⟨⟨wbase, (1 : Fin (OfNat.ofNat 4)), (bt 2 true true 0 12345678901234567890), (8 : ℕ), (9 : ℕ), by decide +kernel⟩,
    ⟨wbase, (1 : Fin (OfNat.ofNat 4)), (bt 2 false true 0 3), (8 : ℕ), by decide +kernel⟩⟩

theorem witness_Streams_StreamCommands :
    (∃ (s : State) (p : PartId) (k : Packet) (n : ℕ) (m : ℕ), par k 0 1 < 4 ∧ par k 1 1 < 6 ∧ n = 6 * par k 0 1 + par k 1 1 ∧ hasRight s p.val (16 + par k 0 1) = true ∧ Starts s p 1537 k ∧ formCheck k 32 32 [(3, 1), (13, 3)] = none ∧ par k 2 1 = 0 ∧ addrOk k 16 = true ∧ 4096 ≤ par k 8 4 ∧ par k 8 4 ≤ 4194304 ∧ par k 8 4 % 4096 = 0 ∧ 2 ≤ par k 12 1 ∧ par k 12 1 ≤ 64 ∧ parAddr k 16 % blockBytes = 0 ∧ parAddr k 16 + ceilDiv (par k 8 4 + 32) blockBytes * blockBytes ≤ 2 ^ 48 ∧ par k 30 2 = 0 ∧ ringBlocks s p.val + ceilDiv (par k 12 1 * (par k 8 4 + 32)) blockBytes ≤ BitVec.toNat (s.part p.val).qT2 ∧ (s.stream n).owned = false ∧ (∀ b ∈ viewBlocks (parAddr k 16) (par k 8 4), (s.block p.val b).state = BlockState.unmapped) ∧ m ≠ n) ∧
    (∃ (s : State) (p : PartId) (k : Packet) (n : ℕ) (m : ℕ), par k 0 1 < 4 ∧ par k 1 1 < 6 ∧ n = 6 * par k 0 1 + par k 1 1 ∧ hasRight s p.val (16 + par k 0 1) = true ∧ Starts s p 1538 k ∧ formCheck k 2 2 [] = none ∧ (s.stream n).owned = true ∧ (s.stream n).owner.toNat = p.val ∧ m ≠ n) ∧
    (∃ (s : State) (p : PartId) (k : Packet) (n : ℕ), par k 0 1 < 4 ∧ par k 1 1 < 6 ∧ n = 6 * par k 0 1 + par k 1 1 ∧ hasRight s p.val (16 + par k 0 1) = true ∧ Starts s p 1538 k ∧ formCheck k 2 2 [] = none ∧ (s.stream n).owned = true ∧ (s.stream n).owner.toNat ≠ p.val) ∧
    (∃ (s : State) (p : PartId) (k : Packet) (n : ℕ), par k 0 1 < 4 ∧ par k 1 1 < 6 ∧ n = 6 * par k 0 1 + par k 1 1 ∧ hasRight s p.val (16 + par k 0 1) = true ∧ Starts s p 1539 k ∧ formCheck k 10 10 [(2, 2)] = none ∧ (s.stream n).owned = true ∧ (s.stream n).owner.toNat = p.val) :=
   ⟨⟨sSU, (0 : PartId), (kOf sSU), (8 : ℕ), (9 : ℕ), by decide +kernel⟩,
    ⟨sRel, (0 : PartId), (kOf sRel), (8 : ℕ), (9 : ℕ), by decide +kernel⟩,
    ⟨sRelO, (0 : PartId), (kOf sRelO), (8 : ℕ), by decide +kernel⟩,
    ⟨sBind, (0 : PartId), (kOf sBind), (8 : ℕ), by decide +kernel⟩⟩

end Cad

namespace Spr

def wq (o : Option Nat) (n : Nat) (s : State) : State := { s with spr.owner := o, spr.npkt := n }
def sLoad : State := let s := wcmd 0x0701 0xFFFFFFFF (b6 0 ++ b2 0 ++ b4 256); (devWrite s 0 0 (romProgram ++ padTo 128 []) none).2
def sStart : State := wq (some 0) 4 (wcmd 0x0702 0xFFFFFFFF [])
def sStop : State := wq (some 0) 4 (wcmd 0x0703 0xFFFFFFFF [])
def sStartO : State := wq (some 3) 4 (wcmd 0x0702 0xFFFFFFFF [])
def sW (p : PState) (w : Bool) (o : Bool) : State := { wbase with spr.watchEn := true, spr.npkt := 4, spr.pstate := p, spr.inWindow := w, spr.onOpen := o, spr.wakeOut := true, ports.wakeO := true, spr.wakeHold := if w then 0 else 100 }
def sP (l : List (Nat × Nat × Nat)) (tap : Bool := true) : State := { wbase with spr.watchEn := true, spr.npkt := 4, spr.inWindow := true, spr.running := true, spr.pc := 1, spr.score := 50, spr.sram := mwrite 0 [] 32 (watchPkt l), streams := [(0, { tap := tap, cut := true, tapBytes := 4096, tapLine := 3840, tapCount := 133 })], spr.history := [(1,[true,false])] }
def pWin := sP [(0, 1, 1), (5, 1, 0x10), (8, 4, 16), (12, 2, 100)]
def pWinN := sP [(0, 1, 1), (5, 1, 0x10), (8, 4, 16), (12, 2, 100)] false
def pEn := sP [(0, 1, 2), (4,2,32), (8,4,16), (12,1,3)]
def pBand := sP [(0, 1, 3), (4,2,32), (6,2,33), (8,4,16), (12,1,3), (13,1,5)]
def pFeat := sP [(0, 1, 4), (4,2,32), (6,2,33), (8,2,16), (10,2,2), (12,1,3), (13,1,2), (14,2,60), (16,1,2)]
def pDense := sP [(0, 1, 5), (4,2,32), (6,2,33), (8,2,34), (10,2,60), (12,2,5), (14,2,3), (16,2,7), (18,1,2), (19,1,1)]
def pScore := sP [(0, 1, 6), (4,2,32), (6,1,3), (8,2,7), (10,1,5)]
def pTestM := sP [(0, 1, 7), (4,4,100), (8,1,2), (9,1,3), (10,1,2), (11,1,1)]
def pTestH := sP [(0, 1, 7), (4,4,20), (8,1,1), (9,1,3), (10,1,2), (11,1,1)]
def pEnd := sP [(0, 1, 8)]
def low (s : State) : State := { s with spr.l2 := .down, spr.l3 := .down, spr.target := 1 }
def sR2 := low (wcmd 0x0705 0xFFFFFFFF (b1 2))
def sR1 := wcmd 0x0705 0xFFFFFFFF (b1 1)
def upPort : Port := { state := .up }
def sPS (n : Nat) : State := { wcmd 0x0706 0xFFFFFFFF (b1 n) with fab.ports := [(0, upPort)], ts := 900, crp.net.req := true, crp.net.on := true }
def sPW := wcmd 0x0704 0xFFFFFFFF (b1 1 ++ b1 1 ++ padTo 6 [] ++ b6 0x1000 ++ b2 0)
def sPWm := (devWrite sPW 0 0x1000 (b6 0 ++ b1 0xFF ++ b1 0 ++ b4 1 ++ b4 0) none).2
def sWS := wcmd 0x0707 0xFFFFFFFF (b1 0x21 ++ padTo 3 [] ++ b4 5000 ++ b2 9)
def sI : State := { wbase with spr.pstate := .i, spr.autoT := true, graphs := [] }
def sIrel : State := { wbase with spr.pstate := .i, graphs := [(1, { started := true, e0 := some 5 })], cad.period := 1000, cad.beatTs := 0 }
def sTp (p : PState) : State := { wbase with spr.pstate := p, spr.wakeEn := 0x7F, spr.aonTimer := 5, spr.aonTs := 0 }
def sRst : State := { wbase with spr.restoring := some .i, spr.wakeTs := 5000, spr.pstate := .i, fab.sleeping := true }
def sRise : State := { wbase with spr.l2 := .rising, spr.l3 := .down, spr.target := 2, spr.riseAt := 5 }
def onC (s : State) : State := { s with cores := (List.range 64).map (fun c => (c, { on := true, req := true, iso := false })) }
def sDrain : State := onC { wbase with spr.l3 := .falling, spr.falling := some 3, spr.target := 2 }
def sSt : State := { wbase with spr.source := 2 }

theorem witness_LadderCommands_1 :
    (∃ (s : State) (p : PartId) (k : Packet), hasRight s p.val 2 = true ∧ Starts s p 1797 k ∧ formCheck k 1 1 [] = none ∧ par k 0 1 ≤ 3 ∧ topRising s < par k 0 1 ∧ par k 0 1 ≤ s.spr.maxRung.toNat ∧ s.spr.falling = none ∧ s.spr.target.toNat < par k 0 1) ∧
    (∃ (s : State) (p : PartId) (k : Packet), hasRight s p.val 2 = true ∧ Starts s p 1797 k ∧ formCheck k 1 1 [] = none ∧ par k 0 1 ≤ 3 ∧ par k 0 1 < topRung s ∧ 0 < par k 0 1 ∧ isRising s = false ∧ inSequence s = false ∧ (coresIdle s (List.filter (fun (c : ℕ) => decide (rungSize s (par k 0 1) ≤ c)) (List.range s.ncores)) = true) ∧ par k 0 1 < 2) ∧
    (∃ (s : State) (p : PartId) (k : Packet), hasRight s p.val 2 = true ∧ Starts s p 1798 k ∧ formCheck k 1 1 [] = none ∧ (par k 0 1 = 0 ∨ 5 < par k 0 1)) ∧
    (∃ (s : State) (p : PartId) (k : Packet) (f : ℕ), hasRight s p.val 2 = true ∧ Starts s p 1798 k ∧ formCheck k 1 1 [] = none ∧ par k 0 1 = 1 ∧ inSequence s = false ∧ anyBusy s = false ∧ s.mem.queue = [] ∧ fits s PState.i = true ∧ (s.port f).state = LinkState.up) ∧
    (∃ (s : State) (p : PartId) (k : Packet), hasRight s p.val 2 = true ∧ Starts s p 1798 k ∧ formCheck k 1 1 [] = none ∧ par k 0 1 = 2 ∧ inSequence s = false ∧ anyBusy s = false ∧ s.mem.queue = [] ∧ fits s PState.t = true ∧ s.crp.net.req = true) ∧
    (∃ (s : State) (p : PartId) (k : Packet), hasRight s p.val 2 = true ∧ Starts s p 1798 k ∧ formCheck k 1 1 [] = none ∧ 3 ≤ par k 0 1 ∧ par k 0 1 ≤ 5 ∧ (par k 0 1 = 3 → anyStanding s = false) ∧ (s.spr.draining.isSome && s.spr.isoDone) = false) :=
   ⟨⟨sR2, (0 : PartId), (kOf sR2), by decide +kernel⟩,
    ⟨sR1, (0 : PartId), (kOf sR1), by decide +kernel⟩,
    ⟨(sPS 0), (0 : PartId), (kOf (sPS 0)), by decide +kernel⟩,
    ⟨(sPS 1), (0 : PartId), (kOf (sPS 1)), (0 : ℕ), by decide +kernel⟩,
    ⟨(sPS 2), (0 : PartId), (kOf (sPS 2)), by decide +kernel⟩,
    ⟨(sPS 3), (0 : PartId), (kOf (sPS 3)), by decide +kernel⟩⟩

theorem witness_LadderCommands_2 :
    (∃ (s : State) (p : PartId) (k : Packet) (n : ℕ) (r : ℕ) (l : List Byte), hasRight s p.val 2 = true ∧ Starts s p 1796 k ∧ formCheck k 16 16 [(2, 6)] = none ∧ addrOk k 8 = true ∧ r = par k 0 1 ∧ n = par k 1 1 ∧ 1 ≤ r ∧ r ≤ 3 ∧ ((List.filter (fun (e : PreWarm) => e.part != p.val) (tget [] s.spr.preWarm r)).length + n ≤ 64) ∧ listOf s p.val k (16 * n) = ListCopy.bytes l ∧ preFormat l n = none ∧ preRange s p.val r l n = none) ∧
    (∃ (s : State) (p : PartId) (k : Packet), hasRight s p.val 2 = true ∧ Starts s p 1799 k ∧ formCheck k 10 10 [(1, 3)] = none ∧ par k 0 1 < 128) :=
   ⟨⟨sPWm, (0 : PartId), (kOf sPWm), (1 : ℕ), (1 : ℕ), (devRead sPWm (0 : PartId).val (parAddr (kOf sPWm) 8) (16 * (1 : ℕ))), by decide +kernel⟩,
    ⟨sWS, (0 : PartId), (kOf sWS), by decide +kernel⟩⟩

theorem witness_PowerAndLadderEvents_LadderEvents :
    (∃ (s : State) (now : W64), BitVec.toNat s.ts ≤ BitVec.toNat now ∧ s.spr.restoring = some PState.i ∧ s.spr.isoDone = false ∧ poweredUp s = true ∧ BitVec.toNat s.spr.wakeTs + 1000 = BitVec.toNat now ∧ s.spr.askPower = none ∧ s.spr.heldHost = []) ∧
    (∃ (s : State) (now : W64) (src : PState), BitVec.toNat s.ts ≤ BitVec.toNat now ∧ s.spr.restoring = some src ∧ BitVec.toNat now < BitVec.toNat s.spr.wakeTs + restoreDelay src) ∧
    (∃ (s : State) (now : W64) (n : Fin (OfNat.ofNat 4)), BitVec.toNat s.ts ≤ BitVec.toNat now ∧ (n.val = 2 ∨ n.val = 3) ∧ (s.spr.pstate = PState.a ∨ s.spr.pstate = PState.i ∨ s.spr.pstate = PState.t) ∧ topRung s = n.val ∧ s.spr.autoDemote = true ∧ s.spr.demoteIdle ≠ 0 ∧ s.spr.restoring = none ∧ s.spr.draining = none ∧ s.spr.falling = none ∧ isRising s = false ∧ s.spr.target.toNat ≤ topRung s ∧ BitVec.toNat (tget 0 s.spr.rungIdle n.val) + BitVec.toNat s.spr.demoteIdle * 1000000 ≤ BitVec.toNat now ∧ coresIdle s (extraCores s n.val) = true) ∧
    (∃ (s : State) (now : W64) (n : ℕ) (c : ℕ), BitVec.toNat s.ts ≤ BitVec.toNat now ∧ s.spr.isoDone = false ∧ s.spr.draining = none ∧ s.spr.falling = some n ∧ 2 ≤ n ∧ s.ncores ≤ 64 ∧ (∀ (c : ℕ), rungSize s (n - 1) ≤ c → c < s.ncores → (s.core c).on = true ∧ (s.core c).req = true) ∧ rungSize s (n - 1) < s.ncores ∧ (copiesIn s (inCores (List.filter (fun (c : ℕ) => decide (rungSize s (n - 1) ≤ c)) (List.range s.ncores))) = []) ∧ rungSize s (n - 1) ≤ c ∧ c < s.ncores) ∧
    (∃ (s : State) (now : W64), BitVec.toNat s.ts ≤ BitVec.toNat now ∧ s.spr.source = 2 ∧ s.spr.everAttached = false ∧ 15 ≤ s.rennet.step ∧ BitVec.toNat s.spr.startedAt + 1000000000 ≤ BitVec.toNat now ∧ inSequence s = false ∧ s.spr.pstate = PState.a) ∧
    (∃ (s : State) (now : W64), BitVec.toNat s.ts ≤ BitVec.toNat now ∧ s.spr.pstate = PState.a ∧ s.spr.restoring = none ∧ s.spr.l1 = Rung.up ∧ s.spr.l2 = Rung.rising ∧ s.spr.l3 = Rung.down ∧ s.pwr.trip = false ∧ s.spr.target = 2 ∧ BitVec.toNat s.spr.riseAt + 4000000 = BitVec.toNat now ∧ s.spr.falling = none ∧ s.spr.draining = none ∧ (((extraCores s 2).all fun (c : ℕ) => (s.core c).on && !(s.core c).iso) = true)) :=
   ⟨⟨sRst, (6000 : W64), by decide +kernel⟩,
    ⟨sRst, (5999 : W64), PState.i, by decide +kernel⟩,
    ⟨wbase, (20000000000 : W64), (3 : Fin (OfNat.ofNat 4)), by decide +kernel⟩,
    ⟨sDrain, (6000 : W64), (3 : ℕ), (8 : ℕ), by decide +kernel⟩,
    ⟨sSt, (20000000000 : W64), by decide +kernel⟩,
    ⟨(onC sRise), (4000005 : W64), by decide +kernel⟩⟩

theorem witness_PowerAndLadderEvents_PowerStateEvents :
    (∃ (s : State) (now : W64), BitVec.toNat s.ts ≤ BitVec.toNat now ∧ s.spr.restoring = none ∧ s.spr.draining = none ∧ s.spr.pstate = PState.a ∧ s.spr.autoI = true ∧ anyBusy s = false ∧ s.mem.queue = [] ∧ BitVec.toNat s.spr.idleSince + 20000 ≤ BitVec.toNat now ∧ s.graphs = [] ∧ inSequence s = false ∧ 15 ≤ s.rennet.step ∧ s.pwr.trip = false) ∧
    (∃ (s : State) (now : W64), BitVec.toNat s.ts ≤ BitVec.toNat now ∧ s.spr.restoring = none ∧ s.spr.draining = none ∧ s.spr.pstate = PState.i ∧ s.spr.autoT = true ∧ anyBusy s = false ∧ BitVec.toNat s.spr.iSince + BitVec.toNat s.spr.idleT * 1000000 ≤ BitVec.toNat now ∧ s.graphs = [] ∧ inSequence s = false) ∧
    (∃ (s : State) (now : W64) (sources : BitVec (OfNat.ofNat 7)) (first : Fin (OfNat.ofNat 7)) (from_ : PState), BitVec.toNat s.ts ≤ BitVec.toNat now ∧ s.spr.restoring = none ∧ s.spr.draining = none ∧ s.spr.pstate = from_ ∧ (from_ = PState.i ∨ from_ = PState.t) ∧ sources &&& s.spr.wakeEn &&& wakesFrom from_ ≠ 0 ∧ sources.getLsbD 3 = false ∧ (sources &&& s.spr.wakeEn &&& wakesFrom from_).getLsbD first.val = true) ∧
    (∃ (s : State) (now : W64), BitVec.toNat s.ts ≤ BitVec.toNat now ∧ s.spr.restoring = none ∧ s.spr.draining = none ∧ (s.spr.pstate = PState.i ∨ s.spr.pstate = PState.t) ∧ fits { s with ts := now } s.spr.pstate = false) ∧
    (∃ (s : State) (now : W64), BitVec.toNat s.ts ≤ BitVec.toNat now ∧ s.spr.restoring = none ∧ s.spr.draining = none ∧ s.spr.aonTimer ≠ 0 ∧ BitVec.toNat s.spr.aonTs + BitVec.toNat s.spr.aonTimer * 1000000 ≤ BitVec.toNat now ∧ s.spr.wakeEn.getLsbD 5 = true ∧ s.spr.pstate = PState.w ∧ s.rennet.boot = BootState.verified) ∧
    (∃ (s : State) (now : W64), BitVec.toNat s.ts ≤ BitVec.toNat now ∧ s.spr.restoring = none ∧ s.spr.draining = none ∧ s.spr.pstate = PState.a ∧ s.spr.aonTimer ≠ 0 ∧ BitVec.toNat s.spr.aonTs + BitVec.toNat s.spr.aonTimer * 1000000 ≤ BitVec.toNat now) :=
   ⟨⟨wbase, (400000000 : W64), by decide +kernel⟩,
    ⟨sI, (400000000 : W64), by decide +kernel⟩,
    ⟨sI, (400000000 : W64), (4 : BitVec (OfNat.ofNat 7)), (2 : Fin (OfNat.ofNat 7)), PState.i, by decide +kernel⟩,
    ⟨sIrel, (400000000 : W64), by decide +kernel⟩,
    ⟨(sTp .w), (400000000 : W64), by decide +kernel⟩,
    ⟨(sTp .a), (400000000 : W64), by decide +kernel⟩⟩

theorem witness_WatchCommands :
    (∃ (s : State) (p : PartId) (k : Packet) (bs : List Byte) (line : ℕ) (n : ℕ) (i : ℕ), hasRight s p.val 2 = true ∧ Starts s p 1793 k ∧ formCheck k 12 14 [] = none ∧ addrOk k 0 = true ∧ parAddr k 0 + par k 8 4 ≤ 2 ^ 48 ∧ par k 8 4 ≤ 262144 ∧ (s.spr.owner = none ∨ s.spr.owner = some p.val) ∧ anyBlock s p.val (parAddr k 0) (par k 8 4) BlockState.unmapped = false ∧ anyBlock s p.val (parAddr k 0) (par k 8 4) BlockState.poisoned = false ∧ bs = devRead s p.val (parAddr k 0) (par k 8 4) ∧ (line = if pktExpert k = true then par k 12 2 else 32) ∧ watchBad s bs line (pktExpert k) = none ∧ watchCount bs = some n ∧ Mem.wf 0 s.spr.sram = true ∧ i < 32 * n) ∧
    (∃ (s : State) (p : PartId) (k : Packet), hasRight s p.val 2 = true ∧ Starts s p 1794 k ∧ formCheck k 0 0 [] = none ∧ s.spr.owner = some p.val ∧ s.spr.npkt ≠ 0) ∧
    (∃ (s : State) (p : PartId) (k : Packet), hasRight s p.val 2 = true ∧ Starts s p 1795 k ∧ formCheck k 0 0 [] = none ∧ s.spr.owner = some p.val ∧ s.spr.npkt ≠ 0) ∧
    (∃ (s : State) (p : PartId) (k : Packet) (q : ℕ), hasRight s p.val 2 = true ∧ Starts s p 1794 k ∧ formCheck k 0 0 [] = none ∧ s.spr.owner = some q ∧ q ≠ p.val ∧ s.spr.npkt ≠ 0) :=
   ⟨⟨sLoad, (0 : PartId), (kOf sLoad), (devRead sLoad (0 : PartId).val (parAddr (kOf sLoad) 0) (par (kOf sLoad) 8 4)), (32 : ℕ), (4 : ℕ), (0 : ℕ), by decide +kernel⟩,
    ⟨sStart, (0 : PartId), (kOf sStart), by decide +kernel⟩,
    ⟨sStop, (0 : PartId), (kOf sStop), by decide +kernel⟩,
    ⟨sStartO, (0 : PartId), (kOf sStartO), (3 : ℕ), by decide +kernel⟩⟩

theorem witness_WatchRuns_WatchPackets_1 :
    (∃ (s : State) (b : List Byte) (a : ℕ), s.spr.inWindow = true ∧ s.spr.running = true ∧ s.spr.windowDue = false ∧ s.spr.pstate = PState.a ∧ b = watchPacket s ∧ s.spr.pc.toNat + 1 < s.spr.npkt ∧ field b 0 1 = 1 ∧ (s.stream (field b 4 1)).tap = true ∧ (field b 8 4 * (field b 5 1 / 16 * if nbit (field b 5 1) 0 = true then 1 else 2) + BitVec.toNat (s.stream (field b 4 1)).tapCount % max 1 (field b 5 1 / 16 * if nbit (field b 5 1) 0 = true then 1 else 2) ≤ (s.stream (field b 4 1)).tapBytes) ∧ (a < 64 * field b 12 2 ∨ 64 * field b 12 2 + 2 * field b 8 4 ≤ a)) ∧
    (∃ (s : State) (b : List Byte), s.spr.inWindow = true ∧ s.spr.running = true ∧ s.spr.windowDue = false ∧ s.spr.pstate = PState.a ∧ b = watchPacket s ∧ field b 0 1 = 1 ∧ (s.stream (field b 4 1)).tap = false) ∧
    (∃ (s : State) (b : List Byte), s.spr.inWindow = true ∧ s.spr.running = true ∧ s.spr.windowDue = false ∧ s.spr.pstate = PState.a ∧ b = watchPacket s ∧ s.spr.pc.toNat + 1 < s.spr.npkt ∧ field b 0 1 = 2) ∧
    (∃ (s : State) (b : List Byte), s.spr.inWindow = true ∧ s.spr.running = true ∧ s.spr.windowDue = false ∧ s.spr.pstate = PState.a ∧ b = watchPacket s ∧ s.spr.pc.toNat + 1 < s.spr.npkt ∧ field b 0 1 = 3) ∧
    (∃ (s : State) (b : List Byte) (a : ℕ), s.spr.inWindow = true ∧ s.spr.running = true ∧ s.spr.windowDue = false ∧ s.spr.pstate = PState.a ∧ b = watchPacket s ∧ s.spr.pc.toNat + 1 < s.spr.npkt ∧ field b 0 1 = 4 ∧ (a < 64 * field b 14 2 ∨ 64 * field b 14 2 + field b 10 2 * field b 12 1 ≤ a)) ∧
    (∃ (s : State) (b : List Byte) (a : ℕ), s.spr.inWindow = true ∧ s.spr.running = true ∧ s.spr.windowDue = false ∧ s.spr.pstate = PState.a ∧ b = watchPacket s ∧ s.spr.pc.toNat + 1 < s.spr.npkt ∧ field b 0 1 = 5 ∧ (a < 64 * field b 10 2 ∨ (64 * field b 10 2 + field b 14 2 * if nbit (field b 19 1) 1 = true then 4 else 1) ≤ a)) :=
   ⟨⟨pWin, (watchPacket pWin), (0 : ℕ), by decide +kernel⟩,
    ⟨pWinN, (watchPacket pWinN), by decide +kernel⟩,
    ⟨pEn, (watchPacket pEn), by decide +kernel⟩,
    ⟨pBand, (watchPacket pBand), by decide +kernel⟩,
    ⟨pFeat, (watchPacket pFeat), (0 : ℕ), by decide +kernel⟩,
    ⟨pDense, (watchPacket pDense), (0 : ℕ), by decide +kernel⟩⟩

theorem witness_WatchRuns_WatchPackets_2 :
    (∃ (s : State) (b : List Byte), s.spr.inWindow = true ∧ s.spr.running = true ∧ s.spr.windowDue = false ∧ s.spr.pstate = PState.a ∧ b = watchPacket s ∧ s.spr.pc.toNat + 1 < s.spr.npkt ∧ field b 0 1 = 6) ∧
    (∃ (s : State) (b : List Byte), s.spr.inWindow = true ∧ s.spr.running = true ∧ s.spr.windowDue = false ∧ s.spr.pstate = PState.a ∧ b = watchPacket s ∧ s.spr.pc.toNat + 1 < s.spr.npkt ∧ field b 0 1 = 7 ∧ BitVec.toNat s.spr.score < field b 4 4 ∧ nbit (field b 10 1) 4 = false ∧ (List.filter id (List.take (field b 9 1 - 1) (tget [] s.spr.history s.spr.pc.toNat))).length < field b 8 1 ∧ 0 < field b 9 1) ∧
    (∃ (s : State) (b : List Byte), s.spr.inWindow = true ∧ s.spr.running = true ∧ s.spr.windowDue = false ∧ s.spr.pstate = PState.a ∧ b = watchPacket s ∧ s.spr.pc.toNat + 1 < s.spr.npkt ∧ field b 0 1 = 7 ∧ field b 4 4 ≤ BitVec.toNat s.spr.score ∧ field b 8 1 = 1 ∧ 1 ≤ field b 9 1 ∧ field b 10 1 = 2) ∧
    (∃ (s : State) (b : List Byte), s.spr.inWindow = true ∧ s.spr.running = true ∧ s.spr.windowDue = false ∧ s.spr.pstate = PState.a ∧ b = watchPacket s ∧ field b 0 1 = 8) :=
   ⟨⟨pScore, (watchPacket pScore), by decide +kernel⟩,
    ⟨pTestM, (watchPacket pTestM), by decide +kernel⟩,
    ⟨pTestH, (watchPacket pTestH), by decide +kernel⟩,
    ⟨pEnd, (watchPacket pEnd), by decide +kernel⟩⟩

theorem witness_WatchRuns_WatchWindows :
    (∃ (s : State) (now : W64), BitVec.toNat s.ts ≤ BitVec.toNat now ∧ s.spr.watchEn = true ∧ s.spr.npkt ≠ 0 ∧ s.spr.pstate ≠ PState.s ∧ s.spr.pstate ≠ PState.o ∧ BitVec.toNat s.spr.windowTs + watchPeriod s ≤ BitVec.toNat now ∧ s.spr.inWindow = false) ∧
    (∃ (s : State) (now : W64), BitVec.toNat s.ts ≤ BitVec.toNat now ∧ s.spr.wakeOut = true ∧ s.spr.wakeHold ≠ 0 ∧ BitVec.toNat s.spr.wakeOutTs + BitVec.toNat s.spr.wakeHold * 1000000 ≤ BitVec.toNat now) ∧
    (∃ (s : State) (now : W64), BitVec.toNat s.ts ≤ BitVec.toNat now ∧ s.spr.wakeHold = 0) ∧
    (∃ (s : State) (now : W64), BitVec.toNat s.ts ≤ BitVec.toNat now ∧ s.spr.watchEn = true ∧ s.spr.npkt ≠ 0 ∧ s.spr.pstate ≠ PState.s ∧ s.spr.pstate ≠ PState.o ∧ BitVec.toNat s.spr.windowTs + watchPeriod s ≤ BitVec.toNat now ∧ s.spr.inWindow = true) ∧
    (∃ (s : State) (now : W64), BitVec.toNat s.ts ≤ BitVec.toNat now ∧ s.spr.inWindow = true ∧ s.spr.onOpen = true ∧ BitVec.toNat s.spr.openTs + BitVec.toNat s.spr.onTime * 1000 ≤ BitVec.toNat now) :=
   ⟨⟨(sW .a false false), (400000000 : W64), by decide +kernel⟩,
    ⟨(sW .a false false), (400000000 : W64), by decide +kernel⟩,
    ⟨(sW .a true false), (400000 : W64), by decide +kernel⟩,
    ⟨(sW .a true false), (400000000 : W64), by decide +kernel⟩,
    ⟨(sW .t true true), (400000000 : W64), by decide +kernel⟩⟩

end Spr

namespace Fab

def put (s : State) (a : Nat) (l : List Byte) : State := devPut s 0 a l
def sFS := wcmd 0x0801 0xFFFFFFFF (b2 5 ++ padTo 6 [] ++ b6 0x1000 ++ b2 0)
def sPB := wcmd 0x0802 0xFFFFFFFF (b2 5 ++ b1 3)
def sPU : State := { wcmd 0x0803 0xFFFFFFFF (b2 5) with fab.binds := [(0,5,3),(0,6,3),(1,5,2)] }
def sBS := put (wcmd 0x0804 0xFFFFFFFF (b2 7 ++ b2 2 ++ padTo 4 [] ++ b6 0x1000 ++ b2 0)) 0x1000 (b2 9 ++ b2 (1024*2+11))
def sBC : State := { wcmd 0x0805 0xFFFFFFFF (b2 7) with fab.bars := [(2, { id := 7, valid := true, owner := 0 })] }
def sJS := put (wcmd 0x0806 0xFFFFFFFF (b1 4 ++ b1 2 ++ b2 10 ++ padTo 4 [] ++ b6 0x1000 ++ b2 0)) 0x1000 (b2 9 ++ b1 2 ++ b1 0 ++ b4 77 ++ b2 11 ++ b1 3 ++ b1 0 ++ b4 78)
def sJC : State := { wcmd 0x0807 0xFFFFFFFF (b1 4) with fab.jobs := [(3, { valid := true}), (4, { valid := true})] }
def sPo (a b : Nat) : State := { wcmd 0x0808 0xFFFFFFFF (b1 2 ++ b1 a ++ b1 b ++ b1 1 ++ b1 2) with fab.ports := [(2, { phyReady := true, state := .up })], ts := 400 }
def sPoC : State := { sPo 2 0 with fab.conflict := true, fab.fixedId := 5, fab.idFixed := true }
def sPP := wcmd 0x0901 0xFFFFFFFF (b1 1 ++ b1 1)
def sPC := wcmd 0x0902 0xFFFFFFFF (b4 5000000)
def sTh := wcmd 0x0903 0xFFFFFFFF (b1 100)
def sPr : State := { wcmd 0x0A01 0xFFFFFFFF [] with rennet.drbgOn := true, cores := [(1, { on := true, iso := false, inReset := false }), (2, { on := true, iso := false, inReset := false })] }
def sFe := wcmd 0x0A02 0xFFFFFFFF (b1 0 ++ b1 0 ++ b2 9)
def sUn : State := { wcmd 0x0A03 0xFFFFFFFF (b1 0 ++ b1 0 ++ b2 9) with cores := [(1, { on := true, iso := false, inReset := false, engines := [(1, { state := .fenced })] })] }
def sPrC : State := { wbase with rel.probe := some { pend := some (pendOf 0 (kOf sPr)), engines := [1,2,3], rounds := 64 } }
def sVote : State := { wbase with ts := 100, fab.jobs := [(3, { valid := true, members := [(1,0,7),(2,0,7)], held := [(5, 0, 0, 9, true), (5,1,0,9,true), (6,0,0,3,true)] })] , cad.en := true, cad.src := 0, cad.period := 1, cad.beats := 30, cad.beatTs := 0, cad.realTs := 0, cad.periods := [1] }
def lport (p : Port) : State := { wbase with fab.ports := [(2, p)], ts := 400, fab.en := true }
def fl (h : Nat) (bad : Bool) (bs : List Byte) : Flit := { header := BitVec.ofNat 64 h, bytes := bs, crc := if bad then crc64 (leBytes 8 h ++ bs) + 1 else crc64 (leBytes 8 h ++ bs) }
def bm (d : Nat) (st : Nat) : BeaconMsg := { dev := Fin.ofNat 1024 d, seq := 9, state := BitVec.ofNat 2 st, serial := 99, cores := 64, beatSrc := 1, oldDev := 0 }
def sId (st : Nat) : State := { wbase with fab.en := true, fab.id := 5, fab.idState := BitVec.ofNat 2 st, fab.db := [(9, { serial := 4, lsaSeq := some 2 })], ts := 400 }
def sDb : State := { sId 2 with fab.dbChanged := true, fab.ports := [(2, { phyReady := true, state := .up, neigh := 9, neighPort := 1, rate := 2, lanes := 2 })], fab.db := [(9, { serial := 4, lsaSeq := some 2, links := [{ port := 1, neigh := 5, neighPort := 2, rate := 2, lanes := 2, sleep := false}] })] }
def sFz : State := { sId 2 with fab.freeze := true, fab.freezeAt := 300 }

theorem witness_FabricCommands_1 :
    (∃ (s : State) (p : PartId) (k : Packet), Starts s p 2049 k ∧ formCheck k 16 16 [(2, 6)] = none ∧ addrOk k 8 = true ∧ par k 0 2 < 1024 ∧ anyBlock s p.val (parAddr k 8) 64 BlockState.unmapped = false) ∧
    (∃ (s : State) (p : PartId) (k : Packet), hasRight s p.val 3 = true ∧ Starts s p 2050 k ∧ formCheck k 3 3 [] = none ∧ par k 0 2 < 1024 ∧ par k 2 1 < 64 ∧ ((List.filter (fun (b : ℕ × ℕ × ℕ) => b.1 == p.val) s.fab.binds).length < 64) ∧ (∀ b ∈ s.fab.binds, b.1 = p.val → b.2.1 ≠ par k 0 2)) ∧
    (∃ (s : State) (p : PartId) (k : Packet), hasRight s p.val 3 = true ∧ Starts s p 2051 k ∧ formCheck k 2 2 [] = none ∧ par k 0 2 < 1024) ∧
    (∃ (s : State) (p : PartId) (k : Packet) (n : ℕ) (i : ℕ) (l : List Byte), hasRight s p.val 3 = true ∧ Starts s p 2052 k ∧ formCheck k 16 16 [(4, 4)] = none ∧ addrOk k 8 = true ∧ n = par k 2 2 ∧ 2 ≤ n ∧ n ≤ 1024 ∧ barSlot s (par k 0 2) = none ∧ (freeSlot s.fab.bars (fun (x : Barrier) => x.valid) 64 = some i) ∧ listOf s p.val k (2 * n) = ListCopy.bytes l) ∧
    (∃ (s : State) (p : PartId) (k : Packet), hasRight s p.val 3 = true ∧ Starts s p 2053 k ∧ formCheck k 2 2 [] = none) ∧
    (∃ (s : State) (p : PartId) (k : Packet) (n : ℕ) (l : List Byte), hasRight s p.val 3 = true ∧ Starts s p 2054 k ∧ formCheck k 16 16 [(4, 4)] = none ∧ addrOk k 8 = true ∧ par k 0 1 < 16 ∧ n = par k 1 1 ∧ 2 ≤ n ∧ n ≤ 8 ∧ par k 2 2 ≠ 0 ∧ listOf s p.val k (8 * n) = ListCopy.bytes l ∧ (∀ i < n, field l (8 * i + 3) 1 = 0 ∧ field l (8 * i) 2 < 1024 ∧ field l (8 * i + 2) 1 < 64 ∧ tfind s.fab.db (field l (8 * i) 2) = none)) :=
   ⟨⟨sFS, (0 : PartId), (kOf sFS), by decide +kernel⟩,
    ⟨sPB, (0 : PartId), (kOf sPB), by decide +kernel⟩,
    ⟨sPU, (0 : PartId), (kOf sPU), by decide +kernel⟩,
    ⟨sBS, (0 : PartId), (kOf sBS), (2 : ℕ), (0 : ℕ), (devRead sBS (0 : PartId).val (parAddr (kOf sBS) 8) 4), by decide +kernel⟩,
    ⟨sBC, (0 : PartId), (kOf sBC), by decide +kernel⟩,
    ⟨sJS, (0 : PartId), (kOf sJS), (2 : ℕ), (devRead sJS (0 : PartId).val (parAddr (kOf sJS) 8) 16), by decide +kernel⟩⟩

theorem witness_FabricCommands_2 :
    (∃ (s : State) (p : PartId) (k : Packet), hasRight s p.val 3 = true ∧ Starts s p 2055 k ∧ formCheck k 1 1 [] = none ∧ par k 0 1 < 16) ∧
    (∃ (s : State) (p : PartId) (k : Packet), hasRight s p.val 3 = true ∧ Starts s p 2056 k ∧ formCheck k 5 5 [] = none ∧ par k 0 1 < 6 ∧ par k 2 1 ≤ 1 ∧ par k 3 1 ≤ 2 ∧ par k 4 1 ≤ 2 ∧ par k 1 1 = 0 ∧ par k 2 1 = 1 ∧ (s.port (par k 0 1)).en = true) ∧
    (∃ (s : State) (p : PartId) (k : Packet), hasRight s p.val 3 = true ∧ Starts s p 2056 k ∧ formCheck k 5 5 [] = none ∧ par k 0 1 < 6 ∧ par k 2 1 ≤ 1 ∧ par k 3 1 ≤ 2 ∧ par k 4 1 ≤ 2 ∧ par k 1 1 = 0 ∧ par k 2 1 = 0 ∧ (s.port (par k 0 1)).en = true) ∧
    (∃ (s : State) (p : PartId) (k : Packet), hasRight s p.val 3 = true ∧ Starts s p 2056 k ∧ formCheck k 5 5 [] = none ∧ par k 0 1 < 6 ∧ par k 2 1 ≤ 1 ∧ par k 3 1 ≤ 2 ∧ par k 4 1 ≤ 2 ∧ par k 1 1 = 1 ∧ (s.port (par k 0 1)).retrainTs = [] ∧ (s.port (par k 0 1)).en = true ∧ (s.port (par k 0 1)).phyReady = true) ∧
    (∃ (s : State) (p : PartId) (k : Packet), hasRight s p.val 3 = true ∧ Starts s p 2056 k ∧ formCheck k 5 5 [] = none ∧ par k 0 1 < 6 ∧ par k 2 1 ≤ 1 ∧ par k 3 1 ≤ 2 ∧ par k 4 1 ≤ 2 ∧ par k 1 1 = 2 ∧ s.fab.conflict = false) ∧
    (∃ (s : State) (p : PartId) (k : Packet), hasRight s p.val 3 = true ∧ Starts s p 2056 k ∧ formCheck k 5 5 [] = none ∧ par k 0 1 < 6 ∧ par k 2 1 ≤ 1 ∧ par k 3 1 ≤ 2 ∧ par k 4 1 ≤ 2 ∧ par k 1 1 = 2 ∧ s.fab.conflict = true) :=
   ⟨⟨sJC, (0 : PartId), (kOf sJC), by decide +kernel⟩,
    ⟨(sPo 0 1), (0 : PartId), (kOf (sPo 0 1)), by decide +kernel⟩,
    ⟨(sPo 0 0), (0 : PartId), (kOf (sPo 0 0)), by decide +kernel⟩,
    ⟨(sPo 1 0), (0 : PartId), (kOf (sPo 1 0)), by decide +kernel⟩,
    ⟨(sPo 2 0), (0 : PartId), (kOf (sPo 2 0)), by decide +kernel⟩,
    ⟨sPoC, (0 : PartId), (kOf sPoC), by decide +kernel⟩⟩

set_option maxRecDepth 1000000 in
theorem witness_LinksAndFlits_FlitsInSequence :
    (∃ (s : State) (f : FabPort) (fl : Flit) (now : W64), BitVec.toNat s.ts ≤ BitVec.toNat now ∧ s.pwr.trip = false ∧ (s.port f.val).state = LinkState.up ∧ (s.port f.val).queue = [] ∧ crc64 (leBytes 8 (BitVec.toNat fl.header) ++ fl.bytes) ≠ fl.crc) ∧
    (∃ (s : State) (f : FabPort) (fl : Flit) (now : W64) (i : ℕ), BitVec.toNat s.ts ≤ BitVec.toNat now ∧ s.pwr.trip = false ∧ (s.port f.val).state = LinkState.up ∧ (s.port f.val).queue = [] ∧ crc64 (leBytes 8 (BitVec.toNat fl.header) ++ fl.bytes) = fl.crc ∧ nbits (BitVec.toNat fl.header) 1 0 = 0 ∧ nbit (BitVec.toNat fl.header) 4 = false ∧ nbits (BitVec.toNat fl.header) 19 8 = (s.port f.val).rxSeq.toNat ∧ nbits (BitVec.toNat fl.header) 54 48 = 0 ∧ tget [] (s.port f.val).rxBuf (nbits (BitVec.toNat fl.header) 3 2) = [] ∧ (List.findIdx? (fun (x : Flit) => nbits (BitVec.toNat x.header) 19 8 == nbits (BitVec.toNat fl.header) 31 20) (s.port f.val).replayBuf = some i)) ∧
    (∃ (s : State) (f : FabPort) (fl : Flit) (now : W64), BitVec.toNat s.ts ≤ BitVec.toNat now ∧ s.pwr.trip = false ∧ (s.port f.val).state = LinkState.up ∧ (s.port f.val).queue = [] ∧ crc64 (leBytes 8 (BitVec.toNat fl.header) ++ fl.bytes) = fl.crc ∧ nbits (BitVec.toNat fl.header) 1 0 = 0 ∧ nbit (BitVec.toNat fl.header) 4 = false ∧ nbits (BitVec.toNat fl.header) 19 8 ≠ (s.port f.val).rxSeq.toNat) :=
   ⟨⟨(lport { state := .up, phyReady := true, rxSeq := 4, replayBuf := [fl (2 ^ 8 * 7) false [],fl (2 ^ 8 * 8) false []]}), (2 : FabPort), (fl (2^8 * 4 + 2^20 * 7) true (padTo 8 [])), (600 : W64), by decide +kernel⟩,
    ⟨(lport { state := .up, phyReady := true, rxSeq := 4, replayBuf := [fl (2 ^ 8 * 7) false [],fl (2 ^ 8 * 8) false []]}), (2 : FabPort), (fl (2^8 * 4 + 2^20 * 7) false (padTo 8 [])), (600 : W64), (0 : ℕ), by decide +kernel⟩,
    ⟨(lport { state := .up, phyReady := true, rxSeq := 4, replayBuf := [fl (2 ^ 8 * 7) false [],fl (2 ^ 8 * 8) false []]}), (2 : FabPort), (fl (2^8 * 5 + 2^20 * 7) false (padTo 8 [])), (600 : W64), by decide +kernel⟩⟩

theorem witness_IdentityAndRoutes_1 :
    (∃ (s : State) (now : W64) (b : BeaconMsg), BitVec.toNat s.ts ≤ BitVec.toNat now ∧ s.pwr.trip = false ∧ b.serial ≠ s.otp.serial ∧ (b.state = 0 ∨ b.dev.val ≠ s.fab.id.toNat) ∧ (tget { serial := 0, state := 0, cores := 0, beatSrc := 0, beaconSeq := none, beaconTs := 0, lsaSeq := none, lsaTs := 0, sleeping := false, links := [] } s.fab.db b.dev.val).beaconSeq ≠ some b.seq ∧ s.att.sessions = [] ∧ s.att.forming = none) ∧
    (∃ (s : State) (now : W64) (l : LsaMsg), BitVec.toNat s.ts ≤ BitVec.toNat now ∧ s.pwr.trip = false ∧ l.dev.val ≠ s.fab.id.toNat ∧ (tget { serial := 0, state := 0, cores := 0, beatSrc := 0, beaconSeq := none, beaconTs := 0, lsaSeq := none, lsaTs := 0, sleeping := false, links := [] } s.fab.db l.dev.val).lsaSeq = none) ∧
    (∃ (s : State) (now : W64), BitVec.toNat s.ts ≤ BitVec.toNat now ∧ s.pwr.trip = false ∧ s.fab.dbChanged = false) ∧
    (∃ (s : State) (now : W64) (o : Origin) (dev : DevId), BitVec.toNat s.ts ≤ BitVec.toNat now ∧ s.pwr.trip = false ∧ tfind s.fab.db dev.val = some o ∧ o.sleeping = false ∧ BitVec.toNat o.beaconTs + 350000000 ≤ BitVec.toNat now ∧ BitVec.toNat o.lsaTs + 350000000 ≤ BitVec.toNat now ∧ reportedAsleep s dev.val = false) ∧
    (∃ (s : State) (now : W64) (b : BeaconMsg), BitVec.toNat s.ts ≤ BitVec.toNat now ∧ s.pwr.trip = false ∧ b.dev.val = s.fab.id.toNat ∧ b.serial ≠ s.otp.serial ∧ s.fab.idState = 1 ∧ b.state = 2 ∧ s.fab.idFixed = false ∧ s.att.sessions = [] ∧ s.att.forming = none) ∧
    (∃ (s : State) (now : W64), BitVec.toNat s.ts ≤ BitVec.toNat now ∧ s.pwr.trip = false ∧ s.fab.idState = 1 ∧ BitVec.toNat s.fab.claimAt + 4000000 ≤ BitVec.toNat now) :=
   ⟨⟨(sId 0), (600 : W64), (bm 7 1), by decide +kernel⟩,
    ⟨(sId 0), (600 : W64), ({ dev := 7, seq := 3, sleeping := false, links := [] } : LsaMsg), by decide +kernel⟩,
    ⟨(sId 0), (600 : W64), by decide +kernel⟩,
    ⟨(sId 0), (400000000 : W64), ({ serial := 4, lsaSeq := some 2 } : Origin), (9 : DevId), by decide +kernel⟩,
    ⟨(sId 1), (600 : W64), (bm 5 2), by decide +kernel⟩,
    ⟨(sId 1), (400000000 : W64), by decide +kernel⟩⟩

theorem witness_IdentityAndRoutes_2 :
    (∃ (s : State) (now : W64), BitVec.toNat s.ts ≤ BitVec.toNat now ∧ s.pwr.trip = false ∧ s.fab.en = true ∧ s.fab.conflict = false ∧ s.fab.idState ≠ 0 ∧ s.spr.pstate = PState.a ∧ BitVec.toNat s.fab.beaconAt + 100000000 ≤ BitVec.toNat now) ∧
    (∃ (s : State) (now : W64), BitVec.toNat s.ts ≤ BitVec.toNat now ∧ s.pwr.trip = false ∧ s.fab.en = true ∧ s.fab.conflict = false ∧ s.fab.idState ≠ 0 ∧ s.spr.pstate = PState.a ∧ BitVec.toNat s.fab.lsaAt + 100000000 ≤ BitVec.toNat now) ∧
    (∃ (s : State) (now : W64) (b : BeaconMsg), BitVec.toNat s.ts ≤ BitVec.toNat now ∧ s.pwr.trip = false ∧ b.dev.val = s.fab.id.toNat ∧ b.serial ≠ s.otp.serial ∧ s.fab.idState = 2 ∧ b.state = 1 ∧ s.att.sessions = [] ∧ s.att.forming = none) ∧
    (∃ (s : State) (now : W64) (r : ℕ), BitVec.toNat s.ts ≤ BitVec.toNat now ∧ s.pwr.trip = false ∧ s.fab.dbChanged = true ∧ s.fab.txns = [] ∧ s.fab.bars = [] ∧ rootOf (nodes s) = some r ∧ s.fab.rootId ≠ BitVec.ofNat 10 r) ∧
    (∃ (s : State) (now : W64), BitVec.toNat s.ts ≤ BitVec.toNat now ∧ s.pwr.trip = false ∧ s.fab.freeze = true ∧ BitVec.toNat s.fab.freezeAt + 100000 ≤ BitVec.toNat now ∧ s.fab.heldFrames = []) :=
   ⟨⟨(sId 1), (400000000 : W64), by decide +kernel⟩,
    ⟨(sId 1), (400000000 : W64), by decide +kernel⟩,
    ⟨(sId 2), (600 : W64), (bm 5 1), by decide +kernel⟩,
    ⟨sDb, (600 : W64), (5 : ℕ), by decide +kernel⟩,
    ⟨sFz, (400000000 : W64), by decide +kernel⟩⟩

theorem witness_LinksAndFlits_LinkBringUpAndStates_1 :
    (∃ (s : State) (f : FabPort) (now : W64) (g : ℕ), BitVec.toNat s.ts ≤ BitVec.toNat now ∧ (s.port f.val).en = true ∧ g ≠ f.val) ∧
    (∃ (s : State) (now : W64) (n : ℕ), BitVec.toNat s.ts ≤ BitVec.toNat now ∧ n < 3) ∧
    (∃ (s : State) (f : FabPort) (now : W64), BitVec.toNat s.ts ≤ BitVec.toNat now ∧ (s.port f.val).en = false) ∧
    (∃ (s : State) (f : FabPort) (now : W64), BitVec.toNat s.ts ≤ BitVec.toNat now ∧ (s.port f.val).state = LinkState.training ∧ (s.port f.val).step = 4) ∧
    (∃ (s : State) (f : FabPort) (now : W64), BitVec.toNat s.ts ≤ BitVec.toNat now ∧ (s.port f.val).state = LinkState.training ∧ (s.port f.val).step = 6 ∧ (s.port f.val).queue = [] ∧ s.fab.idState = 0) ∧
    (∃ (s : State) (f : FabPort) (now : W64), BitVec.toNat s.ts ≤ BitVec.toNat now ∧ (s.port f.val).state = LinkState.training ∧ (s.port f.val).step = 6 ∧ (s.port f.val).tryRate ≠ 0) :=
   ⟨⟨(lport {}), (2 : FabPort), (600 : W64), (1 : ℕ), by decide +kernel⟩,
    ⟨(lport {}), (600 : W64), (2 : ℕ), by decide +kernel⟩,
    ⟨(lport { en := false}), (2 : FabPort), (600 : W64), by decide +kernel⟩,
    ⟨(lport { state := .training, step := 4, phyReady := true }), (2 : FabPort), (600 : W64), by decide +kernel⟩,
    ⟨(lport { state := .training, step := 6, phyReady := true }), (2 : FabPort), (600 : W64), by decide +kernel⟩,
    ⟨(lport { state := .training, step := 6, phyReady := true }), (2 : FabPort), (600 : W64), by decide +kernel⟩⟩

theorem witness_LinksAndFlits_LinkBringUpAndStates_2 :
    (∃ (s : State) (f : FabPort) (now : W64), BitVec.toNat s.ts ≤ BitVec.toNat now ∧ (s.port f.val).state = LinkState.training ∧ (s.port f.val).step = 6 ∧ (s.port f.val).tryRate = 0 ∧ (s.port f.val).tryLanes ≠ 0) ∧
    (∃ (s : State) (f : FabPort) (now : W64) (at_ : W64), BitVec.toNat s.ts ≤ BitVec.toNat now ∧ (s.port f.val).restartAt = some at_ ∧ BitVec.toNat at_ ≤ BitVec.toNat now ∧ (s.port f.val).phyReady = true ∧ (s.port f.val).en = true) ∧
    (∃ (s : State) (f : FabPort) (now : W64) (g : ℕ), BitVec.toNat s.ts ≤ BitVec.toNat now ∧ (s.port f.val).state = LinkState.up ∧ g ≠ f.val) ∧
    (∃ (s : State) (f : FabPort) (now : W64), BitVec.toNat s.ts ≤ BitVec.toNat now ∧ (s.port f.val).state = LinkState.up ∧ BitVec.toNat now < BitVec.toNat (s.port f.val).lastRx + 2000) ∧
    (∃ (s : State) (f : FabPort) (now : W64), BitVec.toNat s.ts ≤ BitVec.toNat now ∧ ((s.port f.val).state = LinkState.up ∨ (s.port f.val).state = LinkState.lp)) ∧
    (∃ (s : State) (f : FabPort) (now : W64), BitVec.toNat s.ts ≤ BitVec.toNat now ∧ (s.port f.val).state = LinkState.up ∧ BitVec.toNat (s.port f.val).lastRx + 2000 ≤ BitVec.toNat now ∧ (s.port f.val).live = true) :=
   ⟨⟨(lport { state := .training, step := 6, phyReady := true, tryRate := 0 }), (2 : FabPort), (600 : W64), by decide +kernel⟩,
    ⟨(lport { state := .down, restartAt := some 500, phyReady := true}), (2 : FabPort), (600 : W64), (500 : W64), by decide +kernel⟩,
    ⟨(lport { state := .up, phyReady := true, live := true, lastRx := 0}), (2 : FabPort), (600 : W64), (1 : ℕ), by decide +kernel⟩,
    ⟨(lport { state := .up, phyReady := true, live := true, lastRx := 0}), (2 : FabPort), (600 : W64), by decide +kernel⟩,
    ⟨(lport { state := .up, phyReady := true, live := true, lastRx := 0}), (2 : FabPort), (600 : W64), by decide +kernel⟩,
    ⟨(lport { state := .up, phyReady := true, live := true, lastRx := 0}), (2 : FabPort), (60000 : W64), by decide +kernel⟩⟩

theorem witness_LinksAndFlits_LinkBringUpAndStates_3 :
    ∃ (s : State) (f : FabPort) (now : W64) (n : ℕ), BitVec.toNat s.ts ≤ BitVec.toNat now ∧ 3 ≤ n ∧ s.spr.pstate = PState.a ∧ (s.port f.val).state = LinkState.sleep ∧ (s.port f.val).en = true ∧ (s.port f.val).phyReady = true :=
   ⟨(lport { state := .sleep, phyReady := true }), (2 : FabPort), (600 : W64), (3 : ℕ), by decide +kernel⟩

theorem witness_PowerAndReliabilityCommands_1 :
    (∃ (s : State) (p : PartId) (k : Packet) (op : ℕ) (ph : ℕ), hasRight s p.val 4 = true ∧ Starts s p 2305 k ∧ formCheck k 2 3 [] = none ∧ par k 0 1 ≤ 3 ∧ par k 1 1 ≤ 2 ∧ (op = if pktExpert k = true then par k 2 1 else aimPoint (par k 0 1) (par k 1 1)) ∧ op ≤ 7 ∧ ph ≤ 3 ∧ ph ≠ par k 0 1) ∧
    (∃ (s : State) (p : PartId) (k : Packet) (op : ℕ) (q : ℕ), hasRight s p.val 4 = true ∧ Starts s p 2305 k ∧ formCheck k 2 3 [] = none ∧ par k 0 1 ≤ 3 ∧ par k 1 1 ≤ 2 ∧ (op = if pktExpert k = true then par k 2 1 else aimPoint (par k 0 1) (par k 1 1)) ∧ op ≤ 7 ∧ q ≠ p.val) ∧
    (∃ (s : State) (p : PartId) (k : Packet), hasRight s p.val 4 = true ∧ Starts s p 2306 k ∧ formCheck k 4 4 [] = none ∧ (par k 0 4 = 0 ∨ s.ncores * 5530 + 1500 ≤ par k 0 4)) ∧
    (∃ (s : State) (p : PartId) (k : Packet), hasRight s p.val 4 = true ∧ Starts s p 2307 k ∧ formCheck k 1 1 [] = none ∧ 85 ≤ par k 0 1 ∧ par k 0 1 ≤ 115) ∧
    (∃ (s : State) (p : PartId) (k : Packet) (es : List ℕ), hasRight s p.val 5 = true ∧ Starts s p 2561 k ∧ formCheck k 0 10 [] = none ∧ pktExpert k = false ∧ s.rel.probe = none ∧ (∀ (c : Fin 64), BitVec.getLsbD (s.part p.val).cores c.val = true → c.val < s.ncores) ∧ (es = List.filter (fun (i : ℕ) => nbit (BitVec.toNat (s.part p.val).cores) (i / 8)) (Machine.rotation s)) ∧ 3 ≤ es.length ∧ s.rennet.entropyFail = false ∧ s.rennet.drbgOn = true) ∧
    (∃ (s : State) (p : PartId) (k : Packet) (n : ℕ) (c : ℕ) (e : ℕ) (e' : ℕ), hasRight s p.val 5 = true ∧ Starts s p 2562 k ∧ formCheck k 4 4 [(1, 1)] = none ∧ par k 0 1 = 0 ∧ n = par k 2 2 ∧ n < 8 * s.ncores ∧ c = n / 8 ∧ e = n % 8 ∧ (s.engine c e).state ≠ EngState.fenced ∧ (∃ i < 8, i ≠ e ∧ (s.engine c i).state ≠ EngState.fenced) ∧ e' ≠ e) :=
   ⟨⟨sPP, (0 : PartId), (kOf sPP), (aimPoint 1 1), (0 : ℕ), by decide +kernel⟩,
    ⟨sPP, (0 : PartId), (kOf sPP), (aimPoint 1 1), (1 : ℕ), by decide +kernel⟩,
    ⟨sPC, (0 : PartId), (kOf sPC), by decide +kernel⟩,
    ⟨sTh, (0 : PartId), (kOf sTh), by decide +kernel⟩,
    ⟨sPr, (0 : PartId), (kOf sPr), ((rotation sPr).filter (fun i => nbit (sPr.part (0 : PartId).val).cores.toNat (i / 8))), by decide +kernel⟩,
    ⟨sFe, (0 : PartId), (kOf sFe), (9 : ℕ), (1 : ℕ), (1 : ℕ), (0 : ℕ), by decide +kernel⟩⟩

theorem witness_PowerAndReliabilityCommands_2 :
    (∃ (s : State) (p : PartId) (k : Packet) (n : ℕ) (c : ℕ) (e : ℕ) (c' : ℕ), hasRight s p.val 5 = true ∧ Starts s p 2562 k ∧ formCheck k 4 4 [(1, 1)] = none ∧ par k 0 1 = 0 ∧ n = par k 2 2 ∧ n < 8 * s.ncores ∧ c = n / 8 ∧ e = n % 8 ∧ (s.engine c e).state ≠ EngState.fenced ∧ (∃ i < 8, i ≠ e ∧ (s.engine c i).state ≠ EngState.fenced) ∧ c' ≠ c) ∧
    (∃ (s : State) (p : PartId) (k : Packet) (n : ℕ) (c : ℕ) (e : ℕ) (e' : ℕ), hasRight s p.val 5 = true ∧ Starts s p 2563 k ∧ formCheck k 4 4 [(1, 1)] = none ∧ par k 0 1 = 0 ∧ n = par k 2 2 ∧ n < 8 * s.ncores ∧ c = n / 8 ∧ e = n % 8 ∧ (s.engine c e).state = EngState.fenced ∧ (s.core c).on = true ∧ e' ≠ e) ∧
    (∃ (s : State) (p : PartId) (k : Packet) (n : ℕ) (c : ℕ) (e : ℕ) (c' : ℕ), hasRight s p.val 5 = true ∧ Starts s p 2563 k ∧ formCheck k 4 4 [(1, 1)] = none ∧ par k 0 1 = 0 ∧ n = par k 2 2 ∧ n < 8 * s.ncores ∧ c = n / 8 ∧ e = n % 8 ∧ (s.engine c e).state = EngState.fenced ∧ (s.core c).on = true ∧ c' ≠ c) ∧
    (∃ (s : State) (p : PartId) (d : Pend) (pr : Probe), s.rel.probe = some pr ∧ pr.pend = some d ∧ d.part = p.val ∧ pr.rounds < 65536) ∧
    (∃ (s : State) (job : Fin (OfNat.ofNat 16)) (interval : W32), (tget { valid := false, owner := 0, members := [], interval := 64, held := [] } s.fab.jobs job.val).valid = true ∧ (((List.filter (fun (h : W32 × ℕ × W64 × W64 × Bool) => h.1 == interval) (tget { valid := false, owner := 0, members := [], interval := 64, held := [] } s.fab.jobs job.val).held).any fun (h : W32 × ℕ × W64 × W64 × Bool) => decide (BitVec.toNat h.2.2.1 + 16 * 65536 ≤ extTime s)) = true) ∧ ((List.map (fun (h : W32 × ℕ × W64 × W64 × Bool) => h.2.2.2.1) (List.filter (fun (h : W32 × ℕ × W64 × W64 × Bool) => h.2.2.2.2) (List.filter (fun (h : W32 × ℕ × W64 × W64 × Bool) => h.1 == interval) (tget { valid := false, owner := 0, members := [], interval := 64, held := [] } s.fab.jobs job.val).held))).dedup.length ≤ 1)) :=
   ⟨⟨sFe, (0 : PartId), (kOf sFe), (9 : ℕ), (1 : ℕ), (1 : ℕ), (0 : ℕ), by decide +kernel⟩,
    ⟨sUn, (0 : PartId), (kOf sUn), (9 : ℕ), (1 : ℕ), (1 : ℕ), (0 : ℕ), by decide +kernel⟩,
    ⟨sUn, (0 : PartId), (kOf sUn), (9 : ℕ), (1 : ℕ), (1 : ℕ), (0 : ℕ), by decide +kernel⟩,
    ⟨sPrC, (0 : PartId), (pendOf 0 (kOf sPr)), ({ pend := some (pendOf 0 (kOf sPr)), engines := [1,2,3], rounds := 64 } : Probe), by decide +kernel⟩,
    ⟨sVote, (3 : Fin (OfNat.ofNat 16)), (5 : W32), by decide +kernel⟩⟩

end Fab

namespace Fuses

def put (s : State) (a : Nat) (l : List Byte) : State := devPut s 0 a l
def dr (s : State) : State := { s with rennet.drbgOn := true, otp.supplyOk := true, otp.serial := 0x1234 }
def sProg : State := dr (put { wcmd 0x0E04 0xFFFFFFFF (b1 1 ++ padTo 3 [] ++ b4 16 ++ b6 0x1000 ++ b2 0 ++ b4 8) with otp.cells := [(0x92, 8)] } 0x1000 (b8 0x1234567890F1))
def cells4 : Mem := setWritten [] (wordsIn (regionOff 4) 48)
def sFin : State := dr { wcmd 0x0E05 0xFFFFFFFF (b1 4) with otp.cells := cells4, otp.shadow := cells4 }
def cellsAt (s : State) (m : Mem) : State := { s with mem.t3 := m, mem.maps := [(0, [(0, { wblk 0 with written := true })])] }
def reqCells (kind arg lim : Byte) : Mem := [(0x1000, 0x43), (0x1001, 0x4C), (0x1002, 0x54), (0x1003, 0x53), (0x1004, kind), (0x1006, 1)] ++ (if arg = 0 then [] else [(0x1007, arg)]) ++ [(0x1008, 0x34), (0x1009, 0x12)] ++ (if lim = 0 then [] else [(0x103C, lim)])
def sTr : State := { dr (cellsAt (wcmd 0x0E02 0xFFFFFFFF (b6 0x1000 ++ b2 0 ++ b4 7680)) (reqCells 1 3 0)) with otp.lc := 1, rennet.nonce := some (List.replicate 32 0, 0) }
def sDb : State := { dr (cellsAt (wcmd 0x0E03 0xFFFFFFFF (b6 0x1000 ++ b2 0 ++ b4 7680)) (reqCells 3 0 3)) with otp.lc := 1 }
def sNo : State := dr (wcmd 0x0E01 0xFFFFFFFF (b6 0x1000 ++ b2 0))
def sUp : State := { dr (put (wcmd 0x0D03 0xFFFFFFFF (b6 0x1000 ++ b2 0 ++ b4 8192)) 0x1000 [1,2,3]) with rennet.boot := .verified }
def mbw (m : Nat) (code : Nat) (ws : List Nat) (s : State) : State := dr (s.modMbx m (fun q => { q with out := ((0x050000 + code) :: (ws ++ List.replicate 7 0).take 7).map (BitVec.ofNat 32), outFull := true }))
def sMN := mbw 0 0x0201 [0] wbase
def sNE : State := { dr wbase with rennet.nonce := some ([1], 5) }
def sRB := mbw 0 0x0210 [1, 7680] wbase
def sRD (o : Nat) := mbw 0 0x0211 [o,1,2,3,4,5,6] { wbase with rennet.req := some { holder := 0, kind := 1, len := 7680, bytes := List.replicate 24 1 } }
def sRE := mbw 0 0x0212 [] { wbase with rennet.req := some { holder := 0, kind := 1, len := 7680, bytes := List.replicate 24 1 } }
def sEn := mbw 0 0x0230 [] { wbase with otp.lc := 0 }
def sIB := mbw 0 0x0010 [9000] { wbase with rennet.boot := .degraded }
def xf (n : Nat) : Transfer := { holder := 0, len := 9000, staged := List.replicate n 0, ok := decide (8192 ≤ n) }
def sID (o : Nat) : State := mbw 0 0x0011 [o,1,2,3,4,5,6] { wbase with rennet.boot := .recovery, rennet.xfer := some (xf 48) }
def sIE : State := mbw 0 0x0012 [] { wbase with rennet.boot := .recovery, rennet.xfer := some (xf 9000) }
def sIA : State := mbw 0 0x0013 [] { wbase with rennet.boot := .recovery, rennet.xfer := some (xf 48) }
def sIR : State := mbw 0 0x0014 [] { wbase with rennet.boot := .recovery, rennet.xfer := some { xf 9000 with isEnded := true } }
def inv (s : State) : State := s.modMbx 0 (fun q => { q with inValid := true })
def sI1 := mbw 0 1 [] wbase
def sI2 := mbw 0 2 [] wbase
def sRI := mbw 0 0x30 [] wbase
def sRIn := (mbw 0 0x30 [] wbase).modPart 0 (fun q => { q with rights := 0 })
def en1 : RindEntry := { seq := 4, code := 0x201, pinned := false, carried := false, degraded := false, ts := 5, body := [1,2], origSeq := 4, link := [] }
def sRR := mbw 0 0x31 [4, 1] { wbase with rel.segs := [(0, { opened := true, entries := [en1] })] }
def sBL := mbw 64 0x20 [96, 20] { wbase with otp.lc := 1 }
def sBS := mbw 64 0x21 [20, 96] { wbase with otp.lc := 1 }

set_option maxRecDepth 1000000 in
theorem witness_MailboxTransfers_ImageTransferMessages_1 :
    (∃ (s : State) (m : MbxId), m.val ≠ 64 ∧ Serves s m 16 ∧ s.rennet.boot = BootState.degraded ∧ s.otp.lc ≠ 4 ∧ s.rennet.xfer = none ∧ manifestLen ≤ BitVec.toNat ((mailWords s m).getD 0 0) ∧ BitVec.toNat ((mailWords s m).getD 0 0) ≤ 2039808) ∧
    (∃ (s : State) (m : MbxId) (x : Transfer), s.rennet.xfer = some x ∧ x.holder = m.val ∧ x.isEnded = false ∧ Serves s m 17 ∧ BitVec.toNat ((mailWords s m).getD 0 0) = x.staged.length ∧ x.staged.length + 24 < manifestLen ∧ manifestLen ≤ x.len) ∧
    (∃ (s : State) (m : MbxId) (x : Transfer) (now : W64), s.rennet.xfer = some x ∧ x.holder = m.val ∧ x.isEnded = false ∧ BitVec.toNat s.ts ≤ BitVec.toNat now ∧ BitVec.toNat x.lastTs + 1000000000 ≤ BitVec.toNat now) ∧
    (∃ (s : State) (m : MbxId) (x : Transfer), s.rennet.xfer = some x ∧ x.holder = m.val ∧ x.isEnded = false ∧ Serves s m 17 ∧ BitVec.toNat ((mailWords s m).getD 0 0) ≠ x.staged.length) ∧
    (∃ (s : State) (m : MbxId) (x : Transfer) (a : ℕ), s.rennet.xfer = some x ∧ x.holder = m.val ∧ x.isEnded = false ∧ Serves s m 18 ∧ x.ok = true ∧ x.staged.length = x.len ∧ sectsOk (List.take manifestLen x.staged) x.staged = true ∧ m.val ≠ 64 ∧ manifestLen ≤ a) ∧
    (∃ (s : State) (m : MbxId) (x : Transfer), s.rennet.xfer = some x ∧ x.holder = m.val ∧ x.isEnded = false ∧ Serves s m 19) :=
   ⟨⟨sIB, (0 : MbxId), by decide +kernel⟩,
    ⟨(sID 48), (0 : MbxId), ((sID 48).rennet.xfer.getD {holder := 0, len := 0}), by decide +kernel⟩,
    ⟨(sID 48), (0 : MbxId), ((sID 48).rennet.xfer.getD {holder := 0, len := 0}), (1000000000 : W64), by decide +kernel⟩,
    ⟨(sID 72), (0 : MbxId), ((sID 72).rennet.xfer.getD {holder := 0, len := 0}), by decide +kernel⟩,
    ⟨sIE, (0 : MbxId), (sIE.rennet.xfer.getD {holder := 0, len := 0}), (9000 : ℕ), rfl, by decide +kernel⟩,
    ⟨sIA, (0 : MbxId), (sIA.rennet.xfer.getD {holder := 0, len := 0}), by decide +kernel⟩⟩

set_option maxRecDepth 1000000 in
theorem witness_MailboxTransfers_ImageTransferMessages_2 :
    ∃ (s : State) (m : MbxId) (x : Transfer), s.rennet.xfer = some x ∧ x.holder = m.val ∧ x.isEnded = true ∧ s.rennet.boot = BootState.recovery ∧ Serves s m 20 :=
   ⟨sIR, (0 : MbxId), (sIR.rennet.xfer.getD {holder := 0, len := 0}), rfl, by decide +kernel⟩

set_option maxRecDepth 1000000 in
theorem witness_NoncesRequestsAndUpdates_1 :
    (∃ (s : State) (p : PartId) (k : Packet), s.rennet.entropyFail = false ∧ s.rennet.drbgOn = true ∧ Starts s p 3585 k ∧ formCheck k 8 8 [] = none ∧ addrOk k 0 = true ∧ anyBlock s p.val (parAddr k 0) 32 BlockState.unmapped = false) ∧
    (∃ (s : State) (p : PartId) (k : Packet) (bs : List Byte), bs = devRead s p.val (parAddr k 0) (par k 8 4) ∧ s.rennet.entropyFail = false ∧ s.rennet.drbgOn = true ∧ Starts s p 3331 k ∧ hasRight s p.val 9 = true ∧ formCheck k 12 12 [] = none ∧ addrOk k 0 = true ∧ manifestLen ≤ par k 8 4 ∧ par k 8 4 ≤ 2039808 ∧ parAddr k 0 + par k 8 4 ≤ 2 ^ 48 ∧ s.rennet.boot = BootState.verified ∧ s.rennet.xfer = none ∧ anyBlock s p.val (parAddr k 0) (par k 8 4) BlockState.unmapped = false ∧ anyBlock s p.val (parAddr k 0) (par k 8 4) BlockState.poisoned = false) ∧
    (∃ (s : State) (m : MbxId), s.rennet.entropyFail = false ∧ s.rennet.drbgOn = true ∧ Serves s m 513 ∧ (mailWords s m).getD 0 0 = 0) ∧
    (∃ (s : State) (n : List Byte) (ts : W64) (now : W64), s.rennet.entropyFail = false ∧ s.rennet.drbgOn = true ∧ s.rennet.nonce = some (n, ts) ∧ BitVec.toNat s.ts ≤ BitVec.toNat now ∧ BitVec.toNat now < BitVec.toNat ts + 60000000000) ∧
    (∃ (s : State) (n : List Byte) (ts : W64) (now : W64), s.rennet.entropyFail = false ∧ s.rennet.drbgOn = true ∧ s.rennet.nonce = some (n, ts) ∧ BitVec.toNat s.ts ≤ BitVec.toNat now ∧ BitVec.toNat ts + 60000000000 ≤ BitVec.toNat now) ∧
    (∃ (s : State) (m : MbxId), s.rennet.entropyFail = false ∧ s.rennet.drbgOn = true ∧ m.val ≠ 64 ∧ Serves s m 528 ∧ (s.rennet.req = none ∨ ∃ (x : ReqXfer), s.rennet.req = some x ∧ x.holder = m.val)) :=
   ⟨⟨sNo, (0 : PartId), (kOf sNo), by decide +kernel⟩,
    ⟨sUp, (0 : PartId), (kOf sUp), (devRead sUp (0 : PartId).val (parAddr (kOf sUp) 0) (par (kOf sUp) 8 4)), rfl, by decide +kernel⟩,
    ⟨sMN, (0 : MbxId), by decide +kernel⟩,
    ⟨sNE, ([1] : List Byte), (5 : W64), (600 : W64), by decide +kernel⟩,
    ⟨sNE, ([1] : List Byte), (5 : W64), (60000000005 : W64), by decide +kernel⟩,
    ⟨sRB, (0 : MbxId), by decide +kernel⟩⟩

set_option maxRecDepth 1000000 in
theorem witness_NoncesRequestsAndUpdates_2 :
    (∃ (s : State) (m : MbxId) (x : ReqXfer), s.rennet.entropyFail = false ∧ s.rennet.drbgOn = true ∧ s.rennet.req = some x ∧ x.holder = m.val ∧ Serves s m 529 ∧ BitVec.toNat ((mailWords s m).getD 0 0) = x.bytes.length ∧ x.bytes.length < x.len) ∧
    (∃ (s : State) (m : MbxId) (x : ReqXfer), s.rennet.entropyFail = false ∧ s.rennet.drbgOn = true ∧ s.rennet.req = some x ∧ x.holder = m.val ∧ Serves s m 529 ∧ BitVec.toNat ((mailWords s m).getD 0 0) ≠ x.bytes.length) ∧
    (∃ (s : State) (m : MbxId) (x : ReqXfer), s.rennet.entropyFail = false ∧ s.rennet.drbgOn = true ∧ s.rennet.req = some x ∧ x.holder = m.val ∧ Serves s m 530) ∧
    (∃ (s : State) (m : MbxId), s.rennet.entropyFail = false ∧ s.rennet.drbgOn = true ∧ Serves s m 560 ∧ s.otp.lc = 0 ∧ Mem.wf 0 s.otp.cells = true ∧ Mem.wf 0 s.otp.shadow = true ∧ (wordsIn 640 4160).any (fuseWritten s.otp.cells) = false ∧ fuseLocked s.otp.cells 2 = false) :=
   ⟨⟨(sRD 24), (0 : MbxId), ((sRD 24).rennet.req.getD {holder := 0, kind := 0, len := 0}), by decide +kernel⟩,
    ⟨(sRD 48), (0 : MbxId), ((sRD 48).rennet.req.getD {holder := 0, kind := 0, len := 0}), by decide +kernel⟩,
    ⟨sRE, (0 : MbxId), (sRE.rennet.req.getD {holder := 0, kind := 0, len := 0}), by decide +kernel⟩,
    ⟨sEn, (0 : MbxId), by decide +kernel⟩⟩

set_option maxRecDepth 1000000 in
theorem witness_OneTimeMemoryCommands_1 :
    (∃ (s : State) (p : PartId) (k : Packet) (n : ℕ) (addr : ℕ) (len : ℕ) (bs : List Byte) (w : ℕ), hasRight s p.val 10 = true ∧ Mem.wf 0 s.otp.cells = true ∧ Mem.wf 0 s.otp.shadow = true ∧ Starts s p 3588 k ∧ formCheck k 20 20 [(1, 3)] = none ∧ n = par k 0 1 ∧ n ≤ 8 ∧ n ≠ 2 ∧ n ≠ 3 ∧ par k 4 4 % 4 = 0 ∧ addrOk k 8 = true ∧ len = par k 16 4 ∧ len % 4 = 0 ∧ len ≠ 0 ∧ par k 4 4 + len ≤ regionLen s.otp.cells n ∧ (regionStates n).contains s.otp.lc.toNat = true ∧ fuseLocked s.otp.cells n = false ∧ addr = regionOff n + par k 4 4 ∧ anyBlock s p.val (parAddr k 8) len BlockState.unmapped = false ∧ anyBlock s p.val (parAddr k 8) len BlockState.poisoned = false ∧ bs = devRead s p.val (parAddr k 8) len ∧ (wordsIn addr len).any (fuseWritten s.otp.cells) = false ∧ ((bs.zipIdx.any fun (e : Byte × ℕ) => mget 0 s.otp.cells (addr + e.2) &&& ~~~e.1 != 0) = false) ∧ w ∈ wordsIn addr len) ∧
    (∃ (s : State) (p : PartId) (k : Packet) (n : ℕ) (addr : ℕ) (len : ℕ) (bs : List Byte) (a : ℕ) (j : ℕ), hasRight s p.val 10 = true ∧ Mem.wf 0 s.otp.cells = true ∧ Mem.wf 0 s.otp.shadow = true ∧ Starts s p 3588 k ∧ formCheck k 20 20 [(1, 3)] = none ∧ n = par k 0 1 ∧ n ≤ 8 ∧ n ≠ 2 ∧ n ≠ 3 ∧ par k 4 4 % 4 = 0 ∧ addrOk k 8 = true ∧ len = par k 16 4 ∧ len % 4 = 0 ∧ len ≠ 0 ∧ par k 4 4 + len ≤ regionLen s.otp.cells n ∧ (regionStates n).contains s.otp.lc.toNat = true ∧ fuseLocked s.otp.cells n = false ∧ addr = regionOff n + par k 4 4 ∧ anyBlock s p.val (parAddr k 8) len BlockState.unmapped = false ∧ anyBlock s p.val (parAddr k 8) len BlockState.poisoned = false ∧ bs = devRead s p.val (parAddr k 8) len ∧ (wordsIn addr len).any (fuseWritten s.otp.cells) = false ∧ ((bs.zipIdx.any fun (e : Byte × ℕ) => mget 0 s.otp.cells (addr + e.2) &&& ~~~e.1 != 0) = false) ∧ BitVec.getLsbD (mget 0 s.otp.cells a) j = true) :=
   ⟨⟨sProg, (0 : PartId), (kOf sProg), (par (kOf sProg) 0 1), (regionOff (par (kOf sProg) 0 1) + par (kOf sProg) 4 4), (par (kOf sProg) 16 4), (devRead sProg (0 : PartId).val (parAddr (kOf sProg) 8) (par (kOf sProg) 16 4)), (wordsIn 0x90 8 |>.headD 0), by decide +kernel⟩,
    ⟨sProg, (0 : PartId), (kOf sProg), (par (kOf sProg) 0 1), (regionOff (par (kOf sProg) 0 1) + par (kOf sProg) 4 4), (par (kOf sProg) 16 4), (devRead sProg (0 : PartId).val (parAddr (kOf sProg) 8) (par (kOf sProg) 16 4)), (0x92 : ℕ), (3 : ℕ), by decide +kernel⟩⟩

set_option maxRecDepth 1000000 in
theorem witness_OneTimeMemoryCommands_2 :
    (∃ (s : State) (p : PartId) (k : Packet) (n : ℕ) (addr : ℕ) (len : ℕ) (bs : List Byte) (i : ℕ), hasRight s p.val 10 = true ∧ Mem.wf 0 s.otp.cells = true ∧ Mem.wf 0 s.otp.shadow = true ∧ Starts s p 3588 k ∧ formCheck k 20 20 [(1, 3)] = none ∧ n = par k 0 1 ∧ n ≤ 8 ∧ n ≠ 2 ∧ n ≠ 3 ∧ par k 4 4 % 4 = 0 ∧ addrOk k 8 = true ∧ len = par k 16 4 ∧ len % 4 = 0 ∧ len ≠ 0 ∧ par k 4 4 + len ≤ regionLen s.otp.cells n ∧ (regionStates n).contains s.otp.lc.toNat = true ∧ fuseLocked s.otp.cells n = false ∧ addr = regionOff n + par k 4 4 ∧ anyBlock s p.val (parAddr k 8) len BlockState.unmapped = false ∧ anyBlock s p.val (parAddr k 8) len BlockState.poisoned = false ∧ bs = devRead s p.val (parAddr k 8) len ∧ (wordsIn addr len).any (fuseWritten s.otp.cells) = false ∧ ((bs.zipIdx.any fun (e : Byte × ℕ) => mget 0 s.otp.cells (addr + e.2) &&& ~~~e.1 != 0) = false) ∧ missingBits s.otp.cells addr bs ≠ [] ∧ i < len) ∧
    (∃ (s : State) (p : PartId) (k : Packet) (n : ℕ) (a : ℕ) (j : ℕ), hasRight s p.val 10 = true ∧ Mem.wf 0 s.otp.cells = true ∧ Mem.wf 0 s.otp.shadow = true ∧ Starts s p 3589 k ∧ formCheck k 1 1 [] = none ∧ n = par k 0 1 ∧ n ≤ 8 ∧ fuseLocked s.otp.cells n = false ∧ (wordsIn (regionOff n) (regionLen s.otp.cells n)).all (fuseWritten s.otp.cells) = true ∧ s.otp.weak = [] ∧ BitVec.getLsbD (mget 0 s.otp.cells a) j = true) ∧
    (∃ (s : State) (p : PartId) (k : Packet) (b : List Byte), b = devRead s p.val (parAddr k 0) 7680 ∧ hasRight s p.val 10 = true ∧ Mem.wf 0 s.otp.cells = true ∧ Mem.wf 0 s.otp.shadow = true ∧ formCheck k 12 12 [] = none ∧ addrOk k 0 = true ∧ par k 8 4 = 7680 ∧ parAddr k 0 + 7680 ≤ 2 ^ 48 ∧ anyBlock s p.val (parAddr k 0) 7680 BlockState.unmapped = false ∧ anyBlock s p.val (parAddr k 0) 7680 BlockState.poisoned = false ∧ requestFormat b = none ∧ field b 8 16 = s.otp.serial.toNat ∧ (s.part p.val).state = PartState.ready ∧ Starts s p 3586 k ∧ field b 4 2 = 1 ∧ field b 7 1 = 3) :=
   ⟨⟨sProg, (0 : PartId), (kOf sProg), (par (kOf sProg) 0 1), (regionOff (par (kOf sProg) 0 1) + par (kOf sProg) 4 4), (par (kOf sProg) 16 4), (devRead sProg (0 : PartId).val (parAddr (kOf sProg) 8) (par (kOf sProg) 16 4)), (0 : ℕ), by decide +kernel⟩,
    ⟨sFin, (0 : PartId), (kOf sFin), (par (kOf sFin) 0 1), (0x37B9 : ℕ), (4 : ℕ), by decide +kernel⟩,
    ⟨sTr, (0 : PartId), (kOf sTr), (devRead sTr (0 : PartId).val (parAddr (kOf sTr) 0) 7680), rfl, by decide +kernel⟩⟩

set_option maxRecDepth 1000000 in
theorem witness_OneTimeMemoryCommands_3 :
    ∃ (s : State) (p : PartId) (k : Packet) (b : List Byte), b = devRead s p.val (parAddr k 0) 7680 ∧ hasRight s p.val 10 = true ∧ Mem.wf 0 s.otp.cells = true ∧ Mem.wf 0 s.otp.shadow = true ∧ formCheck k 12 12 [] = none ∧ addrOk k 0 = true ∧ par k 8 4 = 7680 ∧ parAddr k 0 + 7680 ≤ 2 ^ 48 ∧ anyBlock s p.val (parAddr k 0) 7680 BlockState.unmapped = false ∧ anyBlock s p.val (parAddr k 0) 7680 BlockState.poisoned = false ∧ requestFormat b = none ∧ field b 8 16 = s.otp.serial.toNat ∧ (s.part p.val).state = PartState.ready ∧ Starts s p 3587 k ∧ field b 4 2 = 3 :=
   ⟨sDb, (0 : PartId), (kOf sDb), (devRead sDb (0 : PartId).val (parAddr (kOf sDb) 0) 7680), rfl, by decide +kernel⟩

theorem witness_MailboxTransfers_ReadingAndStoringMessages_1 :
    (∃ (s : State) (m : MbxId) (n : ℕ), Serves s m 1 ∧ (s.mbx m.val).inValid = false ∧ n ≠ m.val) ∧
    (∃ (s : State) (m : MbxId), Serves s m 1 ∧ (s.mbx m.val).inValid = true) ∧
    (∃ (s : State) (m : MbxId), Serves s m 2) ∧
    (∃ (s : State) (m : MbxId), Serves s m 48 ∧ mayReadRind s m.val = true) ∧
    (∃ (s : State) (m : MbxId), Serves s m 48 ∧ mayReadRind s m.val = false) ∧
    (∃ (s : State) (m : MbxId) (e : RindEntry), Serves s m 49 ∧ mayReadRind s m.val = true ∧ (List.find? (fun (x : RindEntry) => x.seq == (mailWords s m).getD 0 0) (rindEntries s) = some e) ∧ BitVec.toNat ((mailWords s m).getD 1 0) ≤ 1) :=
   ⟨⟨sI1, (0 : MbxId), (64 : ℕ), by decide +kernel⟩,
    ⟨(inv sI1), (0 : MbxId), by decide +kernel⟩,
    ⟨sI2, (0 : MbxId), by decide +kernel⟩,
    ⟨sRI, (0 : MbxId), by decide +kernel⟩,
    ⟨sRIn, (0 : MbxId), by decide +kernel⟩,
    ⟨sRR, (0 : MbxId), en1, by decide +kernel⟩⟩

theorem witness_MailboxTransfers_ReadingAndStoringMessages_2 :
    (∃ (s : State) (m : MbxId) (off : ℕ) (slot : ℕ) (b : List Byte), m.val = 64 ∧ blobKeyOk s = true ∧ Serves s m 32 ∧ off = BitVec.toNat ((mailWords s m).getD 0 0) ∧ slot = BitVec.toNat ((mailWords s m).getD 1 0) % 64 ∧ off + 96 ≤ 262144 ∧ 16 ≤ slot ∧ b = norRead s (2228224 + off) 96) ∧
    (∃ (s : State) (m : MbxId) (off : ℕ) (slot : ℕ) (a : ℕ), m.val = 64 ∧ blobKeyOk s = true ∧ Serves s m 33 ∧ slot = BitVec.toNat ((mailWords s m).getD 0 0) ∧ off = BitVec.toNat ((mailWords s m).getD 1 0) ∧ off + 96 ≤ 262144 ∧ 16 ≤ slot ∧ slot ≤ 63 ∧ s.rennet.entropyFail = false ∧ s.rennet.drbgOn = true ∧ (a < 2228224 + off ∨ 2228224 + off + 96 ≤ a)) :=
   ⟨⟨sBL, (64 : MbxId), (96 : ℕ), (20 : ℕ), (norRead sBL (0x220000 + (96 : ℕ)) 96), by decide +kernel⟩,
    ⟨sBS, (64 : MbxId), (96 : ℕ), (20 : ℕ), (0x22005F : ℕ), by decide +kernel⟩⟩

end Fuses

namespace Attest

def put (s : State) (a : Nat) (l : List Byte) : State := devPut s 0 a l
def dr (s : State) : State := { s with rennet.drbgOn := true, otp.serial := 0x1234, rennet.boot := .verified, otp.lc := 1, rennet.step := 15, rennet.aliasCerts := [[1],[2]], fab.id := 5, fab.idState := 2, fab.db := [(9, { serial := 77, beaconSeq := some 1 })] }
def sEv (cap : Nat) : State := dr (wcmd 0x0B02 0xFFFFFFFF (padTo 32 [1,2] ++ b6 0x1000 ++ b2 0 ++ b4 cap))
def sSp (cap : Nat) : State := dr (put (wcmd 0x0B01 0xFFFFFFFF (b6 0x1000 ++ b2 0 ++ b4 20 ++ b6 0x2000 ++ b2 0 ++ b4 cap)) 0x1000 [1,2,3])
def sSF : State := dr (put (wcmd 0x0C01 0xFFFFFFFF (b1 2 ++ padTo 7 [] ++ b6 0x1000 ++ b2 0)) 0x1000 (b2 9 ++ b2 5))
def sSF2 : State := { sSF with fab.db := [(9, { serial := 0x9977, beaconSeq := some 1 })] }
def gx : Nat := 0xaa87ca22be8b05378eb1c71ef320ad746e1d3b628ba79b9859f741e082542a385502f25dbf55296c3a545e3872760ab7
def gy : Nat := 0x3617de4a96262c6f5d9e98bf9292dc29f8f41dbd289a147ce9da3113b5f0b8c00a60b1ce1d7e819d7a431d7c90ea0e5f
def pt : List Byte := 4 :: (leBytes 48 gx).reverse ++ (leBytes 48 gy).reverse
def lb : List Byte := (padTo 472 (b4 0x53544D4C ++ b2 1 ++ b2 0 ++ padTo 16 [9] ++ b4 3 ++ b1 0 ++ b1 0 ++ b2 0 ++ padTo 32 [4] ++ b4 2 ++ b4 0 ++ b8 1 ++ b8 0) ++ pt)
def sLL : State := { dr (put (wcmd 0x0C02 0xFFFFFFFF (b6 0x1000 ++ b2 0 ++ b4 2208)) 0x1000 lb) with att.sets := [(0, { setId := padTo 32 [4], epoch := 2, members := [] })] }
def sLD (v : Bool) (o : Nat) : State := { dr (wcmd 0x0C03 3 []) with att.lics := [(3, { valid := v, part := o })] }
def fm (c : Option Nat) (e : Nat) (sk : List Byte) : Formation := { pend := pendOf 0 (kOf sSF), setId := [8], peers := [{ dev := 9, serial := 77 }], coord := c, nonce := [5], eph := List.replicate e 1, sk := sk, epoch := 3, startTs := 0 }
def fo (o : Bool) : Formation := { fm none 4 [3] with peers := [{ dev := 9, serial := 77, offered := o}, { dev := 10, serial := 78, offered := o }] }
def f1 (c : List Byte → Bool) : Formation := { fm none 4 [3] with peers := [{ dev := 9, serial := 77, offered := true}] }
def wf (f : Option Formation) : State := { dr wbase with att.forming := f }
def sHe : State := { dr wbase with att.hello := some (9, [1], [2]) }
def tok : EvToken := { raw := [], nonce := [5], secboot := true, dbgstat := 1, lifeCycle := 1, integ := none, serial := 77 }
def off : SetOffer := { token := tok, kemKey := [], ecPub := pt, nonce := [6], epoch := 4 }
def ses (e : Bool) : SpdmSession := { source := 0, dev := none, route := 0, id := 1, estab := e }
def sSe (e : Bool) : State := { dr wbase with att.sessions := [(0, ses e)], att.nSess := 1, rennet.cave := [(10, List.replicate 64 7),(11, List.replicate 64 7),(3,[1])] }
def mbw (m : Nat) (code : Nat) (ws : List Nat) (s : State) : State := dr (s.modMbx m (fun q => { q with out := ((0x050000 + code) :: (ws ++ List.replicate 7 0).take 7).map (BitVec.ofNat 32), outFull := true }))
def rq (h n : Nat) : ReqXfer := { holder := h, kind := 0, len := 48, bytes := List.replicate n 1 }
def mB := mbw 0 0x100 [48] wbase
def mBo := mbw 0 0x100 [48] { wbase with att.req := some (rq 3 24) }
def mD (o : Nat) := mbw 0 0x101 [o,1,2,3,4,5,6] { wbase with att.req := some (rq 0 24) }
def mE (n : Nat) := mbw 0 0x102 [] { wbase with att.req := some (rq 0 n) }
def mR (o : Nat) := mbw 0 0x103 [o] { wbase with att.mailRsp := some { holder := 0, bytes := List.replicate 50 1, offset := 24 } }

set_option maxRecDepth 1000000 in
theorem witness_AttestationCommands_1 :
    (∃ (s : State) (p : PartId) (k : Packet) (out : ℕ) (r : State × List Byte), out = parAddr k 32 ∧ r = evidenceToken (withAlias (takeHand s p.val)) p.val (parBytes k 0 32) ∧ Starts s p 2818 k ∧ formCheck k 44 45 [] = none ∧ pktExpert k = false ∧ addrOk k 32 = true) ∧
    (∃ (s : State) (p : PartId) (k : Packet) (len : ℕ) (out : ℕ) (r : State × List Byte), len = par k 8 4 ∧ out = parAddr k 12 ∧ r = spdmMessage (takeHand s p.val) (SpdmSource.ring p) (devRead s p.val (parAddr k 0) len) ∧ Starts s p 2817 k ∧ formCheck k 24 24 [] = none ∧ addrOk k 0 = true ∧ addrOk k 12 = true ∧ 1 ≤ len ∧ len ≤ 4096 ∧ anyBlock s p.val (parAddr k 0) len BlockState.unmapped = false ∧ anyBlock s p.val (parAddr k 0) len BlockState.poisoned = false) ∧
    (∃ (s : State) (p : PartId) (k : Packet) (n : ℕ) (l : List Byte) (devs : List ℕ) (ms : List (ℕ × BitVec (OfNat.ofNat 128))), Starts s p 3073 k ∧ hasRight s p.val 6 = true ∧ formCheck k 16 16 [(1, 7)] = none ∧ addrOk k 8 = true ∧ n = par k 0 1 ∧ 2 ≤ n ∧ n ≤ 64 ∧ listOf s p.val k (2 * n) = ListCopy.bytes l ∧ (devs = List.map (fun (i : ℕ) => field l (2 * i) 2) (List.range n)) ∧ devs.Nodup ∧ (∀ d ∈ devs, (serialOf s d).isSome = true) ∧ devs.contains s.fab.id.toNat = true ∧ s.otp.degraded = false ∧ debugOpen s = false ∧ (s.otp.lc = 1 ∨ s.otp.lc = 2) ∧ s.att.forming = none ∧ s.att.hello = none ∧ List.length s.att.sets < 8 ∧ s.rennet.entropyFail = false ∧ s.rennet.drbgOn = true ∧ (ms = sortBy (fun (a b : ℕ × BitVec 128) => decide (a.2.toNat < b.2.toNat)) (List.map (fun (d : ℕ) => (d, (serialOf s d).getD 0)) devs))) :=
   ⟨⟨(sEv 4096), (0 : PartId), (kOf (sEv 4096)), (parAddr (kOf (sEv 4096)) 32), (evidenceToken (withAlias (takeHand (sEv 4096) (0 : PartId).val)) (0 : PartId).val (parBytes (kOf (sEv 4096)) 0 32)), rfl, rfl, by decide +kernel⟩,
    ⟨(sSp 4096), (0 : PartId), (kOf (sSp 4096)), (par (kOf (sSp 4096)) 8 4), (parAddr (kOf (sSp 4096)) 12), (spdmMessage (takeHand (sSp 4096) (0 : PartId).val) (.ring (0 : PartId)) (devRead (sSp 4096) (0 : PartId).val (parAddr (kOf (sSp 4096)) 0) (par (kOf (sSp 4096)) 8 4))), rfl, rfl, rfl, by decide +kernel⟩,
    ⟨sSF2, (0 : PartId), (kOf sSF2), (2 : ℕ), (devRead sSF2 (0 : PartId).val (parAddr (kOf sSF2) 8) 4), ([9,5] : List ℕ), ([(5,0x1234),(9,0x9977)] : List (ℕ × BitVec (OfNat.ofNat 128))), by decide +kernel⟩⟩

set_option maxRecDepth 1000000 in
theorem witness_AttestationCommands_2 :
    (∃ (s : State) (p : PartId) (k : Packet) (b : List Byte) (slot : ℕ) (i : ℕ) (g : BoundSet), b = devRead s p.val (parAddr k 0) 2208 ∧ hasRight s p.val 6 = true ∧ Starts s p 3074 k ∧ formCheck k 12 12 [] = none ∧ addrOk k 0 = true ∧ par k 8 4 = 2208 ∧ anyBlock s p.val (parAddr k 0) 2208 BlockState.unmapped = false ∧ anyBlock s p.val (parAddr k 0) 2208 BlockState.poisoned = false ∧ licFormat b = none ∧ nbit (field b 72 8) p.val = true ∧ field b 28 1 ≤ s.rennet.svnImage.toNat ∧ (firstFree (List.map (fun (x : ℕ × Licence) => x.1) (List.filter (fun (e : ℕ × Licence) => e.2.valid) s.att.lics)) 255 = some slot) ∧ (s.otp.lc = 1 ∨ s.otp.lc = 2) ∧ field b 6 2 = 0 ∧ heldSet s (slice b 32 32) = some (i, g) ∧ BitVec.toNat g.epoch = field b 64 4 ∧ ((List.all s.att.lics fun (e : ℕ × Licence) => !(e.2.valid && e.2.part == p.val && e.2.modelId == slice b 8 16 && BitVec.toNat e.2.version == field b 24 4)) = true) ∧ s.rennet.xfer = none ∧ pointValid (slice b 472 97) = true) ∧
    (∃ (s : State) (p : PartId) (k : Packet), hasRight s p.val 6 = true ∧ Starts s p 3075 k ∧ formCheck k 0 0 [] = none ∧ ((s.lic (BitVec.toNat (pktObj k))).valid = false ∨ (s.lic (BitVec.toNat (pktObj k))).part ≠ p.val)) ∧
    (∃ (s : State) (f : Formation) (now : W64), s.att.forming = some f ∧ BitVec.toNat s.ts ≤ BitVec.toNat now ∧ BitVec.toNat now < BitVec.toNat f.startTs + 10000000000) ∧
    (∃ (s : State) (f : Formation) (now : W64), s.att.forming = some f ∧ BitVec.toNat s.ts ≤ BitVec.toNat now ∧ BitVec.toNat f.startTs + 10000000000 ≤ BitVec.toNat now) :=
   ⟨⟨sLL, (0 : PartId), (kOf sLL), (devRead sLL (0 : PartId).val (parAddr (kOf sLL) 0) 2208), (0 : ℕ), (0 : ℕ), ({ setId := padTo 32 [4], epoch := 2, members := [] } : BoundSet), rfl, by decide +kernel⟩,
    ⟨(sLD false 0), (0 : PartId), (kOf (sLD false 0)), by decide +kernel⟩,
    ⟨(wf (some (fm none 0 []))), ((wf (some (fm none 0 []))).att.forming.getD (fm none 0 []) : Formation), (600 : W64), by decide +kernel⟩,
    ⟨(wf (some (fm none 0 []))), ((wf (some (fm none 0 []))).att.forming.getD (fm none 0 []) : Formation), (10000000000 : W64), by decide +kernel⟩⟩

set_option maxRecDepth 1000000 in
theorem witness_FormationMessages_1 :
    (∃ (s : State) (src : DevId) (f : Formation), rennetServes s = true ∧ s.rennet.entropyFail = false ∧ s.rennet.drbgOn = true ∧ s.att.forming = some f ∧ f.coord = some src.val ∧ f.eph = []) ∧
    (∃ (s : State) (src : DevId) (f : Formation) (m : FormPeer) (o : SetOffer) (g : Formation), (g = modPeer f src.val fun (m : FormPeer) => { o with dev := m.dev, serial := m.serial, script := Config.setEncode (SetMsg.hello f.setId f.nonce) ++ Config.setEncode (SetMsg.offer o), offered := true, confirmed := m.confirmed }) ∧ rennetServes s = true ∧ s.rennet.entropyFail = false ∧ s.rennet.drbgOn = true ∧ s.att.forming = some f ∧ f.coord = none ∧ (List.find? (fun (m : FormPeer) => m.dev == src.val && !m.offered) f.peers = some m)) ∧
    (∃ (s : State) (src : DevId) (f : Formation) (m : FormPeer), rennetServes s = true ∧ s.rennet.entropyFail = false ∧ s.rennet.drbgOn = true ∧ s.att.forming = some f ∧ f.coord = some src.val ∧ f.eph ≠ [] ∧ f.sk = [] ∧ (List.find? (fun (m : FormPeer) => m.dev == src.val) f.peers = some m)) :=
   ⟨⟨(wf (some (fm (some 9) 0 []))), (9 : DevId), ((wf (some (fm (some 9) 0 []))).att.forming.getD (fm none 0 []) : Formation), by decide +kernel⟩,
    ⟨(wf (some (fo false))), (9 : DevId), ((wf (some (fo false))).att.forming.getD (fm none 0 []) : Formation), ((((wf (some (fo false))).att.forming.getD (fm none 0 []) : Formation).peers.headD { dev := 0, serial := 0})), off, (modPeer ((wf (some (fo false))).att.forming.getD (fm none 0 []) : Formation) (9 : DevId).val (fun m0 => { m0 with nonce := off.nonce, kemKey := off.kemKey, ecPub := off.ecPub, epoch := off.epoch, offered := true, script := Config.setEncode (.hello ((wf (some (fo false))).att.forming.getD (fm none 0 []) : Formation).setId ((wf (some (fo false))).att.forming.getD (fm none 0 []) : Formation).nonce) ++ Config.setEncode (.offer off) })), rfl, by decide +kernel⟩,
    ⟨(wf (some (fm (some 9) 3 []))), (9 : DevId), ((wf (some (fm (some 9) 3 []))).att.forming.getD (fm none 0 []) : Formation), ((((wf (some (fm (some 9) 3 []))).att.forming.getD (fm none 0 []) : Formation).peers.headD { dev := 0, serial := 0})), by decide +kernel⟩⟩

set_option maxRecDepth 1000000 in
theorem witness_FormationMessages_2 :
    (∃ (s : State) (src : DevId) (f : Formation) (m : FormPeer), rennetServes s = true ∧ s.rennet.entropyFail = false ∧ s.rennet.drbgOn = true ∧ s.att.forming = some f ∧ f.coord = none ∧ (List.find? (fun (m : FormPeer) => m.dev == src.val && m.offered && !m.confirmed) f.peers = some m) ∧ f.sk ≠ []) ∧
    (∃ (s : State) (src : DevId) (f : Formation) (e : W32), rennetServes s = true ∧ s.rennet.entropyFail = false ∧ s.rennet.drbgOn = true ∧ s.att.forming = some f ∧ f.coord = some src.val ∧ f.sk ≠ [] ∧ e ≠ f.epoch) ∧
    (∃ (s : State) (src : DevId) (id : List Byte) (n : List Byte), rennetServes s = true ∧ s.rennet.entropyFail = false ∧ s.rennet.drbgOn = true ∧ s.att.forming = none ∧ s.att.hello = some (src.val, id, n)) :=
   ⟨⟨(wf (some (f1 fun _ => true))), (9 : DevId), ((wf (some (f1 fun _ => true))).att.forming.getD (fm none 0 []) : Formation), ((((wf (some (f1 fun _ => true))).att.forming.getD (fm none 0 []) : Formation).peers.headD { dev := 0, serial := 0})), by decide +kernel⟩,
    ⟨(wf (some (fm (some 9) 3 [4]))), (9 : DevId), ((wf (some (fm (some 9) 3 [4]))).att.forming.getD (fm none 0 []) : Formation), (4 : W32), by decide +kernel⟩,
    ⟨sHe, (9 : DevId), ([1] : List Byte), ([2] : List Byte), by decide +kernel⟩⟩

set_option maxRecDepth 1000000 in
theorem witness_SpdmExchange_SpdmByMailbox_1 :
    (∃ (s : State) (m : MbxId), m.val ≠ 64 ∧ Serves s m 256 ∧ s.att.req = none ∧ 1 ≤ BitVec.toNat ((mailWords s m).getD 0 0) ∧ BitVec.toNat ((mailWords s m).getD 0 0) ≤ 4096) ∧
    (∃ (s : State) (m : MbxId) (x : ReqXfer), m.val ≠ 64 ∧ s.att.req = some x ∧ Serves s m 256 ∧ x.holder ≠ m.val) ∧
    (∃ (s : State) (m : MbxId) (x : ReqXfer), m.val ≠ 64 ∧ s.att.req = some x ∧ x.holder = m.val ∧ Serves s m 257 ∧ BitVec.toNat ((mailWords s m).getD 0 0) = x.bytes.length ∧ x.bytes.length < x.len) ∧
    (∃ (s : State) (m : MbxId) (x : ReqXfer), m.val ≠ 64 ∧ s.att.req = some x ∧ x.holder = m.val ∧ Serves s m 257 ∧ BitVec.toNat ((mailWords s m).getD 0 0) ≠ x.bytes.length) ∧
    (∃ (s : State) (m : MbxId) (x : ReqXfer), m.val ≠ 64 ∧ s.att.req = some x ∧ x.holder = m.val ∧ Serves s m 258 ∧ x.bytes.length < x.len) ∧
    (∃ (s : State) (m : MbxId) (x : ReqXfer) (r : State × List Byte), r = spdmMessage ({ (serving s) with att := { ((serving s).att) with req := none } }) (mailSource m.val) x.bytes ∧ m.val ≠ 64 ∧ s.att.req = some x ∧ x.holder = m.val ∧ Serves s m 258 ∧ x.len ≤ x.bytes.length) :=
   ⟨⟨mB, (0 : MbxId), by decide +kernel⟩,
    ⟨mBo, (0 : MbxId), (mBo.att.req.getD {holder := 9, kind := 0, len := 0}), by decide +kernel⟩,
    ⟨(mD 24), (0 : MbxId), ((mD 24).att.req.getD {holder := 9, kind := 0, len := 0}), by decide +kernel⟩,
    ⟨(mD 0), (0 : MbxId), ((mD 0).att.req.getD {holder := 9, kind := 0, len := 0}), by decide +kernel⟩,
    ⟨(mE 24), (0 : MbxId), ((mE 24).att.req.getD {holder := 9, kind := 0, len := 0}), by decide +kernel⟩,
    ⟨(mE 48), (0 : MbxId), ((mE 48).att.req.getD {holder := 9, kind := 0, len := 0}), (spdmMessage { (mE 48) with att.req := none } (mailSource (0 : MbxId).val) ((mE 48).att.req.getD {holder := 9, kind := 0, len := 0}).bytes), rfl, by decide +kernel⟩⟩

set_option maxRecDepth 1000000 in
theorem witness_SpdmExchange_SpdmByMailbox_2 :
    (∃ (s : State) (m : MbxId) (x : RspXfer), m.val ≠ 64 ∧ s.att.mailRsp = some x ∧ x.holder = m.val ∧ Serves s m 259 ∧ BitVec.toNat ((mailWords s m).getD 0 0) = x.offset ∧ x.offset < x.bytes.length) ∧
    (∃ (s : State) (m : MbxId) (x : RspXfer), m.val ≠ 64 ∧ s.att.mailRsp = some x ∧ x.holder = m.val ∧ Serves s m 259 ∧ BitVec.toNat ((mailWords s m).getD 0 0) ≠ x.offset) :=
   ⟨⟨(mR 24), (0 : MbxId), (((mR 24).att.mailRsp.getD {holder := 9, bytes := []} : RspXfer)), by decide +kernel⟩,
    ⟨(mR 0), (0 : MbxId), (((mR 0).att.mailRsp.getD {holder := 9, bytes := []} : RspXfer)), by decide +kernel⟩⟩

theorem witness_SpdmExchange_SpdmRequests :
    (∃ (s : State) (src : SpdmSource) (i : ℕ) (sg : Bool), rennetServes s = true ∧ mayAsk s src = true ∧ i = 6 ∧ sg = false) ∧
    (∃ (s : State) (src : SpdmSource) (i : ℕ), rennetServes s = true ∧ mayAsk s src = true ∧ i ∉ [0, 1, 2, 3, 4, 5, 6, 7, 8, 16, 255]) ∧
    (∃ (s : State) (src : SpdmSource) (id : ℕ) (j : ℕ) (x : SpdmSession) (i : ℕ), rennetServes s = true ∧ mayAsk s src = true ∧ sessionOf s src id = some (j, x) ∧ x.estab = true ∧ i < 3) ∧
    (∃ (s : State) (src : SpdmSource) (id : ℕ) (j : ℕ) (x : SpdmSession) (i : ℕ), rennetServes s = true ∧ mayAsk s src = true ∧ sessionOf s src id = some (j, x) ∧ x.estab = true ∧ (i < 10 ∨ 16 ≤ i) ∧ j < 2) ∧
    (∃ (s : State) (src : SpdmSource) (id : ℕ) (j : ℕ) (x : SpdmSession), rennetServes s = true ∧ mayAsk s src = true ∧ sessionOf s src id = some (j, x) ∧ x.estab = false) :=
   ⟨⟨(dr wbase), (SpdmSource.ring 0), (6 : ℕ), false, by decide +kernel⟩,
    ⟨(dr wbase), (SpdmSource.ring 0), (99 : ℕ), by decide +kernel⟩,
    ⟨(sSe true), (SpdmSource.ring 0), (1 : ℕ), (0 : ℕ), (ses true), (0 : ℕ), by decide +kernel⟩,
    ⟨(sSe true), (SpdmSource.ring 0), (1 : ℕ), (0 : ℕ), (ses true), (6 : ℕ), by decide +kernel⟩,
    ⟨(sSe false), (SpdmSource.ring 0), (1 : ℕ), (0 : ℕ), (ses false), by decide +kernel⟩⟩

end Attest

namespace Flash

def fp (b g : Nat) : FlashPlace := { channel := b % 4, ce := 0, lun := 0, block := b, page := g }
def pr (s : State) : State := { s with press.ready := true, press.channels := 4, press.nblocks := 32, press.regions := [(1, { blocks := 8, mask := 1 })], press.map := [(unitKey 1 0, fp 3 0), (unitKey 1 5, fp 7 0)], press.eblocks := [(3, { units := [(1,0)], free := false, open_ := true, reads := 49999 }), (7, { units := [(1,5)], free := false, erases := 2, open_ := true })], mem.t4 := [(t4Key 1 0, 5), (t4Key 1 0 + 5 * 65536 + 3, 6)] }
def sRS (r n : Nat) := pr (wcmd 0x0F01 0xFFFFFFFF (b1 r ++ padTo 3 [] ++ b4 n))
def sRE := pr (wcmd 0x0F02 0xFFFFFFFF (b1 1))
def sFW (f : Nat) := pr (wcmd 0x0F03 0xFFFFFFFF (b1 1 ++ padTo 3 [] ++ b4 f ++ b6 0 ++ b2 0 ++ b4 65536))
def ro (s : State) : State := { s with press.readOnly := true }
def fw (n : Nat) (l : List Nat) : FlashWait := { pend := pendOf 0 (kOf sRE), region := 1, first := 1, blocks := 1, left := l, placed := [(4, fp 3 9)], data := List.replicate 70 9, no := n }
def sPD (l : List Nat) : State := { pr wbase with press.busy := [fw 4 l, fw 5 [6]], press.ops := [{ block := 3, page := 2, work := .write 4 1 5 }] }
def sRd (p : Bool) (b : Nat) : State := { pr wbase with press.readQ := [{ part := 0, block := 0, region := 1, unit := 5, rank := 3, issued := true, eblock := some b, patrol := p }] }
def sMv (l : List (Nat × Nat)) (k : MoveKind) : State := { pr wbase with press.moves := [{ src := 7, dst := 11, kind := k, left := l, placed := [((1,5), fp 11 0)] }], press.refreshQ := [7, 9] }
def sEr : State := { pr wbase with press.ops := [{ block := 9, work := .erase }], press.eblocks := [(9, { erases := 3, reads := 9, erasing := true, free := false })] }

theorem witness_FlashCommandsAndEvents_FlashCommands_1 :
    (∃ (s : State) (p : PartId) (k : Packet) (r : ℕ) (n : ℕ) (old : ℕ) (a : ℕ), hasRight s p.val 11 = true ∧ Starts s p 3841 k ∧ formCheck k 8 8 [(1, 3)] = none ∧ r = par k 0 1 ∧ n = par k 4 4 ∧ old = (tget { blocks := 0, mask := 0 } s.press.regions r).blocks ∧ r < 64 ∧ n ≤ 2 ^ 26 ∧ (List.foldl (fun (x1 x2 : ℕ) => x1 + x2) 0 (List.map (fun (e : ℕ × Region) => e.2.blocks) (List.filter (fun (e : ℕ × Region) => e.1 != r) s.press.regions)) + n ≤ flashRoom s) ∧ t4Key r n ≤ a ∧ a < t4Key r old) ∧
    (∃ (s : State) (p : PartId) (k : Packet) (r : ℕ) (n : ℕ) (old : ℕ) (a : ℕ), hasRight s p.val 11 = true ∧ Starts s p 3841 k ∧ formCheck k 8 8 [(1, 3)] = none ∧ r = par k 0 1 ∧ n = par k 4 4 ∧ old = (tget { blocks := 0, mask := 0 } s.press.regions r).blocks ∧ r < 64 ∧ n ≤ 2 ^ 26 ∧ (List.foldl (fun (x1 x2 : ℕ) => x1 + x2) 0 (List.map (fun (e : ℕ × Region) => e.2.blocks) (List.filter (fun (e : ℕ × Region) => e.1 != r) s.press.regions)) + n ≤ flashRoom s) ∧ (a < t4Key r n ∨ t4Key r old ≤ a)) ∧
    (∃ (s : State) (p : PartId) (b : ℕ), hasRight s p.val 11 = true ∧ opOn s b = none) ∧
    (∃ (s : State) (p : PartId) (k : Packet) (r : ℕ) (n : ℕ) (a : ℕ), hasRight s p.val 11 = true ∧ Starts s p 3842 k ∧ formCheck k 1 1 [] = none ∧ r = par k 0 1 ∧ n = (tget { blocks := 0, mask := 0 } s.press.regions r).blocks ∧ n ≠ 0 ∧ t4Key r 0 ≤ a ∧ a < t4Key r n) ∧
    (∃ (s : State) (p : PartId) (k : Packet) (r : ℕ) (n : ℕ) (a : ℕ), hasRight s p.val 11 = true ∧ Starts s p 3842 k ∧ formCheck k 1 1 [] = none ∧ r = par k 0 1 ∧ n = (tget { blocks := 0, mask := 0 } s.press.regions r).blocks ∧ n ≠ 0 ∧ (a < t4Key r 0 ∨ t4Key r n ≤ a)) :=
   ⟨⟨(sRS 1 4), (0 : PartId), (kOf (sRS 1 4)), (1 : ℕ), (par (kOf (sRS 1 4)) 4 4), (8 : ℕ), (t4Key 1 0 + 5 * 65536 + 3), by decide +kernel⟩,
    ⟨(sRS 1 4), (0 : PartId), (kOf (sRS 1 4)), (1 : ℕ), (par (kOf (sRS 1 4)) 4 4), (8 : ℕ), (t4Key 1 0), by decide +kernel⟩,
    ⟨(sRS 1 4), (0 : PartId), (3 : ℕ), by decide +kernel⟩,
    ⟨sRE, (0 : PartId), (kOf sRE), (1 : ℕ), (8 : ℕ), (t4Key 1 0), by decide +kernel⟩,
    ⟨sRE, (0 : PartId), (kOf sRE), (1 : ℕ), (8 : ℕ), (t4Key 1 8), by decide +kernel⟩⟩

theorem witness_FlashCommandsAndEvents_FlashCommands_2 :
    (∃ (s : State) (p : PartId) (k : Packet) (r : ℕ) (first : ℕ) (len : ℕ), hasRight s p.val 11 = true ∧ Starts s p 3843 k ∧ formCheck k 20 20 [(1, 3)] = none ∧ addrOk k 8 = true ∧ r = par k 0 1 ∧ first = par k 4 4 ∧ len = par k 16 4 ∧ (tget { blocks := 0, mask := 0 } s.press.regions r).blocks ≠ 0 ∧ len % blockBytes = 0 ∧ len ≠ 0 ∧ parAddr k 8 + len ≤ 2 ^ 48 ∧ anyBlock s p.val (parAddr k 8) len BlockState.unmapped = false ∧ anyBlock s p.val (parAddr k 8) len BlockState.poisoned = false ∧ s.press.readOnly = false ∧ first + len / blockBytes ≤ (tget { blocks := 0, mask := 0 } s.press.regions r).blocks) ∧
    (∃ (s : State) (p : PartId) (k : Packet) (r : ℕ) (first : ℕ) (len : ℕ), hasRight s p.val 11 = true ∧ Starts s p 3843 k ∧ formCheck k 20 20 [(1, 3)] = none ∧ addrOk k 8 = true ∧ r = par k 0 1 ∧ first = par k 4 4 ∧ len = par k 16 4 ∧ (tget { blocks := 0, mask := 0 } s.press.regions r).blocks ≠ 0 ∧ len % blockBytes = 0 ∧ len ≠ 0 ∧ parAddr k 8 + len ≤ 2 ^ 48 ∧ anyBlock s p.val (parAddr k 8) len BlockState.unmapped = false ∧ anyBlock s p.val (parAddr k 8) len BlockState.poisoned = false ∧ s.press.readOnly = true) ∧
    (∃ (s : State) (p : PartId) (k : Packet) (r : ℕ) (first : ℕ) (len : ℕ), hasRight s p.val 11 = true ∧ Starts s p 3843 k ∧ formCheck k 20 20 [(1, 3)] = none ∧ addrOk k 8 = true ∧ r = par k 0 1 ∧ first = par k 4 4 ∧ len = par k 16 4 ∧ (tget { blocks := 0, mask := 0 } s.press.regions r).blocks ≠ 0 ∧ len % blockBytes = 0 ∧ len ≠ 0 ∧ parAddr k 8 + len ≤ 2 ^ 48 ∧ anyBlock s p.val (parAddr k 8) len BlockState.unmapped = false ∧ anyBlock s p.val (parAddr k 8) len BlockState.poisoned = false ∧ s.press.readOnly = false ∧ (tget { blocks := 0, mask := 0 } s.press.regions r).blocks < first + len / blockBytes) :=
   ⟨⟨(sFW 1), (0 : PartId), (kOf (sFW 1)), (1 : ℕ), (1 : ℕ), (65536 : ℕ), by decide +kernel⟩,
    ⟨(ro (sFW 1)), (0 : PartId), (kOf (ro (sFW 1))), (1 : ℕ), (1 : ℕ), (65536 : ℕ), by decide +kernel⟩,
    ⟨(sFW 8), (0 : PartId), (kOf (sFW 8)), (1 : ℕ), (8 : ℕ), (65536 : ℕ), by decide +kernel⟩⟩

theorem witness_FlashCommandsAndEvents_FlashCommands_3 :
    (∃ (s : State) (p : PartId) (b : ℕ) (o : FlashOp) (w : FlashWait) (rest : List FlashWait) (u : ℕ) (more : List ℕ), hasRight s p.val 11 = true ∧ s.press.ready = true ∧ opOn s b = some o ∧ s.press.busy = w :: rest ∧ o.work = FlashWork.write w.no w.region u ∧ (more = List.filter (fun (x : ℕ) => x != u) w.left) ∧ (∀ x ∈ rest, x.no ≠ w.no ∧ x.left ≠ []) ∧ more ≠ []) ∧
    (∃ (s : State) (p : PartId) (b : ℕ) (o : FlashOp), hasRight s p.val 11 = true ∧ s.press.ready = true ∧ opOn s b = some o ∧ o.work ≠ FlashWork.erase) ∧
    (∃ (s : State) (p : PartId) (b : ℕ) (o : FlashOp) (w : FlashWait) (rest : List FlashWait) (u : ℕ) (more : List ℕ) (i : ℕ), hasRight s p.val 11 = true ∧ s.press.ready = true ∧ opOn s b = some o ∧ s.press.busy = w :: rest ∧ o.work = FlashWork.write w.no w.region u ∧ (more = List.filter (fun (x : ℕ) => x != u) w.left) ∧ (∀ x ∈ rest, x.no ≠ w.no ∧ x.left ≠ []) ∧ more = [] ∧ Mem.wf 0 s.mem.t4 = true ∧ i < w.data.length) :=
   ⟨⟨(sPD [4,5]), (0 : PartId), (3 : ℕ), ((opOn (sPD [4,5]) (3 : ℕ)).getD { block := 0, work := .erase }), ((sPD [4,5]).press.busy.headD (fw 0 []) : FlashWait), ((sPD [4,5]).press.busy.drop 1), (5 : ℕ), (((sPD [4,5]).press.busy.headD (fw 0 []) : FlashWait).left.filter (· != (5 : ℕ))), by decide +kernel⟩,
    ⟨(sPD [4,5]), (0 : PartId), (3 : ℕ), ((opOn (sPD [4,5]) (3 : ℕ)).getD { block := 0, work := .erase }), by decide +kernel⟩,
    ⟨(sPD [5]), (0 : PartId), (3 : ℕ), ((opOn (sPD [5]) (3 : ℕ)).getD { block := 0, work := .erase }), ((sPD [5]).press.busy.headD (fw 0 []) : FlashWait), ((sPD [5]).press.busy.drop 1), (5 : ℕ), (((sPD [5]).press.busy.headD (fw 0 []) : FlashWait).left.filter (· != (5 : ℕ))), (0 : ℕ), by decide +kernel⟩⟩

theorem witness_FlashCommandsAndEvents_FlashEvents_1 :
    (∃ (s : State) (region : Fin (OfNat.ofNat 64)) (unit : ℕ), s.press.ready = true ∧ (List.find? (fun (q : PageRead) => q.issued && q.region == region.val && q.unit == unit) s.press.readQ = none)) ∧
    (∃ (s : State) (b : ℕ), s.press.ready = true ∧ (List.find? (fun (m : FlashMove) => m.src == b) s.press.moves = none)) ∧
    (∃ (s : State) (b : ℕ), s.press.ready = true ∧ opOn s b = none) ∧
    (∃ (s : State) (ch : Fin (OfNat.ofNat 16)) (now : W64) (keys : List ℕ) (x : ℕ), s.press.ready = true ∧ BitVec.toNat s.ts ≤ BitVec.toNat now ∧ s.spr.pstate = PState.a ∧ (∀ q ∈ s.press.readQ, q.patrol = false) ∧ tget 0 s.press.patrolTs ch.val + patrolStep s ch.val ≤ BitVec.toNat now ∧ (keys = List.map (fun (x : ℕ × FlashPlace) => x.1) (List.filter (fun (e : ℕ × FlashPlace) => !(busyLuns s).contains (placeLun e.2)) (validPages s ch.val))) ∧ ((List.find? (fun (x : ℕ) => decide (tget 0 s.press.patrolAt ch.val ≤ x)) keys).or keys.head? = some x)) ∧
    (∃ (s : State) (ch : Fin (OfNat.ofNat 16)) (now : W64) (keys : List ℕ), s.press.ready = true ∧ BitVec.toNat s.ts ≤ BitVec.toNat now ∧ s.spr.pstate = PState.a ∧ (∀ q ∈ s.press.readQ, q.patrol = false) ∧ tget 0 s.press.patrolTs ch.val + patrolStep s ch.val ≤ BitVec.toNat now ∧ (keys = List.map (fun (x : ℕ × FlashPlace) => x.1) (List.filter (fun (e : ℕ × FlashPlace) => !(busyLuns s).contains (placeLun e.2)) (validPages s ch.val))) ∧ keys = []) ∧
    (∃ (s : State) (now : W64), s.press.ready = true ∧ BitVec.toNat s.ts ≤ BitVec.toNat now ∧ sinceCkpt s < 1024 ∧ BitVec.toNat now < BitVec.toNat s.press.lastCkpt + 600000000000) :=
   ⟨⟨(pr wbase), (1 : Fin (OfNat.ofNat 64)), (0 : ℕ), by decide +kernel⟩,
    ⟨(pr wbase), (3 : ℕ), by decide +kernel⟩,
    ⟨(pr wbase), (3 : ℕ), by decide +kernel⟩,
    ⟨(pr wbase), (3 : Fin (OfNat.ofNat 16)), (900000000000000 : W64), (((validPages (pr wbase) (3 : Fin (OfNat.ofNat 16)).val).filter (fun e => !(busyLuns (pr wbase)).contains (placeLun e.2))).map (·.1)), (unitKey 1 0), by decide +kernel⟩,
    ⟨(pr wbase), (0 : Fin (OfNat.ofNat 16)), (900000000000000 : W64), (((validPages (pr wbase) (0 : Fin (OfNat.ofNat 16)).val).filter (fun e => !(busyLuns (pr wbase)).contains (placeLun e.2))).map (·.1)), by decide +kernel⟩,
    ⟨(pr wbase), (600 : W64), by decide +kernel⟩⟩

theorem witness_FlashCommandsAndEvents_FlashEvents_2 :
    (∃ (s : State) (now : W64), s.press.ready = true ∧ BitVec.toNat s.ts ≤ BitVec.toNat now ∧ (1024 ≤ sinceCkpt s ∨ BitVec.toNat s.press.lastCkpt + 600000000000 ≤ BitVec.toNat now)) ∧
    (∃ (s : State) (region : Fin (OfNat.ofNat 64)) (unit : ℕ) (x : FlashRead) (q : PageRead) (b : ℕ), s.press.ready = true ∧ (List.find? (fun (q : PageRead) => q.issued && q.region == region.val && q.unit == unit) s.press.readQ = some q) ∧ q.eblock = some b ∧ (∀ m ∈ s.press.moves, m.left = []) ∧ (s.press.moves = [] → ∀ e ∈ List.map (fun (x : ℕ × EBlock) => x.1) s.press.eblocks, mayMove s e = false) ∧ badCodewords x ≠ 0) ∧
    (∃ (s : State) (region : Fin (OfNat.ofNat 64)) (unit : ℕ) (x : FlashRead) (q : PageRead) (b : ℕ), s.press.ready = true ∧ (List.find? (fun (q : PageRead) => q.issued && q.region == region.val && q.unit == unit) s.press.readQ = some q) ∧ q.eblock = some b ∧ (∀ m ∈ s.press.moves, m.left = []) ∧ (s.press.moves = [] → ∀ e ∈ List.map (fun (x : ℕ × EBlock) => x.1) s.press.eblocks, mayMove s e = false) ∧ q.patrol = true ∧ wantsRefresh s x = true) ∧
    (∃ (s : State) (b : ℕ) (m : FlashMove) (x : (ℕ × ℕ) × FlashPlace) (f : FlashPlace), s.press.ready = true ∧ (List.find? (fun (m : FlashMove) => m.src == b) s.press.moves = some m) ∧ m.left = [] ∧ m.src ≠ m.dst ∧ ((List.map (fun (x : (ℕ × ℕ) × FlashPlace) => unitKey x.1.1 x.1.2) m.placed).Nodup) ∧ x ∈ m.placed ∧ tfind s.press.map (unitKey x.1.1 x.1.2) = some f ∧ f.block = b) :=
   ⟨⟨(pr wbase), (900000000000000 : W64), by decide +kernel⟩,
    ⟨(sRd false 3), (1 : Fin (OfNat.ofNat 64)), (5 : ℕ), ({ c0 := .soft 2, c1 := .retry 3 1, c2 := .uncorrectable, c3 := .uncorrectable : FlashRead } : FlashRead), ((sRd false 3).press.readQ.headD { part := 0, block := 0, region := 0, unit := 0, rank := 0 }), (3 : ℕ), by decide +kernel⟩,
    ⟨(sRd true 7), (1 : Fin (OfNat.ofNat 64)), (5 : ℕ), ({ c0 := .soft 2, c1 := .retry 3 1, c2 := .uncorrectable, c3 := .uncorrectable : FlashRead } : FlashRead), ((sRd true 7).press.readQ.headD { part := 0, block := 0, region := 0, unit := 0, rank := 0 }), (7 : ℕ), by decide +kernel⟩,
    ⟨(sMv [] .refresh), (7 : ℕ), ((sMv [] .refresh).press.moves.headD { src := 0, dst := 0, kind := .wear, left := [], placed := [] }), (((sMv [] .refresh).press.moves.headD { src := 0, dst := 0, kind := .wear, left := [], placed := [] }).placed.headD ((1,5), fp 3 0)), (fp 7 0), by decide +kernel⟩⟩

theorem witness_FlashCommandsAndEvents_FlashEvents_3 :
    (∃ (s : State) (b : ℕ) (m : FlashMove), s.press.ready = true ∧ (List.find? (fun (m : FlashMove) => m.src == b) s.press.moves = some m) ∧ m.left = [] ∧ m.src ≠ m.dst ∧ ((List.map (fun (x : (ℕ × ℕ) × FlashPlace) => unitKey x.1.1 x.1.2) m.placed).Nodup) ∧ m.kind = MoveKind.refresh) ∧
    (∃ (s : State) (b : ℕ) (m : FlashMove), s.press.ready = true ∧ (List.find? (fun (m : FlashMove) => m.src == b) s.press.moves = some m) ∧ m.left = [] ∧ m.src ≠ m.dst ∧ ((List.map (fun (x : (ℕ × ℕ) × FlashPlace) => unitKey x.1.1 x.1.2) m.placed).Nodup) ∧ (s.eblock b).retired = false) ∧
    (∃ (s : State) (b : ℕ) (m : FlashMove), s.press.ready = true ∧ (List.find? (fun (m : FlashMove) => m.src == b) s.press.moves = some m) ∧ m.left ≠ []) ∧
    (∃ (s : State) (b : ℕ) (o : FlashOp), s.press.ready = true ∧ opOn s b = some o ∧ o.work = FlashWork.erase ∧ (∀ m ∈ s.press.moves, m.src ≠ b)) :=
   ⟨⟨(sMv [] .refresh), (7 : ℕ), ((sMv [] .refresh).press.moves.headD { src := 0, dst := 0, kind := .wear, left := [], placed := [] }), by decide +kernel⟩,
    ⟨(sMv [] .refresh), (7 : ℕ), ((sMv [] .refresh).press.moves.headD { src := 0, dst := 0, kind := .wear, left := [], placed := [] }), by decide +kernel⟩,
    ⟨(sMv [(1,5)] .retire), (7 : ℕ), ((sMv [(1,5)] .retire).press.moves.headD { src := 0, dst := 0, kind := .wear, left := [], placed := [] }), by decide +kernel⟩,
    ⟨sEr, (9 : ℕ), ((opOn sEr (9 : ℕ)).getD { block := 0, work := .erase }), by decide +kernel⟩⟩

end Flash

namespace Cores

def on1 (k : Core) : State := { wbase with cores := [(1, { k with on := true, req := true, iso := false, inReset := false })], graphs := [(3, { part := 0, run := some { runNo := 2, cadence := true, a := 0 }, ctxOf := [(1,7),(1,8)], ntask := 2 })], ts := 900000000, cad.en := true, cad.src := 0, cad.period := 60000, cad.beats := 30, cad.beatTs := 0, cad.periods := [60000], pwr.coreStep := 2, pwr.instStep := 8 }
def tkP (kind : Kind) (ps : List Byte) (ops : List Operand := []) : Task := { kind := kind, param := padTo 64 ps, operands := ops, core := 1, index := 0 }
def cx (st : CtxState) (t : Task) : Ctx := { state := st, part := 0, graph := 3, task := t }
def mm (k : Nat) : Task := tkP .matrix (b1 1 ++ b1 1 ++ b1 1 ++ b1 8 ++ b1 0 ++ b1 0 ++ b2 0 ++ b4 1 ++ b4 1 ++ b4 k)
def rn (rdy : Bool) (tile : Nat) : Running := { ctx := 7, ready := rdy, tile := tile, hasW := true }
def sOp (ops : List Operand) (r : Running) : State := on1 { ctxs := [(7, cx .running { mm 64 with operands := ops })], engines := [(2, { state := .busy, run := some r, queue := [8] })] }
def sT (k tile : Nat) : State := on1 { ctxs := [(7, cx .running (mm k))], engines := [(2, { state := .busy, run := some (rn true tile), queue := [8] })] }
def opd (a : Nat) : Operand := { addr := a, len := 64, stride := 0, slot := 20, output := false, weight := false, eraely := false, hint := 0 }
def sHeld : State := on1 { ctxs := [(7, cx .held (mm 64))], engines := [(2, { state := .hold, run := some (rn true 0), held := some { run := rn true 0, output := [], units := 1, last := true } })] }
def poison (s : State) : State := { s with mem.maps := [(0, [(0, { wblk 0 with state := .poisoned })])] }
def naf (s : State) : State := { s with rel.autoFence := false }
def slt (st : SampleStage) : State := { on1 { engines := [(2, { slot := { stage := st, checker := 11, orig := [1], dup := [2], rep := [3], at_ := 0 }, tiles := 2000 })] } with rel.forceWait := 16, rennet.drbgOn := true }
def slt0 (st : SampleStage) : State := on1 { engines := [(2, { slot := { stage := st, checker := 11, orig := [1], dup := [2], rep := [3], at_ := 0 }, tiles := 20 })] }
def one (st : CtxState) (t : Task) : State := on1 { ctxs := [(7, cx st t)] }
def offT (s : State) : State := s.modCore 1 (fun k => { k with on := false })
def fencedAll : State := on1 { ctxs := [(7, { cx .ready (mm 64) with cls := .cadence })], engines := (List.range 8).map (fun e => (e, { state := .fenced })) }
def wt (st : CtxState) (rel : Nat) : State := on1 { ctxs := [(7, { cx st { (tkP .waitCadence (b1 0 ++ b1 0 ++ b2 0 ++ b4 rel)) with release := BitVec.ofNat 32 rel, hasDeadline := true, deadline := BitVec.ofNat 32 rel } with released := false, counters := [0] })] }
def bg (c : SClass) : State := on1 { ctxs := [(7, { cx .ready (mm 64) with cls := c })] }
def rel (b : Bool) (a : Nat) : State := { one .loaded (mm 64) with graphs := [(3, { part := 0, run := some { cadence := true, a := BitVec.ofNat 64 a, released := b }, ctxOf := [(1,7)], ntask := 1 })] }
def std (e : Nat) : State := { wbase with graphs := [(3, { part := 0, standing := true, started := true, e0 := some (BitVec.ofNat 64 e) })], cad.en := true, cad.beats := 30, cad.period := 60000 }
def bar (coord : Nat) : State := { one .ready (tkP .barrier (b2 5 ++ b2 0 ++ b4 100)) with fab.id := 5, fab.bars := [(0, { id := 5, valid := true, coord := BitVec.ofNat 10 coord, members := [(5,0),(6,0)] })] }
def barR : State := { one .running (tkP .barrier (b2 5 ++ b2 0 ++ b4 100)) with fab.id := 5, fab.bars := [(0, { id := 5, valid := true, coord := 6, pend := some (1, 7, 1, 900000000) })] }
def mv (f : Nat) : Task := tkP .move (b1 f ++ padTo 3 [] ++ b4 1 ++ b4 64 ++ b4 0 ++ b4 0 ++ b6 0x100 ++ b2 0 ++ b6 0x1100 ++ b2 0 ++ b2 9)
def sMv (f : Nat) : State := on1 { ctxs := [(7, cx .queued (mv f))], tmQueue := [7] }
def era : List Byte := let idx := b4 32; padTo 32 (b2 0xEA1E ++ b1 1 ++ b1 0 ++ b4 1 ++ b4 3 ++ leBytes 4 (crc32 idx).toNat ++ idx) ++ b1 0 ++ b1 0 ++ b2 3 ++ b2 3 ++ padTo 6 [] ++ leBytes 4 (crc32 [1,2,3]).toNat ++ [1,2,3]
def pm (v : Nat) : State := devPut (one .ready (tkP .promote (b1 2 ++ padTo 3 [] ++ b4 0x3F800000 ++ b6 0x100))) 0 0x100 (b4 v)
def sg : SignalMsg := { ctx := 7, counter := 0, graph := 3, ptag := 0, runNo := 2, init := 0x4001 }
def sgo : SignalMsg := { ctx := 7, counter := 0, graph := 3, ptag := 0, runNo := 2, init := 0x7000 }
def res0 (s : State) : State := { s with mem.maps := [(0, [(0, { wblk 0 with state := .clean, res := .t1 1 5 }), (1, wblk 1), (2, wblk 2)])] }
def sld (s : State) (lost : Bool) : State := { s with mem.maps := [(0, [(0, { wblk 0 with state := .clean, res := .t1 1 5, isSealed := true, lic := 0 })])], att.lics := if lost then [] else [(0, { key := some (List.replicate 32 1) })] }
def wrd (s : State) : State := s.modRun 3 (fun r => { r with signals := [(1,7,0)] })
def sgw : State := wrd <| on1 { ctxs := [(7, { cx .waiting (mm 64) with counters := [2] })] }
def nogr (s : State) : State := { s with graphs := [] }
def cdn : State := on1 { ctxs := [(7, cx .done (mm 64)), (8, cx .done (mm 64))] }
def prun (b : Bool) : State := on1 { ctxs := [(7, cx .running (mm 64))], engines := [(2, { run := if b then some (rn true 0) else none })], tmRun := some 7 }
def dl (d : Nat) : State := on1 { ctxs := [(7, cx .running { mm 64 with hasDeadline := true, deadline := BitVec.ofNat 32 d }), (8, cx .running (mm 64))] }
def cr : State := on1 { ctxs := [(7, cx .running (mm 64))], doneCnt := 4, tmQueue := [3], tmRun := some 7, engines := [(2, { run := some (rn true 0), queue := [8] }), (4, { state := .fenced })] }
def sDc : State := devPut (res0 <| on1 { ctxs := [(7, cx .queued (tkP .decompress (padTo 8 [] ++ b6 0x100 ++ b2 0 ++ b6 0x1000 ++ b2 0 ++ b4 era.length ++ b4 3)))], tmQueue := [7] }) 0 0x100 era
def sDc4 : State := devPut (res0 <| on1 { ctxs := [(7, cx .queued (tkP .decompress (padTo 8 [] ++ b6 0x100 ++ b2 0 ++ b6 0x1000 ++ b2 0 ++ b4 era.length ++ b4 4)))], tmQueue := [7] }) 0 0x100 era
def sEraN : State := sOp [{ opd 0x100 with slot := 22, weight := true, eraely := true }] (rn false 0)
def sTv : State := on1 { ctxs := [(7, cx .running (tkP .vector (b1 0x20 ++ padTo 40 [])))], engines := [(2, { state := .busy, run := some (rn true 0), queue := [8] })] }
def sOut (a : Nat) : State := on1 { ctxs := [(7, cx .running { mm 64 with operands := [{ opd a with slot := 30, output := true }] })], engines := [(2, { state := .busy, run := some (rn true 0), queue := [8] })] }
def sTr : State := on1 { ctxs := [(7, cx .running (tkP .vector (b1 0x22 ++ b1 1 ++ b1 1 ++ b1 1 ++ padTo 4 [] ++ b4 1 ++ b4 4 ++ b4 0 ++ b4 5 ++ b4 1 ++ padTo 10 [])))], engines := [(2, { state := .busy, run := some (rn true 0), queue := [8] })] }
def eraB : List Byte := padTo 60 (b2 0xEA1E)
def sDcB : State := devPut (on1 { ctxs := [(7, cx .queued (tkP .decompress (padTo 8 [] ++ b6 0x100 ++ b2 0 ++ b6 0x1000 ++ b2 0 ++ b4 60 ++ b4 3)))], tmQueue := [7] }) 0 0x100 eraB
def eA (sl : Nat) (w e : Bool) : Operand := { opd 0x100 with slot := sl, weight := w, eraely := e }

theorem witness_TaskEndsAndCoreResets_CoreResetAndEngineFence :
    (∃ (s : State) (c : CoreId) (e : EngId) (i : ℕ) (x : ℕ), c.val < s.ncores ∧ i < 8 ∧ i ≠ e.val ∧ (s.engine c.val i).state ≠ EngState.fenced ∧ (s.engine c.val e.val).state ≠ EngState.fenced ∧ x ∈ engineTasks (s.engine c.val e.val)) ∧
    (∃ (s : State) (c : CoreId) (e : EngId) (i : ℕ) (d : ℕ), c.val < s.ncores ∧ i < 8 ∧ i ≠ e.val ∧ (s.engine c.val i).state ≠ EngState.fenced ∧ (s.engine c.val e.val).state ≠ EngState.fenced ∧ (∀ q ∈ s.cores, ∀ g ∈ q.2.engines, g.2.slot.stage = SampleStage.empty ∨ g.2.slot.checker ≠ engIndex c.val e.val) ∧ d ≠ e.val) ∧
    (∃ (s : State) (c : CoreId) (p : PartId), c.val < s.ncores ∧ (s.part p.val).state = PartState.ready) ∧
    (∃ (s : State) (c : CoreId) (e : EngId), c.val < s.ncores ∧ (s.core c.val).on = true ∧ (s.engine c.val e.val).state = EngState.fenced) ∧
    (∃ (s : State) (c : CoreId), c.val < s.ncores ∧ (s.core c.val).on = false) :=
   ⟨⟨cr, (1 : CoreId), (2 : EngId), (0 : ℕ), (7 : ℕ), by decide +kernel⟩,
    ⟨cr, (1 : CoreId), (2 : EngId), (0 : ℕ), (3 : ℕ), by decide +kernel⟩,
    ⟨cr, (1 : CoreId), (0 : PartId), by decide +kernel⟩,
    ⟨cr, (1 : CoreId), (4 : EngId), by decide +kernel⟩,
    ⟨(offT cr), (1 : CoreId), by decide +kernel⟩⟩

theorem witness_DispatchAndTimes_1 :
    (∃ (s : State) (c : CoreId) (x : CtxId) (k : Ctx), c.val < s.ncores ∧ k = s.ctx c.val x.val ∧ coreRuns s c.val = false) ∧
    (∃ (s : State) (c : CoreId) (x : CtxId) (k : Ctx) (now : W64), c.val < s.ncores ∧ k = s.ctx c.val x.val ∧ BitVec.toNat s.ts ≤ BitVec.toNat now ∧ s.pwr.trip = false ∧ (k.cls = SClass.interactive ∨ k.cls = SClass.cadence)) ∧
    (∃ (s : State) (c : CoreId) (x : CtxId) (k : Ctx) (e : ℕ), c.val < s.ncores ∧ k = s.ctx c.val x.val ∧ coreRuns s c.val = true ∧ offered s c.val = [x.val] ∧ engineKind k.task.kind = true ∧ pickEngine s c.val x.val = some e) ∧
    (∃ (s : State) (c : CoreId) (x : CtxId) (k : Ctx), c.val < s.ncores ∧ k = s.ctx c.val x.val ∧ coreRuns s c.val = true ∧ offered s c.val = [x.val] ∧ engineKind k.task.kind = true ∧ pickEngine s c.val x.val = none) ∧
    (∃ (s : State) (c : CoreId) (x : CtxId) (k : Ctx), c.val < s.ncores ∧ k = s.ctx c.val x.val ∧ coreRuns s c.val = true ∧ offered s c.val = [x.val] ∧ moverKind k.task.kind = true ∧ (s.core c.val).tmQueue.length < 64) ∧
    (∃ (s : State) (c : CoreId) (x : CtxId) (k : Ctx), c.val < s.ncores ∧ k = s.ctx c.val x.val ∧ coreRuns s c.val = true ∧ offered s c.val = [x.val] ∧ engineKind k.task.kind = false ∧ moverKind k.task.kind = false ∧ k.redisp = false) :=
   ⟨⟨(offT (one .ready (mm 64))), (1 : CoreId), (7 : CtxId), ((offT (one .ready (mm 64))).ctx 1 7), by decide +kernel⟩,
    ⟨(offT (one .ready (mm 64))), (1 : CoreId), (7 : CtxId), ((offT (one .ready (mm 64))).ctx 1 7), (9000000000 : W64), by decide +kernel⟩,
    ⟨(one .ready (mm 64)), (1 : CoreId), (7 : CtxId), ((one .ready (mm 64)).ctx 1 7), (0 : ℕ), by decide +kernel⟩,
    ⟨fencedAll, (1 : CoreId), (7 : CtxId), (fencedAll.ctx 1 7), by decide +kernel⟩,
    ⟨(one .ready (mv 0)), (1 : CoreId), (7 : CtxId), ((one .ready (mv 0)).ctx 1 7), by decide +kernel⟩,
    ⟨(one .ready (tkP .signal [])), (1 : CoreId), (7 : CtxId), ((one .ready (tkP .signal [])).ctx 1 7), by decide +kernel⟩⟩

theorem witness_DispatchAndTimes_2 :
    (∃ (s : State) (c : CoreId) (x : CtxId) (k : Ctx) (r : Run) (now : W64), c.val < s.ncores ∧ k = s.ctx c.val x.val ∧ BitVec.toNat s.ts ≤ BitVec.toNat now ∧ runOf s (BitVec.toNat k.graph) = some r ∧ k.state = CtxState.waiting ∧ k.released = false ∧ r.cadence = true ∧ r.stopped = false ∧ BitVec.toNat r.a + BitVec.toNat k.task.release ≤ extTime (s.advance now)) ∧
    (∃ (s : State) (c : CoreId) (x : CtxId) (k : Ctx) (d : ℕ) (r : Run) (g : Machine.Graph) (now : W64), c.val < s.ncores ∧ k = s.ctx c.val x.val ∧ BitVec.toNat s.ts ≤ BitVec.toNat now ∧ runOf s (BitVec.toNat k.graph) = some r ∧ s.graph (BitVec.toNat k.graph) = some g ∧ g.leaving = false ∧ deadlineOf s k = some d ∧ deadlineBefore (s.advance now) c.val x.val = [] ∧ d ≤ extTime (s.advance now) ∧ k.task.policy = Policy.skip ∧ (k.state = CtxState.waiting ∨ k.state = CtxState.ready ∨ k.state = CtxState.queued)) ∧
    (∃ (s : State) (c : CoreId) (x : CtxId) (k : Ctx) (r : Run) (now : W64), c.val < s.ncores ∧ k = s.ctx c.val x.val ∧ BitVec.toNat s.ts ≤ BitVec.toNat now ∧ runOf s (BitVec.toNat k.graph) = some r ∧ extTime (s.advance now) < BitVec.toNat r.a + BitVec.toNat k.task.release) ∧
    (∃ (s : State) (c : CoreId) (x : CtxId) (k : Ctx) (d : ℕ) (r : Run) (g : Machine.Graph) (now : W64), c.val < s.ncores ∧ k = s.ctx c.val x.val ∧ BitVec.toNat s.ts ≤ BitVec.toNat now ∧ runOf s (BitVec.toNat k.graph) = some r ∧ s.graph (BitVec.toNat k.graph) = some g ∧ g.leaving = false ∧ deadlineOf s k = some d ∧ deadlineBefore (s.advance now) c.val x.val = [] ∧ extTime (s.advance now) < d) :=
   ⟨⟨(wt .waiting 0), (1 : CoreId), (7 : CtxId), ((wt .waiting 0).ctx 1 7), (((wt .waiting 0).graphs.headD (0,{})).2.run.getD {}), (9000000000 : W64), by decide +kernel⟩,
    ⟨(wt .waiting 0), (1 : CoreId), (7 : CtxId), ((wt .waiting 0).ctx 1 7), ((deadlineOf (wt .waiting 0) ((wt .waiting 0).ctx 1 7)).getD 0), (((wt .waiting 0).graphs.headD (0,{})).2.run.getD {}), (((wt .waiting 0).graphs.headD (0,{})).2), (9000000000 : W64), by decide +kernel⟩,
    ⟨(wt .waiting 0x7FFFFFFF), (1 : CoreId), (7 : CtxId), ((wt .waiting 0x7FFFFFFF).ctx 1 7), (((wt .waiting 0x7FFFFFFF).graphs.headD (0,{})).2.run.getD {}), (9000000000 : W64), by decide +kernel⟩,
    ⟨(wt .waiting 0x7FFFFFFF), (1 : CoreId), (7 : CtxId), ((wt .waiting 0x7FFFFFFF).ctx 1 7), ((deadlineOf (wt .waiting 0x7FFFFFFF) ((wt .waiting 0x7FFFFFFF).ctx 1 7)).getD 0), (((wt .waiting 0x7FFFFFFF).graphs.headD (0,{})).2.run.getD {}), (((wt .waiting 0x7FFFFFFF).graphs.headD (0,{})).2), (9000000000 : W64), by decide +kernel⟩⟩

theorem witness_DispatchAndTimes_3 :
    (∃ (s : State) (c : CoreId) (x : CtxId) (k : Ctx) (r : Run) (now : W64), c.val < s.ncores ∧ k = s.ctx c.val x.val ∧ BitVec.toNat s.ts ≤ BitVec.toNat now ∧ runOf s (BitVec.toNat k.graph) = some r ∧ k.task.kind = Kind.waitCadence ∧ k.state = CtxState.running ∧ s.pwr.trip = false ∧ waitOver (s.advance now) k r = true) ∧
    (∃ (s : State) (c : CoreId) (x : CtxId) (k : Ctx) (d : ℕ) (r : Run) (g : Machine.Graph) (now : W64), c.val < s.ncores ∧ k = s.ctx c.val x.val ∧ BitVec.toNat s.ts ≤ BitVec.toNat now ∧ runOf s (BitVec.toNat k.graph) = some r ∧ s.graph (BitVec.toNat k.graph) = some g ∧ g.leaving = false ∧ deadlineOf s k = some d ∧ deadlineBefore (s.advance now) c.val x.val = [] ∧ d ≤ extTime (s.advance now) ∧ k.task.policy = Policy.skip ∧ k.state = CtxState.running) ∧
    (∃ (s : State) (c : CoreId) (x : CtxId) (k : Ctx) (r : Run) (now : W64), c.val < s.ncores ∧ k = s.ctx c.val x.val ∧ BitVec.toNat s.ts ≤ BitVec.toNat now ∧ runOf s (BitVec.toNat k.graph) = some r ∧ k.task.kind = Kind.waitCadence ∧ k.state = CtxState.running ∧ s.pwr.trip = false ∧ waitOver (s.advance now) k r = false) ∧
    (∃ (s : State) (c : CoreId) (x : CtxId) (k : Ctx) (now : W64), c.val < s.ncores ∧ k = s.ctx c.val x.val ∧ BitVec.toNat s.ts ≤ BitVec.toNat now ∧ s.pwr.trip = false ∧ k.state = CtxState.ready ∧ k.cls = SClass.background ∧ BitVec.toNat k.clsSince + BitVec.toNat (s.part k.part).ageBack * 1000000 < BitVec.toNat now) ∧
    (∃ (s : State) (c : CoreId) (x : CtxId) (k : Ctx) (now : W64), c.val < s.ncores ∧ k = s.ctx c.val x.val ∧ BitVec.toNat s.ts ≤ BitVec.toNat now ∧ s.pwr.trip = false ∧ k.state = CtxState.ready ∧ k.cls = SClass.bulk ∧ BitVec.toNat k.clsSince + BitVec.toNat (s.part k.part).ageBulk * 1000000 < BitVec.toNat now) :=
   ⟨⟨(wt .running 0), (1 : CoreId), (7 : CtxId), ((wt .running 0).ctx 1 7), (((wt .running 0).graphs.headD (0,{})).2.run.getD {}), (9000000000 : W64), by decide +kernel⟩,
    ⟨(wt .running 0), (1 : CoreId), (7 : CtxId), ((wt .running 0).ctx 1 7), ((deadlineOf (wt .running 0) ((wt .running 0).ctx 1 7)).getD 0), (((wt .running 0).graphs.headD (0,{})).2.run.getD {}), (((wt .running 0).graphs.headD (0,{})).2), (9000000000 : W64), by decide +kernel⟩,
    ⟨(wt .running 0x7FFFFFFF), (1 : CoreId), (7 : CtxId), ((wt .running 0x7FFFFFFF).ctx 1 7), (((wt .running 0x7FFFFFFF).graphs.headD (0,{})).2.run.getD {}), (9000000000 : W64), by decide +kernel⟩,
    ⟨(bg .background), (1 : CoreId), (7 : CtxId), ((bg .background).ctx 1 7), (9000000000 : W64), by decide +kernel⟩,
    ⟨(bg .bulk), (1 : CoreId), (7 : CtxId), ((bg .bulk).ctx 1 7), (9000000000 : W64), by decide +kernel⟩⟩

theorem witness_DispatchAndTimes_4 :
    (∃ (s : State) (c : CoreId) (x : CtxId) (k : Ctx) (h : W32) (g : Machine.Graph) (r : Run) (now : W64), c.val < s.ncores ∧ k = s.ctx c.val x.val ∧ BitVec.toNat s.ts ≤ BitVec.toNat now ∧ s.graph (BitVec.toNat h) = some g ∧ runOf s (BitVec.toNat h) = some r ∧ r.released = false ∧ BitVec.toNat r.a ≤ extTime (s.advance now)) ∧
    (∃ (s : State) (c : CoreId) (x : CtxId) (k : Ctx) (h : W32) (g : Machine.Graph) (r : Run) (now : W64), c.val < s.ncores ∧ k = s.ctx c.val x.val ∧ BitVec.toNat s.ts ≤ BitVec.toNat now ∧ s.graph (BitVec.toNat h) = some g ∧ runOf s (BitVec.toNat h) = some r ∧ r.released = false ∧ extTime (s.advance now) < BitVec.toNat r.a) ∧
    (∃ (s : State) (c : CoreId) (x : CtxId) (k : Ctx) (h : W32) (g : Machine.Graph) (e0 : W64) (now : W64), c.val < s.ncores ∧ k = s.ctx c.val x.val ∧ BitVec.toNat s.ts ≤ BitVec.toNat now ∧ s.graph (BitVec.toNat h) = some g ∧ g.e0 = some e0 ∧ g.started = true ∧ BitVec.toNat e0 + BitVec.toNat g.phase + g.nextK * g.period * 65536 ≤ extTime (s.advance now)) ∧
    (∃ (s : State) (c : CoreId) (x : CtxId) (k : Ctx) (h : W32) (g : Machine.Graph) (e0 : W64) (now : W64), c.val < s.ncores ∧ k = s.ctx c.val x.val ∧ BitVec.toNat s.ts ≤ BitVec.toNat now ∧ s.graph (BitVec.toNat h) = some g ∧ g.e0 = some e0 ∧ g.started = true ∧ extTime (s.advance now) < BitVec.toNat e0 + BitVec.toNat g.phase + g.nextK * g.period * 65536) :=
   ⟨⟨(rel false 0), (1 : CoreId), (7 : CtxId), ((rel false 0).ctx 1 7), (3 : W32), (((rel false 0).graphs.headD (0,{})).2), (((rel false 0).graphs.headD (0,{})).2.run.getD {}), (9000000000 : W64), by decide +kernel⟩,
    ⟨(rel false 0x70000000), (1 : CoreId), (7 : CtxId), ((rel false 0x70000000).ctx 1 7), (3 : W32), (((rel false 0x70000000).graphs.headD (0,{})).2), (((rel false 0x70000000).graphs.headD (0,{})).2.run.getD {}), (9000000000 : W64), by decide +kernel⟩,
    ⟨(std 0), (1 : CoreId), (7 : CtxId), ((std 0).ctx 1 7), (3 : W32), (((std 0).graphs.headD (0,{})).2), ((((std 0).graphs.headD (0,{})).2.e0).getD 0), (9000000000 : W64), by decide +kernel⟩,
    ⟨(std 0x70000000), (1 : CoreId), (7 : CtxId), ((std 0x70000000).ctx 1 7), (3 : W32), (((std 0x70000000).graphs.headD (0,{})).2), ((((std 0x70000000).graphs.headD (0,{})).2.e0).getD 0), (9000000000 : W64), by decide +kernel⟩⟩

theorem witness_SamplesAreSettled_1 :
    (∃ (s : State) (c : CoreId) (e : EngId) (sl : CheckSlot), c.val < s.ncores ∧ s.pwr.trip = false ∧ sl = (s.engine c.val e.val).slot ∧ sl.stage = SampleStage.empty) ∧
    (∃ (s : State) (c : CoreId) (e : EngId) (sl : CheckSlot) (res : List Byte), c.val < s.ncores ∧ s.pwr.trip = false ∧ sl = (s.engine c.val e.val).slot ∧ (sl.stage = SampleStage.captured ∨ sl.stage = SampleStage.forced) ∧ res = sl.orig) ∧
    (∃ (s : State) (c : CoreId) (e : EngId) (sl : CheckSlot) (res : List Byte), c.val < s.ncores ∧ s.pwr.trip = false ∧ sl = (s.engine c.val e.val).slot ∧ (sl.stage = SampleStage.captured ∨ sl.stage = SampleStage.forced) ∧ res ≠ sl.orig) ∧
    (∃ (s : State) (c : CoreId) (e : EngId) (sl : CheckSlot) (i : ℕ), c.val < s.ncores ∧ s.pwr.trip = false ∧ sl = (s.engine c.val e.val).slot ∧ sl.stage = SampleStage.captured ∧ sl.at_ + 64 * s.rel.forceWait.toNat ≤ BitVec.toNat (s.engine c.val e.val).tiles ∧ (List.find? (fun (i : ℕ) => !hasCadence s (i / 8) (i % 8)) (List.filter (fun (i : ℕ) => i != engIndex c.val e.val) (List.drop (List.idxOf sl.checker (Machine.rotation s)) (Machine.rotation s) ++ List.take (List.idxOf sl.checker (Machine.rotation s)) (Machine.rotation s))) = some i)) ∧
    (∃ (s : State) (c : CoreId) (e : EngId) (sl : CheckSlot), c.val < s.ncores ∧ s.pwr.trip = false ∧ sl = (s.engine c.val e.val).slot ∧ sl.stage = SampleStage.captured ∧ BitVec.toNat (s.engine c.val e.val).tiles < sl.at_ + 64 * s.rel.forceWait.toNat) ∧
    (∃ (s : State) (c : CoreId) (e : EngId) (sl : CheckSlot) (res : List Byte), c.val < s.ncores ∧ s.pwr.trip = false ∧ sl = (s.engine c.val e.val).slot ∧ sl.stage = SampleStage.rep ∧ res ≠ sl.dup ∧ 3 ≤ (Machine.rotation s).length ∧ res = sl.orig) :=
   ⟨⟨(slt .empty), (1 : CoreId), (2 : EngId), (((slt .empty).engine 1 2).slot), by decide +kernel⟩,
    ⟨(slt .captured), (1 : CoreId), (2 : EngId), (((slt .captured).engine 1 2).slot), ([1] : List Byte), by decide +kernel⟩,
    ⟨(slt .captured), (1 : CoreId), (2 : EngId), (((slt .captured).engine 1 2).slot), ([2] : List Byte), by decide +kernel⟩,
    ⟨(slt .captured), (1 : CoreId), (2 : EngId), (((slt .captured).engine 1 2).slot), (11 : ℕ), by decide +kernel⟩,
    ⟨(slt0 .captured), (1 : CoreId), (2 : EngId), (((slt0 .captured).engine 1 2).slot), by decide +kernel⟩,
    ⟨(slt .rep), (1 : CoreId), (2 : EngId), (((slt .rep).engine 1 2).slot), ([1] : List Byte), by decide +kernel⟩⟩

theorem witness_SamplesAreSettled_2 :
    (∃ (s : State) (c : CoreId) (e : EngId) (sl : CheckSlot) (res : List Byte), c.val < s.ncores ∧ s.pwr.trip = false ∧ sl = (s.engine c.val e.val).slot ∧ sl.stage = SampleStage.rep ∧ res = sl.dup) ∧
    (∃ (s : State) (c : CoreId) (e : EngId) (sl : CheckSlot) (res : List Byte), c.val < s.ncores ∧ s.pwr.trip = false ∧ sl = (s.engine c.val e.val).slot ∧ sl.stage = SampleStage.rep ∧ res ≠ sl.dup ∧ res ≠ sl.orig) ∧
    (∃ (s : State) (c : CoreId) (e : EngId) (sl : CheckSlot) (res : List Byte), c.val < s.ncores ∧ s.pwr.trip = false ∧ sl = (s.engine c.val e.val).slot ∧ sl.stage = SampleStage.third ∧ res ≠ sl.dup ∧ res = sl.orig) ∧
    (∃ (s : State) (c : CoreId) (e : EngId) (sl : CheckSlot) (res : List Byte), c.val < s.ncores ∧ s.pwr.trip = false ∧ sl = (s.engine c.val e.val).slot ∧ sl.stage = SampleStage.third ∧ res = sl.dup) ∧
    (∃ (s : State) (c : CoreId) (e : EngId) (sl : CheckSlot) (res : List Byte), c.val < s.ncores ∧ s.pwr.trip = false ∧ sl = (s.engine c.val e.val).slot ∧ sl.stage = SampleStage.third ∧ res ≠ sl.dup ∧ res ≠ sl.orig) ∧
    (∃ (s : State) (c : CoreId) (e : EngId) (sl : CheckSlot) (res : List Byte), c.val < s.ncores ∧ s.pwr.trip = false ∧ sl = (s.engine c.val e.val).slot ∧ sl.stage = SampleStage.recheck ∧ res = sl.orig) :=
   ⟨⟨(slt .rep), (1 : CoreId), (2 : EngId), (((slt .rep).engine 1 2).slot), ([2] : List Byte), by decide +kernel⟩,
    ⟨(slt .rep), (1 : CoreId), (2 : EngId), (((slt .rep).engine 1 2).slot), ([5] : List Byte), by decide +kernel⟩,
    ⟨(slt .third), (1 : CoreId), (2 : EngId), (((slt .third).engine 1 2).slot), ([1] : List Byte), by decide +kernel⟩,
    ⟨(slt .third), (1 : CoreId), (2 : EngId), (((slt .third).engine 1 2).slot), ([2] : List Byte), by decide +kernel⟩,
    ⟨(slt .third), (1 : CoreId), (2 : EngId), (((slt .third).engine 1 2).slot), ([5] : List Byte), by decide +kernel⟩,
    ⟨(slt .recheck), (1 : CoreId), (2 : EngId), (((slt .recheck).engine 1 2).slot), ([1] : List Byte), by decide +kernel⟩⟩

theorem witness_SamplesAreSettled_3 :
    ∃ (s : State) (c : CoreId) (e : EngId) (sl : CheckSlot) (res : List Byte), c.val < s.ncores ∧ s.pwr.trip = false ∧ sl = (s.engine c.val e.val).slot ∧ sl.stage = SampleStage.recheck ∧ res ≠ sl.orig :=
   ⟨(slt .recheck), (1 : CoreId), (2 : EngId), (((slt .recheck).engine 1 2).slot), ([2] : List Byte), by decide +kernel⟩

theorem witness_SequencerAndMoverTasks_1 :
    (∃ (s : State) (c : CoreId) (x : CtxId) (k : Ctx) (r : Run), c.val < s.ncores ∧ s.pwr.trip = false ∧ k = s.ctx c.val x.val ∧ runOf s (BitVec.toNat k.graph) = some r ∧ k.task.kind = Kind.waitCadence ∧ k.state = CtxState.ready ∧ waitOver (beginTask s c.val x.val) ((beginTask s c.val x.val).ctx c.val x.val) r = true) ∧
    (∃ (s : State) (c : CoreId) (x : CtxId) (k : Ctx) (m : SignalMsg) (r : Run), c.val < s.ncores ∧ s.pwr.trip = false ∧ k = s.ctx c.val x.val ∧ m.ctx = x ∧ runOf s (BitVec.toNat m.graph) = some r ∧ r.signals.contains (c.val, x.val, m.counter.val) = false) ∧
    (∃ (s : State) (c : CoreId) (x : CtxId) (k : Ctx), c.val < s.ncores ∧ s.pwr.trip = false ∧ k = s.ctx c.val x.val ∧ barrierStarts s c.val x.val = false) ∧
    (∃ (s : State) (c : CoreId) (x : CtxId) (k : Ctx), c.val < s.ncores ∧ s.pwr.trip = false ∧ k = s.ctx c.val x.val ∧ moverHead s c.val Kind.move = none ∧ moverWaits s c.val Kind.move = none) ∧
    (∃ (s : State) (c : CoreId) (x : CtxId) (k : Ctx) (r : Run), c.val < s.ncores ∧ s.pwr.trip = false ∧ k = s.ctx c.val x.val ∧ runOf s (BitVec.toNat k.graph) = some r ∧ k.task.kind = Kind.waitCadence ∧ k.state = CtxState.ready ∧ waitOver (beginTask s c.val x.val) ((beginTask s c.val x.val).ctx c.val x.val) r = false) ∧
    (∃ (s : State) (c : CoreId) (x : CtxId) (k : Ctx), c.val < s.ncores ∧ s.pwr.trip = false ∧ k = s.ctx c.val x.val ∧ k.task.kind = Kind.signal ∧ k.state = CtxState.ready) :=
   ⟨⟨(wt .ready 0), (1 : CoreId), (7 : CtxId), ((wt .ready 0).ctx 1 7), (((wt .ready 0).graphs.headD (0,{})).2.run.getD {}), by decide +kernel⟩,
    ⟨(wt .ready 0), (1 : CoreId), (7 : CtxId), ((wt .ready 0).ctx 1 7), sg, (((wt .ready 0).graphs.headD (0,{})).2.run.getD {}), by decide +kernel⟩,
    ⟨(wt .ready 0), (1 : CoreId), (7 : CtxId), ((wt .ready 0).ctx 1 7), by decide +kernel⟩,
    ⟨(wt .ready 0), (1 : CoreId), (7 : CtxId), ((wt .ready 0).ctx 1 7), by decide +kernel⟩,
    ⟨(wt .ready 0x7FFFFFFF), (1 : CoreId), (7 : CtxId), ((wt .ready 0x7FFFFFFF).ctx 1 7), (((wt .ready 0x7FFFFFFF).graphs.headD (0,{})).2.run.getD {}), by decide +kernel⟩,
    ⟨(one .ready (tkP .signal [2])), (1 : CoreId), (7 : CtxId), ((one .ready (tkP .signal [2])).ctx 1 7), by decide +kernel⟩⟩

theorem witness_SequencerAndMoverTasks_2 :
    (∃ (s : State) (c : CoreId) (x : CtxId) (k : Ctx) (m : SignalMsg) (r : Run) (t : State) (q : Run), c.val < s.ncores ∧ s.pwr.trip = false ∧ k = s.ctx c.val x.val ∧ m.ctx = x ∧ runOf s (BitVec.toNat m.graph) = some r ∧ k.graph = m.graph ∧ k.state ≠ CtxState.free ∧ r.runNo = m.runNo ∧ r.signals.contains (c.val, x.val, m.counter.val) = true ∧ (s.part k.part).state ≠ PartState.resetting ∧ k.part = m.ptag.val ∧ coreInitOk s k.part m.init = true ∧ runOf t (BitVec.toNat m.graph) = some q) ∧
    (∃ (s : State) (c : CoreId) (x : CtxId) (k : Ctx) (m : SignalMsg) (r : Run), c.val < s.ncores ∧ s.pwr.trip = false ∧ k = s.ctx c.val x.val ∧ m.ctx = x ∧ runOf s (BitVec.toNat m.graph) = some r ∧ k.graph = m.graph ∧ k.state ≠ CtxState.free ∧ r.runNo = m.runNo ∧ r.signals.contains (c.val, x.val, m.counter.val) = true ∧ (s.part k.part).state ≠ PartState.resetting ∧ (k.part ≠ m.ptag.val ∨ coreInitOk s k.part m.init = false)) ∧
    (∃ (s : State) (c : CoreId) (x : CtxId) (k : Ctx) (m : SignalMsg), c.val < s.ncores ∧ s.pwr.trip = false ∧ k = s.ctx c.val x.val ∧ m.ctx = x ∧ runOf s (BitVec.toNat m.graph) = none) ∧
    (∃ (s : State) (c : CoreId) (x : CtxId) (k : Ctx) (src : CoreId) (h : W32) (g : Machine.Graph), c.val < s.ncores ∧ s.pwr.trip = false ∧ k = s.ctx c.val x.val ∧ s.graph (BitVec.toNat h) = some g ∧ c.val = homeCore g ∧ (List.filter (fun (e : ℕ × ℕ) => e.1 == src.val) g.ctxOf ≠ []) ∧ (((List.filter (fun (e : ℕ × ℕ) => e.1 == src.val) g.ctxOf).all fun (e : ℕ × ℕ) => (s.ctx e.1 e.2).state == CtxState.done) = true)) :=
   ⟨⟨sgw, (1 : CoreId), (7 : CtxId), (sgw.ctx 1 7), sg, ((sgw.graphs.headD (0,{})).2.run.getD {}), (nextOf (exec (Instr.signalArrive (1 : CoreId) sg) sgw)), ((runOf (nextOf (exec (Instr.signalArrive (1 : CoreId) sg) sgw)) sg.graph.toNat).getD {}), by decide +kernel⟩,
    ⟨sgw, (1 : CoreId), (7 : CtxId), (sgw.ctx 1 7), sgo, ((sgw.graphs.headD (0,{})).2.run.getD {}), by decide +kernel⟩,
    ⟨(nogr sgw), (1 : CoreId), (7 : CtxId), ((nogr sgw).ctx 1 7), sg, by decide +kernel⟩,
    ⟨cdn, (1 : CoreId), (7 : CtxId), (cdn.ctx 1 7), (1 : CoreId), (3 : W32), ((cdn.graphs.headD (0,{})).2), by decide +kernel⟩⟩

theorem witness_SequencerAndMoverTasks_3 :
    (∃ (s : State) (c : CoreId) (x : CtxId) (k : Ctx) (score : W32), c.val < s.ncores ∧ s.pwr.trip = false ∧ k = s.ctx c.val x.val ∧ k.task.kind = Kind.promote ∧ k.state = CtxState.ready ∧ anyBlock s k.part (pbf k.task 8 6) 4 BlockState.unmapped = false ∧ anyBlock s k.part (pbf k.task 8 6) 4 BlockState.poisoned = false ∧ score = BitVec.ofNat 32 (leNat (devRead s k.part (pbf k.task 8 6) 4)) ∧ isNan32 score = false ∧ f32lt score (BitVec.ofNat 32 (pbf k.task 4 4)) = false) ∧
    (∃ (s : State) (c : CoreId) (x : CtxId) (k : Ctx) (score : W32), c.val < s.ncores ∧ s.pwr.trip = false ∧ k = s.ctx c.val x.val ∧ k.task.kind = Kind.promote ∧ k.state = CtxState.ready ∧ anyBlock s k.part (pbf k.task 8 6) 4 BlockState.unmapped = false ∧ anyBlock s k.part (pbf k.task 8 6) 4 BlockState.poisoned = false ∧ score = BitVec.ofNat 32 (leNat (devRead s k.part (pbf k.task 8 6) 4)) ∧ (isNan32 score = true ∨ f32lt score (BitVec.ofNat 32 (pbf k.task 4 4)) = true)) ∧
    (∃ (s : State) (c : CoreId) (x : CtxId) (k : Ctx), c.val < s.ncores ∧ s.pwr.trip = false ∧ k = s.ctx c.val x.val ∧ k.task.kind = Kind.promote ∧ k.state = CtxState.ready ∧ anyBlock s k.part (pbf k.task 8 6) 4 BlockState.unmapped = false ∧ anyBlock s k.part (pbf k.task 8 6) 4 BlockState.poisoned = true) ∧
    (∃ (s : State) (c : CoreId) (x : CtxId) (k : Ctx) (u : State) (slot : ℕ) (b : Barrier), c.val < s.ncores ∧ s.pwr.trip = false ∧ k = s.ctx c.val x.val ∧ barrierStarts s c.val x.val = true ∧ (u = if k.state = CtxState.ready then beginTask s c.val x.val else s) ∧ barSlot s (pbf k.task 0 2) = some (slot, b) ∧ b.coord = s.fab.id) :=
   ⟨⟨(pm 0x40000000), (1 : CoreId), (7 : CtxId), ((pm 0x40000000).ctx 1 7), (BitVec.ofNat 32 (leNat (devRead (pm 0x40000000) ((pm 0x40000000).ctx 1 7).part (pbf ((pm 0x40000000).ctx 1 7).task 8 6) 4))), by decide +kernel⟩,
    ⟨(pm 0x3F000000), (1 : CoreId), (7 : CtxId), ((pm 0x3F000000).ctx 1 7), (BitVec.ofNat 32 (leNat (devRead (pm 0x3F000000) ((pm 0x3F000000).ctx 1 7).part (pbf ((pm 0x3F000000).ctx 1 7).task 8 6) 4))), by decide +kernel⟩,
    ⟨(poison (pm 0x3F000000)), (1 : CoreId), (7 : CtxId), ((poison (pm 0x3F000000)).ctx 1 7), by decide +kernel⟩,
    ⟨(bar 5), (1 : CoreId), (7 : CtxId), ((bar 5).ctx 1 7), ((if ((bar 5).ctx 1 7).state = .ready then beginTask (bar 5) (1 : CoreId).val (7 : CtxId).val else (bar 5))), (0 : ℕ), (((bar 5).fab.bars.headD (0,{})).2), by decide +kernel⟩⟩

theorem witness_SequencerAndMoverTasks_4 :
    (∃ (s : State) (c : CoreId) (x : CtxId) (k : Ctx) (u : State) (slot : ℕ) (b : Barrier), c.val < s.ncores ∧ s.pwr.trip = false ∧ k = s.ctx c.val x.val ∧ barrierStarts s c.val x.val = true ∧ (u = if k.state = CtxState.ready then beginTask s c.val x.val else s) ∧ barSlot s (pbf k.task 0 2) = some (slot, b) ∧ b.coord ≠ s.fab.id) ∧
    (∃ (s : State) (c : CoreId) (x : CtxId) (k : Ctx) (u : State), c.val < s.ncores ∧ s.pwr.trip = false ∧ k = s.ctx c.val x.val ∧ barrierStarts s c.val x.val = true ∧ (u = if k.state = CtxState.ready then beginTask s c.val x.val else s) ∧ barSlot s (pbf k.task 0 2) = none) ∧
    (∃ (s : State) (c : CoreId) (x : CtxId) (k : Ctx) (slot : ℕ) (b : Barrier) (g : W32) (t0 : W64) (now : W64), c.val < s.ncores ∧ s.pwr.trip = false ∧ k = s.ctx c.val x.val ∧ BitVec.toNat s.ts ≤ BitVec.toNat now ∧ (List.find? (fun (b : ℕ × Barrier) => match b.2.pend with | some (cc, xx, fst, snd) => cc == c.val && xx == x.val | none => false) s.fab.bars = some (slot, b)) ∧ b.pend = some (c.val, x.val, g, t0) ∧ k.state = CtxState.running ∧ BitVec.toNat t0 + pbf k.task 4 4 * 1000 ≤ BitVec.toNat now) ∧
    (∃ (s : State) (c : CoreId) (x : CtxId) (k : Ctx) (slot : ℕ) (b : Barrier) (g : W32) (t0 : W64) (now : W64), c.val < s.ncores ∧ s.pwr.trip = false ∧ k = s.ctx c.val x.val ∧ BitVec.toNat s.ts ≤ BitVec.toNat now ∧ (List.find? (fun (b : ℕ × Barrier) => match b.2.pend with | some (cc, xx, fst, snd) => cc == c.val && xx == x.val | none => false) s.fab.bars = some (slot, b)) ∧ b.pend = some (c.val, x.val, g, t0) ∧ k.state = CtxState.running ∧ BitVec.toNat now < BitVec.toNat t0 + pbf k.task 4 4 * 1000) :=
   ⟨⟨(bar 6), (1 : CoreId), (7 : CtxId), ((bar 6).ctx 1 7), ((if ((bar 6).ctx 1 7).state = .ready then beginTask (bar 6) (1 : CoreId).val (7 : CtxId).val else (bar 6))), (0 : ℕ), (((bar 6).fab.bars.headD (0,{})).2), by decide +kernel⟩,
    ⟨({bar 5 with fab.bars := []} : State), (1 : CoreId), (7 : CtxId), (({bar 5 with fab.bars := []} : State).ctx 1 7), ((if (({bar 5 with fab.bars := []} : State).ctx 1 7).state = .ready then beginTask ({bar 5 with fab.bars := []} : State) (1 : CoreId).val (7 : CtxId).val else ({bar 5 with fab.bars := []} : State))), by decide +kernel⟩,
    ⟨barR, (1 : CoreId), (7 : CtxId), (barR.ctx 1 7), (0 : ℕ), ((barR.fab.bars.headD (0,{})).2), (1 : W32), (900000000 : W64), (900100000 : W64), by decide +kernel⟩,
    ⟨barR, (1 : CoreId), (7 : CtxId), (barR.ctx 1 7), (0 : ℕ), ((barR.fab.bars.headD (0,{})).2), (1 : W32), (900000000 : W64), (900099999 : W64), by decide +kernel⟩⟩

theorem witness_SequencerAndMoverTasks_5 :
    (∃ (s : State) (c : CoreId) (x : CtxId) (k : Ctx), c.val < s.ncores ∧ s.pwr.trip = false ∧ k = s.ctx c.val x.val ∧ k.state = CtxState.running ∧ (engineKind k.task.kind = true ∨ moverKind k.task.kind = true) ∧ workOver s c.val x.val = false) ∧
    (∃ (s : State) (c : CoreId) (x : CtxId) (k : Ctx) (u : State), c.val < s.ncores ∧ s.pwr.trip = false ∧ k = s.ctx c.val x.val ∧ k.state = CtxState.running ∧ (engineKind k.task.kind = true ∨ moverKind k.task.kind = true) ∧ workOver s c.val x.val = true ∧ (u = s.modCore c.val fun (q : Core) => { q with tmRun := if q.tmRun = some x.val then none else q.tmRun })) ∧
    (∃ (s : State) (c : CoreId) (x : CtxId) (k : Ctx) (u : State) (v : State) (asked : Bool) (needs : List (ℕ × ℕ × BitVec (OfNat.ofNat 16))), c.val < s.ncores ∧ s.pwr.trip = false ∧ k = s.ctx c.val x.val ∧ (moverHead s c.val Kind.move = some x.val ∧ u = moverTake s c.val x.val ∨ moverWaits s c.val Kind.move = some x.val ∧ u = s) ∧ pbf k.task 0 1 % 4 ≠ 1 ∧ (needs = blockNeeds (List.map (fun (a : ℕ × ℕ) => (0, a.1, a.2)) (moveSrc k.task))) ∧ (((moveSrc k.task).any fun (a : ℕ × ℕ) => anyBlock u k.part a.1 a.2 BlockState.unmapped) = false) ∧ (((moveSrc k.task).any fun (a : ℕ × ℕ) => anyBlock u k.part a.1 a.2 BlockState.poisoned) = false) ∧ (((moveSrc k.task).any fun (a : ℕ × ℕ) => touchesSealed u k.part a.1 a.2) = false) ∧ awaitBytes u c.val x.val false (u.core c.val).tmAsked needs = (false, asked, v)) :=
   ⟨⟨(prun true), (1 : CoreId), (7 : CtxId), ((prun true).ctx 1 7), by decide +kernel⟩,
    ⟨(prun false), (1 : CoreId), (7 : CtxId), ((prun false).ctx 1 7), ((prun false).modCore (1 : CoreId).val (fun q => { q with tmRun := if q.tmRun = some (7 : CtxId).val then none else q.tmRun })), by decide +kernel⟩,
    ⟨(sMv 0), (1 : CoreId), (7 : CtxId), ((sMv 0).ctx 1 7), (moverTake (sMv 0) (1 : CoreId).val (7 : CtxId).val), ((awaitBytes (moverTake (sMv 0) (1 : CoreId).val (7 : CtxId).val) (1 : CoreId).val (7 : CtxId).val false ((moverTake (sMv 0) (1 : CoreId).val (7 : CtxId).val).core (1 : CoreId).val).tmAsked (blockNeeds (if ((sMv 0).ctx 1 7).task.kind = .decompress then [(0, pbf ((sMv 0).ctx 1 7).task 8 6, pbf ((sMv 0).ctx 1 7).task 24 4)] else (moveSrc ((sMv 0).ctx 1 7).task).map (fun a => (0, a.1, a.2))))).2.2), false, (blockNeeds ((moveSrc ((sMv 0).ctx 1 7).task).map (fun a => (0, a.1, a.2)))), by decide +kernel⟩⟩

theorem witness_SequencerAndMoverTasks_6 :
    ∃ (s : State) (c : CoreId) (x : CtxId) (k : Ctx) (u : State) (v : State) (w : State) (asked : Bool) (rows : List ((ℕ × ℕ) × List Byte)) (needs : List (ℕ × ℕ × BitVec (OfNat.ofNat 16))), c.val < s.ncores ∧ s.pwr.trip = false ∧ k = s.ctx c.val x.val ∧ (moverHead s c.val Kind.move = some x.val ∧ u = moverTake s c.val x.val ∨ moverWaits s c.val Kind.move = some x.val ∧ u = s) ∧ pbf k.task 0 1 % 4 ≠ 1 ∧ (needs = blockNeeds (List.map (fun (a : ℕ × ℕ) => (0, a.1, a.2)) (moveSrc k.task))) ∧ (((moveSrc k.task).any fun (a : ℕ × ℕ) => anyBlock u k.part a.1 a.2 BlockState.unmapped) = false) ∧ (((moveSrc k.task).any fun (a : ℕ × ℕ) => anyBlock u k.part a.1 a.2 BlockState.poisoned) = false) ∧ (((moveSrc k.task).any fun (a : ℕ × ℕ) => touchesSealed u k.part a.1 a.2) = false) ∧ awaitBytes u c.val x.val false (u.core c.val).tmAsked needs = (true, asked, v) ∧ (w = (touchBlocks v c.val k.part (needBlocks needs)).modCore c.val fun (q : Core) => { q with tmWait := false }) ∧ (rows = (moveDst k.task).zip (List.map (fun (a : ℕ × ℕ) => moveRow w k.part k.task a.1 a.2) (moveSrc k.task))) ∧ nbit (pbf k.task 0 1) 2 = false ∧ (writeRows c.val k.part rows w.draw).1 = none :=
   ⟨(res0 (sMv 0)), (1 : CoreId), (7 : CtxId), ((res0 (sMv 0)).ctx 1 7), (moverTake (res0 (sMv 0)) (1 : CoreId).val (7 : CtxId).val), ((awaitBytes (moverTake (res0 (sMv 0)) (1 : CoreId).val (7 : CtxId).val) (1 : CoreId).val (7 : CtxId).val false ((moverTake (res0 (sMv 0)) (1 : CoreId).val (7 : CtxId).val).core (1 : CoreId).val).tmAsked (blockNeeds (if ((res0 (sMv 0)).ctx 1 7).task.kind = .decompress then [(0, pbf ((res0 (sMv 0)).ctx 1 7).task 8 6, pbf ((res0 (sMv 0)).ctx 1 7).task 24 4)] else (moveSrc ((res0 (sMv 0)).ctx 1 7).task).map (fun a => (0, a.1, a.2))))).2.2), ((touchBlocks ((awaitBytes (moverTake (res0 (sMv 0)) (1 : CoreId).val (7 : CtxId).val) (1 : CoreId).val (7 : CtxId).val false ((moverTake (res0 (sMv 0)) (1 : CoreId).val (7 : CtxId).val).core (1 : CoreId).val).tmAsked (blockNeeds (if ((res0 (sMv 0)).ctx 1 7).task.kind = .decompress then [(0, pbf ((res0 (sMv 0)).ctx 1 7).task 8 6, pbf ((res0 (sMv 0)).ctx 1 7).task 24 4)] else (moveSrc ((res0 (sMv 0)).ctx 1 7).task).map (fun a => (0, a.1, a.2))))).2.2) (1 : CoreId).val ((res0 (sMv 0)).ctx 1 7).part (needBlocks (blockNeeds (if ((res0 (sMv 0)).ctx 1 7).task.kind = .decompress then [(0, pbf ((res0 (sMv 0)).ctx 1 7).task 8 6, pbf ((res0 (sMv 0)).ctx 1 7).task 24 4)] else (moveSrc ((res0 (sMv 0)).ctx 1 7).task).map (fun a => (0, a.1, a.2)))))).modCore (1 : CoreId).val (fun q => { q with tmWait := false })), false, ((moveDst ((res0 (sMv 0)).ctx 1 7).task).zip ((moveSrc ((res0 (sMv 0)).ctx 1 7).task).map (fun a => moveRow ((touchBlocks ((awaitBytes (moverTake (res0 (sMv 0)) (1 : CoreId).val (7 : CtxId).val) (1 : CoreId).val (7 : CtxId).val false ((moverTake (res0 (sMv 0)) (1 : CoreId).val (7 : CtxId).val).core (1 : CoreId).val).tmAsked (blockNeeds (if ((res0 (sMv 0)).ctx 1 7).task.kind = .decompress then [(0, pbf ((res0 (sMv 0)).ctx 1 7).task 8 6, pbf ((res0 (sMv 0)).ctx 1 7).task 24 4)] else (moveSrc ((res0 (sMv 0)).ctx 1 7).task).map (fun a => (0, a.1, a.2))))).2.2) (1 : CoreId).val ((res0 (sMv 0)).ctx 1 7).part (needBlocks (blockNeeds (if ((res0 (sMv 0)).ctx 1 7).task.kind = .decompress then [(0, pbf ((res0 (sMv 0)).ctx 1 7).task 8 6, pbf ((res0 (sMv 0)).ctx 1 7).task 24 4)] else (moveSrc ((res0 (sMv 0)).ctx 1 7).task).map (fun a => (0, a.1, a.2)))))).modCore (1 : CoreId).val (fun q => { q with tmWait := false })) ((res0 (sMv 0)).ctx 1 7).part ((res0 (sMv 0)).ctx 1 7).task a.1 a.2))), (blockNeeds ((moveSrc ((res0 (sMv 0)).ctx 1 7).task).map (fun a => (0, a.1, a.2)))), by decide +kernel⟩

theorem witness_SequencerAndMoverTasks_7 :
    ∃ (s : State) (c : CoreId) (x : CtxId) (k : Ctx) (u : State) (v : State) (w : State) (asked : Bool) (rows : List ((ℕ × ℕ) × List Byte)) (needs : List (ℕ × ℕ × BitVec (OfNat.ofNat 16))), c.val < s.ncores ∧ s.pwr.trip = false ∧ k = s.ctx c.val x.val ∧ (moverHead s c.val Kind.move = some x.val ∧ u = moverTake s c.val x.val ∨ moverWaits s c.val Kind.move = some x.val ∧ u = s) ∧ pbf k.task 0 1 % 4 ≠ 1 ∧ (needs = blockNeeds (List.map (fun (a : ℕ × ℕ) => (0, a.1, a.2)) (moveSrc k.task))) ∧ (((moveSrc k.task).any fun (a : ℕ × ℕ) => anyBlock u k.part a.1 a.2 BlockState.unmapped) = false) ∧ (((moveSrc k.task).any fun (a : ℕ × ℕ) => anyBlock u k.part a.1 a.2 BlockState.poisoned) = false) ∧ (((moveSrc k.task).any fun (a : ℕ × ℕ) => touchesSealed u k.part a.1 a.2) = false) ∧ awaitBytes u c.val x.val false (u.core c.val).tmAsked needs = (true, asked, v) ∧ (w = (touchBlocks v c.val k.part (needBlocks needs)).modCore c.val fun (q : Core) => { q with tmWait := false }) ∧ (rows = (moveDst k.task).zip (List.map (fun (a : ℕ × ℕ) => moveRow w k.part k.task a.1 a.2) (moveSrc k.task))) ∧ nbit (pbf k.task 0 1) 2 = true :=
   ⟨(res0 (sMv 4)), (1 : CoreId), (7 : CtxId), ((res0 (sMv 4)).ctx 1 7), (moverTake (res0 (sMv 4)) (1 : CoreId).val (7 : CtxId).val), ((awaitBytes (moverTake (res0 (sMv 4)) (1 : CoreId).val (7 : CtxId).val) (1 : CoreId).val (7 : CtxId).val false ((moverTake (res0 (sMv 4)) (1 : CoreId).val (7 : CtxId).val).core (1 : CoreId).val).tmAsked (blockNeeds (if ((res0 (sMv 4)).ctx 1 7).task.kind = .decompress then [(0, pbf ((res0 (sMv 4)).ctx 1 7).task 8 6, pbf ((res0 (sMv 4)).ctx 1 7).task 24 4)] else (moveSrc ((res0 (sMv 4)).ctx 1 7).task).map (fun a => (0, a.1, a.2))))).2.2), ((touchBlocks ((awaitBytes (moverTake (res0 (sMv 4)) (1 : CoreId).val (7 : CtxId).val) (1 : CoreId).val (7 : CtxId).val false ((moverTake (res0 (sMv 4)) (1 : CoreId).val (7 : CtxId).val).core (1 : CoreId).val).tmAsked (blockNeeds (if ((res0 (sMv 4)).ctx 1 7).task.kind = .decompress then [(0, pbf ((res0 (sMv 4)).ctx 1 7).task 8 6, pbf ((res0 (sMv 4)).ctx 1 7).task 24 4)] else (moveSrc ((res0 (sMv 4)).ctx 1 7).task).map (fun a => (0, a.1, a.2))))).2.2) (1 : CoreId).val ((res0 (sMv 4)).ctx 1 7).part (needBlocks (blockNeeds (if ((res0 (sMv 4)).ctx 1 7).task.kind = .decompress then [(0, pbf ((res0 (sMv 4)).ctx 1 7).task 8 6, pbf ((res0 (sMv 4)).ctx 1 7).task 24 4)] else (moveSrc ((res0 (sMv 4)).ctx 1 7).task).map (fun a => (0, a.1, a.2)))))).modCore (1 : CoreId).val (fun q => { q with tmWait := false })), false, ((moveDst ((res0 (sMv 4)).ctx 1 7).task).zip ((moveSrc ((res0 (sMv 4)).ctx 1 7).task).map (fun a => moveRow ((touchBlocks ((awaitBytes (moverTake (res0 (sMv 4)) (1 : CoreId).val (7 : CtxId).val) (1 : CoreId).val (7 : CtxId).val false ((moverTake (res0 (sMv 4)) (1 : CoreId).val (7 : CtxId).val).core (1 : CoreId).val).tmAsked (blockNeeds (if ((res0 (sMv 4)).ctx 1 7).task.kind = .decompress then [(0, pbf ((res0 (sMv 4)).ctx 1 7).task 8 6, pbf ((res0 (sMv 4)).ctx 1 7).task 24 4)] else (moveSrc ((res0 (sMv 4)).ctx 1 7).task).map (fun a => (0, a.1, a.2))))).2.2) (1 : CoreId).val ((res0 (sMv 4)).ctx 1 7).part (needBlocks (blockNeeds (if ((res0 (sMv 4)).ctx 1 7).task.kind = .decompress then [(0, pbf ((res0 (sMv 4)).ctx 1 7).task 8 6, pbf ((res0 (sMv 4)).ctx 1 7).task 24 4)] else (moveSrc ((res0 (sMv 4)).ctx 1 7).task).map (fun a => (0, a.1, a.2)))))).modCore (1 : CoreId).val (fun q => { q with tmWait := false })) ((res0 (sMv 4)).ctx 1 7).part ((res0 (sMv 4)).ctx 1 7).task a.1 a.2))), (blockNeeds ((moveSrc ((res0 (sMv 4)).ctx 1 7).task).map (fun a => (0, a.1, a.2)))), by decide +kernel⟩

theorem witness_SequencerAndMoverTasks_8 :
    ∃ (s : State) (c : CoreId) (x : CtxId) (k : Ctx) (u : State) (v : State) (w : State) (asked : Bool) (needs : List (ℕ × ℕ × BitVec (OfNat.ofNat 16))) (d : List Byte), c.val < s.ncores ∧ s.pwr.trip = false ∧ k = s.ctx c.val x.val ∧ (moverHead s c.val Kind.decompress = some x.val ∧ u = moverTake s c.val x.val ∨ moverWaits s c.val Kind.decompress = some x.val ∧ u = s) ∧ needs = blockNeeds [(0, pbf k.task 8 6, pbf k.task 24 4)] ∧ anyBlock u k.part (pbf k.task 8 6) (pbf k.task 24 4) BlockState.unmapped = false ∧ anyBlock u k.part (pbf k.task 8 6) (pbf k.task 24 4) BlockState.poisoned = false ∧ touchesSealed u k.part (pbf k.task 8 6) (pbf k.task 24 4) = false ∧ awaitBytes u c.val x.val false (u.core c.val).tmAsked needs = (true, asked, v) ∧ (w = (touchBlocks v c.val k.part (needBlocks needs)).modCore c.val fun (q : Core) => { q with tmWait := false }) ∧ eraelyObject (devRead w k.part (pbf k.task 8 6) (pbf k.task 24 4)) = Except.ok d ∧ d.length = pbf k.task 28 4 ∧ (taskWrite w c.val k.part 0 (pbf k.task 16 6) d).1 = WriteRes.ok :=
   ⟨sDc, (1 : CoreId), (7 : CtxId), (sDc.ctx 1 7), (moverTake sDc (1 : CoreId).val (7 : CtxId).val), ((awaitBytes (moverTake sDc (1 : CoreId).val (7 : CtxId).val) (1 : CoreId).val (7 : CtxId).val false ((moverTake sDc (1 : CoreId).val (7 : CtxId).val).core (1 : CoreId).val).tmAsked (blockNeeds (if (sDc.ctx 1 7).task.kind = .decompress then [(0, pbf (sDc.ctx 1 7).task 8 6, pbf (sDc.ctx 1 7).task 24 4)] else (moveSrc (sDc.ctx 1 7).task).map (fun a => (0, a.1, a.2))))).2.2), ((touchBlocks ((awaitBytes (moverTake sDc (1 : CoreId).val (7 : CtxId).val) (1 : CoreId).val (7 : CtxId).val false ((moverTake sDc (1 : CoreId).val (7 : CtxId).val).core (1 : CoreId).val).tmAsked (blockNeeds (if (sDc.ctx 1 7).task.kind = .decompress then [(0, pbf (sDc.ctx 1 7).task 8 6, pbf (sDc.ctx 1 7).task 24 4)] else (moveSrc (sDc.ctx 1 7).task).map (fun a => (0, a.1, a.2))))).2.2) (1 : CoreId).val (sDc.ctx 1 7).part (needBlocks (blockNeeds (if (sDc.ctx 1 7).task.kind = .decompress then [(0, pbf (sDc.ctx 1 7).task 8 6, pbf (sDc.ctx 1 7).task 24 4)] else (moveSrc (sDc.ctx 1 7).task).map (fun a => (0, a.1, a.2)))))).modCore (1 : CoreId).val (fun q => { q with tmWait := false })), false, (blockNeeds [(0, pbf (sDc.ctx 1 7).task 8 6, pbf (sDc.ctx 1 7).task 24 4)]), ([1,2,3] : List Byte), by decide +kernel⟩

theorem witness_SequencerAndMoverTasks_9 :
    ∃ (s : State) (c : CoreId) (x : CtxId) (k : Ctx) (u : State) (v : State) (w : State) (asked : Bool) (needs : List (ℕ × ℕ × BitVec (OfNat.ofNat 16))) (d : List Byte), c.val < s.ncores ∧ s.pwr.trip = false ∧ k = s.ctx c.val x.val ∧ (moverHead s c.val Kind.decompress = some x.val ∧ u = moverTake s c.val x.val ∨ moverWaits s c.val Kind.decompress = some x.val ∧ u = s) ∧ needs = blockNeeds [(0, pbf k.task 8 6, pbf k.task 24 4)] ∧ anyBlock u k.part (pbf k.task 8 6) (pbf k.task 24 4) BlockState.unmapped = false ∧ anyBlock u k.part (pbf k.task 8 6) (pbf k.task 24 4) BlockState.poisoned = false ∧ touchesSealed u k.part (pbf k.task 8 6) (pbf k.task 24 4) = false ∧ awaitBytes u c.val x.val false (u.core c.val).tmAsked needs = (true, asked, v) ∧ (w = (touchBlocks v c.val k.part (needBlocks needs)).modCore c.val fun (q : Core) => { q with tmWait := false }) ∧ eraelyObject (devRead w k.part (pbf k.task 8 6) (pbf k.task 24 4)) = Except.ok d ∧ d.length ≠ pbf k.task 28 4 :=
   ⟨(res0 sDc4), (1 : CoreId), (7 : CtxId), ((res0 sDc4).ctx 1 7), (moverTake (res0 sDc4) (1 : CoreId).val (7 : CtxId).val), ((awaitBytes (moverTake (res0 sDc4) (1 : CoreId).val (7 : CtxId).val) (1 : CoreId).val (7 : CtxId).val false ((moverTake (res0 sDc4) (1 : CoreId).val (7 : CtxId).val).core (1 : CoreId).val).tmAsked (blockNeeds (if ((res0 sDc4).ctx 1 7).task.kind = .decompress then [(0, pbf ((res0 sDc4).ctx 1 7).task 8 6, pbf ((res0 sDc4).ctx 1 7).task 24 4)] else (moveSrc ((res0 sDc4).ctx 1 7).task).map (fun a => (0, a.1, a.2))))).2.2), ((touchBlocks ((awaitBytes (moverTake (res0 sDc4) (1 : CoreId).val (7 : CtxId).val) (1 : CoreId).val (7 : CtxId).val false ((moverTake (res0 sDc4) (1 : CoreId).val (7 : CtxId).val).core (1 : CoreId).val).tmAsked (blockNeeds (if ((res0 sDc4).ctx 1 7).task.kind = .decompress then [(0, pbf ((res0 sDc4).ctx 1 7).task 8 6, pbf ((res0 sDc4).ctx 1 7).task 24 4)] else (moveSrc ((res0 sDc4).ctx 1 7).task).map (fun a => (0, a.1, a.2))))).2.2) (1 : CoreId).val ((res0 sDc4).ctx 1 7).part (needBlocks (blockNeeds (if ((res0 sDc4).ctx 1 7).task.kind = .decompress then [(0, pbf ((res0 sDc4).ctx 1 7).task 8 6, pbf ((res0 sDc4).ctx 1 7).task 24 4)] else (moveSrc ((res0 sDc4).ctx 1 7).task).map (fun a => (0, a.1, a.2)))))).modCore (1 : CoreId).val (fun q => { q with tmWait := false })), false, (blockNeeds [(0, pbf ((res0 sDc4).ctx 1 7).task 8 6, pbf ((res0 sDc4).ctx 1 7).task 24 4)]), ([1,2,3] : List Byte), by decide +kernel⟩

theorem witness_SequencerAndMoverTasks_10 :
    ∃ (s : State) (c : CoreId) (x : CtxId) (k : Ctx) (u : State) (v : State) (w : State) (asked : Bool) (needs : List (ℕ × ℕ × BitVec (OfNat.ofNat 16))) (n : ℕ), c.val < s.ncores ∧ s.pwr.trip = false ∧ k = s.ctx c.val x.val ∧ (moverHead s c.val Kind.decompress = some x.val ∧ u = moverTake s c.val x.val ∨ moverWaits s c.val Kind.decompress = some x.val ∧ u = s) ∧ needs = blockNeeds [(0, pbf k.task 8 6, pbf k.task 24 4)] ∧ anyBlock u k.part (pbf k.task 8 6) (pbf k.task 24 4) BlockState.unmapped = false ∧ anyBlock u k.part (pbf k.task 8 6) (pbf k.task 24 4) BlockState.poisoned = false ∧ touchesSealed u k.part (pbf k.task 8 6) (pbf k.task 24 4) = false ∧ awaitBytes u c.val x.val false (u.core c.val).tmAsked needs = (true, asked, v) ∧ (w = (touchBlocks v c.val k.part (needBlocks needs)).modCore c.val fun (q : Core) => { q with tmWait := false }) ∧ eraelyObject (devRead w k.part (pbf k.task 8 6) (pbf k.task 24 4)) = Except.error n :=
   ⟨(res0 sDcB), (1 : CoreId), (7 : CtxId), ((res0 sDcB).ctx 1 7), (moverTake (res0 sDcB) (1 : CoreId).val (7 : CtxId).val), ((awaitBytes (moverTake (res0 sDcB) (1 : CoreId).val (7 : CtxId).val) (1 : CoreId).val (7 : CtxId).val false ((moverTake (res0 sDcB) (1 : CoreId).val (7 : CtxId).val).core (1 : CoreId).val).tmAsked (blockNeeds (if ((res0 sDcB).ctx 1 7).task.kind = .decompress then [(0, pbf ((res0 sDcB).ctx 1 7).task 8 6, pbf ((res0 sDcB).ctx 1 7).task 24 4)] else (moveSrc ((res0 sDcB).ctx 1 7).task).map (fun a => (0, a.1, a.2))))).2.2), ((touchBlocks ((awaitBytes (moverTake (res0 sDcB) (1 : CoreId).val (7 : CtxId).val) (1 : CoreId).val (7 : CtxId).val false ((moverTake (res0 sDcB) (1 : CoreId).val (7 : CtxId).val).core (1 : CoreId).val).tmAsked (blockNeeds (if ((res0 sDcB).ctx 1 7).task.kind = .decompress then [(0, pbf ((res0 sDcB).ctx 1 7).task 8 6, pbf ((res0 sDcB).ctx 1 7).task 24 4)] else (moveSrc ((res0 sDcB).ctx 1 7).task).map (fun a => (0, a.1, a.2))))).2.2) (1 : CoreId).val ((res0 sDcB).ctx 1 7).part (needBlocks (blockNeeds (if ((res0 sDcB).ctx 1 7).task.kind = .decompress then [(0, pbf ((res0 sDcB).ctx 1 7).task 8 6, pbf ((res0 sDcB).ctx 1 7).task 24 4)] else (moveSrc ((res0 sDcB).ctx 1 7).task).map (fun a => (0, a.1, a.2)))))).modCore (1 : CoreId).val (fun q => { q with tmWait := false })), false, (blockNeeds [(0, pbf ((res0 sDcB).ctx 1 7).task 8 6, pbf ((res0 sDcB).ctx 1 7).task 24 4)]), (0 : ℕ), by decide +kernel⟩

theorem witness_TaskEndsAndCoreResets_TaskEnds :
    (∃ (s : State) (c : ℕ) (x : ℕ) (k : Ctx) (g : Machine.Graph) (r : Run) (d : ℕ), k = s.ctx c x ∧ s.graph (BitVec.toNat k.graph) = some g ∧ g.run = some r ∧ g.leaving = false ∧ k.state = CtxState.running ∧ deadlineOf s k = some d ∧ d < extTime s ∧ k.outcome ≠ TaskOutcome.skipped) ∧
    (∃ (s : State) (c : ℕ) (x : ℕ) (k : Ctx) (g : Machine.Graph) (r : Run) (st : W16) (q : Run), k = s.ctx c x ∧ s.graph (BitVec.toNat k.graph) = some g ∧ g.run = some r ∧ g.leaving = false ∧ k.state = CtxState.running ∧ runOf (failTask s c x st) (BitVec.toNat k.graph) = some q) ∧
    (∃ (s : State) (c : ℕ) (x : ℕ) (k : Ctx) (g : Machine.Graph) (r : Run), k = s.ctx c x ∧ s.graph (BitVec.toNat k.graph) = some g ∧ g.run = some r ∧ g.leaving = false ∧ k.state = CtxState.running ∧ (Option.all (fun (d : ℕ) => decide (extTime s ≤ d)) (deadlineOf s k) = true) ∧ k.outcome = TaskOutcome.none) ∧
    (∃ (s : State) (c : ℕ) (x : ℕ) (k : Ctx) (g : Machine.Graph) (r : Run), k = s.ctx c x ∧ s.graph (BitVec.toNat k.graph) = some g ∧ g.run = some r ∧ g.leaving = false ∧ k.state = CtxState.running ∧ k.outcome = TaskOutcome.skipped) :=
   ⟨⟨(dl 0), (1 : ℕ), (7 : ℕ), ((dl 0).ctx 1 7), (((dl 0).graphs.headD (0,{})).2), (((dl 0).graphs.headD (0,{})).2.run.getD {}), ((deadlineOf (dl 0) ((dl 0).ctx 1 7)).getD 0), by decide +kernel⟩,
    ⟨(dl 0), (1 : ℕ), (7 : ℕ), ((dl 0).ctx 1 7), (((dl 0).graphs.headD (0,{})).2), (((dl 0).graphs.headD (0,{})).2.run.getD {}), (0x0203 : W16), ((runOf (failTask (dl 0) (1 : ℕ) (7 : ℕ) (0x0203 : W16)) ((dl 0).ctx 1 7).graph.toNat).getD {}), by decide +kernel⟩,
    ⟨(dl 0x7FFFFFFF), (1 : ℕ), (7 : ℕ), ((dl 0x7FFFFFFF).ctx 1 7), (((dl 0x7FFFFFFF).graphs.headD (0,{})).2), (((dl 0x7FFFFFFF).graphs.headD (0,{})).2.run.getD {}), by decide +kernel⟩,
    ⟨((dl 0).modCtx 1 7 (fun z => { z with outcome := .skipped })), (1 : ℕ), (7 : ℕ), (((dl 0).modCtx 1 7 (fun z => { z with outcome := .skipped })).ctx 1 7), ((((dl 0).modCtx 1 7 (fun z => { z with outcome := .skipped })).graphs.headD (0,{})).2), ((((dl 0).modCtx 1 7 (fun z => { z with outcome := .skipped })).graphs.headD (0,{})).2.run.getD {}), by decide +kernel⟩⟩

theorem witness_TilesStartCompleteAndRepeat_1 :
    ∃ (s : State) (c : CoreId) (e : EngId) (r : Running) (k : Ctx) (m : Mem) (rngs : List (ℕ × ℕ × ℕ)) (asked : Bool) (u : State) (objs : List (ℕ × List Byte)) (ws : List WTile), c.val < s.ncores ∧ s.pwr.trip = false ∧ (s.engine c.val e.val).run = some r ∧ k = s.ctx c.val r.ctx ∧ r.ready = false ∧ m = tableT0 s k.part k.task r.tile (s.engine c.val e.val).t0 ∧ rngs = operandRanges s k.part k.task r.tile m ∧ ((rngs.any fun (a : ℕ × ℕ × ℕ) => anyBlock s k.part a.2.1 a.2.2 BlockState.unmapped) = false) ∧ ((rngs.any fun (a : ℕ × ℕ × ℕ) => anyBlock s k.part a.2.1 a.2.2 BlockState.poisoned) = false) ∧ (((runRanges k.task (operandRuns s k.part k.task r.tile m)).any fun (a : ℕ × ℕ × ℕ) => touchesSealed s k.part a.2.1 a.2.2) = false) ∧ keyLost s k.part k.task = false ∧ awaitBytes s c.val r.ctx (tensorMode s k.part) r.asked (blockNeeds rngs) = (true, asked, u) ∧ operandWeights u k.part k.task r = Except.ok (objs, ws) :=
   ⟨(sOp [] (rn false 0)), (1 : CoreId), (2 : EngId), (((sOp [] (rn false 0)).engine 1 2).run.getD (rn false 0) : Running), ((sOp [] (rn false 0)).ctx 1 7), (tableT0 (sOp [] (rn false 0)) ((sOp [] (rn false 0)).ctx 1 7).part ((sOp [] (rn false 0)).ctx 1 7).task (((sOp [] (rn false 0)).engine 1 2).run.getD (rn false 0) : Running).tile ((sOp [] (rn false 0)).engine 1 2).t0), (operandRanges (sOp [] (rn false 0)) ((sOp [] (rn false 0)).ctx 1 7).part ((sOp [] (rn false 0)).ctx 1 7).task (((sOp [] (rn false 0)).engine 1 2).run.getD (rn false 0) : Running).tile (tableT0 (sOp [] (rn false 0)) ((sOp [] (rn false 0)).ctx 1 7).part ((sOp [] (rn false 0)).ctx 1 7).task (((sOp [] (rn false 0)).engine 1 2).run.getD (rn false 0) : Running).tile ((sOp [] (rn false 0)).engine 1 2).t0)), false, ((awaitBytes (sOp [] (rn false 0)) 1 (((sOp [] (rn false 0)).engine 1 2).run.getD (rn false 0) : Running).ctx (tensorMode (sOp [] (rn false 0)) ((sOp [] (rn false 0)).ctx 1 7).part) (((sOp [] (rn false 0)).engine 1 2).run.getD (rn false 0) : Running).asked (blockNeeds (operandRanges (sOp [] (rn false 0)) ((sOp [] (rn false 0)).ctx 1 7).part ((sOp [] (rn false 0)).ctx 1 7).task (((sOp [] (rn false 0)).engine 1 2).run.getD (rn false 0) : Running).tile (tableT0 (sOp [] (rn false 0)) ((sOp [] (rn false 0)).ctx 1 7).part ((sOp [] (rn false 0)).ctx 1 7).task (((sOp [] (rn false 0)).engine 1 2).run.getD (rn false 0) : Running).tile ((sOp [] (rn false 0)).engine 1 2).t0)))).2.2), ((match operandWeights ((awaitBytes (sOp [] (rn false 0)) 1 (((sOp [] (rn false 0)).engine 1 2).run.getD (rn false 0) : Running).ctx (tensorMode (sOp [] (rn false 0)) ((sOp [] (rn false 0)).ctx 1 7).part) (((sOp [] (rn false 0)).engine 1 2).run.getD (rn false 0) : Running).asked (blockNeeds (operandRanges (sOp [] (rn false 0)) ((sOp [] (rn false 0)).ctx 1 7).part ((sOp [] (rn false 0)).ctx 1 7).task (((sOp [] (rn false 0)).engine 1 2).run.getD (rn false 0) : Running).tile (tableT0 (sOp [] (rn false 0)) ((sOp [] (rn false 0)).ctx 1 7).part ((sOp [] (rn false 0)).ctx 1 7).task (((sOp [] (rn false 0)).engine 1 2).run.getD (rn false 0) : Running).tile ((sOp [] (rn false 0)).engine 1 2).t0)))).2.2) ((sOp [] (rn false 0)).ctx 1 7).part ((sOp [] (rn false 0)).ctx 1 7).task (((sOp [] (rn false 0)).engine 1 2).run.getD (rn false 0) : Running) with | .ok x => x.1 | _ => [])), ((match operandWeights ((awaitBytes (sOp [] (rn false 0)) 1 (((sOp [] (rn false 0)).engine 1 2).run.getD (rn false 0) : Running).ctx (tensorMode (sOp [] (rn false 0)) ((sOp [] (rn false 0)).ctx 1 7).part) (((sOp [] (rn false 0)).engine 1 2).run.getD (rn false 0) : Running).asked (blockNeeds (operandRanges (sOp [] (rn false 0)) ((sOp [] (rn false 0)).ctx 1 7).part ((sOp [] (rn false 0)).ctx 1 7).task (((sOp [] (rn false 0)).engine 1 2).run.getD (rn false 0) : Running).tile (tableT0 (sOp [] (rn false 0)) ((sOp [] (rn false 0)).ctx 1 7).part ((sOp [] (rn false 0)).ctx 1 7).task (((sOp [] (rn false 0)).engine 1 2).run.getD (rn false 0) : Running).tile ((sOp [] (rn false 0)).engine 1 2).t0)))).2.2) ((sOp [] (rn false 0)).ctx 1 7).part ((sOp [] (rn false 0)).ctx 1 7).task (((sOp [] (rn false 0)).engine 1 2).run.getD (rn false 0) : Running) with | .ok x => x.2 | _ => [])), by decide +kernel⟩

theorem witness_TilesStartCompleteAndRepeat_2 :
    ∃ (s : State) (c : CoreId) (e : EngId) (r : Running) (k : Ctx) (m : Mem) (rngs : List (ℕ × ℕ × ℕ)) (asked : Bool) (u : State), c.val < s.ncores ∧ s.pwr.trip = false ∧ (s.engine c.val e.val).run = some r ∧ k = s.ctx c.val r.ctx ∧ r.ready = false ∧ m = tableT0 s k.part k.task r.tile (s.engine c.val e.val).t0 ∧ rngs = operandRanges s k.part k.task r.tile m ∧ ((rngs.any fun (a : ℕ × ℕ × ℕ) => anyBlock s k.part a.2.1 a.2.2 BlockState.unmapped) = false) ∧ ((rngs.any fun (a : ℕ × ℕ × ℕ) => anyBlock s k.part a.2.1 a.2.2 BlockState.poisoned) = false) ∧ (((runRanges k.task (operandRuns s k.part k.task r.tile m)).any fun (a : ℕ × ℕ × ℕ) => touchesSealed s k.part a.2.1 a.2.2) = false) ∧ keyLost s k.part k.task = false ∧ awaitBytes s c.val r.ctx (tensorMode s k.part) r.asked (blockNeeds rngs) = (false, asked, u) :=
   ⟨(sOp [opd 0x100] (rn false 0)), (1 : CoreId), (2 : EngId), (((sOp [opd 0x100] (rn false 0)).engine 1 2).run.getD (rn false 0) : Running), ((sOp [opd 0x100] (rn false 0)).ctx 1 7), (tableT0 (sOp [opd 0x100] (rn false 0)) ((sOp [opd 0x100] (rn false 0)).ctx 1 7).part ((sOp [opd 0x100] (rn false 0)).ctx 1 7).task (((sOp [opd 0x100] (rn false 0)).engine 1 2).run.getD (rn false 0) : Running).tile ((sOp [opd 0x100] (rn false 0)).engine 1 2).t0), (operandRanges (sOp [opd 0x100] (rn false 0)) ((sOp [opd 0x100] (rn false 0)).ctx 1 7).part ((sOp [opd 0x100] (rn false 0)).ctx 1 7).task (((sOp [opd 0x100] (rn false 0)).engine 1 2).run.getD (rn false 0) : Running).tile (tableT0 (sOp [opd 0x100] (rn false 0)) ((sOp [opd 0x100] (rn false 0)).ctx 1 7).part ((sOp [opd 0x100] (rn false 0)).ctx 1 7).task (((sOp [opd 0x100] (rn false 0)).engine 1 2).run.getD (rn false 0) : Running).tile ((sOp [opd 0x100] (rn false 0)).engine 1 2).t0)), false, ((awaitBytes (sOp [opd 0x100] (rn false 0)) 1 (((sOp [opd 0x100] (rn false 0)).engine 1 2).run.getD (rn false 0) : Running).ctx (tensorMode (sOp [opd 0x100] (rn false 0)) ((sOp [opd 0x100] (rn false 0)).ctx 1 7).part) (((sOp [opd 0x100] (rn false 0)).engine 1 2).run.getD (rn false 0) : Running).asked (blockNeeds (operandRanges (sOp [opd 0x100] (rn false 0)) ((sOp [opd 0x100] (rn false 0)).ctx 1 7).part ((sOp [opd 0x100] (rn false 0)).ctx 1 7).task (((sOp [opd 0x100] (rn false 0)).engine 1 2).run.getD (rn false 0) : Running).tile (tableT0 (sOp [opd 0x100] (rn false 0)) ((sOp [opd 0x100] (rn false 0)).ctx 1 7).part ((sOp [opd 0x100] (rn false 0)).ctx 1 7).task (((sOp [opd 0x100] (rn false 0)).engine 1 2).run.getD (rn false 0) : Running).tile ((sOp [opd 0x100] (rn false 0)).engine 1 2).t0)))).2.2), by decide +kernel⟩

theorem witness_TilesStartCompleteAndRepeat_3 :
    ∃ (s : State) (c : CoreId) (e : EngId) (r : Running) (k : Ctx) (m : Mem) (rngs : List (ℕ × ℕ × ℕ)) (asked : Bool) (u : State) (n : ℕ), c.val < s.ncores ∧ s.pwr.trip = false ∧ (s.engine c.val e.val).run = some r ∧ k = s.ctx c.val r.ctx ∧ r.ready = false ∧ m = tableT0 s k.part k.task r.tile (s.engine c.val e.val).t0 ∧ rngs = operandRanges s k.part k.task r.tile m ∧ ((rngs.any fun (a : ℕ × ℕ × ℕ) => anyBlock s k.part a.2.1 a.2.2 BlockState.unmapped) = false) ∧ ((rngs.any fun (a : ℕ × ℕ × ℕ) => anyBlock s k.part a.2.1 a.2.2 BlockState.poisoned) = false) ∧ (((runRanges k.task (operandRuns s k.part k.task r.tile m)).any fun (a : ℕ × ℕ × ℕ) => touchesSealed s k.part a.2.1 a.2.2) = false) ∧ keyLost s k.part k.task = false ∧ awaitBytes s c.val r.ctx (tensorMode s k.part) r.asked (blockNeeds rngs) = (true, asked, u) ∧ operandWeights u k.part k.task r = Except.error n :=
   ⟨(res0 sEraN), (1 : CoreId), (2 : EngId), (((res0 sEraN).engine 1 2).run.getD (rn false 0) : Running), ((res0 sEraN).ctx 1 7), (tableT0 (res0 sEraN) ((res0 sEraN).ctx 1 7).part ((res0 sEraN).ctx 1 7).task (((res0 sEraN).engine 1 2).run.getD (rn false 0) : Running).tile ((res0 sEraN).engine 1 2).t0), (operandRanges (res0 sEraN) ((res0 sEraN).ctx 1 7).part ((res0 sEraN).ctx 1 7).task (((res0 sEraN).engine 1 2).run.getD (rn false 0) : Running).tile (tableT0 (res0 sEraN) ((res0 sEraN).ctx 1 7).part ((res0 sEraN).ctx 1 7).task (((res0 sEraN).engine 1 2).run.getD (rn false 0) : Running).tile ((res0 sEraN).engine 1 2).t0)), false, ((awaitBytes (res0 sEraN) 1 (((res0 sEraN).engine 1 2).run.getD (rn false 0) : Running).ctx (tensorMode (res0 sEraN) ((res0 sEraN).ctx 1 7).part) (((res0 sEraN).engine 1 2).run.getD (rn false 0) : Running).asked (blockNeeds (operandRanges (res0 sEraN) ((res0 sEraN).ctx 1 7).part ((res0 sEraN).ctx 1 7).task (((res0 sEraN).engine 1 2).run.getD (rn false 0) : Running).tile (tableT0 (res0 sEraN) ((res0 sEraN).ctx 1 7).part ((res0 sEraN).ctx 1 7).task (((res0 sEraN).engine 1 2).run.getD (rn false 0) : Running).tile ((res0 sEraN).engine 1 2).t0)))).2.2), (0 : ℕ), by decide +kernel⟩

theorem witness_TilesStartCompleteAndRepeat_4 :
    ∃ (s : State) (c : CoreId) (e : EngId) (r : Running) (k : Ctx) (m : Mem) (rngs : List (ℕ × ℕ × ℕ)), c.val < s.ncores ∧ s.pwr.trip = false ∧ (s.engine c.val e.val).run = some r ∧ k = s.ctx c.val r.ctx ∧ r.ready = false ∧ m = tableT0 s k.part k.task r.tile (s.engine c.val e.val).t0 ∧ rngs = operandRanges s k.part k.task r.tile m ∧ ((rngs.any fun (a : ℕ × ℕ × ℕ) => anyBlock s k.part a.2.1 a.2.2 BlockState.unmapped) = true) :=
   ⟨(sOp [opd 0x7000000] (rn false 0)), (1 : CoreId), (2 : EngId), (((sOp [opd 0x7000000] (rn false 0)).engine 1 2).run.getD (rn false 0) : Running), ((sOp [opd 0x7000000] (rn false 0)).ctx 1 7), (tableT0 (sOp [opd 0x7000000] (rn false 0)) ((sOp [opd 0x7000000] (rn false 0)).ctx 1 7).part ((sOp [opd 0x7000000] (rn false 0)).ctx 1 7).task (((sOp [opd 0x7000000] (rn false 0)).engine 1 2).run.getD (rn false 0) : Running).tile ((sOp [opd 0x7000000] (rn false 0)).engine 1 2).t0), (operandRanges (sOp [opd 0x7000000] (rn false 0)) ((sOp [opd 0x7000000] (rn false 0)).ctx 1 7).part ((sOp [opd 0x7000000] (rn false 0)).ctx 1 7).task (((sOp [opd 0x7000000] (rn false 0)).engine 1 2).run.getD (rn false 0) : Running).tile (tableT0 (sOp [opd 0x7000000] (rn false 0)) ((sOp [opd 0x7000000] (rn false 0)).ctx 1 7).part ((sOp [opd 0x7000000] (rn false 0)).ctx 1 7).task (((sOp [opd 0x7000000] (rn false 0)).engine 1 2).run.getD (rn false 0) : Running).tile ((sOp [opd 0x7000000] (rn false 0)).engine 1 2).t0)), by decide +kernel⟩

theorem witness_TilesStartCompleteAndRepeat_5 :
    ∃ (s : State) (c : CoreId) (e : EngId) (r : Running) (k : Ctx) (m : Mem) (rngs : List (ℕ × ℕ × ℕ)), c.val < s.ncores ∧ s.pwr.trip = false ∧ (s.engine c.val e.val).run = some r ∧ k = s.ctx c.val r.ctx ∧ r.ready = false ∧ m = tableT0 s k.part k.task r.tile (s.engine c.val e.val).t0 ∧ rngs = operandRanges s k.part k.task r.tile m ∧ ((rngs.any fun (a : ℕ × ℕ × ℕ) => anyBlock s k.part a.2.1 a.2.2 BlockState.unmapped) = false) ∧ ((rngs.any fun (a : ℕ × ℕ × ℕ) => anyBlock s k.part a.2.1 a.2.2 BlockState.poisoned) = true) :=
   ⟨(poison (sOp [opd 0x100] (rn false 0))), (1 : CoreId), (2 : EngId), (((poison (sOp [opd 0x100] (rn false 0))).engine 1 2).run.getD (rn false 0) : Running), ((poison (sOp [opd 0x100] (rn false 0))).ctx 1 7), (tableT0 (poison (sOp [opd 0x100] (rn false 0))) ((poison (sOp [opd 0x100] (rn false 0))).ctx 1 7).part ((poison (sOp [opd 0x100] (rn false 0))).ctx 1 7).task (((poison (sOp [opd 0x100] (rn false 0))).engine 1 2).run.getD (rn false 0) : Running).tile ((poison (sOp [opd 0x100] (rn false 0))).engine 1 2).t0), (operandRanges (poison (sOp [opd 0x100] (rn false 0))) ((poison (sOp [opd 0x100] (rn false 0))).ctx 1 7).part ((poison (sOp [opd 0x100] (rn false 0))).ctx 1 7).task (((poison (sOp [opd 0x100] (rn false 0))).engine 1 2).run.getD (rn false 0) : Running).tile (tableT0 (poison (sOp [opd 0x100] (rn false 0))) ((poison (sOp [opd 0x100] (rn false 0))).ctx 1 7).part ((poison (sOp [opd 0x100] (rn false 0))).ctx 1 7).task (((poison (sOp [opd 0x100] (rn false 0))).engine 1 2).run.getD (rn false 0) : Running).tile ((poison (sOp [opd 0x100] (rn false 0))).engine 1 2).t0)), by decide +kernel⟩

theorem witness_TilesStartCompleteAndRepeat_6 :
    (∃ (s : State) (c : CoreId) (e : EngId) (r : Running) (k : Ctx) (m : Mem) (rngs : List (ℕ × ℕ × ℕ)), c.val < s.ncores ∧ s.pwr.trip = false ∧ (s.engine c.val e.val).run = some r ∧ k = s.ctx c.val r.ctx ∧ r.ready = false ∧ m = tableT0 s k.part k.task r.tile (s.engine c.val e.val).t0 ∧ rngs = operandRanges s k.part k.task r.tile m ∧ ((rngs.any fun (a : ℕ × ℕ × ℕ) => anyBlock s k.part a.2.1 a.2.2 BlockState.unmapped) = false) ∧ ((rngs.any fun (a : ℕ × ℕ × ℕ) => anyBlock s k.part a.2.1 a.2.2 BlockState.poisoned) = false) ∧ (((runRanges k.task (operandRuns s k.part k.task r.tile m)).any fun (a : ℕ × ℕ × ℕ) => touchesSealed s k.part a.2.1 a.2.2) = true)) ∧
    (∃ (s : State) (c : CoreId) (e : EngId) (r : Running) (k : Ctx), c.val < s.ncores ∧ s.pwr.trip = false ∧ (s.engine c.val e.val).run = some r ∧ k = s.ctx c.val r.ctx ∧ r.ready = true ∧ (s.engine c.val e.val).held = none ∧ ((TileFault.residue, 0).1 = TileFault.residue → residueCovers k.task = true)) :=
   ⟨⟨(sld (sOp [opd 0x100] (rn false 0)) true), (1 : CoreId), (2 : EngId), (((sld (sOp [opd 0x100] (rn false 0)) true).engine 1 2).run.getD (rn false 0) : Running), ((sld (sOp [opd 0x100] (rn false 0)) true).ctx 1 7), (tableT0 (sld (sOp [opd 0x100] (rn false 0)) true) ((sld (sOp [opd 0x100] (rn false 0)) true).ctx 1 7).part ((sld (sOp [opd 0x100] (rn false 0)) true).ctx 1 7).task (((sld (sOp [opd 0x100] (rn false 0)) true).engine 1 2).run.getD (rn false 0) : Running).tile ((sld (sOp [opd 0x100] (rn false 0)) true).engine 1 2).t0), (operandRanges (sld (sOp [opd 0x100] (rn false 0)) true) ((sld (sOp [opd 0x100] (rn false 0)) true).ctx 1 7).part ((sld (sOp [opd 0x100] (rn false 0)) true).ctx 1 7).task (((sld (sOp [opd 0x100] (rn false 0)) true).engine 1 2).run.getD (rn false 0) : Running).tile (tableT0 (sld (sOp [opd 0x100] (rn false 0)) true) ((sld (sOp [opd 0x100] (rn false 0)) true).ctx 1 7).part ((sld (sOp [opd 0x100] (rn false 0)) true).ctx 1 7).task (((sld (sOp [opd 0x100] (rn false 0)) true).engine 1 2).run.getD (rn false 0) : Running).tile ((sld (sOp [opd 0x100] (rn false 0)) true).engine 1 2).t0)), by decide +kernel⟩,
    ⟨(sOut 0x100), (1 : CoreId), (2 : EngId), (((sOut 0x100).engine 1 2).run.getD (rn false 0) : Running), ((sOut 0x100).ctx 1 7), by decide +kernel⟩⟩

theorem witness_TilesStartCompleteAndRepeat_7 :
    (∃ (s : State) (c : CoreId) (e : EngId) (r : Running) (k : Ctx), c.val < s.ncores ∧ s.pwr.trip = false ∧ (s.engine c.val e.val).run = some r ∧ k = s.ctx c.val r.ctx ∧ r.ready = true ∧ (s.engine c.val e.val).held = none ∧ (s.part k.part).state = PartState.ready) ∧
    (∃ (s : State) (c : CoreId) (e : EngId) (r : Running) (k : Ctx) (o : TileOut), c.val < s.ncores ∧ s.pwr.trip = false ∧ (s.engine c.val e.val).run = some r ∧ k = s.ctx c.val r.ctx ∧ r.ready = true ∧ (s.engine c.val e.val).held = none ∧ o = engineTile s k.part (s.engine c.val e.val).t0 k.task r ∧ o.fail = none ∧ ((writeAll c.val k.part o.writes (s.modEngine c.val e.val fun (g : Engine) => { g with t0 := leaveT0 k.task o.t0w g.t0 })).1 = none) ∧ taskTiles k.task ≤ r.tile + 1) :=
   ⟨⟨(sOut 0x100), (1 : CoreId), (2 : EngId), (((sOut 0x100).engine 1 2).run.getD (rn false 0) : Running), ((sOut 0x100).ctx 1 7), by decide +kernel⟩,
    ⟨(sOut 0x100), (1 : CoreId), (2 : EngId), (((sOut 0x100).engine 1 2).run.getD (rn false 0) : Running), ((sOut 0x100).ctx 1 7), (engineTile (sOut 0x100) ((sOut 0x100).ctx 1 7).part ((sOut 0x100).engine (1 : CoreId).val (2 : EngId).val).t0 ((sOut 0x100).ctx 1 7).task (((sOut 0x100).engine 1 2).run.getD (rn false 0) : Running)), by decide +kernel⟩⟩

theorem witness_TilesStartCompleteAndRepeat_8 :
    ∃ (s : State) (c : CoreId) (e : EngId) (r : Running) (k : Ctx) (o : TileOut) (st : W16) (u : State), c.val < s.ncores ∧ s.pwr.trip = false ∧ (s.engine c.val e.val).run = some r ∧ k = s.ctx c.val r.ctx ∧ r.ready = true ∧ (s.engine c.val e.val).held = none ∧ o = engineTile s k.part (s.engine c.val e.val).t0 k.task r ∧ o.fail = none ∧ (writeAll c.val k.part o.writes (s.modEngine c.val e.val fun (g : Engine) => { g with t0 := leaveT0 k.task o.t0w g.t0 }) = (some st, u)) :=
   ⟨(sOut 0x7000000), (1 : CoreId), (2 : EngId), (((sOut 0x7000000).engine 1 2).run.getD (rn false 0) : Running), ((sOut 0x7000000).ctx 1 7), (engineTile (sOut 0x7000000) ((sOut 0x7000000).ctx 1 7).part ((sOut 0x7000000).engine (1 : CoreId).val (2 : EngId).val).t0 ((sOut 0x7000000).ctx 1 7).task (((sOut 0x7000000).engine 1 2).run.getD (rn false 0) : Running)), (0x0203 : W16), ((writeAll 1 ((sOut 0x7000000).ctx 1 7).part (engineTile (sOut 0x7000000) ((sOut 0x7000000).ctx 1 7).part ((sOut 0x7000000).engine (1 : CoreId).val (2 : EngId).val).t0 ((sOut 0x7000000).ctx 1 7).task (((sOut 0x7000000).engine 1 2).run.getD (rn false 0) : Running)).writes ((sOut 0x7000000).modEngine 1 2 (fun g => { g with t0 := leaveT0 ((sOut 0x7000000).ctx 1 7).task (engineTile (sOut 0x7000000) ((sOut 0x7000000).ctx 1 7).part ((sOut 0x7000000).engine (1 : CoreId).val (2 : EngId).val).t0 ((sOut 0x7000000).ctx 1 7).task (((sOut 0x7000000).engine 1 2).run.getD (rn false 0) : Running)).t0w g.t0 }))).2), by decide +kernel⟩

theorem witness_TilesStartCompleteAndRepeat_9 :
    ∃ (s : State) (c : CoreId) (e : EngId) (r : Running) (k : Ctx) (m : Mem) (rngs : List (ℕ × ℕ × ℕ)), c.val < s.ncores ∧ s.pwr.trip = false ∧ (s.engine c.val e.val).run = some r ∧ k = s.ctx c.val r.ctx ∧ r.ready = false ∧ m = tableT0 s k.part k.task r.tile (s.engine c.val e.val).t0 ∧ rngs = operandRanges s k.part k.task r.tile m ∧ ((rngs.any fun (a : ℕ × ℕ × ℕ) => anyBlock s k.part a.2.1 a.2.2 BlockState.unmapped) = false) ∧ ((rngs.any fun (a : ℕ × ℕ × ℕ) => anyBlock s k.part a.2.1 a.2.2 BlockState.poisoned) = false) ∧ (((runRanges k.task (operandRuns s k.part k.task r.tile m)).any fun (a : ℕ × ℕ × ℕ) => touchesSealed s k.part a.2.1 a.2.2) = false) ∧ keyLost s k.part k.task = true :=
   ⟨(sld (sOp [eA 22 true false] (rn false 0)) true), (1 : CoreId), (2 : EngId), (((sld (sOp [eA 22 true false] (rn false 0)) true).engine 1 2).run.getD (rn false 0) : Running), ((sld (sOp [eA 22 true false] (rn false 0)) true).ctx 1 7), (tableT0 (sld (sOp [eA 22 true false] (rn false 0)) true) ((sld (sOp [eA 22 true false] (rn false 0)) true).ctx 1 7).part ((sld (sOp [eA 22 true false] (rn false 0)) true).ctx 1 7).task (((sld (sOp [eA 22 true false] (rn false 0)) true).engine 1 2).run.getD (rn false 0) : Running).tile ((sld (sOp [eA 22 true false] (rn false 0)) true).engine 1 2).t0), (operandRanges (sld (sOp [eA 22 true false] (rn false 0)) true) ((sld (sOp [eA 22 true false] (rn false 0)) true).ctx 1 7).part ((sld (sOp [eA 22 true false] (rn false 0)) true).ctx 1 7).task (((sld (sOp [eA 22 true false] (rn false 0)) true).engine 1 2).run.getD (rn false 0) : Running).tile (tableT0 (sld (sOp [eA 22 true false] (rn false 0)) true) ((sld (sOp [eA 22 true false] (rn false 0)) true).ctx 1 7).part ((sld (sOp [eA 22 true false] (rn false 0)) true).ctx 1 7).task (((sld (sOp [eA 22 true false] (rn false 0)) true).engine 1 2).run.getD (rn false 0) : Running).tile ((sld (sOp [eA 22 true false] (rn false 0)) true).engine 1 2).t0)), by decide +kernel⟩

theorem witness_TilesStartCompleteAndRepeat_10 :
    (∃ (s : State) (c : CoreId) (e : EngId) (r : Running) (k : Ctx) (o : TileOut), c.val < s.ncores ∧ s.pwr.trip = false ∧ (s.engine c.val e.val).run = some r ∧ k = s.ctx c.val r.ctx ∧ r.ready = true ∧ (s.engine c.val e.val).held = none ∧ o = engineTile s k.part (s.engine c.val e.val).t0 k.task r ∧ o.fail = none ∧ ((writeAll c.val k.part o.writes (s.modEngine c.val e.val fun (g : Engine) => { g with t0 := leaveT0 k.task o.t0w g.t0 })).1 = none) ∧ r.tile + 1 < taskTiles k.task) ∧
    (∃ (s : State) (c : CoreId) (e : EngId) (r : Running) (k : Ctx), c.val < s.ncores ∧ s.pwr.trip = false ∧ (s.engine c.val e.val).run = some r ∧ k = s.ctx c.val r.ctx ∧ r.ready = true ∧ (s.engine c.val e.val).held = none ∧ residueCovers k.task = false) ∧
    (∃ (s : State) (c : CoreId) (e : EngId) (r : Running) (k : Ctx) (o : TileOut) (st : W16), c.val < s.ncores ∧ s.pwr.trip = false ∧ (s.engine c.val e.val).run = some r ∧ k = s.ctx c.val r.ctx ∧ r.ready = true ∧ (s.engine c.val e.val).held = none ∧ o = engineTile s k.part (s.engine c.val e.val).t0 k.task r ∧ o.fail = some st) ∧
    (∃ (s : State) (c : CoreId) (e : EngId) (r : Running) (k : Ctx) (h : Held), c.val < s.ncores ∧ s.pwr.trip = false ∧ (s.engine c.val e.val).run = some r ∧ k = s.ctx c.val r.ctx ∧ (s.engine c.val e.val).held = some h ∧ s.rel.autoFence = true) :=
   ⟨⟨(sT 2000 0), (1 : CoreId), (2 : EngId), (((sT 2000 0).engine 1 2).run.getD (rn false 0) : Running), ((sT 2000 0).ctx 1 7), (engineTile (sT 2000 0) ((sT 2000 0).ctx 1 7).part ((sT 2000 0).engine (1 : CoreId).val (2 : EngId).val).t0 ((sT 2000 0).ctx 1 7).task (((sT 2000 0).engine 1 2).run.getD (rn false 0) : Running)), by decide +kernel⟩,
    ⟨sTv, (1 : CoreId), (2 : EngId), ((sTv.engine 1 2).run.getD (rn false 0) : Running), (sTv.ctx 1 7), by decide +kernel⟩,
    ⟨sTr, (1 : CoreId), (2 : EngId), ((sTr.engine 1 2).run.getD (rn false 0) : Running), (sTr.ctx 1 7), (engineTile sTr (sTr.ctx 1 7).part (sTr.engine (1 : CoreId).val (2 : EngId).val).t0 (sTr.ctx 1 7).task ((sTr.engine 1 2).run.getD (rn false 0) : Running)), (0x0203 : W16), by decide +kernel⟩,
    ⟨sHeld, (1 : CoreId), (2 : EngId), ((sHeld.engine 1 2).run.getD (rn false 0) : Running), (sHeld.ctx 1 7), ((sHeld.engine 1 2).held.getD { run := rn false 0, output := [], units := 0, last := false}), by decide +kernel⟩⟩

theorem witness_TilesStartCompleteAndRepeat_11 :
    ∃ (s : State) (c : CoreId) (e : EngId) (r : Running) (k : Ctx) (h : Held), c.val < s.ncores ∧ s.pwr.trip = false ∧ (s.engine c.val e.val).run = some r ∧ k = s.ctx c.val r.ctx ∧ (s.engine c.val e.val).held = some h ∧ s.rel.autoFence = false :=
   ⟨(naf sHeld), (1 : CoreId), (2 : EngId), (((naf sHeld).engine 1 2).run.getD (rn false 0) : Running), ((naf sHeld).ctx 1 7), (((naf sHeld).engine 1 2).held.getD { run := rn false 0, output := [], units := 0, last := false}), by decide +kernel⟩

end Cores

namespace Heads

def on1 (k : Core) : State := { wbase with cores := [(1, { k with on := true, req := true, iso := false, inReset := false })], graphs := [(3, { part := 0, run := some { runNo := 2, cadence := true, a := 0 }, ctxOf := [(1,7),(1,8)], ntask := 2 })], ts := 900000000, cad.en := true, cad.src := 0, cad.period := 60000, cad.beats := 30, cad.beatTs := 0, cad.periods := [60000], pwr.coreStep := 2, pwr.instStep := 8 }
def tkP (kind : Kind) (ps : List Byte) (ops : List Operand := []) : Task := { kind := kind, param := padTo 64 ps, operands := ops, core := 1, index := 0 }
def cx (st : CtxState) (t : Task) : Ctx := { state := st, part := 0, graph := 3, task := t }
def mm (k : Nat) : Task := tkP .matrix (b1 1 ++ b1 1 ++ b1 1 ++ b1 8 ++ b1 0 ++ b1 0 ++ b2 0 ++ b4 1 ++ b4 1 ++ b4 k)
def slow (s : State) : State := { s with pwr.coreStep := 0 }
def sEnK (kd : Kind) (op : Nat) : State := on1 { ctxs := [(7, cx .queued (tkP kd (b1 op ++ b1 1 ++ b1 1 ++ b1 8 ++ padTo 30 []))), (8, cx .queued (mm 64))], engines := [(2, { queue := [7,8], t0 := [(3,3)], t0Part := some 1 })] }

theorem witness_EnginesStartTheirHead :
    (∃ (s : State) (c : CoreId) (e : EngId) (x : ℕ) (k : Ctx) (y : ℕ), c.val < s.ncores ∧ startHead s c.val e.val = some x ∧ k = s.ctx c.val x ∧ engineKind k.task.kind = true ∧ opOf k.task = (Instr.matmul c e, 1).2 ∧ rampLets s c.val = true ∧ y ≠ x) ∧
    (∃ (s : State) (c : CoreId) (e : EngId) (x : ℕ) (k : Ctx) (d : ℕ), c.val < s.ncores ∧ startHead s c.val e.val = some x ∧ k = s.ctx c.val x ∧ engineKind k.task.kind = true ∧ opOf k.task = (Instr.matmul c e, 1).2 ∧ rampLets s c.val = true ∧ d ≠ e.val) ∧
    (∃ (s : State) (c : CoreId) (e : EngId) (x : ℕ) (k : Ctx) (d : ℕ), c.val < s.ncores ∧ startHead s c.val e.val = some x ∧ k = s.ctx c.val x ∧ engineKind k.task.kind = true ∧ opOf k.task = (Instr.matmul c e, 1).2 ∧ rampLets s c.val = true ∧ d ≠ c.val) ∧
    (∃ (s : State) (c : CoreId) (e : EngId) (x : ℕ) (k : Ctx), c.val < s.ncores ∧ startHead s c.val e.val = some x ∧ k = s.ctx c.val x ∧ engineKind k.task.kind = true ∧ opOf k.task ≠ (Instr.conv c e, 2).2) ∧
    (∃ (s : State) (c : CoreId) (e : EngId) (x : ℕ) (k : Ctx), c.val < s.ncores ∧ startHead s c.val e.val = some x ∧ k = s.ctx c.val x ∧ engineKind k.task.kind = true ∧ opOf k.task = (Instr.matmul c e, 1).2 ∧ rampLets s c.val = false) :=
   ⟨⟨(sEnK .matrix 1), (1 : CoreId), (2 : EngId), (7 : ℕ), ((sEnK .matrix 1).ctx (1 : CoreId).val (7 : ℕ)), (8 : ℕ), by decide +kernel⟩,
    ⟨(sEnK .matrix 1), (1 : CoreId), (2 : EngId), (7 : ℕ), ((sEnK .matrix 1).ctx (1 : CoreId).val (7 : ℕ)), (0 : ℕ), by decide +kernel⟩,
    ⟨(sEnK .matrix 1), (1 : CoreId), (2 : EngId), (7 : ℕ), ((sEnK .matrix 1).ctx (1 : CoreId).val (7 : ℕ)), (0 : ℕ), by decide +kernel⟩,
    ⟨(sEnK .matrix 1), (1 : CoreId), (2 : EngId), (7 : ℕ), ((sEnK .matrix 1).ctx (1 : CoreId).val (7 : ℕ)), by decide +kernel⟩,
    ⟨(slow (sEnK .matrix 1)), (1 : CoreId), (2 : EngId), (7 : ℕ), ((slow (sEnK .matrix 1)).ctx (1 : CoreId).val (7 : ℕ)), by decide +kernel⟩⟩

end Heads

namespace Errors

def en1 (n : Nat) (pin : Bool) : RindEntry := { seq := BitVec.ofNat 32 n, code := 0x201, pinned := pin, carried := false, degraded := false, ts := 5, body := [1,2], origSeq := 4, link := [] }
def sR (q : List RindEntry) (full : Bool) (d : Nat) : State := { wbase with rel.rindReady := true, rel.rindQ := q, rel.rindFull := full, rel.droppedSec := d, rel.folded := 3, rel.curSeg := some 2, rel.segs := [(2, { opened := true, entries := [en1 1 false] })], rel.nextSeq := 2 }
def tx0 : Txn := { core := 0, ctx := 0, dev := 0, frames := [] }
def rq0 : MemReq := { port := 0, id := none, write := false, part := 0, block := 0, sector := 0, addr := 0, again := false }
def fm (n : Nat) : State := { wbase with rel.mgmtQ := List.replicate n (.foreign [1]) }
def glog : State := { wbase with rel.glogOwner := some 0 }
def dj (h : Bool) : State := { wbase with fab.jobs := [(3, { valid := true, members := [(9,0,7),(5,0,7)], held := if h then [(5,0,0,9,true)] else [] })] }
def bnd : State := { wbase with fab.binds := [(0, 9, 2)], fab.id := 5 }
def tx (l : Nat) (r : Nat) : State := { wbase with fab.txns := [(4, { core := 1, ctx := 7, dev := 9, frames := List.replicate l (0, [1]), resends := r, sentTs := 100 })], cores := [(1, { on := true, ctxs := [(7, { state := .running, txn := some 4 })] })] }
def br (p : Bool) : State := { wbase with fab.id := 5, fab.bars := [(0, { id := 5, valid := true, coord := 5, gen := 3, members := [(5,0),(9,0)], pend := if p then some (1,7,3,0) else none })] }
def par (w : Nat) : BitVec 3 := BitVec.ofNat 3 (parityOf 3 w)
def rq (k : Nat) (addr init : Nat) : BitVec 96 := BitVec.ofNat 96 (2 * k + 4 + 256 * 7 + 65536 * addr + 2 ^ 64 * init)
def hA : State := { wbase with spr.pstate := .a }
def mq (a : Bool) (b : Nat) : State := { wbase with mem.outReq := [{ port := 1, id := some 6, write := true, part := 0, block := b, sector := 0, addr := 0x5000, again := a }] }
def io (r : Bool) : State := { wbase with ports.intOut := some (1, 7, r), ports.credits := [(creditKey 65 0, 3), (creditKey 65 1, 3)] }

theorem witness_ErrorsAndRind_ErrorsAreContained :
    (∃ (s : State) (pt : BitVec (OfNat.ofNat 6)), pt ≠ 63 ∧ (s.part pt.toNat).state = PartState.ready) ∧
    (∃ (s : State) (place : EccPlace) (now : W64), BitVec.toNat s.ts ≤ BitVec.toNat now ∧ s.rel.burst = [] ∧ s.rel.corrLimit ≠ 0 ∧ (∀ (c : CoreId) (e : EngId), place ≠ EccPlace.t0 c e)) ∧
    (∃ (s : State) (p : PartId), (s.part p.val).state = PartState.ready) ∧
    (∃ (s : State) (place : EccPlace), s.rel.glogOwner = none ∧ (place = EccPlace.ctlSram ∨ place = EccPlace.flcSram)) ∧
    (∃ (s : State), s.spr.source ≠ 2) :=
   ⟨⟨wbase, (0 : BitVec (OfNat.ofNat 6)), by decide +kernel⟩,
    ⟨wbase, (EccPlace.t2 0 1), (99 : W64), by decide +kernel⟩,
    ⟨wbase, (0 : PartId), by decide +kernel⟩,
    ⟨wbase, EccPlace.ctlSram, by decide +kernel⟩,
    ⟨wbase, by decide +kernel⟩⟩

theorem witness_FramesAtTheirDestination_1 :
    (∃ (s : State) (now : W64), BitVec.toNat s.ts ≤ BitVec.toNat now ∧ fabDeaf s = false ∧ s.rel.mgmtQ.length < 32) ∧
    (∃ (s : State) (now : W64), BitVec.toNat s.ts ≤ BitVec.toNat now ∧ fabDeaf s = false ∧ s.rel.glogOwner = none) ∧
    (∃ (s : State) (now : W64) (d : DigestMsg) (j : Job), BitVec.toNat s.ts ≤ BitVec.toNat now ∧ fabDeaf s = false ∧ j = tget { valid := false, owner := 0, members := [], interval := 64, held := [] } s.fab.jobs d.job.val ∧ j.valid = false) ∧
    (∃ (s : State) (src : DevId) (now : W64) (p : PartId) (q : ℕ), BitVec.toNat s.ts ≤ BitVec.toNat now ∧ fabDeaf s = false ∧ ((s.fab.binds.any fun (b : ℕ × ℕ × ℕ) => b.1 == p.val && b.2.1 == src.val) = false) ∧ q ≠ p.val) ∧
    (∃ (s : State) (src : DevId) (now : W64) (p : PartId) (arg : W64), BitVec.toNat s.ts ≤ BitVec.toNat now ∧ fabDeaf s = false ∧ nbits (BitVec.toNat arg) 7 0 = 1 ∧ ((s.fab.binds.any fun (b : ℕ × ℕ × ℕ) => b.1 == p.val && b.2.1 == src.val) = false)) ∧
    (∃ (s : State) (now : W64), BitVec.toNat s.ts ≤ BitVec.toNat now ∧ fabDeaf s = false ∧ 32 ≤ s.rel.mgmtQ.length) :=
   ⟨⟨(fm 3), (600 : W64), by decide +kernel⟩,
    ⟨(fm 3), (600 : W64), by decide +kernel⟩,
    ⟨(fm 3), (600 : W64), ({ job := 3, interval := 5, a := 0, value := 4, complete := true } : DigestMsg), (tget {} (fm 3).fab.jobs ({ job := 3, interval := 5, a := 0, value := 4, complete := true } : DigestMsg).job.val), by decide +kernel⟩,
    ⟨(fm 3), (9 : DevId), (600 : W64), (0 : PartId), (1 : ℕ), by decide +kernel⟩,
    ⟨(fm 3), (9 : DevId), (600 : W64), (0 : PartId), (1 : W64), by decide +kernel⟩,
    ⟨(fm 32), (600 : W64), by decide +kernel⟩⟩

theorem witness_FramesAtTheirDestination_2 :
    (∃ (s : State) (now : W64) (p : ℕ), BitVec.toNat s.ts ≤ BitVec.toNat now ∧ fabDeaf s = false ∧ s.rel.glogOwner = some p) ∧
    (∃ (s : State) (src : DevId) (now : W64) (d : DigestMsg) (j : Job) (i : ℕ), BitVec.toNat s.ts ≤ BitVec.toNat now ∧ fabDeaf s = false ∧ j = tget { valid := false, owner := 0, members := [], interval := 64, held := [] } s.fab.jobs d.job.val ∧ j.valid = true ∧ (List.findIdx? (fun (m : ℕ × ℕ × W32) => m.1 == src.val) j.members = some i) ∧ ((j.held.any fun (h : W32 × ℕ × W64 × W64 × Bool) => h.1 == d.interval && h.2.1 == i) = false)) ∧
    (∃ (s : State) (src : DevId) (now : W64) (p : PartId) (addr : BitVec (OfNat.ofNat 48)) (data : List Byte), BitVec.toNat s.ts ≤ BitVec.toNat now ∧ fabDeaf s = false ∧ ((s.fab.binds.any fun (b : ℕ × ℕ × ℕ) => b.1 == p.val && b.2.1 == src.val) = true) ∧ (s.part p.val).state = PartState.ready ∧ (devWrite s p.val addr.toNat data none).1 = WriteRes.ok ∧ anyBlock s p.val addr.toNat data.length BlockState.view = false) ∧
    (∃ (s : State) (src : DevId) (now : W64) (txn : W16) (n : W16) (x : Txn), BitVec.toNat s.ts ≤ BitVec.toNat now ∧ fabDeaf s = false ∧ tfind s.fab.txns (BitVec.toNat txn) = some x ∧ x.dev = src.val ∧ List.drop (BitVec.toNat n) x.frames ≠ []) ∧
    (∃ (s : State) (now : W64) (txn : W16) (x : Txn), BitVec.toNat s.ts ≤ BitVec.toNat now ∧ fabDeaf s = false ∧ tfind s.fab.txns (BitVec.toNat txn) = some x ∧ BitVec.toNat now < BitVec.toNat x.sentTs + BitVec.toNat s.fab.ackTimeout * 1000) ∧
    (∃ (s : State) (now : W64) (txn : W16) (x : Txn), BitVec.toNat s.ts ≤ BitVec.toNat now ∧ fabDeaf s = false ∧ tfind s.fab.txns (BitVec.toNat txn) = some x ∧ BitVec.toNat x.sentTs + BitVec.toNat s.fab.ackTimeout * 1000 ≤ BitVec.toNat now ∧ x.resends < s.fab.resendMax.toNat) :=
   ⟨⟨glog, (600 : W64), (0 : ℕ), by decide +kernel⟩,
    ⟨(dj false), (9 : DevId), (600 : W64), ({ job := 3, interval := 5, a := 0, value := 4, complete := true } : DigestMsg), (tget {} (dj false).fab.jobs ({ job := 3, interval := 5, a := 0, value := 4, complete := true } : DigestMsg).job.val), (0 : ℕ), by decide +kernel⟩,
    ⟨bnd, (9 : DevId), (600 : W64), (0 : PartId), (0x100 : BitVec (OfNat.ofNat 48)), ([1,2] : List Byte), by decide +kernel⟩,
    ⟨(tx 3 0), (9 : DevId), (600 : W64), (4 : W16), (1 : W16), (((tx 3 0).fab.txns.headD (0, tx0)).2), by decide +kernel⟩,
    ⟨(tx 3 0), (600 : W64), (4 : W16), (((tx 3 0).fab.txns.headD (0, tx0)).2), by decide +kernel⟩,
    ⟨(tx 3 0), (60000 : W64), (4 : W16), (((tx 3 0).fab.txns.headD (0, tx0)).2), by decide +kernel⟩⟩

theorem witness_FramesAtTheirDestination_3 :
    (∃ (s : State) (src : DevId) (now : W64) (txn : W16) (x : Txn), BitVec.toNat s.ts ≤ BitVec.toNat now ∧ fabDeaf s = false ∧ tfind s.fab.txns (BitVec.toNat txn) = some x ∧ x.dev ≠ src.val) ∧
    (∃ (s : State) (src : DevId) (now : W64) (txn : W16) (n : W16) (x : Txn), BitVec.toNat s.ts ≤ BitVec.toNat now ∧ fabDeaf s = false ∧ tfind s.fab.txns (BitVec.toNat txn) = some x ∧ x.dev = src.val ∧ List.drop (BitVec.toNat n) x.frames = []) ∧
    (∃ (s : State) (now : W64) (txn : W16) (x : Txn), BitVec.toNat s.ts ≤ BitVec.toNat now ∧ fabDeaf s = false ∧ tfind s.fab.txns (BitVec.toNat txn) = some x ∧ BitVec.toNat x.sentTs + BitVec.toNat s.fab.ackTimeout * 1000 ≤ BitVec.toNat now ∧ s.fab.resendMax.toNat ≤ x.resends) ∧
    (∃ (s : State) (src : DevId) (now : W64) (id : W16) (gen : W32) (slot : ℕ) (b : Barrier), BitVec.toNat s.ts ≤ BitVec.toNat now ∧ fabDeaf s = false ∧ barSlot s (BitVec.toNat id) = some (slot, b) ∧ (gen = b.gen ∨ gen = b.gen + 1) ∧ tget { id := 0, valid := false, coord := 0, gen := 0, wait := 0, slowest := 0, spread := 0, owner := 0, members := [], arrived := [], pend := none, hist := [], lastRel := 0 } s.fab.bars slot = b ∧ (src.val ∈ List.map (fun (x : ℕ × ℕ) => x.1) b.members) ∧ b.arrived = [] ∧ (∃ m ∈ b.members, m.1 ≠ src.val)) ∧
    (∃ (s : State) (now : W64) (id : W16) (gen : W32) (slot : ℕ) (b : Barrier) (c : ℕ) (x : ℕ) (t0 : W64), BitVec.toNat s.ts ≤ BitVec.toNat now ∧ fabDeaf s = false ∧ barSlot s (BitVec.toNat id) = some (slot, b) ∧ tget { id := 0, valid := false, coord := 0, gen := 0, wait := 0, slowest := 0, spread := 0, owner := 0, members := [], arrived := [], pend := none, hist := [], lastRel := 0 } s.fab.bars slot = b ∧ b.pend = some (c, x, gen, t0)) :=
   ⟨⟨(tx 3 0), (8 : DevId), (600 : W64), (4 : W16), (((tx 3 0).fab.txns.headD (0, tx0)).2), by decide +kernel⟩,
    ⟨(tx 1 0), (9 : DevId), (600 : W64), (4 : W16), (1 : W16), (((tx 1 0).fab.txns.headD (0, tx0)).2), by decide +kernel⟩,
    ⟨(tx 3 3), (60000 : W64), (4 : W16), (((tx 3 3).fab.txns.headD (0, tx0)).2), by decide +kernel⟩,
    ⟨(br true), (9 : DevId), (600 : W64), (5 : W16), (3 : W32), (0 : ℕ), (((br true).fab.bars.headD (0,{})).2), by decide +kernel⟩,
    ⟨(br true), (600 : W64), (5 : W16), (3 : W32), (0 : ℕ), (((br true).fab.bars.headD (0,{})).2), (1 : ℕ), (7 : ℕ), (0 : W64), by decide +kernel⟩⟩

theorem witness_FramesAtTheirDestination_4 :
    (∃ (s : State) (now : W64) (id : W16) (gen : W32) (slot : ℕ) (b : Barrier), BitVec.toNat s.ts ≤ BitVec.toNat now ∧ fabDeaf s = false ∧ barSlot s (BitVec.toNat id) = some (slot, b) ∧ gen ≠ b.gen ∧ gen ≠ b.gen + 1 ∧ tget { id := 0, valid := false, coord := 0, gen := 0, wait := 0, slowest := 0, spread := 0, owner := 0, members := [], arrived := [], pend := none, hist := [], lastRel := 0 } s.fab.bars slot = b) ∧
    (∃ (s : State) (now : W64) (id : W16) (gen : W32) (slot : ℕ) (b : Barrier), BitVec.toNat s.ts ≤ BitVec.toNat now ∧ fabDeaf s = false ∧ barSlot s (BitVec.toNat id) = some (slot, b) ∧ tget { id := 0, valid := false, coord := 0, gen := 0, wait := 0, slowest := 0, spread := 0, owner := 0, members := [], arrived := [], pend := none, hist := [], lastRel := 0 } s.fab.bars slot = b ∧ b.pend = none) :=
   ⟨⟨(br true), (600 : W64), (5 : W16), (9 : W32), (0 : ℕ), (((br true).fab.bars.headD (0,{})).2), by decide +kernel⟩,
    ⟨(br false), (600 : W64), (5 : W16), (3 : W32), (0 : ℕ), (((br false).fab.bars.headD (0,{})).2), by decide +kernel⟩⟩

theorem witness_ErrorsAndRind_RindEntriesAreWritten :
    (∃ (s : State) (e : RindEntry) (rest : List RindEntry) (i : ℕ) (l : RindEntry), s.rel.rindReady = true ∧ s.rel.rindQ = e :: rest ∧ s.rel.compacting = false ∧ ((List.all s.rel.segs fun (g : ℕ × Segment) => !g.2.doomed) = true) ∧ (s.rel.rindFull = false ∨ e.pinned = true) ∧ s.rel.curSeg = some i ∧ (tget { opened := false, segSeq := 0, firstSeq := 0, doomed := false, entries := [] } s.rel.segs i).entries.length < 768 ∧ (rindEntries s).getLast? = some l) ∧
    (∃ (s : State), s.rel.rindReady = true ∧ s.rel.droppedSec = 0) ∧
    (∃ (s : State) (e : RindEntry) (rest : List RindEntry), s.rel.rindReady = true ∧ s.rel.rindQ = e :: rest ∧ s.rel.compacting = false ∧ ((List.all s.rel.segs fun (g : ℕ × Segment) => !g.2.doomed) = true) ∧ s.rel.rindFull = true ∧ e.pinned = false) ∧
    (∃ (s : State) (i : ℕ), s.rel.rindReady = true ∧ s.rel.droppedSec ≠ 0 ∧ s.rel.curSeg = some i ∧ (tget { opened := false, segSeq := 0, firstSeq := 0, doomed := false, entries := [] } s.rel.segs i).entries.length < 768) ∧
    (∃ (s : State), s.rel.rindReady = true ∧ s.rel.rindQ = [] ∧ s.rel.compacting = false) :=
   ⟨⟨(sR [en1 7 false] false 0), ((sR [en1 7 false] false 0).rel.rindQ.headD (en1 0 false) : RindEntry), ((sR [en1 7 false] false 0).rel.rindQ.drop 1), (2 : ℕ), (en1 1 false), by decide +kernel⟩,
    ⟨(sR [en1 7 false] false 0), by decide +kernel⟩,
    ⟨(sR [en1 7 false, en1 8 false] true 5), ((sR [en1 7 false, en1 8 false] true 5).rel.rindQ.headD (en1 0 false) : RindEntry), ((sR [en1 7 false, en1 8 false] true 5).rel.rindQ.drop 1), by decide +kernel⟩,
    ⟨(sR [en1 7 false, en1 8 false] true 5), (2 : ℕ), by decide +kernel⟩,
    ⟨(sR [] false 5), by decide +kernel⟩⟩

theorem witness_TvedPorts_1 :
    (∃ (s : State) (w : BitVec (OfNat.ofNat 96)) (par : BitVec (OfNat.ofNat 3)) (bs : List WriteBeat) (now : W64) (u : State), BitVec.toNat s.ts ≤ BitVec.toNat now ∧ hasCredits s 0 0 1 = true ∧ hasCredits s 0 1 bs.length = true ∧ s.spr.draining = none ∧ hostOpen s = true ∧ u = { (giveHost (takeHost { s with ts := now } bs) bs) with spr := { ((giveHost (takeHost { s with ts := now } bs) bs).spr) with idleSince := now, rungIdle := tset s.spr.rungIdle 1 now } } ∧ parityOf 3 w.toNat ≠ par.toNat) ∧
    (∃ (s : State) (w : BitVec (OfNat.ofNat 96)) (par : BitVec (OfNat.ofNat 3)) (bs : List WriteBeat) (now : W64) (u : State), BitVec.toNat s.ts ≤ BitVec.toNat now ∧ hasCredits s 0 0 1 = true ∧ hasCredits s 0 1 bs.length = true ∧ s.spr.draining = none ∧ hostOpen s = true ∧ u = { (giveHost (takeHost { s with ts := now } bs) bs) with spr := { ((giveHost (takeHost { s with ts := now } bs) bs).spr) with idleSince := now, rungIdle := tset s.spr.rungIdle 1 now } } ∧ parityOf 3 w.toNat = par.toNat ∧ nbit w.toNat 0 = false ∧ nbit w.toNat 1 = true) :=
   ⟨⟨hA, (rq 0 0x20024 0), (BitVec.ofNat 3 (parityOf 3 (rq 0 0x20024 0).toNat + 1)), ([] : List WriteBeat), (600 : W64), ({ giveHost (takeHost { hA with ts := (600 : W64) } ([] : List WriteBeat)) ([] : List WriteBeat) with spr.idleSince := (600 : W64), spr.rungIdle := tset hA.spr.rungIdle 1 (600 : W64) } : State), by decide +kernel⟩,
    ⟨hA, (rq 1 0x20024 0), (BitVec.ofNat 3 (parityOf 3 (rq 1 0x20024 0).toNat)), ([] : List WriteBeat), (600 : W64), ({ giveHost (takeHost { hA with ts := (600 : W64) } ([] : List WriteBeat)) ([] : List WriteBeat) with spr.idleSince := (600 : W64), spr.rungIdle := tset hA.spr.rungIdle 1 (600 : W64) } : State), by decide +kernel⟩⟩

theorem witness_TvedPorts_2 :
    (∃ (s : State) (w : BitVec (OfNat.ofNat 96)) (par : BitVec (OfNat.ofNat 3)) (bs : List WriteBeat) (now : W64) (u : State), BitVec.toNat s.ts ≤ BitVec.toNat now ∧ hasCredits s 0 0 1 = true ∧ hasCredits s 0 1 bs.length = true ∧ s.spr.draining = none ∧ hostOpen s = true ∧ u = { (giveHost (takeHost { s with ts := now } bs) bs) with spr := { ((giveHost (takeHost { s with ts := now } bs) bs).spr) with idleSince := now, rungIdle := tset s.spr.rungIdle 1 now } } ∧ parityOf 3 w.toNat = par.toNat ∧ nbit w.toNat 0 = false ∧ nbit w.toNat 1 = false ∧ initClass (reqInit w) = 0 ∧ initIndex (reqInit w) < 64 ∧ reqAddr w < 67108864 ∧ reqBeats w = 1 ∧ reqAddr w % 16 = 0 ∧ foreignPage u (initIndex (reqInit w)) (reqAddr w) = false ∧ hostReads u (initIndex (reqInit w)) (regGroup u (reqAddr w)).1 = true) ∧
    (∃ (s : State) (w : BitVec (OfNat.ofNat 96)) (par : BitVec (OfNat.ofNat 3)) (bs : List WriteBeat) (now : W64) (u : State), BitVec.toNat s.ts ≤ BitVec.toNat now ∧ hasCredits s 0 0 1 = true ∧ hasCredits s 0 1 bs.length = true ∧ s.spr.draining = none ∧ hostOpen s = true ∧ u = { (giveHost (takeHost { s with ts := now } bs) bs) with spr := { ((giveHost (takeHost { s with ts := now } bs) bs).spr) with idleSince := now, rungIdle := tset s.spr.rungIdle 1 now } } ∧ parityOf 3 w.toNat = par.toNat ∧ nbit w.toNat 0 = false ∧ nbit w.toNat 1 = false ∧ initClass (reqInit w) = 0 ∧ initIndex (reqInit w) < 64 ∧ 67108864 ≤ reqAddr w ∧ reqAddr w < 68719476736) :=
   ⟨⟨hA, (rq 0 0x20020 0), (BitVec.ofNat 3 (parityOf 3 (rq 0 0x20020 0).toNat)), ([] : List WriteBeat), (600 : W64), ({ giveHost (takeHost { hA with ts := (600 : W64) } ([] : List WriteBeat)) ([] : List WriteBeat) with spr.idleSince := (600 : W64), spr.rungIdle := tset hA.spr.rungIdle 1 (600 : W64) } : State), by decide +kernel⟩,
    ⟨hA, (rq 0 0x5000000 0), (BitVec.ofNat 3 (parityOf 3 (rq 0 0x5000000 0).toNat)), ([] : List WriteBeat), (600 : W64), ({ giveHost (takeHost { hA with ts := (600 : W64) } ([] : List WriteBeat)) ([] : List WriteBeat) with spr.idleSince := (600 : W64), spr.rungIdle := tset hA.spr.rungIdle 1 (600 : W64) } : State), by decide +kernel⟩⟩

theorem witness_TvedPorts_3 :
    (∃ (s : State) (w : BitVec (OfNat.ofNat 96)) (par : BitVec (OfNat.ofNat 3)) (bs : List WriteBeat) (now : W64) (u : State), BitVec.toNat s.ts ≤ BitVec.toNat now ∧ hasCredits s 0 0 1 = true ∧ hasCredits s 0 1 bs.length = true ∧ s.spr.draining = none ∧ hostOpen s = true ∧ u = { (giveHost (takeHost { s with ts := now } bs) bs) with spr := { ((giveHost (takeHost { s with ts := now } bs) bs).spr) with idleSince := now, rungIdle := tset s.spr.rungIdle 1 now } } ∧ parityOf 3 w.toNat = par.toNat ∧ nbit w.toNat 0 = false ∧ nbit w.toNat 1 = false ∧ initClass (reqInit w) ≠ 0) ∧
    (∃ (s : State) (c : CoreId) (tag : BitVec (OfNat.ofNat 10)) (r : MemReq) (u : State), c.val < s.ncores ∧ s.pwr.trip = false ∧ u = takeCredits s (1 + c.val) 3 1 ∧ (List.find? (fun (r : MemReq) => r.port == c.val && r.write == true && r.id == some (tag.toNat % 256)) s.mem.outReq = none) ∧ s.ports.lateIds = []) ∧
    (∃ (s : State), s.ports.intOut = none) ∧
    (∃ (s : State), s.credits 65 0 < 255 ∧ s.ports.intQ = []) ∧
    (∃ (s : State) (w : BitVec (OfNat.ofNat 96)) (bs : List WriteBeat) (now : W64), BitVec.toNat s.ts ≤ BitVec.toNat now ∧ hasCredits s 0 0 1 = true ∧ hasCredits s 0 1 bs.length = true ∧ s.spr.pstate = PState.a ∧ s.spr.draining = none ∧ hostOpen s = false ∧ recoveryOnly s w = false) ∧
    (∃ (s : State) (now : W64), BitVec.toNat s.ts ≤ BitVec.toNat now ∧ s.spr.pstate = PState.o) :=
   ⟨⟨hA, (rq 0 0x20020 0x1000), (BitVec.ofNat 3 (parityOf 3 (rq 0 0x20020 0x1000).toNat)), ([] : List WriteBeat), (600 : W64), ({ giveHost (takeHost { hA with ts := (600 : W64) } ([] : List WriteBeat)) ([] : List WriteBeat) with spr.idleSince := (600 : W64), spr.rungIdle := tset hA.spr.rungIdle 1 (600 : W64) } : State), by decide +kernel⟩,
    ⟨hA, (1 : CoreId), (6 : BitVec (OfNat.ofNat 10)), (hA.mem.outReq.headD rq0), (takeCredits hA (1 + (1 : CoreId).val) 3 1), by decide +kernel⟩,
    ⟨hA, by decide +kernel⟩,
    ⟨hA, by decide +kernel⟩,
    ⟨({hA with rennet.step := 3} : State), (rq 0 0x20024 0), ([] : List WriteBeat), (600 : W64), by decide +kernel⟩,
    ⟨({hA with spr.pstate := .o} : State), (600 : W64), by decide +kernel⟩⟩

theorem witness_TvedPorts_4 :
    (∃ (s : State) (c : CoreId) (tag : BitVec (OfNat.ofNat 10)) (r : MemReq) (u : State), c.val < s.ncores ∧ s.pwr.trip = false ∧ u = takeCredits s (1 + c.val) 3 1 ∧ (List.find? (fun (r : MemReq) => r.port == c.val && r.write == true && r.id == some (tag.toNat % 256)) s.mem.outReq = some r) ∧ tag.toNat / 256 = 0) ∧
    (∃ (s : State) (c : CoreId) (tag : BitVec (OfNat.ofNat 10)) (r : MemReq) (u : State), c.val < s.ncores ∧ s.pwr.trip = false ∧ u = takeCredits s (1 + c.val) 3 1 ∧ (List.find? (fun (r : MemReq) => r.port == c.val && r.write == true && r.id == some (tag.toNat % 256)) s.mem.outReq = some r) ∧ r.again = false) ∧
    (∃ (s : State) (c : CoreId) (tag : BitVec (OfNat.ofNat 10)) (r : MemReq) (u : State), c.val < s.ncores ∧ s.pwr.trip = false ∧ u = takeCredits s (1 + c.val) 3 1 ∧ (List.find? (fun (r : MemReq) => r.port == c.val && r.write == true && r.id == some (tag.toNat % 256)) s.mem.outReq = some r) ∧ tag.toNat / 256 = 2 ∧ (r.tag ≠ 63 ∨ initClass r.init ≠ 2) ∧ (s.block r.part r.block).state = BlockState.unmapped) ∧
    (∃ (s : State) (p : ℕ) (d : W32), s.ports.intOut = some (p, d, false) ∧ s.ports.intQ = [] ∧ 0 < s.credits 65 0 ∧ 0 < s.credits 65 1 ∧ s.pwr.trip = false) ∧
    (∃ (s : State) (c : CoreId), c.val < s.ncores ∧ s.pwr.trip = true) ∧
    (∃ (s : State), 255 ≤ s.credits 65 0) :=
   ⟨⟨(mq false 1), (1 : CoreId), (6 : BitVec (OfNat.ofNat 10)), ((mq false 1).mem.outReq.headD rq0), (takeCredits (mq false 1) (1 + (1 : CoreId).val) 3 1), by decide +kernel⟩,
    ⟨(mq false 1), (1 : CoreId), (6 : BitVec (OfNat.ofNat 10)), ((mq false 1).mem.outReq.headD rq0), (takeCredits (mq false 1) (1 + (1 : CoreId).val) 3 1), by decide +kernel⟩,
    ⟨(mq false 99), (1 : CoreId), (0x206 : BitVec (OfNat.ofNat 10)), ((mq false 99).mem.outReq.headD rq0), (takeCredits (mq false 99) (1 + (1 : CoreId).val) 3 1), by decide +kernel⟩,
    ⟨(io false), (1 : ℕ), (7 : W32), by decide +kernel⟩,
    ⟨({mq false 1 with pwr.trip := true} : State), (1 : CoreId), by decide +kernel⟩,
    ⟨({ io false with ports.credits := [(creditKey 65 0, 255)] } : State), by decide +kernel⟩⟩

theorem witness_TvedPorts_5 :
    ∃ (s : State) (bs : List WriteBeat) (now : W64), BitVec.toNat s.ts ≤ BitVec.toNat now ∧ (hasCredits s 0 0 1 = false ∨ hasCredits s 0 1 bs.length = false) :=
   ⟨({hA with ports.owed := [(creditKey 0 0, 255)] } : State), ([] : List WriteBeat), (600 : W64), by decide +kernel⟩

end Errors

namespace Power

def on1 (s : State) : State := { s with cores := [(1, { on := true, req := true, iso := false, inReset := false, pllLock := true, pllLock2 := true, op := 4, bias := 1 })] }
def pnd : State := { on1 wbase with pwr.pending := some (4, 1000), ts := 2000 }
def trp : State := { on1 wbase with pwr.trip := true, pwr.coolTs := some 500, pwr.tripTs := [3] }
def hot : State := { on1 wbase with pwr.coreTemp := [(1, 900)] }
def pl (a b c d e : Bool) : State := { on1 wbase with crp.pllTs := a, crp.pllAon := b, crp.pllIo := c, crp.pllNet0 := d, crp.pllNet1 := e, cad.synced := true }
def l2 (s : State) : State := s.modCore 1 (fun k => { k with pllLock2 := false })
def dn (req on iso : Bool) (s : State) : State := { s with crp.ctl.req := req, crp.ctl.on := on, crp.ctl.iso := iso, crp.ctl.reqTs := 10 }
def rn (s : State) : State := { s with rennet.drbgOn := true, rennet.cave := [(3, [1])], rennet.masks := [] }
def si (n : Bool) : StartInputs := { strapPmb := 3, strapMg := 4, norAnswers := n, pufMatches := true, entropyOk := true, supplyOk := true, marginal := [], dramKept := n }
def st0 : State := State.reset
def sOff : State := { State.reset with crp.rnt.on := false }
def ho (b : BootState) (n : Nat) : State := { wbase with rennet.boot := b, rennet.step := n, rennet.refTs := 10, crp.ctl.on := true, crp.net.on := true, rennet.consec := 2 }

theorem witness_ClocksAndSupplies_1 :
    (∃ (s : State), s.crp.pllTs = true) ∧
    (∃ (s : State), s.crp.pllAon = true) ∧
    (∃ (s : State), s.crp.pllIo = true) ∧
    (∃ (s : State), s.crp.pllNet0 = true ∧ s.crp.pllNet1 = true) ∧
    (∃ (s : State) (c : CoreId), c.val < s.ncores ∧ (s.core c.val).pllLock = true ∧ (s.core c.val).pllLock2 = true) ∧
    (∃ (s : State) (c : CoreId), c.val < s.ncores ∧ (s.core c.val).on = true) :=
   ⟨⟨(pl true true true true true), by decide +kernel⟩,
    ⟨(pl true true true true true), by decide +kernel⟩,
    ⟨(pl true true true true true), by decide +kernel⟩,
    ⟨(pl true true true true true), by decide +kernel⟩,
    ⟨(pl true true true true true), (1 : CoreId), by decide +kernel⟩,
    ⟨(pl true true true true true), (1 : CoreId), by decide +kernel⟩⟩

theorem witness_ClocksAndSupplies_2 :
    (∃ (s : State) (d : Domain) (now : W64), BitVec.toNat s.ts ≤ BitVec.toNat now ∧ (∀ (c : CoreId), d = Domain.core c → c.val < s.ncores) ∧ (s.dom d).req = false) ∧
    (∃ (s : State), s.crp.pllTs = false) ∧
    (∃ (s : State), s.crp.pllNet0 = true ∧ s.crp.pllNet1 = false) ∧
    (∃ (s : State) (c : CoreId) (e : ℕ), c.val < s.ncores ∧ (s.core c.val).pllLock = true ∧ (s.core c.val).pllLock2 = false ∧ e < 8) ∧
    (∃ (s : State) (c : CoreId), c.val < s.ncores ∧ (s.core c.val).on = false) ∧
    (∃ (s : State) (d : Domain) (now : W64), BitVec.toNat s.ts ≤ BitVec.toNat now ∧ (∀ (c : CoreId), d = Domain.core c → c.val < s.ncores) ∧ (s.dom d).req = true ∧ (s.dom d).on = false) :=
   ⟨⟨(pl true true true true true), Domain.ctl, (3000 : W64), by decide +kernel⟩,
    ⟨(pl false true true true false), by decide +kernel⟩,
    ⟨(pl false true true true false), by decide +kernel⟩,
    ⟨(l2 (pl true true true true true)), (1 : CoreId), (0 : ℕ), by decide +kernel⟩,
    ⟨(dn true false true wbase), (1 : CoreId), by decide +kernel⟩,
    ⟨(dn true false true wbase), Domain.ctl, (3000 : W64), by decide +kernel⟩⟩

theorem witness_ClocksAndSupplies_3 :
    ∃ (s : State) (d : Domain) (now : W64), BitVec.toNat s.ts ≤ BitVec.toNat now ∧ (∀ (c : CoreId), d = Domain.core c → c.val < s.ncores) ∧ (s.dom d).on = true ∧ (s.dom d).iso = true ∧ s.spr.isoDone = false :=
   ⟨(dn false true true wbase), Domain.ctl, (3000 : W64), by decide +kernel⟩

theorem witness_PowerAndHeat_DroopHeatAndTrip :
    (∃ (s : State) (now : W64) (c : CoreId) (d : ℕ), BitVec.toNat s.ts ≤ BitVec.toNat now ∧ c.val < s.ncores ∧ s.pwr.trip = false ∧ (s.core c.val).on = true ∧ d ≠ c.val) ∧
    (∃ (s : State) (now : W64) (c : CoreId), BitVec.toNat s.ts ≤ BitVec.toNat now ∧ c.val < s.ncores ∧ s.pwr.trip = false ∧ (s.core c.val).on = false) ∧
    (∃ (s : State) (now : W64), BitVec.toNat s.ts ≤ BitVec.toNat now ∧ heldStarts s = []) ∧
    (∃ (s : State) (now : W64) (t0 : W64), BitVec.toNat s.ts ≤ BitVec.toNat now ∧ s.pwr.coolTs = some t0 ∧ s.pwr.trip = true ∧ s.spr.heldHost = [] ∧ s.ports.rspHeld = [] ∧ (s.pwr.tripHold = true ∨ BitVec.toNat now < BitVec.toNat t0 + 10000000)) ∧
    (∃ (s : State) (now : W64) (t0 : W64) (c : ℕ), BitVec.toNat s.ts ≤ BitVec.toNat now ∧ s.pwr.coolTs = some t0 ∧ s.pwr.trip = true ∧ s.spr.heldHost = [] ∧ s.ports.rspHeld = [] ∧ s.pwr.tripHold = false ∧ BitVec.toNat t0 + 10000000 ≤ BitVec.toNat now ∧ (s.core c).on = true) ∧
    (∃ (s : State) (now : W64) (c : CoreId), BitVec.toNat s.ts ≤ BitVec.toNat now ∧ c.val < s.ncores ∧ s.pwr.trip = false ∧ (s.core c.val).on = true ∧ (s.pwr.throttle.toNat.cast + 5) * 8 ≤ BitVec.toInt (tget 0 s.pwr.coreTemp c.val) ∧ BitVec.toNat (tget 0 s.pwr.lastStep c.val) + 1000000 ≤ BitVec.toNat now) :=
   ⟨⟨(on1 wbase), (3000 : W64), (1 : CoreId), (0 : ℕ), by decide +kernel⟩,
    ⟨(on1 wbase), (3000 : W64), (0 : CoreId), by decide +kernel⟩,
    ⟨(on1 wbase), (3000 : W64), by decide +kernel⟩,
    ⟨trp, (3000 : W64), (500 : W64), by decide +kernel⟩,
    ⟨trp, (900000000 : W64), (500 : W64), (1 : ℕ), by decide +kernel⟩,
    ⟨hot, (900000000 : W64), (1 : CoreId), by decide +kernel⟩⟩

theorem witness_PowerAndHeat_PowerLoops_1 :
    (∃ (s : State) (now : W64) (c : CoreId), BitVec.toNat s.ts ≤ BitVec.toNat now ∧ c.val < s.ncores ∧ s.pwr.trip = false ∧ (s.core c.val).on = true) ∧
    (∃ (s : State) (now : W64) (c : CoreId), BitVec.toNat s.ts ≤ BitVec.toNat now ∧ c.val < s.ncores ∧ s.pwr.trip = false ∧ (s.core c.val).on = false) ∧
    (∃ (s : State) (now : W64), BitVec.toNat s.ts ≤ BitVec.toNat now ∧ BitVec.toNat s.ts < BitVec.toNat s.pwr.calAt + 10000000) ∧
    (∃ (s : State) (now : W64), BitVec.toNat s.ts ≤ BitVec.toNat now ∧ (s.pwr.trip = true ∨ BitVec.toNat now < BitVec.toNat s.pwr.capAt + 100000)) ∧
    (∃ (s : State) (now : W64) (c : ℕ), BitVec.toNat s.ts ≤ BitVec.toNat now ∧ s.pwr.trip = false ∧ BitVec.toNat s.pwr.capAt + 100000 ≤ BitVec.toNat now ∧ s.pwr.cap = 0 ∧ (s.core c).on = true) ∧
    (∃ (s : State) (now : W64) (q : BitVec (OfNat.ofNat 3)) (t0 : W64) (r : RegReading), BitVec.toNat s.ts ≤ BitVec.toNat now ∧ s.pwr.pending = some (q, t0) ∧ r.fault = false ∧ 2 * (r.mv - pointMv q.toNat) ≤ 25 ∧ 2 * (pointMv q.toNat - r.mv) ≤ 25) :=
   ⟨⟨(on1 wbase), (3000 : W64), (1 : CoreId), by decide +kernel⟩,
    ⟨(on1 wbase), (3000 : W64), (0 : CoreId), by decide +kernel⟩,
    ⟨(on1 wbase), (3000 : W64), by decide +kernel⟩,
    ⟨(on1 wbase), (3000 : W64), by decide +kernel⟩,
    ⟨(on1 wbase), (900000000 : W64), (1 : ℕ), by decide +kernel⟩,
    ⟨pnd, (3000 : W64), (4 : BitVec (OfNat.ofNat 3)), (1000 : W64), ({ mv := pointMv 4, mw := 9000, fault := false } : RegReading), by decide +kernel⟩⟩

theorem witness_PowerAndHeat_PowerLoops_2 :
    (∃ (s : State) (now : W64) (q : BitVec (OfNat.ofNat 3)) (t0 : W64) (r : RegReading), BitVec.toNat s.ts ≤ BitVec.toNat now ∧ s.pwr.pending = some (q, t0) ∧ (r.fault = true ∨ 25 < 2 * (r.mv - pointMv q.toNat))) ∧
    (∃ (s : State) (now : W64) (q : BitVec (OfNat.ofNat 3)) (t0 : W64), BitVec.toNat s.ts ≤ BitVec.toNat now ∧ s.pwr.pending = some (q, t0) ∧ BitVec.toNat now < BitVec.toNat t0 + BitVec.toNat s.pwr.ackWait * 1000) ∧
    (∃ (s : State) (now : W64) (q : BitVec (OfNat.ofNat 3)) (t0 : W64) (c : ℕ), BitVec.toNat s.ts ≤ BitVec.toNat now ∧ s.pwr.pending = some (q, t0) ∧ BitVec.toNat t0 + BitVec.toNat s.pwr.ackWait * 1000 ≤ BitVec.toNat now ∧ (s.core c).on = true) ∧
    (∃ (s : State) (now : W64), BitVec.toNat s.ts ≤ BitVec.toNat now ∧ BitVec.toNat s.pwr.calAt + 10000000 ≤ BitVec.toNat s.ts) :=
   ⟨⟨pnd, (3000 : W64), (4 : BitVec (OfNat.ofNat 3)), (1000 : W64), ({ mv := pointMv 4 + 13, mw := 9000, fault := false } : RegReading), by decide +kernel⟩,
    ⟨pnd, (3000 : W64), (4 : BitVec (OfNat.ofNat 3)), (1000 : W64), by decide +kernel⟩,
    ⟨pnd, (900000000 : W64), (4 : BitVec (OfNat.ofNat 3)), (1000 : W64), (1 : ℕ), by decide +kernel⟩,
    ⟨({pnd with ts := 900000000} : State), (900000000 : W64), by decide +kernel⟩⟩

theorem witness_ResetsAndHealth_1 :
    (∃ (s : State) (flow : Bool), s.crp.rnt.on = true ∧ s.rennet.stopped = false ∧ (flow = true ∨ BitVec.toNat s.rennet.wdogAt + 100000000 ≤ BitVec.toNat s.ts)) ∧
    (∃ (s : State) (flow : Bool), (s.crp.rnt.on = false ∨ flow = false ∧ BitVec.toNat s.ts < BitVec.toNat s.rennet.wdogAt + 100000000)) ∧
    (∃ (i : StartInputs), i.rindTorn = false) ∧
    (∃ (s : State), s.crp.rnt.on = true ∧ s.rennet.entropyFail = false) ∧
    (∃ (s : State), s.rennet.drbgOn = true ∧ (65536 ≤ s.rennet.drbgSince ∨ BitVec.toNat s.rennet.reseedAt + 1000000000 ≤ BitVec.toNat s.ts)) ∧
    (∃ (s : State), (s.rennet.drbgOn = false ∨ BitVec.toNat s.ts < BitVec.toNat s.rennet.brineAt + BitVec.toNat s.rennet.brine * 1000)) :=
   ⟨⟨({rn wbase with rennet.drbgSince := 65536} : State), true, by decide +kernel⟩,
    ⟨({rn wbase with rennet.drbgSince := 65536} : State), false, by decide +kernel⟩,
    ⟨(si true), by decide +kernel⟩,
    ⟨({rn wbase with rennet.drbgSince := 65536} : State), by decide +kernel⟩,
    ⟨({rn wbase with rennet.drbgSince := 65536} : State), by decide +kernel⟩,
    ⟨({rn wbase with rennet.drbgSince := 65536} : State), by decide +kernel⟩⟩

theorem witness_ResetsAndHealth_2 :
    (∃ (s : State), (s.rennet.drbgOn = false ∨ s.rennet.drbgSince < 65536 ∧ BitVec.toNat s.ts < BitVec.toNat s.rennet.reseedAt + 1000000000)) ∧
    (∃ (s : State) (i : ℕ), s.crp.rnt.on = true ∧ s.rennet.drbgOn = true ∧ s.spr.pstate ≠ PState.s ∧ s.spr.pstate ≠ PState.o ∧ BitVec.toNat s.rennet.brineAt + BitVec.toNat s.rennet.brine * 1000 ≤ BitVec.toNat s.ts ∧ i < 64) ∧
    (∃ (s : State), s.crp.rnt.on = false) ∧
    (∃ (s : State), s.rennet.entropyFail = true) :=
   ⟨⟨(rn wbase), by decide +kernel⟩,
    ⟨({rn wbase with ts := 9000000000} : State), (3 : ℕ), by decide +kernel⟩,
    ⟨sOff, by decide +kernel⟩,
    ⟨({rn wbase with rennet.entropyFail := true} : State), by decide +kernel⟩⟩

theorem witness_StartUpAndHandOver :
    (∃ (s : State), s.rennet.step = 0 ∧ s.rennet.stopped = false ∧ s.rennet.consec ≠ 3 ∧ (List.range 9).any (fuseLocked s.otp.cells) = false ∧ lcCode s.otp.cells ≠ 4) ∧
    (∃ (s : State) (now : W64), BitVec.toNat s.ts ≤ BitVec.toNat now ∧ (s.rennet.step ≠ 13 ∨ BitVec.toNat now < BitVec.toNat s.rennet.refTs + 38500000)) ∧
    (∃ (s : State) (now : W64), BitVec.toNat s.ts ≤ BitVec.toNat now ∧ (s.rennet.step ≠ 14 ∨ BitVec.toNat now < BitVec.toNat s.rennet.refTs + 40000000)) ∧
    (∃ (s : State), (s.rennet.step ≠ 0 ∨ s.rennet.stopped = true)) ∧
    (∃ (s : State) (now : W64), BitVec.toNat s.ts ≤ BitVec.toNat now ∧ s.rennet.step = 13 ∧ (s.rennet.boot = BootState.verified ∨ s.rennet.boot = BootState.degraded) ∧ s.rennet.wake = false ∧ BitVec.toNat s.rennet.refTs + 38500000 ≤ BitVec.toNat now) ∧
    (∃ (s : State) (now : W64), BitVec.toNat s.ts ≤ BitVec.toNat now ∧ s.rennet.step = 14 ∧ (s.rennet.boot = BootState.verified ∨ s.rennet.boot = BootState.degraded) ∧ s.rennet.wake = false ∧ BitVec.toNat s.rennet.refTs + 40000000 ≤ BitVec.toNat now ∧ s.crp.ctl.on = true ∧ s.crp.net.on = true ∧ s.spr.heldHost = [] ∧ configForms s = []) :=
   ⟨⟨st0, by decide +kernel⟩,
    ⟨st0, (600 : W64), by decide +kernel⟩,
    ⟨st0, (600 : W64), by decide +kernel⟩,
    ⟨wbase, by decide +kernel⟩,
    ⟨(ho .verified 13), (38500010 : W64), by decide +kernel⟩,
    ⟨(ho .verified 14), (40000010 : W64), by decide +kernel⟩⟩

end Power

namespace Bn

def A (sz : Nat) (q gen stream : Bool) (dst s0 s1 s2 mo : Nat) : BnArgs := { size := BitVec.ofNat 2 sz, gen := gen, q := q, dst := BitVec.ofNat 11 dst, src0 := BitVec.ofNat 11 s0, src1 := BitVec.ofNat 11 s1, src2 := BitVec.ofNat 11 s2, modu := BitVec.ofNat 11 mo, stream := stream }
def wr (l : List (Nat × Nat)) : Tbl W32 := l.map (fun e => (e.1, BitVec.ofNat 32 e.2))
def bs (l : List (Nat × Nat)) : State := { wbase with bn.mem := wr l, bn.wiping := false, rennet.drbgOn := true, rennet.cave := [(2, [1,2,3]), (12, [9])] }
def r0 (res : Nat) (cave : Option (Nat × List Byte)) (z : Option (Nat × Nat)) : BnRun := { op := 1, dst := 4, words := [7,8], marks := true, result := BitVec.ofNat 3 res, flag := true, cycles := 20, cave := cave, zeroSrc := z }
def rs (r : BnRun) : State := { bs [(3,1),(4,2),(5,3),(6,4),(10,5)] with bn.run := some r, bn.faults := 1, bn.owner := 2 }
def wp : State := { bs [(3,1)] with bn.wiping := true }
def m8 : List (Nat × Nat) := [(40, 7), (47, 0x80000001)]
def sM (x y : Nat) (m : List (Nat × Nat)) : State := bs ([(0, x), (20, y)] ++ m)
def ow (o : Nat) (s : State) : State := { s with bn.owner := BitVec.ofNat 3 o }
def ndr (s : State) : State := { s with rennet.drbgOn := false }
def lat (l : List (Nat × Nat)) : State := bs l
def sgn (k d r k1 : Nat) : State := bs ([(0, k), (20, r), (40, k1), (60, 5), (71, 0x80000001), (72, d)])

theorem witness_BigNumberControlAndCalls_BigNumberCalls :
    (∃ (s : State) (a : BnArgs), s.bn.run = none ∧ s.bn.wiping = false ∧ bnCallBad s (bnLatch s.bn (Instr.modadd a, 1).2 a) (Instr.modadd a, 1).2 = false ∧ (Instr.modadd a, 1).2 ≠ 9) ∧
    (∃ (s : State) (a : BnArgs), s.bn.run = none ∧ s.bn.wiping = false ∧ bnCallBad s (bnLatch s.bn (Instr.keyload a, 8).2 a) (Instr.keyload a, 8).2 = true) ∧
    (∃ (s : State) (a : BnArgs), s.bn.run = none ∧ s.bn.wiping = false ∧ bnCallBad s (bnLatch s.bn (Instr.randload a, 9).2 a) (Instr.randload a, 9).2 = false) ∧
    (∃ (s : State) (a : BnArgs) (r : BnRun) (w : W32), s.bn.run = none ∧ s.bn.wiping = false ∧ bnCallBad s (bnLatch s.bn (Instr.ntt a, 32).2 a) (Instr.ntt a, 32).2 = false ∧ r.result = 1 ∧ w ∈ r.words) ∧
    (∃ (s : State), (s.bn.run.isSome = true ∨ s.bn.wiping = true)) :=
   ⟨⟨(sM 3 4 m8), (A 0 false false false 12 0 20 0 40), by decide +kernel⟩,
    ⟨(sM 3 4 m8), (A 0 false false false 12 0 20 0 40), by decide +kernel⟩,
    ⟨(sM 3 4 m8), (A 0 false false false 12 0 20 0 40), by decide +kernel⟩,
    ⟨(sM 3 4 m8), (A 3 false false false 0 0 256 0 512), ((nextOf (exec (Instr.ntt (A 3 false false false 0 0 256 0 512), 32).1 (sM 3 4 m8))).bn.run.getD (r0 0 none none) : BnRun), (0 : W32), by decide +kernel⟩,
    ⟨(rs (r0 0 none none)), by decide +kernel⟩⟩

theorem witness_BigNumberControlAndCalls_BigNumberControl_1 :
    (∃ (s : State) (o : BitVec (OfNat.ofNat 3)), o = s.bn.owner) ∧
    (∃ (s : State) (o : BitVec (OfNat.ofNat 3)), o ≠ s.bn.owner) ∧
    (∃ (s : State), s.bn.wiping = false) ∧
    (∃ (s : State) (r : BnRun) (k : ℕ), s.bn.run = some r ∧ (Option.map (fun (x : ℕ × List Byte) => x.1) r.cave ≠ some k)) ∧
    (∃ (s : State) (r : BnRun), s.bn.run = some r ∧ r.zeroSrc = none) ∧
    (∃ (s : State) (r : BnRun), s.bn.run = some r ∧ r.cave = none) :=
   ⟨⟨(rs (r0 0 none none)), (2 : BitVec (OfNat.ofNat 3)), by decide +kernel⟩,
    ⟨(rs (r0 0 none none)), (3 : BitVec (OfNat.ofNat 3)), by decide +kernel⟩,
    ⟨(rs (r0 0 none none)), by decide +kernel⟩,
    ⟨(rs (r0 0 none none)), ((rs (r0 0 none none)).bn.run.getD (r0 0 none none) : BnRun), (2 : ℕ), by decide +kernel⟩,
    ⟨(rs (r0 0 none none)), ((rs (r0 0 none none)).bn.run.getD (r0 0 none none) : BnRun), by decide +kernel⟩,
    ⟨(rs (r0 0 none none)), ((rs (r0 0 none none)).bn.run.getD (r0 0 none none) : BnRun), by decide +kernel⟩⟩

theorem witness_BigNumberControlAndCalls_BigNumberControl_2 :
    (∃ (s : State) (r : BnRun) (f : ℕ) (n : ℕ) (i : ℕ), s.bn.run = some r ∧ r.zeroSrc = some (f, n) ∧ i < n) ∧
    (∃ (s : State) (r : BnRun) (k : ℕ) (v : List Byte), s.bn.run = some r ∧ r.cave = some (k, v)) ∧
    (∃ (s : State), s.bn.wiping = true) ∧
    (∃ (s : State), s.bn.run = none) :=
   ⟨⟨(rs (r0 0 (some (12, [1])) (some (5, 2)))), ((rs (r0 0 (some (12, [1])) (some (5, 2)))).bn.run.getD (r0 0 none none) : BnRun), (5 : ℕ), (2 : ℕ), (0 : ℕ), by decide +kernel⟩,
    ⟨(rs (r0 0 (some (12, [1])) (some (5, 2)))), ((rs (r0 0 (some (12, [1])) (some (5, 2)))).bn.run.getD (r0 0 none none) : BnRun), (12 : ℕ), ([1] : List Byte), by decide +kernel⟩,
    ⟨wp, by decide +kernel⟩,
    ⟨wp, by decide +kernel⟩⟩

theorem witness_KeyAndCurveCommands_1 :
    (∃ (s : State) (a : BnArgs) (n : ℕ), s.bn.run = none ∧ s.bn.wiping = false ∧ a.size.toNat < 3 ∧ n = [8, 12, 18].getD a.size.toNat 0 ∧ bnFits a.dst.toNat n 2 = true ∧ caveAdmits s a.src0.toNat = true ∧ ((s.bn.owner.toNat, a.src0.toNat) ∈ [(2, 2), (2, 3), (3, 5), (3, 6), (5, 7)] ∨ s.bn.owner = 4 ∧ 10 ≤ a.src0.toNat ∧ a.src0.toNat ≤ 15)) ∧
    (∃ (s : State) (a : BnArgs) (n : ℕ), s.bn.run = none ∧ s.bn.wiping = false ∧ a.size.toNat < 3 ∧ n = [8, 12, 18].getD a.size.toNat 0 ∧ bnFits a.dst.toNat n 2 = true ∧ s.rennet.drbgOn = true) ∧
    (∃ (s : State) (a : BnArgs) (k : ℕ) (q : ℕ × ℕ), s.bn.run = none ∧ s.bn.wiping = false ∧ a.size = 1 ∧ k = bnVal s.bn a.src0.toNat 12 ∧ bnFits a.dst.toNat 24 2 = true ∧ bnFits a.src0.toNat 12 2 = true ∧ a.gen = true ∧ 2 ≤ k ∧ k < n384 ∧ ecMulPt k g384 = some q) ∧
    (∃ (s : State) (a : BnArgs), s.bn.run = none ∧ s.bn.wiping = false ∧ a.size = 1 ∧ bnFits a.dst.toNat 24 2 = true ∧ bnFits a.src0.toNat 24 2 = true ∧ bnFits a.src1.toNat 24 2 = true ∧ (∀ i ∈ [a.src0.toNat, a.src0.toNat + 12, a.src1.toNat, a.src1.toNat + 12], bnVal s.bn i 12 < p384)) ∧
    (∃ (s : State) (a : BnArgs) (n : ℕ), s.bn.run = none ∧ s.bn.wiping = false ∧ a.size.toNat < 3 ∧ n = [8, 12, 18].getD a.size.toNat 0 ∧ caveAdmits s a.src0.toNat = false) ∧
    (∃ (s : State) (a : BnArgs) (n : ℕ), s.bn.run = none ∧ s.bn.wiping = false ∧ a.size.toNat < 3 ∧ n = [8, 12, 18].getD a.size.toNat 0 ∧ bnFits a.src0.toNat n 2 = true ∧ caveAdmits s a.dst.toNat = true ∧ (s.bn.owner = 4 ∧ 10 ≤ a.dst.toNat ∧ a.dst.toNat ≤ 15 ∨ s.bn.owner = 5 ∧ 16 ≤ a.dst.toNat ∧ a.dst.toNat ≤ 63)) :=
   ⟨⟨(ow 2 (sM 3 4 m8)), (A 0 false false false 60 2 20 0 40), (8 : ℕ), by decide +kernel⟩,
    ⟨(ow 2 (sM 3 4 m8)), (A 0 false false false 60 2 20 0 40), (8 : ℕ), by decide +kernel⟩,
    ⟨(ow 2 (sM 3 4 m8)), (A 1 false true false 100 0 20 0 40), (bnVal (ow 2 (sM 3 4 m8)).bn (A 1 false true false 100 0 20 0 40).src0.toNat 12), ((ecMulPt (bnVal (ow 2 (sM 3 4 m8)).bn (A 1 false true false 100 0 20 0 40).src0.toNat 12) g384).getD g384), by decide +kernel⟩,
    ⟨(ow 2 (sM 3 4 m8)), (A 1 false true false 100 0 20 0 40), by decide +kernel⟩,
    ⟨({ow 2 (sM 3 4 m8) with rennet.caveOff := true} : State), (A 0 false false false 60 2 20 0 40), (8 : ℕ), by decide +kernel⟩,
    ⟨(ow 4 (sM 3 4 m8)), (A 0 false false false 12 0 20 0 40), (8 : ℕ), by decide +kernel⟩⟩

theorem witness_KeyAndCurveCommands_2 :
    (∃ (s : State) (a : BnArgs) (n : ℕ), s.bn.run = none ∧ s.bn.wiping = false ∧ a.size.toNat < 3 ∧ n = [8, 12, 18].getD a.size.toNat 0 ∧ bnFits a.dst.toNat n 2 = true ∧ caveAdmits s a.src0.toNat = true ∧ (s.bn.owner.toNat < 2 ∨ 5 < s.bn.owner.toNat)) ∧
    (∃ (s : State) (a : BnArgs) (n : ℕ), s.bn.run = none ∧ s.bn.wiping = false ∧ a.size.toNat < 3 ∧ n = [8, 12, 18].getD a.size.toNat 0 ∧ s.rennet.drbgOn = false) ∧
    (∃ (s : State) (a : BnArgs) (k : ℕ), s.bn.run = none ∧ s.bn.wiping = false ∧ a.size = 1 ∧ k = bnVal s.bn a.src0.toNat 12 ∧ bnFits a.dst.toNat 24 2 = true ∧ bnFits a.src0.toNat 12 2 = true ∧ a.gen = true ∧ (k < 2 ∨ n384 ≤ k)) ∧
    (∃ (s : State) (a : BnArgs) (k : ℕ), s.bn.run = none ∧ s.bn.wiping = false ∧ a.size = 1 ∧ k = bnVal s.bn a.src0.toNat 12 ∧ bnFits a.dst.toNat 24 2 = true ∧ bnFits a.src0.toNat 12 2 = true ∧ a.gen = false ∧ bnFits a.src1.toNat 24 2 = true ∧ (k < 2 ∨ n384 ≤ k ∨ p384 ≤ bnVal s.bn a.src1.toNat 12 ∨ p384 ≤ bnVal s.bn (a.src1.toNat + 12) 12)) ∧
    (∃ (s : State) (a : BnArgs), s.bn.run = none ∧ s.bn.wiping = false ∧ a.size = 1 ∧ bnFits a.dst.toNat 24 2 = true ∧ bnFits a.src0.toNat 24 2 = true ∧ bnFits a.src1.toNat 24 2 = true ∧ (∃ i ∈ [a.src0.toNat, a.src0.toNat + 12, a.src1.toNat, a.src1.toNat + 12], p384 ≤ bnVal s.bn i 12)) :=
   ⟨⟨(ow 7 (sM 3 4 m8)), (A 0 false false false 60 2 20 0 40), (8 : ℕ), by decide +kernel⟩,
    ⟨(ndr (bs [])), (A 0 false false false 60 2 20 0 40), (8 : ℕ), by decide +kernel⟩,
    ⟨(ndr (bs [])), (A 1 false true false 100 0 20 0 40), (bnVal (ndr (bs [])).bn (A 1 false true false 100 0 20 0 40).src0.toNat 12), by decide +kernel⟩,
    ⟨(ndr (bs [])), (A 1 false false false 100 0 20 0 40), (bnVal (ndr (bs [])).bn (A 1 false false false 100 0 20 0 40).src0.toNat 12), by decide +kernel⟩,
    ⟨(bs [(0,3),(31,0xFFFFFFFF),(20,0xFFFFFFFF),(21,0xFFFFFFFF),(22,0xFFFFFFFF),(23,0xFFFFFFFF),(24,0xFFFFFFFF),(25,0xFFFFFFFF),(26,0xFFFFFFFF),(27,0xFFFFFFFF),(28,0xFFFFFFFF),(29,0xFFFFFFFF),(30,0xFFFFFFFF)]), (A 1 false true false 100 0 20 0 40), by decide +kernel⟩⟩

theorem witness_KeyAndCurveCommands_3 :
    (∃ (s : State) (a : BnArgs) (m : ℕ) (d : ℕ) (k : ℕ) (r0 : ℕ) (k1 : ℕ), s.bn.run = none ∧ s.bn.wiping = false ∧ a.size = 1 ∧ m = bnVal s.bn a.modu.toNat 12 ∧ d = bnVal s.bn (a.modu.toNat + 12) 12 ∧ k = bnVal s.bn a.src0.toNat 12 ∧ r0 = bnVal s.bn a.src1.toNat 12 ∧ k1 = bnVal s.bn a.src2.toNat 12 ∧ bnFits a.dst.toNat 12 2 = true ∧ bnFits a.src0.toNat 12 2 = true ∧ bnFits a.src1.toNat 12 2 = true ∧ bnFits a.src2.toNat 12 2 = true ∧ bnFits a.modu.toNat 24 2 = true ∧ nbit m 383 = true ∧ m % 2 = 1 ∧ k < m ∧ d < m ∧ 2 ≤ r0 ∧ r0 < m ∧ 2 ≤ k1 ∧ k1 < m) ∧
    (∃ (s : State) (a : BnArgs) (m : ℕ) (d : ℕ) (k : ℕ) (r0 : ℕ) (k1 : ℕ), s.bn.run = none ∧ s.bn.wiping = false ∧ a.size = 1 ∧ m = bnVal s.bn a.modu.toNat 12 ∧ d = bnVal s.bn (a.modu.toNat + 12) 12 ∧ k = bnVal s.bn a.src0.toNat 12 ∧ r0 = bnVal s.bn a.src1.toNat 12 ∧ k1 = bnVal s.bn a.src2.toNat 12 ∧ bnFits a.dst.toNat 12 2 = true ∧ bnFits a.src0.toNat 12 2 = true ∧ bnFits a.src1.toNat 12 2 = true ∧ bnFits a.src2.toNat 12 2 = true ∧ bnFits a.modu.toNat 24 2 = true ∧ nbit m 383 = true ∧ m % 2 = 1 ∧ (r0 < 2 ∨ k1 < 2)) :=
   ⟨⟨(sgn 3 4 5 6), (A 1 false false false 200 0 20 40 60), (bnVal (sgn 3 4 5 6).bn (A 1 false false false 200 0 20 40 60).modu.toNat 12), (bnVal (sgn 3 4 5 6).bn ((A 1 false false false 200 0 20 40 60).modu.toNat + 12) 12), (bnVal (sgn 3 4 5 6).bn (A 1 false false false 200 0 20 40 60).src0.toNat 12), (bnVal (sgn 3 4 5 6).bn (A 1 false false false 200 0 20 40 60).src1.toNat 12), (bnVal (sgn 3 4 5 6).bn (A 1 false false false 200 0 20 40 60).src2.toNat 12), by decide +kernel⟩,
    ⟨(sgn 3 4 1 6), (A 1 false false false 200 0 20 40 60), (bnVal (sgn 3 4 1 6).bn (A 1 false false false 200 0 20 40 60).modu.toNat 12), (bnVal (sgn 3 4 1 6).bn ((A 1 false false false 200 0 20 40 60).modu.toNat + 12) 12), (bnVal (sgn 3 4 1 6).bn (A 1 false false false 200 0 20 40 60).src0.toNat 12), (bnVal (sgn 3 4 1 6).bn (A 1 false false false 200 0 20 40 60).src1.toNat 12), (bnVal (sgn 3 4 1 6).bn (A 1 false false false 200 0 20 40 60).src2.toNat 12), by decide +kernel⟩⟩

theorem witness_LatticeCommands_1 :
    (∃ (s : State) (a : BnArgs) (n : ℕ) (q : ℕ) (x : List ℕ) (y : List ℕ) (z : List ℕ), s.bn.run = none ∧ s.bn.wiping = false ∧ a.size = 3 ∧ (n = if a.q = true then 128 else 256) ∧ (q = if a.q = true then 3329 else 8380417) ∧ x = bnPoly s.bn a.src0.toNat a.q ∧ y = bnPoly s.bn a.src1.toNat a.q ∧ z = bnPoly s.bn a.dst.toNat a.q ∧ bnFits a.dst.toNat n 128 = true ∧ bnFits a.src0.toNat n 128 = true ∧ (a.stream = true ∨ bnFits a.src1.toNat n 128 = true) ∧ a.stream = false ∧ (∀ c ∈ x ++ y ++ (Instr.pmul a, List.zipWith (fun (u v : ℕ) => u * v % q) x y, []).2.2, c < q)) ∧
    (∃ (s : State) (a : BnArgs) (n : ℕ) (q : ℕ) (x : List ℕ) (y : List ℕ) (z : List ℕ), s.bn.run = none ∧ s.bn.wiping = false ∧ a.size = 3 ∧ (n = if a.q = true then 128 else 256) ∧ (q = if a.q = true then 3329 else 8380417) ∧ x = bnPoly s.bn a.src0.toNat a.q ∧ y = bnPoly s.bn a.src1.toNat a.q ∧ z = bnPoly s.bn a.dst.toNat a.q ∧ bnFits a.dst.toNat n 128 = true ∧ bnFits a.src0.toNat n 128 = true ∧ a.q = false ∧ (∀ c ∈ x, c < 524168 ∨ q - 524168 < c ∧ c < q)) :=
   ⟨⟨(lat [(0,5),(1,0x1FF), (260,7)]), (A 3 false false false 0 0 256 0 0), (256 : ℕ), (8380417 : ℕ), (bnPoly (lat [(0,5),(1,0x1FF), (260,7)]).bn (A 3 false false false 0 0 256 0 0).src0.toNat (A 3 false false false 0 0 256 0 0).q), (bnPoly (lat [(0,5),(1,0x1FF), (260,7)]).bn (A 3 false false false 0 0 256 0 0).src1.toNat (A 3 false false false 0 0 256 0 0).q), (bnPoly (lat [(0,5),(1,0x1FF), (260,7)]).bn (A 3 false false false 0 0 256 0 0).dst.toNat (A 3 false false false 0 0 256 0 0).q), by decide +kernel⟩,
    ⟨(lat [(0,5),(1,0x1FF), (260,7)]), (A 3 false false false 0 0 256 0 0), (256 : ℕ), (8380417 : ℕ), (bnPoly (lat [(0,5),(1,0x1FF), (260,7)]).bn (A 3 false false false 0 0 256 0 0).src0.toNat (A 3 false false false 0 0 256 0 0).q), (bnPoly (lat [(0,5),(1,0x1FF), (260,7)]).bn (A 3 false false false 0 0 256 0 0).src1.toNat (A 3 false false false 0 0 256 0 0).q), (bnPoly (lat [(0,5),(1,0x1FF), (260,7)]).bn (A 3 false false false 0 0 256 0 0).dst.toNat (A 3 false false false 0 0 256 0 0).q), by decide +kernel⟩⟩

theorem witness_LatticeCommands_2 :
    (∃ (s : State) (a : BnArgs) (n : ℕ) (q : ℕ) (x : List ℕ) (y : List ℕ) (z : List ℕ), s.bn.run = none ∧ s.bn.wiping = false ∧ a.size = 3 ∧ (n = if a.q = true then 128 else 256) ∧ (q = if a.q = true then 3329 else 8380417) ∧ x = bnPoly s.bn a.src0.toNat a.q ∧ y = bnPoly s.bn a.src1.toNat a.q ∧ z = bnPoly s.bn a.dst.toNat a.q ∧ bnFits a.dst.toNat n 128 = true ∧ bnFits a.src0.toNat n 128 = true ∧ a.q = (Instr.relHigh a, false).2 ∧ (∀ c ∈ x, c < q)) ∧
    (∃ (s : State) (a : BnArgs) (n : ℕ) (q : ℕ) (x : List ℕ) (y : List ℕ) (z : List ℕ), s.bn.run = none ∧ s.bn.wiping = false ∧ a.size = 3 ∧ (n = if a.q = true then 128 else 256) ∧ (q = if a.q = true then 3329 else 8380417) ∧ x = bnPoly s.bn a.src0.toNat a.q ∧ y = bnPoly s.bn a.src1.toNat a.q ∧ z = bnPoly s.bn a.dst.toNat a.q ∧ bnFits a.dst.toNat n 128 = true ∧ bnFits a.src0.toNat n 128 = true ∧ a.q = (Instr.relComp a, false).2) :=
   ⟨⟨(lat [(0,5),(1,0x1FF), (260,7)]), (A 3 false false false 0 0 256 0 0), (256 : ℕ), (8380417 : ℕ), (bnPoly (lat [(0,5),(1,0x1FF), (260,7)]).bn (A 3 false false false 0 0 256 0 0).src0.toNat (A 3 false false false 0 0 256 0 0).q), (bnPoly (lat [(0,5),(1,0x1FF), (260,7)]).bn (A 3 false false false 0 0 256 0 0).src1.toNat (A 3 false false false 0 0 256 0 0).q), (bnPoly (lat [(0,5),(1,0x1FF), (260,7)]).bn (A 3 false false false 0 0 256 0 0).dst.toNat (A 3 false false false 0 0 256 0 0).q), by decide +kernel⟩,
    ⟨(lat [(0,5),(1,0x1FF), (260,7)]), (A 3 false false false 0 0 256 0 0), (256 : ℕ), (8380417 : ℕ), (bnPoly (lat [(0,5),(1,0x1FF), (260,7)]).bn (A 3 false false false 0 0 256 0 0).src0.toNat (A 3 false false false 0 0 256 0 0).q), (bnPoly (lat [(0,5),(1,0x1FF), (260,7)]).bn (A 3 false false false 0 0 256 0 0).src1.toNat (A 3 false false false 0 0 256 0 0).q), (bnPoly (lat [(0,5),(1,0x1FF), (260,7)]).bn (A 3 false false false 0 0 256 0 0).dst.toNat (A 3 false false false 0 0 256 0 0).q), by decide +kernel⟩⟩

theorem witness_LatticeCommands_3 :
    (∃ (s : State) (a : BnArgs) (n : ℕ) (q : ℕ) (x : List ℕ) (y : List ℕ) (z : List ℕ), s.bn.run = none ∧ s.bn.wiping = false ∧ a.size = 3 ∧ (n = if a.q = true then 128 else 256) ∧ (q = if a.q = true then 3329 else 8380417) ∧ x = bnPoly s.bn a.src0.toNat a.q ∧ y = bnPoly s.bn a.src1.toNat a.q ∧ z = bnPoly s.bn a.dst.toNat a.q ∧ bnFits a.dst.toNat n 128 = true ∧ bnFits a.src0.toNat n 128 = true ∧ (a.stream = true ∨ bnFits a.src1.toNat n 128 = true) ∧ a.q = true ∧ a.stream = false ∧ (∀ c ∈ x ++ y, c < q)) ∧
    (∃ (s : State) (a : BnArgs) (n : ℕ) (q : ℕ) (x : List ℕ) (y : List ℕ) (z : List ℕ), s.bn.run = none ∧ s.bn.wiping = false ∧ a.size = 3 ∧ (n = if a.q = true then 128 else 256) ∧ (q = if a.q = true then 3329 else 8380417) ∧ x = bnPoly s.bn a.src0.toNat a.q ∧ y = bnPoly s.bn a.src1.toNat a.q ∧ z = bnPoly s.bn a.dst.toNat a.q ∧ bnFits a.dst.toNat n 128 = true ∧ bnFits a.src0.toNat n 128 = true ∧ (a.stream = true ∨ bnFits a.src1.toNat n 128 = true) ∧ a.stream = false ∧ (∃ c ∈ x ++ y ++ (Instr.pmul a, List.zipWith (fun (u v : ℕ) => u * v % q) x y, []).2.2, q ≤ c)) :=
   ⟨⟨(lat [(0,5),(1,0x1FF), (260,7)]), (A 3 true false false 0 0 128 0 0), (128 : ℕ), (3329 : ℕ), (bnPoly (lat [(0,5),(1,0x1FF), (260,7)]).bn (A 3 true false false 0 0 128 0 0).src0.toNat (A 3 true false false 0 0 128 0 0).q), (bnPoly (lat [(0,5),(1,0x1FF), (260,7)]).bn (A 3 true false false 0 0 128 0 0).src1.toNat (A 3 true false false 0 0 128 0 0).q), (bnPoly (lat [(0,5),(1,0x1FF), (260,7)]).bn (A 3 true false false 0 0 128 0 0).dst.toNat (A 3 true false false 0 0 128 0 0).q), by decide +kernel⟩,
    ⟨(lat [(0,8380416),(3,524168),(300,8380417)]), (A 3 false false false 0 0 256 0 0), (256 : ℕ), (8380417 : ℕ), (bnPoly (lat [(0,8380416),(3,524168),(300,8380417)]).bn (A 3 false false false 0 0 256 0 0).src0.toNat (A 3 false false false 0 0 256 0 0).q), (bnPoly (lat [(0,8380416),(3,524168),(300,8380417)]).bn (A 3 false false false 0 0 256 0 0).src1.toNat (A 3 false false false 0 0 256 0 0).q), (bnPoly (lat [(0,8380416),(3,524168),(300,8380417)]).bn (A 3 false false false 0 0 256 0 0).dst.toNat (A 3 false false false 0 0 256 0 0).q), by decide +kernel⟩⟩

theorem witness_LatticeCommands_4 :
    (∃ (s : State) (a : BnArgs) (n : ℕ) (q : ℕ) (x : List ℕ) (y : List ℕ) (z : List ℕ), s.bn.run = none ∧ s.bn.wiping = false ∧ a.size = 3 ∧ (n = if a.q = true then 128 else 256) ∧ (q = if a.q = true then 3329 else 8380417) ∧ x = bnPoly s.bn a.src0.toNat a.q ∧ y = bnPoly s.bn a.src1.toNat a.q ∧ z = bnPoly s.bn a.dst.toNat a.q ∧ bnFits a.dst.toNat n 128 = true ∧ bnFits a.src0.toNat n 128 = true ∧ a.q = false ∧ (∀ c ∈ x, c < q) ∧ (∃ c ∈ x, 524168 ≤ c ∧ c ≤ q - 524168)) ∧
    (∃ (s : State) (a : BnArgs) (n : ℕ) (q : ℕ) (x : List ℕ) (y : List ℕ) (z : List ℕ), s.bn.run = none ∧ s.bn.wiping = false ∧ a.size = 3 ∧ (n = if a.q = true then 128 else 256) ∧ (q = if a.q = true then 3329 else 8380417) ∧ x = bnPoly s.bn a.src0.toNat a.q ∧ y = bnPoly s.bn a.src1.toNat a.q ∧ z = bnPoly s.bn a.dst.toNat a.q ∧ bnFits a.dst.toNat n 128 = true ∧ bnFits a.src0.toNat n 128 = true ∧ a.q = (Instr.relComp a, true).2 ∧ (∃ c ∈ x, q ≤ c)) :=
   ⟨⟨(lat [(0,8380416),(3,524168),(300,8380417)]), (A 3 false false false 0 0 256 0 0), (256 : ℕ), (8380417 : ℕ), (bnPoly (lat [(0,8380416),(3,524168),(300,8380417)]).bn (A 3 false false false 0 0 256 0 0).src0.toNat (A 3 false false false 0 0 256 0 0).q), (bnPoly (lat [(0,8380416),(3,524168),(300,8380417)]).bn (A 3 false false false 0 0 256 0 0).src1.toNat (A 3 false false false 0 0 256 0 0).q), (bnPoly (lat [(0,8380416),(3,524168),(300,8380417)]).bn (A 3 false false false 0 0 256 0 0).dst.toNat (A 3 false false false 0 0 256 0 0).q), by decide +kernel⟩,
    ⟨(lat [(0,8380416),(3,524168),(300,8380417)]), (A 3 true false false 0 0 128 0 0), (128 : ℕ), (3329 : ℕ), (bnPoly (lat [(0,8380416),(3,524168),(300,8380417)]).bn (A 3 true false false 0 0 128 0 0).src0.toNat (A 3 true false false 0 0 128 0 0).q), (bnPoly (lat [(0,8380416),(3,524168),(300,8380417)]).bn (A 3 true false false 0 0 128 0 0).src1.toNat (A 3 true false false 0 0 128 0 0).q), (bnPoly (lat [(0,8380416),(3,524168),(300,8380417)]).bn (A 3 true false false 0 0 128 0 0).dst.toNat (A 3 true false false 0 0 128 0 0).q), by decide +kernel⟩⟩

theorem witness_ModularCommands_1 :
    (∃ (s : State) (a : BnArgs) (n : ℕ) (x : ℕ) (y : ℕ) (m : ℕ), s.bn.run = none ∧ s.bn.wiping = false ∧ a.size.toNat < 3 ∧ n = [8, 12, 18].getD a.size.toNat 0 ∧ x = bnVal s.bn a.src0.toNat n ∧ y = bnVal s.bn a.src1.toNat n ∧ m = bnVal s.bn a.modu.toNat n ∧ bnFits a.dst.toNat n 2 = true ∧ bnFits a.src0.toNat n 2 = true ∧ bnFits a.src1.toNat n 2 = true ∧ bnFits a.modu.toNat n 2 = true ∧ nbit m (32 * n - 1) = true ∧ a.size.toNat < 2 ∧ bnFits a.src0.toNat 18 2 = true) ∧
    (∃ (s : State) (a : BnArgs) (n : ℕ) (x : ℕ) (y : ℕ) (m : ℕ), s.bn.run = none ∧ s.bn.wiping = false ∧ a.size.toNat < 3 ∧ n = [8, 12, 18].getD a.size.toNat 0 ∧ x = bnVal s.bn a.src0.toNat n ∧ y = bnVal s.bn a.src1.toNat n ∧ m = bnVal s.bn a.modu.toNat n ∧ bnFits a.dst.toNat n 2 = true ∧ bnFits a.src0.toNat n 2 = true ∧ bnFits a.src1.toNat n 2 = true ∧ bnFits a.modu.toNat n 2 = true ∧ nbit m (32 * n - 1) = true ∧ a.size.toNat < 2 ∧ m % 2 = 1 ∧ 2 ≤ x ∧ x < m ∧ y < m) ∧
    (∃ (s : State) (a : BnArgs) (n : ℕ) (x : ℕ) (y : ℕ) (m : ℕ), s.bn.run = none ∧ s.bn.wiping = false ∧ a.size.toNat < 3 ∧ n = [8, 12, 18].getD a.size.toNat 0 ∧ x = bnVal s.bn a.src0.toNat n ∧ y = bnVal s.bn a.src1.toNat n ∧ m = bnVal s.bn a.modu.toNat n ∧ bnFits a.dst.toNat n 2 = true ∧ bnFits a.src0.toNat n 2 = true ∧ bnFits a.src1.toNat n 2 = true ∧ bnFits a.modu.toNat n 2 = true ∧ nbit m (32 * n - 1) = true ∧ a.size.toNat < 2 ∧ m % 2 = 1 ∧ (x < 2 ∨ m ≤ x ∨ m ≤ y)) :=
   ⟨⟨(sM 3 4 m8), (A 0 false false false 60 0 20 0 40), (8 : ℕ), (bnVal (sM 3 4 m8).bn (A 0 false false false 60 0 20 0 40).src0.toNat (8 : ℕ)), (bnVal (sM 3 4 m8).bn (A 0 false false false 60 0 20 0 40).src1.toNat (8 : ℕ)), (bnVal (sM 3 4 m8).bn (A 0 false false false 60 0 20 0 40).modu.toNat (8 : ℕ)), by decide +kernel⟩,
    ⟨(sM 3 4 m8), (A 0 false false false 60 0 20 0 40), (8 : ℕ), (bnVal (sM 3 4 m8).bn (A 0 false false false 60 0 20 0 40).src0.toNat (8 : ℕ)), (bnVal (sM 3 4 m8).bn (A 0 false false false 60 0 20 0 40).src1.toNat (8 : ℕ)), (bnVal (sM 3 4 m8).bn (A 0 false false false 60 0 20 0 40).modu.toNat (8 : ℕ)), by decide +kernel⟩,
    ⟨(sM 1 4 m8), (A 0 false false false 60 0 20 0 40), (8 : ℕ), (bnVal (sM 1 4 m8).bn (A 0 false false false 60 0 20 0 40).src0.toNat (8 : ℕ)), (bnVal (sM 1 4 m8).bn (A 0 false false false 60 0 20 0 40).src1.toNat (8 : ℕ)), (bnVal (sM 1 4 m8).bn (A 0 false false false 60 0 20 0 40).modu.toNat (8 : ℕ)), by decide +kernel⟩⟩

theorem witness_ModularCommands_2 :
    (∃ (s : State) (a : BnArgs) (n : ℕ) (x : ℕ) (y : ℕ) (m : ℕ), s.bn.run = none ∧ s.bn.wiping = false ∧ a.size.toNat < 3 ∧ n = [8, 12, 18].getD a.size.toNat 0 ∧ x = bnVal s.bn a.src0.toNat n ∧ y = bnVal s.bn a.src1.toNat n ∧ m = bnVal s.bn a.modu.toNat n ∧ bnFits a.dst.toNat n 2 = true ∧ bnFits a.src0.toNat n 2 = true ∧ bnFits a.src1.toNat n 2 = true ∧ bnFits a.modu.toNat n 2 = true ∧ nbit m (32 * n - 1) = true ∧ a.size.toNat < 2 ∧ m % 2 = 1 ∧ (x < 2 ∨ m ≤ x)) ∧
    (∃ (s : State) (a : BnArgs) (n : ℕ) (x : ℕ) (y : ℕ) (m : ℕ), s.bn.run = none ∧ s.bn.wiping = false ∧ a.size.toNat < 3 ∧ n = [8, 12, 18].getD a.size.toNat 0 ∧ x = bnVal s.bn a.src0.toNat n ∧ y = bnVal s.bn a.src1.toNat n ∧ m = bnVal s.bn a.modu.toNat n ∧ bnFits a.dst.toNat n 2 = true ∧ bnFits a.src0.toNat n 2 = true ∧ bnFits a.src1.toNat n 2 = true ∧ bnFits a.modu.toNat n 2 = true ∧ nbit m (32 * n - 1) = true ∧ m % 2 = 1 ∧ (m ≤ x ∨ m ≤ y)) :=
   ⟨⟨(sM 1 4 m8), (A 0 false false false 60 0 20 0 40), (8 : ℕ), (bnVal (sM 1 4 m8).bn (A 0 false false false 60 0 20 0 40).src0.toNat (8 : ℕ)), (bnVal (sM 1 4 m8).bn (A 0 false false false 60 0 20 0 40).src1.toNat (8 : ℕ)), (bnVal (sM 1 4 m8).bn (A 0 false false false 60 0 20 0 40).modu.toNat (8 : ℕ)), by decide +kernel⟩,
    ⟨(bs ([(0,3),(17,0x90000000),(20,5),(40,7),(57,0x80000001)])), (A 2 false false false 60 0 20 0 40), (18 : ℕ), (bnVal (bs ([(0,3),(17,0x90000000),(20,5),(40,7),(57,0x80000001)])).bn (A 2 false false false 60 0 20 0 40).src0.toNat (18 : ℕ)), (bnVal (bs ([(0,3),(17,0x90000000),(20,5),(40,7),(57,0x80000001)])).bn (A 2 false false false 60 0 20 0 40).src1.toNat (18 : ℕ)), (bnVal (bs ([(0,3),(17,0x90000000),(20,5),(40,7),(57,0x80000001)])).bn (A 2 false false false 60 0 20 0 40).modu.toNat (18 : ℕ)), by decide +kernel⟩⟩

end Bn

namespace Mgmt

def mgs (i3 : Bool) : State := { wbase with ports.mgI3c := i3, chip.strapMg := 9, ports.mwl := 0x1234, ports.nacked := true, ports.rptIbi := true }
def pst (p : PState) : State := { mgs true with spr.pstate := p }
def mf (s : State) : State := s.modMbx 65 (fun x => { x with outFull := true })
def mv (s : State) : State := s.modMbx 65 (fun x => { x with inValid := true })
def rr : ReportRec := { code := 5, severity := 0, ptag := 0, seq := 0, device := 0, unit := 0, opcode := 0, task := 0, tile := 0, handle := 0, ts := 0, ext := 0, tj := 0, vcore := 0, detail := 0, data := 0, rindSeq := 0, repeats := 0 }
def rq : State := { mgs true with rel.mgmtQ := [.own rr, .foreign [1]] }
def dbg (r : Nat) : State := { wbase with rennet.debugRights := BitVec.ofNat 5 r }

theorem witness_ManagementPort_CommonCommands :
    (∃ (s : State), s.spr.pstate = PState.a ∧ s.spr.draining = none) ∧
    (∃ (s : State) (s0 : State), s0 = { s with ports := { (s.ports) with nacked := false } } ∧ s.spr.pstate ≠ PState.o ∧ s.ports.mgI3c = true) ∧
    (∃ (s : State) (static_ : BitVec (OfNat.ofNat 7)) (s0 : State), s0 = { s with ports := { (s.ports) with nacked := false } } ∧ s.spr.pstate ≠ PState.o ∧ static_ ≠ s.chip.strapMg) ∧
    (∃ (s : State) (static_ : BitVec (OfNat.ofNat 7)) (s0 : State), s0 = { s with ports := { (s.ports) with nacked := false } } ∧ s.spr.pstate ≠ PState.o ∧ static_ = s.chip.strapMg ∧ s.ports.mgI3c = false) ∧
    (∃ (s : State), s.spr.pstate = PState.o) :=
   ⟨⟨(mgs true), by decide +kernel⟩,
    ⟨(mgs true), ({ (mgs true) with ports.nacked := false } : State), by decide +kernel⟩,
    ⟨(mgs true), (8 : BitVec (OfNat.ofNat 7)), ({ (mgs true) with ports.nacked := false } : State), by decide +kernel⟩,
    ⟨(mgs false), (9 : BitVec (OfNat.ofNat 7)), ({ (mgs false) with ports.nacked := false } : State), by decide +kernel⟩,
    ⟨(pst .o), by decide +kernel⟩⟩

theorem witness_ManagementPort_ManagementCommands_1 :
    (∃ (s : State) (s0 : State) (ws : List W32) (now : W64), s.spr.pstate ≠ PState.o ∧ s0 = { s with ports := { (s.ports) with nacked := false } } ∧ BitVec.toNat s.ts ≤ BitVec.toNat now ∧ (s.mbx 65).outFull = false ∧ mailCodes.contains (BitVec.toNat (ws.getD 0 0) % 65536) = true) ∧
    (∃ (s : State) (s0 : State), s.spr.pstate ≠ PState.o ∧ s0 = { s with ports := { (s.ports) with nacked := false } } ∧ s.rel.mgmtQ = []) ∧
    (∃ (s : State) (s0 : State) (v : Byte), s.spr.pstate ≠ PState.o ∧ s0 = { s with ports := { (s.ports) with nacked := false } } ∧ v ≠ 4 ∧ v ≠ 5 ∧ s.spr.draining = none) ∧
    (∃ (s : State) (s0 : State), s.spr.pstate ≠ PState.o ∧ s0 = { s with ports := { (s.ports) with nacked := false } } ∧ s.spr.pstate = PState.a ∧ 15 ≤ s.rennet.step ∧ (s.spr.draining.isSome && s.spr.isoDone) = false) ∧
    (∃ (s : State) (s0 : State) (now : W64), s.spr.pstate ≠ PState.o ∧ s0 = { s with ports := { (s.ports) with nacked := false } } ∧ BitVec.toNat s.ts ≤ BitVec.toNat now ∧ (s.mbx 65).outFull = true) ∧
    (∃ (s : State) (s0 : State), s.spr.pstate ≠ PState.o ∧ s0 = { s with ports := { (s.ports) with nacked := false } } ∧ (s.mbx 65).inValid = true ∧ (s.mbx 65).reply = none) :=
   ⟨⟨(mgs true), ({ (mgs true) with ports.nacked := false } : State), ([1,2,3] : List W32), (600 : W64), by decide +kernel⟩,
    ⟨(mgs true), ({ (mgs true) with ports.nacked := false } : State), by decide +kernel⟩,
    ⟨(mgs true), ({ (mgs true) with ports.nacked := false } : State), (3 : Byte), by decide +kernel⟩,
    ⟨(mgs true), ({ (mgs true) with ports.nacked := false } : State), by decide +kernel⟩,
    ⟨(mf (mgs true)), ({ (mf (mgs true)) with ports.nacked := false } : State), (600 : W64), by decide +kernel⟩,
    ⟨(mv (mgs true)), ({ (mv (mgs true)) with ports.nacked := false } : State), by decide +kernel⟩⟩

theorem witness_ManagementPort_ManagementCommands_2 :
    (∃ (s : State) (s0 : State) (r : ReportRec) (q : List QueuedReport), s.spr.pstate ≠ PState.o ∧ s0 = { s with ports := { (s.ports) with nacked := false } } ∧ s.rel.mgmtQ = QueuedReport.own r :: q) ∧
    (∃ (s : State) (s0 : State), s.spr.pstate ≠ PState.o ∧ s0 = { s with ports := { (s.ports) with nacked := false } } ∧ (s.spr.pstate = PState.i ∨ s.spr.pstate = PState.t ∨ s.spr.pstate = PState.s)) :=
   ⟨⟨rq, ({ rq with ports.nacked := false } : State), rr, (rq.rel.mgmtQ.drop 1), by decide +kernel⟩,
    ⟨(pst .t), ({ (pst .t) with ports.nacked := false } : State), by decide +kernel⟩⟩

theorem witness_TapInstructions :
    (∃ (s : State) (ir : BitVec (OfNat.ofNat 8)), (s.rennet.debugRights = 0 ∨ ir.toNat < 32 ∨ 47 < ir.toNat)) ∧
    (∃ (s : State) (ir : BitVec (OfNat.ofNat 8)), nbits s.rennet.debugRights.toNat 4 0 = 31 ∧ 32 ≤ ir.toNat ∧ ir.toNat ≤ 47) :=
   ⟨⟨(dbg 31), (0x30 : BitVec (OfNat.ofNat 8)), by decide +kernel⟩,
    ⟨(dbg 31), (0x20 : BitVec (OfNat.ofNat 8)), by decide +kernel⟩⟩

end Mgmt

namespace Late

def dr (s : State) : State := { s with rennet.boot := .verified, otp.lc := 1 }
def sLD (v : Bool) (o : Nat) : State := { dr (wcmd 0x0C03 3 []) with att.lics := [(3, { valid := v, part := o })] }
def sLDu : State := { sLD true 0 with mem.maps := [(0, [(0, { wblk 0 with isSealed := true, lic := 3 })])] }
def r0 : BnRun := { op := 1, dst := 4, words := [7,8], marks := true, result := 0, flag := true, cycles := 20 }
def bb : State := { wbase with bn.run := some r0, bn.owner := 2, bn.mem := [(0,3),(2047,4)] }
def ev : EventReg := { flags := 0xFFFFFFFF, recur := 255 }
def e2 : EventReg := { flags := 5, recur := 3 }
def sE : State := { wbase with otp.events := ev, crp.events := e2, rel.events := e2, bn.events := ev }
def sOn : State := (({ sE with cores := [] }).modCore 0 (fun k => { k with on := true, events := ev })).modEngine 0 7 (fun e => { e with events := e2 })

theorem witness_BusyBigNumberIgnoresWrites :
    (∃ (s : State) (w : ℕ), (s.bn.run.isSome = true ∨ s.bn.wiping = true) ∧ w < 2048) ∧
    (∃ (s : State) (d : W32), (s.bn.run.isSome = true ∨ s.bn.wiping = true) ∧ BitVec.getLsbD d 0 = true ∧ BitVec.getLsbD d 1 = false ∧ nbits (BitVec.toNat d) 6 4 = s.bn.owner.toNat) :=
   ⟨⟨bb, (0 : ℕ), by decide +kernel⟩,
    ⟨bb, (0x21 : W32), by decide +kernel⟩⟩

theorem witness_LicenceDropSparesUsedSlots :
    (∃ (s : State) (p : PartId) (k : Packet), Starts s p 3075 k ∧ hasRight s p.val 6 = true ∧ formCheck k 0 0 [] = none ∧ (s.lic (BitVec.toNat (pktObj k))).valid = true ∧ (s.lic (BitVec.toNat (pktObj k))).part = p.val ∧ (¬∃ m ∈ s.mem.maps, ∃ b ∈ m.2, b.2.isSealed = true ∧ b.2.state ≠ BlockState.unmapped ∧ b.2.lic = BitVec.toNat (pktObj k))) ∧
    (∃ (s : State) (p : PartId) (k : Packet), Starts s p 3075 k ∧ hasRight s p.val 6 = true ∧ formCheck k 0 0 [] = none ∧ (s.lic (BitVec.toNat (pktObj k))).valid = true ∧ (s.lic (BitVec.toNat (pktObj k))).part = p.val ∧ (∃ m ∈ s.mem.maps, ∃ b ∈ m.2, b.2.isSealed = true ∧ b.2.state ≠ BlockState.unmapped ∧ b.2.lic = BitVec.toNat (pktObj k))) :=
   ⟨⟨(sLD true 0), (0 : PartId), (kOf (sLD true 0)), by decide +kernel⟩,
    ⟨sLDu, (0 : PartId), (kOf sLDu), by decide +kernel⟩⟩

theorem witness_W1cJudgedBitByBit :
    (∃ (s : State) (init : Requester), legalCores s.ncores = true ∧ (mayWrite s init (36, 63, fun (s : State) => s.otp.events).1 = true)) ∧
    (∃ (s : State) (init : Requester) (m : Fin (OfNat.ofNat 64)), legalCores s.ncores = true ∧ mayWrite s init (589896 + m.val * 128) = true) ∧
    (∃ (s : State) (init : Requester) (n : Fin (OfNat.ofNat 24)), legalCores s.ncores = true ∧ mayWrite s init (655364 + n.val * 32) = true) ∧
    (∃ (s : State) (init : Requester) (p : PartId), legalCores s.ncores = true ∧ mayWrite s init ((128 + p.val) * 65536 + 8) = true) ∧
    (∃ (s : State) (init : Requester) (c : CoreId), legalCores s.ncores = true ∧ c.val < s.ncores ∧ (s.core c.val).on = true ∧ mayWrite s init ((16 + c.val) * 65536 + 8) = true) ∧
    (∃ (s : State) (init : Requester) (c : CoreId) (e : EngId), legalCores s.ncores = true ∧ c.val < s.ncores ∧ (s.core c.val).on = true ∧ mayWrite s init ((16 + c.val) * 65536 + 1028 + e.val * 32) = true) :=
   ⟨⟨sE, (byIsland 1), by decide +kernel⟩,
    ⟨sE, (byIsland 1), (0 : Fin (OfNat.ofNat 64)), by decide +kernel⟩,
    ⟨sE, (byIsland 1), (0 : Fin (OfNat.ofNat 24)), by decide +kernel⟩,
    ⟨sE, (byIsland 1), (0 : PartId), by decide +kernel⟩,
    ⟨sOn, (byIsland 1), (0 : CoreId), by decide +kernel⟩,
    ⟨sOn, (byIsland 1), (0 : CoreId), (0 : EngId), by decide +kernel⟩⟩

end Late

end Sys2Proof.Tests
end

section
/-! The scope family (00_scope.md): how `exec` ends, said once for every command, and the five statements about the queue, the core count, the state after reset and the cores that are missing or stopped. -/

namespace Sys2Proof.Machine

/-! ### Which commands are events of a core -/

/-- The core of an event of a core's clocked logic, which a critical trip stops (R619). -/
def clockedCoreOf : Instr → Option Nat
  | .operandsReady c _ | .matmul c _ | .conv c _ | .convDw c _ | .attn c _ | .attnMerge c _ | .normRms c _ | .normLayer c _ | .rope c _
  | .gateExperts c _ | .combine c _ | .quant c _ | .dequant c _ | .elem c _ | .reduce c _ | .topk c _ | .moveTask c | .decompress c
  | .promoteTask c _ | .waitForCadence c _ | .waitExpire c _ _ | .signalTask c _ | .fabricBarrier c _ | .tileComplete c _ _ | .taskDone c _
  | .signalArrive c _ | .coreDoneArrive c _ _ | .residueRepeatDone c _ _ | .duplicateDone c _ _ | .forceWaitExpire c _
  | .settleTileDone c _ _ | .ageRise c _ _ | .phaseClassify c _ | .droop c _ | .droopRecover c _ | .throttleStep c _ => some c.val
  | _ => none

/-- The core of the other events of a core: those outside its clocked logic. -/
def unclockedCoreOf : Instr → Option Nat
  | .taskDispatch c | .taskReleaseTime c _ _ | .taskDeadline c _ _ | .barrierTimeout c _ _ | .ctxParity c _ | .coreReset c | .engineFence c _
  | .memResponse c _ | .thermalSample (.core c) _ _ | .thermalTrip (.core c) _ | .pllUnlock (.core c _) | .pllRelock (.core c _)
  | .spareRelocked (.core c _) | .powerDomainAck (.core c) _ _ => some c.val
  | _ => none

/-- The core whose event a command is (R4). -/
def coreOf (i : Instr) : Option Nat := clockedCoreOf i <|> unclockedCoreOf i

theorem exec_of_clockedCoreOf {i : Instr} {c : Nat} (s : State) (h : clockedCoreOf i = some c) : ∃ f, exec i s = endsClocked s c f := by
  unfold clockedCoreOf at h
  split at h <;> cases h <;> exact ⟨_, rfl⟩

/-- The queue and the core count do not depend on the time. -/
theorem endsCore_advance (s : State) (now : W64) (c : Nat) (f : State) : endsCore (s.advance now) c f = endsCore s c f := by
  unfold State.advance
  split <;> rfl

theorem exec_taskReleaseTime (c : CoreId) (x : CtxId) (now : W64) (s : State) : ∃ f, exec (.taskReleaseTime c x now) s = endsCore s c f :=
  ⟨_, endsCore_advance s now c _⟩

theorem exec_of_unclockedCoreOf {i : Instr} {c : Nat} (s : State) (h : unclockedCoreOf i = some c) : ∃ f, exec i s = endsCore s c f := by
  unfold unclockedCoreOf at h
  split at h
  case h_2 => cases h; exact exec_taskReleaseTime ..
  all_goals cases h <;> exact ⟨_, rfl⟩

theorem exec_of_coreOf {i : Instr} {c : Nat} (s : State) (h : coreOf i = some c) : ∃ f, exec i s = endsCore s c f := by
  rcases (Option.orElse_eq_some ..).mp h with h | ⟨-, h⟩
  · obtain ⟨f, hf⟩ := exec_of_clockedCoreOf s h
    exact ⟨if s.pwr.trip then s else f, hf⟩
  · exact exec_of_unclockedCoreOf s h

/-- An event of a core that the configuration lacks is a fault (R4). -/
theorem exec_of_coreOf_missing {i : Instr} {c : Nat} {s : State} (h : coreOf i = some c) (hc : s.ncores ≤ c) : exec i s = .fault .noSuchUnit := by
  obtain ⟨f, hf⟩ := exec_of_coreOf s h
  rw [hf, endsCore, if_neg (by omega)]

/-- A critical trip stops the clocked logic of the cores: its events have no effect (R619). -/
theorem exec_of_clockedCoreOf_trip {i : Instr} {c : Nat} {s : State} (h : clockedCoreOf i = some c) (ht : s.pwr.trip = true) (hc : c < s.ncores) :
    exec i s = .next s := by
  obtain ⟨f, hf⟩ := exec_of_clockedCoreOf s h
  rw [hf, endsClocked, endsCore, if_pos hc, if_pos ht]
  rfl

/-! ### Commands that are no event of a core -/

theorem watchRun_ends (op : Nat) (body : State → List Byte → State) (s : State) : ∃ f, watchRun op body s = ends s f := by
  unfold watchRun
  dsimp only
  split <;> exact ⟨_, rfl⟩

/-- A debug access answers its effect, or is refused where the manual gives no unit (R659). -/
theorem execTapDebugAccess_cases (ir : BitVec 8) (write : Bool) (addr : W64) (data : W32) (s : State) :
    (∃ f, execTapDebugAccess ir write addr data s = ends s f) ∨ execTapDebugAccess ir write addr data s = .refused .debugUnitUnspecified := by
  unfold execTapDebugAccess
  dsimp only
  split
  · exact .inl ⟨_, rfl⟩
  · split
    · exact .inl ⟨_, rfl⟩
    · split
      · exact .inl ⟨_, rfl⟩
      · exact .inr rfl

/-- The ways a command can end: with its effect, the queue and the core count kept; with a fault, as an event of a core that the configuration lacks; or refused, as a debug access. -/
theorem exec_cases (i : Instr) (s : State) :
    (∃ f, exec i s = ends s f) ∨ (∃ c, coreOf i = some c ∧ s.ncores ≤ c ∧ exec i s = .fault .noSuchUnit) ∨
      (∃ ir write addr data, i = .tapDebugAccess ir write addr data ∧ exec i s = .refused .debugUnitUnspecified) := by
  cases hc : coreOf i with
  | some c =>
    obtain ⟨f, hf⟩ := exec_of_coreOf s hc
    rcases endsCore_cases s c f with ⟨-, e⟩ | ⟨hn, e⟩
    · exact .inl ⟨f, hf.trans e⟩
    · exact .inr (.inl ⟨c, rfl, hn, hf.trans e⟩)
  | none =>
    cases i
    case tapDebugAccess ir write addr data =>
      rcases execTapDebugAccess_cases ir write addr data s with h | h
      · exact .inl h
      · exact .inr (.inr ⟨ir, write, addr, data, rfl, h⟩)
    case watchPktWindow | watchEnergy | watchBand | watchFeat | watchDense | watchScore | watchTest => exact .inl (watchRun_ends _ _ s)
    case watchEnd => exact .inl (watchRun_ends 8 (fun s _ => endProgram s) s)
    case thermalSample u _ _ | thermalTrip u _ | pllUnlock u | pllRelock u | spareRelocked u | powerDomainAck u _ _ =>
      cases u <;> cases hc <;> exact .inl ⟨_, rfl⟩
    all_goals cases hc -- an event of a core has `coreOf` at some core, against `hc`
    all_goals exact .inl ⟨_, rfl⟩

/-- A command that answers a next state keeps the queue and the core count. -/
theorem exec_next {i : Instr} {s t : State} (h : exec i s = .next t) : t.pending = s.pending ∧ t.ncores = s.ncores := by
  rcases exec_cases i s with ⟨f, e⟩ | ⟨c, -, -, e⟩ | ⟨ir, write, addr, data, -, e⟩ <;> rw [e] at h
  · exact ⟨ends_pending h, ends_ncores h⟩
  · cases h
  · cases h

/-! ### Steps -/

theorem step_cons {s : State} {c : Instr} {rest : List Instr} (h : s.pending = c :: rest) : step s = exec c { s with pending := rest } := by
  simp [step, h]

/-- A step takes at most the front command off the queue, adds none, and keeps the core count. -/
theorem step_next {s t : State} (h : step s = .next t) : t.pending = s.pending.tail ∧ t.ncores = s.ncores := by
  cases hp : s.pending with
  | nil =>
    rw [step_empty hp] at h
    cases h
    exact ⟨by simp [hp], by simp [State.ncores]⟩
  | cons c rest =>
    rw [step_cons hp] at h
    exact exec_next h

/-- Settles O4: a step leaves the tail of the queue and the core count, and what is well formed of the queue is well formed of its tail. -/
theorem stepKeepsQueueOk : Obligations.StepKeepsQueueOk := by
  intro s t ⟨hlegal, hwf⟩ hstep
  obtain ⟨hpending, hncores⟩ := step_next hstep
  rw [QueueOk, hpending, hncores]
  exact ⟨hlegal, fun c hc => hwf c (List.mem_of_mem_tail hc)⟩

/-- Settles O1, by the step's equation on a queue that is not empty. -/
theorem stepRunsFrontCommand : Obligations.StepRunsFrontCommand := fun _ _ _ h => step_cons h

/-- Settles O5: the reference configuration has 16 cores, and no command waits. -/
theorem resetQueueOk : Obligations.ResetQueueOk := ⟨by decide, fun _ hc => nomatch hc⟩

/-! ### The registers after reset -/

/-- Settles O3: each register of the tables is read from the state after reset. -/
theorem resetRegisterValues : Obligations.ResetRegisterValues := ⟨rfl, rfl, by decide⟩

/-! ### Missing and stopped cores -/

/-- Where a list's image under `g` is one value over and over, `g` has that value at each of its members: so one evaluation of `coreOf` over a list of commands names the core of every one. -/
theorem forall_eq_of_map_eq_replicate {α β : Type} {g : α → β} {l : List α} {b : β} (h : l.map g = List.replicate l.length b) : ∀ i ∈ l, g i = b :=
  fun _ hi => List.eq_of_mem_replicate (h ▸ List.mem_map_of_mem hi)

/-- Settles O7: every command of the first list is an event of core `c`, and every one of the second an event of its clocked logic. -/
theorem missingAndStoppedCores : Obligations.MissingAndStoppedCores := by
  refine ⟨fun s c e x now hmissing i hi => ?_, fun s c e x now htrip hc i hi => ?_⟩
  · have hcore : coreOf i = some c.val := forall_eq_of_map_eq_replicate rfl i hi
    exact exec_of_coreOf_missing hcore hmissing
  · have hcore : clockedCoreOf i = some c.val := forall_eq_of_map_eq_replicate rfl i hi
    exact exec_of_clockedCoreOf_trip hcore htrip hc

end Sys2Proof.Machine
end

section
/-! The engines family (03_engines.md): which commands start an engine, how a start ends, what it changes, and the statement about the task at the head of the queue. -/

namespace Sys2Proof.Machine

/-! ### Events of a core that runs -/

/-- An effect that leaves the queue and the chip is the next state as it stands. -/
theorem kept_eq_self {s t : State} (hpending : t.pending = s.pending) (hchip : t.chip = s.chip) : kept s t = t := by
  unfold kept
  rw [← hpending, ← hchip]

/-- Outside a critical trip an event of a core's clocked logic has its effect (R619). -/
theorem endsClocked_clocked {s : State} {c : Nat} (f : State) (hc : c < s.ncores) (htrip : s.pwr.trip = false) :
    endsClocked s c f = .next (kept s f) := by
  rw [endsClocked, endsCore, if_pos hc, htrip]
  rfl

/-- A core that takes work is clocked (R619). -/
theorem trip_eq_false_of_coreRuns {s : State} {c : Nat} (h : coreRuns s c = true) : s.pwr.trip = false := by
  simp only [coreRuns, Bool.and_eq_true, Bool.not_eq_true'] at h
  obtain ⟨⟨-, htrip⟩, -⟩ := h
  exact htrip

/-- An engine takes a task only in a core that takes work. -/
theorem coreRuns_of_startHead {s : State} {c e x : Nat} (h : startHead s c e = some x) : coreRuns s c = true := by
  unfold startHead at h
  dsimp only at h
  split at h
  · obtain ⟨⟨-, hruns, -, -⟩, -⟩ := Option.ite_none_right_eq_some.mp h
    exact hruns
  · cases h

/-! ### Engines and contexts are apart -/

@[simp] theorem engine_modCtx (s : State) (c x d e : Nat) (f : Ctx → Ctx) : (s.modCtx c x f).engine d e = s.engine d e := by
  unfold State.engine State.modCtx
  by_cases hd : d = c
  · subst hd
    simp
  · rw [core_modCore_other _ _ hd]

@[simp] theorem ctx_modEngine (s : State) (c e d x : Nat) (f : Engine → Engine) : (s.modEngine c e f).ctx d x = s.ctx d x := by
  unfold State.ctx State.modEngine
  by_cases hd : d = c
  · subst hd
    simp
  · rw [core_modCore_other _ _ hd]

/-! ### What the start of a task changes -/

/-- The engine takes the task off its queue and runs it from its first tile; T0 and the slice begin anew where the partition changes (R111, R148, R446). -/
theorem engine_beginEngine_same (s : State) (c e x : Nat) :
    (beginEngine s c e x).engine c e = { s.engine c e with
      queue := (s.engine c e).queue.drop 1, state := .busy, ptag := BitVec.ofNat 6 (s.ctx c x).part, ctx := BitVec.ofNat 10 x
      run := some { ctx := x, hasW := weightObj (s.ctx c x).task, crc := 0xFFFFFFFFFFFFFFFF }
      t0 := if (s.engine c e).t0Part = some (s.ctx c x).part then (s.engine c e).t0 else [], t0Part := some (s.ctx c x).part
      slice := if (s.engine c e).t0Part = some (s.ctx c x).part then (s.engine c e).slice else 0, rampHeld := false } := by
  by_cases h : (s.engine c e).t0Part = some (s.ctx c x).part <;> simp [beginEngine, beginTask, h]

theorem engine_beginEngine_other (s : State) {c e x d : Nat} (h : d ≠ e) : (beginEngine s c e x).engine c d = s.engine c d := by
  rw [beginEngine, beginTask, engine_modCtx, engine_modEngine_other _ _ (.inr h)]

/-- The task runs, its start stamped (R228). -/
theorem ctx_beginEngine_same (s : State) (c e x : Nat) :
    (beginEngine s c e x).ctx c x = { s.ctx c x with state := .running, startTs := s.ts, startExt := BitVec.ofNat 64 (extTime s) } := by
  rw [beginEngine, beginTask, ctx_modCtx_same, ctx_modEngine]
  rfl

theorem ctx_beginEngine_other (s : State) {c e x y : Nat} (h : y ≠ x) : (beginEngine s c e x).ctx c y = s.ctx c y := by
  rw [beginEngine, beginTask, ctx_modCtx_other _ _ (.inr h), ctx_modEngine]

theorem core_beginEngine_other (s : State) {c e x d : Nat} (h : d ≠ c) : (beginEngine s c e x).core d = s.core d := by
  rw [beginEngine, beginTask, State.modCtx, core_modCore_other _ _ h, State.modEngine, core_modCore_other _ _ h]

/-! ### How a start command ends -/

/-- The core, the engine and the task operation that a start command names (R115 to R147). -/
def startOf : Instr → Option (CoreId × EngId × Nat)
  | .matmul c e => some (c, e, 0x01)
  | .conv c e => some (c, e, 0x02)
  | .convDw c e => some (c, e, 0x03)
  | .attn c e => some (c, e, 0x10)
  | .attnMerge c e => some (c, e, 0x11)
  | .normRms c e => some (c, e, 0x20)
  | .normLayer c e => some (c, e, 0x21)
  | .rope c e => some (c, e, 0x22)
  | .gateExperts c e => some (c, e, 0x30)
  | .combine c e => some (c, e, 0x31)
  | .quant c e => some (c, e, 0x40)
  | .dequant c e => some (c, e, 0x41)
  | .elem c e => some (c, e, 0x50)
  | .reduce c e => some (c, e, 0x51)
  | .topk c e => some (c, e, 0x52)
  | _ => none

/-- Every start command is the one start, for its own operation. -/
theorem exec_of_startOf {i : Instr} {c : CoreId} {e : EngId} {op : Nat} (s : State) (h : startOf i = some (c, e, op)) :
    exec i s = endsClocked s c (startEngine s c e op) := by
  unfold startOf at h
  split at h <;> cases h <;> rfl

section
variable {s : State} {c e x op : Nat}

theorem startEngine_of_lets (hhead : startHead s c e = some x) (hkind : engineKind (s.ctx c x).task.kind = true)
    (hop : opOf (s.ctx c x).task = op) (hramp : rampLets s c = true) : startEngine s c e op = beginEngine s c e x := by
  simp [startEngine, hhead, hop, hkind, hramp]

theorem startEngine_of_refused (hhead : startHead s c e = some x) (hkind : engineKind (s.ctx c x).task.kind = true)
    (hop : opOf (s.ctx c x).task = op) (hramp : rampLets s c = false) :
    startEngine s c e op = s.modEngine c e (fun g => { g with rampHeld := true }) := by
  simp [startEngine, hhead, hop, hkind, hramp]

theorem startEngine_of_other (hhead : startHead s c e = some x) (hop : opOf (s.ctx c x).task ≠ op) : startEngine s c e op = s := by
  simp [startEngine, hhead, hop]

end

/-- Of the queue and the chip a start changes nothing. -/
theorem startEngine_frame (s : State) (c e op : Nat) : (startEngine s c e op).pending = s.pending ∧ (startEngine s c e op).chip = s.chip := by
  unfold startEngine
  split
  · split
    · split <;> exact ⟨rfl, rfl⟩
    · exact ⟨rfl, rfl⟩
  · exact ⟨rfl, rfl⟩

/-- Where an engine can take the head of its queue, a start command answers the start's own state. -/
theorem exec_start {i : Instr} {c : CoreId} {e : EngId} {op x : Nat} {s : State} (h : startOf i = some (c, e, op)) (hc : c.val < s.ncores)
    (hhead : startHead s c.val e.val = some x) : exec i s = .next (startEngine s c.val e.val op) := by
  obtain ⟨hpending, hchip⟩ := startEngine_frame s c.val e.val op
  rw [exec_of_startOf s h, endsClocked_clocked _ hc (trip_eq_false_of_coreRuns (coreRuns_of_startHead hhead)), kept_eq_self hpending hchip]

/-- Settles O41: every command of the list is the one start for its operation, which takes the head, holds it or leaves the state, as the ramp and the operation say. -/
theorem enginesStartTheirHead : Obligations.EnginesStartTheirHead := by
  rintro s c e x k hc hhead rfl hkind q hq
  have hstart : startOf q.1 = some (c, e, q.2) := List.map_inj_left (f := fun q => startOf q.1) (g := fun q => some (c, e, q.2)).mp rfl q hq
  rw [exec_start hstart hc hhead]
  refine ⟨fun hop hramp => ?_, fun hop hramp => ?_, fun hop => ?_⟩
  · rw [startEngine_of_lets hhead hkind hop hramp]
    refine ⟨_, rfl, ?_⟩
    rw [engine_beginEngine_same]
    exact ⟨rfl, rfl, rfl, rfl, rfl, rfl, rfl, ctx_beginEngine_same .., fun _ => ctx_beginEngine_other s, fun _ => engine_beginEngine_other s,
      fun _ => core_beginEngine_other s, rfl, rfl, rfl, rfl, rfl, rfl⟩
  · rw [startEngine_of_refused hhead hkind hop hramp]
  · rw [startEngine_of_other hhead hop]

end Sys2Proof.Machine
end

section
/-! What the operations on memory, links and replies leave as it was: a view of the state for each, and a lemma per operation that the view is kept. -/

namespace Sys2Proof.Machine

/-- A view of the state that no step of a fold changes is the same after the fold. -/
theorem view_foldl {α β γ : Type} (view : α → γ) {f : α → β → α} (h : ∀ a b, view (f a b) = view a) (l : List β) (a : α) : view (l.foldl f a) = view a := by
  induction l generalizing a with
  | nil => rfl
  | cons b l ih => exact (ih _).trans (h a b)

/-- The state without its memory tiers, the Press and the ports: what no access to device memory changes. -/
def beyondMem (s : State) : State := { s with mem := {}, press := {}, ports := {} }

@[simp] theorem beyondMem_with_mem (s : State) (m : MemTiers) : beyondMem { s with mem := m } = beyondMem s := rfl
@[simp] theorem beyondMem_with_press (s : State) (q : Press) : beyondMem { s with press := q } = beyondMem s := rfl

/-! ### Counters, ports and the Press -/

@[simp] theorem beyondMem_sealLine (s : State) (line : Nat) : beyondMem (sealLine s line) = beyondMem s := by
  obtain ⟨m, h, -⟩ := sealLine_frame s line
  rw [h, beyondMem_with_mem]

@[simp] theorem beyondMem_sealTree (s : State) (n : Nat) : beyondMem (sealTree s n) = beyondMem s := by
  obtain ⟨m, h, -⟩ := sealTree_frame s n
  rw [h, beyondMem_with_mem]

@[simp] theorem beyondMem_setBlock (s : State) (p b : Nat) (v : Block) : beyondMem (s.setBlock p b v) = beyondMem s := by
  obtain ⟨m, h, -⟩ := setBlock_frame s p b v
  rw [h, beyondMem_with_mem]

@[simp] theorem beyondMem_modBlock (s : State) (p b : Nat) (f : Block → Block) : beyondMem (s.modBlock p b f) = beyondMem s :=
  beyondMem_setBlock ..

@[simp] theorem beyondMem_memEvent (s : State) (bit : Nat) : beyondMem (memEvent s bit) = beyondMem s := rfl

theorem beyondMem_pumpMemAux (port n : Nat) (s : State) : beyondMem (pumpMemAux port n s) = beyondMem s := by
  induction n generalizing s with
  | zero => rfl
  | succ n ih =>
    unfold pumpMemAux
    split
    · exact (ih _).trans rfl
    · rfl

@[simp] theorem beyondMem_pumpMem (s : State) (port : Nat) : beyondMem (pumpMem s port) = beyondMem s := by
  unfold pumpMem
  split
  · rfl
  · exact beyondMem_pumpMemAux ..

@[simp] theorem beyondMem_holdMem (s : State) (port p : Nat) (rs : List MemReq) : beyondMem (holdMem s port p rs) = beyondMem s :=
  (beyondMem_pumpMem ..).trans rfl

@[simp] theorem beyondMem_ccTouch (s : State) (port p n : Nat) : beyondMem (ccTouch s port p n) = beyondMem s := by
  unfold ccTouch
  dsimp only
  split
  · rfl
  · exact (beyondMem_holdMem ..).trans rfl

@[simp] theorem beyondMem_sealWrite (s : State) (port p addr len : Nat) : beyondMem (sealWrite s port p addr len) = beyondMem s := by
  refine (view_foldl beyondMem (fun t b => ?_) _ _).trans (view_foldl beyondMem beyondMem_sealLine _ _)
  rw [beyondMem_ccTouch, beyondMem_sealTree]

@[simp] theorem beyondMem_askPort (s : State) (port : Nat) (write copy : Bool) (p b addr rank : Nat) (cls : SClass) (secs : List Nat) (deadline : Nat) :
    beyondMem (askPort s port write copy p b addr rank cls secs deadline) = beyondMem s := beyondMem_holdMem ..

@[simp] theorem beyondMem_askMem (s : State) (p b : Nat) (r : Resident) (write : Bool) (mask : BitVec 16) (first rank : Nat) (cls : SClass) (deadline : Nat) :
    beyondMem (askMem s p b r write mask first rank cls deadline) = beyondMem s := by
  unfold askMem
  dsimp only
  split <;> simp

@[simp] theorem beyondMem_askCopy (s : State) (p b addr : Nat) (write : Bool) (mask : BitVec 16) (rank : Nat) (cls : SClass) :
    beyondMem (askCopy s p b addr write mask rank cls) = beyondMem s := beyondMem_askPort ..

@[simp] theorem beyondMem_askBytes (s : State) (p b addr off len rank : Nat) (cls : SClass) : beyondMem (askBytes s p b addr off len rank cls) = beyondMem s :=
  beyondMem_holdMem ..

theorem beyondMem_pumpPressAux (n : Nat) (s : State) : beyondMem (pumpPressAux n s) = beyondMem s := by
  induction n generalizing s with
  | zero => rfl
  | succ n ih =>
    unfold pumpPressAux
    dsimp only
    split
    · rfl
    · refine (ih _).trans ?_
      rw [beyondMem_with_press]
      split
      · split <;> rfl
      · rfl

@[simp] theorem beyondMem_pumpPress (s : State) : beyondMem (pumpPress s) = beyondMem s := by
  unfold pumpPress
  split
  · exact beyondMem_pumpPressAux ..
  · rfl

@[simp] theorem beyondMem_askPress (s : State) (p b r k : Nat) (mask : BitVec 16) (first rank deadline : Nat) (cls : SClass) :
    beyondMem (askPress s p b r k mask first rank deadline cls) = beyondMem s := beyondMem_pumpPress _

/-! ### Homes, copies and slots -/

@[simp] theorem beyondMem_writeHome (s : State) (p b : Nat) (mask : BitVec 16) : beyondMem (writeHome s p b mask) = beyondMem s := by
  unfold writeHome
  dsimp only
  split
  · rw [beyondMem_modBlock, beyondMem_with_mem]
    exact view_foldl beyondMem (fun _ _ => beyondMem_sealWrite ..) _ _
  · rfl

@[simp] theorem beyondMem_clearCopy (s : State) (r : Resident) : beyondMem (clearCopy s r) = beyondMem s := by
  unfold clearCopy
  split <;> rfl

@[simp] theorem beyondMem_dropCopy (s : State) (p b : Nat) : beyondMem (dropCopy s p b) = beyondMem s := by
  unfold dropCopy
  dsimp only
  split
  · rfl
  · rw [beyondMem_setBlock, beyondMem_clearCopy]

@[simp] theorem beyondMem_moveCopy (s : State) (p b : Nat) (dst : Resident) : beyondMem (moveCopy s p b dst) = beyondMem s := by
  unfold moveCopy
  dsimp only
  split <;> simp

@[simp] theorem beyondMem_installNow (s : State) (p b : Nat) (r : Resident) : beyondMem (installNow s p b r) = beyondMem s := by
  unfold installNow
  dsimp only
  split
  · rfl
  · rw [beyondMem_setBlock]
    split
    · split <;> rfl
    · rfl
    · rfl

@[simp] theorem beyondMem_toCache (s : State) (p b : Nat) : beyondMem (toCache s p b) = beyondMem s := by
  unfold toCache
  extract_lets s1
  have hroom : beyondMem s1 = beyondMem s := by
    unfold s1
    split
    · rfl
    · split
      · split <;> simp
      · rfl
  split
  · rw [beyondMem_askCopy, ← hroom]
    split <;> simp
  · rw [beyondMem_dropCopy, hroom]

/-! ### Evictions and the search of a slot -/

@[simp] theorem beyondMem_scrapCopy (s : State) (p b : Nat) : beyondMem (scrapCopy s p b) = beyondMem s :=
  (beyondMem_setBlock ..).trans (beyondMem_clearCopy ..)

@[simp] theorem beyondMem_leaveNow (s : State) (p b : Nat) : beyondMem (leaveNow s p b) = beyondMem s := by
  unfold leaveNow
  dsimp only
  split
  · split <;> simp
  · split
    · split <;> simp
    · split <;> simp
    · rfl

@[simp] theorem beyondMem_evictNow (s : State) (p b rank : Nat) (cls : SClass) : beyondMem (evictNow s p b rank cls) = beyondMem s := by
  unfold evictNow
  dsimp only
  split
  · rfl
  · split
    · rw [beyondMem_leaveNow, beyondMem_writeHome]
      split <;> simp
    · rw [beyondMem_leaveNow, beyondMem_with_mem]

@[simp] theorem beyondMem_startEvict (s : State) (p b rank : Nat) (cls : SClass) : beyondMem (startEvict s p b rank cls) = beyondMem s := by
  unfold startEvict
  dsimp only
  split
  · rfl
  · split
    · rw [beyondMem_askMem, beyondMem_with_mem, beyondMem_setBlock]
    · rw [beyondMem_leaveNow, beyondMem_with_mem]

theorem beyondMem_of_makeT1 {s t : State} {p c sl : Nat} (h : makeT1 s p c = some (sl, t)) : beyondMem t = beyondMem s := by
  unfold makeT1 at h
  split at h
  · cases h
    rfl
  · split at h
    · obtain ⟨_, -, hq⟩ := Option.map_eq_some_iff.mp h
      cases hq
      exact beyondMem_evictNow ..
    · cases h

theorem beyondMem_of_makeT2 {s t : State} {p sl : Nat} (h : makeT2 s p = some (sl, t)) : beyondMem t = beyondMem s := by
  unfold makeT2 at h
  split at h
  · cases h
    rfl
  · split at h
    · obtain ⟨_, -, hq⟩ := Option.map_eq_some_iff.mp h
      cases hq
      exact beyondMem_evictNow ..
    · cases h

/-- A slot found in T2, or the access that goes through without one. -/
theorem beyondMem_makeSlot_none (s : State) (p : Nat) : beyondMem (makeSlot s p none).2 = beyondMem s := by
  unfold makeSlot
  dsimp only
  split
  · exact beyondMem_of_makeT2 ‹_›
  · rfl

theorem beyondMem_makeSlot (s : State) (p : Nat) (dest : Option Nat) : beyondMem (makeSlot s p dest).2 = beyondMem s := by
  cases dest with
  | none => exact beyondMem_makeSlot_none s p
  | some c =>
    unfold makeSlot
    dsimp only
    split
    · exact beyondMem_of_makeT1 ‹_›
    · exact beyondMem_makeSlot_none s p

theorem beyondMem_of_makeSlot {s t : State} {p : Nat} {dest : Option Nat} {r : Resident} (h : makeSlot s p dest = (r, t)) : beyondMem t = beyondMem s := by
  rw [← beyondMem_makeSlot s p dest, h]

theorem beyondMem_findIn (s : State) (p : Nat) (free : State → Option Resident) (tier : Resident → Bool) (claimed : List Nat) (rank : Nat) (cls : SClass) :
    beyondMem (findIn s p free tier claimed rank cls).2 = beyondMem s := by
  unfold findIn
  dsimp only
  split
  · rfl
  · split
    · rfl
    · split
      · rfl
      · split
        · exact beyondMem_startEvict ..
        · split <;> exact beyondMem_startEvict ..

theorem beyondMem_findSlot (s : State) (p : Nat) (dest : Option Nat) (claimed : List Nat) (rank : Nat) (cls : SClass) :
    beyondMem (findSlot s p dest claimed rank cls).2 = beyondMem s := by
  unfold findSlot
  extract_lets t2
  have ht2 (t : State) : beyondMem (t2 t).2 = beyondMem t := beyondMem_findIn ..
  cases dest with
  | none => exact ht2 s
  | some c =>
    have ht1 := beyondMem_findIn s p (fun t => (freeT1 t p c).map (.t1 c)) (inT1 c) claimed rank cls
    dsimp only
    split
    next s1 heq => rw [ht2, ← ht1, heq]
    · exact ht1

theorem beyondMem_of_findSlot {s t : State} {p rank : Nat} {dest : Option Nat} {claimed : List Nat} {cls : SClass} {r : SlotFound}
    (h : findSlot s p dest claimed rank cls = (r, t)) : beyondMem t = beyondMem s := by
  rw [← beyondMem_findSlot s p dest claimed rank cls, h]

/-! ### Writes -/

@[simp] theorem beyondMem_putCopy (s : State) (p b off : Nat) (bs : List Byte) (st : BlockState) : beyondMem (putCopy s p b off bs st) = beyondMem s := by
  unfold putCopy
  dsimp only
  split
  · rw [beyondMem_setBlock, beyondMem_with_mem]
  · rfl

@[simp] theorem beyondMem_putHome (s : State) (p b off : Nat) (bs : List Byte) : beyondMem (putHome s p b off bs) = beyondMem s := by
  unfold putHome
  dsimp only
  split
  · rw [beyondMem_setBlock, beyondMem_with_mem, beyondMem_sealWrite, beyondMem_askBytes]
  · rfl

@[simp] theorem beyondMem_landSector (s : State) (p b j : Nat) : beyondMem (landSector s p b j) = beyondMem s := by
  unfold landSector
  dsimp only
  split
  · rfl
  · split
    · rfl
    · rw [beyondMem_setBlock]
      split
      · split <;> rfl
      · rfl
      · rfl

@[simp] theorem beyondMem_writeFetching (s : State) (p b off : Nat) (bs : List Byte) : beyondMem (writeFetching s p b off bs) = beyondMem s := by
  unfold writeFetching
  rw [beyondMem_putCopy, beyondMem_modBlock]
  refine view_foldl beyondMem (fun t j => ?_) _ _
  split
  · exact beyondMem_landSector ..
  · rfl

@[simp] theorem beyondMem_writeAlloc (s : State) (p b off : Nat) (bs : List Byte) (r : Resident) (cls : SClass) :
    beyondMem (writeAlloc s p b off bs r cls) = beyondMem s := by
  unfold writeAlloc
  dsimp only
  split
  · rw [beyondMem_putCopy, beyondMem_installNow]
  · rw [beyondMem_writeFetching, beyondMem_askMem, beyondMem_with_mem, beyondMem_setBlock, beyondMem_clearCopy]

@[simp] theorem beyondMem_noteOlder (s : State) (p b : Nat) (mask : BitVec 16) : beyondMem (noteOlder s p b mask) = beyondMem s := rfl

theorem beyondMem_writeBlock (s : State) (p b off : Nat) (bs : List Byte) (dest : Option (Option Nat)) (host : Bool) :
    beyondMem (writeBlock s p b off bs dest host).2 = beyondMem s := by
  unfold writeBlock
  dsimp only
  split
  case h_1 => split <;> rfl
  case h_2 => rfl
  case h_3 => split <;> simp [beyondMem_of_makeSlot ‹_›]
  case h_4 =>
    split
    · split
      · exact beyondMem_putHome ..
      · split <;> simp [beyondMem_of_makeSlot ‹_›]
    · rfl
  case h_5 => split <;> simp
  case h_6 | h_7 => split <;> simp
  case h_8 => simp
  case h_9 =>
    split
    · rfl
    · split
      · split
        · split <;> simp [beyondMem_of_makeSlot ‹_›]
        · rfl
      · rfl

theorem beyondMem_devWriteAux (p : Nat) (dest : Option (Option Nat)) (host : Bool) (blocks : List Nat) (addr : Nat) (bs : List Byte) (s : State) :
    beyondMem (devWriteAux p dest host blocks addr bs s).2 = beyondMem s := by
  induction blocks generalizing addr bs s with
  | nil => rfl
  | cons b rest ih =>
    have hblock := beyondMem_writeBlock s p b (addr - b * blockBytes) (bs.take (min bs.length ((b + 1) * blockBytes - addr))) dest host
    unfold devWriteAux
    dsimp only
    split
    next s1 heq => rw [ih, ← hblock, heq]
    · exact hblock

@[simp] theorem beyondMem_devPut (s : State) (p addr : Nat) (bs : List Byte) : beyondMem (devPut s p addr bs) = beyondMem s :=
  beyondMem_devWriteAux ..

/-! ### The placement queue -/

@[simp] theorem beyondMem_chargePlace (s : State) (r : PlaceReq) : beyondMem (chargePlace s r) = beyondMem s := by
  unfold chargePlace
  split <;> rfl

@[simp] theorem beyondMem_holdPlace (s : State) (r : PlaceReq) : beyondMem (holdPlace s r) = beyondMem s := rfl
@[simp] theorem beyondMem_raiseRank (s : State) (p b rank : Nat) (cls : SClass) : beyondMem (raiseRank s p b rank cls) = beyondMem s := rfl
@[simp] theorem beyondMem_dropPlace (s : State) (p b : Nat) (kind : PlaceKind) : beyondMem (dropPlace s p b kind) = beyondMem s := rfl

@[simp] theorem beyondMem_beginFetch (s : State) (r : PlaceReq) (res : Resident) : beyondMem (beginFetch s r res) = beyondMem s := by
  unfold beginFetch
  dsimp only
  split <;> simp

@[simp] theorem beyondMem_serveFetch (s : State) (r : PlaceReq) : beyondMem (serveFetch s r) = beyondMem s := by
  unfold serveFetch
  extract_lets p waits
  split
  · split
    · rfl
    · split <;> simp [beyondMem_of_findSlot ‹_›]
  · simp
  · rfl
  · simp

@[simp] theorem beyondMem_serveFlush (s : State) (r : PlaceReq) : beyondMem (serveFlush s r) = beyondMem s := by
  unfold serveFlush
  dsimp only
  split <;> simp

theorem beyondMem_pumpPlaceAux (n : Nat) (tried : List (Nat × Nat × PlaceKind)) (s : State) : beyondMem (pumpPlaceAux n tried s) = beyondMem s := by
  induction n generalizing tried s with
  | zero => rfl
  | succ n ih =>
    unfold pumpPlaceAux
    dsimp only
    split
    · rfl
    · rw [ih]
      split <;> simp

@[simp] theorem beyondMem_pumpPlace (s : State) : beyondMem (pumpPlace s) = beyondMem s := beyondMem_pumpPlaceAux ..

@[simp] theorem beyondMem_requestFetch (s : State) (r : PlaceReq) : beyondMem (requestFetch s r) = beyondMem s := by
  unfold requestFetch
  dsimp only
  split
  · split <;> split <;> simp
  · split <;> split <;> simp
  · simp
  · rfl

@[simp] theorem beyondMem_bringBlock (s : State) (q : PlaceReq) : beyondMem (bringBlock s q) = beyondMem s := by
  unfold bringBlock
  dsimp only
  split
  case h_1 | h_2 | h_3 => exact beyondMem_requestFetch ..
  case h_4 =>
    split
    · rfl
    · split <;> simp [beyondMem_of_makeSlot ‹_›]
  case h_5 | h_6 =>
    split
    · rfl
    · split
      · rfl
      · split
        · split <;> simp [beyondMem_of_makeT1 ‹_›]
        · rfl
  case h_7 => rfl

@[simp] theorem beyondMem_startWriteback (s : State) (p b rank : Nat) (cls : SClass) : beyondMem (startWriteback s p b rank cls) = beyondMem s := by
  unfold startWriteback
  dsimp only
  split <;> simp

@[simp] theorem beyondMem_btcTouch (s : State) (holder p b : Nat) : beyondMem (btcTouch s holder p b) = beyondMem s := by
  unfold btcTouch
  dsimp only
  split
  · rfl
  · rw [beyondMem_pumpMem, beyondMem_with_mem]

/-! ### What tasks do to memory -/

@[simp] theorem beyondMem_giveUse (s : State) (c x : Nat) : beyondMem (giveUse s c x) = beyondMem s :=
  view_foldl beyondMem (fun _ _ => beyondMem_modBlock ..) _ _

@[simp] theorem beyondMem_fetchEntries (s : State) (c x rank : Nat) (ahead : Bool) (pick : Operand → Bool) :
    beyondMem (fetchEntries s c x rank ahead pick) = beyondMem s := by
  unfold fetchEntries
  extract_lets k tensor
  refine view_foldl beyondMem (fun t o => view_foldl beyondMem (fun u b => ?_) _ _) _ _
  dsimp only
  split
  · exact beyondMem_bringBlock ..
  · rfl

@[simp] theorem beyondMem_flushAfter (s : State) (c x : Nat) : beyondMem (flushAfter s c x) = beyondMem s :=
  view_foldl beyondMem (fun _ _ => view_foldl beyondMem (fun _ _ => beyondMem_startWriteback ..) _ _) _ _

@[simp] theorem beyondMem_needFetch (s : State) (c x : Nat) (tensor : Bool) (n : Nat × Nat × BitVec 16) : beyondMem (needFetch s c x tensor n) = beyondMem s := by
  unfold needFetch
  dsimp only
  split
  · split
    · exact beyondMem_requestFetch ..
    · rfl
  · rfl

@[simp] theorem beyondMem_askInPlace (s : State) (c x : Nat) (n : Nat × Nat × BitVec 16) : beyondMem (askInPlace s c x n) = beyondMem s := by
  unfold askInPlace
  dsimp only
  split
  · split
    · exact beyondMem_askPort ..
    · rfl
  · exact beyondMem_askPress ..
  · exact beyondMem_askPort ..
  · rfl

/-- A task that asks for its bytes changes the memory side alone. -/
theorem beyondMem_awaitBytes (s : State) (c x : Nat) (tensor asked : Bool) (needs : List (Nat × Nat × BitVec 16)) :
    beyondMem (awaitBytes s c x tensor asked needs).2.2 = beyondMem s := by
  have hneeds : beyondMem (needs.foldl (fun t n => needFetch t c x tensor n) s) = beyondMem s := view_foldl beyondMem (fun _ _ => beyondMem_needFetch ..) _ _
  unfold awaitBytes
  dsimp only
  split
  · exact hneeds
  · split
    · exact hneeds
    · split
      · exact hneeds
      · exact (view_foldl beyondMem (fun _ _ => beyondMem_askInPlace ..) _ _).trans hneeds

@[simp] theorem beyondMem_touchBlocks (s : State) (c p : Nat) (bs : List Nat) : beyondMem (touchBlocks s c p bs) = beyondMem s :=
  view_foldl beyondMem (fun _ _ => (beyondMem_btcTouch ..).trans (beyondMem_modBlock ..)) _ _

/-! ### Frames -/

/-- The state without the fabric's links and the frames held for them: what no frame sent changes. -/
def beyondLinks (s : State) : State := { s with fab.ports := [], fab.heldFrames := [] }

@[simp] theorem beyondLinks_pumpPort (s : State) (f : Nat) : beyondLinks (pumpPort s f) = beyondLinks s := by
  unfold pumpPort
  split <;> rfl

@[simp] theorem beyondLinks_queueAt (s : State) (f : Nat) (fr : Frame) : beyondLinks (queueAt s f fr) = beyondLinks s := beyondLinks_pumpPort _ f

@[simp] theorem beyondLinks_sendFrame (s : State) (fr : Frame) (from_ : Option Nat) : beyondLinks (sendFrame s fr from_) = beyondLinks s := by
  unfold sendFrame
  dsimp only
  split
  · rfl
  · split
    · exact view_foldl beyondLinks (fun _ _ => beyondLinks_queueAt ..) _ _
    · split
      · rfl
      · split
        · exact beyondLinks_queueAt ..
        · rfl

@[simp] theorem beyondLinks_sendArrive (s : State) (slot : Nat) (gen : W32) : beyondLinks (sendArrive s slot gen) = beyondLinks s := beyondLinks_sendFrame ..

@[simp] theorem beyondLinks_sendTxn (s : State) (n : Nat) : beyondLinks (sendTxn s n) = beyondLinks s := by
  unfold sendTxn
  split
  · rfl
  · exact view_foldl beyondLinks (fun _ _ => beyondLinks_sendFrame ..) _ _

/-! ### Replies, logs and interrupts -/

/-- What a partition's replies, logs and interrupts leave as it was: its state and its reset count (R453). -/
def resetInfo (q : Part) : PartState × W16 × BitVec 3 := (q.state, q.resets, q.resetCause)

/-- The state without memory, ports, partitions and drawn values, and the resets of every partition: what no reply, log entry or interrupt changes. -/
def beyondReply (s : State) : State × (Nat → PartState × W16 × BitVec 3) :=
  ({ s with mem := {}, press := {}, ports := {}, parts := [], freeNo := 0 }, fun p => resetInfo (s.part p))

theorem beyondReply_of_beyondMem {s t : State} (h : beyondMem t = beyondMem s) : beyondReply t = beyondReply s := (congrArg beyondReply h :)

@[simp] theorem beyondReply_draw (s : State) : beyondReply s.draw = beyondReply s := rfl

@[simp] theorem beyondReply_devPut (s : State) (p addr : Nat) (bs : List Byte) : beyondReply (devPut s p addr bs) = beyondReply s :=
  beyondReply_of_beyondMem (beyondMem_devPut ..)

/-- A field of every partition is the same after a change of one that keeps it. -/
theorem part_modPart_view {γ : Type} (view : Part → γ) (s : State) (p : Nat) {f : Part → Part} (hf : ∀ q, view (f q) = view q) (q : Nat) :
    view ((s.modPart p f).part q) = view (s.part q) := by
  by_cases h : q = p
  · subst h
    rw [part_modPart_same, hf]
  · rw [part_modPart_other _ _ h]

@[simp] theorem beyondReply_modPart (s : State) (p : Nat) {f : Part → Part} (hstate : ∀ q, (f q).state = q.state) (hresets : ∀ q, (f q).resets = q.resets)
    (hcause : ∀ q, (f q).resetCause = q.resetCause) : beyondReply (s.modPart p f) = beyondReply s :=
  Prod.ext rfl (funext (part_modPart_view resetInfo s p (by simp [resetInfo, hstate, hresets, hcause])))

@[simp] theorem beyondReply_sendVector (s : State) (p v : Nat) : beyondReply (sendVector s p v) = beyondReply s := by
  unfold sendVector pumpInt
  split
  · split <;> rfl
  · rfl

@[simp] theorem beyondReply_raiseVector (s : State) (p v : Nat) : beyondReply (raiseVector s p v) = beyondReply s := by
  unfold raiseVector
  dsimp only
  split
  · rfl
  · split
    · simp
    · exact beyondReply_sendVector ..

@[simp] theorem beyondReply_sendHeldVectors (s : State) (p : Nat) : beyondReply (sendHeldVectors s p) = beyondReply s := by
  unfold sendHeldVectors
  split
  · rfl
  · refine view_foldl beyondReply (fun t v => ?_) _ _
    split
    · simp
    · rfl

@[simp] theorem beyondReply_partLog (s : State) (p code level tag : Nat) (args : List Byte) : beyondReply (partLog s p code level tag args) = beyondReply s := by
  unfold partLog
  dsimp only
  split
  · rfl
  · split
    · simp
    · simp

@[simp] theorem beyondReply_globalLog (s : State) (code level tag : Nat) (args : List Byte) : beyondReply (globalLog s code level tag args) = beyondReply s := by
  unfold globalLog
  dsimp only
  split
  · rfl
  · split
    · simp
    · simp

@[simp] theorem beyondReply_globalNote (s : State) (kind : Nat) : beyondReply (globalNote s kind) = beyondReply s := by
  unfold globalNote
  split
  · rfl
  · rw [beyondReply_draw, beyondReply_globalLog]

@[simp] theorem beyondReply_partNote (s : State) (p kind : Nat) : beyondReply (partNote s p kind) = beyondReply s := by
  unfold partNote
  split
  · rfl
  · rw [beyondReply_draw, beyondReply_partLog]

@[simp] theorem beyondReply_writeEntry (s : State) (p : Nat) (c : Completion) : beyondReply (writeEntry s p c) = beyondReply s := by
  unfold writeEntry
  dsimp only
  split
  · simp
  · simp

@[simp] theorem beyondReply_complete (s : State) (p : Nat) (c : Completion) : beyondReply (complete s p c) = beyondReply s := by
  unfold complete
  dsimp only
  split
  · split
    · simp
    · split <;> simp
  · split
    · simp
    · simp

@[simp] theorem beyondReply_closePkt (s : State) (p n : Nat) : beyondReply (closePkt s p n) = beyondReply s := by simp [closePkt]

@[simp] theorem beyondReply_reply (s : State) (p : Nat) (k : Packet) (status : W16) (detail obj : W32) (state : Byte) :
    beyondReply (reply s p k status detail obj state) = beyondReply s := (beyondReply_complete ..).trans (beyondReply_closePkt ..)

@[simp] theorem beyondReply_replyLater (s : State) (d : Pend) (status : W16) (detail obj : W32) (state : Byte) :
    beyondReply (replyLater s d status detail obj state) = beyondReply s := (beyondReply_complete ..).trans (beyondReply_closePkt ..)

/-! ### Replies leave the graphs -/

theorem graphs_of_beyondReply {s t : State} (h : beyondReply t = beyondReply s) : t.graphs = s.graphs := (congrArg (·.1.graphs) h :)

@[simp] theorem graphs_complete (s : State) (p : Nat) (c : Completion) : (complete s p c).graphs = s.graphs := graphs_of_beyondReply (beyondReply_complete ..)
@[simp] theorem graphs_reply (s : State) (p : Nat) (k : Packet) (status : W16) (detail obj : W32) (state : Byte) :
    (reply s p k status detail obj state).graphs = s.graphs := graphs_of_beyondReply (beyondReply_reply ..)
@[simp] theorem graphs_replyLater (s : State) (d : Pend) (status : W16) (detail obj : W32) (state : Byte) :
    (replyLater s d status detail obj state).graphs = s.graphs := graphs_of_beyondReply (beyondReply_replyLater ..)

end Sys2Proof.Machine
end

section
/-! What the end of a run leaves as it was, and which run is live after it. -/

namespace Sys2Proof.Machine

/-! ### Graphs and runs over a change of a graph -/

@[simp] theorem tfind_map_other {α : Type} (t : Tbl α) {i h : Nat} (f : α → α) (hne : i ≠ h) :
    tfind (t.map (fun e => if e.1 = h then (e.1, f e.2) else e)) i = tfind t i := by
  induction t with
  | nil => rfl
  | cons e r ih =>
    obtain ⟨k, v⟩ := e
    by_cases hk : k = h
    · subst hk
      simp [tfind, Ne.symm hne, ih]
    · simp [tfind, hk, ih]

theorem tfind_map_same {α : Type} (t : Tbl α) (h : Nat) (f : α → α) :
    tfind (t.map (fun e => if e.1 = h then (e.1, f e.2) else e)) h = (tfind t h).map f := by
  induction t with
  | nil => rfl
  | cons e r ih =>
    obtain ⟨k, v⟩ := e
    by_cases hk : k = h <;> simp [tfind, hk, ih]

@[simp] theorem graph_modGraph_same (s : State) (h : Nat) (f : Graph → Graph) : (s.modGraph h f).graph h = (s.graph h).map f := tfind_map_same ..
theorem graph_modGraph_other (s : State) {h i : Nat} (f : Graph → Graph) (hne : i ≠ h) : (s.modGraph h f).graph i = s.graph i := tfind_map_other _ f hne

/-- A field of every loaded graph is the same after a change of one that keeps it. -/
theorem graph_modGraph_view {γ : Type} (view : Graph → γ) (s : State) (h : Nat) {f : Graph → Graph} (hf : ∀ g, view (f g) = view g) (i : Nat) :
    ((s.modGraph h f).graph i).map view = (s.graph i).map view := by
  by_cases hi : i = h
  · subst hi
    rw [graph_modGraph_same, Option.map_map]
    exact congrArg (Option.map · _) (funext hf)
  · rw [graph_modGraph_other _ _ hi]

@[simp] theorem runOf_modRun_same (s : State) (h : Nat) (f : Run → Run) : runOf (s.modRun h f) h = (runOf s h).map f := by
  rw [runOf, State.modRun, graph_modGraph_same, runOf]
  cases s.graph h <;> rfl

/-- The live runs are those before where a change of a graph keeps its run. -/
theorem runOf_modGraph (s : State) (h i : Nat) {f : Graph → Graph} (hf : ∀ g, (f g).run = g.run) : runOf (s.modGraph h f) i = runOf s i := by
  by_cases hi : i = h
  · subst hi
    rw [runOf, graph_modGraph_same, runOf]
    cases s.graph i with
    | none => rfl
    | some g => exact hf g
  · rw [runOf, graph_modGraph_other _ _ hi, runOf]

theorem runOf_of_graphs {s t : State} (h : t.graphs = s.graphs) (i : Nat) : runOf t i = runOf s i := by
  rw [runOf, State.graph, h]
  rfl

/-! ### What the end of a run leaves -/

/-- A core without its contexts and the virtual times of its dispatch. -/
def coreShell (k : Core) : Core := { k with ctxs := [], vtime := [] }

/-- What the end of a run leaves as it was: cadence, every core but for its contexts and virtual times, and the resets of every partition. -/
def lasting (s : State) : Cad × (Nat → Core) × (Nat → PartState × W16 × BitVec 3) :=
  (s.cad, fun c => coreShell (s.core c), fun p => resetInfo (s.part p))

/-- What the end of a run leaves where its graph stays loaded: besides, how every task ended, and which graphs are to be unloaded. -/
def ongoing (s : State) : (Cad × (Nat → Core) × (Nat → PartState × W16 × BitVec 3)) × (Nat → Nat → TaskOutcome × Option Nat) × (Nat → Option Bool) :=
  (lasting s, fun c x => ((s.ctx c x).outcome, (s.ctx c x).failure), fun h => (s.graph h).map (·.leaving))

theorem lasting_of_ongoing {s t : State} (h : ongoing t = ongoing s) : lasting t = lasting s := congrArg Prod.fst h

theorem ongoing_of_beyondReply {s t : State} (h : beyondReply t = beyondReply s) : ongoing t = ongoing s :=
  (congrArg (fun r : State × (Nat → PartState × W16 × BitVec 3) =>
    ((r.1.cad, fun c => coreShell (r.1.core c), r.2), (fun c x => ((r.1.ctx c x).outcome, (r.1.ctx c x).failure)), fun h => (r.1.graph h).map (·.leaving))) h :)

theorem ongoing_of_beyondMem {s t : State} (h : beyondMem t = beyondMem s) : ongoing t = ongoing s := ongoing_of_beyondReply (beyondReply_of_beyondMem h)

theorem ongoing_of_beyondLinks {s t : State} (h : beyondLinks t = beyondLinks s) : ongoing t = ongoing s := (congrArg ongoing h :)

/-- A change of one context leaves the cores but for their contexts. -/
theorem coreShell_modCore (s : State) (c : Nat) {f : Core → Core} (hf : ∀ k, coreShell (f k) = coreShell k) (d : Nat) :
    coreShell ((s.modCore c f).core d) = coreShell (s.core d) := by
  by_cases hd : d = c
  · subst hd
    rw [core_modCore_same, hf]
  · rw [core_modCore_other _ _ hd]

theorem lasting_modCore (s : State) (c : Nat) {f : Core → Core} (hf : ∀ k, coreShell (f k) = coreShell k) : lasting (s.modCore c f) = lasting s :=
  Prod.ext rfl (Prod.ext (funext (coreShell_modCore s c hf)) rfl)

@[simp] theorem lasting_modCtx (s : State) (c x : Nat) (f : Ctx → Ctx) : lasting (s.modCtx c x f) = lasting s := lasting_modCore s c fun _ => rfl
@[simp] theorem lasting_modGraph (s : State) (h : Nat) (f : Graph → Graph) : lasting (s.modGraph h f) = lasting s := rfl
@[simp] theorem lasting_modRun (s : State) (h : Nat) (f : Run → Run) : lasting (s.modRun h f) = lasting s := rfl

/-- A field of every context is the same after a change of one that keeps it. -/
theorem ctx_modCtx_view {γ : Type} (view : Ctx → γ) (s : State) (c x : Nat) {f : Ctx → Ctx} (hf : ∀ k, view (f k) = view k) (d y : Nat) :
    view ((s.modCtx c x f).ctx d y) = view (s.ctx d y) := by
  by_cases h : d = c ∧ y = x
  · obtain ⟨rfl, rfl⟩ := h
    rw [ctx_modCtx_same, hf]
  · rw [ctx_modCtx_other _ _ (by tauto)]

@[simp] theorem ongoing_modCtx (s : State) (c x : Nat) {f : Ctx → Ctx} (houtcome : ∀ k, (f k).outcome = k.outcome) (hfailure : ∀ k, (f k).failure = k.failure) :
    ongoing (s.modCtx c x f) = ongoing s :=
  Prod.ext (lasting_modCtx ..) (Prod.ext (funext fun d => funext fun y =>
    ctx_modCtx_view (fun k => (k.outcome, k.failure)) s c x (fun k => by rw [houtcome, hfailure]) d y) rfl)

@[simp] theorem ongoing_modGraph (s : State) (h : Nat) {f : Graph → Graph} (hleaving : ∀ g, (f g).leaving = g.leaving) : ongoing (s.modGraph h f) = ongoing s :=
  Prod.ext rfl (Prod.ext rfl (funext (graph_modGraph_view (·.leaving) s h hleaving)))

@[simp] theorem ongoing_modRun (s : State) (h : Nat) (f : Run → Run) : ongoing (s.modRun h f) = ongoing s := ongoing_modGraph s h fun _ => rfl

@[simp] theorem ongoing_modPart (s : State) (p : Nat) {f : Part → Part} (hstate : ∀ q, (f q).state = q.state) (hresets : ∀ q, (f q).resets = q.resets)
    (hcause : ∀ q, (f q).resetCause = q.resetCause) : ongoing (s.modPart p f) = ongoing s :=
  ongoing_of_beyondReply (beyondReply_modPart s p hstate hresets hcause)

@[simp] theorem ongoing_complete (s : State) (p : Nat) (c : Completion) : ongoing (complete s p c) = ongoing s := ongoing_of_beyondReply (beyondReply_complete ..)
@[simp] theorem ongoing_closePkt (s : State) (p n : Nat) : ongoing (closePkt s p n) = ongoing s := ongoing_of_beyondReply (beyondReply_closePkt ..)
@[simp] theorem ongoing_reply (s : State) (p : Nat) (k : Packet) (status : W16) (detail obj : W32) (state : Byte) :
    ongoing (reply s p k status detail obj state) = ongoing s := ongoing_of_beyondReply (beyondReply_reply ..)
@[simp] theorem ongoing_replyLater (s : State) (d : Pend) (status : W16) (detail obj : W32) (state : Byte) :
    ongoing (replyLater s d status detail obj state) = ongoing s := ongoing_of_beyondReply (beyondReply_replyLater ..)
@[simp] theorem ongoing_sendFrame (s : State) (fr : Frame) (from_ : Option Nat) : ongoing (sendFrame s fr from_) = ongoing s :=
  ongoing_of_beyondLinks (beyondLinks_sendFrame ..)
@[simp] theorem ongoing_giveUse (s : State) (c x : Nat) : ongoing (giveUse s c x) = ongoing s := ongoing_of_beyondMem (beyondMem_giveUse ..)
@[simp] theorem ongoing_idleStamp (s : State) (cores : List Nat) : ongoing (idleStamp s cores) = ongoing s := rfl
@[simp] theorem ongoing_keepNotes (s : State) (c x : Nat) : ongoing (keepNotes s c x) = ongoing s := ongoing_modRun ..

@[simp] theorem ongoing_unpinStreams (s : State) (h : Nat) : ongoing (unpinStreams s h) = ongoing s :=
  view_foldl ongoing (fun t n => by split <;> rfl) _ _

@[simp] theorem ongoing_stopReply (s : State) (p h : Nat) : ongoing (stopReply s p h) = ongoing s := by
  unfold stopReply
  split
  · split
    · simp
    · rfl
  · rfl

@[simp] theorem ongoing_sendDigests (s : State) (p h : Nat) (r : Run) : ongoing (sendDigests s p h r) = ongoing s := by
  unfold sendDigests
  split
  next g slot j hg hj =>
    extract_lets value iv me arg s1 s2
    have hframes : ongoing s1 = ongoing s := view_foldl ongoing (fun t m => by split <;> simp) _ _
    split
    · rw [ongoing_modGraph]
      · exact hframes
      · intro _
        rfl
    · rfl
  · rfl

@[simp] theorem ongoing_attachNow (s : State) (p : Nat) (k : Packet) (resumed : Bool) : ongoing (attachNow s p k resumed) = ongoing s := by
  unfold attachNow
  extract_lets lost minor s1 spr s2
  have hattached : ongoing s2 = ongoing s := Eq.trans (b := ongoing s1) rfl (by simp [s1])
  rw [ongoing_reply]
  split
  · rw [ongoing_of_beyondReply (beyondReply_sendHeldVectors ..), hattached]
  · exact hattached

@[simp] theorem ongoing_afterRetire (s : State) (p : Nat) : ongoing (afterRetire s p) = ongoing s := by
  unfold afterRetire
  split
  · split <;> simp
  · rfl

/-! ### Runs that retire, and graphs unloaded (R169, R176) -/

@[simp] theorem ongoing_dropSet (s : State) (h : Nat) : ongoing (dropSet s h) = ongoing s := by
  unfold dropSet
  split
  · rw [view_foldl ongoing fun _ _ => ongoing_of_beyondMem (beyondMem_modBlock ..)]
    exact ongoing_modGraph s h fun _ => rfl
  · rfl

/-- An unloaded graph takes its contexts with it, and nothing else that lasts. -/
@[simp] theorem lasting_unloadNow (s : State) (h : Nat) : lasting (unloadNow s h) = lasting s := by
  unfold unloadNow
  split
  · rfl
  · rw [view_foldl lasting fun _ _ => lasting_of_ongoing (ongoing_replyLater ..)]
    refine Eq.trans (view_foldl lasting (fun t cx => ?_) _ _) (lasting_of_ongoing (ongoing_dropSet ..))
    exact lasting_modCore t cx.1 (f := fun k => { k with ctxs := tdel k.ctxs cx.2 }) fun _ => rfl

theorem runOf_stopReply (s : State) (p h i : Nat) : runOf (stopReply s p h) i = runOf s i := by
  unfold stopReply
  split
  · split
    · rw [runOf_of_graphs (graphs_replyLater ..), runOf_modGraph]
      intro _
      rfl
    · rfl
  · rfl

theorem graphs_sendFrame (s : State) (fr : Frame) (from_ : Option Nat) : (sendFrame s fr from_).graphs = s.graphs :=
  (congrArg State.graphs (beyondLinks_sendFrame s fr from_) :)

theorem runOf_sendDigests (s : State) (p h i : Nat) (r : Run) : runOf (sendDigests s p h r) i = runOf s i := by
  unfold sendDigests
  split
  next g slot j hg hj =>
    extract_lets value iv me arg s1 s2
    have hframes : s1.graphs = s.graphs := view_foldl State.graphs (fun t m => by split <;> simp [graphs_sendFrame]) _ _
    split
    · rw [runOf_modGraph]
      · exact runOf_of_graphs hframes i
      · intro _
        rfl
    · rfl
  · rfl

@[simp] theorem graphs_attachNow (s : State) (p : Nat) (k : Packet) (resumed : Bool) : (attachNow s p k resumed).graphs = s.graphs := by
  unfold attachNow
  dsimp only
  rw [graphs_reply]
  split
  · exact (congrArg (·.1.graphs) (beyondReply_sendHeldVectors _ p) :)
  · rfl

@[simp] theorem graphs_afterRetire (s : State) (p : Nat) : (afterRetire s p).graphs = s.graphs := by
  unfold afterRetire
  split
  · split <;> simp
  · rfl

theorem graph_unloadNow_same (s : State) (h : Nat) : (unloadNow s h).graph h = none := by
  unfold unloadNow
  split
  · assumption
  · rw [State.graph, view_foldl State.graphs fun _ _ => graphs_replyLater ..]
    exact tfind_tdel_same ..

/-- A run that ends gives up its place in its graph, which stays or is unloaded; nothing that lasts changes before that (R169). -/
theorem retireEnd_cases (s : State) (h : Nat) :
    (retireEnd s h = s ∧ runOf s h = none) ∨ ∃ g t, s.graph h = some g ∧ ongoing t = ongoing s ∧ runOf t h = none ∧
      retireEnd s h = afterRetire (if g.leaving then unloadNow t h else t) g.part := by
  unfold retireEnd
  split
  next hg => exact .inl ⟨rfl, by simp [runOf, hg]⟩
  next g hg =>
    split
    next hr => exact .inl ⟨rfl, by simp [runOf, hg, hr]⟩
    next r hr =>
      extract_lets p s3 s4 s5 s6 s7
      have h3 : ongoing s3 = ongoing s := by
        unfold s3
        split <;> simp
      have h4 : ongoing s4 = ongoing s3 := by
        refine view_foldl ongoing (fun t cx => ?_) _ _
        apply ongoing_modCtx <;> intro k <;> split <;> rfl
      have h5 : ongoing s5 = ongoing s4 := by simp [s5]
      have h6 : ongoing s6 = ongoing s5 := by
        unfold s6
        split <;> simp
      have hrun5 : runOf s5 h = none := by
        rw [runOf, graph_modGraph_same]
        cases (unpinStreams s4 h).graph h <;> rfl
      have hrun6 : runOf s6 h = runOf s5 h := by
        unfold s6
        split
        · exact runOf_sendDigests ..
        · rfl
      refine .inr ⟨g, s7, hg, ?_, ?_, rfl⟩
      · rw [ongoing_idleStamp, ongoing_stopReply, h6, h5, h4, h3]
      · exact ((runOf_stopReply s6 p h h).trans hrun6).trans hrun5

@[simp] theorem lasting_retireEnd (s : State) (h : Nat) : lasting (retireEnd s h) = lasting s := by
  obtain ⟨e, -⟩ | ⟨g, t, -, ht, -, e⟩ := retireEnd_cases s h <;> rw [e]
  rw [lasting_of_ongoing (ongoing_afterRetire ..), ← lasting_of_ongoing ht]
  split <;> simp

/-- Where its graph stays loaded, the end of a run leaves what goes on. -/
theorem ongoing_retireEnd {s : State} {h : Nat} (hstays : (s.graph h).map (·.leaving) ≠ some true) : ongoing (retireEnd s h) = ongoing s := by
  obtain ⟨e, -⟩ | ⟨g, t, hg, ht, -, e⟩ := retireEnd_cases s h <;> rw [e]
  rw [ongoing_afterRetire, ← ht, if_neg]
  simpa [hg] using hstays

theorem runOf_retireEnd_same (s : State) (h : Nat) : runOf (retireEnd s h) h = none := by
  obtain ⟨e, hrun⟩ | ⟨g, t, -, -, hrun, e⟩ := retireEnd_cases s h
  · rw [e, hrun]
  · rw [e, runOf_of_graphs (graphs_afterRetire ..)]
    split
    · rw [runOf, graph_unloadNow_same]
      rfl
    · exact hrun

/-- A run that retires ends, or waits with its completion held on chip; its status is as it was, and so is what lasts (R169, R390). -/
theorem retire_cases (s : State) (h : Nat) (st : Option (W16 × W32)) :
    retire s h st = s ∨ ∃ t, ongoing t = ongoing s ∧ runOf t h = runOf s h ∧
      (retire s h st = t.modRun h (fun r => { r with waiting := true }) ∨ retire s h st = retireEnd t h) := by
  unfold retire
  split
  · exact .inl rfl
  next g hg =>
    split
    · exact .inl rfl
    next r hr =>
      split
      · exact .inl rfl
      · extract_lets p s1 s2
        have h1 : ongoing s1 = ongoing s ∧ runOf s1 h = runOf s h := by
          unfold s1
          split
          · exact ⟨ongoing_modGraph s h fun _ => rfl, runOf_modGraph s h h fun _ => rfl⟩
          · exact ⟨rfl, rfl⟩
        obtain ⟨hgoing, hrun⟩ := h1
        refine .inr ⟨s2, (ongoing_complete ..).trans hgoing, (runOf_of_graphs (graphs_complete ..) h).trans hrun, ?_⟩
        split
        · exact .inl rfl
        · exact .inr rfl

@[simp] theorem lasting_retire (s : State) (h : Nat) (st : Option (W16 × W32)) : lasting (retire s h st) = lasting s := by
  obtain e | ⟨t, ht, -, e | e⟩ := retire_cases s h st <;> rw [e]
  · rw [lasting_modRun, lasting_of_ongoing ht]
  · rw [lasting_retireEnd, lasting_of_ongoing ht]

theorem leaving_of_ongoing {s t : State} (h : ongoing t = ongoing s) (i : Nat) : (t.graph i).map (·.leaving) = (s.graph i).map (·.leaving) :=
  congrFun (congrArg (·.2.2) h) i

theorem ongoing_retire {s : State} {h : Nat} (st : Option (W16 × W32)) (hstays : (s.graph h).map (·.leaving) ≠ some true) :
    ongoing (retire s h st) = ongoing s := by
  obtain e | ⟨t, ht, -, e | e⟩ := retire_cases s h st <;> rw [e]
  · rw [ongoing_modRun, ht]
  · rw [ongoing_retireEnd (by rwa [leaving_of_ongoing ht]), ht]

/-- A run that lives on after it retires is the run before, which may now wait. -/
theorem runOf_retire {s : State} {h : Nat} {st : Option (W16 × W32)} {q : Run} (hq : runOf (retire s h st) h = some q) :
    ∃ r w, runOf s h = some r ∧ q = { r with waiting := w } := by
  obtain e | ⟨t, -, hrun, e | e⟩ := retire_cases s h st <;> rw [e] at hq
  · exact ⟨q, q.waiting, hq, rfl⟩
  · rw [runOf_modRun_same, hrun] at hq
    obtain ⟨r, hr, rfl⟩ := Option.map_eq_some_iff.mp hq
    exact ⟨r, true, hr, rfl⟩
  · rw [runOf_retireEnd_same] at hq
    cases hq

/-- Whether or not a run may retire yet, it retires or nothing happens (R176, R189). -/
theorem tryRetire_cases (s : State) (h : Nat) : tryRetire s h = s ∨ tryRetire s h = retire s h none := by
  unfold tryRetire
  split
  · exact .inl rfl
  · split
    · exact .inl rfl
    · split
      · split
        · exact .inr rfl
        · exact .inl rfl
      · split
        · exact .inr rfl
        · exact .inl rfl

@[simp] theorem lasting_tryRetire (s : State) (h : Nat) : lasting (tryRetire s h) = lasting s := by
  obtain e | e := tryRetire_cases s h <;> simp [e]

theorem ongoing_tryRetire {s : State} {h : Nat} (hstays : (s.graph h).map (·.leaving) ≠ some true) : ongoing (tryRetire s h) = ongoing s := by
  obtain e | e := tryRetire_cases s h <;> rw [e]
  exact ongoing_retire none hstays

theorem runOf_tryRetire {s : State} {h : Nat} {q : Run} (hq : runOf (tryRetire s h) h = some q) : ∃ r w, runOf s h = some r ∧ q = { r with waiting := w } := by
  obtain e | e := tryRetire_cases s h <;> rw [e] at hq
  · exact ⟨q, q.waiting, hq, rfl⟩
  · exact runOf_retire hq

end Sys2Proof.Machine
end

section
/-! The cores and graphs family (04_cores_and_graphs.md): how tasks end, and core reset, engine fence and context parity. -/

namespace Sys2Proof.Machine

/-! ### Tasks that become READY -/

@[simp] theorem beyondMem_modCore (s : State) (c : Nat) (f : Core → Core) : beyondMem (s.modCore c f) = (beyondMem s).modCore c f := rfl
@[simp] theorem beyondMem_modCtx (s : State) (c x : Nat) (f : Ctx → Ctx) : beyondMem (s.modCtx c x f) = (beyondMem s).modCtx c x f := rfl

/-- A change of a core that keeps its contexts keeps every context. -/
theorem ctx_modCore (s : State) (c : Nat) {f : Core → Core} (hf : ∀ k, (f k).ctxs = k.ctxs) (d x : Nat) : (s.modCore c f).ctx d x = s.ctx d x := by
  unfold State.ctx
  by_cases hd : d = c
  · subst hd
    rw [core_modCore_same, hf]
  · rw [core_modCore_other _ _ hd]

theorem ongoing_modCore (s : State) (c : Nat) {f : Core → Core} (hshell : ∀ k, coreShell (f k) = coreShell k) (hctxs : ∀ k, (f k).ctxs = k.ctxs) :
    ongoing (s.modCore c f) = ongoing s :=
  Prod.ext (lasting_modCore s c hshell) (Prod.ext (funext fun d => funext fun x => congrArg (fun k : Ctx => (k.outcome, k.failure)) (ctx_modCore s c hctxs d x)) rfl)

@[simp] theorem ongoing_resumeVtime (s : State) (c p : Nat) : ongoing (resumeVtime s c p) = ongoing s := by
  unfold resumeVtime
  dsimp only
  split
  · rfl
  · split
    · rfl
    · exact ongoing_modCore s c (fun _ => rfl) (fun _ => rfl)

@[simp] theorem ctx_resumeVtime (s : State) (c p d x : Nat) : (resumeVtime s c p).ctx d x = s.ctx d x := by
  unfold resumeVtime
  dsimp only
  split
  · rfl
  · split
    · rfl
    · apply ctx_modCore
      intro _
      rfl

@[simp] theorem graphs_resumeVtime (s : State) (c p : Nat) : (resumeVtime s c p).graphs = s.graphs := by
  unfold resumeVtime
  dsimp only
  split
  · rfl
  · split <;> rfl

theorem graphs_of_beyondMem {s t : State} (h : beyondMem t = beyondMem s) : t.graphs = s.graphs := (congrArg State.graphs h :)
theorem cores_of_beyondMem {s t : State} (h : beyondMem t = beyondMem s) : t.cores = s.cores := (congrArg State.cores h :)
theorem fab_of_beyondMem {s t : State} (h : beyondMem t = beyondMem s) : t.fab = s.fab := (congrArg State.fab h :)
theorem ctx_of_beyondMem {s t : State} (h : beyondMem t = beyondMem s) (c x : Nat) : t.ctx c x = s.ctx c x := (congrArg (State.ctx · c x) h :)

@[simp] theorem ongoing_makeReady (s : State) (c x : Nat) : ongoing (makeReady s c x) = ongoing s := by
  unfold makeReady
  dsimp only
  rw [ongoing_of_beyondMem (beyondMem_fetchEntries ..)]
  simp

@[simp] theorem graphs_makeReady (s : State) (c x : Nat) : (makeReady s c x).graphs = s.graphs :=
  (graphs_of_beyondMem (beyondMem_fetchEntries ..)).trans (graphs_resumeVtime ..)

/-- A task that becomes READY keeps its counters. -/
theorem counters_makeReady (s : State) (c x : Nat) : ((makeReady s c x).ctx c x).counters = (s.ctx c x).counters := by
  unfold makeReady
  dsimp only
  rw [ctx_of_beyondMem (beyondMem_fetchEntries ..), ctx_modCtx_same, ctx_resumeVtime]

@[simp] theorem ongoing_checkReady (s : State) (c x : Nat) : ongoing (checkReady s c x) = ongoing s := by
  unfold checkReady
  split <;> simp

@[simp] theorem graphs_checkReady (s : State) (c x : Nat) : (checkReady s c x).graphs = s.graphs := by
  unfold checkReady
  split <;> simp

@[simp] theorem ongoing_decrement (s : State) (c x k : Nat) : ongoing (decrement s c x k) = ongoing s :=
  (ongoing_checkReady ..).trans (ongoing_modCtx s c x (fun _ => rfl) (fun _ => rfl))

@[simp] theorem graphs_decrement (s : State) (c x k : Nat) : (decrement s c x k).graphs = s.graphs := graphs_checkReady ..

/-- A decrement lowers its counter by one, whether or not the task becomes READY by it (R173). -/
theorem counters_decrement (s : State) (c x k : Nat) :
    ((decrement s c x k).ctx c x).counters = (s.ctx c x).counters.set k ((s.ctx c x).counters.getD k 0 - 1) := by
  unfold decrement checkReady
  split
  · rw [counters_makeReady, ctx_modCtx_same]
  · rw [ctx_modCtx_same]

@[simp] theorem ongoing_decrementAll (s : State) (c : Nat) (l : List Succ) : ongoing (decrementAll s c l) = ongoing s :=
  view_foldl ongoing (fun _ _ => ongoing_decrement ..) _ _

@[simp] theorem graphs_decrementAll (s : State) (c : Nat) (l : List Succ) : (decrementAll s c l).graphs = s.graphs :=
  view_foldl State.graphs (fun _ _ => graphs_decrement ..) _ _

/-! ### Tasks that end -/

@[simp] theorem ongoing_coreDoneCheck (s : State) (c h : Nat) : ongoing (coreDoneCheck s c h) = ongoing s := by
  unfold coreDoneCheck
  split
  · rfl
  · dsimp only
    split <;> simp

/-- A task that is DONE with an outcome, counted by its core. -/
def endedTask (s : State) (c x : Nat) (outcome : TaskOutcome) : State :=
  (s.modCtx c x (fun k => { k with state := .done, outcome := outcome })).modCore c (fun q => { q with doneCnt := satInc q.doneCnt })

/-- A task that is DONE as failed with a status, counted by its core. -/
def failedTask (s : State) (c x : Nat) (status : W16) : State :=
  (s.modCtx c x (fun k => { k with state := .done, outcome := .failed, failure := some status.toNat })).modCore c (fun q => { q with doneCnt := satInc q.doneCnt })

/-- Whether the graph of a context is loaded and stays so when its run ends. -/
def staysLoaded (s : State) (c x : Nat) : Prop := (s.graph (s.ctx c x).graph.toNat).map (·.leaving) ≠ some true

/-- What goes on after a task's end is what goes on after the task alone is DONE (R173, R175, R186). -/
theorem ongoing_finishTask {s : State} {c x : Nat} (outcome : TaskOutcome) (hstays : staysLoaded s c x) :
    ongoing (finishTask s c x outcome) = ongoing (endedTask s c x outcome) := by
  unfold finishTask
  extract_lets k h held s1 s2 s3 s4 s5 s6
  have h1 : beyondMem s1 = beyondMem s := by
    unfold s1
    split <;> simp
  have h3 : ongoing s3 = ongoing (endedTask s c x outcome) := ongoing_of_beyondMem (by simp [s3, s2, endedTask, h1])
  have h5 : ongoing s5 = ongoing s4 := by
    unfold s5
    split
    · exact ongoing_of_beyondMem (beyondMem_flushAfter ..)
    · rfl
  have h7 : ongoing (coreDoneCheck (idleStamp s6 [c]) c h) = ongoing (endedTask s c x outcome) := by
    rw [ongoing_coreDoneCheck, ongoing_idleStamp, ongoing_decrementAll, h5, ongoing_keepNotes, h3]
  rw [ongoing_tryRetire, h7]
  rw [leaving_of_ongoing h7]
  exact hstays

theorem ongoing_failTask {s : State} {c x : Nat} (status : W16) (hstays : staysLoaded s c x) :
    ongoing (failTask s c x status) = ongoing (failedTask (leaveQueues s c x) c x status) := by
  unfold failTask
  extract_lets k h s1 held s2 s3 s4 s5
  have h2 : beyondMem s2 = beyondMem s1 := by
    unfold s2
    split <;> simp
  have h4 : ongoing s4 = ongoing (failedTask s1 c x status) := ongoing_of_beyondMem (by simp [s4, s3, failedTask, h2])
  have h6 : ongoing (decrementAll s5 c k.task.succs) = ongoing (failedTask s1 c x status) := by
    rw [ongoing_decrementAll, ongoing_modRun, ongoing_keepNotes, h4]
  rw [ongoing_tryRetire, h6]
  rw [leaving_of_ongoing h6]
  exact hstays

/-- The notes kept on a run are all that changes of it (R94). -/
theorem runOf_keepNotes {s : State} {c x i : Nat} {q : Run} (hq : runOf (keepNotes s c x) i = some q) : ∃ r n, runOf s i = some r ∧ q = { r with notes := n } := by
  unfold keepNotes at hq
  by_cases hi : i = (s.ctx c x).graph.toNat
  · rw [← hi, runOf_modRun_same] at hq
    obtain ⟨r, hr, rfl⟩ := Option.map_eq_some_iff.mp hq
    exact ⟨r, _, hr, rfl⟩
  · refine ⟨q, q.notes, ?_, rfl⟩
    rwa [runOf, State.modRun, graph_modGraph_other _ _ hi] at hq

/-- The run of a failed task, where it lives on, is stopped and keeps the earliest failure (R176). -/
theorem runOf_failTask {s : State} {c x : Nat} {status : W16} {r q : Run} (hr : runOf s (s.ctx c x).graph.toNat = some r)
    (hq : runOf (failTask s c x status) (s.ctx c x).graph.toNat = some q) :
    q.stopped = true ∧ q.failure = if r.failure.isSome || r.ending.isSome then r.failure else some (status.toNat, (s.ctx c x).task.index, (s.ctx c x).task.core) := by
  unfold failTask at hq
  extract_lets k h s1 held s2 s3 s4 s5 at hq
  have hgraphs : s4.graphs = s.graphs := by
    have h2 : s2.graphs = s1.graphs := by
      unfold s2
      split
      · exact graphs_of_beyondMem (beyondMem_giveUse ..)
      · rfl
    exact h2
  obtain ⟨r6, w, h6, rfl⟩ := runOf_tryRetire hq
  rw [runOf_of_graphs (graphs_decrementAll ..), runOf_modRun_same] at h6
  obtain ⟨r5, h5, rfl⟩ := Option.map_eq_some_iff.mp h6
  obtain ⟨r4, n, h4, rfl⟩ := runOf_keepNotes h5
  rw [runOf_of_graphs hgraphs, hr] at h4
  cases h4
  exact ⟨rfl, rfl⟩

/-! ### What is read after a task's end -/

theorem cad_of_ongoing {s t : State} (h : ongoing t = ongoing s) : t.cad = s.cad := congrArg (·.1.1) h
theorem doneCnt_of_ongoing {s t : State} (h : ongoing t = ongoing s) (c : Nat) : (t.core c).doneCnt = (s.core c).doneCnt :=
  (congrArg (fun v => (v.1.2.1 c).doneCnt) h :)
theorem outcome_of_ongoing {s t : State} (h : ongoing t = ongoing s) (c x : Nat) : (t.ctx c x).outcome = (s.ctx c x).outcome :=
  (congrArg (fun v => (v.2.1 c x).1) h :)
theorem failure_of_ongoing {s t : State} (h : ongoing t = ongoing s) (c x : Nat) : (t.ctx c x).failure = (s.ctx c x).failure :=
  (congrArg (fun v => (v.2.1 c x).2) h :)

theorem ctx_endedTask_same (s : State) (c x : Nat) (outcome : TaskOutcome) :
    (endedTask s c x outcome).ctx c x = { s.ctx c x with state := .done, outcome := outcome } := by
  rw [endedTask, ctx_modCore, ctx_modCtx_same]
  intro _
  rfl

theorem ctx_failedTask_same (s : State) (c x : Nat) (status : W16) :
    (failedTask s c x status).ctx c x = { s.ctx c x with state := .done, outcome := .failed, failure := some status.toNat } := by
  rw [failedTask, ctx_modCore, ctx_modCtx_same]
  intro _
  rfl

theorem doneCnt_endedTask (s : State) (c x : Nat) (outcome : TaskOutcome) : ((endedTask s c x outcome).core c).doneCnt = satInc (s.core c).doneCnt := by
  simp [endedTask, State.modCtx]

theorem doneCnt_failedTask (s : State) (c x : Nat) (status : W16) : ((failedTask s c x status).core c).doneCnt = satInc (s.core c).doneCnt := by
  simp [failedTask, State.modCtx]

section
variable {s : State} {c x : Nat} (outcome : TaskOutcome) (status : W16) (hstays : staysLoaded s c x)
include hstays

theorem outcome_finishTask : ((finishTask s c x outcome).ctx c x).outcome = outcome := by
  rw [outcome_of_ongoing (ongoing_finishTask outcome hstays), ctx_endedTask_same]

theorem doneCnt_finishTask : ((finishTask s c x outcome).core c).doneCnt = satInc (s.core c).doneCnt := by
  rw [doneCnt_of_ongoing (ongoing_finishTask outcome hstays), doneCnt_endedTask]

theorem cad_finishTask : (finishTask s c x outcome).cad = s.cad := (cad_of_ongoing (ongoing_finishTask outcome hstays)).trans rfl

theorem ctx_failTask : ((failTask s c x status).ctx c x).outcome = .failed ∧ ((failTask s c x status).ctx c x).failure = some status.toNat := by
  rw [outcome_of_ongoing (ongoing_failTask status hstays), failure_of_ongoing (ongoing_failTask status hstays), ctx_failedTask_same]
  exact ⟨rfl, rfl⟩

theorem doneCnt_failTask : ((failTask s c x status).core c).doneCnt = satInc (s.core c).doneCnt := by
  rw [doneCnt_of_ongoing (ongoing_failTask status hstays), doneCnt_failedTask, leaveQueues, core_modCore_same]

end

/-! ### How a task that ran is DONE -/

theorem taskDone_of_skipped {s : State} {c x : Nat} (h : (s.ctx c x).outcome = .skipped) :
    taskDone s c x = finishTask { s with cad.pSkip := bump32 s.cad.pSkip (s.ctx c x).part } c x .skipped := by
  simp [taskDone, h]

/-- A task past its deadline is late (R221, R225). -/
theorem taskDone_of_tardy {s : State} {c x d : Nat} (h : (s.ctx c x).outcome ≠ .skipped) (hd : deadlineOf s (s.ctx c x) = some d) (hlate : d < extTime s) :
    taskDone s c x = finishTask { noteMissed s c x with cad.pLate := bump32 (noteMissed s c x).cad.pLate (s.ctx c x).part } c x .late := by
  simp [taskDone, h, hd, hlate]

/-- A task within its deadline, and with none missed before, is completed. -/
theorem taskDone_of_timely {s : State} {c x : Nat} (h : (s.ctx c x).outcome = .none)
    (hd : (deadlineOf s (s.ctx c x)).all (fun d => decide (extTime s ≤ d)) = true) : taskDone s c x = finishTask s c x .completed := by
  unfold taskDone
  cases hdl : deadlineOf s (s.ctx c x) with
  | none => simp [h, hdl]
  | some d =>
    have hle : extTime s ≤ d := by simpa [hdl] using hd
    simp [h, hdl, hle]

@[simp] theorem ongoing_noteMissed (s : State) (c x : Nat) : ongoing (noteMissed s c x) = ongoing s := by
  unfold noteMissed
  extract_lets k s0 s1
  have h1 : ongoing s1 = ongoing s := by simp [s1, s0]
  split
  · rfl
  · split <;> exact h1

theorem graph_ctx_noteMissed (s : State) (c x : Nat) : ((noteMissed s c x).ctx c x).graph = (s.ctx c x).graph := by
  unfold noteMissed
  extract_lets k s0 s1
  have h1 : (s1.ctx c x).graph = (s.ctx c x).graph := (congrArg Ctx.graph (ctx_modCtx_same s c x fun q => { q with missed := true }) :)
  split
  · rfl
  · split <;> exact h1

theorem staysLoaded_noteMissed {s : State} {c x : Nat} (h : staysLoaded s c x) : staysLoaded (noteMissed s c x) c x := by
  unfold staysLoaded
  rw [graph_ctx_noteMissed, leaving_of_ongoing (ongoing_noteMissed s c x)]
  exact h

/-- The first half of O46: how a task ends (R175, R176, R221, R225, R226). -/
theorem task_ends {s : State} {c x : Nat} {k : Ctx} {g : Graph} {r : Run} (hk : k = s.ctx c x) (hg : s.graph k.graph.toNat = some g) (hr : g.run = some r)
    (hleaving : g.leaving = false) :
    (((deadlineOf s k).all (fun d => decide (extTime s ≤ d))) = true → k.outcome = .none → ((taskDone s c x).ctx c x).outcome = .completed ∧ ((taskDone s c x).core c).doneCnt = satInc (s.core c).doneCnt ∧ (taskDone s c x).cad.pLate = s.cad.pLate) ∧
    (∀ d, deadlineOf s k = some d → d < extTime s → k.outcome ≠ .skipped → ((taskDone s c x).ctx c x).outcome = .late ∧ (taskDone s c x).cad.pLate = bump32 s.cad.pLate k.part) ∧
    (k.outcome = .skipped → ((taskDone s c x).ctx c x).outcome = .skipped ∧ (taskDone s c x).cad.pSkip = bump32 s.cad.pSkip k.part ∧ (taskDone s c x).cad.pLate = s.cad.pLate) ∧
    (∀ st : W16, ((failTask s c x st).ctx c x).outcome = .failed ∧ ((failTask s c x st).ctx c x).failure = some st.toNat ∧ ((failTask s c x st).core c).doneCnt = satInc (s.core c).doneCnt ∧
      (∀ q, runOf (failTask s c x st) k.graph.toNat = some q → q.stopped = true ∧ q.failure = (if r.failure.isSome || r.ending.isSome then r.failure else some (st.toNat, k.task.index, k.task.core)))) := by
  subst hk
  have hstays : staysLoaded s c x := by simp [staysLoaded, hg, hleaving]
  refine ⟨fun hd ho => ?_, fun d hd hlate ho => ?_, fun ho => ?_, fun st => ?_⟩
  · rw [taskDone_of_timely ho hd]
    exact ⟨outcome_finishTask _ hstays, doneCnt_finishTask _ hstays, congrArg Cad.pLate (cad_finishTask _ hstays)⟩
  · rw [taskDone_of_tardy ho hd hlate]
    have hmissed : staysLoaded { noteMissed s c x with cad.pLate := bump32 (noteMissed s c x).cad.pLate (s.ctx c x).part } c x := staysLoaded_noteMissed hstays
    refine ⟨outcome_finishTask _ hmissed, ?_⟩
    rw [cad_finishTask _ hmissed, cad_of_ongoing (ongoing_noteMissed s c x)]
  · rw [taskDone_of_skipped ho]
    have hskip : staysLoaded { s with cad.pSkip := bump32 s.cad.pSkip (s.ctx c x).part } c x := hstays
    rw [cad_finishTask _ hskip]
    exact ⟨outcome_finishTask _ hskip, rfl, rfl⟩
  · obtain ⟨houtcome, hfailure⟩ := ctx_failTask st hstays
    exact ⟨houtcome, hfailure, doneCnt_failTask st hstays, fun q hq => runOf_failTask (by rw [runOf, hg]; exact hr) hq⟩

/-! ### Core reset (R195) -/

@[simp] theorem lasting_failRun (s : State) (h : Nat) (status : W16) : lasting (failRun s h status) = lasting s := by
  unfold failRun
  split <;> simp

@[simp] theorem ongoing_dropFabric (s : State) (g : Graph) : ongoing (dropFabric s g) = ongoing s := rfl

@[simp] theorem lasting_loseCore (s : State) (c h : Nat) : lasting (loseCore s c h) = lasting s := by
  unfold loseCore
  split
  · rfl
  next g hg =>
    extract_lets mine s0 s1 s2
    have h0 : ongoing s0 = ongoing s := by
      refine view_foldl ongoing (fun t x => ?_) _ _
      dsimp only
      split <;> simp
    have h2 : lasting s2 = lasting s := by
      rw [lasting_modRun, lasting_modGraph, lasting_of_ongoing (ongoing_dropFabric ..), lasting_of_ongoing (ongoing_dropSet ..), lasting_of_ongoing h0]
    split
    · rw [lasting_failRun, h2]
    · rw [lasting_unloadNow, h2]

/-- A core that is on loses what a core reset clears, and nothing of its domain, clocks and point (R195). -/
theorem coreReset_of_on {s : State} {c : Nat} (hon : (s.core c).on = true) :
    ∃ t : State, coreReset s c = t.modCore c resetCore ∧ coreShell (t.core c) = coreShell (s.core c) := by
  refine ⟨(graphsOn s c).foldl (fun t h => loseCore t c h) s, ?_, ?_⟩
  · rw [coreReset, if_neg (by simp [hon])]
  · have hlast := view_foldl lasting (fun t h => lasting_loseCore t c h) (graphsOn s c) s
    exact (congrArg (fun v => v.2.1 c) hlast :)

theorem coreReset_of_off {s : State} {c : Nat} (hoff : (s.core c).on = false) : coreReset s c = s := by
  rw [coreReset, if_pos (by simp [hoff])]

theorem tget_tmap {α : Type} (d : α) (f : α → α) (hd : f d = d) (t : Tbl α) (i : Nat) : tget d (tmap f t) i = f (tget d t i) := by
  induction t with
  | nil => exact hd.symm
  | cons e r ih =>
    obtain ⟨k, v⟩ := e
    by_cases hk : k = i
    · simp [tmap, tget, hk]
    · simpa [tmap, tget, hk] using ih

/-- An engine after a reset of its core has no queue and no task, and a fence stays (R154, R155). -/
theorem resetEngine_cleared (e : Engine) : (resetEngine e).queue = [] ∧ (resetEngine e).run = none ∧ (e.state = .fenced → (resetEngine e).state = .fenced) := by
  unfold resetEngine
  split
  · exact ⟨rfl, rfl, fun _ => rfl⟩
  · exact ⟨rfl, rfl, fun _ => rfl⟩
  next hfenced _ => exact ⟨rfl, rfl, fun h => absurd h hfenced⟩

theorem engine_coreReset {s : State} {c : Nat} (hon : (s.core c).on = true) (e : Nat) : (coreReset s c).engine c e = resetEngine (s.engine c e) := by
  obtain ⟨t, ht, hshell⟩ := coreReset_of_on hon
  have hengines : (t.core c).engines = (s.core c).engines := (congrArg Core.engines hshell :)
  rw [ht, State.engine, core_modCore_same, resetCore, tget_tmap _ _ rfl, hengines]
  rfl

/-! ### Fences (R153) -/

theorem cores_sendFrame (s : State) (fr : Frame) (from_ : Option Nat) : (sendFrame s fr from_).cores = s.cores :=
  (congrArg State.cores (beyondLinks_sendFrame s fr from_) :)

theorem cores_of_beyondReply {s t : State} (h : beyondReply t = beyondReply s) : t.cores = s.cores := (congrArg (·.1.cores) h :)

theorem cores_refill (s : State) : (refill s).cores = s.cores := by
  unfold refill
  dsimp only
  split <;> rfl

theorem cores_rindQueue (s : State) (code : Nat) (pinned : Bool) (body : List Byte) : (rindQueue s code pinned body).cores = s.cores := by
  unfold rindQueue
  dsimp only
  split
  · split
    · rfl
    · split <;> rfl
  · split <;> exact cores_refill s

/-- A report leaves the cores (R586). -/
theorem cores_issueReportBody (s : State) (r : ReportRec) (body : List Byte) : (issueReportBody s r body).cores = s.cores := by
  unfold issueReportBody
  extract_lets code pin prev recent rel seq toRind reps s1 r1 rel1 s2 s3 s4 s5
  have h1 : s1.cores = s.cores := by
    unfold s1
    split
    · exact cores_rindQueue ..
    · rfl
  have h4 : s4.cores = s.cores := by
    unfold s4
    split
    · exact h1
    · exact (cores_sendFrame ..).trans h1
  have h5 : s5.cores = s.cores := (cores_of_beyondReply (beyondReply_globalLog ..)).trans h4
  split
  · rfl
  · split
    · exact (cores_of_beyondReply (beyondReply_partLog ..)).trans h5
    · exact h5

/-- A fence's announcement leaves the cores (R576). -/
theorem cores_announceFence (s : State) (unit : W16) (isCore : Bool) : (announceFence s unit isCore).cores = s.cores :=
  (view_foldl State.cores (fun _ _ => cores_sendFrame ..) _ _).trans (cores_issueReportBody ..)

/-! ### Tasks that a fence returns (R193) -/

/-- A task as a fence returns it: READY for another engine (R193). -/
def Returned (k : Ctx) : Prop := k.state = .ready ∧ k.redisp = true ∧ k.engine = none

theorem ctx_returnTask_same (s : State) (c x : Nat) : (returnTask s c x).ctx c x =
    { s.ctx c x with state := .ready, engine := none, redisp := true, fetched := false, notes := 0, digest := 0 } := by
  rw [returnTask, ctx_modCtx_same, ctx_of_beyondMem (beyondMem_giveUse ..)]
  rfl

theorem ctx_returnTask_other (s : State) {c x y : Nat} (h : y ≠ x) : (returnTask s c x).ctx c y = s.ctx c y := by
  rw [returnTask, ctx_modCtx_other _ _ (.inr h), ctx_of_beyondMem (beyondMem_giveUse ..)]
  rfl

theorem readyTs_returnTask (s : State) (c x y : Nat) : ((returnTask s c x).ctx c y).readyTs = (s.ctx c y).readyTs := by
  by_cases h : y = x
  · subst h
    rw [ctx_returnTask_same]
  · rw [ctx_returnTask_other s h]

theorem lasting_returnTask (s : State) (c x : Nat) : lasting (returnTask s c x) = lasting s := by
  rw [returnTask, lasting_modCtx, lasting_of_ongoing (ongoing_giveUse ..), lasting_of_ongoing (ongoing_keepNotes ..)]

/-- Of the tasks returned one after another, each is returned at the end, and so is every one that was before. -/
theorem returned_foldl (c : Nat) {x : Nat} (l : List Nat) (s : State) (h : x ∈ l ∨ Returned (s.ctx c x)) :
    Returned ((l.foldl (fun t y => returnTask t c y) s).ctx c x) := by
  induction l generalizing s with
  | nil => simpa using h
  | cons y l ih =>
    apply ih
    by_cases hxy : x = y
    · subst hxy
      rw [ctx_returnTask_same]
      exact .inr ⟨rfl, rfl, rfl⟩
    · rw [ctx_returnTask_other s hxy]
      exact h.imp_left fun hm => (List.mem_cons.mp hm).resolve_left hxy

/-! ### Checks that move -/

/-- What the moves of duplicates leave: every core but for its engines, and every engine but for its check slot (R570). -/
def beyondSlots (s : State) : (Nat → Core) × (Nat → Nat → Engine) :=
  (fun c => { s.core c with engines := [] }, fun c e => { s.engine c e with slot := noSlot })

theorem beyondSlots_modSlot (s : State) (c e : Nat) (f : CheckSlot → CheckSlot) :
    beyondSlots (s.modEngine c e (fun g => { g with slot := f g.slot })) = beyondSlots s := by
  refine Prod.ext (funext fun d => ?_) (funext fun d => funext fun i => ?_)
  · by_cases hd : d = c
    · subst hd
      simp [beyondSlots, State.modEngine]
    · simp [beyondSlots, State.modEngine, core_modCore_other _ _ hd]
  · by_cases h : d = c ∧ i = e
    · obtain ⟨rfl, rfl⟩ := h
      simp [beyondSlots]
    · simp [beyondSlots, engine_modEngine_other _ _ (by tauto : d ≠ c ∨ i ≠ e)]

theorem beyondSlots_moveChecks (s : State) (idx : Nat) : beyondSlots (moveChecks s idx) = beyondSlots s := by
  unfold moveChecks
  refine view_foldl beyondSlots (fun t k => view_foldl beyondSlots (fun u e => ?_) _ _) _ _
  dsimp only
  split
  · rfl
  · split
    next i _ => exact beyondSlots_modSlot u k.1 e.1 fun v => { v with checker := i }
    · exact beyondSlots_modSlot u k.1 e.1 fun _ => noSlot

/-- A fold of which no step changes its state gives the state back. -/
theorem foldl_eq_self {α β : Type} {f : α → β → α} {a : α} (l : List β) (h : ∀ b ∈ l, f a b = a) : l.foldl f a = a := by
  induction l with
  | nil => rfl
  | cons b l ih =>
    rw [List.foldl_cons, h b (List.mem_cons_self ..)]
    exact ih fun b hb => h b (List.mem_cons_of_mem _ hb)

/-- A property of the check slots of all engines listed. -/
def SlotsAll (P : CheckSlot → Prop) (s : State) : Prop := ∀ q ∈ s.cores, ∀ g ∈ q.2.engines, P g.2.slot

/-- Where no duplicate waits for a checker, its fence moves none (R570). -/
theorem moveChecks_eq_self {s : State} {idx : Nat} (h : SlotsAll (fun v => v.stage = .empty ∨ v.checker ≠ idx) s) : moveChecks s idx = s := by
  unfold moveChecks
  refine foldl_eq_self _ fun q hq => foldl_eq_self _ fun g hg => if_pos ?_
  obtain hempty | hother := h q hq g hg
  · simp [hempty]
  · simp [hother]

theorem mem_tset {α : Type} {t : Tbl α} {i : Nat} {v : α} {e : Nat × α} (h : e ∈ tset t i v) : e ∈ t ∨ e = (i, v) := by
  induction t with
  | nil => exact .inr (by simpa [tset] using h)
  | cons a r ih =>
    obtain ⟨k, w⟩ := a
    unfold tset at h
    split at h
    · obtain rfl | hr := List.mem_cons.mp h
      · exact .inr rfl
      · exact .inl (List.mem_cons_of_mem _ hr)
    · split at h
      · obtain rfl | hr := List.mem_cons.mp h
        · exact .inr rfl
        · exact .inl hr
      · obtain rfl | hr := List.mem_cons.mp h
        · exact .inl (List.mem_cons_self ..)
        · exact (ih hr).imp_left (List.mem_cons_of_mem _)

/-- An index reads the default or an entry listed. -/
theorem tget_eq_or_mem {α : Type} (d : α) (t : Tbl α) (i : Nat) : tget d t i = d ∨ (i, tget d t i) ∈ t := by
  induction t with
  | nil => exact .inl rfl
  | cons a r ih =>
    obtain ⟨k, w⟩ := a
    by_cases hk : k = i
    · subst hk
      exact .inr (by simp [tget])
    · simp only [tget, if_neg hk]
      exact ih.imp_right (List.mem_cons_of_mem _)

/-- A property of the values listed and of the default holds of what an index reads. -/
theorem tget_of_forall {α : Type} {P : α → Prop} {d : α} {t : Tbl α} (hd : P d) (ht : ∀ e ∈ t, P e.2) (i : Nat) : P (tget d t i) := by
  obtain h | h := tget_eq_or_mem d t i
  · rwa [h]
  · exact ht _ h

/-- It holds of the values listed after a change that keeps it. -/
theorem forall_tmod {α : Type} {P : α → Prop} {d : α} {t : Tbl α} {f : α → α} (hd : P d) (hf : ∀ a, P a → P (f a)) (ht : ∀ e ∈ t, P e.2) (i : Nat) :
    ∀ e ∈ tmod d t i f, P e.2 := by
  intro e he
  obtain h | rfl := mem_tset he
  · exact ht e h
  · exact hf _ (tget_of_forall hd ht i)

section
variable {P : CheckSlot → Prop} {s : State}

theorem SlotsAll.modCore (h : SlotsAll P s) (c : Nat) {f : Core → Core} (hf : ∀ k, (∀ g ∈ k.engines, P g.2.slot) → ∀ g ∈ (f k).engines, P g.2.slot) :
    SlotsAll P (s.modCore c f) :=
  forall_tmod (P := fun k : Core => ∀ g ∈ k.engines, P g.2.slot) (by simp) hf h c

theorem SlotsAll.modEngine (h : SlotsAll P s) (hempty : P {}) (c e : Nat) {f : Engine → Engine} (hf : ∀ g, (f g).slot = g.slot) : SlotsAll P (s.modEngine c e f) := by
  refine h.modCore c fun k hk => forall_tmod (P := fun g : Engine => P g.slot) hempty (fun g hg => ?_) hk e
  rwa [hf]

theorem SlotsAll.returnTask (h : SlotsAll P s) (c x : Nat) : SlotsAll P (returnTask s c x) := by
  have hcores : (giveUse (keepNotes s c x) c x).cores = s.cores :=
    (cores_of_beyondMem (beyondMem_giveUse (keepNotes s c x) c x)).trans rfl
  refine SlotsAll.modCore (s := giveUse (keepNotes s c x) c x) ?_ c fun k hk => hk
  rwa [SlotsAll, hcores]

theorem SlotsAll.returnTasks (h : SlotsAll P s) (c : Nat) (l : List Nat) : SlotsAll P (l.foldl (fun t x => Machine.returnTask t c x) s) := by
  induction l generalizing s with
  | nil => exact h
  | cons x l ih => exact ih (h.returnTask c x)

end

/-! ### An engine fenced -/

/-- The engine of R153 step by step, its check slot as it was. -/
def fencedEngine (g : Engine) : Engine :=
  { g with state := .fenced, events := raiseEv g.events 4, queue := [], run := none, held := none, t0 := [], t0Part := none, slice := 0, rampHeld := false }

section
variable (s : State) (c e : Nat)

/-- A stopped engine before the checks that it was to make move on: its tasks are returned and it is fenced (R153, R193). -/
def stoppedEngine : State := ((engineTasks (s.engine c e)).foldl (fun t x => returnTask t c x) s).modEngine c e fencedEngine

theorem lasting_returnTasks (l : List Nat) : lasting (l.foldl (fun t x => returnTask t c x) s) = lasting s :=
  view_foldl lasting (fun _ _ => lasting_returnTask ..) _ _

theorem engine_of_lasting {s t : State} (h : lasting t = lasting s) (d i : Nat) : t.engine d i = s.engine d i :=
  (congrArg (fun v => tget {} (v.2.1 d).engines i) h :)

theorem engine_stoppedEngine_same : (stoppedEngine s c e).engine c e = fencedEngine (s.engine c e) := by
  rw [stoppedEngine, engine_modEngine_same, engine_of_lasting (lasting_returnTasks ..)]

theorem engine_stoppedEngine_other {d : Nat} (h : d ≠ e) : (stoppedEngine s c e).engine c d = s.engine c d := by
  rw [stoppedEngine, engine_modEngine_other _ _ (.inr h), engine_of_lasting (lasting_returnTasks ..)]

theorem fenced_stoppedEngine : ((stoppedEngine s c e).core c).fenced = (s.core c).fenced := by
  rw [stoppedEngine, State.modEngine, core_modCore_same]
  exact (congrArg (fun v => (v.2.1 c).fenced) (lasting_returnTasks s c _) :)

theorem ctx_stoppedEngine {x : Nat} (hx : x ∈ engineTasks (s.engine c e)) :
    Returned ((stoppedEngine s c e).ctx c x) ∧ ((stoppedEngine s c e).ctx c x).readyTs = (s.ctx c x).readyTs := by
  rw [stoppedEngine, ctx_modEngine]
  exact ⟨returned_foldl c _ s (.inl hx), view_foldl (fun t => (State.ctx t c x).readyTs) (fun t y => readyTs_returnTask t c y x) _ _⟩

theorem ctx_stopEngine (x : Nat) : (stopEngine s c e).ctx c x = (stoppedEngine s c e).ctx c x :=
  (congrArg (fun v => tget {} (v.1 c).ctxs x) (beyondSlots_moveChecks (stoppedEngine s c e) (engIndex c e)) :)

theorem fenced_stopEngine : ((stopEngine s c e).core c).fenced = (s.core c).fenced :=
  (congrArg (fun v => (v.1 c).fenced) (beyondSlots_moveChecks (stoppedEngine s c e) (engIndex c e)) :).trans (fenced_stoppedEngine s c e)

/-- A stopped engine and the others of its core, but for their check slots. -/
theorem engine_stopEngine (d : Nat) : (stopEngine s c e).engine c d = { (stoppedEngine s c e).engine c d with slot := ((stopEngine s c e).engine c d).slot } := by
  have hslots : { (stopEngine s c e).engine c d with slot := noSlot } = { (stoppedEngine s c e).engine c d with slot := noSlot } :=
    (congrArg (fun v => v.2 c d) (beyondSlots_moveChecks (stoppedEngine s c e) (engIndex c e)) :)
  exact congrArg (fun g : Engine => { g with slot := ((stopEngine s c e).engine c d).slot }) hslots

/-- Where no duplicate waits for the engine, stopping it moves none. -/
theorem stopEngine_eq_stoppedEngine {s : State} {c e : Nat} (h : SlotsAll (fun v => v.stage = .empty ∨ v.checker ≠ engIndex c e) s) :
    stopEngine s c e = stoppedEngine s c e :=
  moveChecks_eq_self ((h.returnTasks c _).modEngine (.inl rfl) c e fun _ => rfl)

end

/-- An engine whose core keeps another one unfenced is fenced alone (R194). -/
theorem fenceEngine_of_other {s : State} {c e i : Nat} (he : (s.engine c e).state ≠ .fenced) (hi : i < 8) (hie : i ≠ e) (hother : (s.engine c i).state ≠ .fenced) :
    fenceEngine s c e = announceFence (stopEngine s c e) (engInit c e) false := by
  have hcores := cores_announceFence (stopEngine s c e) (engInit c e) false
  have hlive : ((announceFence (stopEngine s c e) (engInit c e) false).engine c i).state ≠ .fenced := by
    have heng : (announceFence (stopEngine s c e) (engInit c e) false).engine c i = (stopEngine s c e).engine c i := by
      rw [State.engine, State.core, hcores]
      rfl
    rwa [heng, engine_stopEngine, engine_stoppedEngine_other s c e hie]
  unfold fenceEngine
  rw [if_neg he]
  dsimp only
  rw [if_neg]
  simp only [Bool.and_eq_true, List.all_eq_true, not_and]
  intro hall
  exact absurd (by simpa using hall i (List.mem_range.mpr hi)) hlive

/-! ### Partition reset by a context parity error (R196) -/

/-- What the steps of a partition reset leave: the events of every core and the resets of every partition (R449). -/
def alarms (s : State) : (Nat → EventReg) × (Nat → PartState × W16 × BitVec 3) :=
  (fun c => (s.core c).events, fun p => resetInfo (s.part p))

theorem alarms_congr {s t : State} (hcores : t.cores = s.cores) (hparts : t.parts = s.parts) : alarms t = alarms s := by
  rw [alarms, alarms]
  simp only [State.core, State.part, hcores, hparts]

theorem alarms_of_lasting {s t : State} (h : lasting t = lasting s) : alarms t = alarms s :=
  (congrArg (fun v => ((fun c => (v.2.1 c).events, v.2.2) : (Nat → EventReg) × (Nat → PartState × W16 × BitVec 3))) h :)

theorem alarms_of_ongoing {s t : State} (h : ongoing t = ongoing s) : alarms t = alarms s := alarms_of_lasting (lasting_of_ongoing h)

theorem alarms_of_beyondMem {s t : State} (h : beyondMem t = beyondMem s) : alarms t = alarms s := alarms_of_ongoing (ongoing_of_beyondMem h)

theorem alarms_modCore (s : State) (c : Nat) {f : Core → Core} (hf : ∀ k, (f k).events = k.events) : alarms (s.modCore c f) = alarms s := by
  refine Prod.ext (funext fun d => ?_) rfl
  by_cases hd : d = c
  · subst hd
    simp [alarms, hf]
  · simp [alarms, core_modCore_other _ _ hd]

theorem alarms_mapEngines (s : State) (f : Core → Engine → Engine) : alarms (mapEngines s f) = alarms s := by
  refine Prod.ext (funext fun c => ?_) rfl
  exact (congrArg Core.events (tget_tmap {} (fun k : Core => { k with engines := tmap (f k) k.engines }) rfl s.cores c) :)

theorem alarms_leaveQueues (s : State) (c x : Nat) : alarms (leaveQueues s c x) = alarms s := alarms_modCore s c fun _ => rfl

theorem alarms_freeEngine (s : State) (c x : Nat) : alarms (freeEngine s c x) = alarms s := alarms_modCore s c fun _ => rfl

theorem alarms_endRun (s : State) (h : Nat) (status : W16) (to_ : CtxState) : alarms (endRun s h status to_) = alarms s := by
  unfold endRun
  split
  · rfl
  next g hg =>
    split
    · rfl
    next r hr =>
      extract_lets s0 s1 notes s2
      have h0 : alarms s0 = alarms s := by
        refine view_foldl alarms (fun t cx => ?_) _ _
        split
        · rfl
        · exact alarms_of_ongoing (ongoing_keepNotes ..)
      have h1 : alarms s1 = alarms s0 := by
        refine Eq.trans (view_foldl alarms (fun t cx => ?_) _ _) (alarms_of_ongoing (ongoing_dropFabric s0 g))
        dsimp only
        rw [alarms_freeEngine, alarms_leaveQueues]
        split
        · exact alarms_of_ongoing (ongoing_giveUse ..)
        · rfl
      have h2 : alarms s2 = alarms s1 := alarms_of_lasting ((lasting_retireEnd ..).trans (lasting_retire ..))
      rw [view_foldl alarms fun _ _ => alarms_of_lasting (lasting_modCtx ..), h2, h1, h0]

theorem alarms_abandonEngines (s : State) (p : Nat) : alarms (abandonEngines s p) = alarms s := by
  unfold abandonEngines
  extract_lets s1
  rw [alarms_mapEngines]
  refine view_foldl alarms (fun t k => view_foldl alarms (fun u e => ?_) _ _) _ _
  split
  · split
    · exact alarms_of_ongoing (ongoing_keepNotes ..)
    · rfl
  · rfl

theorem alarms_discardSamples (s : State) (p : Nat) : alarms (discardSamples s p) = alarms s := alarms_mapEngines ..

theorem alarms_dropCopies (s : State) (p : Nat) : alarms (dropCopies s p) = alarms s :=
  view_foldl alarms (fun t e => by
    split
    · rfl
    · exact alarms_of_beyondMem (beyondMem_dropCopy ..)) _ _

theorem alarms_replyLater (s : State) (d : Pend) (status : W16) (detail obj : W32) (state : Byte) : alarms (replyLater s d status detail obj state) = alarms s :=
  alarms_of_ongoing (ongoing_replyLater ..)

theorem alarms_abortWaits (s : State) (p : Nat) : alarms (abortWaits s p) = alarms s := by
  unfold abortWaits
  extract_lets waits s1
  have h1 : alarms s1 = alarms s := view_foldl alarms (fun _ _ => alarms_replyLater ..) _ _
  rw [← h1]
  refine view_foldl alarms (fun t e => ?_) _ _
  exact (view_foldl alarms (fun _ _ => alarms_replyLater ..) _ _).trans (alarms_of_lasting (lasting_modGraph ..))

theorem alarms_emptyStreams (s : State) (p : Nat) : alarms (emptyStreams s p) = alarms s :=
  view_foldl alarms (fun t n => by dsimp only; split <;> rfl) _ _

theorem alarms_clearMbx (s : State) (m : Nat) : alarms (clearMbx s m) = alarms s := rfl

theorem alarms_clearCounters (s : State) (p : Nat) : alarms (clearCounters s p) = alarms s := rfl

theorem alarms_endSpdm (s : State) (p : Nat) : alarms (endSpdm s p) = alarms s := rfl

theorem alarms_rereadGraph (s : State) (h : Nat) : alarms (rereadGraph s h) = alarms s := by
  unfold rereadGraph
  split
  · rfl
  · split
    · rfl
    · exact alarms_of_lasting ((lasting_of_ongoing (ongoing_complete ..)).trans (lasting_unloadNow ..))

theorem alarms_abortHand (s : State) (p : Nat) : alarms (abortHand s p) = alarms s :=
  (view_foldl alarms (fun _ _ => alarms_of_ongoing (ongoing_reply ..)) _ _).trans
    (alarms_of_ongoing (ongoing_modPart s p (fun _ => rfl) (fun _ => rfl) fun _ => rfl))

theorem alarms_resetBody (s : State) (p : Nat) : alarms (resetBody s p) = alarms s := by
  unfold resetBody
  extract_lets s1 s2 mem press spr fab s3 s4 s5
  have h2 : alarms s2 = alarms s := (view_foldl alarms (fun _ _ => alarms_endRun ..) _ _).trans (alarms_abandonEngines s p)
  have h3 : alarms s3 = alarms s2 := alarms_congr rfl rfl
  have h4 : alarms s4 = alarms s2 := (alarms_discardSamples (dropCopies s3 p) p).trans ((alarms_dropCopies s3 p).trans h3)
  have h5 : alarms s5 = alarms s4 := by
    unfold s5
    rw [alarms_clearCounters, alarms_clearMbx, alarms_emptyStreams, alarms_abortWaits]
  rw [alarms_endSpdm, view_foldl alarms alarms_rereadGraph, h5, h4, h2]

/-- A partition reset triggered while READY is counted once, with its cause (R448, R451). -/
theorem alarms_partitionReset {s : State} {p : Nat} (cause : Nat) (hready : (s.part p).state = .ready) :
    alarms (partitionReset s p cause) =
      alarms (s.modPart p fun q => { q with state := .resetting, resets := satInc q.resets, resetCause := BitVec.ofNat 3 cause }) := by
  unfold partitionReset
  rw [hready]
  calc alarms _
    _ = alarms (resetBody _ p) := alarms_of_ongoing ((ongoing_of_beyondReply (beyondReply_globalNote ..)).trans (ongoing_of_beyondReply (beyondReply_partNote ..)))
    _ = alarms _ := (alarms_resetBody ..).trans (alarms_abortHand ..)

/-! ### Core reset, engine fence and context parity (O46) -/

/-- The queue and the chip aside, what is read of an effect is read of the next state. -/
@[simp] theorem core_kept (s t : State) : (kept s t).core = t.core := rfl

theorem core_of_cores {s t : State} (h : t.cores = s.cores) : t.core = s.core := by
  unfold State.core
  rw [h]

/-- An event of a core on the chip has its effect. -/
theorem endsCore_kept {s : State} {c : Nat} (f : State) (hc : c < s.ncores) : endsCore s c f = .next (kept s f) := if_pos hc

section
variable {s : State} {c : CoreId} (hc : c.val < s.ncores)
include hc

theorem exec_coreReset_next : exec (.coreReset c) s = .next (kept s (coreReset s c.val)) := endsCore_kept _ hc

theorem exec_engineFence_next (e : EngId) : exec (.engineFence c e) s = .next (kept s (fenceEngine s c.val e.val)) := endsCore_kept _ hc

theorem exec_ctxParity_part_next (p : PartId) : exec (.ctxParity c (some p)) s = .next (kept s (partitionReset (seqEvent s c.val 0) p.val 2)) := endsCore_kept _ hc

theorem exec_ctxParity_none_next : exec (.ctxParity c none) s = .next (kept s (coreReset (seqEvent s c.val 0) c.val)) := endsCore_kept _ hc

/-- A core reset of a core that is on (R195). -/
theorem coreReset_clears (e : EngId) (hon : (s.core c.val).on = true) :
    ∃ t, exec (.coreReset c) s = .next t ∧ (t.core c.val).ctxs = [] ∧ (t.core c.val).tmQueue = [] ∧ (t.core c.val).tmRun = none ∧ (t.core c.val).qlimit = 4 ∧ (t.core c.val).doneCnt = 0 ∧ (t.core c.val).events = {} ∧
      (t.core c.val).on = true ∧ (t.core c.val).op = (s.core c.val).op ∧ (t.engine c.val e.val).queue = [] ∧ (t.engine c.val e.val).run = none ∧ ((s.engine c.val e.val).state = .fenced → (t.engine c.val e.val).state = .fenced) := by
  obtain ⟨t, ht, hshell⟩ := coreReset_of_on hon
  obtain ⟨hqueue, hrun, hfenced⟩ := resetEngine_cleared (s.engine c.val e.val)
  have hcore : (kept s (coreReset s c.val)).core c.val = resetCore (t.core c.val) := (congrArg (State.core · c.val) ht).trans (core_modCore_same ..)
  have hengine : (kept s (coreReset s c.val)).engine c.val e.val = resetEngine (s.engine c.val e.val) := engine_coreReset hon e.val
  refine ⟨_, exec_coreReset_next hc, ?_⟩
  rw [hcore, hengine]
  have hsame : (t.core c.val).on = (s.core c.val).on := (congrArg Core.on hshell :)
  exact ⟨rfl, rfl, rfl, rfl, rfl, rfl, hsame.trans hon, (congrArg Core.op hshell :), hqueue, hrun, hfenced⟩

/-- A fence of one engine of several stops that engine, and its announcement leaves the cores (R153, R576). -/
theorem engineFence_next {e : EngId} {i : Nat} (hi : i < 8) (hie : i ≠ e.val) (hother : (s.engine c.val i).state ≠ .fenced) (he : (s.engine c.val e.val).state ≠ .fenced) :
    ∃ t, exec (.engineFence c e) s = .next t ∧ t.core = (stopEngine s c.val e.val).core := by
  refine ⟨_, exec_engineFence_next hc e, ?_⟩
  rw [fenceEngine_of_other he hi hie hother]
  rw [core_kept, core_of_cores (cores_announceFence ..)]

/-- What a fence of one engine of several clears, and what it leaves (R153, R193, R570). -/
theorem engineFence_clears {e : EngId} {i : Nat} (hi : i < 8) (hie : i ≠ e.val) (hother : (s.engine c.val i).state ≠ .fenced) (he : (s.engine c.val e.val).state ≠ .fenced) :
    ∃ t, exec (.engineFence c e) s = .next t ∧ (t.engine c.val e.val).state = .fenced ∧ (t.engine c.val e.val).queue = [] ∧ (t.engine c.val e.val).run = none ∧ (t.engine c.val e.val).held = none ∧ (t.engine c.val e.val).t0 = [] ∧
        (∀ x ∈ engineTasks (s.engine c.val e.val), (t.ctx c.val x).state = .ready ∧ (t.ctx c.val x).redisp = true ∧ (t.ctx c.val x).engine = none ∧ (t.ctx c.val x).readyTs = (s.ctx c.val x).readyTs) ∧
        (∀ d, d ≠ e.val → t.engine c.val d = { s.engine c.val d with slot := (t.engine c.val d).slot }) ∧
        ((∀ q ∈ s.cores, ∀ g ∈ q.2.engines, g.2.slot.stage = .empty ∨ g.2.slot.checker ≠ engIndex c.val e.val) → ∀ d, d ≠ e.val → t.engine c.val d = s.engine c.val d) ∧ (t.core c.val).fenced = (s.core c.val).fenced := by
  obtain ⟨t, ht, hcore⟩ := engineFence_next hc hi hie hother he
  have hctx : t.ctx c.val = (stopEngine s c.val e.val).ctx c.val := congrArg (fun k : Nat → Core => tget ({} : Ctx) (k c.val).ctxs) hcore
  have hengine : t.engine c.val = (stopEngine s c.val e.val).engine c.val := congrArg (fun k : Nat → Core => tget ({} : Engine) (k c.val).engines) hcore
  have hstopped : (stopEngine s c.val e.val).engine c.val e.val = { fencedEngine (s.engine c.val e.val) with slot := ((stopEngine s c.val e.val).engine c.val e.val).slot } := by
    rw [← engine_stoppedEngine_same, ← engine_stopEngine]
  refine ⟨t, ht, ?_⟩
  rw [hctx, hengine, hcore, hstopped]
  refine ⟨rfl, rfl, rfl, rfl, rfl, fun x hx => ?_, fun d hd => ?_, fun hslots d hd => ?_, fenced_stopEngine ..⟩
  · obtain ⟨⟨hstate, hredisp, hnone⟩, hready⟩ := ctx_stoppedEngine s c.val e.val hx
    rw [ctx_stopEngine]
    exact ⟨hstate, hredisp, hnone, hready⟩
  · rw [← engine_stoppedEngine_other s c.val e.val hd]
    exact engine_stopEngine ..
  · rw [stopEngine_eq_stoppedEngine hslots, engine_stoppedEngine_other _ _ _ hd]

/-- A context parity error resets the partition that owns the context (R196). -/
theorem ctxParity_resets (p : PartId) (hready : (s.part p.val).state = .ready) :
    ∃ t, exec (.ctxParity c (some p)) s = .next t ∧ (t.part p.val).state = .resetting ∧ (t.part p.val).resetCause = 2 ∧ (t.part p.val).resets = satInc (s.part p.val).resets ∧
      (t.core c.val).events = raiseEv (s.core c.val).events 0 := by
  refine ⟨_, exec_ctxParity_part_next hc p, ?_⟩
  have halarms := alarms_partitionReset (s := seqEvent s c.val 0) (p := p.val) 2 hready
  have hreset : resetInfo ((partitionReset (seqEvent s c.val 0) p.val 2).part p.val) = (.resetting, satInc (s.part p.val).resets, 2) := by
    refine (congrFun (congrArg Prod.snd halarms) p.val :).trans ?_
    dsimp only [alarms]
    rw [part_modPart_same]
    rfl
  have hevents : ((partitionReset (seqEvent s c.val 0) p.val 2).core c.val).events = raiseEv (s.core c.val).events 0 :=
    (congrFun (congrArg Prod.fst halarms) c.val :).trans
      (congrArg Core.events (core_modCore_same s c.val fun k => { k with events := raiseEv k.events 0 }))
  obtain ⟨hstate, hresets, hcause⟩ : _ ∧ _ ∧ _ := by simpa only [resetInfo, Prod.mk.injEq] using hreset
  exact ⟨hstate, hcause, hresets, hevents⟩

end

/-- Settles O46: a task's end writes its outcome and counts it, over the views that the end of its run leaves; a core reset and a fence clear what they name. -/
theorem taskEndsAndCoreResets : Obligations.TaskEndsAndCoreResets := by
  refine ⟨fun s c x k g r hk hg hr hleaving _ => task_ends hk hg hr hleaving, fun s c e hc => ⟨coreReset_clears hc e, fun hoff => ?_, fun i hi hie hother he => ?_, fun he => ?_,
    fun p hready => ctxParity_resets hc p hready, exec_ctxParity_none_next hc⟩⟩
  · rw [exec_coreReset_next hc, coreReset_of_off hoff, kept_eq_self rfl rfl]
  · exact engineFence_clears hc hi hie hother he
  · rw [exec_engineFence_next hc, fenceEngine, if_pos he, kept_eq_self rfl rfl]

end Sys2Proof.Machine
end

section
/-! The cores and graphs family (04_cores_and_graphs.md): graph commands. -/

namespace Sys2Proof.Machine

/-! ### Ring commands that take a packet (R388, R395, R400) -/

/-- A packet that starts in an attached session and has its form right runs the command's body. -/
theorem ringCmd_of_starts {s : State} {p : PartId} {op basic expert : Nat} {gaps : List (Nat × Nat)} {k : Packet} (body : State → Packet → State)
    (hstarts : Starts s p op k) (hform : formCheck k basic expert gaps = none) : ringCmd s p.val op basic expert gaps body = body (takeHand s p.val) k := by
  obtain ⟨hstart, hsession⟩ := hstarts
  have hserved : sessionRefuse s p.val k = none := by simp [sessionRefuse, hsession]
  simp only [ringCmd, ringTake, hstart, hserved, formed, hform]

/-- The graph that a packet names, of its partition (R411). -/
theorem withGraph_of_owned {s : State} {p : Nat} {k : Packet} {g : Graph} (f : Nat → Graph → State) (hg : s.graph (pktObj k).toNat = some g) (hp : g.part = p) :
    withGraph s p k f = f (pktObj k).toNat g := by
  simp only [withGraph, hg, if_pos hp]

/-! ### LOAD and UNLOAD (R167, R169) -/

/-- A list to which every step of a fold adds one entry. -/
theorem length_foldl_concat {α β : Type} (f : List β → α → β) (l : List α) (acc : List β) :
    (l.foldl (fun acc a => acc ++ [f acc a]) acc).length = acc.length + l.length := by
  induction l generalizing acc with
  | nil => rfl
  | cons a l ih =>
    rw [List.foldl_cons, ih]
    simp only [List.length_append, List.length_cons, List.length_nil]
    omega

theorem length_pickCtxs (s : State) (map : List Nat) (ts : List RawTask) : (pickCtxs s map ts).length = ts.length := by
  unfold pickCtxs
  dsimp only
  rw [length_foldl_concat, List.length_nil, Nat.zero_add]

/-- A placed graph has a context for each of its tasks, and neither a run nor a start but the old one's (R167). -/
theorem graph_placeGraph (s : State) (p image h : Nat) (d : GraphDesc) (ts : List RawTask) (map : List Nat) (old : Graph) :
    ∃ g, (placeGraph s p image h d ts map old).graph h = some g ∧ g.part = p ∧ g.image = image ∧ g.run = old.run ∧ g.started = old.started ∧ g.ctxOf.length = ts.length := by
  unfold placeGraph
  extract_lets ctxs s1 img g
  exact ⟨g, tfind_tset_same .., rfl, rfl, rfl, rfl, length_pickCtxs ..⟩

theorem graph_kept (s t : State) : (kept s t).graph = t.graph := rfl

theorem part_kept (s t : State) : (kept s t).part = t.part := rfl

theorem graph_reply (s : State) (p : Nat) (k : Packet) (status : W16) (detail obj : W32) (state : Byte) : (reply s p k status detail obj state).graph = s.graph := by
  unfold State.graph
  rw [graphs_reply]

theorem nGraphs_reply (s : State) (p : Nat) (k : Packet) (status : W16) (detail obj : W32) (state : Byte) : (reply s p k status detail obj state).nGraphs = s.nGraphs :=
  (congrArg (·.1.nGraphs) (beyondReply_reply s p k status detail obj state) :)

/-! ### RUN, START and STOP (R170, R218, R411) -/

/-- The graphs and the partitions: what the release of a run beyond cadence leaves once its graph has the run. -/
def books (s : State) : Tbl Graph × Tbl Part := (s.graphs, s.parts)

theorem books_of_beyondMem {s t : State} (h : beyondMem t = beyondMem s) : books t = books s := (congrArg books h :)

theorem graph_of_books {s t : State} (h : books t = books s) : t.graph = s.graph := (congrArg (fun v i => tfind v.1 i) h :)

theorem part_of_books {s t : State} (h : books t = books s) : t.part = s.part := (congrArg (fun v i => tget {} v.2 i) h :)

theorem books_resumeVtime (s : State) (c p : Nat) : books (resumeVtime s c p) = books s := by
  unfold resumeVtime
  dsimp only
  split
  · rfl
  · split <;> rfl

theorem books_checkReady (s : State) (c x : Nat) : books (checkReady s c x) = books s := by
  unfold checkReady makeReady
  split
  · dsimp only
    rw [books_of_beyondMem (beyondMem_fetchEntries ..)]
    exact books_resumeVtime ..
  · rfl

theorem books_pinStreams (s : State) (h : Nat) : books (pinStreams s h) = books s :=
  view_foldl books (fun t n => by dsimp only; split <;> rfl) _ _

/-- A release beyond cadence gives its graph the run, and changes no other graph and no partition (R172). -/
theorem books_releaseRun {s : State} {h : Nat} {g : Graph} {r : Run} (hg : s.graph h = some g) (hcadence : r.cadence = false) :
    books (releaseRun s h r) = books (s.modGraph h fun q => { q with run := some { r with runNo := q.runs, released := true }, runs := q.runs + 1 }) := by
  simp only [releaseRun, hg]
  rw [view_foldl books fun _ _ => books_checkReady .., if_neg (by simp [hcadence]), books_pinStreams]
  refine view_foldl books (fun _ _ => ?_) _ _
  rfl

theorem graph_releaseRun {s : State} {h : Nat} {g : Graph} {r : Run} (hg : s.graph h = some g) (hcadence : r.cadence = false) :
    (releaseRun s h r).graph h = some { g with run := some { r with runNo := g.runs, released := true }, runs := g.runs + 1 } := by
  rw [graph_of_books (books_releaseRun hg hcadence), graph_modGraph_same, hg]
  rfl

theorem part_releaseRun {s : State} {h : Nat} {g : Graph} {r : Run} (hg : s.graph h = some g) (hcadence : r.cadence = false) : (releaseRun s h r).part = s.part := by
  rw [part_of_books (books_releaseRun hg hcadence)]
  rfl

section
variable {s : State} {p : PartId} {k : Packet}

theorem loadGraph_next {x : GraphDesc × List RawTask × List Nat} (hstarts : Starts s p 0x0401 k) (hform : formCheck k 8 72 [] = none) (haddr : addrOk k 0 = true)
    (hcheck : checkImage (takeHand s p.val) p.val (parAddr k 0) (if pktExpert k then some ((parBytes k 8 64).map (·.toNat)) else none) = .ok x) :
    ∃ t g, exec (.loadGraph p) s = .next t ∧ t.nGraphs = s.nGraphs + 1 ∧ t.graph (s.nGraphs % (2 ^ 32 - 1)) = some g ∧ g.part = p.val ∧ g.image = parAddr k 0 ∧
      g.run = none ∧ g.started = false ∧ g.ctxOf.length = x.2.1.length := by
  obtain ⟨d, ts, map⟩ := x
  have hrun := ringCmd_of_starts (loadBody p.val) hstarts hform
  simp only [loadBody, haddr, hcheck, Bool.not_true, Bool.false_eq_true, if_false] at hrun
  obtain ⟨g, hg, hpart, himage, hnone, hstarted, hlen⟩ := graph_placeGraph (takeHand s p.val) p.val (parAddr k 0) (s.nGraphs % (2 ^ 32 - 1)) d ts map {}
  refine ⟨kept s _, g, congrArg (ends s) hrun, nGraphs_reply .., ?_, hpart, himage, hnone, hstarted, hlen⟩
  rw [graph_kept, graph_reply]
  exact hg

theorem unloadGraph_next {g : Graph} (hstarts : Starts s p 0x0402 k) (hform : formCheck k 0 0 [] = none) (hg : s.graph (pktObj k).toNat = some g) (hpart : g.part = p.val)
    (hidle : g.run = none) (hstarted : g.started = false) : ∃ t, exec (.unloadGraph p) s = .next t ∧ t.graph (pktObj k).toNat = none := by
  refine ⟨kept s _, congrArg (ends s) (ringCmd_of_starts _ hstarts hform), ?_⟩
  rw [graph_kept, withGraph_of_owned (s := takeHand s p.val) _ hg hpart, if_neg (by simp [hidle, hstarted]), graph_reply]
  exact graph_unloadNow_same ..

theorem graphState_modGraph {h : Nat} {g : Graph} {f : Graph → Graph} (hg : s.graph h = some g) (hrun : (f g).run = none) (hstarted : (f g).started = true) :
    graphState (s.modGraph h f) h = 0x33 := by
  rw [graphState, graph_modGraph_same, hg]
  simp only [Option.map_some, hrun, hstarted, Option.isSome_none]

/-- A graph neither run nor started, whose cores are up, takes a request that is not held back by cadence (R219, R324). -/
theorem runnable_of_idle {h : Nat} {g : Graph} {cadence : Bool} (body : State → State) (hidle : g.run = none) (hstarted : g.started = false)
    (hbeats : cadence = true → s.cad.en = true ∧ s.cad.period ≠ 0) (hup : downCores s g = []) : runnable s p.val k h g cadence body = body s := by
  have hcadence : (cadence && (!s.cad.en || (s.cad.period == 0 && s.cad.realBeats == 0))) = false := by
    cases cadence
    · rfl
    · obtain ⟨hen, hperiod⟩ := hbeats rfl
      rw [hen, show (s.cad.period == 0) = false from beq_eq_false_iff_ne.mpr hperiod]
      rfl
  unfold runnable
  extract_lets down need
  have hdown : down = [] := hup
  rw [if_neg (by simp [hidle, hstarted]), hcadence, if_neg Bool.false_ne_true, if_neg (not_and_of_not_left _ (not_not_intro hdown)), if_pos hdown]

theorem runGraph_next {g : Graph} (hstarts : Starts s p 0x0403 k) (hform : formCheck k 8 8 [] = none) (hg : s.graph (pktObj k).toNat = some g) (hpart : g.part = p.val)
    (hidle : g.run = none) (hstarted : g.started = false) (hcadence : pktCadence k = false) (hup : downCores s g = []) :
    ∃ t g' r, exec (.runGraph p) s = .next t ∧ t.graph (pktObj k).toNat = some g' ∧ g'.run = some r ∧ g'.runs = g.runs + 1 ∧ r.runNo = g.runs ∧
      r.tag = pktTag k ∧ r.cadence = false ∧ r.released = true ∧ (t.part p.val).cqTail = (s.part p.val).cqTail := by
  have hbody : runBody p.val (takeHand s p.val) k = releaseRun (takeHand s p.val) (pktObj k).toNat (newRun (takeHand s p.val) k) := by
    rw [runBody, withGraph_of_owned (s := takeHand s p.val) _ hg hpart, runnable_of_idle (s := takeHand s p.val) _ hidle hstarted (by simp [hcadence]) hup]
    dsimp only
    rw [if_pos (by simp [newRun, hcadence]), releaseSingle, if_neg (by simp [newRun, hcadence])]
  have hgraph := graph_releaseRun (s := takeHand s p.val) (r := newRun (takeHand s p.val) k) hg hcadence
  refine ⟨kept s _, _, _, congrArg (ends s) ((ringCmd_of_starts (runBody p.val) hstarts hform).trans hbody), hgraph, rfl, rfl, rfl, rfl, hcadence, rfl, ?_⟩
  rw [part_kept, part_releaseRun (s := takeHand s p.val) hg hcadence, takeHand, part_modPart_same]

theorem startGraph_next {g : Graph} (hstarts : Starts s p 0x0404 k) (hform : formCheck k 0 0 [] = none) (hg : s.graph (pktObj k).toNat = some g) (hpart : g.part = p.val)
    (hidle : g.run = none) (hstarted : g.started = false) (hstanding : g.standing = true) (hcadence : pktCadence k = true) (hen : s.cad.en = true) (hperiod : s.cad.period ≠ 0)
    (hup : downCores s g = []) :
    exec (.startGraph p) s = .next (kept s (reply ((takeHand s p.val).modGraph (pktObj k).toNat (fun q => { q with started := true, e0 := k.beat, nextK := 0, tag := pktTag k, ring := k.ring, notify := pktNotify k }))
      p.val k 0 0 (pktObj k) 0x33)) := by
  refine congrArg (ends s) ((ringCmd_of_starts (startBody p.val) hstarts hform).trans ?_)
  rw [startBody, if_neg (by simp [hcadence]), withGraph_of_owned (s := takeHand s p.val) _ hg hpart, if_neg (by simp [hstanding]),
    runnable_of_idle (s := takeHand s p.val) _ hidle hstarted (fun _ => ⟨hen, hperiod⟩) hup]
  dsimp only
  rw [graphState_modGraph (s := takeHand s p.val) hg hidle rfl]
  rfl

theorem stopGraph_next {g : Graph} (hstarts : Starts s p 0x0405 k) (hform : formCheck k 0 0 [] = none) (hg : s.graph (pktObj k).toNat = some g) (hpart : g.part = p.val)
    (hstarted : g.started = true) :
    ∃ t g', exec (.stopGraph p) s = .next t ∧ t.graph (pktObj k).toNat = some g' ∧ g'.started = false ∧ g'.e0 = none ∧
      g'.stopping = (if g.run.isSome then some (pendOf p.val k) else g.stopping) := by
  have hstopped : ((takeHand s p.val).modGraph (pktObj k).toNat fun q => { q with started := false, e0 := none }).graph (pktObj k).toNat = some { g with started := false, e0 := none } :=
    (graph_modGraph_same ..).trans (congrArg (Option.map _) hg)
  have hbody := (ringCmd_of_starts (stopBody p.val) hstarts hform).trans (withGraph_of_owned (s := takeHand s p.val) _ hg hpart)
  rw [if_neg (by simp [hstarted])] at hbody
  dsimp only at hbody
  by_cases hrun : g.run.isSome = true
  · rw [if_pos hrun] at hbody
    rw [if_pos hrun]
    have hgraph : (idleStamp ((takeHand s p.val).modGraph (pktObj k).toNat fun q => { q with started := false, e0 := none }) (graphCores g)).graph (pktObj k).toNat = _ := hstopped
    have hstop := (graph_modGraph_same _ _ fun q => { q with stopping := some (pendOf p.val k) }).trans (congrArg (Option.map _) hgraph)
    exact ⟨kept s _, _, congrArg (ends s) hbody, hstop, rfl, rfl, rfl⟩
  · rw [if_neg hrun] at hbody
    rw [if_neg hrun]
    refine ⟨kept s _, { g with started := false, e0 := none }, congrArg (ends s) hbody, ?_, rfl, rfl, rfl⟩
    rw [graph_kept, graph_reply]
    exact hstopped

end

/-- Settles O17: each command's body over the packet that is taken, and what its reply leaves. -/
theorem graphCommands : Obligations.GraphCommands :=
  ⟨fun _ _ _ _ hstarts hform haddr hcheck => loadGraph_next hstarts hform haddr hcheck,
    fun _ _ _ _ hstarts hform hg hpart hidle hstarted => unloadGraph_next hstarts hform hg hpart hidle hstarted,
    fun _ _ _ _ hstarts hform hg hpart hidle hstarted hcadence hup => runGraph_next hstarts hform hg hpart hidle hstarted hcadence hup,
    fun _ _ _ _ hstarts hform hg hpart hidle hstarted hstanding hcadence hen hperiod hup =>
      startGraph_next hstarts hform hg hpart hidle hstarted hstanding hcadence hen hperiod hup,
    fun _ _ _ _ hstarts hform hg hpart hstarted => stopGraph_next hstarts hform hg hpart hstarted⟩

end Sys2Proof.Machine
end

section
/-! The cores and graphs family (04_cores_and_graphs.md): sequencer and mover tasks. -/

namespace Sys2Proof.Machine

/-- Outside a critical trip an event of a core's clocked logic has the effect that its definition comes to (R619). -/
theorem endsClocked_of_eq {s f t : State} {c : Nat} (hc : c < s.ncores) (htrip : s.pwr.trip = false) (h : f = t) : endsClocked s c f = .next (kept s t) :=
  h ▸ endsClocked_clocked f hc htrip

section
variable {s : State} {c : CoreId} {x : CtxId} {k : Ctx} (hc : c.val < s.ncores) (htrip : s.pwr.trip = false)
include hc htrip

/-! ### Waits and signals (R171, R187, R188) -/

theorem waitForCadence_next {r : Run} (hk : k = s.ctx c.val x.val) (hrun : runOf s k.graph.toNat = some r) (hkind : k.task.kind = .waitCadence) (hready : k.state = .ready) :
    (waitOver (beginTask s c.val x.val) ((beginTask s c.val x.val).ctx c.val x.val) r = false → exec (.waitForCadence c x) s = .next (beginTask s c.val x.val)) ∧
    (waitOver (beginTask s c.val x.val) ((beginTask s c.val x.val).ctx c.val x.val) r = true → exec (.waitForCadence c x) s = .next (kept s (taskDone (beginTask s c.val x.val) c.val x.val))) := by
  subst hk
  have hnext : exec (.waitForCadence c x) s = .next (kept s (if waitOver (beginTask s c.val x.val) ((beginTask s c.val x.val).ctx c.val x.val) r then
      taskDone (beginTask s c.val x.val) c.val x.val else beginTask s c.val x.val)) := by
    refine endsClocked_of_eq hc htrip ?_
    rw [hrun]
    dsimp only
    rw [if_pos (by simp [seqStarts, hkind, hready]), if_pos hready]
  rw [hnext]
  refine ⟨fun hover => ?_, fun hover => ?_⟩
  · rw [if_neg (by simp [hover])]
    exact congrArg Host.Outcome.next (kept_eq_self rfl rfl)
  · rw [if_pos hover]

theorem signalTask_next (hk : k = s.ctx c.val x.val) (hkind : k.task.kind = .signal) (hready : k.state = .ready) :
    exec (.signalTask c x) s = .next (kept s (taskDone (((beginTask s c.val x.val).modCore c.val (fun q => { q with sigSent := satAdd q.sigSent k.task.targets.length })).modRun k.graph.toNat
      (fun r => { r with signals := r.signals ++ k.task.targets.map (fun g => (g.1, g.2.ctx, g.2.counter)) })) c.val x.val)) := by
  subst hk
  refine endsClocked_of_eq hc htrip ?_
  exact if_pos (by simp [seqStarts, hkind, hready])

/-- A message that no live run expects is dropped (R190). -/
theorem signalArrive_dropped {m : SignalMsg} (hdrop : ∀ r, runOf s m.graph.toNat = some r → r.signals.contains (c.val, m.ctx.val, m.counter.val) = false) :
    exec (.signalArrive c m) s = .next (seqEvent (s.modCore c.val (fun q => { q with sigRecv := satInc q.sigRecv })) c.val 1) := by
  have hnext : exec (.signalArrive c m) s = .next (kept s (seqEvent (s.modCore c.val (fun q => { q with sigRecv := satInc q.sigRecv })) c.val 1)) := by
    refine endsClocked_of_eq hc htrip ?_
    have hrun : runOf (s.modCore c.val (fun q => { q with sigRecv := satInc q.sigRecv })) m.graph.toNat = runOf s m.graph.toNat := rfl
    rw [hrun]
    cases hr : runOf s m.graph.toNat with
    | none => rfl
    | some r => exact if_neg fun ⟨_, _, _, hin, _⟩ => Bool.false_ne_true ((hdrop r hr).symm.trans hin)
  exact hnext.trans (congrArg Host.Outcome.next (kept_eq_self rfl rfl))

/-- A message of the live run reaches its task: its target decrements the counter where the gate table admits the initiator, or drops it (R187, R188, R437). -/
theorem signalArrive_received {m : SignalMsg} {r : Run} (hk : k = s.ctx c.val m.ctx.val) (hrun : runOf s m.graph.toNat = some r) (hgraph : k.graph = m.graph) (hlive : k.state ≠ .free)
    (hno : r.runNo = m.runNo) (hin : r.signals.contains (c.val, m.ctx.val, m.counter.val) = true) (hpart : (s.part k.part).state ≠ .resetting) :
    ∃ u : State, u.ctx c.val m.ctx.val = k ∧ (u.core c.val).sigRecv = satInc (s.core c.val).sigRecv ∧ (u.core c.val).events = (s.core c.val).events ∧ u.part = s.part ∧
      (∀ q, runOf u m.graph.toNat = some q → q.signals = r.signals.erase (c.val, m.ctx.val, m.counter.val)) ∧
      exec (.signalArrive c m) s = .next (kept s (if k.part = m.ptag.val ∧ coreInitOk s k.part m.init then decrement u c.val m.ctx m.counter else gateCount (seqEvent u c.val 1) m.ptag.val)) := by
  have hctx : (s.modCore c.val (fun q => { q with sigRecv := satInc q.sigRecv })).ctx c.val m.ctx.val = k := by
    rw [hk]
    apply ctx_modCore
    intro _
    rfl
  refine ⟨(s.modCore c.val (fun q => { q with sigRecv := satInc q.sigRecv })).modRun m.graph.toNat (fun r => { r with signals := r.signals.erase (c.val, m.ctx.val, m.counter.val) }),
    hctx, ?_, ?_, rfl, fun q hq => ?_, endsClocked_of_eq hc htrip ?_⟩
  · exact (congrArg Core.sigRecv (core_modCore_same s c.val fun q => { q with sigRecv := satInc q.sigRecv }) :)
  · exact (congrArg Core.events (core_modCore_same s c.val fun q => { q with sigRecv := satInc q.sigRecv }) :)
  · rw [runOf_modRun_same] at hq
    obtain ⟨r', hr', rfl⟩ := Option.map_eq_some_iff.mp hq
    obtain rfl : r = r' := Option.some.inj (hrun.symm.trans hr')
    rfl
  · have hlook : runOf (s.modCore c.val (fun q => { q with sigRecv := satInc q.sigRecv })) m.graph.toNat = some r := hrun
    rw [hlook]
    dsimp only
    rw [hctx, if_pos ⟨hgraph, hlive, hno, hin, hpart⟩]

theorem signalArrive_admitted {m : SignalMsg} {r : Run} (hk : k = s.ctx c.val m.ctx.val) (hrun : runOf s m.graph.toNat = some r) (hgraph : k.graph = m.graph) (hlive : k.state ≠ .free)
    (hno : r.runNo = m.runNo) (hin : r.signals.contains (c.val, m.ctx.val, m.counter.val) = true) (hpart : (s.part k.part).state ≠ .resetting)
    (htag : k.part = m.ptag.val) (hinit : coreInitOk s k.part m.init = true) :
    ∃ t, exec (.signalArrive c m) s = .next t ∧ (t.ctx c.val m.ctx.val).counters = k.counters.set m.counter (k.counters.getD m.counter 0 - 1) ∧ (t.core c.val).sigRecv = satInc (s.core c.val).sigRecv ∧
      (∀ q, runOf t m.graph.toNat = some q → q.signals = r.signals.erase (c.val, m.ctx.val, m.counter.val)) := by
  obtain ⟨u, hctx, hrecv, -, -, hsignals, hnext⟩ := signalArrive_received hc htrip hk hrun hgraph hlive hno hin hpart
  rw [if_pos ⟨htag, hinit⟩] at hnext
  have hgoing := lasting_of_ongoing (ongoing_decrement u c.val m.ctx m.counter)
  refine ⟨_, hnext, ?_, ?_, fun q hq => hsignals q ?_⟩
  · rw [← hctx]
    exact counters_decrement u c.val m.ctx m.counter
  · rw [← hrecv]
    exact (congrArg (fun v => (v.2.1 c.val).sigRecv) hgoing :)
  · rw [← hq]
    exact (runOf_of_graphs (graphs_decrement u c.val m.ctx m.counter) m.graph.toNat).symm

theorem signalArrive_refused {m : SignalMsg} {r : Run} (hk : k = s.ctx c.val m.ctx.val) (hrun : runOf s m.graph.toNat = some r) (hgraph : k.graph = m.graph) (hlive : k.state ≠ .free)
    (hno : r.runNo = m.runNo) (hin : r.signals.contains (c.val, m.ctx.val, m.counter.val) = true) (hpart : (s.part k.part).state ≠ .resetting)
    (hgate : k.part ≠ m.ptag.val ∨ coreInitOk s k.part m.init = false) :
    ∃ t, exec (.signalArrive c m) s = .next t ∧ t.ctx c.val m.ctx.val = k ∧ (t.core c.val).sigRecv = satInc (s.core c.val).sigRecv ∧ (t.core c.val).events = raiseEv (s.core c.val).events 1 ∧
      (t.part m.ptag.val).gateRefused = satInc (s.part m.ptag.val).gateRefused := by
  obtain ⟨u, hctx, hrecv, hevents, hparts, -, hnext⟩ := signalArrive_received hc htrip hk hrun hgraph hlive hno hin hpart
  have hcore : (seqEvent u c.val 1).core c.val = { u.core c.val with events := raiseEv (u.core c.val).events 1 } := core_modCore_same ..
  rw [if_neg (by simpa [imp_iff_not_or] using hgate)] at hnext
  refine ⟨_, hnext, ?_, ?_, ?_, ?_⟩
  · rw [← hctx]
    exact ctx_modCore u c.val (f := fun k => { k with events := raiseEv k.events 1 }) (fun _ => rfl) c.val m.ctx.val
  · rw [← hrecv]
    exact (congrArg Core.sigRecv hcore :)
  · rw [← hevents]
    exact (congrArg Core.events hcore :)
  · rw [← hparts]
    exact (congrArg Part.gateRefused (part_modPart_same (seqEvent u c.val 1) m.ptag.val fun q => { q with gateRefused := satInc q.gateRefused }) :)

/-- The home core takes the message of a core whose tasks of the graph are DONE (R189). -/
theorem coreDoneArrive_next {src : CoreId} {h : W32} {g : Graph} (hg : s.graph h.toNat = some g) (hhome : c.val = homeCore g) (hmine : (g.ctxOf.filter (fun e => e.1 == src.val)) ≠ [])
    (hdone : (g.ctxOf.filter (fun e => e.1 == src.val)).all (fun e => (s.ctx e.1 e.2).state == .done) = true) :
    exec (.coreDoneArrive c src h) s = .next (kept s (tryRetire (s.modRun h.toNat (fun r => { r with coresDone := if r.coresDone.contains src.val then r.coresDone else src.val :: r.coresDone })) h.toNat)) := by
  refine endsClocked_of_eq hc htrip ?_
  rw [hg]
  exact if_pos ⟨hhome, hmine, hdone⟩

/-! ### Promotes (R166, R324) -/

/-- A promote task whose score is read: it asks for its rung where the score is a number that reaches the threshold, and is DONE (R324). -/
theorem promoteTask_next {score : W32} (hk : k = s.ctx c.val x.val) (hkind : k.task.kind = .promote) (hready : k.state = .ready) (hmapped : anyBlock s k.part (pbf k.task 8 6) 4 .unmapped = false)
    (hclean : anyBlock s k.part (pbf k.task 8 6) 4 .poisoned = false) (hscore : score = BitVec.ofNat 32 (leNat (devRead s k.part (pbf k.task 8 6) 4))) :
    exec (.promoteTask c x) s = .next (kept s (taskDone (if !isNan32 score && !f32lt score (BitVec.ofNat 32 (pbf k.task 4 4)) then
      promote (beginTask s c.val x.val) (pbf k.task 0 1) (some k.part) else beginTask s c.val x.val) c.val x.val)) := by
  subst hk hscore
  refine endsClocked_of_eq hc htrip ?_
  unfold promoteBody
  dsimp only
  rw [if_neg (by simp [seqStarts, hkind, hready]), hmapped, if_neg Bool.false_ne_true, hclean, if_neg Bool.false_ne_true, if_pos hready]

theorem promoteTask_poisoned (hk : k = s.ctx c.val x.val) (hkind : k.task.kind = .promote) (hready : k.state = .ready) (hmapped : anyBlock s k.part (pbf k.task 8 6) 4 .unmapped = false)
    (hbad : anyBlock s k.part (pbf k.task 8 6) 4 .poisoned = true) : exec (.promoteTask c x) s = .next (kept s (failTask s c.val x.val stIntegrity)) := by
  subst hk
  refine endsClocked_of_eq hc htrip ?_
  unfold promoteBody
  dsimp only
  rw [if_neg (by simp [seqStarts, hkind, hready]), hmapped, if_neg Bool.false_ne_true, hbad, if_pos rfl]

end

/-! ### Barriers (R181, R371, R373) -/

/-- A barrier task as it starts: begun, where the dispatch has not begun it. -/
def barrierBegun (s : State) (c x : Nat) : State := if (s.ctx c x).state = .ready then beginTask s c x else s

theorem fab_barrierBegun (s : State) (c x : Nat) : (barrierBegun s c x).fab = s.fab := by
  unfold barrierBegun
  split <;> rfl

theorem running_barrierBegun {s : State} {c x : Nat} (hstarts : barrierStarts s c x = true) : ((barrierBegun s c x).ctx c x).state = .running := by
  unfold barrierBegun
  split
  · exact congrArg Ctx.state (ctx_modCtx_same s c x fun k => { k with state := .running, startTs := s.ts, startExt := BitVec.ofNat 64 (extTime s) })
  next hready =>
    obtain ⟨⟨-, hstate⟩, -⟩ : ((s.ctx c x).task.kind = .barrier ∧ ((s.ctx c x).state = .ready ∨ (s.ctx c x).state = .running)) ∧ _ := by
      simpa [barrierStarts, seqStarts] using hstarts
    exact hstate.resolve_left hready

section
variable {s : State} {c : CoreId} {x : CtxId} {k : Ctx} (hc : c.val < s.ncores) (htrip : s.pwr.trip = false)
include hc htrip

/-- A barrier task whose slot is set raises the generation; the coordinator holds its own ARRIVE, and any other member sends one (R371). -/
theorem fabricBarrier_slot {slot : Nat} {b : Barrier} (hk : k = s.ctx c.val x.val) (hstarts : barrierStarts s c.val x.val = true) (hslot : barSlot s (pbf k.task 0 2) = some (slot, b)) :
    ∃ u : State, u = { barrierBegun s c.val x.val with fab.bars := tset s.fab.bars slot { b with gen := b.gen + 1, pend := some (c.val, x.val, b.gen + 1, s.ts) } } ∧
      exec (.fabricBarrier c x) s = .next (kept s (if b.coord = s.fab.id then noteArrive u slot (b.gen + 1) s.fab.id.toNat else sendArrive u slot (b.gen + 1))) := by
  subst hk
  refine ⟨_, rfl, endsClocked_of_eq hc htrip ?_⟩
  rw [hslot]
  dsimp only
  rw [if_pos hstarts, ← barrierBegun, fab_barrierBegun]

theorem fabricBarrier_member {slot : Nat} {b : Barrier} (hk : k = s.ctx c.val x.val) (hstarts : barrierStarts s c.val x.val = true) (hslot : barSlot s (pbf k.task 0 2) = some (slot, b))
    (hcoord : b.coord ≠ s.fab.id) :
    ∃ t, exec (.fabricBarrier c x) s = .next t ∧ (t.ctx c.val x.val).state = .running ∧ tget {} t.fab.bars slot = { b with gen := b.gen + 1, pend := some (c.val, x.val, b.gen + 1, s.ts) } := by
  obtain ⟨u, hu, hnext⟩ := fabricBarrier_slot hc htrip hk hstarts hslot
  rw [if_neg hcoord] at hnext
  have hsent := beyondLinks_sendArrive u slot (b.gen + 1)
  refine ⟨_, hnext, ?_, ?_⟩
  · refine (congrArg (fun t => (State.ctx t c.val x.val).state) hsent :).trans ?_
    rw [hu]
    exact running_barrierBegun hstarts
  · refine (congrArg (fun t : State => tget ({} : Barrier) t.fab.bars slot) hsent :).trans ?_
    rw [hu]
    exact tget_tset_same ..

theorem fabricBarrier_none (hk : k = s.ctx c.val x.val) (hstarts : barrierStarts s c.val x.val = true) (hslot : barSlot s (pbf k.task 0 2) = none) :
    exec (.fabricBarrier c x) s = .next (kept s (failTask (barrierBegun s c.val x.val) c.val x.val stAborted)) := by
  subst hk
  refine endsClocked_of_eq hc htrip ?_
  rw [hslot]
  exact if_pos hstarts

theorem fabricBarrier_idle (hstarts : barrierStarts s c.val x.val = false) : exec (.fabricBarrier c x) s = .next s := by
  refine (endsClocked_of_eq hc htrip (t := s) ?_).trans (congrArg Host.Outcome.next (kept_eq_self rfl rfl))
  have hno : ¬ barrierStarts s c.val x.val = true := by simp [hstarts]
  split
  · exact if_neg hno
  · exact if_neg hno

end

/-- Time that has not gone back is the present. -/
theorem advance_of_le {s : State} {now : W64} (hnow : s.ts.toNat ≤ now.toNat) : s.advance now = { s with ts := now } := by
  unfold State.advance
  split
  · rfl
  next hlt =>
    have hts : s.ts = now := BitVec.eq_of_toNat_eq (by omega)
    rw [← hts]

/-- Whether a barrier waits for the release of a task's ARRIVE (R371). -/
def pendsFor (c x : Nat) (b : Nat × Barrier) : Bool := match b.2.pend with
  | some (d, y, _, _) => d == c && y == x
  | none => false

/-- A member that has waited for its release past its limit fails; one within it waits on (R373). -/
theorem barrierTimeout_next {s : State} {c : CoreId} {x : CtxId} {slot : Nat} {b : Barrier} {g : W32} {t0 now : W64} (hc : c.val < s.ncores) (hnow : s.ts.toNat ≤ now.toNat)
    (hfind : s.fab.bars.find? (pendsFor c.val x.val) = some (slot, b))
    (hpend : b.pend = some (c.val, x.val, g, t0)) (hrunning : (s.ctx c.val x.val).state = .running) :
    exec (.barrierTimeout c x now) s = .next (kept s (if t0.toNat + pbf (s.ctx c.val x.val).task 4 4 * 1000 ≤ now.toNat then
      failTask { s with ts := now, fab.events := raiseEv s.fab.events 9, fab.bars := tset s.fab.bars slot { b with pend := none } } c.val x.val stTimeout else { s with ts := now })) := by
  refine (endsCore_kept _ hc).trans (congrArg (fun t => Host.Outcome.next (kept s t)) ?_)
  rw [advance_of_le hnow]
  dsimp only
  split
  next slot' b' hlook =>
    obtain ⟨rfl, rfl⟩ : slot = slot' ∧ b = b' := by simpa using hfind.symm.trans hlook
    rw [hpend]
    dsimp only
    by_cases hlate : t0.toNat + pbf (s.ctx c.val x.val).task 4 4 * 1000 ≤ now.toNat
    · rw [if_pos hlate]
      exact if_pos ⟨hrunning, hlate⟩
    · rw [if_neg hlate]
      exact if_neg fun h => hlate h.2
  next hlook => cases hfind.symm.trans hlook

section
variable {s : State} {c : CoreId} {x : CtxId} {k : Ctx} (hc : c.val < s.ncores) (htrip : s.pwr.trip = false)
include hc htrip

/-! ### Tasks whose writes are visible (R186) -/

theorem taskDone_next (hk : k = s.ctx c.val x.val) (hrunning : k.state = .running) (hkind : engineKind k.task.kind = true ∨ moverKind k.task.kind = true) (hover : workOver s c.val x.val = true)
    {u : State} (hu : u = s.modCore c.val (fun q => { q with tmRun := if q.tmRun = some x.val then none else q.tmRun })) :
    exec (.taskDone c x) s = .next (kept s (fetchFreed (taskDone (if sharedCore s c.val then chargeDispatch u c.val x.val else u) c.val x.val) c.val)) := by
  subst hk hu
  exact endsClocked_of_eq hc htrip (if_pos ⟨hrunning, hkind, hover⟩)

theorem taskDone_waits (hover : workOver s c.val x.val = false) : exec (.taskDone c x) s = .next s := by
  refine (endsClocked_of_eq hc htrip (t := s) ?_).trans (congrArg Host.Outcome.next (kept_eq_self rfl rfl))
  exact if_neg fun ⟨_, _, h⟩ => Bool.false_ne_true (hover.symm.trans h)

end

/-! ### The tile mover (R166, R183, R185, R254, R685) -/

/-- The mover takes the task at the head of its queue, or goes on with the one that waits for its source; `u` is the state in which the task runs. -/
def MoverRuns (s : State) (c : Nat) (kind : Kind) (x : Nat) (u : State) : Prop :=
  (moverHead s c kind = some x ∧ u = moverTake s c x) ∨ (moverWaits s c kind = some x ∧ u = s)

/-- A mover that takes its head task waits for none (R183). -/
theorem moverWaits_of_moverHead {s : State} {c x : Nat} {kind : Kind} (h : moverHead s c kind = some x) : moverWaits s c kind = none := by
  unfold moverHead at h
  split at h
  next _ hrun =>
    unfold moverWaits
    rw [hrun]
  · cases h

theorem moverRun_of_runs {s u : State} {c x : Nat} {kind : Kind} (run : State → Nat → Nat → State) (h : MoverRuns s c kind x u) : moverRun s c kind run = run u c x := by
  unfold moverRun
  obtain ⟨hhead, rfl⟩ | ⟨hwaits, rfl⟩ := h
  · rw [moverWaits_of_moverHead hhead, hhead]
  · rw [hwaits]

theorem moverRun_of_idle {s : State} {c : Nat} {kind : Kind} (run : State → Nat → Nat → State) (hhead : moverHead s c kind = none) (hwaits : moverWaits s c kind = none) :
    moverRun s c kind run = s := by
  unfold moverRun
  rw [hwaits, hhead]

/-- What a mover task reads of itself is as it was when the mover took it. -/
theorem MoverRuns.ctx_fab {s u : State} {c x : Nat} {kind : Kind} (h : MoverRuns s c kind x u) :
    (u.ctx c x).part = (s.ctx c x).part ∧ (u.ctx c x).task = (s.ctx c x).task ∧ u.fab = s.fab := by
  obtain ⟨-, rfl⟩ | ⟨-, rfl⟩ := h
  · have hctx : (s.modCore c (fun k => { k with tmQueue := k.tmQueue.drop 1, tmRun := some x, tmWait := true, tmAsked := false })).ctx c x = s.ctx c x :=
      ctx_modCore s c (f := fun k => { k with tmQueue := k.tmQueue.drop 1, tmRun := some x, tmWait := true, tmAsked := false }) (fun _ => rfl) c x
    rw [moverTake, beginTask, ctx_modCtx_same, hctx]
    exact ⟨rfl, rfl, rfl⟩
  · exact ⟨rfl, rfl, rfl⟩

section
variable {s v w : State} {c x p : Nat} {t : Task} {src : List (Nat × Nat)} {asked : Bool} {needs : List (Nat × Nat × BitVec 16)}

/-- The source of a mover task may be read: every byte of it is mapped, unpoisoned and not sealed (R254, R271). -/
def Readable (s : State) (p : Nat) (src : List (Nat × Nat)) : Prop :=
  src.any (fun a => anyBlock s p a.1 a.2 .unmapped) = false ∧ src.any (fun a => anyBlock s p a.1 a.2 .poisoned) = false ∧ src.any (fun a => touchesSealed s p a.1 a.2) = false

/-- The state in which a mover task works on its source, all of it there. -/
def sourceHere (v : State) (c p : Nat) (needs : List (Nat × Nat × BitVec 16)) : State := (touchBlocks v c p (needBlocks needs)).modCore c (fun k => { k with tmWait := false })

/-- A mover task whose source may be read asks for it, and goes on where every byte is there (R254, R257). -/
theorem withSource_of_readable (body : State → State) (hpart : (s.ctx c x).part = p) (hneeds : needs = blockNeeds (src.map (fun a => (0, a.1, a.2)))) (hsource : Readable s p src) {here : Bool}
    (hawait : awaitBytes s c x false (s.core c).tmAsked needs = (here, asked, v)) :
    withSource s c x src body = if here then body (sourceHere v c p needs) else v.modCore c (fun k => { k with tmAsked := asked }) := by
  subst hneeds hpart
  obtain ⟨hmapped, hclean, hopen⟩ := hsource
  unfold withSource
  dsimp only
  rw [hmapped, hclean, hopen, if_neg Bool.false_ne_true, if_neg Bool.false_ne_true, if_neg Bool.false_ne_true, hawait]
  cases here <;> rfl

/-- What working on a source leaves: every context of the core and the fabric. -/
theorem ctx_fab_sourceHere (hawait : awaitBytes s c x false (s.core c).tmAsked needs = (true, asked, v)) : (sourceHere v c p needs).ctx c x = s.ctx c x ∧ (sourceHere v c p needs).fab = s.fab := by
  have hv : beyondMem v = beyondMem s := by
    rw [← beyondMem_awaitBytes s c x false (s.core c).tmAsked needs, hawait]
  have htouched : beyondMem (touchBlocks v c p (needBlocks needs)) = beyondMem s := (beyondMem_touchBlocks ..).trans hv
  refine ⟨?_, (fab_of_beyondMem htouched :)⟩
  rw [← ctx_of_beyondMem htouched]
  exact ctx_modCore _ c (f := fun k => { k with tmWait := false }) (fun _ => rfl) c x

/-- The rows that a move writes, each with its destination. -/
def rowsMoved (w : State) (p : Nat) (t : Task) : List ((Nat × Nat) × List Byte) := (moveDst t).zip ((moveSrc t).map (fun a => moveRow w p t a.1 a.2))

section
variable (hpart : (s.ctx c x).part = p) (htask : (s.ctx c x).task = t) (hkind : pbf t 0 1 % 4 ≠ 1) (hneeds : needs = blockNeeds ((moveSrc t).map (fun a => (0, a.1, a.2)))) (hsource : Readable s p (moveSrc t))
include hpart htask hkind hneeds hsource

theorem moveRun_waits (hawait : awaitBytes s c x false (s.core c).tmAsked needs = (false, asked, v)) : moveRun s c x = v.modCore c (fun k => { k with tmAsked := asked }) := by
  unfold moveRun
  dsimp only
  rw [hpart, htask, if_neg hkind, withSource_of_readable _ hpart hneeds hsource hawait]
  exact if_neg Bool.false_ne_true

theorem moveRun_here (hawait : awaitBytes s c x false (s.core c).tmAsked needs = (true, asked, v)) (hw : w = sourceHere v c p needs) :
    (nbit (pbf t 0 1) 2 = true → moveRun s c x = beginRemote w.draw c x (rowsMoved w p t)) ∧
    (nbit (pbf t 0 1) 2 = false → (writeRows c p (rowsMoved w p t) w.draw).1 = none → moveRun s c x = (writeRows c p (rowsMoved w p t) w.draw).2) := by
  unfold moveRun
  dsimp only
  rw [hpart, htask, if_neg hkind, withSource_of_readable _ hpart hneeds hsource hawait, if_pos rfl, ← hw, ← rowsMoved]
  refine ⟨fun hremote => if_pos hremote, fun hlocal hwritten => ?_⟩
  rw [if_neg (by simp [hlocal])]
  split
  next hrows => simp [hrows] at hwritten
  next hrows => rw [hrows]

end

/-- A remote move takes the next transaction number, under which its frames are kept until acknowledged (R367, R368). -/
theorem beginRemote_keeps (s : State) (c x : Nat) (rows : List ((Nat × Nat) × List Byte)) :
    (beginRemote s c x rows).fab.nextTxn = s.fab.nextTxn + 1 ∧ ((beginRemote s c x rows).ctx c x).txn = some (s.fab.nextTxn % 65536) ∧
      tfind (beginRemote s c x rows).fab.txns (s.fab.nextTxn % 65536) =
        some { core := c, ctx := x, dev := pbf (s.ctx c x).task 36 2, frames := rows.flatMap (fun r => cutRow (r.2.length + 1) r.1.1 r.2), sentTs := s.ts } := by
  unfold beginRemote
  extract_lets k n frames s1 fab s2
  have hsent := beyondLinks_sendTxn s2 n
  refine ⟨(congrArg (·.fab.nextTxn) hsent :), ?_, ?_⟩
  · refine (congrArg (fun t => (State.ctx t c x).txn) hsent :).trans ?_
    exact congrArg Ctx.txn (ctx_modCtx_same s c x fun q => { q with txn := some n })
  · exact (congrArg (fun t : State => tfind t.fab.txns n) hsent :).trans (tfind_tset_same ..)

/-- A remote move from a source that is all there keeps its frames under the number that the fabric had next (R367). -/
theorem beginRemote_sourceHere (hawait : awaitBytes s c x false (s.core c).tmAsked needs = (true, asked, v)) (hw : w = sourceHere v c p needs) (rows : List ((Nat × Nat) × List Byte)) :
    (beginRemote w.draw c x rows).fab.nextTxn = s.fab.nextTxn + 1 ∧ ((beginRemote w.draw c x rows).ctx c x).txn = some (s.fab.nextTxn % 65536) ∧
      ∃ y, tfind (beginRemote w.draw c x rows).fab.txns (s.fab.nextTxn % 65536) = some y ∧ y.core = c ∧ y.ctx = x ∧ y.dev = pbf (s.ctx c x).task 36 2 ∧
        y.frames = rows.flatMap (fun r => cutRow (r.2.length + 1) r.1.1 r.2) := by
  obtain ⟨hctx, hfab⟩ := ctx_fab_sourceHere (p := p) hawait
  have hfabw : w.draw.fab = s.fab := by
    rw [hw]
    exact hfab
  have hctxw : w.draw.ctx c x = s.ctx c x := by
    rw [hw]
    exact hctx
  obtain ⟨hnext, htxn, hfind⟩ := beginRemote_keeps w.draw c x rows
  rw [hfabw] at hnext htxn hfind
  rw [hctxw] at hfind
  exact ⟨hnext, htxn, _, hfind, rfl, rfl, rfl, rfl⟩

section
variable {d : List Byte} (hpart : (s.ctx c x).part = p) (htask : (s.ctx c x).task = t) (hneeds : needs = blockNeeds [(0, pbf t 8 6, pbf t 24 4)]) (hsource : Readable s p [(pbf t 8 6, pbf t 24 4)])
  (hawait : awaitBytes s c x false (s.core c).tmAsked needs = (true, asked, v)) (hw : w = sourceHere v c p needs)
include hpart htask hneeds hsource hawait hw

theorem decompressRun_error {n : Nat} (hobject : eraelyObject (devRead w p (pbf t 8 6) (pbf t 24 4)) = .error n) :
    decompressRun s c x = abortTask (w.modCore c (fun q => { q with decompErr := satAdd q.decompErr n })) c x stIntegrity := by
  unfold decompressRun
  dsimp only
  rw [hpart, htask, withSource_of_readable _ hpart hneeds hsource hawait, if_pos rfl, ← hw, hobject]

theorem decompressRun_length (hobject : eraelyObject (devRead w p (pbf t 8 6) (pbf t 24 4)) = .ok d) (hlen : d.length ≠ pbf t 28 4) : decompressRun s c x = abortTask w c x stIntegrity := by
  unfold decompressRun
  dsimp only
  rw [hpart, htask, withSource_of_readable _ hpart hneeds hsource hawait, if_pos rfl, ← hw, hobject]
  exact if_pos hlen

theorem decompressRun_written (hobject : eraelyObject (devRead w p (pbf t 8 6) (pbf t 24 4)) = .ok d) (hlen : d.length = pbf t 28 4) (hwrite : (taskWrite w c p 0 (pbf t 16 6) d).1 = .ok) :
    decompressRun s c x = (taskWrite w c p 0 (pbf t 16 6) d).2 := by
  unfold decompressRun
  dsimp only
  rw [hpart, htask, withSource_of_readable _ hpart hneeds hsource hawait, if_pos rfl, ← hw, hobject]
  dsimp only
  rw [if_neg (not_not_intro hlen)]
  split
  next hrows => rw [hrows]
  next hrows => simp [hrows] at hwrite
  next hnot _ hwritten => exact absurd ((congrArg Prod.fst hwritten).symm.trans hwrite) hnot

end

end

section
variable {s : State} {c : CoreId} (hc : c.val < s.ncores) (htrip : s.pwr.trip = false)
include hc htrip

theorem moveTask_next {u : State} {x : CtxId} (hruns : MoverRuns s c.val .move x.val u) : exec (.moveTask c) s = .next (kept s (moveRun u c.val x.val)) :=
  endsClocked_of_eq hc htrip (moverRun_of_runs moveRun hruns)

theorem moveTask_idle (hhead : moverHead s c.val .move = none) (hwaits : moverWaits s c.val .move = none) : exec (.moveTask c) s = .next s :=
  (endsClocked_of_eq hc htrip (moverRun_of_idle moveRun hhead hwaits)).trans (congrArg Host.Outcome.next (kept_eq_self rfl rfl))

theorem decompress_next {u : State} {x : CtxId} (hruns : MoverRuns s c.val .decompress x.val u) : exec (.decompress c) s = .next (kept s (decompressRun u c.val x.val)) :=
  endsClocked_of_eq hc htrip (moverRun_of_runs decompressRun hruns)

end

/-- Settles O45: each command over the rule of its operation; a move and a decompression go through the source that they share. -/
theorem sequencerAndMoverTasks : Obligations.SequencerAndMoverTasks := by
  intro s c x k hc htrip hk
  refine ⟨fun r => waitForCadence_next hc htrip hk, signalTask_next hc htrip hk, fun m hm => ⟨?admitted, ?strange, ?ended⟩, fun src h g => coreDoneArrive_next hc htrip,
    fun score hkind hready hmapped => ⟨promoteTask_poisoned hc htrip hk hkind hready hmapped, fun hclean hscore => ?promote⟩, fun hstarts u hu => ⟨?member, ?coordinator, ?noSlot⟩,
    fabricBarrier_idle hc htrip, fun slot b g t0 now hnow hfind hpend hrunning => ?timeout, fun hrunning hkind hover u => taskDone_next hc htrip hk hrunning hkind hover,
    fun _ _ => taskDone_waits hc htrip, fun u v w asked rows needs hruns hkind hneeds hmapped hclean hopen => ?move, moveTask_idle hc htrip,
    fun u v w asked needs hruns hneeds hmapped hclean hopen hawait hw => ?decompress⟩
  case admitted =>
    subst hm
    exact fun r hrun hgraph hlive hno hin hpart =>
      ⟨signalArrive_admitted hc htrip hk hrun hgraph hlive hno hin hpart, signalArrive_refused hc htrip hk hrun hgraph hlive hno hin hpart⟩
  case strange =>
    subst hm
    refine fun r hrun hin => signalArrive_dropped hc htrip fun q hq => ?_
    obtain rfl : r = q := Option.some.inj (hrun.symm.trans hq)
    exact hin
  case ended =>
    subst hm
    exact fun hrun => signalArrive_dropped hc htrip fun q hq => by rw [hrun] at hq; cases hq
  case promote =>
    rw [promoteTask_next hc htrip hk hkind hready hmapped hclean hscore]
    refine ⟨fun hnot => ?_, fun hnumber hreached => ?_⟩
    · rw [if_neg (by simpa [imp_iff_not_or] using hnot)]
    · rw [if_pos (by simp [hnumber, hreached])]
  case member => exact fun slot b hslot hcoord => fabricBarrier_member hc htrip hk hstarts hslot hcoord
  case coordinator =>
    intro slot b hslot hcoord
    obtain ⟨v, rfl, hnext⟩ := fabricBarrier_slot hc htrip hk hstarts hslot
    rw [if_pos hcoord] at hnext
    subst hk hu
    exact hnext
  case noSlot =>
    subst hk hu
    exact fabricBarrier_none hc htrip rfl hstarts
  case timeout =>
    subst hk
    rw [barrierTimeout_next hc hnow hfind hpend hrunning]
    refine ⟨fun hlate => by rw [if_pos hlate], fun hwithin => ?_⟩
    rw [if_neg (by omega)]
    exact congrArg Host.Outcome.next (kept_eq_self rfl rfl)
  case move =>
    subst hk
    obtain ⟨hpart, htask, hfab⟩ := MoverRuns.ctx_fab hruns
    rw [moveTask_next hc htrip hruns]
    refine ⟨fun hawait => by rw [moveRun_waits hpart htask hkind hneeds ⟨hmapped, hclean, hopen⟩ hawait], fun hawait hw hrows => ?_⟩
    obtain ⟨hremote, hlocal⟩ := moveRun_here hpart htask hkind hneeds ⟨hmapped, hclean, hopen⟩ hawait hw
    subst hrows
    refine ⟨fun hbit hwritten => by rw [hlocal hbit hwritten, rowsMoved], fun hbit => ?_⟩
    obtain ⟨hnext, htxn, y, hfind, hcore, hctx, hdev, hframes⟩ := beginRemote_sourceHere hawait hw (rowsMoved w (s.ctx c.val x.val).part (s.ctx c.val x.val).task)
    rw [hfab] at hnext htxn hfind
    rw [htask] at hdev
    rw [hremote hbit]
    exact ⟨_, y, rfl, hnext, htxn, hfind, hcore, hctx, hdev, hframes⟩
  case decompress =>
    subst hk
    obtain ⟨hpart, htask, -⟩ := MoverRuns.ctx_fab hruns
    have hsource : Readable u (s.ctx c.val x.val).part [(pbf (s.ctx c.val x.val).task 8 6, pbf (s.ctx c.val x.val).task 24 4)] := by
      simp [Readable, hmapped, hclean, hopen]
    rw [decompress_next hc htrip hruns]
    refine ⟨fun n hobject => ?_, fun d hobject => ⟨fun hlen => ?_, fun hlen hwrite => ?_⟩⟩
    · rw [decompressRun_error hpart htask hneeds hsource hawait hw hobject]
    · rw [decompressRun_length hpart htask hneeds hsource hawait hw hobject hlen]
    · rw [decompressRun_written hpart htask hneeds hsource hawait hw hobject hlen hwrite]

end Sys2Proof.Machine
end

section
/-! The cadence and streams family (05_cadence_and_streams.md): the statement about idle steps, time and the queue. -/

namespace Sys2Proof.Machine

/-- On an empty queue, with no offset above 2 ns to slew, a step is one cycle of the timestamp counter (R213, R216). -/
theorem step_idle {s : State} (hempty : s.pending = []) (hslew : s.cad.slew.natAbs ≤ 8) :
    step s = .next { s with ts := s.ts + BitVec.ofNat 64 (tsStep s) } := by
  have hno : ¬ (tsStep s ≠ 0 ∧ 8 < s.cad.slew.natAbs ∧ s.cad.slewTs.toNat + 1000 ≤ s.ts.toNat) := by omega
  rw [step_empty hempty, idleTick, if_neg hno]

/-- The timestamp stands still in O, where the reference clock may stop (R213). -/
theorem tsStep_off {s : State} (h : s.spr.pstate = .o) : tsStep s = 0 := by simp [tsStep, h]

/-- In W and S the timestamp counts reference periods of 20 ns (R213). -/
theorem tsStep_reference {s : State} (h : s.spr.pstate = .w ∨ s.spr.pstate = .s) : tsStep s = 20 := by
  rcases h with h | h <;> simp [tsStep, h]

/-- In A, I and T the timestamp counts nanoseconds while PLL_TS is locked (R213). -/
theorem tsStep_live {s : State} (h : s.spr.pstate = .a ∨ s.spr.pstate = .i ∨ s.spr.pstate = .t) : tsStep s = if s.crp.pllTs then 1 else 20 := by
  rcases h with h | h | h <;> simp [tsStep, h]

/-- Settles O2: an idle step adds `tsStep`, and a command leaves the rest of the queue that it was taken from. -/
theorem timeAndQueue : Obligations.TimeAndQueue := by
  refine ⟨fun s hempty hslew => ⟨tsStep s, step_idle hempty hslew, tsStep_off, tsStep_reference, tsStep_live⟩, fun c rest s t hqueue hstep => ?_⟩
  obtain ⟨hpending, hncores⟩ := step_next hstep
  rw [hqueue] at hpending
  exact ⟨hpending, hncores⟩

end Sys2Proof.Machine
end

section
/-! The cadence and streams family (05_cadence_and_streams.md): what a wake and a frame sent leave of cadence and of the time, and the statement about beats, loss and synchronisation. -/

namespace Sys2Proof.Machine

/-! ### Cadence and the time over wakes and frames -/

/-- Cadence and the timestamp: what no wake, no block brought and no frame sent changes. -/
def timekeeping (s : State) : Cad × W64 := (s.cad, s.ts)

theorem timekeeping_of_beyondMem {s t : State} (h : beyondMem t = beyondMem s) : timekeeping t = timekeeping s := (congrArg timekeeping h :)
theorem timekeeping_of_beyondLinks {s t : State} (h : beyondLinks t = beyondLinks s) : timekeeping t = timekeeping s := (congrArg timekeeping h :)

theorem timekeeping_setDom (s : State) (d : Domain) (v : Dom) : timekeeping (s.setDom d v) = timekeeping s := by cases d <;> rfl

theorem timekeeping_askOn (s : State) (d : Domain) (at_ : W64) : timekeeping (askOn s d at_) = timekeeping s := by
  unfold askOn
  dsimp only
  split
  · rfl
  · exact timekeeping_setDom ..

theorem timekeeping_setRung (s : State) (n : Nat) (r : Rung) : timekeeping (setRung s n r) = timekeeping s := by
  unfold setRung
  split
  · rfl
  · split <;> rfl

theorem timekeeping_queuePre (s : State) (lo hi : Nat) : timekeeping (queuePre s lo hi) = timekeeping s :=
  view_foldl timekeeping (fun _ _ => view_foldl timekeeping (fun _ _ => timekeeping_of_beyondMem (beyondMem_bringBlock ..)) _ _) _ _

theorem timekeeping_startRise (s : State) (n : Nat) : timekeeping (startRise s n) = timekeeping s := by
  unfold startRise
  dsimp only
  split
  · exact timekeeping_setRung ..
  · exact (view_foldl timekeeping (fun _ _ => timekeeping_askOn ..) _ _).trans (timekeeping_setRung ..)

theorem timekeeping_climb (s : State) : timekeeping (climb s) = timekeeping s := by
  refine view_foldl timekeeping (fun t n => ?_) _ _
  split
  · exact timekeeping_startRise ..
  · rfl

theorem timekeeping_cancelFall (s : State) : timekeeping (cancelFall s) = timekeeping s := timekeeping_queuePre ..

theorem timekeeping_askOns {α : Type} (l : List α) (d : α → Domain) (at_ : α → W64) (s : State) :
    timekeeping (l.foldl (fun t a => askOn t (d a) (at_ a)) s) = timekeeping s := view_foldl timekeeping (fun _ _ => timekeeping_askOn ..) _ _

theorem timekeeping_raised (s : State) (tgt : BitVec 2) : timekeeping { setRung s 1 .rising with spr.target := tgt } = timekeeping s := timekeeping_setRung s 1 .rising

theorem timekeeping_beginRestore (s : State) (from_ : PState) : timekeeping (beginRestore s from_) = timekeeping s := by
  unfold beginRestore
  dsimp only
  cases from_ with
  | t => exact (timekeeping_askOns ..).trans ((timekeeping_askOn ..).trans (timekeeping_askOns ..))
  | w => exact (timekeeping_queuePre ..).trans ((timekeeping_raised ..).trans ((timekeeping_askOn ..).trans ((timekeeping_askOn ..).trans (timekeeping_askOns ..))))
  | s =>
    dsimp only [timekeeping]
    exact (timekeeping_setRung ..).trans (timekeeping_askOn ..)
  | a | i | o => rfl

theorem timekeeping_latchWake (s : State) (sources : BitVec 7) (first : Nat) : timekeeping (latchWake s sources first) = timekeeping s := by
  have habandon (u : State) : timekeeping (if (cancelFall u).spr.pstate = .a then climb (cancelFall u) else beginRestore (cancelFall u) (cancelFall u).spr.pstate) = timekeeping u := by
    split
    · rw [timekeeping_climb, timekeeping_cancelFall]
    · rw [timekeeping_beginRestore, timekeeping_cancelFall]
  unfold latchWake
  dsimp only
  split
  · split
    · rfl
    · split
      · rfl
      · exact habandon _
  · split
    · rfl
    · split
      · exact timekeeping_beginRestore ..
      · rfl

theorem timekeeping_relayBeat (s : State) : timekeeping (relayBeat s) = timekeeping s := by
  unfold relayBeat
  split
  · exact timekeeping_of_beyondLinks (beyondLinks_sendFrame ..)
  · rfl

/-! ### Beats (R203 to R210) -/

theorem timekeeping_issueBeat (s : State) (stamp : W64) :
    timekeeping (issueBeat s stamp) = ({ s.cad with beats := s.cad.beats + 1, beatTs := stamp }, s.ts) := timekeeping_relayBeat _

/-- With the fabric off a beat is told to no other device (R206). -/
theorem issueBeat_alone {s : State} (stamp : W64) (hfab : s.fab.en = false) :
    issueBeat s stamp = takeE0 { s with cad.beats := s.cad.beats + 1, cad.beatTs := stamp } :=
  if_neg (by simp [takeE0, hfab])

/-- A real beat that ends LOST restarts the mean (R209). -/
theorem timekeeping_realBeat_lost {s : State} (stamp : W64) (hlost : s.cad.lost = true) :
    timekeeping (realBeat s stamp) = ({ s.cad with
      lost := false, freewheel := false, hold := false, periods := [], realBeats := 1, realTs := stamp, events := raiseEv s.cad.events 2
      beats := s.cad.beats + 1, beatTs := stamp }, s.ts) := by
  rw [realBeat]
  dsimp only
  rw [if_pos hlost, timekeeping_latchWake, timekeeping_issueBeat]
  rfl

/-- A real beat of a cadence that is not LOST: its period joins the mean (R207). -/
theorem realBeat_held {s : State} (stamp : W64) (hlost : s.cad.lost = false) :
    ∃ ps period, realBeat s stamp = issueBeat { s with cad.periods := ps, cad.period := period, cad.realBeats := s.cad.realBeats + 1, cad.realTs := stamp } stamp :=
  ⟨_, _, if_neg (by simp [hlost])⟩

/-- With the fabric off such a beat changes cadence and what waits for its first beat (R218). -/
theorem realBeat_alone {s : State} (stamp : W64) (hlost : s.cad.lost = false) (hfab : s.fab.en = false) :
    ∃ ps period, realBeat s stamp = takeE0 { s with
      cad.periods := ps, cad.period := period, cad.realBeats := s.cad.realBeats + 1, cad.realTs := stamp, cad.beats := s.cad.beats + 1, cad.beatTs := stamp } := by
  obtain ⟨ps, period, h⟩ := realBeat_held stamp hlost
  exact ⟨ps, period, h.trans (issueBeat_alone stamp hfab)⟩

/-- Every real beat counts one whole beat, keeps its stamp, and leaves the encoder's accumulation and the time. -/
theorem realBeat_counts (s : State) (stamp : W64) : (realBeat s stamp).cad.beats = s.cad.beats + 1 ∧ (realBeat s stamp).cad.beatTs = stamp ∧
    (realBeat s stamp).cad.encAcc = s.cad.encAcc ∧ (realBeat s stamp).ts = s.ts := by
  cases hlost : s.cad.lost with
  | true =>
    have h := timekeeping_realBeat_lost stamp hlost
    exact ⟨(congrArg (·.1.beats) h :), (congrArg (·.1.beatTs) h :), (congrArg (·.1.encAcc) h :), (congrArg Prod.snd h :)⟩
  | false =>
    obtain ⟨ps, period, h⟩ := realBeat_held stamp hlost
    have h := (congrArg timekeeping h).trans (timekeeping_issueBeat ..)
    exact ⟨(congrArg (·.1.beats) h :), (congrArg (·.1.beatTs) h :), (congrArg (·.1.encAcc) h :), (congrArg Prod.snd h :)⟩

/-! ### How an event ends -/

theorem ends_kept {s f t : State} (h : f = t) : ends s f = .next (kept s t) := congrArg (ends s) h

/-- An event whose effect leaves the queue and the chip has that effect. -/
theorem ends_of_eq {s f t : State} (h : f = t) (hpending : t.pending = s.pending) (hchip : t.chip = s.chip) : ends s f = .next t := by
  subst h
  exact congrArg Host.Outcome.next (kept_eq_self hpending hchip)

/-- An event at a stamp that is not past has the effect that its definition comes to at that stamp. -/
theorem endsAt_of_eq {s t : State} {now : W64} {f : State → State} (hnow : s.ts.toNat ≤ now.toNat) (h : f { s with ts := now } = t) : endsAt s now f = .next (kept s t) := by
  rw [← h, ← advance_of_le hnow]
  rfl

/-- A stamp moves the time alone. -/
theorem advance_frame (s : State) (now : W64) : ∃ ts, s.advance now = { s with ts := ts } := by
  unfold State.advance
  split
  · exact ⟨now, rfl⟩
  · exact ⟨s.ts, rfl⟩

section
variable {s : State} {stamp : W64}

/-! ### Edges (R203, R204) -/

theorem candidate_early (hearly : tooEarly s stamp = true) : candidate s stamp = cadEvent s 0 := if_pos hearly
theorem candidate_real (hearly : tooEarly s stamp = false) : candidate s stamp = realBeat s stamp := if_neg (by simp [hearly])

/-- An edge of the other polarity is no candidate. -/
theorem cadencePulse_otherEdge {rising : Bool} (hedge : rising = s.cad.edge) : exec (.cadencePulse rising stamp) s = .next (s.advance stamp) :=
  ends_of_eq (if_neg (by simp [hedge])) (State.advance_pending ..) (State.advance_chip ..)

section
variable {rising : Bool} (hen : s.cad.en = true) (hsrc : s.cad.src = 0) (hedge : rising ≠ s.cad.edge)
include hen hsrc hedge

/-- A filtered edge of the chosen polarity is a candidate beat at the stamp minus the filter's 3 ns. -/
theorem cadencePulse_candidate : exec (.cadencePulse rising stamp) s = .next (kept s (candidate (s.advance stamp) (stamp - 3))) :=
  ends_kept (if_pos (by simp [hen, hsrc, hedge]))

theorem cadencePulse_early (hearly : tooEarly s (stamp - 3) = true) :
    exec (.cadencePulse rising stamp) s = .next { s.advance stamp with cad.events := raiseEv s.cad.events 0 } := by
  rw [cadencePulse_candidate hen hsrc hedge]
  obtain ⟨ts, hts⟩ := advance_frame s stamp
  rw [hts, candidate_early (s := { s with ts := ts }) hearly]
  rfl

/-- A beat of a cadence that is not LOST counts, and beside cadence changes only what waits for its first beat (R207, R218). -/
theorem cadencePulse_beat (hfab : s.fab.en = false) (hearly : tooEarly s (stamp - 3) = false) (hlost : s.cad.lost = false) :
    ∃ t, exec (.cadencePulse rising stamp) s = .next t ∧ t.cad.beats = s.cad.beats + 1 ∧ t.cad.beatTs = stamp - 3 ∧ t.cad.realTs = stamp - 3 ∧
      t.cad.realBeats = s.cad.realBeats + 1 ∧ t.cad.events = s.cad.events ∧ t.cad.lost = false ∧ t = takeE0 { s with ts := t.ts, cad := t.cad } := by
  obtain ⟨ts, hts⟩ := advance_frame s stamp
  obtain ⟨ps, period, hbeat⟩ := realBeat_alone (s := { s with ts := ts }) (stamp - 3) hlost hfab
  rw [cadencePulse_candidate hen hsrc hedge, hts, candidate_real (s := { s with ts := ts }) hearly, hbeat]
  exact ⟨_, rfl, rfl, rfl, rfl, rfl, rfl, hlost, rfl⟩

/-- The beat that ends LOST restarts the mean (R209). -/
theorem cadencePulse_relock (hearly : tooEarly s (stamp - 3) = false) (hlost : s.cad.lost = true) :
    ∃ t, exec (.cadencePulse rising stamp) s = .next t ∧ t.cad = { s.cad with
      lost := false, freewheel := false, hold := false, periods := [], realBeats := 1, realTs := stamp - 3, events := raiseEv s.cad.events 2
      beats := s.cad.beats + 1, beatTs := stamp - 3 } := by
  obtain ⟨ts, hts⟩ := advance_frame s stamp
  rw [cadencePulse_candidate hen hsrc hedge, hts, candidate_real (s := { s with ts := ts }) hearly]
  exact ⟨_, rfl, congrArg Prod.fst (timekeeping_realBeat_lost (s := { s with ts := ts }) (stamp - 3) hlost)⟩

end

/-! ### Strobes of the encoder (R205) -/

section
variable {count last : W32} (hen : s.cad.en = true) (hsrc : s.cad.src = 1) (hlast : s.cad.encLast = some last) (hdiv : s.cad.encDiv ≠ 0) (hdir : s.cad.encDir = false)
include hen hsrc hlast hdiv hdir

/-- A strobe accumulates its difference to the last; a crossing of the divider is a candidate beat, and leaves the rest accumulated. -/
theorem encoderStrobe_eq : encoderStrobe s count stamp =
    if s.cad.encAcc + (count - last).toInt < s.cad.encDiv.toNat then { s with cad.encLast := some count, cad.encAcc := s.cad.encAcc + (count - last).toInt }
    else if tooEarly s stamp then cadEvent { s with cad.encLast := some count, cad.encAcc := s.cad.encAcc + (count - last).toInt } 0
    else realBeat { s with cad.encLast := some count, cad.encAcc := s.cad.encAcc + (count - last).toInt - s.cad.encDiv.toNat } stamp := by
  rw [encoderStrobe, if_neg (by simp [hen, hsrc]), hlast]
  dsimp only
  rw [if_neg hdiv, hdir]
  rfl

/-- Short of the divider no beat comes. -/
theorem encoderStrobe_short (hshort : s.cad.encAcc + (count - last).toInt < s.cad.encDiv.toNat) :
    ∃ t, exec (.encoderStrobe count stamp) s = .next t ∧ t.cad = { s.cad with encLast := some count, encAcc := s.cad.encAcc + (count - last).toInt } ∧ t.graphs = s.graphs := by
  obtain ⟨ts, hts⟩ := advance_frame s stamp
  have hstrobe := (encoderStrobe_eq (s := { s with ts := ts }) (stamp := stamp) hen hsrc hlast hdiv hdir).trans (if_pos hshort)
  refine ⟨_, ends_kept ((congrArg (encoderStrobe · count stamp) hts).trans hstrobe), rfl, rfl⟩

/-- A crossing of the divider is a real beat (R205). -/
theorem encoderStrobe_crossing (hcross : (s.cad.encDiv.toNat : Int) ≤ s.cad.encAcc + (count - last).toInt) (hearly : tooEarly s stamp = false) :
    ∃ t, exec (.encoderStrobe count stamp) s = .next t ∧ t.cad.beats = s.cad.beats + 1 ∧ t.cad.beatTs = stamp ∧
      t.cad.encAcc = s.cad.encAcc + (count - last).toInt - s.cad.encDiv.toNat := by
  obtain ⟨ts, hts⟩ := advance_frame s stamp
  have hstrobe := (encoderStrobe_eq (s := { s with ts := ts }) (stamp := stamp) hen hsrc hlast hdiv hdir).trans ((if_neg (not_lt.mpr hcross)).trans (if_neg (Bool.eq_false_iff.mp hearly)))
  obtain ⟨hbeats, hbeatTs, hacc, -⟩ := realBeat_counts { s with ts := ts, cad.encLast := some count, cad.encAcc := s.cad.encAcc + (count - last).toInt - s.cad.encDiv.toNat } stamp
  exact ⟨_, ends_kept ((congrArg (encoderStrobe · count stamp) hts).trans hstrobe), hbeats, hbeatTs, hacc⟩

end

/-! ### Beats of the fabric's source (R206) -/

/-- The count set one below the source's and raised by the beat is the source's. -/
theorem ofNat_pred_add_one (n : Nat) : BitVec.ofNat 48 (n + 2 ^ 48 - 1) + 1 = BitVec.ofNat 48 n := by
  have h : n + 2 ^ 48 - 1 + 1 = n + 2 ^ 48 := Nat.sub_add_cancel (by omega)
  calc BitVec.ofNat 48 (n + 2 ^ 48 - 1) + 1 = BitVec.ofNat 48 (n + 2 ^ 48 - 1 + 1) := (BitVec.ofNat_add ..).symm
    _ = BitVec.ofNat 48 n := by rw [h, BitVec.ofNat_add]; simp

/-- The source's beat is a real beat with the source's count, and leaves the device's own time. -/
theorem fabBeat_next {port : FabPort} {src : DevId} {beats : W64} (hen : s.cad.en = true) (hsrc : s.cad.src = 2) (hdev : s.cad.srcDev.toNat = src.val)
    (hconflict : s.fab.conflict = false) (htrip : s.pwr.trip = false) :
    ∃ t, exec (.fabBeat port src stamp beats) s = .next t ∧ t.cad.beats = BitVec.ofNat 48 beats.toNat ∧ t.cad.beatTs = stamp ∧ t.ts = s.ts := by
  obtain ⟨hbeats, hbeatTs, -, hts⟩ := realBeat_counts { holdExt s with cad.beats := BitVec.ofNat 48 (beats.toNat + 2 ^ 48 - 1) } stamp
  exact ⟨_, ends_kept (if_pos (by simp [hen, hsrc, hdev, fabDeaf, hconflict, htrip])),
    hbeats.trans (ofNat_pred_add_one _), hbeatTs, hts⟩

end

/-- The state in which the device has sent its parent an exchange's message, where it has a parent (R215). -/
def exchangeSent (s : State) : State :=
  match syncParent s with
  | some d => (sendFrame { s with cad.syncTs := s.ts } (mkFrame s 0x40 d false 0x3F (Config.free 64 s.freeNo 45) []) none).draw
  | none => { s with cad.syncTs := s.ts }

theorem timekeeping_exchangeSent (s : State) : timekeeping (exchangeSent s) = ({ s.cad with syncTs := s.ts }, s.ts) := by
  unfold exchangeSent
  split
  · exact timekeeping_of_beyondLinks (beyondLinks_sendFrame ..)
  · rfl

section
variable {s : State} {now : W64} (hnow : s.ts.toNat ≤ now.toNat)
include hnow

/-! ### Loss and freewheel (R208) -/

section
variable (hen : s.cad.en = true) (hlost : s.cad.lost = false) (hperiod : s.cad.period ≠ 0)
  (hlate : s.cad.realTs.toNat + s.cad.lossBeats.toNat * s.cad.period.toNat ≤ now.toNat)
include hen hlost hperiod hlate

/-- A loss: LOSS_ACT 1 holds external time, LOSS_ACT 0 makes the missed beats up. -/
theorem cadenceLoss_next : exec (.cadenceLoss now) s = .next (kept s (if s.cad.lossAct then
      { s with ts := now, cad.lost := true, cad.hold := true, cad.events := raiseEv s.cad.events 1 }
    else relayBeat (takeE0 { s with ts := now, cad.lost := true, cad.freewheel := true, cad.events := raiseEv s.cad.events 1
                                    cad.beats := s.cad.beats + BitVec.ofNat 48 (s.cad.lossBeats.toNat - 1), cad.beatTs := now }))) := by
  change execCadenceLoss now s = _
  unfold execCadenceLoss
  exact endsAt_of_eq hnow (if_pos ⟨hen, by simp [hlost], hperiod, hlate⟩)

theorem cadenceLoss_hold (hact : s.cad.lossAct = true) :
    exec (.cadenceLoss now) s = .next { s with ts := now, cad.lost := true, cad.hold := true, cad.events := raiseEv s.cad.events 1 } := by
  rw [cadenceLoss_next hnow hen hlost hperiod hlate, if_pos hact]
  rfl

theorem cadenceLoss_freewheel (hact : s.cad.lossAct = false) :
    ∃ t, exec (.cadenceLoss now) s = .next t ∧ timekeeping t = ({ s.cad with
      lost := true, freewheel := true, events := raiseEv s.cad.events 1, beats := s.cad.beats + BitVec.ofNat 48 (s.cad.lossBeats.toNat - 1), beatTs := now }, now) := by
  rw [cadenceLoss_next hnow hen hlost hperiod hlate, if_neg (by simp [hact])]
  exact ⟨_, rfl, timekeeping_relayBeat _⟩

end

/-- A freewheeling beat comes one period after the last (R208). -/
theorem synthesisedBeat_next (hen : s.cad.en = true) (hfree : s.cad.freewheel = true) (hdue : s.cad.beatTs.toNat + s.cad.period.toNat ≤ now.toNat) :
    ∃ t, exec (.synthesisedBeat now) s = .next t ∧ t.cad = { s.cad with beats := s.cad.beats + 1, beatTs := s.cad.beatTs + s.cad.period.setWidth 64 } := by
  change ∃ t, execSynthesisedBeat now s = .next t ∧ _
  unfold execSynthesisedBeat
  exact ⟨_, endsAt_of_eq hnow (if_pos ⟨hen, hfree, hdue⟩), congrArg Prod.fst (timekeeping_issueBeat { s with ts := now } _)⟩

/-! ### Synchronisation (R215, R216) -/

/-- Before its interval is over an exchange does not go. -/
theorem syncExchange_early (hearly : now.toNat < s.cad.syncTs.toNat + 125000 * 2 ^ s.cad.interval.toNat) (ok : Bool) :
    exec (.syncExchange ok now) s = .next { s with ts := now } := by
  have hwaits : (!s.cad.syncEn || !s.fab.en || decide (now.toNat < s.cad.syncTs.toNat + 125000 * 2 ^ s.cad.interval.toNat)) = true := by simp [hearly]
  change execSyncExchange ok now s = _
  unfold execSyncExchange
  refine endsAt_of_eq (t := { s with ts := now }) hnow ?_
  exact if_pos hwaits

/-- Once its interval is over an exchange goes, and a failed one is counted; the fourth in a row clears SYNCED. -/
theorem syncExchange_due (hsync : s.cad.syncEn = true) (hfab : s.fab.en = true) (hdue : s.cad.syncTs.toNat + 125000 * 2 ^ s.cad.interval.toNat ≤ now.toNat)
    {u : State} (hu : u = exchangeSent { s with ts := now }) :
    exec (.syncExchange true now) s = .next (kept s { u with cad.syncFails := 0 }) ∧
    exec (.syncExchange false now) s = .next (kept s (if 4 ≤ s.cad.syncFails + 1 then cadEvent { u with cad.syncFails := s.cad.syncFails + 1, cad.synced := false } 5
      else { u with cad.syncFails := s.cad.syncFails + 1 })) := by
  have hgo : ¬ (!s.cad.syncEn || !s.fab.en || decide (now.toNat < s.cad.syncTs.toNat + 125000 * 2 ^ s.cad.interval.toNat)) = true := by
    simp [hsync, hfab, hdue]
  subst hu
  change execSyncExchange true now s = _ ∧ execSyncExchange false now s = _
  unfold execSyncExchange
  exact ⟨endsAt_of_eq hnow ((if_neg hgo).trans (if_pos rfl)), endsAt_of_eq hnow ((if_neg hgo).trans (if_neg Bool.false_ne_true))⟩

end

section
variable {s : State} {port : FabPort} {msg : SyncMsg} {f : Nat}

/-- An answer is the parent's or changes nothing (R215). -/
theorem fabSync_next (hport : syncPort s = some f) : exec (.fabSync port msg) s =
    .next (kept s (if s.cad.syncEn ∧ !s.pwr.trip ∧ msg.src.val = (s.port f).neigh.toNat then takeSync s (syncOffset s f msg) else s)) := by
  change ends s _ = _
  rw [hport]
  rfl

section
variable (hport : syncPort s = some f) (hsync : s.cad.syncEn = true) (htrip : s.pwr.trip = false) (hparent : msg.src.val = (s.port f).neigh.toNat)
include hport hsync htrip hparent

/-- Behind its parent by more than 1 µs the counter steps forward, and what is short of 1 ns is slewed (R216). -/
theorem fabSync_step (hbehind : 4000 < syncOffset s f msg) : exec (.fabSync port msg) s = .next { s with
    ts := s.ts + BitVec.ofNat 64 ((syncOffset s f msg).toNat / 4), cad.offset := BitVec.ofInt 32 (syncOffset s f msg), cad.synced := false, cad.syncFails := 0
    cad.slew := syncOffset s f msg % 4 } := by
  have hfar : decide ((syncOffset s f msg).natAbs ≤ 20) = false := by simp; omega
  rw [fabSync_next hport, if_pos ⟨hsync, by simp [htrip], hparent⟩, takeSync, if_pos hbehind, hfar]
  rfl

/-- Every other offset is slewed (R216). -/
theorem fabSync_slew (hnear : syncOffset s f msg ≤ 4000) : exec (.fabSync port msg) s = .next { s with
    cad.offset := BitVec.ofInt 32 (syncOffset s f msg), cad.synced := decide ((syncOffset s f msg).natAbs ≤ 20), cad.syncFails := 0, cad.slew := syncOffset s f msg } := by
  rw [fabSync_next hport, if_pos ⟨hsync, by simp [htrip], hparent⟩, takeSync, if_neg (not_lt.mpr hnear)]
  rfl

end

/-- The answer of another device changes nothing. -/
theorem fabSync_other (hport : syncPort s = some f) (hother : msg.src.val ≠ (s.port f).neigh.toNat) : exec (.fabSync port msg) s = .next s := by
  rw [fabSync_next hport, if_neg fun h => hother h.2.2]
  rfl

end

/-! ### The statement -/

/-- Settles O23: each command over the rule of its candidate, its loss or its exchange. -/
theorem beatsAndSynchronisation : Obligations.BeatsAndSynchronisation := by
  refine ⟨fun s stamp hen hfab => ⟨fun rising hsrc hedge => ⟨?early, ?beat, ?relock⟩, fun rising hsrc hedge => ?otherEdge, fun count last hsrc hlast hdiv hdir => ⟨?short, ?crossing⟩,
    fun port src beats hsrc hdev hconflict htrip hbeats => ?fabBeat⟩, fun s now hnow => ⟨fun hen hlost hperiod hlate => ⟨?hold, ?freewheel⟩, fun hen hfree hdue => ?synthesised,
    fun hsync hfab hearly ok => ?waits, fun hsync hfab hdue => ⟨?answered, ?failed⟩, fun port msg f q hsync htrip hport hq => ⟨?step, ?slew, ?other⟩⟩⟩
  case early => exact cadencePulse_early hen hsrc hedge
  case beat => exact cadencePulse_beat hen hsrc hedge hfab
  case relock =>
    intro hearly hlost
    obtain ⟨t, hnext, hcad⟩ := cadencePulse_relock hen hsrc hedge hearly hlost
    refine ⟨t, hnext, ?_⟩
    rw [hcad]
    exact ⟨rfl, rfl, rfl, rfl, rfl, rfl, rfl, rfl, rfl⟩
  case otherEdge => exact cadencePulse_otherEdge hedge
  case short =>
    intro hshort
    obtain ⟨t, hnext, hcad, hgraphs⟩ := encoderStrobe_short (stamp := stamp) hen hsrc hlast hdiv hdir hshort
    refine ⟨t, hnext, ?_⟩
    rw [hcad]
    exact ⟨rfl, rfl, rfl, rfl, hgraphs⟩
  case crossing => exact encoderStrobe_crossing hen hsrc hlast hdiv hdir
  case fabBeat => exact fabBeat_next hen hsrc hdev hconflict htrip
  case hold => exact cadenceLoss_hold hnow hen hlost hperiod hlate
  case freewheel =>
    intro hact
    obtain ⟨t, hnext, htime⟩ := cadenceLoss_freewheel hnow hen hlost hperiod hlate hact
    obtain ⟨hcad, hts⟩ : t.cad = _ ∧ t.ts = now := Prod.ext_iff.mp htime
    refine ⟨t, hnext, ?_⟩
    rw [hcad]
    exact ⟨rfl, rfl, rfl, rfl, rfl, hts⟩
  case synthesised =>
    obtain ⟨t, hnext, hcad⟩ := synthesisedBeat_next hnow hen hfree hdue
    refine ⟨t, hnext, ?_⟩
    rw [hcad]
    exact ⟨rfl, rfl, rfl⟩
  case waits => exact syncExchange_early hnow hearly ok
  case answered =>
    obtain ⟨hnext, -⟩ := syncExchange_due hnow hsync hfab hdue rfl
    have hsent := timekeeping_exchangeSent { s with ts := now }
    exact ⟨_, hnext, rfl, (congrArg (·.1.synced) hsent :), (congrArg (·.1.events) hsent :), congrArg Prod.snd hsent⟩
  case failed =>
    obtain ⟨-, hnext⟩ := syncExchange_due hnow hsync hfab hdue rfl
    have hsent := timekeeping_exchangeSent { s with ts := now }
    refine ⟨_, hnext, ?_⟩
    by_cases hfourth : 4 ≤ s.cad.syncFails + 1
    · rw [if_pos hfourth]
      exact ⟨rfl, fun hfew => absurd hfourth (by omega), fun _ => ⟨rfl, (congrArg (raiseEv ·.1.events 5) hsent :)⟩⟩
    · rw [if_neg hfourth]
      exact ⟨rfl, fun _ => ⟨(congrArg (·.1.synced) hsent :), (congrArg (·.1.events) hsent :)⟩, fun hmany => absurd hmany (by omega)⟩
  case step =>
    subst hq
    exact fabSync_step hport hsync htrip
  case slew =>
    subst hq
    exact fabSync_slew hport hsync htrip
  case other => exact fabSync_other hport

end Sys2Proof.Machine
end

section
/-! The cadence and streams family (05_cadence_and_streams.md): the register window, what a retrain leaves, and the statement about latched reads, bounded fields and registers that act on a write. -/

namespace Sys2Proof.Machine

/-! ### Groups of the register window (R678) and who may reach them (R438) -/

theorem ncores_le_of_legalCores {n : Nat} (h : legalCores n = true) : n ≤ 64 := by
  have hmem : n ∈ [1, 2, 4, 8, 16, 32, 64] := List.elem_iff.mp h
  simp only [List.mem_cons, List.not_mem_nil, or_false] at hmem
  omega

/-- The page of a partition lies beyond the cores of every configuration. -/
theorem regGroup_page {s : State} (p : PartId) {off : Nat} (hoff : off < 0x10000) (hlegal : legalCores s.ncores = true) :
    regGroup s ((0x80 + p.val) * 0x10000 + off) = (.page p.val, off) := by
  have hcores := ncores_le_of_legalCores hlegal
  have hp := p.isLt
  have hblk : ((0x80 + p.val) * 0x10000 + off) / 0x10000 = 0x80 + p.val := by omega
  have hmod : ((0x80 + p.val) * 0x10000 + off) % 0x10000 = off := by omega
  unfold regGroup
  simp only [hblk, hmod]
  repeat rw [if_neg (by omega)]
  rw [if_pos (by omega), Nat.add_sub_cancel_left]

theorem regGroup_fabPort (s : State) (f : FabPort) : regGroup s (0x50100 + f.val * 0x20) = (.fab, 0x100 + f.val * 0x20) := by
  have hf := f.isLt
  have hblk : (0x50100 + f.val * 0x20) / 0x10000 = 5 := by omega
  have hmod : (0x50100 + f.val * 0x20) % 0x10000 = 0x100 + f.val * 0x20 := by omega
  unfold regGroup
  simp only [hblk, hmod]
  rw [if_neg (by omega)]
  rfl

/-- Rennet reads and writes every block but the debug apertures. -/
theorem islandGrants_rennet {g : RegGroup} (hg : g ≠ .dbg) : islandGrants g 1 = true := by
  cases g with
  | dbg => exact absurd rfl hg
  | _ => rfl

theorem mayRead_rennet {s : State} {o : Nat} (hg : (regGroup s o).1 ≠ .dbg) : mayRead s (byIsland 1) o = true := islandGrants_rennet hg
theorem mayWrite_rennet {s : State} {o : Nat} (hg : (regGroup s o).1 ≠ .dbg) : mayWrite s (byIsland 1) o = true := islandGrants_rennet hg

/-- A host partition writes its own page. -/
theorem mayWrite_ownPage {s : State} {p : PartId} {o off : Nat} (hg : regGroup s o = (.page p.val, off)) : mayWrite s (byHost p.val) o = true := by
  have hp := p.isLt
  have hinit : (byHost p.val).init.toNat = p.val := by simp [byHost, initId]; omega
  have htag : (byHost p.val).tag.toNat = p.val := by simp [byHost]
  have hclass : initClass (byHost p.val).init = 0 := by rw [initClass, hinit]; omega
  have hindex : initIndex (byHost p.val).init = p.val := by rw [initIndex, hinit]; omega
  simp [mayWrite, hclass, hindex, htag, hg, hostWrites]

/-! ### Latched reads (R242) -/

/-- A read that its gate grants latches what the register's LO half latches. -/
theorem latchedReadLo_next {s : State} {off : BitVec 26} {o : Nat} (ho : off.toNat / 4 * 4 = o) (hg : (regGroup s o).1 ≠ .dbg) :
    exec (.latchedReadLo (byIsland 1) off) s = .next (kept s (regLatch s o)) := by
  subst ho
  exact ends_kept (if_pos (mayRead_rennet hg))

theorem regLatch_page {s : State} (p : PartId) (hlegal : legalCores s.ncores = true) :
    regLatch s ((0x80 + p.val) * 0x10000 + 0x130) = s.modPart p.val (fun q => { q with intLatch := BitVec.ofNat 32 (q.intAddr.toNat / 2 ^ 32) }) := by
  unfold regLatch
  rw [regGroup_page p (by decide) hlegal]
  rfl

/-! ### Writes that their gates grant (R18, R438) -/

theorem writeBy_granted {s : State} {r : Requester} {o : Nat} (d hw : W32) (h : mayWrite s r o = true) : writeBy s r o d hw = regWrite s r.init o d hw := if_pos h

theorem registerWrite_next {s : State} {r : Requester} {off : W32} {o : Nat} {d hw : W32} (ho : off.toNat / 4 * 4 = o) (h : mayWrite s r o = true) :
    exec (.registerWrite r off d hw) s = .next (kept s (regWrite s r.init o d hw)) := by
  subst ho
  exact ends_kept (writeBy_granted d hw h)

theorem keepIf_eq_ite {α : Type} (p : Prop) [Decidable p] (new old : α) : keepIf (decide p) new old = if p then new else old := by simp [keepIf]

theorem nbits_eq_div_mod (v hi lo : Nat) : nbits v hi lo = v / 2 ^ lo % 2 ^ (hi + 1 - lo) := by rw [nbits, Nat.shiftRight_eq_div_pow]

section
variable (s : State) (d : W32)

theorem throttle_write : exec (.registerWrite (byIsland 1) 0x20004 d 0) s =
    .next { s with pwr.throttle := if 85 ≤ d.toNat % 128 ∧ d.toNat % 128 ≤ 115 then d.setWidth 7 else s.pwr.throttle } := by
  rw [registerWrite_next (o := 0x20004) rfl (mayWrite_rennet nofun), ← keepIf_eq_ite]
  rfl

theorem watermark_write : exec (.registerWrite (byIsland 1) 0x60018 d 0) s = .next (if d.toNat / 256 % 64 ≤ d.toNat % 64 then s else
    { s with mem.low := d.setWidth 6, mem.high := BitVec.ofNat 6 (d.toNat / 256 % 64) }) := by
  have hhigh : nbits d.toNat 13 8 = d.toNat / 256 % 64 := nbits_eq_div_mod ..
  rw [registerWrite_next (o := 0x60018) rfl (mayWrite_rennet nofun), ← hhigh]
  by_cases hbound : nbits d.toNat 13 8 ≤ d.toNat % 64
  · rw [if_pos hbound]
    exact ends_kept (if_pos hbound)
  · rw [if_neg hbound]
    exact ends_kept (if_neg hbound)

theorem watchPeriod_write : exec (.registerWrite (byIsland 1) 0x80014 d 0) s =
    .next { s with spr.period := if 1000 ≤ d.toNat ∧ d.toNat ≤ 10000000 then d else s.spr.period } := by
  rw [registerWrite_next (o := 0x80014) rfl (mayWrite_rennet nofun), ← keepIf_eq_ite]
  rfl

theorem t3Size_write : exec (.registerWrite (byIsland 1) 0x60008 d 0) s =
    .next { s with mem.t3Size := if s.mem.lock = false ∧ 8 ≤ d.toNat then d else s.mem.t3Size } := by
  have hbound : (!s.mem.lock && decide (8 ≤ d.toNat)) = decide (s.mem.lock = false ∧ 8 ≤ d.toNat) := by simp
  rw [registerWrite_next (o := 0x60008) rfl (mayWrite_rennet nofun), ← keepIf_eq_ite, ← hbound]
  rfl

theorem hbLimit_write (p : PartId) (hlegal : legalCores s.ncores = true) : exec (.registerWrite (byHost p.val) (BitVec.ofNat 32 ((0x80 + p.val) * 0x10000 + 0x10)) d 0) s =
    .next (s.modPart p.val (fun q => { q with hbLimit := if d.toNat % 65536 = 0 ∨ 10 ≤ d.toNat % 65536 then d.setWidth 16 else q.hbLimit })) := by
  have hp := p.isLt
  have hgroup := regGroup_page p (off := 0x10) (by decide) hlegal
  have hoff : (BitVec.ofNat 32 ((0x80 + p.val) * 0x10000 + 0x10)).toNat / 4 * 4 = (0x80 + p.val) * 0x10000 + 0x10 := by
    rw [BitVec.toNat_ofNat]
    omega
  rw [registerWrite_next hoff (mayWrite_ownPage hgroup)]
  unfold regWrite
  rw [hgroup]
  simp only [← keepIf_eq_ite]
  rfl

end

/-! ### Ports over frames and reports (R343, R358, R586) -/

/-- What no frame sent changes of a port: its count of retrains, and whether it trains. -/
def portMark (p : Port) : W32 × Bool := (p.retrains, p.state == .training)

/-- The marks of every port. -/
def portMarks (s : State) : Nat → W32 × Bool := fun n => portMark (s.port n)

/-- A field of every port is the same after a change of one that keeps it. -/
theorem port_modPort_view {γ : Type} (view : Port → γ) (s : State) (f : Nat) {g : Port → Port} (hg : ∀ p, view (g p) = view p) (n : Nat) :
    view ((s.modPort f g).port n) = view (s.port n) := by
  by_cases h : n = f
  · subst h
    rw [port_modPort_same, hg]
  · rw [port_modPort_other _ _ h]

theorem portMarks_modPort (s : State) (f : Nat) {g : Port → Port} (hg : ∀ p, portMark (g p) = portMark p) : portMarks (s.modPort f g) = portMarks s :=
  funext (port_modPort_view portMark s f hg)

theorem portMark_payCredits (p : Port) (v n : Nat) : portMark (payCredits p v n) = portMark p := by
  unfold payCredits
  split <;> rfl

theorem portMark_idleFlits (n : Nat) (p : Port) : portMark (idleFlits n p) = portMark p := by
  induction n generalizing p with
  | zero => rfl
  | succ n ih =>
    have hsent (h : W64) : portMark { payCredits p (owedCredits p 0).1 (owedCredits p 0).2 with lastIdle := some h } = portMark p := portMark_payCredits ..
    unfold idleFlits
    dsimp only
    split
    · exact (ih _).trans (hsent _)
    · split
      · exact hsent _
      · rfl

theorem portMark_sendFlits (me now : Nat) (p : Port) (f : Frame) : portMark (sendFlits me now p f) = portMark p := by
  refine (view_foldl portMark (fun q part => ?_) _ _).trans rfl
  exact portMark_payCredits ..

theorem portMark_pumpPortAux (me now n : Nat) (p : Port) : portMark (pumpPortAux me now n p) = portMark p := by
  induction n generalizing p with
  | zero => rfl
  | succ n ih =>
    unfold pumpPortAux
    split
    · split
      · exact (ih _).trans (portMark_sendFlits ..)
      · rfl
    · rfl

theorem portMarks_pumpPort (s : State) (f : Nat) : portMarks (pumpPort s f) = portMarks s := by
  unfold pumpPort
  split
  · rfl
  · refine portMarks_modPort _ _ fun p => ?_
    dsimp only
    split
    · rw [portMark_idleFlits, portMark_pumpPortAux]
    · exact portMark_pumpPortAux ..

/-- A frame queued ends LP, which is no training. -/
theorem portMarks_queueAt (s : State) (f : Nat) (fr : Frame) : portMarks (queueAt s f fr) = portMarks s := by
  refine (portMarks_pumpPort _ f).trans (portMarks_modPort _ _ fun p => ?_)
  cases hstate : p.state <;> simp [portMark, hstate]

theorem portMarks_sendFrame (s : State) (fr : Frame) (from_ : Option Nat) : portMarks (sendFrame s fr from_) = portMarks s := by
  unfold sendFrame
  dsimp only
  split
  · rfl
  · split
    · exact view_foldl portMarks (fun _ _ => portMarks_queueAt ..) _ _
    · split
      · rfl
      · split
        · exact portMarks_queueAt ..
        · rfl

theorem portMarks_sendLsa (s : State) : portMarks (sendLsa s) = portMarks s := by
  unfold sendLsa
  split
  · rfl
  · exact portMarks_sendFrame ..

theorem portMarks_of_fab {s t : State} (h : t.fab = s.fab) : portMarks t = portMarks s := by
  funext n
  rw [portMarks, State.port, h]
  rfl

theorem fab_of_beyondReply {s t : State} (h : beyondReply t = beyondReply s) : t.fab = s.fab := (congrArg (·.1.fab) h :)

theorem fab_rindQueue (s : State) (code : Nat) (pinned : Bool) (body : List Byte) : (rindQueue s code pinned body).fab = s.fab := by
  have hrefill : (refill s).fab = s.fab := by
    unfold refill
    dsimp only
    split <;> rfl
  unfold rindQueue
  dsimp only
  split
  · split
    · rfl
    · split <;> rfl
  · split <;> exact hrefill

/-- A report reaches the ports as a frame alone. -/
theorem portMarks_report (s : State) (code : Nat) (unit : W16) (ptag : Nat) : portMarks (report s code unit ptag) = portMarks s := by
  suffices h : ∀ r body, portMarks (issueReportBody s r body) = portMarks s from h _ _
  intro r body
  unfold issueReportBody
  extract_lets code pin prev recent rel seq toRind reps s1 r1 rel1 s2 s3 s4 s5
  have h3 : portMarks s3 = portMarks s := by
    refine portMarks_of_fab (?_ : s1.fab = s.fab)
    unfold s1
    split
    · exact fab_rindQueue ..
    · rfl
  have h4 : portMarks s4 = portMarks s := by
    unfold s4
    split
    · exact h3
    · exact (portMarks_sendFrame ..).trans h3
  have h5 : portMarks s5 = portMarks s := (portMarks_of_fab (fab_of_beyondReply (beyondReply_globalLog ..))).trans h4
  split
  · rfl
  · split
    · exact (portMarks_of_fab (fab_of_beyondReply (beyondReply_partLog ..))).trans h5
    · exact h5

/-! ### Links (R339, R344, R359) -/

theorem portMarks_fabEvent (s : State) (bit : Nat) : portMarks (fabEvent s bit) = portMarks s := rfl

theorem portMarks_switchRoutes (s : State) (f : Nat) : portMarks (switchRoutes s f) = portMarks s := by
  unfold switchRoutes
  dsimp only
  split <;> rfl

theorem portMarks_rehome (s : State) (f : Nat) : portMarks (rehome s f) = portMarks s := by
  refine (view_foldl portMarks (fun t fr => ?_) _ _).trans (portMarks_modPort s f fun _ => rfl)
  dsimp only
  split
  · rfl
  · split
    · exact portMarks_queueAt ..
    · rfl

theorem retrains_of_portMarks {s t : State} (h : portMarks t = portMarks s) (n : Nat) : (t.port n).retrains = (s.port n).retrains := congrArg (fun m => (m n).1) h

theorem retrains_modPort (s : State) (f : Nat) {g : Port → Port} (hg : ∀ p, (g p).retrains = p.retrains) (n : Nat) :
    ((s.modPort f g).port n).retrains = (s.port n).retrains := port_modPort_view Port.retrains s f hg n

theorem training_of_portMarks {s t : State} (h : portMarks t = portMarks s) {n : Nat} (hs : (s.port n).state = .training) : (t.port n).state = .training := by
  have hmark : ((t.port n).state == .training) = ((s.port n).state == .training) := congrArg (fun m => (m n).2) h
  simpa [hs] using hmark

/-- A link that goes down keeps its port's count of retrains. -/
theorem retrains_linkDown (s : State) (f : Nat) (to_ : LinkState) : ((linkDown s f to_).port f).retrains = (s.port f).retrains := by
  unfold linkDown
  dsimp only
  split
  · refine (retrains_of_portMarks ((portMarks_sendLsa _).trans ((portMarks_rehome ..).trans ((portMarks_switchRoutes ..).trans ((portMarks_report ..).trans (portMarks_fabEvent ..))))) f).trans ?_
    exact retrains_modPort s f (fun _ => by rfl) f
  · exact retrains_modPort s f (fun _ => by rfl) f

theorem retrains_bringUp (s : State) (f : Nat) : ((bringUp s f).port f).retrains = (s.port f).retrains := by
  unfold bringUp
  dsimp only
  split <;> exact retrains_modPort s f (fun _ => by rfl) f

/-- A retrain is counted (R379). -/
theorem retrains_retrain (s : State) (f : Nat) : ((retrain s f).port f).retrains = satInc (s.port f).retrains := by
  have hcount (recent : List W64) : ((s.modPort f (fun p => { p with retrains := satInc p.retrains, retrainTs := recent, oneReplay := 0, replays := [] })).port f).retrains = satInc (s.port f).retrains :=
    congrArg Port.retrains (port_modPort_same ..)
  unfold retrain
  dsimp only
  split
  · exact (retrains_modPort _ f (fun _ => by rfl) f).trans ((retrains_linkDown ..).trans (hcount _))
  · split
    · exact (retrains_of_portMarks (portMarks_sendLsa _) f).trans ((retrains_bringUp ..).trans (hcount _))
    · exact (retrains_bringUp ..).trans (hcount _)

/-- The state without the fabric block and the values drawn. -/
def beyondFab (s : State) : State := { s with fab := {}, freeNo := 0 }

theorem eq_of_beyondFab {s t : State} (h : beyondFab t = beyondFab s) : t = { s with fab := t.fab, freeNo := t.freeNo } :=
  (congrArg (fun u : State => { u with fab := t.fab, freeNo := t.freeNo }) h :)

theorem beyondFab_sendLsa (s : State) : beyondFab (sendLsa s) = beyondFab s := by
  unfold sendLsa
  split
  · rfl
  · exact (congrArg beyondFab (beyondLinks_sendFrame _ _ _) :)

/-- Bring-up of an enabled port with a ready PHY trains its link (R339). -/
theorem bringUp_trains {s : State} {f : Nat} (hen : (s.port f).en = true) (hready : (s.port f).phyReady = true) :
    ((bringUp s f).port f).state = .training ∧ beyondFab (bringUp s f) = beyondFab s := by
  have hbegin : bringUp s f = beginUp s f (minCode (s.port f).rateMax (s.port f).capsRate) (s.port f).lanesMax := if_pos (by simp [hen, hready])
  rw [hbegin]
  exact ⟨congrArg Port.state (port_modPort_same ..), rfl⟩

/-- The first retrain in a second of an enabled port with a ready PHY starts bring-up, and changes the fabric block alone (R339). -/
theorem retrain_first {s : State} {f : Nat} (hen : (s.port f).en = true) (hready : (s.port f).phyReady = true) (hfirst : (s.port f).retrainTs = []) :
    ((retrain s f).port f).state = .training ∧ beyondFab (retrain s f) = beyondFab s := by
  have htrains (g : Port → Port) (hg : ∀ p, ((g p).en, (g p).phyReady) = (p.en, p.phyReady)) :
      ((bringUp (s.modPort f g) f).port f).state = .training ∧ beyondFab (bringUp (s.modPort f g) f) = beyondFab s := by
    obtain ⟨hen', hready'⟩ := Prod.ext_iff.mp (port_modPort_view (fun p => (p.en, p.phyReady)) s f hg f)
    exact bringUp_trains (hen'.trans hen) (hready'.trans hready)
  unfold retrain
  rw [hfirst]
  dsimp only [List.filter_nil]
  rw [if_neg (by simp)]
  split
  · refine And.imp (training_of_portMarks (portMarks_sendLsa _)) (beyondFab_sendLsa _).trans (htrains _ fun _ => ?_)
    rfl
  · refine htrains _ fun _ => ?_
    rfl

/-! ### Registers that act on a write (R314, R379, R668) -/

/-- What FAB_PORT_CTRL takes with the fields of a port as they are and RETRAIN set (R379). -/
def retrainCtrl (p : Port) : Nat := (BitVec.ofNat 32 (b2n p.en + p.rateMax.toNat * 2 + p.lanesMax.toNat * 8 + 32)).toNat

theorem retrainCtrl_fields (p : Port) :
    nbit (retrainCtrl p) 0 = p.en ∧ BitVec.ofNat 2 (nbits (retrainCtrl p) 2 1) = p.rateMax ∧ BitVec.ofNat 2 (nbits (retrainCtrl p) 4 3) = p.lanesMax ∧ nbit (retrainCtrl p) 5 = true := by
  unfold retrainCtrl
  generalize p.en = en, p.rateMax = rate, p.lanesMax = lanes
  revert en rate lanes
  decide

theorem keepIf_same {α : Type} (b : Bool) (a : α) : keepIf b a a = a := ite_self a

/-- A port written with the enable it has keeps its link. -/
theorem writePort_enabled (s : State) (f : Nat) (rate lanes : BitVec 2) :
    writePort s f (s.port f).en rate lanes = s.modPort f (fun q => { q with en := (s.port f).en, rateMax := rate, lanesMax := lanes }) := by
  unfold writePort
  cases (s.port f).en <;> rfl

/-- RETRAIN written beside the fields of a port as they are retrains the port, and leaves it as it was before. -/
theorem writePortCtrl_retrain (s : State) (f : Nat) :
    ∃ u : State, writePortCtrl s f (retrainCtrl (s.port f)) = retrain u f ∧ u.port f = s.port f ∧ beyondFab u = beyondFab s := by
  obtain ⟨hen, hrate, hlanes, hretrain⟩ := retrainCtrl_fields (s.port f)
  refine ⟨s.modPort f (fun q => { q with en := (s.port f).en, rateMax := (s.port f).rateMax, lanesMax := (s.port f).lanesMax }), ?_, port_modPort_same .., rfl⟩
  unfold writePortCtrl
  dsimp only
  rw [if_pos hretrain, hen, hrate, hlanes, keepIf_same, keepIf_same, writePort_enabled]

theorem writeFab_portCtrl (s : State) (f : FabPort) (v : Nat) (d hw : W32) : writeFab s (0x100 + f.val * 0x20) v d hw = writePortCtrl s f.val v := by
  have hf := f.isLt
  have hindex : (0x100 + f.val * 0x20 - 0x100) / 0x20 = f.val := by omega
  exact (if_pos (by omega)).trans ((if_pos (by omega)).trans (congrArg (writePortCtrl s · v) hindex))

theorem fabPortRetrain_next {s : State} {init : Requester} {f : FabPort} (h : mayWrite s init (0x50100 + f.val * 0x20) = true) :
    ∃ u : State, exec (.fabPortRetrainWrite init f) s = .next (kept s (retrain u f.val)) ∧ u.port f.val = s.port f.val ∧ beyondFab u = beyondFab s := by
  obtain ⟨u, hu, hport, hfab⟩ := writePortCtrl_retrain s f.val
  refine ⟨u, ends_kept ((writeBy_granted _ _ h).trans ?_), hport, hfab⟩
  unfold regWrite
  rw [regGroup_fabPort]
  exact (writeFab_portCtrl ..).trans hu

/-- WATCH_EN written changes Sprout alone (R305, R334). -/
theorem setWatch_frame (s : State) (en : Bool) : ∃ spr, setWatch s en = { s with spr := spr } := by
  unfold setWatch
  split
  · split <;> exact ⟨_, rfl⟩
  · exact ⟨_, rfl⟩

/-- A write of SPR_CTRL with WAKE_CLR deasserts the wake output, and beside it changes Sprout alone. -/
theorem writeSpr_wakeClr (s : State) {v : Nat} (d hw : W32) (hclr : nbit v 6 = true) : ∃ spr, writeSpr s 0 v d hw = wakeOff { s with spr := spr } := by
  unfold writeSpr
  dsimp only
  rw [if_pos hclr]
  by_cases hwatch : nbit v 0 = s.spr.watchEn
  · rw [if_pos hwatch]
    exact ⟨_, rfl⟩
  · rw [if_neg hwatch]
    obtain ⟨spr, h⟩ := setWatch_frame { s with
      spr.autoI := nbit v 1, spr.autoT := nbit v 2, spr.autoDemote := nbit v 3, spr.maxRung := if nbits v 5 4 = 0 then 1 else BitVec.ofNat 2 (nbits v 5 4) } (nbit v 0)
    exact ⟨spr, congrArg wakeOff h⟩

theorem wakeClr_next {s : State} {init : Requester} (h : mayWrite s init 0x80000 = true) : ∃ spr, exec (.wakeClr init) s = .next (wakeOff { s with spr := spr }) := by
  have hclr : nbit (regRead s 0x80000 ||| 64).toNat 6 = true := by
    rw [nbit, BitVec.toNat_or, Nat.testBit_or]
    exact (congrArg _ (by decide : Nat.testBit (64 : W32).toNat 6 = true)).trans (Bool.or_true _)
  obtain ⟨spr, hspr⟩ := writeSpr_wakeClr s (regRead s 0x80000 ||| 64) 0 hclr
  exact ⟨spr, ends_kept ((writeBy_granted _ _ h).trans hspr)⟩

theorem crpReset_next {s : State} {init : Requester} (v : W32) (h : mayWrite s init 0x10000 = true) : exec (.crpReset init v) s = .next (kept s (crpResetWrite s v)) :=
  ends_kept (writeBy_granted _ _ h)

/-! ### The statement -/

/-- Settles O9: a latched read and a write over the group of their register; WAKE_CLR, CRP_RESET and RETRAIN over what their registers do. -/
theorem registerFields : Obligations.RegisterFields := by
  refine ⟨fun s p hlegal => ⟨latchedReadLo_next (o := 0x30018) rfl nofun, latchedReadLo_next (o := 0x30020) rfl nofun, latchedReadLo_next (o := 0x30010) rfl nofun,
      latchedReadLo_next (o := 0x70020) rfl nofun, latchedReadLo_next (o := 0x80030) rfl nofun, latchedReadLo_next (o := 0x92014) rfl nofun, latchedReadLo_next (o := 0x00114) rfl nofun, ?page⟩,
    fun s p d hlegal => ⟨throttle_write s d, watermark_write s d, watchPeriod_write s d, t3Size_write s d, hbLimit_write s d p hlegal⟩,
    fun s init h => ?wakeClr, fun s init h => ?reset, fun s init v h hv => ?noReset, fun s init f h => ?retrain⟩
  case page =>
    have hp := p.isLt
    have hoff : (BitVec.ofNat 26 ((0x80 + p.val) * 0x10000 + 0x130)).toNat / 4 * 4 = (0x80 + p.val) * 0x10000 + 0x130 := by
      rw [BitVec.toNat_ofNat]
      omega
    rw [latchedReadLo_next hoff (by rw [regGroup_page p (by decide) hlegal]; nofun), regLatch_page p hlegal]
    rfl
  case wakeClr =>
    obtain ⟨spr, hnext⟩ := wakeClr_next h
    exact ⟨_, hnext, rfl, rfl, rfl⟩
  case reset => exact crpReset_next 0xA5A5 h
  case noReset =>
    rw [crpReset_next v h, crpResetWrite, if_neg hv]
    rfl
  case retrain =>
    obtain ⟨u, hnext, hport, hfab⟩ := fabPortRetrain_next h
    refine ⟨_, hnext, ?_, fun hen hready _ _ hfirst => ?_⟩
    · rw [← hport]
      exact retrains_retrain u f.val
    · rw [← hport] at hen hready hfirst
      obtain ⟨hstate, hchanged⟩ := retrain_first hen hready hfirst
      exact ⟨hstate, eq_of_beyondFab (congrArg (kept s) (hchanged.trans hfab) :)⟩

end Sys2Proof.Machine
end

section
/-! The memory and tiers family (06_memory_tiers.md): the statement about sectors that land, write-backs and victims. -/

namespace Sys2Proof.Machine

/-- A partition with one block of T2 whose table lists block 0 twice: the entry that is read first has sectors to write back and no copy, the second holds the slot of T2. -/
def listedTwice : State :=
  { State.reset with parts := [(0, { qT2 := 1 })], mem.maps := [(0, [(0, { state := .dirty, dirty := 1 }), (0, { state := .dirty, res := .t2 0 })])] }

/-- Block 0 is the victim, but as an access reads it there is no copy to take away, so nothing leaves. -/
theorem exec_evictionStart_listedTwice : exec (.evictionStart 0 true) listedTwice = .next listedTwice := rfl

/-- Refutes O20: in a table that lists a block twice, the victim of R263 is chosen by an entry that no access reads, and the write-back that the last clause promises does not start. -/
theorem not_fetchWritebackEviction : ¬ Obligations.FetchWritebackEviction := by
  intro h
  obtain ⟨-, -, -, hevict⟩ := h
  obtain ⟨-, hdirty⟩ := hevict listedTwice 0 0 (by decide +kernel) (by decide +kernel) (by decide +kernel) rfl
  obtain ⟨t, hnext, hstate, -⟩ := hdirty (by decide +kernel)
  rw [exec_evictionStart_listedTwice] at hnext
  cases hnext
  cases hstate

end Sys2Proof.Machine
end

section
/-! What accesses to device memory, replies, logs and reports leave of the Press and of the bytes of flash: everything but the queue of page reads. -/

namespace Sys2Proof.Machine

/-- The Press without its page reads, and the bytes of the flash regions: what no access to device memory changes. -/
def durable (s : State) : Press × Mem := ({ s.press with readQ := [], vtime := [], suspended := [], lastCmd := [] }, s.mem.t4)

theorem t4_of_durable {s t : State} (h : durable t = durable s) : t.mem.t4 = s.mem.t4 := (congrArg (·.2) h :)

/-! ### Counters, ports and page reads -/

theorem durable_noteReenc (s : State) (again : Bool) : durable (noteReenc s again) = durable s := by
  unfold noteReenc
  split <;> rfl

theorem durable_sealLine (s : State) (line : Nat) : durable (sealLine s line) = durable s := (durable_noteReenc ..).trans rfl

theorem durable_sealTree (s : State) (n : Nat) : durable (sealTree s n) = durable s :=
  (durable_noteReenc ..).trans ((durable_noteReenc ..).trans rfl)

@[simp] theorem durable_setBlock (s : State) (p b : Nat) (v : Block) : durable (s.setBlock p b v) = durable s := by
  unfold State.setBlock
  dsimp only
  split
  · split
    · rfl
    · exact (durable_sealTree ..).trans ((durable_sealLine ..).trans rfl)
  · rfl

@[simp] theorem durable_modBlock (s : State) (p b : Nat) (f : Block → Block) : durable (s.modBlock p b f) = durable s := durable_setBlock ..

theorem durable_pumpMemAux (port n : Nat) (s : State) : durable (pumpMemAux port n s) = durable s := by
  induction n generalizing s with
  | zero => rfl
  | succ n ih =>
    unfold pumpMemAux
    split
    · exact (ih _).trans rfl
    · rfl

theorem durable_pumpMem (s : State) (port : Nat) : durable (pumpMem s port) = durable s := by
  unfold pumpMem
  split
  · rfl
  · exact durable_pumpMemAux ..

theorem durable_holdMem (s : State) (port p : Nat) (rs : List MemReq) : durable (holdMem s port p rs) = durable s := (durable_pumpMem ..).trans rfl

theorem durable_ccTouch (s : State) (port p n : Nat) : durable (ccTouch s port p n) = durable s := by
  unfold ccTouch
  dsimp only
  split
  · rfl
  · exact (durable_holdMem ..).trans rfl

theorem durable_sealWrite (s : State) (port p addr len : Nat) : durable (sealWrite s port p addr len) = durable s :=
  (view_foldl durable (fun _ _ => (durable_ccTouch ..).trans (durable_sealTree ..)) _ _).trans (view_foldl durable durable_sealLine _ _)

@[simp] theorem durable_askPort (s : State) (port : Nat) (write copy : Bool) (p b addr rank : Nat) (cls : SClass) (secs : List Nat) (deadline : Nat) :
    durable (askPort s port write copy p b addr rank cls secs deadline) = durable s := durable_holdMem ..

@[simp] theorem durable_askMem (s : State) (p b : Nat) (r : Resident) (write : Bool) (mask : BitVec 16) (first rank : Nat) (cls : SClass) (deadline : Nat) :
    durable (askMem s p b r write mask first rank cls deadline) = durable s := by
  unfold askMem
  dsimp only
  split
  · exact durable_askPort ..
  · rfl

@[simp] theorem durable_askCopy (s : State) (p b addr : Nat) (write : Bool) (mask : BitVec 16) (rank : Nat) (cls : SClass) :
    durable (askCopy s p b addr write mask rank cls) = durable s := durable_askPort ..

@[simp] theorem durable_askBytes (s : State) (p b addr off len rank : Nat) (cls : SClass) : durable (askBytes s p b addr off len rank cls) = durable s :=
  durable_holdMem ..

theorem durable_pumpPressAux (n : Nat) (s : State) : durable (pumpPressAux n s) = durable s := by
  induction n generalizing s with
  | zero => rfl
  | succ n ih =>
    unfold pumpPressAux
    dsimp only
    split
    · rfl
    · refine (ih _).trans ?_
      split
      · split <;> rfl
      · rfl

@[simp] theorem durable_askPress (s : State) (p b r k : Nat) (mask : BitVec 16) (first rank deadline : Nat) (cls : SClass) :
    durable (askPress s p b r k mask first rank deadline cls) = durable s := by
  unfold askPress pumpPress
  dsimp only
  split
  · exact (durable_pumpPressAux ..).trans rfl
  · rfl

/-! ### Homes, copies and slots -/

@[simp] theorem durable_clearCopy (s : State) (r : Resident) : durable (clearCopy s r) = durable s := by
  unfold clearCopy
  split <;> rfl

@[simp] theorem durable_writeHome (s : State) (p b : Nat) (mask : BitVec 16) : durable (writeHome s p b mask) = durable s := by
  unfold writeHome
  extract_lets blk
  split
  · rw [durable_modBlock]
    exact Eq.trans rfl (view_foldl durable (fun _ _ => durable_sealWrite ..) _ _)
  · rfl

@[simp] theorem durable_dropCopy (s : State) (p b : Nat) : durable (dropCopy s p b) = durable s := by
  unfold dropCopy
  dsimp only
  split
  · rfl
  · rw [durable_setBlock, durable_clearCopy]

@[simp] theorem durable_moveCopy (s : State) (p b : Nat) (dst : Resident) : durable (moveCopy s p b dst) = durable s := by
  unfold moveCopy
  dsimp only
  split
  · exact (durable_setBlock ..).trans rfl
  · rfl

@[simp] theorem durable_installNow (s : State) (p b : Nat) (r : Resident) : durable (installNow s p b r) = durable s := by
  unfold installNow
  dsimp only
  split
  · rfl
  · rw [durable_setBlock]
    split
    · split <;> rfl
    · rfl
    · rfl

@[simp] theorem durable_toCache (s : State) (p b : Nat) : durable (toCache s p b) = durable s := by
  unfold toCache
  extract_lets s1
  have hroom : durable s1 = durable s := by
    unfold s1
    split
    · rfl
    · split
      · split <;> simp
      · rfl
  split
  · rw [durable_askCopy, ← hroom]
    split <;> simp
  · rw [durable_dropCopy, hroom]

/-! ### Evictions and the search of a slot -/

@[simp] theorem durable_scrapCopy (s : State) (p b : Nat) : durable (scrapCopy s p b) = durable s := (durable_setBlock ..).trans (durable_clearCopy ..)

@[simp] theorem durable_leaveNow (s : State) (p b : Nat) : durable (leaveNow s p b) = durable s := by
  unfold leaveNow
  dsimp only
  split
  · split <;> simp
  · split
    · split <;> simp
    · split <;> simp
    · rfl

@[simp] theorem durable_evictNow (s : State) (p b rank : Nat) (cls : SClass) : durable (evictNow s p b rank cls) = durable s := by
  unfold evictNow
  dsimp only
  split
  · rfl
  · split
    · rw [durable_leaveNow, durable_writeHome]
      split
      · exact (durable_askCopy ..).trans rfl
      · rfl
    · exact (durable_leaveNow ..).trans rfl

@[simp] theorem durable_startEvict (s : State) (p b rank : Nat) (cls : SClass) : durable (startEvict s p b rank cls) = durable s := by
  unfold startEvict
  dsimp only
  split
  · rfl
  · split
    · exact (durable_askMem ..).trans (durable_setBlock s ..)
    · exact (durable_leaveNow ..).trans rfl

theorem durable_of_makeT1 {s t : State} {p c sl : Nat} (h : makeT1 s p c = some (sl, t)) : durable t = durable s := by
  unfold makeT1 at h
  split at h
  · cases h
    rfl
  · split at h
    · obtain ⟨_, -, hq⟩ := Option.map_eq_some_iff.mp h
      cases hq
      exact durable_evictNow ..
    · cases h

theorem durable_of_makeT2 {s t : State} {p sl : Nat} (h : makeT2 s p = some (sl, t)) : durable t = durable s := by
  unfold makeT2 at h
  split at h
  · cases h
    rfl
  · split at h
    · obtain ⟨_, -, hq⟩ := Option.map_eq_some_iff.mp h
      cases hq
      exact durable_evictNow ..
    · cases h

theorem durable_makeSlot (s : State) (p : Nat) (dest : Option Nat) : durable (makeSlot s p dest).2 = durable s := by
  unfold makeSlot
  extract_lets t2
  have ht2 : durable t2.2 = durable s := by
    unfold t2
    split
    · exact durable_of_makeT2 ‹_›
    · rfl
  split
  · split
    · exact durable_of_makeT1 ‹_›
    · exact ht2
  · exact ht2

theorem durable_of_makeSlot {s t : State} {p : Nat} {dest : Option Nat} {r : Resident} (h : makeSlot s p dest = (r, t)) : durable t = durable s := by
  rw [← durable_makeSlot s p dest, h]

theorem durable_findIn (s : State) (p : Nat) (free : State → Option Resident) (tier : Resident → Bool) (claimed : List Nat) (rank : Nat) (cls : SClass) :
    durable (findIn s p free tier claimed rank cls).2 = durable s := by
  unfold findIn
  dsimp only
  split
  · rfl
  · split
    · rfl
    · split
      · rfl
      · split
        · exact durable_startEvict ..
        · split <;> exact durable_startEvict ..

theorem durable_findSlot (s : State) (p : Nat) (dest : Option Nat) (claimed : List Nat) (rank : Nat) (cls : SClass) :
    durable (findSlot s p dest claimed rank cls).2 = durable s := by
  unfold findSlot
  extract_lets t2
  have ht2 (t : State) : durable (t2 t).2 = durable t := durable_findIn ..
  cases dest with
  | none => exact ht2 s
  | some c =>
    have ht1 := durable_findIn s p (fun t => (freeT1 t p c).map (.t1 c)) (inT1 c) claimed rank cls
    dsimp only
    split
    next s1 heq => rw [ht2, ← ht1, heq]
    · exact ht1

theorem durable_of_findSlot {s t : State} {p rank : Nat} {dest : Option Nat} {claimed : List Nat} {cls : SClass} {r : SlotFound}
    (h : findSlot s p dest claimed rank cls = (r, t)) : durable t = durable s := by
  rw [← durable_findSlot s p dest claimed rank cls, h]

/-! ### Writes -/

@[simp] theorem durable_putCopy (s : State) (p b off : Nat) (bs : List Byte) (st : BlockState) : durable (putCopy s p b off bs st) = durable s := by
  unfold putCopy
  dsimp only
  split
  · exact (durable_setBlock ..).trans rfl
  · rfl

@[simp] theorem durable_putHome (s : State) (p b off : Nat) (bs : List Byte) : durable (putHome s p b off bs) = durable s := by
  unfold putHome
  dsimp only
  split
  · rw [durable_setBlock]
    exact (durable_sealWrite ..).trans (durable_askBytes ..)
  · rfl

@[simp] theorem durable_landSector (s : State) (p b j : Nat) : durable (landSector s p b j) = durable s := by
  unfold landSector
  dsimp only
  split
  · rfl
  · split
    · rfl
    · rw [durable_setBlock]
      split
      · split <;> rfl
      · rfl
      · rfl

@[simp] theorem durable_writeFetching (s : State) (p b off : Nat) (bs : List Byte) : durable (writeFetching s p b off bs) = durable s := by
  unfold writeFetching
  rw [durable_putCopy, durable_modBlock]
  refine view_foldl durable (fun t j => ?_) _ _
  split
  · exact durable_landSector ..
  · rfl

@[simp] theorem durable_writeAlloc (s : State) (p b off : Nat) (bs : List Byte) (r : Resident) (cls : SClass) :
    durable (writeAlloc s p b off bs r cls) = durable s := by
  unfold writeAlloc
  dsimp only
  split
  · rw [durable_putCopy, durable_installNow]
  · rw [durable_writeFetching, durable_askMem]
    exact (durable_setBlock ..).trans (durable_clearCopy ..)

@[simp] theorem durable_noteOlder (s : State) (p b : Nat) (mask : BitVec 16) : durable (noteOlder s p b mask) = durable s := rfl

theorem durable_writeBlock (s : State) (p b off : Nat) (bs : List Byte) (dest : Option (Option Nat)) (host : Bool) :
    durable (writeBlock s p b off bs dest host).2 = durable s := by
  unfold writeBlock
  dsimp only
  split
  case h_1 => split <;> rfl
  case h_2 => rfl
  case h_3 => split <;> simp [durable_of_makeSlot ‹_›]
  case h_4 =>
    split
    · split
      · exact durable_putHome ..
      · split <;> simp [durable_of_makeSlot ‹_›]
    · rfl
  case h_5 =>
    split
    · exact durable_writeFetching ..
    · rfl
  case h_6 | h_7 =>
    split
    · exact durable_putCopy ..
    · rfl
  case h_8 => simp
  case h_9 =>
    split
    · rfl
    · split
      · split
        · split <;> simp [durable_of_makeSlot ‹_›]
        · rfl
      · rfl

theorem durable_devWriteAux (p : Nat) (dest : Option (Option Nat)) (host : Bool) (blocks : List Nat) (addr : Nat) (bs : List Byte) (s : State) :
    durable (devWriteAux p dest host blocks addr bs s).2 = durable s := by
  induction blocks generalizing addr bs s with
  | nil => rfl
  | cons b rest ih =>
    have hblock := durable_writeBlock s p b (addr - b * blockBytes) (bs.take (min bs.length ((b + 1) * blockBytes - addr))) dest host
    unfold devWriteAux
    dsimp only
    split
    next s1 heq => rw [ih, ← hblock, heq]
    · exact hblock

@[simp] theorem durable_devPut (s : State) (p addr : Nat) (bs : List Byte) : durable (devPut s p addr bs) = durable s := durable_devWriteAux ..

/-! ### The placement queue -/

@[simp] theorem durable_beginFetch (s : State) (r : PlaceReq) (res : Resident) : durable (beginFetch s r res) = durable s := by
  have hcharge : durable (chargePlace s r) = durable s := by
    unfold chargePlace
    split <;> rfl
  unfold beginFetch
  dsimp only
  split <;> simp [hcharge]

theorem durable_serveFetch (s : State) (r : PlaceReq) : durable (serveFetch s r) = durable s := by
  unfold serveFetch
  extract_lets p waits
  split
  · split
    · rfl
    · split
      · rw [durable_beginFetch, durable_of_findSlot ‹_›]
      next heq => exact (durable_of_findSlot heq :)
      next heq => exact (durable_of_findSlot heq :)
  · rfl
  · rfl
  · rfl

theorem durable_serveFlush (s : State) (r : PlaceReq) : durable (serveFlush s r) = durable s := by
  unfold serveFlush chargePlace
  dsimp only
  split
  · rw [durable_askMem, durable_setBlock]
    split <;> rfl
  · rfl
  · rfl
  · rfl

theorem durable_pumpPlaceAux (n : Nat) (tried : List (Nat × Nat × PlaceKind)) (s : State) : durable (pumpPlaceAux n tried s) = durable s := by
  induction n generalizing tried s with
  | zero => rfl
  | succ n ih =>
    unfold pumpPlaceAux
    dsimp only
    split
    · rfl
    · rw [ih]
      split
      · exact durable_serveFetch ..
      · exact durable_serveFlush ..
      · rfl

/-! ### Replies, logs and reports -/

@[simp] theorem durable_modPart (s : State) (p : Nat) (f : Part → Part) : durable (s.modPart p f) = durable s := (rfl)
@[simp] theorem durable_draw (s : State) : durable s.draw = durable s := rfl

theorem durable_sendVector (s : State) (p v : Nat) : durable (sendVector s p v) = durable s := by
  unfold sendVector pumpInt
  split
  · split <;> rfl
  · rfl

@[simp] theorem durable_raiseVector (s : State) (p v : Nat) : durable (raiseVector s p v) = durable s := by
  unfold raiseVector
  dsimp only
  split
  · rfl
  · split
    · rfl
    · exact durable_sendVector ..

@[simp] theorem durable_partLog (s : State) (p code level tag : Nat) (args : List Byte) : durable (partLog s p code level tag args) = durable s := by
  unfold partLog
  dsimp only
  split
  · rfl
  · split <;> simp

@[simp] theorem durable_globalLog (s : State) (code level tag : Nat) (args : List Byte) : durable (globalLog s code level tag args) = durable s := by
  unfold globalLog
  dsimp only
  split
  · rfl
  · split <;> simp

@[simp] theorem durable_partNote (s : State) (p kind : Nat) : durable (partNote s p kind) = durable s := by
  unfold partNote
  split
  · rfl
  · rw [durable_draw, durable_partLog]

@[simp] theorem durable_writeEntry (s : State) (p : Nat) (c : Completion) : durable (writeEntry s p c) = durable s := by
  unfold writeEntry
  dsimp only
  split <;> simp

@[simp] theorem durable_complete (s : State) (p : Nat) (c : Completion) : durable (complete s p c) = durable s := by
  unfold complete
  dsimp only
  split
  · split
    · simp
    · split <;> simp
  · split <;> simp

@[simp] theorem durable_reply (s : State) (p : Nat) (k : Packet) (status : W16) (detail obj : W32) (state : Byte) :
    durable (reply s p k status detail obj state) = durable s := durable_complete ..

@[simp] theorem durable_replyLater (s : State) (d : Pend) (status : W16) (detail obj : W32) (state : Byte) :
    durable (replyLater s d status detail obj state) = durable s := durable_complete ..

theorem durable_of_beyondLinks {s t : State} (h : beyondLinks t = beyondLinks s) : durable t = durable s := (congrArg durable h :)

theorem durable_rindQueue (s : State) (code : Nat) (pinned : Bool) (body : List Byte) : durable (rindQueue s code pinned body) = durable s := by
  have hrefill : durable (refill s) = durable s := by
    unfold refill
    dsimp only
    split <;> rfl
  unfold rindQueue
  dsimp only
  split
  · split
    · rfl
    · split <;> rfl
  · split <;> exact hrefill

theorem durable_issueReportBody (s : State) (r : ReportRec) (body : List Byte) : durable (issueReportBody s r body) = durable s := by
  unfold issueReportBody
  extract_lets code pin prev recent old seq toRind reps s1 r1 q1 s2 s3 s4 s5
  have h1 : durable s1 = durable s := by
    unfold s1
    split
    · exact durable_rindQueue ..
    · rfl
  have h4 : durable s4 = durable s := by
    unfold s4
    split
    · exact h1
    · exact (durable_of_beyondLinks (beyondLinks_sendFrame ..)).trans h1
  have h5 : durable s5 = durable s := (durable_globalLog ..).trans h4
  split
  · rfl
  · split
    · exact (durable_partLog ..).trans h5
    · exact h5

@[simp] theorem durable_report (s : State) (code : Nat) (unit : W16) (ptag : Nat) : durable (report s code unit ptag) = durable s := durable_issueReportBody ..

/-! ### What the placement engine's progress leaves -/

theorem durable_settleWaits (s : State) : durable (settleWaits s) = durable s := by
  unfold settleWaits
  refine (view_foldl durable (fun t w => ?_) _ _).trans rfl
  split <;> simp

theorem durable_settleArms (s : State) : durable (settleArms s) = durable s := by
  unfold settleArms
  refine view_foldl durable (fun t e => ?_) _ _
  split
  · rfl
  · exact (view_foldl durable (fun _ _ => durable_replyLater ..) _ _).trans rfl

theorem durable_pumpHost (s : State) : durable (pumpHost s) = durable s := by
  unfold pumpHost
  split <;> rfl

@[simp] theorem durable_settle (s : State) : durable (settle s) = durable s :=
  (durable_pumpHost _).trans ((durable_settleArms _).trans ((durable_settleWaits _).trans (durable_pumpPlaceAux ..)))

@[simp] theorem durable_poisonBlock (s : State) (p b : Nat) : durable (poisonBlock s p b) = durable s :=
  (durable_setBlock ..).trans (Eq.trans rfl (durable_clearCopy ..))

/-- A block whose home a flash command rewrote takes its bytes from the flash regions and leaves them. -/
theorem durable_rewriteHome (s : State) (p b : Nat) : durable (rewriteHome s p b) = durable s := by
  unfold rewriteHome reland
  dsimp only
  split
  · exact durable_setBlock ..
  · exact durable_installNow ..
  · refine (view_foldl durable (fun t j => ?_) _ _).trans (durable_modBlock ..)
    split
    · exact durable_landSector ..
    · rfl
  · rfl

end Sys2Proof.Machine
end

section
/-! What the Press does as it goes on (R278, R290, R293, R295): what its pump leaves of the state and of every erase block, and when no copy of a move reads a block. -/

namespace Sys2Proof.Machine

/-! ### Erase blocks over their changes -/

@[simp] theorem eblock_modEblock_same (s : State) (b : Nat) (f : EBlock → EBlock) : (s.modEblock b f).eblock b = f (s.eblock b) := tget_tmod_same ..

theorem eblock_modEblock_other (s : State) {b c : Nat} (f : EBlock → EBlock) (h : c ≠ b) : (s.modEblock b f).eblock c = s.eblock c := tget_tmod_other _ _ _ h

/-- A view of an erase block that a change keeps is the same for every erase block. -/
theorem eblock_modEblock_view {γ : Type} (view : EBlock → γ) (s : State) (b : Nat) {f : EBlock → EBlock} (hf : ∀ e, view (f e) = view e) (c : Nat) :
    view ((s.modEblock b f).eblock c) = view (s.eblock c) := by
  by_cases h : c = b
  · subst h
    rw [eblock_modEblock_same, hf]
  · rw [eblock_modEblock_other _ _ h]

/-! ### What the pump leaves -/

/-- A page read as it was queued. -/
def unissued (r : PageRead) : PageRead := { r with issued := false, eblock := none }

/-- An erase block without its read counter and without the marks of a block that is being filled. -/
def unfilled (e : EBlock) : EBlock := { e with reads := 0, free := false, open_ := false }

/-- The state without what the Press does (page reads issued, programs, erases and moves), and what every erase block holds. -/
def beyondPump (s : State) : State × (Nat → EBlock) :=
  ({ s with press.readQ := s.press.readQ.map unissued, press.vtime := [], press.ops := [], press.suspended := [], press.moves := [], press.eblocks := [], press.reads := 0
            press.lastCmd := [], press.nand := [] }, fun b => unfilled (s.eblock b))

/-- The Press went on from one state to another: what it does changed alone, and a block taken for a program stays taken. -/
structure Pumped (s t : State) : Prop where
  rest : beyondPump t = beyondPump s
  taken : ∀ b, (s.eblock b).free = false → (t.eblock b).free = false

namespace Pumped

theorem refl (s : State) : Pumped s s := ⟨rfl, fun _ h => h⟩

theorem trans {s t u : State} (h : Pumped s t) (k : Pumped t u) : Pumped s u := ⟨k.rest.trans h.rest, fun b hb => k.taken b (h.taken b hb)⟩

theorem foldl {α : Type} {f : State → α → State} (h : ∀ s a, Pumped s (f s a)) (l : List α) (s : State) : Pumped s (l.foldl f s) := by
  induction l generalizing s with
  | nil => exact refl s
  | cons a l ih => exact (h s a).trans (ih _)

theorem modEblock (s : State) (b : Nat) {f : EBlock → EBlock} (hf : ∀ e, unfilled (f e) = unfilled e) (hfree : ∀ e, e.free = false → (f e).free = false) :
    Pumped s (s.modEblock b f) := by
  refine ⟨Prod.ext rfl (funext (eblock_modEblock_view unfilled s b hf)), fun c hc => ?_⟩
  by_cases h : c = b
  · subst h
    rw [eblock_modEblock_same]
    exact hfree _ hc
  · rwa [eblock_modEblock_other _ _ h]

end Pumped

theorem map_replaceFirst {α β : Type} (test : α → Bool) {f : α → α} {g : α → β} (h : ∀ a, g (f a) = g a) (l : List α) : (replaceFirst test f l).map g = l.map g := by
  induction l with
  | nil => rfl
  | cons a l ih =>
    unfold replaceFirst
    split
    · simp [h]
    · simp [ih]

theorem pumped_onfi (s : State) (channel : Nat) (c : OnfiCmd) : Pumped s (onfi s channel c) := ⟨rfl, fun _ h => h⟩

theorem pumped_issueOp (s : State) (o : FlashOp) : Pumped s (issueOp s o) := ⟨rfl, fun _ h => h⟩

/-- The Press issues one read, or has none that it may issue. -/
theorem pumpPressAux_succ_cases (n : Nat) (s : State) :
    pumpPressAux (n + 1) s = s ∨ ∃ r place suspended sent times, pumpPressAux (n + 1) s = pumpPressAux n { s with
      press.suspended := suspended, press.lastCmd := sent, press.vtime := times
      press.readQ := replaceFirst (fun q => decide (q = r)) (fun q => { q with issued := true, eblock := place }) s.press.readQ } := by
  rw [pumpPressAux]
  split
  · exact .inl rfl
  next r _ =>
    refine .inr ⟨r, (tfind s.press.map (unitKey r.region r.unit)).map (·.block), ?_⟩
    dsimp only
    split
    · split <;> exact ⟨_, _, _, rfl⟩
    · exact ⟨_, _, _, rfl⟩

theorem pumped_pumpPressAux (n : Nat) (s : State) : Pumped s (pumpPressAux n s) := by
  induction n generalizing s with
  | zero => exact .refl s
  | succ n ih =>
    rcases pumpPressAux_succ_cases n s with h | ⟨r, place, suspended, sent, times, h⟩ <;> rw [h]
    · exact .refl s
    · refine Pumped.trans ?_ (ih _)
      have hqueue := map_replaceFirst (g := unissued) (fun q => decide (q = r)) (f := fun q => { q with issued := true, eblock := place }) (fun _ => rfl) s.press.readQ
      exact ⟨congrArg (fun l => ({ (beyondPump s).1 with press.readQ := l }, (beyondPump s).2)) hqueue, fun _ h => h⟩

theorem pumped_pumpPress (s : State) : Pumped s (pumpPress s) := by
  unfold pumpPress
  split
  · exact pumped_pumpPressAux ..
  · exact .refl s

theorem pumped_resumeOps (s : State) : Pumped s (resumeOps s) := by
  refine Pumped.foldl (fun t l => ?_) _ s
  split
  · exact .refl t
  · exact ⟨rfl, fun _ h => h⟩

theorem pumped_issueErases (s : State) : Pumped s (issueErases s) := by
  refine Pumped.foldl (fun t b => ?_) _ s
  split
  · exact pumped_issueOp ..
  · exact .refl t

theorem pumped_fill (s : State) (b : Nat) : Pumped s (s.modEblock b (fun e => { e with free := false, open_ := true })) :=
  .modEblock s b (fun _ => rfl) (fun _ _ => rfl)

theorem pumped_issueWrites (n : Nat) (s : State) : Pumped s (issueWrites n s) := by
  induction n generalizing s with
  | zero => exact .refl s
  | succ n ih =>
    unfold issueWrites
    split
    · exact .refl s
    · split
      · exact .refl s
      · split
        · exact .refl s
        · exact (pumped_fill s _).trans ((pumped_issueOp ..).trans (ih _))

theorem pumped_beginMove (s : State) (src dst : Nat) (kind : MoveKind) : Pumped s (beginMove s src dst kind) :=
  (pumped_fill s dst).trans ⟨rfl, fun _ h => h⟩

/-! ### Moves that begin (R293, R295) -/

theorem mem_of_foldl_firstBy {lt : Nat → Nat → Bool} {l : List Nat} {best : Option Nat} {a : Nat} (h : l.foldl (firstBy lt) best = some a) : a ∈ l ∨ best = some a := by
  induction l generalizing best with
  | nil => exact .inr h
  | cons b l ih =>
    rcases ih h with hmem | hbest
    · exact .inl (List.mem_cons_of_mem _ hmem)
    · unfold firstBy at hbest
      split at hbest
      · cases hbest
        exact .inl List.mem_cons_self
      · split at hbest
        · cases hbest
          exact .inl List.mem_cons_self
        · exact .inr hbest

theorem mem_of_leastWorn {s : State} {l : List Nat} {a : Nat} (h : leastWorn s l = some a) : a ∈ l :=
  (mem_of_foldl_firstBy h).resolve_right (fun h => nomatch h)

/-- A block of a queue whose move can begin. -/
theorem mayMove_of_findSome {s : State} {queue : List Nat} {b d : Nat}
    (h : queue.findSome? (fun b => (if mayMove s b then leastWorn s (freeOn s (channelOf s b)) else none).map (fun d => (b, d))) = some (b, d)) : mayMove s b = true := by
  obtain ⟨c, -, hc⟩ := List.exists_of_findSome?_eq_some h
  obtain ⟨x, hstart, heq⟩ := Option.map_eq_some_iff.mp hc
  cases heq
  exact (Option.ite_none_right_eq_some.mp hstart).1

theorem levelWear_cases (s : State) : levelWear s = s ∨ ∃ a d, mayMove s a = true ∧ levelWear s = beginMove s a d .wear := by
  unfold levelWear
  dsimp only
  split
  · exact .inl rfl
  next a ha =>
    split
    next d _ =>
      split
      · have hmay := (List.mem_filter.mp (mem_of_leastWorn ha)).2
        exact .inr ⟨a, d, (Bool.and_eq_true_iff.mp hmay).1, rfl⟩
      · exact .inl rfl
    · exact .inl rfl

/-- At most one move begins, while none is under way, of a block whose data may move. -/
theorem beginMoves_cases (s : State) :
    beginMoves s = s ∨ s.press.moves = [] ∧ ∃ a d kind, mayMove s a = true ∧ beginMoves s = beginMove s a d kind := by
  unfold beginMoves
  split
  · exact .inl rfl
  next hmoves =>
    have hnone : s.press.moves = [] := by simpa using hmoves
    dsimp only
    split
    next b d hfind => exact .inr ⟨hnone, b, d, .retire, mayMove_of_findSome hfind, rfl⟩
    · split
      next b d hfind => exact .inr ⟨hnone, b, d, .refresh, mayMove_of_findSome hfind, rfl⟩
      · rcases levelWear_cases s with h | ⟨a, d, hmay, h⟩
        · exact .inl h
        · exact .inr ⟨hnone, a, d, .wear, hmay, h⟩

theorem pumped_beginMoves (s : State) : Pumped s (beginMoves s) := by
  rcases beginMoves_cases s with h | ⟨-, a, d, kind, -, h⟩ <;> rw [h]
  · exact .refl s
  · exact pumped_beginMove ..

/-- A move reads a page of its old block and has its program issued, or does nothing. -/
theorem issueCopy_cases (s : State) (m : FlashMove) :
    issueCopy s m = s ∨ m.left ≠ [] ∧ ∃ o, issueCopy s m =
      issueOp (onfi ({ s with press.reads := s.press.reads + 1 }.modEblock m.src (fun e => { e with reads := e.reads + 1 })) (channelOf s m.src) .pageRead) o := by
  unfold issueCopy
  split
  · exact .inl rfl
  next hleft =>
    split
    · exact .inl rfl
    · exact .inr ⟨by simp [hleft], _, rfl⟩

theorem pumped_issueCopy (s : State) (m : FlashMove) : Pumped s (issueCopy s m) := by
  rcases issueCopy_cases s m with h | ⟨-, o, h⟩ <;> rw [h]
  · exact .refl s
  · have hcount : Pumped s { s with press.reads := s.press.reads + 1 } := ⟨rfl, fun _ h => h⟩
    have hread := Pumped.modEblock { s with press.reads := s.press.reads + 1 } m.src (f := fun e => { e with reads := e.reads + 1 }) (fun _ => rfl) (fun _ h => h)
    exact (hcount.trans hread).trans ((pumped_onfi ..).trans (pumped_issueOp ..))

theorem pumped_showPins (s : State) : Pumped s (showPins s) := ⟨rfl, fun _ h => h⟩

theorem pumped_pumpFlash (s : State) : Pumped s (pumpFlash s) := by
  unfold pumpFlash
  extract_lets s1 s2
  split
  · exact .refl s
  · have h1 : Pumped s s1 := (pumped_pumpPress s).trans ((pumped_resumeOps _).trans (pumped_issueErases _))
    have h2 : Pumped s s2 := h1.trans ((pumped_issueWrites ..).trans (pumped_beginMoves _))
    have h3 : Pumped s (s2.press.moves.foldl issueCopy s2) := h2.trans (.foldl pumped_issueCopy _ _)
    exact h3.trans (pumped_showPins _)

/-! ### What is read after the pump -/

theorem eq_of_beyondPump {γ : Type} (view : State → γ) {s t : State} (h : beyondPump t = beyondPump s) (hview : ∀ u, view u = view (beyondPump u).1) : view t = view s := by
  rw [hview t, hview s, h]

section
variable (s : State)

@[simp] theorem mem_pumpFlash : (pumpFlash s).mem = s.mem := eq_of_beyondPump (·.mem) (pumped_pumpFlash s).rest (fun _ => rfl)
@[simp] theorem parts_pumpFlash : (pumpFlash s).parts = s.parts := eq_of_beyondPump (·.parts) (pumped_pumpFlash s).rest (fun _ => rfl)
@[simp] theorem regions_pumpFlash : (pumpFlash s).press.regions = s.press.regions := eq_of_beyondPump (·.press.regions) (pumped_pumpFlash s).rest (fun _ => rfl)
@[simp] theorem busy_pumpFlash : (pumpFlash s).press.busy = s.press.busy := eq_of_beyondPump (·.press.busy) (pumped_pumpFlash s).rest (fun _ => rfl)
@[simp] theorem refreshQ_pumpFlash : (pumpFlash s).press.refreshQ = s.press.refreshQ := eq_of_beyondPump (·.press.refreshQ) (pumped_pumpFlash s).rest (fun _ => rfl)
@[simp] theorem refreshes_pumpFlash : (pumpFlash s).press.refreshes = s.press.refreshes := eq_of_beyondPump (·.press.refreshes) (pumped_pumpFlash s).rest (fun _ => rfl)
@[simp] theorem map_pumpFlash : (pumpFlash s).press.map = s.press.map := eq_of_beyondPump (·.press.map) (pumped_pumpFlash s).rest (fun _ => rfl)
@[simp] theorem pressEvents_pumpFlash : (pumpFlash s).press.events = s.press.events := eq_of_beyondPump (·.press.events) (pumped_pumpFlash s).rest (fun _ => rfl)
@[simp] theorem writeSeq_pumpFlash : (pumpFlash s).press.writeSeq = s.press.writeSeq := eq_of_beyondPump (·.press.writeSeq) (pumped_pumpFlash s).rest (fun _ => rfl)
@[simp] theorem patrolAt_pumpFlash : (pumpFlash s).press.patrolAt = s.press.patrolAt := eq_of_beyondPump (·.press.patrolAt) (pumped_pumpFlash s).rest (fun _ => rfl)
@[simp] theorem patrolTs_pumpFlash : (pumpFlash s).press.patrolTs = s.press.patrolTs := eq_of_beyondPump (·.press.patrolTs) (pumped_pumpFlash s).rest (fun _ => rfl)
@[simp] theorem readQ_pumpFlash : (pumpFlash s).press.readQ.map unissued = s.press.readQ.map unissued :=
  (congrArg (·.1.press.readQ) (pumped_pumpFlash s).rest :)

theorem unfilled_pumpFlash (b : Nat) : unfilled ((pumpFlash s).eblock b) = unfilled (s.eblock b) := congrFun (congrArg (·.2) (pumped_pumpFlash s).rest) b

@[simp] theorem pages_pumpFlash (b : Nat) : ((pumpFlash s).eblock b).pages = (s.eblock b).pages := (congrArg (·.pages) (unfilled_pumpFlash s b) :)
@[simp] theorem units_pumpFlash (b : Nat) : ((pumpFlash s).eblock b).units = (s.eblock b).units := (congrArg (·.units) (unfilled_pumpFlash s b) :)
@[simp] theorem erases_pumpFlash (b : Nat) : ((pumpFlash s).eblock b).erases = (s.eblock b).erases := (congrArg (·.erases) (unfilled_pumpFlash s b) :)
@[simp] theorem retired_pumpFlash (b : Nat) : ((pumpFlash s).eblock b).retired = (s.eblock b).retired := (congrArg (·.retired) (unfilled_pumpFlash s b) :)
@[simp] theorem erasing_pumpFlash (b : Nat) : ((pumpFlash s).eblock b).erasing = (s.eblock b).erasing := (congrArg (·.erasing) (unfilled_pumpFlash s b) :)

end

/-! ### Page reads of moves (R292, R293) -/

/-- Nothing of a move changed, and no block's data may move that could not before. -/
structure NoCopies (s t : State) : Prop where
  moves : t.press.moves = s.press.moves
  reads : t.press.reads = s.press.reads
  blocks : ∀ b, (t.eblock b).reads = (s.eblock b).reads
  still : ∀ b, mayMove s b = false → mayMove t b = false

namespace NoCopies

theorem refl (s : State) : NoCopies s s := ⟨rfl, rfl, fun _ => rfl, fun _ h => h⟩

theorem trans {s t u : State} (h : NoCopies s t) (k : NoCopies t u) : NoCopies s u :=
  ⟨k.moves.trans h.moves, k.reads.trans h.reads, fun b => (k.blocks b).trans (h.blocks b), fun b hb => k.still b (h.still b hb)⟩

theorem foldl {α : Type} {f : State → α → State} (h : ∀ s a, NoCopies s (f s a)) (l : List α) (s : State) : NoCopies s (l.foldl f s) := by
  induction l generalizing s with
  | nil => exact refl s
  | cons a l ih => exact (h s a).trans (ih _)

/-- The Press does something else. -/
theorem of_eq {s t : State} (hmoves : t.press.moves = s.press.moves) (hreads : t.press.reads = s.press.reads) (hblocks : t.press.eblocks = s.press.eblocks) : NoCopies s t := by
  have heblock : t.eblock = s.eblock := funext fun b => congrArg (fun t : Tbl EBlock => tget ({} : EBlock) t b) hblocks
  exact ⟨hmoves, hreads, fun b => by rw [heblock], fun b h => by rwa [mayMove, heblock, hmoves]⟩

end NoCopies

theorem noCopies_pumpPressAux (n : Nat) (s : State) : NoCopies s (pumpPressAux n s) := by
  induction n generalizing s with
  | zero => exact .refl s
  | succ n ih =>
    rcases pumpPressAux_succ_cases n s with h | ⟨r, place, suspended, sent, times, h⟩ <;> rw [h]
    · exact .refl s
    · refine NoCopies.trans ?_ (ih _)
      exact .of_eq rfl rfl rfl

theorem noCopies_pumpPress (s : State) : NoCopies s (pumpPress s) := by
  unfold pumpPress
  split
  · exact noCopies_pumpPressAux ..
  · exact .refl s

theorem noCopies_resumeOps (s : State) : NoCopies s (resumeOps s) := by
  refine NoCopies.foldl (fun t l => ?_) _ s
  split
  · exact .refl t
  · exact .of_eq rfl rfl rfl

theorem noCopies_issueErases (s : State) : NoCopies s (issueErases s) := by
  refine NoCopies.foldl (fun t b => ?_) _ s
  split
  · exact .of_eq rfl rfl rfl
  · exact .refl t

theorem noCopies_issueOp (s : State) (o : FlashOp) : NoCopies s (issueOp s o) := .of_eq rfl rfl rfl

/-- A block that a write fills may not move, unless it is retired. -/
theorem noCopies_fill (s : State) {b : Nat} (hretired : (s.eblock b).retired = false) : NoCopies s (s.modEblock b (fun e => { e with free := false, open_ := true })) := by
  refine ⟨rfl, rfl, eblock_modEblock_view (·.reads) s b (fun _ => rfl), fun c hc => ?_⟩
  by_cases h : c = b
  · subst h
    simp [mayMove, hretired]
  · simp only [mayMove, eblock_modEblock_other _ _ h] at hc ⊢
    exact hc

theorem noCopies_issueWrites (n : Nat) (s : State) : NoCopies s (issueWrites n s) := by
  induction n generalizing s with
  | zero => exact .refl s
  | succ n ih =>
    unfold issueWrites
    split
    · exact .refl s
    · split
      · exact .refl s
      next b hb =>
        split
        · exact .refl s
        · have hroom := (List.mem_filter.mp (mem_of_leastWorn hb)).2
          have hretired : (s.eblock b).retired = false := by
            simp only [hasRoom, Bool.and_eq_true, Bool.not_eq_true'] at hroom
            obtain ⟨⟨⟨⟨⟨hretired, -⟩, -⟩, -⟩, -⟩, -⟩ := hroom
            exact hretired
          exact (noCopies_fill s hretired).trans ((noCopies_issueOp ..).trans (ih _))

/-- A move without pages to copy reads none. -/
theorem issueCopy_of_nil (s : State) {m : FlashMove} (h : m.left = []) : issueCopy s m = s := (issueCopy_cases s m).resolve_right (fun h' => h'.1 h)

theorem eblockReads_issueCopy_other (s : State) {m : FlashMove} {b : Nat} (h : m.src ≠ b) : ((issueCopy s m).eblock b).reads = (s.eblock b).reads := by
  rcases issueCopy_cases s m with heq | ⟨-, o, heq⟩ <;> rw [heq]
  exact congrArg (·.reads) (eblock_modEblock_other { s with press.reads := s.press.reads + 1 } (fun e => { e with reads := e.reads + 1 }) h.symm)

/-- Moves that copy nothing of a block leave its read counter. -/
theorem eblockReads_foldl_issueCopy {l : List FlashMove} {b : Nat} (h : ∀ m ∈ l, m.src = b → m.left = []) (s : State) :
    ((l.foldl issueCopy s).eblock b).reads = (s.eblock b).reads := by
  induction l generalizing s with
  | nil => rfl
  | cons m l ih =>
    rw [List.foldl_cons, ih (fun q hq => h q (List.mem_cons_of_mem _ hq))]
    by_cases hsrc : m.src = b
    · rw [issueCopy_of_nil s (h m List.mem_cons_self hsrc)]
    · exact eblockReads_issueCopy_other s hsrc

theorem foldl_issueCopy_of_nil {l : List FlashMove} (h : ∀ m ∈ l, m.left = []) (s : State) : l.foldl issueCopy s = s :=
  foldl_eq_self l (fun m hm => issueCopy_of_nil s (h m hm))

/-- The pump up to the moves. -/
theorem noCopies_beforeMoves (s : State) (n : Nat) : NoCopies s (issueWrites n (issueErases (resumeOps (pumpPress s)))) :=
  (noCopies_pumpPress s).trans ((noCopies_resumeOps _).trans ((noCopies_issueErases _).trans (noCopies_issueWrites ..)))

/-- A block's read counter stays while no move copies its pages and none of its data can begin to move. -/
theorem eblockReads_pumpFlash {s : State} {b : Nat} (hleft : ∀ m ∈ s.press.moves, m.src = b → m.left = []) (hmay : s.press.moves = [] → mayMove s b = false) :
    ((pumpFlash s).eblock b).reads = (s.eblock b).reads := by
  unfold pumpFlash
  split
  · rfl
  · dsimp only
    generalize hn : lunCount _ + 1 = n
    have hbefore := noCopies_beforeMoves s n
    generalize issueWrites n _ = u at hbefore ⊢
    refine Eq.trans ?_ (hbefore.blocks b)
    rcases beginMoves_cases u with h | ⟨hnone, a, d, kind, hmoved, h⟩ <;> rw [h]
    · exact eblockReads_foldl_issueCopy (by rwa [hbefore.moves]) u
    · have hab : a ≠ b := by
        rintro rfl
        simp [hbefore.still a (hmay (hbefore.moves.symm.trans hnone))] at hmoved
      refine (eblockReads_foldl_issueCopy (fun m hm hsrc => ?_) _).trans
        (eblock_modEblock_view (·.reads) u d (f := fun e => { e with free := false, open_ := true }) (fun _ => rfl) b)
      rw [beginMove, hnone, List.nil_append, List.mem_singleton] at hm
      subst hm
      exact absurd hsrc hab

/-- The count of page reads stays while no move copies pages and none can begin. -/
theorem reads_pumpFlash {s : State} (hleft : ∀ m ∈ s.press.moves, m.left = []) (hmay : s.press.moves = [] → ∀ b, mayMove s b = false) :
    (pumpFlash s).press.reads = s.press.reads := by
  unfold pumpFlash
  split
  · rfl
  · dsimp only
    generalize hn : lunCount _ + 1 = n
    have hbefore := noCopies_beforeMoves s n
    generalize issueWrites n _ = u at hbefore ⊢
    refine Eq.trans ?_ hbefore.reads
    rcases beginMoves_cases u with h | ⟨hnone, a, d, kind, hmoved, h⟩
    · rw [h, foldl_issueCopy_of_nil (by rwa [hbefore.moves])]
      rfl
    · simp [hbefore.still a (hmay (hbefore.moves.symm.trans hnone) a)] at hmoved

end Sys2Proof.Machine
end

section
/-! The memory and tiers family (06_memory_tiers.md): what maps, erases and retirements change of the Press, and the flash commands. -/

namespace Sys2Proof.Machine

/-! ### Event registers and the spare blocks -/

/-- A flag of an event register that is set stays set. -/
theorem flag_raiseEv_of_set {e : EventReg} {i : Nat} (bit : Nat) (h : e.flags.getLsbD i = true) : (raiseEv e bit).flags.getLsbD i = true := by
  simp only [raiseEv, BitVec.getLsbD_or, h, Bool.true_or]

/-- A flag raised is set. -/
theorem flag_raiseEv_same (e : EventReg) {bit : Nat} (h : bit < 32) : (raiseEv e bit).flags.getLsbD bit = true := by
  simp only [raiseEv, BitVec.getLsbD_or, BitVec.getLsbD_ofNat, h, Nat.testBit_two_pow_self, decide_true, Bool.and_self, Bool.or_true]

/-- The count of spare blocks changes their two flags and LOW_SPARE alone, and clears no event (R295). -/
theorem checkSpare_frame (s : State) :
    ∃ e low only, checkSpare s = { s with press.events := e, press.lowSpare := low, press.readOnly := only } ∧ ∀ i, s.press.events.flags.getLsbD i = true → e.flags.getLsbD i = true := by
  unfold checkSpare flashEvent
  dsimp only
  split
  · exact ⟨_, _, _, rfl, fun _ => flag_raiseEv_of_set 5⟩
  · exact ⟨_, _, _, rfl, fun _ h => h⟩

theorem flag_checkSpare {s : State} {i : Nat} (h : s.press.events.flags.getLsbD i = true) : (checkSpare s).press.events.flags.getLsbD i = true := by
  obtain ⟨e, low, only, heq, hflags⟩ := checkSpare_frame s
  rw [heq]
  exact hflags i h

/-- The state without the events of the Press and its two flags of spare blocks. -/
def beyondSpare (s : State) : State := { s with press.events := {}, press.lowSpare := false, press.readOnly := false }

theorem beyondSpare_checkSpare (s : State) : beyondSpare (checkSpare s) = beyondSpare s := by
  obtain ⟨e, low, only, heq, -⟩ := checkSpare_frame s
  rw [heq]
  rfl

@[simp] theorem mem_checkSpare (s : State) : (checkSpare s).mem = s.mem := (congrArg (·.mem) (beyondSpare_checkSpare s) :)
@[simp] theorem map_checkSpare (s : State) : (checkSpare s).press.map = s.press.map := (congrArg (·.press.map) (beyondSpare_checkSpare s) :)
@[simp] theorem regions_checkSpare (s : State) : (checkSpare s).press.regions = s.press.regions := (congrArg (·.press.regions) (beyondSpare_checkSpare s) :)
@[simp] theorem moves_checkSpare (s : State) : (checkSpare s).press.moves = s.press.moves := (congrArg (·.press.moves) (beyondSpare_checkSpare s) :)
@[simp] theorem refreshQ_checkSpare (s : State) : (checkSpare s).press.refreshQ = s.press.refreshQ := (congrArg (·.press.refreshQ) (beyondSpare_checkSpare s) :)
@[simp] theorem refreshes_checkSpare (s : State) : (checkSpare s).press.refreshes = s.press.refreshes := (congrArg (·.press.refreshes) (beyondSpare_checkSpare s) :)
@[simp] theorem eblock_checkSpare (s : State) : (checkSpare s).eblock = s.eblock := (congrArg State.eblock (beyondSpare_checkSpare s) :)

/-! ### The map and the units of erase blocks (R288, R293) -/

/-- The state without the Press map and the erase blocks. -/
def beyondUnits (s : State) : State := { s with press.map := [], press.eblocks := [] }

theorem startErase_cases (s : State) (b : Nat) :
    (s.eblock b).retired = true ∧ startErase s b = s.modEblock b (fun e => { e with units := [] }) ∨
    (s.eblock b).retired = false ∧ startErase s b = s.modEblock b (fun e => { e with units := [], open_ := false, free := false, erasing := true }) := by
  unfold startErase
  split
  next h => exact .inl ⟨h, rfl⟩
  next h => exact .inr ⟨Bool.eq_false_iff.mpr h, rfl⟩

/-- An erase that is due changes its block alone. -/
theorem startErase_frame (s : State) (b : Nat) : ∃ f, startErase s b = s.modEblock b f ∧ ∀ e, (f e).retired = e.retired := by
  rcases startErase_cases s b with ⟨-, h⟩ | ⟨-, h⟩
  · exact ⟨_, h, fun _ => rfl⟩
  · exact ⟨_, h, fun _ => rfl⟩

/-- What the switch of a unit leaves: everything but the map and the erase blocks, and which of these are retired. -/
def unswitched (s : State) : State × (Nat → Bool) := (beyondUnits s, fun b => (s.eblock b).retired)

theorem unswitched_modEblock (s : State) (b : Nat) {f : EBlock → EBlock} (hf : ∀ e, (f e).retired = e.retired) : unswitched (s.modEblock b f) = unswitched s :=
  Prod.ext rfl (funext (eblock_modEblock_view (·.retired) s b hf))

theorem unswitched_startErase (s : State) (b : Nat) : unswitched (startErase s b) = unswitched s := by
  obtain ⟨f, h, hf⟩ := startErase_frame s b
  rw [h, unswitched_modEblock s b hf]

@[simp] theorem map_startErase (s : State) (b : Nat) : (startErase s b).press.map = s.press.map := by
  obtain ⟨f, h, -⟩ := startErase_frame s b
  rw [h]
  rfl

theorem unswitched_closeBlock (s : State) (b : Nat) : unswitched (closeBlock s b) = unswitched s := by
  have hclosed := unswitched_modEblock s b (f := fun e => { e with open_ := false }) (fun _ => rfl)
  unfold closeBlock
  split
  · rfl
  · dsimp only
    split
    · exact (unswitched_startErase ..).trans hclosed
    · exact hclosed

@[simp] theorem map_closeBlock (s : State) (b : Nat) : (closeBlock s b).press.map = s.press.map := by
  unfold closeBlock
  split
  · rfl
  · dsimp only
    split
    · exact map_startErase ..
    · rfl

theorem unswitched_dropUnit (s : State) (r u : Nat) : unswitched (dropUnit s r u) = unswitched s := by
  unfold dropUnit
  split
  · rfl
  next f _ =>
    have hdropped := unswitched_modEblock { s with press.map := tdel s.press.map (unitKey r u) } f.block (f := fun e => { e with units := e.units.filter (fun x => x != (r, u)) })
      (fun _ => rfl)
    dsimp only
    split
    · exact (unswitched_startErase ..).trans hdropped
    · exact hdropped

theorem tfind_dropUnit_other (s : State) {r u k : Nat} (h : k ≠ unitKey r u) : tfind (dropUnit s r u).press.map k = tfind s.press.map k := by
  unfold dropUnit
  split
  · rfl
  · dsimp only
    split
    · rw [map_startErase]
      exact tfind_tdel_other _ h
    · exact tfind_tdel_other _ h

theorem unswitched_mapUnit (s : State) (r u : Nat) (f : FlashPlace) : unswitched (mapUnit s r u f) = unswitched s := by
  refine (unswitched_modEblock _ _ fun _ => ?_).trans (Eq.trans ?_ (unswitched_dropUnit s r u)) <;> rfl

@[simp] theorem tfind_mapUnit_same (s : State) (r u : Nat) (f : FlashPlace) : tfind (mapUnit s r u f).press.map (unitKey r u) = some f := tfind_tset_same ..

theorem tfind_mapUnit_other (s : State) {r u k : Nat} (f : FlashPlace) (h : k ≠ unitKey r u) : tfind (mapUnit s r u f).press.map k = tfind s.press.map k :=
  (tfind_tset_other _ _ h).trans (tfind_dropUnit_other s h)

/-! ### Regions cleared (R422) -/

/-- The state without the Press map, the erase blocks, the journal and the bytes of the flash regions. -/
def beyondRegion (s : State) : State := { beyondUnits s with press.journal := [], press.journalSeq := 0, mem.t4 := [] }

theorem beyondUnits_foldl_dropUnit (r : Nat) (l : List (Nat × FlashPlace)) (s : State) : beyondUnits (l.foldl (fun t e => dropUnit t r (e.1 % 2 ^ 28)) s) = beyondUnits s :=
  view_foldl beyondUnits (fun t (e : Nat × FlashPlace) => congrArg Prod.fst (unswitched_dropUnit t r (e.1 % 2 ^ 28))) l s

theorem beyondRegion_clearRegion (s : State) (r first n : Nat) : beyondRegion (clearRegion s r first n) = beyondRegion s :=
  congrArg (fun u => { u with press.journal := [], press.journalSeq := 0, mem.t4 := [] }) (beyondUnits_foldl_dropUnit r _ s)

theorem t4_clearRegion (s : State) (r first n : Nat) : (clearRegion s r first n).mem.t4 = mclear s.mem.t4 (t4Key r first) (t4Key r (first + n)) :=
  (congrArg (fun u => mclear u.mem.t4 (t4Key r first) (t4Key r (first + n))) (beyondUnits_foldl_dropUnit r _ s) :)

/-! ### The flash commands (R290, R295, R422, R439) -/

theorem ringCmdR_of_starts {s : State} {p : PartId} {op right basic expert : Nat} {gaps : List (Nat × Nat)} {k : Packet} (body : State → Packet → State)
    (hright : hasRight s p.val right = true) (hstarts : Starts s p op k) (hform : formCheck k basic expert gaps = none) :
    ringCmdR s p.val op right basic expert gaps body = body (takeHand s p.val) k := by
  obtain ⟨hstart, hsession⟩ := hstarts
  have hserved : sessionRefuse s p.val k = none := by simp [sessionRefuse, hsession]
  have htaken : hasRight (takeHand s p.val) p.val right = true := by
    rw [hasRight, takeHand, part_modPart_same]
    exact hright
  simp only [ringCmdR, ringTake, hstart, hserved, htaken, if_true, formed, hform]

theorem checked_of_good {s : State} {p : Nat} {k : Packet} {fmt rng : List (Bool × Nat)} (body : State) (hfmt : firstBad fmt = none) (hrng : firstBad rng = none) :
    checked s p k fmt rng body = body := by
  simp only [checked, hfmt, hrng]

theorem checked_of_range {s : State} {p off : Nat} {k : Packet} {fmt rng : List (Bool × Nat)} (body : State) (hfmt : firstBad fmt = none) (hrng : firstBad rng = some off) :
    checked s p k fmt rng body = refuseRange s p k off := by
  simp only [checked, hfmt, hrng]

/-- A region brought to a size: what lies beyond it is gone. -/
def resizeRegion (s : State) (r n old : Nat) : State := if n < old then clearRegion s r n (old - n) else s

theorem beyondRegion_resizeRegion (s : State) (r n old : Nat) : beyondRegion (resizeRegion s r n old) = beyondRegion s := by
  unfold resizeRegion
  split
  · exact beyondRegion_clearRegion ..
  · rfl

theorem t4Key_le {r a b : Nat} (h : a ≤ b) : t4Key r a ≤ t4Key r b := Nat.mul_le_mul_right _ (Nat.add_le_add_left h _)

theorem mget_resizeRegion (s : State) (r n old a : Nat) :
    mget 0 (resizeRegion s r n old).mem.t4 a = if t4Key r n ≤ a ∧ a < t4Key r old then 0 else mget 0 s.mem.t4 a := by
  unfold resizeRegion
  split
  next h => rw [t4_clearRegion, mget_mclear, Nat.add_sub_cancel' h.le]
  next h => rw [if_neg (by have := t4Key_le (r := r) (Nat.le_of_not_lt h); omega)]

/-- What a flash command answered at once leaves of the Press and of the flash regions is what the Press came to. -/
theorem durable_answered (s u : State) (p : Nat) (k : Packet) : durable (kept s (replyDone (pumpFlash u) p k)) = durable (pumpFlash u) := durable_reply (pumpFlash u) ..

theorem regions_answered (s u : State) (p : Nat) (k : Packet) : (kept s (replyDone (pumpFlash u) p k)).press.regions = u.press.regions :=
  (congrArg (·.1.regions) (durable_answered s u p k)).trans (regions_pumpFlash u)

theorem busy_answered (s u : State) (p : Nat) (k : Packet) : (kept s (replyDone (pumpFlash u) p k)).press.busy = u.press.busy :=
  (congrArg (·.1.busy) (durable_answered s u p k)).trans (busy_pumpFlash u)

theorem refreshQ_answered (s u : State) (p : Nat) (k : Packet) : (kept s (replyDone (pumpFlash u) p k)).press.refreshQ = u.press.refreshQ :=
  (congrArg (·.1.refreshQ) (durable_answered s u p k)).trans (refreshQ_pumpFlash u)

theorem t4_answered (s u : State) (p : Nat) (k : Packet) : (kept s (replyDone (pumpFlash u) p k)).mem.t4 = u.mem.t4 :=
  (congrArg (·.2) (durable_answered s u p k)).trans (congrArg (·.t4) (mem_pumpFlash u))

/-- REGION_SET's own change: the region at its new size, of the sending partition alone, or gone. -/
def setRegion (s : State) (p r n : Nat) : State :=
  let s1 := resizeRegion s r n (tget ({} : Region) s.press.regions r).blocks
  let regs := if n = 0 then tdel s1.press.regions r else tset s1.press.regions r { blocks := n, mask := BitVec.ofNat 64 (2 ^ p) }
  journalRec { s1 with press.regions := regs } (.region r n)

theorem regions_setRegion (s : State) (p r n : Nat) :
    (setRegion s p r n).press.regions = if n = 0 then tdel s.press.regions r else tset s.press.regions r { blocks := n, mask := BitVec.ofNat 64 (2 ^ p) } :=
  (congrArg (fun u : State => if n = 0 then tdel u.press.regions r else tset u.press.regions r { blocks := n, mask := BitVec.ofNat 64 (2 ^ p) })
    (beyondRegion_resizeRegion s r n (tget ({} : Region) s.press.regions r).blocks) :)

theorem busy_setRegion (s : State) (p r n : Nat) : (setRegion s p r n).press.busy = s.press.busy :=
  (congrArg (·.press.busy) (beyondRegion_resizeRegion s r n (tget ({} : Region) s.press.regions r).blocks) :)

theorem refreshQ_setRegion (s : State) (p r n : Nat) : (setRegion s p r n).press.refreshQ = s.press.refreshQ :=
  (congrArg (·.press.refreshQ) (beyondRegion_resizeRegion s r n (tget ({} : Region) s.press.regions r).blocks) :)

section
variable {s : State} {p : PartId} {k : Packet}

theorem exec_regionSet_of_room {r n : Nat} (hright : hasRight s p.val 11 = true) (hstarts : Starts s p 0x0F01 k) (hform : formCheck k 8 8 [(1, 3)] = none)
    (hr : r = par k 0 1) (hn : n = par k 4 4) (hregion : r < 64) (hsize : n ≤ 2 ^ 26)
    (hroom : ((s.press.regions.filter (fun e => e.1 != r)).map (fun e => e.2.blocks)).foldl (· + ·) 0 + n ≤ flashRoom s) :
    exec (.regionSet p) s = .next (kept s (replyDone (pumpFlash (setRegion (takeHand s p.val) p.val r n)) p.val k)) := by
  subst hr hn
  refine ends_kept ((ringCmdR_of_starts _ hright hstarts hform).trans (checked_of_good _ rfl ?_))
  have hnumber : ¬ 63 < par k 0 1 := by omega
  have hfits : ¬ (2 ^ 26 < par k 4 4 ∨
      flashRoom (takeHand s p.val) < ((s.press.regions.filter (fun e => e.1 != par k 0 1)).map (fun e => e.2.blocks)).foldl (· + ·) 0 + par k 4 4) := by
    rw [show flashRoom (takeHand s p.val) = flashRoom s from rfl]
    omega
  simp only [firstBad, List.find?, takeHand_press, hnumber, hfits, decide_false, Option.map_none]

/-- REGION_SET sets its region, and empties what a smaller size leaves out. -/
theorem regionSet_next {r n old : Nat} (hright : hasRight s p.val 11 = true) (hstarts : Starts s p 0x0F01 k) (hform : formCheck k 8 8 [(1, 3)] = none) (hr : r = par k 0 1)
    (hn : n = par k 4 4) (hold : old = (tget ({} : Region) s.press.regions r).blocks) (hregion : r < 64) (hsize : n ≤ 2 ^ 26)
    (hroom : ((s.press.regions.filter (fun e => e.1 != r)).map (fun e => e.2.blocks)).foldl (· + ·) 0 + n ≤ flashRoom s) :
    ∃ t, exec (.regionSet p) s = .next t ∧ t.press.regions = (if n = 0 then tdel s.press.regions r else tset s.press.regions r { blocks := n, mask := BitVec.ofNat 64 (2 ^ p.val) }) ∧
      (∀ a, t4Key r n ≤ a → a < t4Key r old → mget 0 t.mem.t4 a = 0) ∧ (∀ a, a < t4Key r n ∨ t4Key r old ≤ a → mget 0 t.mem.t4 a = mget 0 s.mem.t4 a) ∧
      t.press.busy = s.press.busy ∧ t.press.refreshQ = s.press.refreshQ := by
  subst hold
  have hbytes (a : Nat) : mget 0 (setRegion (takeHand s p.val) p.val r n).mem.t4 a =
      if t4Key r n ≤ a ∧ a < t4Key r (tget ({} : Region) s.press.regions r).blocks then 0 else mget 0 s.mem.t4 a := mget_resizeRegion ..
  refine ⟨_, exec_regionSet_of_room hright hstarts hform hr hn hregion hsize hroom, ?_, fun a hlo hhi => ?_, fun a ha => ?_, ?_, ?_⟩
  · rw [regions_answered, regions_setRegion, takeHand_press]
  · rw [t4_answered, hbytes, if_pos ⟨hlo, hhi⟩]
  · rw [t4_answered, hbytes, if_neg (by omega)]
  · rw [busy_answered, busy_setRegion, takeHand_press]
  · rw [refreshQ_answered, refreshQ_setRegion, takeHand_press]

end

end Sys2Proof.Machine
end

section
/-! The memory and tiers family (06_memory_tiers.md): flash writes and retirements. -/

namespace Sys2Proof.Machine

theorem noRegion_of_blocks {s : State} {r : Nat} (h : (tget ({} : Region) s.press.regions r).blocks ≠ 0) : noRegion s r = false := beq_eq_false_iff_ne.mpr h

section
variable {s : State} {p : PartId} {k : Packet}

/-- REGION_ERASE's own change: the region's bytes gone, and its mapped blocks brought to what their homes hold now. -/
def eraseRegion (s : State) (r n : Nat) : State :=
  (mappedFlash s r 0 n).foldl (fun t e => if (t.block e.1 e.2).state = .poisoned then t else rewriteHome t e.1 e.2) (clearRegion s r 0 n)

theorem durable_eraseRegion (s : State) (r n : Nat) : durable (eraseRegion s r n) = durable (clearRegion s r 0 n) := by
  refine view_foldl durable (fun t e => ?_) _ _
  split
  · rfl
  · exact durable_rewriteHome ..

theorem exec_regionErase_of_region {r n : Nat} (hright : hasRight s p.val 11 = true) (hstarts : Starts s p 0x0F02 k) (hform : formCheck k 1 1 [] = none)
    (hr : r = par k 0 1) (hn : n = (tget ({} : Region) s.press.regions r).blocks) (hregion : n ≠ 0) :
    exec (.regionErase p) s = .next (kept s (replyDone (pumpFlash (eraseRegion (takeHand s p.val) r n)) p.val k)) := by
  subst hr hn
  refine ends_kept ((ringCmdR_of_starts _ hright hstarts hform).trans (checked_of_good _ rfl ?_))
  have hlisted : noRegion (takeHand s p.val) (par k 0 1) = false := noRegion_of_blocks hregion
  simp [firstBad, hlisted]

/-- REGION_ERASE empties its region. -/
theorem regionErase_next {r n : Nat} (hright : hasRight s p.val 11 = true) (hstarts : Starts s p 0x0F02 k) (hform : formCheck k 1 1 [] = none) (hr : r = par k 0 1)
    (hn : n = (tget ({} : Region) s.press.regions r).blocks) (hregion : n ≠ 0) :
    ∃ t, exec (.regionErase p) s = .next t ∧ t.press.regions = s.press.regions ∧ (∀ a, t4Key r 0 ≤ a → a < t4Key r n → mget 0 t.mem.t4 a = 0) ∧
      (∀ a, a < t4Key r 0 ∨ t4Key r n ≤ a → mget 0 t.mem.t4 a = mget 0 s.mem.t4 a) := by
  have hdurable := durable_eraseRegion (takeHand s p.val) r n
  have hbytes (a : Nat) : mget 0 (eraseRegion (takeHand s p.val) r n).mem.t4 a = if t4Key r 0 ≤ a ∧ a < t4Key r n then 0 else mget 0 s.mem.t4 a := by
    rw [t4_of_durable hdurable, t4_clearRegion, mget_mclear, Nat.zero_add, takeHand_mem]
  refine ⟨_, exec_regionErase_of_region hright hstarts hform hr hn hregion, ?_, fun a hlo hhi => ?_, fun a ha => ?_⟩
  · rw [regions_answered]
    exact (congrArg (·.1.regions) hdurable).trans (congrArg (·.press.regions) (beyondRegion_clearRegion (takeHand s p.val) r 0 n))
  · rw [t4_answered, hbytes, if_pos ⟨hlo, hhi⟩]
  · rw [t4_answered, hbytes, if_neg (by omega)]

/-! ### FLASH_WRITE (R290, R422) -/

theorem homeByte_takeHand (s : State) (p b off : Nat) (blk : Block) : homeByte (takeHand s p) p b blk off = homeByte s p b blk off := by
  unfold homeByte
  split
  · rw [t3Key, takeHand, part_modPart_same]
    rfl
  · rfl
  · rfl
  · rfl

/-- A packet that is taken leaves the bytes of its partition's memory. -/
theorem devRead_takeHand (s : State) (p addr n : Nat) : devRead (takeHand s p) p addr n = devRead s p addr n := by
  simp only [devRead, devByte, blockByte, homeByte_takeHand]
  rfl

theorem withData_of_mapped {s : State} {p off len : Nat} {k : Packet} (body : List Byte → State) (hmapped : anyBlock s p (parAddr k off) len .unmapped = false)
    (hgood : anyBlock s p (parAddr k off) len .poisoned = false) : withData s p k off len body = body (devRead s p (parAddr k off) len) := by
  simp only [withData, hmapped, hgood, Bool.false_eq_true, if_false]

/-- FLASH_WRITE copies its bytes and hands their units to the Press, where its fields pass their tests. -/
theorem flashWrite_next {r first len : Nat} (hright : hasRight s p.val 11 = true) (hstarts : Starts s p 0x0F03 k) (hform : formCheck k 20 20 [(1, 3)] = none)
    (haddr : addrOk k 8 = true) (hr : r = par k 0 1) (hfirst : first = par k 4 4) (hlen : len = par k 16 4) (hregion : (tget ({} : Region) s.press.regions r).blocks ≠ 0)
    (hwhole : len % blockBytes = 0) (hsome : len ≠ 0) (hspace : parAddr k 8 + len ≤ 2 ^ 48) (hmapped : anyBlock s p.val (parAddr k 8) len .unmapped = false)
    (hgood : anyBlock s p.val (parAddr k 8) len .poisoned = false) :
    (s.press.readOnly = false → first + len / blockBytes ≤ (tget ({} : Region) s.press.regions r).blocks → exec (.flashWrite p) s = .next (kept s (pumpFlash { takeHand s p.val with
      press.writeNo := s.press.writeNo + 1
      press.busy := s.press.busy ++ [{ pend := pendOf p.val k, region := r, first := first, blocks := len / blockBytes, left := (List.range (4 * (len / blockBytes))).map (fun i => 4 * first + i), placed := [], data := devRead s p.val (parAddr k 8) len, no := s.press.writeNo }] }))) ∧
    (s.press.readOnly = true → exec (.flashWrite p) s = .next (kept s (refuseRange (takeHand s p.val) p.val k 0))) ∧
    (s.press.readOnly = false → (tget ({} : Region) s.press.regions r).blocks < first + len / blockBytes → exec (.flashWrite p) s = .next (kept s (refuseRange (takeHand s p.val) p.val k 4))) := by
  subst hr hfirst hlen
  have hfmt : firstBad [(!addrOk k 8, 8)] = none := by simp [firstBad, haddr]
  have hlisted : noRegion (takeHand s p.val) (par k 0 1) = false := noRegion_of_blocks hregion
  have hbelow : ¬ 2 ^ 48 < parAddr k 8 + par k 16 4 := by omega
  refine ⟨fun hwritable hfits => ?_, fun hreadOnly => ?_, fun hwritable hbeyond => ?_⟩
  · refine ends_kept ((ringCmdR_of_starts _ hright hstarts hform).trans ((checked_of_good _ hfmt ?_).trans ((withData_of_mapped (s := takeHand s p.val) _ hmapped hgood).trans ?_)))
    · simp only [firstBad, List.find?, takeHand_press, hlisted, hwritable, Nat.not_lt.mpr hfits, hbelow, hwhole, decide_false, Bool.or_self, bne_self_eq_false,
        beq_eq_false_iff_ne.mpr hsome, Option.map_none]
    · rw [devRead_takeHand]
      rfl
  · refine ends_kept ((ringCmdR_of_starts _ hright hstarts hform).trans (checked_of_range _ hfmt ?_))
    simp [firstBad, hreadOnly]
  · refine ends_kept ((ringCmdR_of_starts _ hright hstarts hform).trans (checked_of_range _ hfmt ?_))
    simp only [firstBad, List.find?, takeHand_press, hlisted, hwritable, hbeyond, decide_true, Bool.or_self, Option.map_some]

end

/-! ### Programs (R289, R290, R295) -/

/-- A write that a program of its unit has placed. -/
def tookUnit (no u : Nat) (place : FlashPlace) (w : FlashWait) : FlashWait :=
  if w.no = no then { w with left := w.left.filter (· != u), placed := w.placed ++ [(u, place)] } else w

/-- The state in which a write's program has ended: the page holds the unit, and its write has it placed. -/
def programmed (s : State) (b : Nat) (o : FlashOp) (no region u : Nat) : State :=
  let s1 := programPage (endOp s o) b region u
  { s1 with press.busy := s1.press.busy.map (tookUnit no u (eplace s b o.page)) }

theorem flashProgramDone_of_none {s : State} {b : Nat} (ok : Bool) (h : opOn s b = none) : flashProgramDone s b ok = s := by simp only [flashProgramDone, h]

theorem flashProgramDone_of_write {s : State} {b no region u : Nat} {o : FlashOp} (h : opOn s b = some o) (hwork : o.work = .write no region u) :
    flashProgramDone s b true = pumpFlash (finishWrites s.press.busy.length (programmed s b o no region u)) := by
  simp only [flashProgramDone, h, hwork]
  rfl

theorem flashProgramDone_of_failed {s : State} {b : Nat} {o : FlashOp} (h : opOn s b = some o) (hwork : o.work ≠ .erase) :
    flashProgramDone s b false = pumpFlash (retireBlock (flashEvent s 3) b) := by
  simp only [flashProgramDone, h]
  split
  next he => exact absurd he hwork
  · rfl
  · rfl

/-- Of the waiting writes a program's end changes the one that it is of. -/
theorem busy_programmed {s : State} {b region u : Nat} {w : FlashWait} {rest : List FlashWait} (o : FlashOp) (hbusy : s.press.busy = w :: rest) (hrest : ∀ x ∈ rest, x.no ≠ w.no) :
    (programmed s b o w.no region u).press.busy = { w with left := w.left.filter (· != u), placed := w.placed ++ [(u, eplace s b o.page)] } :: rest := by
  have hothers : rest.map (tookUnit w.no u (eplace s b o.page)) = rest := 
    (List.map_congr_left fun x hx => if_neg (hrest x hx)).trans (List.map_id _)
  rw [show (programmed s b o w.no region u).press.busy = s.press.busy.map (tookUnit w.no u (eplace s b o.page)) from rfl, hbusy, List.map_cons, hothers, tookUnit, if_pos rfl]

/-- The page holds the unit's spare record, with the next write sequence (R289). -/
theorem pages_programmed (s : State) (b : Nat) (o : FlashOp) (no region u : Nat) : ((programmed s b o no region u).eblock b).pages =
    (s.eblock b).pages ++ [{ region := region, unit := u, seq := s.press.writeSeq + 1, crc := pageRecCrc region u (s.press.writeSeq + 1) }] := by
  simp only [programmed, programPage, State.modEblock, State.eblock, tget_tmod_same]
  rfl

/-- Writes end in order, so none ends before the first (R290). -/
theorem finishWrites_of_left {s : State} (n : Nat) (h : ∀ w ∈ s.press.busy.head?, w.left ≠ []) : finishWrites n s = s := by
  cases n with
  | zero => rfl
  | succ n =>
    unfold finishWrites
    split
    next w rest heq => rw [if_neg (h w (by simp [heq]))]
    · rfl

/-! ### A write's record is durable (R290, R296) -/

theorem unswitched_foldl_mapUnit (r : Nat) (l : List (Nat × FlashPlace)) (s : State) : unswitched (l.foldl (fun t x => mapUnit t r x.1 x.2) s) = unswitched s :=
  view_foldl unswitched (fun t (x : Nat × FlashPlace) => unswitched_mapUnit t r x.1 x.2) l s

/-- The state in which a region holds a write's bytes. -/
def homeWritten (s : State) (w : FlashWait) : State :=
  { s with mem.t4 := mwrite 0 (mclear s.mem.t4 (t4Key w.region w.first) (t4Key w.region (w.first + w.blocks))) (t4Key w.region w.first) w.data }

/-- The state in which the map has a write's units too, their blocks closed. -/
def switchWrite (s : State) (w : FlashWait) : State :=
  ((w.placed.map (fun x => x.2.block)).dedup).foldl closeBlock (w.placed.foldl (fun t x => mapUnit t w.region x.1 x.2) (homeWritten s w))

theorem beyondUnits_switchWrite (s : State) (w : FlashWait) : beyondUnits (switchWrite s w) = beyondUnits (homeWritten s w) :=
  congrArg Prod.fst ((view_foldl unswitched unswitched_closeBlock _ _).trans (unswitched_foldl_mapUnit ..))

theorem map_switchWrite (s : State) (w : FlashWait) : (switchWrite s w).press.map = (w.placed.foldl (fun t x => mapUnit t w.region x.1 x.2) (homeWritten s w)).press.map :=
  view_foldl (fun t : State => t.press.map) map_closeBlock _ _

/-- The Press map, the waiting writes, the regions and their bytes. -/
def flashBooks (s : State) : Tbl FlashPlace × List FlashWait × Tbl Region × Mem := (s.press.map, s.press.busy, s.press.regions, s.mem.t4)

theorem flashBooks_of_durable {s t : State} (h : durable t = durable s) : flashBooks t = flashBooks s :=
  (congrArg (fun v : Press × Mem => (v.1.map, v.1.busy, v.1.regions, v.2)) h :)

theorem flashBooks_checkSpare (s : State) : flashBooks (checkSpare s) = flashBooks s := (congrArg flashBooks (beyondSpare_checkSpare s) :)

/-- The record of a write and its reply leave what the switch of the map made of the books. -/
theorem flashBooks_finishWrite (s : State) (w : FlashWait) : flashBooks (finishWrite s w) = flashBooks (switchWrite s w) := by
  unfold finishWrite
  rw [flashBooks_of_durable (durable_replyLater ..), flashBooks_checkSpare]
  have hrewritten := view_foldl durable (fun t (e : Nat × Nat) => durable_rewriteHome t e.1 e.2) (mappedFlash (switchWrite s w) w.region w.first w.blocks) (switchWrite s w)
  exact (flashBooks_of_durable hrewritten :)

theorem busy_finishWrite (s : State) (w : FlashWait) : (finishWrite s w).press.busy = s.press.busy :=
  (congrArg (·.2.1) (flashBooks_finishWrite s w)).trans (congrArg (·.press.busy) (beyondUnits_switchWrite s w))

theorem regions_finishWrite (s : State) (w : FlashWait) : (finishWrite s w).press.regions = s.press.regions :=
  (congrArg (·.2.2.1) (flashBooks_finishWrite s w)).trans (congrArg (·.press.regions) (beyondUnits_switchWrite s w))

/-- The unit programmed last is where its program put it. -/
theorem tfind_finishWrite {w : FlashWait} {l : List (Nat × FlashPlace)} {u : Nat} {f : FlashPlace} (s : State) (h : w.placed = l ++ [(u, f)]) :
    tfind (finishWrite s w).press.map (unitKey w.region u) = some f := by
  rw [show (finishWrite s w).press.map = (switchWrite s w).press.map from congrArg (·.1) (flashBooks_finishWrite s w), map_switchWrite, h, List.foldl_append]
  exact tfind_mapUnit_same ..

/-- The region holds the bytes of a finished write (R290). -/
theorem mget_finishWrite {s : State} (w : FlashWait) (hwf : Mem.wf 0 s.mem.t4 = true) {i : Nat} (hi : i < w.data.length) :
    mget 0 (finishWrite s w).mem.t4 (t4Key w.region w.first + i) = w.data.getD i 0 := by
  have hbytes : (finishWrite s w).mem.t4 = (homeWritten s w).mem.t4 :=
    (congrArg (·.2.2.2) (flashBooks_finishWrite s w)).trans (congrArg (·.mem.t4) (beyondUnits_switchWrite s w))
  rw [hbytes]
  exact mget_mwrite_inside 0 w.data _ _ i (mclear_wf 0 _ _ _ hwf) hi

/-- A write with nothing left ends, and those behind it wait. -/
theorem finishWrites_first {s : State} {w : FlashWait} {rest : List FlashWait} (n : Nat) (hbusy : s.press.busy = w :: rest) (hdone : w.left = [])
    (hrest : ∀ x ∈ rest, x.left ≠ []) : finishWrites (n + 1) s = finishWrite { s with press.busy := rest } w := by
  rw [finishWrites, hbusy]
  dsimp only
  rw [if_pos hdone]
  refine finishWrites_of_left n (fun x hx => ?_)
  rw [busy_finishWrite] at hx
  exact hrest x (List.mem_of_mem_head? hx)

/-! ### The ends of programs -/

theorem mem_kept (s t : State) : (kept s t).mem = t.mem := rfl

theorem press_kept (s t : State) : (kept s t).press = t.press := rfl

section
variable {s : State} {b u : Nat} {o : FlashOp} {w : FlashWait} {rest : List FlashWait} {more : List Nat}

/-- A program of a write that has units left places its unit. -/
theorem flashProgramDone_more (hop : opOn s b = some o) (hbusy : s.press.busy = w :: rest) (hwork : o.work = .write w.no w.region u) (hmore : more = w.left.filter (· != u))
    (hrest : ∀ x ∈ rest, x.no ≠ w.no ∧ x.left ≠ []) (hleft : more ≠ []) :
    ∃ t, exec (.flashProgramDone b true) s = .next t ∧ t.press.busy = { w with left := more, placed := w.placed ++ [(u, eplace s b o.page)] } :: rest ∧
      (t.eblock b).pages = (s.eblock b).pages ++ [{ region := w.region, unit := u, seq := s.press.writeSeq + 1, crc := pageRecCrc w.region u (s.press.writeSeq + 1) }] ∧
      t.press.writeSeq = s.press.writeSeq + 1 ∧ t.mem = s.mem ∧ t.press.map = s.press.map ∧ t.parts = s.parts := by
  subst hmore
  have htook := busy_programmed (b := b) (region := w.region) (u := u) o hbusy (fun x hx => (hrest x hx).1)
  have hwaits : finishWrites s.press.busy.length (programmed s b o w.no w.region u) = programmed s b o w.no w.region u :=
    finishWrites_of_left _ (by simpa [htook] using hleft)
  refine ⟨_, ends_kept ((flashProgramDone_of_write hop hwork).trans (congrArg pumpFlash hwaits)), (busy_pumpFlash _).trans htook, ?_, writeSeq_pumpFlash _, mem_pumpFlash _,
    map_pumpFlash _, parts_pumpFlash _⟩
  exact (pages_pumpFlash _ b).trans (pages_programmed s b o w.no w.region u)

/-- The last program of a write makes it durable: its bytes in the region, its units in the map. -/
theorem flashProgramDone_last (hop : opOn s b = some o) (hbusy : s.press.busy = w :: rest) (hwork : o.work = .write w.no w.region u) (hmore : more = w.left.filter (· != u))
    (hrest : ∀ x ∈ rest, x.no ≠ w.no ∧ x.left ≠ []) (hlast : more = []) (hwf : Mem.wf 0 s.mem.t4 = true) :
    ∃ t, exec (.flashProgramDone b true) s = .next t ∧ t.press.busy = rest ∧ (∀ i, i < w.data.length → mget 0 t.mem.t4 (t4Key w.region w.first + i) = w.data.getD i 0) ∧
      tfind t.press.map (unitKey w.region u) = some (eplace s b o.page) ∧ t.press.regions = s.press.regions := by
  have htook := busy_programmed (b := b) (region := w.region) (u := u) o hbusy (fun x hx => (hrest x hx).1)
  have hend := finishWrites_first rest.length htook (hmore.symm.trans hlast) (fun x hx => (hrest x hx).2)
  rw [show rest.length + 1 = s.press.busy.length by rw [hbusy, List.length_cons]] at hend
  refine ⟨_, ends_kept ((flashProgramDone_of_write hop hwork).trans (congrArg pumpFlash hend)), ?_, fun i hi => ?_, ?_, ?_⟩
  · rw [press_kept, busy_pumpFlash, busy_finishWrite]
  · rw [mem_kept, mem_pumpFlash]
    refine mget_finishWrite _ ?_ ?_
    · exact hwf
    · exact hi
  · rw [press_kept, map_pumpFlash]
    exact tfind_finishWrite _ rfl
  · rw [press_kept, regions_pumpFlash, regions_finishWrite]
    rfl

end

/-! ### Retirement (R295) -/

section
variable (s : State) (b : Nat)

theorem eblock_retireBlock : (retireBlock s b).eblock b = { s.eblock b with retired := true, free := false, open_ := false, erasing := false } := by
  have hretired := eblock_modEblock_same s b (fun e => { e with retired := true, free := false, open_ := false, erasing := false })
  unfold retireBlock
  rw [eblock_checkSpare, ← hretired]
  dsimp only
  split <;> rfl

theorem map_retireBlock : (retireBlock s b).press.map = s.press.map := by
  unfold retireBlock
  rw [map_checkSpare]
  dsimp only
  split <;> rfl

theorem mem_retireBlock : (retireBlock s b).mem = s.mem := by
  unfold retireBlock
  rw [mem_checkSpare]
  dsimp only
  split <;> rfl

theorem flag_retireBlock {i : Nat} (h : s.press.events.flags.getLsbD i = true) : (retireBlock s b).press.events.flags.getLsbD i = true := by
  unfold retireBlock
  refine flag_checkSpare ?_
  dsimp only
  split <;> exact h

/-- A block whose program or erase failed is retired; the map and the memory stay, and the failure's event is set. -/
theorem retired_after_failure {bit : Nat} (hbit : bit < 32) (t : State) (ht : t = kept s (pumpFlash (retireBlock (flashEvent s bit) b))) :
    (t.eblock b).retired = true ∧ (t.eblock b).free = false ∧ t.press.map = s.press.map ∧ t.mem = s.mem ∧ t.press.events.flags.getLsbD bit = true := by
  subst ht
  have hblock := eblock_retireBlock (flashEvent s bit) b
  refine ⟨(retired_pumpFlash _ b).trans (congrArg (·.retired) hblock), (pumped_pumpFlash _).taken b (congrArg (·.free) hblock), (map_pumpFlash _).trans (map_retireBlock ..),
    (mem_pumpFlash _).trans (mem_retireBlock ..), ?_⟩
  rw [press_kept, pressEvents_pumpFlash]
  exact flag_retireBlock _ b (flag_raiseEv_same _ hbit)

end

end Sys2Proof.Machine
end

section
/-! The memory and tiers family (06_memory_tiers.md): moves, erases, page reads, the patrol and checkpoints of the flash, and the statement about flash commands and events. -/

namespace Sys2Proof.Machine

/-! ### The switch of a move (R293) -/

theorem eblock_kept (s t : State) : (kept s t).eblock = t.eblock := rfl

theorem eblock_startErase_same {s : State} {b : Nat} (h : (s.eblock b).retired = false) :
    (startErase s b).eblock b = { s.eblock b with units := [], open_ := false, free := false, erasing := true } := by
  rw [startErase, if_neg (by simp [h]), eblock_modEblock_same]

theorem eblock_startErase_other (s : State) {b c : Nat} (h : c ≠ b) : (startErase s b).eblock c = s.eblock c := by
  obtain ⟨f, heq, -⟩ := startErase_frame s b
  rw [heq, eblock_modEblock_other _ _ h]

/-- The state in which the map names the new pages of a move's units. -/
def switchUnits (s : State) (m : FlashMove) : State :=
  (stillThere s m).foldl (fun t x => mapUnit t x.1.1 x.1.2 x.2) (s.modEblock m.src (fun e => { e with open_ := true }))

/-- The state in which the blocks of a move are closed. -/
def closeMove (s : State) (m : FlashMove) : State :=
  ((switchUnits s m).modEblock m.dst (fun e => { e with open_ := false })).modEblock m.src (fun e => { e with open_ := false })

/-- The state in which the old block of a move is to be erased, and the new one where no unit went to it. -/
def eraseMoved (s : State) (m : FlashMove) : State :=
  if ((startErase (closeMove s m) m.src).eblock m.dst).units = [] then startErase (startErase (closeMove s m) m.src) m.dst else startErase (closeMove s m) m.src

theorem unswitched_closeMove (s : State) (m : FlashMove) : unswitched (closeMove s m) = unswitched s := by
  have hopen (t : State) (b : Nat) (o : Bool) : unswitched (t.modEblock b (fun e => { e with open_ := o })) = unswitched t :=
    unswitched_modEblock t b (fun _ => rfl)
  rw [closeMove, hopen, hopen, switchUnits, view_foldl unswitched (fun t (x : (Nat × Nat) × FlashPlace) => unswitched_mapUnit t x.1.1 x.1.2 x.2), hopen]

theorem unswitched_eraseMoved (s : State) (m : FlashMove) : unswitched (eraseMoved s m) = unswitched s := by
  unfold eraseMoved
  split
  · rw [unswitched_startErase, unswitched_startErase, unswitched_closeMove]
  · rw [unswitched_startErase, unswitched_closeMove]

theorem map_eraseMoved (s : State) (m : FlashMove) : (eraseMoved s m).press.map = (switchUnits s m).press.map := by
  unfold eraseMoved
  split
  · rw [map_startErase, map_startErase]
    rfl
  · rw [map_startErase]
    rfl

theorem beyondUnits_eraseMoved (s : State) (m : FlashMove) : beyondUnits (eraseMoved s m) = beyondUnits s := (congrArg Prod.fst (unswitched_eraseMoved s m) :)

section
variable (s : State) (m : FlashMove)

theorem mem_switchMove : (switchMove s m).mem = s.mem := (congrArg (·.mem) (beyondUnits_eraseMoved s m) :)
theorem refreshQ_switchMove : (switchMove s m).press.refreshQ = s.press.refreshQ := (congrArg (·.press.refreshQ) (beyondUnits_eraseMoved s m) :)
theorem refreshes_switchMove : (switchMove s m).press.refreshes = s.press.refreshes := (congrArg (·.press.refreshes) (beyondUnits_eraseMoved s m) :)
theorem map_switchMove : (switchMove s m).press.map = (switchUnits s m).press.map := map_eraseMoved s m
theorem eblock_switchMove : (switchMove s m).eblock = (eraseMoved s m).eblock := rfl

end

/-- The old block of a move, unless it is retired, is to be erased and holds nothing valid. -/
theorem eblock_eraseMoved_src {s : State} {m : FlashMove} (hne : m.src ≠ m.dst) (hretired : (s.eblock m.src).retired = false) :
    ((eraseMoved s m).eblock m.src).erasing = true ∧ ((eraseMoved s m).eblock m.src).units = [] := by
  have hclosed : ((closeMove s m).eblock m.src).retired = false := (congrFun (congrArg (·.2) (unswitched_closeMove s m)) m.src).trans hretired
  have herased := eblock_startErase_same hclosed
  unfold eraseMoved
  split
  · rw [eblock_startErase_other _ hne, herased]
    exact ⟨rfl, rfl⟩
  · rw [herased]
    exact ⟨rfl, rfl⟩

/-- The map's key of a unit that a move placed. -/
def moveKey (x : (Nat × Nat) × FlashPlace) : Nat := unitKey x.1.1 x.1.2

theorem tfind_foldl_mapUnit_other {l : List ((Nat × Nat) × FlashPlace)} {key : Nat} (h : ∀ x ∈ l, key ≠ moveKey x) (s : State) :
    tfind (l.foldl (fun t x => mapUnit t x.1.1 x.1.2 x.2) s).press.map key = tfind s.press.map key := by
  induction l generalizing s with
  | nil => rfl
  | cons y l ih => rw [List.foldl_cons, ih (fun x hx => h x (List.mem_cons_of_mem _ hx)), tfind_mapUnit_other s y.2 (h y List.mem_cons_self)]

/-- Units with keys of their own are each where their move put them. -/
theorem tfind_foldl_mapUnit_mem {l : List ((Nat × Nat) × FlashPlace)} (hnodup : (l.map moveKey).Nodup) {x : (Nat × Nat) × FlashPlace} (hx : x ∈ l) (s : State) :
    tfind (l.foldl (fun t x => mapUnit t x.1.1 x.1.2 x.2) s).press.map (moveKey x) = some x.2 := by
  induction l generalizing s with
  | nil => cases hx
  | cons y l ih =>
    obtain ⟨hfresh, htail⟩ := List.nodup_cons.mp hnodup
    rcases List.mem_cons.mp hx with rfl | hmem
    · rw [List.foldl_cons, tfind_foldl_mapUnit_other fun z hz heq => hfresh (List.mem_map.mpr ⟨z, hz, heq.symm⟩), moveKey, tfind_mapUnit_same]
    · exact ih htail hmem _

/-- A unit that still lies in the old block is on its new page (R293). -/
theorem tfind_switchUnits {s : State} {m : FlashMove} (hnodup : (m.placed.map moveKey).Nodup) {x : (Nat × Nat) × FlashPlace} (hx : x ∈ m.placed) {f : FlashPlace}
    (hf : tfind s.press.map (moveKey x) = some f) (hsrc : f.block = m.src) : tfind (switchUnits s m).press.map (moveKey x) = some x.2 := by
  have hstill : x ∈ stillThere s m := by
    refine List.mem_filter.mpr ⟨hx, ?_⟩
    rw [moveKey] at hf
    simp [hf, hsrc]
  exact tfind_foldl_mapUnit_mem (hnodup.sublist (List.filter_sublist.map _)) hstill _

/-! ### REFRESH_COMPLETE (R293, R295) -/

theorem refreshComplete_of_none {s : State} {b : Nat} (h : s.press.moves.find? (fun m => m.src == b) = none) : refreshComplete s b = s := by
  simp only [refreshComplete, h]

theorem refreshComplete_of_left {s : State} {b : Nat} {m : FlashMove} (h : s.press.moves.find? (fun m => m.src == b) = some m) (hleft : m.left ≠ []) :
    refreshComplete s b = s := by
  simp only [refreshComplete, h]
  exact if_pos hleft

/-- The move of a block leaves the queues, and its block those of refreshes and retirements. -/
def endMove (s : State) (b : Nat) : State :=
  { s with press.moves := s.press.moves.filter (fun x => x.src != b), press.refreshQ := s.press.refreshQ.filter (· != b), press.retireQ := s.press.retireQ.filter (· != b) }

/-- A refresh counted, with its event. -/
def countRefresh (s : State) (kind : MoveKind) : State := if kind = .refresh then flashEvent { s with press.refreshes := satInc s.press.refreshes } 0 else s

theorem refreshComplete_of_done {s : State} {b : Nat} {m : FlashMove} (h : s.press.moves.find? (fun m => m.src == b) = some m) (hleft : m.left = []) :
    refreshComplete s b = pumpFlash (checkSpare (countRefresh (switchMove (endMove s b) m) m.kind)) := by
  simp only [refreshComplete, h]
  exact if_neg (not_not_intro hleft)

/-- The state without what a refresh counts. -/
def beyondRefresh (s : State) : State := { s with press.refreshes := 0, press.events := {} }

theorem beyondRefresh_countRefresh (s : State) (kind : MoveKind) : beyondRefresh (countRefresh s kind) = beyondRefresh s := by
  unfold countRefresh
  split <;> rfl

section
variable (s : State) (kind : MoveKind)

theorem mem_countRefresh : (countRefresh s kind).mem = s.mem := (congrArg (·.mem) (beyondRefresh_countRefresh s kind) :)
theorem map_countRefresh : (countRefresh s kind).press.map = s.press.map := (congrArg (·.press.map) (beyondRefresh_countRefresh s kind) :)
theorem refreshQ_countRefresh : (countRefresh s kind).press.refreshQ = s.press.refreshQ := (congrArg (·.press.refreshQ) (beyondRefresh_countRefresh s kind) :)
theorem eblock_countRefresh : (countRefresh s kind).eblock = s.eblock := (congrArg State.eblock (beyondRefresh_countRefresh s kind) :)

end

theorem refreshes_countRefresh (s : State) (kind : MoveKind) :
    (countRefresh s kind).press.refreshes = if kind = .refresh then satInc s.press.refreshes else s.press.refreshes := by
  unfold countRefresh
  split <;> rfl

section
variable {s : State} {b : Nat} {m : FlashMove}

theorem refreshComplete_next (hfind : s.press.moves.find? (fun m => m.src == b) = some m) (hleft : m.left = []) (hne : m.src ≠ m.dst)
    (hnodup : (m.placed.map (fun x => unitKey x.1.1 x.1.2)).Nodup) :
    ∃ t, exec (.refreshComplete b) s = .next t ∧ t.press.refreshQ = s.press.refreshQ.filter (· != b) ∧
      t.press.refreshes = (if m.kind = .refresh then satInc s.press.refreshes else s.press.refreshes) ∧
      (∀ x ∈ m.placed, ∀ f, tfind s.press.map (unitKey x.1.1 x.1.2) = some f → f.block = b → tfind t.press.map (unitKey x.1.1 x.1.2) = some x.2) ∧ t.mem = s.mem ∧
      (m.kind = .refresh → t.press.events.flags.getLsbD 0 = true) ∧ ((s.eblock b).retired = false → (t.eblock b).erasing = true ∧ (t.eblock b).units = []) := by
  have hsrc : m.src = b := by simpa using List.find?_some hfind
  refine ⟨_, ends_kept (refreshComplete_of_done hfind hleft), ?_, ?_, fun x hx f hf hb => ?_, ?_, fun hkind => ?_, fun hretired => ?_⟩
  · rw [press_kept, refreshQ_pumpFlash, refreshQ_checkSpare, refreshQ_countRefresh, refreshQ_switchMove, endMove]
  · rw [press_kept, refreshes_pumpFlash, refreshes_checkSpare, refreshes_countRefresh, refreshes_switchMove, endMove]
  · rw [press_kept, map_pumpFlash, map_checkSpare, map_countRefresh, map_switchMove]
    exact tfind_switchUnits (s := endMove s b) hnodup hx hf (hb.trans hsrc.symm)
  · rw [mem_kept, mem_pumpFlash, mem_checkSpare, mem_countRefresh, mem_switchMove, endMove]
  · rw [press_kept, pressEvents_pumpFlash]
    refine flag_checkSpare ?_
    rw [countRefresh, if_pos hkind]
    exact flag_raiseEv_same _ (by decide)
  · subst hsrc
    obtain ⟨herasing, hunits⟩ := eblock_eraseMoved_src (s := endMove s m.src) hne hretired
    rw [eblock_kept, erasing_pumpFlash, units_pumpFlash, eblock_checkSpare, eblock_countRefresh, eblock_switchMove]
    exact ⟨herasing, hunits⟩

end

/-! ### FLASH_ERASE_DONE (R293, R295) -/

theorem flashEraseDone_of_none {s : State} {b : Nat} (ok : Bool) (h : opOn s b = none) : flashEraseDone s b ok = s := by simp only [flashEraseDone, h]

/-- A block erased: it is free, its read counter at 0 and its erases counted. -/
def erased (e : EBlock) : EBlock := { e with erasing := false, free := true, open_ := false, erases := e.erases + 1, reads := 0, pages := [], units := [] }

/-- The state in which an erase has ended and its record is durable. -/
def eraseEnded (s : State) (b : Nat) (o : FlashOp) : State := checkSpare (journalRec ((endOp s o).modEblock b erased) (.erase b))

theorem flashEraseDone_of_erase {s : State} {b : Nat} {o : FlashOp} (h : opOn s b = some o) (hwork : o.work = .erase) :
    flashEraseDone s b true = pumpFlash (eraseEnded s b o) := by
  simp only [flashEraseDone, h, hwork, ne_eq, not_true_eq_false, if_false]
  rfl

theorem flashEraseDone_of_failed {s : State} {b : Nat} {o : FlashOp} (h : opOn s b = some o) (hwork : o.work = .erase) :
    flashEraseDone s b false = pumpFlash (retireBlock (flashEvent s 4) b) := by
  simp only [flashEraseDone, h, hwork, ne_eq, not_true_eq_false, if_false]
  rfl

theorem eblock_eraseEnded (s : State) (b : Nat) (o : FlashOp) : (eraseEnded s b o).eblock b = erased (s.eblock b) := by
  rw [eraseEnded, eblock_checkSpare]
  exact eblock_modEblock_same (endOp s o) b erased

theorem flashEraseDone_next {s : State} {b : Nat} {o : FlashOp} (hop : opOn s b = some o) (hwork : o.work = .erase) (hmoves : ∀ m ∈ s.press.moves, m.src ≠ b) :
    ∃ t, exec (.flashEraseDone b true) s = .next t ∧ (t.eblock b).erases = (s.eblock b).erases + 1 ∧ (t.eblock b).reads = 0 ∧ (t.eblock b).pages = [] ∧
      (t.eblock b).erasing = false ∧ t.mem = s.mem ∧ t.press.map = s.press.map ∧ t.press.regions = s.press.regions := by
  have hblock := eblock_eraseEnded s b o
  have hreads : ((pumpFlash (eraseEnded s b o)).eblock b).reads = ((eraseEnded s b o).eblock b).reads := by
    refine eblockReads_pumpFlash (fun m hm hsrc => ?_) (fun _ => by simp [mayMove, hblock, erased])
    rw [eraseEnded, moves_checkSpare] at hm
    exact absurd hsrc (hmoves m hm)
  refine ⟨_, ends_kept (flashEraseDone_of_erase hop hwork), (erases_pumpFlash _ b).trans (congrArg (·.erases) hblock), hreads.trans (congrArg (·.reads) hblock),
    (pages_pumpFlash _ b).trans (congrArg (·.pages) hblock), (erasing_pumpFlash _ b).trans (congrArg (·.erasing) hblock), ?_, ?_, ?_⟩
  · exact (mem_pumpFlash _).trans (mem_checkSpare _)
  · exact (map_pumpFlash _).trans (map_checkSpare _)
  · exact (regions_pumpFlash _).trans (regions_checkSpare _)

end Sys2Proof.Machine
end

section
/-! The memory and tiers family (06_memory_tiers.md): page reads, the patrol and checkpoints of the flash. -/

namespace Sys2Proof.Machine

/-! ### Page reads counted (R291, R295) -/

/-- The queue of refreshes after a page read of block `b`. -/
def refreshQAfter (s : State) (b : Nat) (r : FlashRead) : List Nat :=
  if wantsRefresh s r = true ∨ s.press.rdLimit.toNat ≤ (s.eblock b).reads + 1 then (if s.press.refreshQ.contains b then s.press.refreshQ else s.press.refreshQ ++ [b])
  else s.press.refreshQ

theorem queueRefresh_eq (s : State) (b : Nat) :
    queueRefresh s b = { s with press.refreshQ := if s.press.refreshQ.contains b then s.press.refreshQ else s.press.refreshQ ++ [b] } := by
  unfold queueRefresh
  split <;> rfl

/-- The counters of a page read and of its block. -/
def countBlockRead (s : State) (b : Nat) (r : FlashRead) : State := (countRead s none r).modEblock b (fun e => { e with reads := e.reads + 1 })

theorem eblock_countBlockRead (s : State) (b : Nat) (r : FlashRead) : (countBlockRead s b r).eblock b = { s.eblock b with reads := (s.eblock b).reads + 1 } :=
  eblock_modEblock_same (countRead s none r) b _

theorem countRead_some (s : State) (b : Nat) (r : FlashRead) : countRead s (some b) r =
    if wantsRefresh s r || decide (s.press.rdLimit.toNat ≤ ((countBlockRead s b r).eblock b).reads) then queueRefresh (countBlockRead s b r) b else countBlockRead s b r := rfl

theorem countRead_block (s : State) (b : Nat) (r : FlashRead) : countRead s (some b) r = { countBlockRead s b r with press.refreshQ := refreshQAfter s b r } := by
  simp only [countRead_some, eblock_countBlockRead, refreshQAfter, Bool.or_eq_true, decide_eq_true_eq]
  split
  · exact queueRefresh_eq ..
  · rfl

/-- A page read off the queue and counted, with the patrol's event where the page wants a refresh. -/
def pageCounted (s : State) (q : PageRead) (r : FlashRead) : State :=
  let s1 := countRead { s with press.readQ := s.press.readQ.erase q } q.eblock r
  if q.patrol && wantsRefresh s r then flashEvent s1 1 else s1

/-- A page read counted, with its events. -/
def pageNoted (s : State) (q : PageRead) (r : FlashRead) : State := if badCodewords r = 0 then pageCounted s q r else flashEvent (pageCounted s q r) 2

/-- A page read counted, with its events, and an uncorrectable one reported and its blocks POISONED. -/
def pageLanded (s : State) (q : PageRead) (r : FlashRead) : State :=
  if badCodewords r = 0 then pageCounted s q r
  else (pagePoisons (pageCounted s q r) q).foldl (fun t e => match (t.block e.1 e.2).state with | .home | .fetching => poisonBlock t e.1 e.2 | _ => t)
    (report (flashEvent (pageCounted s q r) 2) 0x060B (initId 6 0) (if q.patrol then 64 else q.part))

section
variable {s : State} {region unit : Nat} {q : PageRead}

theorem flashPageLanded_of_find (r : FlashRead) (hready : s.press.ready = true) (hfind : s.press.readQ.find? (fun q => q.issued && q.region == region && q.unit == unit) = some q) :
    flashPageLanded s region unit r = settle (pumpFlash (pageLanded s q r)) := by
  unfold flashPageLanded
  rw [hfind]
  exact if_neg (by simp [hready])

theorem flashPageLanded_of_none (r : FlashRead) (hfind : s.press.readQ.find? (fun q => q.issued && q.region == region && q.unit == unit) = none) :
    flashPageLanded s region unit r = s := by
  simp [flashPageLanded, hfind]

end

section
variable (s : State) (q : PageRead) (r : FlashRead)

theorem durable_pageLanded : durable (pageLanded s q r) = durable (pageNoted s q r) := by
  unfold pageLanded pageNoted
  split
  · rfl
  · refine (view_foldl durable (fun t e => ?_) _ _).trans (durable_report ..)
    split
    · exact durable_poisonBlock ..
    · exact durable_poisonBlock ..
    · rfl

/-- The state but for the Press's event register. -/
def beyondNotes (s : State) : State := { s with press.events := {} }

theorem beyondNotes_pageNoted : beyondNotes (pageNoted s q r) = beyondNotes (countRead { s with press.readQ := s.press.readQ.erase q } q.eblock r) := by
  unfold pageNoted pageCounted
  dsimp only
  split <;> split <;> rfl

theorem flag_pageNoted_bad (hbad : badCodewords r ≠ 0) : (pageNoted s q r).press.events.flags.getLsbD 2 = true := by
  rw [pageNoted, if_neg hbad]
  exact flag_raiseEv_same _ (by decide)

theorem flag_pageNoted_patrol (hpatrol : q.patrol = true) (hwants : wantsRefresh s r = true) : (pageNoted s q r).press.events.flags.getLsbD 1 = true := by
  have hcounted : (pageCounted s q r).press.events.flags.getLsbD 1 = true := by
    rw [pageCounted, hpatrol, hwants]
    exact flag_raiseEv_same _ (by decide)
  unfold pageNoted
  split
  · exact hcounted
  · exact flag_raiseEv_of_set 2 hcounted

end

/-- Whether a move of a block may begin is a matter of the Press alone, and not of its page reads. -/
theorem mayMove_of_durable {s t : State} (h : durable t = durable s) (b : Nat) : mayMove t b = mayMove s b :=
  (congrArg (fun d : Press × Mem => mayMove { s with press := d.1 } b) h :)

/-- A block of which nothing is known holds nothing that could move. -/
theorem mayMove_of_listed {s : State} (h : ∀ e ∈ s.press.eblocks.map (·.1), mayMove s e = false) (b : Nat) : mayMove s b = false := by
  rcases tget_eq_or_mem ({} : EBlock) s.press.eblocks b with hnew | hmem
  · have hblock : s.eblock b = {} := hnew
    simp [mayMove, hblock]
  · exact h b (List.mem_map_of_mem hmem)

/-! ### FLASH_PAGE_LANDED (R291, R292, R295) -/

/-- What neither the pump of the flash nor the memory's progress changes of the Press's books of reads. -/
def readBooks (s : State) : W32 × W32 × EventReg × Tbl FlashPlace × List Nat × Mem :=
  (s.press.retries, s.press.uncorr, s.press.events, s.press.map, s.press.refreshQ, s.mem.t4)

theorem readBooks_of_durable {s t : State} (h : durable t = durable s) : readBooks t = readBooks s :=
  (congrArg (fun d : Press × Mem => (d.1.retries, d.1.uncorr, d.1.events, d.1.map, d.1.refreshQ, d.2)) h :)

theorem readBooks_pumpFlash (s : State) : readBooks (pumpFlash s) = readBooks s := eq_of_beyondPump readBooks (pumped_pumpFlash s).rest (fun _ => rfl)

section
variable {s : State} {q : PageRead} {b : Nat} (hblock : q.eblock = some b) (r : FlashRead)

include hblock in
/-- What a page read counts. -/
theorem beyondNotes_pageNoted_block : beyondNotes (pageNoted s q r) = beyondNotes
    { countBlockRead { s with press.readQ := s.press.readQ.erase q } b r with press.refreshQ := refreshQAfter s b r } := by
  rw [beyondNotes_pageNoted, hblock, countRead_block]
  rfl

include hblock in
theorem eblock_pageNoted : (pageNoted s q r).eblock = (s.modEblock b (fun e => { e with reads := e.reads + 1 })).eblock :=
  (congrArg State.eblock (beyondNotes_pageNoted_block hblock r) :)

include hblock in
theorem moves_pageNoted : (pageNoted s q r).press.moves = s.press.moves := (congrArg (·.press.moves) (beyondNotes_pageNoted_block hblock r) :)

include hblock in
theorem reads_pageNoted : (pageNoted s q r).press.reads = s.press.reads + 1 := (congrArg (·.press.reads) (beyondNotes_pageNoted_block hblock r) :)

include hblock in
theorem retries_pageNoted : (pageNoted s q r).press.retries = satAdd s.press.retries (((codewords r).map stageUses).sum) :=
  (congrArg (·.press.retries) (beyondNotes_pageNoted_block hblock r) :)

include hblock in
theorem uncorr_pageNoted : (pageNoted s q r).press.uncorr = satAdd s.press.uncorr (badCodewords r) := (congrArg (·.press.uncorr) (beyondNotes_pageNoted_block hblock r) :)

include hblock in
theorem map_pageNoted : (pageNoted s q r).press.map = s.press.map := (congrArg (·.press.map) (beyondNotes_pageNoted_block hblock r) :)

include hblock in
theorem t4_pageNoted : (pageNoted s q r).mem.t4 = s.mem.t4 := (congrArg (·.mem.t4) (beyondNotes_pageNoted_block hblock r) :)

include hblock in
theorem refreshQ_pageNoted : (pageNoted s q r).press.refreshQ = refreshQAfter s b r := (congrArg (·.press.refreshQ) (beyondNotes_pageNoted_block hblock r) :)

include hblock in
theorem mayMove_pageNoted (c : Nat) : mayMove (pageNoted s q r) c = mayMove s c := by
  have hview := eblock_modEblock_view (fun e => (e.units, e.open_, e.retired)) s b (f := fun e => { e with reads := e.reads + 1 }) (fun _ => rfl) c
  simp only [Prod.mk.injEq] at hview
  obtain ⟨hunits, hopen, hretired⟩ := hview
  simp only [mayMove, eblock_pageNoted hblock, moves_pageNoted hblock, hunits, hopen, hretired]

/-- The state after a page has landed. -/
def landedEnd (s : State) (q : PageRead) (r : FlashRead) : State := settle (pumpFlash (pageLanded s q r))

theorem readBooks_landedEnd (s : State) (q : PageRead) (r : FlashRead) : readBooks (landedEnd s q r) = readBooks (pageNoted s q r) := by
  rw [landedEnd, readBooks_of_durable (durable_settle _), readBooks_pumpFlash, readBooks_of_durable (durable_pageLanded ..)]

theorem reads_of_durable {s t : State} (h : durable t = durable s) : t.press.reads = s.press.reads := (congrArg (·.1.reads) h :)

theorem eblock_of_durable {s t : State} (h : durable t = durable s) : t.eblock = s.eblock := (congrArg (fun d : Press × Mem => tget ({} : EBlock) d.1.eblocks) h :)

theorem moves_of_durable {s t : State} (h : durable t = durable s) : t.press.moves = s.press.moves := (congrArg (·.1.moves) h :)

include hblock in
/-- No move copies pages when a page has landed, where none did before and none may begin. -/
theorem idle_pageLanded (hleft : ∀ m ∈ s.press.moves, m.left = []) (hmay : s.press.moves = [] → ∀ e ∈ s.press.eblocks.map (·.1), mayMove s e = false) :
    (∀ m ∈ (pageLanded s q r).press.moves, m.left = []) ∧ ((pageLanded s q r).press.moves = [] → ∀ c, mayMove (pageLanded s q r) c = false) := by
  have hlanded := durable_pageLanded s q r
  rw [moves_of_durable hlanded, moves_pageNoted hblock]
  refine ⟨hleft, fun hnone c => ?_⟩
  rw [mayMove_of_durable hlanded, mayMove_pageNoted hblock]
  exact mayMove_of_listed (hmay hnone) c

include hblock in
theorem flashPageLanded_next {region : Fin 64} {unit : Nat} (hready : s.press.ready = true)
    (hfind : s.press.readQ.find? (fun q => q.issued && q.region == region.val && q.unit == unit) = some q) (hleft : ∀ m ∈ s.press.moves, m.left = [])
    (hmay : s.press.moves = [] → ∀ e ∈ s.press.eblocks.map (·.1), mayMove s e = false) :
    ∃ t, exec (.flashPageLanded region unit r) s = .next t ∧ t.press.reads = s.press.reads + 1 ∧
      t.press.retries = satAdd s.press.retries (((codewords r).map stageUses).sum) ∧ t.press.uncorr = satAdd s.press.uncorr (badCodewords r) ∧ (t.eblock b).reads = (s.eblock b).reads + 1 ∧
      t.press.map = s.press.map ∧ t.mem.t4 = s.mem.t4 ∧ (badCodewords r ≠ 0 → t.press.events.flags.getLsbD 2 = true) ∧
      (q.patrol = true → wantsRefresh s r = true → t.press.events.flags.getLsbD 1 = true) ∧ t.press.refreshQ = refreshQAfter s b r := by
  obtain ⟨hcopies, hbegin⟩ := idle_pageLanded hblock r hleft hmay
  have hend := durable_settle (pumpFlash (pageLanded s q r))
  have hlanded := durable_pageLanded s q r
  have hbooks := readBooks_landedEnd s q r
  simp only [readBooks, Prod.mk.injEq] at hbooks
  obtain ⟨hretries, huncorr, hevents, hmap, hqueue, ht4⟩ := hbooks
  refine ⟨kept s (landedEnd s q r), ends_kept (flashPageLanded_of_find r hready hfind), ?_, ?_, ?_, ?_, ?_, ?_, fun hbad => ?_, fun hpatrol hwants => ?_, ?_⟩
  · rw [press_kept, landedEnd, reads_of_durable hend, reads_pumpFlash hcopies hbegin, reads_of_durable hlanded, reads_pageNoted hblock]
  · rw [press_kept, hretries, retries_pageNoted hblock]
  · rw [press_kept, huncorr, uncorr_pageNoted hblock]
  · rw [eblock_kept, landedEnd, eblock_of_durable hend, eblockReads_pumpFlash (fun m hm _ => hcopies m hm) (fun hnone => hbegin hnone b), eblock_of_durable hlanded,
      eblock_pageNoted hblock, eblock_modEblock_same]
  · rw [press_kept, hmap, map_pageNoted hblock]
  · rw [mem_kept, ht4, t4_pageNoted hblock]
  · rw [press_kept, hevents, flag_pageNoted_bad s q r hbad]
  · rw [press_kept, hevents, flag_pageNoted_patrol s q r hpatrol hwants]
  · rw [press_kept, hqueue, refreshQ_pageNoted hblock]

end

/-! ### PATROL_TICK (R294) -/

/-- The keys of the valid pages of a channel whose LUNs wait for no read of a higher rank. -/
def patrolKeys (s : State) (ch : Nat) : List Nat := ((validPages s ch).filter (fun e => !(busyLuns s).contains (placeLun e.2))).map (·.1)

/-- The key at which a channel's patrol goes on: the first from its place, or the first of all. -/
def patrolNext (s : State) (ch : Nat) : Option Nat := ((patrolKeys s ch).find? (fun x => decide (tget 0 s.press.patrolAt ch ≤ x))).or (patrolKeys s ch).head?

/-- The patrol's read of a unit. -/
def patrolRead (s : State) (x : Nat) : PageRead :=
  { part := 0x3F, block := 0, region := x / 2 ^ 28, unit := x % 2 ^ 28, rank := 6, patrol := true, eblock := (tfind s.press.map x).map (·.block) }

theorem unitKey_patrolRead (s : State) (x : Nat) : unitKey (patrolRead s x).region (patrolRead s x).unit = x := Nat.div_add_mod' x (2 ^ 28)

/-- The patrol of a channel at unit `x`. -/
def patrolled (s : State) (ch x : Nat) : State :=
  { s with press.patrolAt := tset s.press.patrolAt ch (x + 1), press.patrolTs := tset s.press.patrolTs ch s.ts.toNat, press.readQ := s.press.readQ ++ [patrolRead s x] }

section
variable {s : State} {ch : Nat}

theorem patrolTick_due (hready : s.press.ready = true) (hstate : s.spr.pstate = .a) (hnone : ∀ q ∈ s.press.readQ, q.patrol = false)
    (hdue : tget 0 s.press.patrolTs ch + patrolStep s ch ≤ s.ts.toNat) : patrolTick s ch = (patrolNext s ch).elim s (fun x => pumpFlash (patrolled s ch x)) := by
  unfold patrolTick
  rw [if_neg]
  · cases hnext : patrolNext s ch with
    | none =>
      unfold patrolNext patrolKeys at hnext
      dsimp only
      rw [hnext]
      rfl
    | some x =>
      unfold patrolNext patrolKeys at hnext
      dsimp only
      rw [hnext]
      rfl
  · simp only [hready, hstate, Bool.or_eq_true, List.any_eq_true, decide_eq_true_eq, Nat.not_lt.mpr hdue]
    rintro (((h | h) | ⟨q, hq, hpatrol⟩) | h)
    · cases h
    · exact absurd h (by decide)
    · simp [hnone q hq] at hpatrol
    · exact h

/-- The patrol's read stands in the queue, whether the LUN has it yet or not. -/
theorem patrolRead_mem (x : Nat) : ∃ r ∈ (pumpFlash (patrolled s ch x)).press.readQ, r.patrol = true ∧ r.rank = 6 ∧ unitKey r.region r.unit = x := by
  have hmem : unissued (patrolRead s x) ∈ (pumpFlash (patrolled s ch x)).press.readQ.map unissued := by
    rw [readQ_pumpFlash]
    exact List.mem_map_of_mem (List.mem_append_right _ List.mem_cons_self)
  obtain ⟨r, hr, heq⟩ := List.mem_map.mp hmem
  refine ⟨r, hr, (congrArg (·.patrol) heq :), (congrArg (·.rank) heq :), ?_⟩
  rw [← unitKey_patrolRead s x]
  exact (congrArg (fun q : PageRead => unitKey q.region q.unit) heq :)

end

section
variable {s : State} {ch : Fin 16} {now : W64}

theorem patrolTick_next (hready : s.press.ready = true) (hnow : s.ts.toNat ≤ now.toNat) (hstate : s.spr.pstate = .a) (hnone : ∀ q ∈ s.press.readQ, q.patrol = false)
    (hdue : tget 0 s.press.patrolTs ch.val + patrolStep s ch.val ≤ now.toNat) :
    (patrolKeys s ch.val = [] → exec (.patrolTick ch now) s = .next { s with ts := now }) ∧
    (∀ x, patrolNext s ch.val = some x → ∃ t, exec (.patrolTick ch now) s = .next t ∧ t.press.patrolAt = tset s.press.patrolAt ch.val (x + 1) ∧
      t.press.patrolTs = tset s.press.patrolTs ch.val now.toNat ∧ (∃ r ∈ t.press.readQ, r.patrol = true ∧ r.rank = 6 ∧ unitKey r.region r.unit = x) ∧ t.mem = s.mem ∧ t.press.map = s.press.map) := by
  have htick : patrolTick { s with ts := now } ch.val = (patrolNext s ch.val).elim { s with ts := now } (fun x => pumpFlash (patrolled { s with ts := now } ch.val x)) :=
    patrolTick_due hready hstate hnone hdue
  have hexec := endsAt_of_eq (f := fun u => patrolTick u ch.val) hnow htick
  refine ⟨fun hkeys => ?_, fun x hx => ?_⟩
  · have hnext : patrolNext s ch.val = none := by
      rw [patrolNext, hkeys]
      rfl
    rw [hnext] at hexec
    exact hexec
  · rw [hx] at hexec
    refine ⟨_, hexec, ?_, ?_, patrolRead_mem x, ?_, ?_⟩
    · exact patrolAt_pumpFlash (patrolled { s with ts := now } ch.val x)
    · exact patrolTs_pumpFlash (patrolled { s with ts := now } ch.val x)
    · exact mem_pumpFlash (patrolled { s with ts := now } ch.val x)
    · exact map_pumpFlash (patrolled { s with ts := now } ch.val x)

end

/-! ### CHECKPOINT_DUE (R296) -/

section
variable {s : State} {now : W64}

/-- The checkpoint that a state gives, its CRC over its bytes. -/
def checkpointOf (s : State) (crc : W32) : Checkpoint :=
  { seq := s.press.journalSeq, map := s.press.map, blocks := s.press.eblocks, counts := (s.press.reads, s.press.refreshes, s.press.retries, s.press.uncorr), crc := crc }

/-- The checkpoint that a state takes, its CRC over its bytes. -/
def sealedCheckpoint (s : State) : Checkpoint := checkpointOf s (crc32 (checkpointBytes (checkpointOf s 0)))

theorem good_sealedCheckpoint (s : State) : (sealedCheckpoint s).good = true := beq_self_eq_true (crc32 (checkpointBytes (checkpointOf s 0)))

theorem exec_checkpointDue (s : State) (now : W64) : exec (.checkpointDue now) s = execCheckpointDue now s := rfl

theorem checkpointDue_due (hready : s.press.ready = true) (hnow : s.ts.toNat ≤ now.toNat) (hdue : 1024 ≤ sinceCkpt s ∨ s.press.lastCkpt.toNat + 600000000000 ≤ now.toNat) :
    exec (.checkpointDue now) s = .next (kept s (checkpoint { s with ts := now })) := by
  rw [exec_checkpointDue]
  unfold execCheckpointDue
  exact endsAt_of_eq hnow (if_pos ⟨hready, hdue⟩)

theorem checkpointDue_next (hready : s.press.ready = true) (hnow : s.ts.toNat ≤ now.toNat) (hdue : 1024 ≤ sinceCkpt s ∨ s.press.lastCkpt.toNat + 600000000000 ≤ now.toNat) :
    ∃ (t : State) (c : Checkpoint), exec (.checkpointDue now) s = .next t ∧ t.press.ckpts = c :: s.press.ckpts.take 1 ∧ c.good = true ∧ c.map = s.press.map ∧
      c.blocks = s.press.eblocks ∧ c.seq = s.press.journalSeq ∧ t.press.lastCkpt = now ∧ t.press.map = s.press.map ∧ t.mem = s.mem ∧ t.ts = now :=
  ⟨_, sealedCheckpoint s, checkpointDue_due hready hnow hdue, rfl, good_sealedCheckpoint s, rfl, rfl, rfl, rfl, rfl, rfl, rfl⟩

theorem checkpointDue_early (hnow : s.ts.toNat ≤ now.toNat) (hrecords : sinceCkpt s < 1024) (htime : now.toNat < s.press.lastCkpt.toNat + 600000000000) :
    exec (.checkpointDue now) s = .next { s with ts := now } := by
  have hearly : ¬(s.press.ready ∧ (1024 ≤ sinceCkpt s ∨ s.press.lastCkpt.toNat + 600000000000 ≤ now.toNat)) := fun ⟨_, hdue⟩ => hdue.elim hrecords.not_ge htime.not_ge
  rw [exec_checkpointDue]
  unfold execCheckpointDue
  refine (endsAt_of_eq (t := { s with ts := now }) hnow ?_).trans rfl
  exact if_neg hearly

end

end Sys2Proof.Machine
end

section
/-! The memory and tiers family (06_memory_tiers.md): the statement about flash commands and events. -/

namespace Sys2Proof.Machine

/-! ### Flash commands and events together (R290 to R296, R422, R439) -/

theorem flashProgramDone_failed {s : State} {b : Nat} {o : FlashOp} (hop : opOn s b = some o) (hwork : o.work ≠ .erase) :
    ∃ t, exec (.flashProgramDone b false) s = .next t ∧ (t.eblock b).retired = true ∧ (t.eblock b).free = false ∧ t.press.map = s.press.map ∧ t.mem = s.mem ∧
      t.press.events.flags.getLsbD 3 = true :=
  ⟨_, ends_kept (flashProgramDone_of_failed hop hwork), retired_after_failure s b (by decide) _ rfl⟩

theorem flashEraseDone_failed {s : State} {b : Nat} {o : FlashOp} (hop : opOn s b = some o) (hwork : o.work = .erase) :
    ∃ t, exec (.flashEraseDone b false) s = .next t ∧ (t.eblock b).retired = true ∧ (t.eblock b).free = false ∧ t.press.map = s.press.map ∧
      t.press.events.flags.getLsbD 4 = true := by
  obtain ⟨hretired, hfree, hmap, -, hevent⟩ := retired_after_failure s b (bit := 4) (by decide) _ rfl
  exact ⟨_, ends_kept (flashEraseDone_of_failed hop hwork), hretired, hfree, hmap, hevent⟩

/-- Settles O40: the commands in the hand by the region and write each builds, the Press's events by the frame of its pump and of what a write, a read, a move or an erase changes. -/
theorem flashCommandsAndEvents : Obligations.FlashCommandsAndEvents := by
  refine ⟨fun s p k hright => ⟨?_, ?_, ?_, ?_, ?_⟩, fun s hready => ⟨?_, ?_, ?_, ?_, ?_, ?_, ?_, ?_⟩⟩
  · exact fun r n old hstarts hform hr hn hold hr64 hn26 hroom => regionSet_next hright hstarts hform hr hn hold hr64 hn26 hroom
  · exact fun r n hstarts hform hr hn hn0 => regionErase_next hright hstarts hform hr hn hn0
  · exact fun r first len hstarts hform haddr hr hfirst hlen hregion hwhole hsome hend hmapped hclean =>
      flashWrite_next hright hstarts hform haddr hr hfirst hlen hregion hwhole hsome hend hmapped hclean
  · refine fun b o _ hop => ⟨fun w rest u more hbusy hwork hmore hrest => ⟨?_, ?_⟩, flashProgramDone_failed hop⟩
    · exact flashProgramDone_more hop hbusy hwork hmore hrest
    · exact flashProgramDone_last hop hbusy hwork hmore hrest
  · exact fun b ok hop => ends_of_eq (flashProgramDone_of_none ok hop) rfl rfl
  · exact fun region unit r q b hfind hblock hleft hmay => flashPageLanded_next hblock r hready hfind hleft hmay
  · exact fun region unit r hfind => ends_of_eq (flashPageLanded_of_none r hfind) rfl rfl
  · refine fun b m hfind => ⟨fun hleft hne hnodup => ?_, fun hleft => ?_⟩
    · exact refreshComplete_next hfind hleft hne hnodup
    · exact ends_of_eq (refreshComplete_of_left hfind hleft) rfl rfl
  · exact fun b hfind => ends_of_eq (refreshComplete_of_none hfind) rfl rfl
  · refine fun b o hop hwork => ⟨fun hmoves => ?_, ?_⟩
    · exact flashEraseDone_next hop hwork hmoves
    · exact flashEraseDone_failed hop hwork
  · exact fun b ok hop => ends_of_eq (flashEraseDone_of_none ok hop) rfl rfl
  · intro ch now keys hnow hstate hnone hdue hkeys
    subst hkeys
    exact patrolTick_next hready hnow hstate hnone hdue
  · refine fun now hnow => ⟨fun hdue => ?_, fun hrecords htime => ?_⟩
    · exact checkpointDue_next hready hnow hdue
    · exact checkpointDue_early hnow hrecords htime

end Sys2Proof.Machine
end

section
/-! What accesses to device memory and replies leave as it was, the registers of the port group and the management port's answer among it: views of the state that keep the ports but for their credits and queues. -/

namespace Sys2Proof.Machine

/-- The state without its memory tiers, the Press and the credits of the ports: what no access to device memory changes. -/
def besideMem (s : State) : State := { s with mem := {}, press := {}, ports.credits := [] }

@[simp] theorem besideMem_with_mem (s : State) (m : MemTiers) : besideMem { s with mem := m } = besideMem s := rfl
@[simp] theorem besideMem_with_press (s : State) (q : Press) : besideMem { s with press := q } = besideMem s := rfl

/-! ### Counters, ports and the Press -/

@[simp] theorem besideMem_sealLine (s : State) (line : Nat) : besideMem (sealLine s line) = besideMem s := by
  obtain ⟨m, h, -⟩ := sealLine_frame s line
  rw [h, besideMem_with_mem]

@[simp] theorem besideMem_sealTree (s : State) (n : Nat) : besideMem (sealTree s n) = besideMem s := by
  obtain ⟨m, h, -⟩ := sealTree_frame s n
  rw [h, besideMem_with_mem]

@[simp] theorem besideMem_setBlock (s : State) (p b : Nat) (v : Block) : besideMem (s.setBlock p b v) = besideMem s := by
  obtain ⟨m, h, -⟩ := setBlock_frame s p b v
  rw [h, besideMem_with_mem]

@[simp] theorem besideMem_modBlock (s : State) (p b : Nat) (f : Block → Block) : besideMem (s.modBlock p b f) = besideMem s :=
  besideMem_setBlock ..

@[simp] theorem besideMem_memEvent (s : State) (bit : Nat) : besideMem (memEvent s bit) = besideMem s := rfl

theorem besideMem_pumpMemAux (port n : Nat) (s : State) : besideMem (pumpMemAux port n s) = besideMem s := by
  induction n generalizing s with
  | zero => rfl
  | succ n ih =>
    unfold pumpMemAux
    split
    · exact (ih _).trans rfl
    · rfl

@[simp] theorem besideMem_pumpMem (s : State) (port : Nat) : besideMem (pumpMem s port) = besideMem s := by
  unfold pumpMem
  split
  · rfl
  · exact besideMem_pumpMemAux ..

@[simp] theorem besideMem_holdMem (s : State) (port p : Nat) (rs : List MemReq) : besideMem (holdMem s port p rs) = besideMem s :=
  (besideMem_pumpMem ..).trans rfl

@[simp] theorem besideMem_ccTouch (s : State) (port p n : Nat) : besideMem (ccTouch s port p n) = besideMem s := by
  unfold ccTouch
  dsimp only
  split
  · rfl
  · exact (besideMem_holdMem ..).trans rfl

@[simp] theorem besideMem_sealWrite (s : State) (port p addr len : Nat) : besideMem (sealWrite s port p addr len) = besideMem s := by
  refine (view_foldl besideMem (fun t b => ?_) _ _).trans (view_foldl besideMem besideMem_sealLine _ _)
  rw [besideMem_ccTouch, besideMem_sealTree]

@[simp] theorem besideMem_askPort (s : State) (port : Nat) (write copy : Bool) (p b addr rank : Nat) (cls : SClass) (secs : List Nat) (deadline : Nat) :
    besideMem (askPort s port write copy p b addr rank cls secs deadline) = besideMem s := besideMem_holdMem ..

@[simp] theorem besideMem_askMem (s : State) (p b : Nat) (r : Resident) (write : Bool) (mask : BitVec 16) (first rank : Nat) (cls : SClass) (deadline : Nat) :
    besideMem (askMem s p b r write mask first rank cls deadline) = besideMem s := by
  unfold askMem
  dsimp only
  split <;> simp

@[simp] theorem besideMem_askCopy (s : State) (p b addr : Nat) (write : Bool) (mask : BitVec 16) (rank : Nat) (cls : SClass) :
    besideMem (askCopy s p b addr write mask rank cls) = besideMem s := besideMem_askPort ..

@[simp] theorem besideMem_askBytes (s : State) (p b addr off len rank : Nat) (cls : SClass) : besideMem (askBytes s p b addr off len rank cls) = besideMem s :=
  besideMem_holdMem ..

theorem besideMem_pumpPressAux (n : Nat) (s : State) : besideMem (pumpPressAux n s) = besideMem s := by
  induction n generalizing s with
  | zero => rfl
  | succ n ih =>
    unfold pumpPressAux
    dsimp only
    split
    · rfl
    · refine (ih _).trans ?_
      rw [besideMem_with_press]
      split
      · split <;> rfl
      · rfl

@[simp] theorem besideMem_pumpPress (s : State) : besideMem (pumpPress s) = besideMem s := by
  unfold pumpPress
  split
  · exact besideMem_pumpPressAux ..
  · rfl

@[simp] theorem besideMem_askPress (s : State) (p b r k : Nat) (mask : BitVec 16) (first rank deadline : Nat) (cls : SClass) :
    besideMem (askPress s p b r k mask first rank deadline cls) = besideMem s := besideMem_pumpPress _

/-! ### Homes, copies and slots -/

@[simp] theorem besideMem_writeHome (s : State) (p b : Nat) (mask : BitVec 16) : besideMem (writeHome s p b mask) = besideMem s := by
  unfold writeHome
  dsimp only
  split
  · rw [besideMem_modBlock, besideMem_with_mem]
    exact view_foldl besideMem (fun _ _ => besideMem_sealWrite ..) _ _
  · rfl

@[simp] theorem besideMem_clearCopy (s : State) (r : Resident) : besideMem (clearCopy s r) = besideMem s := by
  unfold clearCopy
  split <;> rfl

@[simp] theorem besideMem_dropCopy (s : State) (p b : Nat) : besideMem (dropCopy s p b) = besideMem s := by
  unfold dropCopy
  dsimp only
  split
  · rfl
  · rw [besideMem_setBlock, besideMem_clearCopy]

@[simp] theorem besideMem_moveCopy (s : State) (p b : Nat) (dst : Resident) : besideMem (moveCopy s p b dst) = besideMem s := by
  unfold moveCopy
  dsimp only
  split <;> simp

@[simp] theorem besideMem_installNow (s : State) (p b : Nat) (r : Resident) : besideMem (installNow s p b r) = besideMem s := by
  unfold installNow
  dsimp only
  split
  · rfl
  · rw [besideMem_setBlock]
    split
    · split <;> rfl
    · rfl
    · rfl

@[simp] theorem besideMem_toCache (s : State) (p b : Nat) : besideMem (toCache s p b) = besideMem s := by
  unfold toCache
  extract_lets s1
  have hroom : besideMem s1 = besideMem s := by
    unfold s1
    split
    · rfl
    · split
      · split <;> simp
      · rfl
  split
  · rw [besideMem_askCopy, ← hroom]
    split <;> simp
  · rw [besideMem_dropCopy, hroom]

/-! ### Evictions and the search of a slot -/

@[simp] theorem besideMem_scrapCopy (s : State) (p b : Nat) : besideMem (scrapCopy s p b) = besideMem s :=
  (besideMem_setBlock ..).trans (besideMem_clearCopy ..)

@[simp] theorem besideMem_leaveNow (s : State) (p b : Nat) : besideMem (leaveNow s p b) = besideMem s := by
  unfold leaveNow
  dsimp only
  split
  · split <;> simp
  · split
    · split <;> simp
    · split <;> simp
    · rfl

@[simp] theorem besideMem_evictNow (s : State) (p b rank : Nat) (cls : SClass) : besideMem (evictNow s p b rank cls) = besideMem s := by
  unfold evictNow
  dsimp only
  split
  · rfl
  · split
    · rw [besideMem_leaveNow, besideMem_writeHome]
      split <;> simp
    · rw [besideMem_leaveNow, besideMem_with_mem]

@[simp] theorem besideMem_startEvict (s : State) (p b rank : Nat) (cls : SClass) : besideMem (startEvict s p b rank cls) = besideMem s := by
  unfold startEvict
  dsimp only
  split
  · rfl
  · split
    · rw [besideMem_askMem, besideMem_with_mem, besideMem_setBlock]
    · rw [besideMem_leaveNow, besideMem_with_mem]

theorem besideMem_of_makeT1 {s t : State} {p c sl : Nat} (h : makeT1 s p c = some (sl, t)) : besideMem t = besideMem s := by
  unfold makeT1 at h
  split at h
  · cases h
    rfl
  · split at h
    · obtain ⟨_, -, hq⟩ := Option.map_eq_some_iff.mp h
      cases hq
      exact besideMem_evictNow ..
    · cases h

theorem besideMem_of_makeT2 {s t : State} {p sl : Nat} (h : makeT2 s p = some (sl, t)) : besideMem t = besideMem s := by
  unfold makeT2 at h
  split at h
  · cases h
    rfl
  · split at h
    · obtain ⟨_, -, hq⟩ := Option.map_eq_some_iff.mp h
      cases hq
      exact besideMem_evictNow ..
    · cases h

/-- A slot found in T2, or the access that goes through without one. -/
theorem besideMem_makeSlot_none (s : State) (p : Nat) : besideMem (makeSlot s p none).2 = besideMem s := by
  unfold makeSlot
  dsimp only
  split
  · exact besideMem_of_makeT2 ‹_›
  · rfl

theorem besideMem_makeSlot (s : State) (p : Nat) (dest : Option Nat) : besideMem (makeSlot s p dest).2 = besideMem s := by
  cases dest with
  | none => exact besideMem_makeSlot_none s p
  | some c =>
    unfold makeSlot
    dsimp only
    split
    · exact besideMem_of_makeT1 ‹_›
    · exact besideMem_makeSlot_none s p

theorem besideMem_of_makeSlot {s t : State} {p : Nat} {dest : Option Nat} {r : Resident} (h : makeSlot s p dest = (r, t)) : besideMem t = besideMem s := by
  rw [← besideMem_makeSlot s p dest, h]

theorem besideMem_findIn (s : State) (p : Nat) (free : State → Option Resident) (tier : Resident → Bool) (claimed : List Nat) (rank : Nat) (cls : SClass) :
    besideMem (findIn s p free tier claimed rank cls).2 = besideMem s := by
  unfold findIn
  dsimp only
  split
  · rfl
  · split
    · rfl
    · split
      · rfl
      · split
        · exact besideMem_startEvict ..
        · split <;> exact besideMem_startEvict ..

theorem besideMem_findSlot (s : State) (p : Nat) (dest : Option Nat) (claimed : List Nat) (rank : Nat) (cls : SClass) :
    besideMem (findSlot s p dest claimed rank cls).2 = besideMem s := by
  unfold findSlot
  extract_lets t2
  have ht2 (t : State) : besideMem (t2 t).2 = besideMem t := besideMem_findIn ..
  cases dest with
  | none => exact ht2 s
  | some c =>
    have ht1 := besideMem_findIn s p (fun t => (freeT1 t p c).map (.t1 c)) (inT1 c) claimed rank cls
    dsimp only
    split
    next s1 heq => rw [ht2, ← ht1, heq]
    · exact ht1

theorem besideMem_of_findSlot {s t : State} {p rank : Nat} {dest : Option Nat} {claimed : List Nat} {cls : SClass} {r : SlotFound}
    (h : findSlot s p dest claimed rank cls = (r, t)) : besideMem t = besideMem s := by
  rw [← besideMem_findSlot s p dest claimed rank cls, h]

/-! ### Writes -/

@[simp] theorem besideMem_putCopy (s : State) (p b off : Nat) (bs : List Byte) (st : BlockState) : besideMem (putCopy s p b off bs st) = besideMem s := by
  unfold putCopy
  dsimp only
  split
  · rw [besideMem_setBlock, besideMem_with_mem]
  · rfl

@[simp] theorem besideMem_putHome (s : State) (p b off : Nat) (bs : List Byte) : besideMem (putHome s p b off bs) = besideMem s := by
  unfold putHome
  dsimp only
  split
  · rw [besideMem_setBlock, besideMem_with_mem, besideMem_sealWrite, besideMem_askBytes]
  · rfl

@[simp] theorem besideMem_landSector (s : State) (p b j : Nat) : besideMem (landSector s p b j) = besideMem s := by
  unfold landSector
  dsimp only
  split
  · rfl
  · split
    · rfl
    · rw [besideMem_setBlock]
      split
      · split <;> rfl
      · rfl
      · rfl

@[simp] theorem besideMem_writeFetching (s : State) (p b off : Nat) (bs : List Byte) : besideMem (writeFetching s p b off bs) = besideMem s := by
  unfold writeFetching
  rw [besideMem_putCopy, besideMem_modBlock]
  refine view_foldl besideMem (fun t j => ?_) _ _
  split
  · exact besideMem_landSector ..
  · rfl

@[simp] theorem besideMem_writeAlloc (s : State) (p b off : Nat) (bs : List Byte) (r : Resident) (cls : SClass) :
    besideMem (writeAlloc s p b off bs r cls) = besideMem s := by
  unfold writeAlloc
  dsimp only
  split
  · rw [besideMem_putCopy, besideMem_installNow]
  · rw [besideMem_writeFetching, besideMem_askMem, besideMem_with_mem, besideMem_setBlock, besideMem_clearCopy]

@[simp] theorem besideMem_noteOlder (s : State) (p b : Nat) (mask : BitVec 16) : besideMem (noteOlder s p b mask) = besideMem s := rfl

theorem besideMem_writeBlock (s : State) (p b off : Nat) (bs : List Byte) (dest : Option (Option Nat)) (host : Bool) :
    besideMem (writeBlock s p b off bs dest host).2 = besideMem s := by
  unfold writeBlock
  dsimp only
  split
  case h_1 => split <;> rfl
  case h_2 => rfl
  case h_3 => split <;> simp [besideMem_of_makeSlot ‹_›]
  case h_4 =>
    split
    · split
      · exact besideMem_putHome ..
      · split <;> simp [besideMem_of_makeSlot ‹_›]
    · rfl
  case h_5 => split <;> simp
  case h_6 | h_7 => split <;> simp
  case h_8 => simp
  case h_9 =>
    split
    · rfl
    · split
      · split
        · split <;> simp [besideMem_of_makeSlot ‹_›]
        · rfl
      · rfl

theorem besideMem_devWriteAux (p : Nat) (dest : Option (Option Nat)) (host : Bool) (blocks : List Nat) (addr : Nat) (bs : List Byte) (s : State) :
    besideMem (devWriteAux p dest host blocks addr bs s).2 = besideMem s := by
  induction blocks generalizing addr bs s with
  | nil => rfl
  | cons b rest ih =>
    have hblock := besideMem_writeBlock s p b (addr - b * blockBytes) (bs.take (min bs.length ((b + 1) * blockBytes - addr))) dest host
    unfold devWriteAux
    dsimp only
    split
    next s1 heq => rw [ih, ← hblock, heq]
    · exact hblock

@[simp] theorem besideMem_devPut (s : State) (p addr : Nat) (bs : List Byte) : besideMem (devPut s p addr bs) = besideMem s :=
  besideMem_devWriteAux ..

/-! ### The placement queue -/

@[simp] theorem besideMem_chargePlace (s : State) (r : PlaceReq) : besideMem (chargePlace s r) = besideMem s := by
  unfold chargePlace
  split <;> rfl

@[simp] theorem besideMem_holdPlace (s : State) (r : PlaceReq) : besideMem (holdPlace s r) = besideMem s := rfl
@[simp] theorem besideMem_raiseRank (s : State) (p b rank : Nat) (cls : SClass) : besideMem (raiseRank s p b rank cls) = besideMem s := rfl
@[simp] theorem besideMem_dropPlace (s : State) (p b : Nat) (kind : PlaceKind) : besideMem (dropPlace s p b kind) = besideMem s := rfl

@[simp] theorem besideMem_beginFetch (s : State) (r : PlaceReq) (res : Resident) : besideMem (beginFetch s r res) = besideMem s := by
  unfold beginFetch
  dsimp only
  split <;> simp

@[simp] theorem besideMem_serveFetch (s : State) (r : PlaceReq) : besideMem (serveFetch s r) = besideMem s := by
  unfold serveFetch
  extract_lets p waits
  split
  · split
    · rfl
    · split <;> simp [besideMem_of_findSlot ‹_›]
  · simp
  · rfl
  · simp

@[simp] theorem besideMem_serveFlush (s : State) (r : PlaceReq) : besideMem (serveFlush s r) = besideMem s := by
  unfold serveFlush
  dsimp only
  split <;> simp

theorem besideMem_pumpPlaceAux (n : Nat) (tried : List (Nat × Nat × PlaceKind)) (s : State) : besideMem (pumpPlaceAux n tried s) = besideMem s := by
  induction n generalizing tried s with
  | zero => rfl
  | succ n ih =>
    unfold pumpPlaceAux
    dsimp only
    split
    · rfl
    · rw [ih]
      split <;> simp

@[simp] theorem besideMem_pumpPlace (s : State) : besideMem (pumpPlace s) = besideMem s := besideMem_pumpPlaceAux ..

@[simp] theorem besideMem_requestFetch (s : State) (r : PlaceReq) : besideMem (requestFetch s r) = besideMem s := by
  unfold requestFetch
  dsimp only
  split
  · split <;> split <;> simp
  · split <;> split <;> simp
  · simp
  · rfl

@[simp] theorem besideMem_bringBlock (s : State) (q : PlaceReq) : besideMem (bringBlock s q) = besideMem s := by
  unfold bringBlock
  dsimp only
  split
  case h_1 | h_2 | h_3 => exact besideMem_requestFetch ..
  case h_4 =>
    split
    · rfl
    · split <;> simp [besideMem_of_makeSlot ‹_›]
  case h_5 | h_6 =>
    split
    · rfl
    · split
      · rfl
      · split
        · split <;> simp [besideMem_of_makeT1 ‹_›]
        · rfl
  case h_7 => rfl

@[simp] theorem besideMem_startWriteback (s : State) (p b rank : Nat) (cls : SClass) : besideMem (startWriteback s p b rank cls) = besideMem s := by
  unfold startWriteback
  dsimp only
  split <;> simp
/-! ### Replies, logs and interrupts -/

/-- The port group without its credits, its queues of responses and interrupt messages, and the in-band interrupt of reports. -/
def quietPorts (q : Ports) : Ports := { q with credits := [], hostQ := [], hostRsp := [], intQ := [], intOut := none, intSent := [], rptIbi := false }

/-- The state without memory, partitions, drawn values and the queues of the ports: what no reply, log entry or interrupt changes. -/
def besideReply (s : State) : State := { s with mem := {}, press := {}, parts := [], freeNo := 0, ports := quietPorts s.ports }

theorem besideReply_of_besideMem {s t : State} (h : besideMem t = besideMem s) : besideReply t = besideReply s := (congrArg besideReply h :)

@[simp] theorem besideReply_devPut (s : State) (p addr : Nat) (bs : List Byte) : besideReply (devPut s p addr bs) = besideReply s :=
  besideReply_of_besideMem (besideMem_devPut ..)

@[simp] theorem besideReply_modPart (s : State) (p : Nat) (f : Part → Part) : besideReply (s.modPart p f) = besideReply s := (rfl)
@[simp] theorem besideReply_draw (s : State) : besideReply s.draw = besideReply s := (rfl)

theorem besideReply_pumpInt (s : State) : besideReply (pumpInt s) = besideReply s := by
  unfold pumpInt
  split
  · split <;> rfl
  · rfl

theorem besideReply_sendVector (s : State) (p v : Nat) : besideReply (sendVector s p v) = besideReply s := besideReply_pumpInt _

@[simp] theorem besideReply_raiseVector (s : State) (p v : Nat) : besideReply (raiseVector s p v) = besideReply s := by
  unfold raiseVector
  dsimp only
  split
  · rfl
  · split
    · rfl
    · exact besideReply_sendVector ..

theorem besideReply_sendHeldVectors (s : State) (p : Nat) : besideReply (sendHeldVectors s p) = besideReply s := by
  unfold sendHeldVectors
  split
  · rfl
  · refine view_foldl besideReply (fun t v => ?_) _ _
    split
    · exact besideReply_sendVector ..
    · rfl

@[simp] theorem besideReply_partLog (s : State) (p code level tag : Nat) (args : List Byte) : besideReply (partLog s p code level tag args) = besideReply s := by
  unfold partLog
  dsimp only
  split
  · rfl
  · split <;> simp

@[simp] theorem besideReply_globalLog (s : State) (code level tag : Nat) (args : List Byte) : besideReply (globalLog s code level tag args) = besideReply s := by
  unfold globalLog
  dsimp only
  split
  · rfl
  · split <;> simp

theorem besideReply_globalNote (s : State) (kind : Nat) : besideReply (globalNote s kind) = besideReply s := by
  unfold globalNote
  split
  · rfl
  · rw [besideReply_draw, besideReply_globalLog]

@[simp] theorem besideReply_partNote (s : State) (p kind : Nat) : besideReply (partNote s p kind) = besideReply s := by
  unfold partNote
  split
  · rfl
  · rw [besideReply_draw, besideReply_partLog]

@[simp] theorem besideReply_writeEntry (s : State) (p : Nat) (c : Completion) : besideReply (writeEntry s p c) = besideReply s := by
  unfold writeEntry
  dsimp only
  split <;> simp

@[simp] theorem besideReply_complete (s : State) (p : Nat) (c : Completion) : besideReply (complete s p c) = besideReply s := by
  unfold complete
  dsimp only
  split
  · split
    · simp
    · split <;> simp
  · split <;> simp

@[simp] theorem besideReply_reply (s : State) (p : Nat) (k : Packet) (status : W16) (detail obj : W32) (state : Byte) :
    besideReply (reply s p k status detail obj state) = besideReply s := besideReply_complete ..

@[simp] theorem besideReply_replyLater (s : State) (d : Pend) (status : W16) (detail obj : W32) (state : Byte) :
    besideReply (replyLater s d status detail obj state) = besideReply s := besideReply_complete ..

theorem besideReply_settleWaits (s : State) : besideReply (settleWaits s) = besideReply s := by
  unfold settleWaits
  refine (view_foldl besideReply (fun t w => ?_) _ _).trans rfl
  split <;> simp

/-! ### Drains (R268) -/

theorem besideMem_forgetBlock (s : State) (p b : Nat) : besideMem (forgetBlock s p b) = besideMem s := rfl

theorem besideMem_drainCopy (s : State) (p b : Nat) : besideMem (drainCopy s p b) = besideMem s := by
  have hgone : besideMem (dropCopy (forgetBlock s p b) p b) = besideMem s := by rw [besideMem_dropCopy, besideMem_forgetBlock]
  unfold drainCopy
  dsimp only
  split
  · split
    · exact besideMem_toCache ..
    · exact hgone
  · split
    · rw [besideMem_askMem, besideMem_setBlock]
    · rfl
    · split
      · exact hgone
      · split
        · rfl
        · exact besideMem_startWriteback ..
    · exact hgone
  · exact hgone

theorem besideReply_drainGo (s : State) (pick : Resident → Bool) : besideReply (drainGo s pick) = besideReply s :=
  (besideReply_settleWaits _).trans ((view_foldl besideReply (fun _ _ => besideReply_of_besideMem (besideMem_drainCopy ..)) _ _).trans rfl)

end Sys2Proof.Machine
end

section
/-! What the ends of runs and partition resets leave of Sprout's block, the port group and the count of parity failures. -/

namespace Sys2Proof.Machine

/-- What no end of a run and no partition reset changes: Sprout's block but for idle times, pre-warm lists and whether a session has attached, the count of parity failures, the port group but for its queues, and the time. -/
def posture (s : State) : Sprout × W32 × Ports × W64 :=
  ({ s.spr with idleSince := 0, rungIdle := [], everAttached := false, preQueue := [], preWarm := [] }, s.rel.parity, quietPorts s.ports, s.ts)

theorem posture_of_besideReply {s t : State} (h : besideReply t = besideReply s) : posture t = posture s := (congrArg posture h :)
theorem posture_of_besideMem {s t : State} (h : besideMem t = besideMem s) : posture t = posture s := posture_of_besideReply (besideReply_of_besideMem h)
theorem posture_of_beyondLinks {s t : State} (h : beyondLinks t = beyondLinks s) : posture t = posture s := (congrArg posture h :)

theorem posture_modGraph (s : State) (h : Nat) (f : Graph → Graph) : posture (s.modGraph h f) = posture s := rfl

/-! ### Runs that retire, and graphs unloaded (R169, R176) -/

theorem posture_stopReply (s : State) (p h : Nat) : posture (stopReply s p h) = posture s := by
  unfold stopReply
  split
  · split
    · extract_lets s1
      exact (posture_of_besideReply (besideReply_replyLater s1 ..)).trans rfl
    · rfl
  · rfl

theorem posture_sendDigests (s : State) (p h : Nat) (r : Run) : posture (sendDigests s p h r) = posture s := by
  unfold sendDigests
  split
  next g slot j hg hj =>
    extract_lets value iv me arg s1 s2
    have hframes : posture s1 = posture s := view_foldl posture (fun t m => by
      split
      · rfl
      · exact posture_of_beyondLinks (beyondLinks_sendFrame ..)) _ _
    split
    · exact hframes
    · rfl
  · rfl

theorem posture_afterRetire (s : State) (p : Nat) : posture (afterRetire s p) = posture s := by
  have hattached (k : Packet) : posture (attachNow s p k false) = posture s := by
    unfold attachNow
    extract_lets lost minor s1 spr s2
    have h2 : posture s2 = posture s := rfl
    refine (posture_of_besideReply (besideReply_reply ..)).trans ?_
    split
    · exact (posture_of_besideReply (besideReply_sendHeldVectors ..)).trans h2
    · exact h2
  unfold afterRetire
  split
  · split
    · exact hattached _
    · rfl
  · rfl

theorem posture_unloadNow (s : State) (h : Nat) : posture (unloadNow s h) = posture s := by
  have hset : posture (dropSet s h) = posture s := by
    unfold dropSet
    split
    · exact (view_foldl posture (fun _ _ => posture_of_besideMem (besideMem_modBlock ..)) _ _).trans rfl
    · rfl
  unfold unloadNow
  split
  · rfl
  · extract_lets s1 s2
    have h2 : posture s2 = posture s1 := by
      refine view_foldl posture (fun t cx => ?_) _ _
      rfl
    rw [view_foldl posture fun _ _ => posture_of_besideReply (besideReply_replyLater ..), ← hset]
    exact h2

theorem posture_unpinStreams (s : State) (h : Nat) : posture (unpinStreams s h) = posture s := by
  refine view_foldl posture (fun t n => ?_) _ _
  split <;> rfl

theorem posture_retireEnd (s : State) (h : Nat) : posture (retireEnd s h) = posture s := by
  unfold retireEnd
  split
  · rfl
  next g hg =>
    split
    · rfl
    next r hr =>
      extract_lets p s3 s4 s5 s6 s7
      have h3 : posture s3 = posture s := by
        unfold s3
        split <;> rfl
      have h4 : posture s4 = posture s3 := by
        refine view_foldl posture (fun t cx => ?_) _ _
        rfl
      have h5 : posture s5 = posture s4 := (posture_modGraph ..).trans (posture_unpinStreams s4 h)
      have h6 : posture s6 = posture s5 := by
        unfold s6
        split
        · exact posture_sendDigests ..
        · rfl
      have h7 : posture s7 = posture s6 := posture_stopReply ..
      rw [posture_afterRetire, ← h3, ← h4, ← h5, ← h6, ← h7]
      split
      · exact posture_unloadNow ..
      · rfl

theorem posture_retire (s : State) (h : Nat) (st : Option (W16 × W32)) : posture (retire s h st) = posture s := by
  unfold retire
  split
  · rfl
  · split
    · rfl
    · split
      · rfl
      · extract_lets p s1 s2
        have h1 : posture s1 = posture s := by
          unfold s1
          split <;> rfl
        have h2 : posture s2 = posture s := (posture_of_besideReply (besideReply_complete ..)).trans h1
        split
        · exact h2
        · exact (posture_retireEnd ..).trans h2

theorem besideMem_giveUse (s : State) (c x : Nat) : besideMem (giveUse s c x) = besideMem s := view_foldl besideMem (fun _ _ => besideMem_modBlock ..) _ _

theorem posture_endRun (s : State) (h : Nat) (status : W16) (to_ : CtxState) : posture (endRun s h status to_) = posture s := by
  unfold endRun
  split
  · rfl
  next g hg =>
    split
    · rfl
    next r hr =>
      extract_lets s0 s1 notes s2
      have h0 : posture s0 = posture s := view_foldl posture (fun _ _ => by split <;> rfl) _ _
      have h1 : posture s1 = posture s0 := by
        refine Eq.trans (view_foldl posture (fun t cx => ?_) _ _) (b := posture (dropFabric s0 g)) rfl
        dsimp only
        split
        · exact (posture_of_besideMem (besideMem_giveUse t cx.1 cx.2) :)
        · rfl
      have h2 : posture s2 = posture s1 := (posture_retireEnd ..).trans (posture_retire ..)
      rw [← h0, ← h1, ← h2]
      refine view_foldl posture (fun t cx => ?_) _ _
      rfl

/-! ### Reports (R586) -/

theorem posture_rindQueue (s : State) (code : Nat) (pinned : Bool) (body : List Byte) : posture (rindQueue s code pinned body) = posture s := by
  have hrefill : posture (refill s) = posture s := by
    unfold refill
    dsimp only
    split <;> rfl
  unfold rindQueue
  dsimp only
  split
  · split
    · rfl
    · split <;> rfl
  · split <;> exact hrefill

theorem posture_report (s : State) (code : Nat) (unit : W16) (ptag : Nat) : posture (report s code unit ptag) = posture s := by
  refine Eq.trans (b := posture (issueReportBody s (mkReport s code unit ptag) (reportBody (mkReport s code unit ptag)))) rfl ?_
  unfold issueReportBody
  extract_lets code pin prev recent old seq toRind reps s1 r1 q1 s2 s3 s4 s5
  have h1 : posture s1 = posture s := by
    unfold s1
    split
    · exact posture_rindQueue ..
    · rfl
  have h4 : posture s4 = posture s := by
    unfold s4
    split
    · exact h1
    · exact (posture_of_beyondLinks (beyondLinks_sendFrame ..)).trans h1
  have h5 : posture s5 = posture s := (posture_of_besideReply (besideReply_globalLog ..)).trans h4
  split
  · rfl
  · split
    · exact (posture_of_besideReply (besideReply_partLog ..)).trans h5
    · exact h5

/-! ### Partition resets (R449) -/

theorem posture_rereadGraph (s : State) (h : Nat) : posture (rereadGraph s h) = posture s := by
  unfold rereadGraph
  split
  · rfl
  · split
    · rfl
    · exact (posture_of_besideReply (besideReply_complete ..)).trans (posture_unloadNow ..)

theorem posture_abandonEngines (s : State) (p : Nat) : posture (abandonEngines s p) = posture s := by
  refine Eq.trans rfl (view_foldl posture (fun t k => view_foldl posture (fun u e => ?_) _ _) s.cores s)
  split
  · split <;> rfl
  · rfl

theorem posture_dropCopies (s : State) (p : Nat) : posture (dropCopies s p) = posture s :=
  view_foldl posture (fun _ _ => by
    split
    · rfl
    · exact posture_of_besideMem (besideMem_dropCopy ..)) _ _

theorem posture_abortWaits (s : State) (p : Nat) : posture (abortWaits s p) = posture s := by
  unfold abortWaits
  extract_lets waits s1
  have h1 : posture s1 = posture s := view_foldl posture (fun _ _ => posture_of_besideReply (besideReply_replyLater ..)) _ _
  rw [← h1]
  refine view_foldl posture (fun t e => ?_) _ _
  refine (view_foldl posture (fun _ _ => posture_of_besideReply (besideReply_replyLater ..)) _ _).trans ?_
  rfl

theorem posture_emptyStreams (s : State) (p : Nat) : posture (emptyStreams s p) = posture s := by
  refine view_foldl posture (fun t n => ?_) _ _
  dsimp only
  split <;> rfl

theorem posture_abortHand (s : State) (p : Nat) : posture (abortHand s p) = posture s :=
  (view_foldl posture (fun _ _ => posture_of_besideReply (besideReply_reply ..)) _ _).trans rfl

theorem posture_discardSamples (s : State) (p : Nat) : posture (discardSamples s p) = posture s := rfl
theorem posture_clearMbx (s : State) (m : Nat) : posture (clearMbx s m) = posture s := rfl
theorem posture_clearCounters (s : State) (p : Nat) : posture (clearCounters s p) = posture s := rfl
theorem posture_endSpdm (s : State) (p : Nat) : posture (endSpdm s p) = posture s := rfl

theorem posture_withdrawn (s : State) (mem : MemTiers) (press : Press) (q : List PreWarm) (fab : Fab) :
    posture { s with mem := mem, press := press, spr.preQueue := q, fab := fab } = posture s := rfl

theorem posture_resetBody (s : State) (p : Nat) : posture (resetBody s p) = posture s := by
  unfold resetBody
  extract_lets s1 s2 mem press spr fab s3 s4 s5
  have h2 : posture s2 = posture s := (view_foldl posture (fun _ _ => posture_endRun ..) _ _).trans (posture_abandonEngines s p)
  have h3 : posture s3 = posture s2 := posture_withdrawn s2 mem press _ fab
  have h4 : posture s4 = posture s3 := (posture_discardSamples ..).trans (posture_dropCopies s3 p)
  have h5 : posture s5 = posture s4 := by
    unfold s5
    rw [posture_clearCounters, posture_clearMbx, posture_emptyStreams, posture_abortWaits]
  rw [posture_endSpdm, view_foldl posture posture_rereadGraph, h5, h4, h3, h2]

theorem posture_partitionReset (s : State) (p cause : Nat) : posture (partitionReset s p cause) = posture s := by
  unfold partitionReset
  split
  · rfl
  · rfl
  · extract_lets s1
    exact (posture_of_besideReply (besideReply_globalNote ..)).trans ((posture_of_besideReply (besideReply_partNote ..)).trans
      ((posture_resetBody ..).trans (posture_abortHand s1 p)))

end Sys2Proof.Machine
end

section
/-! What rises, wakes and falls of the ladder leave as it was: views of the state for each. -/

namespace Sys2Proof.Machine

/-! ### Rises and pre-warm (R325, R329) -/

/-- The state but for memory, the switches of the domains, the rungs and the pre-warm entries that wait: what no rise of the ladder changes. -/
def besideRise (s : State) : State :=
  { besideMem s with cores := [], crp := {}, spr.l1 := .down, spr.l2 := .down, spr.l3 := .down, spr.riseAt := 0, spr.preQueue := [] }

theorem besideRise_of_besideMem {s t : State} (h : besideMem t = besideMem s) : besideRise t = besideRise s := by rw [besideRise, h, besideRise]

theorem besideRise_setDom (s : State) (d : Domain) (v : Dom) : besideRise (s.setDom d v) = besideRise s := by cases d <;> rfl

theorem besideRise_askOn (s : State) (d : Domain) (at_ : W64) : besideRise (askOn s d at_) = besideRise s := by
  unfold askOn
  dsimp only
  split
  · rfl
  · exact besideRise_setDom ..

theorem besideRise_askOns {α : Type} (l : List α) (d : α → Domain) (at_ : α → W64) (s : State) :
    besideRise (l.foldl (fun t a => askOn t (d a) (at_ a)) s) = besideRise s := view_foldl besideRise (fun _ _ => besideRise_askOn ..) _ _

theorem besideRise_setRung (s : State) (n : Nat) (r : Rung) : besideRise (setRung s n r) = besideRise s := by
  unfold setRung
  split
  · rfl
  · split <;> rfl

/-- Pre-warm entries that go change memory and the queue they leave. -/
theorem besideMem_preGo (s : State) : besideMem (preGo s) = besideMem { s with spr.preQueue := (preGo s).spr.preQueue } := by
  have hbring (l : List PreWarm) (t : State) : besideMem (l.foldl (fun t e => (List.range e.blocks).foldl (fun t i =>
      bringBlock t { part := e.part, block := e.block + i, rank := 4, cls := classOf t e.part, dest := e.dest }) t) t) = besideMem t :=
    view_foldl besideMem (fun _ _ => view_foldl besideMem (fun _ _ => besideMem_bringBlock ..) _ _) _ _
  unfold preGo
  extract_lets usable go spr s1
  have hqueue := (congrArg (·.spr.preQueue) (hbring go s1) :)
  rw [hbring]
  exact (congrArg (fun q => besideMem { s with spr.preQueue := q }) hqueue.symm :)

/-- Pre-warm sets queued change memory and the queue they wait in. -/
theorem besideMem_queuePre (s : State) (lo hi : Nat) : besideMem (queuePre s lo hi) = besideMem { s with spr.preQueue := (queuePre s lo hi).spr.preQueue } :=
  (besideMem_preGo _).trans rfl

theorem spr_queuePre (s : State) (lo hi : Nat) : (queuePre s lo hi).spr = { s.spr with preQueue := (queuePre s lo hi).spr.preQueue } :=
  (congrArg (·.spr) (besideMem_queuePre s lo hi) :)

theorem besideRise_queuePre (s : State) (lo hi : Nat) : besideRise (queuePre s lo hi) = besideRise s :=
  (besideRise_of_besideMem (besideMem_queuePre s lo hi)).trans rfl

theorem besideRise_startRise (s : State) (n : Nat) : besideRise (startRise s n) = besideRise s := by
  unfold startRise
  dsimp only
  split
  · exact besideRise_setRung ..
  · exact (besideRise_askOns ..).trans ((Eq.trans rfl (besideRise_setRung s n .rising)))

theorem besideRise_climb (s : State) : besideRise (climb s) = besideRise s := by
  refine view_foldl besideRise (fun t n => ?_) _ _
  split
  · exact besideRise_startRise ..
  · rfl

theorem spr_askOn (s : State) (d : Domain) (at_ : W64) : (askOn s d at_).spr = s.spr := by
  unfold askOn
  dsimp only
  split
  · rfl
  · cases d <;> rfl

theorem spr_askOns {α : Type} (l : List α) (d : α → Domain) (at_ : α → W64) (s : State) :
    (l.foldl (fun t a => askOn t (d a) (at_ a)) s).spr = s.spr := view_foldl State.spr (fun _ _ => spr_askOn ..) _ _

/-! ### Wakes (R318, R320, R322) -/

/-- Sprout's block but for what a wake changes. -/
def besideSources (q : Sprout) : Sprout := { q with target := 0, restoring := none, wakeTs := 0, falling := none, draining := none, wakeCause := 0, first := 0 }

/-- The state but for what a rise changes, the target, the sources and the sequence under way, and Rennet, which wakes from S: what no wake changes. -/
def besideWake (s : State) : State := { besideRise s with rennet := {}, spr := besideSources (besideRise s).spr }

theorem besideWake_of_besideRise {s t : State} (h : besideRise t = besideRise s) : besideWake t = besideWake s := by rw [besideWake, h, besideWake]

theorem besideWake_cancelFall (s : State) : besideWake (cancelFall s) = besideWake s :=
  (besideWake_of_besideRise (besideRise_queuePre ..)).trans rfl

theorem besideWake_beginRestore (s : State) (from_ : PState) : besideWake (beginRestore s from_) = besideWake s := by
  have hrung (u : State) (tgt : BitVec 2) : besideWake { setRung u 1 .rising with spr.target := tgt } = besideWake u := rfl
  unfold beginRestore
  extract_lets spr s0 plus
  have h0 : besideWake s0 = besideWake s := rfl
  cases from_ with
  | t =>
    refine Eq.trans (besideWake_of_besideRise ?_) h0
    exact (besideRise_askOns ..).trans ((besideRise_askOn ..).trans (besideRise_askOns ..))
  | w =>
    refine (besideWake_of_besideRise (besideRise_queuePre ..)).trans ((hrung ..).trans ((besideWake_of_besideRise ?_).trans h0))
    exact (besideRise_askOn ..).trans ((besideRise_askOn ..).trans (besideRise_askOns ..))
  | s => exact Eq.trans (hrung ..) ((besideWake_of_besideRise (besideRise_askOn ..)).trans h0)
  | a | i | o => exact h0

theorem besideWake_latchWake (s : State) (sources : BitVec 7) (first : Nat) : besideWake (latchWake s sources first) = besideWake s := by
  have habandon (u : State) : besideWake (if (cancelFall u).spr.pstate = .a then climb (cancelFall u) else beginRestore (cancelFall u) (cancelFall u).spr.pstate) = besideWake u := by
    split
    · exact (besideWake_of_besideRise (besideRise_climb _)).trans (besideWake_cancelFall u)
    · exact (besideWake_beginRestore ..).trans (besideWake_cancelFall u)
  unfold latchWake
  dsimp only
  split
  · split
    · rfl
    · split
      · rfl
      · exact (habandon _).trans rfl
  · split
    · rfl
    · split
      · exact (besideWake_beginRestore ..).trans rfl
      · rfl

/-- In A with no entry under way no source wakes (R318). -/
theorem latchWake_of_awake {s : State} (ha : s.spr.pstate = .a) (hdrain : s.spr.draining = none) (sources : BitVec 7) (first : Nat) : latchWake s sources first = s := by
  unfold latchWake
  simp [ha, hdrain, wakesFrom]

/-! ### Falls (R326) -/

/-- Sprout's block as the rungs above `n` begin to fall. -/
def fallen (n : Nat) (q : Sprout) : Sprout :=
  let turn (m : Nat) (r : Rung) : Rung := if n < m ∧ r ≠ .down then .falling else r
  { q with l1 := turn 1 q.l1, l2 := turn 2 q.l2, l3 := turn 3 q.l3, target := BitVec.ofNat 2 n, falling := some (n + 1), isoDone := false }

/-- Pinned blocks that join pre-warm sets change those sets alone. -/
theorem autoPre_frame (s : State) (cs : List Nat) : autoPre s cs = { s with spr.preWarm := (autoPre s cs).spr.preWarm } := by
  have hview (l : List (Nat × PreWarm)) (t : State) : (fun u : State => { u with spr.preWarm := [] }) (l.foldl (fun t e =>
      if (tget [] t.spr.preWarm e.1).contains e.2 then t else { t with spr.preWarm := tset t.spr.preWarm e.1 (tget [] t.spr.preWarm e.1 ++ [e.2]) }) t) =
        { t with spr.preWarm := [] } := by
    refine view_foldl (fun u : State => { u with spr.preWarm := [] }) (fun u e => ?_) l t
    split <;> rfl
  exact (congrArg (fun u : State => { u with spr.preWarm := (autoPre s cs).spr.preWarm }) (hview _ s) :)

/-- A fall changes the rungs, the target and the pre-warm sets of Sprout, and what a drain changes. -/
theorem besideReply_beginFall (s : State) (n : Nat) :
    besideReply (beginFall s n) = besideReply { s with spr := { fallen n s.spr with preWarm := (beginFall s n).spr.preWarm } } := by
  unfold beginFall
  extract_lets turn cs
  have hpre := autoPre_frame { s with spr := fallen n s.spr } cs
  have hdrain := besideReply_drainGo (autoPre { s with spr := fallen n s.spr } cs) (inCores cs)
  have hsets := (congrArg (·.spr.preWarm) hdrain :)
  refine hdrain.trans ?_
  rw [hpre]
  exact (congrArg (fun q => besideReply { s with spr := { fallen n s.spr with preWarm := q } }) hsets.symm :)

theorem posture_beginFall (s : State) (n : Nat) : posture (beginFall s n) = (fallen n (posture s).1, (posture s).2) :=
  (posture_of_besideReply (besideReply_beginFall s n)).trans rfl

/-! ### Entry to W, S and O (R316) -/

theorem posture_endRuns (s : State) : posture (endRuns s) = posture s := view_foldl posture (fun _ _ => posture_endRun ..) _ _

theorem posture_endSession (s : State) (p : Nat) : posture (endSession s p) = posture s := posture_of_besideReply ((besideReply_partNote ..).trans rfl)

/-- An entry begins with the fall of every rung. -/
theorem posture_enterDeep (s : State) (to_ : PState) : posture (enterDeep s to_) = ({ fallen 0 (posture s).1 with draining := some to_ }, (posture s).2) := by
  unfold enterDeep
  extract_lets s1 s2 s3
  have h1 : posture s1 = posture s := by
    unfold s1
    split
    · rfl
    · refine view_foldl posture (fun t p => ?_) _ _
      split <;> rfl
  have h2 : posture s2 = posture s1 := posture_endRuns s1
  have h3 : posture s3 = posture s2 := by
    unfold s3
    split
    · rfl
    · refine view_foldl posture (fun t p => ?_) _ _
      split
      · rfl
      · exact posture_endSession ..
  have hfall : posture (beginFall s3 0) = (fallen 0 (posture s).1, (posture s).2) := by rw [posture_beginFall, h3, h2, h1]
  clear_value s3
  refine (posture_of_besideReply (besideReply_drainGo ..)).trans ?_
  exact (congrArg (fun q : Sprout × W32 × Ports × W64 => (({ q.1 with draining := some to_ } : Sprout), q.2)) hfall :)

/-- What a posture with rungs fallen and a state asked for says field by field. -/
theorem fields_of_fallen {s t : State} {n : Nat} {d : Option PState} (h : posture t = ({ fallen n (posture s).1 with draining := d }, (posture s).2)) :
    t.spr.draining = d ∧ t.spr.pstate = s.spr.pstate ∧ t.spr.target = n ∧ t.spr.askPower = s.spr.askPower ∧ t.ports.nacked = s.ports.nacked ∧
      t.spr.l1 = (fallen n s.spr).l1 := by
  refine ⟨?_, ?_, ?_, ?_, ?_, ?_⟩
  · exact congrArg (·.1.draining) h
  · exact congrArg (·.1.pstate) h
  · exact congrArg (·.1.target) h
  · exact congrArg (·.1.askPower) h
  · exact congrArg (·.2.2.1.nacked) h
  · exact congrArg (·.1.l1) h

/-- A rung at or above the one fallen to is not UP. -/
theorem l1_fallen_zero_ne_up (x : Sprout) : (fallen 0 x).l1 ≠ .up := by
  unfold fallen
  dsimp only
  split
  · decide
  next h => simpa using fun hup : x.l1 = .up => h (by simp [hup])

/-- No rung is UP as an entry begins. -/
theorem l1_enterDeep_ne_up (s : State) (to_ : PState) : (enterDeep s to_).spr.l1 ≠ .up := by
  obtain ⟨-, -, -, -, -, hl1⟩ := fields_of_fallen (posture_enterDeep s to_)
  rw [hl1]
  exact l1_fallen_zero_ne_up s.spr

end Sys2Proof.Machine
end

section
/-! The management port (17_integration_ports.md): common commands, management commands and the statement about them. -/

namespace Sys2Proof.Machine

/-! ### Transactions of the management port (R318, R654) -/

section
variable {s t : State} {body : State → State}

/-- The command is taken, and the port is a wake source. -/
theorem mgmtTaken_next (hon : s.spr.pstate ≠ .o) (h : body { s with ports.nacked := false } = t) : ends s (mgmtTaken s body) = .next (kept s (latchWake t 0x40 6)) :=
  ends_kept (by rw [mgmtTaken, if_neg hon, h])

/-- In O the port takes nothing. -/
theorem mgmtTaken_off (hoff : s.spr.pstate = .o) (body : State → State) : ends s (mgmtTaken s body) = .next s := ends_of_eq (if_pos hoff) rfl rfl

theorem directed_next (hon : s.spr.pstate ≠ .o) (haddr : s.ports.mgI3c = true) (h : body { s with ports.nacked := false } = t) :
    ends s (directed s body) = .next (kept s (latchWake t 0x40 6)) :=
  mgmtTaken_next hon ((if_pos haddr).trans h)

/-- A directed command is not acknowledged without a dynamic address. -/
theorem directed_unaddressed (hon : s.spr.pstate ≠ .o) (haddr : s.ports.mgI3c = false) (body : State → State) :
    ends s (directed s body) = .next (kept s (latchWake { s with ports.nacked := true } 0x40 6)) :=
  mgmtTaken_next hon (if_neg (by simp [haddr]))

end

/-! ### Common commands (R654) -/

section
variable {s : State} (ev : Byte) (addr static_ : BitVec 7) (len : W16)

theorem common_taken : ∀ cmd ∈ [Instr.enec ev, .disec ev, .rstdaa, .entdaa addr, .setdasa static_ addr, .setmwl len, .setmrl len, .getmwl, .getmrl, .getpid, .getbcr, .getdcr, .getstatus],
    ∃ body, exec cmd s = ends s (mgmtTaken s body) := by
  simp only [List.forall_mem_cons]
  exact ⟨⟨_, rfl⟩, ⟨_, rfl⟩, ⟨_, rfl⟩, ⟨_, rfl⟩, ⟨_, rfl⟩, ⟨_, rfl⟩, ⟨_, rfl⟩, ⟨_, rfl⟩, ⟨_, rfl⟩, ⟨_, rfl⟩, ⟨_, rfl⟩, ⟨_, rfl⟩, ⟨_, rfl⟩, List.forall_mem_nil _⟩

theorem common_directed : ∀ cmd ∈ [Instr.setmwl len, .setmrl len, .getmwl, .getmrl, .getpid, .getbcr, .getdcr, .getstatus], ∃ body, exec cmd s = ends s (directed s body) := by
  simp only [List.forall_mem_cons]
  exact ⟨⟨_, rfl⟩, ⟨_, rfl⟩, ⟨_, rfl⟩, ⟨_, rfl⟩, ⟨_, rfl⟩, ⟨_, rfl⟩, ⟨_, rfl⟩, ⟨_, rfl⟩, List.forall_mem_nil _⟩

variable {ev addr static_ len}

theorem common_off (hoff : s.spr.pstate = .o) : ∀ cmd ∈ [Instr.enec ev, .disec ev, .rstdaa, .entdaa addr, .setdasa static_ addr, .setmwl len, .setmrl len, .getmwl, .getmrl, .getpid, .getbcr, .getdcr,
    .getstatus], exec cmd s = .next s := by
  intro cmd hcmd
  obtain ⟨body, h⟩ := common_taken (s := s) ev addr static_ len cmd hcmd
  rw [h, mgmtTaken_off hoff]

theorem common_unaddressed (hon : s.spr.pstate ≠ .o) (haddr : s.ports.mgI3c = false) :
    ∀ cmd ∈ [Instr.setmwl len, .setmrl len, .getmwl, .getmrl, .getpid, .getbcr, .getdcr, .getstatus], exec cmd s = .next (kept s (latchWake { s with ports.nacked := true } 0x40 6)) := by
  intro cmd hcmd
  obtain ⟨body, h⟩ := common_directed (s := s) len cmd hcmd
  rw [h, directed_unaddressed hon haddr]

variable {s0 : State} (hs0 : s0 = { s with ports.nacked := false }) (hon : s.spr.pstate ≠ .o)
include hs0 hon

theorem common_broadcast : ∀ e ∈ [(Instr.enec ev, if ev.getLsbD 0 then { s0 with ports.ibiEn := true } else s0), (.disec ev, if ev.getLsbD 0 then { s0 with ports.ibiEn := false } else s0),
    (.rstdaa, { s0 with ports.mgDaddr := 0, ports.mgI3c := false, ports.mbxIbi := false, ports.rptIbi := false }),
    (.entdaa addr, if s.ports.mgI3c then s0 else { s0 with ports.mgDaddr := addr, ports.mgI3c := true })], exec e.1 s = .next (kept s (latchWake e.2 0x40 6)) := by
  subst hs0
  simp only [List.forall_mem_cons]
  exact ⟨mgmtTaken_next hon rfl, mgmtTaken_next hon rfl, mgmtTaken_next hon rfl, mgmtTaken_next hon rfl, List.forall_mem_nil _⟩

theorem setdasa_next (hmine : static_ = s.chip.strapMg) (hfree : s.ports.mgI3c = false) :
    exec (.setdasa static_ addr) s = .next (kept s (latchWake { s0 with ports.mgDaddr := addr, ports.mgI3c := true } 0x40 6)) := by
  subst hs0
  exact mgmtTaken_next hon ((if_pos hmine).trans (if_neg (by simp [hfree])))

omit hs0 in
theorem setdasa_other (hother : static_ ≠ s.chip.strapMg) : exec (.setdasa static_ addr) s = .next (kept s (latchWake { s with ports.nacked := true } 0x40 6)) :=
  mgmtTaken_next hon (if_neg hother)

variable (haddr : s.ports.mgI3c = true)
include haddr

theorem common_answered : ∀ e ∈ [(Instr.setmwl len, { s0 with ports.mwl := len }), (.setmrl len, { s0 with ports.mrl := len }), (.getmwl, { s0 with ports.answer := beBytes 2 s.ports.mwl.toNat }),
    (.getmrl, { s0 with ports.answer := beBytes 2 s.ports.mrl.toNat }), (.getpid, { s0 with ports.answer := beBytes 6 (s.chip.mipiId.toNat * 2 ^ 33 + s.otp.serial.toNat % 2 ^ 32) })],
    exec e.1 s = .next (kept s (latchWake e.2 0x40 6)) := by
  subst hs0
  simp only [List.forall_mem_cons]
  exact ⟨directed_next hon haddr rfl, directed_next hon haddr rfl, directed_next hon haddr rfl, directed_next hon haddr rfl, directed_next hon haddr rfl, List.forall_mem_nil _⟩

/-- The values of BCR, DCR and GETSTATUS are free; their lengths are not. -/
theorem common_free : ∀ e ∈ [(Instr.getbcr, 1), (.getdcr, 1), (.getstatus, 2)],
    ∃ (t : State) (l : List Byte), exec e.1 s = .next (kept s (latchWake t 0x40 6)) ∧ l.length = e.2 ∧ t = { s0 with ports.answer := l, freeNo := t.freeNo } := by
  subst hs0
  simp only [List.forall_mem_cons]
  exact ⟨⟨_, _, directed_next hon haddr rfl, rfl, rfl⟩, ⟨_, _, directed_next hon haddr rfl, rfl, rfl⟩,
    ⟨_, _, directed_next hon haddr rfl, leBytes_length .., rfl⟩, List.forall_mem_nil _⟩

end

/-! ### Private commands: the mailbox (R424, R655) -/

theorem tset_tset {α : Type} (t : Tbl α) (i : Nat) (a b : α) : tset (tset t i a) i b = tset t i b := by
  induction t with
  | nil => simp [tset]
  | cons e r ih =>
    obtain ⟨k, v⟩ := e
    by_cases hk : k = i
    · simp [tset, hk]
    · by_cases hi : i < k <;> simp [tset, hk, hi, ih]

theorem modMbx_modMbx (s : State) (m : Nat) (f g : Mbx → Mbx) : (s.modMbx m f).modMbx m g = s.modMbx m (fun x => g (f x)) := by
  simp only [State.modMbx, tmod, tget_tset_same, tset_tset]

/-- A message of a listed code waits in its mailbox for Rennet (R478). -/
theorem mbxSend_of_listed {s : State} {m : Nat} (init : W16) (hfree : (s.mbx m).outFull = false) (hcode : mailCodes.contains (mailCode s m) = true) :
    mbxSend s m init = s.modMbx m (fun x => { x with outFull := true, outSender := init, sentAt := s.ts, timeout := false, served := false, reply := none }) := by
  have hlisted : mailCodes.contains (mailCode (s.modMbx m (fun x => { x with outFull := true, outSender := init, sentAt := s.ts, timeout := false, served := false, reply := none })) m) = true := by
    rw [mailCode, mbx_modMbx_same]
    exact hcode
  simp only [mbxSend, hfree, Bool.false_eq_true, if_false, refuseUnknown, hlisted, Bool.not_true, Bool.and_false]

section
variable {s s0 : State} (hon : s.spr.pstate ≠ .o) (hs0 : s0 = { s with ports.nacked := false })
include hon hs0

omit hs0 in
theorem mgmtTaken_at {now : W64} {body : State → State} {t : State} (hnow : s.ts.toNat ≤ now.toNat) (h : body { s with ts := now, ports.nacked := false } = t) :
    endsAt s now (fun u => mgmtTaken u body) = .next (kept s (latchWake t 0x40 6)) :=
  endsAt_of_eq hnow (by rw [mgmtTaken, if_neg hon, h])

theorem mgmtMbxSend_next {ws : List W32} {now : W64} (hnow : s.ts.toNat ≤ now.toNat) (hfree : (s.mbx 65).outFull = false) (hcode : mailCodes.contains ((ws.getD 0 0).toNat % 65536) = true) :
    exec (.mgmtMbxSend ws now) s = .next (kept s (latchWake (State.modMbx { s0 with ts := now } 65 (fun x => { x with
      out := (List.range 8).map (fun i => ws.getD i 0), outFull := true, outSender := 0xFFFF, sentAt := now, timeout := false, served := false, reply := none })) 0x40 6)) := by
  subst hs0
  refine mgmtTaken_at hon hnow ((if_neg ?_).trans ((mbxSend_of_listed 0xFFFF ?_ ?_).trans (modMbx_modMbx ..)))
  · exact Bool.eq_false_iff.mp hfree
  · rw [mbx_modMbx_same]
    exact hfree
  · rw [mailCode, mbx_modMbx_same]
    exact hcode

theorem mgmtMbxSend_full {now : W64} (ws : List W32) (hnow : s.ts.toNat ≤ now.toNat) (hfull : (s.mbx 65).outFull = true) :
    exec (.mgmtMbxSend ws now) s = .next (kept s (latchWake { s0 with ts := now } 0x40 6)) := by
  subst hs0
  exact mgmtTaken_at hon hnow (if_pos hfull)

theorem mgmtMbxAck_next (hin : (s.mbx 65).inValid = true) (hreply : (s.mbx 65).reply = none) :
    exec .mgmtMbxAck s = .next (kept s (latchWake (s0.modMbx 65 (fun x => { x with inValid := false })) 0x40 6)) := by
  subst hs0
  refine mgmtTaken_next hon ((if_pos hin).trans ?_)
  have hnone : (State.mbx (State.modMbx { s with ports.nacked := false } 65 (fun x => { x with inValid := false })) 65).reply = none := by
    rw [mbx_modMbx_same]
    exact hreply
  rw [mbxDeliver, hnone]

/-! ### Private commands: reports and status (R655) -/

theorem reportRead_next {r : ReportRec} {q : List QueuedReport} (hqueue : s.rel.mgmtQ = .own r :: q) :
    exec .reportRead s = .next (kept s (latchWake { s0 with rel.mgmtQ := q, rel.alert := alertOf q, ports.rptIbi := s.ports.rptIbi && q != [], ports.answer := reportBytes r } 0x40 6)) := by
  subst hs0
  refine mgmtTaken_next hon ?_
  simp only [hqueue, List.drop_one, List.tail_cons, answered]

omit hs0 in
/-- Without an unread report the answer is zeros, which the wake leaves. -/
theorem reportRead_empty (hqueue : s.rel.mgmtQ = []) : ∃ t, exec .reportRead s = .next t ∧ t.ports.answer = List.replicate 64 0 ∧ t.rel.mgmtQ = [] := by
  refine ⟨_, mgmtTaken_next hon rfl, ?_, ?_⟩
  · refine (congrArg (·.ports.answer) (besideWake_latchWake _ 0x40 6) :).trans ?_
    simp only [hqueue]
    rfl
  · refine (congrArg (·.rel.mgmtQ) (besideWake_latchWake _ 0x40 6) :).trans ?_
    simp only [hqueue]
    rfl

end

/-! ### Power asked for (R655) -/

section
variable {s : State} {st : PState} {v : Byte}

/-- The state that POWER asks for. -/
theorem mgmtPower_asks (hv : (v, st) ∈ [((4 : Byte), PState.s), (5, .o)]) : (v = 4 ∨ v = 5) ∧ (if v = 4 then PState.s else .o) = st := by
  simp only [List.mem_cons, Prod.mk.injEq, List.not_mem_nil, or_false] at hv
  obtain ⟨rfl, rfl⟩ | ⟨rfl, rfl⟩ := hv <;> decide

theorem exec_mgmtPower (hon : s.spr.pstate ≠ .o) {t : State} (h : mgmtPower { s with ports.nacked := false } v = t) :
    exec (.mgmtPower v) s = .next (kept s (if t.spr.draining.isSome ∧ t.spr.askPower.isNone then t else latchWake t 0x40 6)) := by
  subst h
  exact ends_kept (if_neg hon)

theorem mgmtPower_other (hon : s.spr.pstate ≠ .o) (h4 : v ≠ 4) (h5 : v ≠ 5) (hdrain : s.spr.draining = none) :
    exec (.mgmtPower v) s = .next (kept s (latchWake { s with ports.nacked := true } 0x40 6)) := by
  have hrefused : mgmtPower { s with ports.nacked := false } v = { s with ports.nacked := true } := if_pos ⟨h4, h5⟩
  rw [exec_mgmtPower hon hrefused, if_neg]
  simp [hdrain]

theorem mgmtPower_asleep (hv : (v, st) ∈ [((4 : Byte), PState.s), (5, .o)]) (hasleep : s.spr.pstate = .i ∨ s.spr.pstate = .t ∨ s.spr.pstate = .s) :
    ∃ t, exec (.mgmtPower v) s = .next t ∧ t.spr.askPower = some st ∧ t.ports.nacked = false := by
  obtain ⟨hasked, hst⟩ := mgmtPower_asks hv
  have hon : s.spr.pstate ≠ .o := by rintro h; simp [h] at hasleep
  have ha : s.spr.pstate ≠ .a := by rintro h; simp [h] at hasleep
  have harray : noArray { s with ports.nacked := false } = false := by
    have hw : s.spr.pstate ≠ .w := by rintro h; simp [h] at hasleep
    simp [noArray, hw]
  have hpower : mgmtPower { s with ports.nacked := false } v = { s with ports.nacked := false, spr.askPower := some st } := by
    rw [mgmtPower, if_neg (by tauto), if_neg (by simp [harray]), if_neg (fun h => ha h.1), hst]
  refine ⟨_, exec_mgmtPower hon hpower, ?_, ?_⟩
  all_goals rw [if_neg (by simp)]
  · exact (congrArg (·.spr.askPower) (besideWake_latchWake _ 0x40 6) :)
  · exact (congrArg (·.ports.nacked) (besideWake_latchWake _ 0x40 6) :)

/-- An array in A is asked to enter S or O: the entry begins. -/
theorem mgmtPower_of_awake {t : State} (hasked : v = 4 ∨ v = 5) (ha : s.spr.pstate = .a) (hstep : 15 ≤ s.rennet.step)
    (hiso : (s.spr.draining.isSome && s.spr.isoDone) = false)
    (henter : enterDeep { s with ports.nacked := false, spr.askPower := none } (if v = 4 then .s else .o) = t) : mgmtPower { s with ports.nacked := false } v = t := by
  rw [mgmtPower, if_neg (fun h => hasked.elim h.1 h.2), if_neg (by simp [noArray, ha]), if_pos ⟨ha, hstep⟩, ← henter]
  exact if_neg (by simpa using hiso)

theorem mgmtPower_awake (hv : (v, st) ∈ [((4 : Byte), PState.s), (5, .o)]) (ha : s.spr.pstate = .a) (hstep : 15 ≤ s.rennet.step) (hiso : (s.spr.draining.isSome && s.spr.isoDone) = false) :
    ∃ t, exec (.mgmtPower v) s = .next t ∧ t.spr.draining = some st ∧ t.spr.pstate = .a ∧ t.ports.nacked = false := by
  obtain ⟨hasked, rfl⟩ := mgmtPower_asks hv
  have hposture := posture_enterDeep { s with ports.nacked := false, spr.askPower := none } (if v = 4 then .s else .o)
  generalize henter : enterDeep _ _ = t at hposture
  obtain ⟨hdraining, hpstate, -, hask, hnacked, -⟩ := fields_of_fallen hposture
  refine ⟨_, exec_mgmtPower (by simp [ha]) (mgmtPower_of_awake hasked ha hstep hiso henter), ?_⟩
  rw [if_pos (by rw [hdraining, hask]; exact ⟨rfl, rfl⟩)]
  exact ⟨hdraining, hpstate.trans ha, hnacked⟩

end

/-! ### The statement -/

/-- Settles O59: each command is its body on the state with the acknowledgement cleared, and a wake source after it; of the wake it is needed what it leaves, and of an entry that it sets what drains. -/
theorem managementPort : Obligations.ManagementPort := by
  refine ⟨fun s ev addr static_ len => ⟨fun hoff => common_off hoff, fun ha hdrain => latchWake_of_awake ha hdrain _ _, fun s0 hs0 hon => ⟨?_, ?_, ?_, ?_, fun haddr => ⟨?_, ?_⟩⟩⟩,
    fun s hon s0 hs0 => ⟨fun ws now hnow => ⟨?_, ?_⟩, ?_, ?_, ?_, ?_, ?_, ?_, ?_, ?_, ?_⟩⟩
  · exact common_broadcast hs0 hon
  · exact fun hmine hfree => setdasa_next hs0 hon hmine hfree
  · exact fun hother => setdasa_other hon hother
  · exact fun haddr => common_unaddressed hon haddr
  · exact common_answered hs0 hon haddr
  · exact common_free hs0 hon haddr
  · exact fun hfree hcode => mgmtMbxSend_next hon hs0 hnow hfree hcode
  · exact fun hfull => mgmtMbxSend_full hon hs0 ws hnow hfull
  · subst hs0
    exact mgmtTaken_next hon rfl
  · exact fun hin hreply => mgmtMbxAck_next hon hs0 hin hreply
  · subst hs0
    exact mgmtTaken_next hon rfl
  · exact fun r q hqueue => reportRead_next hon hs0 hqueue
  · exact fun hqueue => reportRead_empty hon hqueue
  · subst hs0
    exact mgmtTaken_next hon rfl
  · subst hs0
    exact mgmtTaken_next hon rfl
  · exact fun v h4 h5 hdrain => mgmtPower_other hon h4 h5 hdrain
  · exact fun e he => ⟨fun ha hstep hiso => mgmtPower_awake he ha hstep hiso, fun hasleep => mgmtPower_asleep he hasleep⟩

end Sys2Proof.Machine
end

section
/-! The watch commands (08_sprout.md): a program that is copied, and its owner's start and stop. -/

namespace Sys2Proof.Machine

theorem spr_reply (s : State) (p : Nat) (k : Packet) (status : W16) (detail obj : W32) (state : Byte) : (reply s p k status detail obj state).spr = s.spr :=
  (congrArg (·.spr) (besideReply_reply s p k status detail obj state) :)

theorem cad_reply (s : State) (p : Nat) (k : Packet) (status : W16) (detail obj : W32) (state : Byte) : (reply s p k status detail obj state).cad = s.cad :=
  (congrArg (·.cad) (besideReply_reply s p k status detail obj state) :)

theorem streams_reply (s : State) (p : Nat) (k : Packet) (status : W16) (detail obj : W32) (state : Byte) : (reply s p k status detail obj state).streams = s.streams :=
  (congrArg (·.streams) (besideReply_reply s p k status detail obj state) :)

/-! ### The watch program (R312) -/

/-- A program ends with the first END packet that its bytes hold. -/
theorem watchCount_bound {bs : List Byte} {n : Nat} (h : watchCount bs = some n) : n ≤ 64 ∧ 32 * n ≤ bs.length := by
  rw [watchCount, Option.map_eq_some_iff] at h
  obtain ⟨i, hfind, rfl⟩ := h
  have hi : i < 64 := List.mem_range.mp (List.mem_of_find?_eq_some hfind)
  have hlen := List.find?_some hfind
  simp only [Bool.and_eq_true, decide_eq_true_eq] at hlen
  omega

/-- A program that passes its checks has its data lines behind the packets. -/
theorem line_of_watchBad {s : State} {bs : List Byte} {line n : Nat} {expert : Bool} (hcount : watchCount bs = some n) (h : watchBad s bs line expert = none) : 32 ≤ line := by
  unfold watchBad at h
  rw [hcount] at h
  dsimp only at h
  split at h
  · cases h
  · by_contra hline
    rw [if_pos (.inl (by omega))] at h
    cases h

/-- The packets of a program that was copied stand from byte 0; its data lie behind them. -/
theorem sram_putWatch {s : State} {bs : List Byte} {line n : Nat} (source : Nat) (owner : Option Nat) (hcount : watchCount bs = some n) (hline : 32 ≤ line)
    (hwf : Mem.wf 0 s.spr.sram = true) {i : Nat} (hi : i < 32 * n) : mget 0 (putWatch s bs line source owner).spr.sram i = bs.getD i 0 := by
  obtain ⟨hn, hlen⟩ := watchCount_bound hcount
  have hsram : (putWatch s bs line source owner).spr.sram = mwrite 0 (mwrite 0 s.spr.sram 0 (bs.take (32 * n))) (64 * line) (bs.drop (32 * n)) := by
    rw [putWatch, hcount]
    rfl
  have hinside := mget_mwrite_inside 0 (bs.take (32 * n)) s.spr.sram 0 i hwf (by rw [List.length_take]; omega)
  rw [Nat.zero_add] at hinside
  rw [hsram, mget_mwrite_outside _ _ _ _ _ (by omega), hinside, List.getD_eq_getElem?_getD, List.getElem?_take_of_lt hi, List.getD_eq_getElem?_getD]

section
variable {s : State} {p : PartId} {k : Packet}

/-- WATCH_LOAD copies its program where its fields and its bytes pass their tests and no other partition owns one. -/
theorem watchLoad_next {bs : List Byte} {line : Nat} (hright : hasRight s p.val 2 = true) (hstarts : Starts s p 0x0701 k) (hform : formCheck k 12 14 [] = none)
    (haddr : addrOk k 0 = true) (hend : parAddr k 0 + par k 8 4 ≤ 2 ^ 48) (hlen : par k 8 4 ≤ 262144) (howner : s.spr.owner = none ∨ s.spr.owner = some p.val)
    (hmapped : anyBlock s p.val (parAddr k 0) (par k 8 4) .unmapped = false) (hgood : anyBlock s p.val (parAddr k 0) (par k 8 4) .poisoned = false)
    (hbs : bs = devRead s p.val (parAddr k 0) (par k 8 4)) (hline : line = (if pktExpert k then par k 12 2 else 32)) (hwatch : watchBad s bs line (pktExpert k) = none) :
    ∃ t0 state, exec (.watchLoad p) s = .next (kept s (reply (putWatch t0 bs line 1 (some p.val)) p.val k stDone 0 noObj state)) ∧
      (t0 = takeHand s p.val ∨ t0 = zeroLines (takeHand s p.val)) := by
  have hother : ¬ (match s.spr.owner with | some q => q != p.val | none => false) = true := by
    rcases howner with h | h <;> simp [h]
  have hbad : watchBad (takeHand s p.val) bs line (pktExpert k) = none := hwatch
  refine ⟨if (takeHand s p.val).spr.owner = some p.val then takeHand s p.val else zeroLines (takeHand s p.val),
    watchState (putWatch (if (takeHand s p.val).spr.owner = some p.val then takeHand s p.val else zeroLines (takeHand s p.val)) bs line 1 (some p.val)) p.val, ends_kept ((ringCmdR_of_starts _ hright hstarts hform).trans ((if_neg hother).trans
    ((checked_of_good _ (by simp [firstBad, haddr]) (by simp [firstBad]; omega)).trans ((withData_of_mapped (s := takeHand s p.val) _ hmapped hgood).trans ?_)))), ?_⟩
  · rw [devRead_takeHand, ← hbs, ← hline, hbad]
  · split
    · exact .inl rfl
    · exact .inr rfl

theorem watchLoad_loaded {bs : List Byte} {line n : Nat} {t0 : State} (state : Byte) (h0 : t0 = takeHand s p.val ∨ t0 = zeroLines (takeHand s p.val)) (hcount : watchCount bs = some n)
    (hwatch : watchBad s bs line (pktExpert k) = none) {t : State} (ht : t = kept s (reply (putWatch t0 bs line 1 (some p.val)) p.val k stDone 0 noObj state)) :
    t.spr.owner = some p.val ∧ t.spr.npkt = n ∧ t.spr.source = 1 ∧ t.spr.dataLine = line ∧ t.spr.history = [] ∧
      t.spr.watchEn = s.spr.watchEn ∧ t.spr.wakeEn = s.spr.wakeEn ∧ t.cad = s.cad ∧ t.streams = s.streams ∧
      (Mem.wf 0 s.spr.sram = true → ∀ i, i < 32 * n → mget 0 t.spr.sram i = bs.getD i 0) := by
  have hspr : t.spr = (putWatch t0 bs line 1 (some p.val)).spr := by rw [ht]; exact spr_reply ..
  have hwf (hwf : Mem.wf 0 s.spr.sram = true) : Mem.wf 0 t0.spr.sram = true := by
    rcases h0 with rfl | rfl
    · exact hwf
    · exact mclear_wf _ _ _ _ hwf
  have hbeside : t0.spr.watchEn = s.spr.watchEn ∧ t0.spr.wakeEn = s.spr.wakeEn ∧ t0.cad = s.cad ∧ t0.streams = s.streams := by
    rcases h0 with rfl | rfl <;> exact ⟨rfl, rfl, rfl, rfl⟩
  obtain ⟨hen, hwake, hcad, hstreams⟩ := hbeside
  refine ⟨congrArg (·.owner) hspr, (congrArg (·.npkt) hspr).trans ?_, congrArg (·.source) hspr, congrArg (·.dataLine) hspr, congrArg (·.history) hspr,
    (congrArg (·.watchEn) hspr).trans hen, (congrArg (·.wakeEn) hspr).trans hwake, ?_, ?_, fun h i hi => ?_⟩
  · rw [putWatch, hcount]
    rfl
  · rw [ht]
    exact (cad_reply ..).trans hcad
  · rw [ht]
    exact (streams_reply ..).trans hstreams
  · rw [hspr]
    exact sram_putWatch 1 _ hcount (line_of_watchBad hcount hwatch) (hwf h) hi

/-- A partition starts and stops the program that it owns. -/
theorem watchOwner_of_owner {en : Bool} (howner : s.spr.owner = some p.val) (hloaded : s.spr.npkt ≠ 0) {t : State} (ht : setWatch s en = t)
    (hframe : t.spr.owner = s.spr.owner ∧ t.spr.npkt = s.spr.npkt ∧ t.spr.watchEn = en) :
    watchOwner p.val en s k = reply t p.val k stDone 0 noObj (if en then 0x72 else 0x71) := by
  obtain ⟨hto, htn, hte⟩ := hframe
  subst ht
  rw [watchOwner, if_neg (by simp [howner])]
  refine congrArg (reply (setWatch s en) p.val k stDone 0 noObj) ?_
  rw [watchState, if_neg (by rw [htn]; exact hloaded), hto, howner]
  simp [hte]

theorem setWatch_true (s : State) : setWatch s true = { s with spr.watchEn := true, spr.windowTs := if s.spr.watchEn then s.spr.windowTs else s.ts } := by
  unfold setWatch
  rw [if_pos rfl]
  split
  next h => rw [← h]
  · rfl

/-- Another partition's program is refused with its STATE. -/
theorem watchOwner_of_other {en : Bool} {q : Nat} (howner : s.spr.owner = some q) (hother : q ≠ p.val) (hloaded : s.spr.npkt ≠ 0) :
    watchOwner p.val en s k = reply s p.val k stState 0 noObj 0x73 := by
  rw [watchOwner, if_pos (by simp [howner, hother]), refuseState, watchState, if_neg hloaded, howner]
  simp [hother]

end

/-- Settles O25: a load is its copy of the packets and of the data behind them, which ends with a reply; start and stop are those of the owner. -/
theorem watchCommands : Obligations.WatchCommands := by
  refine fun s p k hright => ⟨fun bs line n hstarts hform haddr hend hlen howner hmapped hgood hbs hline hwatch hcount => ?_, fun hstarts hform howner hloaded => ?_,
    fun hstarts hform howner hloaded => ?_, fun q hstarts hform howner hother hloaded => ?_⟩
  · obtain ⟨t0, state, hnext, h0⟩ := watchLoad_next hright hstarts hform haddr hend hlen howner hmapped hgood hbs hline hwatch
    exact ⟨_, hnext, watchLoad_loaded state h0 hcount hwatch rfl⟩
  · exact ends_kept ((ringCmdR_of_starts _ hright hstarts hform).trans (watchOwner_of_owner (s := takeHand s p.val) howner hloaded (setWatch_true _) ⟨rfl, rfl, rfl⟩))
  · exact ends_kept ((ringCmdR_of_starts _ hright hstarts hform).trans (watchOwner_of_owner (s := takeHand s p.val) howner hloaded rfl ⟨rfl, rfl, rfl⟩))
  · exact ends_kept ((ringCmdR_of_starts _ hright hstarts hform).trans (watchOwner_of_other (s := takeHand s p.val) howner hother hloaded))

end Sys2Proof.Machine
end

section
/-! The ladder's commands (08_sprout.md): rungs, power states, pre-warm sets and wake settings. -/

namespace Sys2Proof.Machine

/-! ### Domains (R672) -/

theorem dom_setDom_same (s : State) (d : Domain) (v : Dom) : (s.setDom d v).dom d = v := by
  cases d <;> simp [State.setDom, State.dom]

theorem dom_setDom_other (s : State) {d e : Domain} (v : Dom) (h : e ≠ d) : (s.setDom d v).dom e = s.dom e := by
  cases d with
  | core c =>
    cases e with
    | core c' =>
      have hne : c'.val ≠ c.val := fun hc => h (congrArg Domain.core (Fin.ext hc))
      simp only [State.setDom, State.dom, core_modCore_other s _ hne]
    | _ => rfl
  | _ => cases e <;> simp_all [State.setDom, State.dom, State.core]

section
variable (s : State) (ret : Bool) {d e : Domain}

theorem req_askOff (d : Domain) : ((askOff s ret d).dom d).req = false := by
  unfold askOff
  dsimp only
  split
  · rw [dom_setDom_same]
  next h => simpa using h

theorem ret_askOff (h : (s.dom d).req = true) : ((askOff s ret d).dom d).ret = ret := by
  unfold askOff
  dsimp only
  rw [if_pos h, dom_setDom_same]

theorem dom_askOff_other (h : e ≠ d) : (askOff s ret d).dom e = s.dom e := by
  unfold askOff
  dsimp only
  split
  · exact dom_setDom_other s _ h
  · rfl

end

/-- Every domain of a list asked off, each with its retention. -/
def askOffs (s : State) (l : List (Bool × Domain)) : State := l.foldl (fun t d => askOff t d.1 d.2) s

theorem dom_askOffs_other (s : State) (l : List (Bool × Domain)) {d : Domain} (h : ∀ e ∈ l, d ≠ e.2) : (askOffs s l).dom d = s.dom d := by
  induction l generalizing s with
  | nil => rfl
  | cons e l ih =>
    rw [List.forall_mem_cons] at h
    exact (ih _ h.2).trans (dom_askOff_other s e.1 h.1)

/-- A domain that a list names once is off, with its retention where it was on. -/
theorem dom_askOffs_of_mem (s : State) {pre post : List (Bool × Domain)} {ret : Bool} {d : Domain} (hpre : ∀ e ∈ pre, d ≠ e.2) (hpost : ∀ e ∈ post, d ≠ e.2) :
    ((askOffs s (pre ++ (ret, d) :: post)).dom d).req = false ∧ ((s.dom d).req = true → ((askOffs s (pre ++ (ret, d) :: post)).dom d).ret = ret) := by
  have hdom : (askOffs s (pre ++ (ret, d) :: post)).dom d = (askOff (askOffs s pre) ret d).dom d := by
    rw [askOffs, List.foldl_append, List.foldl_cons]
    exact dom_askOffs_other _ post hpost
  rw [hdom]
  exact ⟨req_askOff .., fun h => ret_askOff _ _ (by rw [dom_askOffs_other s pre hpre]; exact h)⟩

/-- The state but for the cores and the switches of the other domains: what no switch-off changes. -/
def besideDoms (s : State) : State := { s with cores := [], crp := {} }

theorem besideDoms_setDom (s : State) (d : Domain) (v : Dom) : besideDoms (s.setDom d v) = besideDoms s := by cases d <;> rfl

theorem besideDoms_askOff (s : State) (ret : Bool) (d : Domain) : besideDoms (askOff s ret d) = besideDoms s := by
  unfold askOff
  dsimp only
  split
  · exact besideDoms_setDom ..
  · rfl

theorem besideDoms_askOffs (s : State) (l : List (Bool × Domain)) : besideDoms (askOffs s l) = besideDoms s :=
  view_foldl besideDoms (fun _ _ => besideDoms_askOff ..) _ _

/-! ### Entry to I and T (R315, R362, R363) -/

/-- In I every link that was UP is in electrical idle. -/
theorem port_enterI (s : State) {f : Nat} (h : (s.port f).state = .up) : ((enterI s).port f).state = .lp := by
  have hport : (enterI s).port f = (if (s.port f).state = .up then { s.port f with state := .lp, txFlits := satInc (s.port f).txFlits } else s.port f) :=
    tget_tmap ({} : Port) (fun q : Port => if q.state = .up then { q with state := .lp, txFlits := satInc q.txFlits } else q) rfl s.fab.ports f
  rw [hport, if_pos h]

theorem sleeping_sendLsa (s : State) : (sendLsa s).fab.sleeping = s.fab.sleeping := by
  unfold sendLsa
  split
  · rfl
  · exact (congrArg (·.fab.sleeping) (beyondLinks_sendFrame _ _ _) :)

/-- The links asleep: beside the fabric and the drawn values nothing changes. -/
theorem sleepLinks_frame (s : State) : ∃ fab n, sleepLinks s = { s with fab := fab, freeNo := n } ∧ fab.sleeping = true := by
  have hbeyond (u : State) := eq_of_beyondFab (beyondFab_sendLsa u)
  have hsleep (u : State) := sleeping_sendLsa u
  unfold sleepLinks
  extract_lets notice off spr s1
  refine ⟨{ s1.fab with ports := tmap off s1.fab.ports }, s1.freeNo, ?_, hsleep _⟩
  rw [show s1 = { s with fab := s1.fab, freeNo := s1.freeNo } from hbeyond _]

/-- What entry to T switches off: the window domains, the array and the cores that are on. -/
theorem enterT_frame (s : State) : ∃ fab n, fab.sleeping = true ∧ enterT s = { askOffs { s with fab := fab, freeNo := n }
    (windowDoms s ++ [(true, Domain.ctl), (true, .flc), (true, .net)] ++ (coresOn s).map (fun c => (true, coreDom c))) with spr.pstate := .t } := by
  obtain ⟨fab, n, hlinks, hsleep⟩ := sleepLinks_frame s
  exact ⟨fab, n, hsleep, by rw [enterT, hlinks]; rfl⟩

theorem beside_enterT (s : State) : ∃ fab n, fab.sleeping = true ∧ besideDoms (enterT s) = besideDoms { s with fab := fab, freeNo := n, spr.pstate := .t } := by
  obtain ⟨fab, n, hsleep, henter⟩ := enterT_frame s
  refine ⟨fab, n, hsleep, ?_⟩
  rw [henter]
  exact (congrArg (fun u : State => { u with spr.pstate := .t }) (besideDoms_askOffs { s with fab := fab, freeNo := n } _) :)

/-- The windows' domains are Sprout and its ports. -/
theorem ne_of_mem_windowDoms {s : State} {d : Domain} (hspr : d ≠ .spr) (hstr : d ≠ .str) : ∀ e ∈ windowDoms s, d ≠ e.2 := by
  unfold windowDoms
  split
  · simp
  · simp [hspr, hstr]

theorem ne_of_mem_coreDoms {d : Domain} (hcore : ∀ c, d ≠ .core c) (cs : List Nat) : ∀ e ∈ cs.map (fun c => (true, coreDom c)), d ≠ e.2 := by
  intro e he
  obtain ⟨c, -, rfl⟩ := List.mem_map.mp he
  exact hcore _

theorem net_enterT (s : State) : (enterT s).crp.net.req = false ∧ (s.crp.net.req = true → (enterT s).crp.net.ret = true) := by
  obtain ⟨fab, n, -, henter⟩ := enterT_frame s
  have hdom := dom_askOffs_of_mem { s with fab := fab, freeNo := n } (pre := windowDoms s ++ [(true, .ctl), (true, .flc)]) (post := (coresOn s).map (fun c => (true, coreDom c))) (ret := true)
    (d := .net) (List.forall_mem_append.mpr ⟨ne_of_mem_windowDoms (by decide) (by decide), by decide⟩) (ne_of_mem_coreDoms (fun _ => by simp) _)
  rw [henter]
  simp only [List.append_assoc, List.cons_append, List.nil_append] at hdom ⊢
  exact hdom

theorem ctl_enterT (s : State) : (enterT s).crp.ctl.req = false := by
  obtain ⟨fab, n, -, henter⟩ := enterT_frame s
  obtain ⟨hreq, -⟩ := dom_askOffs_of_mem { s with fab := fab, freeNo := n } (pre := windowDoms s) (post := (true, .flc) :: (true, .net) :: (coresOn s).map (fun c => (true, coreDom c)))
    (ret := true) (d := .ctl) (ne_of_mem_windowDoms (by decide) (by decide)) (by
      rw [List.forall_mem_cons, List.forall_mem_cons]
      exact ⟨by decide, by decide, ne_of_mem_coreDoms (fun _ => by simp) _⟩)
  rw [henter]
  simp only [List.append_assoc, List.cons_append, List.nil_append]
  exact hreq

/-! ### RUNG (R324, R326) -/

theorem topRung_le_topRising (s : State) : topRung s ≤ topRising s := by
  unfold topRung topRising
  rcases s.spr.l3 <;> rcases s.spr.l2 <;> rcases s.spr.l1 <;> decide

section
variable {s : State} {p : PartId} {k : Packet}

theorem hasRight_takeHand (s : State) (p r : Nat) : hasRight (takeHand s p) p r = hasRight s p r := by
  rw [hasRight, takeHand, part_modPart_same]
  rfl

/-- A rung above those that are UP or RISING, within the highest allowed and above the target, is the new target. -/
theorem promote_of_above {n q : Nat} (hright : hasRight s q 2 = true) (habove : topRising s < n) (hmax : n ≤ s.spr.maxRung.toNat) (hfall : s.spr.falling = none)
    (htarget : s.spr.target.toNat < n) : ∃ lo, promote s n (some q) =
      climb { queuePre (sprEvent s 1) lo n with spr.target := BitVec.ofNat 2 n, spr.promotions := satInc s.spr.promotions } := by
  refine ⟨max (topRung (sprEvent s 1) + 1) ((sprEvent s 1).spr.target.toNat + 1), ?_⟩
  have hmin : min n (max 1 s.spr.maxRung.toNat) = n := by omega
  unfold promote
  dsimp only
  rw [if_neg (by omega), if_neg (by simp [hright]), hmin, if_neg (show ¬ max 1 s.spr.maxRung.toNat < n by omega), hfall]
  simp only [Bool.false_eq_true, if_false]
  rw [if_neg (by omega), if_pos (show (sprEvent s 1).spr.target.toNat < n from htarget)]
  rfl

/-- The state of the ladder as a target is raised. -/
theorem ladder_of_raised (lo n : Nat) {t : State} (ht : t = climb { queuePre (sprEvent s 1) lo n with spr.target := BitVec.ofNat 2 n, spr.promotions := satInc s.spr.promotions }) :
    t.spr.target = BitVec.ofNat 2 n ∧ t.spr.events = raiseEv s.spr.events 1 ∧ t.spr.promotions = satInc s.spr.promotions ∧ t.spr.pstate = s.spr.pstate ∧ t.cad = s.cad := by
  have hclimb : besideRise t = besideRise { queuePre (sprEvent s 1) lo n with spr.target := BitVec.ofNat 2 n, spr.promotions := satInc s.spr.promotions } := by
    rw [ht]
    exact besideRise_climb _
  have hpre := besideRise_queuePre (sprEvent s 1) lo n
  exact ⟨congrArg (·.spr.target) hclimb, (congrArg (·.spr.events) hclimb).trans (congrArg (·.spr.events) hpre), congrArg (·.spr.promotions) hclimb,
    (congrArg (·.spr.pstate) hclimb).trans (congrArg (·.spr.pstate) hpre), (congrArg (·.cad) hclimb).trans (congrArg (·.cad) hpre)⟩

theorem rungBody_up {t : State} (hr : par k 0 1 ≤ 3) (habove : topRising s < par k 0 1) (ht : promote s (par k 0 1) (some p.val) = t) :
    rungBody p.val s k = replyDone t p.val k := by
  have htop := topRung_le_topRising s
  subst ht
  unfold rungBody
  dsimp only
  rw [if_neg (by omega), if_pos (by omega)]

theorem rungBody_down (hr : par k 0 1 ≤ 3) (hbelow : par k 0 1 < topRung s) (hpos : 0 < par k 0 1) (hrise : isRising s = false) (hseq : inSequence s = false)
    (hidle : coresIdle s ((List.range s.ncores).filter (fun c => decide (rungSize s (par k 0 1) ≤ c))) = true) :
    rungBody p.val s k = beginFall (replyDone s p.val k) (par k 0 1) := by
  have hzero : par k 0 1 ≠ 0 := by omega
  unfold rungBody
  dsimp only
  rw [if_neg (by omega), if_neg (by omega), if_neg (by simp [hrise]), if_neg (by simp [hseq, hidle, hzero]), if_neg hzero]

theorem topRung_le_three (s : State) : topRung s ≤ 3 := by
  unfold topRung
  split
  · omega
  · split
    · omega
    · split <;> omega

/-- The rungs as those above `n`, at least 1 and below 3, begin to fall. -/
theorem rungs_fallen {n : Nat} (hpos : 0 < n) (hn : n < 3) (q : Sprout) :
    (n < 2 → (fallen n q).l2 = .falling ∨ q.l2 = .down) ∧ ((fallen n q).l3 = .falling ∨ q.l3 = .down) ∧ (fallen n q).l1 = q.l1 := by
  have hturn (m : Nat) (r : Rung) (hm : n < m) : (if n < m ∧ r ≠ .down then Rung.falling else r) = .falling ∨ r = .down := by
    by_cases hr : r = .down
    · exact .inr hr
    · exact .inl (if_pos ⟨hm, hr⟩)
  exact ⟨fun h => hturn 2 q.l2 h, hturn 3 q.l3 hn, if_neg (by omega)⟩

/-- What a fall leaves in Sprout's block. -/
theorem ladder_beginFall {u t : State} (hspr : u.spr = s.spr) {n : Nat} (hpos : 0 < n) (hn : n < 3) (ht : beginFall u n = t) :
    t.spr.target = BitVec.ofNat 2 n ∧ t.spr.falling = some (n + 1) ∧ t.spr.isoDone = false ∧
      (n < 2 → t.spr.l2 = .falling ∨ s.spr.l2 = .down) ∧ (t.spr.l3 = .falling ∨ s.spr.l3 = .down) ∧ t.spr.l1 = s.spr.l1 ∧ t.spr.pstate = s.spr.pstate := by
  have hfall : besideReply t = besideReply { u with spr := { fallen n u.spr with preWarm := t.spr.preWarm } } := by
    rw [← ht]
    exact besideReply_beginFall u n
  have htspr : t.spr = { fallen n u.spr with preWarm := t.spr.preWarm } := (congrArg (·.spr) hfall :)
  rw [htspr, hspr]
  obtain ⟨hl2, hl3, hl1⟩ := rungs_fallen hpos hn s.spr
  exact ⟨rfl, rfl, rfl, hl2, hl3, hl1, rfl⟩

/-! ### POWER_STATE (R315, R334) -/

/-- An entry to I or T is allowed where nothing holds the block back and the next release leaves room. -/
def mayRest (s : State) (st : PState) : Prop := inSequence s = false ∧ anyBusy s = false ∧ s.mem.queue = [] ∧ fits s st = true

theorem powerBody_i (hv : par k 0 1 = 1) (h : mayRest s .i) : powerBody p.val s k = enterI (replyDone s p.val k) := by
  obtain ⟨hseq, hbusy, hqueue, hfits⟩ := h
  simp [powerBody, hv, hseq, hbusy, hqueue, hfits]

theorem powerBody_t (hv : par k 0 1 = 2) (h : mayRest s .t) : powerBody p.val s k = enterT (replyDone s p.val k) := by
  obtain ⟨hseq, hbusy, hqueue, hfits⟩ := h
  simp [powerBody, hv, hseq, hbusy, hqueue, hfits]

theorem powerBody_deep (hlo : 3 ≤ par k 0 1) (hhi : par k 0 1 ≤ 5) (hstanding : par k 0 1 = 3 → anyStanding s = false) :
    powerBody p.val s k = askDeep (replyDone s p.val k) (if par k 0 1 = 3 then .w else if par k 0 1 = 4 then .s else .o) := by
  have hv : par k 0 1 = 3 ∨ par k 0 1 = 4 ∨ par k 0 1 = 5 := by omega
  rcases hv with hv | hv | hv
  · simp [powerBody, hv, hstanding hv]
  · simp [powerBody, hv]
  · simp [powerBody, hv]

theorem ladder_askDeep {u t : State} (hspr : u.spr = s.spr) (hiso : (s.spr.draining.isSome && s.spr.isoDone) = false) (st : PState) (ht : askDeep u st = t) :
    t.spr.draining = some st ∧ t.spr.pstate = s.spr.pstate ∧ t.spr.target = 0 ∧ t.spr.l1 ≠ .up := by
  have hiso' : ¬ (u.spr.draining.isSome = true ∧ u.spr.isoDone = true) := by rw [hspr]; simpa using hiso
  have hposture := posture_enterDeep { u with spr.askPower := none } st
  have hl1 := l1_enterDeep_ne_up { u with spr.askPower := none } st
  have henter : enterDeep { u with spr.askPower := none } st = t := (if_neg hiso').symm.trans ht
  rw [henter] at hposture hl1
  obtain ⟨hdraining, hpstate, htarget, -, -, -⟩ := fields_of_fallen hposture
  exact ⟨hdraining, hpstate.trans (congrArg Sprout.pstate hspr :), htarget, hl1⟩

/-! ### PRE_WARM_SET and WAKE_SET (R329, R334) -/

theorem listOf_takeHand (s : State) (p len : Nat) (k : Packet) : listOf (takeHand s p) p k len = listOf s p k len := by
  refine congrArg (k.list.getD ·) ?_
  unfold readList
  rw [devRead_takeHand]
  rfl

theorem preRange_takeHand (s : State) (p rung n : Nat) (l : List Byte) : preRange (takeHand s p) p rung l n = preRange s p rung l n := by
  have hcores : ((takeHand s p).part p).cores = (s.part p).cores := by rw [takeHand, part_modPart_same]
  unfold preRange
  rw [hcores]
  rfl

theorem preWarmBody_of_good {n r : Nat} {l : List Byte} (haddr : addrOk k 8 = true) (hr : r = par k 0 1) (hn : n = par k 1 1) (hlo : 1 ≤ r) (hhi : r ≤ 3)
    (hroom : ((tget [] s.spr.preWarm r).filter (fun e => e.part != p.val)).length + n ≤ 64) (hlist : listOf s p.val k (16 * n) = .bytes l) (hfmt : preFormat l n = none)
    (hrange : preRange s p.val r l n = none) : preWarmBody p.val s k =
      replyDone { s with spr.preWarm := tset s.spr.preWarm r ((tget [] s.spr.preWarm r).filter (fun e => e.part != p.val) ++ (List.range n).map (preEntry p.val l)) } p.val k := by
  unfold preWarmBody
  dsimp only
  rw [← hr, ← hn]
  refine (checked_of_good _ (by simp [firstBad, haddr]) ?_).trans ?_
  · rw [decide_eq_false (by omega), decide_eq_false (by omega)]
    rfl
  · rw [withList, hlist]
    dsimp only
    rw [hfmt, hrange]

theorem wakeSetBody_of_good (hmask : par k 0 1 < 128) : wakeSetBody p.val s k =
    replyDone { s with spr.wakeEn := BitVec.ofNat 7 (par k 0 1), spr.aonTimer := BitVec.ofNat 32 (par k 4 4), spr.aonTs := s.ts, spr.wakeHold := BitVec.ofNat 16 (par k 8 2) } p.val k :=
  checked_of_good _ (by simp [firstBad]; omega) rfl

end

theorem spr_replied (s : State) (p : Nat) (k : Packet) : (replyDone (takeHand s p) p k).spr = s.spr := spr_reply ..

/-- Settles O27: a rung is a promotion or a fall, a power state one of the entries, and the two lists are written as they come. -/
theorem ladderCommands : Obligations.LadderCommands := by
  refine fun s p k hright => ⟨fun hstarts hform hr => ⟨fun habove hmax hfall htarget => ?_, fun hbelow hpos hrise hseq hidle => ?_⟩,
    fun hstarts hform => ⟨fun hv hseq hbusy hqueue hfits => ?_, fun hv hseq hbusy hqueue hfits => ?_, fun hlo hhi hstanding hiso => ?_, fun hv => ?_⟩,
    fun n r l hstarts hform haddr hr hn hlo hhi hroom hlist hfmt hrange => ?_, fun hstarts hform hmask => ?_⟩
  · obtain ⟨lo, hpromote⟩ := promote_of_above (s := takeHand s p.val) ((hasRight_takeHand ..).trans hright) habove hmax hfall htarget
    refine ⟨_, ends_kept ((ringCmdR_of_starts _ hright hstarts hform).trans (rungBody_up (s := takeHand s p.val) hr habove hpromote)), ?_⟩
    obtain ⟨hto, hevents, hcount, hstate, hcad⟩ := ladder_of_raised (s := takeHand s p.val) lo (par k 0 1) rfl
    generalize climb _ = t at *
    exact ⟨(congrArg Sprout.target (spr_reply ..)).trans hto, (congrArg Sprout.events (spr_reply ..)).trans hevents, (congrArg Sprout.promotions (spr_reply ..)).trans hcount,
      (congrArg Sprout.pstate (spr_reply ..)).trans hstate, (cad_reply ..).trans hcad⟩
  · have htop : topRung s ≤ 3 := topRung_le_three s
    have hbody := rungBody_down (s := takeHand s p.val) (p := p) hr hbelow hpos hrise hseq hidle
    generalize ht : beginFall _ _ = t at hbody
    have hladder := ladder_beginFall (spr_replied s p.val k) hpos (by omega) ht
    exact ⟨_, ends_kept ((ringCmdR_of_starts _ hright hstarts hform).trans hbody), hladder⟩
  · refine ⟨_, ends_kept ((ringCmdR_of_starts _ hright hstarts hform).trans (powerBody_i (s := takeHand s p.val) hv ⟨hseq, hbusy, hqueue, hfits⟩)), rfl,
      (congrArg (·.ts) (besideReply_reply ..) :), fun f hup => port_enterI _ ?_, (congrArg (·.cores) (besideReply_reply ..) :)⟩
    exact (congrArg (fun u : State => (u.port f).state) (besideReply_reply (takeHand s p.val) p.val k stDone 0 noObj 0) :).trans hup
  · have hbody := powerBody_t (s := takeHand s p.val) (p := p) hv ⟨hseq, hbusy, hqueue, hfits⟩
    have hspr := spr_replied s p.val k
    have hcrp : (replyDone (takeHand s p.val) p.val k).crp = s.crp := (congrArg (·.crp) (besideReply_reply ..) :)
    obtain ⟨fab, n, hsleep, hbeside⟩ := beside_enterT (replyDone (takeHand s p.val) p.val k)
    obtain ⟨hnet, hret⟩ := net_enterT (replyDone (takeHand s p.val) p.val k)
    have hctl := ctl_enterT (replyDone (takeHand s p.val) p.val k)
    refine ⟨_, ends_kept ((ringCmdR_of_starts _ hright hstarts hform).trans hbody), ?_⟩
    generalize enterT _ = t at *
    exact ⟨congrArg (·.spr.pstate) hbeside, (congrArg (·.fab.sleeping) hbeside).trans hsleep, hnet, hctl, fun h => hret (by rw [hcrp]; exact h),
      (congrArg (·.spr.l1) hbeside).trans (congrArg (·.l1) hspr), (congrArg (·.spr.l2) hbeside).trans (congrArg (·.l2) hspr), (congrArg (·.spr.l3) hbeside).trans (congrArg (·.l3) hspr)⟩
  · have hbody := powerBody_deep (s := takeHand s p.val) (p := p) hlo hhi hstanding
    generalize ht : askDeep _ _ = t at hbody
    have hladder := ladder_askDeep (spr_replied s p.val k) hiso _ ht
    exact ⟨_, ends_kept ((ringCmdR_of_starts _ hright hstarts hform).trans hbody), hladder⟩
  · exact ends_kept ((ringCmdR_of_starts _ hright hstarts hform).trans (if_pos hv))
  · exact ends_kept ((ringCmdR_of_starts _ hright hstarts hform).trans (preWarmBody_of_good (s := takeHand s p.val) haddr hr hn hlo hhi hroom ((listOf_takeHand ..).trans hlist) hfmt
      ((preRange_takeHand ..).trans hrange)))
  · exact ends_kept ((ringCmdR_of_starts _ hright hstarts hform).trans (wakeSetBody_of_good (s := takeHand s p.val) hmask))

end Sys2Proof.Machine
end

section
/-! Power states that the block enters and leaves by itself (08_sprout.md): entry to I and T, wakes, and the start of restores. -/

namespace Sys2Proof.Machine

/-! ### Entry to I and T (R315, R317) -/

/-- Without graphs no release is to come, and every state fits. -/
theorem fits_of_noGraphs {s : State} (hgraphs : s.graphs = []) (st : PState) : fits s st = true := by
  simp [fits, nextRelease, hgraphs]

section
variable {s : State} (hgraphs : s.graphs = []) (hseq : inSequence s = false) (hbusy : anyBusy s = false)
include hgraphs hseq hbusy

theorem autoI_of_idle (ha : s.spr.pstate = .a) (hauto : s.spr.autoI = true) (hqueue : s.mem.queue = []) (hidle : s.spr.idleSince.toNat + 20000 ≤ s.ts.toNat)
    (hstep : 15 ≤ s.rennet.step) (htrip : s.pwr.trip = false) : autoI s = enterI s :=
  if_pos (by simp [ha, hauto, hbusy, hqueue, hidle, fits_of_noGraphs hgraphs, hseq, hstep, htrip])

theorem autoT_of_idle (hi : s.spr.pstate = .i) (hauto : s.spr.autoT = true) (hidle : s.spr.iSince.toNat + s.spr.idleT.toNat * 1000000 ≤ s.ts.toNat) : autoT s = enterT s :=
  if_pos (by simp [hi, hauto, hbusy, hidle, fits_of_noGraphs hgraphs, hseq])

end

/-! ### Restores (R320) -/

/-- The start of a restore from I or T changes Sprout's block only in that the restore is under way. -/
theorem spr_beginRestore {s : State} {src : PState} (h : src = .i ∨ src = .t) : (beginRestore s src).spr = { s.spr with restoring := some src, wakeTs := s.ts } := by
  rcases h with rfl | rfl
  · rfl
  · unfold beginRestore
    dsimp only
    rw [spr_askOns, spr_askOn]
    exact spr_askOns ..

/-- The start of a restore from W: the first rung rises. -/
theorem spr_beginRestore_w (s : State) : ∃ target queue, (beginRestore s .w).spr =
    { s.spr with restoring := some .w, wakeTs := s.ts, l1 := .rising, target := target, preQueue := queue } := by
  have hrise : ∃ (u : State) (n : Nat), u.spr = { s.spr with restoring := some .w, wakeTs := s.ts } ∧
      beginRestore s .w = queuePre { setRung u 1 .rising with spr.target := BitVec.ofNat 2 n } 1 n :=
    ⟨_, _, (spr_askOn ..).trans ((spr_askOn ..).trans (spr_askOns ..)), rfl⟩
  obtain ⟨u, n, hu, hbegin⟩ := hrise
  refine ⟨BitVec.ofNat 2 n, (beginRestore s .w).spr.preQueue, (congrArg State.spr hbegin).trans ((spr_queuePre ..).trans ?_)⟩
  rw [hbegin, setRung, if_pos rfl]
  dsimp only
  rw [hu]

/-- What a wake latches in a state that it wakes, and the restore that it begins. -/
theorem latchWake_of_asleep {s : State} {sources ok : BitVec 7} {first : Nat} {src : PState} (hstate : s.spr.pstate = src) (hrest : s.spr.restoring = none) (hdrain : s.spr.draining = none)
    (hok : ok = sources &&& s.spr.wakeEn &&& wakesFrom src) (hne : ok ≠ 0) (harray : noArray s = false) :
    ∃ f : Nat, (ok.getLsbD first = true → f = first) ∧
      latchWake s sources first = beginRestore { s with spr.wakeCause := s.spr.wakeCause ||| ok, spr.first := BitVec.ofNat 3 f } src := by
  subst hstate
  refine ⟨if ok.getLsbD first then first else ((List.range 7).find? (fun i => ok.getLsbD i)).getD 0, fun h => if_pos h, ?_⟩
  unfold latchWake
  dsimp only
  rw [hdrain]
  dsimp only
  rw [← hok, if_neg hne, if_pos (by simp [hrest, harray]), hrest]
  rfl

theorem noArray_of_not_w {s : State} (h : s.spr.pstate = .i ∨ s.spr.pstate = .t) : noArray s = false := by
  rcases h with h | h <;> simp [noArray, h]

section
variable {s : State} {now : W64} (hnow : s.ts.toNat ≤ now.toNat)
include hnow

theorem autoIEntry_next (ha : s.spr.pstate = .a) (hauto : s.spr.autoI = true) (hbusy : anyBusy s = false) (hqueue : s.mem.queue = []) (hidle : s.spr.idleSince.toNat + 20000 ≤ now.toNat)
    (hgraphs : s.graphs = []) (hseq : inSequence s = false) (hstep : 15 ≤ s.rennet.step) (htrip : s.pwr.trip = false) :
    ∃ t, exec (.autoIEntry now) s = .next t ∧ t.spr.pstate = .i ∧ t.spr.iSince = now ∧ t.cores = s.cores ∧ t.mem = s.mem ∧ t.parts = s.parts :=
  ⟨_, endsAt_of_eq hnow (autoI_of_idle (s := { s with ts := now }) hgraphs hseq hbusy ha hauto hqueue hidle hstep htrip), rfl, rfl, rfl, rfl, rfl⟩

theorem autoTEntry_next (hi : s.spr.pstate = .i) (hauto : s.spr.autoT = true) (hbusy : anyBusy s = false) (hidle : s.spr.iSince.toNat + s.spr.idleT.toNat * 1000000 ≤ now.toNat)
    (hgraphs : s.graphs = []) (hseq : inSequence s = false) :
    ∃ t, exec (.autoTEntry now) s = .next t ∧ t.spr.pstate = .t ∧ t.fab.sleeping = true ∧ t.mem.maps = s.mem.maps := by
  obtain ⟨fab, n, hsleep, hbeside⟩ := beside_enterT { s with ts := now }
  have hauto' := autoT_of_idle (s := { s with ts := now }) hgraphs hseq hbusy hi hauto hidle
  generalize enterT _ = t at hbeside hauto'
  exact ⟨_, endsAt_of_eq hnow hauto', congrArg (·.spr.pstate) hbeside, (congrArg (·.fab.sleeping) hbeside).trans hsleep, congrArg (·.mem.maps) hbeside⟩

end

section
variable {s : State} {now : W64} (hnow : s.ts.toNat ≤ now.toNat) (hrest : s.spr.restoring = none) (hdrain : s.spr.draining = none)
include hnow hrest hdrain

theorem preReleaseRestore_next (hstate : s.spr.pstate = .i ∨ s.spr.pstate = .t) (hfits : fits { s with ts := now } s.spr.pstate = false) :
    ∃ t, exec (.preReleaseRestore now) s = .next t ∧ t.spr.restoring = some s.spr.pstate ∧ t.spr.wakeTs = now ∧ t.spr.wakeCause = s.spr.wakeCause := by
  have hspr := spr_beginRestore (s := { s with ts := now }) hstate
  have hnext : execPreReleaseRestore now s = .next (kept s (beginRestore { s with ts := now } s.spr.pstate)) := by
    rw [execPreReleaseRestore, endsAt, advance_of_le hnow]
    exact ends_kept (if_pos (by simp [hrest, hdrain, hfits, hstate]))
  exact ⟨_, hnext, congrArg (·.restoring) hspr, congrArg (·.wakeTs) hspr, congrArg (·.wakeCause) hspr⟩

theorem wake_next {sources : BitVec 7} {first : Fin 7} {rung : Fin 4} {src : PState} (hstate : s.spr.pstate = src) (hsrc : src = .i ∨ src = .t)
    (hne : sources &&& s.spr.wakeEn &&& wakesFrom src ≠ 0) (htest : sources.getLsbD 3 = false) :
    ∃ t, exec (.wake sources first rung now) s = .next t ∧ t.spr.wakeCause = s.spr.wakeCause ||| (sources &&& s.spr.wakeEn &&& wakesFrom src) ∧ t.spr.restoring = some src ∧
      t.spr.wakeTs = now ∧ ((sources &&& s.spr.wakeEn &&& wakesFrom src).getLsbD first.val = true → t.spr.first = BitVec.ofNat 3 first.val) := by
  subst hstate
  obtain ⟨f, hf, hlatch⟩ := latchWake_of_asleep (s := { s with ts := now }) (first := first.val) rfl hrest hdrain rfl hne (noArray_of_not_w hsrc)
  have hspr := spr_beginRestore (s := { { s with ts := now } with spr.wakeCause := s.spr.wakeCause ||| (sources &&& s.spr.wakeEn &&& wakesFrom s.spr.pstate), spr.first := BitVec.ofNat 3 f }) hsrc
  have hquiet : ¬ (sources &&& s.spr.wakeEn &&& wakesFrom s.spr.pstate).getLsbD 3 = true := by
    rw [BitVec.getLsbD_and, BitVec.getLsbD_and, htest, Bool.false_and, Bool.false_and]
    exact Bool.false_ne_true
  have hnext : execWake sources first rung now s = .next (kept s (latchWake { s with ts := now } sources first)) := by
    rw [execWake, endsAt, advance_of_le hnow]
    exact ends_kept (if_neg hquiet)
  rw [hlatch] at hnext
  refine ⟨_, hnext, congrArg (·.wakeCause) hspr, congrArg (·.restoring) hspr, congrArg (·.wakeTs) hspr, fun h => ?_⟩
  rw [← hf h]
  exact congrArg (·.first) hspr

section
variable (htimer : s.spr.aonTimer ≠ 0) (hdue : s.spr.aonTs.toNat + s.spr.aonTimer.toNat * 1000000 ≤ now.toNat)
include htimer hdue

omit hrest hdrain in
theorem aonTimerExpire_next : exec (.aonTimerExpire now) s = .next (kept s (latchWake { { s with ts := now } with spr.aonTimer := 0 } 0x20 5)) := by
  have hnext : execAonTimerExpire now s = .next (kept s (latchWake { { s with ts := now } with spr.aonTimer := 0 } 0x20 5)) := by
    rw [execAonTimerExpire, endsAt, advance_of_le hnow]
    exact ends_kept (if_pos ⟨htimer, hdue⟩)
  exact hnext

/-- The always-on timer wakes from W to L1 (R318, R335). -/
theorem aonTimerExpire_w (hen : s.spr.wakeEn.getLsbD 5 = true) (hw : s.spr.pstate = .w) (hboot : s.rennet.boot = .verified) :
    ∃ t, exec (.aonTimerExpire now) s = .next t ∧ t.spr.aonTimer = 0 ∧ t.spr.wakeCause = s.spr.wakeCause ||| 0x20 ∧ t.spr.first = 5 ∧ t.spr.restoring = some .w ∧ t.spr.l1 = .rising := by
  have hok : (0x20 : BitVec 7) = 0x20 &&& s.spr.wakeEn &&& wakesFrom .w := by
    revert hen
    generalize s.spr.wakeEn = en
    revert en
    decide
  obtain ⟨f, hf, hlatch⟩ := latchWake_of_asleep (s := { { s with ts := now } with spr.aonTimer := 0 }) (first := 5) hw hrest hdrain hok (by decide) (by simp [noArray, bare, hboot])
  obtain rfl := hf (by decide)
  obtain ⟨target, queue, hspr⟩ := spr_beginRestore_w { { { s with ts := now } with spr.aonTimer := 0 } with spr.wakeCause := s.spr.wakeCause ||| 0x20, spr.first := BitVec.ofNat 3 5 }
  refine ⟨_, aonTimerExpire_next hnow htimer hdue, ?_⟩
  rw [hlatch]
  exact ⟨congrArg (·.aonTimer) hspr, congrArg (·.wakeCause) hspr, congrArg (·.first) hspr, congrArg (·.restoring) hspr, congrArg (·.l1) hspr⟩

omit hrest in
theorem aonTimerExpire_a (ha : s.spr.pstate = .a) : exec (.aonTimerExpire now) s = .next { s with ts := now, spr.aonTimer := 0 } := by
  have hstill := latchWake_of_awake (s := { { s with ts := now } with spr.aonTimer := 0 }) ha hdrain 0x20 5
  rw [aonTimerExpire_next hnow htimer hdue, hstill]
  exact congrArg Host.Outcome.next (kept_eq_self rfl rfl)

end

end

end Sys2Proof.Machine
end

section
/-! How restores, rises and falls end or begin by themselves (08_sprout.md): state A, a rung that is UP, the fall of an idle rung, and a standalone unit that goes to W. -/

namespace Sys2Proof.Machine

/-! ### The beats that the ports held (R240) -/

/-- The state without streams, taps and the port group: what no beat changes. -/
def besideBeats (s : State) : State := { s with streams := [], spr.sram := [], spr.heldBeats := [], ports := {} }

theorem besideBeats_modStream (s : State) (n : Nat) (f : Stream → Stream) : besideBeats (s.modStream n f) = besideBeats s := rfl
theorem besideBeats_startFrame (s : State) (n : Nat) : besideBeats (startFrame s n) = besideBeats s := rfl

theorem besideBeats_linkErr (s : State) (n : Nat) : besideBeats (linkErr s n) = besideBeats s := by
  unfold linkErr
  split <;> rfl

theorem besideBeats_putFrame (s : State) (n : Nat) (bs : List Byte) : besideBeats (putFrame s n bs) = besideBeats s := by
  unfold putFrame
  dsimp only
  split
  · rfl
  · refine (besideBeats_modStream ..).trans ?_
    split <;> rfl

theorem besideBeats_endFrame (s : State) (n : Nat) : besideBeats (endFrame s n) = besideBeats s := by
  unfold endFrame
  split <;> rfl

theorem besideBeats_putTap (s : State) (n : Nat) (bs : List Byte) : besideBeats (putTap s n bs) = besideBeats s := by
  unfold putTap
  dsimp only
  split <;> rfl

theorem besideBeats_takeBeat (s : State) (n : Nat) (b : StreamBeat) (dataBad : Bool) : besideBeats (takeBeat s n b dataBad) = besideBeats s := by
  unfold takeBeat
  extract_lets st len bs s1 s2 s3 done
  have h1 : besideBeats s1 = besideBeats s := besideBeats_putTap ..
  have h2 : besideBeats s2 = besideBeats s := by
    unfold s2
    split
    · split
      · exact h1
      · exact h1
    · split
      · split
        · exact (besideBeats_startFrame ..).trans ((besideBeats_endFrame ..).trans ((besideBeats_linkErr ..).trans h1))
        · exact h1
      · exact h1
  have h3 : besideBeats s3 = besideBeats s := by
    refine (besideBeats_putFrame ..).trans ?_
    split
    · exact (besideBeats_linkErr ..).trans h2
    · exact h2
  split
  · exact h2
  · split
    · exact (besideBeats_endFrame ..).trans h3
    · exact h3

theorem besideBeats_portBeat (s : State) (port : Nat) (b : StreamBeat) : besideBeats (portBeat s port b true) = besideBeats s := by
  unfold portBeat
  dsimp only
  split
  · split <;> rfl
  · split
    · exact besideBeats_linkErr ..
    · split
      · rw [if_pos rfl]
        split <;> rfl
      · exact besideBeats_takeBeat ..

theorem besideBeats_takeHeldBeats (s : State) : besideBeats (takeHeldBeats s) = besideBeats s :=
  (view_foldl besideBeats (fun _ _ => besideBeats_portBeat ..) _ _).trans rfl

/-! ### State A after I (R320) -/

/-- The links restored: beside the fabric nothing changes, and it does not sleep. -/
theorem linksUp_frame (s : State) : ∃ fab, linksUp s = { s with fab := fab } ∧ fab.sleeping = false := by
  have hview (t : State) (f : Nat) : (fun u : State => (u.fab.sleeping, { u with fab := {} })) (match (t.port f).state with
      | .lp => t.modPort f (fun p => { p with state := .up })
      | .sleep => bringUp t f
      | _ => t) = (t.fab.sleeping, { t with fab := {} }) := by
    split
    · rfl
    · unfold bringUp
      dsimp only
      split <;> rfl
    · rfl
  have hlinks := view_foldl (fun u : State => (u.fab.sleeping, { u with fab := {} })) hview (List.range 6) { s with fab.sleeping := false }
  unfold linksUp
  generalize List.foldl _ _ _ = t at hlinks
  obtain ⟨hsleep, hstate⟩ := Prod.mk.inj hlinks
  exact ⟨t.fab, (congrArg (fun u : State => { u with fab := t.fab }) hstate :), hsleep⟩

theorem serveHeld_of_none {s : State} (hheld : s.spr.heldHost = []) : serveHeld s = s := by
  unfold serveHeld
  split
  · rw [hheld]
    exact congrArg (fun l => ({ s with spr.heldHost := l } : State)) hheld.symm
  · rfl

theorem lateReport_of_inTime {s : State} {fixed : Nat} (h : s.ts.toNat ≤ fixed) : lateReport s fixed = s := if_neg (by omega)

/-- State A reached from I at its fixed delay: the beats held are taken, and the links are UP again. -/
theorem stateReached_of_i {s u v : State} (hrest : s.spr.restoring = some .i) (hiso : s.spr.isoDone = false) (hpow : poweredUp s = true)
    (htime : s.spr.wakeTs.toNat + 1000 = s.ts.toNat) (hu : takeHeldBeats { s with spr.pstate := .a, spr.restoring := none, spr.idleSince := s.ts } = u)
    (hv : serveHeld (restartIdle (linksUp u)) = v) (hask : v.spr.askPower = none) : stateReached s true = climb v := by
  have hlate : lateReport s (s.spr.wakeTs.toNat + restoreDelay .i) = s := lateReport_of_inTime (le_of_eq htime.symm)
  unfold stateReached
  rw [hrest]
  dsimp only
  rw [if_neg (by simp [hiso, hpow, restoreDelay, htime]), hlate, if_neg (show ¬ (PState.i = .t ∨ PState.i = .w) by simp)]
  simp only [restored]
  dsimp only at hu
  rw [hu, hv, hask]

theorem ladder_stateReached_i {s : State} (hrest : s.spr.restoring = some .i) (hiso : s.spr.isoDone = false) (hpow : poweredUp s = true) (htime : s.spr.wakeTs.toNat + 1000 = s.ts.toNat)
    (hask : s.spr.askPower = none) (hheld : s.spr.heldHost = []) {t : State} (ht : stateReached s true = t) :
    t.spr.pstate = .a ∧ t.spr.restoring = none ∧ t.spr.idleSince = s.ts ∧ t.fab.sleeping = false := by
  have hbeats := besideBeats_takeHeldBeats { s with spr.pstate := .a, spr.restoring := none, spr.idleSince := s.ts }
  generalize hu : takeHeldBeats _ = u at hbeats
  obtain ⟨fab, hlinks, hsleep⟩ := linksUp_frame u
  have huask : u.spr.askPower = none := (congrArg (·.spr.askPower) hbeats).trans hask
  have huheld : u.spr.heldHost = [] := (congrArg (·.spr.heldHost) hbeats).trans hheld
  have hv : serveHeld (restartIdle (linksUp u)) = restartIdle { u with fab := fab } := by
    rw [hlinks]
    exact serveHeld_of_none huheld
  have hclimb := besideRise_climb (restartIdle { u with fab := fab })
  rw [← stateReached_of_i hrest hiso hpow htime hu hv huask, ht] at hclimb
  exact ⟨(congrArg (·.spr.pstate) hclimb).trans (congrArg (·.spr.pstate) hbeats), (congrArg (·.spr.restoring) hclimb).trans (congrArg (·.spr.restoring) hbeats),
    (congrArg (·.spr.idleSince) hclimb).trans (congrArg (·.spr.idleSince) hbeats), (congrArg (·.fab.sleeping) hclimb).trans hsleep⟩

/-- Before its fixed delay no state is reached. -/
theorem stateReached_early {s : State} {src : PState} (hrest : s.spr.restoring = some src) (htime : s.ts.toNat < s.spr.wakeTs.toNat + restoreDelay src) : stateReached s true = s := by
  unfold stateReached
  rw [hrest]
  exact if_pos (by simp [htime])

/-! ### A rung that is UP (R325) -/

/-- Where the highest rung has the target, nothing more rises. -/
theorem climb_of_reached {s : State} (h : s.spr.target.toNat ≤ topRung s) : climb s = s := by
  have hstill (n : Nat) : (if mayClimb s && topRung s + 1 == n && decide (n ≤ s.spr.target.toNat) then startRise s n else s) = s := by
    refine if_neg ?_
    simp only [Bool.and_eq_true, beq_iff_eq, decide_eq_true_eq]
    omega
  rw [climb, List.foldl_cons, hstill, List.foldl_cons, hstill]
  rfl

theorem posture_coresRise (s : State) (cs : List Nat) : posture (coresRise s cs) = posture s := by
  refine (view_foldl posture (fun _ _ => posture_rereadGraph ..) _ _).trans (view_foldl posture (fun t c => ?_) _ _)
  unfold releaseCore
  split <;> rfl

theorem posture_startPoint (s : State) (c : Nat) : posture (startPoint s c) = posture s := rfl

theorem posture_refreshPoints (s : State) : posture (refreshPoints s) = posture s := by
  have hrail (u : State) : posture (askRail u) = posture u := by
    unfold askRail
    dsimp only
    split
    · rfl
    · split
      · rfl
      · split <;> rfl
  exact Eq.trans rfl (hrail _)

/-- The second rung is UP at its fixed delay. -/
theorem rungUp_two {s : State} (ha : s.spr.pstate = .a) (hrest : s.spr.restoring = none) (hl2 : s.spr.l2 = .rising) (htrip : s.pwr.trip = false)
    (htime : s.spr.riseAt.toNat + 4000000 = s.ts.toNat) (hcores : (extraCores s 2).all (fun c => (s.core c).on && !(s.core c).iso) = true) :
    rungUp s true = climb (restartIdle (refreshPoints ((extraCores s 2).foldl startPoint (coresRise { s with spr.l2 := .up } (extraCores s 2))))) := by
  have hlate : lateReport s (s.spr.riseAt.toNat + 4000000) = s := lateReport_of_inTime (le_of_eq htime.symm)
  have hstate : rungState s 2 = .rising := hl2
  unfold rungUp
  dsimp only
  simp only [hl2, if_true]
  rw [if_neg (by simp [ha, hrest, hstate, htrip, htime, hcores]), hlate]
  rfl

theorem ladder_rungUp_two {s u t : State} (hl1 : s.spr.l1 = .up) (hl3 : s.spr.l3 = .down) (htarget : s.spr.target = 2) (ha : s.spr.pstate = .a)
    (hu : posture u = posture { s with spr.l2 := .up }) (ht : climb (restartIdle u) = t) :
    t.spr.l2 = .up ∧ t.spr.l1 = .up ∧ t.spr.l3 = .down ∧ t.spr.pstate = .a ∧ t.spr.rungIdle = [(1, s.ts), (2, s.ts), (3, s.ts)] := by
  have hul2 : u.spr.l2 = .up := congrArg (·.1.l2) hu
  have hul3 : u.spr.l3 = .down := (congrArg (·.1.l3) hu).trans hl3
  have hreached : (restartIdle u).spr.target.toNat ≤ topRung (restartIdle u) := by
    have hto : (restartIdle u).spr.target = 2 := (congrArg (·.1.target) hu).trans htarget
    have htop : topRung (restartIdle u) = 2 := by
      rw [topRung, if_neg (by simp [restartIdle, hul3])]
      exact if_pos hul2
    rw [hto, htop]
    decide
  rw [climb_of_reached hreached] at ht
  have hts : u.ts = s.ts := congrArg (·.2.2.2) hu
  subst ht
  refine ⟨hul2, (congrArg (·.1.l1) hu).trans hl1, hul3, (congrArg (·.1.pstate) hu).trans ha, ?_⟩
  rw [restartIdle, hts]

/-! ### Falls (R326, R332) -/

theorem demoteIdle_of_idle {s : State} {n : Nat} (hn : 2 ≤ n) (hstate : s.spr.pstate = .a ∨ s.spr.pstate = .i ∨ s.spr.pstate = .t) (htop : topRung s = n) (hauto : s.spr.autoDemote = true)
    (hwait : s.spr.demoteIdle ≠ 0) (hrest : s.spr.restoring = none) (hdrain : s.spr.draining = none) (hfall : s.spr.falling = none) (hrise : isRising s = false)
    (htarget : s.spr.target.toNat ≤ topRung s) (htime : (tget (0 : W64) s.spr.rungIdle n).toNat + s.spr.demoteIdle.toNat * 1000000 ≤ s.ts.toNat)
    (hidle : coresIdle s (extraCores s n) = true) : demoteIdle s n = beginFall s (n - 1) := by
  have hzero : n ≠ 0 := by omega
  have hawake : (s.spr.pstate == .a || s.spr.pstate == .i || s.spr.pstate == .t) = true := by
    rcases hstate with h | h | h <;> simp [h]
  have hready : ¬ (n = 0 ∨ (!true) = true ∨ topRung s ≠ n ∨ (!s.spr.autoDemote) = true ∨ s.spr.demoteIdle = 0 ∨ s.spr.restoring.isSome = true ∨ s.spr.draining.isSome = true ∨
      s.spr.falling.isSome = true) := by
    simp only [hauto, hrest, hdrain, hfall, Bool.not_true, Option.isSome_none, Bool.false_eq_true, or_false, false_or]
    exact not_or.mpr ⟨hzero, not_or.mpr ⟨not_not.mpr htop, hwait⟩⟩
  unfold demoteIdle
  dsimp only
  rw [hawake, if_neg hready, if_neg (by simp [hrise, htarget]), if_pos ⟨htime, hidle⟩, if_neg (by omega)]

/-- What the fall of an idle rung leaves in Sprout's block and in cadence. -/
theorem ladder_demoteIdle {s t : State} {n : Nat} (hn : 2 ≤ n) (ht : beginFall s (n - 1) = t) :
    t.spr.falling = some n ∧ t.spr.target = BitVec.ofNat 2 (n - 1) ∧ t.spr.isoDone = false ∧ t.spr.pstate = s.spr.pstate ∧ t.cad = s.cad := by
  have hfall := besideReply_beginFall s (n - 1)
  rw [ht] at hfall
  have hspr : t.spr = { fallen (n - 1) s.spr with preWarm := t.spr.preWarm } := (congrArg (·.spr) hfall :)
  rw [hspr]
  exact ⟨congrArg some (Nat.sub_add_cancel (by omega)), rfl, rfl, rfl, (congrArg (·.cad) hfall :)⟩

section
variable {s : State} {now : W64} (hnow : s.ts.toNat ≤ now.toNat)
include hnow

theorem stateReached_next (t : State) (ht : stateReached { s with ts := now } true = t) : exec (.stateReached true now) s = .next (kept s t) := by
  have hnext : execStateReached true now s = .next (kept s t) := by
    rw [execStateReached, endsAt, advance_of_le hnow]
    exact ends_kept ht
  exact hnext

theorem rungUp_next (t : State) (ht : rungUp { s with ts := now } true = t) : exec (.rungUp true now) s = .next (kept s t) := by
  have hnext : execRungUp true now s = .next (kept s t) := by
    rw [execRungUp, endsAt, advance_of_le hnow]
    exact ends_kept ht
  exact hnext

theorem rungUp_two_next (ha : s.spr.pstate = .a) (hrest : s.spr.restoring = none) (hl1 : s.spr.l1 = .up) (hl2 : s.spr.l2 = .rising) (hl3 : s.spr.l3 = .down) (htrip : s.pwr.trip = false)
    (htarget : s.spr.target = 2) (htime : s.spr.riseAt.toNat + 4000000 = now.toNat) (hcores : (extraCores s 2).all (fun c => (s.core c).on && !(s.core c).iso) = true) :
    ∃ t, exec (.rungUp true now) s = .next t ∧ t.spr.l2 = .up ∧ t.spr.l1 = .up ∧ t.spr.l3 = .down ∧ t.spr.pstate = .a ∧ t.spr.rungIdle = [(1, now), (2, now), (3, now)] := by
  have hup := rungUp_two (s := { s with ts := now }) ha hrest hl2 htrip htime hcores
  have hposture := (posture_refreshPoints ((extraCores s 2).foldl startPoint (coresRise { { s with ts := now } with spr.l2 := .up } (extraCores s 2)))).trans
    ((view_foldl posture posture_startPoint _ _).trans (posture_coresRise ..))
  generalize hu : refreshPoints _ = u at hposture
  obtain ⟨t, ht⟩ : ∃ t, climb (restartIdle u) = t := ⟨_, rfl⟩
  have hladder := ladder_rungUp_two (s := { s with ts := now }) hl1 hl3 htarget ha hposture ht
  subst hu
  exact ⟨_, rungUp_next hnow t (hup.trans ht), hladder⟩

theorem demoteIdle_next (n : Fin 4) (t : State) (ht : demoteIdle { s with ts := now } n = t) : exec (.demoteIdle n now) s = .next (kept s t) := by
  have hnext : execDemoteIdle n now s = .next (kept s t) := by
    rw [execDemoteIdle, endsAt, advance_of_le hnow]
    exact ends_kept ht
  exact hnext

/-- A standalone unit without a session enters W (R332). -/
theorem standaloneDemote_next (hsource : s.spr.source = 2) (hever : s.spr.everAttached = false) (hstep : 15 ≤ s.rennet.step) (htime : s.spr.startedAt.toNat + 1000000000 ≤ now.toNat)
    (hseq : inSequence s = false) (ha : s.spr.pstate = .a) (t : State) (ht : enterDeep { s with ts := now } .w = t) : exec (.standaloneDemote now) s = .next (kept s t) := by
  have hseq' : inSequence { s with ts := now } = false := hseq
  have hnext : execStandaloneDemote now s = .next (kept s t) := by
    rw [execStandaloneDemote, endsAt, advance_of_le hnow]
    exact ends_kept ((if_pos (by simp [hsource, hever, hstep, htime, hseq', ha])).trans ht)
  exact hnext

end

end Sys2Proof.Machine
end

section
/-! What a write on a partition's behalf leaves of the tables of blocks: no write and no completion puts a copy in a core's T1 (R257, R268). -/

namespace Sys2Proof.Machine

/-! ### What keeps the tables -/

theorem maps_sealLine (s : State) (line : Nat) : (sealLine s line).mem.maps = s.mem.maps := by
  obtain ⟨m, h, hmaps⟩ := sealLine_frame s line
  rw [h]
  exact hmaps

theorem maps_sealTree (s : State) (n : Nat) : (sealTree s n).mem.maps = s.mem.maps := by
  obtain ⟨m, h, hmaps⟩ := sealTree_frame s n
  rw [h]
  exact hmaps

theorem maps_pumpMem (s : State) (port : Nat) : (pumpMem s port).mem.maps = s.mem.maps := by
  have haux (n : Nat) : ∀ t : State, (pumpMemAux port n t).mem.maps = t.mem.maps := by
    induction n with
    | zero => exact fun _ => rfl
    | succ n ih =>
      intro t
      unfold pumpMemAux
      split
      · exact (ih _).trans rfl
      · rfl
  unfold pumpMem
  split
  · rfl
  · exact haux ..

theorem maps_holdMem (s : State) (port p : Nat) (rs : List MemReq) : (holdMem s port p rs).mem.maps = s.mem.maps := (maps_pumpMem ..).trans rfl

theorem maps_ccTouch (s : State) (port p n : Nat) : (ccTouch s port p n).mem.maps = s.mem.maps := by
  unfold ccTouch
  dsimp only
  split
  · rfl
  · exact (maps_holdMem ..).trans rfl

theorem maps_sealWrite (s : State) (port p addr len : Nat) : (sealWrite s port p addr len).mem.maps = s.mem.maps :=
  (view_foldl (fun t : State => t.mem.maps) (fun _ _ => (maps_ccTouch ..).trans (maps_sealTree ..)) _ _).trans (view_foldl (fun t : State => t.mem.maps) maps_sealLine _ _)

theorem maps_askCopy (s : State) (p b addr : Nat) (write : Bool) (mask : BitVec 16) (rank : Nat) (cls : SClass) :
    (askCopy s p b addr write mask rank cls).mem.maps = s.mem.maps := maps_holdMem ..

theorem maps_askBytes (s : State) (p b addr off len rank : Nat) (cls : SClass) : (askBytes s p b addr off len rank cls).mem.maps = s.mem.maps := maps_holdMem ..

theorem maps_clearCopy (s : State) (r : Resident) : (clearCopy s r).mem.maps = s.mem.maps := by
  unfold clearCopy
  split <;> rfl

theorem maps_pumpInt (s : State) : (pumpInt s).mem.maps = s.mem.maps := by
  unfold pumpInt
  split
  · split <;> rfl
  · rfl

theorem maps_raiseVector (s : State) (p v : Nat) : (raiseVector s p v).mem.maps = s.mem.maps := by
  unfold raiseVector
  dsimp only
  split
  · rfl
  · split
    · rfl
    · exact maps_pumpInt _

/-! ### Copies outside T1 -/

/-- No copy lies in the T1 of some cores. -/
structure T1Clear (cs : List Nat) (s : State) : Prop where
  beside : ∀ m ∈ s.mem.maps, ∀ b ∈ m.2, inCores cs b.2.res = false

theorem copiesIn_eq_nil (cs : List Nat) (s : State) : copiesIn s (inCores cs) = [] ↔ T1Clear cs s := by
  rw [show T1Clear cs s ↔ ∀ m ∈ s.mem.maps, ∀ b ∈ m.2, inCores cs b.2.res = false from ⟨T1Clear.beside, T1Clear.mk⟩]
  simp [copiesIn]

theorem tget_mem_or_default {α : Type} (d : α) (t : Tbl α) (i : Nat) : tget d t i = d ∨ (i, tget d t i) ∈ t := by
  induction t with
  | nil => exact .inl rfl
  | cons e t ih =>
    obtain ⟨k, v⟩ := e
    by_cases hk : k = i
    · subst hk
      refine .inr (List.mem_cons.mpr (.inl (congrArg (Prod.mk k) ?_)))
      exact if_pos rfl
    · have hskip : tget d ((k, v) :: t) i = tget d t i := if_neg hk
      rw [hskip]
      exact ih.imp id (List.mem_cons_of_mem _)

section
variable {cs : List Nat} {s t : State} (p b : Nat) (h : T1Clear cs s)
include h

theorem T1Clear.of_maps (hmaps : t.mem.maps = s.mem.maps) : T1Clear cs t :=
  ⟨hmaps ▸ h.beside⟩

theorem T1Clear.map {e : Nat × Block} (he : e ∈ s.map p) : inCores cs e.2.res = false := by
  rcases tget_mem_or_default [] s.mem.maps p with hnone | hmem
  · rw [State.map, hnone] at he
    cases he
  · exact h.beside _ hmem e he

theorem T1Clear.block : inCores cs (s.block p b).res = false := by
  rcases tget_mem_or_default ({} : Block) (s.map p) b with hnone | hmem
  · rw [State.block, hnone]
    rfl
  · exact h.map p hmem

theorem T1Clear.setBlock {v : Block} (hv : inCores cs v.res = false) : T1Clear cs (s.setBlock p b v) := by
  obtain ⟨m, hset, hmaps⟩ := setBlock_frame s p b v
  have hbeside : ∀ e ∈ m.maps, ∀ x ∈ e.2, inCores cs x.2.res = false := by
    rw [hmaps]
    intro e he
    rcases mem_tset he with hold | rfl
    · exact h.beside e hold
    · intro x hx
      rcases mem_tset hx with hold | rfl
      · exact h.map p hold
      · exact hv
  rw [hset]
  exact ⟨hbeside⟩

theorem T1Clear.modBlock {f : Block → Block} (hf : (f (s.block p b)).res = (s.block p b).res) : T1Clear cs (s.modBlock p b f) :=
  h.setBlock p b (by rw [hf]; exact h.block p b)

/-! ### Homes and copies -/

theorem T1Clear.writeHome (mask : BitVec 16) : T1Clear cs (writeHome s p b mask) := by
  unfold Machine.writeHome
  dsimp only
  split
  · refine T1Clear.modBlock p b (h.of_maps ?_) rfl
    exact view_foldl (fun t : State => t.mem.maps) (fun _ _ => maps_sealWrite ..) _ _
  · exact h

theorem T1Clear.dropCopy : T1Clear cs (dropCopy s p b) := by
  unfold Machine.dropCopy
  dsimp only
  split
  · exact h
  · exact (h.of_maps (maps_clearCopy ..)).setBlock p b rfl

theorem T1Clear.scrapCopy : T1Clear cs (scrapCopy s p b) := (h.of_maps (maps_clearCopy ..)).setBlock p b rfl

theorem T1Clear.moveCopy {r : Resident} (hr : inCores cs r = false) : T1Clear cs (moveCopy s p b r) := by
  unfold Machine.moveCopy
  dsimp only
  split
  · refine T1Clear.setBlock p b ?_ ?_
    · exact h.of_maps rfl
    · exact hr
  · exact h

theorem T1Clear.installNow {r : Resident} (hr : inCores cs r = false) : T1Clear cs (installNow s p b r) := by
  unfold Machine.installNow
  dsimp only
  split
  · exact h
  · refine T1Clear.setBlock p b (h.of_maps ?_) hr
    split
    · split <;> rfl
    · rfl
    · rfl

theorem T1Clear.toCache : T1Clear cs (toCache s p b) := by
  unfold Machine.toCache
  extract_lets s1
  have hroom : T1Clear cs s1 := by
    unfold s1
    split
    · exact h
    · split
      · split
        · exact h
        · exact h.dropCopy ..
      · exact h
  split
  · refine T1Clear.of_maps ?_ (maps_askCopy ..)
    split
    · exact (hroom.dropCopy p b).installNow p b rfl
    · exact hroom.moveCopy p b rfl
  · exact hroom.dropCopy p b

theorem T1Clear.leaveNow : T1Clear cs (leaveNow s p b) := by
  unfold Machine.leaveNow
  dsimp only
  split
  · split
    · exact (h.moveCopy p b rfl).modBlock p b rfl
    · exact h
  · split
    · split
      · exact h.scrapCopy p b
      · exact h.dropCopy p b
    · split
      · exact h.dropCopy p b
      · exact h.toCache p b
    · exact h

theorem T1Clear.evictNow (rank : Nat) (cls : SClass) : T1Clear cs (evictNow s p b rank cls) := by
  unfold Machine.evictNow
  dsimp only
  split
  · exact h
  · split
    · refine T1Clear.leaveNow p b (T1Clear.writeHome p b ?_ _)
      split
      · exact T1Clear.of_maps (T1Clear.of_maps h rfl) (maps_askCopy ..)
      · exact h.of_maps rfl
    · exact T1Clear.leaveNow p b (h.of_maps rfl)

/-- A slot that no core is named for lies in T2, or there is none. -/
theorem T1Clear.makeSlot {r : Resident} {u : State} (hslot : makeSlot s p none = (r, u)) : T1Clear cs u ∧ inCores cs r = false := by
  have hmake : ∀ sl v, makeT2 s p = some (sl, v) → T1Clear cs v := by
    intro sl v hv
    unfold makeT2 at hv
    split at hv
    · cases hv
      exact h
    · split at hv
      · obtain ⟨_, -, hq⟩ := Option.map_eq_some_iff.mp hv
        cases hq
        exact h.evictNow ..
      · cases hv
  unfold Machine.makeSlot at hslot
  dsimp only at hslot
  split at hslot
  next sl v hv =>
    cases hslot
    exact ⟨hmake _ _ hv, rfl⟩
  · cases hslot
    exact ⟨h.of_maps rfl, rfl⟩

/-! ### Writes -/

theorem T1Clear.putCopy (off : Nat) (bs : List Byte) (st : BlockState) : T1Clear cs (putCopy s p b off bs st) := by
  have hb := h.block p b
  unfold Machine.putCopy
  dsimp only
  split
  · refine T1Clear.setBlock p b ?_ ?_
    · exact h.of_maps rfl
    · exact hb
  · exact h

theorem T1Clear.putHome (off : Nat) (bs : List Byte) : T1Clear cs (putHome s p b off bs) := by
  have hb := h.block p b
  unfold Machine.putHome
  dsimp only
  split
  · refine T1Clear.setBlock p b ?_ ?_
    · exact h.of_maps ((maps_sealWrite ..).trans (maps_askBytes ..))
    · exact hb
  · exact h

theorem T1Clear.landSector (j : Nat) : T1Clear cs (landSector s p b j) := by
  have hb := h.block p b
  unfold Machine.landSector
  dsimp only
  split
  · exact h
  · split
    · exact h
    · refine T1Clear.setBlock p b (h.of_maps ?_) hb
      split
      · split <;> rfl
      · rfl
      · rfl

theorem T1Clear.writeFetching (off : Nat) (bs : List Byte) : T1Clear cs (writeFetching s p b off bs) := by
  unfold Machine.writeFetching
  refine T1Clear.putCopy p b (T1Clear.modBlock p b ?_ rfl) off bs _
  refine List.foldlRecOn _ _ h fun t ht j _ => ?_
  split
  · exact ht.landSector p b j
  · exact ht

theorem T1Clear.noteOlder (mask : BitVec 16) : T1Clear cs (noteOlder s p b mask) := h.of_maps rfl

/-- A write through the home or the copy of a block, which allocates in T2 alone. -/
theorem T1Clear.writeBlock (off : Nat) (bs : List Byte) : T1Clear cs (writeBlock s p b off bs none false).2 := by
  unfold Machine.writeBlock
  dsimp only
  split
  case h_1 => exact h.of_maps rfl
  case h_2 => exact h
  case h_3 =>
    split
    next hslot => exact (h.makeSlot p hslot).1.putHome p b off bs
    next hslot =>
      obtain ⟨hu, hr⟩ := h.makeSlot p hslot
      exact (hu.installNow p b hr).putCopy p b off bs _
  case h_4 =>
    split
    · exact h.putHome p b off bs
    · exact h.of_maps rfl
  case h_5 =>
    split
    · exact h.writeFetching p b off bs
    · exact h.of_maps rfl
  case h_6 | h_7 =>
    split
    · exact h.putCopy p b off bs _
    · exact h.of_maps rfl
  case h_8 =>
    refine T1Clear.putCopy p b ?_ off bs _
    exact T1Clear.noteOlder p b (T1Clear.modBlock p b (h.writeHome p b _) rfl) _
  case h_9 =>
    split
    · exact h.of_maps rfl
    · split
      · split
        · split
          next hslot => exact (h.makeSlot p hslot).1.putHome p b off bs
          next hslot =>
            obtain ⟨hu, hr⟩ := h.makeSlot p hslot
            refine T1Clear.putCopy p b (T1Clear.installNow p b (T1Clear.setBlock p b hu ?_) hr) off bs _
            exact h.block p b
        · exact h.of_maps rfl
      · exact h

end

section
variable {cs : List Nat} {s : State} (h : T1Clear cs s)
include h

theorem T1Clear.modPart (p : Nat) (f : Part → Part) : T1Clear cs (s.modPart p f) := h.of_maps rfl

theorem T1Clear.devPut (p addr : Nat) (bs : List Byte) : T1Clear cs (devPut s p addr bs) := by
  unfold Machine.devPut devWrite
  generalize blocksOf addr bs.length = blocks
  induction blocks generalizing addr bs s with
  | nil => exact h
  | cons b rest ih =>
    have hblock := h.writeBlock p b (addr - b * blockBytes) (bs.take (min bs.length ((b + 1) * blockBytes - addr)))
    unfold devWriteAux
    dsimp only
    split
    next s1 heq =>
      rw [heq] at hblock
      exact ih hblock _ _
    · exact hblock

/-! ### Logs and completions -/

theorem T1Clear.partLog (p code level tag : Nat) (args : List Byte) : T1Clear cs (partLog s p code level tag args) := by
  unfold Machine.partLog
  dsimp only
  split
  · exact h
  · split
    · exact T1Clear.of_maps (T1Clear.modPart (T1Clear.modPart (h.devPut ..) ..) ..) (maps_raiseVector ..)
    · exact (h.devPut ..).modPart ..

theorem T1Clear.partNote (p kind : Nat) : T1Clear cs (partNote s p kind) := by
  unfold Machine.partNote
  split
  · exact h
  · exact T1Clear.of_maps (h.partLog ..) rfl

theorem T1Clear.writeEntry (p : Nat) (c : Completion) : T1Clear cs (writeEntry s p c) := by
  unfold Machine.writeEntry
  dsimp only
  split
  · exact T1Clear.of_maps (T1Clear.modPart (h.devPut ..) ..) (maps_raiseVector ..)
  · exact (h.devPut ..).modPart ..

theorem T1Clear.complete (p : Nat) (c : Completion) : T1Clear cs (complete s p c) := by
  unfold Machine.complete
  dsimp only
  split
  · split
    · exact (h.partNote ..).writeEntry ..
    · split <;> exact (h.partNote ..).modPart ..
  · split
    · exact (h.partNote ..).writeEntry ..
    · exact (h.partNote ..).modPart ..

theorem T1Clear.replyLater (d : Pend) (status : W16) (detail obj : W32) (state : Byte) : T1Clear cs (replyLater s d status detail obj state) :=
  T1Clear.complete (s := closePkt s d.part d.packet) (h.modPart ..) ..

theorem T1Clear.settleWaits : T1Clear cs (settleWaits s) := by
  refine List.foldlRecOn _ _ (h.of_maps rfl) fun t ht w _ => ?_
  split
  · exact (ht.replyLater ..).modPart ..
  · exact ht.replyLater ..

/-- A drain of T1s that hold no copy brings none there. -/
theorem T1Clear.drainGo : T1Clear cs (drainGo s (inCores cs)) := by
  have hnone : copiesIn s (inCores cs) = [] := (copiesIn_eq_nil cs s).mpr h
  unfold Machine.drainGo
  dsimp only
  rw [show copiesIn { s with mem.queue := s.mem.queue.filter (fun q => !fetchesInto (inCores cs) q) } (inCores cs) = [] from hnone]
  exact T1Clear.settleWaits (h.of_maps rfl)

end

end Sys2Proof.Machine
end

section
/-! The end of a drain (08_sprout.md): the cores of the rungs that fall are held in reset, isolated and asked off, and the statement about rises, falls and restores. -/

namespace Sys2Proof.Machine

/-! ### Cores that fall (R326, R328) -/

/-- What a step gives for its own element, and every step keeps, holds of each element at the end. -/
theorem foldl_of_mem {α : Type} {f : State → α → State} {P : State → Prop} (hkeep : ∀ t a, P t → P (f t a)) {a : α} (hset : ∀ t, P (f t a)) {l : List α} (ha : a ∈ l) (s : State) :
    P (l.foldl f s) := by
  induction l generalizing s with
  | nil => cases ha
  | cons b l ih =>
    rcases List.mem_cons.mp ha with rfl | hmem
    · exact List.foldlRecOn l f (hset s) fun t ht x _ => hkeep t x ht
    · exact ih hmem _

section
variable (s : State) {c d : Nat}

theorem core_coreFalls (f : Core → Bool) (hf : ∀ k : Core, f { resetCore k with ctxs := k.ctxs, inReset := true } = f k) (c : Nat) :
    f ((coreFalls s c).core d) = f (s.core d) := by
  unfold coreFalls
  by_cases hd : d = c
  · subst hd
    rw [core_modCore_same]
    exact hf _
  · rw [core_modCore_other s _ hd]

theorem on_coreFalls (c : Nat) : ((coreFalls s c).core d).on = (s.core d).on := core_coreFalls s Core.on (fun _ => rfl) c

/-- A core that fell stays in reset as others fall. -/
theorem inReset_coreFalls (c : Nat) (h : (s.core d).inReset = true) : ((coreFalls s c).core d).inReset = true := by
  unfold coreFalls
  by_cases hd : d = c
  · subst hd
    rw [core_modCore_same]
  · rw [core_modCore_other s _ hd]
    exact h

theorem inReset_coreFalls_same (c : Nat) : ((coreFalls s c).core c).inReset = true := by
  rw [coreFalls, core_modCore_same]

/-! ### Cores that are asked off (R673) -/

/-- A core's domain isolated and asked off, without retention. -/
def coreOff (t : State) (c : Nat) : State := askOff (noRet t (coreDom c)) false (coreDom c)

theorem val_coreDom (hc : c < 64) : (coreDom c) = .core ⟨c, hc⟩ := by
  unfold coreDom
  congr
  exact Nat.mod_eq_of_lt hc

/-- What a switch of a core's domain writes. -/
theorem core_setDom_coreDom (hc : c < 64) (v : Dom) :
    s.setDom (coreDom c) v = s.modCore c (fun k => { k with on := v.on, req := v.req, iso := v.iso, ret := v.ret, reqTs := v.reqTs }) := by
  rw [val_coreDom hc]
  rfl

theorem dom_coreDom (hc : c < 64) : (s.dom (coreDom c)).req = (s.core c).req ∧ (s.dom (coreDom c)).on = (s.core c).on := by
  rw [val_coreDom hc]
  exact ⟨rfl, rfl⟩

/-- A core asked off keeps what is not a switch of its domain, and its supply. -/
theorem core_coreOff {α : Type} (f : Core → α) (hc : c < 64) (hf : ∀ (k : Core) req iso ret, f { k with req := req, iso := iso, ret := ret } = f k) (d : Nat) :
    f ((coreOff s c).core d) = f (s.core d) := by
  have hstep (t : State) (req iso ret : Bool) : f ((t.setDom (coreDom c) { t.dom (coreDom c) with req := req, iso := iso, ret := ret }).core d) = f (t.core d) := by
    rw [core_setDom_coreDom t hc]
    by_cases hd : d = c
    · subst hd
      rw [core_modCore_same, val_coreDom hc]
      exact hf (t.core d) req iso ret
    · rw [core_modCore_other t _ hd]
  have hret : f ((noRet s (coreDom c)).core d) = f (s.core d) := hstep s ..
  unfold coreOff askOff
  dsimp only
  split
  · exact (hstep (noRet s (coreDom c)) ..).trans hret
  · exact hret

theorem req_coreOff_same (hc : c < 64) : ((coreOff s c).core c).req = false := by
  rw [← (dom_coreDom _ hc).1]
  exact req_askOff ..

theorem req_coreOff (hc : c < 64) (h : (s.core d).req = false) : ((coreOff s c).core d).req = false := by
  by_cases hd : d = c
  · subst hd
    exact req_coreOff_same s hc
  · have hother (t : State) (v : Dom) : (t.setDom (coreDom c) v).core d = t.core d := by rw [core_setDom_coreDom t hc, core_modCore_other t _ hd]
    unfold coreOff askOff
    dsimp only
    split
    · rw [hother, noRet, hother]
      exact h
    · rw [noRet, hother]
      exact h

theorem besideDoms_coreOff (c : Nat) : besideDoms (coreOff s c) = besideDoms s := (besideDoms_askOff ..).trans (besideDoms_setDom ..)

end

/-! ### The end of the drain -/

/-- The cores of the rungs that fall. -/
def fallCores (s : State) (n : Nat) : List Nat := (List.range s.ncores).filter (fun c => decide (rungSize s (n - 1) ≤ c))

theorem mem_fallCores {s : State} {n c : Nat} : c ∈ fallCores s n ↔ c < s.ncores ∧ rungSize s (n - 1) ≤ c := by
  simp [fallCores]

/-- The state as the drain of a fall ends: the cores held in reset, then asked off. -/
def coresDown (u : State) (n : Nat) : State := (fallCores u n).foldl coreOff { (fallCores u n).foldl coreFalls u with spr.isoDone := true }

section
variable {u : State} {n : Nat} (hcores : u.ncores ≤ 64)
include hcores

theorem coreOff_foldl_keeps {α : Type} (f : Core → α) (hf : ∀ (k : Core) req iso ret, f { k with req := req, iso := iso, ret := ret } = f k) (t : State) (d : Nat) :
    f (((fallCores u n).foldl coreOff t).core d) = f (t.core d) := by
  have hlt : ∀ c ∈ fallCores u n, c < 64 := fun c hc => lt_of_lt_of_le (mem_fallCores.mp hc).1 hcores
  generalize fallCores u n = l at hlt
  induction l generalizing t with
  | nil => rfl
  | cons c l ih =>
    rw [List.forall_mem_cons] at hlt
    exact (ih _ hlt.2).trans (core_coreOff t f hlt.1 hf d)

theorem req_coresDown {c : Nat} (hc : c ∈ fallCores u n) : ((coresDown u n).core c).req = false := by
  have hlt : ∀ c ∈ fallCores u n, c < 64 := fun c hc => lt_of_lt_of_le (mem_fallCores.mp hc).1 hcores
  unfold coresDown
  generalize ({ (fallCores u n).foldl coreFalls u with spr.isoDone := true } : State) = t
  generalize fallCores u n = l at hc hlt
  induction l generalizing t with
  | nil => cases hc
  | cons b l ih =>
    rw [List.forall_mem_cons] at hlt
    rcases List.mem_cons.mp hc with rfl | hmem
    · exact List.foldlRecOn l coreOff (req_coreOff_same t hlt.1) fun v hv x hx => req_coreOff v (hlt.2 x hx) hv
    · exact ih _ hmem hlt.2

theorem inReset_coresDown {c : Nat} (hc : c ∈ fallCores u n) : ((coresDown u n).core c).inReset = true :=
  (coreOff_foldl_keeps hcores Core.inReset (fun _ _ _ _ => rfl) _ c).trans
    (foldl_of_mem (P := fun t => (t.core c).inReset = true) (fun t b => inReset_coreFalls t b) (fun t => inReset_coreFalls_same t c) hc u)

theorem on_coresDown (c : Nat) : ((coresDown u n).core c).on = (u.core c).on :=
  (coreOff_foldl_keeps hcores Core.on (fun _ _ _ _ => rfl) _ c).trans (view_foldl (fun t : State => (t.core c).on) (fun t b => on_coreFalls t b) _ u)

omit hcores in
theorem beside_coresDown : besideDoms (coresDown u n) = besideDoms { u with spr.isoDone := true } := by
  refine (view_foldl besideDoms besideDoms_coreOff _ _).trans ?_
  have hfalls : besideDoms ((fallCores u n).foldl coreFalls u) = besideDoms u := view_foldl besideDoms (f := coreFalls) (fun _ _ => rfl) _ _
  exact (congrArg (fun t : State => { t with spr.isoDone := true }) hfalls :)

/-- With a core's supply still up the switch-off waits (R322). -/
theorem switchOffEnds_coresDown {c : Nat} (hc : c ∈ fallCores u n) (hon : (u.core c).on = true) : switchOffEnds (coresDown u n) = coresDown u n := by
  obtain ⟨hlt, hsize⟩ := mem_fallCores.mp hc
  obtain ⟨hreq, hdon⟩ := dom_coreDom (coresDown u n) (lt_of_lt_of_le hlt hcores)
  have hn : (coresDown u n).ncores = u.ncores := (congrArg (fun t : State => t.chip.ncores) (beside_coresDown (u := u) (n := n)) :)
  refine if_neg fun h => ?_
  have hall := List.all_eq_true.mp h.2 (coreDom c) (List.mem_append_right _ (List.mem_map_of_mem (List.mem_range.mpr (by rw [hn]; exact hlt))))
  rw [hreq, hdon, req_coresDown hcores hc, on_coresDown hcores, hon] at hall
  cases hall

end

section
variable {s : State} {n : Nat} (hiso : s.spr.isoDone = false) (hdrain : s.spr.draining = none) (hfall : s.spr.falling = some n)
include hiso hdrain hfall

/-- Where the drain of a fall leaves no copy, the cores that fall go down. -/
theorem drainComplete_of_drained {u : State} (hu : drainGo s (inCores (fallCores s n)) = u) (hspr : u.spr = s.spr) (hchip : u.chip = s.chip)
    (hnone : copiesIn u (inCores (fallCores u n)) = []) : drainComplete s = switchOffEnds (coresDown u n) := by
  have hcs : fallCores s n = fallCores u n := by
    unfold fallCores rungSize State.ncores
    rw [hchip]
  rw [hcs] at hu
  have hpick : inCores ((List.range s.ncores).filter (fun c => decide (rungSize s (n - 1) ≤ c))) = inCores (fallCores u n) := congrArg inCores hcs
  have hdone : u.spr.isoDone = false := (congrArg Sprout.isoDone hspr).trans hiso
  have hgo : u.spr.draining = none := (congrArg Sprout.draining hspr).trans hdrain
  have hgone : u.spr.falling = some n := (congrArg Sprout.falling hspr).trans hfall
  unfold drainComplete
  rw [hdrain, hfall]
  dsimp only
  rw [hpick, hiso, if_neg Bool.false_ne_true, hu, hdone, hgo, hgone, hnone]
  rfl

theorem drainComplete_falls (hcores : s.ncores ≤ 64) (hon : ∀ c, rungSize s (n - 1) ≤ c → c < s.ncores → (s.core c).on = true) (hsome : rungSize s (n - 1) < s.ncores)
    (hnone : copiesIn s (inCores (fallCores s n)) = []) {t : State} (ht : drainComplete s = t) :
    t.spr.isoDone = true ∧ t.spr.falling = some n ∧ (∀ c, rungSize s (n - 1) ≤ c → c < s.ncores → (t.core c).req = false ∧ (t.core c).inReset = true) := by
  have hbeside := besideReply_drainGo s (inCores (fallCores s n))
  have hclear := ((copiesIn_eq_nil _ s).mp hnone).drainGo
  generalize hu : drainGo s (inCores (fallCores s n)) = u at hbeside hclear
  have hspr : u.spr = s.spr := (congrArg (·.spr) hbeside :)
  have hchip : u.chip = s.chip := (congrArg (·.chip) hbeside :)
  have hcore : u.core = s.core := (congrArg (fun v : State => v.core) hbeside :)
  have hcs : fallCores s n = fallCores u n := by
    unfold fallCores rungSize State.ncores
    rw [hchip]
  rw [hcs] at hclear
  have hmem : ∀ c, rungSize s (n - 1) ≤ c → c < s.ncores → c ∈ fallCores u n := fun c hlo hhi => hcs ▸ mem_fallCores.mpr ⟨hhi, hlo⟩
  have hcores' : u.ncores ≤ 64 := by rw [State.ncores, hchip]; exact hcores
  rw [drainComplete_of_drained hiso hdrain hfall hu hspr hchip ((copiesIn_eq_nil _ u).mpr hclear),
    switchOffEnds_coresDown hcores' (hmem _ (le_refl _) hsome) (by rw [hcore]; exact hon _ (le_refl _) hsome)] at ht
  have hdown := beside_coresDown (u := u) (n := n)
  rw [ht] at hdown
  refine ⟨congrArg (·.spr.isoDone) hdown, (congrArg (·.spr.falling) hdown).trans ((congrArg Sprout.falling hspr).trans hfall), fun c hlo hhi => ?_⟩
  rw [← ht]
  exact ⟨req_coresDown hcores' (hmem c hlo hhi), inReset_coresDown hcores' (hmem c hlo hhi)⟩

end

/-! ### The statement -/

/-- Settles O28: each event's guard holds, and of what follows it is needed what it leaves of Sprout's block; a drain that has no copy to move brings none, and the switch-off waits for the supplies. -/
theorem powerAndLadderEvents : Obligations.PowerAndLadderEvents := by
  refine ⟨fun s now hnow hrest hdrain => ⟨fun ha hauto hbusy hqueue hidle hgraphs hseq hstep htrip => ?_, fun hi hauto hbusy hidle hgraphs hseq => ?_, fun hstate hfits => ?_,
      fun sources first rung src hstate hsrc hne htest => ?_, fun htimer hdue hen hw hboot => ?_, fun ha htimer hdue => ?_⟩,
    fun s now hnow => ⟨fun hrest hiso hpow htime hask hheld => ?_, fun src hrest htime => ?_, fun ha hrest hl1 hl2 hl3 htrip htarget htime hfall hdrain hcores => ?_,
      fun n hn hstate htop hauto hwait hrest hdrain hfall hrise htarget htime hidle => ?_, fun n hiso hdrain hfall hn hcores hon hsome hnone => ?_,
      fun hsource hever hstep htime hseq ha => ?_⟩⟩
  · exact autoIEntry_next hnow ha hauto hbusy hqueue hidle hgraphs hseq hstep htrip
  · exact autoTEntry_next hnow hi hauto hbusy hidle hgraphs hseq
  · exact preReleaseRestore_next hnow hrest hdrain hstate hfits
  · exact wake_next hnow hrest hdrain hstate hsrc hne htest
  · exact aonTimerExpire_w hnow hrest hdrain htimer hdue hen hw hboot
  · exact aonTimerExpire_a hnow hdrain htimer hdue ha
  · obtain ⟨t, ht⟩ : ∃ t, stateReached { s with ts := now } true = t := ⟨_, rfl⟩
    have hladder := ladder_stateReached_i (s := { s with ts := now }) hrest hiso hpow htime hask hheld ht
    exact ⟨_, stateReached_next hnow t ht, hladder⟩
  · refine (stateReached_next hnow _ (stateReached_early (s := { s with ts := now }) hrest htime)).trans ?_
    exact congrArg Host.Outcome.next (kept_eq_self rfl rfl)
  · exact rungUp_two_next hnow ha hrest hl1 hl2 hl3 htrip htarget htime hcores
  · have htwo : 2 ≤ n.val := by omega
    have hdemote := demoteIdle_of_idle (s := { s with ts := now }) htwo hstate htop hauto hwait hrest hdrain hfall hrise htarget htime hidle
    obtain ⟨t, ht⟩ : ∃ t, beginFall { s with ts := now } (n.val - 1) = t := ⟨_, rfl⟩
    have hladder := ladder_demoteIdle htwo ht
    exact ⟨_, demoteIdle_next hnow n t (hdemote.trans ht), hladder⟩
  · obtain ⟨t, ht⟩ : ∃ t, drainComplete s = t := ⟨_, rfl⟩
    have hdown := drainComplete_falls hiso hdrain hfall hcores (fun c hlo hhi => (hon c hlo hhi).1) hsome hnone ht
    exact ⟨_, ends_kept ht, hdown⟩
  · obtain ⟨t, ht⟩ : ∃ t, enterDeep { s with ts := now } .w = t := ⟨_, rfl⟩
    have hposture := posture_enterDeep { s with ts := now } .w
    rw [ht] at hposture
    obtain ⟨hdraining, -, htarget, -, -, -⟩ := fields_of_fallen hposture
    exact ⟨_, standaloneDemote_next hnow hsource hever hstep htime hseq ha t ht, hdraining, htarget⟩

end Sys2Proof.Machine
end

section
/-! The Tved ports (17_integration_ports.md): requests of the host, responses to the block's own requests, and credits. -/

namespace Sys2Proof.Machine

/-! ### Answers and requests that go -/

/-- The state without the queue of answers, the answers given and the credits: what no answer changes. -/
def besideAnswer (s : State) : State := { s with ports.hostQ := [], ports.hostRsp := [], ports.credits := [] }

theorem besideAnswer_pumpHost (s : State) : besideAnswer (pumpHost s) = besideAnswer s := by
  unfold pumpHost
  dsimp only
  split <;> rfl

theorem besideAnswer_hostAnswer (s : State) (id : BitVec 8) (write : Bool) (rc : BitVec 2) (beats : List (BitVec 128)) :
    besideAnswer (hostAnswer s id write rc beats) = besideAnswer s := (besideAnswer_pumpHost _).trans rfl

theorem besideAnswer_answer (s : State) (w : BitVec 96) (rc : BitVec 2) : besideAnswer (answer s w rc) = besideAnswer s := besideAnswer_hostAnswer ..

theorem posture_of_besideAnswer {s t : State} (h : besideAnswer t = besideAnswer s) : posture t = posture s := (congrArg posture h :)

/-- What no request that leaves a port's list changes. -/
theorem kept_of_dropReq (s : State) (r : MemReq) :
    (dropReq s r).ports.lateIds = s.ports.lateIds ∧ (dropReq s r).parts = s.parts ∧ (dropReq s r).mem.maps = s.mem.maps ∧ (dropReq s r).ports.memErr = s.ports.memErr := by
  have hpump := besideAnswer_pumpHost (pumpMem { s with mem.outReq := s.mem.outReq.erase r } r.port)
  have hmem := besideMem_pumpMem { s with mem.outReq := s.mem.outReq.erase r } r.port
  have hmaps := maps_pumpMem { s with mem.outReq := s.mem.outReq.erase r } r.port
  exact ⟨(congrArg (·.ports.lateIds) hpump).trans (congrArg (·.ports.lateIds) hmem), (congrArg (·.parts) hpump).trans (congrArg (·.parts) hmem),
    (congrArg (·.mem.maps) hpump).trans hmaps, (congrArg (·.ports.memErr) hpump).trans (congrArg (·.ports.memErr) hmem)⟩

/-- A parity failure is counted, and beside it no more changes than a report and a partition reset do. -/
theorem posture_parityFail (s : State) (unit : W16) (ptag : BitVec 6) (second : Bool) :
    posture (parityFail s unit ptag second) = ((posture s).1, satInc s.rel.parity, (posture s).2.2) := by
  unfold parityFail
  dsimp only
  split
  · split
    · exact (posture_report ..).trans rfl
    · exact (posture_partitionReset ..).trans ((posture_report ..).trans rfl)
  · rfl

/-! ### Host requests (R319, R627 to R640) -/

section
variable {s : State} {w : BitVec 96} {par : BitVec 3} {bs : List WriteBeat} {now : W64}

theorem hostRequest_next (hnow : s.ts.toNat ≤ now.toNat) {t : State} (ht : hostRequest { s with ts := now } w par bs = t) : exec (.hostRequest w par bs now) s = .next (kept s t) := by
  have hnext : execHostRequest w par bs now s = .next (kept s t) := by
    rw [execHostRequest, endsAt, advance_of_le hnow]
    exact ends_kept ht
  exact hnext

/-- In O, or without the credits, a request does not arrive. -/
theorem hostRequest_absent (h : s.spr.pstate = .o ∨ hasCredits s 0 0 1 = false ∨ hasCredits s 0 1 bs.length = false) : hostRequest s w par bs = s :=
  if_pos (by simpa using h)

/-- A request that arrives in A takes its credits, and is served where the block may serve. -/
theorem hostRequest_awake (hone : hasCredits s 0 0 1 = true) (hdata : hasCredits s 0 1 bs.length = true) (ha : s.spr.pstate = .a) (hdrain : s.spr.draining = none) :
    hostRequest s w par bs = if hostOpen s || recoveryOnly s w then serveHost (giveHost (takeHost s bs) bs) w par bs
      else { takeHost s bs with spr.heldHost := s.spr.heldHost ++ [(w, par, bs)] } := by
  have hstill := latchWake_of_awake ha hdrain 2 1
  unfold hostRequest
  rw [if_neg (by simp [hone, hdata, ha]), hstill]
  rfl

theorem awake_of_hostOpen (h : hostOpen s = true) : s.spr.pstate = .a := by
  simp only [hostOpen, Bool.and_eq_true, beq_iff_eq] at h
  exact h.1.1.1

theorem hostRequest_served {v : State} (hone : hasCredits s 0 0 1 = true) (hdata : hasCredits s 0 1 bs.length = true) (hdrain : s.spr.draining = none) (hopen : hostOpen s = true)
    (hv : v = giveHost (takeHost s bs) bs) : hostRequest s w par bs = serveHost v w par bs := by
  rw [hostRequest_awake hone hdata (awake_of_hostOpen hopen) hdrain, hopen, hv]
  rfl

end

/-! ### A request served -/

theorem windowRead_good {u : State} {w : BitVec 96} {p : Nat} (hpage : foreignPage u p (reqAddr w) = false) (hreads : hostReads u p (regGroup u (reqAddr w)).1 = true) :
    windowRead u w p = hostAnswer (readBeat u (reqAddr w)).1 (reqId w) false rcGood [(readBeat u (reqAddr w)).2] := by
  unfold windowRead
  dsimp only
  rw [hpage, hreads]
  rfl


section
variable {s u : State} {w : BitVec 96} {par : BitVec 3} {bs : List WriteBeat} (hu : u = { s with spr.idleSince := s.ts, spr.rungIdle := tset s.spr.rungIdle 1 s.ts })
include hu

theorem serveHost_parity (hpar : parityOf 3 w.toNat ≠ par.toNat) : serveHost s w par bs = answerParity u w := by
  subst hu
  exact if_pos (by simp [hpar])

section
variable (hpar : parityOf 3 w.toNat = par.toNat) (hread : nbit w.toNat 0 = false)
include hpar hread

theorem serveHost_bad (hbad : nbit w.toNat 1 = true) : serveHost s w par bs = hostAnswer u (reqId w) false rcFault (List.replicate (reqBeats w) 0) := by
  have hwrite : reqWrite w = false := hread
  have hanswer : serveHost s w par bs = answer u w rcFault := by
    subst hu
    exact (if_neg (by simp [hpar, hwrite])).trans (if_pos (by simp [hbad]))
  rw [hanswer, answer, hwrite]
  rfl

variable (hgood : nbit w.toNat 1 = false)
include hgood

/-- A read whose form is good goes by its identity and its address. -/
theorem serveHost_foreign (hclass : initClass (reqInit w) ≠ 0) : serveHost s w par bs = answerRefused u w true := by
  have hwrite : reqWrite w = false := hread
  subst hu
  exact (if_neg (by simp [hpar, hwrite])).trans ((if_neg (by simp [hgood, hwrite])).trans (if_pos (.inl hclass)))

variable (hclass : initClass (reqInit w) = 0) (hindex : initIndex (reqInit w) < 64)
include hclass hindex

theorem serveHost_window (haddr : reqAddr w < 0x4000000) (hbeats : reqBeats w = 1) (halign : reqAddr w % 16 = 0) (hpage : foreignPage u (initIndex (reqInit w)) (reqAddr w) = false)
    (hreads : hostReads u (initIndex (reqInit w)) (regGroup u (reqAddr w)).1 = true) :
    serveHost s w par bs = hostAnswer (readBeat u (reqAddr w)).1 (reqId w) false rcGood [(readBeat u (reqAddr w)).2] := by
  have hwrite : reqWrite w = false := hread
  rw [← windowRead_good hpage hreads]
  subst hu
  exact (if_neg (by simp [hpar, hwrite])).trans ((if_neg (by simp [hgood, hwrite])).trans ((if_neg (by simp [hclass, hindex])).trans
    ((if_pos haddr).trans ((if_neg (by simp [hbeats, halign])).trans (if_neg (by simp [hwrite]))))))

theorem serveHost_hole (hlow : 0x4000000 ≤ reqAddr w) (hhigh : reqAddr w < 0x1000000000) :
    serveHost s w par bs = hostAnswer u (reqId w) false rcFault (List.replicate (reqBeats w) 0) := by
  have hwrite : reqWrite w = false := hread
  have hbelow : ¬ (apertureBase ≤ reqAddr w ∧ reqAddr w - apertureBase < 64 * 2 ^ 30 ∧ reqAddr w % 16 = 0 ∧ reqAddr w % 4096 + 16 * reqBeats w ≤ 4096) := by
    unfold apertureBase
    omega
  have hanswer : serveHost s w par bs = answer u w rcFault := by
    subst hu
    exact (if_neg (by simp [hpar, hwrite])).trans ((if_neg (by simp [hgood, hwrite])).trans ((if_neg (by simp [hclass, hindex])).trans
      ((if_neg (not_lt.mpr hlow)).trans (if_neg hbelow))))
  rw [hanswer, answer, hwrite]
  rfl

end
end

/-- PARITY is counted at the port and as a parity failure. -/
theorem marks_answerParity (u : State) (w : BitVec 96) : (answerParity u w).ports.hostPar = satInc u.ports.hostPar ∧ (answerParity u w).rel.parity = satInc u.rel.parity ∧
    (answerParity u w).ports.events.flags.getLsbD 0 = true := by
  unfold answerParity
  extract_lets key again others v q s1
  have hanswer : besideAnswer s1 = besideAnswer { portEvent u 0 with ports.hostPar := satInc u.ports.hostPar
                                                                     ports.parFails := if again then others else (reqInit w, reqId w, reqWrite w, BitVec.ofNat 48 (reqAddr w), u.ts) :: others } :=
    besideAnswer_answer ..
  have hfail := posture_parityFail s1 (reqInit w) (BitVec.ofNat 6 (initIndex (reqInit w))) again
  have hposture := posture_of_besideAnswer hanswer
  have hrel : s1.rel.parity = u.rel.parity := (congrArg (·.rel.parity) hanswer :)
  clear_value s1
  generalize parityFail _ _ _ _ = t at hfail
  refine ⟨(congrArg (·.2.2.1.hostPar) hfail).trans (congrArg (·.2.2.1.hostPar) hposture), (congrArg (·.2.1) hfail).trans (congrArg satInc hrel), ?_⟩
  have hevents : t.ports.events = raiseEv u.ports.events 0 := (congrArg (·.2.2.1.events) hfail).trans (congrArg (·.2.2.1.events) hposture)
  rw [hevents]
  exact flag_raiseEv_same _ (by decide)

/-- A request of a wrong identity is counted, and sets HOST_ID. -/
theorem marks_answerRefused (u : State) (w : BitVec 96) : (answerRefused u w true).ports.hostRefused = satInc u.ports.hostRefused ∧
    (answerRefused u w true).ports.events.flags.getLsbD 1 = true ∧ (answerRefused u w true).mem = u.mem := by
  have hanswer : besideAnswer (answerRefused u w true) = besideAnswer (portEvent (refuseHost u (initIndex (reqInit w) % 64)) 1) := besideAnswer_answer ..
  generalize answerRefused u w true = t at hanswer
  refine ⟨(congrArg (·.ports.hostRefused) hanswer :), ?_, (congrArg (·.mem) hanswer :)⟩
  have hevents : t.ports.events = raiseEv u.ports.events 1 := (congrArg (·.ports.events) hanswer :)
  rw [hevents]
  exact flag_raiseEv_same _ (by decide)

/-! ### Memory responses (R631, R635, R638) -/

section
variable {s u t : State} {c : CoreId} {tag : BitVec 10} {par : Bool}

/-- A response taken while no trip stops the port returns its credits, unless it was one from before the last reset of the block. -/
theorem memResponse_of_taken (htrip : s.pwr.trip = false) (hu : u = takeCredits s (1 + c.val) 3 1) (ht : takeResponse u c.val (.write tag par) = t)
    (hlate : t.ports.lateIds = s.ports.lateIds) : memResponse s c.val (.write tag par) = giveCredits t (1 + c.val) 3 1 := by
  subst hu
  have hsame : ¬ (decide (t.ports.lateIds.length < s.ports.lateIds.length) && decide (s.ports.lateTs.toNat + 10000 ≤ s.ts.toNat)) = true := by
    rw [hlate]
    simp
  unfold memResponse
  dsimp only [rspCredits]
  rw [htrip, if_neg Bool.false_ne_true, ht]
  exact if_neg hsame

theorem exec_memResponse (hc : c.val < s.ncores) (rsp : MemRsp) : exec (.memResponse c rsp) s = .next (kept s (memResponse s c.val rsp)) := endsCore_kept _ hc

theorem marks_badId (u : State) : (badId u).ports.badId = satInc u.ports.badId ∧ (badId u).ports.events = raiseEv u.ports.events 5 ∧ (badId u).mem = u.mem ∧ (badId u).rel = u.rel :=
  ⟨rfl, rfl, rfl, rfl⟩

theorem takeResponse_stray (hlate : u.ports.lateIds = []) (hnone : u.mem.outReq.find? (fun r => r.port == c.val && r.write == true && r.id == some (tag.toNat % 256)) = none) :
    takeResponse u c.val (.write tag par) = badId u := by
  unfold takeResponse
  dsimp only
  rw [hnone]
  dsimp only
  rw [strayResponse, hlate]
  rfl

section
variable {r : MemReq} (hfound : u.mem.outReq.find? (fun r => r.port == c.val && r.write == true && r.id == some (tag.toNat % 256)) = some r)
include hfound

theorem takeResponse_found : takeResponse u c.val (.write tag par) = memAnswer u r (tag.toNat / 256) true (oddOnes tag.toNat == par) := by
  unfold takeResponse
  dsimp only
  rw [hfound]

theorem takeResponse_good (hrc : tag.toNat / 256 = 0) : takeResponse u c.val (.write tag (oddOnes tag.toNat)) = dropReq u r := by
  rw [takeResponse_found hfound, hrc]
  simp [memAnswer]

theorem takeResponse_parity : takeResponse u c.val (.write tag (!oddOnes tag.toNat)) = memParity u r := by
  rw [takeResponse_found hfound]
  simp [memAnswer]

theorem takeResponse_fault (hrc : tag.toNat / 256 = 2) : takeResponse u c.val (.write tag (oddOnes tag.toNat)) = memFault (dropReq u r) r true := by
  rw [takeResponse_found hfound, hrc]
  simp [memAnswer]

end

/-- A request reissued after its first parity failure (R564, R635). -/
theorem marks_memParity {r : MemReq} (hagain : r.again = false) : (memParity u r).ports.memRetry = satInc u.ports.memRetry ∧ (memParity u r).rel.parity = satInc u.rel.parity ∧
    (memParity u r).parts = u.parts ∧ (memParity u r).ports.lateIds = u.ports.lateIds := by
  have hpump (v : State) := besideMem_pumpMem v r.port
  unfold memParity
  rw [hagain]
  exact ⟨(congrArg (·.ports.memRetry) (hpump _) :), (congrArg (·.rel.parity) (hpump _) :), (congrArg (·.parts) (hpump _) :), (congrArg (·.ports.lateIds) (hpump _) :)⟩

/-- A FAULT at a block that is UNMAPPED meanwhile is counted, and its address kept. -/
theorem memFault_unmapped {r : MemReq} (hlive : r.tag ≠ 0x3F ∨ initClass r.init ≠ 2) (hstate : (u.block r.part r.block).state = .unmapped) :
    memFault u r true = { portEvent u 3 with ports.memErr := satInc u.ports.memErr, ports.memErrAddr := BitVec.ofNat 48 r.addr } := by
  unfold memFault
  dsimp only
  rw [if_pos rfl, if_neg (fun h => hlive.elim (· h.1) (· h.2)), if_pos hstate]

theorem block_of_maps (hmaps : t.mem.maps = u.mem.maps) (p b : Nat) : t.block p b = u.block p b := by
  rw [State.block, State.block, State.map, State.map, hmaps]

end

/-! ### The interrupt port and credits (R630, R635, R643) -/

/-- Without a message that waits, none goes. -/
theorem pumpInt_of_empty {s : State} (h : s.ports.intQ = []) : pumpInt s = s := by
  unfold pumpInt
  rw [h]
  cases s.ports.intOut <;> rfl

/-- A message that waits goes where both credits are left and no trip stops the port. -/
theorem pumpInt_goes {s : State} {p : Nat} {d : W32} {again : Bool} (hout : s.ports.intOut = none) (hq : s.ports.intQ = [(p, d, again)]) (haddr : 0 < s.credits 65 0)
    (hdata : 0 < s.credits 65 1) (htrip : s.pwr.trip = false) :
    (pumpInt s).ports.intOut = some (p, d, again) ∧ (pumpInt s).ports.intQ = [] ∧ (pumpInt s).ports.events = s.ports.events := by
  unfold pumpInt
  rw [hout, hq]
  dsimp only
  rw [if_pos ⟨haddr, hdata, by simp [htrip]⟩]
  exact ⟨rfl, rfl, rfl⟩

section
variable {s : State} {p : Nat} {d : W32} (hout : s.ports.intOut = some (p, d, false)) (hq : s.ports.intQ = [])
include hout hq

theorem interruptResponse_good : interruptResponse s 0 false = { s with ports.intOut := none } := by
  unfold interruptResponse
  rw [hout]
  exact pumpInt_of_empty hq

/-- A message answered FAULT goes once more, with INT_ERR. -/
theorem interruptResponse_fault (haddr : 0 < s.credits 65 0) (hdata : 0 < s.credits 65 1) (htrip : s.pwr.trip = false) {t : State} (ht : interruptResponse s 0x200 true = t) :
    t.ports.intOut = some (p, d, true) ∧ t.ports.events = raiseEv s.ports.events 4 ∧ t.ports.intQ = [] := by
  have hagain : interruptResponse s 0x200 true = pumpInt { portEvent { s with ports.intOut := none } 4 with ports.intQ := [(p, d, true)] } := by
    unfold interruptResponse
    rw [hout]
    exact (congrArg (fun l => pumpInt { portEvent { s with ports.intOut := none } 4 with ports.intQ := (p, d, true) :: l }) hq :)
  have hgoes := pumpInt_goes (s := { portEvent { s with ports.intOut := none } 4 with ports.intQ := [(p, d, true)] }) rfl rfl haddr hdata htrip
  rw [← hagain, ht] at hgoes
  obtain ⟨hnew, hempty, hevents⟩ := hgoes
  exact ⟨hnew, hevents, hempty⟩

end

theorem interruptResponse_none {s : State} (hout : s.ports.intOut = none) (tag : BitVec 10) (par : Bool) : interruptResponse s tag par = badId s := by
  unfold interruptResponse
  rw [hout]

theorem creditReturn_full {s : State} (h : 255 ≤ s.credits 65 0) : creditReturn s .interrupt 0 = portEvent s 6 := if_pos h

theorem creditReturn_interrupt {s : State} (h : s.credits 65 0 < 255) (hq : s.ports.intQ = []) :
    creditReturn s .interrupt 0 = { s with ports.credits := tset s.ports.credits (creditKey 65 0) (s.credits 65 0 + 1) } :=
  (if_neg (not_le.mpr h)).trans (pumpInt_of_empty hq)

/-- The last channel is the block's to return but at the host port. -/
theorem creditReturn_own (s : State) (port : TvedPort) : creditReturn s port 3 = s ∨ port = .host := by
  cases port with
  | host => exact .inr rfl
  | memory c => exact .inl rfl
  | interrupt => exact .inl rfl

/-! ### Events of the ports -/

/-- A stamped event that leaves the queue and the chip is the next state as it stands. -/
theorem next_of_kept {s t : State} {o : Host.Outcome State Fault Refusal} (h : o = .next (kept s t)) (hpending : t.pending = s.pending) (hchip : t.chip = s.chip) : o = .next t := by
  rw [h, kept_eq_self hpending hchip]

section
variable {s : State} {c : CoreId} {tag : BitVec 10} (hc : c.val < s.ncores) (htrip : s.pwr.trip = false) {u : State} (hu : u = takeCredits s (1 + c.val) 3 1)
include hc htrip hu

/-- A response is taken on the state that holds its credits, and its credits go back. -/
theorem memResponse_next {par : Bool} {t : State} (ht : takeResponse u c.val (.write tag par) = t) (hlate : t.ports.lateIds = s.ports.lateIds) :
    exec (.memResponse c (.write tag par)) s = .next (kept s (giveCredits t (1 + c.val) 3 1)) := by
  rw [exec_memResponse hc, memResponse_of_taken htrip hu ht hlate]

theorem memResponse_stray (hnone : s.mem.outReq.find? (fun r => r.port == c.val && r.write == true && r.id == some (tag.toNat % 256)) = none) (hlate : s.ports.lateIds = []) (par : Bool) :
    ∃ t, exec (.memResponse c (.write tag par)) s = .next t ∧ t.ports.badId = satInc s.ports.badId ∧ t.ports.events = raiseEv s.ports.events 5 ∧ t.mem = s.mem ∧ t.rel = s.rel := by
  have hstray := memResponse_next hc htrip hu (par := par) (takeResponse_stray (u := u) (by rw [hu]; exact hlate) (by rw [hu]; exact hnone)) (by rw [hu]; rfl)
  obtain ⟨hcount, hevents, hmem, hrel⟩ := marks_badId u
  generalize badId u = t at *
  subst hu
  exact ⟨_, hstray, hcount, hevents, hmem, hrel⟩

section
variable {r : MemReq} (hfound : s.mem.outReq.find? (fun r => r.port == c.val && r.write == true && r.id == some (tag.toNat % 256)) = some r)
include hfound

theorem memResponse_good (hrc : tag.toNat / 256 = 0) : exec (.memResponse c (.write tag (oddOnes tag.toNat))) s = .next (kept s (giveCredits (dropReq u r) (1 + c.val) 3 1)) := by
  obtain ⟨hlate, -, -, -⟩ := kept_of_dropReq u r
  exact memResponse_next hc htrip hu (takeResponse_good (by rw [hu]; exact hfound) hrc) (hlate.trans (by rw [hu]; rfl))

theorem memResponse_parity (hagain : r.again = false) : ∃ t, exec (.memResponse c (.write tag (!oddOnes tag.toNat))) s = .next t ∧ t.ports.memRetry = satInc s.ports.memRetry ∧
    t.rel.parity = satInc s.rel.parity ∧ t.parts = s.parts := by
  obtain ⟨hretry, hparity, hparts, hlate⟩ := marks_memParity (u := u) hagain
  have htake := takeResponse_parity (u := u) (by rw [hu]; exact hfound)
  generalize memParity u r = t at *
  subst hu
  exact ⟨_, memResponse_next hc htrip rfl htake hlate, hretry, hparity, hparts⟩

theorem memResponse_fault (hrc : tag.toNat / 256 = 2) (hlive : r.tag ≠ 0x3F ∨ initClass r.init ≠ 2) (hstate : (s.block r.part r.block).state = .unmapped) :
    ∃ t, exec (.memResponse c (.write tag (oddOnes tag.toNat))) s = .next t ∧ t.ports.memErr = satInc s.ports.memErr ∧ t.ports.memErrAddr = BitVec.ofNat 48 r.addr ∧ t.parts = s.parts := by
  obtain ⟨hlate, hparts, hmaps, hcount⟩ := kept_of_dropReq u r
  have htake := takeResponse_fault (u := u) (by rw [hu]; exact hfound) hrc
  generalize dropReq u r = t at *
  have hblock : (t.block r.part r.block).state = .unmapped := by
    rw [block_of_maps hmaps, hu]
    exact hstate
  rw [memFault_unmapped hlive hblock] at htake
  subst hu
  exact ⟨_, memResponse_next hc htrip rfl htake hlate, congrArg satInc hcount, rfl, hparts⟩

end
end

section
variable {s u : State} {w : BitVec 96} {par : BitVec 3} {bs : List WriteBeat} {now : W64} (hnow : s.ts.toNat ≤ now.toNat) (hone : hasCredits s 0 0 1 = true)
  (hdata : hasCredits s 0 1 bs.length = true) (hdrain : s.spr.draining = none)
include hnow hone hdata hdrain

/-- A request that the block cannot serve is held with its credits. -/
theorem hostRequest_held (ha : s.spr.pstate = .a) (hopen : hostOpen s = false) (hrec : recoveryOnly s w = false) :
    exec (.hostRequest w par bs now) s = .next { takeHost { s with ts := now } bs with spr.heldHost := s.spr.heldHost ++ [(w, par, bs)] } := by
  have hclosed : ¬ (hostOpen { s with ts := now } || recoveryOnly { s with ts := now } w) = true := by
    rw [Bool.or_eq_true, not_or]
    exact ⟨Bool.eq_false_iff.mp hopen, Bool.eq_false_iff.mp hrec⟩
  exact next_of_kept (hostRequest_next hnow ((hostRequest_awake (s := { s with ts := now }) hone hdata ha hdrain).trans (if_neg hclosed))) rfl rfl

/-- A request that the block serves is answered on the state that says the host is active. -/
theorem hostRequest_answers (hopen : hostOpen s = true) {v t : State} (hv : v = giveHost (takeHost { s with ts := now } bs) bs) (ht : serveHost v w par bs = t) :
    exec (.hostRequest w par bs now) s = .next (kept s t) :=
  hostRequest_next hnow ((hostRequest_served (s := { s with ts := now }) hone hdata hdrain hopen hv).trans ht)

end

/-- The state but for the credits owed, the times at which the block was idle and the time: what no arrival changes. -/
def besideCredits (s : State) : State := { s with ports.owed := [], spr.idleSince := 0, spr.rungIdle := [], ts := 0 }

theorem besideCredits_takeCredits (s : State) (port ch n : Nat) : besideCredits (takeCredits s port ch n) = besideCredits s := rfl
theorem besideCredits_giveCredits (s : State) (port ch n : Nat) : besideCredits (giveCredits s port ch n) = besideCredits s := rfl
theorem besideCredits_idle (s : State) (ts now : W64) (l : Tbl W64) : besideCredits { s with ts := ts, spr.idleSince := now, spr.rungIdle := l } = besideCredits s := rfl

theorem besideCredits_taken (s : State) (bs : List WriteBeat) : besideCredits (giveHost (takeHost s bs) bs) = besideCredits s := by
  rw [giveHost, besideCredits_giveCredits, besideCredits_giveCredits, takeHost, besideCredits_takeCredits, besideCredits_takeCredits]

theorem besideCredits_arrived {s u v : State} {now : W64} {bs : List WriteBeat} (hv : v = giveHost (takeHost { s with ts := now } bs) bs)
    (hu : u = { v with spr.idleSince := v.ts, spr.rungIdle := tset v.spr.rungIdle 1 v.ts }) : besideCredits u = besideCredits s := by
  have htaken := besideCredits_taken { s with ts := now } bs
  rw [← hv] at htaken
  rw [hu]
  exact (besideCredits_idle v v.ts v.ts _).trans (htaken.trans rfl)

section
variable {s u : State} {w : BitVec 96} {par : BitVec 3} {bs : List WriteBeat} {now : W64} (hnow : s.ts.toNat ≤ now.toNat) (hone : hasCredits s 0 0 1 = true)
  (hdata : hasCredits s 0 1 bs.length = true) (hdrain : s.spr.draining = none) (hopen : hostOpen s = true)
  {v : State} (hv : v = giveHost (takeHost { s with ts := now } bs) bs) (hu : u = { v with spr.idleSince := v.ts, spr.rungIdle := tset v.spr.rungIdle 1 v.ts })
include hnow hone hdata hdrain hopen hv hu

theorem hostRequest_parity (hpar : parityOf 3 w.toNat ≠ par.toNat) : ∃ t, exec (.hostRequest w par bs now) s = .next t ∧ t.ports.hostPar = satInc s.ports.hostPar ∧
    t.rel.parity = satInc s.rel.parity ∧ t.ports.events.flags.getLsbD 0 = true := by
  have hbeside := besideCredits_arrived hv hu
  obtain ⟨hcount, hparity, hflag⟩ := marks_answerParity u w
  have hnext := hostRequest_answers hnow hone hdata hdrain hopen hv (serveHost_parity hu (bs := bs) hpar)
  generalize answerParity u w = t at *
  exact ⟨_, hnext, hcount.trans (congrArg (fun x : State => satInc x.ports.hostPar) hbeside :), hparity.trans (congrArg (fun x : State => satInc x.rel.parity) hbeside :), hflag⟩

section
variable (hpar : parityOf 3 w.toNat = par.toNat) (hread : nbit w.toNat 0 = false)
include hpar hread

theorem hostRequest_bad (hbad : nbit w.toNat 1 = true) :
    exec (.hostRequest w par bs now) s = .next (kept s (hostAnswer u (reqId w) false rcFault (List.replicate (reqBeats w) 0))) :=
  hostRequest_answers hnow hone hdata hdrain hopen hv (serveHost_bad hu hpar hread hbad)

variable (hgood : nbit w.toNat 1 = false)
include hgood

theorem hostRequest_foreign (hclass : initClass (reqInit w) ≠ 0) : ∃ t, exec (.hostRequest w par bs now) s = .next t ∧ t.ports.hostRefused = satInc s.ports.hostRefused ∧
    t.ports.events.flags.getLsbD 1 = true ∧ t.mem = s.mem := by
  have hbeside := besideCredits_arrived hv hu
  obtain ⟨hcount, hflag, hmem⟩ := marks_answerRefused u w
  have hnext := hostRequest_answers hnow hone hdata hdrain hopen hv (serveHost_foreign hu (bs := bs) hpar hread hgood hclass)
  generalize answerRefused u w true = t at *
  exact ⟨_, hnext, hcount.trans (congrArg (fun x : State => satInc x.ports.hostRefused) hbeside :), hflag, hmem.trans (congrArg (fun x : State => x.mem) hbeside :)⟩

variable (hclass : initClass (reqInit w) = 0) (hindex : initIndex (reqInit w) < 64)
include hclass hindex

theorem hostRequest_window (haddr : reqAddr w < 0x4000000) (hbeats : reqBeats w = 1) (halign : reqAddr w % 16 = 0) (hpage : foreignPage u (initIndex (reqInit w)) (reqAddr w) = false)
    (hreads : hostReads u (initIndex (reqInit w)) (regGroup u (reqAddr w)).1 = true) :
    exec (.hostRequest w par bs now) s = .next (kept s (hostAnswer (readBeat u (reqAddr w)).1 (reqId w) false rcGood [(readBeat u (reqAddr w)).2])) :=
  hostRequest_answers hnow hone hdata hdrain hopen hv (serveHost_window hu hpar hread hgood hclass hindex haddr hbeats halign hpage hreads)

theorem hostRequest_hole (hlow : 0x4000000 ≤ reqAddr w) (hhigh : reqAddr w < 0x1000000000) :
    exec (.hostRequest w par bs now) s = .next (kept s (hostAnswer u (reqId w) false rcFault (List.replicate (reqBeats w) 0))) :=
  hostRequest_answers hnow hone hdata hdrain hopen hv (serveHost_hole hu hpar hread hgood hclass hindex hlow hhigh)

end
end

/-- While a trip stops the port logic a response waits with its credits (R619, R638). -/
theorem memResponse_tripped {s : State} {c : CoreId} (hc : c.val < s.ncores) (htrip : s.pwr.trip = true) (rsp : MemRsp) :
    ∃ t, exec (.memResponse c rsp) s = .next t ∧ t.ports.rspHeld = s.ports.rspHeld ++ [(c.val, rsp)] ∧ t.mem = s.mem ∧ t.parts = s.parts := by
  have hheld : memResponse s c.val rsp = { takeCredits s (1 + c.val) (rspCredits rsp).1 (rspCredits rsp).2 with ports.rspHeld := s.ports.rspHeld ++ [(c.val, rsp)] } := if_pos htrip
  exact ⟨_, (exec_memResponse hc rsp).trans (congrArg (fun t => Host.Outcome.next (kept s t)) hheld), rfl, rfl, rfl⟩

section
variable {s t : State}

theorem interruptResponse_next {tag : BitVec 10} {par : Bool} (ht : interruptResponse s tag par = t) : exec (.interruptResponse tag par) s = .next (kept s t) := ends_kept ht
theorem creditReturn_next {port : TvedPort} {ch : Fin 4} (ht : creditReturn s port ch.val = t) : exec (.creditReturn port ch) s = .next (kept s t) := ends_kept ht

theorem interruptResponse_again {p : Nat} {d : W32} (hout : s.ports.intOut = some (p, d, false)) (hq : s.ports.intQ = []) (haddr : 0 < s.credits 65 0) (hdata : 0 < s.credits 65 1)
    (htrip : s.pwr.trip = false) : ∃ t, exec (.interruptResponse 0x200 true) s = .next t ∧ t.ports.intOut = some (p, d, true) ∧ t.ports.events = raiseEv s.ports.events 4 ∧ t.ports.intQ = [] := by
  obtain ⟨t, ht⟩ : ∃ t, interruptResponse s 0x200 true = t := ⟨_, rfl⟩
  have hagain := interruptResponse_fault hout hq haddr hdata htrip ht
  exact ⟨_, interruptResponse_next ht, hagain⟩

end

/-! ### The statement -/

/-- Settles O49: a request is served on the state that its arrival leaves, and its answer changes the queue of answers alone; a response is taken on the state with its credits, which go back. -/
theorem tvedPorts : Obligations.TvedPorts := by
  refine fun s => ⟨fun w par bs now hnow => ⟨fun hoff => ?_, fun hcredits => ?_, fun hone hdata ha hdrain => hostRequest_held hnow hone hdata hdrain ha, fun u hone hdata hdrain hopen hu => ?_⟩,
    fun c tag r u hc htrip hu => ⟨fun hnone hlate => ?_, fun hfound => ⟨?_, ?_, ?_⟩⟩, ?_, fun p d hout hq => ⟨?_, ?_⟩, fun hout => ?_, fun hfull => ?_, fun hroom hq => ?_, fun port => ?_⟩
  · exact next_of_kept (hostRequest_next hnow (hostRequest_absent (s := { s with ts := now }) (.inl hoff))) rfl rfl
  · exact next_of_kept (hostRequest_next hnow (hostRequest_absent (s := { s with ts := now }) (.inr hcredits))) rfl rfl
  · obtain ⟨v, hv⟩ : ∃ v, v = giveHost (takeHost { s with ts := now } bs) bs := ⟨_, rfl⟩
    have hserved : u = { v with spr.idleSince := v.ts, spr.rungIdle := tset v.spr.rungIdle 1 v.ts } := by
      rw [hv]
      exact hu
    exact ⟨hostRequest_parity hnow hone hdata hdrain hopen hv hserved, fun hpar hread => ⟨hostRequest_bad hnow hone hdata hdrain hopen hv hserved hpar hread,
      hostRequest_foreign hnow hone hdata hdrain hopen hv hserved hpar hread, hostRequest_window hnow hone hdata hdrain hopen hv hserved hpar hread,
      hostRequest_hole hnow hone hdata hdrain hopen hv hserved hpar hread⟩⟩
  · exact memResponse_stray hc htrip hu hnone hlate _
  · exact memResponse_good hc htrip hu hfound
  · exact memResponse_parity hc htrip hu hfound
  · exact memResponse_fault hc htrip hu hfound
  · exact fun c rsp hc htrip => memResponse_tripped hc htrip rsp
  · exact next_of_kept (interruptResponse_next (interruptResponse_good hout hq)) rfl rfl
  · exact interruptResponse_again hout hq
  · exact next_of_kept (interruptResponse_next (interruptResponse_none hout ..)) rfl rfl
  · exact next_of_kept (creditReturn_next (creditReturn_full hfull)) rfl rfl
  · exact next_of_kept (creditReturn_next (creditReturn_interrupt hroom hq)) rfl rfl
  · exact (creditReturn_own s port).imp (fun h => next_of_kept (creditReturn_next h) rfl rfl) id

end Sys2Proof.Machine
end

section
/-! The fabric family (08_fabric.md): what frames, reports and the ends of tasks leave of the fabric block and of its ports. -/

namespace Sys2Proof.Machine

/-! ### Flits that leave a port (R342, R343) -/

/-- IDLE flits change what a port owes and the last IDLE header alone. -/
theorem idleFlits_frame (n : Nat) (p : Port) : ∃ owed last, idleFlits n p = { p with owed := owed, lastIdle := last } := by
  induction n generalizing p with
  | zero => exact ⟨p.owed, p.lastIdle, rfl⟩
  | succ n ih =>
    have hpaid (v m : Nat) : ∃ owed, payCredits p v m = { p with owed := owed } := by
      unfold payCredits
      split
      · exact ⟨p.owed, rfl⟩
      · exact ⟨_, rfl⟩
    unfold idleFlits
    dsimp only
    obtain ⟨owed, howed⟩ := hpaid (owedCredits p 0).1 (owedCredits p 0).2
    rw [howed]
    split
    · obtain ⟨owed', last, hrest⟩ := ih { p with owed := owed, lastIdle := some (linkHeader 1 0 p.nak p.txSeq.toNat ((p.rxSeq - 1).toNat) (owedCredits p 0).1 (owedCredits p 0).2 0) }
      exact ⟨owed', last, hrest⟩
    · split
      · exact ⟨_, _, rfl⟩
      · exact ⟨p.owed, p.lastIdle, rfl⟩

theorem state_idleFlits (n : Nat) (p : Port) : (idleFlits n p).state = p.state := by
  obtain ⟨owed, last, h⟩ := idleFlits_frame n p
  rw [h]

theorem state_sendFlits (me now : Nat) (p : Port) (f : Frame) : (sendFlits me now p f).state = p.state := by
  refine (view_foldl Port.state (fun q part => ?_) _ _).trans rfl
  unfold payCredits
  dsimp only
  split <;> rfl

/-- A link that is not UP sends nothing. -/
theorem pumpPortAux_of_notUp (me now n : Nat) {p : Port} (h : p.state ≠ .up) : pumpPortAux me now n p = p := by
  cases n with
  | zero => rfl
  | succ n => exact if_neg fun hup => h hup.1

theorem state_pumpPortAux (me now n : Nat) (p : Port) : (pumpPortAux me now n p).state = p.state := by
  induction n generalizing p with
  | zero => rfl
  | succ n ih =>
    unfold pumpPortAux
    split
    · split
      · exact (ih _).trans (state_sendFlits ..)
      · rfl
    · rfl

/-! ### Ports over frames -/

/-- A port whose link is neither UP nor in LP, but for the frames that wait at it: what no frame queued changes. -/
def parked (p : Port) : Option Port := if p.state = .up ∨ p.state = .lp then none else some { p with queue := [], wakeHold := false }

theorem parked_of_closed {p : Port} (hup : p.state ≠ .up) (hlp : p.state ≠ .lp) : parked p = some { p with queue := [], wakeHold := false } := if_neg (by simp [hup, hlp])

/-- What no frame sent and no report changes of the fabric: its block but for the ports and the frames held, and every port that is parked. -/
def besideFrames (s : State) : Fab × (Nat → Option Port) := ({ s.fab with ports := [], heldFrames := [] }, fun n => parked (s.port n))

theorem besideFrames_of_fab {s t : State} (h : t.fab = s.fab) : besideFrames t = besideFrames s := by
  unfold besideFrames State.port
  rw [h]

theorem besideFrames_modPort (s : State) (f : Nat) {g : Port → Port} (hg : ∀ p, parked (g p) = parked p) : besideFrames (s.modPort f g) = besideFrames s :=
  Prod.ext rfl (funext (port_modPort_view parked s f hg))

theorem besideFrames_pumpPort (s : State) (f : Nat) : besideFrames (pumpPort s f) = besideFrames s := by
  unfold pumpPort
  split
  · rfl
  · refine besideFrames_modPort s f fun p => ?_
    dsimp only
    by_cases hup : p.state = .up
    · have hsent := (state_pumpPortAux s.fab.id.toNat s.ts.toNat p.queue.length p).trans hup
      rw [if_pos hsent, parked, parked, if_pos (.inl ((state_idleFlits ..).trans hsent)), if_pos (.inl hup)]
    · rw [pumpPortAux_of_notUp _ _ _ hup, if_neg hup]

theorem besideFrames_queueAt (s : State) (f : Nat) (fr : Frame) : besideFrames (queueAt s f fr) = besideFrames s := by
  refine (besideFrames_pumpPort _ f).trans (besideFrames_modPort s f fun p => ?_)
  cases hstate : p.state <;> simp [parked, hstate]

theorem besideFrames_sendFrame (s : State) (fr : Frame) (from_ : Option Nat) : besideFrames (sendFrame s fr from_) = besideFrames s := by
  unfold sendFrame
  dsimp only
  split
  · rfl
  · split
    · exact view_foldl besideFrames (fun _ _ => besideFrames_queueAt ..) _ _
    · split
      · rfl
      · split
        · exact besideFrames_queueAt ..
        · rfl

theorem besideFrames_report (s : State) (code : Nat) (unit : W16) (ptag : Nat) : besideFrames (report s code unit ptag) = besideFrames s := by
  refine Eq.trans (b := besideFrames (issueReportBody s (mkReport s code unit ptag) (reportBody (mkReport s code unit ptag)))) rfl ?_
  unfold issueReportBody
  extract_lets code pin prev recent old seq toRind reps s1 r1 q1 s2 s3 s4 s5
  have h3 : besideFrames s3 = besideFrames s := by
    refine besideFrames_of_fab (?_ : s1.fab = s.fab)
    unfold s1
    split
    · exact fab_rindQueue ..
    · rfl
  have h4 : besideFrames s4 = besideFrames s := by
    unfold s4
    split
    · exact h3
    · exact (besideFrames_sendFrame ..).trans h3
  have h5 : besideFrames s5 = besideFrames s := (besideFrames_of_fab (fab_of_beyondReply (beyondReply_globalLog ..))).trans h4
  split
  · rfl
  · split
    · exact (besideFrames_of_fab (fab_of_beyondReply (beyondReply_partLog ..))).trans h5
    · exact h5

/-- The frames that waited at a port leave it, for other ports or for good (R359). -/
theorem besideFrames_rehome (s : State) (f : Nat) : besideFrames (rehome s f) = besideFrames s := by
  refine (view_foldl besideFrames (fun t fr => ?_) _ _).trans (besideFrames_modPort s f fun _ => rfl)
  dsimp only
  split
  · rfl
  · split
    · exact besideFrames_queueAt ..
    · rfl

/-! ### The own LSA and the routes (R356, R359) -/

/-- The events of the fabric and the parked ports: what neither an LSA sent nor routes that switch from a port take back. -/
def linkMarks (s : State) : EventReg × (Nat → Option Port) := (s.fab.events, fun n => parked (s.port n))

theorem linkMarks_of_besideFrames {s t : State} (h : besideFrames t = besideFrames s) : linkMarks t = linkMarks s := (congrArg (fun v => (v.1.events, v.2)) h :)

theorem linkMarks_sendLsa (s : State) : linkMarks (sendLsa s) = linkMarks s := by
  unfold sendLsa
  split
  · rfl
  · exact (linkMarks_of_besideFrames (besideFrames_sendFrame _ _ none) :)

/-- A port of a state with the same marks is as it was, but for the frames that wait at it, where its link is neither UP nor in LP. -/
theorem port_of_linkMarks {s t : State} (h : linkMarks t = linkMarks s) {f : Nat} {p : Port} (hp : s.port f = p) (hup : p.state ≠ .up) (hlp : p.state ≠ .lp) :
    ∃ queue hold, t.port f = { p with queue := queue, wakeHold := hold } := by
  subst hp
  have hparked : parked (t.port f) = some { s.port f with queue := [], wakeHold := false } := (congrFun (congrArg Prod.snd h) f).trans (parked_of_closed hup hlp)
  rw [parked, Option.ite_none_left_eq_some] at hparked
  obtain ⟨-, hsame⟩ := hparked
  exact ⟨(t.port f).queue, (t.port f).wakeHold, (congrArg (fun p : Port => { p with queue := (t.port f).queue, wakeHold := (t.port f).wakeHold }) (Option.some.inj hsame) :)⟩

/-- Routes that switch from a port change no port, and set at most a flag. -/
theorem linkMarks_switchRoutes (s : State) (f : Nat) : linkMarks (switchRoutes s f) = linkMarks s ∨ linkMarks (switchRoutes s f) = linkMarks (fabEvent s 5) := by
  unfold switchRoutes
  dsimp only
  split
  · exact .inr rfl
  · exact .inl rfl

/-- A link that goes down or off: the port as it is then, its frames not yet moved (R344). -/
def linkDropped (p : Port) (to_ : LinkState) : Port :=
  { p with state := to_, replayBuf := [], txSeq := 0, rxSeq := 0, ackIn := 0xFFF, nak := false, oneReplay := 0, replays := []
           rxBuf := [], owed := [], live := false, lanes := 0, rate := 0, step := 0 }

/-- The fall of a link drops its port and parks it, and sets LINK_DOWN where the link had been UP (R344, R378). -/
theorem linkMarks_linkDown (s : State) (f : Nat) (to_ : LinkState) : ∃ ev : EventReg, ((s.port f).live = true → ev.flags.getLsbD 0 = true) ∧
    linkMarks (linkDown s f to_) = (ev, (linkMarks (s.modPort f (linkDropped · to_))).2) := by
  unfold linkDown
  extract_lets was s1 s2
  split
  next hlive =>
    have h2 : linkMarks s2 = linkMarks (fabEvent s1 0) := linkMarks_of_besideFrames (besideFrames_report ..)
    have hset : (raiseEv s1.fab.events 0).flags.getLsbD 0 = true := by simp [raiseEv]
    rw [linkMarks_sendLsa, linkMarks_of_besideFrames (besideFrames_rehome ..)]
    rcases linkMarks_switchRoutes s2 f with h | h <;> rw [h]
    · exact ⟨_, fun _ => hset, h2⟩
    · exact ⟨raiseEv (raiseEv s1.fab.events 0) 5, fun _ => flag_raiseEv_of_set 5 hset, (congrArg (fun v => (raiseEv v.1 5, v.2)) h2 :)⟩
  next hlive => exact ⟨s1.fab.events, fun h => absurd h hlive, rfl⟩

/-- The port of a link that went down or off. -/
theorem port_linkDown (s : State) (f : Nat) {to_ : LinkState} (hup : to_ ≠ .up) (hlp : to_ ≠ .lp) :
    ∃ queue hold, (linkDown s f to_).port f = { linkDropped (s.port f) to_ with queue := queue, wakeHold := hold } := by
  obtain ⟨ev, -, h⟩ := linkMarks_linkDown s f to_
  have hport : State.port { s.modPort f (linkDropped · to_) with fab.events := ev } f = linkDropped (s.port f) to_ := port_modPort_same s f (linkDropped · to_)
  exact port_of_linkMarks h hport hup hlp

theorem flag_linkDown (s : State) {f : Nat} (to_ : LinkState) (hlive : (s.port f).live = true) : (linkDown s f to_).fab.events.flags.getLsbD 0 = true := by
  obtain ⟨ev, hset, h⟩ := linkMarks_linkDown s f to_
  rw [show (linkDown s f to_).fab.events = ev from congrArg Prod.fst h]
  exact hset hlive

/-! ### Barrier groups over the ends of tasks -/

/-- The slots of barrier groups (R370). -/
def barGroups (s : State) : Tbl Barrier := s.fab.bars

theorem barGroups_of_besideReply {s t : State} (h : besideReply t = besideReply s) : barGroups t = barGroups s := (congrArg barGroups h :)
theorem barGroups_of_besideMem {s t : State} (h : besideMem t = besideMem s) : barGroups t = barGroups s := barGroups_of_besideReply (besideReply_of_besideMem h)
theorem barGroups_of_beyondMem {s t : State} (h : beyondMem t = beyondMem s) : barGroups t = barGroups s := (congrArg barGroups h :)
theorem barGroups_of_beyondLinks {s t : State} (h : beyondLinks t = beyondLinks s) : barGroups t = barGroups s := (congrArg barGroups h :)
theorem barGroups_modGraph (s : State) (h : Nat) (f : Graph → Graph) : barGroups (s.modGraph h f) = barGroups s := rfl

theorem barGroups_sendDigests (s : State) (p h : Nat) (r : Run) : barGroups (sendDigests s p h r) = barGroups s := by
  unfold sendDigests
  split
  next g slot j hg hj =>
    extract_lets value iv me arg s1 s2
    have hframes : barGroups s1 = barGroups s := view_foldl barGroups (fun t m => by
      split
      · rfl
      · exact barGroups_of_beyondLinks (beyondLinks_sendFrame ..)) _ _
    split
    · exact hframes
    · rfl
  · rfl

theorem barGroups_stopReply (s : State) (p h : Nat) : barGroups (stopReply s p h) = barGroups s := by
  unfold stopReply
  split
  · split
    · extract_lets s1
      exact (barGroups_of_besideReply (besideReply_replyLater s1 ..)).trans rfl
    · rfl
  · rfl

theorem barGroups_unloadNow (s : State) (h : Nat) : barGroups (unloadNow s h) = barGroups s := by
  have hset : barGroups (dropSet s h) = barGroups s := by
    unfold dropSet
    split
    · exact (view_foldl barGroups (fun _ _ => barGroups_of_besideMem (besideMem_modBlock ..)) _ _).trans rfl
    · rfl
  unfold unloadNow
  split
  · rfl
  · extract_lets s1 s2
    have h2 : barGroups s2 = barGroups s1 := by
      refine view_foldl barGroups (fun t cx => ?_) _ _
      rfl
    rw [view_foldl barGroups fun _ _ => barGroups_of_besideReply (besideReply_replyLater ..), ← hset]
    exact h2

theorem barGroups_afterRetire (s : State) (p : Nat) : barGroups (afterRetire s p) = barGroups s := by
  have hattached (k : Packet) : barGroups (attachNow s p k false) = barGroups s := by
    unfold attachNow
    extract_lets lost minor s1 spr s2
    exact (barGroups_of_besideReply (besideReply_reply ..)).trans rfl
  unfold afterRetire
  split
  · split
    · exact hattached _
    · rfl
  · rfl

theorem barGroups_retireEnd (s : State) (h : Nat) : barGroups (retireEnd s h) = barGroups s := by
  unfold retireEnd
  split
  · rfl
  next g hg =>
    split
    · rfl
    next r hr =>
      extract_lets p s3 s4 s5 s6 s7
      have h3 : barGroups s3 = barGroups s := by
        unfold s3
        split <;> rfl
      have h4 : barGroups s4 = barGroups s3 := by
        refine view_foldl barGroups (fun t cx => ?_) _ _
        rfl
      have h5 : barGroups s5 = barGroups s4 := by
        refine (barGroups_modGraph ..).trans (view_foldl barGroups (fun t n => ?_) _ _)
        split <;> rfl
      have h6 : barGroups s6 = barGroups s5 := by
        unfold s6
        split
        · exact barGroups_sendDigests ..
        · rfl
      have h7 : barGroups s7 = barGroups s6 := barGroups_stopReply ..
      rw [barGroups_afterRetire, ← h3, ← h4, ← h5, ← h6, ← h7]
      split
      · exact barGroups_unloadNow ..
      · rfl

theorem barGroups_tryRetire (s : State) (h : Nat) : barGroups (tryRetire s h) = barGroups s := by
  have hretire : barGroups (retire s h none) = barGroups s := by
    unfold retire
    split
    · rfl
    · split
      · rfl
      · split
        · rfl
        · extract_lets p s1 s2
          have h1 : barGroups s1 = barGroups s := by
            unfold s1
            split <;> rfl
          have h2 : barGroups s2 = barGroups s := (barGroups_of_besideReply (besideReply_complete ..)).trans h1
          split
          · exact h2
          · exact (barGroups_retireEnd ..).trans h2
  obtain e | e := tryRetire_cases s h <;> rw [e]
  exact hretire

theorem barGroups_decrementAll (s : State) (c : Nat) (l : List Succ) : barGroups (decrementAll s c l) = barGroups s := by
  have hresume (t : State) (p : Nat) : barGroups (resumeVtime t c p) = barGroups t := by
    unfold resumeVtime
    dsimp only
    split
    · rfl
    · split <;> rfl
  refine view_foldl barGroups (fun t e => ?_) _ _
  unfold decrement checkReady
  split
  · unfold makeReady
    dsimp only
    exact (barGroups_of_beyondMem (beyondMem_fetchEntries ..)).trans (hresume _ _)
  · rfl

/-- The end of a task leaves every barrier group (R173, R186). -/
theorem barGroups_finishTask (s : State) (c x : Nat) (outcome : TaskOutcome) : barGroups (finishTask s c x outcome) = barGroups s := by
  unfold finishTask
  extract_lets k h held s1 s2 s3 s4 s5 s6
  have h1 : barGroups s1 = barGroups s := by
    unfold s1
    split
    · exact barGroups_of_beyondMem (beyondMem_giveUse ..)
    · rfl
  have h4 : barGroups s4 = barGroups s1 := rfl
  have h5 : barGroups s5 = barGroups s4 := by
    unfold s5
    split
    · exact barGroups_of_beyondMem (beyondMem_flushAfter ..)
    · rfl
  have h6 : barGroups s6 = barGroups s5 := barGroups_decrementAll ..
  have h7 (u : State) : barGroups (coreDoneCheck u c h) = barGroups u := by
    unfold coreDoneCheck
    split
    · rfl
    · dsimp only
      split <;> rfl
  rw [barGroups_tryRetire, h7, ← h1, ← h4, ← h5, ← h6]
  rfl

theorem barGroups_taskDone (s : State) (c x : Nat) : barGroups (taskDone s c x) = barGroups s := by
  have hmissed : barGroups (noteMissed s c x) = barGroups s := by
    unfold noteMissed
    dsimp only
    split
    · rfl
    · split <;> rfl
  unfold taskDone
  extract_lets k tardy cad s1 cad1
  split
  · exact barGroups_finishTask ..
  · split
    · exact (barGroups_finishTask ..).trans hmissed
    · exact barGroups_finishTask ..

/-- The pace limit changes cores and the rail alone (R617). -/
theorem barGroups_paceStep (s : State) (b : Barrier) : barGroups (paceStep s b) = barGroups s := by
  have hrail (u : State) : barGroups (askRail u) = barGroups u := by
    unfold askRail
    dsimp only
    split
    · rfl
    · split
      · rfl
      · split <;> rfl
  unfold paceStep
  dsimp only
  split
  · rfl
  · exact Eq.trans rfl (hrail _)

end Sys2Proof.Machine
end

section
/-! The fabric family (08_fabric.md): link bring-up, link states and flits, and the statement about them. -/

namespace Sys2Proof.Machine

/-! ### Bring-up (R339, R340) -/

theorem port_kept (s t : State) : (kept s t).port = t.port := rfl

theorem bringUp_of_ready {s : State} {f : Nat} (hen : (s.port f).en = true) (hready : (s.port f).phyReady = true) :
    bringUp s f = beginUp s f (minCode (s.port f).rateMax (s.port f).capsRate) (s.port f).lanesMax := if_pos (by simp [hen, hready])

theorem port_beginUp_same (s : State) (f : Nat) (rate lanes : BitVec 2) : (beginUp s f rate lanes).port f = { s.port f with
    state := LinkState.training, step := if rate = 0 then 6 else 4, stepAt := s.ts, tryRate := rate, tryLanes := lanes, rateReq := rate, rateAck := false, restartAt := none } :=
  port_modPort_same ..

theorem port_beginUp_other (s : State) {f g : Nat} (rate lanes : BitVec 2) (h : g ≠ f) : (beginUp s f rate lanes).port g = s.port g := port_modPort_other _ _ h

/-- A port with no frame to send that is pumped changes what it owes and its last IDLE header alone. -/
theorem port_pumpPort_of_noFrames {s : State} {f : Nat} (hqueue : (s.port f).queue = []) :
    ∃ owed last, (pumpPort s f).port f = { s.port f with owed := owed, lastIdle := last } := by
  unfold pumpPort
  split
  · exact ⟨_, _, rfl⟩
  · rw [port_modPort_same, hqueue]
    dsimp only [List.length_nil, pumpPortAux]
    split
    · exact idleFlits_frame ..
    · exact ⟨_, _, rfl⟩

/-- A port whose link has trained (R340, R347). -/
def trainedPort (p : Port) (peer : LinkPeer) (now : W64) : Port :=
  { p with state := .up, lanes := peer.lanes, rate := peer.rate, neigh := BitVec.ofNat 10 peer.neigh.val, neighPort := BitVec.ofNat 3 peer.neighPort.val, capsRate := peer.capRate
           credits := fullCredits, lastRx := now, wakeHold := false, step := 7, live := true }

section
variable {s : State} {f : FabPort} {now : W64} (hnow : s.ts.toNat ≤ now.toNat)
include hnow

theorem phyReady_next : exec (.phyReady f now) s = .next (kept s (bringUp ({ s with ts := now }.modPort f.val (fun p => { p with phyReady := true })) f.val)) := by
  change execPhyReady f now s = _
  exact endsAt_of_eq hnow rfl

theorem phyReady_enabled (hen : (s.port f.val).en = true) : ∃ t, exec (.phyReady f now) s = .next t ∧ (t.port f.val).state = .training ∧ (t.port f.val).phyReady = true ∧
    (t.port f.val).tryLanes = (s.port f.val).lanesMax ∧ (t.port f.val).tryRate = minCode (s.port f.val).rateMax (s.port f.val).capsRate ∧ (∀ g, g ≠ f.val → t.port g = s.port g) := by
  obtain ⟨u, hu⟩ : ∃ u : State, u = { s with ts := now }.modPort f.val (fun p => { p with phyReady := true }) := ⟨_, rfl⟩
  have hport : u.port f.val = { s.port f.val with phyReady := true } := by rw [hu]; exact port_modPort_same ..
  have hbring : bringUp u f.val = beginUp u f.val (minCode (s.port f.val).rateMax (s.port f.val).capsRate) (s.port f.val).lanesMax := by
    rw [bringUp_of_ready (by rw [hport]; exact hen) (by rw [hport]), hport]
  refine ⟨_, phyReady_next hnow, ?_⟩
  rw [port_kept, ← hu, hbring, port_beginUp_same, hport]
  refine ⟨rfl, rfl, rfl, rfl, fun g hg => ?_⟩
  rw [port_beginUp_other _ _ _ hg, hu, port_modPort_other _ _ hg]
  rfl

theorem phyReady_disabled (hen : (s.port f.val).en = false) : ∃ t, exec (.phyReady f now) s = .next t ∧ (t.port f.val).state = .off ∧ (t.port f.val).phyReady = true := by
  obtain ⟨u, hu⟩ : ∃ u : State, u = { s with ts := now }.modPort f.val (fun p => { p with phyReady := true }) := ⟨_, rfl⟩
  have hport : u.port f.val = { s.port f.val with phyReady := true } := by rw [hu]; exact port_modPort_same ..
  have hbring : bringUp u f.val = u.modPort f.val (fun q => { q with state := if q.en then .detect else .off }) := if_neg (by simp [hport, hen])
  refine ⟨_, phyReady_next hnow, ?_⟩
  rw [port_kept, ← hu, hbring, port_modPort_same, hport]
  exact ⟨if_neg (by simp [hen]), rfl⟩

theorem rateAck_next (htrain : (s.port f.val).state = .training) (hstep : (s.port f.val).step = 4) :
    ∃ t, exec (.rateAck f now) s = .next t ∧ (t.port f.val).step = 6 ∧ (t.port f.val).rateAck = true ∧ (t.port f.val).state = .training := by
  have hbody : exec (.rateAck f now) s = .next (kept s ({ s with ts := now }.modPort f.val (fun p => { p with
      rateAck := true, step := if p.state = LinkState.training ∧ p.step = 4 then 6 else p.step, stepAt := if p.state = LinkState.training ∧ p.step = 4 then now else p.stepAt }))) := by
    change execRateAck f now s = _
    exact endsAt_of_eq hnow rfl
  refine ⟨_, hbody, ?_⟩
  rw [port_kept, port_modPort_same]
  exact ⟨if_pos ⟨htrain, hstep⟩, rfl, htrain⟩

/-- The trained link, where the device has no identity to tell the neighbour (R340, R352). -/
theorem linkTrained_next (peer : LinkPeer) (htrain : (s.port f.val).state = .training) (hstep : (s.port f.val).step = 6) (hid : s.fab.idState = 0) :
    ∃ u, exec (.linkTrained f peer now) s = .next (kept s (pumpPort u f.val)) ∧ u.port f.val = trainedPort (s.port f.val) peer now ∧ u.fab.events.flags.getLsbD 1 = true := by
  obtain ⟨v, hv⟩ : ∃ v : State, v = fabEvent ({ s with ts := now }.modPort f.val (trainedPort · peer now)) 1 := ⟨_, rfl⟩
  have hport : v.port f.val = trainedPort (s.port f.val) peer now := by rw [hv]; exact (port_modPort_same { s with ts := now } f.val (trainedPort · peer now) :)
  have hflag : v.fab.events.flags.getLsbD 1 = true := by rw [hv]; exact flag_raiseEv_same _ (by decide)
  have hsilent (w : State) (hw : w.fab.idState = 0) : sendLsa (sendBeacon w) = w := by
    rw [sendBeacon, if_pos hw, sendLsa, if_pos hw]
  have hvid : v.fab.idState = 0 := by rw [hv]; exact hid
  obtain ⟨low, hbody⟩ : ∃ low : Bool, exec (.linkTrained f peer now) s = .next (kept s (pumpPort (sendLsa (sendBeacon (if low then fabEvent v 2 else v))) f.val)) := by
    refine ⟨decide (peer.rate.toNat < (minCode (s.port f.val).rateMax peer.capRate).toNat ∨ peer.lanes.toNat < (minCode (s.port f.val).lanesMax peer.capLanes).toNat), ?_⟩
    change execLinkTrained f peer now s = _
    unfold execLinkTrained
    refine endsAt_of_eq hnow (.trans (if_neg (not_or.2 ⟨not_not_intro htrain, not_not_intro hstep⟩)) ?_)
    rw [hv]
    rfl
  cases low with
  | true => exact ⟨fabEvent v 2, hbody.trans (by rw [if_pos rfl, hsilent (fabEvent v 2) hvid]), hport, flag_raiseEv_of_set 2 hflag⟩
  | false => exact ⟨v, hbody.trans (by rw [if_neg nofun, hsilent v hvid]), hport, hflag⟩

theorem linkTrained_up (peer : LinkPeer) (htrain : (s.port f.val).state = .training) (hstep : (s.port f.val).step = 6) (hqueue : (s.port f.val).queue = []) (hid : s.fab.idState = 0) :
    ∃ t, exec (.linkTrained f peer now) s = .next t ∧ (t.port f.val).state = .up ∧ (t.port f.val).rate = peer.rate ∧ (t.port f.val).lanes = peer.lanes ∧
      (t.port f.val).neigh.toNat = peer.neigh.val ∧ (t.port f.val).credits = fullCredits ∧ t.fab.events.flags.getLsbD 1 = true := by
  obtain ⟨u, hnext, hport, hflag⟩ := linkTrained_next hnow peer htrain hstep hid
  obtain ⟨owed, last, hpump⟩ := port_pumpPort_of_noFrames (s := u) (f := f.val) (by rw [hport]; exact hqueue)
  have hevents : (pumpPort u f.val).fab.events = u.fab.events := (congrArg (·.fab.events) (beyondLinks_pumpPort u f.val) :)
  refine ⟨_, hnext, ?_⟩
  rw [port_kept, hpump, hport]
  exact ⟨rfl, rfl, rfl, Nat.mod_eq_of_lt peer.neigh.isLt, rfl, (congrArg (·.flags.getLsbD 1) hevents).trans hflag⟩

theorem linkStepTimeout_next (htrain : (s.port f.val).state = .training) (hstep : (s.port f.val).step = 6) {r l : BitVec 2} (htry : nextTry (s.port f.val) = some (r, l)) :
    ∃ t, exec (.linkStepTimeout f now) s = .next t ∧ (t.port f.val).state = .training ∧ (t.port f.val).tryRate = r ∧ (t.port f.val).tryLanes = l := by
  have hbody : exec (.linkStepTimeout f now) s = .next (kept s (beginUp { s with ts := now } f.val r l)) := by
    change execLinkStepTimeout f now s = _
    unfold execLinkStepTimeout
    refine endsAt_of_eq hnow (.trans (if_neg (not_not_intro htrain)) (.trans (if_pos hstep) ?_))
    rw [show nextTry (State.port { s with ts := now } f.val) = some (r, l) from htry]
  refine ⟨_, hbody, ?_⟩
  rw [port_kept, port_beginUp_same]
  exact ⟨rfl, rfl, rfl⟩

theorem linkRestartTimer_next {at_ : W64} (hat : (s.port f.val).restartAt = some at_) (hdue : at_.toNat ≤ now.toNat) (hready : (s.port f.val).phyReady = true) (hen : (s.port f.val).en = true) :
    ∃ t, exec (.linkRestartTimer f now) s = .next t ∧ (t.port f.val).state = .training ∧ (t.port f.val).restartAt = none := by
  have hbody : exec (.linkRestartTimer f now) s = .next (kept s (bringUp { s with ts := now } f.val)) := by
    change execLinkRestartTimer f now s = _
    unfold execLinkRestartTimer
    refine endsAt_of_eq hnow ?_
    rw [show (State.port { s with ts := now } f.val).restartAt = some at_ from hat]
    exact if_pos ⟨hdue, hready⟩
  refine ⟨_, hbody, ?_⟩
  rw [port_kept, bringUp_of_ready (s := { s with ts := now }) hen hready, port_beginUp_same]
  exact ⟨rfl, rfl⟩

/-! ### Link states (R344, R362 to R364) -/

theorem phyReadyDrop_up (hup : (s.port f.val).state = .up) :
    ∃ t, exec (.phyReadyDrop f now) s = .next t ∧ (t.port f.val).state = .down ∧ (t.port f.val).phyReady = false ∧ (t.port f.val).replayBuf = [] := by
  obtain ⟨u, hu⟩ : ∃ u : State, u = { s with ts := now }.modPort f.val (fun p => { p with phyReady := false, restartAt := none }) := ⟨_, rfl⟩
  have hbody : exec (.phyReadyDrop f now) s = .next (kept s (linkDown u f.val .down)) := by
    change execPhyReadyDrop f now s = _
    unfold execPhyReadyDrop
    refine endsAt_of_eq hnow ?_
    rw [show (State.port { s with ts := now } f.val).state = .up from hup, hu]
  have huport : u.port f.val = { s.port f.val with phyReady := false, restartAt := none } := by rw [hu]; exact port_modPort_same ..
  obtain ⟨queue, hold, hport⟩ := port_linkDown u f.val (to_ := .down) nofun nofun
  refine ⟨_, hbody, ?_⟩
  rw [port_kept, hport, huport]
  exact ⟨rfl, rfl, rfl⟩

theorem linkSilence_down (hup : (s.port f.val).state = .up) (hsilent : (s.port f.val).lastRx.toNat + 2000 ≤ now.toNat) :
    ∃ t, exec (.linkSilence f now) s = .next t ∧ (t.port f.val).state = .down ∧ (t.port f.val).replayBuf = [] ∧ ((s.port f.val).live = true → t.fab.events.flags.getLsbD 0 = true) := by
  have hbody : exec (.linkSilence f now) s = .next (kept s (linkDown { s with ts := now } f.val .down)) := by
    change execLinkSilence f now s = _
    exact endsAt_of_eq hnow (if_pos ⟨hup, hsilent⟩)
  obtain ⟨queue, hold, hport⟩ := port_linkDown { s with ts := now } f.val (to_ := .down) nofun nofun
  refine ⟨_, hbody, ?_⟩
  rw [port_kept, hport]
  exact ⟨rfl, rfl, flag_linkDown { s with ts := now } .down⟩

theorem linkSilence_early (hearly : now.toNat < (s.port f.val).lastRx.toNat + 2000) : exec (.linkSilence f now) s = .next { s with ts := now } := by
  change execLinkSilence f now s = _
  exact next_of_kept (endsAt_of_eq (t := { s with ts := now }) hnow (if_neg fun h => Nat.not_le_of_lt hearly h.2)) rfl rfl

theorem lpEnter_up (hup : (s.port f.val).state = .up) :
    ∃ t, exec (.lpEnter f now) s = .next t ∧ (t.port f.val).state = .lp ∧ (t.port f.val).replayBuf = (s.port f.val).replayBuf ∧ (∀ g, g ≠ f.val → t.port g = s.port g) := by
  have hbody : exec (.lpEnter f now) s = .next (kept s ({ s with ts := now }.modPort f.val (fun p => { p with state := .lp }))) := by
    change execLpEnter f now s = _
    exact endsAt_of_eq hnow (if_pos hup)
  refine ⟨_, hbody, ?_⟩
  rw [port_kept, port_modPort_same]
  exact ⟨rfl, rfl, fun g hg => port_modPort_other _ _ hg⟩

theorem sleepNotice_next (hin : (s.port f.val).state = .up ∨ (s.port f.val).state = .lp) :
    ∃ t, exec (.sleepNotice f now) s = .next t ∧ (t.port f.val).state = .sleep ∧ (t.port f.val).replayBuf = [] := by
  obtain ⟨u, hu⟩ : ∃ u : State, u = { s with ts := now }.modPort f.val (fun p => { p with state := .sleep, replayBuf := [], txSeq := 0, rxSeq := 0, ackIn := 0xFFF }) := ⟨_, rfl⟩
  have hbody : exec (.sleepNotice f now) s = .next (kept s (sendLsa u)) := by
    change execSleepNotice f now s = _
    exact endsAt_of_eq hnow (.trans (if_pos hin) (by rw [hu]))
  have huport : u.port f.val = { s.port f.val with state := .sleep, replayBuf := [], txSeq := 0, rxSeq := 0, ackIn := 0xFFF } := by rw [hu]; exact port_modPort_same ..
  obtain ⟨queue, hold, hport⟩ := port_of_linkMarks (linkMarks_sendLsa u) huport nofun nofun
  refine ⟨_, hbody, ?_⟩
  rw [port_kept, hport]
  exact ⟨rfl, rfl⟩

theorem wakePattern_few (lane : Fin 4) {n : Nat} (hfew : n < 3) : exec (.wakePattern f lane n now) s = .next { s with ts := now } := by
  change execWakePattern f lane n now s = _
  exact next_of_kept (endsAt_of_eq (t := { s with ts := now }) hnow (if_pos hfew)) rfl rfl

theorem wakePattern_wakes (lane : Fin 4) {n : Nat} (hn : 3 ≤ n) (ha : s.spr.pstate = .a) (hsleep : (s.port f.val).state = .sleep) (hen : (s.port f.val).en = true)
    (hready : (s.port f.val).phyReady = true) : ∃ t, exec (.wakePattern f lane n now) s = .next t ∧ (t.port f.val).state = .training := by
  have hbody : exec (.wakePattern f lane n now) s = .next (kept s (sendLsa (bringUp { s with ts := now } f.val))) := by
    change execWakePattern f lane n now s = _
    exact endsAt_of_eq hnow (.trans (if_neg (Nat.not_lt_of_le hn)) (if_pos ⟨ha, hsleep⟩))
  obtain ⟨htrain, -⟩ := bringUp_trains (s := { s with ts := now }) hen hready
  exact ⟨_, hbody, training_of_portMarks (portMarks_sendLsa _) htrain⟩

/-! ### Flits (R342, R343) -/

end

/-- A port that a flit reached: when, and that its link is UP. -/
def heardPort (p : Port) (now : W64) : Port := { p with lastRx := now, state := .up }

/-- The acknowledgement and the credits of a flit's header taken (R342, R347). -/
def creditPort (p : Port) (h : Nat) : Port :=
  { ackFlits p (BitVec.ofNat 12 (nbits h 31 20)) with credits := tmod 0 (ackFlits p (BitVec.ofNat 12 (nbits h 31 20))).credits (nbits h 33 32) (fun n => min (bufUnits (nbits h 33 32)) (n + nbits h 43 34)) }

theorem nbits_lt (v hi lo : Nat) : nbits v hi lo < 2 ^ (hi + 1 - lo) := Nat.mod_lt _ (Nat.two_pow_pos _)

/-- What a flit's header changes of a port: the flits that it acknowledges leave the replay buffer, and its credits return. -/
theorem creditPort_frame (p : Port) (h : Nat) : ∃ buf ackIn oneReplay credits, creditPort p h = { p with replayBuf := buf, ackIn := ackIn, oneReplay := oneReplay, credits := credits } ∧
    ∀ i, p.replayBuf.findIdx? (fun x => nbits x.header.toNat 19 8 == nbits h 31 20) = some i → buf = p.replayBuf.drop (i + 1) := by
  have hack : (BitVec.ofNat 12 (nbits h 31 20)).toNat = nbits h 31 20 := Nat.mod_eq_of_lt (nbits_lt h 31 20)
  unfold creditPort ackFlits
  rw [hack]
  split
  next i hi => exact ⟨_, _, _, _, rfl, fun j hj => by rw [Option.some.inj (hi.symm.trans hj)]⟩
  next hnone => exact ⟨p.replayBuf, p.ackIn, p.oneReplay, _, rfl, fun j hj => nomatch hnone.symm.trans hj⟩

/-- A flit that leaves the wake latch alone: its effect is the receiver's. -/
theorem flitReceive_next {s : State} {f : FabPort} {fl : Flit} {now : W64} (hnow : s.ts.toNat ≤ now.toNat) (hup : (s.port f.val).state = .up) {t : State}
    (ht : flitReceive { s with ts := now } f.val fl = t) : exec (.flitReceive f fl now) s = .next (kept s t) := by
  change execFlitReceive f fl now s = _
  unfold execFlitReceive
  refine endsAt_of_eq hnow ?_
  have hidle : ((State.port { s with ts := now } f.val).state == .lp) = false := by rw [show (State.port { s with ts := now } f.val).state = .up from hup]; rfl
  rw [hidle, ht]
  rfl

section
variable {s : State} {f : Nat} {fl : Flit} (htrip : s.pwr.trip = false) (hup : (s.port f).state = .up)
include htrip hup

/-- On an UP link, outside a critical trip, a flit with a bad CRC is counted and NAK is to be sent (R342). -/
theorem flitReceive_badCrc (hcrc : crc64 (leBytes 8 fl.header.toNat ++ fl.bytes) ≠ fl.crc) :
    ∃ u, flitReceive s f fl = pumpPort u f ∧ u.port f = { heardPort (s.port f) s.ts with crc := satInc (s.port f).crc, nak := true } ∧ u.parts = s.parts ∧ u.mem = s.mem := by
  refine ⟨(s.modPort f (heardPort · s.ts)).modPort f (fun p => { p with crc := satInc p.crc, nak := true }), ?_, ?_, rfl, rfl⟩
  · exact .trans (if_neg (by simp [hup, htrip])) (if_pos hcrc)
  · rw [port_modPort_same, port_modPort_same]
    rfl

variable (hcrc : crc64 (leBytes 8 fl.header.toNat ++ fl.bytes) = fl.crc) (hdata : nbits fl.header.toNat 1 0 = 0) (hnoNak : nbit fl.header.toNat 4 = false)
include hcrc hdata hnoNak

/-- A data flit out of sequence is discarded, and NAK is to be sent (R342). -/
theorem flitReceive_outOfSequence (hseq : nbits fl.header.toNat 19 8 ≠ (s.port f).rxSeq.toNat) :
    ∃ u, flitReceive s f fl = pumpPort u f ∧ u.port f = { creditPort (heardPort (s.port f) s.ts) fl.header.toNat with nak := true } := by
  refine ⟨((s.modPort f (heardPort · s.ts)).modPort f (creditPort · fl.header.toNat)).modPort f (fun p => { p with nak := true }), ?_, ?_⟩
  · refine .trans (if_neg (by simp [hup, htrip])) (.trans (if_neg (not_not_intro hcrc)) ?_)
    dsimp only
    rw [if_neg (not_not_intro hdata), if_pos hseq, hnoNak]
    rfl
  · rw [port_modPort_same, port_modPort_same, port_modPort_same]

/-- A data flit in sequence, with no byte of a frame, is counted (R342, R343). -/
theorem flitReceive_inSequence (hseq : nbits fl.header.toNat 19 8 = (s.port f).rxSeq.toNat) (hfill : nbits fl.header.toNat 54 48 = 0) (hbuf : tget [] (s.port f).rxBuf (nbits fl.header.toNat 3 2) = []) :
    ∃ u, flitReceive s f fl = pumpPort u f ∧ u.port f = { creditPort (heardPort (s.port f) s.ts) fl.header.toNat with
      rxSeq := (s.port f).rxSeq + 1, nak := false, rxFlits := satInc (s.port f).rxFlits, rxBuf := tset (s.port f).rxBuf (nbits fl.header.toNat 3 2) [] } := by
  obtain ⟨buf, ackIn, oneReplay, credits, hcredit, -⟩ := creditPort_frame (heardPort (s.port f) s.ts) fl.header.toNat
  refine ⟨((s.modPort f (heardPort · s.ts)).modPort f (creditPort · fl.header.toNat)).modPort f (fun p =>
    { p with rxSeq := p.rxSeq + 1, nak := false, rxFlits := satInc p.rxFlits, rxBuf := tset p.rxBuf (nbits fl.header.toNat 3 2) [] }), ?_, ?_⟩
  · refine .trans (if_neg (by simp [hup, htrip])) (.trans (if_neg (not_not_intro hcrc)) ?_)
    dsimp only
    rw [if_neg (not_not_intro hdata), if_neg (not_not_intro hseq), hnoNak, hbuf, hfill]
    rfl
  · rw [port_modPort_same, port_modPort_same, port_modPort_same, hcredit]
    rfl

end

section
variable {s : State} {f : FabPort} {fl : Flit} {now : W64} (hnow : s.ts.toNat ≤ now.toNat) (htrip : s.pwr.trip = false) (hup : (s.port f.val).state = .up) (hqueue : (s.port f.val).queue = [])
include hnow htrip hup hqueue

theorem flitReceive_badCrc_next (hcrc : crc64 (leBytes 8 fl.header.toNat ++ fl.bytes) ≠ fl.crc) :
    ∃ t, exec (.flitReceive f fl now) s = .next t ∧ (t.port f.val).crc = satInc (s.port f.val).crc ∧ (t.port f.val).nak = true ∧ (t.port f.val).rxSeq = (s.port f.val).rxSeq ∧
      (t.port f.val).replayBuf = (s.port f.val).replayBuf ∧ (t.port f.val).rxBuf = (s.port f.val).rxBuf ∧ (t.port f.val).lastRx = now ∧ t.parts = s.parts ∧ t.mem = s.mem := by
  obtain ⟨u, hreceive, hport, hparts, hmem⟩ := flitReceive_badCrc (s := { s with ts := now }) htrip hup hcrc
  obtain ⟨owed, last, hpump⟩ := port_pumpPort_of_noFrames (s := u) (f := f.val) (by rw [hport]; exact hqueue)
  have hbeyond := beyondLinks_pumpPort u f.val
  refine ⟨_, flitReceive_next hnow hup hreceive, ?_⟩
  rw [port_kept, hpump, hport]
  exact ⟨rfl, rfl, rfl, rfl, rfl, rfl, (congrArg (·.parts) hbeyond :).trans hparts, (congrArg (·.mem) hbeyond :).trans hmem⟩

variable (hcrc : crc64 (leBytes 8 fl.header.toNat ++ fl.bytes) = fl.crc) (hdata : nbits fl.header.toNat 1 0 = 0) (hnoNak : nbit fl.header.toNat 4 = false)
include hcrc hdata hnoNak

theorem flitReceive_outOfSequence_next (hseq : nbits fl.header.toNat 19 8 ≠ (s.port f.val).rxSeq.toNat) :
    ∃ t, exec (.flitReceive f fl now) s = .next t ∧ (t.port f.val).nak = true ∧ (t.port f.val).rxSeq = (s.port f.val).rxSeq ∧
      (t.port f.val).crc = (s.port f.val).crc ∧ (t.port f.val).rxBuf = (s.port f.val).rxBuf := by
  obtain ⟨u, hreceive, hport⟩ := flitReceive_outOfSequence (s := { s with ts := now }) htrip hup hcrc hdata hnoNak hseq
  obtain ⟨buf, ackIn, oneReplay, credits, hcredit, -⟩ := creditPort_frame (heardPort (s.port f.val) now) fl.header.toNat
  rw [show State.port { s with ts := now } f.val = s.port f.val from rfl, show State.ts { s with ts := now } = now from rfl, hcredit] at hport
  obtain ⟨owed, last, hpump⟩ := port_pumpPort_of_noFrames (s := u) (f := f.val) (by rw [hport]; exact hqueue)
  refine ⟨_, flitReceive_next hnow hup hreceive, ?_⟩
  rw [port_kept, hpump, hport]
  exact ⟨rfl, rfl, rfl, rfl⟩

theorem flitReceive_inSequence_next (hseq : nbits fl.header.toNat 19 8 = (s.port f.val).rxSeq.toNat) (hfill : nbits fl.header.toNat 54 48 = 0)
    (hbuf : tget [] (s.port f.val).rxBuf (nbits fl.header.toNat 3 2) = []) :
    ∃ t, exec (.flitReceive f fl now) s = .next t ∧ (t.port f.val).nak = false ∧ (t.port f.val).rxSeq = (s.port f.val).rxSeq + 1 ∧ (t.port f.val).rxFlits = satInc (s.port f.val).rxFlits ∧
      (∀ i, (s.port f.val).replayBuf.findIdx? (fun x => nbits x.header.toNat 19 8 == nbits fl.header.toNat 31 20) = some i → (t.port f.val).replayBuf = (s.port f.val).replayBuf.drop (i + 1)) := by
  obtain ⟨u, hreceive, hport⟩ := flitReceive_inSequence (s := { s with ts := now }) htrip hup hcrc hdata hnoNak hseq hfill hbuf
  obtain ⟨buf, ackIn, oneReplay, credits, hcredit, hacked⟩ := creditPort_frame (heardPort (s.port f.val) now) fl.header.toNat
  rw [show State.port { s with ts := now } f.val = s.port f.val from rfl, show State.ts { s with ts := now } = now from rfl, hcredit] at hport
  obtain ⟨owed, last, hpump⟩ := port_pumpPort_of_noFrames (s := u) (f := f.val) (by rw [hport]; exact hqueue)
  refine ⟨_, flitReceive_next hnow hup hreceive, ?_⟩
  rw [port_kept, hpump, hport]
  exact ⟨rfl, rfl, rfl, hacked⟩

end

theorem nextTry_rate {p : Port} (h : p.tryRate ≠ 0) : nextTry p = some (p.tryRate - 1, p.tryLanes) := if_pos h

theorem nextTry_lanes {p : Port} (hrate : p.tryRate = 0) (hlanes : p.tryLanes ≠ 0) : nextTry p = some (minCode p.rateMax p.capsRate, p.tryLanes - 1) :=
  (if_neg (not_not_intro hrate)).trans (if_pos hlanes)

/-- Settles O31: bring-up and the states of a link event by event, and the three fates of a flit. -/
theorem linksAndFlits : Obligations.LinksAndFlits := by
  refine ⟨fun s f now hnow => ⟨phyReady_enabled hnow, phyReady_disabled hnow, rateAck_next hnow, linkTrained_up hnow, ?_, ?_, fun at_ hat => linkRestartTimer_next hnow hat,
      fun hup => ⟨phyReadyDrop_up hnow hup, linkSilence_down hnow hup⟩, fun hup => ⟨lpEnter_up hnow hup, linkSilence_early hnow⟩, sleepNotice_next hnow,
      fun lane n => ⟨wakePattern_few hnow lane, wakePattern_wakes hnow lane⟩⟩,
    fun s f fl now hnow htrip hup hqueue => ⟨flitReceive_badCrc_next hnow htrip hup hqueue, fun hcrc hdata hnoNak =>
      ⟨flitReceive_outOfSequence_next hnow htrip hup hqueue hcrc hdata hnoNak, flitReceive_inSequence_next hnow htrip hup hqueue hcrc hdata hnoNak⟩⟩⟩
  · exact fun htrain hstep hrate => linkStepTimeout_next hnow htrain hstep (nextTry_rate hrate)
  · intro htrain hstep hrate hlanes
    obtain ⟨t, hnext, -, htryRate, htryLanes⟩ := linkStepTimeout_next hnow htrain hstep (nextTry_lanes hrate hlanes)
    exact ⟨t, hnext, htryRate, htryLanes⟩

end Sys2Proof.Machine
end

section
/-! The fabric family (08_fabric.md): the fabric group of commands, and the statement about it. -/

namespace Sys2Proof.Machine

/-! ### The answer of a fabric command (R385, R389) -/

theorem fab_fabDone (s : State) (p : Nat) (k : Packet) : (fabDone s p k).fab = s.fab := fab_of_beyondReply (beyondReply_reply ..)

theorem port_fabDone (s : State) (p : Nat) (k : Packet) (f : Nat) : (fabDone s p k).port f = s.port f := by
  rw [State.port, fab_fabDone, State.port]

theorem besideReply_fabDone (s : State) (p : Nat) (k : Packet) : besideReply (fabDone s p k) = besideReply s := besideReply_reply ..

/-- The barrier group that a set command's list names, before its coordinator is known (R370). -/
def listedGroup (p : PartId) (k : Packet) (l : List Byte) : Barrier :=
  { id := BitVec.ofNat 16 (par k 0 2), valid := true, owner := p.val, members := (List.range (par k 2 2)).map (fun j => (field l (2 * j) 2 % 1024, field l (2 * j) 2 / 1024)) }

/-- The replica job that a set command's list names (R375). -/
def listedJob (p : PartId) (k : Packet) (l : List Byte) : Job :=
  { valid := true, owner := p.val, interval := par k 2 2, members := (List.range (par k 1 1)).map (fun i => (field l (8 * i) 2, field l (8 * i + 2) 1, BitVec.ofNat 32 (field l (8 * i + 4) 4))) }

/-! ### Status, bindings, groups and jobs (R366, R370, R375, R377) -/

section
variable {s : State} {p : PartId} {k : Packet}

theorem fabricStatus_next (hstarts : Starts s p 0x0801 k) (hform : formCheck k 16 16 [(2, 6)] = none) (haddr : addrOk k 8 = true) (hdev : par k 0 2 < 1024)
    (hmapped : anyBlock s p.val (parAddr k 8) 64 .unmapped = false) :
    exec (.fabricStatus p) s = .next (kept s (reply (devPut (takeHand s p.val) p.val (parAddr k 8) (freeBytes s 44 64)).draw p.val k 0 0 0xFFFFFFFF (fabState s))) := by
  have hfab : (devPut (takeHand s p.val) p.val (parAddr k 8) (freeBytes s 44 64)).draw.fab = s.fab := (fab_of_beyondReply (beyondReply_devPut (takeHand s p.val) p.val (parAddr k 8) (freeBytes s 44 64)) :)
  have hstate : fabState (devPut (takeHand s p.val) p.val (parAddr k 8) (freeBytes s 44 64)).draw = fabState s := by rw [fabState, hfab, fabState]
  have hpart : anyBlock (takeHand s p.val) p.val (parAddr k 8) 64 .unmapped = false := hmapped
  refine ends_kept ((ringCmd_of_starts _ hstarts hform).trans ((checked_of_good _ ?_ ?_).trans ?_))
  · simp [firstBad, haddr]
  · simp [firstBad, hpart, hdev]
  · rw [← hstate]
    rfl

section
variable (hright : hasRight s p.val 3 = true)
include hright

theorem peerBind_next (hstarts : Starts s p 0x0802 k) (hform : formCheck k 3 3 [] = none) (hdev : par k 0 2 < 1024) (hthere : par k 2 1 < 64)
    (hroom : (s.fab.binds.filter (fun b => b.1 == p.val)).length < 64) (hnew : ∀ b ∈ s.fab.binds, b.1 = p.val → b.2.1 ≠ par k 0 2) :
    exec (.peerBind p) s = .next (kept s (reply { takeHand s p.val with fab.binds := s.fab.binds ++ [(p.val, par k 0 2, par k 2 1)] } p.val k 0 0 0xFFFFFFFF (fabState s))) := by
  have hunbound : (s.fab.binds.filter (fun b => b.1 == p.val)).any (fun b => b.2.1 == par k 0 2) = false := by
    simpa [List.any_eq_false] using hnew
  refine ends_kept ((ringCmdR_of_starts _ hright hstarts hform).trans ((checked_of_good _ rfl ?_).trans rfl))
  have hbinds : (takeHand s p.val).fab.binds = s.fab.binds := rfl
  simp only [firstBad, hbinds, hunbound, List.find?, decide_eq_false (Nat.not_le_of_lt hdev), decide_eq_false (Nat.not_le_of_lt hroom), decide_eq_false (Nat.not_le_of_lt hthere)]
  rfl

theorem peerUnbind_next (hstarts : Starts s p 0x0803 k) (hform : formCheck k 2 2 [] = none) (hdev : par k 0 2 < 1024) : ∃ t, exec (.peerUnbind p) s = .next t ∧
    t.fab = { s.fab with binds := s.fab.binds.filter (fun b => !(b.1 == p.val && b.2.1 == par k 0 2)) } ∧ t.graphs = s.graphs ∧ t.cores = s.cores := by
  have hgood : firstBad [(decide (1024 ≤ par k 0 2), 0)] = none := by simp [firstBad, hdev]
  have hbeside := besideReply_fabDone { takeHand s p.val with fab.binds := s.fab.binds.filter (fun b => !(b.1 == p.val && b.2.1 == par k 0 2)) } p.val k
  refine ⟨_, ends_kept ((ringCmdR_of_starts _ hright hstarts hform).trans (checked_of_good _ rfl hgood)), (congrArg (·.fab) hbeside :), (congrArg (·.graphs) hbeside :), (congrArg (·.cores) hbeside :)⟩

theorem barrierGroupSet_next {n i : Nat} {l : List Byte} (hstarts : Starts s p 0x0804 k) (hform : formCheck k 16 16 [(4, 4)] = none) (haddr : addrOk k 8 = true) (hn : n = par k 2 2) (hmin : 2 ≤ n) (hmax : n ≤ 1024)
    (hnew : barSlot s (par k 0 2) = none) (hfree : freeSlot s.fab.bars (·.valid) 64 = some i) (hlist : listOf s p.val k (2 * n) = .bytes l) :
    ∃ (t : State) (b : Barrier), exec (.barrierGroupSet p) s = .next t ∧ t.fab.bars = tset s.fab.bars i b ∧ b.valid = true ∧ b.id = BitVec.ofNat 16 (par k 0 2) ∧ b.owner = p.val ∧
      b.members = (List.range n).map (fun j => (field l (2 * j) 2 % 1024, field l (2 * j) 2 / 1024)) ∧ b.gen = 0 ∧ b.pend = none ∧ b.arrived = [] ∧ t.fab.jobs = s.fab.jobs ∧ t.fab.binds = s.fab.binds := by
  subst hn
  have hslot : barSlot (takeHand s p.val) (par k 0 2) = none := hnew
  have hfree' : freeSlot (takeHand s p.val).fab.bars (·.valid) 64 = some i := hfree
  have hlist' : listOf (takeHand s p.val) p.val k (2 * par k 2 2) = .bytes l := (listOf_takeHand ..).trans hlist
  obtain ⟨coord, hset⟩ : ∃ coord, exec (.barrierGroupSet p) s = .next (kept s (fabDone { takeHand s p.val with fab.bars := tset s.fab.bars i { listedGroup p k l with coord := coord } } p.val k)) := by
    refine ⟨coordOf (takeHand s p.val) (listedGroup p k l), ends_kept ((ringCmdR_of_starts _ hright hstarts hform).trans ?_)⟩
    dsimp only
    rw [hslot]
    dsimp only
    rw [hfree']
    refine (checked_of_good _ (by simp [firstBad, haddr]) (by simp [firstBad]; omega)).trans ?_
    rw [withList, hlist']
    rfl
  have hfab := fab_fabDone { takeHand s p.val with fab.bars := tset s.fab.bars i { listedGroup p k l with coord := coord } } p.val k
  exact ⟨_, _, hset, (congrArg (·.bars) hfab :), rfl, rfl, rfl, rfl, rfl, rfl, rfl, (congrArg (·.jobs) hfab :), (congrArg (·.binds) hfab :)⟩

theorem barrierGroupClear_next (hstarts : Starts s p 0x0805 k) (hform : formCheck k 2 2 [] = none) : ∃ t, exec (.barrierGroupClear p) s = .next t ∧ barSlot t (par k 0 2) = none := by
  refine ⟨_, ends_kept (ringCmdR_of_starts _ hright hstarts hform), ?_⟩
  dsimp only
  refine (congrArg (fun fab : Fab => fab.bars.find? fun b => b.2.valid && b.2.id.toNat == par k 0 2) (fab_fabDone ..)).trans ?_
  exact List.find?_eq_none.2 fun b hb => ne_true_of_eq_false (Bool.not_eq_true' .. ▸ (List.mem_filter.1 hb).2)

theorem replicaJobSet_next {n : Nat} {l : List Byte} (hstarts : Starts s p 0x0806 k) (hform : formCheck k 16 16 [(4, 4)] = none) (haddr : addrOk k 8 = true) (hjob : par k 0 1 < 16) (hn : n = par k 1 1) (hmin : 2 ≤ n) (hmax : n ≤ 8)
    (hinterval : par k 2 2 ≠ 0) (hlist : listOf s p.val k (8 * n) = .bytes l)
    (hmembers : ∀ i, i < n → field l (8 * i + 3) 1 = 0 ∧ field l (8 * i) 2 < 1024 ∧ field l (8 * i + 2) 1 < 64 ∧ tfind s.fab.db (field l (8 * i) 2) = none) :
    ∃ (t : State) (j : Job), exec (.replicaJobSet p) s = .next t ∧ t.fab.jobs = tset s.fab.jobs (par k 0 1) j ∧ j.valid = true ∧ j.owner = p.val ∧ j.interval = par k 2 2 ∧ j.held = [] ∧
      j.members = (List.range n).map (fun i => (field l (8 * i) 2, field l (8 * i + 2) 1, BitVec.ofNat 32 (field l (8 * i + 4) 4))) := by
  subst hn
  have hlist' : listOf (takeHand s p.val) p.val k (8 * par k 1 1) = .bytes l := (listOf_takeHand ..).trans hlist
  have hmember {i : Nat} (hi : i ∈ List.range (par k 1 1)) := hmembers i (List.mem_range.1 hi)
  have hreserved : (List.range (par k 1 1)).find? (fun i => field l (8 * i + 3) 1 != 0) = none := List.find?_eq_none.2 fun i hi => by
    simp [(hmember hi).1]
  have hrange : (List.range (par k 1 1)).find? (fun i => decide (1024 ≤ field l (8 * i) 2 ∨ 64 ≤ field l (8 * i + 2) 1)) = none := List.find?_eq_none.2 fun i hi => by
    obtain ⟨-, hdev, hpart, -⟩ := hmember hi
    simp [hdev, hpart]
  have hsource : (listedJob p k l).members.any (fun m => match tfind (takeHand s p.val).fab.db m.1 with | some o => o.beaconSeq.isSome && o.beatSrc != (takeHand s p.val).cad.src | none => false) = false := by
    rw [listedJob, List.any_map, List.any_eq_false]
    intro i hi
    obtain ⟨-, -, -, hunknown⟩ := hmember hi
    have hunknown' : tfind (takeHand s p.val).fab.db (field l (8 * i) 2) = none := hunknown
    rw [Function.comp, hunknown']
    exact Bool.false_ne_true
  have hset : exec (.replicaJobSet p) s = .next (kept s (fabDone { takeHand s p.val with fab.jobs := tset s.fab.jobs (par k 0 1) (listedJob p k l) } p.val k)) := by
    refine ends_kept ((ringCmdR_of_starts _ hright hstarts hform).trans ((checked_of_good _ (by simp [firstBad, haddr]) (by simp [firstBad, hinterval]; omega)).trans ?_))
    rw [withList, hlist']
    dsimp only
    rw [hreserved]
    dsimp only
    rw [hrange]
    exact if_neg (ne_true_of_eq_false hsource)
  have hfab := fab_fabDone { takeHand s p.val with fab.jobs := tset s.fab.jobs (par k 0 1) (listedJob p k l) } p.val k
  exact ⟨_, _, hset, (congrArg (·.jobs) hfab :), rfl, rfl, rfl, rfl, rfl⟩

theorem replicaJobClear_next (hstarts : Starts s p 0x0807 k) (hform : formCheck k 1 1 [] = none) (hjob : par k 0 1 < 16) :
    exec (.replicaJobClear p) s = .next (kept s (reply { takeHand s p.val with fab.jobs := tdel s.fab.jobs (par k 0 1) } p.val k 0 0 0xFFFFFFFF (fabState s))) := by
  refine ends_kept ((ringCmdR_of_starts _ hright hstarts hform).trans ((checked_of_good _ rfl ?_).trans rfl))
  simp [firstBad, hjob]

end

end

/-! ### Ports (R354, R415) -/

/-- A port command that its partition may give does its work and is answered. -/
theorem portControl_of_starts {s : State} {p : PartId} {k : Packet} {mine : Nat → Bool} (body : State → Packet → State) (hright : hasRight s p.val 3 = true) (hstarts : Starts s p 0x0808 k) (hform : formCheck k 5 5 [] = none)
    (hport : par k 0 1 < 6) (hen : par k 2 1 ≤ 1) (hrate : par k 3 1 ≤ 2) (hlanes : par k 4 1 ≤ 2) (hop : par k 1 1 ≤ 2) (hmine : mine (par k 1 1) = true) :
    portControl s p.val mine body = fabDone (body (takeHand s p.val) k) p.val k := by
  obtain ⟨hstart, -⟩ := id hstarts
  rw [portControl, hstart]
  refine (if_pos hmine).trans ((ringCmdR_of_starts _ hright hstarts hform).trans (checked_of_good _ ?_ ?_))
  · simp [firstBad, hop, hen, hrate, hlanes]
  · simp [firstBad, hport]

/-- The first retrain of a ready port within a second trains it again, is counted and noted with its time (R341). -/
theorem port_retrain_first {s : State} {f : Nat} (hen : (s.port f).en = true) (hready : (s.port f).phyReady = true) (hfirst : (s.port f).retrainTs = []) :
    ((retrain s f).port f).state = .training ∧ ((retrain s f).port f).retrains = satInc (s.port f).retrains ∧ ((retrain s f).port f).retrainTs = [s.ts] := by
  obtain ⟨htrain, -⟩ := retrain_first hen hready hfirst
  refine ⟨htrain, retrains_retrain s f, ?_⟩
  obtain ⟨u, hu⟩ : ∃ u : State, u = s.modPort f (fun p => { p with retrains := satInc p.retrains, retrainTs := [s.ts], oneReplay := 0, replays := [] }) := ⟨_, rfl⟩
  have hport : u.port f = { s.port f with retrains := satInc (s.port f).retrains, retrainTs := [s.ts], oneReplay := 0, replays := [] } := by rw [hu]; exact port_modPort_same ..
  have hup : (bringUp u f).port f = (beginUp u f (minCode (u.port f).rateMax (u.port f).capsRate) (u.port f).lanesMax).port f := by
    rw [bringUp_of_ready (by rw [hport]; exact hen) (by rw [hport]; exact hready)]
  rw [port_beginUp_same, hport] at hup
  unfold retrain
  rw [hfirst]
  dsimp only [List.filter_nil]
  rw [if_neg (by simp), ← hu]
  split
  · obtain ⟨queue, hold, hsent⟩ := port_of_linkMarks (linkMarks_sendLsa (bringUp u f)) hup nofun nofun
    rw [hsent]
  · rw [hup]

/-- A broadcast leaves the fabric block, but for the ports and the frames held. -/
theorem fab_broadcast (s : State) (type : Nat) (arg : W64) (tag : Nat) : (beyondLinks (broadcast s type arg tag)).fab = (beyondLinks s).fab :=
  (congrArg State.fab (beyondLinks_sendFrame s (mkFrame s type 0x3FF true 0x3F arg (freeBytes s tag 32)) none) :)

/-- An ID proposed is the device's own, with the time of the claim (R354). -/
theorem fab_propose (s : State) (id : BitVec 10) :
    (propose s id).fab.conflict = s.fab.conflict ∧ (propose s id).fab.id = id ∧ (propose s id).fab.idState = 1 ∧ (propose s id).fab.claimAt = s.ts := by
  have hclaim : (beyondLinks (propose s id)).fab = (beyondLinks { s with fab.id := id, fab.idState := 1, fab.claimAt := s.ts }).fab := fab_broadcast ..
  exact ⟨(congrArg Fab.conflict hclaim :), (congrArg Fab.id hclaim :), (congrArg Fab.idState hclaim :), (congrArg Fab.claimAt hclaim :)⟩

section
variable {s : State} {p : PartId} {k : Packet} (hright : hasRight s p.val 3 = true) (hstarts : Starts s p 0x0808 k) (hform : formCheck k 5 5 [] = none)
  (hport : par k 0 1 < 6) (hen : par k 2 1 ≤ 1) (hrate : par k 3 1 ≤ 2) (hlanes : par k 4 1 ≤ 2)
include hright hstarts hform hport hen hrate hlanes

theorem portWrite_next (hop : par k 1 1 = 0) : exec (.portWrite p) s =
    .next (kept s (fabDone (writePort (takeHand s p.val) (par k 0 1) (par k 2 1 == 1) (BitVec.ofNat 2 (par k 3 1)) (BitVec.ofNat 2 (par k 4 1))) p.val k)) :=
  ends_kept (portControl_of_starts _ hright hstarts hform hport hen hrate hlanes (by omega) (by simp [hop]))

theorem portWrite_enabled (hop : par k 1 1 = 0) (hset : par k 2 1 = 1) (hwas : (s.port (par k 0 1)).en = true) :
    exec (.portWrite p) s = .next (kept s (reply ((takeHand s p.val).modPort (par k 0 1) (fun q => { q with en := true, rateMax := BitVec.ofNat 2 (par k 3 1), lanesMax := BitVec.ofNat 2 (par k 4 1) })) p.val k 0 0 0xFFFFFFFF (fabState s))) := by
  have hwritten := writePort_enabled (takeHand s p.val) (par k 0 1) (BitVec.ofNat 2 (par k 3 1)) (BitVec.ofNat 2 (par k 4 1))
  rw [show ((takeHand s p.val).port (par k 0 1)).en = true from hwas] at hwritten
  rw [portWrite_next hright hstarts hform hport hen hrate hlanes hop, hset, show (1 == 1) = true from rfl, hwritten]
  rfl

theorem portWrite_disabled (hop : par k 1 1 = 0) (hset : par k 2 1 = 0) (hwas : (s.port (par k 0 1)).en = true) :
    ∃ t, exec (.portWrite p) s = .next t ∧ (t.port (par k 0 1)).en = false ∧ (t.port (par k 0 1)).state = .off ∧ (t.port (par k 0 1)).replayBuf = [] := by
  refine ⟨_, portWrite_next hright hstarts hform hport hen hrate hlanes hop, ?_⟩
  obtain ⟨u, hu⟩ : ∃ u : State, u = (takeHand s p.val).modPort (par k 0 1) (fun q => { q with en := false, rateMax := BitVec.ofNat 2 (par k 3 1), lanesMax := BitVec.ofNat 2 (par k 4 1) }) := ⟨_, rfl⟩
  have hclosed : (u.port (par k 0 1)).en = false := by rw [hu, port_modPort_same]
  have hoff : writePort (takeHand s p.val) (par k 0 1) (par k 2 1 == 1) (BitVec.ofNat 2 (par k 3 1)) (BitVec.ofNat 2 (par k 4 1)) = linkDown u (par k 0 1) .off := by
    rw [hset, hu]
    exact if_pos (by rw [show ((takeHand s p.val).port (par k 0 1)).en = true from hwas]; rfl)
  obtain ⟨queue, hold, hdown⟩ := port_linkDown u (par k 0 1) (to_ := .off) nofun nofun
  rw [port_kept, port_fabDone, hoff, hdown]
  exact ⟨hclosed, rfl, rfl⟩

theorem portRetrain_next (hop : par k 1 1 = 1) (hfirst : (s.port (par k 0 1)).retrainTs = []) (hopen : (s.port (par k 0 1)).en = true) (hready : (s.port (par k 0 1)).phyReady = true) :
    ∃ t, exec (.portRetrain p) s = .next t ∧ (t.port (par k 0 1)).state = .training ∧ (t.port (par k 0 1)).retrains = satInc (s.port (par k 0 1)).retrains ∧ (t.port (par k 0 1)).retrainTs = [s.ts] := by
  refine ⟨_, ends_kept (portControl_of_starts _ hright hstarts hform hport hen hrate hlanes (by omega) (by simp [hop])), ?_⟩
  rw [port_kept, port_fabDone]
  exact port_retrain_first (s := takeHand s p.val) hopen hready hfirst

theorem clearFixedIdConflict_next (hop : par k 1 1 = 2) : exec (.clearFixedIdConflict p) s =
    .next (kept s (fabDone (if s.fab.conflict then propose { takeHand s p.val with fab.conflict := false } s.fab.fixedId else takeHand s p.val) p.val k)) :=
  ends_kept (portControl_of_starts _ hright hstarts hform hport hen hrate hlanes (by omega) (by simp [hop]))

theorem clearFixedIdConflict_proposed (hop : par k 1 1 = 2) (hconflict : s.fab.conflict = true) :
    ∃ t, exec (.clearFixedIdConflict p) s = .next t ∧ t.fab.conflict = false ∧ t.fab.id = s.fab.fixedId ∧ t.fab.idState = 1 ∧ t.fab.claimAt = s.ts := by
  refine ⟨_, clearFixedIdConflict_next hright hstarts hform hport hen hrate hlanes hop, ?_⟩
  rw [if_pos hconflict]
  obtain ⟨hclear, hid, hstate, hclaimed⟩ := fab_propose { takeHand s p.val with fab.conflict := false } s.fab.fixedId
  have hfab := fab_fabDone (propose { takeHand s p.val with fab.conflict := false } s.fab.fixedId) p.val k
  exact ⟨(congrArg (·.conflict) hfab :).trans hclear, (congrArg (·.id) hfab :).trans hid, (congrArg (·.idState) hfab :).trans hstate, (congrArg (·.claimAt) hfab :).trans hclaimed⟩

theorem clearFixedIdConflict_none (hop : par k 1 1 = 2) (hconflict : s.fab.conflict = false) :
    exec (.clearFixedIdConflict p) s = .next (kept s (reply (takeHand s p.val) p.val k 0 0 0xFFFFFFFF (fabState s))) := by
  rw [clearFixedIdConflict_next hright hstarts hform hport hen hrate hlanes hop, hconflict]
  rfl

end

/-- Settles O29: command by command, from what the answer leaves of the fabric block. -/
theorem fabricCommands : Obligations.FabricCommands := by
  refine fun s p k => ⟨fabricStatus_next, fun hright => ⟨peerBind_next hright, peerUnbind_next hright, fun n i l => barrierGroupSet_next hright, barrierGroupClear_next hright,
    fun n l => replicaJobSet_next hright, replicaJobClear_next hright, fun hstarts hform hport hen hrate hlanes => ?_⟩⟩
  exact ⟨portWrite_enabled hright hstarts hform hport hen hrate hlanes, portWrite_disabled hright hstarts hform hport hen hrate hlanes, portRetrain_next hright hstarts hform hport hen hrate hlanes,
    clearFixedIdConflict_proposed hright hstarts hform hport hen hrate hlanes, clearFixedIdConflict_none hright hstarts hform hport hen hrate hlanes⟩

end Sys2Proof.Machine
end

section
/-! The fabric family (08_fabric.md): frames at their destination, and the statement about them. -/

namespace Sys2Proof.Machine

/-! ### The global log (R586, R593) -/

theorem glogWr_raiseVector (s : State) (p v q : Nat) : ((raiseVector s p v).part q).glogWr = (s.part q).glogWr := by
  have hsent : (sendVector s p v).parts = s.parts := by
    unfold sendVector pumpInt
    split
    · split <;> rfl
    · rfl
  unfold raiseVector
  dsimp only
  split
  · rfl
  · split
    · refine part_modPart_view Part.glogWr s p (fun _ => ?_) q
      rfl
    · exact congrArg (fun t : Tbl Part => (tget {} t q).glogWr) hsent

/-- An entry of the global log moves the write counter of the partition that owns the log. -/
theorem glogWr_globalLog {s : State} {p : Nat} (howner : s.rel.glogOwner = some p) (code level tag : Nat) (args : List Byte) :
    ((globalLog s code level tag args).part p).glogWr = (s.part p).glogWr + 1 := by
  have hentry (addr : Nat) (bs : List Byte) : (((devPut s p addr bs).modPart p (fun q => { q with glogWr := q.glogWr + 1 })).part p).glogWr = (s.part p).glogWr + 1 := by
    rw [part_modPart_same, show (devPut s p addr bs).part p = s.part p from (congrArg (fun t : State => t.part p) (beyondMem_devPut s p addr bs) :)]
  unfold globalLog
  rw [howner]
  dsimp only
  split
  · refine (glogWr_raiseVector ..).trans ((part_modPart_view Part.glogWr _ p (fun _ => ?_) p).trans (hentry ..))
    rfl
  · exact hentry ..

theorem glogWr_globalNote {s : State} {p : Nat} (howner : s.rel.glogOwner = some p) (kind : Nat) : ((globalNote s kind).part p).glogWr = (s.part p).glogWr + 1 := by
  unfold globalNote
  rw [howner]
  exact glogWr_globalLog howner ..

/-! ### Reports and digests (R366, R374 to R376) -/

theorem queueReport_room {s : State} (r : QueuedReport) (hroom : s.rel.mgmtQ.length < 32) :
    (queueReport s r).rel.mgmtQ = s.rel.mgmtQ ++ [r] ∧ (queueReport s r).rel.reportsLost = s.rel.reportsLost := by
  have hfull : decide (32 ≤ s.rel.mgmtQ.length) = false := decide_eq_false (Nat.not_le_of_lt hroom)
  unfold queueReport
  rw [hfull]
  exact ⟨rfl, rfl⟩

theorem queueReport_full {s : State} (r : QueuedReport) (hfull : 32 ≤ s.rel.mgmtQ.length) :
    (queueReport s r).rel.mgmtQ = s.rel.mgmtQ.drop 1 ++ [r] ∧ (queueReport s r).rel.reportsLost = satInc s.rel.reportsLost := by
  unfold queueReport
  rw [decide_eq_true hfull]
  exact ⟨rfl, rfl⟩

/-- A RIND sum that arrives changes nothing of the state. -/
theorem rindSum_next {s : State} {f : FabPort} {src : DevId} (g b : W32) (pl : List Byte) : exec (.rindSum f src g b pl) s = .next s := ends_of_eq rfl rfl rfl

/-- A digest for a job that is not set is dropped. -/
theorem fabDigest_invalid {s : State} {f : FabPort} {src : DevId} {d : DigestMsg} {j : Job} (hj : j = tget {} s.fab.jobs d.job.val) (hvalid : j.valid = false) :
    exec (.fabDigest f src d) s = .next s := by
  subst hj
  exact ends_of_eq (if_pos (by simp [hvalid])) rfl rfl

section
variable {s : State} {f : FabPort} {src : DevId} (hhears : fabDeaf s = false)
include hhears

theorem fabReport_next (rep : List Byte) : ∃ t, exec (.fabReport f src rep) s = .next t ∧ t.rel = (queueReport s (.foreign (padTo 64 rep))).rel :=
  ⟨_, ends_kept (if_neg (ne_true_of_eq_false hhears)), (congrArg (·.rel) (besideReply_globalLog (queueReport s (.foreign (padTo 64 rep))) ..) :)⟩

theorem fabReport_room (rep : List Byte) (hroom : s.rel.mgmtQ.length < 32) :
    ∃ t, exec (.fabReport f src rep) s = .next t ∧ t.rel.mgmtQ = s.rel.mgmtQ ++ [.foreign (padTo 64 rep)] ∧ t.rel.reportsLost = s.rel.reportsLost := by
  obtain ⟨t, hnext, hrel⟩ := fabReport_next (f := f) (src := src) hhears rep
  exact ⟨t, hnext, by rw [hrel]; exact queueReport_room _ hroom⟩

theorem fabReport_full (rep : List Byte) (hfull : 32 ≤ s.rel.mgmtQ.length) :
    ∃ t, exec (.fabReport f src rep) s = .next t ∧ t.rel.mgmtQ = s.rel.mgmtQ.drop 1 ++ [.foreign (padTo 64 rep)] ∧ t.rel.reportsLost = satInc s.rel.reportsLost := by
  obtain ⟨t, hnext, hrel⟩ := fabReport_next (f := f) (src := src) hhears rep
  exact ⟨t, hnext, by rw [hrel]; exact queueReport_full _ hfull⟩

theorem fenceFrame_next (u : W16) (isCore : Bool) (n : W32) : exec (.fenceFrame f src u isCore n) s = .next (kept s (globalNote s 2)) :=
  ends_kept (if_neg (ne_true_of_eq_false hhears))

theorem fenceFrame_unowned (u : W16) (isCore : Bool) (n : W32) (howner : s.rel.glogOwner = none) : exec (.fenceFrame f src u isCore n) s = .next s := by
  have hnote : globalNote s 2 = s := by rw [globalNote, howner]
  rw [fenceFrame_next hhears, hnote]
  rfl

theorem fenceFrame_owned (u : W16) (isCore : Bool) (n : W32) {p : Nat} (howner : s.rel.glogOwner = some p) :
    ∃ t, exec (.fenceFrame f src u isCore n) s = .next t ∧ (t.part p).glogWr = (s.part p).glogWr + 1 ∧ t.cores = s.cores ∧ t.fab = s.fab :=
  ⟨_, fenceFrame_next hhears u isCore n, glogWr_globalNote howner 2, (congrArg (·.cores) (besideReply_globalNote s 2) :), (congrArg (·.fab) (besideReply_globalNote s 2) :)⟩

theorem fabDigest_member {d : DigestMsg} {j : Job} (hj : j = tget {} s.fab.jobs d.job.val) {i : Nat} (hvalid : j.valid = true) (hmember : j.members.findIdx? (fun m => m.1 == src.val) = some i)
    (hnew : j.held.any (fun h => h.1 == d.interval && h.2.1 == i) = false) :
    exec (.fabDigest f src d) s = .next { s with fab.jobs := tset s.fab.jobs d.job.val { j with held := (d.interval, i, d.a, d.value, d.complete) :: j.held } } := by
  subst hj
  refine ends_of_eq (.trans (if_neg (by simp [hvalid, hhears])) ?_) rfl rfl
  rw [hmember]
  exact if_neg (ne_true_of_eq_false hnew)

/-! ### Writes and their acknowledgements (R350, R366 to R369) -/

theorem fabWrite_unbound {p : PartId} {addr : BitVec 48} {txn : W16} {data : List Byte} (hunbound : s.fab.binds.any (fun b => b.1 == p.val && b.2.1 == src.val) = false) :
    ∃ t, exec (.fabWrite f src p addr txn data) s = .next t ∧ t.mem = s.mem ∧ (t.part p.val).gateRefused = satInc (s.part p.val).gateRefused ∧ (∀ q, q ≠ p.val → t.part q = s.part q) ∧
      t.cores = s.cores ∧ t.fab.events.flags.getLsbD 7 = true := by
  obtain ⟨u, hu⟩ : ∃ u, u = fabEvent (gateCount s p.val) 7 := ⟨_, rfl⟩
  obtain ⟨fr, hwrite⟩ : ∃ fr, fabWrite s src.val p.val addr.toNat txn.toNat data = sendFrame u fr none := by
    rw [hu]
    refine ⟨{ mkFrame (fabEvent (gateCount s p.val) 7) 0x11 src.val false p.val (BitVec.ofNat 64 (txn.toNat + 65536)) [] with refused := true }, ?_⟩
    unfold fabWrite
    rw [hunbound]
    rfl
  have hsent := beyondLinks_sendFrame u fr none
  have hpart (q : Nat) : (kept s (sendFrame u fr none)).part q = (gateCount s p.val).part q := (congrArg (fun t : State => t.part q) hsent :).trans (by rw [hu]; rfl)
  refine ⟨_, ends_kept (.trans (if_neg (ne_true_of_eq_false hhears)) hwrite), (congrArg (·.mem) hsent :).trans (by rw [hu]; rfl), ?_, fun q hq => ?_, (congrArg (·.cores) hsent :).trans (by rw [hu]; rfl),
    (congrArg (·.fab.events.flags.getLsbD 7) hsent :).trans ?_⟩
  · rw [hpart, gateCount, part_modPart_same]
  · rw [hpart, gateCount, part_modPart_other _ _ hq]
  · rw [hu]
    exact flag_raiseEv_same _ (by decide)

theorem fabWrite_bound {p : PartId} {addr : BitVec 48} {txn : W16} {data : List Byte} (hbound : s.fab.binds.any (fun b => b.1 == p.val && b.2.1 == src.val) = true) (hready : (s.part p.val).state = .ready)
    (hok : (devWrite s p.val addr.toNat data none).1 = .ok) (hview : anyBlock s p.val addr.toNat data.length .view = false) :
    exec (.fabWrite f src p addr txn data) s = .next (kept s (sendFrame (devWrite s p.val addr.toNat data none).2 (mkFrame (devWrite s p.val addr.toNat data none).2 0x11 src.val false p.val (BitVec.ofNat 64 (txn.toNat + 65536)) []) none)) := by
  refine ends_kept (.trans (if_neg (ne_true_of_eq_false hhears)) ?_)
  obtain ⟨r, hr⟩ : ∃ r, r = devWrite s p.val addr.toNat data none := ⟨_, rfl⟩
  rw [← hr] at hok ⊢
  obtain ⟨res, u⟩ := r
  dsimp only at hok ⊢
  subst hok
  unfold fabWrite
  rw [hbound, hready, ← hr, hview]
  rfl

theorem writeAck_next (txn n : W16) (refused : Bool) : exec (.writeAck f src txn n refused) s = .next (kept s (writeAck s src.val txn.toNat n.toNat refused)) :=
  ends_kept (if_neg (ne_true_of_eq_false hhears))

section
variable {txn n : W16} {x : Txn} (hfind : tfind s.fab.txns txn.toNat = some x)
include hfind

theorem writeAck_some (hdev : x.dev = src.val) (hleft : x.frames.drop n.toNat ≠ []) :
    exec (.writeAck f src txn n false) s = .next { s with fab.txns := tset s.fab.txns txn.toNat { x with frames := x.frames.drop n.toNat } } := by
  have hack : writeAck s src.val txn.toNat n.toNat false = { s with fab.txns := tset s.fab.txns txn.toNat { x with frames := x.frames.drop n.toNat } } := by
    unfold writeAck
    rw [hfind]
    exact .trans (if_neg (not_not_intro hdev)) (if_neg hleft)
  rw [writeAck_next hhears, hack]
  rfl

theorem writeAck_all (hdev : x.dev = src.val) (hleft : x.frames.drop n.toNat = []) :
    ∃ t, exec (.writeAck f src txn n false) s = .next t ∧ t.fab.txns = tdel s.fab.txns txn.toNat ∧ (t.ctx x.core x.ctx).txn = none ∧ (t.ctx x.core x.ctx).state = (s.ctx x.core x.ctx).state := by
  have hack : writeAck s src.val txn.toNat n.toNat false = { s with fab.txns := tdel s.fab.txns txn.toNat }.modCtx x.core x.ctx (fun k => { k with txn := none }) := by
    unfold writeAck
    rw [hfind]
    exact .trans (if_neg (not_not_intro hdev)) (if_pos hleft)
  have hctx := ctx_modCtx_same { s with fab.txns := tdel s.fab.txns txn.toNat } x.core x.ctx (fun k => { k with txn := none })
  rw [← hack] at hctx
  exact ⟨_, writeAck_next hhears txn n false, congrArg (·.fab.txns) hack, (congrArg Ctx.txn hctx :), (congrArg Ctx.state hctx :)⟩

theorem writeAck_other (hdev : x.dev ≠ src.val) (r : Bool) : exec (.writeAck f src txn n r) s = .next s := by
  have hack : writeAck s src.val txn.toNat n.toNat r = s := by
    unfold writeAck
    rw [hfind]
    exact if_pos hdev
  rw [writeAck_next hhears, hack]
  rfl

end

end

/-! ### The timer of a write (R368) -/

section
variable {s : State} {txn : W16} {x : Txn} {now : W64} (hnow : s.ts.toNat ≤ now.toNat) (hfind : tfind s.fab.txns txn.toNat = some x)
include hnow hfind

theorem ackTimeout_next : exec (.ackTimeout txn now) s = .next (kept s (
    if now.toNat < x.sentTs.toNat + s.fab.ackTimeout.toNat * 1000 then { s with ts := now }
    else if x.resends < s.fab.resendMax.toNat then sendTxn { s with ts := now, fab.txns := tset s.fab.txns txn.toNat { x with resends := x.resends + 1, sentTs := now } } txn.toNat
    else endTxns { s with ts := now, fab.events := raiseEv s.fab.events 8 } stTimeout (fun n _ => n == txn.toNat))) := by
  change execAckTimeout txn now s = _
  unfold execAckTimeout
  refine endsAt_of_eq hnow ?_
  dsimp only
  rw [hfind]
  rfl

theorem ackTimeout_early (hearly : now.toNat < x.sentTs.toNat + s.fab.ackTimeout.toNat * 1000) : exec (.ackTimeout txn now) s = .next { s with ts := now } := by
  rw [ackTimeout_next hnow hfind, if_pos hearly]
  rfl

theorem ackTimeout_resent (hlate : x.sentTs.toNat + s.fab.ackTimeout.toNat * 1000 ≤ now.toNat) (hmore : x.resends < s.fab.resendMax.toNat) :
    ∃ t, exec (.ackTimeout txn now) s = .next t ∧ tfind t.fab.txns txn.toNat = some { x with resends := x.resends + 1, sentTs := now } ∧ t.cores = s.cores := by
  have hsent := beyondLinks_sendTxn { s with ts := now, fab.txns := tset s.fab.txns txn.toNat { x with resends := x.resends + 1, sentTs := now } } txn.toNat
  refine ⟨_, ackTimeout_next hnow hfind, ?_⟩
  rw [if_neg (Nat.not_lt_of_le hlate), if_pos hmore]
  exact ⟨(congrArg (fun t : State => tfind t.fab.txns txn.toNat) hsent :).trans (tfind_tset_same ..), (congrArg (·.cores) hsent :)⟩

theorem ackTimeout_ended (hlate : x.sentTs.toNat + s.fab.ackTimeout.toNat * 1000 ≤ now.toNat) (hnoMore : s.fab.resendMax.toNat ≤ x.resends) :
    exec (.ackTimeout txn now) s = .next (kept s (endTxns { s with ts := now, fab.events := raiseEv s.fab.events 8 } stTimeout (fun n _ => n == txn.toNat))) := by
  rw [ackTimeout_next hnow hfind, if_neg (Nat.not_lt_of_le hlate), if_neg (Nat.not_lt_of_le hnoMore)]

end

/-! ### Barriers (R370, R371) -/

/-- An arrival of another generation than the own or the next is dropped. -/
theorem noteArrive_stale {s : State} {slot : Nat} {gen : W32} {b : Barrier} (dev : Nat) (hslot : tget {} s.fab.bars slot = b) (hown : gen ≠ b.gen) (hnext : gen ≠ b.gen + 1) : noteArrive s slot gen dev = s := by
  unfold noteArrive
  rw [hslot]
  exact if_pos (.inl ⟨hown, hnext⟩)

/-- The first arrival at a barrier that waits for another device is held. -/
theorem noteArrive_first {s : State} {slot dev : Nat} {gen : W32} {b : Barrier} (hslot : tget {} s.fab.bars slot = b) (hgen : gen = b.gen ∨ gen = b.gen + 1) (hmember : dev ∈ b.members.map (·.1))
    (harrived : b.arrived = []) (hother : ∃ m ∈ b.members, m.1 ≠ dev) : noteArrive s slot gen dev = { s with fab.bars := tset s.fab.bars slot { b with arrived := [(gen, dev, s.ts)] } } := by
  have hlisted : (b.members.map (·.1)).dedup.contains dev = true := by simpa using hmember
  have hmine : [(gen, dev, s.ts)].filter (fun a => a.1 == gen) = [(gen, dev, s.ts)] := by simp
  have hwaits : (b.members.map (·.1)).dedup.all (fun d => [(gen, dev, s.ts)].any (fun a => a.2.1 == d)) = false := by
    obtain ⟨m, hm, hne⟩ := hother
    exact List.all_eq_false.2 ⟨m.1, List.mem_dedup.2 (List.mem_map_of_mem hm), by simp [hne.symm]⟩
  unfold noteArrive
  rw [hslot]
  refine .trans (if_neg ?_) ?_
  · rw [hlisted]
    rintro (⟨hown, hnext⟩ | hunlisted)
    · exact hgen.elim hown hnext
    · exact Bool.false_ne_true hunlisted
  · simp only [harrived, List.any_nil, List.nil_append, Bool.false_eq_true, if_false, hmine]
    exact if_neg (ne_true_of_eq_false hwaits)

/-- The slot of a barrier whose wait a release ended (R371). -/
theorem bars_takeRelease {s : State} {slot c x : Nat} {gen : W32} {t0 : W64} {b : Barrier} (slowest spread : Nat) (hslot : tget {} s.fab.bars slot = b) (hpend : b.pend = some (c, x, gen, t0)) :
    ∃ hist, tget {} (takeRelease s slot gen slowest spread).fab.bars slot = { b with
      pend := none, wait := satAdd b.wait ((s.ts.toNat - t0.toNat) / 1000), slowest := BitVec.ofNat 10 slowest, spread := BitVec.ofNat 16 (min spread 65535), hist := hist, lastRel := s.ts } := by
  unfold takeRelease
  rw [hslot]
  dsimp only
  rw [hpend]
  dsimp only
  rw [if_pos rfl]
  exact ⟨_, (congrArg (tget {} · slot) ((barGroups_taskDone ..).trans (barGroups_paceStep ..))).trans (tget_tset_same ..)⟩

section
variable {s : State} {f : FabPort} {src : DevId} {id : W16} {gen : W32} {slot : Nat} {b : Barrier} {now : W64} (hnow : s.ts.toNat ≤ now.toNat) (hhears : fabDeaf s = false)
  (hgroup : barSlot s id.toNat = some (slot, b))
include hnow hhears hgroup

theorem fabArrive_next : exec (.fabArrive f src id gen now) s = .next (kept s (noteArrive { s with ts := now } slot gen src.val)) := by
  change execFabArrive f src id gen now s = _
  unfold execFabArrive
  refine endsAt_of_eq hnow ?_
  rw [show barSlot { s with ts := now } id.toNat = some (slot, b) from hgroup]
  exact if_neg (ne_true_of_eq_false hhears)

theorem fabRelease_next (slow : DevId) (sp : W32) : exec (.fabRelease f src id gen slow sp now) s = .next (kept s (takeRelease { s with ts := now } slot gen slow.val sp.toNat)) := by
  change execFabRelease f src id gen slow sp now s = _
  unfold execFabRelease
  refine endsAt_of_eq hnow ?_
  rw [show barSlot { s with ts := now } id.toNat = some (slot, b) from hgroup]
  exact if_neg (ne_true_of_eq_false hhears)

variable (hslot : tget {} s.fab.bars slot = b)
include hslot

theorem fabArrive_stale (hown : gen ≠ b.gen) (hnext : gen ≠ b.gen + 1) : exec (.fabArrive f src id gen now) s = .next { s with ts := now } := by
  rw [fabArrive_next hnow hhears hgroup, noteArrive_stale (s := { s with ts := now }) src.val hslot hown hnext]
  rfl

theorem fabArrive_first (hgen : gen = b.gen ∨ gen = b.gen + 1) (hmember : src.val ∈ b.members.map (·.1)) (harrived : b.arrived = []) (hother : ∃ m ∈ b.members, m.1 ≠ src.val) :
    exec (.fabArrive f src id gen now) s = .next { s with ts := now, fab.bars := tset s.fab.bars slot { b with arrived := [(gen, src.val, now)] } } := by
  rw [fabArrive_next hnow hhears hgroup, noteArrive_first (s := { s with ts := now }) hslot hgen hmember harrived hother]
  rfl

theorem fabRelease_ends (slow : DevId) (sp : W32) {c x : Nat} {t0 : W64} (hpend : b.pend = some (c, x, gen, t0)) : ∃ t, exec (.fabRelease f src id gen slow sp now) s = .next t ∧ (tget {} t.fab.bars slot).pend = none ∧
    (tget {} t.fab.bars slot).wait = satAdd b.wait ((now.toNat - t0.toNat) / 1000) ∧ (tget {} t.fab.bars slot).slowest = BitVec.ofNat 10 slow.val ∧ (tget {} t.fab.bars slot).spread = BitVec.ofNat 16 (min sp.toNat 65535) := by
  obtain ⟨hist, hbars⟩ := bars_takeRelease (s := { s with ts := now }) slow.val sp.toNat hslot hpend
  refine ⟨_, fabRelease_next hnow hhears hgroup slow sp, ?_⟩
  rw [show (kept s (takeRelease { s with ts := now } slot gen slow.val sp.toNat)).fab.bars = (takeRelease { s with ts := now } slot gen slow.val sp.toNat).fab.bars from rfl, hbars]
  exact ⟨rfl, rfl, rfl, rfl⟩

theorem fabRelease_none (slow : DevId) (sp : W32) (hpend : b.pend = none) : exec (.fabRelease f src id gen slow sp now) s = .next { s with ts := now } := by
  have hnothing : takeRelease { s with ts := now } slot gen slow.val sp.toNat = { s with ts := now } := by
    unfold takeRelease
    rw [show tget {} (State.fab { s with ts := now }).bars slot = b from hslot]
    dsimp only
    rw [hpend]
  rw [fabRelease_next hnow hhears hgroup, hnothing]
  rfl

end

/-! ### SECURE pieces (R576) -/

section
variable {s : State} {f : FabPort} {src : DevId} (hhears : fabDeaf s = false) (p : PartId)
include hhears

theorem fabSecure_piece (arg : W64) (pl : List Byte) : exec (.fabSecure f src p arg pl false) s = .next { s with fab.secure := tset s.fab.secure src.val (tget [] s.fab.secure src.val ++ pl) } :=
  ends_of_eq (if_neg (ne_true_of_eq_false hhears)) rfl rfl

theorem fabSecure_unbound (arg : W64) (pl : List Byte) (hcode : nbits arg.toNat 7 0 = 1) (hunbound : s.fab.binds.any (fun b => b.1 == p.val && b.2.1 == src.val) = false) :
    exec (.fabSecure f src p arg pl true) s = .next { s with fab.secure := tdel s.fab.secure src.val } := by
  have hnone : s.fab.binds.find? (fun b => b.1 == p.val && b.2.1 == src.val) = none := List.find?_eq_none.2 fun b hb => List.any_eq_false.1 hunbound b hb
  refine ends_of_eq (.trans (if_neg (ne_true_of_eq_false hhears)) ?_) rfl rfl
  refine .trans (if_pos hcode) ?_
  unfold secureRequest
  rw [show (State.fab { s with fab.secure := tdel s.fab.secure src.val }).binds.find? (fun b => b.1 == p.val && b.2.1 == src.val) = none from hnone]

end

/-- Settles O48: frame by frame at its destination. -/
theorem framesAtTheirDestination : Obligations.FramesAtTheirDestination := by
  refine fun s f src now hnow hhears => ⟨fabReport_room hhears, fabReport_full hhears, fun u isCore n => ⟨fenceFrame_unowned hhears u isCore n, fun p => fenceFrame_owned hhears u isCore n⟩, rindSum_next,
    fun d j hj => ⟨fun i => fabDigest_member hhears hj, fabDigest_invalid hj⟩, fun p addr txn data => ⟨fabWrite_unbound hhears, fabWrite_bound hhears⟩, fun txn n x hfind => ?_, fun id gen slot b hgroup => ?_,
    fun p arg pl => ⟨fabSecure_piece hhears p arg pl, fabSecure_unbound hhears p arg pl⟩⟩
  · exact ⟨writeAck_some hhears hfind, writeAck_all hhears hfind, writeAck_other hhears hfind, ackTimeout_early hnow hfind, ackTimeout_resent hnow hfind, ackTimeout_ended hnow hfind⟩
  · exact ⟨fun hown hnext hslot => fabArrive_stale hnow hhears hgroup hslot hown hnext, fun hgen hslot => fabArrive_first hnow hhears hgroup hslot hgen,
      fun slow sp c x t0 hslot => fabRelease_ends hnow hhears hgroup hslot slow sp, fun slow sp hslot => fabRelease_none hnow hhears hgroup hslot slow sp⟩

end Sys2Proof.Machine
end

section
/-! What log entries, interrupts and replies of a partition leave of the partitions: a view for each, and what a completion is of its partition's record. -/

namespace Sys2Proof.Machine

/-! ### Log entries and interrupts (R425, R442) -/

/-- What a log entry and an interrupt leave of their partition. -/
def unnoted (q : Part) : Part := { q with logWr := 0, glogWr := 0, events := {}, pend := 0 }

/-- What they leave of the partitions when they are those of partition `p`: every other partition is as it was. -/
def besideNotes (p : Nat) (s : State) : Part × ({q // q ≠ p} → Part) := (unnoted (s.part p), fun q => s.part q)

theorem besideNotes_of_parts {s t : State} (p : Nat) (h : t.parts = s.parts) : besideNotes p t = besideNotes p s := by
  unfold besideNotes State.part
  rw [h]

theorem part_of_besideNotes {s t : State} {p q : Nat} (h : besideNotes p t = besideNotes p s) (hq : q ≠ p) : t.part q = s.part q :=
  congrFun (congrArg Prod.snd h) ⟨q, hq⟩

theorem besideNotes_modPart_congr {s t : State} {p : Nat} (h : besideNotes p t = besideNotes p s) {f g : Part → Part} (hfg : unnoted (f (t.part p)) = unnoted (g (s.part p))) :
    besideNotes p (t.modPart p f) = besideNotes p (s.modPart p g) := by
  refine Prod.ext ?_ (funext fun q => ?_)
  · simpa [besideNotes] using hfg
  · simpa [besideNotes, part_modPart_other _ _ q.2] using part_of_besideNotes h q.2

@[simp] theorem besideNotes_modPart (s : State) (p : Nat) {f : Part → Part} (hf : ∀ q, unnoted (f q) = unnoted q) : besideNotes p (s.modPart p f) = besideNotes p s := by
  refine Prod.ext ?_ (funext fun q => part_modPart_other _ _ q.2)
  simp [besideNotes, hf]

@[simp] theorem besideNotes_draw (s : State) (p : Nat) : besideNotes p s.draw = besideNotes p s := rfl

@[simp] theorem besideNotes_devPut (s : State) (p r addr : Nat) (bs : List Byte) : besideNotes p (devPut s r addr bs) = besideNotes p s :=
  besideNotes_of_parts p (congrArg State.parts (beyondMem_devPut s r addr bs) :)

theorem part_devPut (s : State) (p addr : Nat) (bs : List Byte) : (devPut s p addr bs).part = s.part := (congrArg State.part (beyondMem_devPut s p addr bs) :)

theorem pumpInt_frame (s : State) : ∃ ports, pumpInt s = { s with ports := ports } := by
  unfold pumpInt
  split
  · split
    · exact ⟨_, rfl⟩
    · exact ⟨_, rfl⟩
  · exact ⟨_, rfl⟩

theorem sendVector_frame (s : State) (p v : Nat) : ∃ ports, sendVector s p v = { s with ports := ports } := by
  obtain ⟨ports, h⟩ := pumpInt_frame { s with ports.intQ := s.ports.intQ ++ [(p, intData s p v, false)] }
  exact ⟨ports, h⟩

theorem raiseVector_frame (s : State) (p v : Nat) : ∃ parts ports, raiseVector s p v = { s with parts := parts, ports := ports } := by
  unfold raiseVector
  dsimp only
  split
  · exact ⟨_, _, rfl⟩
  · split
    · exact ⟨_, _, rfl⟩
    · obtain ⟨ports, h⟩ := sendVector_frame s p v
      exact ⟨_, ports, h⟩

@[simp] theorem besideNotes_raiseVector (s : State) (p v : Nat) : besideNotes p (raiseVector s p v) = besideNotes p s := by
  unfold raiseVector
  dsimp only
  split
  · rfl
  · split
    · exact besideNotes_modPart _ _ fun _ => rfl
    · obtain ⟨ports, h⟩ := sendVector_frame s p v
      rw [h]
      rfl

@[simp] theorem besideNotes_partLog (s : State) (p code level tag : Nat) (args : List Byte) : besideNotes p (partLog s p code level tag args) = besideNotes p s := by
  unfold partLog
  dsimp only
  split
  · rfl
  · split
    · rw [besideNotes_raiseVector, besideNotes_modPart, besideNotes_modPart, besideNotes_devPut] <;> exact fun _ => rfl
    · rw [besideNotes_modPart, besideNotes_devPut]
      exact fun _ => rfl

@[simp] theorem besideNotes_partNote (s : State) (p kind : Nat) : besideNotes p (partNote s p kind) = besideNotes p s := by
  unfold partNote
  dsimp only
  split
  · rfl
  · rw [besideNotes_draw, besideNotes_partLog]

/-! ### Completions (R389, R390, R403) -/

/-- A completion in its partition's record: written at the tail while the ring has room and none is held, held by an ATTACHED session up to 64, counted lost beyond that. -/
def completed (c : Completion) (q : Part) : Part :=
  if q.held = [] ∧ cqRoom q = true then { q with cqTail := q.cqTail + 1 }
  else if q.session = .attached ∧ q.held.length < 64 then { q with held := q.held ++ [c] }
  else { q with cqLost := satInc q.cqLost }

theorem besideNotes_writeEntry (s : State) (p : Nat) (c : Completion) :
    besideNotes p (writeEntry s p c) = besideNotes p (s.modPart p (fun q => { q with cqTail := q.cqTail + 1 })) := by
  have htail (addr : Nat) (bs : List Byte) : besideNotes p ((devPut s p addr bs).modPart p (fun q => { q with cqTail := q.cqTail + 1 })) =
      besideNotes p (s.modPart p (fun q => { q with cqTail := q.cqTail + 1 })) := besideNotes_modPart_congr (besideNotes_devPut ..) (by rw [part_devPut])
  unfold writeEntry
  dsimp only
  split
  · rw [besideNotes_raiseVector, htail]
  · exact htail ..

theorem complete_of_room {s : State} {p : Nat} (c : Completion) (h : (s.part p).held = [] ∧ cqRoom (s.part p) = true) : complete s p c = writeEntry (partNote s p 0) p c := by
  unfold complete
  dsimp only
  rw [if_pos h, if_pos h, ite_self]

theorem complete_of_held {s : State} {p : Nat} (c : Completion) (hfull : ¬((s.part p).held = [] ∧ cqRoom (s.part p) = true)) (hattached : (s.part p).session = .attached)
    (hlen : (s.part p).held.length < 64) : complete s p c = (partNote s p 0).modPart p (fun q => { q with held := q.held ++ [c], events := raiseEv q.events 1 }) := by
  unfold complete
  dsimp only
  rw [if_pos hattached, if_neg hfull, if_pos hlen]

theorem complete_of_lost {s : State} {p : Nat} (c : Completion) (hfull : ¬((s.part p).held = [] ∧ cqRoom (s.part p) = true)) (hlen : ¬((s.part p).session = .attached ∧ (s.part p).held.length < 64)) :
    complete s p c = (partNote s p 0).modPart p (fun q => { q with cqLost := satInc q.cqLost, events := if (s.part p).session = .attached then raiseEv q.events 2 else q.events }) := by
  unfold complete
  dsimp only
  by_cases hattached : (s.part p).session = .attached
  · simp only [if_pos hattached]
    rw [if_neg hfull, if_neg (fun h => hlen ⟨hattached, h⟩)]
  · simp only [if_neg hattached]
    rw [if_neg hfull]

theorem besideNotes_complete (s : State) (p : Nat) (c : Completion) : besideNotes p (complete s p c) = besideNotes p (s.modPart p (completed c)) := by
  have hnote : unnoted ((partNote s p 0).part p) = unnoted (s.part p) := congrArg Prod.fst (besideNotes_partNote s p 0)
  by_cases hroom : (s.part p).held = [] ∧ cqRoom (s.part p) = true
  · rw [complete_of_room c hroom, besideNotes_writeEntry]
    refine besideNotes_modPart_congr (besideNotes_partNote ..) ?_
    rw [completed, if_pos hroom]
    exact (congrArg (fun q : Part => { q with cqTail := q.cqTail + 1 }) hnote :)
  · by_cases hlen : (s.part p).session = .attached ∧ (s.part p).held.length < 64
    · rw [complete_of_held c hroom hlen.1 hlen.2]
      refine besideNotes_modPart_congr (besideNotes_partNote ..) ?_
      rw [completed, if_neg hroom, if_pos hlen]
      exact (congrArg (fun q : Part => { q with held := q.held ++ [c] }) hnote :)
    · rw [complete_of_lost c hroom hlen]
      refine besideNotes_modPart_congr (besideNotes_partNote ..) ?_
      rw [completed, if_neg hroom, if_neg hlen]
      exact (congrArg (fun q : Part => { q with cqLost := satInc q.cqLost }) hnote :)

/-- What a reply leaves of the partition that it answers. -/
def unanswered (q : Part) : Part := { unnoted q with openPkts := [], cqTail := 0, held := [], cqLost := 0 }

theorem unanswered_of_unnoted {q r : Part} (h : unnoted q = unnoted r) : unanswered q = unanswered r := congrArg (fun q : Part => { q with openPkts := [], cqTail := 0, held := [], cqLost := 0 }) h

theorem unanswered_completed (c : Completion) (q : Part) : unanswered (completed c q) = unanswered q := by
  unfold completed
  split
  · rfl
  · split <;> rfl

/-- What the replies to partition `p` leave of the partitions: every other partition is as it was. -/
def besideAnswers (p : Nat) (s : State) : Part × ({q // q ≠ p} → Part) := (unanswered (s.part p), fun q => s.part q)

theorem besideAnswers_of_besideNotes {s t : State} {p : Nat} (h : besideNotes p t = besideNotes p s) : besideAnswers p t = besideAnswers p s :=
  Prod.ext (unanswered_of_unnoted (congrArg Prod.fst h)) (funext fun q => part_of_besideNotes h q.2)

theorem besideAnswers_modPart (s : State) (p : Nat) {f : Part → Part} (hf : ∀ q, unanswered (f q) = unanswered q) : besideAnswers p (s.modPart p f) = besideAnswers p s := by
  refine Prod.ext ?_ (funext fun q => part_modPart_other _ _ q.2)
  simp [besideAnswers, hf]

theorem besideAnswers_complete (s : State) (p : Nat) (c : Completion) : besideAnswers p (complete s p c) = besideAnswers p s :=
  (besideAnswers_of_besideNotes (besideNotes_complete s p c)).trans (besideAnswers_modPart s p (unanswered_completed c))

theorem besideAnswers_reply (s : State) (p : Nat) (k : Packet) (status : W16) (detail obj : W32) (state : Byte) :
    besideAnswers p (reply s p k status detail obj state) = besideAnswers p s :=
  (besideAnswers_complete ..).trans (besideAnswers_modPart s p fun _ => rfl)

theorem besideAnswers_partNote (s : State) (p kind : Nat) : besideAnswers p (partNote s p kind) = besideAnswers p s := besideAnswers_of_besideNotes (besideNotes_partNote ..)

theorem part_of_besideAnswers {s t : State} {p q : Nat} (h : besideAnswers p t = besideAnswers p s) (hq : q ≠ p) : t.part q = s.part q :=
  congrFun (congrArg Prod.snd h) ⟨q, hq⟩

end Sys2Proof.Machine
end

section
/-! The command interface family (09_command_interface.md): mailboxes, doorbells and the registers of a partition page. -/

namespace Sys2Proof.Machine

/-! ### Mailboxes (R423, R424) -/

/-- The initiator ID of a mailbox's owner (R679). -/
theorem mbxOwner_eq (m : Nat) : mbxOwner m = if m < 64 then BitVec.ofNat 16 m else if m = 64 then 0x2000 else 0xFFFF := by simp [mbxOwner, initId]

/-- Nothing is delivered to a mailbox for which no reply waits. -/
theorem mbxDeliver_of_none {s : State} {m : Nat} (h : (s.mbx m).reply = none) : mbxDeliver s m = s := by simp only [mbxDeliver, h]

/-- An event of a mailbox is a flag of its events, and an interrupt of the partition or the management port that owns it. -/
theorem mbxEvent_frame (s : State) (m bit : Nat) :
    ∃ parts ports, mbxEvent s m bit = { s.modMbx m (fun x => { x with events := raiseEv x.events bit }) with parts := parts, ports := ports } := by
  unfold mbxEvent
  dsimp only
  split
  · split
    · exact raiseVector_frame ..
    · exact ⟨_, _, rfl⟩
  · split
    · exact ⟨_, _, rfl⟩
    · exact ⟨_, _, rfl⟩

section
variable {s : State} {m : MbxId}

theorem mbxDoorbellSend_next (hfree : (s.mbx m.val).outFull = false) (hcode : mailCodes.contains (mailCode s m.val) = true) :
    exec (.mbxDoorbellSend m) s = .next (s.modMbx m.val (fun x => { x with
      outFull := true, outSender := if m.val < 64 then BitVec.ofNat 16 m.val else if m.val = 64 then 0x2000 else 0xFFFF
      sentAt := s.ts, timeout := false, served := false, reply := none })) :=
  ends_of_eq ((mbxSend_of_listed _ hfree hcode).trans (by rw [mbxOwner_eq])) rfl rfl

theorem mbxDoorbellWithdraw_next (hfull : (s.mbx m.val).outFull = true) :
    exec (.mbxDoorbellWithdraw m) s = .next (s.modMbx m.val (fun x => { x with outFull := false, timeout := false, served := false, reply := none })) :=
  ends_of_eq (if_pos hfull) rfl rfl

theorem mbxDoorbellAck_next (hin : (s.mbx m.val).inValid = true) (hreply : (s.mbx m.val).reply = none) :
    exec (.mbxDoorbellAck m) s = .next (s.modMbx m.val (fun x => { x with inValid := false })) :=
  ends_of_eq ((if_pos hin).trans (mbxDeliver_of_none (by rw [mbx_modMbx_same]; exact hreply))) rfl rfl

theorem mbxTimeoutExpire_next {now : W64} (hnow : s.ts.toNat ≤ now.toNat) (hfull : (s.mbx m.val).outFull = true) (hopen : (s.mbx m.val).timeout = false)
    (hdue : (s.mbx m.val).sentAt.toNat + (s.mbx m.val).limit.toNat * 1000 ≤ now.toNat) :
    ∃ t, exec (.mbxTimeoutExpire m now) s = .next t ∧ (t.mbx m.val).timeout = true ∧ (t.mbx m.val).outFull = true ∧ (t.mbx m.val).out = (s.mbx m.val).out ∧
      (t.mbx m.val).events.flags.getLsbD 1 = true ∧ t = { s with ts := t.ts, mbxs := t.mbxs, parts := t.parts, ports := t.ports } := by
  have hexpires : (s.mbx m.val).outFull ∧ !(s.mbx m.val).timeout ∧ (s.mbx m.val).sentAt.toNat + (s.mbx m.val).limit.toNat * 1000 ≤ now.toNat := ⟨hfull, by rw [hopen]; rfl, hdue⟩
  have hexec : exec (.mbxTimeoutExpire m now) s = .next (kept s (mbxEvent (State.modMbx { s with ts := now } m.val (fun x => { x with timeout := true })) m.val 1)) := by
    change execMbxTimeoutExpire m now s = _
    exact endsAt_of_eq hnow (if_pos hexpires)
  obtain ⟨parts, ports, hevent⟩ := mbxEvent_frame (State.modMbx { s with ts := now } m.val (fun x => { x with timeout := true })) m.val 1
  have hmbx : (mbxEvent (State.modMbx { s with ts := now } m.val (fun x => { x with timeout := true })) m.val 1).mbx m.val =
      { s.mbx m.val with timeout := true, events := raiseEv (s.mbx m.val).events 1 } := by
    rw [hevent, modMbx_modMbx]
    exact mbx_modMbx_same { s with ts := now } m.val (fun x => { x with timeout := true, events := raiseEv x.events 1 })
  refine ⟨_, hexec, (congrArg Mbx.timeout hmbx :), (congrArg Mbx.outFull hmbx).trans hfull, (congrArg Mbx.out hmbx :), ?_, ?_⟩
  · exact (congrArg (fun x : Mbx => x.events.flags.getLsbD 1) hmbx).trans (flag_raiseEv_same _ (by decide))
  · rw [hevent]
    rfl

end

/-- Settles O11: what each doorbell does to its mailbox, and the event of a message that is not acknowledged in time. -/
theorem mailboxes : Obligations.Mailboxes :=
  ⟨fun _ _ => ⟨mbxDoorbellSend_next, mbxDoorbellWithdraw_next, mbxDoorbellAck_next⟩, fun _ _ _ => mbxTimeoutExpire_next⟩

/-! ### Doorbells (R385, R400, R445) -/

/-- The turn of a partition at packet intake is in its own record. -/
theorem resumeIntake_frame (s : State) (p : Nat) : ∃ parts, resumeIntake s p = { s with parts := parts } := by
  unfold resumeIntake
  split
  · exact ⟨_, rfl⟩
  · split
    · exact ⟨_, rfl⟩
    · exact ⟨_, rfl⟩

/-- Settles O12: the doorbell's three cases, none of which touches anything but the partitions. -/
theorem doorbellTakesLegalTails : Obligations.DoorbellTakesLegalTails := by
  rintro s p r tail g rfl
  refine ⟨fun hsession hring => ends_of_eq (if_pos ⟨hsession, hring⟩) rfl rfl, fun hserved => ?_⟩
  have hnot : ¬((s.part p.val).session ≠ .attached ∧ r.val ≠ 0) := fun h => hserved.elim h.1 h.2
  refine ends_of_eq (if_neg hnot) ?_ ?_ <;> obtain ⟨parts, h⟩ := resumeIntake_frame s p.val <;> rw [h] <;> split <;> rfl

/-! ### The completion head (R389, R390) -/

section
variable {s : State} {p : PartId} {h : W16}

theorem partCqHead_passing (hpass : ((s.part p.val).cqTail - (s.part p.val).cqHead).toNat < (h - (s.part p.val).cqHead).toNat) :
    exec (.partCqHead p h) s = .next (s.modPart p.val (fun q => { q with events := raiseEv q.events 0 })) :=
  ends_of_eq (if_pos hpass) rfl rfl

theorem drainHeld_of_none {s : State} {p : Nat} (n : Nat) (hheld : (s.part p).held = []) : drainHeld n s p = s := by
  cases n with
  | zero => rfl
  | succ n => simp only [drainHeld, hheld]

/-- With no completion held and no run that waits for its own to be written, a free entry lets nothing happen. -/
theorem writeHeld_of_none {s : State} {p : Nat} (hheld : (s.part p).held = []) (hruns : ∀ e ∈ s.graphs, e.2.part = p → ∀ r, e.2.run = some r → r.waiting = false) :
    writeHeld s p = s := by
  unfold writeHeld
  rw [drainHeld_of_none 64 hheld]
  dsimp only
  rw [List.filter_eq_nil_iff.mpr, List.foldl_nil]
  intro e he
  cases hrun : e.2.run with
  | none => simp
  | some r =>
    have hwaits := fun hpart => hruns e he hpart r hrun
    simp only [Bool.and_eq_true, beq_iff_eq, not_and]
    exact fun ⟨hpart, hwaiting⟩ => absurd hwaiting (by simp [hwaits hpart])

theorem partCqHead_taken (hlegal : (h - (s.part p.val).cqHead).toNat ≤ ((s.part p.val).cqTail - (s.part p.val).cqHead).toNat) (hheld : (s.part p.val).held = [])
    (hruns : ∀ e ∈ s.graphs, e.2.part = p.val → ∀ r, e.2.run = some r → r.waiting = false) :
    exec (.partCqHead p h) s = .next (s.modPart p.val (fun q => { q with cqHead := h })) :=
  ends_of_eq ((if_neg (Nat.not_lt.mpr hlegal)).trans (writeHeld_of_none (by rw [part_modPart_same]; exact hheld) hruns)) rfl rfl

end

/-! ### The heartbeat (R402, R403) -/

/-- An entry of the global log leaves every partition but for what notes change. -/
theorem unnoted_globalNote (s : State) (kind p : Nat) : unnoted ((globalNote s kind).part p) = unnoted (s.part p) := by
  unfold globalNote
  split
  · rfl
  · next r howner =>
    have hlog (code level tag : Nat) (args : List Byte) : besideNotes r (globalLog s code level tag args) = besideNotes r s := by
      unfold globalLog
      rw [howner]
      dsimp only
      split
      · rw [besideNotes_raiseVector, besideNotes_modPart, besideNotes_modPart, besideNotes_devPut] <;> exact fun _ => rfl
      · rw [besideNotes_modPart, besideNotes_devPut]
        exact fun _ => rfl
    by_cases hp : p = r
    · subst hp
      exact congrArg Prod.fst (hlog ..)
    · exact congrArg unnoted (part_of_besideNotes (hlog ..) hp)

/-- A session that is lost is DETACHED with no packet in hand: the packets that were are answered, and no answer puts one back. -/
theorem part_detachLost (s : State) (p : Nat) : ((detachLost s p).part p).session = .detached ∧ ((detachLost s p).part p).inHand = [] := by
  have hlost {t : State} (h : (unanswered (t.part p)).session = .detached ∧ (unanswered (t.part p)).inHand = []) (kind kind' : Nat) :
      ((globalNote (partNote t p kind) kind').part p).session = .detached ∧ ((globalNote (partNote t p kind) kind').part p).inHand = [] := by
    have hnotes := (unnoted_globalNote (partNote t p kind) kind' p).trans (congrArg Prod.fst (besideNotes_partNote t p kind))
    exact ⟨(congrArg Part.session hnotes).trans h.1, (congrArg Part.inHand hnotes).trans h.2⟩
  have hreplies (l : List Packet) (t : State) : besideAnswers p (l.foldl (fun t k => reply t p k stDetached 0 noObj 0x12) t) = besideAnswers p t :=
    view_foldl (besideAnswers p) (fun _ _ => besideAnswers_reply ..) l t
  unfold detachLost
  dsimp only
  refine hlost ?_ 4 4
  rw [part_modPart_same]
  have hpart := congrArg Prod.fst (hreplies (s.part p).inHand (partEvent (s.modPart p (fun q => { q with session := .detached, inHand := [] })) p 3))
  rw [besideAnswers, besideAnswers, partEvent, part_modPart_same, part_modPart_same] at hpart
  exact ⟨(congrArg Part.session hpart :), (congrArg Part.inHand hpart :)⟩

section
variable {s : State} {p : PartId} {now : W64} (hnow : s.ts.toNat ≤ now.toNat)
include hnow

theorem partHeartbeat_next (v : W32) : exec (.partHeartbeat p v now) s = .next ({ s with ts := now }.modPart p.val (fun q => { q with heartbeat := v, hbTs := now })) := by
  change execPartHeartbeat p v now s = _
  exact endsAt_of_eq hnow rfl

theorem heartbeatTimeout_lost (hattached : (s.part p.val).session = .attached) (hlimit : (s.part p.val).hbLimit ≠ 0)
    (hdue : (s.part p.val).hbTs.toNat + (s.part p.val).hbLimit.toNat * 1000000 ≤ now.toNat) :
    ∃ t, exec (.heartbeatTimeout p now) s = .next t ∧ (t.part p.val).session = .detached ∧ (t.part p.val).inHand = [] := by
  refine ⟨kept s (detachLost { s with ts := now } p.val), ?_, part_detachLost { s with ts := now } p.val⟩
  change execHeartbeatTimeout p now s = _
  exact endsAt_of_eq hnow (if_pos ⟨hattached, hlimit, hdue⟩)

theorem heartbeatTimeout_early (hearly : now.toNat < (s.part p.val).hbTs.toNat + (s.part p.val).hbLimit.toNat * 1000000) :
    exec (.heartbeatTimeout p now) s = .next { s with ts := now } := by
  change execHeartbeatTimeout p now s = _
  exact endsAt_of_eq (t := { s with ts := now }) hnow (if_neg fun ⟨_, _, hdue⟩ => Nat.not_le.mpr hearly hdue)

end

/-! ### Interrupt remap (R442, R443) -/

/-- A message queued for the interrupt port stays there or is the one that awaits its response. -/
theorem mem_pumpInt {s : State} {x : Nat × W32 × Bool} (h : x ∈ s.ports.intQ ++ s.ports.intOut.toList) : x ∈ (pumpInt s).ports.intQ ++ (pumpInt s).ports.intOut.toList := by
  unfold pumpInt
  split
  · next p d again rest hout hq =>
    split
    · rw [hq, hout] at h
      simpa [or_comm] using h
    · exact h
  · exact h

theorem mem_sendVector (s : State) (p v : Nat) : (p, intData s p v, false) ∈ (sendVector s p v).ports.intQ ++ (sendVector s p v).ports.intOut.toList :=
  mem_pumpInt (List.mem_append_left _ (List.mem_append_right _ List.mem_cons_self))

/-- The message of a vector whose remap entry is `e`. -/
theorem intData_of_remap {s : State} {p v : Nat} {e : W32} (h : tget 0x10000 (s.part p).remap v = e &&& 0x1FFFF) :
    intData s p v = BitVec.ofNat 32 (e.toNat % 65536 + p * 65536) := by
  have hmask : (e &&& 0x1FFFF).toNat % 65536 = e.toNat % 65536 := by
    rw [BitVec.toNat_and, show (0x1FFFF : W32).toNat = 2 ^ 17 - 1 from rfl, Nat.and_two_pow_sub_one_eq_mod]
    omega
  rw [intData, h, hmask]

/-- The state in which the message of a pending vector leaves: its entry as written, its pending bit clear. -/
def unmasked (s : State) (p v : Nat) (e : W32) : State :=
  (s.modPart p (fun q => { q with remap := tset q.remap v (e &&& 0x1FFFF) })).modPart p (fun q => { q with pend := q.pend &&& ~~~(BitVec.ofNat 256 (2 ^ v)) })

theorem getLsbD_and_not_twoPow {w v : Nat} (x : BitVec w) (h : v < w) : (x &&& ~~~(BitVec.ofNat w (2 ^ v))).getLsbD v = false := by
  rw [BitVec.getLsbD_and, BitVec.getLsbD_not, BitVec.getLsbD_ofNat, Nat.testBit_two_pow_self]
  simp [h]

section
variable {s : State} {p : PartId} {v : Fin 256} {e : W32}

theorem partRemap_quiet (h : e.getLsbD 16 = true ∨ (s.part p.val).pend.getLsbD v.val = false ∨ (s.part p.val).state = .resetting ∨ (s.part p.val).session = .detached) :
    exec (.partRemap p v e) s = .next (s.modPart p.val (fun q => { q with remap := tset q.remap v.val (e &&& 0x1FFFF) })) := by
  refine ends_of_eq (if_neg ?_) rfl rfl
  rcases h with h | h | h | h <;> rw [h] <;> simp

theorem partRemap_sends (hmask : e.getLsbD 16 = false) (hpend : (s.part p.val).pend.getLsbD v.val = true) (hstate : (s.part p.val).state ≠ .resetting)
    (hsession : (s.part p.val).session ≠ .detached) :
    ∃ t, exec (.partRemap p v e) s = .next t ∧ (t.part p.val).pend.getLsbD v.val = false ∧
      (p.val, BitVec.ofNat 32 (e.toNat % 65536 + p.val * 65536), false) ∈ t.ports.intQ ++ t.ports.intOut.toList ∧ t = { s with parts := t.parts, ports := t.ports } := by
  have hsends : (!e.getLsbD 16 && (s.part p.val).pend.getLsbD v.val && (s.part p.val).state != .resetting && (s.part p.val).session != .detached) = true := by
    rw [hmask, hpend]
    simp [hstate, hsession]
  have hmsg := mem_sendVector (unmasked s p.val v.val e) p.val v.val
  rw [intData_of_remap (e := e) (by simp [unmasked])] at hmsg
  obtain ⟨ports, hframe⟩ := sendVector_frame (unmasked s p.val v.val e) p.val v.val
  refine ⟨kept s (sendVector (unmasked s p.val v.val e) p.val v.val), ends_kept (if_pos hsends), ?_, hmsg, ?_⟩
  · rw [part_kept, hframe]
    change ((unmasked s p.val v.val e).part p.val).pend.getLsbD v.val = false
    rw [unmasked, part_modPart_same]
    exact getLsbD_and_not_twoPow _ v.isLt
  · rw [hframe]
    rfl

end

/-- Settles O13: the three registers, each by the cases of its write. -/
theorem pageRegisters : Obligations.PageRegisters :=
  ⟨fun _ _ _ => ⟨partCqHead_passing, partCqHead_taken⟩, fun _ _ _ hnow => ⟨partHeartbeat_next hnow, heartbeatTimeout_lost hnow, heartbeatTimeout_early hnow⟩,
    fun _ _ _ _ => ⟨partRemap_quiet, partRemap_sends⟩⟩

end Sys2Proof.Machine
end

section
/-! The command interface family (09_command_interface.md): load beat and cadence set. -/

namespace Sys2Proof.Machine

/-! ### The fields of CAD_CTRL (R242) -/

theorem nbit_eq_of_div {n v i : Nat} (h : n / 8 = v / 8) (hi : 3 ≤ i) : nbit n i = nbit v i := by
  obtain ⟨j, rfl⟩ := Nat.exists_eq_add_of_le' hi
  rw [nbit, nbit, ← Nat.testBit_div_two_pow, ← Nat.testBit_div_two_pow, h]

theorem nbits_eq_of_div {n v hi lo : Nat} (h : n / 8 = v / 8) (hlo : 3 ≤ lo) : nbits n hi lo = nbits v hi lo := by
  obtain ⟨j, rfl⟩ := Nat.exists_eq_add_of_le hlo
  rw [nbits, nbits, Nat.shiftRight_add, Nat.shiftRight_add, Nat.shiftRight_eq_div_pow n 3, Nat.shiftRight_eq_div_pow v 3, h]

/-- The word that CADENCE_SET writes to CAD_CTRL (R412): the given fields from EDGE up, with SRC and EN below them. -/
def ctrlWord (v en src : Nat) : W32 := BitVec.ofNat 32 (v / 8 * 8 + en + src * 2)

theorem ctrlWord_fields {v en src : Nat} (hv : v < 2 ^ 13) (hen : en ≤ 1) (hsrc : src ≤ 2) :
    nbit (ctrlWord v en src).toNat 0 = decide (en = 1) ∧ nbits (ctrlWord v en src).toNat 2 1 = src ∧ (ctrlWord v en src).toNat / 8 = v / 8 := by
  have hword : (ctrlWord v en src).toNat = v / 8 * 8 + en + src * 2 := by
    rw [ctrlWord, BitVec.toNat_ofNat]
    omega
  rw [hword, nbit, Nat.testBit_zero, nbits_eq_div_mod]
  refine ⟨decide_eq_decide.mpr ?_, ?_, ?_⟩ <;> omega

/-- What CAD_CTRL reads as holds each field at its place. -/
theorem cadCtrl_fields (c : Cad) : (cadCtrl c).toNat < 2 ^ 13 ∧ nbit (cadCtrl c).toNat 3 = c.edge ∧ nbits (cadCtrl c).toNat 6 4 = c.avg.toNat ∧ nbit (cadCtrl c).toNat 7 = c.lossAct ∧
    nbits (cadCtrl c).toNat 11 8 = c.lossBeats.toNat ∧ nbit (cadCtrl c).toNat 12 = c.encDir := by
  have hone (b : Bool) : b2n b ≤ 1 := by cases b <;> decide
  have hen := hone c.en
  have hedge := hone c.edge
  have hact := hone c.lossAct
  have hdir := hone c.encDir
  have hword : (cadCtrl c).toNat = b2n c.en + c.src.toNat * 2 + b2n c.edge * 8 + c.avg.toNat * 16 + b2n c.lossAct * 128 + c.lossBeats.toNat * 256 + b2n c.encDir * 4096 := by
    rw [cadCtrl, BitVec.toNat_ofNat]
    omega
  have hbit {n i : Nat} {b : Bool} (h : n / 2 ^ i % 2 = b2n b) : nbit n i = b := by
    rw [nbit, Nat.testBit_eq_decide_div_mod_eq, h]
    cases b <;> rfl
  rw [hword, nbits_eq_div_mod, nbits_eq_div_mod]
  refine ⟨?_, hbit ?_, ?_, hbit ?_, ?_, hbit ?_⟩ <;> omega

/-! ### A write of CAD_CTRL (R210, R242) -/

theorem writeCadCtrl_frame (s : State) (v : W32) : ∃ cad, writeCadCtrl s v = { s with cad := cad } := by
  unfold writeCadCtrl
  dsimp only
  split
  · exact ⟨_, rfl⟩
  · split
    · exact ⟨_, rfl⟩
    · exact ⟨_, rfl⟩

/-- What a write of CAD_CTRL gives to the settings, whether it enables cadence, disables it or does neither. -/
theorem writeCadCtrl_settings (s : State) (v : W32) (c : Cad) (hc : c = (writeCadCtrl s v).cad) :
    c.en = nbit v.toNat 0 ∧ c.src = (if nbits v.toNat 2 1 = 3 then s.cad.src else BitVec.ofNat 2 (nbits v.toNat 2 1)) ∧ c.edge = nbit v.toNat 3 ∧
      c.avg = (if 4 < nbits v.toNat 6 4 then s.cad.avg else BitVec.ofNat 3 (nbits v.toNat 6 4)) ∧ c.lossAct = nbit v.toNat 7 ∧
      c.lossBeats = (if nbits v.toNat 11 8 < 2 then s.cad.lossBeats else BitVec.ofNat 4 (nbits v.toNat 11 8)) ∧ c.encDir = nbit v.toNat 12 ∧
      c.events = s.cad.events ∧ c.syncEn = s.cad.syncEn ∧ c.interval = s.cad.interval ∧ c.beatTs = s.cad.beatTs ∧ c.encDiv = s.cad.encDiv ∧ c.srcDev = s.cad.srcDev := by
  subst hc
  unfold writeCadCtrl
  dsimp only
  have hsame : (holdExt s).cad.en = s.cad.en := rfl
  rw [hsame]
  cases hbit : nbit v.toNat 0 <;> cases hen : s.cad.en <;> simp [cadEnable, cadDisable, holdExt, hen]

/-- Enabled, cadence starts at the whole beats loaded, or at 0 (R210). -/
theorem writeCadCtrl_enables {s : State} {v : W32} (hen : s.cad.en = false) (hbit : nbit v.toNat 0 = true) (c : Cad) (hc : c = (writeCadCtrl s v).cad) :
    c.period = 0 ∧ c.realBeats = 0 ∧ c.lost = false ∧ c.beats = if s.cad.loaded then s.cad.beats else 0 := by
  subst hc
  unfold writeCadCtrl
  dsimp only
  rw [if_pos (by rw [hbit]; simp [holdExt, hen])]
  exact ⟨rfl, rfl, rfl, rfl⟩

/-- A disabled cadence that stays disabled keeps external time. -/
theorem writeCadCtrl_rests {s : State} {v : W32} (hen : s.cad.en = false) (hbit : nbit v.toNat 0 = false) (c : Cad) (hc : c = (writeCadCtrl s v).cad) :
    c.beats = s.cad.beats ∧ c.frac = s.cad.frac := by
  subst hc
  unfold writeCadCtrl
  dsimp only
  rw [if_neg (by rw [hbit]; simp), if_neg (by simp [holdExt, hen])]
  exact ⟨rfl, rfl⟩

/-! ### LOAD_BEAT and CADENCE_SET (R412, R689) -/

section
variable {s : State} {p : PartId} {k : Packet} (hright : hasRight s p.val 1 = true)
include hright

theorem loadBeat_disabled (hstarts : Starts s p 0x0501 k) (hform : formCheck k 6 6 [] = none) (hen : s.cad.en = false) :
    exec (.loadBeat p) s = .next (kept s (reply { takeHand s p.val with cad.beats := BitVec.ofNat 48 (par k 0 6), cad.loaded := true, cad.frac := 0, cad.extFloor := 0 }
      p.val k 0 0 0xFFFFFFFF 0x80)) := by
  refine ends_kept ((ringCmdR_of_starts _ hright hstarts hform).trans (.trans (if_neg (by simp [hen])) ?_))
  exact congrArg (reply _ p.val k 0 0 0xFFFFFFFF ·) (if_pos (by simp [hen]))

theorem loadBeat_enabled (hstarts : Starts s p 0x0501 k) (hform : formCheck k 6 6 [] = none) (hen : s.cad.en = true) :
    exec (.loadBeat p) s = .next (kept s (reply (takeHand s p.val) p.val k 0x0100 0 0xFFFFFFFF (cadState s))) :=
  ends_kept ((ringCmdR_of_starts _ hright hstarts hform).trans (if_pos hen))

/-- The fields from EDGE up that CADENCE_SET writes: its own with EXPERT, those that CAD_CTRL holds without. -/
def cadenceFields (s : State) (k : Packet) : Nat := if pktExpert k then par k 4 4 else (cadCtrl s.cad).toNat

/-- The state whose CAD_CTRL CADENCE_SET writes: with EXPERT, the encoder's divider and the source device are those of the packet. -/
def cadenceSource (s : State) (k : Packet) : State :=
  if pktExpert k then { s with cad.encDiv := BitVec.ofNat 16 (par k 8 2), cad.srcDev := BitVec.ofNat 10 (par k 10 2) } else s

theorem cadenceSet_next (hstarts : Starts s p 0x0502 k) (hform : formCheck k 2 12 [(2, 2)] = none) (hen : par k 0 1 ≤ 1) (hsrc : par k 1 1 ≤ 2)
    (hexpert : pktExpert k = true → par k 4 4 < 2 ^ 13 ∧ par k 10 2 < 1024 ∧ nbits (par k 4 4) 6 4 ≤ 4 ∧ 2 ≤ nbits (par k 4 4) 11 8) :
    ∃ state, exec (.cadenceSet p) s = .next (kept s (reply (writeCadCtrl (cadenceSource (takeHand s p.val) k) (ctrlWord (cadenceFields s k) (par k 0 1) (par k 1 1))) p.val k 0 0 0xFFFFFFFF state)) := by
  refine ⟨_, ends_kept ((ringCmdR_of_starts _ hright hstarts hform).trans (checked_of_good _ ?_ ?_))⟩
  · cases hx : pktExpert k with
    | false => simp [firstBad]; omega
    | true =>
      obtain ⟨hv, hdev, -, -⟩ := hexpert hx
      simp [firstBad]; omega
  · cases hx : pktExpert k with
    | false => rfl
    | true =>
      obtain ⟨-, -, havg, hloss⟩ := hexpert hx
      simp [firstBad]; omega

end

/-- The state whose CAD_CTRL is written differs from the one before in two settings. -/
theorem cadenceSource_frame (s : State) (k : Packet) : ∃ div dev, cadenceSource s k = { s with cad.encDiv := div, cad.srcDev := dev } ∧
    (pktExpert k = false → div = s.cad.encDiv ∧ dev = s.cad.srcDev) ∧ (pktExpert k = true → div = BitVec.ofNat 16 (par k 8 2) ∧ dev = BitVec.ofNat 10 (par k 10 2)) := by
  unfold cadenceSource
  cases pktExpert k with
  | false => exact ⟨_, _, rfl, fun _ => ⟨rfl, rfl⟩, nofun⟩
  | true => exact ⟨_, _, rfl, nofun, fun _ => ⟨rfl, rfl⟩⟩

/-- What a reply and a write of CAD_CTRL leave of the state beside cadence. -/
theorem besideCad_written (s : State) (v : W32) (p : Nat) (k : Packet) (status : W16) (detail obj : W32) (state : Byte) :
    besideReply { reply (writeCadCtrl s v) p k status detail obj state with cad := {} } = besideReply { s with cad := {} } := by
  have hreply := congrArg (fun u : State => ({ u with cad := {} } : State)) (besideReply_reply (writeCadCtrl s v) p k status detail obj state)
  obtain ⟨cad, hwrite⟩ := writeCadCtrl_frame s v
  exact hreply.trans (by rw [hwrite]; rfl)

/-- The settings after a cadence set: those of its word, the others as they were. -/
theorem cadenceSet_settings {s : State} {k : Packet} (hen : par k 0 1 ≤ 1) (hsrc : par k 1 1 ≤ 2)
    (hexpert : pktExpert k = true → par k 4 4 < 2 ^ 13 ∧ nbits (par k 4 4) 6 4 ≤ 4 ∧ 2 ≤ nbits (par k 4 4) 11 8) (c : Cad)
    (hc : c = (writeCadCtrl (cadenceSource s k) (ctrlWord (cadenceFields s k) (par k 0 1) (par k 1 1))).cad) :
    c.en = decide (par k 0 1 = 1) ∧ c.src = BitVec.ofNat 2 (par k 1 1) ∧ c.events = s.cad.events ∧ c.syncEn = s.cad.syncEn ∧ c.interval = s.cad.interval ∧ c.beatTs = s.cad.beatTs ∧
      (pktExpert k = false → c.edge = s.cad.edge ∧ c.avg = s.cad.avg ∧ c.lossAct = s.cad.lossAct ∧ c.lossBeats = s.cad.lossBeats ∧ c.encDir = s.cad.encDir ∧
        c.encDiv = s.cad.encDiv ∧ c.srcDev = s.cad.srcDev) ∧
      (pktExpert k = true → c.encDiv = BitVec.ofNat 16 (par k 8 2) ∧ c.srcDev = BitVec.ofNat 10 (par k 10 2) ∧ c.edge = nbit (par k 4 4) 3 ∧ c.avg = BitVec.ofNat 3 (nbits (par k 4 4) 6 4) ∧
        c.lossAct = nbit (par k 4 4) 7 ∧ c.lossBeats = BitVec.ofNat 4 (nbits (par k 4 4) 11 8) ∧ c.encDir = nbit (par k 4 4) 12) := by
  obtain ⟨hlt, hedge, havg, hact, hloss, hdir⟩ := cadCtrl_fields s.cad
  have hv : cadenceFields s k < 2 ^ 13 := by
    unfold cadenceFields
    split
    · next hx => exact (hexpert hx).1
    · exact hlt
  obtain ⟨hen', hsrc', hdiv⟩ := ctrlWord_fields hv hen hsrc
  obtain ⟨div, dev, hsource, hbasic, hextra⟩ := cadenceSource_frame s k
  obtain ⟨cen, csrc, cedge, cavg, cact, closs, cdir, cevents, csync, cinterval, cbeat, cdiv, cdev⟩ := writeCadCtrl_settings _ _ c hc
  rw [hsource] at cevents csync cinterval cbeat cdiv cdev csrc cavg closs
  rw [nbit_eq_of_div hdiv (by decide)] at cedge cact cdir
  rw [nbits_eq_of_div hdiv (by decide)] at cavg closs
  rw [hsrc', if_neg (by omega)] at csrc
  refine ⟨cen.trans hen', csrc, cevents, csync, cinterval, cbeat, fun hx => ?_, fun hx => ?_⟩
  · have hfields : cadenceFields s k = (cadCtrl s.cad).toNat := if_neg (by simp [hx])
    rw [hfields] at cedge cact cdir cavg closs
    rw [havg, BitVec.ofNat_toNat, BitVec.setWidth_eq] at cavg
    rw [hloss, BitVec.ofNat_toNat, BitVec.setWidth_eq] at closs
    exact ⟨cedge.trans hedge, cavg.trans (ite_self _), cact.trans hact, closs.trans (ite_self _), cdir.trans hdir, cdiv.trans (hbasic hx).1, cdev.trans (hbasic hx).2⟩
  · have hfields : cadenceFields s k = par k 4 4 := if_pos hx
    obtain ⟨-, hlow, hhigh⟩ := hexpert hx
    rw [hfields] at cedge cact cdir cavg closs
    exact ⟨cdiv.trans (hextra hx).1, cdev.trans (hextra hx).2, cedge, cavg.trans (if_neg (by omega)), cact, closs.trans (if_neg (by omega)), cdir⟩

/-- Settles O22: the beats loaded, and the fields of the one word that a cadence set writes. -/
theorem cadenceCommands : Obligations.CadenceCommands := by
  intro s p k hright
  refine ⟨fun hstarts hform => ⟨loadBeat_disabled hright hstarts hform, loadBeat_enabled hright hstarts hform⟩, fun hstarts hform hen hsrc hexpert => ?_⟩
  obtain ⟨state, hexec⟩ := cadenceSet_next hright hstarts hform hen hsrc hexpert
  generalize hv : ctrlWord (cadenceFields s k) (par k 0 1) (par k 1 1) = v at hexec
  generalize hc : (writeCadCtrl (cadenceSource (takeHand s p.val) k) v).cad = c
  obtain ⟨cen, csrc, cevents, csync, cinterval, cbeat, cbasic, cexpert⟩ :=
    cadenceSet_settings (s := takeHand s p.val) hen hsrc (fun hx => ⟨(hexpert hx).1, (hexpert hx).2.2⟩) c (by rw [← hc, ← hv]; rfl)
  have hbit : nbit v.toNat 0 = decide (par k 0 1 = 1) := (writeCadCtrl_settings _ v c hc.symm).1.symm.trans cen
  obtain ⟨div, dev, hsource, -⟩ := cadenceSource_frame (takeHand s p.val) k
  have hrest := besideCad_written (cadenceSource (takeHand s p.val) k) v p.val k 0 0 0xFFFFFFFF state
  have hcad := (cad_reply (writeCadCtrl (cadenceSource (takeHand s p.val) k) v) p.val k 0 0 0xFFFFFFFF state).trans hc
  refine ⟨_, hexec, ?_⟩
  generalize reply _ _ _ _ _ _ _ = t at hrest hcad
  rw [hsource] at hrest hc
  rw [show (kept s t).cad = c from hcad]
  refine ⟨cen, csrc, cevents, csync, cinterval, cbeat, (congrArg State.ts hrest :), (congrArg State.streams hrest :), (congrArg State.graphs hrest :), (congrArg State.cores hrest :),
    (congrArg State.fab hrest :), (congrArg State.spr hrest :), cbasic, cexpert, fun hoff hon => ?_, fun hoff hon => ?_⟩
  · exact writeCadCtrl_enables (s := { takeHand s p.val with cad.encDiv := div, cad.srcDev := dev }) hoff (hbit.trans (by simp [hon])) c hc.symm
  · exact writeCadCtrl_rests (s := { takeHand s p.val with cad.encDiv := div, cad.srcDev := dev }) hoff (hbit.trans (by simp [hon])) c hc.symm

end Sys2Proof.Machine
end

section
/-! The command interface family (09_command_interface.md): the checks of session and rights that every ring command shares. -/

namespace Sys2Proof.Machine

/-! ### A packet that is taken (R388, R396, R400, R430) -/

section
variable {s : State} {p : PartId} {op : Nat} {k : Packet}

theorem pktOp_of_startable {p : Nat} (h : startable s p op = some k) : pktOp k = op := by
  unfold startable at h
  split at h
  · obtain ⟨⟨hop, -⟩, hk⟩ := Option.ite_none_right_eq_some.mp h
    cases hk
    exact hop
  · cases h

/-- A packet that starts in an attached session runs what follows the look at the session. -/
theorem ringTake_of_starts (body : State → Packet → State) (hstarts : Starts s p op k) : ringTake s p.val op body = body (takeHand s p.val) k := by
  obtain ⟨hstart, hsession⟩ := hstarts
  have hserved : sessionRefuse s p.val k = none := by simp [sessionRefuse, hsession]
  simp only [ringTake, hstart, hserved]

theorem ringTake_of_refused {status : W16} {state : Byte} (body : State → Packet → State) (hstart : startable s p.val op = some k)
    (hrefuse : sessionRefuse s p.val k = some (status, state)) : ringTake s p.val op body = reply (takeHand s p.val) p.val k status 0 0xFFFFFFFF state := by
  simp only [ringTake, hstart, hrefuse, noObj]

theorem sessionRefuse_none (hop : pktOp k ≠ 0x0101) (hsession : (s.part p.val).session = .none) : sessionRefuse s p.val k = some (0x0100, 0x10) := by
  rw [sessionRefuse, if_neg hop, hsession]
  rfl

theorem sessionRefuse_detached (hop : pktOp k ≠ 0x0101) (hsession : (s.part p.val).session = .detached) : sessionRefuse s p.val k = some (0x0301, 0x12) := by
  rw [sessionRefuse, if_neg hop, hsession]
  rfl

/-- A command whose right the partition lacks is refused with the right's number before its form is looked at. -/
theorem ringCmdR_of_noRight {right basic expert : Nat} {gaps : List (Nat × Nat)} (body : State → Packet → State) (hstarts : Starts s p op k) (hright : hasRight s p.val right = false) :
    ringCmdR s p.val op right basic expert gaps body = refuseRight (takeHand s p.val) p.val k right :=
  (ringTake_of_starts _ hstarts).trans (if_neg (by rw [hasRight_takeHand, hright]; exact Bool.false_ne_true))

end

/-! ### Which packets a command takes -/

/-- The packet `k` is the turn of this command, and no probe that runs holds it back (R377, R582): PROBE, and the three commands of port control, look at that first. -/
def OwnTurn (s : State) (p : PartId) (k : Packet) (i : Instr) : Prop :=
  (i = .probe p → s.rel.probe = none) ∧ (i = .portWrite p → par k 1 1 ≠ 1 ∧ par k 1 1 ≠ 2) ∧ (i = .portRetrain p → par k 1 1 = 1) ∧ (i = .clearFixedIdConflict p → par k 1 1 = 2)

/-- The command takes its packet from the ring before anything else. -/
def Takes (s : State) (p : PartId) (i : Instr) (op : Nat) : Prop := ∃ body, exec i s = ends s (ringTake s p.val op body)

/-- The command takes its packet and looks at a right before the packet's form. -/
def TakesWithRight (s : State) (p : PartId) (i : Instr) (op right : Nat) : Prop := ∃ basic expert gaps body, exec i s = ends s (ringCmdR s p.val op right basic expert gaps body)

theorem TakesWithRight.takes {s : State} {p : PartId} {i : Instr} {op right : Nat} (h : TakesWithRight s p i op right) : Takes s p i op := by
  obtain ⟨_, _, _, _, hexec⟩ := h
  exact ⟨_, hexec⟩

section
variable {s : State} {p : PartId} {k : Packet}

theorem probe_takes (hnone : s.rel.probe = none) : TakesWithRight s p (.probe p) 0x0A01 5 := ⟨_, _, _, _, congrArg (ends s) (if_neg (by simp [hnone]))⟩

theorem portControl_takes {mine : Nat → Bool} (body : State → Packet → State) (hstart : startable s p.val 0x0808 = some k) (hmine : mine (par k 1 1) = true) :
    ∃ basic expert gaps body', portControl s p.val mine body = ringCmdR s p.val 0x0808 3 basic expert gaps body' := by
  unfold portControl
  rw [hstart]
  exact ⟨_, _, _, _, if_pos hmine⟩

theorem portWrite_takes (hstart : startable s p.val 0x0808 = some k) (hop : par k 1 1 ≠ 1 ∧ par k 1 1 ≠ 2) : TakesWithRight s p (.portWrite p) 0x0808 3 := by
  obtain ⟨_, _, _, _, h⟩ := portControl_takes (mine := fun op => op != 1 && op != 2) _ hstart (by simp [hop])
  exact ⟨_, _, _, _, congrArg (ends s) h⟩

theorem portRetrain_takes (hstart : startable s p.val 0x0808 = some k) (hop : par k 1 1 = 1) : TakesWithRight s p (.portRetrain p) 0x0808 3 := by
  obtain ⟨_, _, _, _, h⟩ := portControl_takes (mine := fun op => op == 1) _ hstart (by simp [hop])
  exact ⟨_, _, _, _, congrArg (ends s) h⟩

theorem clearFixedIdConflict_takes (hstart : startable s p.val 0x0808 = some k) (hop : par k 1 1 = 2) : TakesWithRight s p (.clearFixedIdConflict p) 0x0808 3 := by
  obtain ⟨_, _, _, _, h⟩ := portControl_takes (mine := fun op => op == 2) _ hstart (by simp [hop])
  exact ⟨_, _, _, _, congrArg (ends s) h⟩

end

/-- Every command of the ring takes its packet first; that is its definition, but for the four that look at their turn. -/
theorem takes_of_ringCommands (s : State) (p : PartId) (k : Packet) (ok : Bool) (runs : List ProbeDiff) :
    ∀ e ∈ ringCommands p ok runs, OwnTurn s p k e.1 → startable s p.val e.2 = some k → Takes s p e.1 e.2 := by
  unfold ringCommands
  simp only [List.forall_mem_cons]
  repeat refine ⟨fun _ _ => ⟨_, rfl⟩, ?_⟩
  refine ⟨fun ⟨_, hturn, _⟩ hstart => (portWrite_takes hstart (hturn rfl)).takes, fun ⟨_, _, hturn, _⟩ hstart => (portRetrain_takes hstart (hturn rfl)).takes,
    fun ⟨_, _, _, hturn⟩ hstart => (clearFixedIdConflict_takes hstart (hturn rfl)).takes, ?_⟩
  repeat refine ⟨fun _ _ => ⟨_, rfl⟩, ?_⟩
  refine ⟨fun ⟨hturn, _⟩ _ => (probe_takes (hturn rfl)).takes, ?_⟩
  repeat refine ⟨fun _ _ => ⟨_, rfl⟩, ?_⟩
  exact List.forall_mem_nil _

/-- Every command of the second list takes its packet with its right. -/
theorem takes_of_rightCommands (s : State) (p : PartId) (k : Packet) (ok : Bool) (runs : List ProbeDiff) :
    ∀ e ∈ rightCommands p ok runs, OwnTurn s p k e.1 → startable s p.val e.2.1 = some k → TakesWithRight s p e.1 e.2.1 e.2.2 := by
  unfold rightCommands
  simp only [List.forall_mem_cons]
  repeat refine ⟨fun _ _ => ⟨_, _, _, _, rfl⟩, ?_⟩
  refine ⟨fun ⟨_, hturn, _⟩ hstart => portWrite_takes hstart (hturn rfl), fun ⟨_, _, hturn, _⟩ hstart => portRetrain_takes hstart (hturn rfl),
    fun ⟨_, _, _, hturn⟩ hstart => clearFixedIdConflict_takes hstart (hturn rfl), ?_⟩
  repeat refine ⟨fun _ _ => ⟨_, _, _, _, rfl⟩, ?_⟩
  refine ⟨fun ⟨hturn, _⟩ _ => probe_takes (hturn rfl), ?_⟩
  repeat refine ⟨fun _ _ => ⟨_, _, _, _, rfl⟩, ?_⟩
  exact List.forall_mem_nil _

/-- No opcode of the list is attach's. -/
theorem ringCommands_ne_attach (p : PartId) (ok : Bool) (runs : List ProbeDiff) : ∀ e ∈ ringCommands p ok runs, e.2 ≠ 0x0101 := fun e he hattach => by
  have hops : ((ringCommands p ok runs).map (·.2)).contains 0x0101 = false := rfl
  rw [← hattach, List.contains_iff_mem.mpr (List.mem_map_of_mem he)] at hops
  exact Bool.noConfusion hops

end Sys2Proof.Machine
end

section
/-! The command interface family (09_command_interface.md): sessions, rights, and the log and trace rings. -/

namespace Sys2Proof.Machine

section
variable {s : State} {p : PartId} {k : Packet}

/-! ### What is refused before a packet's form is looked at (R400, R430) -/

theorem ringTake_of_noSession {op : Nat} (body : State → Packet → State) (hop : op ≠ 0x0101) (hstart : startable s p.val op = some k) (hsession : (s.part p.val).session = .none) :
    ringTake s p.val op body = reply (takeHand s p.val) p.val k 0x0100 0 0xFFFFFFFF 0x10 :=
  ringTake_of_refused body hstart (sessionRefuse_none ((pktOp_of_startable hstart).trans_ne hop) hsession)

theorem ringTake_of_detached {op : Nat} (body : State → Packet → State) (hop : op ≠ 0x0101) (hstart : startable s p.val op = some k) (hsession : (s.part p.val).session = .detached) :
    ringTake s p.val op body = reply (takeHand s p.val) p.val k 0x0301 0 0xFFFFFFFF 0x12 :=
  ringTake_of_refused body hstart (sessionRefuse_detached ((pktOp_of_startable hstart).trans_ne hop) hsession)

theorem exec_of_taken {i : Instr} {op : Nat} {t : State} (htakes : Takes s p i op) (h : ∀ body, ringTake s p.val op body = t) : exec i s = .next (kept s t) := by
  obtain ⟨body, hexec⟩ := htakes
  rw [hexec, h]
  rfl

theorem exec_of_noRight {i : Instr} {op right : Nat} (htakes : TakesWithRight s p i op right) (hstarts : Starts s p op k) (hright : hasRight s p.val right = false) :
    exec i s = .next (kept s (reply (takeHand s p.val) p.val k 0x0101 (BitVec.ofNat 32 right) 0xFFFFFFFF 0)) := by
  obtain ⟨_, _, _, body, hexec⟩ := htakes
  exact hexec.trans (ends_kept (ringCmdR_of_noRight body hstarts hright))

theorem noRight_takeHand {r : Nat} (hright : hasRight s p.val r = false) : (!hasRight (takeHand s p.val) p.val r) = true := by rw [hasRight_takeHand, hright, Bool.not_false]

/-- A partition resets another one only with right 0 (R449). -/
theorem partitionResetCmd_noRight (hstarts : Starts s p 0x0204 k) (hother : par k 0 1 ≠ p.val) (hright : hasRight s p.val 0 = false) :
    exec (.partitionResetCmd p) s = .next (kept s (reply (takeHand s p.val) p.val k 0x0101 0 0xFFFFFFFF 0)) :=
  ends_kept ((ringTake_of_starts _ hstarts).trans (if_pos ⟨hother, noRight_takeHand hright⟩))

/-- The global ring is set only with right 7 (R420). -/
theorem logSet_noRight (hstarts : Starts s p 0x0D01 k) (hglobal : par k 9 1 = 1) (hright : hasRight s p.val 7 = false) :
    exec (.logSet p) s = .next (kept s (reply (takeHand s p.val) p.val k 0x0101 7 0xFFFFFFFF 0)) :=
  ends_kept ((ringTake_of_starts _ hstarts).trans (if_pos ⟨hglobal, noRight_takeHand hright⟩))

/-- A stream command looks at the right of its port before its form, and names the stream (R413). -/
theorem strCmd_noRight {op basic : Nat} {gaps : List (Nat × Nat)} {fmt rng : Packet → List (Bool × Nat)} (body : State → Packet → Nat → State) (hstarts : Starts s p op k)
    (hport : par k 0 1 < 4) (hright : hasRight s p.val (16 + par k 0 1) = false) :
    strCmd s p.val op basic gaps fmt rng body =
      reply (takeHand s p.val) p.val k 0x0101 (BitVec.ofNat 32 (16 + par k 0 1)) (if par k 1 1 < 6 then BitVec.ofNat 32 (6 * par k 0 1 + par k 1 1) else 0xFFFFFFFF) 0 := by
  refine ((ringTake_of_starts _ hstarts).trans (if_pos ⟨hport, noRight_takeHand hright⟩)).trans ?_
  simp only [strReply, hport, true_and]
  rfl

theorem streamCommand_noRight {i : Instr} {op : Nat} (hmem : (i, op) ∈ [(Instr.streamSetUp p, 0x0601), (.streamRelease p, 0x0602), (.streamBind p, 0x0603)]) (hstarts : Starts s p op k)
    (hport : par k 0 1 < 4) (hright : hasRight s p.val (16 + par k 0 1) = false) :
    exec i s = .next (kept s (reply (takeHand s p.val) p.val k 0x0101 (BitVec.ofNat 32 (16 + par k 0 1))
      (if par k 1 1 < 6 then BitVec.ofNat 32 (6 * par k 0 1 + par k 1 1) else 0xFFFFFFFF) 0)) := by
  simp only [List.mem_cons, Prod.mk.injEq, List.not_mem_nil, or_false] at hmem
  obtain ⟨rfl, rfl⟩ | ⟨rfl, rfl⟩ | ⟨rfl, rfl⟩ := hmem
  · exact ends_kept (strCmd_noRight _ hstarts hport hright)
  · exact ends_kept (strCmd_noRight _ hstarts hport hright)
  · exact ends_kept (strCmd_noRight _ hstarts hport hright)

/-! ### Attach and detach (R401, R404, R405) -/

/-- An attach that resumes nothing keeps the lost count, and its reply gives it. -/
theorem attachNow_fresh (s : State) (p : Nat) (k : Packet) :
    attachNow s p k false = reply { s.modPart p (fun q => { q with
        session := .attached, minor := 0, token := BitVec.ofNat 64 (par k 8 8), cqVector := BitVec.ofNat 8 (par k 2 1)
        logVector := BitVec.ofNat 8 (par k 3 1), hbTs := s.ts, attachWait := none }) with spr.everAttached := true }
      p k 0 (BitVec.ofNat 32 (0x200 + min (s.part p).cqLost.toNat 32767 * 131072)) 0xFFFFFFFF 0x11 := by
  simp only [attachNow, Nat.min_zero, b2n, Bool.false_eq_true, if_false, false_and, Nat.zero_mul, Nat.zero_add, Nat.add_zero]
  rfl

theorem attachBody_none (hsession : (s.part p.val).session = .none) (hforce : pktExpert k = true → par k 16 1 < 2) (hversion : par k 0 1 = 2)
    (htoken : BitVec.ofNat 64 (par k 8 8) ≠ 0) (hrings : ringsGood s p.val = true) : attachBody p.val s k = attachNow s p.val k false := by
  have hbasic : ¬(pktExpert k && decide (2 ≤ par k 16 1)) = true := by
    rw [Bool.and_eq_true, decide_eq_true_eq]
    exact fun ⟨hexpert, hbad⟩ => absurd (hforce hexpert) (Nat.not_lt.mpr hbad)
  unfold attachBody
  dsimp only
  rw [if_neg hbasic, if_neg (not_not_intro hversion), if_neg htoken, hrings, hsession]
  exact if_neg Bool.false_ne_true

theorem attach_next (hstart : startable s p.val 0x0101 = some k) (hsession : (s.part p.val).session = .none) (hform : formCheck k 16 17 [(4, 4)] = none)
    (hforce : pktExpert k = true → par k 16 1 < 2) (hversion : par k 0 1 = 2) (htoken : BitVec.ofNat 64 (par k 8 8) ≠ 0) (hrings : ringsGood (takeHand s p.val) p.val = true) :
    exec (.attach p) s = .next (kept s (reply { (takeHand s p.val).modPart p.val (fun q => { q with
        session := .attached, minor := 0, token := BitVec.ofNat 64 (par k 8 8), cqVector := BitVec.ofNat 8 (par k 2 1)
        logVector := BitVec.ofNat 8 (par k 3 1), hbTs := s.ts, attachWait := none }) with spr.everAttached := true }
      p.val k 0 (BitVec.ofNat 32 (0x200 + min (s.part p.val).cqLost.toNat 32767 * 131072)) 0xFFFFFFFF 0x11)) := by
  have htaken : (takeHand s p.val).part p.val = { s.part p.val with inHand := (s.part p.val).inHand.drop 1 } := part_modPart_same ..
  have hserved : sessionRefuse s p.val k = none := if_pos (pktOp_of_startable hstart)
  have hbody : ringCmd s p.val 0x0101 16 17 [(4, 4)] (attachBody p.val) = attachBody p.val (takeHand s p.val) k := by
    simp only [ringCmd, ringTake, hstart, hserved, formed, hform]
  have hnone : ((takeHand s p.val).part p.val).session = .none := (congrArg Part.session htaken).trans hsession
  refine ends_kept (hbody.trans ((attachBody_none hnone hforce hversion htoken hrings).trans ((attachNow_fresh ..).trans ?_)))
  rw [htaken]
  rfl

theorem besideReply_endSession (s : State) (p : Nat) : besideReply (endSession s p) = besideReply s := besideReply_partNote ..

/-- The session's end leaves no version and no attach that waits. -/
theorem part_endSession (s : State) (p : Nat) : unnoted ((endSession s p).part p) = unnoted { s.part p with session := .none, minor := 0, attachWait := none } := by
  have hnote : unnoted ((endSession s p).part p) = unnoted ((s.modPart p (fun q => { q with session := .none, minor := 0, attachWait := none })).part p) :=
    congrArg Prod.fst (besideNotes_partNote _ p 4)
  rw [hnote, part_modPart_same]

theorem session_endSession (s : State) (p : Nat) : ((endSession s p).part p).session = .none ∧ ((endSession s p).part p).minor = 0 ∧ ((endSession s p).part p).attachWait = none :=
  ⟨(congrArg Part.session (part_endSession s p) :), (congrArg Part.minor (part_endSession s p) :), (congrArg Part.attachWait (part_endSession s p) :)⟩

theorem detach_next (hstarts : Starts s p 0x0102 k) (hform : formCheck k 0 0 [] = none) (hstopped : startedGraphs s p.val = []) :
    exec (.detach p) s = .next (kept s (endSession (reply (takeHand s p.val) p.val k 0 0 0xFFFFFFFF 0x10) p.val)) := by
  have hstopped' : startedGraphs (takeHand s p.val) p.val = [] := hstopped
  refine ends_kept ((ringCmd_of_starts _ hstarts hform).trans ?_)
  simp only [hstopped']
  rfl

theorem detach_ends (hstarts : Starts s p 0x0102 k) (hform : formCheck k 0 0 [] = none) (hstopped : startedGraphs s p.val = []) :
    ∃ t, exec (.detach p) s = .next t ∧ t = kept s (endSession (reply (takeHand s p.val) p.val k 0 0 0xFFFFFFFF 0x10) p.val) ∧
      (t.part p.val).session = .none ∧ (t.part p.val).minor = 0 ∧ (t.part p.val).attachWait = none ∧
      t.streams = s.streams ∧ t.graphs = s.graphs ∧ t.cores = s.cores ∧ t.cad = s.cad ∧ t.spr = s.spr := by
  obtain ⟨hsession, hminor, hwait⟩ := session_endSession (reply (takeHand s p.val) p.val k 0 0 0xFFFFFFFF 0x10) p.val
  have hrest : besideReply (endSession (reply (takeHand s p.val) p.val k 0 0 0xFFFFFFFF 0x10) p.val) = besideReply s :=
    (besideReply_endSession ..).trans (besideReply_reply ..)
  have hnext := detach_next hstarts hform hstopped
  generalize endSession (reply (takeHand s p.val) p.val k 0 0 0xFFFFFFFF 0x10) p.val = u at *
  exact ⟨_, hnext, rfl, hsession, hminor, hwait,
    (congrArg State.streams hrest :), (congrArg State.graphs hrest :), (congrArg State.cores hrest :), (congrArg State.cad hrest :), (congrArg State.spr hrest :)⟩

/-! ### Log and trace rings (R420, R425, R427) -/

/-- A ring of 2^6 to 2^16 entries at a mapped address passes its tests. -/
theorem ringRng_good {a z : Nat} (hmin : 6 ≤ par k z 1) (hmax : par k z 1 ≤ 16) (hend : parAddr k a + 32 * 2 ^ par k z 1 ≤ 2 ^ 48)
    (hmapped : ringMapped s p.val (parAddr k a) (32 * 2 ^ par k z 1) = true) : firstBad (ringRng s p.val k a z) = none := by
  have hsize : decide (par k z 1 < 6 ∨ 16 < par k z 1) = false := decide_eq_false (by omega)
  have hfits : decide (2 ^ 48 < parAddr k a + 32 * 2 ^ par k z 1) = false := decide_eq_false (by omega)
  unfold ringRng
  dsimp only
  rw [Nat.min_eq_left hmax, hmapped, hsize, hfits]
  rfl

theorem ringMapped_takeHand (s : State) (p addr len : Nat) : ringMapped (takeHand s p) p addr len = ringMapped s p addr len := rfl

/-- A log ring whose fields pass their tests takes its place. -/
theorem logSet_good (hstarts : Starts s p 0x0D01 k) (hform : formCheck k 10 10 [] = none) (haddr : addrOk k 0 = true) (hmin : 6 ≤ par k 8 1) (hmax : par k 8 1 ≤ 16)
    (hend : parAddr k 0 + 32 * 2 ^ par k 8 1 ≤ 2 ^ 48) (hmapped : ringMapped s p.val (parAddr k 0) (32 * 2 ^ par k 8 1) = true) (hwhich : par k 9 1 ≤ 1)
    (hright : ¬(par k 9 1 = 1 ∧ (!hasRight (takeHand s p.val) p.val 7) = true)) :
    exec (.logSet p) s = .next (kept s (if par k 9 1 = 0
      then replyDone ((takeHand s p.val).modPart p.val (fun q => { q with logAddr := parAddr k 0, logSize := par k 8 1, logWr := 0 })) p.val k
      else replyDone ({ takeHand s p.val with rel.glogOwner := some p.val, rel.glogAddr := parAddr k 0, rel.glogSize := par k 8 1 }.modPart p.val
        (fun q => { q with glogWr := 0 })) p.val k)) := by
  have hfmt : firstBad [(!addrOk k 0, 0), (decide (1 < par k 9 1), 9)] = none := by
    rw [haddr, decide_eq_false (Nat.not_lt.mpr hwhich)]
    rfl
  refine ends_kept ((ringTake_of_starts _ hstarts).trans ((if_neg hright).trans ?_))
  simp only [formed, hform]
  exact checked_of_good _ hfmt (ringRng_good hmin hmax hend hmapped)

theorem traceSet_next (hstarts : Starts s p 0x0D02 k) (hright : hasRight s p.val 8 = true) (hform : formCheck k 41 41 [] = none) (haddr : addrOk k 32 = true) (hmin : 6 ≤ par k 40 1)
    (hmax : par k 40 1 ≤ 16) (hend : parAddr k 32 + 32 * 2 ^ par k 40 1 ≤ 2 ^ 48) (hmapped : ringMapped s p.val (parAddr k 32) (32 * 2 ^ par k 40 1) = true) :
    exec (.traceSet p) s = .next (kept s (reply ((takeHand s p.val).modPart p.val (fun q => { q with
      trcEnable := parBytes k 0 32, trcAddr := parAddr k 32, trcSize := par k 40 1, trcWr := 0 })) p.val k 0 0 0xFFFFFFFF 0)) := by
  have hfmt : firstBad [(!addrOk k 32, 32)] = none := by
    rw [haddr]
    rfl
  exact ends_kept ((ringCmdR_of_starts _ hright hstarts hform).trans (checked_of_good _ hfmt (ringRng_good hmin hmax hend hmapped)))

end

/-- Settles O15: the checks that every command of the ring shares, and the four commands of sessions and log rings. -/
theorem sessionCommands : Obligations.SessionCommands := by
  refine ⟨?_, ⟨?_, fun s p k => ⟨partitionResetCmd_noRight, logSet_noRight, fun i op hmem => streamCommand_noRight hmem⟩⟩, ⟨fun s p k => attach_next, fun s p k => detach_ends⟩, ?_⟩
  · intro s p k i op ok runs hmem hprobe hwrite hretrain hclear hstart
    have htakes := takes_of_ringCommands s p k ok runs _ hmem ⟨hprobe, hwrite, hretrain, hclear⟩ hstart
    have hop := ringCommands_ne_attach p ok runs _ hmem
    exact ⟨fun hsession => exec_of_taken htakes fun body => ringTake_of_noSession body hop hstart hsession,
      fun hsession => exec_of_taken htakes fun body => ringTake_of_detached body hop hstart hsession⟩
  · intro s p k i op right ok runs hmem hprobe hwrite hretrain hclear hstarts
    exact exec_of_noRight (takes_of_rightCommands s p k ok runs _ hmem ⟨hprobe, hwrite, hretrain, hclear⟩ hstarts.1) hstarts
  · refine fun s p k => ⟨fun hstarts hform haddr hmin hmax hend hmapped => ⟨fun hpart => ?_, fun hglobal hright => ?_⟩, fun hstarts hright => traceSet_next hstarts hright⟩
    · have hnone : ¬(par k 9 1 = 1 ∧ (!hasRight (takeHand s p.val) p.val 7) = true) := by simp [hpart]
      rw [logSet_good hstarts hform haddr hmin hmax hend hmapped (by omega) hnone, if_pos hpart]
      rfl
    · have hhas : ¬(par k 9 1 = 1 ∧ (!hasRight (takeHand s p.val) p.val 7) = true) := by simp [hasRight_takeHand, hright]
      rw [logSet_good hstarts hform haddr hmin hmax hend hmapped (by omega) hhas, if_neg (by omega)]
      rfl

end Sys2Proof.Machine
end

section
/-! The command interface family (09_command_interface.md): packet intake and completions. -/

namespace Sys2Proof.Machine

/-! ### Packet intake (R386, R387, R396, R444, R445) -/

/-- What intake makes of its partition's record: the head advances, the next ring is next in turn, the packet is open, and the partition's virtual time moves on. -/
def takenIn (r : Nat) (g : Ring) (k : Packet) (q : Part) : Part :=
  { q with
    rings := tset q.rings r { g with head := g.head + 1 }, nextRing := BitVec.ofNat 2 (r + 1), accepted := q.accepted + 1
    openPkts := q.openPkts ++ [(k.number, pktFence k)], btVirt := q.btVirt + 1000 / max 1 q.weight.toNat }

/-- The packet that intake copies from a ring's head, with the list that it names. -/
def packetAtHead (s : State) (p r : Nat) (g : Ring) : Packet :=
  copyList s p { bytes := devRead s p (g.baseHi.toNat * 2 ^ 32 + g.baseLo.toNat + (g.head.toNat % 2 ^ g.size.toNat) * 512) 512
                 ring := BitVec.ofNat 2 r, number := (s.part p).accepted, ext := BitVec.ofNat 64 (extTime s) }

/-- The checks that a packet meets at its acceptance: all of them when it is the oldest in hand and may start, its header's alone otherwise. -/
def refusalAtIntake (s : State) (p : Nat) (oldest : Bool) (k : Packet) : Option (W16 × W32 × Byte) :=
  if oldest && mayStart s p k then firstChecks s p k else (headerBad k).map (fun off => (stFormat, detPkt off, 0))

theorem refusalAtIntake_of_badHeader {s : State} {p off : Nat} {oldest : Bool} {k : Packet} (hbad : headerBad k = some off) :
    refusalAtIntake s p oldest k = some (stFormat, detPkt off, 0) := by
  unfold refusalAtIntake firstChecks
  rw [hbad]
  exact ite_self _

theorem refusalAtIntake_none {s : State} {p : Nat} {oldest : Bool} {k : Packet} (hgood : headerBad k = none) (hchecks : oldest = false ∨ firstChecks s p k = none) :
    refusalAtIntake s p oldest k = none := by
  unfold refusalAtIntake
  rw [hgood]
  obtain rfl | hfirst := hchecks
  · rfl
  · rw [hfirst]
    exact ite_self _

/-- Intake leaves the session and the rights, which the checks look at. -/
theorem firstChecks_takenIn (s : State) (p r : Nat) (g : Ring) (k : Packet) : firstChecks (s.modPart p (takenIn r g k)) p k = firstChecks s p k := by
  have hpart : (s.modPart p (takenIn r g k)).part p = takenIn r g k (s.part p) := part_modPart_same ..
  unfold firstChecks sessionRefuse hasRight
  rw [hpart]
  rfl

section
variable {s : State} {p : PartId}

theorem packetAccept_away (haway : intakeFirst s ≠ some p.val) : packetAccept s p.val = s := by
  unfold packetAccept
  split
  · next hfirst _ => exact absurd (eq_of_beq hfirst) haway
  · rfl

section
variable {r : Nat} {g : Ring} {k : Packet} (hfirst : intakeFirst s = some p.val) (hring : nextRingOf (s.part p.val) = some r) (hg : g = tget {} (s.part p.val).rings r)
  (hk : k = packetAtHead s p.val r g)
include hfirst hring hg hk

theorem packetAccept_refused {status : W16} {detail : W32} {state : Byte}
    (hrefusal : refusalAtIntake (s.modPart p.val (takenIn r g k)) p.val ((s.part p.val).inHand == []) k = some (status, detail, state)) :
    packetAccept s p.val = reply (s.modPart p.val (takenIn r g k)) p.val k status detail 0xFFFFFFFF state := by
  subst hg hk
  unfold packetAccept
  rw [hfirst, hring, beq_self_eq_true]
  dsimp only
  split
  · next f hf =>
    cases hf.symm.trans hrefusal
    rfl
  · next hnone => exact absurd (hnone.symm.trans hrefusal) nofun

theorem packetAccept_taken (hrefusal : refusalAtIntake (s.modPart p.val (takenIn r g k)) p.val ((s.part p.val).inHand == []) k = none) :
    packetAccept s p.val = (s.modPart p.val (takenIn r g k)).modPart p.val (fun q => { q with inHand := q.inHand ++ [k] }) := by
  subst hg hk
  unfold packetAccept
  rw [hfirst, hring, beq_self_eq_true]
  dsimp only
  split
  · next f hf => exact absurd (hf.symm.trans hrefusal) nofun
  · rfl

end

/-- Two changes of one partition's record are one. -/
theorem modPart_modPart (s : State) (p : Nat) (f g : Part → Part) : (s.modPart p f).modPart p g = s.modPart p (fun q => g (f q)) := by
  simp only [State.modPart, tmod, tget_tset_same, tset_tset]

section
variable {r : Nat} {g : Ring} {k : Packet} (hfirst : intakeFirst s = some p.val) (hring : nextRingOf (s.part p.val) = some r) (hg : g = tget {} (s.part p.val).rings r)
  (hk : k = packetAtHead s p.val r g)
include hfirst hring hg hk

/-- A packet with a good header that is not the oldest in hand, or passes its checks, is in hand. -/
theorem packetAccept_next (hgood : headerBad k = none) (hchecks : (s.part p.val).inHand ≠ [] ∨ firstChecks s p.val k = none) :
    exec (.packetAccept p) s = .next (s.modPart p.val (fun q => { takenIn r g k q with inHand := q.inHand ++ [k] })) := by
  have hpasses : ((s.part p.val).inHand == []) = false ∨ firstChecks (s.modPart p.val (takenIn r g k)) p.val k = none :=
    hchecks.imp beq_eq_false_iff_ne.mpr (fun hnone => (firstChecks_takenIn ..).trans hnone)
  exact ends_of_eq ((packetAccept_taken hfirst hring hg hk (refusalAtIntake_none hgood hpasses)).trans (modPart_modPart ..)) rfl rfl

/-- A packet whose header fails is startedAndClosed as it is taken. -/
theorem packetAccept_badHeader {off : Nat} (hbad : headerBad k = some off) :
    exec (.packetAccept p) s = .next (kept s (reply (s.modPart p.val (takenIn r g k)) p.val k stFormat (detPkt off) 0xFFFFFFFF 0)) :=
  ends_kept (packetAccept_refused hfirst hring hg hk (refusalAtIntake_of_badHeader hbad))

end
end

/-! ### The completion of ECHO (R389, R390, R397, R408) -/

/-- The completion that a reply writes. -/
def replyEntry (k : Packet) (status : W16) (detail obj : W32) (state : Byte) : Completion :=
  { tag := pktTag k, status := status, opcode := BitVec.ofNat 16 (pktOp k), detail := detail, obj := obj, state := state, ring := k.ring, notify := pktNotify k }

/-- The record of a partition whose packet has started and is no longer open. -/
def startedAndClosed (k : Packet) (q : Part) : Part := { q with inHand := q.inHand.drop 1, openPkts := q.openPkts.filter (fun o => o.1 != k.number) }

section
variable (s : State) (p : PartId) (k : Packet) (status : W16) (detail obj : W32) (state : Byte)

theorem reply_takeHand : reply (takeHand s p.val) p.val k status detail obj state = complete (s.modPart p.val (startedAndClosed k)) p.val (replyEntry k status detail obj state) := by
  have hclosed : closePkt (takeHand s p.val) p.val k.number = s.modPart p.val (startedAndClosed k) := modPart_modPart ..
  unfold reply
  rw [hclosed]
  rfl

/-- The record of the partition that the reply is to, once the packet has started and its completion is in. -/
def repliedPart : Part := (reply (takeHand s p.val) p.val k status detail obj state).part p.val

theorem part_reply_takeHand : unnoted (repliedPart s p k status detail obj state) =
    unnoted (completed (replyEntry k status detail obj state) (startedAndClosed k (s.part p.val))) := by
  rw [repliedPart, reply_takeHand]
  refine (congrArg Prod.fst (besideNotes_complete ..) :).trans ?_
  simp only [besideNotes, part_modPart_same]

end

section
variable {s : State} {p : PartId} {k : Packet}

theorem echo_next (hstarts : Starts s p 0x0103 k) : exec (.echo p) s = .next (kept s (reply (takeHand s p.val) p.val k 0 (BitVec.ofNat 32 (pktLen k)) 0xFFFFFFFF 0)) :=
  ends_kept (ringTake_of_starts _ hstarts)

/-- The entry of an ECHO's completion. -/
theorem replyEntry_echo (hop : pktOp k = 0x0103) (detail : W32) :
    replyEntry k 0 detail 0xFFFFFFFF 0 = { tag := pktTag k, status := 0, opcode := 0x0103, detail := detail, obj := 0xFFFFFFFF, ring := k.ring, notify := pktNotify k } := by
  unfold replyEntry
  rw [hop]
  rfl

section
variable (status : W16) (detail obj : W32) (state : Byte)

/-- A reply leaves its packet neither in hand nor open. -/
theorem hand_reply_takeHand : (repliedPart s p k status detail obj state).inHand = (s.part p.val).inHand.drop 1 ∧
    (repliedPart s p k status detail obj state).openPkts = (s.part p.val).openPkts.filter (fun o => o.1 != k.number) := by
  have hpart := part_reply_takeHand s p k status detail obj state
  have hcompleted (c : Completion) (q : Part) : (completed c q).inHand = q.inHand ∧ (completed c q).openPkts = q.openPkts := by
    unfold completed
    split
    · exact ⟨rfl, rfl⟩
    · split <;> exact ⟨rfl, rfl⟩
  obtain ⟨hhand, hopen⟩ := hcompleted (replyEntry k status detail obj state) (startedAndClosed k (s.part p.val))
  exact ⟨(congrArg Part.inHand hpart :).trans hhand, (congrArg Part.openPkts hpart :).trans hopen⟩

/-- With room a reply's completion is written at the tail. -/
theorem cq_reply_of_room (hroom : (s.part p.val).held = [] ∧ cqRoom (s.part p.val) = true) :
    (repliedPart s p k status detail obj state).cqTail = (s.part p.val).cqTail + 1 ∧
      (repliedPart s p k status detail obj state).held = [] ∧
      (repliedPart s p k status detail obj state).cqLost = (s.part p.val).cqLost := by
  have hpart := part_reply_takeHand s p k status detail obj state
  rw [completed, if_pos (show (startedAndClosed k (s.part p.val)).held = [] ∧ cqRoom (startedAndClosed k (s.part p.val)) = true from hroom)] at hpart
  exact ⟨(congrArg Part.cqTail hpart :), (congrArg Part.held hpart :).trans hroom.1, (congrArg Part.cqLost hpart :)⟩

section
variable (hfull : ¬((s.part p.val).held = [] ∧ cqRoom (s.part p.val) = true)) (hattached : (s.part p.val).session = .attached)
include hfull hattached

/-- Without room a reply's completion is held while fewer than 64 are, with CQ_HELD. -/
theorem cq_reply_of_held (hlen : (s.part p.val).held.length < 64) :
    (repliedPart s p k status detail obj state).cqTail = (s.part p.val).cqTail ∧
      (repliedPart s p k status detail obj state).held = (s.part p.val).held ++ [replyEntry k status detail obj state] ∧
      (repliedPart s p k status detail obj state).events.flags.getLsbD 1 = true ∧
      (repliedPart s p k status detail obj state).cqLost = (s.part p.val).cqLost := by
  have hpart := part_reply_takeHand s p k status detail obj state
  have hclosed : (s.modPart p.val (startedAndClosed k)).part p.val = startedAndClosed k (s.part p.val) := part_modPart_same ..
  rw [completed, if_neg (show ¬((startedAndClosed k (s.part p.val)).held = [] ∧ cqRoom (startedAndClosed k (s.part p.val)) = true) from hfull),
    if_pos (show (startedAndClosed k (s.part p.val)).session = .attached ∧ (startedAndClosed k (s.part p.val)).held.length < 64 from ⟨hattached, hlen⟩)] at hpart
  refine ⟨(congrArg Part.cqTail hpart :), (congrArg Part.held hpart :), ?_, (congrArg Part.cqLost hpart :)⟩
  rw [repliedPart, reply_takeHand, complete_of_held _ (by rw [hclosed]; exact hfull) (by rw [hclosed]; exact hattached) (by rw [hclosed]; exact hlen), part_modPart_same]
  exact flag_raiseEv_same _ (by decide)

/-- Beyond 64 held ones it is counted lost, with CQ_LOST. -/
theorem cq_reply_of_lost (hlen : 64 ≤ (s.part p.val).held.length) :
    (repliedPart s p k status detail obj state).cqTail = (s.part p.val).cqTail ∧
      (repliedPart s p k status detail obj state).held = (s.part p.val).held ∧
      (repliedPart s p k status detail obj state).cqLost = satInc (s.part p.val).cqLost ∧
      (repliedPart s p k status detail obj state).events.flags.getLsbD 2 = true := by
  have hpart := part_reply_takeHand s p k status detail obj state
  have hclosed : (s.modPart p.val (startedAndClosed k)).part p.val = startedAndClosed k (s.part p.val) := part_modPart_same ..
  have hbeyond : ¬((startedAndClosed k (s.part p.val)).session = .attached ∧ (startedAndClosed k (s.part p.val)).held.length < 64) := fun h => absurd h.2 (Nat.not_lt.mpr hlen)
  rw [completed, if_neg (show ¬((startedAndClosed k (s.part p.val)).held = [] ∧ cqRoom (startedAndClosed k (s.part p.val)) = true) from hfull), if_neg hbeyond] at hpart
  refine ⟨(congrArg Part.cqTail hpart :), (congrArg Part.held hpart :), (congrArg Part.cqLost hpart :), ?_⟩
  rw [repliedPart, reply_takeHand, complete_of_lost _ (by rw [hclosed]; exact hfull) (by rw [hclosed]; exact hbeyond), part_modPart_same, hclosed]
  exact (congrArg (fun e : EventReg => e.flags.getLsbD 2) (if_pos hattached)).trans (flag_raiseEv_same _ (by decide))

end
end
end

/-- Settles O14: the three ways of intake, and the three ways of a completion, shown on ECHO. -/
theorem packetsAndCompletions : Obligations.PacketsAndCompletions := by
  refine ⟨⟨fun s p haway => ends_of_eq (packetAccept_away haway) rfl rfl, fun s p r g k hfirst hring hg hk => packetAccept_next hfirst hring hg hk, ?_⟩, ?_⟩
  · rintro s p r off g k _ hfirst hring hg hk hbad rfl
    exact packetAccept_badHeader hfirst hring hg hk hbad
  · intro s p k hstarts
    have hentry := replyEntry_echo (pktOp_of_startable hstarts.1) (BitVec.ofNat 32 (pktLen k))
    obtain ⟨hhand, hopen⟩ := hand_reply_takeHand (s := s) (p := p) (k := k) 0 (BitVec.ofNat 32 (pktLen k)) 0xFFFFFFFF 0
    refine ⟨echo_next hstarts, _, echo_next hstarts, hhand, hopen, fun hroom => cq_reply_of_room _ _ _ _ hroom, fun hfull => ?_⟩
    by_cases hlen : (s.part p.val).held.length < 64
    · obtain ⟨htail, hheld⟩ := cq_reply_of_held (k := k) 0 (BitVec.ofNat 32 (pktLen k)) 0xFFFFFFFF 0 hfull hstarts.2 hlen
      exact ⟨htail, fun _ => hentry ▸ hheld, fun hmany => absurd hlen (Nat.not_lt.mpr hmany)⟩
    · obtain ⟨htail, hheld⟩ := cq_reply_of_lost (k := k) 0 (BitVec.ofNat 32 (pktLen k)) 0xFFFFFFFF 0 hfull hstarts.2 (Nat.not_lt.mp hlen)
      exact ⟨htail, fun hfew => absurd hfew hlen, fun _ => hheld⟩

end Sys2Proof.Machine
end

section
/-! The command interface family (09_command_interface.md): a fence takes the checker away from a sample of another engine. -/

namespace Sys2Proof.Machine

/-- A FENCE of engine 0, in the basic form of R575. -/
def fencePacket : Packet := { bytes := [0x02, 0x0A, 0, 0, 0, 0, 0, 0, 4, 0], ring := 0, number := 0 }

/-- Core 0 is on; engine 1 holds a captured sample whose duplicate engine 0 is to run; partition 0 may fence, and its FENCE of engine 0 is the oldest in hand. -/
def sampleWaits : State :=
  { State.reset with
    parts := [(0, { state := .ready, session := .attached, rights := 0x20, inHand := [fencePacket] })]
    cores := [(0, { on := true, engines := [(1, { slot := { stage := .captured, checker := 0 } })] })]
    spr.pstate := .a }

theorem engine_of_cores {s t : State} (h : t.cores = s.cores) : t.engine = s.engine := by
  unfold State.engine
  rw [core_of_cores h]

theorem engine_kept (s t : State) : (kept s t).engine = t.engine := rfl

/-- A fence of one engine of several stops that engine; its announcement and its reply leave the cores. -/
theorem fence_engines {s : State} {p : PartId} {k : Packet} (hright : hasRight s p.val 5 = true) (hstarts : Starts s p 0x0A02 k) (hform : formCheck k 4 4 [(1, 1)] = none)
    (hkind : par k 0 1 = 0) (hunit : par k 2 2 < 8 * s.ncores) {i : Nat} (hfenced : (s.engine (par k 2 2 / 8) (par k 2 2 % 8)).state ≠ .fenced) (hi : i < 8)
    (hother : i ≠ par k 2 2 % 8) (hlive : (s.engine (par k 2 2 / 8) i).state ≠ .fenced) :
    ∃ t, exec (.fence p) s = .next t ∧ t.engine = (stopEngine (takeHand s p.val) (par k 2 2 / 8) (par k 2 2 % 8)).engine := by
  have hbody : fenceBody p.val (takeHand s p.val) k = reply (fenceEngine (takeHand s p.val) (par k 2 2 / 8) (par k 2 2 % 8)) p.val k stDone 0 noObj 0xD1 := by
    have hfmt : firstBad [(decide (1 < par k 0 1), 0)] = none := by
      rw [hkind]
      rfl
    have hrng : firstBad [(decide (unitCount (takeHand s p.val) (par k 0 1) ≤ par k 2 2), 2)] = none := by
      rw [hkind, decide_eq_false (p := unitCount (takeHand s p.val) 0 ≤ par k 2 2) (Nat.not_le.mpr hunit)]
      rfl
    have hunfenced : ¬unitFenced (takeHand s p.val) 0 (par k 2 2) = true := fun h => hfenced (eq_of_beq h)
    refine (checked_of_good _ hfmt hrng).trans ?_
    rw [hkind, if_neg hunfenced]
    rfl
  refine ⟨_, ends_kept ((ringCmdR_of_starts _ hright hstarts hform).trans hbody), ?_⟩
  rw [fenceEngine_of_other (s := takeHand s p.val) hfenced hi hother hlive, engine_kept]
  exact engine_of_cores ((cores_of_beyondReply (beyondReply_reply ..)).trans (cores_announceFence ..))

/-- The duplicate of engine 1 moves to engine 2, which follows in rotation (R570, R598). -/
theorem checker_stopEngine_sampleWaits : ((stopEngine (takeHand sampleWaits 0) 0 0).engine 0 1).slot.checker = 2 := by decide +kernel

/-- Refutes O30: a fence of one engine leaves the others but for their check slots; here the sample that engine 1 holds moves from the fenced checker, engine 0, to engine 2. -/
theorem not_powerAndReliabilityCommands : ¬ Obligations.PowerAndReliabilityCommands := by
  intro h
  obtain ⟨-, hreliability, -⟩ := h sampleWaits 0 fencePacket
  obtain ⟨-, hfence, -⟩ := hreliability (by decide +kernel)
  have hstarts : Starts sampleWaits 0 0x0A02 fencePacket := by decide +kernel
  obtain ⟨t, hnext, -, -, -, -, -, hothers, -⟩ := hfence 0 0 0 hstarts (by decide +kernel) (by decide +kernel) (by decide +kernel) (by decide +kernel) rfl rfl (by decide +kernel)
    ⟨2, by decide +kernel⟩
  obtain ⟨t', hnext', hengine⟩ := fence_engines (s := sampleWaits) (p := 0) (i := 2) (by decide +kernel) hstarts (by decide +kernel) (by decide +kernel) (by decide +kernel) (by decide +kernel) (by decide)
    (by decide +kernel) (by decide +kernel)
  obtain rfl : t = t' := Host.Outcome.next.inj (hnext.symm.trans hnext')
  have hkept : t.engine 0 1 = sampleWaits.engine 0 1 := hothers 1 (by decide)
  have hslot : (sampleWaits.engine 0 1).slot.checker = 2 := by
    rw [← hkept, hengine]
    exact checker_stopEngine_sampleWaits
  exact absurd hslot (by decide +kernel)

end Sys2Proof.Machine
end

section
/-! What frames, reports, entries of the Rind, replies and messages leave of Rennet: its own registers, one-time memory and what attestation holds. -/

namespace Sys2Proof.Machine

/-- Rennet's registers, one-time memory and attestation. -/
def vault (s : State) : Rennet × Otp × Attest := (s.rennet, s.otp, s.att)

theorem rennet_of_vault {s t : State} (h : vault t = vault s) : t.rennet = s.rennet := congrArg Prod.fst h
theorem otp_of_vault {s t : State} (h : vault t = vault s) : t.otp = s.otp := congrArg (·.2.1) h
theorem att_of_vault {s t : State} (h : vault t = vault s) : t.att = s.att := congrArg (·.2.2) h

theorem vault_of_beyondLinks {s t : State} (h : beyondLinks t = beyondLinks s) : vault t = vault s := (congrArg vault h :)
theorem vault_of_besideReply {s t : State} (h : besideReply t = besideReply s) : vault t = vault s := (congrArg vault h :)

@[simp] theorem vault_draw (s : State) : vault s.draw = vault s := rfl
@[simp] theorem vault_takeHand (s : State) (p : Nat) : vault (takeHand s p) = vault s := rfl
theorem vault_kept (s t : State) : vault (kept s t) = vault t := rfl

@[simp] theorem vault_devPut (s : State) (p addr : Nat) (bs : List Byte) : vault (devPut s p addr bs) = vault s := vault_of_besideReply (besideReply_devPut ..)

@[simp] theorem vault_reply (s : State) (p : Nat) (k : Packet) (status : W16) (detail obj : W32) (state : Byte) : vault (reply s p k status detail obj state) = vault s :=
  vault_of_besideReply (besideReply_reply ..)

@[simp] theorem vault_replyLater (s : State) (d : Pend) (status : W16) (detail obj : W32) (state : Byte) : vault (replyLater s d status detail obj state) = vault s :=
  vault_of_besideReply (besideReply_replyLater ..)

/-! ### Frames (R350) -/

@[simp] theorem vault_sendFrame (s : State) (fr : Frame) (from_ : Option Nat) : vault (sendFrame s fr from_) = vault s := vault_of_beyondLinks (beyondLinks_sendFrame ..)

theorem beyondLinks_sendSecure (s : State) (dst ptag code exchange : Nat) (m : List Byte) : beyondLinks (sendSecure s dst ptag code exchange m) = beyondLinks s :=
  view_foldl beyondLinks (fun _ _ => beyondLinks_sendFrame ..) _ _

theorem beyondLinks_sendSet (s : State) (dst : Nat) (m : SetMsg) : beyondLinks (sendSet s dst m) = beyondLinks s := beyondLinks_sendSecure ..

/-! ### Reports and the Rind (R586, R591 to R595) -/

theorem vault_rindQueue (s : State) (code : Nat) (pinned : Bool) (body : List Byte) : vault (rindQueue s code pinned body) = vault s := by
  have hrefill : vault (refill s) = vault s := by
    unfold refill
    dsimp only
    split <;> rfl
  unfold rindQueue
  dsimp only
  split
  · split
    · rfl
    · split <;> rfl
  · split <;> exact hrefill

theorem vault_issueReportBody (s : State) (r : ReportRec) (body : List Byte) : vault (issueReportBody s r body) = vault s := by
  unfold issueReportBody
  extract_lets code pin prev recent old seq toRind reps s1 r1 q1 s2 s3 s4 s5
  have h1 : vault s1 = vault s := by
    unfold s1
    split
    · exact vault_rindQueue ..
    · rfl
  have h4 : vault s4 = vault s := by
    unfold s4
    split
    · exact h1
    · exact (vault_sendFrame ..).trans h1
  have h5 : vault s5 = vault s := (vault_of_besideReply (besideReply_globalLog ..)).trans h4
  split
  · rfl
  · split
    · exact (vault_of_besideReply (besideReply_partLog ..)).trans h5
    · exact h5

theorem vault_sendReportBody (s : State) (r : ReportRec) (body : List Byte) : vault (sendReportBody s r body) = vault s := vault_issueReportBody ..
theorem vault_report (s : State) (code : Nat) (unit : W16) (ptag : Nat) : vault (report s code unit ptag) = vault s := vault_issueReportBody ..

theorem vault_of_openSegment {s t : State} {i : Nat} (h : openSegment s = some (t, i)) : vault t = vault s := by
  unfold openSegment at h
  dsimp only at h
  split at h
  · cases h
  · cases h
    rfl

theorem vault_of_roomSegment {s t : State} {i : Nat} (h : roomSegment s = some (t, i)) : vault t = vault s := by
  unfold roomSegment at h
  split at h
  · split at h
    · cases h
      rfl
    · exact vault_of_openSegment h
  · exact vault_of_openSegment h

theorem vault_closeGroup (s : State) (i : Nat) : vault (closeGroup s i) = vault s := by
  unfold closeGroup
  extract_lets es last prev no chain first ok keys g0 sign g s1 payload
  split
  · rfl
  · split
    · rfl
    · exact vault_sendFrame ..

theorem vault_of_appendEntry {s t : State} {e : RindEntry} (h : appendEntry s e = some t) : vault t = vault s := by
  unfold appendEntry at h
  split at h
  · cases h
  · next hroom =>
    cases h
    have hsame := vault_of_roomSegment hroom
    exact (vault_closeGroup ..).trans hsame

theorem vault_appendEntry_getD {s u : State} (e : RindEntry) (hu : vault u = vault s) : vault ((appendEntry s e).getD u) = vault s := by
  cases h : appendEntry s e with
  | none => exact hu
  | some t => exact vault_of_appendEntry h

theorem vault_eraseDoomed (s : State) : vault (eraseDoomed s) = vault s := by
  unfold eraseDoomed
  dsimp only
  split <;> rfl

theorem vault_compactOne (s : State) : vault (compactOne s) = vault s := by
  unfold compactOne
  split
  · rfl
  · exact (vault_appendEntry_getD _ rfl).trans (view_foldl vault (fun _ _ => vault_appendEntry_getD _ rfl) _ _)

theorem vault_rindStatus (s : State) : vault (rindStatus s) = vault s := rfl

theorem vault_rindWrite (s : State) : vault (rindWrite s) = vault s := by
  unfold rindWrite
  extract_lets s0
  have h0 : vault s0 = vault s := by
    unfold s0
    split
    · exact (vault_compactOne ..).trans (vault_eraseDoomed s)
    · exact vault_eraseDoomed s
  split
  · exact h0
  · extract_lets s1
    rw [vault_rindStatus]
    split
    · exact h0
    · exact (vault_appendEntry_getD (s := s1) (u := dropEntry s1) _ rfl).trans h0

theorem vault_rindFlush (s : State) : vault (rindFlush s) = vault s := by
  unfold rindFlush
  split
  · exact view_foldl vault (fun _ _ => vault_rindWrite _) _ _
  · rfl

/-! ### Messages (R423, R478) -/

theorem vault_mbxEvent (s : State) (m bit : Nat) : vault (mbxEvent s m bit) = vault s := by
  obtain ⟨parts, ports, h⟩ := mbxEvent_frame s m bit
  rw [h]
  rfl

theorem vault_mbxDeliver (s : State) (m : Nat) : vault (mbxDeliver s m) = vault s := by
  unfold mbxDeliver
  split
  · split
    · rfl
    · exact (vault_mbxEvent ..).trans (vault_mbxEvent ..)
  · rfl

theorem vault_mailReply (s : State) (m : Nat) (status : W16) (results : List W32) : vault (mailReply s m status results) = vault s := vault_mbxDeliver ..

/-- A message that Rennet is ready to serve is served, and answered unless its effect takes the message away. -/
theorem mailServe_of_serves {s : State} {m : MbxId} {code : Nat} (body : State → List W32 → State × W16 × List W32) (h : Serves s m code) :
    mailServe s m.val code body = if ((body (serving s) (mailWords s m)).1.mbx m.val).outFull = true
      then mailReply (body (serving s) (mailWords s m)).1 m.val (body (serving s) (mailWords s m)).2.1 (body (serving s) (mailWords s m)).2.2
      else (body (serving s) (mailWords s m)).1 := by
  obtain ⟨hfull, hserved, hserves, hcode⟩ := h
  unfold mailServe
  rw [if_pos (by rw [hfull, hserved, hserves, hcode, beq_self_eq_true]; rfl)]
  rfl

/-- A message whose effect leaves the mailboxes is answered. -/
theorem mailServe_answered {s t : State} {m : MbxId} {code : Nat} {status : W16} {results : List W32} {body : State → List W32 → State × W16 × List W32} (h : Serves s m code)
    (hbody : body (serving s) (mailWords s m) = (t, status, results)) (hmbxs : t.mbxs = s.mbxs) : mailServe s m.val code body = mailReply t m.val status results := by
  have hfull : (t.mbx m.val).outFull = true := by
    rw [State.mbx, hmbxs]
    exact h.1
  rw [mailServe_of_serves body h, hbody]
  exact if_pos hfull

/-- What the effect of a message makes of Rennet stands after its answer. -/
theorem vault_mailServe {s : State} {m : MbxId} {code : Nat} (body : State → List W32 → State × W16 × List W32) (h : Serves s m code) :
    vault (mailServe s m.val code body) = vault (body (serving s) (mailWords s m)).1 := by
  rw [mailServe_of_serves body h]
  split
  · exact vault_mailReply ..
  · rfl

/-! ### Random bits (R467, R468) -/

theorem drbgDraw_of_on {s : State} (n : Nat) (hfail : s.rennet.entropyFail = false) (hon : s.rennet.drbgOn = true) :
    drbgDraw s n = some (drbgCount s 1, padTo n (Config.drbg s.rennet.drbgN n)) := by
  unfold drbgDraw
  rw [hfail, hon]
  rfl

end Sys2Proof.Machine
end

section
/-! The command interface family (09_command_interface.md): evidence, SPDM by ring, bound sets and licences. -/

namespace Sys2Proof.Machine

/-! ### Evidence and SPDM (R418, R535, R536) -/

section
variable {s : State} {p : PartId} {k : Packet}

theorem evidence_next {out : Nat} {r : State × List Byte} (hstarts : Starts s p 0x0B02 k) (hform : formCheck k 44 45 [] = none) (hbasic : pktExpert k = false)
    (haddr : addrOk k 32 = true) (hout : out = parAddr k 32) (hr : r = evidenceToken (withAlias (takeHand s p.val)) p.val (parBytes k 0 32)) :
    exec (.evidence p) s = .next (kept s (if par k 40 4 < r.2.length then refuseRange (takeHand s p.val) p.val k 40
      else if anyBlock (takeHand s p.val) p.val out r.2.length .unmapped then refuseRange (takeHand s p.val) p.val k 32
      else reply (devPut r.1 p.val out r.2) p.val k 0 (BitVec.ofNat 32 r.2.length) 0xFFFFFFFF 0)) := by
  subst hout hr
  refine ends_kept ((ringCmd_of_starts _ hstarts hform).trans ?_)
  unfold evidenceBody
  simp only [hbasic, haddr, Bool.false_and, Bool.false_eq_true, if_false, List.append_nil]
  exact checked_of_good _ rfl rfl

theorem spdm_next {len out : Nat} {r : State × List Byte} (hstarts : Starts s p 0x0B01 k) (hform : formCheck k 24 24 [] = none) (hreq : addrOk k 0 = true) (hrsp : addrOk k 12 = true)
    (hlen : len = par k 8 4) (hmin : 1 ≤ len) (hmax : len ≤ 4096) (hmapped : anyBlock s p.val (parAddr k 0) len .unmapped = false)
    (hgood : anyBlock s p.val (parAddr k 0) len .poisoned = false) (hout : out = parAddr k 12)
    (hr : r = spdmMessage (takeHand s p.val) (.ring p) (devRead s p.val (parAddr k 0) len)) :
    exec (.spdm p) s = .next (kept s (if par k 20 4 < r.2.length then refuseRange (takeHand s p.val) p.val k 20
      else if anyBlock (takeHand s p.val) p.val out r.2.length .unmapped then refuseRange (takeHand s p.val) p.val k 12
      else reply (devPut r.1 p.val out r.2) p.val k 0 (BitVec.ofNat 32 r.2.length) 0xFFFFFFFF 0)) := by
  have hfmt : firstBad [(!addrOk k 0, 0), (!addrOk k 12, 12)] = none := by
    rw [hreq, hrsp]
    rfl
  have hrng : firstBad [(decide (len = 0 ∨ 4096 < len), 8)] = none := by
    rw [decide_eq_false (by omega)]
    rfl
  subst hlen hout hr
  refine ends_kept ((ringCmd_of_starts _ hstarts hform).trans ((checked_of_good _ hfmt hrng).trans ((withData_of_mapped (s := takeHand s p.val) _ hmapped hgood).trans ?_)))
  rw [devRead_takeHand]
  rfl

end

/-! ### Formation (R541 to R544) -/

theorem sortBy_ne_nil {α : Type} (lt : α → α → Bool) {l : List α} (h : l ≠ []) : sortBy lt l ≠ [] := by
  have hins (a : α) (r : List α) : insBy (fun x y => !lt y x) a r ≠ [] := by
    cases r with
    | nil => exact List.cons_ne_nil _ _
    | cons b r =>
      unfold insBy
      split <;> exact List.cons_ne_nil _ _
  cases l with
  | nil => exact absurd rfl h
  | cons a r =>
    rw [sortBy, List.foldl_reverse]
    exact hins a _

/-- A formation as it begins: its coordinator is the first member in the order of serial numbers, and every other member is a peer. -/
def formationBegun (s : State) (p : Nat) (k : Packet) (ms : List (Nat × BitVec 128)) (coord : Option Nat) (nonce : List Byte) : Formation :=
  { pend := pendOf p k, setId := setIdOf (ms.map (·.2)), peers := (ms.filter (fun m => m.1 != s.fab.id.toNat)).map (fun m => { dev := m.1, serial := m.2 })
    coord := coord, nonce := nonce, startTs := s.ts }

theorem peers_formationBegun (s : State) (p : Nat) (k : Packet) (ms : List (Nat × BitVec 128)) (coord : Option Nat) (nonce : List Byte) :
    (formationBegun s p k ms coord nonce).peers.map (·.dev) = (ms.map (·.1)).filter (· != s.fab.id.toNat) := by
  rw [List.filter_map]
  exact List.map_map

section
variable {s : State} {p : PartId} {k : Packet}

/-- The member with the lowest serial number draws its nonce and greets the others. -/
theorem beginForm_coordinator {m : Nat × BitVec 128} {ms : List (Nat × BitVec 128)} (hme : m.1 = s.fab.id.toNat) (hfail : s.rennet.entropyFail = false) (hon : s.rennet.drbgOn = true) :
    ∃ n, vault (beginForm s p.val k (m :: ms) (setIdOf ((m :: ms).map (·.2)))) =
      vault { drbgCount s 1 with att.forming := some (formationBegun s p.val k (m :: ms) none n) } := by
  refine ⟨padTo 32 (Config.drbg s.rennet.drbgN 32), ?_⟩
  unfold beginForm
  dsimp only
  rw [if_pos hme, if_pos hme, drbgDraw_of_on 32 hfail hon]
  exact view_foldl vault (fun _ _ => vault_of_beyondLinks (beyondLinks_sendSet ..)) _ _

/-- Every other member waits for its greeting. -/
theorem beginForm_member {m : Nat × BitVec 128} {ms : List (Nat × BitVec 128)} (hother : m.1 ≠ s.fab.id.toNat) (hhello : s.att.hello = none) :
    beginForm s p.val k (m :: ms) (setIdOf ((m :: ms).map (·.2))) =
      { s with att.forming := some (formationBegun s p.val k (m :: ms) (some m.1) []), att.hello := none } := by
  unfold beginForm
  simp only [if_neg hother, hhello]
  rfl

/-- With members that are known, different and include this device, in a life cycle that forms sets, SET_FORM begins the formation. -/
theorem setFormBody_begins {n : Nat} {l : List Byte} {devs : List Nat} {ms : List (Nat × BitVec 128)} (haddr : addrOk k 8 = true) (hn : n = par k 0 1) (hmin : 2 ≤ n) (hmax : n ≤ 64)
    (hlist : listOf s p.val k (2 * n) = .bytes l) (hdevs : devs = (List.range n).map (fun i => field l (2 * i) 2)) (hnodup : devs.Nodup)
    (hknown : ∀ d ∈ devs, (serialOf s d).isSome = true) (hme : devs.contains s.fab.id.toNat = true) (hclean : s.otp.degraded = false) (hdebug : debugOpen s = false)
    (hlc : s.otp.lc = 1 ∨ s.otp.lc = 2) (hforming : s.att.forming = none) (hroom : s.att.sets.length < 8)
    (hms : ms = sortBy (fun (a b : Nat × BitVec 128) => decide (a.2.toNat < b.2.toNat)) (devs.map (fun d => (d, (serialOf s d).getD 0)))) :
    setFormBody p.val s k = beginForm s p.val k ms (setIdOf (ms.map (·.2))) := by
  have hfmt : firstBad [(!addrOk k 8, 8)] = none := by
    rw [haddr]
    rfl
  have hrng : firstBad [(decide (n < 2 ∨ 64 < n), 0)] = none := by
    rw [decide_eq_false (by omega)]
    rfl
  have hlen : devs.length = n := by
    rw [hdevs, List.length_map, List.length_range]
  have hfound : (List.range n).find? (fun i => (serialOf s (devs.getD i 0)).isNone || (devs.take i).contains (devs.getD i 0)) = none := by
    refine List.find?_eq_none.mpr fun i hi => ?_
    have hi' : i < devs.length := hlen ▸ List.mem_range.mp hi
    have hget : devs.getD i 0 = devs[i] := (List.getElem_eq_getD 0).symm
    have hsome := hknown devs[i] (List.getElem_mem hi')
    have hnew : devs[i] ∉ devs.take i := by
      intro hmem
      obtain ⟨j, hj, hsame⟩ := List.mem_take_iff_getElem.mp hmem
      have hji : j = i := (hnodup.getElem_inj_iff).mp hsame
      omega
    rw [hget, Bool.or_eq_true, List.contains_iff_mem]
    rintro (hnone | hmem)
    · rw [Option.isNone_iff_eq_none.mp hnone] at hsome
      cases hsome
    · exact hnew hmem
  have hstate : ¬(s.otp.lc ≠ 1 ∧ s.otp.lc ≠ 2) := fun h => hlc.elim h.1 h.2
  have hplace : ¬8 ≤ s.att.sets.length := Nat.not_le.mpr hroom
  subst hn hdevs hms
  refine (checked_of_good _ hfmt hrng).trans ?_
  unfold withList
  simp only [hlist, hfound, hme, hclean, hdebug, hstate, hforming, hplace, Bool.not_true, Bool.false_eq_true, or_self, false_and, if_false, Option.isSome_none]

theorem setForm_next {n : Nat} {l : List Byte} {devs : List Nat} {ms : List (Nat × BitVec 128)} (hstarts : Starts s p 0x0C01 k) (hright : hasRight s p.val 6 = true)
    (hform : formCheck k 16 16 [(1, 7)] = none) (haddr : addrOk k 8 = true) (hn : n = par k 0 1) (hmin : 2 ≤ n) (hmax : n ≤ 64)
    (hlist : listOf s p.val k (2 * n) = .bytes l) (hdevs : devs = (List.range n).map (fun i => field l (2 * i) 2)) (hnodup : devs.Nodup)
    (hknown : ∀ d ∈ devs, (serialOf s d).isSome = true) (hme : devs.contains s.fab.id.toNat = true) (hclean : s.otp.degraded = false) (hdebug : debugOpen s = false)
    (hlc : s.otp.lc = 1 ∨ s.otp.lc = 2) (hforming : s.att.forming = none) (hhello : s.att.hello = none) (hroom : s.att.sets.length < 8)
    (hfail : s.rennet.entropyFail = false) (hon : s.rennet.drbgOn = true)
    (hms : ms = sortBy (fun (a b : Nat × BitVec 128) => decide (a.2.toNat < b.2.toNat)) (devs.map (fun d => (d, (serialOf s d).getD 0)))) :
    ∃ (t : State) (f : Formation), exec (.setForm p) s = .next t ∧ t.att.forming = some f ∧ f.setId = setIdOf (ms.map (·.2)) ∧ f.pend = pendOf p.val k ∧ f.startTs = s.ts ∧
      f.peers.map (·.dev) = (ms.map (·.1)).filter (· != s.fab.id.toNat) ∧ f.coord = (if (ms.map (·.1)).head? = some s.fab.id.toNat then none else (ms.map (·.1)).head?) ∧
      (f.coord = none → t.rennet.drbgN = s.rennet.drbgN + 1) ∧ t.att.sets = s.att.sets ∧ t.otp = s.otp := by
  have hbody : setFormBody p.val (takeHand s p.val) k = beginForm (takeHand s p.val) p.val k ms (setIdOf (ms.map (·.2))) :=
    setFormBody_begins (s := takeHand s p.val) haddr hn hmin hmax ((listOf_takeHand ..).trans hlist) hdevs hnodup hknown hme hclean hdebug hlc hforming hroom hms
  have hexec : exec (.setForm p) s = .next (kept s (beginForm (takeHand s p.val) p.val k ms (setIdOf (ms.map (·.2))))) :=
    ends_kept ((ringCmdR_of_starts _ hright hstarts hform).trans hbody)
  have hsome : ms ≠ [] := by
    rw [hms]
    refine sortBy_ne_nil _ ?_
    rintro hnil
    rw [List.map_eq_nil_iff.mp hnil] at hme
    cases hme
  obtain ⟨m, rest, rfl⟩ := List.exists_cons_of_ne_nil hsome
  by_cases hfirst : m.1 = s.fab.id.toNat
  · obtain ⟨nonce, hvault⟩ := beginForm_coordinator (s := takeHand s p.val) (p := p) (k := k) (ms := rest) hfirst hfail hon
    have hatt := att_of_vault hvault
    have hotp := otp_of_vault hvault
    have hhead : ((m :: rest).map (·.1)).head? = some s.fab.id.toNat := congrArg some hfirst
    exact ⟨_, formationBegun (takeHand s p.val) p.val k (m :: rest) none nonce, hexec, congrArg (·.forming) hatt, rfl, rfl, rfl, peers_formationBegun (takeHand s p.val) ..,
      (if_pos hhead).symm, fun _ => congrArg (·.drbgN) (rennet_of_vault hvault), congrArg (·.sets) hatt, hotp⟩
  · have hhead : ((m :: rest).map (·.1)).head? ≠ some s.fab.id.toNat := fun h => hfirst (Option.some.inj h)
    rw [beginForm_member (s := takeHand s p.val) hfirst hhello] at hexec
    exact ⟨_, formationBegun (takeHand s p.val) p.val k (m :: rest) (some m.1) [], hexec, rfl, rfl, rfl, rfl, peers_formationBegun (takeHand s p.val) ..,
      (if_neg hhead).symm, nofun, rfl, rfl⟩

end

/-- What a formation that fails leaves: the other members are told, and the rest is the reply (R544). -/
theorem failForm_of_forming {s : State} {f : Formation} (status : W16) (detail : Nat) (hforming : s.att.forming = some f) :
    ∃ u, beyondLinks u = beyondLinks s ∧ failForm s status detail = replyLater { u with att.forming := none } f.pend status (BitVec.ofNat 32 detail) noObj 0xC0 := by
  have htold : beyondLinks (if f.coord.isNone then f.peers.foldl (fun t m => sendSet t m.dev (.abort f.setId f.epoch)) s else s) = beyondLinks s := by
    split
    · exact view_foldl beyondLinks (fun _ _ => beyondLinks_sendSet ..) _ _
    · rfl
  refine ⟨_, htold, ?_⟩
  unfold failForm
  rw [hforming]

section
variable {s : State} {f : Formation} {now : W64}

theorem setFormTimeout_late (hforming : s.att.forming = some f) (hnow : s.ts.toNat ≤ now.toNat) (hlate : f.startTs.toNat + 10000000000 ≤ now.toNat) :
    ∃ t, exec (.setFormTimeout now) s = .next t ∧ t.att.forming = none ∧ t.att.sets = s.att.sets ∧ t.ts = now ∧ t.rennet = s.rennet := by
  obtain ⟨u, hu, hfails⟩ := failForm_of_forming (s := { s with ts := now }) stTimeout (missingPeer f) hforming
  have hvault : vault (replyLater { u with att.forming := none } f.pend stTimeout (BitVec.ofNat 32 (missingPeer f)) noObj 0xC0) = vault { s with att.forming := none } :=
    (vault_replyLater ..).trans (congrArg (fun x : State => vault { x with att.forming := none }) hu :)
  have hts : (replyLater { u with att.forming := none } f.pend stTimeout (BitVec.ofNat 32 (missingPeer f)) noObj 0xC0).ts = now :=
    (congrArg State.ts (besideReply_replyLater { u with att.forming := none } ..) :).trans (congrArg State.ts hu)
  have hexec : exec (.setFormTimeout now) s = .next (kept s (replyLater { u with att.forming := none } f.pend stTimeout (BitVec.ofNat 32 (missingPeer f)) noObj 0xC0)) := by
    change execSetFormTimeout now s = _
    refine endsAt_of_eq hnow ?_
    simp only [hforming, hlate, if_true]
    exact hfails
  have hatt := att_of_vault hvault
  exact ⟨_, hexec, congrArg (·.forming) hatt, congrArg (·.sets) hatt, hts, rennet_of_vault (s := { s with att.forming := none }) hvault⟩

theorem setFormTimeout_early (hforming : s.att.forming = some f) (hnow : s.ts.toNat ≤ now.toNat) (hearly : now.toNat < f.startTs.toNat + 10000000000) :
    exec (.setFormTimeout now) s = .next { s with ts := now } := by
  change execSetFormTimeout now s = _
  refine endsAt_of_eq (t := { s with ts := now }) hnow ?_
  simp only [hforming, Nat.not_le.mpr hearly, if_false]

end

/-! ### Licences (R545, R546, R550) -/

/-- The last steps of LICENCE_LOAD: the ciphertext's check, and the key unwrapped into the slot (R546). -/
def licenceUnwrapped (s : State) (p : Nat) (k : Packet) (slot i : Nat) (b : List Byte) : State :=
  if Config.kemOk (slice b 576 1568) = true then
    match licKey s i b with
    | none => reply s p k stIntegrity 0 noObj 0
    | some key => reply { s with att.lics := tset s.att.lics slot (licOfBytes p b key) } p k stDone 0 (BitVec.ofNat 32 slot) 0xC3
  else reply s p k stInput 0 noObj 0

section
variable {s : State} {p : PartId} {k : Packet}

theorem licenceLoadBody_unwraps {b : List Byte} {slot i : Nat} {g : BoundSet} (haddr : addrOk k 0 = true) (hlen : par k 8 4 = 2208)
    (hmapped : anyBlock s p.val (parAddr k 0) 2208 .unmapped = false) (hgood : anyBlock s p.val (parAddr k 0) 2208 .poisoned = false) (hb : b = devRead s p.val (parAddr k 0) 2208)
    (hformat : licFormat b = none) (hmine : nbit (field b 72 8) p.val = true) (hsvn : field b 28 1 ≤ s.rennet.svnImage.toNat)
    (hfree : firstFree ((s.att.lics.filter (fun e => e.2.valid)).map (·.1)) 255 = some slot) (hlc : s.otp.lc = 1 ∨ s.otp.lc = 2) (hflags : field b 6 2 = 0)
    (hset : heldSet s (slice b 32 32) = some (i, g)) (hepoch : g.epoch.toNat = field b 64 4)
    (hnew : s.att.lics.all (fun e => !(e.2.valid && e.2.part == p.val && e.2.modelId == slice b 8 16 && e.2.version.toNat == field b 24 4)) = true) (hidle : s.rennet.xfer = none)
    (hpoint : pointValid (slice b 472 97) = true) : licenceLoadBody p.val s k = licenceUnwrapped s p.val k slot i b := by
  have hsvn' : ¬s.rennet.svnImage.toNat < field b 28 1 := Nat.not_lt.mpr hsvn
  have hstate : ¬(s.otp.lc ≠ 1 ∧ s.otp.lc ≠ 2) := fun h => hlc.elim h.1 h.2
  have hsame : s.att.lics.any (fun e => e.2.valid && e.2.part == p.val && e.2.modelId == slice b 8 16 && e.2.version.toNat == field b 24 4) = false := by
    rw [List.any_eq_not_all_not, hnew, Bool.not_true]
  have hnone (j : Nat) : nbit 0 j = false := Nat.zero_testBit j
  unfold licenceLoadBody licenceUnwrapped
  rw [if_neg (by rw [haddr]; decide), if_neg (not_not_intro hlen), withData_of_mapped _ hmapped hgood, ← hb]
  simp only [hformat, hmine, hsvn', hfree, hstate, hflags, hnone, hset, hepoch, hsame, hidle, hpoint, Bool.not_true, Bool.false_eq_true, false_and, if_false, ne_eq, not_true_eq_false]
  cases Config.kemOk (slice b 576 1568) <;> rfl

theorem licenceDrop_foreign (hright : hasRight s p.val 6 = true) (hstarts : Starts s p 0x0C03 k) (hform : formCheck k 0 0 [] = none)
    (hforeign : (s.lic (pktObj k).toNat).valid = false ∨ (s.lic (pktObj k).toNat).part ≠ p.val) :
    exec (.licenceDrop p) s = .next (kept s (reply (takeHand s p.val) p.val k 0x0100 0 (pktObj k) 0xC0)) := by
  have hrefused : (!(s.lic (pktObj k).toNat).valid) = true ∨ (s.lic (pktObj k).toNat).part ≠ p.val := hforeign.imp_left fun h => by rw [h, Bool.not_false]
  exact ends_kept ((ringCmdR_of_starts _ hright hstarts hform).trans (if_pos hrefused))

end

/-- Settles O36: each command with the fields that its clause names. -/
theorem attestationCommands : Obligations.AttestationCommands := by
  refine fun s p k => ⟨fun out r => evidence_next, fun len out r => spdm_next, fun n l devs ms => setForm_next, fun f now hforming hnow =>
    ⟨setFormTimeout_late hforming hnow, setFormTimeout_early hforming hnow⟩, fun hright => ⟨?_, licenceDrop_foreign hright⟩⟩
  intro b slot i g hstarts hform haddr hlen hmapped hgood hb hformat hmine hsvn hfree hlc hflags hset hepoch hnew hidle hpoint
  have hb' : b = devRead (takeHand s p.val) p.val (parAddr k 0) 2208 := hb.trans (devRead_takeHand ..).symm
  exact ends_kept ((ringCmdR_of_starts _ hright hstarts hform).trans
    (licenceLoadBody_unwraps (s := takeHand s p.val) haddr hlen hmapped hgood hb' hformat hmine hsvn hfree hlc hflags hset hepoch hnew hidle hpoint))

end Sys2Proof.Machine
end

section
/-! One-time memory: bits burnt, regions sensed again and FINALISE (R504 to R512), and what signed requests leave of Rennet (R517 to R527). -/

namespace Sys2Proof.Machine

/-! ### Bits of a memory -/

theorem wf_setBits {m : Mem} (bits : List (Nat × Nat)) (hwf : Mem.wf 0 m = true) : Mem.wf 0 (setBits m bits) = true := by
  unfold setBits
  induction bits generalizing m with
  | nil => exact hwf
  | cons b bits ih => exact ih (mset_wf 0 m _ _ hwf)

/-- Programming sets the bits listed and clears none. -/
theorem getLsbD_setBits {m : Mem} {bits : List (Nat × Nat)} {a i : Nat} (hwf : Mem.wf 0 m = true) (hi : i < 8) (h : (a, i) ∈ bits ∨ (mget 0 m a).getLsbD i = true) :
    (mget 0 (setBits m bits) a).getLsbD i = true := by
  unfold setBits
  induction bits generalizing m with
  | nil => exact h.resolve_left (List.not_mem_nil)
  | cons b bits ih =>
    refine ih (mset_wf 0 m _ _ hwf) ?_
    by_cases hb : a = b.1
    · subst hb
      rw [mget_mset_same _ _ _ _ hwf, BitVec.getLsbD_or, Bool.or_eq_true]
      obtain hmem | hset := h
      · obtain hsame | hrest := List.mem_cons.mp hmem
        · rw [← hsame, BitVec.getLsbD_ofNat, Nat.testBit_two_pow_self]
          exact .inr (.inr (by simpa using hi))
        · exact .inl hrest
      · exact .inr (.inl hset)
    · rw [mget_mset_other _ _ _ hb]
      refine h.imp_left fun hmem => (List.mem_cons.mp hmem).resolve_left fun hsame => ?_
      exact hb (congrArg Prod.fst hsame)

/-- A bit of a value is programmed or was set. -/
theorem mem_missingBits_or_set {m : Mem} {addr j i : Nat} {value : List Byte} {v : Byte} (hv : value[j]? = some v) (hi : i < 8) (hset : v.getLsbD i = true) :
    (addr + j, i) ∈ missingBits m addr value ∨ (mget 0 m (addr + j)).getLsbD i = true := by
  by_cases hold : (mget 0 m (addr + j)).getLsbD i = true
  · exact .inr hold
  · refine .inl (List.mem_flatMap.mpr ⟨(v, j), List.mk_mem_zipIdx_iff_getElem?.mpr hv, List.mem_filterMap.mpr ⟨i, List.mem_range.mpr hi, ?_⟩⟩)
    exact if_pos (by rw [hset, Bool.eq_false_of_not_eq_true hold]; rfl)

/-- A region whose lock word reads as 1 throughout is locked (R504). -/
theorem fuseLocked_of_ones {m : Mem} {n : Nat} (h : ∀ j, j < 4 → ∀ i, i < 8 → (mget 0 m (0x35E0 + 4 * n + j)).getLsbD i = true) : fuseLocked m n = true := by
  have hbyte (j : Nat) (hj : j < 4) : mget 0 m (0x35E0 + 4 * n + j) = 0xFF := by
    refine BitVec.eq_of_getLsbD_eq fun i hi => ?_
    rw [h j hj i hi]
    have hones : ∀ i : Fin 8, (0xFF : Byte).getLsbD i.val = true := by decide
    exact (hones ⟨i, hi⟩).symm
  have hread : mread 0 m (0x35E0 + 4 * n) 4 = List.replicate 4 0xFF := by
    refine (List.map_congr_left fun j hj => hbyte j (List.mem_range.mp hj)).trans ?_
    rfl
  unfold fuseLocked
  rw [hread]
  decide

/-! ### Bits sensed (R507) -/

theorem mget_filter (d : Byte) (f : Nat → Bool) (m : Mem) (a : Nat) : mget d (m.filter (fun c => f c.1)) a = if f a = true then mget d m a else d := by
  induction m with
  | nil => exact (ite_self d).symm
  | cons c m ih =>
    obtain ⟨k, v⟩ := c
    by_cases hk : k = a
    · subst hk
      cases hf : f k <;> simp [hf, mget, ih]
    · cases hf : f k <;> simp [hf, mget, hk, ih]

/-- Cells put into a memory at their own addresses are read there; elsewhere it reads as it did. -/
theorem mget_puts {d : Byte} {cells : Mem} {g : Nat → Nat} (hg : ∀ c ∈ cells, g c.1 = c.1) {n : Nat} (hwf : Mem.wfFrom d n cells = true) (m : Mem) (a : Nat) :
    mget d (cells.foldl (fun m c => mput m (g c.1) c.2) m) a = if mget d cells a = d then mget d m a else mget d cells a := by
  induction cells generalizing m n with
  | nil => exact (if_pos rfl).symm
  | cons c cells ih =>
    obtain ⟨k, v⟩ := c
    simp only [Mem.wfFrom, Bool.and_eq_true, decide_eq_true_eq] at hwf
    obtain ⟨⟨-, hv⟩, hrest⟩ := hwf
    rw [List.foldl_cons, ih (fun c hc => hg c (List.mem_cons_of_mem _ hc)) hrest, hg _ List.mem_cons_self]
    by_cases hk : k = a
    · subst hk
      rw [mget_below d cells (Nat.lt_succ_self k) hrest, if_pos rfl, mget_mput_same, mget, if_pos rfl, if_neg hv]
    · rw [mget_mput_other d m v (Ne.symm hk), mget, if_neg hk]

/-- A range copied to its own addresses reads as in its source. -/
theorem mget_mcopy_same {src : Mem} (dst : Mem) {a lo n : Nat} (hwf : Mem.wf 0 src = true) (hlo : lo ≤ a) (hhi : a < lo + n) : mget 0 (mcopy src lo dst lo n) a = mget 0 src a := by
  have hin : mget 0 (src.filter (fun c => decide (lo ≤ c.1 ∧ c.1 < lo + n))) a = mget 0 src a :=
    (mget_filter 0 (fun k => decide (lo ≤ k ∧ k < lo + n)) src a).trans (if_pos (decide_eq_true ⟨hlo, hhi⟩))
  have hcells : Mem.wfFrom 0 0 (src.filter (fun c => decide (lo ≤ c.1 ∧ c.1 < lo + n))) = true := wfFrom_filter 0 _ src hwf fun _ _ _ => Nat.zero_le _
  have hplace : ∀ c ∈ src.filter (fun c => decide (lo ≤ c.1 ∧ c.1 < lo + n)), c.1 - lo + lo = c.1 := fun c hc => by
    have hrange := of_decide_eq_true (List.mem_filter.mp hc).2
    omega
  refine (mget_puts (g := fun k => k - lo + lo) hplace hcells _ a).trans ?_
  have hcleared : mget 0 (mclear dst lo (lo + n)) a = 0 := (mget_mclear ..).trans (if_pos ⟨hlo, hhi⟩)
  rw [hin, hcleared]
  split
  · next hdefault => exact hdefault.symm
  · rfl

theorem fuseLocked_mcopy {src : Mem} (dst : Mem) (n : Nat) (hwf : Mem.wf 0 src = true) : fuseLocked (mcopy src (0x35E0 + 4 * n) dst (0x35E0 + 4 * n) 4) n = fuseLocked src n := by
  have hread : mread 0 (mcopy src (0x35E0 + 4 * n) dst (0x35E0 + 4 * n) 4) (0x35E0 + 4 * n) 4 = mread 0 src (0x35E0 + 4 * n) 4 :=
    List.map_congr_left fun j hj => mget_mcopy_same dst hwf (Nat.le_add_right ..) (Nat.add_lt_add_left (List.mem_range.mp hj) _)
  unfold fuseLocked
  rw [hread]

/-! ### The lock fields (R528) -/

/-- The number whose bits below `k` are those of a test. -/
def bitSum (f : Nat → Bool) (k : Nat) : Nat := ((List.range k).map (fun n => b2n (f n) * 2 ^ n)).foldl (· + ·) 0

theorem bitSum_succ (f : Nat → Bool) (k : Nat) : bitSum f (k + 1) = 2 ^ k * b2n (f k) + bitSum f k := by
  unfold bitSum
  rw [List.range_succ, List.map_append, List.foldl_append, Nat.add_comm, Nat.mul_comm]
  rfl

theorem bitSum_lt (f : Nat → Bool) (k : Nat) : bitSum f k < 2 ^ k := by
  induction k with
  | zero => exact Nat.zero_lt_one
  | succ k ih =>
    rw [bitSum_succ, Nat.pow_succ]
    cases f k <;> simp only [b2n, Bool.false_eq_true, if_false, if_true] <;> omega

theorem testBit_bitSum (f : Nat → Bool) {k n : Nat} (hn : n < k) : (bitSum f k).testBit n = f n := by
  induction k with
  | zero => exact absurd hn (Nat.not_lt_zero n)
  | succ k ih =>
    rw [bitSum_succ, Nat.testBit_two_pow_mul_add _ (bitSum_lt f k)]
    by_cases hnk : n < k
    · rw [if_pos hnk, ih hnk]
    · obtain rfl : n = k := by omega
      rw [if_neg hnk, Nat.sub_self]
      cases f n <;> rfl

/-- A bit of LOCKED is the lock of its region in the shadows. -/
theorem locked_idLocks (s : State) {n : Nat} (hn : n < 9) : (idLocks s).otp.locked.getLsbD n = fuseLocked s.otp.shadow n := by
  refine Eq.trans (b := (BitVec.ofNat 9 (bitSum (fuseLocked s.otp.shadow) 9)).getLsbD n) rfl ?_
  rw [BitVec.getLsbD_ofNat, testBit_bitSum _ hn, decide_eq_true hn, Bool.true_and]

/-! ### Burns (R506, R510, R512) -/

theorem vault_fuseEntries (s : State) (op : Nat) (words : List Nat) : vault (fuseEntries s op words) = vault s := by
  refine view_foldl vault (fun t ws => ?_) _ _
  have hqueued (t : State) (code : Nat) (body : List Byte) : vault (rindQueue t code true body).draw = vault t := vault_rindQueue ..
  dsimp only
  split
  · exact (vault_rindFlush _).trans (hqueued ..)
  · exact hqueued ..

/-- A burn that the supply does not stop programs every bit. -/
theorem burn_whole (s : State) (op : Nat) (bits : List (Nat × Nat)) (words : List Nat) :
    (burn s op bits words none).2 = true ∧ ∃ finished, vault (burn s op bits words none).1 = vault { s with otp.cells := setWritten (setBits s.otp.cells bits) finished } := by
  unfold burn
  dsimp only
  rw [List.drop_length, if_pos rfl]
  exact ⟨rfl, _, vault_fuseEntries ..⟩

theorem wf_setWritten {m : Mem} (ws : List Nat) (hwf : Mem.wf 0 m = true) : Mem.wf 0 (setWritten m ws) = true := wf_setBits _ hwf

theorem rennet_burn (s : State) (op : Nat) (bits : List (Nat × Nat)) (words : List Nat) : (burn s op bits words none).1.rennet = s.rennet := by
  obtain ⟨-, finished, hburnt⟩ := burn_whole s op bits words
  exact rennet_of_vault (s := { s with otp.cells := setWritten (setBits s.otp.cells bits) finished }) hburnt

/-- FINALISE locks its region, in the cells and in the shadows. -/
theorem finaliseBurn_locks (s : State) (op : Nat) {n : Nat} (hn : n < 9) (hwf : Mem.wf 0 s.otp.cells = true) :
    fuseLocked (finaliseBurn s op n none).1.otp.cells n = true ∧ (finaliseBurn s op n none).1.otp.locked.getLsbD n = true ∧
      (finaliseBurn s op n none).1.otp.supplyOk = s.otp.supplyOk := by
  unfold finaliseBurn
  extract_lets at_ bits r
  obtain ⟨hwhole, finished, hburnt⟩ := burn_whole s op bits (wordsIn at_ 32)
  have hall : r.2 = true := hwhole
  have hotp : r.1.otp = { s.otp with cells := setWritten (setBits s.otp.cells bits) finished } := otp_of_vault (s := { s with otp.cells := setWritten (setBits s.otp.cells bits) finished }) hburnt
  clear_value r
  have hcells : r.1.otp.cells = setWritten (setBits s.otp.cells bits) finished := congrArg Otp.cells hotp
  have hwf' : Mem.wf 0 r.1.otp.cells = true := by
    rw [hcells]
    exact wf_setWritten _ (wf_setBits _ hwf)
  have hlocked : fuseLocked r.1.otp.cells n = true := by
    rw [hcells]
    refine fuseLocked_of_ones fun j hj i hi => getLsbD_setBits (wf_setBits _ hwf) hi (.inr (getLsbD_setBits hwf hi ?_))
    have hones : (List.replicate 4 (0xFF : Byte))[j]? = some 0xFF := by
      rw [List.getElem?_replicate, if_pos hj]
    have hbit : ∀ i : Fin 8, (0xFF : Byte).getLsbD i.val = true := by decide
    exact (mem_missingBits_or_set hones hi (hbit ⟨i, hi⟩)).imp_left (List.mem_append_right _)
  rw [if_pos hall]
  refine ⟨hlocked, ?_, (congrArg Otp.supplyOk hotp :)⟩
  rw [locked_idLocks _ hn]
  exact (fuseLocked_mcopy _ n hwf').trans hlocked

/-! ### Signed requests (R517 to R527) -/

theorem rennet_transitionReport (s : State) (target : Nat) (b : List Byte) : (transitionReport s target b).rennet = s.rennet := by
  unfold transitionReport
  exact rennet_of_vault (s := idEvent s 3) (vault_sendReportBody ..)

section
variable {s : State} (hreq : s.rennet.req = none)
include hreq

theorem req_transition (b : List Byte) : (transition s b none).1.rennet.req = none := by
  unfold transition
  dsimp only
  split
  · rw [if_pos (burn_whole ..).1]
    rfl
  · rw [if_pos (burn_whole ..).1, rennet_transitionReport]
    dsimp only
    rw [rennet_burn, hreq]

theorem req_revoke (slot : Nat) : (revoke s slot none).1.rennet.req = none := by
  dsimp only [revoke, idLocks, resense]
  rw [rennet_burn, hreq]

theorem req_openDebug (b : List Byte) : (openDebug s b).1.rennet.req = none := by
  unfold openDebug
  extract_lets rights limit s0 e1 r1 s1 r2 a2 s2
  have h0 : s0.rennet.req = none := by
    unfold s0
    split <;> exact hreq
  have h1 : s1.rennet.req = none := h0
  clear_value s1
  have h2 : s2.rennet.req = none := by
    unfold s2
    split <;> exact h1
  clear_value s2
  split
  · exact hreq
  · exact (congrArg Rennet.req (rennet_of_vault (vault_report ..))).trans h2

/-- A signed request, whatever it comes to, leaves no request transfer where none is under way. -/
theorem req_signedRequest (b : List Byte) (len : Nat) : (signedRequest s b len true none).1.rennet.req = none := by
  unfold signedRequest
  extract_lets kind r1 s1 fresh o1 s2
  have h1 : s1.rennet.req = none := by
    unfold s1
    split <;> exact hreq
  have h2 : s2.rennet.req = none := h1
  clear_value kind s1 fresh s2
  split
  · exact hreq
  · split
    · exact hreq
    · split
      · exact hreq
      · split
        · exact h1
        · split
          · exact h1
          · split
            · exact h1
            · split
              · exact h1
              · split
                · exact req_openDebug h1 b
                · rw [if_neg (by decide)]
                  split
                  · exact req_transition h2 b
                  · exact req_revoke h2 _

end
end Sys2Proof.Machine
end

section
/-! The command interface family (09_command_interface.md): nonces, request transfers, updates and enrolment. -/

namespace Sys2Proof.Machine

/-! ### An image taken through a whole transfer (R471, R477, R479) -/

theorem endTransfer_verified {s : State} (hboot : s.rennet.boot = .verified) :
    (endTransfer s).rennet.xfer = none ∧ (endTransfer s).rennet.boot = .verified ∧ (endTransfer s).rennet.updatePending = s.rennet.updatePending := by
  unfold endTransfer
  dsimp only
  rw [if_neg (by rw [hboot]; nofun)]
  exact ⟨rfl, hboot, rfl⟩

/-- The transfer of an update before its first byte. -/
def updateTransfer (s : State) (bs : List Byte) : Transfer := { holder := 64, len := bs.length, lastTs := s.ts }

/-- The state with that transfer open. -/
def updateOpened (s : State) (bs : List Byte) : State := { s with rennet.xfer := some (updateTransfer s bs) }

theorem beginImage_update {s : State} {bs : List Byte} (hboot : s.rennet.boot = .verified) (hidle : s.rennet.xfer = none) (hmin : manifestLen ≤ bs.length) (hmax : bs.length ≤ 2039808) :
    beginImage s 64 bs.length = (updateOpened s bs, stDone) := by
  have hlen : ¬(bs.length < manifestLen ∨ 2039808 < bs.length) := by omega
  unfold beginImage
  simp only [hidle, hboot, hlen, Bool.false_eq_true, beq_self_eq_true, Bool.not_true, if_true, if_false]
  rw [updateOpened, updateTransfer, ← hboot]

/-- A manifest that is refused is not taken. -/
theorem manifestRefuse_ne_done {s : State} {m : List Byte} {st : W16} (h : manifestRefuse s m = some st) : st ≠ stDone := by
  unfold manifestRefuse at h
  dsimp only at h
  split at h
  · cases h
    decide
  · split at h
    · cases h
      decide
    · split at h
      · cases h
        decide
      · cases h

section
variable {s : State} {x : Transfer} {bs : List Byte} (hstaged : x.staged = []) (hlen : x.len = bs.length) (hmin : manifestLen ≤ bs.length)

theorem staged_whole {x : Transfer} {bs : List Byte} (hstaged : x.staged = []) (hlen : x.len = bs.length) : x.staged ++ bs.take (x.len - x.staged.length) = bs := by
  rw [hstaged, hlen, List.nil_append, List.length_nil, Nat.sub_zero, List.take_length]

section
include hstaged hlen hmin

theorem putImage_refused {st : W16} (hnew : x.ok = false) (hrefuse : manifestRefuse s (bs.take manifestLen) = some st) : putImage s x bs = (endTransfer s, st) := by
  unfold putImage
  simp only [staged_whole hstaged hlen, hnew, Nat.not_lt.mpr hmin, hrefuse, if_false, Bool.not_false, if_true]

theorem putImage_taken (hnew : x.ok = false) (hgood : manifestRefuse s (bs.take manifestLen) = none) :
    ∃ nor, putImage s x bs = ({ s with rennet.nor := nor, rennet.xfer := some { x with staged := bs, offset := bs.length, lastTs := s.ts, ok := true } }, stDone) := by
  unfold putImage
  simp only [staged_whole hstaged hlen, hnew, Nat.not_lt.mpr hmin, hgood, if_false, Bool.not_false, if_true, norErase, norProgram]
  exact ⟨_, rfl⟩

end

theorem finishImage_bad (hsects : sectsOk (x.staged.take manifestLen) x.staged = false) : finishImage s x = (endTransfer s, stIntegrity) := by
  unfold finishImage
  exact if_pos (.inr (.inr (by rw [hsects, Bool.not_false])))

theorem finishImage_update (hok : x.ok = true) (hholder : x.holder = 64) (hwhole : x.len ≤ x.staged.length) (hsects : sectsOk (x.staged.take manifestLen) x.staged = true) :
    (finishImage s x).1.rennet.xfer = none ∧ (finishImage s x).1.rennet.boot = s.rennet.boot ∧ (finishImage s x).1.rennet.updatePending = true := by
  have hgood : ¬((!x.ok) = true ∨ x.staged.length < x.len ∨ (!sectsOk (x.staged.take manifestLen) x.staged) = true) := by
    rw [hok, hsects]
    rintro (h | h | h)
    · cases h
    · exact absurd h (Nat.not_lt.mpr hwhole)
    · cases h
  unfold finishImage
  dsimp only
  rw [if_neg hgood, if_pos hholder]
  exact ⟨rfl, rfl, rfl⟩

/-- An image taken whole leaves no transfer, and an update is pending when its manifest and its sections pass. -/
theorem updateImage_facts (hboot : s.rennet.boot = .verified) (hidle : s.rennet.xfer = none) (hmin : manifestLen ≤ bs.length) (hmax : bs.length ≤ 2039808) :
    (updateImage s bs).1.rennet.xfer = none ∧ (updateImage s bs).1.rennet.boot = .verified ∧
      (updateImage s bs).1.rennet.updatePending = (s.rennet.updatePending || ((manifestRefuse s (bs.take manifestLen)).isNone && sectsOk (bs.take manifestLen) bs)) := by
  have hopened : updateImage s bs = (let d := putImage (updateOpened s bs) (updateTransfer s bs) bs
      if d.2 ≠ stDone then d else match d.1.rennet.xfer with | some y => finishImage d.1 y | none => d) := by
    unfold updateImage
    rw [beginImage_update hboot hidle hmin hmax]
    rfl
  rw [hopened]
  cases hmanifest : manifestRefuse s (bs.take manifestLen) with
  | some st =>
    rw [putImage_refused (s := updateOpened s bs) (x := updateTransfer s bs) rfl rfl hmin rfl hmanifest]
    dsimp only
    rw [if_pos (manifestRefuse_ne_done hmanifest)]
    obtain ⟨hxfer, hboot', hpending⟩ := endTransfer_verified (s := updateOpened s bs) hboot
    exact ⟨hxfer, hboot', hpending.trans (Bool.or_false _).symm⟩
  | none =>
    obtain ⟨nor, hput⟩ := putImage_taken (s := updateOpened s bs) (x := updateTransfer s bs) rfl rfl hmin rfl hmanifest
    rw [hput]
    dsimp only
    rw [if_neg (not_not_intro rfl)]
    cases hsects : sectsOk (bs.take manifestLen) bs with
    | false =>
      rw [finishImage_bad hsects]
      obtain ⟨hxfer, hboot', hpending⟩ := endTransfer_verified (s := { updateOpened s bs with rennet.nor := nor, rennet.xfer := some { updateTransfer s bs with staged := bs, offset := bs.length, lastTs := s.ts, ok := true } }) hboot
      exact ⟨hxfer, hboot', hpending.trans (Bool.or_false _).symm⟩
    | true =>
      obtain ⟨hxfer, hboot', hpending⟩ := finishImage_update (x := { updateTransfer s bs with staged := bs, offset := bs.length, lastTs := s.ts, ok := true })
        (s := { updateOpened s bs with rennet.nor := nor, rennet.xfer := some { updateTransfer s bs with staged := bs, offset := bs.length, lastTs := s.ts, ok := true } }) rfl rfl (Nat.le_refl _) hsects
      exact ⟨hxfer, hboot'.trans hboot, hpending.trans (Bool.or_true _).symm⟩

end

/-! ### Commands of the ring (R419, R477, R519) -/

section
variable {s : State} {p : PartId} {k : Packet}

theorem drawNonce_of_on {s : State} (hfail : s.rennet.entropyFail = false) (hon : s.rennet.drbgOn = true) :
    drawNonce s = some ({ drbgCount s 1 with rennet.nonce := some (padTo 32 (Config.drbg s.rennet.drbgN 32), s.ts) }, padTo 32 (Config.drbg s.rennet.drbgN 32)) := by
  unfold drawNonce
  rw [drbgDraw_of_on 32 hfail hon]
  rfl

theorem nonceCommand_next (hfail : s.rennet.entropyFail = false) (hon : s.rennet.drbgOn = true) (hstarts : Starts s p 0x0E01 k) (hform : formCheck k 8 8 [] = none)
    (haddr : addrOk k 0 = true) (hmapped : anyBlock s p.val (parAddr k 0) 32 .unmapped = false) :
    ∃ t, exec (.nonceCommand p) s = .next t ∧ t.rennet.nonce = some (padTo 32 (Config.drbg s.rennet.drbgN 32), s.ts) ∧ t.rennet.drbgN = s.rennet.drbgN + 1 ∧ t.otp = s.otp := by
  have hfmt : firstBad [(!addrOk k 0, 0)] = none := by
    rw [haddr]
    rfl
  have hrng : firstBad [(anyBlock (takeHand s p.val) p.val (parAddr k 0) 32 .unmapped, 0)] = none := by
    rw [show anyBlock (takeHand s p.val) p.val (parAddr k 0) 32 .unmapped = false from hmapped]
    rfl
  refine ⟨_, ends_kept ((ringCmd_of_starts _ hstarts hform).trans (checked_of_good _ hfmt hrng)), ?_⟩
  rw [drawNonce_of_on (s := takeHand s p.val) hfail hon]
  have hvault : vault (replyDone (devPut { drbgCount (takeHand s p.val) 1 with rennet.nonce := some (padTo 32 (Config.drbg s.rennet.drbgN 32), s.ts) } p.val (parAddr k 0)
      (padTo 32 (Config.drbg s.rennet.drbgN 32))) p.val k) = vault { drbgCount (takeHand s p.val) 1 with rennet.nonce := some (padTo 32 (Config.drbg s.rennet.drbgN 32), s.ts) } :=
    (vault_reply ..).trans (vault_devPut ..)
  have hrennet := rennet_of_vault hvault
  have hotp := otp_of_vault hvault
  exact ⟨congrArg Rennet.nonce hrennet, congrArg Rennet.drbgN hrennet, hotp⟩

theorem update_next {bs : List Byte} (hright : hasRight s p.val 9 = true) (hstarts : Starts s p 0x0D03 k) (hform : formCheck k 12 12 [] = none) (haddr : addrOk k 0 = true)
    (hmin : manifestLen ≤ par k 8 4) (hmax : par k 8 4 ≤ 2039808) (hend : parAddr k 0 + par k 8 4 ≤ 2 ^ 48) (hboot : s.rennet.boot = .verified) (hidle : s.rennet.xfer = none)
    (hmapped : anyBlock s p.val (parAddr k 0) (par k 8 4) .unmapped = false) (hgood : anyBlock s p.val (parAddr k 0) (par k 8 4) .poisoned = false)
    (hbs : bs = devRead s p.val (parAddr k 0) (par k 8 4)) :
    ∃ t, exec (.update p) s = .next t ∧ t.rennet.xfer = none ∧ t.rennet.boot = .verified ∧
      t.rennet.updatePending = (s.rennet.updatePending || ((manifestRefuse s (bs.take manifestLen)).isNone && sectsOk (bs.take manifestLen) bs)) := by
  have hfmt : firstBad [(!addrOk k 0, 0)] = none := by
    rw [haddr]
    rfl
  have hrng : firstBad [(decide (2 ^ 48 < parAddr k 0 + par k 8 4), 0), (decide (par k 8 4 < manifestLen ∨ 2039808 < par k 8 4), 8)] = none := by
    rw [decide_eq_false (Nat.not_lt.mpr hend), decide_eq_false (by omega)]
    rfl
  have hlen : bs.length = par k 8 4 := by
    rw [hbs, devRead, List.length_map, List.length_range]
  have hread : withData (takeHand s p.val) p.val k 0 (par k 8 4) = fun body => body bs := by
    funext body
    rw [withData_of_mapped (s := takeHand s p.val) body hmapped hgood, devRead_takeHand, hbs]
  obtain ⟨hxfer, hboot', hpending⟩ := updateImage_facts (s := takeHand s p.val) (bs := bs) hboot hidle (hlen ▸ hmin) (hlen ▸ hmax)
  have hstate : ¬(takeHand s p.val).rennet.boot ≠ .verified := not_not_intro hboot
  have hfree : (takeHand s p.val).rennet.xfer = none := hidle
  refine ⟨_, ends_kept (ringCmdR_of_starts _ hright hstarts hform), ?_⟩
  simp only [hfree, hstate, hread, Bool.false_eq_true, if_false]
  rw [checked_of_good _ hfmt hrng]
  have hrennet (status : W16) (detail : W32) (state : Byte) : (kept s (reply (updateImage (takeHand s p.val) bs).1 p.val k status detail noObj state)).rennet =
      (updateImage (takeHand s p.val) bs).1.rennet := rennet_of_vault (vault_reply ..)
  rw [hrennet]
  exact ⟨hxfer, hboot', hpending⟩

end

/-! ### Messages (R511, R519) -/

section
variable {s : State} {m : MbxId}

theorem nonce_next (hfail : s.rennet.entropyFail = false) (hon : s.rennet.drbgOn = true) (hserves : Serves s m 0x0201) (hhalf : (mailWords s m).getD 0 0 = 0) :
    exec (.nonce m) s = .next (kept s (mailReply { drbgCount (serving s) 1 with rennet.nonce := some (padTo 32 (Config.drbg s.rennet.drbgN 32), s.ts) }
      m.val 0 (wordsOf ((padTo 32 (Config.drbg s.rennet.drbgN 32)).take 24)))) := by
  refine ends_kept (mailServe_answered hserves ?_ rfl)
  simp only [hhalf, drawNonce_of_on (s := serving s) hfail hon]
  rfl

theorem nonceExpire_late {n : List Byte} {ts now : W64} (hheld : s.rennet.nonce = some (n, ts)) (hnow : s.ts.toNat ≤ now.toNat) (hlate : ts.toNat + 60000000000 ≤ now.toNat) :
    exec (.nonceExpire now) s = .next { s with ts := now, rennet.nonce := none } := by
  change execNonceExpire now s = _
  refine endsAt_of_eq (t := { s with ts := now, rennet.nonce := none }) hnow ?_
  simp only [hheld]
  exact if_pos hlate

theorem nonceExpire_early {n : List Byte} {ts now : W64} (hheld : s.rennet.nonce = some (n, ts)) (hnow : s.ts.toNat ≤ now.toNat) (hearly : now.toNat < ts.toNat + 60000000000) :
    exec (.nonceExpire now) s = .next { s with ts := now } := by
  change execNonceExpire now s = _
  refine endsAt_of_eq (t := { s with ts := now }) hnow ?_
  simp only [hheld]
  exact if_neg (Nat.not_le.mpr hearly)

theorem reqBegin_next (hhost : m.val ≠ 64) (hserves : Serves s m 0x0210) (hfree : s.rennet.req = none ∨ ∃ x, s.rennet.req = some x ∧ x.holder = m.val) :
    exec (.reqBegin m) s = .next (kept s (mailReply { serving s with rennet.req := some { holder := m.val, kind := ((mailWords s m).getD 0 0).toNat, len := ((mailWords s m).getD 1 0).toNat } } m.val 0 [])) := by
  refine ends_kept (mailServe_answered hserves ((if_neg hhost).trans ?_) rfl)
  unfold beginReq
  obtain hnone | ⟨x, hx, hholder⟩ := hfree
  · rw [show (serving s).rennet.req = none from hnone]
    rfl
  · rw [show (serving s).rennet.req = some x from hx]
    exact if_neg (not_not_intro hholder)

section
variable {x : ReqXfer} (hx : s.rennet.req = some x) (hholder : x.holder = m.val)
include hx hholder

theorem reqData_next (hserves : Serves s m 0x0211) (hoffset : ((mailWords s m).getD 0 0).toNat = x.bytes.length) (hopen : x.bytes.length < x.len) :
    exec (.reqData m) s = .next (kept s (mailReply { serving s with rennet.req := some { x with bytes := x.bytes ++ (mailData (mailWords s m)).take (x.len - x.bytes.length) } } m.val 0 [])) := by
  refine ends_kept (mailServe_answered hserves ?_ rfl)
  have hgood : ¬(((mailWords s m).getD 0 0).toNat ≠ x.bytes.length ∨ x.len ≤ x.bytes.length) := by omega
  rw [show (serving s).rennet.req = some x from hx]
  exact (if_neg (not_not_intro hholder)).trans (if_neg hgood)

theorem reqData_misplaced (hserves : Serves s m 0x0211) (hoffset : ((mailWords s m).getD 0 0).toNat ≠ x.bytes.length) :
    exec (.reqData m) s = .next (kept s (mailReply (serving s) m.val 0x0104 [])) := by
  refine ends_kept (mailServe_answered (t := serving s) hserves ?_ rfl)
  rw [show (serving s).rennet.req = some x from hx]
  exact (if_neg (not_not_intro hholder)).trans (if_pos (.inl hoffset))

theorem reqEnd_next (hserves : Serves s m 0x0212) : ∃ t, exec (.reqEnd m true) s = .next t ∧ t.rennet.req = none := by
  refine ⟨_, rfl, ?_⟩
  have hended : (reqEndBody true none m.val (serving s)).1.rennet.req = none := by
    unfold reqEndBody
    rw [show (serving s).rennet.req = some x from hx]
    dsimp only
    rw [if_neg (not_not_intro hholder)]
    exact req_signedRequest rfl x.bytes x.len
  have hvault := vault_mailServe (fun s _ => reqEndBody true none m.val s) hserves
  exact (congrArg (fun v : Rennet × Otp × Attest => v.1.req) hvault :).trans hended

end

/-- ENROL in Maker, with PUF_HELPER blank and random bits to be had, burns the helper data and finalises its region. -/
theorem enrolBody_finalises {reads : List (List Byte)} (hfail : s.rennet.entropyFail = false) (hon : s.rennet.drbgOn = true) (hlc : s.otp.lc = 0) (hwf : Mem.wf 0 s.otp.cells = true)
    (hblank : (wordsIn 0x280 4160).any (fuseWritten s.otp.cells) = false) (hopen : fuseLocked s.otp.cells 2 = false) :
    ∃ u : State, Mem.wf 0 u.otp.cells = true ∧ u.otp.supplyOk = true ∧ (enrolBody true reads none s).1 = (finaliseBurn u 3 2 none).1 := by
  have hmay : ¬(s.otp.lc ≠ 0 ∨ (wordsIn 0x280 4160).any (fuseWritten s.otp.cells) = true ∨ fuseLocked s.otp.cells 2 = true) := by
    rw [hblank, hopen]
    rintro (h | h | h)
    · exact h hlc
    · cases h
    · cases h
  unfold enrolBody
  extract_lets cells
  rw [if_neg hmay, if_neg (by decide)]
  split
  · next hnone =>
    rw [drbgDraw_of_on (s := { s with otp.supplyOk := true }) 32 hfail hon] at hnone
    cases hnone
  · next s1 _ hdrawn =>
    rw [drbgDraw_of_on (s := { s with otp.supplyOk := true }) 32 hfail hon] at hdrawn
    obtain rfl : drbgCount { s with otp.supplyOk := true } 1 = s1 := congrArg Prod.fst (Option.some.inj hdrawn)
    extract_lets helper value bits r f
    obtain ⟨hwhole, finished, hvault⟩ := burn_whole (drbgCount { s with otp.supplyOk := true } 1).draw 3 bits (wordsIn 0x280 4128)
    have hall : r.2 = true := hwhole
    have hotp : r.1.otp = { s.otp with supplyOk := true, cells := setWritten (setBits s.otp.cells bits) finished } := (otp_of_vault hvault :)
    refine ⟨r.1, ?_, (congrArg Otp.supplyOk hotp :), ?_⟩
    · rw [show r.1.otp.cells = setWritten (setBits s.otp.cells bits) finished from congrArg Otp.cells hotp]
      exact wf_setWritten _ (wf_setBits _ hwf)
    · rw [if_neg (by rw [hall]; decide)]
      rfl

theorem enrol_next {reads : List (List Byte)} (hfail : s.rennet.entropyFail = false) (hon : s.rennet.drbgOn = true) (hserves : Serves s m 0x0230) (hlc : s.otp.lc = 0)
    (hwf : Mem.wf 0 s.otp.cells = true) (hblank : (wordsIn 0x280 4160).any (fuseWritten s.otp.cells) = false) (hopen : fuseLocked s.otp.cells 2 = false) :
    ∃ t, exec (.enrol m true reads) s = .next t ∧ fuseLocked t.otp.cells 2 = true ∧ t.otp.locked.getLsbD 2 = true ∧ t.otp.supplyOk = true := by
  obtain ⟨u, hcells, hsupply, hbody⟩ := enrolBody_finalises (s := serving s) (reads := reads) hfail hon hlc hwf hblank hopen
  obtain ⟨hlocked, hfield, hkeeps⟩ := finaliseBurn_locks u 3 (n := 2) (by decide) hcells
  have hotp : (mailServe s m.val 0x0230 (fun s _ => enrolBody true reads none s)).otp = (finaliseBurn u 3 2 none).1.otp :=
    (congrArg (·.2.1) (vault_mailServe (fun s _ => enrolBody true reads none s) hserves) :).trans (congrArg State.otp hbody)
  refine ⟨kept s (mailServe s m.val 0x0230 (fun s _ => enrolBody true reads none s)), rfl, ?_⟩
  rw [show (kept s (mailServe s m.val 0x0230 (fun s _ => enrolBody true reads none s))).otp = (finaliseBurn u 3 2 none).1.otp from hotp]
  exact ⟨hlocked, hfield, hkeeps.trans hsupply⟩

end

/-- Settles O34: each command with the fields that its clause names. -/
theorem noncesRequestsAndUpdates : Obligations.NoncesRequestsAndUpdates := by
  refine fun s hfail hon => ⟨fun p k => nonceCommand_next hfail hon, fun p k bs hstarts hright => update_next hright hstarts, fun m => nonce_next hfail hon,
    fun n ts now hheld hnow => ⟨nonceExpire_late hheld hnow, nonceExpire_early hheld hnow⟩, fun m => reqBegin_next,
    fun m x hx hholder => ⟨reqData_next hx hholder, reqData_misplaced hx hholder, reqEnd_next hx hholder⟩, ?_⟩
  intro m reads hserves hlc hcells _ hblank hopen
  exact enrol_next hfail hon hserves hlc hcells hblank hopen

end Sys2Proof.Machine
end

section
/-! The boot and keys family (11_rennet_boot_and_keys.md): how a call of the big-number engine ends, and key slots, P-384 commands and SIGN_S. -/

namespace Sys2Proof.Machine

/-! ### A call that is accepted, and one that is refused (R492, R495) -/

/-- The run that an accepted call of a command begins. -/
def callRun (s : State) (op : Nat) (a : BnArgs) : BnRun :=
  let b := bnLatch s.bn op a
  let o := bnOutput s b op
  { op := BitVec.ofNat 8 op, dst := a.dst.toNat, words := o.words, marks := o.marks, result := if o.refused then 1 else 0, flag := o.flag
    cycles := (bnCycles op a.size.toNat a.q).getD 0
    cave := if op = 0x0A then some (a.dst.toNat, padTo 64 (leBytes (4 * bnWords a.size.toNat a.q) (bnVal s.bn a.src0.toNat (bnWords a.size.toNat a.q)))) else none
    zeroSrc := if op = 0x0A then some (a.src0.toNat, bnWords a.size.toNat a.q) else none }

section
variable {s : State} {a : BnArgs} {op : Nat} (hidle : s.bn.run = none) (hclean : s.bn.wiping = false)
include hidle hclean

theorem startBn_of_good (hgood : bnCallBad s (bnLatch s.bn op a) op = false) :
    startBn op a s = { (if op = 0x09 then drbgCount s 1 else s) with bn := { bnLatch s.bn op a with run := some (callRun s op a) } }.draw := by
  unfold startBn
  rw [hidle, hclean, if_neg (by decide)]
  dsimp only
  rw [hgood, if_neg Bool.false_ne_true]
  rfl

theorem startBn_of_bad (hbad : bnCallBad s (bnLatch s.bn op a) op = true) :
    startBn op a s = { s with bn := { bnLatch s.bn op a with result := 4, flag := false, cycles := 0, events := raiseEv s.bn.events 1 } } := by
  unfold startBn
  rw [hidle, hclean, if_neg (by decide)]
  dsimp only
  rw [hbad, if_pos rfl]
  rfl

/-- An accepted call runs; of Rennet it counts a request of RANDLOAD alone. -/
theorem call_runs (hgood : bnCallBad s (bnLatch s.bn op a) op = false) :
    ∃ t, ends s (startBn op a s) = .next t ∧ t.bn.run = some (callRun s op a) ∧ t.rennet = (if op = 0x09 then drbgCount s 1 else s).rennet :=
  ⟨_, ends_kept (startBn_of_good hidle hclean hgood), rfl, rfl⟩

/-- A refused call ends at once and touches no word. -/
theorem call_refused (hbad : bnCallBad s (bnLatch s.bn op a) op = true) :
    ∃ t, ends s (startBn op a s) = .next t ∧ t.bn.run = none ∧ t.bn.result = 4 ∧ t.bn.mem = s.bn.mem ∧ t.rennet = s.rennet :=
  ⟨_, ends_kept (startBn_of_bad hidle hclean hbad), hidle, rfl, rfl, rfl⟩

end

/-! ### Key slots (R484, R489, R491) -/

theorem bnWords_of_slot {size n : Nat} (kem : Bool) (h : size < 3) (hn : n = [8, 12, 18].getD size 0) : bnWords size kem = n := by
  subst hn
  interval_cases size <;> rfl

theorem bnCycles_of_slot {op size : Nat} (kem : Bool) (hop : op = 0x08 ∨ op = 0x09 ∨ op = 0x0A) (h : size < 3) : bnCycles op size kem = some 36 := by
  obtain rfl | rfl | rfl := hop <;> interval_cases size <;> rfl

section
variable {s : State} {a : BnArgs} {n : Nat} (hsize : a.size.toNat < 3) (hn : n = [8, 12, 18].getD a.size.toNat 0)
include hsize hn

/-- The faults of a call of KEYLOAD: its destination, its owner's slots and the Cave. -/
theorem bnCallBad_keyload : bnCallBad s (bnLatch s.bn 0x08 a) 0x08 =
    (!(bnFits a.dst.toNat n 2) || !mayLoad s.bn.owner.toNat a.src0.toNat || !caveAdmits s a.src0.toNat) := by
  have hcycles : bnCycles 0x08 a.size.toNat a.q = some 36 := bnCycles_of_slot _ (by decide) hsize
  simp only [bnCallBad, bnLatch, hcycles, bnWords_of_slot a.q hsize hn, hsize.ne, Option.isNone_some, Bool.false_eq_true, if_false]

theorem bnCallBad_randload : bnCallBad s (bnLatch s.bn 0x09 a) 0x09 = (!(bnFits a.dst.toNat n 2) || !s.rennet.drbgOn) := by
  have hcycles : bnCycles 0x09 a.size.toNat a.q = some 36 := bnCycles_of_slot _ (by decide) hsize
  simp only [bnCallBad, bnLatch, hcycles, bnWords_of_slot a.q hsize hn, hsize.ne, Option.isNone_some, Bool.false_eq_true, if_false]

theorem bnCallBad_keystore : bnCallBad s (bnLatch s.bn 0x0A a) 0x0A =
    (!(bnFits a.src0.toNat n 2) || !mayStore s.bn.owner.toNat a.dst.toNat || !caveAdmits s a.dst.toNat) := by
  have hcycles : bnCycles 0x0A a.size.toNat a.q = some 36 := bnCycles_of_slot _ (by decide) hsize
  simp only [bnCallBad, bnLatch, hcycles, bnWords_of_slot a.q hsize hn, hsize.ne, Option.isNone_some, Bool.false_eq_true, if_false]

end

/-- The slots that R491 lets an owner load. -/
theorem mayLoad_of_listed {owner : BitVec 3} {slot : Nat}
    (h : (owner.toNat, slot) ∈ [(2, 2), (2, 3), (3, 5), (3, 6), (5, 7)] ∨ (owner = 4 ∧ 10 ≤ slot ∧ slot ≤ 15)) : mayLoad owner.toNat slot = true := by
  obtain hlisted | ⟨rfl, hlo, hhi⟩ := h
  · simp only [List.mem_cons, Prod.mk.injEq, List.not_mem_nil, or_false] at hlisted
    obtain ⟨ho, hs⟩ | ⟨ho, hs⟩ | ⟨ho, hs⟩ | ⟨ho, hs⟩ | ⟨ho, hs⟩ := hlisted <;> rw [ho, hs] <;> rfl
  · simp [mayLoad, hlo, hhi]

theorem mayLoad_of_other {owner slot : Nat} (h : owner < 2 ∨ 5 < owner) : mayLoad owner slot = false := by
  have hne (k : Nat) (hk : 2 ≤ k) (hk' : k ≤ 5) : (owner == k) = false := beq_false_of_ne (by omega)
  simp [mayLoad, hne]

theorem mayStore_of_listed {owner : BitVec 3} {slot : Nat} (h : (owner = 4 ∧ 10 ≤ slot ∧ slot ≤ 15) ∨ (owner = 5 ∧ 16 ≤ slot ∧ slot ≤ 63)) :
    mayStore owner.toNat slot = true := by
  obtain ⟨rfl, hlo, hhi⟩ | ⟨rfl, hlo, hhi⟩ := h <;> simp [mayStore, hlo, hhi]

/-! ### The curve (R493, R494, R495) -/

theorem g384_below : g384.1 < p384 ∧ g384.2 < p384 := by decide +kernel

theorem onCurve_g384 : onCurve g384 = true := by decide +kernel

theorem length_bnOf (n v : Nat) : (bnOf n v).length = n := by simp [bnOf]

theorem length_pointWords (s : State) (good : Bool) (q : Option (Nat × Nat)) : (pointWords s good q).length = 24 := by
  unfold pointWords
  split
  · rw [List.length_append, length_bnOf, length_bnOf]
  · exact length_bnOf ..

/-- On P-384 the words of a slot are 12, aligned to 2. -/
theorem bnCallBad_ecmul {s : State} {a : BnArgs} (hsize : a.size = 1) :
    bnCallBad s (bnLatch s.bn 0x10 a) 0x10 = !(bnFits a.dst.toNat 24 2 && bnFits a.src0.toNat 12 2 && (a.gen || bnFits a.src1.toNat 24 2)) := by
  simp only [bnCallBad, bnLatch, hsize]
  rfl

theorem bnCallBad_ecadd {s : State} {a : BnArgs} (hsize : a.size = 1) :
    bnCallBad s (bnLatch s.bn 0x11 a) 0x11 = !(bnFits a.dst.toNat 24 2 && bnFits a.src0.toNat 24 2 && bnFits a.src1.toNat 24 2) := by
  simp only [bnCallBad, bnLatch, hsize]
  rfl

theorem bnCallBad_signS {s : State} {a : BnArgs} (hsize : a.size = 1) :
    bnCallBad s (bnLatch s.bn 0x12 a) 0x12 =
      (!(bnFits a.dst.toNat 12 2 && bnFits a.src0.toNat 12 2 && bnFits a.src1.toNat 12 2 && bnFits a.src2.toNat 12 2 && bnFits a.modu.toNat 24 2) ||
        !(bnFits a.modu.toNat 12 2 && nbit (bnVal s.bn a.modu.toNat 12) 383 && (!true || bnVal s.bn a.modu.toNat 12 % 2 == 1))) := by
  simp only [bnCallBad, bnLatch, hsize]
  rfl

/-! ### The statement -/

section
variable {s : State} {a : BnArgs} (hidle : s.bn.run = none) (hclean : s.bn.wiping = false)
include hidle hclean

section
variable {n : Nat} (hsize : a.size.toNat < 3) (hn : n = [8, 12, 18].getD a.size.toNat 0)
include hsize hn

theorem keyload_runs (hfits : bnFits a.dst.toNat n 2 = true) (hcave : caveAdmits s a.src0.toNat = true)
    (hmay : (s.bn.owner.toNat, a.src0.toNat) ∈ [(2, 2), (2, 3), (3, 5), (3, 6), (5, 7)] ∨ (s.bn.owner = 4 ∧ 10 ≤ a.src0.toNat ∧ a.src0.toNat ≤ 15)) :
    ∃ (t : State) (r : BnRun), exec (.keyload a) s = .next t ∧ t.bn.run = some r ∧
      r.words = bnOf n (leNat (padTo 64 (tget [] s.rennet.cave a.src0.toNat))) ∧ r.marks = true ∧ r.cycles = 36 ∧ r.result = 0 := by
  have hgood : bnCallBad s (bnLatch s.bn 0x08 a) 0x08 = false := by
    rw [bnCallBad_keyload hsize hn, hfits, mayLoad_of_listed hmay, hcave]
    rfl
  have hcycles : bnCycles 0x08 a.size.toNat a.q = some 36 := bnCycles_of_slot _ (by decide) hsize
  obtain ⟨t, hnext, hrun, -⟩ := call_runs hidle hclean hgood
  refine ⟨t, _, hnext, hrun, ?_, rfl, congrArg (Option.getD · 0) hcycles, rfl⟩
  rw [← bnWords_of_slot a.q hsize hn]
  rfl

theorem keyload_notOwner (hother : s.bn.owner.toNat < 2 ∨ 5 < s.bn.owner.toNat) :
    ∃ t, exec (.keyload a) s = .next t ∧ t.bn.run = none ∧ t.bn.result = 4 ∧ t.bn.mem = s.bn.mem := by
  have hbad : bnCallBad s (bnLatch s.bn 0x08 a) 0x08 = true := by simp [bnCallBad_keyload hsize hn, mayLoad_of_other hother]
  obtain ⟨t, hnext, hrun, hresult, hmem, -⟩ := call_refused hidle hclean hbad
  exact ⟨t, hnext, hrun, hresult, hmem⟩

theorem keyload_notAdmitted (hcave : caveAdmits s a.src0.toNat = false) :
    ∃ t, exec (.keyload a) s = .next t ∧ t.bn.run = none ∧ t.bn.result = 4 ∧ t.bn.mem = s.bn.mem := by
  have hbad : bnCallBad s (bnLatch s.bn 0x08 a) 0x08 = true := by simp [bnCallBad_keyload hsize hn, hcave]
  obtain ⟨t, hnext, hrun, hresult, hmem, -⟩ := call_refused hidle hclean hbad
  exact ⟨t, hnext, hrun, hresult, hmem⟩

theorem randload_runs (hfits : bnFits a.dst.toNat n 2 = true) (hon : s.rennet.drbgOn = true) :
    ∃ (t : State) (r : BnRun), exec (.randload a) s = .next t ∧ t.bn.run = some r ∧
      r.words = bnOf n (leNat (padTo (4 * n) (Config.drbg s.rennet.drbgN (4 * n)))) ∧ r.marks = true ∧ r.cycles = 36 ∧ t.rennet.drbgN = s.rennet.drbgN + 1 := by
  have hgood : bnCallBad s (bnLatch s.bn 0x09 a) 0x09 = false := by
    rw [bnCallBad_randload hsize hn, hfits, hon]
    rfl
  have hcycles : bnCycles 0x09 a.size.toNat a.q = some 36 := bnCycles_of_slot _ (by decide) hsize
  obtain ⟨t, hnext, hrun, hrennet⟩ := call_runs hidle hclean hgood
  refine ⟨t, _, hnext, hrun, ?_, rfl, congrArg (Option.getD · 0) hcycles, (congrArg Rennet.drbgN hrennet :)⟩
  rw [← bnWords_of_slot a.q hsize hn]
  rfl

theorem randload_stopped (hoff : s.rennet.drbgOn = false) : ∃ t, exec (.randload a) s = .next t ∧ t.bn.run = none ∧ t.bn.result = 4 ∧ t.rennet = s.rennet := by
  have hbad : bnCallBad s (bnLatch s.bn 0x09 a) 0x09 = true := by simp [bnCallBad_randload hsize hn, hoff]
  obtain ⟨t, hnext, hrun, hresult, -, hrennet⟩ := call_refused hidle hclean hbad
  exact ⟨t, hnext, hrun, hresult, hrennet⟩

theorem keystore_runs (hfits : bnFits a.src0.toNat n 2 = true) (hcave : caveAdmits s a.dst.toNat = true)
    (hmay : (s.bn.owner = 4 ∧ 10 ≤ a.dst.toNat ∧ a.dst.toNat ≤ 15) ∨ (s.bn.owner = 5 ∧ 16 ≤ a.dst.toNat ∧ a.dst.toNat ≤ 63)) :
    ∃ (t : State) (r : BnRun), exec (.keystore a) s = .next t ∧ t.bn.run = some r ∧ r.cave = some (a.dst.toNat, padTo 64 (leBytes (4 * n) (bnVal s.bn a.src0.toNat n))) ∧
      r.zeroSrc = some (a.src0.toNat, n) ∧ r.words = [] ∧ r.cycles = 36 := by
  have hgood : bnCallBad s (bnLatch s.bn 0x0A a) 0x0A = false := by
    rw [bnCallBad_keystore hsize hn, hfits, mayStore_of_listed hmay, hcave]
    rfl
  have hcycles : bnCycles 0x0A a.size.toNat a.q = some 36 := bnCycles_of_slot _ (by decide) hsize
  obtain ⟨t, hnext, hrun, -⟩ := call_runs hidle hclean hgood
  rw [← bnWords_of_slot a.q hsize hn]
  exact ⟨t, _, hnext, hrun, rfl, rfl, rfl, congrArg (Option.getD · 0) hcycles⟩

end

end

/-! ### P-384 (R493, R494, R495) -/

theorem cycles_callRun {s : State} {a : BnArgs} {op c : Nat} (hsize : a.size = 1) (hop : (op, c) ∈ [(0x10, 1100164), (0x11, 69092), (0x12, 200)]) : (callRun s op a).cycles = c := by
  simp only [List.mem_cons, Prod.mk.injEq, List.not_mem_nil, or_false] at hop
  unfold callRun
  rw [hsize]
  obtain ⟨rfl, rfl⟩ | ⟨rfl, rfl⟩ | ⟨rfl, rfl⟩ := hop <;> rfl

section
variable {s : State} {a : BnArgs}

/-- The latched registers of a call are its operands, and it reads the memory as it stands. -/
theorem latch (b : Bn) (op : Nat) : (bnLatch b op a).src0 = a.src0 ∧ (bnLatch b op a).src1 = a.src1 ∧ (bnLatch b op a).src2 = a.src2 ∧ (bnLatch b op a).modu = a.modu ∧
    (bnLatch b op a).gen = a.gen ∧ bnVal (bnLatch b op a) = bnVal b ∧ bnPoint (bnLatch b op a) = bnPoint b ∧ bnMarked (bnLatch b op a) = bnMarked b :=
  ⟨rfl, rfl, rfl, rfl, rfl, rfl, rfl, rfl⟩

/-- The run of a command on the curve has the outcome of its arithmetic. -/
theorem curve_callRun {op : Nat} (hop : op ∈ [0x10, 0x11, 0x12]) :
    callRun s op a = { op := BitVec.ofNat 8 op, dst := a.dst.toNat, words := (bnCurve s (bnLatch s.bn op a) op).words, marks := (bnCurve s (bnLatch s.bn op a) op).marks
                       result := if (bnCurve s (bnLatch s.bn op a) op).refused then 1 else 0, flag := (bnCurve s (bnLatch s.bn op a) op).flag
                       cycles := (bnCycles op a.size.toNat a.q).getD 0 } := by
  simp only [List.mem_cons, List.not_mem_nil, or_false] at hop
  obtain rfl | rfl | rfl := hop <;> rfl

/-- The point that ECMUL multiplies. -/
def ecmulPoint (s : State) (a : BnArgs) : Nat × Nat := if a.gen then g384 else bnPoint s.bn a.src1.toNat

/-- What ECMUL refuses for its inputs: the scalar, and the coordinates of the point. -/
def EcmulRefused (s : State) (a : BnArgs) : Prop :=
  bnVal s.bn a.src0.toNat 12 < 2 ∨ n384 ≤ bnVal s.bn a.src0.toNat 12 ∨ p384 ≤ (ecmulPoint s a).1 ∨ p384 ≤ (ecmulPoint s a).2

theorem refused_ecmul : (bnCurve s (bnLatch s.bn 0x10 a) 0x10).refused = true ↔ EcmulRefused s a := by
  simp only [bnCurve, latch, Bool.or_eq_true, decide_eq_true_eq, or_assoc]
  unfold EcmulRefused ecmulPoint
  rfl

theorem words_ecmul : (callRun s 0x10 a).words = (if (bnCurve s (bnLatch s.bn 0x10 a) 0x10).refused then List.replicate 24 0
    else pointWords s (onCurve (ecmulPoint s a)) (ecMulPt (bnVal s.bn a.src0.toNat 12) (ecmulPoint s a))) := by
  rw [curve_callRun (by decide)]
  simp only [bnCurve, latch]
  unfold ecmulPoint
  rfl

theorem ecmul_of_refused (h : EcmulRefused s a) : (callRun s 0x10 a).result = 1 ∧ (callRun s 0x10 a).words = List.replicate 24 0 := by
  rw [words_ecmul, curve_callRun (by decide), refused_ecmul.mpr h]
  exact ⟨rfl, rfl⟩

/-- A multiple of the base point by a scalar in range is released. -/
theorem ecmul_base {q : Nat × Nat} (hgen : a.gen = true) (hlo : 2 ≤ bnVal s.bn a.src0.toNat 12) (hhi : bnVal s.bn a.src0.toNat 12 < n384) :
    (callRun s 0x10 a).result = 0 ∧ (ecMulPt (bnVal s.bn a.src0.toNat 12) g384 = some q → (callRun s 0x10 a).words = bnOf 12 q.1 ++ bnOf 12 q.2) := by
  have hpoint : ecmulPoint s a = g384 := if_pos hgen
  obtain ⟨hx, hy⟩ := g384_below
  have hgood : (bnCurve s (bnLatch s.bn 0x10 a) 0x10).refused = false := by
    refine Bool.eq_false_iff.mpr fun hbad => ?_
    have hbad' := refused_ecmul.mp hbad
    rw [EcmulRefused, hpoint] at hbad'
    omega
  rw [words_ecmul, curve_callRun (by decide), hgood, hpoint, onCurve_g384]
  refine ⟨rfl, fun hq => ?_⟩
  rw [hq]
  rfl

theorem length_words_ecmul : (callRun s 0x10 a).words.length = 24 := by
  rw [words_ecmul]
  split
  · exact List.length_replicate
  · exact length_pointWords ..

/-- What ECADD refuses for its inputs: the four coordinates. -/
theorem refused_ecadd : (bnCurve s (bnLatch s.bn 0x11 a) 0x11).refused = true ↔
    ∃ i ∈ [a.src0.toNat, a.src0.toNat + 12, a.src1.toNat, a.src1.toNat + 12], p384 ≤ bnVal s.bn i 12 := by
  simp only [bnCurve, bnPoint, latch, decide_eq_true_eq, List.exists_mem_cons_iff, List.not_mem_nil, false_and, exists_false, or_false]

theorem words_ecadd : (callRun s 0x11 a).words = (if (bnCurve s (bnLatch s.bn 0x11 a) 0x11).refused then List.replicate 24 0
    else pointWords s (onCurve (bnPoint s.bn a.src0.toNat) && onCurve (bnPoint s.bn a.src1.toNat)) (ecAddPt (some (bnPoint s.bn a.src0.toNat)) (some (bnPoint s.bn a.src1.toNat)))) := by
  rw [curve_callRun (by decide)]
  simp only [bnCurve, latch]

/-- What SIGN_S refuses for its inputs. -/
def SignRefused (m d k r k1 : Nat) : Prop := m ≤ k ∨ m ≤ r ∨ m ≤ k1 ∨ m ≤ d ∨ r < 2 ∨ k1 < 2

section
variable {m d k r k1 : Nat} (hm : m = bnVal s.bn a.modu.toNat 12) (hd : d = bnVal s.bn (a.modu.toNat + 12) 12) (hk : k = bnVal s.bn a.src0.toNat 12)
  (hr : r = bnVal s.bn a.src1.toNat 12) (hk1 : k1 = bnVal s.bn a.src2.toNat 12)
include hm hd hk hr hk1

theorem refused_signS : (bnCurve s (bnLatch s.bn 0x12 a) 0x12).refused = true ↔ SignRefused m d k r k1 := by
  simp only [bnCurve, SignRefused, latch, ← hm, ← hd, ← hk, ← hr, ← hk1, decide_eq_true_eq]

theorem outcome_signS : (callRun s 0x12 a).words = (if (bnCurve s (bnLatch s.bn 0x12 a) 0x12).refused then List.replicate 12 0 else bnOf 12 (k1 * (k + r * d) % m)) ∧
    (callRun s 0x12 a).flag = (!(bnCurve s (bnLatch s.bn 0x12 a) 0x12).refused && decide (k1 * (k + r * d) % m = 0)) ∧ (callRun s 0x12 a).marks = false := by
  rw [curve_callRun (by decide)]
  simp only [bnCurve, latch, ← hm, ← hd, ← hk, ← hr, ← hk1, Nat.mul_mod_mod, beq_eq_decide, and_self]

theorem signS_of_refused (h : SignRefused m d k r k1) :
    (callRun s 0x12 a).result = 1 ∧ (callRun s 0x12 a).words = List.replicate 12 0 ∧ (callRun s 0x12 a).flag = false := by
  obtain ⟨hwords, hflag, -⟩ := outcome_signS hm hd hk hr hk1
  rw [hwords, hflag, curve_callRun (by decide), (refused_signS hm hd hk hr hk1).mpr h]
  exact ⟨rfl, rfl, rfl⟩

theorem signS_of_good (h : ¬SignRefused m d k r k1) :
    (callRun s 0x12 a).result = 0 ∧ (callRun s 0x12 a).words = bnOf 12 (k1 * (k + r * d) % m) ∧ (callRun s 0x12 a).flag = decide (k1 * (k + r * d) % m = 0) := by
  obtain ⟨hwords, hflag, -⟩ := outcome_signS hm hd hk hr hk1
  rw [hwords, hflag, curve_callRun (by decide), Bool.eq_false_iff.mpr (mt (refused_signS hm hd hk hr hk1).mp h)]
  exact ⟨rfl, rfl, Bool.true_and _⟩

end
end

theorem bnFits_prefix {first n k align : Nat} (hk : k ≤ n) (h : bnFits first n align = true) : bnFits first k align = true := by
  simp only [bnFits, Bool.and_eq_true, decide_eq_true_eq] at h ⊢
  exact ⟨h.1, by omega⟩

section
variable {s : State} {a : BnArgs} (hidle : s.bn.run = none) (hclean : s.bn.wiping = false) (hsize : a.size = 1)
include hidle hclean hsize

theorem ecmul_runs (hdst : bnFits a.dst.toNat 24 2 = true) (hscalar : bnFits a.src0.toNat 12 2 = true) (hpoint : a.gen = true ∨ bnFits a.src1.toNat 24 2 = true) :
    ∃ t, exec (.ecmul a) s = .next t ∧ t.bn.run = some (callRun s 0x10 a) := by
  have hgood : bnCallBad s (bnLatch s.bn 0x10 a) 0x10 = false := by
    rw [bnCallBad_ecmul hsize, hdst, hscalar, (Bool.or_eq_true ..).mpr hpoint]
    rfl
  obtain ⟨t, hnext, hrun, -⟩ := call_runs hidle hclean hgood
  exact ⟨t, hnext, hrun⟩

theorem ecadd_runs (hdst : bnFits a.dst.toNat 24 2 = true) (hfirst : bnFits a.src0.toNat 24 2 = true) (hsecond : bnFits a.src1.toNat 24 2 = true) :
    ∃ t, exec (.ecadd a) s = .next t ∧ t.bn.run = some (callRun s 0x11 a) := by
  have hgood : bnCallBad s (bnLatch s.bn 0x11 a) 0x11 = false := by
    rw [bnCallBad_ecadd hsize, hdst, hfirst, hsecond]
    rfl
  obtain ⟨t, hnext, hrun, -⟩ := call_runs hidle hclean hgood
  exact ⟨t, hnext, hrun⟩

theorem signS_runs (hdst : bnFits a.dst.toNat 12 2 = true) (h0 : bnFits a.src0.toNat 12 2 = true) (h1 : bnFits a.src1.toNat 12 2 = true) (h2 : bnFits a.src2.toNat 12 2 = true)
    (hmodu : bnFits a.modu.toNat 24 2 = true) (htop : nbit (bnVal s.bn a.modu.toNat 12) 383 = true) (hodd : bnVal s.bn a.modu.toNat 12 % 2 = 1) :
    ∃ t, exec (.signS a) s = .next t ∧ t.bn.run = some (callRun s 0x12 a) := by
  have hgood : bnCallBad s (bnLatch s.bn 0x12 a) 0x12 = false := by
    rw [bnCallBad_signS hsize, hdst, h0, h1, h2, hmodu, bnFits_prefix (by decide) hmodu, htop, hodd]
    rfl
  obtain ⟨t, hnext, hrun, -⟩ := call_runs hidle hclean hgood
  exact ⟨t, hnext, hrun⟩

theorem ecmul_base_next (hgen : a.gen = true) (hdst : bnFits a.dst.toNat 24 2 = true) (hscalar : bnFits a.src0.toNat 12 2 = true) :
    ∃ (t : State) (r : BnRun), exec (.ecmul a) s = .next t ∧ t.bn.run = some r ∧ r.cycles = 1100164 ∧ r.marks = false ∧ r.words.length = 24 ∧
      (2 ≤ bnVal s.bn a.src0.toNat 12 → bnVal s.bn a.src0.toNat 12 < n384 → r.result = 0 ∧
        ∀ q, ecMulPt (bnVal s.bn a.src0.toNat 12) g384 = some q → r.words = bnOf 12 q.1 ++ bnOf 12 q.2) ∧
      ((bnVal s.bn a.src0.toNat 12 < 2 ∨ n384 ≤ bnVal s.bn a.src0.toNat 12) → r.result = 1 ∧ r.words = List.replicate 24 0) := by
  obtain ⟨t, hnext, hrun⟩ := ecmul_runs hidle hclean hsize hdst hscalar (.inl hgen)
  have hmarks : (callRun s 0x10 a).marks = false := by
    change (!a.gen && _) = false
    rw [hgen]
    rfl
  refine ⟨t, _, hnext, hrun, cycles_callRun hsize (by decide), hmarks, length_words_ecmul, fun hlo hhi => ?_, fun hout => ?_⟩
  · exact ⟨(ecmul_base (q := g384) hgen hlo hhi).1, fun q => (ecmul_base hgen hlo hhi).2⟩
  · exact ecmul_of_refused (hout.imp_right .inl)

theorem ecmul_point_next (hgen : a.gen = false) (hdst : bnFits a.dst.toNat 24 2 = true) (hscalar : bnFits a.src0.toNat 12 2 = true) (hpoint : bnFits a.src1.toNat 24 2 = true) :
    ∃ (t : State) (r : BnRun), exec (.ecmul a) s = .next t ∧ t.bn.run = some r ∧ r.marks = (bnMarked s.bn a.src0.toNat 12 || bnMarked s.bn a.src1.toNat 24) ∧
      ((bnVal s.bn a.src0.toNat 12 < 2 ∨ n384 ≤ bnVal s.bn a.src0.toNat 12 ∨ p384 ≤ bnVal s.bn a.src1.toNat 12 ∨ p384 ≤ bnVal s.bn (a.src1.toNat + 12) 12) →
        r.result = 1 ∧ r.words = List.replicate 24 0) := by
  obtain ⟨t, hnext, hrun⟩ := ecmul_runs hidle hclean hsize hdst hscalar (.inr hpoint)
  have hmarks : (callRun s 0x10 a).marks = (bnMarked s.bn a.src0.toNat 12 || bnMarked s.bn a.src1.toNat 24) := by
    change (!a.gen && _) = _
    rw [hgen]
    rfl
  have hpt : ecmulPoint s a = bnPoint s.bn a.src1.toNat := if_neg (by rw [hgen]; exact Bool.false_ne_true)
  refine ⟨t, _, hnext, hrun, hmarks, fun hout => ecmul_of_refused ?_⟩
  rw [EcmulRefused, hpt]
  exact hout

theorem ecadd_next (hdst : bnFits a.dst.toNat 24 2 = true) (hfirst : bnFits a.src0.toNat 24 2 = true) (hsecond : bnFits a.src1.toNat 24 2 = true) :
    ∃ (t : State) (r : BnRun), exec (.ecadd a) s = .next t ∧ t.bn.run = some r ∧ r.cycles = 69092 ∧
      ((∃ i ∈ [a.src0.toNat, a.src0.toNat + 12, a.src1.toNat, a.src1.toNat + 12], p384 ≤ bnVal s.bn i 12) → r.result = 1 ∧ r.words = List.replicate 24 0) ∧
      ((∀ i ∈ [a.src0.toNat, a.src0.toNat + 12, a.src1.toNat, a.src1.toNat + 12], bnVal s.bn i 12 < p384) → r.result = 0) := by
  obtain ⟨t, hnext, hrun⟩ := ecadd_runs hidle hclean hsize hdst hfirst hsecond
  refine ⟨t, _, hnext, hrun, cycles_callRun hsize (by decide), fun hout => ?_, fun hin => ?_⟩
  · have hbad := (refused_ecadd (s := s) (a := a)).mpr hout
    rw [words_ecadd, curve_callRun (by decide), hbad]
    exact ⟨rfl, rfl⟩
  · have hgood : (bnCurve s (bnLatch s.bn 0x11 a) 0x11).refused = false := by
      refine Bool.eq_false_iff.mpr fun hbad => ?_
      obtain ⟨i, hi, hout⟩ := refused_ecadd.mp hbad
      exact absurd (hin i hi) (Nat.not_lt.mpr hout)
    rw [curve_callRun (by decide), hgood]
    rfl

end

/-- Settles O57: each call is accepted or refused, and an accepted one begins its run. -/
theorem keyAndCurveCommands : Obligations.KeyAndCurveCommands := by
  intro s a n hidle hclean
  refine ⟨fun hsize hn => ⟨fun hfits hcave => ⟨keyload_runs hidle hclean hsize hn hfits hcave, keyload_notOwner hidle hclean hsize hn⟩, keyload_notAdmitted hidle hclean hsize hn,
      randload_runs hidle hclean hsize hn, randload_stopped hidle hclean hsize hn, keystore_runs hidle hclean hsize hn⟩, ?_, ecadd_next hidle hclean, ?_⟩
  · intro k hsize hk hdst hscalar
    rw [hk]
    exact ⟨fun hgen => ecmul_base_next hidle hclean hsize hgen hdst hscalar, fun hgen => ecmul_point_next hidle hclean hsize hgen hdst hscalar⟩
  · intro m d k r k1 hsize hm hd hk hr hk1 hdst h0 h1 h2 hmodu htop hodd
    obtain ⟨t, hnext, hrun⟩ := signS_runs hidle hclean hsize hdst h0 h1 h2 hmodu (hm ▸ htop) (hm ▸ hodd)
    obtain ⟨-, -, hmarks⟩ := outcome_signS hm hd hk hr hk1
    refine ⟨t, _, hnext, hrun, cycles_callRun hsize (by decide), hmarks, fun hkm hdm hr2 hrm hk2 hk1m => ?_, fun hlow => ?_⟩
    · exact signS_of_good hm hd hk hr hk1 (by unfold SignRefused; omega)
    · exact signS_of_refused hm hd hk hr hk1 (by unfold SignRefused; omega)

end Sys2Proof.Machine
end

section
/-! What the Rind's writing leaves of the state: everything but the reliability block, the frames of the fabric and the draws of free values. -/

namespace Sys2Proof.Machine

/-- The state but for the reliability block, the frames of the fabric and the count of free values. -/
def besideRind (s : State) : State := { s with rel := {}, fab.ports := [], fab.heldFrames := [], freeNo := 0 }

theorem besideRind_of_beyondLinks {s t : State} (h : beyondLinks t = beyondLinks s) : besideRind t = besideRind s := (congrArg besideRind h :)

@[simp] theorem besideRind_sendFrame (s : State) (fr : Frame) (from_ : Option Nat) : besideRind (sendFrame s fr from_) = besideRind s :=
  besideRind_of_beyondLinks (beyondLinks_sendFrame ..)

theorem besideRind_of_openSegment {s t : State} {i : Nat} (h : openSegment s = some (t, i)) : besideRind t = besideRind s := by
  unfold openSegment at h
  dsimp only at h
  split at h
  · cases h
  · cases h
    rfl

theorem besideRind_of_roomSegment {s t : State} {i : Nat} (h : roomSegment s = some (t, i)) : besideRind t = besideRind s := by
  unfold roomSegment at h
  split at h
  · split at h
    · cases h
      rfl
    · exact besideRind_of_openSegment h
  · exact besideRind_of_openSegment h

theorem besideRind_closeGroup (s : State) (i : Nat) : besideRind (closeGroup s i) = besideRind s := by
  unfold closeGroup
  extract_lets es last prev no chain first ok keys g0 sign g s1 payload
  split
  · rfl
  · split
    · rfl
    · exact besideRind_sendFrame ..

theorem besideRind_appendEntry_getD {s u : State} (e : RindEntry) (hu : besideRind u = besideRind s) : besideRind ((appendEntry s e).getD u) = besideRind s := by
  cases happend : appendEntry s e with
  | none => exact hu
  | some t =>
    unfold appendEntry at happend
    split at happend
    · cases happend
    · next hroom =>
      cases happend
      have hsame := besideRind_of_roomSegment hroom
      exact (besideRind_closeGroup ..).trans hsame

theorem besideRind_eraseDoomed (s : State) : besideRind (eraseDoomed s) = besideRind s := by
  unfold eraseDoomed
  dsimp only
  split <;> rfl

theorem besideRind_compactOne (s : State) : besideRind (compactOne s) = besideRind s := by
  unfold compactOne
  split
  · rfl
  · exact (besideRind_appendEntry_getD _ rfl).trans (view_foldl besideRind (fun _ _ => besideRind_appendEntry_getD _ rfl) _ _)

theorem besideRind_rindStatus (s : State) : besideRind (rindStatus s) = besideRind s := rfl

theorem besideRind_rindWrite (s : State) : besideRind (rindWrite s) = besideRind s := by
  unfold rindWrite
  extract_lets s0
  have h0 : besideRind s0 = besideRind s := by
    unfold s0
    split
    · exact (besideRind_compactOne ..).trans (besideRind_eraseDoomed s)
    · exact besideRind_eraseDoomed s
  split
  · exact h0
  · extract_lets s1
    rw [besideRind_rindStatus]
    split
    · exact h0
    · exact (besideRind_appendEntry_getD (s := s1) (u := dropEntry s1) _ rfl).trans h0

theorem besideRind_rindFlush (s : State) : besideRind (rindFlush s) = besideRind s := by
  unfold rindFlush
  split
  · exact view_foldl besideRind (fun _ _ => besideRind_rindWrite _) _ _
  · rfl

end Sys2Proof.Machine
end

section
/-! The boot and keys family (11_rennet_boot_and_keys.md): resets by Rennet and at power-on, the watchdog, parity, and the health of the entropy source. -/

namespace Sys2Proof.Machine

/-! ### Failures that end in a reset (R455, R457, R459) -/

theorem crp_rindFlush (s : State) : (rindFlush s).crp = s.crp := (congrArg State.crp (besideRind_rindFlush s) :)

/-- What a reset that Rennet causes leaves of the clock block and of Rennet: the cause, the counts and what NOR holds. -/
theorem rennetReset_leaves (s : State) (cause : BitVec 4) : (rennetReset s cause).crp = crpHeld s.crp cause ∧
    (rennetReset s cause).rennet = { consec := s.rennet.consec, total := s.rennet.total, nor := s.rennet.nor, refTs := (rindFlush s).ts } := by
  have hrennet := rennet_of_vault (vault_rindFlush s)
  refine ⟨congrArg (crpHeld · cause) (crp_rindFlush s), ?_⟩
  rw [← hrennet]
  rfl

/-- A failure records its cause, is counted, and its flag stands after the reset. -/
theorem rennetFail_leaves (s : State) (cause : BitVec 4) (bit : Nat) :
    (rennetFail s cause bit).crp.cause = cause ∧ (rennetFail s cause bit).crp.count = satInc s.crp.count ∧ (rennetFail s cause bit).rennet.total = satInc s.rennet.total ∧
      (rennetFail s cause bit).rennet.consec = (if s.rennet.consec = 3 then 3 else s.rennet.consec + 1) ∧ (rennetFail s cause bit).rennet.events = raiseEv {} bit ∧
      (rennetFail s cause bit).rennet.halted = false := by
  obtain ⟨hcrp, hrennet⟩ := rennetReset_leaves
    { s with rennet.consec := if s.rennet.consec = 3 then 3 else s.rennet.consec + 1, rennet.total := satInc s.rennet.total } cause
  unfold rennetFail
  dsimp only [rntEvent]
  rw [hcrp, hrennet]
  exact ⟨rfl, rfl, rfl, rfl, rfl, rfl⟩

section
variable {s : State}

theorem watchdogExpire_fails {flow : Bool} (hon : s.crp.rnt.on = true) (hruns : s.rennet.stopped = false)
    (hdue : flow = true ∨ s.rennet.wdogAt.toNat + 100000000 ≤ s.ts.toNat) :
    ∃ t, exec (.watchdogExpire flow) s = .next t ∧ t.crp.cause = (if flow then 3 else 1) ∧ t.crp.count = satInc s.crp.count ∧ t.rennet.total = satInc s.rennet.total ∧
      t.rennet.consec = (if s.rennet.consec = 3 then 3 else s.rennet.consec + 1) ∧ t.rennet.events.flags = 8 := by
  have hlive : ¬((!s.crp.rnt.on) = true ∨ s.rennet.stopped = true) := by simp [hon, hruns]
  cases flow with
  | true =>
    obtain ⟨hcause, hcount, htotal, hconsec, hevents, -⟩ := rennetFail_leaves { s with ports.faultO := true } 3 3
    exact ⟨_, ends_kept ((if_neg hlive).trans (if_pos rfl)), hcause, hcount, htotal, hconsec, congrArg EventReg.flags hevents⟩
  | false =>
    have hlate : ¬s.ts.toNat < s.rennet.wdogAt.toNat + wdogPeriod := Nat.not_lt.mpr (hdue.resolve_left Bool.false_ne_true)
    obtain ⟨hcause, hcount, htotal, hconsec, hevents, -⟩ := rennetFail_leaves s 1 3
    exact ⟨_, ends_kept ((if_neg hlive).trans ((if_neg Bool.false_ne_true).trans (if_neg hlate))), hcause, hcount, htotal, hconsec, congrArg EventReg.flags hevents⟩

theorem watchdogExpire_idle {flow : Bool} (h : s.crp.rnt.on = false ∨ (flow = false ∧ s.ts.toNat < s.rennet.wdogAt.toNat + 100000000)) :
    exec (.watchdogExpire flow) s = .next s := by
  refine ends_of_eq ?_ rfl rfl
  unfold watchdogExpire
  obtain hoff | ⟨rfl, hearly⟩ := h
  · exact if_pos (.inl (by rw [hoff]; rfl))
  · split
    · rfl
    · exact (if_neg Bool.false_ne_true).trans (if_pos hearly)

theorem rennetParity_fails (hon : s.crp.rnt.on = true) :
    ∃ t, exec .rennetParity s = .next t ∧ t.crp.cause = 2 ∧ t.rennet.total = satInc s.rennet.total ∧ t.rennet.events.flags = 4 ∧ t.rennet.halted = false := by
  obtain ⟨hcause, -, htotal, -, hevents, hhalted⟩ := rennetFail_leaves { s with rennet.halted := true } 2 2
  exact ⟨_, ends_kept (if_neg (by simp [hon])), hcause, htotal, congrArg EventReg.flags hevents, hhalted⟩

/-! ### Health tests, reseeding and brining (R467, R468, R483) -/

theorem entropyTestFail_next (hon : s.crp.rnt.on = true) (hgood : s.rennet.entropyFail = false) :
    ∃ t, exec .entropyTestFail s = .next t ∧ t.rennet.entropyFail = true ∧ t.rennet.drbgOn = false ∧ t.rennet.healthFails = 3 ∧ t.rennet.events = raiseEv s.rennet.events 1 := by
  have hrennet := rennet_of_vault (vault_report { rntEvent s 1 with rennet.entropyFail := true, rennet.drbgOn := false, rennet.healthFails := 3 } 0x0802 (initId 1 0) 64)
  exact ⟨_, ends_kept (if_neg (by simp [hon, hgood])), (congrArg Rennet.entropyFail hrennet :), (congrArg Rennet.drbgOn hrennet :),
    (congrArg Rennet.healthFails hrennet :), (congrArg Rennet.events hrennet :)⟩

theorem entropyTestFail_again (hfailed : s.rennet.entropyFail = true) : exec .entropyTestFail s = .next s := ends_of_eq (if_pos (.inr hfailed)) rfl rfl

theorem drbgReseed_due (hon : s.rennet.drbgOn = true) (hdue : 65536 ≤ s.rennet.drbgSince ∨ s.rennet.reseedAt.toNat + 1000000000 ≤ s.ts.toNat) :
    exec .drbgReseed s = .next { s with rennet.drbgSince := 0, rennet.reseedAt := s.ts } := ends_of_eq (if_pos ⟨hon, hdue⟩) rfl rfl

theorem drbgReseed_early (h : s.rennet.drbgOn = false ∨ (s.rennet.drbgSince < 65536 ∧ s.ts.toNat < s.rennet.reseedAt.toNat + 1000000000)) : exec .drbgReseed s = .next s := by
  refine ends_of_eq (if_neg ?_) rfl rfl
  rintro ⟨hon, hdue⟩
  obtain hoff | ⟨hfew, hrecent⟩ := h
  · rw [hoff] at hon
    exact Bool.false_ne_true hon
  · omega

/-- A table made over a list of indices reads at each of them what was made for it. -/
theorem tget_map_index {α : Type} (d : α) (f : Nat → α) {l : List Nat} {i : Nat} (h : i ∈ l) : tget d (l.map (fun k => (k, f k))) i = f i := by
  induction l with
  | nil => cases h
  | cons k l ih =>
    rw [List.map_cons, tget]
    split
    · next heq => rw [heq]
    · next hne => exact ih ((List.mem_cons.mp h).resolve_left (Ne.symm hne))

theorem briningTick_due (hon : s.crp.rnt.on = true) (hdrbg : s.rennet.drbgOn = true) (hs : s.spr.pstate ≠ .s) (ho : s.spr.pstate ≠ .o)
    (hdue : s.rennet.brineAt.toNat + s.rennet.brine.toNat * 1000 ≤ s.ts.toNat) :
    ∃ t, exec .briningTick s = .next t ∧ t.rennet.cave = s.rennet.cave ∧ t.rennet.drbgN = s.rennet.drbgN + 64 ∧
      (∀ i, i < 64 → tget [] t.rennet.masks i = padTo 64 (Config.drbg (s.rennet.drbgN + i) 64)) := by
  refine ⟨_, ends_kept (if_neg (by simp [hon, hdrbg, hs, ho, hdue])), rfl, rfl, fun i hi => ?_⟩
  exact tget_map_index [] (fun k => padTo 64 (Config.drbg (s.rennet.drbgN + k) 64)) (List.mem_range.mpr hi)

theorem briningTick_early (h : s.rennet.drbgOn = false ∨ s.ts.toNat < s.rennet.brineAt.toNat + s.rennet.brine.toNat * 1000) : exec .briningTick s = .next s := by
  refine ends_of_eq (if_pos ?_) rfl rfl
  obtain hoff | hearly := h
  · simp [hoff]
  · simp [hearly]

/-! ### Resets (R668 to R670) -/

theorem instanceReset_next (cause : BitVec 4) : ∃ t, exec (.instanceReset cause) s = .next t ∧ t.crp.cause = cause ∧ t.crp.count = satInc s.crp.count ∧ t.crp.events = { flags := 4 } ∧
    t.parts = [] ∧ t.graphs = [] ∧ t.streams = [] ∧ t.mbxs = [] ∧ t.att = {} ∧ t.cad = { tsLatch := s.cad.tsLatch } ∧ t.rennet.step = 0 ∧ t.rennet.cave = [] ∧
    t.rennet.nor = s.rennet.nor ∧ t.rennet.consec = s.rennet.consec ∧ t.otp.cells = s.otp.cells ∧ t.mem.t3 = s.mem.t3 ∧ t.mem.t4 = s.mem.t4 ∧ t.mem.maps = [] ∧
    t.rel.segs = s.rel.segs ∧ t.rel.mgmtQ = s.rel.mgmtQ ∧ t.pwr.trips = s.pwr.trips ∧ t.ts = s.ts ∧ t.pending = s.pending :=
  ⟨kept s (instanceReset s cause), rfl, rfl, rfl, rfl, rfl, rfl, rfl, rfl, rfl, rfl, rfl, rfl, rfl, rfl, rfl, rfl, rfl, rfl, rfl, rfl, rfl, rfl, rfl⟩

/-- Without a torn write the Rind's segments are as they were. -/
theorem tornSegs_whole (s : State) : tornSegs s false = (s.rel.segs, s.rel.nextSeq) := by
  unfold tornSegs
  split
  · rfl
  · rfl

theorem powerOnReset_next (i : StartInputs) : ∃ t, exec (.powerOnReset i) s = .next t ∧ t.ts = 0 ∧ t.parts = [] ∧ t.graphs = [] ∧ t.crp = {} ∧ t.cores = [] ∧
    t.rennet = { nor := s.rennet.nor } ∧ t.otp.cells = s.otp.cells ∧ t.mem.t4 = s.mem.t4 ∧ t.mem.t3 = (if i.dramKept then s.mem.t3 else []) ∧
    (i.rindTorn = false → t.rel.segs = s.rel.segs) ∧ t.chip.strapMg = i.strapMg ∧ t.chip.strapPmb = i.strapPmb := by
  refine ⟨kept s (powerOnReset s i), rfl, rfl, rfl, rfl, rfl, rfl, rfl, rfl, rfl, rfl, fun hwhole => ?_, rfl, rfl⟩
  change (tornSegs s i.rindTorn).1 = _
  rw [hwhole, tornSegs_whole]

end

/-- Settles O52: each reset with what it clears and keeps, and each check of health with what it is due at. -/
theorem resetsAndHealth : Obligations.ResetsAndHealth := fun _ =>
  ⟨instanceReset_next, fun _ => watchdogExpire_fails, fun _ => watchdogExpire_idle, rennetParity_fails, fun hoff => ends_of_eq (if_pos (by simp [hoff])) rfl rfl, powerOnReset_next,
    entropyTestFail_next, entropyTestFail_again, drbgReseed_due, drbgReseed_early, briningTick_due, briningTick_early⟩

end Sys2Proof.Machine
end

section
/-! The boot and keys family (11_rennet_boot_and_keys.md): image transfers, and the mailbox messages that read and store. -/

namespace Sys2Proof.Machine

/-! ### Answers to messages (R423, R478) -/

/-- A message leaves the count of free values. -/
theorem freeNo_mbxEvent (s : State) (m bit : Nat) : (mbxEvent s m bit).freeNo = s.freeNo := by
  obtain ⟨parts, ports, hframe⟩ := mbxEvent_frame s m bit
  rw [hframe]
  rfl

@[simp] theorem freeNo_mailReply (s : State) (m : Nat) (status : W16) (results : List W32) : (mailReply s m status results).freeNo = s.freeNo := by
  unfold mailReply mbxDeliver
  dsimp only
  split
  · split
    · rfl
    · rw [freeNo_mbxEvent, freeNo_mbxEvent]
      rfl
  · rfl

@[simp] theorem rennet_mailReply (s : State) (m : Nat) (status : W16) (results : List W32) : (mailReply s m status results).rennet = s.rennet := rennet_of_vault (vault_mailReply ..)

/-- The eight words of an answer: the message's code, the status and the results. -/
def answerWords (s : State) (m : Nat) (status : W16) (results : List W32) : List W32 :=
  (((s.mbx m).out.headD 0 &&& 0x00FFFFFF) :: status.setWidth 32 :: results ++ List.replicate 6 0).take 8

section
variable {s : State} {m : Nat} (status : W16) (results : List W32)

theorem mbx_mbxEvent_same (s : State) (m bit : Nat) : (mbxEvent s m bit).mbx m = { s.mbx m with events := raiseEv (s.mbx m).events bit } := by
  obtain ⟨parts, ports, hframe⟩ := mbxEvent_frame s m bit
  rw [hframe]
  exact (mbx_modMbx_same s m (fun x => { x with events := raiseEv x.events bit }) :)

theorem mbx_mbxEvent_other (s : State) {m n : Nat} (bit : Nat) (h : n ≠ m) : (mbxEvent s m bit).mbx n = s.mbx n := by
  obtain ⟨parts, ports, hframe⟩ := mbxEvent_frame s m bit
  rw [hframe]
  exact (mbx_modMbx_other s (fun x => { x with events := raiseEv x.events bit }) h :)

/-- A mailbox whose answer has been delivered. -/
def answeredMbx (x : Mbx) (ws : List W32) : Mbx := { x with inn := ws, inValid := true, inSender := initId 1 0, reply := none, outFull := false, timeout := false, served := false }

/-- An answer to an empty inbound slot is delivered, and frees the outbound slot. -/
theorem mailReply_of_free (hfree : (s.mbx m).inValid = false) : mailReply s m status results =
    mbxEvent (mbxEvent (s.modMbx m (fun x => answeredMbx x (answerWords s m status results))) m 0) m 2 := by
  unfold mailReply mbxDeliver
  simp only [mbx_modMbx_same, hfree, Bool.false_eq_true, if_false, modMbx_modMbx]
  rfl

/-- An answer to a full inbound slot waits in the mailbox. -/
theorem mailReply_of_full (hfull : (s.mbx m).inValid = true) :
    mailReply s m status results = s.modMbx m (fun x => { x with reply := some (answerWords s m status results), served := true }) := by
  unfold mailReply mbxDeliver
  simp only [mbx_modMbx_same, hfull, if_true]
  rfl

end

/-! ### Messages that read (R478, R486, R597) -/

section
variable {s : State} {m : MbxId}

/-- The results of IDENTITY: the serial number, the life cycle with the boot state, and the boot counter. -/
def identityWords (s : State) : List W32 :=
  (List.range 4).map (fun i => BitVec.ofNat 32 (s.otp.serial.toNat >>> (32 * i))) ++ [BitVec.ofNat 32 (s.otp.lc.toNat + 16 * bootCode s.rennet.boot), s.otp.bootCtr]

theorem exec_identity (hserves : Serves s m 0x0001) : exec (.identity m) s = .next (kept s (mailReply (serving s) m.val 0 (identityWords s))) := by
  have hwords : (List.range 4).map (wordOf s.otp.serial.toNat) = (List.range 4).map (fun i => BitVec.ofNat 32 (s.otp.serial.toNat >>> (32 * i))) :=
    List.map_congr_left fun i _ => by rw [wordOf, Nat.shiftRight_eq_div_pow]
  refine ends_kept (mailServe_answered hserves ?_ rfl)
  rw [identityWords, ← hwords]
  rfl

theorem identity_delivered (hserves : Serves s m 0x0001) (hfree : (s.mbx m.val).inValid = false) : ∃ t, exec (.identity m) s = .next t ∧
    (t.mbx m.val).inn = ((s.mbx m.val).out.headD 0 &&& 0x00FFFFFF) :: 0 :: (List.range 4).map (fun i => BitVec.ofNat 32 (s.otp.serial.toNat >>> (32 * i))) ++
      [BitVec.ofNat 32 (s.otp.lc.toNat + 16 * bootCode s.rennet.boot), s.otp.bootCtr] ∧
    (t.mbx m.val).inValid = true ∧ (t.mbx m.val).outFull = false ∧ (t.mbx m.val).inSender = initId 1 0 ∧ t.rennet = { s.rennet with wdogAt := s.ts } ∧ t.otp = s.otp ∧
    (∀ n, n ≠ m.val → t.mbx n = s.mbx n) := by
  have hvault := vault_mailReply (serving s) m.val 0 (identityWords s)
  have hmbx : (mailReply (serving s) m.val 0 (identityWords s)).mbx m.val =
      { answeredMbx (s.mbx m.val) (answerWords (serving s) m.val 0 (identityWords s)) with events := raiseEv (raiseEv (s.mbx m.val).events 0) 2 } := by
    rw [mailReply_of_free (s := serving s) 0 (identityWords s) hfree, mbx_mbxEvent_same, mbx_mbxEvent_same, mbx_modMbx_same]
    rfl
  have hother (n : Nat) (hn : n ≠ m.val) : (mailReply (serving s) m.val 0 (identityWords s)).mbx n = s.mbx n := by
    rw [mailReply_of_free (s := serving s) 0 (identityWords s) hfree, mbx_mbxEvent_other _ _ hn, mbx_mbxEvent_other _ _ hn, mbx_modMbx_other _ _ hn]
    rfl
  exact ⟨_, exec_identity hserves, (congrArg Mbx.inn hmbx :), (congrArg Mbx.inValid hmbx :), (congrArg Mbx.outFull hmbx :), (congrArg Mbx.inSender hmbx :),
    (rennet_of_vault hvault :), (otp_of_vault hvault :), hother⟩

theorem identity_waits (hserves : Serves s m 0x0001) (hfull : (s.mbx m.val).inValid = true) :
    ∃ t, exec (.identity m) s = .next t ∧ (t.mbx m.val).inn = (s.mbx m.val).inn ∧ (t.mbx m.val).outFull = true ∧ (t.mbx m.val).served = true ∧ (t.mbx m.val).reply ≠ none := by
  have hmbx : (mailReply (serving s) m.val 0 (identityWords s)).mbx m.val = { s.mbx m.val with reply := some (answerWords (serving s) m.val 0 (identityWords s)), served := true } := by
    rw [mailReply_of_full (s := serving s) 0 (identityWords s) hfull, mbx_modMbx_same]
    rfl
  refine ⟨_, exec_identity hserves, (congrArg Mbx.inn hmbx :), (congrArg Mbx.outFull hmbx :).trans hserves.1, (congrArg Mbx.served hmbx :), ?_⟩
  rw [show ((kept s (mailReply (serving s) m.val 0 (identityWords s))).mbx m.val).reply = _ from congrArg Mbx.reply hmbx]
  nofun

theorem bootStatus_next (hserves : Serves s m 0x0002) :
    exec (.bootStatus m) s = .next (kept s (mailReply (serving s) m.val 0 ((List.range 5).map (fun i => readRnt s (0x2000 + 4 * i))))) :=
  ends_kept (mailServe_answered hserves rfl rfl)

theorem rindInfo_next (hserves : Serves s m 0x0030) (hmay : mayReadRind s m.val = true) :
    exec (.rindInfo m) s = .next (kept s (mailReply (serving s) m.val 0 [s.rel.oldestSeq, s.rel.headSeq, BitVec.ofNat 32 (openSegs s), s.rel.group, s.rel.rindDropped])) :=
  ends_kept (mailServe_answered hserves (if_neg (by rw [show mayReadRind (serving s) m.val = true from hmay]; decide)) rfl)

theorem rindInfo_refused (hserves : Serves s m 0x0030) (hmay : mayReadRind s m.val = false) :
    exec (.rindInfo m) s = .next (kept s (mailReply (serving s) m.val 0x0101 [])) :=
  ends_kept (mailServe_answered hserves (if_pos (by rw [show mayReadRind (serving s) m.val = false from hmay]; rfl)) rfl)

theorem rindRead_next {e : RindEntry} (hserves : Serves s m 0x0031) (hmay : mayReadRind s m.val = true)
    (hfind : (rindEntries s).find? (fun x => x.seq == (mailWords s m).getD 0 0) = some e) (hpart : ((mailWords s m).getD 1 0).toNat ≤ 1) :
    exec (.rindRead m) s = .next (kept s (mailReply (serving s) m.val 0 (wordsOf (slice (entryBytes e) (24 * ((mailWords s m).getD 1 0).toNat) 24)))) := by
  refine ends_kept (mailServe_answered hserves ((if_neg (by rw [show mayReadRind (serving s) m.val = true from hmay]; decide)).trans ?_) rfl)
  rw [show (rindEntries (serving s)).find? _ = some e from hfind]
  exact (if_neg (by omega)).trans (by rw [if_neg (by omega)]; rfl)

end

/-! ### Image transfers (R478 to R481) -/

section
variable {s : State} {m : MbxId}

/-- A host opens the recovery of a degraded unit that is not scrapped. -/
theorem beginImage_recovery {s : State} {m len : Nat} (hhost : m ≠ 64) (hboot : s.rennet.boot = .degraded) (hlc : s.otp.lc ≠ 4) (hnone : s.rennet.xfer = none)
    (hmin : manifestLen ≤ len) (hmax : len ≤ 2039808) :
    beginImage s m len = ({ s with rennet.xfer := some { holder := m, len := len, lastTs := s.ts }, rennet.boot := .recovery }, stDone) := by
  have hmay : (s.otp.lc != 4) = true := bne_iff_ne.mpr hlc
  have hlen : ¬(len < manifestLen ∨ 2039808 < len) := by omega
  unfold beginImage
  simp only [hnone, hhost, hmay, hboot, hlen, if_false, Bool.false_eq_true, beq_self_eq_true, Bool.true_or, Bool.true_and, Bool.not_true]

theorem imageBegin_next (hhost : m.val ≠ 64) (hserves : Serves s m 0x0010) (hboot : s.rennet.boot = .degraded) (hlc : s.otp.lc ≠ 4) (hnone : s.rennet.xfer = none)
    (hmin : manifestLen ≤ ((mailWords s m).getD 0 0).toNat) (hmax : ((mailWords s m).getD 0 0).toNat ≤ 2039808) :
    exec (.imageBegin m) s = .next (kept s (mailReply { serving s with
      rennet.xfer := some { holder := m.val, len := ((mailWords s m).getD 0 0).toNat, lastTs := s.ts }, rennet.boot := .recovery } m.val 0 [])) := by
  refine ends_kept (mailServe_answered hserves ?_ rfl)
  simp only [beginImage_recovery (s := serving s) hhost hboot hlc hnone hmin hmax]
  rfl

theorem ts_endTransfer (s : State) : (endTransfer s).ts = s.ts := by
  unfold endTransfer
  dsimp only
  split <;> rfl

/-- A transfer that ends without success leaves NOR and the boot state, and shows in a recovery. -/
theorem endTransfer_leaves (s : State) : (endTransfer s).rennet.xfer = none ∧ (endTransfer s).rennet.nor = s.rennet.nor ∧ (endTransfer s).rennet.boot = s.rennet.boot ∧
    (endTransfer s).rennet.noimg = (if s.rennet.boot = .recovery then 4 else s.rennet.noimg) := by
  unfold endTransfer
  dsimp only
  split
  · exact ⟨rfl, rfl, rfl, rfl⟩
  · exact ⟨rfl, rfl, rfl, rfl⟩

section
variable {x : Transfer} (hx : s.rennet.xfer = some x) (hholder : x.holder = m.val)
include hx hholder

/-- A message of the holder of an open transfer has its effect on the transfer. -/
theorem asHolder_open (hopen : x.isEnded = false) (body : Transfer → State × W16 × List W32) : asHolder (serving s) m.val body = body x := by
  unfold asHolder
  rw [show (serving s).rennet.xfer = some x from hx]
  exact if_pos ⟨hholder, by rw [hopen]; rfl⟩

section
variable (hopen : x.isEnded = false)
include hopen

/-- Bytes of the manifest are staged, and NOR is left as it is until all of them are in. -/
theorem imageData_staged (hserves : Serves s m 0x0011) (hoffset : ((mailWords s m).getD 0 0).toNat = x.staged.length) (hmanifest : x.staged.length + 24 < manifestLen)
    (hlen : manifestLen ≤ x.len) :
    ∃ t, exec (.imageData m) s = .next t ∧ t.rennet.xfer = some { x with staged := x.staged ++ mailData (mailWords s m), offset := x.staged.length + 24, lastTs := s.ts } ∧
      t.rennet.nor = s.rennet.nor := by
  have hdata : (mailData (mailWords s m)).length = 24 := by simp [mailData]
  have htake : (mailData (mailWords s m)).take (x.len - x.staged.length) = mailData (mailWords s m) := List.take_of_length_le (by omega)
  have hput : putImage (serving s) x (mailData (mailWords s m)) =
      ({ serving s with rennet.xfer := some { x with staged := x.staged ++ mailData (mailWords s m), offset := x.staged.length + 24, lastTs := s.ts } }, stDone) := by
    unfold putImage
    simp only [htake, List.length_append, hdata]
    exact if_pos hmanifest
  have hexec : exec (.imageData m) s = .next (kept s (mailReply { serving s with
      rennet.xfer := some { x with staged := x.staged ++ mailData (mailWords s m), offset := x.staged.length + 24, lastTs := s.ts } } m.val 0 [])) := by
    refine ends_kept (mailServe_answered hserves ((asHolder_open hx hholder hopen _).trans ((if_neg (by omega)).trans ?_)) rfl)
    simp only [hput]
    rfl
  have hrennet := rennet_mailReply { serving s with
      rennet.xfer := some { x with staged := x.staged ++ mailData (mailWords s m), offset := x.staged.length + 24, lastTs := s.ts } } m.val 0 []
  exact ⟨_, hexec, (congrArg Rennet.xfer hrennet :), (congrArg Rennet.nor hrennet :)⟩

theorem imageData_misplaced (hserves : Serves s m 0x0011) (hoffset : ((mailWords s m).getD 0 0).toNat ≠ x.staged.length) :
    exec (.imageData m) s = .next (kept s (mailReply { serving s with rennet.xfer := some { x with lastTs := s.ts } } m.val 0x0104 [])) :=
  ends_kept (mailServe_answered hserves ((asHolder_open hx hholder hopen _).trans (if_pos (.inl hoffset))) rfl)

/-- The manifest is programmed into NOR alone, and the transfer is over. -/
theorem imageEnd_closes (hserves : Serves s m 0x0012) (hok : x.ok = true) (hwhole : x.staged.length = x.len) (hsects : sectsOk (x.staged.take manifestLen) x.staged = true)
    (hhost : m.val ≠ 64) :
    ∃ t, exec (.imageEnd m) s = .next t ∧ t.rennet.xfer = some { x with isEnded := true } ∧ t.rennet.consec = 0 ∧ t.rennet.boot = s.rennet.boot ∧
      (∀ a, manifestLen ≤ a → mget 0xFF t.rennet.nor a = mget 0xFF s.rennet.nor a) := by
  have hgood : ¬((!x.ok) = true ∨ x.staged.length < x.len ∨ (!sectsOk (x.staged.take manifestLen) x.staged) = true) := by simp [hok, hwhole, hsects]
  have hfinish : finishImage (serving s) x =
      ({ norProgram (serving s) 0 (x.staged.take manifestLen) with rennet.xfer := some { x with isEnded := true }, rennet.consec := 0 }, stDone) := by
    unfold finishImage
    exact (if_neg hgood).trans (if_neg (hholder.trans_ne hhost))
  have hvault := vault_mailServe (fun s _ => asHolder s m.val (fun x => ((finishImage s x).1, (finishImage s x).2, if (finishImage s x).2 = stDone then [BitVec.ofNat 32 x.len] else []))) hserves
  rw [asHolder_open hx hholder hopen, hfinish] at hvault
  have hrennet := rennet_of_vault hvault
  refine ⟨kept s (mailServe s m.val 0x0012 _), rfl, (congrArg Rennet.xfer hrennet :), (congrArg Rennet.consec hrennet :), (congrArg Rennet.boot hrennet :), fun a ha => ?_⟩
  refine (congrArg (fun r : Rennet => mget 0xFF r.nor a) hrennet :).trans (mget_mwrite_outside _ _ _ _ _ (.inr ?_))
  simp only [List.length_map, List.length_zipIdx, List.length_take]
  omega

theorem imageAbort_ends (hserves : Serves s m 0x0013) :
    ∃ t, exec (.imageAbort m) s = .next t ∧ t.rennet.xfer = none ∧ t.rennet.nor = s.rennet.nor ∧ t.rennet.boot = s.rennet.boot ∧
      t.rennet.noimg = (if s.rennet.boot = .recovery then 4 else s.rennet.noimg) := by
  have hvault := vault_mailServe (fun s _ => asHolder s m.val (fun _ => (endTransfer s, stAborted, []))) hserves
  rw [asHolder_open hx hholder hopen] at hvault
  obtain ⟨hxfer, hnor, hboot, hnoimg⟩ := endTransfer_leaves (serving s)
  rw [← rennet_of_vault hvault] at hxfer hnor hboot hnoimg
  exact ⟨_, rfl, hxfer, hnor, hboot, hnoimg⟩

omit hholder in
theorem imageTransferTimeout_ends {now : W64} (hnow : s.ts.toNat ≤ now.toNat) (hsilent : x.lastTs.toNat + 1000000000 ≤ now.toNat) :
    ∃ t, exec (.imageTransferTimeout now) s = .next t ∧ t.rennet.xfer = none ∧ t.rennet.nor = s.rennet.nor ∧ t.ts = now := by
  obtain ⟨hxfer, hnor, -, -⟩ := endTransfer_leaves { s with ts := now }
  refine ⟨kept s (endTransfer { s with ts := now }), ?_, hxfer, hnor, ts_endTransfer _⟩
  change execImageTransferTimeout now s = _
  refine endsAt_of_eq hnow ?_
  rw [show ({ s with ts := now } : State).rennet.xfer = some x from hx]
  exact if_pos ⟨by rw [hopen]; rfl, hsilent⟩

end

/-- A recovery that is complete is run by a reset, which takes the message away. -/
theorem imageRun_resets (hended : x.isEnded = true) (hboot : s.rennet.boot = .recovery) (hserves : Serves s m 0x0014) :
    exec (.imageRun m) s = .next (kept s (rennetReset (serving s) 5)) := by
  refine ends_kept ((mailServe_of_serves _ hserves).trans ?_)
  have hrun : (if x.holder = m.val ∧ x.isEnded = true ∧ (serving s).rennet.boot = .recovery then (rennetReset (serving s) 5, stDone, []) else (serving s, stState, [])) =
      ((rennetReset (serving s) 5, stDone, []) : State × W16 × List W32) := if_pos ⟨hholder, hended, hboot⟩
  rw [show (serving s).rennet.xfer = some x from hx]
  simp only [hrun]
  exact if_neg Bool.false_ne_true

end
end

/-! ### Blobs (R484, R486) -/

theorem length_makeBlob (s : State) (type minSvn cls : Nat) (nonce value : List Byte) : (makeBlob s type minSvn cls nonce value).length = 96 := by
  simp [makeBlob]

/-- The blob that BLOB_STORE makes of a slot, whose TYPE, MIN_SVN and class are free. -/
def newBlob (s : State) (slot : Nat) (nonce : List Byte) : List Byte :=
  let h := (Config.free 32 s.freeNo 78).toNat
  makeBlob s (h % 65536) (h / 65536 % 256) (h / 16777216) nonce (caveGet s slot)

/-- What BLOB_STORE makes of the state: a nonce drawn, and the blob in NOR. -/
def storeBlob (s : State) (slot off : Nat) : State :=
  (blobPut (drbgCount s 1) off (newBlob (drbgCount s 1) slot (padTo 12 (Config.drbg s.rennet.drbgN 12)))).draw

/-- Storing a blob changes NOR in its 96 bytes alone, and counts what it draws. -/
theorem storeBlob_leaves (s : State) (slot off : Nat) : (storeBlob s slot off).mbxs = s.mbxs ∧ (storeBlob s slot off).rennet.cave = s.rennet.cave ∧
    (storeBlob s slot off).rennet.drbgN = s.rennet.drbgN + 1 ∧ (storeBlob s slot off).freeNo = s.freeNo + 1 ∧
    (∀ a, a < 0x220000 + off ∨ 0x220000 + off + 96 ≤ a → mget 0xFF (storeBlob s slot off).rennet.nor a = mget 0xFF s.rennet.nor a) := by
  refine ⟨rfl, rfl, rfl, rfl, fun a ha => mget_mwrite_outside _ _ _ _ _ ?_⟩
  rwa [newBlob, length_makeBlob]

/-- What BLOB_LOAD makes of the state that holds blob `b`, with its status and results. -/
def loadBlob (s : State) (slot : Nat) (b : List Byte) : State × W16 × List W32 :=
  match openBlob s b with
  | none => (s, stIntegrity, [])
  | some v => if s.rennet.svnImage.toNat < field b 2 1 then (s, stRange, []) else (caveSet s slot v, stDone, [])

/-- Loading a blob changes the Cave alone, in the one slot. -/
theorem loadBlob_leaves (s : State) (slot : Nat) (b : List Byte) : (loadBlob s slot b).1.mbxs = s.mbxs ∧ (loadBlob s slot b).1.rennet.nor = s.rennet.nor ∧
    (loadBlob s slot b).1.rennet.cave =
      (match openBlob s b with | some v => if s.rennet.svnImage.toNat < field b 2 1 then s.rennet.cave else tset s.rennet.cave slot (padTo 64 v) | none => s.rennet.cave) := by
  unfold loadBlob
  cases openBlob s b with
  | none => exact ⟨rfl, rfl, rfl⟩
  | some v =>
    dsimp only
    split
    · exact ⟨rfl, rfl, rfl⟩
    · exact ⟨rfl, rfl, rfl⟩

section
variable {s : State} {m : MbxId} {off slot : Nat} (hctl : m.val = 64) (hkey : blobKeyOk s = true)
include hctl hkey

/-- The blob goes into its slot where its tag holds and its version is not too high. -/
theorem blobLoad_next {b : List Byte} (hserves : Serves s m 0x0020) (hoff : off = ((mailWords s m).getD 0 0).toNat) (hslot : slot = ((mailWords s m).getD 1 0).toNat % 64)
    (hend : off + 96 ≤ 262144) (hlow : 16 ≤ slot) (hb : b = norRead s (0x220000 + off) 96) :
    ∃ t, exec (.blobLoad m) s = .next t ∧
      t.rennet.cave = (match openBlob s b with | some v => if s.rennet.svnImage.toNat < field b 2 1 then s.rennet.cave else tset s.rennet.cave slot (padTo 64 v) | none => s.rennet.cave) ∧
      t.rennet.nor = s.rennet.nor := by
  subst hoff hslot hb
  generalize hr : loadBlob (serving s) (((mailWords s m).getD 1 0).toNat % 64) (norRead s (0x220000 + ((mailWords s m).getD 0 0).toNat) 96) = r
  obtain ⟨hmbxs, hnor, hcave⟩ := hr ▸ loadBlob_leaves (serving s) (((mailWords s m).getD 1 0).toNat % 64) (norRead s (0x220000 + ((mailWords s m).getD 0 0).toNat) 96)
  have hexec : exec (.blobLoad m) s = .next (kept s (mailReply r.1 m.val r.2.1 r.2.2)) :=
    ends_kept (mailServe_answered hserves ((if_neg (not_not_intro hctl)).trans
      ((if_neg (by rw [show blobKeyOk (serving s) = true from hkey]; decide)).trans ((if_neg (by omega)).trans hr))) hmbxs)
  have hrennet := rennet_mailReply r.1 m.val r.2.1 r.2.2
  exact ⟨_, hexec, (congrArg Rennet.cave hrennet).trans hcave, (congrArg Rennet.nor hrennet).trans hnor⟩

/-- A blob is stored with a new nonce in its 96 bytes of NOR. -/
theorem blobStore_next (hserves : Serves s m 0x0021) (hslot : slot = ((mailWords s m).getD 0 0).toNat) (hoff : off = ((mailWords s m).getD 1 0).toNat) (hend : off + 96 ≤ 262144)
    (hlow : 16 ≤ slot) (hhigh : slot ≤ 63) (hfail : s.rennet.entropyFail = false) (hon : s.rennet.drbgOn = true) :
    ∃ t, exec (.blobStore m) s = .next t ∧ t.rennet.cave = s.rennet.cave ∧ t.rennet.drbgN = s.rennet.drbgN + 1 ∧ t.freeNo = s.freeNo + 1 ∧
      (∀ a, a < 0x220000 + off ∨ 0x220000 + off + 96 ≤ a → mget 0xFF t.rennet.nor a = mget 0xFF s.rennet.nor a) := by
  subst hslot hoff
  obtain ⟨hmbxs, hcave, hdrbg, hfree, hnor⟩ := storeBlob_leaves (serving s) ((mailWords s m).getD 0 0).toNat ((mailWords s m).getD 1 0).toNat
  have hstore : (match drbgDraw (serving s) 12 with
      | none => (serving s, stAborted, [])
      | some (t, nonce) => ((blobPut t ((mailWords s m).getD 1 0).toNat (newBlob t ((mailWords s m).getD 0 0).toNat nonce)).draw, stDone, [96])) =
      ((storeBlob (serving s) ((mailWords s m).getD 0 0).toNat ((mailWords s m).getD 1 0).toNat, stDone, [96]) : State × W16 × List W32) := by
    rw [drbgDraw_of_on (s := serving s) 12 hfail hon]
    rfl
  generalize storeBlob (serving s) ((mailWords s m).getD 0 0).toNat ((mailWords s m).getD 1 0).toNat = t at hstore hmbxs hcave hdrbg hfree hnor
  have hexec : exec (.blobStore m) s = .next (kept s (mailReply t m.val stDone [96])) :=
    ends_kept (mailServe_answered hserves ((if_neg (not_not_intro hctl)).trans
      ((if_neg (by rw [show blobKeyOk (serving s) = true from hkey]; decide)).trans ((if_neg (by omega)).trans hstore))) hmbxs)
  have hrennet := rennet_mailReply t m.val stDone [96]
  refine ⟨_, hexec, (congrArg Rennet.cave hrennet).trans hcave, (congrArg Rennet.drbgN hrennet).trans hdrbg, (freeNo_mailReply ..).trans hfree, fun a ha => ?_⟩
  exact (congrArg (fun r : Rennet => mget 0xFF r.nor a) hrennet).trans (hnor a ha)

end

/-- Settles O35: a message in hand answers by what its effect makes of the state, and the answer leaves Rennet as that effect left it; a transfer's messages have theirs on the one transfer open. -/
theorem mailboxTransfers : Obligations.MailboxTransfers := by
  unfold Obligations.MailboxTransfers
  refine ⟨fun s m => ⟨?_, ?_, ?_⟩, fun s m => ⟨identity_delivered, identity_waits, bootStatus_next, rindInfo_next, rindInfo_refused, fun _ => rindRead_next, ?_⟩⟩
  · intro hhost hserves hboot hlc hnone hmin hmax
    exact imageBegin_next hhost hserves hboot hlc hnone hmin hmax
  · intro x hx hholder hopen
    exact ⟨imageData_staged hx hholder hopen, imageData_misplaced hx hholder hopen, imageEnd_closes hx hholder hopen, imageAbort_ends hx hholder hopen,
      fun _ => imageTransferTimeout_ends hx hopen⟩
  · intro x hx hholder hended hboot hserves
    exact imageRun_resets hx hholder hended hboot hserves
  · intro off slot b hctl hkey
    exact ⟨blobLoad_next hctl hkey, blobStore_next hctl hkey⟩

end Sys2Proof.Machine
end

section
/-! The boot and keys family (11_rennet_boot_and_keys.md): a start-up, step by step, to hand-over or to the state without an image. -/

namespace Sys2Proof.Machine

/-! ### Before the boot path: steps 1 to 6 (R460, R465 to R467, R507, R513) -/

/-- What the boot path and the release gate decide by: the flow accumulator, the count of failures, the manifest in NOR and the life cycle. -/
def bootKey (s : State) : List Byte × BitVec 2 × List Byte × BitVec 3 := (s.rennet.flow, s.rennet.consec, mread 0xFF s.rennet.nor 0 manifestLen, s.otp.lc)

theorem bootKey_of_vault {s t : State} (h : vault t = vault s) : bootKey t = bootKey s := by
  have hrennet := rennet_of_vault h
  have hotp := otp_of_vault h
  rw [bootKey, bootKey, hrennet, hotp]

theorem vault_askOns {α : Type} (l : List α) (d : α → Domain) (at_ : α → W64) (s : State) : vault (l.foldl (fun t a => askOn t (d a) (at_ a)) s) = vault s :=
  (congrArg vault (besideRise_askOns l d at_ s) :)

theorem vault_bootPower (s : State) (i : StartInputs) :
    vault (bootPower s i) = ({ s.rennet with stopped := false, halted := false, flow := [], healthFails := 0 }, s.otp, s.att) := by
  unfold bootPower
  extract_lets on _ _ _ _ s1 at_ s2 g
  have h1 : vault s1 = ({ s.rennet with stopped := false, halted := false, flow := [], healthFails := 0 }, s.otp, s.att) := rfl
  have h2 : vault s2 = vault s1 := vault_askOns ..
  split
  · exact h1
  · exact (vault_askOns ..).trans (h2.trans h1)

theorem ofNat_lcCode_ne {m : Mem} (h : lcCode m ≠ 4) : BitVec.ofNat 3 (lcCode m) ≠ 4 := by
  have hle : lcCode m ≤ 5 := by
    unfold lcCode
    dsimp only
    split
    · next k hk => exact (Nat.le_of_lt (List.mem_range.mp (List.mem_of_find?_eq_some hk)))
    · exact Nat.le_refl 5
  intro hbad
  have hmod : lcCode m % 8 = 4 := congrArg BitVec.toNat hbad
  omega

/-- Sensing a unit that is not scrapped and holds no locked region needs no digest, and finds its life cycle. -/
theorem bootSense_of_unlocked {s : State} (i : StartInputs) (hunlocked : (List.range 9).any (fuseLocked s.otp.cells) = false) (hlc : lcCode s.otp.cells ≠ 4) :
    ∃ t, bootSense s i = some t ∧ t.rennet = { s.rennet with patches := patchesOf s.otp.cells } ∧ t.otp.lc = BitVec.ofNat 3 (lcCode s.otp.cells) := by
  have hlc' := ofNat_lcCode_ne hlc
  have hsensed : (senseOtp s i.marginal i.supplyOk).otp.lc = BitVec.ofNat 3 (lcCode s.otp.cells) := rfl
  have hchecked : (List.range 9).any (fun n => fuseLocked (senseOtp s i.marginal i.supplyOk).otp.shadow n && !digestOk (senseOtp s i.marginal i.supplyOk).otp.shadow n) = false := by
    rw [List.any_eq_false] at hunlocked ⊢
    intro n hn hbad
    exact hunlocked n hn (Bool.and_eq_true_iff.mp hbad).1
  unfold bootSense
  extract_lets s1 m checked _ s2 s3 weak body
  have h3 : s3 = s2 := if_neg fun h => hlc' (hsensed.symm.trans h.1)
  have hnone : ¬checked.any (fun n => fuseLocked m n && !digestOk m n) = true := by
    rw [show checked = List.range 9 from if_neg fun h => hlc' (hsensed.symm.trans h), hchecked]
    exact Bool.false_ne_true
  rw [if_neg hnone]
  split
  · exact ⟨s3, rfl, by rw [h3]; rfl, by rw [h3]; rfl⟩
  · have hvault := vault_sendReportBody (idEvent s3 0) (mkReport s3 0x0302 (initId 1 0) 64) body
    refine ⟨_, rfl, (rennet_of_vault hvault).trans (by rw [h3]; rfl), (congrArg Otp.lc (otp_of_vault hvault)).trans (by rw [h3]; rfl)⟩

theorem bootKey_bootEntropy (s : State) (ok : Bool) : bootKey (bootEntropy s ok) = bootKey s := by
  unfold bootEntropy
  extract_lets no _ _ raw _ _ _ s1
  split
  · rfl
  · exact bootKey_of_vault (s := s1) (vault_report ..)

theorem bootKey_burn (s : State) (op : Nat) (bits : List (Nat × Nat)) (words : List Nat) : bootKey (burn s op bits words none).1 = bootKey s := by
  obtain ⟨-, finished, hburnt⟩ := burn_whole s op bits words
  exact bootKey_of_vault (s := { s with otp.cells := setWritten (setBits s.otp.cells bits) finished }) hburnt

theorem mread_congr {d : Byte} {m m' : Mem} {n : Nat} (h : ∀ a < n, mget d m a = mget d m' a) : mread d m 0 n = mread d m' 0 n :=
  List.map_congr_left fun j hj => by
    rw [Nat.zero_add]
    exact h j (List.mem_range.mp hj)

/-- Only the manifest in NOR matters before the boot path. -/
theorem bootKey_with_nor (s : State) {nor : Mem} (h : ∀ a < manifestLen, mget 0xFF nor a = mget 0xFF s.rennet.nor a) : bootKey { s with rennet.nor := nor } = bootKey s := by
  have hread := mread_congr h
  rw [bootKey, bootKey, ← hread]

theorem bootKey_norProgram (s : State) {a : Nat} (bs : List Byte) (ha : manifestLen ≤ a) : bootKey (norProgram s a bs) = bootKey s :=
  bootKey_with_nor s fun _ hx => mget_mwrite_outside _ _ _ _ _ (.inl (Nat.lt_of_lt_of_le hx ha))

theorem bootKey_norErase (s : State) {a : Nat} (n : Nat) (ha : manifestLen ≤ a) : bootKey (norErase s a n) = bootKey s :=
  bootKey_with_nor s fun _ hx => (mget_mclear ..).trans (if_neg fun h => Nat.not_lt.mpr h.1 (Nat.lt_of_lt_of_le hx ha))

theorem bootKey_with_bootCtr (s : State) (c : W32) : bootKey { s with otp.bootCtr := c } = bootKey s := rfl

theorem bootKey_resense (s : State) (lo n : Nat) : bootKey (resense s lo n) = bootKey s := rfl

theorem bootKey_bootCount (s : State) (nor supply : Bool) : bootKey (bootCount s nor supply) = bootKey s := by
  have hcount : manifestLen ≤ 0x200000 := by rw [manifestLen]; omega
  unfold bootCount
  extract_lets e _ l _ _ s1 s2
  split
  · exact bootKey_with_bootCtr ..
  · split
    · have hcell : manifestLen ≤ 0x200000 + l := Nat.le_add_right_of_le hcount
      exact (bootKey_with_bootCtr (norProgram s (0x200000 + l) [0]) _).trans (bootKey_norProgram s [0] hcell)
    · split
      · have h1 : bootKey s1 = bootKey s := bootKey_burn ..
        have h2 : bootKey s2 = bootKey s1 := (bootKey_norProgram _ _ hcount).trans ((bootKey_norErase _ _ hcount).trans (bootKey_resense ..))
        exact (bootKey_with_bootCtr s2 _).trans (h2.trans h1)
      · exact bootKey_with_bootCtr ..

theorem bootKey_caveSet (s : State) (slot : Nat) (v : List Byte) : bootKey (caveSet s slot v) = bootKey s := rfl

theorem bootKey_deriveDevice (s : State) (i : StartInputs) : bootKey (deriveDevice s i) = bootKey s := by
  unfold deriveDevice
  split
  · rfl
  · simp only [bootKey_caveSet]
    rfl

/-! ### The boot path: steps 7 to 10 (R333, R472, R476, R482) -/

theorem flowOf_append (steps : List Nat) (n : Nat) : flowOf (steps ++ [n]) = Config.sha3 (flowOf steps ++ Config.flowToken n) := by
  rw [flowOf, List.foldl_append]
  rfl

/-- What the end of a step leaves: all that the boot path decided, while the flow takes the step's token. -/
theorem bootKey_endStep {s : State} {steps : List Nat} {c : BitVec 2} {m : List Byte} {lc : BitVec 3} (n : Nat) (h : bootKey s = (flowOf steps, c, m, lc)) :
    bootKey (endStep s n) = (flowOf (steps ++ [n]), c, m, lc) := by
  have hstep : bootKey (endStep s n) = (Config.sha3 (s.rennet.flow ++ Config.flowToken n), (bootKey s).2) := rfl
  have hflow : s.rennet.flow = flowOf steps := congrArg Prod.fst h
  rw [hstep, hflow, h, flowOf_append]

theorem bootKey_with_svnOtp (s : State) (n : Byte) : bootKey { s with rennet.svnOtp := n } = bootKey s := rfl

/-- Steps 3 to 6 of a unit whose OTP is sensed. -/
def toPath (s : State) (i : StartInputs) : State :=
  let s3 := bootEntropy (endStep s 3) i.entropyOk
  endStep (deriveDevice (bootCount { endSteps s3 [4, 5] with rennet.svnOtp := BitVec.ofNat 8 (svnCount s3.otp.shadow) } i.norAnswers i.supplyOk) i) 6

/-- Steps 7 to 13 after the boot path. -/
def afterPath (s : State) (i : StartInputs) : State :=
  let s6 := endSteps s (if s.rennet.boot = .verified then [7, 8, 9, 10] else [7, 8, 9])
  bootLock (endStep (bootCommit (endStep (bootRind s6 i.norAnswers) 11) i.supplyOk) 12)

theorem bootKey_toPath {s : State} (i : StartInputs) {c : BitVec 2} {m : List Byte} {lc : BitVec 3} (h : bootKey s = (flowOf [2], c, m, lc)) :
    bootKey (toPath s i) = (flowOf [2, 3, 4, 5, 6], c, m, lc) := by
  unfold toPath
  extract_lets s3
  have h3 : bootKey s3 = (flowOf [2, 3], c, m, lc) := (bootKey_bootEntropy ..).trans (bootKey_endStep 3 h)
  have h5 : bootKey (endSteps s3 [4, 5]) = (flowOf [2, 3, 4, 5], c, m, lc) := bootKey_endStep 5 (bootKey_endStep 4 h3)
  exact bootKey_endStep 6 ((bootKey_deriveDevice ..).trans ((bootKey_bootCount ..).trans ((bootKey_with_svnOtp ..).trans h5)))

theorem rennetStartup_of_sensed {s t : State} {i : StartInputs} (hstep : s.rennet.step = 0) (hstopped : s.rennet.stopped = false) (hsense : bootSense (endStep (bootPower s i) 2) i = some t) :
    rennetStartup s i = (if (afterPath (bootPath (toPath t i) i) i).otp.lc = 4 then afterPath (bootPath (toPath t i) i) i
      else if (afterPath (bootPath (toPath t i) i) i).rennet.boot = .noImage then noImage (afterPath (bootPath (toPath t i) i) i)
      else checkFlow (afterPath (bootPath (toPath t i) i) i)) := by
  unfold rennetStartup
  rw [if_neg (by rw [hstep, hstopped]; decide)]
  extract_lets s1
  rw [show bootSense s1 i = some t from hsense]
  dsimp -zeta only
  extract_lets s3 _ _ s4 s5 s6 s7
  have h5 : s5 = bootPath (toPath t i) i := rfl
  clear_value s5
  have h7 : s7 = afterPath s5 i := rfl
  rw [h5] at h7
  clear_value s7
  rw [h7]

/-- What is decided after the boot path by: the flow, the boot state, and the life cycle. -/
def bootLine (s : State) : List Byte × BootState × BitVec 3 := (s.rennet.flow, s.rennet.boot, s.otp.lc)

theorem bootLine_caveSet (s : State) (slot : Nat) (v : List Byte) : bootLine (caveSet s slot v) = bootLine s := rfl

theorem bootLine_deriveFirmware (s : State) : bootLine (deriveFirmware s) = bootLine s := by
  unfold deriveFirmware
  dsimp only
  split
  · simp only [bootLine_caveSet]
  · simp only [bootLine_caveSet]

theorem bootLine_loadImage (s : State) (m image : List Byte) : bootLine (loadImage s m image) = bootLine s := by
  unfold loadImage
  dsimp only
  split
  · split <;> rfl
  · rfl

/-- The boot state that a boot path ends in (R472, R476): with a readable image verified, or degraded without the Cave; without one, none. -/
def PathEnd (s t : State) (i : StartInputs) : Prop :=
  if i.norAnswers = true ∧ readable (norRead s 0 manifestLen) = true then
    t.rennet.boot = .verified ∨ (t.rennet.boot = .degraded ∧ t.rennet.caveOff = true ∧ t.rennet.cave = [])
  else t.rennet.boot = .noImage ∧ t.rennet.noimg = (if i.norAnswers = true then 2 else 1) ∧ t.rennet.caveOff = true

/-- The state in which an image taken in is verified, or degraded. -/
def decideImage (s : State) : State :=
  if s.rennet.cause &&& 0x1F = 0 ∧ s.otp.lc ≠ 5 then deriveFirmware { s with rennet.boot := .verified }
  else { caveClear { s with rennet.boot := .degraded } with otp.degraded := true }

theorem decideImage_ends (s : State) : (decideImage s).rennet.flow = s.rennet.flow ∧ (decideImage s).otp.lc = s.otp.lc ∧
    ((decideImage s).rennet.boot = .verified ∨ ((decideImage s).rennet.boot = .degraded ∧ (decideImage s).rennet.caveOff = true ∧ (decideImage s).rennet.cave = [])) := by
  unfold decideImage
  split
  · have hderive := bootLine_deriveFirmware { s with rennet.boot := .verified }
    exact ⟨congrArg Prod.fst hderive, congrArg (·.2.2) hderive, .inl (congrArg (·.2.1) hderive)⟩
  · exact ⟨rfl, rfl, .inr ⟨rfl, rfl, rfl⟩⟩

/-- The boot path leaves the flow and the life cycle, and ends as R472 and R476 say. -/
theorem bootPath_ends {s : State} {i : StartInputs} (hlc : s.otp.lc ≠ 4) (hconsec : s.rennet.consec ≠ 3) :
    (bootPath s i).rennet.flow = s.rennet.flow ∧ (bootPath s i).otp.lc = s.otp.lc ∧ PathEnd s (bootPath s i) i := by
  unfold bootPath PathEnd
  extract_lets m _ t none_ _ s1
  have h1 : bootLine s1 = bootLine t := bootLine_loadImage ..
  clear_value s1
  have ht : t.otp = s.otp ∧ t.rennet.flow = s.rennet.flow ∧ t.rennet.consec = s.rennet.consec := by
    unfold t
    split <;> exact ⟨rfl, rfl, rfl⟩
  clear_value t
  obtain ⟨hotp, hflow, hcons⟩ := ht
  rw [if_neg (by rwa [hotp]), if_neg (by rwa [hcons])]
  by_cases hnor : i.norAnswers = true
  · by_cases hread : readable m = true
    · have hpos : i.norAnswers = true ∧ readable (norRead s 0 manifestLen) = true := ⟨hnor, hread⟩
      rw [if_neg (by rw [hnor]; decide), if_neg (by rw [hread]; decide), if_pos hpos]
      obtain ⟨hf, hl, hboot⟩ := decideImage_ends s1
      exact ⟨hf.trans ((congrArg Prod.fst h1).trans hflow), hl.trans ((congrArg (·.2.2) h1).trans (congrArg Otp.lc hotp)), hboot⟩
    · rw [if_neg (by rw [hnor]; decide), if_pos (by simpa using hread), if_neg fun h => hread h.2, if_pos hnor]
      exact ⟨hflow, congrArg Otp.lc hotp, rfl, rfl, rfl⟩
  · rw [if_pos (by simpa using hnor), if_neg fun h => hnor h.1, if_neg hnor]
    exact ⟨hflow, congrArg Otp.lc hotp, rfl, rfl, rfl⟩

/-! ### After the boot path: steps 11 to 13 (R464, R474, R484, R590, R591) -/

/-- What the boot path decided: the flow, the boot state with its cause, the Cave, and the life cycle. -/
def pathKey (s : State) : List Byte × BootState × BitVec 3 × Bool × Tbl (List Byte) × BitVec 3 :=
  (s.rennet.flow, s.rennet.boot, s.rennet.noimg, s.rennet.caveOff, s.rennet.cave, s.otp.lc)

theorem pathKey_of_vault {s t : State} (h : vault t = vault s) : pathKey t = pathKey s := by
  have hrennet := rennet_of_vault h
  have hotp := otp_of_vault h
  rw [pathKey, pathKey, hrennet, hotp]

theorem vault_rindScan (s : State) : vault (rindScan s) = vault s := vault_eraseDoomed ..

theorem pathKey_bootRind (s : State) (nor : Bool) : pathKey (bootRind s nor) = pathKey s := by
  unfold bootRind
  extract_lets s0
  have h0 : vault s0 = vault s := by
    unfold s0
    split
    · exact vault_rindScan s
    · rfl
  split
  extract_lets s1 s2
  have h1 : vault s1 = vault s := (vault_rindStatus ..).trans h0
  have h2 : pathKey s2 = pathKey s1 := by
    unfold s2
    split
    · exact pathKey_of_vault (s := rntEvent s1 0) (vault_sendReportBody ..)
    · exact pathKey_of_vault (vault_rindQueue ..)
  exact (pathKey_of_vault (vault_rindFlush ..)).trans (h2.trans (pathKey_of_vault h1))

theorem pathKey_burn (s : State) (op : Nat) (bits : List (Nat × Nat)) (words : List Nat) : pathKey (burn s op bits words none).1 = pathKey s := by
  obtain ⟨-, finished, hburnt⟩ := burn_whole s op bits words
  exact pathKey_of_vault (s := { s with otp.cells := setWritten (setBits s.otp.cells bits) finished }) hburnt

theorem pathKey_bootCommit (s : State) (supply : Bool) : pathKey (bootCommit s supply) = pathKey s := by
  unfold bootCommit
  extract_lets want have_ clear bits s1
  split
  · rfl
  · have h1 : pathKey s1 = pathKey s := by
      unfold s1
      split
      · exact pathKey_burn ..
      · rfl
    exact h1

theorem vault_refuseUnknown (s : State) (m : Nat) : vault (refuseUnknown s m) = vault s := by
  unfold refuseUnknown
  split
  · exact vault_mailReply ..
  · rfl

theorem vault_bootLock (s : State) :
    vault (bootLock s) = vault (endStep { s with rennet.cave := s.rennet.cave.filter (fun e => e.1 != 0 && e.1 != 1 && e.1 != 4), rennet.caveLocked := true } 13) := by
  unfold bootLock
  exact view_foldl vault (fun _ _ => vault_refuseUnknown ..) _ _

theorem pathKey_endStep {s : State} {steps : List Nat} {rest : BootState × BitVec 3 × Bool × Tbl (List Byte) × BitVec 3} (n : Nat) (h : pathKey s = (flowOf steps, rest)) :
    pathKey (endStep s n) = (flowOf (steps ++ [n]), rest) := by
  have hstep : pathKey (endStep s n) = (Config.sha3 (s.rennet.flow ++ Config.flowToken n), (pathKey s).2) := rfl
  have hflow : s.rennet.flow = flowOf steps := congrArg Prod.fst h
  rw [hstep, hflow, h, flowOf_append]

/-- The state `t` after step 13, whose boot path ended in `s`. -/
structure BootLocked (s t : State) : Prop where
  flow : t.rennet.flow = if s.rennet.boot = .verified then flowVerified else flowDegraded
  boot : t.rennet.boot = s.rennet.boot
  noimg : t.rennet.noimg = s.rennet.noimg
  caveOff : t.rennet.caveOff = s.rennet.caveOff
  cave : t.rennet.cave = s.rennet.cave.filter (fun e => e.1 != 0 && e.1 != 1 && e.1 != 4)
  caveLocked : t.rennet.caveLocked = true
  step : t.rennet.step = 13
  lc : t.otp.lc = s.otp.lc

theorem bootLocked_bootLock {s t : State} {steps : List Nat} (h : pathKey t = (flowOf steps, (pathKey s).2))
    (hsteps : flowOf (steps ++ [13]) = if s.rennet.boot = .verified then flowVerified else flowDegraded) : BootLocked s (bootLock t) := by
  have hvault := vault_bootLock t
  have hrennet := rennet_of_vault hvault
  have hotp := otp_of_vault hvault
  obtain ⟨hflow, hboot, hnoimg, hoff, hcave, hlc⟩ : t.rennet.flow = flowOf steps ∧ t.rennet.boot = s.rennet.boot ∧ t.rennet.noimg = s.rennet.noimg ∧
      t.rennet.caveOff = s.rennet.caveOff ∧ t.rennet.cave = s.rennet.cave ∧ t.otp.lc = s.otp.lc := by
    simpa only [pathKey, Prod.mk.injEq] using h
  refine ⟨?_, ?_, ?_, ?_, ?_, ?_, ?_, ?_⟩
  · rw [← hsteps, flowOf_append, ← hflow]
    exact (congrArg Rennet.flow hrennet :)
  · exact (congrArg Rennet.boot hrennet :).trans hboot
  · exact (congrArg Rennet.noimg hrennet :).trans hnoimg
  · exact (congrArg Rennet.caveOff hrennet :).trans hoff
  · rw [← hcave]
    exact (congrArg Rennet.cave hrennet :)
  · exact (congrArg Rennet.caveLocked hrennet :)
  · exact (congrArg Rennet.step hrennet :)
  · exact (congrArg Otp.lc hotp :).trans hlc

/-- The steps after the boot path run to the locked Cave, and the flow is the one of the path taken. -/
theorem bootLocked_afterPath {s : State} (i : StartInputs) (hflow : s.rennet.flow = flowOf [2, 3, 4, 5, 6]) : BootLocked s (afterPath s i) := by
  have h0 : pathKey s = (flowOf [2, 3, 4, 5, 6], (pathKey s).2) := by
    rw [← hflow]
    rfl
  have hrest {t : State} {steps : List Nat} (ht : pathKey t = (flowOf steps, (pathKey s).2)) :
      pathKey (endStep (bootCommit (endStep (bootRind t i.norAnswers) 11) i.supplyOk) 12) = (flowOf (steps ++ [11] ++ [12]), (pathKey s).2) :=
    pathKey_endStep 12 ((pathKey_bootCommit ..).trans (pathKey_endStep 11 ((pathKey_bootRind ..).trans ht)))
  have h9 := pathKey_endStep 9 (pathKey_endStep 8 (pathKey_endStep 7 h0))
  unfold afterPath
  dsimp only
  by_cases hboot : s.rennet.boot = .verified
  · rw [if_pos hboot]
    exact bootLocked_bootLock (hrest (pathKey_endStep 10 h9)) (if_pos hboot).symm
  · rw [if_neg hboot]
    exact bootLocked_bootLock (hrest h9) (if_neg hboot).symm

/-- After the locked Cave the release gate opens. -/
theorem checkFlow_of_bootLocked {s t : State} (h : BootLocked s t) (hboot : s.rennet.boot = .verified ∨ s.rennet.boot = .degraded) : checkFlow t = t := by
  have hgate : flowGate t = true := by
    unfold flowGate
    rw [h.boot, h.flow]
    rcases hboot with hboot | hboot
    · rw [hboot]
      exact beq_self_eq_true flowVerified
    · rw [hboot]
      exact beq_self_eq_true flowDegraded
  exact if_pos hgate

/-! ### Without an image (R333) -/

theorem startRom_leaves (s : State) : (startRom s).rennet = s.rennet ∧ (startRom s).otp = s.otp ∧ (startRom s).spr.pstate = s.spr.pstate := by
  unfold startRom
  rw [setWatch_true]
  exact ⟨rfl, rfl, rfl⟩

theorem noImage_leaves (s : State) : (noImage s).rennet = { s.rennet with step := 14, wake := false } ∧ (noImage s).otp = s.otp ∧ (noImage s).spr.pstate = .w := by
  unfold noImage
  extract_lets s1 s2
  have h1 : besideDoms s1 = besideDoms s := besideDoms_askOffs ..
  have h2 : besideDoms s2 = besideDoms s := (view_foldl besideDoms (fun _ _ => besideDoms_askOff ..) _ _).trans h1
  have hrennet : s2.rennet = s.rennet := (congrArg State.rennet h2 :)
  have hotp : s2.otp = s.otp := (congrArg State.otp h2 :)
  clear_value s2
  obtain ⟨hr, ho, hp⟩ := startRom_leaves { s2 with
    spr.pstate := .w, spr.l1 := .down, spr.l2 := .down, spr.l3 := .down, spr.target := 0, spr.restoring := none
    spr.draining := none, spr.isoDone := false, rennet.step := 14, rennet.wake := false }
  exact ⟨hr.trans (congrArg (fun r : Rennet => { r with step := 14, wake := false }) hrennet), ho.trans hotp, hp⟩

/-! ### RENNET_STARTUP -/

/-- A start-up's steps run to the locked Cave, after a boot path of the manifest that NOR held; then Rennet waits for hand-over, or runs Sprout in W. -/
theorem rennetStartup_locked {s : State} {i : StartInputs} (hstep : s.rennet.step = 0) (hstopped : s.rennet.stopped = false) (hconsec : s.rennet.consec ≠ 3)
    (hunlocked : (List.range 9).any (fuseLocked s.otp.cells) = false) (hlc : lcCode s.otp.cells ≠ 4) :
    ∃ v w, PathEnd s v i ∧ BootLocked v w ∧ w.otp.lc = BitVec.ofNat 3 (lcCode s.otp.cells) ∧
      rennetStartup s i = (if w.rennet.boot = .noImage then noImage w else checkFlow w) := by
  have hpower := vault_bootPower s i
  have hpotp : (endStep (bootPower s i) 2).otp = s.otp := congrArg (·.2.1) hpower
  obtain ⟨t, hsense, hrennet, htlc⟩ := bootSense_of_unlocked (s := endStep (bootPower s i) 2) i (by rwa [hpotp]) (by rwa [hpotp])
  rw [hpotp] at htlc hrennet
  have hkey : bootKey t = (flowOf [2], s.rennet.consec, mread 0xFF s.rennet.nor 0 manifestLen, BitVec.ofNat 3 (lcCode s.otp.cells)) := by
    have hprennet : (bootPower s i).rennet = { s.rennet with stopped := false, halted := false, flow := [], healthFails := 0 } := congrArg Prod.fst hpower
    rw [bootKey, hrennet, htlc, endStep, hprennet]
    rfl
  obtain ⟨hflow, hcons, hnor, hulc⟩ : (toPath t i).rennet.flow = flowOf [2, 3, 4, 5, 6] ∧ (toPath t i).rennet.consec = s.rennet.consec ∧
      norRead (toPath t i) 0 manifestLen = norRead s 0 manifestLen ∧ (toPath t i).otp.lc = BitVec.ofNat 3 (lcCode s.otp.cells) := by
    simpa only [bootKey, norRead, Prod.mk.injEq] using bootKey_toPath i hkey
  have hlc4 := ofNat_lcCode_ne hlc
  obtain ⟨hvflow, hvlc, hend⟩ := bootPath_ends (s := toPath t i) (i := i) (by rwa [hulc]) (by rwa [hcons])
  have hlocked := bootLocked_afterPath i (hvflow.trans hflow)
  have hwlc := hlocked.lc.trans (hvlc.trans hulc)
  have hstart := rennetStartup_of_sensed hstep hstopped hsense
  rw [if_neg (by rwa [hwlc])] at hstart
  rw [PathEnd, hnor] at hend
  exact ⟨_, _, hend, hlocked, hwlc, hstart⟩

/-- A start-up runs to step 13, or to W without an image. -/
theorem rennetStartup_ends {s : State} {i : StartInputs} (hstep : s.rennet.step = 0) (hstopped : s.rennet.stopped = false) (hconsec : s.rennet.consec ≠ 3)
    (hunlocked : (List.range 9).any (fuseLocked s.otp.cells) = false) (hlc : lcCode s.otp.cells ≠ 4) :
    ∃ t, exec (.rennetStartup i) s = .next t ∧ t.otp.lc = BitVec.ofNat 3 (lcCode s.otp.cells) ∧ t.rennet.caveLocked = true ∧ (∀ x ∈ t.rennet.cave, x.1 ≠ 0 ∧ x.1 ≠ 1 ∧ x.1 ≠ 4) ∧
      (if i.norAnswers = true ∧ readable (norRead s 0 8192) = true then
        (t.rennet.boot = .verified ∨ t.rennet.boot = .degraded) ∧ t.rennet.step = 13 ∧ (t.rennet.boot = .degraded → t.rennet.caveOff = true ∧ t.rennet.cave = [])
       else t.rennet.boot = .noImage ∧ t.rennet.step = 14 ∧ t.rennet.noimg = (if i.norAnswers = true then 2 else 1) ∧ t.rennet.caveOff = true ∧ t.spr.pstate = .w) := by
  obtain ⟨v, w, hend, hlocked, hwlc, hstart⟩ := rennetStartup_locked (i := i) hstep hstopped hconsec hunlocked hlc
  have hroots : ∀ x ∈ w.rennet.cave, x.1 ≠ 0 ∧ x.1 ≠ 1 ∧ x.1 ≠ 4 := by
    intro x hx
    rw [hlocked.cave, List.mem_filter] at hx
    simpa [and_assoc] using hx.2
  rw [PathEnd, manifestLen] at hend
  by_cases hread : i.norAnswers = true ∧ readable (norRead s 0 8192) = true
  · simp only [if_pos hread] at hend ⊢
    have hboot : v.rennet.boot = .verified ∨ v.rennet.boot = .degraded := hend.imp_right And.left
    have hsome : w.rennet.boot ≠ .noImage := by
      rw [hlocked.boot]
      rcases hboot with hboot | hboot <;> rw [hboot] <;> decide
    rw [if_neg hsome, checkFlow_of_bootLocked hlocked hboot] at hstart
    refine ⟨_, ends_kept hstart, hwlc, hlocked.caveLocked, hroots, ?_, hlocked.step, fun hdegraded => ?_⟩
    · rwa [← hlocked.boot] at hboot
    · obtain hverified | ⟨-, hoff, hcave⟩ := hend
      · exact absurd ((hlocked.boot.symm.trans hdegraded).symm.trans hverified) (by decide)
      · exact ⟨hlocked.caveOff.trans hoff, hlocked.cave.trans (by rw [hcave]; rfl)⟩
  · simp only [if_neg hread] at hend ⊢
    obtain ⟨hboot, hnoimg, hoff⟩ := hend
    rw [if_pos (hlocked.boot.trans hboot)] at hstart
    obtain ⟨hr, ho, hp⟩ := noImage_leaves w
    refine ⟨_, ends_kept hstart, (congrArg Otp.lc ho).trans hwlc, (congrArg Rennet.caveLocked hr).trans hlocked.caveLocked, ?_, (congrArg Rennet.boot hr).trans (hlocked.boot.trans hboot),
      congrArg Rennet.step hr, (congrArg Rennet.noimg hr).trans (hlocked.noimg.trans hnoimg), (congrArg Rennet.caveOff hr).trans (hlocked.caveOff.trans hoff), hp⟩
    exact fun x hx => hroots x ((congrArg Rennet.cave hr :) ▸ hx)

end Sys2Proof.Machine
end

section
/-! The boot and keys family (11_rennet_boot_and_keys.md): hand-over, and the configuration that it applies. -/

namespace Sys2Proof.Machine

/-! ### The configuration applied (R245, R475, R684) -/

/-- A fold keeps what each of its steps over the list's members keeps. -/
theorem view_foldl_mem {α β γ : Type} (view : α → γ) {f : α → β → α} (l : List β) (h : ∀ a, ∀ b ∈ l, view (f a b) = view a) (a : α) : view (l.foldl f a) = view a :=
  List.foldlRecOn (motive := fun b => view b = view a) l f rfl fun b hb c hc => (h b c hc).trans hb

theorem vault_of_beyondFab {s t : State} (h : beyondFab t = beyondFab s) : vault t = vault s := (congrArg vault h :)

theorem vault_bringUp (s : State) (f : Nat) : vault (bringUp s f) = vault s := by
  unfold bringUp
  dsimp only
  split <;> rfl

theorem vault_propose (s : State) (id : BitVec 10) : vault (propose s id) = vault s := vault_sendFrame ..

theorem vault_enableFabric (s : State) : vault (enableFabric s) = vault s :=
  (vault_propose ..).trans (view_foldl vault (fun _ _ => vault_bringUp ..) _ _)

theorem vault_writeFlash (s : State) (o v : Nat) (d hw : W32) : vault (writeFlash s o v d hw) = vault s := by
  unfold writeFlash
  dsimp only
  split
  case h_1 => split <;> rfl
  all_goals rfl

theorem vault_writeMem (s : State) (o v : Nat) (d hw : W32) : vault (writeMem s o v d hw) = vault s := by
  unfold writeMem
  dsimp only
  split
  case h_6 => split <;> rfl
  all_goals rfl

theorem vault_writeCad (s : State) (o v : Nat) (d hw : W32) : vault (writeCad s o v d hw) = vault s := by
  unfold writeCad
  split
  · rfl
  · split
    · obtain ⟨cad, h⟩ := writeCadCtrl_frame s d
      rw [h]
      rfl
    all_goals rfl

/-- The fabric's registers below its ports leave Rennet. -/
theorem vault_writeFab (s : State) {o : Nat} (v : Nat) (d hw : W32) (ho : o < 0x100) : vault (writeFab s o v d hw) = vault s := by
  unfold writeFab
  dsimp only
  rw [if_neg (by omega)]
  split
  · split
    · exact vault_enableFabric ..
    · rfl
  all_goals rfl

/-- The groups of the blocks that the configuration writes. -/
def configGroup (blk : Nat) : RegGroup := if blk = 3 then .cad else if blk = 5 then .fab else if blk = 6 then .mem else .flash

theorem regGroup_config (s : State) {blk o : Nat} (hblk : blk = 3 ∨ blk = 5 ∨ blk = 6 ∨ blk = 7) (ho : o < 0x100) :
    regGroup s (blk * 0x10000 + o) = (configGroup blk, o) := by
  have hdiv : (blk * 0x10000 + o) / 0x10000 = blk := by omega
  have hmod : (blk * 0x10000 + o) % 0x10000 = o := by omega
  unfold regGroup
  simp only [hdiv, hmod]
  rw [if_neg (by omega)]
  obtain rfl | rfl | rfl | rfl := hblk
  · rfl
  · rfl
  · exact (if_neg (by omega) : (if 0x2000 ≤ o then (RegGroup.seal, o) else (RegGroup.mem, o)) = (RegGroup.mem, o))
  · rfl

/-- A write of a register that the configuration names leaves Rennet. -/
theorem vault_regWrite_config (s : State) (init : W16) {off blk o : Nat} (d hw : W32) (hoff : off = blk * 0x10000 + o) (hblk : blk = 3 ∨ blk = 5 ∨ blk = 6 ∨ blk = 7)
    (ho : o < 0x100) : vault (regWrite s init off d hw) = vault s := by
  unfold regWrite
  rw [hoff, regGroup_config s hblk ho]
  obtain rfl | rfl | rfl | rfl := hblk
  · exact vault_writeCad ..
  · exact vault_writeFab s _ _ _ ho
  · exact vault_writeMem ..
  · exact vault_writeFlash ..

/-- A record applied to the registers of such a block leaves Rennet. -/
theorem vault_applyRec (s : State) (type : Nat) {base blk : Nat} {words : List (Nat × Nat)} (hbase : base = blk * 0x10000) (hblk : blk = 3 ∨ blk = 5 ∨ blk = 6 ∨ blk = 7)
    (hwords : ∀ w ∈ words, w.2 < 0x100) : vault (applyRec s type base words) = vault s := by
  unfold applyRec
  split
  · refine view_foldl_mem vault words (fun t w hw => ?_) s
    unfold applyWord
    split
    · exact vault_regWrite_config t _ _ _ (hbase ▸ rfl) hblk (hwords w hw)
    · rfl
  · rfl

theorem vault_logUnknown (s : State) : vault (logUnknown s) = vault s := view_foldl vault (fun t _ => vault_of_besideReply (besideReply_globalNote t 6)) _ _

theorem vault_with_mem (s : State) (m : MemTiers) : vault { s with mem := m } = vault s := rfl

/-- The configuration applied leaves Rennet, which holds it. -/
theorem vault_applyConfig (s : State) : vault (applyConfig s) = vault s := by
  unfold applyConfig
  extract_lets s1 s2 _ s3 s4
  have h1 : vault s1 = vault s := vault_applyRec s 10 (blk := 7) (by norm_num) (by decide) (by decide)
  have h2 : vault s2 = vault s1 := vault_applyRec s1 1 (blk := 6) (by norm_num) (by decide) (by decide)
  have h3 : vault s3 = vault { s2 with mem.t3Avail := BitVec.ofNat 32 (remainderBlocks s2), mem.mapRoom := mapTables s2 } :=
    vault_regWrite_config { s2 with mem.t3Avail := BitVec.ofNat 32 (remainderBlocks s2), mem.mapRoom := mapTables s2 } _ (blk := 6) (o := 0xC) _ _ (by norm_num) (by decide) (by decide)
  have h4 : vault s4 = vault s3 := vault_applyRec s3 3 (blk := 3) (by norm_num) (by decide) (by decide)
  have h5 : vault (applyRec s4 4 0x50000 [(1, 0x14), (0, 0)]) = vault s4 := vault_applyRec s4 4 (blk := 5) (by norm_num) (by decide) (by decide)
  exact (vault_logUnknown _).trans (h5.trans (h4.trans (h3.trans ((vault_with_mem ..).trans (h2.trans h1)))))

/-! ### HANDOVER (R457, R459, R461) -/

theorem vault_releaseCore (s : State) (c : Nat) : vault (releaseCore s c) = vault s := by
  unfold releaseCore
  split <;> rfl

/-- Rennet as hand-over leaves it. -/
def handedOver (s : State) : Rennet :=
  { (endStep s 14).rennet with
    consec := 0, handover := BitVec.ofNat 32 ((s.ts.toNat - s.rennet.refTs.toNat) / 1000)
    events := if 38500000 < s.ts.toNat - s.rennet.refTs.toNat then raiseEv s.rennet.events 4 else s.rennet.events }

/-- Hand-over at power-on changes Rennet in its step, its count of failures, the recorded time and, when late, its flag. -/
theorem rennet_handover {s : State} (hstep : s.rennet.step = 13) (hboot : s.rennet.boot = .verified ∨ s.rennet.boot = .degraded) (hwake : s.rennet.wake = false)
    (hdue : 38500000 ≤ s.ts.toNat - s.rennet.refTs.toNat) : (handover s).rennet = handedOver s := by
  unfold handover
  extract_lets t _ _ s1 s2 _ s3
  have hgo : ¬(s.rennet.step ≠ 13 ∨ (s.rennet.boot ≠ .verified ∧ s.rennet.boot ≠ .degraded) ∨ t < 38500000) := by
    rw [not_or, not_or, not_not, not_and_or, not_not, not_not, Nat.not_lt]
    exact ⟨hstep, hboot, hdue⟩
  have hpowerOn : ¬fromS s = true := by
    rw [fromS, hwake]
    decide
  rw [if_neg hgo, if_neg hpowerOn]
  have h2 : vault s2 = vault (if 38500000 < t then rntEvent s1 4 else s1) := by
    unfold s2
    split
    · exact vault_sendReportBody ..
    · rfl
  have h3 : vault s3 = vault s2 := view_foldl vault (fun _ _ => vault_releaseCore ..) _ _
  have h1 : (if 38500000 < t then rntEvent s1 4 else s1).rennet = handedOver s := by
    unfold handedOver
    by_cases hlate : 38500000 < t
    · rw [if_pos hlate, if_pos hlate]
      rfl
    · rw [if_neg hlate, if_neg hlate]
      rfl
  clear_value s3
  exact (rennet_of_vault (vault_applyConfig ..)).trans ((rennet_of_vault (h3.trans h2) :).trans h1)

section
variable {s : State} {now : W64} (hnow : s.ts.toNat ≤ now.toNat)
include hnow

theorem handover_waits (h : s.rennet.step ≠ 13 ∨ now.toNat < s.rennet.refTs.toNat + 38500000) : exec (.handover now) s = .next { s with ts := now } := by
  have hwait : handover { s with ts := now } = { s with ts := now } := by
    refine if_pos (h.imp_right fun hearly => .inr ?_)
    change now.toNat - s.rennet.refTs.toNat < 38500000
    omega
  change execHandover now s = _
  exact endsAt_of_eq hnow hwait

/-- Hand-over clears the count of failures and records its time; only a late one raises a flag. -/
theorem handover_ends (hstep : s.rennet.step = 13) (hboot : s.rennet.boot = .verified ∨ s.rennet.boot = .degraded) (hwake : s.rennet.wake = false)
    (hdue : s.rennet.refTs.toNat + 38500000 ≤ now.toNat) :
    ∃ t, exec (.handover now) s = .next t ∧ t.rennet.step = 14 ∧ t.rennet.consec = 0 ∧ t.rennet.boot = s.rennet.boot ∧
      t.rennet.handover = BitVec.ofNat 32 ((now.toNat - s.rennet.refTs.toNat) / 1000) ∧
      t.rennet.events = (if s.rennet.refTs.toNat + 38500000 < now.toNat then raiseEv s.rennet.events 4 else s.rennet.events) := by
  have hrennet := rennet_handover (s := { s with ts := now }) hstep hboot hwake (by change 38500000 ≤ now.toNat - s.rennet.refTs.toNat; omega)
  have hlate : (38500000 < now.toNat - s.rennet.refTs.toNat) = (s.rennet.refTs.toNat + 38500000 < now.toNat) := propext (by omega)
  refine ⟨kept s (handover { s with ts := now }), ?_, (congrArg Rennet.step hrennet :), (congrArg Rennet.consec hrennet :), (congrArg Rennet.boot hrennet :),
    (congrArg Rennet.handover hrennet :), (congrArg Rennet.events hrennet :).trans ?_⟩
  · change execHandover now s = _
    exact endsAt_of_eq hnow rfl
  · simp only [← hlate]
    rfl

end

end Sys2Proof.Machine
end

section
/-! The boot and keys family (11_rennet_boot_and_keys.md): host-ready, the partitions that it creates, and the flash that it finds ready. -/

namespace Sys2Proof.Machine

/-! ### The Press set READY (R297, R298, R300) -/

theorem beyondMem_pumpFlash (s : State) : beyondMem (pumpFlash s) = beyondMem s := eq_of_beyondPump beyondMem (pumped_pumpFlash s).rest (fun _ => rfl)
theorem ready_pumpFlash (s : State) : (pumpFlash s).press.ready = s.press.ready := eq_of_beyondPump (·.press.ready) (pumped_pumpFlash s).rest (fun _ => rfl)

theorem beyondMem_checkSpare (s : State) : beyondMem (checkSpare s) = beyondMem s := by
  obtain ⟨e, low, only, h, -⟩ := checkSpare_frame s
  rw [h, beyondMem_with_press]

theorem ready_checkSpare (s : State) : (checkSpare s).press.ready = s.press.ready := (congrArg (·.press.ready) (beyondSpare_checkSpare s) :)

theorem beyondMem_startErase (s : State) (b : Nat) : beyondMem (startErase s b) = beyondMem s := by
  obtain ⟨f, h, -⟩ := startErase_frame s b
  rw [h]
  rfl

theorem beyondMem_recoverBlock (s : State) (b : Nat) : beyondMem (recoverBlock s b) = beyondMem s := by
  unfold recoverBlock
  extract_lets valid s1 s2
  have h2 : beyondMem s2 = beyondMem s := by
    unfold s2
    split
    · exact beyondMem_startErase ..
    · rfl
  split
  · exact h2
  · exact h2

theorem beyondMem_retireBlock (s : State) (b : Nat) : beyondMem (retireBlock s b) = beyondMem s := by
  unfold retireBlock
  extract_lets s1 _ s2 _ s3
  have h3 : beyondMem s3 = beyondMem s := by
    unfold s3
    split <;> rfl
  exact (beyondMem_checkSpare _).trans h3

theorem beyondMem_firstFormat (s : State) : beyondMem (firstFormat s) = beyondMem s := by
  unfold firstFormat
  split
  · exact view_foldl beyondMem beyondMem_retireBlock _ _
  · rfl

theorem beyondMem_bringUpNand (s : State) : beyondMem (bringUpNand s) = beyondMem s :=
  (view_foldl beyondMem (f := fun t n => onfi t n .readParameterPage) (fun _ _ => rfl) (List.range s.press.channels.toNat) s :)

/-- The Press that sets READY changes itself and the memory tiers alone. -/
theorem pressReady_leaves (s : State) : beyondMem (pressReady s) = beyondMem s ∧ (pressReady s).press.ready = true := by
  unfold pressReady
  extract_lets c _ s0 s1 s2 s3 _ _ s4
  have h0 : beyondMem s0 = beyondMem s := (beyondMem_bringUpNand _).trans (beyondMem_with_press ..)
  have h1 : beyondMem s1 = beyondMem s0 := by
    unfold s1
    split <;> rfl
  have h2 : beyondMem s2 = beyondMem s1 := view_foldl beyondMem beyondMem_recoverBlock _ _
  have h3 : beyondMem s3 = beyondMem s2 := by
    refine (beyondMem_firstFormat _).trans ?_
    split <;> rfl
  have h4 : beyondMem s4 = beyondMem s3 := beyondMem_checkSpare ..
  have hready : s4.press.ready = true := ready_checkSpare ..
  clear_value s4
  have hck : beyondMem (if s4.press.ckpts = [] then checkpoint s4 else s4) = beyondMem s4 ∧ (if s4.press.ckpts = [] then checkpoint s4 else s4).press.ready = true := by
    split <;> exact ⟨rfl, hready⟩
  obtain ⟨hbeyond, hset⟩ := hck
  exact ⟨(beyondMem_pumpFlash _).trans (hbeyond.trans (h4.trans (h3.trans (h2.trans (h1.trans h0))))), (ready_pumpFlash _).trans hset⟩

/-! ### Partitions created (R381, R432, R434, R439) -/

theorem beyondMem_sealMeta (s : State) (off : Nat) : beyondMem (sealMeta s off) = beyondMem s := by
  obtain ⟨m, h, -⟩ := sealMeta_frame s off
  rw [h, beyondMem_with_mem]

theorem beyondMem_ensureTable (s : State) (p b : Nat) : beyondMem (ensureTable s p b) = beyondMem s := by
  unfold ensureTable
  extract_lets i2 i3 free _ s1 _
  have h1 : beyondMem s1 = beyondMem s := by
    unfold s1
    split
    · rfl
    · exact (beyondMem_sealMeta ..).trans (beyondMem_with_mem ..)
  split
  · exact h1
  · exact (beyondMem_sealMeta ..).trans ((beyondMem_with_mem ..).trans h1)

theorem beyondMem_mapT3 (s : State) (p b0 n hint : Nat) : beyondMem (mapT3 s p b0 n hint) = beyondMem s :=
  view_foldl beyondMem (fun _ _ => (beyondMem_setBlock ..).trans (beyondMem_ensureTable ..)) _ _

theorem beyondMem_grantRegions (s : State) (p : Nat) : beyondMem (grantRegions s p) = beyondMem s := by
  refine view_foldl beyondMem (fun t r => ?_) _ _
  dsimp only
  split <;> rfl

/-- What the partitions' creation leaves: the time, Rennet and Sprout. -/
def hostMark (s : State) : W64 × Rennet × Sprout := (s.ts, s.rennet, s.spr)

theorem hostMark_of_beyondMem {s t : State} (h : beyondMem t = beyondMem s) : hostMark t = hostMark s := (congrArg hostMark h :)
theorem parts_of_beyondMem {s t : State} (h : beyondMem t = beyondMem s) : t.parts = s.parts := (congrArg State.parts h :)

/-- A partition created is READY with its cores; time, Rennet and Sprout are as they were. -/
theorem makePart_leaves (s : State) (f : PartForm) (cs : List Nat) (t3 cache : List (Nat × Nat)) : hostMark (makePart s f cs t3 cache) = hostMark s ∧
    ((makePart s f cs t3 cache).part f.num).state = .ready ∧ ((makePart s f cs t3 cache).part f.num).cores = coreMask cs := by
  unfold makePart
  extract_lets limits within fresh _ s1
  have hmapped : beyondMem (grantRegions (mapT3 (clearCounters s1 f.num) f.num 0 64 0) f.num) = beyondMem (clearCounters s1 f.num) :=
    (beyondMem_grantRegions ..).trans (beyondMem_mapT3 ..)
  have hpart : (clearCounters s1 f.num).part f.num = fresh := tget_tset_same ..
  have hfresh : (grantRegions (mapT3 (clearCounters s1 f.num) f.num 0 64 0) f.num).part f.num = fresh := by
    rw [State.part, parts_of_beyondMem hmapped]
    exact hpart
  rw [hfresh]
  exact ⟨(hostMark_of_beyondMem hmapped).trans rfl, rfl, rfl⟩

theorem hostMark_createForm (s : State) (f : PartForm) : hostMark (createForm s f) = hostMark s := by
  unfold createForm
  split
  · split
    · rfl
    · exact (makePart_leaves ..).1
  · rfl

/-- Without a partition in the configuration, partition 0 is created with every core (R432). -/
theorem makeConfigured_leaves (s : State) : hostMark (makeConfigured s) = hostMark s ∧
    (configForms s = [] → ((makeConfigured s).part 0).state = .ready ∧ ((makeConfigured s).part 0).cores = coreMask (List.range s.ncores)) := by
  unfold makeConfigured
  split
  · extract_lets f
    split
    · obtain ⟨hmark, hready, hcores⟩ := makePart_leaves s f (List.range s.ncores) ‹_ × _›.1 ‹_ × _›.2
      exact ⟨hmark, fun _ => ⟨hready, hcores⟩⟩
    · obtain ⟨hmark, hready, hcores⟩ := makePart_leaves s f (List.range s.ncores) [] []
      exact ⟨hmark, fun _ => ⟨hready, hcores⟩⟩
  · next hforms => exact ⟨view_foldl hostMark hostMark_createForm _ _, fun h => absurd h hforms⟩

/-! ### Set blobs loaded (R486, R541) -/

/-- What the load of set blobs leaves: the time, the step, the configuration, Sprout and the number of cores. -/
def loadMark (s : State) : W64 × Nat × List Byte × Sprout × Nat := (s.ts, s.rennet.step, s.rennet.config, s.spr, s.ncores)

theorem loadMark_loadSet (s : State) (i : Nat) : loadMark (loadSet s i) = loadMark s := by
  unfold loadSet
  dsimp only
  split
  · rfl
  · split <;> rfl

theorem loadMark_loadSets (s : State) : loadMark (loadSets s) = loadMark s := by
  unfold loadSets
  split
  · exact view_foldl loadMark loadMark_loadSet _ _
  · rfl

/-! ### The standing program (R332) -/

/-- A standing program started leaves the state of power and the accesses held, and beside Sprout changes nothing. -/
theorem applyStanding_frame (s : State) : ∃ q : Sprout, applyStanding s = { s with spr := q } ∧ q.pstate = s.spr.pstate ∧ q.heldHost = s.spr.heldHost := by
  unfold applyStanding
  split
  · unfold startStanding
    split
    · exact ⟨s.spr, rfl, rfl, rfl⟩
    · rw [setWatch_true]
      exact ⟨_, rfl, rfl, rfl⟩
  · exact ⟨s.spr, rfl, rfl, rfl⟩

/-! ### HOST_READY (R432, R460) -/

/-- The state in which a unit enters A at host-ready. -/
def enteredA (s : State) : State := { s with rennet.step := 15, spr.pstate := .a, spr.startedAt := s.ts, spr.idleSince := s.ts, spr.everAttached := false }

/-- What host-ready comes to: A, the flash ready, and the partitions that the configuration gives. -/
theorem hostReady_leaves {s : State} (hstep : s.rennet.step = 14) (hboot : s.rennet.boot = .verified ∨ s.rennet.boot = .degraded) (hwake : s.rennet.wake = false)
    (hdue : s.rennet.refTs.toNat + 40000000 ≤ s.ts.toNat) (hctl : s.crp.ctl.on = true) (hnet : s.crp.net.on = true) (hheld : s.spr.heldHost = []) :
    (hostReady s).rennet.step = 15 ∧ (hostReady s).spr.pstate = .a ∧ (hostReady s).press.ready = true ∧ (hostReady s).ts = s.ts ∧
      (configForms s = [] → ((hostReady s).part 0).state = .ready ∧ ((hostReady s).part 0).cores = coreMask (List.range s.ncores)) := by
  have hgo : ¬(s.rennet.step ≠ 14 ∨ fromS s = true ∨ (s.rennet.boot ≠ .verified ∧ s.rennet.boot ≠ .degraded) ∨ s.ts.toNat < s.rennet.refTs.toNat + 40000000
      ∨ (!s.crp.ctl.on) = true ∨ (!s.crp.net.on) = true) := by
    rw [fromS, hstep, hwake, hctl, hnet]
    rcases hboot with hboot | hboot <;> rw [hboot] <;> simpa using hdue
  have hready : hostReady s = serveHeld (applyStanding (restartIdle (pressReady (makeConfigured (loadSets (enteredA s)))))) := if_neg hgo
  have hload : loadMark (loadSets (enteredA s)) = loadMark (enteredA s) := loadMark_loadSets ..
  simp only [loadMark, Prod.mk.injEq] at hload
  obtain ⟨hts, hst, hconfig, hspr, hncores⟩ := hload
  generalize loadSets (enteredA s) = u at hready hts hst hconfig hspr hncores
  obtain ⟨hmark, hparts⟩ := makeConfigured_leaves u
  obtain ⟨hpress, hset⟩ := pressReady_leaves (makeConfigured u)
  have hmark2 := (hostMark_of_beyondMem hpress).trans hmark
  have hparts2 := parts_of_beyondMem hpress
  generalize pressReady (makeConfigured u) = v at hready hset hmark2 hparts2
  obtain ⟨q, hstanding, hpstate, hq⟩ := applyStanding_frame (restartIdle v)
  simp only [hostMark, Prod.mk.injEq] at hmark2
  obtain ⟨hvts, hvrennet, hvspr⟩ := hmark2
  have hnone : q.heldHost = [] := by
    rw [hq]
    change v.spr.heldHost = []
    rw [hvspr, hspr]
    exact hheld
  rw [hstanding, serveHeld_of_none hnone] at hready
  rw [hready]
  refine ⟨?_, ?_, hset, hvts.trans hts, fun hforms => ?_⟩
  · exact (congrArg Rennet.step hvrennet).trans hst
  · rw [show q.pstate = v.spr.pstate from hpstate, hvspr, hspr]
    rfl
  · have hformsu : configForms u = [] := by
      rw [configForms, records, hconfig]
      exact hforms
    obtain ⟨hstate, hcores⟩ := hparts hformsu
    have hpart : v.part 0 = (makeConfigured u).part 0 := by rw [State.part, State.part, hparts2]
    rw [← hpart] at hstate hcores
    rw [show u.ncores = s.ncores from hncores] at hcores
    exact ⟨hstate, hcores⟩

section
variable {s : State} {now : W64} (hnow : s.ts.toNat ≤ now.toNat)
include hnow

theorem hostReady_waits (h : s.rennet.step ≠ 14 ∨ now.toNat < s.rennet.refTs.toNat + 40000000) : exec (.hostReady now) s = .next { s with ts := now } := by
  have hwait : hostReady { s with ts := now } = { s with ts := now } := if_pos (h.imp_right fun hearly => .inr (.inr (.inl hearly)))
  change execHostReady now s = _
  exact endsAt_of_eq hnow hwait

theorem hostReady_ends (hstep : s.rennet.step = 14) (hboot : s.rennet.boot = .verified ∨ s.rennet.boot = .degraded) (hwake : s.rennet.wake = false)
    (hdue : s.rennet.refTs.toNat + 40000000 ≤ now.toNat) (hctl : s.crp.ctl.on = true) (hnet : s.crp.net.on = true) (hheld : s.spr.heldHost = []) :
    ∃ t, exec (.hostReady now) s = .next t ∧ t.rennet.step = 15 ∧ t.spr.pstate = .a ∧ t.press.ready = true ∧ t.ts = now ∧
      (configForms s = [] → (t.part 0).state = .ready ∧ (t.part 0).cores = coreMask (List.range s.ncores)) := by
  refine ⟨kept s (hostReady { s with ts := now }), ?_, hostReady_leaves (s := { s with ts := now }) hstep hboot hwake hdue hctl hnet hheld⟩
  change execHostReady now s = _
  exact endsAt_of_eq hnow rfl

end

/-! ### The statement -/

theorem rennetStartup_done {s : State} {i : StartInputs} (h : s.rennet.step ≠ 0 ∨ s.rennet.stopped = true) : exec (.rennetStartup i) s = .next s :=
  ends_of_eq (if_pos h) rfl rfl

/-- Settles O53: each of the three begins only in its own step and at its own time, and what follows it keeps what the statement names. -/
theorem startUpAndHandOver : Obligations.StartUpAndHandOver := by
  intro s
  refine ⟨fun _ => rennetStartup_done, fun _ => rennetStartup_ends, fun now hnow => ⟨handover_waits hnow, ?_, hostReady_waits hnow, ?_⟩⟩
  · intro hstep hboot hwake hdue
    exact handover_ends hnow hstep hboot hwake hdue
  · intro hstep hboot hwake hdue hctl hnet hheld
    exact hostReady_ends hnow hstep hboot hwake hdue hctl hnet hheld

end Sys2Proof.Machine
end
